-- ==== Sys2Proof/Word.lean ====
section
/-! DEFINITION. Words: the bit-vector types the manual treats as bits. A register is 32 bits (R371, R378), a line is
128 bytes (R7), a flit is 272 bytes (R220), a batch of descriptors is 512 bytes (R51). -/

namespace Sys2Proof

/-- One byte, the smallest addressable unit of every memory (R6, R7). -/
abbrev Byte := BitVec 8

/-- A register of the MMIO window (R378). -/
abbrev W32 := BitVec 32

/-- A word of a descriptor, a table entry or a Zoetrope entry (R54, R244, R346). -/
abbrev W64 := BitVec 64

/-- A line of 128 B (R7); byte `j` is bits `8j` to `8j+7`. -/
abbrev LineData := BitVec 1024

/-- Write enables of a line, bit `j` for byte `j` (Table 09-2). -/
abbrev LineEn := BitVec 128

/-- A flit: 8 B header, 16 slots of 16 B, 8 B CRC (R220); byte `j` is bits `8j` to `8j+7`. -/
abbrev FlitData := BitVec 2176

/-- A slot of a flit (R220). -/
abbrev Slot := BitVec 128

/-- A descriptor of 64 B (R50). -/
abbrev DescData := BitVec 512

/-- A fetched block of eight descriptors (R51). -/
abbrev BatchData := BitVec 4096

end Sys2Proof
end

