-- ==== Sys2Proof/Syntax.lean ====
section
/-! DEFINITION. The commands of the block: one constructor of `Instr` per row of spec/opcode_table.json, with the row's
operands. A register-write command carries the world of its request (`ns`, Table 09-2) and the 32-bit value written; an
event command carries what the outside world contributes to it (data that arrives, a sensor reading, which port). -/

namespace Sys2Proof

/-- A channel, 0 to 511 (R47). -/
abbrev Ch := Fin 512
/-- A context, 0 to 63 (R47). -/
abbrev Cx := Fin 64
/-- A mover, named by its lowest lane (R14). -/
abbrev Mv := Fin 32
/-- A link port L0 to L7 or a memory port M0 to M7. -/
abbrev Port := Fin 8
/-- A core port C0 to C15. -/
abbrev CPort := Fin 16
/-- An island, 0x00 to 0x40 (R12). -/
abbrev Isl := Fin 65
/-- A switched power domain PD00 to PD63. -/
abbrev Dom := Fin 64

/-- A response other than OKAY (Table 09-3). -/
inductive ErrResp where
  | poison | error | world
  deriving DecidableEq, Repr

/-- How a line of a read ends without its data. -/
inductive RdErr where
  | poison | error | world | timeout
  deriving DecidableEq, Repr

/-- The answers to a read that precedes tiles (shape record, list, program, index line) or to a mailbox source read, of the lines that a
memory port or a core answers (R62, R75, R207): the bytes from the read's address on, and the lines that fail, by their places from the
line of that address on, in the order in which their answers come. Stage memory and other chips answer for themselves. -/
structure RecAns where
  bytes : List Byte
  fails : List (RdErr × Nat) := []
  deriving DecidableEq, Repr

/-- The answers to the fetch of a 512 B batch (R51, R75): its data, data with an uncorrectable error (`corrupt`), or the lines that fail, by
their places, in the order in which their answers come. -/
inductive BatchAns where
  | okay (d : BatchData)
  | corrupt
  | fails (e : RdErr) (line : Fin 4) (more : List (RdErr × Fin 4))
  deriving DecidableEq, Repr

/-- The answer to a walk read of one table entry (R247). -/
inductive WalkAns where
  | okay (e : W64)
  | poison | error | world
  deriving DecidableEq, Repr

/-- What a memory port or a core answers to a WAIT VALUE's read (R66): the value, or the parts that fail, by their places where it crosses a
line (R268), in the order in which their answers come. Stage memory and other chips answer for themselves. -/
inductive PollAns where
  | okay (v : W64)
  | fails (e : RdErr) (part : Fin 2) (more : List (RdErr × Fin 2))
  deriving DecidableEq, Repr

/-- The response to a local SIGNAL WRITE or ADD (R65). -/
inductive SigAns where
  | okay | poison | error | world | timeout
  deriving DecidableEq, Repr

/-- What the SECDED code of a buffer or a bank finds in the words a step reads (R124, R155, R192, R239). -/
inductive Ecc where
  | clean | corrected | uncorrectable
  deriving DecidableEq, Repr

/-- What the decoder says of the codewords that a received flit overlaps, one or two: whether one of them was flagged uncorrectable,
and of those that no flit before it overlapped how many were flagged and how many corrected (R219, R225, R241). -/
structure FlitFec where
  flagged : Bool
  uncorr : Fin 3
  corr : Fin 3
  deriving DecidableEq, Repr

/-- What comes with a received flit beside its bits: the decoder's findings, and what the code of the replay buffer finds if the flit makes the port resend (R225, R239). -/
structure FlitRx extends FlitFec where
  rep : Ecc
  deriving DecidableEq, Repr

/-- A SYNC or IDENT flit as it is received. -/
structure FlitIn where
  flit : FlitData
  rx : FlitRx
  deriving DecidableEq, Repr

/-- A T-cycle of one side of a mover (R20): the mover, and a channel whose next line finds a parity error in its translation set (R250). -/
structure IssueCycle where
  mover : Mv
  par : Option Ch
  deriving DecidableEq, Repr

/-- A fabric response at a memory port: the port and the request's ID (R204). -/
structure FabRsp where
  port : Port
  id : BitVec 16
  deriving DecidableEq, Repr

/-- The end of a pool's migration in a bank group: the pool, and what the code finds in the rows it has read (R191, R192). -/
structure MigrEnd where
  pool : Fin 32
  bank : Ecc
  deriving DecidableEq, Repr

/-- What a window of 2^22 codewords has shown: corrected symbols, and codewords corrected (R229, R241). -/
structure SerWindow where
  syms : W32
  cws : BitVec 23
  deriving DecidableEq, Repr

/-- What the code of a receive buffer finds in a packet (R239): in its data slots or in its header slot. -/
inductive RxEcc where
  | clean | corrected | data | header
  deriving DecidableEq, Repr

/-- The four protected registers of a channel block (R48). -/
inductive ChReg where
  | headLo | headHi | cqLo | cqHi
  deriving DecidableEq, Repr

/-- The pending registers of the interrupt page (Table 09-8). -/
inductive PendReg where
  | ch (k : Fin 16) | ctxLo | ctxHi | src
  deriving DecidableEq, Repr

/-- The registers of a context translation block (Table 11-7). -/
inductive XlReg where
  | rootLo | rootHi | asid
  deriving DecidableEq, Repr

/-- The configuration registers of a ring block (Table 07-2). -/
inductive RingReg where
  | cfg | bind | slot | align
  deriving DecidableEq, Repr

/-- The three tag pools (R23). -/
inductive Pool where
  | rd | wr | rm
  deriving DecidableEq, Repr

/-- An arbiter (Table 08-1). -/
inductive Arb where
  | bank (b : Fin 128) | mem (m : Port) | core (c : CPort) | link (p : Port)
  deriving DecidableEq, Repr

/-- A switched rail with a power-good input (R316). -/
inductive Rail where
  | t | m | l
  deriving DecidableEq, Repr

/-- What holds a cold reset (R355). -/
inductive ColdCause where
  | porst | pgoodA
  deriving DecidableEq, Repr

/-- A request beat of the fabric protocol (Table 09-2). -/
structure FabReq where
  op : BitVec 3
  addr : BitVec 52
  size : BitVec 2
  id : BitVec 16
  ns : Bool
  vol : Bool
  scope : BitVec 2
  data : LineData
  be : LineEn
  deriving DecidableEq, Repr

/-- One event of a fault source with its details (R328, Table 16-1) and the island that raised it (R346). -/
structure FaultEv where
  src : Fin 256
  a : W64
  b : W32
  island : Isl
  deriving DecidableEq, Repr

/-- The straps and tie-offs that the end of cold reset samples (R355). -/
structure Straps where
  gbase : BitVec 22
  sbaddr : BitVec 7
  sben : Bool
  licensed : Bool
  deriving DecidableEq, Repr

/-- The block's commands, in the order of spec/opcode_table.json. -/
inductive Instr where
  -- image and boot
  | imageLoad (ns : Bool) (v : W32)
  | imageLock (img : List Byte)
  | imageLoadFail (img : Option (List Byte))
  | fwload (ns : Bool) (v : W32)
  | firmwareLoadDone (img : Option (List Byte))
  | autoloadReload
  | park (ns : Bool) (v : W32)
  -- channels
  | doorbell (c : Ch) (ns : Bool) (v : W32)
  | haltClear (c : Ch) (ns : Bool) (v : W32)
  | cqHeadWrite (c : Ch) (ns : Bool) (v : W32)
  | channelRegWrite (c : Ch) (r : ChReg) (ns : Bool) (v : W32)
  | descriptorFetchDone (c : Ch) (a : BatchAns)
  | descriptorDecode (c : Ch)
  -- descriptors
  | nop (c : Ch)
  | move (c : Ch)
  | tensor (c : Ch) (shape : RecAns) (index : RecAns)
  | gather (c : Ch) (slist : RecAns) (dlist : RecAns)
  | whirl (c : Ch) (prog : RecAns)
  -- Whirligig
  | whHalt (c : Ch)
  | whMovi (c : Ch)
  | whAdd (c : Ch)
  | whAddi (c : Ch)
  | whSub (c : Ch)
  | whMuli (c : Ch)
  | whAnd (c : Ch)
  | whOr (c : Ch)
  | whXor (c : Ch)
  | whShli (c : Ch)
  | whShri (c : Ch)
  | whSari (c : Ch)
  | whBrev (c : Ch)
  | whDrev (c : Ch)
  | whEmit (c : Ch)
  | whDjnz (c : Ch)
  | whBlt (c : Ch)
  | whBne (c : Ch)
  | whJmp (c : Ch)
  | whirlQuietStop (c : Ch)
  -- control descriptors
  | signalWrite (c : Ch)
  | signalAdd (c : Ch)
  | signalResponse (c : Ch) (a : SigAns)
  | arrive (c : Ch)
  | push (c : Ch)
  | produce (c : Ch)
  | release (c : Ch)
  | signalDoorbell (c : Ch)
  | waitBarrier (c : Ch)
  | waitValue (c : Ch)
  | waitValuePoll (c : Ch) (a : PollAns)
  | pop (c : Ch)
  | filled (c : Ch)
  | free (c : Ch)
  | waitTimeout (c : Ch)
  | drain (c : Ch)
  | depChannel (c : Ch)
  | depBarrier (c : Ch)
  | fenceRelease (c : Ch)
  | fenceAcquire (c : Ch)
  | fenceFull (c : Ch)
  | rearm (c : Ch)
  | rearmStop (c : Ch)
  | mailbox (c : Ch) (words : RecAns)
  | prefetch (c : Ch)
  | evict (c : Ch)
  | warm (c : Ch)
  | cold (c : Ch)
  -- the data path
  | tilePrewalk (c : Ch)
  | walkReadResponse (w : Nat) (a : WalkAns)
  | walkReadTimeout (w : Nat)
  | faultRecordWrite (w : Nat)
  | faultRecordAck (seq : BitVec 16)
  | readIssue (t : IssueCycle)
  | writeIssue (t : IssueCycle)
  | readDataLand (line : Nat) (d : LineData) (ecc : Ecc)
  | outputLineEmit (c : Ch) (k : Nat) (ecc : Ecc)
  | mordantCast (c : Ch) (k : Nat) (ecc : Ecc)
  | writeAcknowledge (line : Nat)
  | heldWriteIssue (c : Ch)
  | fabricErrorResponse (line : Nat) (r : ErrResp)
  | lateResponse (r : FabRsp)
  | lineTimeout (line : Nat)
  | descriptorComplete (c : Ch)
  | completionRecordError (c : Ch) (r : ErrResp)
  | irqPendClear (r : PendReg) (ns : Bool) (v : W32)
  -- contexts
  | suspend (c : Cx) (ns : Bool) (v : W32)
  | contextOut (c : Cx)
  | resume (c : Cx) (ns : Bool) (v : W32)
  | abort (c : Cx) (ns : Bool) (v : W32)
  | kill (c : Cx) (ns : Bool) (v : W32)
  -- translation
  | rootAsidWrite (c : Cx) (r : XlReg) (ns : Bool) (v : W32)
  | fqLoWrite (hi : Bool) (ns : Bool) (v : W32)
  | fqEnable (ns : Bool) (v : W32)
  | fqHeadWrite (ns : Bool) (v : W32)
  | invalidate (ns : Bool) (v : W32)
  | invalidateDone
  | adone (ns : Bool) (v : W32)
  | windowEntryWrite (w : Fin 256) (size : Bool) (ns : Bool) (v : W32)
  | xlClrcnt (h : Fin 2) (ns : Bool) (v : W32)
  -- rings and handle queues
  | ringRegProduce (r : Fin 1024) (ns : Bool) (v : W32)
  | ringRegRelease (r : Fin 1024) (ns : Bool) (v : W32)
  | ringReset (r : Fin 1024) (ns : Bool) (v : W32)
  | ringCfgWrite (r : Fin 1024) (reg : RingReg) (ns : Bool) (v : W32)
  | boundRunReserve (c : Ch)
  | hqRegPush (q : Fin 256) (ns : Bool) (v : W32)
  | hqRegPop (q : Fin 256) (ns : Bool)
  | hqReset (q : Fin 256) (ns : Bool) (v : W32)
  -- echo cache, relay chains, counters
  | echoFlush (ns : Bool) (v : W32)
  | echoFlushDone
  | relayEnable (n : Fin 16) (ns : Bool) (v : W32)
  | relayForward (line : Nat)
  | tagHwmRead (p : Pool) (ns : Bool)
  | kqLandRead (q : Fin 4) (ns : Bool)
  | kqClrcnt (q : Fin 4) (ns : Bool) (v : W32)
  | mdClrcnt (u : Fin 8) (ns : Bool) (v : W32)
  | reseed (u : Fin 8) (ns : Bool) (v : W32)
  | bgClrcnt (g : Fin 16) (ns : Bool) (v : W32)
  | mpClr (m : Port) (ns : Bool) (v : W32)
  -- stage memory
  | placementWindowEnd (g : Fin 16) (p : Fin 32) (cnt : Vector Nat 8)
  | poolDisarm (p : Fin 32) (ns : Bool) (v : W32)
  | saltMigrationDone (g : Fin 16) (e : MigrEnd)
  | scrubRow (g : Fin 16) (ecc : Ecc)
  | grantWatchdogBite (a : Arb) (input : BitVec 6) (line : Option Nat)
  | stageInboundRequest (m : Port) (r : FabReq) (bank : Ecc)
  | coreInboundRequest (n : CPort) (r : FabReq) (bank : Ecc)
  | coreReadyChange (n : CPort) (level : Bool)
  | activationPositionFree (n : CPort) (p : BitVec 13)
  | mmioBadRequest (r : FabReq)
  | registerWrite (off : BitVec 20) (ns : Bool) (v : W32)
  -- links
  | linkPresenceChange (p : Port) (high : Bool)
  | linkDisable (p : Port) (ns : Bool) (v : W32)
  | linkRetrain (p : Port) (ns : Bool) (v : W32)
  | linkClrcnt (p : Port) (ns : Bool) (v : W32)
  | linkStateTimerExpire (p : Port)
  | linkSignalDetect (p : Port)
  | trainingFrame (p : Port) (lane : Fin 8) (f : W64)
  | sync (p : Port) (x : FlitIn)
  | lockAlignmentHeld (p : Port)
  | ident (p : Port) (x : FlitIn)
  | confirm (p : Port) (f : FlitData) (rx : FlitRx)
  | eqreq (p : Port) (f : FlitData) (rx : FlitRx)
  | dataFlitReceived (p : Port) (f : FlitData) (fec : FlitFec) (rep : Ecc)
  | nackRepeat (p : Port)
  | electricalIdleDetect (p : Port)
  | serWindowEnd (p : Port) (w : SerWindow)
  | packetForward (p : Port) (ecc : RxEcc)
  | rdreq (p : Port) (ecc : RxEcc) (bank : Ecc)
  | wrreq (p : Port) (ecc : RxEcc)
  | wrpart (p : Port) (ecc : RxEcc)
  | add32 (p : Port) (ecc : RxEcc) (bank : Ecc)
  | add64 (p : Port) (ecc : RxEcc) (bank : Ecc)
  | rdrsp (p : Port) (ecc : RxEcc)
  | wrack (p : Port) (ecc : RxEcc)
  | addrsp (p : Port) (ecc : RxEcc)
  | errrsp (p : Port) (ecc : RxEcc)
  -- barriers
  | barrArrive (p : Port) (ecc : RxEcc)
  | barrAck (p : Port) (ecc : RxEcc)
  | arriveAckTimeout (c : Ch)
  | releaseApply (p : Port) (ecc : RxEcc)
  | abandon (p : Port) (ecc : RxEcc)
  | poison (p : Port) (ecc : RxEcc)
  | hostArrive (ns : Bool) (v : W32)
  | hostArriveTimeout
  | init (ns : Bool) (v : W32)
  | barCfgWrite (ns : Bool) (v : W32)
  | barMapWrite (c : Cx) (ns : Bool) (v : W32)
  -- mailboxes
  | mbWordWrite (m : Fin 32) (k : Fin 16) (ns : Bool) (v : W32)
  | clear (m : Fin 32) (ns : Bool) (v : W32)
  | mbLenWrite (m : Fin 32) (ns : Bool) (v : W32)
  | go (m : Fin 32) (ns : Bool) (v : W32)
  | syncDump (ns : Bool) (v : W32)
  | syncDumpDone
  -- clocks and power
  | adaptiveWindowEnd (d : Isl) (u : Fin 101)
  | vddtSettleExpire
  | freqStep (d : Isl)
  | vddtLowerExpire
  | delayMarginNegative (d : Isl) (edges : BitVec 16)
  | thermalLimit (sensor : Fin 16) (temp : Byte)
  | domainIdleExpire (d : Dom)
  | domainGated (d : Dom)
  | wakeRequest (d : Dom)
  | wakeComplete (d : Dom)
  | islLimWrite (d : Isl) (ns : Bool) (v : W32)
  | islPolicyWrite (d : Isl) (ns : Bool) (v : W32)
  -- rails and reset
  | pgoodFall (r : Rail)
  | railWaitEnd
  | coldReset (c : ColdCause)
  | coldResetEnd (st : Straps)
  | blockResetDone (keyhash : BitVec 384) (minsvn : Byte)
  | wakeN
  -- collector
  | faultEvent (evs : List FaultEv)
  | faultWindowClose (src : Fin 256)
  | collectorParityError (off : BitVec 12)
  | escalationExpire
  | automaticExit
  | ack (ns : Bool) (v : W32)
  | exit (ns : Bool) (v : W32)
  | clrall (ns : Bool) (v : W32)
  | sevClear (k : Fin 8) (ns : Bool) (v : W32)
  | fsCfgWrite (src : Fin 256) (ns : Bool) (v : W32)
  | blkrst (ns : Bool) (v : W32)
  | reinit (ns : Bool) (v : W32)
  | reinitDone
  | reinitTimeout
  | freeze (ns : Bool) (v : W32)
  | thaw (ns : Bool) (v : W32)
  | ztWord7Read (ns : Bool) (ecc : Ecc)
  | wnClr (ns : Bool) (v : W32)
  -- sideband and test access port
  | sidebandOffsetWrite (hi lo : Byte)
  | sidebandRead (ecc : Ecc)
  | sidebandIdxWrite (data : Vector Byte 4)
  | sidebandWord7Read (ecc : Ecc)
  | testLogicReset
  | extest (shift : BitVec 22)
  | idcode
  | samplePreload (shift : BitVec 22)
  | clamp
  | highz
  | bypass (opcode : Byte)
  -- late rows
  | completionRecordAck (c : Ch)
  | pgoodRise (r : Rail)
  | idleFlitReceived (p : Port) (f : FlitData) (rx : FlitRx)
  | tempFall (temp : Byte)
  | marginReturn (d : Isl)
  | contextRestored (c : Cx) (area : List Byte)
  deriving DecidableEq, Repr

end Sys2Proof
end

