-- ==== Sys2Proof/Config.lean ====
section
/-! DEFINITION. What the manual leaves open, as constants without a body: nothing can evaluate them or prove a value of
them, so a statement about them holds for every value. They are applied to the model's counter of free values
(`State.fresh`, a plain field) or to the operands they depend on. Log entries 5 to 9 and 17. -/

namespace Sys2Proof.Config

/-- A choice among outcomes the manual lists and does not order: the winner of aliasing writes (R26, R98), the next addend
of an accumulation (R149), the reason reported among several failing checks (Table 03-19). Used modulo the number of
outcomes. -/
opaque pick : Nat → Nat

/-- The 16-bit draw of stochastic rounding from a unit's generator (R139). -/
opaque srDraw : BitVec 64 → Nat → BitVec 16

/-- The generator's next value (R139: a compatible part may use any generator). -/
opaque genNext : BitVec 64 → BitVec 64

/-- Whether the code of a bank finds a correctable error in the words that a partial write merges, a poll or a record read (R192). -/
opaque softErr : Nat → Bool

/-- Which of its quadrant's Mordant units a line passes, by channel, landing group and place (R114, R156): which lane of the quadrant carries
a line is open. -/
opaque mdUnit : Nat → Nat → Nat → Nat

/-- The next 12-bit salt of a pool (R188, R189: any salt sequence). -/
opaque salt : Nat → BitVec 12

/-- The cycle stamp of an island other than AON (R346): no clock but ACLK is counted by the model. -/
opaque cycles : Nat → BitVec 64

/-- The island voltage in mV that an island's delay monitors ask for at a frequency in MHz and a temperature in °C (R308, Table 14-3: a
property of the silicon and its temperature). -/
opaque vi : Nat → Nat → Nat → BitVec 10

/-- The level at which the integrator's tie-off holds an interrupt line while it is isolated (R216, R363: free). -/
opaque isoIrq : Nat → Bool

/-- The bytes of a save area whose layout the manual does not give (R78): which area, which byte. -/
opaque saveByte : Nat → Nat → BitVec 8

/-- The bits of a partly covered last destination byte (R88 and R85 state no value for them). -/
opaque restBits : Nat → BitVec 8

/-- What RESULT and DETAIL-less values the manual leaves unstated read as (for instance an unstated ERR_WORD). -/
opaque unstated : Nat → BitVec 64

end Sys2Proof.Config
end

