-- ==== Sys2Proof/Machine/State.lean ====
section
/-! DEFINITION. The state of the block as plain data (INVENTORY.md, State, lists every piece with its rule), the reasons a
step can stop, and the state right after reset. A replicated block (channels, rings, objects, islands) is a sparse table:
a list of (index, record) with strictly rising indexes and no record equal to the block's reset record. -/

namespace Sys2Proof.Machine

/-- A sparse table. `Machine/Ops.lean` holds its reads and writes. -/
abbrev Tbl (α : Type) := List (Nat × α)

/-- Reasons the block stops with a fault: none. The block has no exception entry; every error of the manual is a
completion code, a fault-source event or a state of the collector. -/
inductive Fault where
  /-- Raised by nobody: kept because the interface asks for a type of faults. Safe. -/
  | unused
  deriving DecidableEq, Repr

/-- Reasons a command has no meaning. -/
inductive Refusal where
  /-- A row of the table without a meaning. Raised by no command of this model. Safe. -/
  | notModelled (mnemonic : String)
  /-- The command is not well formed (`Instr.wf` is false): it spells no row of the table: a fault event of a
  reserved source, or a BYPASS whose opcode is that of another row. Raised by those two meanings alone. Safe. -/
  | illFormed
  deriving DecidableEq, Repr

/-! ### The locked image (Tables 02-1 to 02-13) -/

/-- A MOVERS entry (R14). -/
structure MoverCfg where
  low : Nat
  log2w : Nat
  cast : Bool
  deriving DecidableEq, Repr

/-- A CHANNELS entry (R47). -/
structure ChanCfg where
  valid : Bool := false
  mover : Nat := 0
  ns : Bool := false
  ctx : Nat := 0
  deriving DecidableEq, Repr

/-- A POOLS entry (R185, R186). -/
structure PoolCfg where
  base : Nat
  size : Nat
  bgmask : BitVec 16
  echo : Bool
  ns : Bool
  deriving DecidableEq, Repr

/-- A MAILBOXES entry (R36). -/
structure MbCfg where
  kind : Nat := 0
  target : Nat := 0
  deriving DecidableEq, Repr

/-- The Marionette image (R33 to R41). -/
structure Image where
  chip : Nat := 0
  svn : Nat := 0
  cfgTag : BitVec 64 := 1
  bridgeTag : BitVec 64 := 0
  ext : Vector Nat 4 := #v[1, 1, 1, 1]
  windows : Nat := 1
  fanout : Nat := 2
  linkrev : Nat := 1
  clusterId : BitVec 32 := 0
  generation : BitVec 32 := 0
  cPresent : BitVec 16 := 0
  mPresent : BitVec 8 := 1
  lPresent : BitVec 8 := 0
  lcode : Vector Nat 8 := #v[0, 0, 0, 0, 0, 0, 0, 0]
  movers : List MoverCfg := []
  chans : Tbl ChanCfg := []
  landing : List (Nat × Nat) := []
  rdK : Nat := 32
  wrK : Nat := 16
  rmK : Nat := 32
  bwRd : Nat := 24
  bwWr : Nat := 24
  bwRm : Nat := 16
  pools : List PoolCfg := []
  pdSecure : BitVec 64 := 0
  bgSecure : BitVec 16 := 0
  mbSecure : BitVec 32 := 0
  barSecure : BitVec 64 := 0
  winSecure : BitVec 256 := 0
  mbs : Tbl MbCfg := []
  deriving DecidableEq, Repr

/-! ### Global page, boot, pins -/

/-- Which reset holds the block (R353, R355, R356). -/
inductive BlkPhase where
  | cold | railWait | resetting | running
  deriving DecidableEq, Repr

/-- MZ_IMG_STATUS.STATE (Table 02-8). -/
inductive ImgSt where
  | none | loading | locked | failed
  deriving DecidableEq, Repr

/-- MZ_BOOT.STATE (Table 17-3). -/
inductive BootSt where
  | wait | loading | running | failed
  deriving DecidableEq, Repr

/-- Image registers and boot registers. `imgLatch` and `fwLatch` are the addresses of the latest loads (R40, R358). `rstBy` is the cause of
the block reset that runs, as LASTRST will show it, or 5 for a BLKRST written in SAFE (R341). -/
structure Boot where
  phase : BlkPhase := .railWait
  straps : Straps := ⟨0, 0, false, false⟩
  coldBy : List ColdCause := []
  keyhash : BitVec 384 := 0
  minsvn : Byte := 0
  imgAddr : BitVec 52 := 0
  imgLatch : BitVec 52 := 0
  fwLatch : BitVec 52 := 0
  imgSt : ImgSt := .none
  imgErr : Nat := 0
  imgErrWord : BitVec 16 := 0
  imgSvn : Byte := 0
  imgHeld : Bool := false
  st : BootSt := .wait
  err : Nat := 0
  fwSvn : Byte := 0
  lastRst : Nat := 0
  pupFw : BitVec 52 := 0
  pupCode : List Byte := []
  pupEntry : Nat := 0
  reloadDue : Bool := false
  rstBy : Nat := 0
  deriving DecidableEq, Repr

/-- Levels of the input pins (Tables 17-3 to 17-5) and RAILARM (R353). -/
structure Pins where
  prsntN : BitVec 8 := 255
  wakeN : Bool := true
  pgT : Bool := false
  pgM : Bool := false
  pgL : Bool := false
  pgA : Bool := true
  porstN : Bool := true
  crdy : BitVec 16 := 0
  railArm : Bool := false
  deriving DecidableEq, Repr

/-! ### Channels and streams -/

/-- Where a byte address leads (R201, R235, Table 09-1). Offsets and addresses are in bytes. -/
inductive Loc where
  | ext (pa : Nat)
  | stage (off : Nat)
  | relay (n off : Nat)
  | core (n off : Nat)
  | hole (pa : Nat)
  | remote (chip win off : Nat)
  deriving DecidableEq, Repr

/-- A leaf of the page tables (Table 11-2). `base` is the physical page address, or OHALF × 32 MiB of a remote leaf. -/
structure Leaf where
  level : Nat
  w : Bool
  echo : Bool
  remote : Bool
  base : Nat
  chip : Nat
  win : Nat
  deriving DecidableEq, Repr

/-- An entry of a stream's translation set: a 32 MiB region and its leaf (R251). -/
structure XEnt where
  region : Nat
  leaf : Leaf
  deriving DecidableEq, Repr

/-- A region that a pre-walk needs: operand (Table 11-4), whether it is written, lowest address reached (R251, R257). -/
structure XReq where
  region : Nat
  opnd : Nat
  write : Bool
  va : Nat
  deriving DecidableEq, Repr

/-- An element pair (04): the source bit address, or none for a pad; the pad element's bits; the destination bit address;
the element offsets of both sides for the scale array (R133); the destination block (R144). -/
structure Pair where
  src : Option Nat
  pad : Nat
  dst : Nat
  so : Int
  dof : Int
  blk : List Int
  deriving DecidableEq, Repr

/-- An element as it left Kaleidoscope: its pair and its bits in the source format (R25). -/
structure Elem where
  pair : Pair
  raw : Nat
  deriving DecidableEq, Repr

/-- What a line request of a group reads: source data, scales, or the destination of an accumulation (R135, R150). -/
inductive RdKind where
  | data | scale | acc
  deriving DecidableEq, Repr

/-- A destination line of a group: its place, its virtual line, the elements it receives, whether it carries scales, whether it is the held
line (R58, R104), and which steps it has passed. -/
structure OutLine where
  loc : Loc
  vl : Nat
  pairs : List Pair
  scale : Bool
  held : Bool
  opnd : Nat
  deriving DecidableEq, Repr

/-- An output line that has left its quadrant and waits for its Mordant unit, with its elements and those of the blocks it
holds parts of (R120, R127, R144). -/
structure Emitted where
  line : OutLine
  elems : List Elem
  block : List Elem
  deriving DecidableEq, Repr

/-- A line ready for write issue. -/
structure Ready where
  line : OutLine
  data : LineData
  be : LineEn
  deriving DecidableEq, Repr

/-- A landing group (R110) and what has become of its lines. -/
structure Group where
  no : Nat
  quad : Nat
  bound : Nat
  reserved : Bool
  toRead : List (Loc × RdKind × Nat)
  landed : List (Loc × RdKind × LineData)
  outs : List OutLine
  emitted : List Emitted
  ready : List Ready
  deriving DecidableEq, Repr

/-- A tile past the start of its pre-walk (R22, R99). `srcs` lists its source lines in the order they are read, SORD for a TENSOR (R99),
and `run` is the number of the run of a program that it comes from (R108). `strad` holds the destination bits of the elements that lie
in two lines and have been formed for one of them (R98: an element is whole); `xgen` and `xasid` are the generation of invalidations and
the ASID under which its set was built (R258). -/
structure Tile where
  no : Nat
  att : Nat
  run : Nat
  pairs : List Pair
  srcs : List Nat
  need : List XReq
  xset : List XEnt
  xgen : Nat
  xasid : BitVec 8
  walked : Bool
  groups : List Group
  bytes : Nat
  wrote : Bool
  strad : List (Nat × Nat)
  deriving DecidableEq, Repr

/-- A dimension entry of a shape record (Table 04-2). -/
structure Dim where
  ext : Nat
  tile : Nat
  padLo : Nat
  padHi : Nat
  sStart : Int
  sStride : Int
  dStride : Int
  sbLo : Int
  sbHi : Int
  dbLo : Int
  dbHi : Int
  deriving DecidableEq, Repr

/-- A shape record (R89). -/
structure Shape where
  dims : List Dim
  sord : List Nat
  dord : List Nat
  idxDim : Nat
  idxSide : Bool
  idxSgn : Bool
  padVal : Nat
  scLen : Nat
  dcLen : Nat
  deriving DecidableEq, Repr

/-- The machine of a Whirligig program (R106, R107). `made` counts the runs it has emitted; those in `runs` wait for their tiles. -/
structure Whirl where
  prog : List W64
  g : Vector W32 8
  pc : Nat
  emits : Nat
  quiet : Nat
  written : Nat
  runs : List (Int × Int × Nat)
  made : Nat
  stopped : Bool
  deriving DecidableEq, Repr

/-- The cursor of a GATHER (R87). -/
structure GCur where
  e : Nat
  si : Nat
  sk : Nat
  di : Nat
  dk : Nat
  carry : List Pair
  deriving DecidableEq, Repr

/-- What a stream waits for (R65 to R70, R164). A WAIT VALUE knows whether its read has been sent; one that crosses a line of stage memory
has, once it has read its first part, that part's bytes (R268). -/
inductive Wait where
  | none
  | signal (line : Nat)
  | ack (obj : Nat)
  | push
  | barrier (obj : Nat) (tag : BitVec 2) (dep : Bool)
  | value (sent : Bool)
  | valueHigh (low : List Byte)
  | pop (popped : Option W32)
  | popWrite (line : Nat)
  | filled (ring : Nat)
  | free (ring : Nat)
  | drain
  | chan
  | fence (scope : Nat)
  | mailbox (words : List W32)
  | advice (w : Nat)
  | warm (next : Nat)
  deriving DecidableEq, Repr

/-- How far a stream has come: decoded and waiting for a slot or its first step, started, or its last action taken with
the code and DETAIL of its completion (R56, Table 03-18). -/
inductive StreamSt where
  | decoded
  | started
  | ending (code detail : Nat)
  | done (code detail : Nat)
  deriving DecidableEq, Repr

/-- A stream: one descriptor in execution (R18). `pre` holds the leaves found for the reads that precede its next tile and for its
control addresses (R251); `idxRaw`, `sRaw` and `dRaw` are what the reads of its index stream and its lists are answered with, or none
while an answer is due (R75, R88), and `gknown` holds the lines of them that have been read, by twice the number of the virtual line,
plus 1 for the destination list (R88, R102); `slotP`, `slotC` the ring, ordinal and slot held on each side (R164). -/
structure Stream where
  addr : Nat
  desc : DescData
  st : StreamSt
  slot : Bool
  stamp : Nat
  src : Nat
  dst : Nat
  index : Nat
  scale : Nat
  shape : Option Shape
  idxRaw : Option RecAns
  sRaw : Option RecAns
  dRaw : Option RecAns
  whirl : Option Whirl
  gcur : GCur
  gknown : List (Nat × List Byte)
  mcur : Nat
  tno : Nat
  gno : Nat
  last : Bool
  tiles : List Tile
  retries : Nat
  spent : Nat
  trans : Nat
  bytes : Nat
  wait : Wait
  pre : List XEnt
  slotP : Option (Nat × Nat × Nat)
  slotC : Option (Nat × Nat × Nat)
  deriving DecidableEq, Repr

/-- Channel states (Table 03-2). -/
inductive ChSt where
  | disabled | idle | running | parked | cqFull | out | halted
  deriving DecidableEq, Repr

/-- A write that ended without a normal acknowledgement after its descriptor completed (R380). -/
structure LateErr where
  gen : Nat
  cls : Nat
  code : Nat
  detail : Nat
  deriving DecidableEq, Repr

/-- A completion record on its way (R71, R216). `held` is the address and the words of one that waits at a migrating pool's gate (R191). -/
structure RecOut where
  code : Nat
  irq : Bool
  halt : Bool
  held : Option (Nat × W64 × W64) := none
  deriving DecidableEq, Repr

/-- A channel (Table 03-1). `st` is never `disabled`: a channel without a valid image entry reads DISABLED (`chState`). `pre` is the
state held before OUT; `pstamp` is the order stamp of the doorbell that set PENDING (R19); `gen` counts the count-back points of R58,
and `tcw` holds the count and the traffic class of the latest remote write (R222); `blocked` is R340's refusal of doorbells;
`fetchTries` of 10, 11 or 12 says that the fetch has failed with ECC, WORLD or TIMEOUT; `fetchDue` is a fetch that has still to leave, for
want of power in its way (R315). -/
structure Chan where
  st : ChSt := .idle
  pre : ChSt := .idle
  head : BitVec 52 := 0
  pending : Bool := false
  lastCode : BitVec 4 := 0
  seq : BitVec 16 := 0
  cqBase : BitVec 40 := 0
  log2n : Nat := 4
  cqHead : BitVec 12 := 0
  tail : BitVec 12 := 0
  phase : Bool := true
  fetched : List (Nat × DescData) := []
  fetching : Option Nat := none
  fetchDue : Option Nat := none
  fetchTries : Nat := 0
  la : Nat := 8
  stamp : Nat := 0
  pstamp : Nat := 0
  gen : Nat := 0
  tcw : Option (Nat × Nat) := none
  late : List LateErr := []
  arrRec : Option (BitVec 10 × BitVec 2) := none
  recOut : Option RecOut := none
  blocked : Bool := false
  stream : Option Stream := none
  deriving DecidableEq, Repr

/-- MZ_CTX_STATUS.STATE (Table 03-20). -/
inductive CtxSt where
  | run | switching | out | resuming
  deriving DecidableEq, Repr

/-- A context (Tables 03-20, 11-7; MZ_BAR_MAP_c of Table 13-6). `lastSeq` is the SEQ of the latest fault record that named it
(R79); `killing` says that KILL waits for its tiles; `restoring` that ABORT reads its save area back for its privileged
objects. -/
structure Ctx where
  st : CtxSt := .run
  cause : Nat := 0
  save : BitVec 40 := 0
  root : BitVec 40 := 0
  en : Bool := false
  asid : BitVec 8 := 0
  own : Bool := true
  count : Nat := 64
  base : Nat := 0
  lastSeq : BitVec 16 := 0
  killing : Bool := false
  restoring : Bool := false
  deriving DecidableEq, Repr

/-! ### Lines, movers, counters of the data path -/

/-- What an outstanding line or request is for. An inbound write of a relay chain is one too, from a memory port and without a tag (R182,
R208). -/
inductive LineKind where
  | read (tile att grp : Nat) (k : RdKind) (opnd : Nat)
  | write (tile att : Nat) (opnd : Nat) (acc : Bool)
  | signal (add : Bool) (wide : Bool)
  | popWrite
  | inbound (port : Nat) (id : Nat)
  deriving DecidableEq, Repr

/-- An outstanding line (R23): its tag pool, its channel and the channel's SEQ when it was issued, its count-back generation (R58), the
generation and the ASID of its translation (R258), what it does with the echo cache (R179: 0 nothing, 1 installs its copy, 2 hits), its
lane, and the relay members that have still to take it (R182). -/
structure Line where
  id : Nat
  pool : Pool
  ch : Nat
  dseq : BitVec 16
  kind : LineKind
  loc : Loc
  ns : Bool
  data : LineData
  be : LineEn
  gen : Nat
  xgen : Nat
  asid : BitVec 8
  echo : Nat
  lane : Nat
  left : List Nat
  deriving DecidableEq, Repr

/-- Places that one side of one lane cluster has used in its present window of 8 T-cycles, `now` of them in its present T-cycle (R184). -/
structure Win8 where
  t : Nat := 0
  now : Nat := 0
  own : Nat := 0
  rm : Nat := 0
  deriving DecidableEq, Repr

/-- A Kaleidoscope quadrant (Table 05-6). -/
structure Kq where
  hwm : Nat := 0
  pass : BitVec 64 := 0
  latch : BitVec 32 := 0
  extra : W32 := 0
  full : W32 := 0
  reswait : W32 := 0
  corr : Nat := 0
  uncorr : Nat := 0
  deriving DecidableEq, Repr

/-- A Mordant unit (Table 06-13). -/
structure Md where
  sat : W32 := 0
  nan : W32 := 0
  blk : W32 := 0
  nanblk : W32 := 0
  acclines : W32 := 0
  corr : Nat := 0
  uncorr : Nat := 0
  seed : BitVec 64 := 1
  gen : BitVec 64 := 1
  reseed : Bool := false
  deriving DecidableEq, Repr

/-- Look-ahead registers of a front-end quarter (Table 07-4). -/
structure Fe where
  fixed : Bool := false
  lamaxb : Nat := 4
  dstall : W32 := 0
  discard : W32 := 0
  deriving DecidableEq, Repr

/-- A relay chain (R181). `sec` is its world, which its last EN gave it (Table 15-2, R321). -/
structure Relay where
  en : Bool := false
  members : BitVec 16 := 0
  sec : Bool := false
  deriving DecidableEq, Repr

/-- Data-path state outside the streams. -/
structure Path where
  slots : Tbl (List Nat) := []
  waitq : List Nat := []
  lines : List Line := []
  nextId : Nat := 0
  hwmRd : Nat := 0
  hwmWr : Nat := 0
  hwmRm : Nat := 0
  winRd : Tbl Win8 := []
  winWr : Tbl Win8 := []
  kq : Tbl Kq := []
  md : Tbl Md := []
  fe : Tbl Fe := []
  relay : Tbl Relay := []
  echo : List (Nat × LineData) := []
  echoDis : Bool := false
  echoFlush : Bool := false
  echoHit : W32 := 0
  echoMiss : W32 := 0
  deriving DecidableEq, Repr

/-! ### Stage memory -/

/-- A bank group (Table 08-2). -/
structure Bg where
  migr : List Nat := []
  conflict : W32 := 0
  corr : Nat := 0
  uncorr : Nat := 0
  scrubDis : Bool := false
  pos : BitVec 12 := 0
  input : BitVec 6 := 0
  bites : Nat := 0
  fence : BitVec 36 := 0
  deriving DecidableEq, Repr

/-- A pool's loop state (Table 08-3, R189). `hits` counts, per group, the windows in a row at THRESH; `old` is the salt before the last
change (R191). -/
structure PoolSt where
  rchan : BitVec 9 := 0
  ren : Bool := false
  aen : Bool := false
  bobj : BitVec 12 := 0
  dis : Bool := false
  thresh : BitVec 16 := 0x0400
  changes : BitVec 16 := 0
  armed : Bool := false
  salt : BitVec 12 := 0
  old : BitVec 12 := 0
  next : BitVec 12 := 0
  hits : Tbl Nat := []
  deriving DecidableEq, Repr

/-- Stage memory (R185, R192): bytes by stage offset, 64-bit words whose code reads uncorrectable, groups, pools, the
fenced inputs of the other arbiters (R197), the order in which the bank, memory-port and core-port arbiters rank their
inputs, the highest first (R195), and the turn hints that each gave at its latest decision, by input (R196). -/
structure Stage where
  mem : List Host.Cell := []
  bad : List Nat := []
  bg : Tbl Bg := []
  pool : Tbl PoolSt := []
  fenceMem : Tbl (BitVec 33) := []
  fenceCore : Tbl (BitVec 33) := []
  fenceLink : Tbl (BitVec 42) := []
  rankBank : Tbl (List Nat) := []
  rankMem : Tbl (List Nat) := []
  rankCore : Tbl (List Nat) := []
  hintBank : Tbl (List (Nat × Nat)) := []
  hintMem : Tbl (List (Nat × Nat)) := []
  hintCore : Tbl (List (Nat × Nat)) := []
  deriving DecidableEq, Repr

/-! ### Sync hub -/

/-- A Carousel ring (R157, Table 07-2). `ordP`, `ordC` are the next reservation ordinals; `resP`, `resC` the slots held,
oldest first, each with whether its run is done; `nextIssue` the ordinals whose run may read next (R166). -/
structure Ring where
  nm1 : Nat := 2
  cwm1 : Nat := 0
  pwm1 : Nat := 0
  cauto : Bool := false
  pauto : Bool := false
  ns : Bool := false
  en : Bool := false
  cchan : Nat := 0
  pchan : Nat := 0
  slotsz : Nat := 0
  pres : Nat := 0
  cres : Nat := 0
  tail : Nat := 0
  head : Nat := 0
  fault : Bool := false
  epoch : BitVec 2 := 0
  fill : Nat := 0
  ccnt : BitVec 16 := 0
  pcnt : BitVec 16 := 0
  aen : Bool := false
  bobj : BitVec 12 := 0
  ordP : Nat := 0
  ordC : Nat := 0
  resP : List (Nat × Bool) := []
  resC : List (Nat × Bool) := []
  issP : Nat := 0
  issC : Nat := 0
  deriving DecidableEq, Repr

/-- A handle queue (Table 07-3). -/
structure Hq where
  en : Bool := false
  ns : Bool := false
  last : W32 := 0
  under : Bool := false
  ovf : Bool := false
  q : List W32 := []
  deriving DecidableEq, Repr

/-- Barrier object states (Table 13-1). -/
inductive BarSt where
  | idle | gather | abandoned | poisoned | saved
  deriving DecidableEq, Repr

/-- A barrier object (R280, Tables 13-6 and 13-8). `home` is none while HOME is the chip's own ID (R280). -/
structure Bar where
  st : BarSt := .idle
  epoch : BitVec 2 := 0
  count : BitVec 14 := 0
  need : BitVec 14 := 0
  home : Option Nat := none
  lo : BitVec 8 := 0
  lenm1 : BitVec 8 := 0
  deriving DecidableEq, Repr

/-- A mailbox (R297). -/
structure Mb where
  words : Vector W32 16 := Vector.replicate 16 0
  len : Nat := 16
  go : Bool := false
  deriving DecidableEq, Repr

/-- The sync hub. -/
structure Hub where
  rings : Tbl Ring := []
  hqs : Tbl Hq := []
  bars : Tbl Bar := []
  mbs : Tbl Mb := []
  barSel : BitVec 12 := 0
  arrRes : Nat := 0
  arrBusy : Bool := false
  arrPm1 : BitVec 14 := 0
  arrObj : BitVec 12 := 0
  dumpAddr : BitVec 40 := 0
  dumpGo : Bool := false
  deriving DecidableEq, Repr

/-! ### Translation -/

/-- A TLB entry (R249). -/
structure TlbEnt where
  half : Nat
  asid : BitVec 8
  page : Nat
  leaf : Leaf
  deriving DecidableEq, Repr

/-- A requester of a walk (R257). -/
structure Req where
  ch : Nat
  opnd : Nat
  write : Bool
  va : Nat
  warm : Bool
  deriving DecidableEq, Repr

/-- Progress of a walk or of an advice record; `due` is a read that waits for its memory port's power. -/
inductive WalkSt where
  | queued | due | reading | holding | writing
  deriving DecidableEq, Repr

/-- A fault or advice record (Table 11-4). -/
structure FRec where
  kind : Nat
  level : Nat
  eaddr : Nat
  entry : W64
  seq : BitVec 16
  reqs : List Req
  mask : BitVec 64
  deriving DecidableEq, Repr

/-- A walk in flight, a miss waiting for a walker, or an advice record (R249, R254, R260). `root` and `en` are the root of its context,
as an address, and its EN as the translation began (R243). -/
structure Walk where
  id : Nat
  half : Nat
  asid : BitVec 8
  ctx : Nat
  va : Nat
  level : Nat
  table : Nat
  root : Nat
  en : Bool
  reqs : List Req
  st : WalkSt
  advice : Bool
  held : Option FRec
  deriving DecidableEq, Repr

/-- Counters of a translation half (Table 11-6). -/
structure Half where
  hit : W32 := 0
  miss : W32 := 0
  walkrd : W32 := 0
  merge : W32 := 0
  faults : W32 := 0
  parity : BitVec 16 := 0
  deriving DecidableEq, Repr

/-- A receiving window (Table 11-8). -/
structure Window where
  valid : Bool := false
  base : BitVec 14 := 0
  size : BitVec 15 := 0
  deriving DecidableEq, Repr

/-- Translation. `adv` lists the advice records written since block reset: SEQ, channel, done; `runAll` and `runAsid` are what the
invalidation that runs names (R258). -/
structure Xl where
  fqBase : BitVec 40 := 0
  fqLog2n : Nat := 4
  fqHead : BitVec 10 := 0
  fqTail : BitVec 10 := 0
  fqEn : Bool := false
  fqPhase : Bool := true
  fseq : BitVec 16 := 0
  invBusy : Bool := false
  invAll : Bool := false
  invAsid : BitVec 8 := 0
  runAll : Bool := false
  runAsid : BitVec 8 := 0
  gen : Nat := 0
  adone : BitVec 16 := 0
  adv : List (BitVec 16 × Nat × Bool) := []
  half : Tbl Half := []
  tlb : List TlbEnt := []
  walks : List Walk := []
  nextWalk : Nat := 0
  wins : Tbl Window := []
  deriving DecidableEq, Repr

/-! ### Ports and interrupts -/

/-- A core port (Table 09-5): activation positions the core has not freed, lines held for them (R213), accesses waiting. -/
structure Cp where
  alen : Nat := 0x2000
  xbase : BitVec 13 := 0
  ybase : BitVec 13 := 0
  plen : Nat := 0x2000
  busy : List Nat := []
  held : List (Nat × Nat) := []
  deriving DecidableEq, Repr

/-- A memory port's error block (Table 09-6). -/
structure Mp where
  addr : BitVec 52 := 0
  late : Nat := 0
  errcnt : Nat := 0
  op : BitVec 3 := 0
  resp : BitVec 2 := 0
  deriving DecidableEq, Repr

/-- A message-signalled interrupt block (Table 09-8). -/
structure Msi where
  addr : BitVec 50 := 0
  data : W32 := 0
  ns : Bool := true
  en : Bool := false
  deriving DecidableEq, Repr

/-- What a request of the block itself is for: a message (R217), a save area (R78), a sync-hub dump (R299), a fault or advice record by
its SEQ (R255), a completion record (R71), part `k` of a WAIT VALUE poll or of a read that precedes tiles (R66, R75), a descriptor fetch
(R51), a table-walk read (R247) or the image (R40, R358). `dead` is one whose answer, when it comes, is discarded: that of a line or read
which has timed out, counted in LATE (R206), or which its owner has given up. -/
inductive OwnKind where
  | msi
  | save (ctx : Nat)
  | dump
  | frec (seq : BitVec 16)
  | record (ch : Nat)
  | poll (ch k : Nat)
  | fetch (ch : Nat)
  | walk (w : Nat)
  | image
  | dead (late : Bool)
  deriving DecidableEq, Repr

/-- A request of the block itself that is outstanding: its number, its port (a memory port; 10 for another chip, 16 + n for core n), OP and
address (R204, R207), and RESP and data of the packet that has answered it, for a read of another chip (R237). -/
structure OwnReq where
  id : Nat
  port : Nat
  op : Nat
  addr : Nat
  kind : OwnKind
  ans : Option (Nat × LineData) := none
  deriving DecidableEq, Repr

/-- An inbound access that a port has accepted and that waits: for its core's MZ_CRDY, a migrating pool's gate or a fenced input (R191,
R197, R211). `bank` is what the bank's codes will find in the words it reads; `taken` says that the port has accepted it, as it does while
MZ_CRDY is high (R211). -/
structure InReq where
  core : Bool
  port : Nat
  req : FabReq
  bank : Ecc
  taken : Bool
  deriving DecidableEq, Repr

/-- Ports and the interrupt page. `own` lists the requests of the block itself that wait for an answer, `inq` the inbound accesses that
wait, oldest first. -/
structure Ports where
  cp : Tbl Cp := []
  mp : Tbl Mp := []
  chPend : BitVec 512 := 0
  chEn : BitVec 512 := 0
  ctxPend : BitVec 64 := 0
  ctxEn : BitVec 64 := 0
  srcPend : BitVec 7 := 0
  srcEn : BitVec 7 := 0
  msi : Tbl Msi := []
  own : List OwnReq := []
  inq : List InReq := []
  deriving DecidableEq, Repr

/-! ### Links -/

/-- Link-port states (Table 10-5). -/
inductive LinkSt where
  | off | detect | wake | eq | lock | ident | active | transit | refused | retrain | down
  deriving DecidableEq, Repr

/-- One lane's training (R231): request numbers acted on, taps in steps, precoding, READY streaks. -/
structure Lane where
  lastRqn : Option Byte := none
  status : Nat := 0
  ackn : Byte := 0
  cm2 : Int := 0
  cm1 : Int := 0
  cp1 : Int := 0
  precoded : Bool := false
  peerReady : Nat := 0
  deriving DecidableEq, Repr

/-- A packet in a receive buffer or in the port's transmitter: its slots, header first. `via` is, in a transmitter, the
arbiter input it waits at (Table 10-4); in a receive buffer 0, or 2 when it arrived over a TRANSIT link, and 1 and 3 for the same without
credit to return: a packet of this chip to itself (R226, R232), or one that the port still holds when its credits start anew. -/
structure Packet where
  slots : List Slot
  via : Nat
  deriving DecidableEq, Repr

/-- A link port (Table 10-8, R220 to R231). `owed` counts the slots drained for which no credit has gone back yet and `crTurn` is the
virtual channel whose turn it is (R223); `hints` are the turn hints of its arbiter's latest decision (R196); `peerConf` is the outcome
of a CONFIRM that came before this side decided (R228); `corrWin` counts the corrected codewords of the present window that flits have
shown (R229, R241). -/
structure Link where
  st : LinkSt := .off
  pre : LinkSt := .off
  reason : Nat := 0
  pcode : Nat := 0
  pchip : Nat := 0
  lanes : Nat := 0
  ptag : BitVec 64 := 0
  pbtag : BitVec 64 := 0
  fixeq : Bool := false
  disable : Bool := false
  uncorr : BitVec 16 := 0
  corrcw : BitVec 16 := 0
  syms : W32 := 0
  thresh : BitVec 16 := 224
  nackrx : Nat := 0
  nacktx : Nat := 0
  retrains : Nat := 0
  downs : Nat := 0
  route : Nat := 0
  pktdrop : Nat := 0
  txSeq : BitVec 12 := 0
  rxSeq : BitVec 12 := 0
  replay : List (BitVec 12 × List Slot) := []
  acked : BitVec 12 := 4095
  nackRun : Nat := 0
  nack : Bool := false
  cred : Vector Nat 8 := Vector.replicate 8 0
  rxPart : List Slot := []
  rxq : List Packet := []
  txq : List Packet := []
  rank : List Nat := List.range 42
  hints : List (Nat × Nat) := []
  starts : Nat := 0
  dlTurn : BitVec 4 := 0
  syncNo : Nat := 0
  syncRun : Nat := 0
  syncTx : Nat := 0
  identLast : Option (BitVec 128 × BitVec 128) := none
  decided : Option LinkSt := none
  peerConf : Option Nat := none
  owed : Vector Nat 8 := Vector.replicate 8 0
  crTurn : Nat := 0
  corrWin : Nat := 0
  lane : Tbl Lane := []
  sub : Nat := 0
  deriving DecidableEq, Repr

/-! ### Clocks and power -/

/-- Domain power states (Table 14-4). -/
inductive PSt where
  | on | gating | gated | waking
  deriving DecidableEq, Repr

/-- An island (Table 14-7, R308 to R314). `stop` is the last value of STOPPED, which the register shows while a cluster is gated (R315). -/
structure Island where
  ps : PSt := .waking
  vi : BitVec 10 := 0
  freq : Nat := 0
  fmin : Nat := 0
  fmax : Nat := 0
  fixed : Bool := false
  policy : Bool := false
  idlek : Nat := 8
  wakes : Nat := 0
  stretch : Nat := 0
  target : Nat := 0
  hi : Nat := 0
  lo : Nat := 0
  margin : Bool := true
  wantWake : Bool := false
  raise : Bool := false
  stop : Bool := false
  deriving DecidableEq, Repr

/-- Clock page globals (Table 14-8) and the wake sequencer (R315). -/
structure Clk where
  isl : Tbl Island := []
  settle : Nat := 5
  settling : Bool := false
  req : Nat := 70
  maxwake : Nat := 4
  tlim : Nat := 100
  temp : Nat := 0
  throttle : Bool := false
  wakeq : List Nat := []
  deriving DecidableEq, Repr

/-! ### AON: collector, Zoetrope, sideband, TAP, world notices -/

/-- ACT of a fault source (Table 16-8). -/
inductive Act where
  | note | alert | safe
  deriving DecidableEq, Repr

/-- A fault source (R329, Table 16-8). -/
structure Src where
  n : Nat := 0
  k : Nat := 0
  act : Act := .note
  c : Nat := 0
  life : Nat := 0
  opn : Bool := false
  w0 : Nat := 0
  sev : Bool := false
  deriving DecidableEq, Repr

/-- Collector states (Table 16-2). -/
inductive FcSt where
  | normal | alert | safe | resetting
  deriving DecidableEq, Repr

/-- A fault event on its way to the collector, stamped where it was raised (R305, R346). -/
structure EvQ where
  ev : FaultEv
  seq : W32
  cyc : W64
  brst : Byte
  deriving DecidableEq, Repr

/-- The collector (Table 16-8). `goKind` and `goTarget` are the target of the
re-initialisation that runs and `goTimed` says that it has timed out (R340); `quiet` is the
A-cycle at which the quiet count of R336 last started; `exits` are the A-cycles of automatic exits (R337); `evq` holds the events
on their way (R305). -/
structure Fc where
  st : FcSt := .normal
  cause : Nat := 0
  stuck : Bool := false
  exited : Bool := false
  recov : Nat := 0
  autox : Bool := true
  zthaw : Bool := false
  esc : Bool := true
  autoload : Bool := false
  rlim : Nat := 4
  esck : Nat := 26
  quietk : Nat := 27
  reBusy : Bool := false
  reFail : Bool := false
  reKind : Bool := false
  reTarget : Nat := 0
  goKind : Bool := false
  goTarget : Nat := 0
  goTimed : Bool := false
  reimg : BitVec 44 := 0
  blkcnt : Byte := 0
  acked : Bool := false
  src : Tbl Src := []
  acyc : Nat := 0
  quiet : Nat := 0
  exits : List Nat := []
  evq : List EvQ := []
  deriving DecidableEq, Repr

/-- A Zoetrope entry (Table 16-6). -/
structure ZtEnt where
  island : Nat := 0
  brst : Byte := 0
  code : BitVec 16 := 0
  seq : W32 := 0
  cyc : W64 := 0
  a0 : W64 := 0
  a1 : W64 := 0
  deriving DecidableEq, Repr

/-- An entry in its island's queue of 16 (R346). `wait` says that it is that of a fault event which the collector has still to count: it
takes C and SEV from there (Table 16-7), and the island's later entries stay behind it. -/
structure ZtQ where
  ent : ZtEnt
  wait : Bool
  deriving DecidableEq, Repr

/-- The Zoetrope recorder (R346 to R349, Table 16-9). -/
structure Zt where
  ent : Tbl ZtEnt := []
  frozen : Bool := false
  wrapped : Bool := false
  next : Nat := 0
  lost : W32 := 0
  idx : BitVec 13 := 0
  bad : Bool := false
  logpwr : Bool := false
  drop : Tbl (BitVec 16) := []
  seq : Tbl (BitVec 32) := []
  q : List ZtQ := []
  deriving DecidableEq, Repr

/-- The sideband interface (R364 to R366). -/
structure Sb where
  sidx : BitVec 13 := 0
  sel : Bool := false
  zt : Bool := false
  off : BitVec 12 := 0
  byte : Nat := 0
  word : W32 := 0
  deriving DecidableEq, Repr

/-- The test access port (R367, R368). -/
structure Tap where
  ir : Byte := 0x01
  bsr : BitVec 22 := 0x3FFFFF
  reset : Bool := true
  deriving DecidableEq, Repr

/-- World notices (Table 15-4). -/
structure Wn where
  valid : Bool := false
  path : Nat := 0
  op : Nat := 0
  src : Nat := 0
  count : Nat := 0
  addr : BitVec 52 := 0
  chip : Nat := 0
  at_ : Nat := 0
  deriving DecidableEq, Repr

/-- The always-on island. -/
structure Aon where
  fc : Fc := {}
  zt : Zt := {}
  sb : Sb := {}
  tap : Tap := {}
  wn : Wn := {}
  deriving DecidableEq, Repr

/-! ### Outputs and the whole state -/

/-- Where a core port delivers a line in its core (R210, R213, R214): at its offset, at a position of the activation stream, or
at a line of the X or Y data memory. -/
inductive CoreDest where
  | offset
  | act (pos : Nat)
  | x (line : Nat)
  | y (line : Nat)
  deriving DecidableEq, Repr

/-- What the block puts on its outputs, in order. -/
inductive Out where
  /-- An MMIO answer: RESP and read data (R209). -/
  | mmio (resp : Nat) (data : W32)
  /-- The one answer of an 8 B MMIO access, with the data of its two halves (R209). -/
  | mmio8 (resp : Nat) (lo hi : W32)
  /-- A request of a memory port (Table 09-2): port, OP, SIZE, address, NS, VOL, SCOPE, ID, data, enables. -/
  | fab (port : Nat) (op size : Nat) (addr : Nat) (ns vol : Bool) (scope : Nat) (id : Nat) (data : LineData) (be : LineEn)
  /-- A response at a memory port or core port to an inbound request. -/
  | resp (core : Bool) (port : Nat) (id : BitVec 16) (resp : Nat) (data : LineData)
  /-- A line presented to a core: port, offset, where it goes, OP of Table 09-2, NS, VOL, SCOPE, ID, data, enables (R210, R276). -/
  | core (n : Nat) (off : Nat) (dest : CoreDest) (op : Nat) (ns vol : Bool) (scope : Nat) (id : Nat) (data : LineData) (be : LineEn)
  /-- A flit handed to the electrical layer (R219, R220). -/
  | flit (port : Nat) (f : FlitData)
  /-- A training frame's field sent on a lane (R231). -/
  | frame (port lane : Nat) (f : W64)
  /-- A descriptor fetch (R51), with the IDs of the reads it makes of external memory, line by line. -/
  | fetch (ch : Nat) (addr : Nat) (ids : List Nat)
  /-- A completion record (Table 03-17). -/
  | record (ch : Nat) (addr : Nat) (w0 w1 : W64)
  /-- A walk read (R247): walk, memory port, the lane whose arbiter input it uses, SIZE, address, NS, VOL, SCOPE, ID. -/
  | walk (w : Nat) (port lane size : Nat) (addr : Nat) (ns vol : Bool) (scope id : Nat)
  /-- A fault or advice record of 64 B (Table 11-4), first word lowest. -/
  | frec (addr : Nat) (ns : Bool) (d : BitVec 512)
  /-- A save area written or read (R78). -/
  | save (ctx : Nat) (addr : Nat) (bytes : List Byte)
  | load (ctx : Nat) (addr : Nat)
  /-- The image or firmware fetch (R40, R358): memory port, address, NS, VOL, and the ID of its reads. -/
  | image (port : Nat) (addr : Nat) (ns vol : Bool) (id : Nat)
  /-- One record of a sync-hub dump (R299): memory port, address, NS. -/
  | dump (port : Nat) (addr : Nat) (ns : Bool) (d : List W32)
  /-- A sideband byte read, or whether a byte written was acknowledged (R365). -/
  | sb (b : Byte)
  | sbAck (ok : Bool)
  /-- Test data shifted out, the first bit lowest (R367, R368). -/
  | tdo (n : Nat) (d : BitVec 32)
  deriving DecidableEq, Repr

/-- The state of the block. `pending` is the queue of commands; `out`, `fresh` and `order` are the model's own. -/
structure State where
  pending : List Instr := []
  boot : Boot := {}
  img : Option Image := none
  pins : Pins := {}
  chans : Tbl Chan := []
  ctxs : Tbl Ctx := []
  path : Path := {}
  stage : Stage := {}
  hub : Hub := {}
  xl : Xl := {}
  ports : Ports := {}
  links : Tbl Link := []
  clk : Clk := {}
  aon : Aon := {}
  out : List Out := []
  fresh : Nat := 0
  order : Nat := 0
  deriving DecidableEq, Repr

/-- The block right after a cold reset has ended (R355): every register at the reset value of Tables 19-2 to 19-6, the
domains held in rail wait, no image, no command waiting. -/
def State.reset : State := {}

end Sys2Proof.Machine
end

