-- ==== Sys2Proof/Machine/Ops.lean ====
section
/-! DEFINITION. The shared operations: sparse tables, bit fields, stage memory, the accessors of every replicated block with
its reset record, raising fault-source events, Zoetrope entries, world notices, interrupt lines, the gate that every MMIO
access passes, and the steps that end or wake a stream. -/

namespace Sys2Proof.Machine

/-! ### Sparse tables -/

/-- The record at index `i`; an unlisted index reads as the reset record `d i`. -/
def tget {α : Type} (d : Nat → α) : Tbl α → Nat → α
  | [], i => d i
  | (j, v) :: t, i => if j = i then v else if i < j then d i else tget d t i

/-- Write index `i`, keeping the canonical form: writing the reset record removes the entry. -/
def tset {α : Type} [DecidableEq α] (d : Nat → α) : Tbl α → Nat → α → Tbl α
  | [], i, v => if v = d i then [] else [(i, v)]
  | (j, w) :: t, i, v =>
    if i < j then (if v = d i then (j, w) :: t else (i, v) :: (j, w) :: t)
    else if i = j then (if v = d i then t else (i, v) :: t)
    else (j, w) :: tset d t i v

/-- Indexes from `lo` on, strictly rising, and no entry equal to the reset record. -/
def twfFrom {α : Type} [DecidableEq α] (d : Nat → α) : Nat → Tbl α → Bool
  | _, [] => true
  | lo, (j, v) :: t => decide (lo ≤ j) && !decide (v = d j) && twfFrom d (j + 1) t

/-- The canonical form of a sparse table. -/
def twf {α : Type} [DecidableEq α] (d : Nat → α) (t : Tbl α) : Bool := twfFrom d 0 t

/-- The listed indexes. -/
def tkeys {α : Type} (t : Tbl α) : List Nat := t.map (·.1)

/-! ### Bit fields and bytes -/

/-- Bits `[lo + n - 1 : lo]` of a bit vector, as a number. -/
def fld {w : Nat} (x : BitVec w) (lo n : Nat) : Nat := (x.toNat >>> lo) % 2 ^ n

/-- Bit `i` of a bit vector. -/
def bitOf {w : Nat} (x : BitVec w) (i : Nat) : Bool := x.getLsbD i

/-- `x` with bit `i` set to `b`. -/
def putBit {w : Nat} (x : BitVec w) (i : Nat) (b : Bool) : BitVec w :=
  if b then x ||| (1#w <<< i) else x &&& ~~~(1#w <<< i)

/-- Number of ones. -/
def popcnt {w : Nat} (x : BitVec w) : Nat := ((List.range w).filter fun i => x.getLsbD i).length

/-- A two's-complement reading of the low `n` bits of `v`. -/
def sext (v n : Nat) : Int := if (v % 2 ^ n) < 2 ^ (n - 1) then (v % 2 ^ n : Nat) else ((v % 2 ^ n : Nat) : Int) - 2 ^ n

/-- A saturating counter of `n` bits. -/
def satAdd (n a b : Nat) : Nat := min (a + b) (2 ^ n - 1)

/-- Byte `j` of a line. -/
def lineByte (d : LineData) (j : Nat) : Byte := d.extractLsb' (8 * j) 8

/-- The number a list of bytes spells, least significant byte first (R6). -/
def leNat : List Byte → Nat
  | [] => 0
  | b :: bs => b.toNat + 256 * leNat bs

/-- The `n` bytes of a number, least significant first. -/
def leBytes : Nat → Nat → List Byte
  | 0, _ => []
  | n + 1, v => BitVec.ofNat 8 v :: leBytes n (v / 256)

/-- `n` bytes of a list from position `i`; past its end the bytes are 0. -/
def sliceB (bs : List Byte) (i n : Nat) : List Byte := (List.range n).map fun k => bs.getD (i + k) 0

/-- A little-endian field of a byte list (R6). -/
def leAt (bs : List Byte) (i n : Nat) : Nat := leNat (sliceB bs i n)

/-- Update element `i` of a list. -/
def updAt {α : Type} (f : α → α) : Nat → List α → List α
  | _, [] => []
  | 0, x :: xs => f x :: xs
  | i + 1, x :: xs => x :: updAt f i xs

/-- Remove element `i` of a list. -/
def dropAt {α : Type} : Nat → List α → List α
  | _, [] => []
  | 0, _ :: xs => xs
  | i + 1, x :: xs => x :: dropAt i xs

/-- Keep the first occurrence of each element. -/
def dedup {α : Type} [DecidableEq α] (xs : List α) : List α :=
  xs.foldl (fun acc x => if acc.contains x then acc else acc ++ [x]) []

/-! ### Stage memory (R185, R192) -/

/-- What an unwritten byte of stage memory reads as (DESIGN CHOICE 0, log 4). -/
def memDflt (_ : Nat) : Byte := 0

/-- The canonical form of stage memory. -/
def Memory.wf (m : List Host.Cell) : Bool := twf memDflt m

/-- One byte of stage memory. -/
def memByte (m : List Host.Cell) (a : Nat) : Byte := tget memDflt m a

/-- Write one byte. -/
def memSet (m : List Host.Cell) (a : Nat) (b : Byte) : List Host.Cell := tset memDflt m a b

/-- The bits of `n` bytes from `a`, byte `a` lowest. -/
def memNat (m : List Host.Cell) (a : Nat) : Nat → Nat
  | 0 => 0
  | n + 1 => (memByte m a).toNat + 256 * memNat m (a + 1) n

/-- The line at stage offset `a`. -/
def memLine (m : List Host.Cell) (a : Nat) : LineData := BitVec.ofNat 1024 (memNat m a 128)

/-- Write the enabled bytes among the first `n` bytes of a line. -/
def memWrite (m : List Host.Cell) (a : Nat) (d : LineData) (be : LineEn) : Nat → List Host.Cell
  | 0 => m
  | n + 1 =>
    let m' := memWrite m a d be n
    if be.getLsbD n then memSet m' (a + n) (lineByte d n) else m'

/-! ### Image reads -/

/-- The locked image, or the empty one before a lock. -/
def im (s : State) : Image := s.img.getD {}

/-- A CHANNELS entry; channels without an entry are unused (R47). -/
def chanCfg (s : State) (c : Nat) : ChanCfg := tget (fun _ => {}) (im s).chans c

/-- Whether the channel is valid under a locked image (R36, R48). -/
def chanValid (s : State) (c : Nat) : Bool := s.img.isSome && (chanCfg s c).valid

/-- Whether a channel is secure: every channel is before the first lock (R318, R319). -/
def chanSecure (s : State) (c : Nat) : Bool := s.img.isNone || !(chanCfg s c).ns

/-- The channels bound to a context (R47). -/
def ctxChans (s : State) (x : Nat) : List Nat :=
  ((im s).chans.filter fun e => e.2.valid && e.2.ctx == x).map (·.1)

/-- A context is secure unless its channels are non-secure; without a channel it is secure (Table 15-1). -/
def ctxSecure (s : State) (x : Nat) : Bool :=
  s.img.isNone || !((ctxChans s x).any fun c => (chanCfg s c).ns)

/-- Whether a power domain's own registers are secure (Table 15-2). -/
def domSecure (s : State) (d : Nat) : Bool := s.img.isNone || (im s).pdSecure.getLsbD d

/-- Whether a bank group is secure. -/
def bgSecure (s : State) (g : Nat) : Bool := s.img.isNone || (im s).bgSecure.getLsbD g

/-- Whether a mailbox is secure. -/
def mbSecure (s : State) (m : Nat) : Bool := s.img.isNone || (im s).mbSecure.getLsbD m

/-- Whether a barrier object is secure (one bit a range of 64). -/
def barSecure (s : State) (o : Nat) : Bool := s.img.isNone || (im s).barSecure.getLsbD (o / 64)

/-- Whether a window is secure. -/
def winSecure (s : State) (w : Nat) : Bool := s.img.isNone || (im s).winSecure.getLsbD w

/-- The mover a lane's number names in the MOVERS section. -/
def moverCfg (s : State) (m : Nat) : Option MoverCfg := (im s).movers.find? fun e => e.low == m

/-- A mover's width in lanes (R14). -/
def moverWidth (s : State) (m : Nat) : Nat := match moverCfg s m with | some e => 2 ^ e.log2w | none => 0

/-- The pool that holds a stage offset, with its number; an echo pool holds none (R185). -/
def poolOf (s : State) (off : Nat) : Option (Nat × PoolCfg) :=
  let es := (List.range (im s).pools.length).zip (im s).pools
  (es.find? fun e => decide (0x80000 * e.2.base ≤ off) && decide (off < 0x80000 * (e.2.base + e.2.size))
    && !e.2.echo)

/-- World of a stage offset: its pool's; a hole is non-secure (Table 15-2). Before a lock every resource is secure. -/
def stageSecure (s : State) (off : Nat) : Bool :=
  s.img.isNone || (match poolOf s off with | some (_, p) => !p.ns | none => false)

/-- The present memory ports in ascending order. -/
def memPorts (s : State) : List Nat := (List.range 8).filter fun i => (im s).mPresent.getLsbD i

/-- The memory port of an external address (R202). -/
def memPortOf (s : State) (pa : Nat) : Nat :=
  let k := ((pa / 2 ^ 7) % 8) ^^^ ((pa / 2 ^ 13) % 8)
  let ps := memPorts s
  ps.getD (k % ps.length) 0

/-- MZ_GBASE as an address. -/
def gbase (s : State) : Nat := 2 ^ 30 * s.boot.straps.gbase.toNat

/-- What a physical address leads to (R201, Table 09-1). -/
def locOf (s : State) (pa : Nat) : Loc :=
  let b := gbase s
  if pa < b ∨ b + 2 ^ 30 ≤ pa then .ext pa
  else
    let o := pa - b
    if o < 0x4000000 then .stage o
    else if o < 0x10000000 then .hole pa
    else if o < 0x20000000 then .relay ((o - 0x10000000) / 2 ^ 24) (o % 2 ^ 24)
    else if o < 0x30000000 then .core ((o - 0x20000000) / 2 ^ 24) (o % 2 ^ 24)
    else .hole pa

/-- Index of a virtual address at a level of the page tables (R244). -/
def levelIdx (level va : Nat) : Nat :=
  if level = 1 then va / 2 ^ 35 % 2 ^ 14 else if level = 2 then va / 2 ^ 30 % 32 else va / 2 ^ 25 % 32

/-- Address of the entry that a walk reads. -/
def entryAddr (w : Walk) : Nat := (w.table + 8 * levelIdx w.level w.va) % 2 ^ 52

/-! ### Accessors of the replicated blocks -/

/-- A channel's record. -/
def chan (s : State) (c : Nat) : Chan := tget (fun _ => {}) s.chans c
/-- Replace a channel's record. -/
def setChan (s : State) (c : Nat) (x : Chan) : State := { s with chans := tset (fun _ => {}) s.chans c x }

/-- The reset record of context `c`: ASID c (Table 11-7), a window of 64 objects from 64c (Table 13-6). -/
def ctxDflt (c : Nat) : Ctx := { asid := BitVec.ofNat 8 c, base := 64 * c }
/-- A context's record. -/
def ctx (s : State) (c : Nat) : Ctx := tget ctxDflt s.ctxs c
/-- Replace a context's record. -/
def setCtx (s : State) (c : Nat) (x : Ctx) : State := { s with ctxs := tset ctxDflt s.ctxs c x }

/-- A link port's record. -/
def link (s : State) (p : Nat) : Link := tget (fun _ => {}) s.links p
/-- Replace a link port's record. -/
def setLink (s : State) (p : Nat) (x : Link) : State := { s with links := tset (fun _ => {}) s.links p x }

/-- The reset record of an island: limits by clock class (Tables 14-1, 19-3). AON's block too holds Table 19-3's value until the first block
reset ends, when the page can first be read; from then on AON reads ON and 40 MHz (R314, R317; DEDUCED, log 43). -/
def islDflt (i : Nat) : Island :=
  if i < 0x24 ∨ (0x2C ≤ i ∧ i < 0x38) then { fmin := 1200, fmax := 1800 }
  else if 0x38 ≤ i ∧ i < 0x40 then { fmin := 800, fmax := 1200 }
  else {}
/-- An island's record. -/
def isl (s : State) (i : Nat) : Island := tget islDflt s.clk.isl i
/-- Replace an island's record. -/
def setIsl (s : State) (i : Nat) (x : Island) : State :=
  { s with clk := { s.clk with isl := tset islDflt s.clk.isl i x } }
/-- Whether an island has the adaptive loop (Table 14-1). -/
def adaptive (i : Nat) : Bool := decide (i < 0x24) || (decide (0x2C ≤ i) && decide (i < 0x40))

/-- A ring's record. -/
def ring (s : State) (r : Nat) : Ring := tget (fun _ => {}) s.hub.rings r
/-- Replace a ring's record. -/
def setRing (s : State) (r : Nat) (x : Ring) : State :=
  { s with hub := { s.hub with rings := tset (fun _ => {}) s.hub.rings r x } }

/-- A handle queue's record. -/
def hq (s : State) (q : Nat) : Hq := tget (fun _ => {}) s.hub.hqs q
/-- Replace a handle queue's record. -/
def setHq (s : State) (q : Nat) (x : Hq) : State :=
  { s with hub := { s.hub with hqs := tset (fun _ => {}) s.hub.hqs q x } }

/-- A barrier object's record. -/
def bar (s : State) (o : Nat) : Bar := tget (fun _ => {}) s.hub.bars o
/-- Replace a barrier object's record. -/
def setBar (s : State) (o : Nat) (x : Bar) : State :=
  { s with hub := { s.hub with bars := tset (fun _ => {}) s.hub.bars o x } }

/-- A mailbox's record. -/
def mb (s : State) (m : Nat) : Mb := tget (fun _ => {}) s.hub.mbs m
/-- Replace a mailbox's record. -/
def setMb (s : State) (m : Nat) (x : Mb) : State :=
  { s with hub := { s.hub with mbs := tset (fun _ => {}) s.hub.mbs m x } }
/-- A mailbox's receiver (R36). -/
def mbCfg (s : State) (m : Nat) : MbCfg := tget (fun _ => {}) (im s).mbs m

/-- A bank group's record. -/
def bg (s : State) (g : Nat) : Bg := tget (fun _ => {}) s.stage.bg g
/-- Replace a bank group's record. -/
def setBg (s : State) (g : Nat) (x : Bg) : State :=
  { s with stage := { s.stage with bg := tset (fun _ => {}) s.stage.bg g x } }

/-- A pool's loop record. -/
def poolSt (s : State) (p : Nat) : PoolSt := tget (fun _ => {}) s.stage.pool p
/-- Replace a pool's loop record. -/
def setPoolSt (s : State) (p : Nat) (x : PoolSt) : State :=
  { s with stage := { s.stage with pool := tset (fun _ => {}) s.stage.pool p x } }

/-- A Kaleidoscope quadrant's record. -/
def kq (s : State) (q : Nat) : Kq := tget (fun _ => {}) s.path.kq q
/-- Replace a quadrant's record. -/
def setKq (s : State) (q : Nat) (x : Kq) : State :=
  { s with path := { s.path with kq := tset (fun _ => {}) s.path.kq q x } }

/-- A Mordant unit's record. -/
def md (s : State) (u : Nat) : Md := tget (fun _ => {}) s.path.md u
/-- Replace a Mordant unit's record. -/
def setMd (s : State) (u : Nat) (x : Md) : State :=
  { s with path := { s.path with md := tset (fun _ => {}) s.path.md u x } }

/-- A front-end quarter's look-ahead record. -/
def fe (s : State) (q : Nat) : Fe := tget (fun _ => {}) s.path.fe q
/-- Replace a quarter's record. -/
def setFe (s : State) (q : Nat) (x : Fe) : State :=
  { s with path := { s.path with fe := tset (fun _ => {}) s.path.fe q x } }

/-- A relay chain's record. -/
def relay (s : State) (n : Nat) : Relay := tget (fun _ => {}) s.path.relay n
/-- Replace a relay chain's record. -/
def setRelay (s : State) (n : Nat) (x : Relay) : State :=
  { s with path := { s.path with relay := tset (fun _ => {}) s.path.relay n x } }

/-- A core port's record. -/
def cp (s : State) (n : Nat) : Cp := tget (fun _ => {}) s.ports.cp n
/-- Replace a core port's record. -/
def setCp (s : State) (n : Nat) (x : Cp) : State :=
  { s with ports := { s.ports with cp := tset (fun _ => {}) s.ports.cp n x } }

/-- A memory port's error block. -/
def mp (s : State) (n : Nat) : Mp := tget (fun _ => {}) s.ports.mp n
/-- Replace a memory port's error block. -/
def setMp (s : State) (n : Nat) (x : Mp) : State :=
  { s with ports := { s.ports with mp := tset (fun _ => {}) s.ports.mp n x } }

/-- A message block. -/
def msi (s : State) (l : Nat) : Msi := tget (fun _ => {}) s.ports.msi l
/-- Replace a message block. -/
def setMsi (s : State) (l : Nat) (x : Msi) : State :=
  { s with ports := { s.ports with msi := tset (fun _ => {}) s.ports.msi l x } }

/-- A translation half's counters. -/
def half (s : State) (h : Nat) : Half := tget (fun _ => {}) s.xl.half h
/-- Replace a half's counters. -/
def setHalf (s : State) (h : Nat) (x : Half) : State :=
  { s with xl := { s.xl with half := tset (fun _ => {}) s.xl.half h x } }

/-- A receiving window. -/
def win (s : State) (w : Nat) : Window := tget (fun _ => {}) s.xl.wins w
/-- Replace a receiving window. -/
def setWin (s : State) (w : Nat) (x : Window) : State :=
  { s with xl := { s.xl with wins := tset (fun _ => {}) s.xl.wins w x } }

/-- The slots of a mover. -/
def slots (s : State) (m : Nat) : List Nat := tget (fun _ => []) s.path.slots m
/-- Replace the slots of a mover. -/
def setSlots (s : State) (m : Nat) (x : List Nat) : State :=
  { s with path := { s.path with slots := tset (fun _ => []) s.path.slots m x } }

/-- Replace the outstanding lines. -/
def setLines (s : State) (ls : List Line) : State := { s with path := { s.path with lines := ls } }

/-- Reset configuration of a fault source: N, k, ACT of Table 16-1; a reserved source has none. -/
def srcDflt (i : Nat) : Src :=
  if i = 0x00 ∨ i = 0x01 ∨ i = 0x02 then { n := 1, k := 0, act := .safe }
  else if i = 0x03 then { n := 4, k := 26, act := .alert }
  else if i = 0x04 then { n := 255, k := 20, act := .alert }
  else if i = 0x05 ∨ i = 0x06 then { n := 255, k := 20, act := .note }
  else if i = 0x07 ∨ i = 0x08 then { n := 16, k := 25, act := .alert }
  else if i = 0x09 then { n := 8, k := 25, act := .alert }
  else if i = 0x0A then { n := 1, k := 0, act := .alert }
  else if i = 0x0B then { n := 8, k := 25, act := .alert }
  else if i = 0x0C then { n := 255, k := 20, act := .note }
  else if i = 0x0D then { n := 4, k := 26, act := .alert }
  else if i = 0x0E then { n := 255, k := 20, act := .alert }
  else if i = 0x0F ∨ i = 0x10 ∨ i = 0x11 then { n := 1, k := 0, act := .alert }
  else if i < 0x20 then {}
  else if i < 0x24 then { n := 255, k := 25, act := .alert }
  else if i < 0x28 then { n := 4, k := 30, act := .alert }
  else if i < 0x30 then { n := 255, k := 25, act := .alert }
  else if i < 0x38 then { n := 4, k := 30, act := .alert }
  else if i < 0x48 then { n := 255, k := 25, act := .alert }
  else if i < 0x58 then { n := 4, k := 30, act := .alert }
  else if i < 0x88 then { n := 1, k := 0, act := .alert }
  else if i < 0xA0 then { n := 16, k := 25, act := .alert }
  else if i < 0xA8 then { n := 255, k := 20, act := .alert }
  else if i < 0xB0 then { n := 4, k := 25, act := .alert }
  else if i < 0xB8 then { n := 16, k := 25, act := .alert }
  else if i < 0xC0 then { n := 255, k := 25, act := .alert }
  else if i < 0xC8 then { n := 3, k := 30, act := .alert }
  else if i < 0xD8 then { n := 1, k := 0, act := .alert }
  else {}
/-- Whether a source number is reserved (Table 16-1). -/
def srcReserved (i : Nat) : Bool := (decide (0x12 ≤ i) && decide (i < 0x20)) || decide (0xD8 ≤ i)
/-- A fault source's record. -/
def src (s : State) (i : Nat) : Src := tget srcDflt s.aon.fc.src i
/-- Replace a fault source's record. -/
def setSrc (s : State) (i : Nat) (x : Src) : State :=
  { s with aon := { s.aon with fc := { s.aon.fc with src := tset srcDflt s.aon.fc.src i x } } }

/-- Replace the collector. -/
def setFc (s : State) (x : Fc) : State := { s with aon := { s.aon with fc := x } }
/-- Replace the recorder. -/
def setZt (s : State) (x : Zt) : State := { s with aon := { s.aon with zt := x } }

/-! ### Outputs, events, notices -/

/-- Put something on the outputs. -/
def emit (s : State) (o : Out) : State := { s with out := s.out ++ [o] }

/-- Take a free value: the state with the counter advanced. -/
def bump (s : State) : State := { s with fresh := s.fresh + 1 }

/-- The cycle stamp of an island (R346): A-cycles for AON, free for every other island (log 8). -/
def cycleOf (s : State) (i : Nat) : W64 :=
  if i = 0x40 then BitVec.ofNat 64 s.aon.fc.acyc else Config.cycles s.fresh

/-- The next SEQ of an island, consumed whether or not the event is kept (R346). -/
def islSeq (s : State) (i : Nat) : W32 := tget (fun _ => 0) s.aon.zt.seq i

/-- Consume an island's SEQ. -/
def takeSeq (s : State) (i : Nat) : State :=
  setZt s { s.aon.zt with seq := tset (fun _ => 0) s.aon.zt.seq i (islSeq s i + 1) }

/-- Put an entry into its island's queue for Zoetrope; one that finds the 16 places full is dropped and counted (R346). -/
def ztQueue (s : State) (e : ZtEnt) (wait : Bool) : State :=
  let z := s.aon.zt
  if (z.q.filter fun x => x.ent.island == e.island).length ≥ 16 then
    let d := tget (fun _ => 0) z.drop e.island
    setZt s { z with drop := tset (fun _ => 0) z.drop e.island (if d = BitVec.allOnes 16 then d else d + 1) }
  else setZt s { z with q := z.q ++ [⟨e, wait⟩] }

/-- The entry of a fault event before the collector has counted it (Table 16-7). -/
def evEntry (q : EvQ) : ZtEnt :=
  ⟨q.ev.island.val, q.brst, BitVec.ofNat 16 (0x0100 + q.ev.src.val), q.seq, q.cyc, q.ev.a, 0⟩

/-- Raise one event of a fault source: it waits in the crossing of R305 until it reaches the collector (FAULT_EVENT), and its entry
takes its place in the island's queue for Zoetrope (R346). AON's own events are stamped with SEQ as it writes them. Events of reserved
sources never arise. -/
def raise (s : State) (source : Nat) (a b : Nat) (island : Nat) : State :=
  let e : FaultEv := ⟨Fin.ofNat 256 source, BitVec.ofNat 64 a, BitVec.ofNat 32 b, Fin.ofNat 65 island⟩
  let q : EvQ := ⟨e, islSeq s island, cycleOf s island, s.aon.fc.blkcnt⟩
  let s := bump (if island = 0x40 then s else ztQueue (takeSeq s island) (evEntry q) true)
  setFc s { s.aon.fc with evq := s.aon.fc.evq ++ [q] }

/-- One event of the refused-command source (0x04), from the island that refused. -/
def refuse (s : State) (a b island : Nat) : State := raise s 0x04 a b island

/-- The MMIO target's island, PD44 (Table 01-2). -/
def mmioIsland : Nat := 0x2C

/-- A channel's front-end quarter (Table 01-2). -/
def feIsland (c : Nat) : Nat := 0x3C + c / 128

/-- AON writes an entry into the Zoetrope ring, or counts it lost while the record is frozen (R346, R348). -/
def ztWrite (s : State) (e : ZtEnt) : State :=
  let z := s.aon.zt
  if z.frozen then setZt s { z with lost := if z.lost = BitVec.allOnes 32 then z.lost else z.lost + 1 }
  else setZt s { z with
    ent := tset (fun _ => {}) z.ent z.next e
    next := (z.next + 1) % 8192
    wrapped := z.wrapped || decide (z.next = 8191) }

/-- An entry that AON itself raises and writes at once. -/
def aonLog (s : State) (code a0 a1 : Nat) : State :=
  let e : ZtEnt := ⟨0x40, s.aon.fc.blkcnt, BitVec.ofNat 16 code, islSeq s 0x40, cycleOf s 0x40, BitVec.ofNat 64 a0,
    BitVec.ofNat 64 a1⟩
  ztWrite (takeSeq s 0x40) e

/-- An island's event for Zoetrope: queued in the island, or dropped when its 16 places are full (R346). -/
def zlog (s : State) (island code a0 a1 : Nat) : State :=
  let e : ZtEnt := ⟨island, s.aon.fc.blkcnt, BitVec.ofNat 16 code, islSeq s island, cycleOf s island,
    BitVec.ofNat 64 a0, BitVec.ofNat 64 a1⟩
  ztQueue (bump (takeSeq s island)) e false

/-- Split a queue into at most `n` entries that reach the ring, oldest first, and the rest: an island's entries keep their order, behind
one that still waits for the collector; `held` are the islands with such a one. -/
def ztSplit : Nat → List Nat → List ZtQ → List ZtEnt × List ZtQ
  | _, _, [] => ([], [])
  | n, held, x :: xs =>
    if n == 0 || x.wait || held.contains x.ent.island then
      let r := ztSplit n (x.ent.island :: held) xs
      (r.1, x :: r.2)
    else
      let r := ztSplit (n - 1) held xs
      (x.ent :: r.1, r.2)

/-- AON takes up to `n` queued island events into the ring (R346). -/
def ztTakeN (s : State) (n : Nat) : State :=
  let r := ztSplit n [] s.aon.zt.q
  r.1.foldl ztWrite (setZt s { s.aon.zt with q := r.2 })

/-- The events of one A-cycle: up to four, oldest first (R346). -/
def ztDrain (s : State) : State := ztTakeN s 4

/-- Every event that AON holds is written, as before a freeze (R348). -/
def ztFlush (s : State) : State := ztTakeN s s.aon.zt.q.length

/-- One A-cycle of AON: its count advances and queued events reach the ring (R346). In cold reset nothing runs (R355). -/
def idleCycle (s : State) : State :=
  if s.boot.phase == .cold then s else ztDrain (setFc s { s.aon.fc with acyc := s.aon.fc.acyc + 1 })

/-- One world notice (R322, R326): the page keeps the first since its last clear, or, of two in one A-cycle, the one of lower PATH; it
counts every one, and the source is raised. Two notices are in one A-cycle when none has passed between them (log 10). The spec names
no island for the notice of a port, a link or a line: the event bears that of PD44, 0x2C (DESIGN CHOICE, log 17). -/
def notice (s : State) (path op source addr chip : Nat) : State :=
  let w := s.aon.wn
  let t := s.aon.fc.acyc
  let w' : Wn := if w.valid && !(w.at_ == t && decide (path < w.path)) then { w with count := satAdd 16 w.count 1 }
    else { valid := true, path := path, op := op, src := source, count := satAdd 16 w.count 1,
           addr := BitVec.ofNat 52 addr, chip := chip, at_ := t }
  let s := { s with aon := { s.aon with wn := w' } }
  raise s 0x05 addr (2 ^ 31 + 2 ^ 28 * path + 2 ^ 25 * op + 2 ^ 16 * source + w'.count)
    (if path = 0 then mmioIsland else if path = 5 then 0x3A else 0x2C)

/-! ### Interrupt lines (R216, R217, Table 09-7) -/

/-- Level of interrupt line `l`. -/
def irqLine (p : Ports) (l : Nat) : Bool :=
  if l < 32 then decide (fld (p.chPend &&& p.chEn) (16 * l) 16 ≠ 0)
  else if l = 32 then decide (p.ctxPend &&& p.ctxEn ≠ 0)
  else if l < 40 then (p.srcPend &&& p.srcEn).getLsbD (l - 33)
  else false

/-- Whether the block runs outside SAFE, so that memory ports issue (R335, R357). -/
def operating (s : State) : Bool := s.boot.phase == .running && s.aon.fc.st != .safe

/-- The next number of a class that is free, in rotation from `n`. -/
def freeId (used : List Nat) (b : Nat) : Nat → Nat → Nat
  | 0, n => b + n % 65536
  | f + 1, n => if used.contains (b + n % 65536) then freeId used b f (n + 1) else b + n % 65536

/-- The numbers of every line in flight and of every request of the block itself. A number is 65,536 times its class (a memory port,
or another kind of target) and the ID, so that no ID is outstanding twice on one port (R204). -/
def usedIds (s : State) : List Nat := s.path.lines.map (·.id) ++ s.ports.own.map (·.id)

/-- A fresh number of a class. -/
def takeId (s : State) (cls : Nat) : Nat := freeId (usedIds s) (65536 * cls) ((usedIds s).length + 1) s.path.nextId

/-- Put a request of the block itself in flight with a number of class `cls`; its number is the answer. -/
def ownReqAs (s : State) (cls port op addr : Nat) (k : OwnKind) : State × Nat :=
  let id := takeId s cls
  ({ s with path := { s.path with nextId := (s.path.nextId + 1) % 65536 }
            ports := { s.ports with own := s.ports.own ++ [⟨id, port, op, addr, k, none⟩] } }, id)

/-- Put a request of the block itself in flight on a memory port; its number is the answer. -/
def ownReq (s : State) (port op addr : Nat) (k : OwnKind) : State × Nat := ownReqAs s port port op addr k

/-- The fetch of the image or of firmware starts at `a`, with secure reads through M0, one at a time, under one ID (R40, R204, R358; that
the ID is one is a DESIGN CHOICE, log 47). -/
def imageRead (s : State) (a : Nat) : State := let r := ownReq s 0 0 a .image; emit r.1 (.image 0 a false false (r.2 % 65536))

/-- A request whose answer is given up, or has timed out, stays outstanding until the answer comes, so that its ID is not used again (R204,
R206). -/
def ownDead (s : State) (k : OwnKind) (late : Bool) : State :=
  { s with ports := { s.ports with own := s.ports.own.map fun e => if e.kind == k then { e with kind := .dead late, ans := none } else e } }

/-- Drop the copy that the echo cache holds of a physical line, and those that outstanding reads of it would install (R180). -/
def echoDrop (s : State) (pa : Nat) : State :=
  let l := pa / 128 * 128
  { s with path := { s.path with
    echo := s.path.echo.filter fun e => e.1 != l
    lines := s.path.lines.map fun x => if x.echo == 1 && x.loc == .ext l then { x with echo := 0 } else x } }

/-- A write of the block itself has been acknowledged: a read issued from here on has no copy from before it (R180, R267). -/
def ownEcho (s : State) (e : OwnReq) : State := if e.op = 1 then echoDrop s e.addr else s

/-- The requests of the block itself of one kind have been answered. -/
def ownDone (s : State) (k : OwnKind) : State :=
  let s := (s.ports.own.filter fun e => e.kind == k).foldl ownEcho s
  { s with ports := { s.ports with own := s.ports.own.filter fun e => e.kind != k } }

/-- The reads of one kind have been answered, but for those of the addresses `late`, which have timed out (R206). -/
def ownRead (s : State) (k : OwnKind) (late : List Nat) : State :=
  let left := s.ports.own.filter fun e => e.kind != k || late.contains e.addr
  { s with ports := { s.ports with own := left.map fun e => if e.kind == k then { e with kind := .dead true, ans := none } else e } }

/-- One write of the message of a line through M0 (R204, R217). It drops the echo cache's copy of its line. -/
def msiWrite (s : State) (m : Msi) : State :=
  let a := m.addr.toNat * 4
  let r := ownReq (echoDrop s a) 0 1 a .msi
  emit r.1 (.fab 0 1 0 a m.ns false 0 (r.2 % 65536) (BitVec.ofNat 1024 (m.data.toNat * 2 ^ (8 * (a % 128))))
    (BitVec.ofNat 128 (15 * 2 ^ (a % 128))))

/-- Replace the ports, sending one message through M0 for each line that rises with EN set (R217). -/
def setPorts (s : State) (p : Ports) : State :=
  let old := s.ports
  let s := { s with ports := p }
  (List.range 40).foldl (fun s l =>
    if irqLine p l && !irqLine old l && (msi s l).en && operating s then msiWrite s (msi s l) else s) s

/-- Whether the MMIO target takes accesses: MZ_BLKRDY is high, as PD44 is out of block reset and powered (R357). -/
def mmioReady (s : State) : Bool := s.boot.phase == .running && (isl s 0x2C).ps == .on

/-- Whether a domain's die-internal outputs are isolated: it is not powered, the block is in reset, or the collector is in SAFE (R335,
R363). -/
def isolated (s : State) (d : Nat) : Bool :=
  s.boot.phase != .running || s.aon.fc.st == .safe || (isl s d).ps != .on

/-- Level of MZ_IRQ[l]: the line of R216, or the integrator's isolation value while PD44 or the block is in reset; in SAFE lines 34 and
35 alone go on while PD44 is powered (R216, R335, R363). -/
def irqOut (s : State) (l : Nat) : Bool :=
  let safeLine := mmioReady s && (l == 34 || l == 35)
  if isolated s 0x2C && !safeLine then Config.isoIrq l else irqLine s.ports l

/-- Level of MZ_BLKRDY (R357). -/
def blkRdy (s : State) : Bool := mmioReady s

/-- Set bit `i` of MZ_IRQ_SRCPEND (interrupt line 33 + i). The bit is set only while PD44 is powered and out of reset. -/
def pendSrc (s : State) (i : Nat) : State :=
  if mmioReady s then setPorts s { s.ports with srcPend := putBit s.ports.srcPend i true } else s

/-- Set a channel's completion interrupt pending bit (R216). -/
def pendCh (s : State) (c : Nat) : State := setPorts s { s.ports with chPend := putBit s.ports.chPend c true }

/-- Set a context's pending bit (R77, R254). -/
def pendCtx (s : State) (c : Nat) : State := setPorts s { s.ports with ctxPend := putBit s.ports.ctxPend c true }

/-! ### The gate of every MMIO access (R209, R322, R335, R357) -/

/-- Whether a window offset is served in SAFE: the collector and Zoetrope pages (R335). -/
def safePage (off : Nat) : Bool := decide (0x2000 ≤ off) && decide (off < 0x4000)

/-- A register write at window offset `off`: not accepted while MZ_BLKRDY is low (the request waits in the fabric, log
11); ignored outside the AON pages in SAFE; a non-secure write of a secure register raises a notice and does nothing;
otherwise its effect. The answer is OKAY. -/
def mmioW (s : State) (off : Nat) (ns sec : Bool) (f : State → State) : State :=
  if !mmioReady s then s
  else if s.aon.fc.st == .safe && !safePage off then emit s (.mmio 0 0)
  else if ns && sec then emit (notice s 0 1 0 off 0) (.mmio 0 0)
  else emit (f s) (.mmio 0 0)

/-- A register read with an effect of its own, answered with the value `f` gives. -/
def mmioR (s : State) (off : Nat) (ns sec : Bool) (f : State → State × W32) : State :=
  if !mmioReady s then s
  else if s.aon.fc.st == .safe && !safePage off then emit s (.mmio 0 0)
  else if ns && sec then emit (notice s 0 0 0 off 0) (.mmio 0 0)
  else let r := f s; emit r.1 (.mmio 0 r.2)

/-! ### Offsets of the register blocks in the MMIO window (Tables 19-1 to 19-6) -/

/-- Channel block (Table 03-1). -/
def chOff (c r : Nat) : Nat := 0x8000 + 0x1000 * (c / 128) + 0x20 * (c % 128) + r
/-- Ring block (Table 07-2). -/
def ringOff (n r : Nat) : Nat := 0x12000 + 0x1000 * (n / 128) + 0x20 * (n % 128) + r

/-! ### Channel state and streams -/

/-- The channel state that MZ_CH_STATUS shows: DISABLED without a valid image entry (Table 03-2). -/
def chState (s : State) (c : Nat) : ChSt := if chanValid s c then (chan s c).st else .disabled

/-- The encoding of a channel state (Table 03-2). -/
def ChSt.code : ChSt → Nat
  | .disabled => 0 | .idle => 1 | .running => 2 | .parked => 3 | .cqFull => 4 | .out => 5 | .halted => 6

/-- The channel's stream, if a descriptor is in execution. -/
def stream (s : State) (c : Nat) : Option Stream := (chan s c).stream

/-- Replace the stream of a channel. -/
def setStream (s : State) (c : Nat) (x : Stream) : State := setChan s c { chan s c with stream := some x }

/-- Change the stream of a channel, if it has one. -/
def modStream (s : State) (c : Nat) (f : Stream → Stream) : State :=
  match stream s c with
  | some x => setStream s c (f x)
  | none => s

/-- Completion codes (Table 03-18). -/
def cOK : Nat := 0
def cRETRIED : Nat := 1
def cSTATE : Nat := 2
def cFAULT : Nat := 3
def cPAGES : Nat := 4
def cABANDONED : Nat := 5
def cPOISONED : Nat := 6
def cWORLD : Nat := 7
def cTIMEOUT : Nat := 8
def cLINK : Nat := 9
def cECC : Nat := 10
def cTAG : Nat := 11

/-- A stream's last action is taken: DESCRIPTOR_COMPLETE may write its completion (R56). -/
def finish (s : State) (c code detail : Nat) : State :=
  modStream s c fun x => { x with st := .done code detail, wait := .none }

/-- A refusal with STATE: the stream is done, and the refused-command source has one event (R76). -/
def refuseStream (s : State) (c detail : Nat) : State :=
  match stream s c with
  | some x => refuse (finish s c cSTATE detail) x.addr detail (feIsland c)
  | none => s

/-- One of the failing checks' DETAILs, freely chosen (log 6). -/
def pickDetail (s : State) (ds : List Nat) : Nat := ds.getD (Config.pick s.fresh % ds.length) 0

/-- The type field of a descriptor (Table 03-3). -/
def dType (d : DescData) : Nat := fld d 0 4
/-- CHAIN. -/
def dChain (d : DescData) : Nat := fld d 4 2
/-- PRIO. -/
def dPrio (d : DescData) : Nat := fld d 6 2
/-- BF. -/
def dBf (d : DescData) : Bool := bitOf d 8
/-- IRQ. -/
def dIrq (d : DescData) : Bool := bitOf d 9
/-- CREC. -/
def dCrec (d : DescData) : Bool := bitOf d 10
/-- FINAL. -/
def dFinal (d : DescData) : Bool := bitOf d 11
/-- PERSIST. -/
def dPersist (d : DescData) : Bool := bitOf d 12
/-- Bits of the type word TW (R54). -/
def tw (d : DescData) (lo n : Nat) : Nat := fld d (32 + lo) n
/-- NEXT as an address (Table 03-3). -/
def dNext (d : DescData) : Nat := fld d 70 46 * 64
/-- Bits of word `k`. -/
def dW (d : DescData) (k lo n : Nat) : Nat := fld d (64 * k + lo) n

/-- Whether a descriptor is a data descriptor (Table 03-4). -/
def isData (d : DescData) : Bool := decide (1 ≤ dType d) && decide (dType d ≤ 4)

/-- Whether a channel is a target of a function re-initialisation: bound to context `t`, or in group `t` (R340). -/
def reTarget (s : State) (kind : Bool) (t c : Nat) : Bool :=
  (chanCfg s c).valid && (if kind then c / 16 == t else (chanCfg s c).ctx == t)

/-- Whether a channel is stopped for a re-initialisation that is under way. -/
def reStopped (s : State) (c : Nat) : Bool := s.aon.fc.reBusy && reTarget s s.aon.fc.goKind s.aon.fc.goTarget c

/-- Whether a channel's context lets it start something new (R77): it is in RUN, and no ABORT is still restoring its objects. -/
def ctxRuns (s : State) (c : Nat) : Bool :=
  let k := ctx s (chanCfg s c).ctx
  k.st == .run && !k.restoring && !reStopped s c

/-- The stream of a channel when it may act: its channel runs, its context is RUN (R77), it holds a slot, and it is in the
state `p` accepts. -/
def acting (s : State) (c : Nat) (p : Stream → Bool) : Option Stream :=
  if operating s && chState s c == .running && ctxRuns s c then
    match stream s c with
    | some x => if x.slot && p x then some x else none
    | none => none
  else none

/-- The same for a descriptor of type `t` that has not started. -/
def fresh (s : State) (c : Nat) (t : Nat) : Option Stream :=
  acting s c fun x => x.st == .decoded && dType x.desc == t

/-- Whether a line's kind is that of a write. -/
def isWrite (k : LineKind) : Bool :=
  match k with
  | .write .. => true
  | .signal .. => true
  | .popWrite => true
  | .inbound .. => true
  | .read .. => false

/-- The class of a write for FENCE: 0 core space and relay, 1 stage and external memory, 2 remote (Table 12-2). -/
def locClass : Loc → Nat
  | .core .. => 0
  | .relay .. => 0
  | .remote .. => 2
  | _ => 1

/-- The outstanding writes of a channel that `p` selects by count-back generation and class. -/
def writesOut (s : State) (c : Nat) (p : Nat → Nat → Bool) : Bool :=
  s.path.lines.any fun l => l.ch == c && isWrite l.kind && p l.gen (locClass l.loc)

/-- The first late error of a channel that `p` selects (R380). -/
def lateErr (s : State) (c : Nat) (p : Nat → Nat → Bool) : Option LateErr :=
  (chan s c).late.find? fun e => p e.gen e.cls

/-- Report a late error in the descriptor that waits for it: it takes no action and ends with that code (R380). Of several such writes the
first is reported at once, without waiting for the others, and the rest are kept for the next descriptor that waits (DESIGN CHOICE, log
42). -/
def reportLate (s : State) (c : Nat) (e : LateErr) : State :=
  let x := chan s c
  finish (setChan s c { x with late := x.late.erase e }) c e.code e.detail

/-- The count-back of R58 at this moment: writes since the channel's last count-back point. -/
def sinceBack (s : State) (c : Nat) : Nat → Nat → Bool := fun g _ => g == (chan s c).gen

/-- A count-back point: later held writes and hand-offs do not wait for what was issued before it (R58). -/
def countBack (s : State) (c : Nat) : State := let x := chan s c; setChan s c { x with gen := x.gen + 1 }

/-- A hand-off of R58, R161 and R269 item 4: report a late error, or wait while a counted-back write is unacknowledged, or
act. A waiting hand-off changes nothing. -/
def handOff (s : State) (c : Nat) (act : State → State) : State :=
  match lateErr s c (sinceBack s c) with
  | some e => reportLate s c e
  | none => if writesOut s c (sinceBack s c) then s else act s

/-- The lines of a 512 B batch in external memory. -/
def fetchLines (s : State) (blk : Nat) : List Nat :=
  ((List.range 4).map fun k => blk + 128 * k).filter fun a => match locOf s a with | .ext _ => true | _ => false

/-- Whether what a fetch goes through is powered: its channel's quarter, and the memory ports of its lines (R32, R315). -/
def fetchReady (s : State) (c blk : Nat) : Bool :=
  (isl s (feIsland c)).ps == .on && (fetchLines s blk).all fun a => (isl s (44 + memPortOf s a / 2)).ps == .on

/-- The IDs of a channel's fetch. -/
def fetchIds (s : State) (c : Nat) : List Nat := (s.ports.own.filter fun e => e.kind == .fetch c).map fun e => e.id % 65536

/-- A fetch leaves: one read of each of its lines (R51, R204). -/
def sendFetch (s : State) (c blk : Nat) : State :=
  let s := setChan s c { chan s c with fetching := some blk, fetchDue := none }
  let s := (fetchLines s blk).foldl (fun s a => (ownReq s (memPortOf s a) 0 a (.fetch c)).1) s
  emit s (.fetch c blk (fetchIds s c))

/-- A batch is to be fetched: at once, or as soon as its way is powered. -/
def startFetch (s : State) (c blk : Nat) : State :=
  if fetchReady s c blk then sendFetch s c blk else setChan s c { chan s c with fetchDue := some blk }

/-- The fetches that power held back leave where their way is open now. -/
def dueFetches (s : State) : State :=
  (tkeys s.chans).foldl (fun s c => match (chan s c).fetchDue with
    | some b => if fetchReady s c b then sendFetch s c b else s
    | none => s) s

/-- Ring a channel's doorbell (R49, R71): refused in DISABLED, with a misaligned ring base, or after a failed
re-initialisation (R340); starts fetch in IDLE; otherwise sets PENDING. -/
def ringDoorbell (s : State) (c : Nat) : State :=
  let x := chan s c
  if chState s c == .disabled then
    refuse (setChan s c { x with lastCode := 2 }) (chOff c 8) 9 (feIsland c)
  else if x.blocked then
    refuse (setChan s c { x with lastCode := 2 }) (chOff c 8) 9 (feIsland c)
  else match x.st with
    | .idle =>
      if (4096 * x.cqBase.toNat) % (2 ^ x.log2n * 16) ≠ 0 then
        refuse (setChan s c { x with lastCode := 2 }) (chOff c 8) 5 (feIsland c)
      else
        let q := fe s (c / 128)
        let a := x.head.toNat / 512 * 512
        let s := setChan s c { x with
          st := .running, la := if q.fixed then 8 * q.lamaxb else 8, stamp := s.order, gen := x.gen + 1
          fetchTries := 0, fetched := [] }
        startFetch { s with order := s.order + 1 } c a
    | _ =>
      if x.pending then s
      else setChan { s with order := s.order + 1 } c { x with pending := true, pstamp := s.order }

end Sys2Proof.Machine
end

