-- ==== Sys2Proof/Machine/Clocks.lean ====
section
/-! DEFINITION. Clocks, the adaptive loop, domain power and the wake sequencer (R301 to R317). Every count of cycles is the
sender's: an expiry is a command of its own (log 9). -/

namespace Sys2Proof.Machine

/-! ### Power of a domain (R31, R314, R315) -/

/-- Whether a domain is powered and clocked. -/
def powered (s : State) (d : Nat) : Bool := (isl s d).ps == .on

/-- The lane clusters that a mover spans (R14). -/
def moverClusters (e : MoverCfg) : List Nat :=
  (List.range 8).filter fun k => decide (4 * k < e.low + 2 ^ e.log2w) && decide (e.low < 4 * k + 4)

/-- The domains that a mover uses: its clusters, its quadrants, and its Mordant units when it is cast-enabled (R320). -/
def moverDomains (e : MoverCfg) : List Nat :=
  let cl := moverClusters e
  cl ++ (dedup (cl.map fun k => 8 + k / 2)) ++ (if e.cast then cl.map fun k => 12 + k else [])

/-- The memory port that a line goes to, if any. -/
def locMemPort (s : State) : Loc → Option Nat
  | .ext pa => some (memPortOf s pa)
  | _ => none

/-- Whether the memory port of a physical address lies in pair `d`; an address inside the Miozer region has none. -/
def atPair (s : State) (d pa : Nat) : Bool := (locMemPort s (locOf s pa)).any fun m => m / 2 == d - 44

/-- Whether an inbound access that a memory port (or a core port) of a pair has accepted waits in it, or an inbound write's answer is
owed there: the pair's crossing holds it (R31, R208, R306). -/
def inboundAt (s : State) (core : Bool) (pair : Nat) : Bool :=
  (s.ports.inq.any fun q => q.core == core && q.port / 2 == pair)
    || (!core && s.path.lines.any fun l => match l.kind with | .inbound m _ => m / 2 == pair | _ => false)

/-- Whether something waits for an answer through a memory-port pair: a line, a request of the block itself, a table-walk read, a
descriptor fetch, or an inbound access (R31). -/
def pairBusy (s : State) (d : Nat) : Bool :=
  inboundAt s false (d - 44)
    || (s.path.lines.any fun l => (locMemPort s l.loc).any fun m => m / 2 == d - 44)
    || (s.ports.own.any fun e => e.port / 2 == d - 44)
    || (s.xl.walks.any fun w => (w.st == .reading || w.st == .due) && atPair s d (entryAddr w))
    || s.chans.any fun e => e.2.fetching.any (atPair s d) || e.2.fetchDue.any (atPair s d)

/-- Whether something waits for an answer through a core-port pair: a line of its cores, a relay line that one of them has still to take
or to answer, a read of the block itself at one of them (its port number is 16 above the core's), or an inbound access (R31). -/
def corePairBusy (s : State) (d : Nat) : Bool :=
  let k := d - 48
  inboundAt s true k || (s.ports.own.any fun e => decide (16 ≤ e.port) && (e.port - 16) / 2 == k)
    || s.path.lines.any fun l => match l.loc with
      | .core n _ => n / 2 == k
      | .relay n _ => (relay s n).members.getLsbD (2 * k) || (relay s n).members.getLsbD (2 * k + 1)
      | _ => false

/-- Whether a crossing out of an island still holds an event for the collector or Zoetrope (R305, R306). -/
def eventsWait (s : State) (d : Nat) : Bool :=
  (s.aon.fc.evq.any fun e => e.ev.island.val == d) || s.aon.zt.q.any fun e => e.ent.island == d

/-- Whether a lane cluster works: a mover over it has a stream in a slot, or a line of one of its lanes is not answered yet. -/
def clusterBusy (s : State) (k : Nat) : Bool :=
  ((im s).movers.any fun e => (moverClusters e).contains k && !(slots s e.low).isEmpty)
    || s.path.lines.any fun l => l.lane / 4 == k

/-- Whether a front-end quarter has a channel that is neither DISABLED nor IDLE with PENDING 0 (Table 14-6), or one with a fetch or a
record under way. -/
def quarterBusy (s : State) (q : Nat) : Bool :=
  s.chans.any fun e => e.1 / 128 == q
    && (!(chState s e.1 == .disabled || (e.2.st == .idle && !e.2.pending)) || e.2.fetching.isSome || e.2.fetchDue.isSome || e.2.recOut.isSome)

/-- Whether a domain is in use, so that it never gates outside SAFE (R14, R31, R125, R155, R168, R306, Table 14-6). -/
def domBusy (s : State) (d : Nat) : Bool :=
  if eventsWait s d then true
  else if d < 8 then clusterBusy s d
  else if d < 12 then (im s).movers.any fun e => (moverDomains e).contains d
  else if d < 20 then ((im s).movers.any fun e => e.cast && (moverDomains e).contains d) && clusterBusy s (d - 12)
  else if d < 36 then (im s).pools.any fun p => p.bgmask.getLsbD (d - 20)
  else if d < 44 then (link s (d - 36)).st != .off
  else if d = 44 then true
  else if d < 48 then pairBusy s d
  else if d < 56 then corePairBusy s d
  else if d < 58 then s.xl.walks.any fun w => w.half == d - 56
  else if d = 58 then s.img.isSome || (s.hub.rings.any fun e => e.2.en) || s.hub.hqs.any fun e => e.2.en
  else if d = 59 then s.boot.st == .loading || s.boot.imgSt == .loading || s.boot.reloadDue
  else quarterBusy s (d - 60)

/-! ### Stopped clocks (R292) -/

/-- Whether a stream waits in the sense of R292: a WAIT, a DEP, or a bound run that has still to take its slot. -/
def clockWaits (s : State) (c : Nat) : Bool :=
  match stream s c with
  | none => true
  | some x =>
    let bound := fun prod => (tkeys s.hub.rings).any fun r => (ring s r).en &&
      (if prod then (ring s r).pauto && decide ((ring s r).pchan ≤ c) && decide (c ≤ (ring s r).pchan + (ring s r).pwm1)
        else (ring s r).cauto && decide ((ring s r).cchan ≤ c) && decide (c ≤ (ring s r).cchan + (ring s r).cwm1))
    ((dType x.desc == 6 || dType x.desc == 7) && x.wait != .none && !(match x.wait with | .pop (some _) => true | .popWrite _ => true | _ => false))
      || (dPersist x.desc && (dType x.desc == 1 || dType x.desc == 2) && x.st == .decoded
          && ((x.slotP.isNone && bound true) || (x.slotC.isNone && bound false)))

/-- STOPPED of a lane cluster: its clock stands while every slot of every mover over it is empty or holds a waiting stream; whatever ends
the wait restarts it, within the same command (R292, R304). A waking cluster's clock starts, and a gated one shows the last value
(Table 14-4, R315). -/
def clusterStopped (s : State) (k : Nat) : Bool :=
  decide (k < 8) && match (isl s k).ps with
    | .waking => false
    | .gated => (isl s k).stop
    | _ => (im s).movers.all fun e => !(moverClusters e).contains k || (slots s e.low).all (clockWaits s)

/-! ### Needs and wakes (R315) -/

/-- Domains powering up at once. -/
def wakingCount (s : State) : Nat := ((List.range 64).filter fun d => (isl s d).ps == .waking).length

/-- The frequency that an island wakes at, in MHz: its FMIN, or the fixed rate of a link island (R301, R315). -/
def wakeFreq (i : Nat) (x : Island) : Nat := if adaptive i then x.fmin else 778

/-- The island voltage in mV of a frequency: what the delay monitors ask for, never above VDD_T − 25 mV at its highest code (R308, R310). -/
def islVi (s : State) (i f : Nat) : BitVec 10 := BitVec.ofNat 10 (min (Config.vi i f s.clk.temp).toNat 825)

/-- The VI that an island wakes at (R315). -/
def wakeVi (s : State) (i : Nat) : BitVec 10 := islVi s i (wakeFreq i (isl s i))

/-- The least code whose VDD_T covers a VI plus 25 mV (R310). -/
def vddtCode (v : Nat) : Nat := min 100 (max 20 (((v + 25 - 600) * 2 + 4) / 5))

/-- REQ rises to a code, if that is higher, and the wait for VDD_T starts again (R310). -/
def raiseReq (s : State) (code : Nat) : State :=
  if s.clk.req < code then { s with clk := { s.clk with req := code, settling := true } } else s

/-- Whether REQ covers the VI that a domain wakes at (R310). -/
def wakeCovered (s : State) (d : Nat) : Bool := decide (vddtCode (wakeVi s d).toNat ≤ s.clk.req)

/-- A domain starts to power up (R315). VDD_T covers the VI of its FMIN first: while a wait runs, the domain waits with it (R310, log
19). -/
def startWake (s : State) (d : Nat) : State :=
  let s := raiseReq s (vddtCode (wakeVi s d).toNat)
  setIsl s d { isl s d with ps := .waking, raise := s.clk.settling }

/-- Start queued wakes, in the order their requests arrived, while fewer than MAXWAKE domains power up (R315). -/
def startWakes : Nat → State → State
  | 0, s => s
  | n + 1, s =>
    match s.clk.wakeq with
    | [] => s
    | d :: q =>
      if wakingCount s < s.clk.maxwake then startWakes n (startWake { s with clk := { s.clk with wakeq := q } } d)
      else s

/-- Whether a domain is a bank group that no pool of a locked image names, which Miozer keeps gated (R194). -/
def bankUnnamed (s : State) (d : Nat) : Bool :=
  decide (20 ≤ d) && decide (d < 36) && !(im s).pools.any fun p => p.bgmask.getLsbD (d - 20)

/-- A need reaches a domain (R315): a gated domain's wake joins the queue, and a domain that is gating remembers the need. In a reset and in
SAFE every domain stays as R353 and R335 have it, and a bank group that no pool names stays gated (R194). -/
def need (s : State) (d : Nat) : State :=
  let x := isl s d
  if d = 0x40 ∨ s.aon.fc.st = .safe ∨ s.boot.phase ≠ .running ∨ bankUnnamed s d then s
  else match x.ps with
    | .gated =>
      if s.clk.wakeq.contains d then s
      else startWakes 64 { s with clk := { s.clk with wakeq := s.clk.wakeq ++ [d] } }
    | .gating => setIsl s d { x with wantWake := true }
    | _ => s

/-- A channel's fetch that has still to leave needs its quarter and its memory ports (R32, R315). -/
def fetchNeed (s : State) (c : Nat) : State :=
  match (chan s c).fetchDue with
  | some b => (fetchLines s b).foldl (fun s a => need s (44 + memPortOf s a / 2)) (need s (feIsland c))
  | none => s

/-- AON records a domain's gating or wake while LOGPWR is 1 (Table 16-7). -/
def logPower (s : State) (code d : Nat) : State := if s.aon.zt.logpwr then aonLog s code d 0 else s

/-- What a gated domain loses: the fields that Table 14-6 gives a fresh state. -/
def gateLoss (s : State) (d : Nat) : State :=
  if 8 ≤ d ∧ d < 12 then setKq s (d - 8) {}
  else if 12 ≤ d ∧ d < 20 then let m := md s (d - 12); setMd s (d - 12) { m with gen := if m.seed = 0 then 1 else m.seed }
  else if d = 56 ∨ d = 57 then { s with xl := { s.xl with tlb := s.xl.tlb.filter fun t => t.half != d - 56 } }
  else s

/-! ### Frequency and voltage (R308 to R310) -/

/-- The target an island steps toward: the highest that any cluster of its movers chooses (R309). The loop of a cluster without power
chooses nothing. -/
def effTarget (s : State) (i : Nat) : Nat :=
  if i < 8 then
    let mates := (((im s).movers.filter fun e => (moverClusters e).contains i).flatMap moverClusters).filter (powered s)
    (mates.map fun k => (isl s k).target).foldl max (isl s i).target
  else (isl s i).target

/-- The frequency that an island's VI is for: its target, or the fixed rate of a link island. -/
def loopFreq (s : State) (i : Nat) : Nat := if adaptive i then effTarget s i else 778

/-- The VI that an island needs: none while gated, that of its FMIN while it wakes, else its present one or the one it is raising to. -/
def needVi (s : State) (i : Nat) : Nat :=
  let x := isl s i
  match x.ps with
  | .gated => 0
  | .waking => (wakeVi s i).toNat
  | _ => max x.vi.toNat (if x.raise then (islVi s i (loopFreq s i)).toNat else 0)

/-- The least code that covers every island that is powered, raising its voltage or waking. -/
def needCode (s : State) : Nat := ((List.range 64).map fun i => vddtCode (needVi s i)).foldl max 20

/-- The VI of a frequency, as far as the code in force covers it: VI never exceeds VDD_T − 25 mV (R308). -/
def coveredVi (s : State) (i f : Nat) : BitVec 10 := BitVec.ofNat 10 (min (islVi s i f).toNat (575 + s.clk.req * 5 / 2))

/-- An island adapts to its target (R308, R310): a higher VI that VDD_T does not cover raises REQ and starts the wait, and a
wait that runs already is joined; a VI that is covered is taken at once, and so is a lower one, as the loop sets the lowest. A lower
target is stepped down to first, and ends a raise that waits. -/
def adapt (s : State) (i : Nat) : State :=
  let x := isl s i
  let f := loopFreq s i
  let v := islVi s i f
  if f < x.freq then setIsl s i { x with raise := false }
  else if v.toNat ≤ x.vi.toNat then setIsl s i { x with raise := false, vi := v }
  else
    let s := raiseReq s (vddtCode v.toNat)
    if s.clk.settling then setIsl s i { x with raise := true } else setIsl s i { x with vi := v }

/-- The islands whose target an island's loop takes part in: the clusters of its movers, or itself (R309). -/
def loopMates (s : State) (i : Nat) : List Nat :=
  if i < 8 then (List.range 8).filter fun k =>
      k == i || (im s).movers.any fun e => (moverClusters e).contains k && (moverClusters e).contains i
  else [i]

/-- Every powered island of a shared target adapts to it (R309). -/
def adaptMates (s : State) (i : Nat) : State :=
  (loopMates s i).foldl (fun s k => if (isl s k).ps == .on then adapt s k else s) s

/-- The target that a window's end leaves (R308): FMAX while FIXED or after four busy windows, 200 MHz less after sixteen idle ones, within
the limits. While a sensor reads TLIM or above none rises (R313). -/
def windowTarget (s : State) (x : Island) (hi lo : Nat) : Nat :=
  let t := if x.fixed || hi == 4 then x.fmax
    else if lo = 16 then max x.fmin (x.target - 200) else max x.fmin x.target
  min x.fmax (if s.clk.throttle then min x.target t else t)

/-- ADAPTIVE_WINDOW_END (R308, R309): a window of 40 A-cycles ends with utilisation `u` percent. -/
def execAdaptiveWindowEnd (i : Isl) (u : Fin 101) (s : State) : Host.Outcome State Fault Refusal :=
  let x := isl s i.val
  if x.ps != .on || i.val == 0x40 then .next s
  else if !adaptive i.val then .next (adapt s i.val)
  else
    let hi := if 90 ≤ u.val then min 4 (x.hi + 1) else 0
    let lo := if u.val ≤ 50 then x.lo + 1 else 0
    let s := setIsl s i.val { x with hi := hi, lo := if lo = 16 then 0 else lo, target := windowTarget s x hi lo }
    .next (adaptMates s i.val)

/-- VDDT_SETTLE_EXPIRE (R310): after SETTLE µs the waiting islands raise VI to that of their target, and waking ones may go on. -/
def execVddtSettleExpire (s : State) : Host.Outcome State Fault Refusal :=
  if !s.clk.settling then .next s
  else
    let s := { s with clk := { s.clk with settling := false } }
    .next ((List.range 64).foldl (fun s i =>
      let x := isl s i
      if !x.raise then s
      else if x.ps == .waking then setIsl s i { x with raise := false }
      else setIsl s i { x with raise := false, vi := if loopFreq s i < x.freq then x.vi else coveredVi s i (loopFreq s i) }) s)

/-- FREQ_STEP (R310): one step of 25 MHz toward the target; up only once VI is that of the target, which the island otherwise begins to
raise; at the end of a fall VI is lowered. -/
def execFreqStep (i : Isl) (s : State) : Host.Outcome State Fault Refusal :=
  let x := isl s i.val
  let t := effTarget s i.val
  if !adaptive i.val || x.ps != .on then .next s
  else if x.freq < t then
    if x.raise then .next s
    else if x.vi.toNat < (islVi s i.val t).toNat then .next (adapt s i.val)
    else .next (setIsl s i.val { x with freq := min t (x.freq + 25) })
  else if t < x.freq then
    let f := max t (x.freq - 25)
    .next (setIsl s i.val { x with freq := f, vi := if f = t then coveredVi s i.val f else x.vi })
  else .next s

/-- VDDT_LOWER_EXPIRE (R310, R351): no island has needed the higher code for 4,000 A-cycles, and REQ falls to the code needed. From cold
reset to the end of rail wait, and in a block reset, REQ stays. -/
def execVddtLowerExpire (s : State) : Host.Outcome State Fault Refusal :=
  if s.boot.phase != .running then .next s
  else .next { s with clk := { s.clk with req := min s.clk.req (needCode s) } }

/-- Whether an island's delay monitors run: it is powered and out of reset, and it is not AON, which has none (R312, R353). -/
def monitored (s : State) (i : Nat) : Bool := i != 0x40 && s.boot.phase == .running && (isl s i).ps == .on

/-- DELAY_MARGIN_NEGATIVE (R312): an island without margin suppresses `edges` clock edges. -/
def execDelayMarginNegative (i : Isl) (edges : BitVec 16) (s : State) : Host.Outcome State Fault Refusal :=
  let x := isl s i.val
  if !monitored s i.val then .next s
  else .next (setIsl s i.val { x with margin := false, stretch := satAdd 16 x.stretch edges.toNat })

/-- MARGIN_RETURN (R312): the island stops suppressing clock edges. -/
def execMarginReturn (i : Isl) (s : State) : Host.Outcome State Fault Refusal :=
  if !monitored s i.val then .next s
  else .next (setIsl s i.val { isl s i.val with margin := true })

/-- THERMAL_LIMIT (R313): a sensor reads `temp`, at TLIM or above. Every adaptive island lowers its target by one step (the
step of each 10 µs); 105 °C raises the thermal source. A reading below TLIM is only the hottest reading so far. -/
def execThermalLimit (sensor : Fin 16) (temp : Byte) (s : State) : Host.Outcome State Fault Refusal :=
  if s.boot.phase == .cold then .next s
  else if temp.toNat < s.clk.tlim then .next { s with clk := { s.clk with temp := max s.clk.temp temp.toNat } }
  else
    let s := { s with clk := { s.clk with temp := max s.clk.temp temp.toNat, throttle := true } }
    let s := (List.range 64).foldl (fun s i =>
      let x := isl s i
      if adaptive i && x.ps == .on then setIsl s i { x with target := max x.fmin (x.target - 25) }
      else s) s
    .next (if 105 ≤ temp.toNat then raise s 0x02 sensor.val temp.toNat 0x40 else s)

/-- TEMP_FALL (R313, R336): the hottest reading falls to `temp`; below TLIM throttling ends. A fall from TLIM − 10 °C or
above to below it starts the quiet count of an automatic exit. -/
def execTempFall (temp : Byte) (s : State) : Host.Outcome State Fault Refusal :=
  if s.clk.temp ≤ temp.toNat ∨ s.boot.phase = .cold then .next s
  else
    let was := s.clk.temp
    let s := { s with clk := { s.clk with temp := temp.toNat, throttle := s.clk.throttle && decide (s.clk.tlim ≤ temp.toNat) } }
    if s.clk.tlim ≤ was + 10 ∧ temp.toNat + 10 < s.clk.tlim then
      .next (setFc s { s.aon.fc with quiet := s.aon.fc.acyc })
    else .next s

/-! ### Domain power -/

/-- DOMAIN_IDLE_EXPIRE (R31, R314): a domain idle for 2^IDLEK A-cycles under AUTO enters GATING. In SAFE, R335 alone
decides. -/
def execDomainIdleExpire (d : Dom) (s : State) : Host.Outcome State Fault Refusal :=
  let x := isl s d.val
  if s.boot.phase == .running && s.aon.fc.st != .safe && x.ps == .on && !x.policy && !domBusy s d.val then
    .next (setIsl s d.val { x with ps := .gating })
  else .next s

/-- DOMAIN_GATED (R314): the switches are open. A need that came meanwhile requests the wake. -/
def execDomainGated (d : Dom) (s : State) : Host.Outcome State Fault Refusal :=
  let x := isl s d.val
  if x.ps != .gating then .next s
  else
    let s := setIsl s d.val { x with
      ps := .gated, freq := 0, vi := 0, raise := false, wantWake := false, stop := clusterStopped s d.val }
    let s := logPower (gateLoss s d.val) 0x0700 d.val
    .next (if x.wantWake then need s d.val else s)

/-- WAKE_REQUEST (R315): a need reaches a domain. -/
def execWakeRequest (d : Dom) (s : State) : Host.Outcome State Fault Refusal := .next (need s d.val)

/-- An island at its FMIN and at the VI of FMIN. With FIXED its target is FMAX at all times (R308), but none rises while a sensor reads TLIM
or above (R313). -/
def atFmin (s : State) (i : Nat) : Island :=
  let x := isl s i
  { x with ps := .on, target := if x.fixed && !s.clk.throttle then x.fmax else x.fmin, freq := wakeFreq i x, vi := wakeVi s i, hi := 0,
           lo := 0, margin := true, raise := false, wantWake := false }

/-! ### Registers of the clock page (Table 14-7) -/

/-- Offset of a register of an island block. -/
def islOff (i r : Nat) : Nat := 0x4000 + 0x10 * i + r

/-- World of an island block: its domain's; AON's is secure (Table 19-1). -/
def islSecure (s : State) (i : Nat) : Bool := i == 0x40 || domSecure s i

/-- Whether a frequency lies in the island's range and is a multiple of 25 MHz (R317). -/
def freqOk (i f : Nat) : Bool :=
  decide ((islDflt i).fmin ≤ f) && decide (f ≤ (islDflt i).fmax) && decide (f % 25 = 0)

/-- ISL_LIM_WRITE (R317): FMIN, FMAX and FIXED take effect, or the write is ignored as a whole. The target follows the new
limits, but does not rise while a sensor reads TLIM or above (R313; DEDUCED, log 19), and the loop adapts to it. For an island that
wakes, REQ rises to cover the new FMIN (R310). -/
def execIslLimWrite (i : Isl) (ns : Bool) (v : W32) (s : State) : Host.Outcome State Fault Refusal :=
  .next (mmioW s (islOff i.val 4) ns (islSecure s i.val) fun s =>
    if !adaptive i.val then s
    else
      let lo := fld v 0 11
      let hi := fld v 16 11
      let fx := bitOf v 31
      if hi < lo || !freqOk i.val lo || !freqOk i.val hi then refuse s (islOff i.val 4) 0 mmioIsland
      else
        let x := isl s i.val
        let t := if s.clk.throttle then min hi x.target else if fx then hi else min hi (max lo x.target)
        let s := setIsl s i.val { x with fmin := lo, fmax := hi, fixed := fx, target := t }
        if x.ps == .waking then startWake s i.val else adaptMates s i.val)

/-- ISL_POLICY_WRITE (R314, R315): IDLEK of 4 to 15 takes effect, other values are ignored; POLICY ON keeps the domain from
gating and is a wake need. -/
def execIslPolicyWrite (i : Isl) (ns : Bool) (v : W32) (s : State) : Host.Outcome State Fault Refusal :=
  .next (mmioW s (islOff i.val 8) ns (islSecure s i.val) fun s =>
    let x := isl s i.val
    let k := fld v 8 4
    let s := setIsl s i.val { x with policy := bitOf v 0, idlek := if 4 ≤ k then k else x.idlek }
    if bitOf v 0 then need s i.val else s)

end Sys2Proof.Machine
end

