-- ==== Sys2Proof/Machine/LinkOps.lean ====
section
/-! DEFINITION. What the link ports share: flits and their CRC, packets, routing, the outbound arbiter, replay, the DOWN
actions and changes of state (R218 to R241). -/

namespace Sys2Proof.Machine

/-! ### Flits (R220, Table 10-1) -/

/-- One bit into the reflected CRC register. -/
def crcBit (c : Nat) (b : Bool) : Nat :=
  let c1 := c / 2
  if (c % 2 = 1) != b then c1 ^^^ 0xC96C5795D7870F42 else c1

/-- `n` bits of `v` into the register, least significant first. -/
def crcBits : Nat → Nat → Nat → Nat
  | 0, _, c => c
  | n + 1, v, c => crcBits n (v / 2) (crcBit c (v % 2 = 1))

/-- The CRC-64 of R220 over the low `n` bytes of `v`. -/
def crc64 (n v : Nat) : Nat := crcBits (8 * n) v (2 ^ 64 - 1) ^^^ (2 ^ 64 - 1)

/-- Slot `k` of a flit. -/
def flitSlot (f : FlitData) (k : Nat) : Slot := f.extractLsb' (64 + 128 * k) 128

/-- The 16 slots of a flit. -/
def flitSlots (f : FlitData) : List Slot := (List.range 16).map (flitSlot f)

/-- Whether a flit's CRC is good. -/
def flitGood (f : FlitData) : Bool := decide (fld f 2112 64 = crc64 264 (f.toNat % 2 ^ 2112))

/-- FTYPE. -/
def fType (f : FlitData) : Nat := fld f 0 2
/-- FSEQ. -/
def fSeq (f : FlitData) : Nat := fld f 2 12
/-- FACK. -/
def fAck (f : FlitData) : Nat := fld f 14 12

/-- The number that a list of slots spells, the first lowest. -/
def slotsNat : List Slot → Nat
  | [] => 0
  | x :: xs => x.toNat + 2 ^ 128 * slotsNat xs

/-- A flit of the port: header, slots padded with zeros, CRC. -/
def mkFlit (ftype fseq fack : Nat) (nack : Bool) (crvc crcnt : Nat) (slots : List Slot) : FlitData :=
  let h := ftype + 4 * fseq + 2 ^ 14 * fack + (if nack then 2 ^ 26 else 0) + 2 ^ 27 * crvc + 2 ^ 30 * crcnt
  let v := h + 2 ^ 64 * slotsNat (slots.take 16)
  BitVec.ofNat 2176 (v + 2 ^ 2112 * crc64 264 v)

/-- FACK that the port sends: the last DATA flit received in order. -/
def linkAck (l : Link) : Nat := (l.rxSeq.toNat + 4095) % 4096

/-- Slots of a channel that have drained and are still to be returned to the peer (R223). -/
def owedOf (l : Link) (vc : Nat) : Nat := l.owed.toList.getD vc 0

/-- The channel whose credit goes back next: the channels with something owed are served in rotation (R223). -/
def creditTurn (l : Link) : Option Nat := ((List.range 8).map fun k => (l.crTurn + k) % 8).find? fun v => owedOf l v != 0

/-- Send one flit. Every flit carries FACK and the credit of the channel whose turn it is, and one that is to carry it NACK (R220, R223,
R225). -/
def sendFlit (s : State) (p ftype fseq : Nat) (nack : Bool) (slots : List Slot) : State :=
  let l := link s p
  match creditTurn l with
  | some v =>
    let n := min 2047 (owedOf l v)
    emit (setLink s p { l with owed := l.owed.setIfInBounds v (owedOf l v - n), crTurn := (v + 1) % 8 })
      (.flit p (mkFlit ftype fseq (linkAck l) nack v n slots))
  | none => emit s (.flit p (mkFlit ftype fseq (linkAck l) nack 0 0 slots))

/-! ### Packets (R221, Tables 10-2 and 10-3) -/

/-- OPC. -/
def pOpc (h : Slot) : Nat := fld h 0 4
/-- VC. -/
def pVc (h : Slot) : Nat := fld h 4 3
/-- DCHIP. -/
def pDchip (h : Slot) : Nat := fld h 7 8
/-- SCHIP. -/
def pSchip (h : Slot) : Nat := fld h 15 8
/-- TCHK. -/
def pTchk (h : Slot) : Nat := fld h 23 16
/-- NS. -/
def pNs (h : Slot) : Bool := bitOf h 39
/-- RTAG. -/
def pRtag (h : Slot) : Nat := fld h 43 16
/-- WIN. -/
def pWin (h : Slot) : Nat := fld h 59 8
/-- OFFSET. -/
def pOff (h : Slot) : Nat := fld h 67 26
/-- RESP. -/
def pResp (h : Slot) : Nat := fld h 93 3
/-- HOPS. -/
def pHops (h : Slot) : Nat := fld h 96 4

/-- A header slot with these fields. -/
def mkHdr (opc tc dchip schip tchk : Nat) (ns : Bool) (scope : Nat) (vol : Bool) (rtag win off resp : Nat) : Slot :=
  BitVec.ofNat 128 (opc + 2 ^ 4 * (2 * tc) + 2 ^ 7 * dchip + 2 ^ 15 * schip + 2 ^ 23 * tchk
    + (if ns then 2 ^ 39 else 0) + 2 ^ 40 * scope + (if vol then 2 ^ 42 else 0) + 2 ^ 43 * rtag + 2 ^ 59 * win
    + 2 ^ 67 * off + 2 ^ 93 * resp)

/-- Slots of a packet of an opcode; none for a reserved opcode. -/
def pktLen (opc : Nat) : Option Nat := ([1, 1, 9, 10, 2, 2, 9, 1, 2, 1, 2] : List Nat)[opc]?

/-- Whether an opcode is a request. -/
def isReq (opc : Nat) : Bool := decide (1 ≤ opc) && decide (opc ≤ 5)
/-- Whether an opcode is a response. -/
def isRsp (opc : Nat) : Bool := decide (6 ≤ opc) && decide (opc ≤ 9)

/-- A header that R221 discards: a reserved opcode, a reserved RESP, or a nonzero res0 field. -/
def badHdr (h : Slot) : Bool :=
  (pktLen (pOpc h)).isNone || decide (6 ≤ pResp h) || decide (fld h 100 28 ≠ 0) || (pOpc h == 0 && h != 0)

/-- This chip's ID. -/
def ownChip (s : State) : Nat := (im s).chip

/-- A packet's header. -/
def pktHdr (k : Packet) : Slot := k.slots.headD 0

/-- Whether a packet terminates at this chip. -/
def terminates (s : State) (k : Packet) : Bool := pDchip (pktHdr k) == ownChip s

/-- Change VC and HOPS of a header. -/
def setVcHops (h : Slot) (vc hops : Nat) : Slot :=
  let v := h.toNat
  BitVec.ofNat 128 (v - 2 ^ 4 * pVc h - 2 ^ 96 * pHops h + 2 ^ 4 * vc + 2 ^ 96 * hops)

/-! ### Routing (R232, R233) -/

/-- A chip's coordinate in dimension `k` (R34). -/
def coord (chip k : Nat) : Nat := (chip / 4 ^ k) % 4

/-- Extent of dimension `k`. -/
def extent (s : State) (k : Nat) : Nat := (im s).ext.toList.getD k 1

/-- The dimension and direction (0 +, 1 −) of the next hop of a packet of class `tc` to chip `t` (Table 10-6). -/
def hop (s : State) (t tc : Nat) : Option (Nat × Nat) :=
  match (List.range 4).find? fun k => coord (ownChip s) k != coord t k with
  | none => none
  | some k =>
    let e := extent s k
    let u := (coord t k + e - coord (ownChip s) k) % e
    some (k, if e = 2 then (if tc = 1 ∨ tc = 2 then 0 else 1)
      else if e = 3 then (if u = 1 then 0 else 1)
      else if u = 1 ∨ u = 2 then 0 else 1)

/-- A port's dimension and direction (R35). -/
def portDim (s : State) (p : Nat) : Nat × Nat :=
  let c := (im s).lcode.toList.getD p 0
  (c / 4, (c / 2) % 2)

/-- Whether a port is present. -/
def linkPresent (s : State) (p : Nat) : Bool := (im s).lPresent.getLsbD p

/-- The present port that carries a hop. -/
def portOf (s : State) (h : Nat × Nat) : Option Nat :=
  (List.range 8).find? fun p => linkPresent s p && portDim s p == h

/-- Whether a hop crosses its dimension's dateline (R233). -/
def dateline (s : State) (h : Nat × Nat) : Bool :=
  let c := coord (ownChip s) h.1
  if h.2 = 0 then c + 1 == extent s h.1 else c == 0

/-- The neighbour that a port's code predicts (R35). -/
def neighbour (s : State) (p : Nat) : Nat :=
  let d := portDim s p
  let e := extent s d.1
  let c := coord (ownChip s) d.1
  let c' := if d.2 = 0 then (c + 1) % e else (c + e - 1) % e
  ownChip s + c' * 4 ^ d.1 - c * 4 ^ d.1

/-! ### Changes of state (R227) -/

/-- The value of a state (Table 10-5). -/
def LinkSt.code : LinkSt → Nat
  | .off => 0 | .detect => 1 | .wake => 2 | .eq => 3 | .lock => 4 | .ident => 5 | .active => 6 | .transit => 7
  | .refused => 8 | .retrain => 9 | .down => 10

/-- A port changes state: Zoetrope event 0x0300 + n, and pending bit 4 for line 37. -/
def linkTo (s : State) (p : Nat) (st : LinkSt) : State :=
  let l := link s p
  if l.st == st then s
  else
    let s := setLink s p { l with st := st, reason := if st == .refused then l.reason else 0 }
    pendSrc (zlog s (0x24 + p) (0x0300 + p) (st.code + 16 * l.st.code + 256 * l.pchip) (link s p).reason) 4

/-- Whether a port carries traffic. -/
def linkUp (l : Link) : Bool := l.st == .active || l.st == .transit

/-! ### The transmitter (R223 to R225) -/

/-- Credit of a channel. -/
def credit (l : Link) (vc : Nat) : Nat := l.cred.toList.getD vc 0

/-- Change the credit of a channel. -/
def setCredit (l : Link) (vc n : Nat) : Link := { l with cred := l.cred.setIfInBounds vc n }

/-- Whether an input of the outbound arbiter of port `p` is fenced (R197). -/
def linkFenced (s : State) (p i : Nat) : Bool := (tget (fun _ => 0) s.stage.fenceLink p).getLsbD i

/-- A waiting packet may start: its input is not fenced and its channel has credit for the whole packet. -/
def startable (s : State) (p vc : Nat) (k : Packet) : Bool :=
  let l := link s p
  pVc (pktHdr k) == vc && decide (k.slots.length ≤ credit l vc) && !linkFenced s p k.via

/-- The virtual channels in the order of R224 for the next packet start. -/
def vcOrder (l : Link) : List Nat :=
  let pair := fun tc => if l.dlTurn.getLsbD tc then [2 * tc + 1, 2 * tc] else [2 * tc, 2 * tc + 1]
  (if l.starts % 8 = 7 then pair 2 else []) ++ pair 3 ++ pair 0 ++ pair 1 ++ pair 2

/-- The turn hints of a decision (R196): each input that requests and is not granted hears how many requesting inputs rank above it, at most
63; a fenced one gets none. -/
def turnHints (rank req : List Nat) (fenced : Nat → Bool) (granted : Nat) : List (Nat × Nat) :=
  ((dedup req).filter fun i => i != granted && !fenced i).map fun i =>
    (i, min 63 ((rank.takeWhile (· != i)).filter req.contains).length)

/-- The packet that starts next: the first channel with a startable packet, its inputs by rotating rank (R195). -/
def nextStart (s : State) (p : Nat) : Option Packet :=
  let l := link s p
  (vcOrder l).findSome? fun vc =>
    l.rank.findSome? fun i => l.txq.find? fun k => k.via == i && startable s p vc k

/-- Start waiting packets while there is credit and the replay buffer has room (R223 to R225). Each packet fills a DATA flit
of its own, its unused slots NULL (DESIGN CHOICE, log 20). -/
def pump : Nat → State → Nat → State
  | 0, s, _ => s
  | n + 1, s, p =>
    let l := link s p
    if !linkUp l || 512 ≤ l.replay.length then s
    else match nextStart s p with
      | none => s
      | some k =>
        let vc := pVc (pktHdr k)
        let l1 := setCredit l vc (credit l vc - k.slots.length)
        let l2 := { l1 with
          txq := l.txq.erase k, replay := l.replay ++ [(l.txSeq, k.slots)], txSeq := l.txSeq + 1, starts := l.starts + 1
          dlTurn := putBit l.dlTurn (vc / 2) (vc % 2 = 0), rank := l.rank.erase k.via ++ [k.via]
          hints := turnHints l.rank ((l.txq.filter fun q => pVc (pktHdr q) == vc).map (·.via)) (linkFenced s p) k.via }
        pump n (sendFlit (setLink s p l2) p 1 l.txSeq.toNat false k.slots) p

/-- `n` slots of a channel have drained: their credit is owed to the peer, and goes back in the next flit; an IDLE flit while the link is up
(R223). -/
def returnCredit (s : State) (p vc n : Nat) : State :=
  let l := link s p
  let s := setLink s p { l with owed := l.owed.setIfInBounds vc (owedOf l vc + n) }
  if linkUp l then sendFlit s p 0 0 false [] else s

/-! ### DOWN actions (R226) -/

/-- The ERRRSP that answers a request, from this chip back to the originator. -/
def errFor (s : State) (h : Slot) (resp : Nat) : Packet :=
  ⟨[mkHdr 9 0 (pSchip h) (ownChip s) 0 (pNs h) 0 false (pRtag h) 0 0 resp], 32⟩

/-- Count a packet in PKTDROP of port `p`. -/
def countDrop (s : State) (p : Nat) : State :=
  let l := link s p
  setLink s p { l with pktdrop := satAdd 16 l.pktdrop 1 }

/-- An event of R234 at port `p`: ROUTE counts it, and the link-route source is raised. -/
def routeEvent (s : State) (p : Nat) (k : Packet) : State :=
  let l := link s p
  let h := pktHdr k
  raise (setLink s p { l with route := satAdd 16 l.route 1 }) (0xB0 + p) (pDchip h) (pHops h) (0x24 + p)

/-- A packet of this chip whose selected port is absent is handled as at a DOWN port (R234). No port is named for its event and its count
there: a freely chosen one has them (log 21). -/
def absentDrop (s : State) (k : Packet) : State :=
  let q := Config.pick s.fresh % 8
  countDrop (routeEvent (bump s) q k) q

/-- Put a packet at the outbound arbiter of port `q`, if the port is up or retraining; otherwise discard it. The class and
dateline of the hop are set here (R222, R233); `prior` is the dimension it came by. -/
def enqueue (s : State) (q : Nat) (k : Packet) (h : Nat × Nat) (prior : Option Nat) : State :=
  let l := link s q
  if linkUp l || l.st == .retrain then
    let hd := pktHdr k
    let dl := if dateline s h then 1 else if prior = some h.1 then pVc hd % 2 else 0
    let k' : Packet := ⟨setVcHops hd (2 * (pVc hd / 2) + dl) (pHops hd) :: k.slots.tail, k.via⟩
    pump 1 (setLink s q { l with txq := l.txq ++ [k'] }) q
  else countDrop s q

/-- A response or barrier message on its way with no alternative: sent, or discarded when its port is not up; an absent port or one in
REFUSED is an event of R234. -/
def sendOrDrop (s : State) (k : Packet) : State :=
  match hop s (pDchip (pktHdr k)) (pVc (pktHdr k) / 2) with
  | none => s
  | some h =>
    match portOf s h with
    | some q => enqueue (if (link s q).st == .refused then routeEvent s q k else s) q k h none
    | none => absentDrop s k

/-- Deliver an answer that this chip gives itself: it lands in port `p`'s receive buffer without credit. -/
def deliverOwn (s : State) (p : Nat) (k : Packet) : State :=
  let l := link s p
  setLink s p { l with rxq := l.rxq ++ [⟨k.slots, 1⟩] }

/-- What a DOWN port does with a packet (R226): a request is answered ERRRSP with LINK toward its originator; a response or
barrier message is discarded. Both count in PKTDROP. -/
def dropPkt (s : State) (p : Nat) (k : Packet) : State :=
  let s := countDrop s p
  let h := pktHdr k
  if isReq (pOpc h) then
    let e := errFor s h 5
    if pSchip h == ownChip s then deliverOwn s p e else sendOrDrop s e
  else s

/-- The DOWN actions on everything a port holds. -/
def downActions (s : State) (p : Nat) : State :=
  let l := link s p
  let held := (l.replay.map fun e => (⟨e.2, 0⟩ : Packet)) ++ l.txq
  let s := setLink s p { l with
    replay := [], txq := [], rxPart := [], cred := Vector.replicate 8 0, owed := Vector.replicate 8 0, nack := false, nackRun := 0 }
  held.foldl (fun s k => dropPkt s p k) s

/-- Enter DOWN: the link-down source is raised with the state left and PKTDROP. The state changes before the packets are
handled, so that no answer waits at the port that goes down. -/
def enterDown (s : State) (p : Nat) : State :=
  let st := (link s p).st
  let s := downActions (linkTo s p .down) p
  let l := link s p
  let s := setLink s p { l with downs := satAdd 8 l.downs 1, decided := none, peerConf := none, identLast := none, lanes := 0 }
  raise s (0xC0 + p) st.code (link s p).pktdrop (0x24 + p)

/-- A lane's record. -/
def laneOf (l : Link) (k : Nat) : Lane := tget (fun _ => {}) l.lane k

/-- Start the counts of consecutive READY frames anew; the transmitters keep their taps. -/
def clearReady (l : Link) : Link :=
  (List.range 8).foldl (fun l k =>
    { l with lane := tset (fun _ => {}) l.lane k { laneOf l k with peerReady := 0 } }) l

/-- XOR of bytes 0 to 6 of a training field. -/
def frameCheck (f : W64) : Nat := (List.range 7).foldl (fun a k => a ^^^ fld f (8 * k) 8) 0

/-- The training field sent on a lane: no request of its own, the outcome of the peer's, PRECODED, and READY (this side's
receivers are within target, DESIGN CHOICE, log 22). -/
def laneFrame (x : Lane) (lane : Nat) : W64 :=
  let v := 3 + 2 ^ 4 * x.status + 2 ^ 24 * x.ackn.toNat + (if x.precoded then 2 ^ 33 else 0) + 2 ^ 34 + 2 ^ 48 * lane
  BitVec.ofNat 64 (v + 2 ^ 56 * frameCheck (BitVec.ofNat 64 v))

/-- The PAM4 levels of a frame up to its PRBS13Q: the marker, and each bit of the field as two symbols (R231). -/
def frameHead (f : W64) : List Nat :=
  List.replicate 16 3 ++ List.replicate 16 0
    ++ (List.range 64).flatMap fun i => List.replicate 2 (if f.getLsbD i then 3 else 0)

/-- Every lane sends its first frame, as on entering EQ or RETRAIN; its later ones follow the peer's, frame by frame (R231). -/
def sendFrames (s : State) (p : Nat) : State :=
  (List.range 8).foldl (fun s k => emit s (.frame p k (laneFrame (laneOf (link s p) k) k))) s

/-- Enter RETRAIN from ACTIVE or TRANSIT (R226). -/
def enterRetrain (s : State) (p : Nat) : State :=
  let l := link s p
  if linkUp l then
    sendFrames (linkTo (setLink s p { clearReady l with
      pre := l.st, retrains := satAdd 8 l.retrains 1, sub := 0, decided := none, peerConf := none, identLast := none, nackRun := 0
      syncRun := 0, lanes := 0 }) p .retrain) p
  else s

/-- Leave a state for DETECT or OFF, with the DOWN actions if the port held traffic (R227). -/
def leaveTo (s : State) (p : Nat) (st : LinkSt) : State :=
  let s := downActions (linkTo s p st) p
  let l := link s p
  setLink s p { l with decided := none, peerConf := none, identLast := none, sub := 0, lanes := 0, lane := [], syncRun := 0 }

/-- Whether a port may leave OFF (Table 10-5). -/
def mayTrain (s : State) (p : Nat) : Bool :=
  s.img.isSome && linkPresent s p && !(link s p).disable && s.boot.phase == .running && powered s (0x24 + p)

/-- OFF to DETECT where Table 10-5 lets it; a gated domain holds the port in OFF. -/
def tryDetect (s : State) (p : Nat) : State :=
  if (link s p).st == .off && mayTrain s p then linkTo s p .detect else s

/-- A present port that only its gated domain holds in OFF is woken for its training when the image is locked (DEDUCED, log 33); a register
write is no such need (R372). -/
def trainNeed (s : State) (p : Nat) : State :=
  if linkPresent s p && !(link s p).disable && !powered s (0x24 + p) then need s (0x24 + p) else s

/-- Send a packet that this chip originates or answers, at arbiter input `via`: over the port that R232 selects, or under the
DOWN rules when that port is not up; a packet for this chip itself is delivered to its own link inbound unit (R232), held in
L0's buffer without credit. An absent port or one in REFUSED is an event of R234. -/
def sendPkt (s : State) (k : Packet) : State :=
  match hop s (pDchip (pktHdr k)) (pVc (pktHdr k) / 2) with
  | none => deliverOwn s 0 k
  | some h =>
    match portOf s h with
    | none =>
      let s := absentDrop s k
      if isReq (pOpc (pktHdr k)) && pSchip (pktHdr k) == ownChip s then deliverOwn s 0 (errFor s (pktHdr k) 5) else s
    | some q =>
      let l := link s q
      if linkUp l || l.st == .retrain then enqueue s q k h none
      else dropPkt (if l.st == .refused then routeEvent s q k else s) q k

/-- Take packet number `i` out of port `p`'s receive buffer and return its credit. -/
def takePkt (s : State) (p i : Nat) : State :=
  let l := link s p
  match l.rxq[i]? with
  | none => s
  | some k =>
    let s := setLink s p { l with rxq := dropAt i l.rxq }
    if k.via % 2 = 0 then returnCredit s p (pVc (pktHdr k)) k.slots.length else s

/-- The oldest packet in port `p`'s receive buffer that `f` accepts: its place and the packet. -/
def oldest (s : State) (p : Nat) (f : Packet → Bool) : Option (Nat × Packet) :=
  let q := (link s p).rxq
  ((List.range q.length).zip q).find? fun e => f e.2

/-! ### Codes of the buffers (R239) -/

/-- The event of a corrected error in a buffer of a port (R239); the manual numbers no buffers, so detail A is free. -/
def linkCorr (s : State) (p : Nat) : State := raise s (0xB8 + p) (Config.unstated s.fresh).toNat 0 (0x24 + p)

/-- A packet whose header is uncorrectable is handled as a discarded packet of R221 (R239). -/
def discardHdr (s : State) (p : Nat) (k : Packet) : State :=
  raise (countDrop s p) (0xA8 + p) (fld (pktHdr k) 0 64) (pSchip (pktHdr k)) (0x24 + p)

/-- The event of a corrected error of a receive buffer. -/
def rxCorr (s : State) (p : Nat) (ecc : RxEcc) : State := if ecc == .corrected then linkCorr s p else s

end Sys2Proof.Machine
end

