-- ==== Sys2Proof/Machine/HubOps.lean ====
section
/-! DEFINITION. The sync hub's shared operations: rings (R157 to R170), handle queues (R171 to R173), barrier objects and
their messages (R280 to R296), mailboxes (R297, R298), pool triggers (R190), and the start of a context switch (R77). -/

namespace Sys2Proof.Machine

/-! ### Waiting streams -/

/-- A value that the manual does not state, of 8 bits (log 17). -/
def anyDetail (s : State) : Nat := Config.pick s.fresh % 256

/-- A refusal of world for a sync operation (Table 15-3): a notice of path 5, and the descriptor completes with WORLD. Its
DETAIL is not stated: a free value. -/
def worldRefuse (s : State) (c addr : Nat) : State :=
  let d := anyDetail s
  finish (notice s 5 2 c addr 0) c cWORLD d

/-- The channels whose stream waits as `p` says, in a context that is not OUT. -/
def waitingChans (s : State) (p : Stream → Bool) : List Nat :=
  (s.chans.filter fun e => (match e.2.stream with | some x => p x | none => false)
    && (ctx s (chanCfg s e.1).ctx).st != .out && (ctx s (chanCfg s e.1).ctx).st != .resuming).map (·.1)

/-- The order stamp of a channel's stream. -/
def stampOf (s : State) (c : Nat) : Nat := match stream s c with | some x => x.stamp | none => 0

/-- The waiter that began first; the lowest channel among equals. A PUSH or POP that is resumed after a switch-out keeps the place it
had, where R173 does not say what place it takes (DESIGN CHOICE, log 46). -/
def firstWaiter (s : State) : List Nat → Option Nat
  | [] => none
  | c :: cs =>
    match firstWaiter s cs with
    | none => some c
    | some d => if stampOf s d < stampOf s c then some d else some c

/-- A stream begins to wait, with the next order stamp. -/
def beginWait (s : State) (c : Nat) (w : Wait) : State :=
  let t := s.order
  modStream { s with order := t + 1 } c fun x => { x with st := .started, wait := w, stamp := t }

/-- The tiles of a context that are not past their pre-walk, and the reads that precede tiles, keep nothing of their translation: their
requests leave the walks in flight, and what was found for them is forgotten (R252, R253). -/
def forgetWalks (s : State) (x : Nat) : State :=
  let s := { s with xl := { s.xl with walks := s.xl.walks.map fun w => if w.advice then w else
    { w with reqs := w.reqs.filter fun r => r.warm || (chanCfg s r.ch).ctx != x } } }
  (ctxChans s x).foldl (fun s c => modStream s c fun y =>
    { y with pre := [], tiles := y.tiles.map fun t => if t.walked then t else { t with xset := [] } }) s

/-- A context in RUN starts to switch out (R77): it issues no new tile, and what is not past its pre-walk is forgotten. The cause is kept
until it is OUT. -/
def ctxSwitch (s : State) (x cause : Nat) : State :=
  let k := ctx s x
  if k.st == .run then setCtx (forgetWalks s x) x { k with st := .switching, cause := cause } else s

/-! ### Rings -/

/-- N of a ring. -/
def ringN (x : Ring) : Nat := x.nm1 + 1

/-- Why a ring refuses a produce or a release from a SIGNAL or a register: the DETAILs that apply (R158, R159). -/
def ringFails (x : Ring) (prod : Bool) : List Nat :=
  (if !x.en || x.fault || (if prod then x.fill == ringN x else x.fill == 0) then [11] else [])
    ++ (if (if prod then x.pauto else x.cauto) then [12] else [])

/-- One produce (R158): TAIL, FILL, PCNT, and PRES while the side is not bound. -/
def ringProduce (x : Ring) : Ring :=
  let t := (x.tail + 1) % ringN x
  { x with tail := t, pres := if x.pauto then x.pres else t, fill := x.fill + 1, pcnt := x.pcnt + 1 }

/-- One release (R158). -/
def ringRelease (x : Ring) : Ring :=
  let h := (x.head + 1) % ringN x
  { x with head := h, cres := if x.cauto then x.cres else h, fill := x.fill - 1, ccnt := x.ccnt + 1 }

/-- A ring's FAULT is set: pending bit 5 (line 38). -/
def ringFault (s : State) (r : Nat) : State := pendSrc (setRing s r { ring s r with fault := true }) 5

/-- Whether a ring's register block and operations are secure (R170). -/
def ringSecure (s : State) (r : Nat) : Bool := s.img.isNone || !(ring s r).ns

/-- Realignment of a ring at a release that leaves epoch `e` (R169). -/
def ringRealign (s : State) (r : Nat) (e : BitVec 2) : State :=
  let x := ring s r
  if x.resP.isEmpty && x.resC.isEmpty && x.fill == 0 then
    setRing s r { x with head := 0, tail := 0, pres := 0, cres := 0, pcnt := 0, ccnt := 0, epoch := e, ordP := 0, ordC := 0,
                         issP := 0, issC := 0 }
  else raise (ringFault s r) 0x0B r 0 0x3A

/-! ### Handle queues -/

/-- World of a queue (R170). -/
def hqSecure (s : State) (q : Nat) : Bool := s.img.isNone || !(hq s q).ns

/-- Whether a channel's operation meets a ring, queue or object of the secure world that it may not use (R322, R325). -/
def hubWorldBad (s : State) (c : Nat) (secure : Bool) : Bool := !chanSecure s c && secure

/-- The POP that is served next: waiting without a handle. -/
def popWaiter (s : State) (q : Nat) : Option Nat :=
  firstWaiter s (waitingChans s fun x => x.wait == .pop none && dW x.desc 5 16 8 == q && dType x.desc == 6)

/-- The PUSH that waits longest for an entry. -/
def pushWaiter (s : State) (q : Nat) : Option Nat :=
  firstWaiter s (waitingChans s fun x => x.wait == .push && dW x.desc 4 24 8 == q && dType x.desc == 5)

/-- Serve waiting POPs and PUSHes while it is possible (R172, R173), each against the world that the queue then has (R325). -/
def hqSettle : Nat → State → Nat → State
  | 0, s, _ => s
  | n + 1, s, q =>
    let x := hq s q
    match x.q, popWaiter s q with
    | h :: t, some c =>
      if hubWorldBad s c (hqSecure s q) then hqSettle n (worldRefuse s c q) q
      else hqSettle n (modStream (setHq s q { x with q := t }) c fun y => { y with wait := .pop (some h) }) q
    | _, _ =>
      if x.en && decide (x.q.length < 64) then
        match pushWaiter s q with
        | some c =>
          if hubWorldBad s c (hqSecure s q) then hqSettle n (worldRefuse s c q) q else
          let h := match stream s c with | some y => BitVec.ofNat 32 (dW y.desc 5 0 32) | none => 0
          hqSettle n (finish (setHq s q { x with q := x.q ++ [h] }) c cOK 0) q
        | none => s
      else s

/-- Push a handle on a queue with room, and serve who waits. -/
def hqPush (s : State) (q : Nat) (h : W32) : State :=
  let x := hq s q
  hqSettle 1024 (setHq s q { x with q := x.q ++ [h] }) q

/-! ### Pool triggers (R190, R191) -/

/-- The groups of a mask in ascending order. -/
def maskGroups (m : BitVec 16) : List Nat := (List.range 16).filter fun g => m.getLsbD g

/-- Whether a stage offset lies in a pool. -/
def inPool (p : PoolCfg) (off : Nat) : Bool :=
  decide (0x80000 * p.base ≤ off) && decide (off < 0x80000 * (p.base + p.size))

/-- Whether a location lies in a pool's window. -/
def locInPool (p : PoolCfg) : Loc → Bool
  | .stage off => inPool p off
  | _ => false

/-- Output lines of a group that have still to be issued as writes. -/
def groupOuts (g : Group) : List OutLine := g.outs ++ g.emitted.map (·.line) ++ g.ready.map (·.line)

/-- Whether a stream accumulates into a line of a pool that it has read and not issued yet. -/
def accInPool (p : PoolCfg) (x : Stream) : Bool :=
  x.tiles.any fun t => t.groups.any fun g => g.landed.any fun e =>
    e.2.1 == .acc && locInPool p e.1 && (groupOuts g).any fun o => o.loc == e.1

/-- Whether an inbound access to a pool waits: at a memory or core port, or as a request of a receive buffer (R27, R236). -/
def inboundInPool (s : State) (p : PoolCfg) : Bool :=
  (s.ports.inq.any fun q => locInPool p (locOf s q.req.addr.toNat))
    || s.links.any fun e => e.2.rxq.any fun k =>
      terminates s k && isReq (pOpc (pktHdr k))
        && inPool p (4096 * (win s (pWin (pktHdr k))).base.toNat + pOff (pktHdr k))

/-- No line of the pool is held by a tag, no inbound access to it waits, and no accumulation of a line of it is unacknowledged (R190). -/
def poolQuiet (s : State) (p : PoolCfg) : Bool :=
  !(s.path.lines.any fun l => locInPool p l.loc) && !inboundInPool s p
    && !s.chans.any fun e => e.2.stream.any (accInPool p)

/-- A trigger reaches pool `p`: an armed quiescent pool takes its next salt and its groups start to migrate. -/
def poolTrigger (s : State) (p : Nat) : State :=
  match (im s).pools[p]? with
  | none => s
  | some c =>
    let x := poolSt s p
    if x.armed && poolQuiet s c then
      let s := setPoolSt s p { x with armed := false, old := x.salt, salt := x.next }
      (maskGroups c.bgmask).foldl (fun s g => let b := bg s g; setBg s g { b with migr := dedup (b.migr ++ [p]) }) s
    else s

/-- The triggers of a release of object `o`. -/
def poolBarrier (s : State) (o : Nat) : State :=
  (List.range 32).foldl (fun s p => if (poolSt s p).aen && (poolSt s p).bobj.toNat == o then poolTrigger s p else s) s

/-- The triggers of a REARM accepted by channel `c`. -/
def poolRearm (s : State) (c : Nat) : State :=
  (List.range 32).foldl (fun s p => if (poolSt s p).ren && (poolSt s p).rchan.toNat == c then poolTrigger s p else s) s

/-! ### Barrier objects -/

/-- The context that owns an object, and whether the object is privileged (R285). -/
def objOwner (s : State) (o : Nat) : Option (Nat × Bool) :=
  ((List.range 64).find? fun c => let k := ctx s c; k.own && decide (k.base ≤ o) && decide (o < k.base + k.count)).map
    fun c => (c, decide (o < (ctx s c).base + 16))

/-- HOME of an object. -/
def barHome (s : State) (o : Nat) : Nat := (bar s o).home.getD (ownChip s)

/-- LO of an object in dimension `k`; an unconfigured object's box holds this chip alone (R280). -/
def barLo (s : State) (o k : Nat) : Nat :=
  if (bar s o).home.isNone && (bar s o).lo == 0 && (bar s o).lenm1 == 0 then coord (ownChip s) k else fld (bar s o).lo (2 * k) 2

/-- LEN of an object's box in dimension `k`. -/
def barLen (s : State) (o k : Nat) : Nat := fld (bar s o).lenm1 (2 * k) 2 + 1

/-- Whether a chip lies in the object's box (R286). -/
def inBox (s : State) (o chip : Nat) : Bool :=
  (List.range 4).all fun k => decide ((coord chip k + extent s k - barLo s o k) % extent s k < barLen s o k)

/-- The object a virtual ID names in a context, or the refusal (R284, R285): `some none` is STATE, DETAIL 14. -/
def barObj (s : State) (x v : Nat) : Option Nat :=
  let k := ctx s x
  let o := k.base + v
  if k.count ≤ v ∨ 4095 < o then none
  else match objOwner s o with
    | some (w, true) => if w = x ∧ barHome s o = ownChip s then some o else none
    | _ => some o

/-- The channels that wait on an object. -/
def barWaiters (s : State) (o : Nat) : List Nat :=
  waitingChans s fun x => match x.wait with | .barrier p _ _ => p == o | _ => false

/-- The tag a channel's waiting stream took. -/
def waitTag (s : State) (c : Nat) : BitVec 2 :=
  match stream s c with
  | some x => (match x.wait with | .barrier _ t _ => t | _ => 0)
  | none => 0

/-- A barrier message (Tables 10-2, 13-3). -/
def barrPkt (s : State) (dchip kind obj epoch pm1 result chan dim rem home : Nat) (ns : Bool) : Packet :=
  let body := kind + 2 ^ 3 * obj + 2 ^ 15 * epoch + 2 ^ 17 * pm1 + 2 ^ 31 * result + 2 ^ 35 * chan + 2 ^ 44 * dim
    + 2 ^ 46 * rem + 2 ^ 48 * home
  ⟨[mkHdr 10 3 dchip (ownChip s) 0 ns 0 false 0 0 0 0, BitVec.ofNat 128 ((im s).cfgTag.toNat + 2 ^ 64 * body)], 41⟩

/-- Send a single-hop message to the neighbour in dimension `k`, direction `d`; an absent port or one in REFUSED is an event of R234. -/
def sendHop (s : State) (k d : Nat) (f : Nat → Packet) : State :=
  match portOf s (k, d) with
  | none => absentDrop s (f (ownChip s))
  | some q =>
    let l := link s q
    let pk := f (neighbour s q)
    if linkUp l || l.st == .retrain then enqueue s q pk (k, d) none
    else dropPkt (if l.st == .refused then routeEvent s q pk else s) q pk

/-- `spread(x, L)` of R288: the message of kind `kind` goes up and down in each dimension from `lo` on. -/
def spread (s : State) (o lo kind : Nat) (epoch : BitVec 2) (home : Nat) (ns : Bool) : State :=
  ((List.range 4).filter fun k => decide (lo ≤ k) && decide (1 < barLen s o k)).foldl (fun s k =>
    let e := extent s k
    let a := (coord (ownChip s) k + e - barLo s o k) % e
    let n := barLen s o k
    let up := if n = e then e / 2 else n - 1 - a
    let down := if n = e then e - 1 - up else a
    let go := fun s d r => if r = 0 then s
      else sendHop s k d fun chip => barrPkt s chip kind o epoch.toNat 0 0 0 k (r - 1) home ns
    go (go s 0 up) 1 down) s

/-- A WAIT BARRIER or DEP BARRIER waits with its tag, or completes at once: OK when the copy has advanced, and as R293 and R295
say when the object stands cleared or poisoned (DEDUCED, log 30). -/
def barWait (s : State) (c o : Nat) (tag : BitVec 2) (dep : Bool) : State :=
  if tag != (bar s o).epoch then finish s c cOK 0
  else match (bar s o).st with
    | .abandoned => ctxSwitch (finish s c cABANDONED 0) (chanCfg s c).ctx 3
    | .poisoned => finish s c cPOISONED 0
    | _ => beginWait s c (.barrier o tag dep)

/-- Apply a release to this chip's copy in the order of R291: EPOCH, rings and pools, then the waiters whose condition now
holds. -/
def applyRelease (s : State) (o : Nat) (e : BitVec 2) : State :=
  let s := setBar s o { bar s o with epoch := e }
  let s := (tkeys s.hub.rings).foldl (fun s r =>
    if (ring s r).aen && (ring s r).bobj.toNat == o then ringRealign s r e else s) s
  let s := poolBarrier s o
  (barWaiters s o).foldl (fun s c => if waitTag s c != e then finish s c cOK 0 else s) s

/-- An object is cleared or poisoned on this chip (R293, R295): its waiters complete, and each context with a waiter of a
cleared object is switched out in turn. A poisoned object stays so (R295). -/
def applyClear (s : State) (o : Nat) (poison : Bool) : State :=
  let ws := barWaiters s o
  let s := setBar s o { bar s o with st := if poison || (bar s o).st == .poisoned then .poisoned else .abandoned }
  ws.foldl (fun s c =>
    let s := finish s c (if poison then cPOISONED else cABANDONED) 0
    if poison then s else ctxSwitch s (chanCfg s c).ctx 3) s

/-- Clear or poison an object from this chip (R287, R293): at its home it is applied and spread; elsewhere the message goes
to the home, and the copy follows when the home's spread reaches it. -/
def clearObj (s : State) (o : Nat) (poison : Bool) : State :=
  let kind := if poison then 4 else 3
  let h := barHome s o
  if h = ownChip s then applyClear (spread s o 0 kind 0 h (!barSecure s o)) o poison
  else sendPkt s (barrPkt s h kind o 0 0 0 0 0 0 h (!barSecure s o))

/-- The outcome of an arrival at the home (R281, R285, R286, R327, Table 13-4): code and DETAIL. A refused arrival leaves the
object unchanged. No other chip may arrive at a privileged object. -/
def homeArrive (s : State) (o pm1 : Nat) (tag : BitVec 2) (ns : Bool) (chip chan : Nat) : State × Nat × Nat :=
  let x := bar s o
  if ns && barSecure s o then (s, cWORLD, anyDetail s)
  else if !inBox s o chip || (chip != ownChip s && (objOwner s o).any (·.2)) then (s, cSTATE, 14)
  else if x.st == .abandoned then (s, cABANDONED, 0)
  else if x.st == .poisoned then (s, cPOISONED, 0)
  else if x.st == .saved then (s, cSTATE, 14)
  else if tag != x.epoch || (x.st == .gather && x.need.toNat != pm1) then (raise s 0x09 o chan 0x3A, cSTATE, 13)
  else
    let n := x.count.toNat + 1
    if n = pm1 + 1 then
      let e := x.epoch + 1
      let s := setBar s o { x with st := .idle, count := 0, need := BitVec.ofNat 14 pm1 }
      let s := applyRelease s o e
      (spread s o 0 2 e (barHome s o) (!barSecure s o), cOK, 0)
    else (setBar s o { x with st := .gather, count := BitVec.ofNat 14 n, need := BitVec.ofNat 14 pm1 }, cOK, 0)

/-! ### Mailboxes -/

/-- Level of MZ_CWAKE[n]: high while GO of a mailbox tied to the core is 1 (R298); low while PD58 is isolated (R335, R363; DEDUCED, the wake
line is an output of the sync hub). -/
def cwake (s : State) (n : Nat) : Bool :=
  !isolated s 58 && (List.range 32).any fun m => (mb s m).go && (mbCfg s m).kind == 3 && (mbCfg s m).target == n

/-- Set a mailbox's GO and raise its receiver's wake event (R298); that of a core is `cwake`. -/
def mbGo (s : State) (m : Nat) : State :=
  let s := setMb s m { mb s m with go := true }
  let k := mbCfg s m
  if k.kind = 1 then need (ringDoorbell s k.target) (0x3C + k.target / 128)
  else if k.kind = 2 then pendSrc s 0
  else if k.kind = 4 then need s 0x3B
  else s

/-- The words that a MAILBOX descriptor writes: in the descriptor, or read from SRC. -/
def mbWords (x : Stream) (read : List W32) : List W32 :=
  if bitOf x.desc 42 then (List.range 12).map fun k => BitVec.ofNat 32 (fld x.desc (128 + 32 * k) 32) else read

/-- Write words 0 to LEN − 1, LEN and GO in one hub operation (R69, R297), and complete the descriptor. -/
def mbFill (s : State) (c : Nat) (x : Stream) (words : List W32) : State :=
  let m := tw x.desc 0 5
  let len := tw x.desc 5 5
  let b := mb s m
  let ws := (List.range 16).foldl (fun w k =>
    if k < len then w.setIfInBounds k ((mbWords x words).getD k 0) else w) b.words
  let s := finish (setMb s m { b with words := ws, len := len }) c cOK 0
  if bitOf x.desc 43 then mbGo s m else s

/-- The MAILBOX descriptor that has waited longest for the mailbox (R297). -/
def mbWaiter (s : State) (m : Nat) : Option Nat :=
  firstWaiter s (waitingChans s fun x => (match x.wait with | .mailbox _ => true | _ => false) && tw x.desc 0 5 == m)

/-- Serve waiting MAILBOX descriptors while GO is 0. -/
def mbServe : Nat → State → Nat → State
  | 0, s, _ => s
  | n + 1, s, m =>
    if (mb s m).go then s
    else match mbWaiter s m with
      | none => s
      | some c =>
        match stream s c with
        | some x => mbServe n (mbFill s c x (match x.wait with | .mailbox w => w | _ => [])) m
        | none => s

end Sys2Proof.Machine
end

