-- ==== Sys2Proof/Machine/Flags.lean ====
section
/-! DEFINITION. Status registers as software reads them, computed from the state: every flag and field that no command writes
directly (Tables 03-1, 13-6 to 13-8, 07-2, 07-3, 16-8, 16-9, 17-3 and others). The sync-hub dump, the save area and the
sideband return these words. -/

namespace Sys2Proof.Machine

/-- 1 for true, shifted to bit `k`. -/
def flag (b : Bool) (k : Nat) : Nat := if b then 2 ^ k else 0

/-! ### Channels and contexts -/

/-- MZ_CH_STATUS (Table 03-1). -/
def chStatus (s : State) (c : Nat) : W32 :=
  let x := chan s c
  BitVec.ofNat 32 (2 ^ 16 * x.seq.toNat + flag (chState s c == .halted) 8 + 2 ^ 4 * x.lastCode.toNat + flag x.pending 3
    + (chState s c).code)

/-- MZ_CTX_STATUS.STATE. -/
def CtxSt.code : CtxSt → Nat
  | .run => 0 | .switching => 1 | .out => 2 | .resuming => 3

/-- MZ_CTX_STATUS (Table 03-20). -/
def ctxStatus (s : State) (c : Nat) : W32 := BitVec.ofNat 32 (2 ^ 4 * (ctx s c).cause + (ctx s c).st.code)

/-! ### Sync hub -/

/-- The eight words of a ring block as read (Table 07-2). -/
def ringBlock (x : Ring) : List W32 := [
  BitVec.ofNat 32 (2 ^ 16 * x.nm1 + 2 ^ 6 * x.cwm1 + 2 ^ 4 * x.pwm1 + flag x.cauto 3 + flag x.pauto 2 + flag x.ns 1 + flag x.en 0),
  BitVec.ofNat 32 (2 ^ 16 * x.cchan + x.pchan),
  BitVec.ofNat 32 x.slotsz,
  BitVec.ofNat 32 (2 ^ 24 * x.pres + 2 ^ 16 * x.cres + 2 ^ 8 * x.tail + x.head),
  BitVec.ofNat 32 (flag x.fault 14 + 2 ^ 12 * x.epoch.toNat + x.fill),
  BitVec.ofNat 32 (2 ^ 16 * x.ccnt.toNat + x.pcnt.toNat),
  BitVec.ofNat 32 (flag x.aen 12 + x.bobj.toNat),
  0]

/-- MZ_HQ_CFG and MZ_HQ_STATUS (Table 07-3). -/
def hqCfgWord (x : Hq) : W32 := BitVec.ofNat 32 (flag x.ns 1 + flag x.en 0)
/-- MZ_HQ_STATUS. -/
def hqStatusWord (x : Hq) : W32 := BitVec.ofNat 32 (flag x.under 9 + flag x.ovf 8 + x.q.length)

/-- A queue's record in the dump, with MZ_HQ_POP as 0 (Table 13-5). -/
def hqBlock (x : Hq) : List W32 := [hqCfgWord x, x.last, 0, hqStatusWord x]

/-- A queue's contents in the dump: oldest first, unused entries all ones. -/
def hqContents (x : Hq) : List W32 := (List.range 64).map fun k => x.q.getD k (BitVec.allOnes 32)

/-- MZ_MB_CTRL (Table 13-7). FILL is 0 between hub operations. -/
def mbCtrlWord (s : State) (m : Nat) : W32 :=
  BitVec.ofNat 32 (flag (!mbSecure s m) 13 + 2 ^ 8 * (mb s m).len + flag (mb s m).go 0)

/-- MZ_MB_CFG. -/
def mbCfgWord (s : State) (m : Nat) : W32 := BitVec.ofNat 32 (2 ^ 8 * (mbCfg s m).target + (mbCfg s m).kind)

/-- A mailbox block as read, 128 B. -/
def mbBlock (s : State) (m : Nat) : List W32 :=
  (mb s m).words.toList ++ [mbCtrlWord s m, mbCfgWord s m] ++ List.replicate 14 0

/-- States of Table 13-1. -/
def BarSt.code : BarSt → Nat
  | .idle => 0 | .gather => 1 | .abandoned => 2 | .poisoned => 3 | .saved => 4

/-- LO of an object's box as MZ_BAR_CFG holds it: 0 until it is written (Tables 13-6, 19-5). -/
def barLoByte (s : State) (o : Nat) : Nat := (bar s o).lo.toNat

/-- The two words of a barrier record (Table 13-8), with its state and number of waiters. -/
def barRecord (s : State) (o st waiters : Nat) : W64 × W64 :=
  let x := bar s o
  let w := objOwner s o
  (BitVec.ofNat 64 (st + 2 ^ 3 * x.epoch.toNat + 2 ^ 5 * x.count.toNat + 2 ^ 19 * x.need.toNat
      + 2 ^ 33 * (match w with | some e => e.1 | none => 0) + flag w.isSome 39 + 2 ^ 40 * barHome s o
      + 2 ^ 48 * barLoByte s o + 2 ^ 56 * x.lenm1.toNat),
   BitVec.ofNat 64 (waiters + flag (match w with | some e => e.2 | none => false) 16))

/-- MZ_BAR_MAP_c (Table 13-6). -/
def barMapWord (s : State) (c : Nat) : W32 :=
  let k := ctx s c
  BitVec.ofNat 32 (flag k.own 24 + 2 ^ 12 * k.count + k.base)

/-! ### Collector and Zoetrope -/

/-- Collector states (Table 16-2). -/
def FcSt.code : FcSt → Nat
  | .normal => 0 | .alert => 1 | .safe => 2 | .resetting => 3

/-- ACT values (Table 16-8). -/
def Act.code : Act → Nat
  | .note => 0 | .alert => 1 | .safe => 2

/-- Whether any source is severe, which holds FAULT_N low (R332). -/
def anySevere (s : State) : Bool := (List.range 256).any fun i => (src s i).sev

/-- Level of FAULT_N as the block drives it: released in cold reset. -/
def faultN (s : State) : Bool := s.boot.phase == .cold || !anySevere s

/-- MZ_FC_STATE. -/
def fcStateWord (s : State) : W32 :=
  let x := s.aon.fc
  BitVec.ofNat 32 (2 ^ 16 * x.recov + 2 ^ 8 * x.cause + flag x.stuck 7 + flag x.exited 6 + x.st.code)

/-- MZ_FC_CFG. -/
def fcCfgWord (s : State) : W32 :=
  let x := s.aon.fc
  BitVec.ofNat 32 (flag x.autox 31 + flag x.zthaw 30 + flag x.esc 29 + flag x.autoload 28 + 2 ^ 24 * x.rlim
    + 2 ^ 19 * x.esck + 2 ^ 14 * x.quietk)

/-- MZ_FC_REINIT. -/
def fcReinitWord (s : State) : W32 :=
  let x := s.aon.fc
  BitVec.ofNat 32 (flag x.reBusy 31 + flag x.reFail 30 + flag x.reKind 8 + x.reTarget)

/-- MZ_FC_SEV_k. -/
def fcSevWord (s : State) (k : Nat) : W32 :=
  BitVec.ofNat 32 (((List.range 32).map fun i => flag (src s (32 * k + i)).sev i).foldl (· + ·) 0)

/-- MZ_FS_CFG_s. -/
def fsCfgWord (s : State) (i : Nat) : W32 :=
  let x := src s i
  BitVec.ofNat 32 (2 ^ 16 * x.act.code + 2 ^ 8 * x.k + x.n)

/-- MZ_FS_CNT_s: C is 0 when no window is open. -/
def fsCntWord (s : State) (i : Nat) : W32 :=
  let x := src s i
  BitVec.ofNat 32 (2 ^ 8 * x.life + (if x.opn then x.c else 0))

/-- A register of the collector page by offset (Table 16-8); other offsets read 0. -/
def fcRead (s : State) (o : Nat) : W32 :=
  if o = 0x000 then fcStateWord s
  else if o = 0x004 then fcCfgWord s
  else if o = 0x010 then fcReinitWord s
  else if o = 0x014 then BitVec.ofNat 32 (fld s.aon.fc.reimg 0 24 * 256)
  else if o = 0x018 then BitVec.ofNat 32 (fld s.aon.fc.reimg 24 20)
  else if o = 0x01C then BitVec.ofNat 32 s.aon.fc.blkcnt.toNat
  else if 0x040 ≤ o ∧ o < 0x060 then fcSevWord s ((o - 0x040) / 4)
  else if 0x800 ≤ o ∧ o < 0x1000 then
    if o % 8 = 0 then fsCfgWord s ((o - 0x800) / 8) else fsCntWord s ((o - 0x800) / 8)
  else 0

/-- A Zoetrope entry. -/
def ztEnt (s : State) (i : Nat) : ZtEnt := tget (fun _ => {}) s.aon.zt.ent i

/-- 64-bit word `k` of an entry (Table 16-6). -/
def ztWord64 (e : ZtEnt) (k : Nat) : W64 :=
  if k = 0 then BitVec.ofNat 64 (e.island + 2 ^ 8 * e.brst.toNat + 2 ^ 16 * e.code.toNat + 2 ^ 32 * e.seq.toNat)
  else if k = 1 then e.cyc else if k = 2 then e.a0 else e.a1

/-- MZ_ZT_WORDk of entry `i`. -/
def ztWord (s : State) (i k : Nat) : W32 := BitVec.ofNat 32 (fld (ztWord64 (ztEnt s i) (k / 2)) (32 * (k % 2)) 32)

/-- A register of the Zoetrope page by offset, with the entry index of its reader (Table 16-9, R366). -/
def ztRead (s : State) (idx o : Nat) : W32 :=
  let z := s.aon.zt
  if o = 0x000 then BitVec.ofNat 32 (flag z.logpwr 2)
  else if o = 0x004 then BitVec.ofNat 32 (flag z.frozen 31 + flag z.wrapped 30 + flag z.bad 29 + z.next)
  else if o = 0x008 then z.lost
  else if o = 0x00C then BitVec.ofNat 32 idx
  else if 0x010 ≤ o ∧ o < 0x030 then ztWord s idx ((o - 0x010) / 4)
  else if 0x040 ≤ o ∧ o < 0x144 then BitVec.ofNat 32 (tget (fun _ => (0 : BitVec 16)) z.drop ((o - 0x040) / 4)).toNat
  else 0

end Sys2Proof.Machine
end

