-- ==== Sys2Proof/Machine/Hub.lean ====
section
/-! DEFINITION. Commands of the sync hub: registers of rings, handle queues, barrier objects and mailboxes, barrier messages,
and the dump (R157 to R173, R280 to R300). -/

namespace Sys2Proof.Machine

/-! ### Rings -/

/-- A register produce or release (R158): performed, or ignored with a refused-command event. -/
def ringRegOp (r : Nat) (prod : Bool) (s : State) : State :=
  let x := ring s r
  if (ringFails x prod).isEmpty then setRing s r (if prod then ringProduce x else ringRelease x)
  else refuse s (ringOff r 0x1C) 0 0x3A

/-- RESET of a ring (R168): refused while a run holds a reservation. -/
def ringResetOp (r : Nat) (s : State) : State :=
  let x := ring s r
  if x.resP.isEmpty && x.resC.isEmpty then
    setRing s r { x with
      head := 0, tail := 0, pres := 0, cres := 0, fill := 0, pcnt := 0, ccnt := 0, epoch := 0, fault := false
      ordP := 0, ordC := 0, issP := 0, issC := 0 }
  else refuse s (ringOff r 0x1C) 0 0x3A

/-- A write of MZ_RING_CTRL. RESET acts first (DESIGN CHOICE, log 23); a produce and a release of one write arrive together,
and R160 orders them. -/
def ringCtrl (r : Nat) (v : W32) (s : State) : State :=
  let s := if bitOf v 2 then ringResetOp r s else s
  if bitOf v 0 && bitOf v 1 then
    if (ring s r).fill == ringN (ring s r) then ringRegOp r true (ringRegOp r false s)
    else ringRegOp r false (ringRegOp r true s)
  else if bitOf v 0 then ringRegOp r true s
  else if bitOf v 1 then ringRegOp r false s
  else s

/-- RING_REG_PRODUCE (R158). -/
def execRingRegProduce (r : Fin 1024) (ns : Bool) (v : W32) (s : State) : Host.Outcome State Fault Refusal :=
  .next (mmioW s (ringOff r.val 0x1C) ns (ringSecure s r.val) (ringCtrl r.val (v ||| 1)))

/-- RING_REG_RELEASE (R158). -/
def execRingRegRelease (r : Fin 1024) (ns : Bool) (v : W32) (s : State) : Host.Outcome State Fault Refusal :=
  .next (mmioW s (ringOff r.val 0x1C) ns (ringSecure s r.val) (ringCtrl r.val (v ||| 2)))

/-- RING_RESET (R168). -/
def execRingReset (r : Fin 1024) (ns : Bool) (v : W32) (s : State) : Host.Outcome State Fault Refusal :=
  .next (mmioW s (ringOff r.val 0x1C) ns (ringSecure s r.val) (ringCtrl r.val (v ||| 4)))

/-- The bound channels of one side. -/
def boundChans (x : Ring) (prod : Bool) : List Nat :=
  if prod then (if x.pauto then (List.range (x.pwm1 + 1)).map (x.pchan + ·) else [])
  else (if x.cauto then (List.range (x.cwm1 + 1)).map (x.cchan + ·) else [])

/-- Whether one side of a ring may be bound so (R163). -/
def sideOk (s : State) (r : Nat) (x : Ring) (prod : Bool) : Bool :=
  let cs := boundChans x prod
  cs.all (fun c => decide (c < 512) && chanValid s c)
    && cs.all (fun c => (chanCfg s c).mover == (chanCfg s (cs.headD 0)).mover && (chanCfg s c).ctx == (chanCfg s (cs.headD 0)).ctx)
    && !((tkeys s.hub.rings).any fun q => q != r && (ring s q).en && cs.any fun c => (boundChans (ring s q) prod).contains c)

/-- Whether EN may be set to 1 (R163). -/
def bindOk (s : State) (r : Nat) (x : Ring) : Bool :=
  sideOk s r x true && sideOk s r x false
    && decide (1 + (boundChans x true).length + (boundChans x false).length ≤ ringN x)
    && !((x.pauto || x.cauto) && x.slotsz == 0)

/-- A write by `ns` of a register whose NS bit, bit 1, is always secure (R324): a non-secure 1 in it raises a notice and leaves it, as
R374 gives it for MZ_MSI_CTRL (DEDUCED, log 36). -/
def nsNotice (s : State) (off : Nat) (ns : Bool) (v : W32) : State := if ns && bitOf v 1 then notice s 0 1 0 off 0 else s

/-- Write MZ_RING_CFG (R163, R168, R170). -/
def ringCfg (r : Nat) (ns : Bool) (v : W32) (s : State) : State :=
  let s := nsNotice s (ringOff r 0) ns v
  let x := ring s r
  let nm1 := fld v 16 8
  if nm1 ≤ 1 then refuse s (ringOff r 0) 0 0x3A
  else
    let y := { x with nm1 := nm1, cwm1 := fld v 6 2, pwm1 := fld v 4 2, cauto := bitOf v 3, pauto := bitOf v 2 }
    let bad := x.en && y != x
    let s := if bad then refuse s (ringOff r 0) 0 0x3A else s
    let z := if x.en then x else { y with pres := if y.pauto then y.pres else y.tail, cres := if y.cauto then y.cres else y.head }
    let z := { z with ns := if ns then x.ns else bitOf v 1 }
    if bitOf v 0 && !x.en && !bindOk s r z then refuse (setRing s r z) (ringOff r 0) 0 0x3A
    else setRing s r { z with en := bitOf v 0 }

/-- Write MZ_RING_BIND, MZ_RING_SLOT or MZ_RING_ALIGN: protected while EN is 1 (R168). -/
def ringProt (r off : Nat) (y : Ring) (s : State) : State :=
  let x := ring s r
  if x.en && y != x then refuse s (ringOff r off) 0 0x3A else setRing s r y

/-- RING_CFG_WRITE (R163, R168). -/
def execRingCfgWrite (r : Fin 1024) (reg : RingReg) (ns : Bool) (v : W32) (s : State) : Host.Outcome State Fault Refusal :=
  let x := ring s r.val
  let sec := ringSecure s r.val
  match reg with
  | .cfg => .next (mmioW s (ringOff r.val 0) ns sec (ringCfg r.val ns v))
  | .bind => .next (mmioW s (ringOff r.val 4) ns sec (ringProt r.val 4 { x with cchan := fld v 16 9, pchan := fld v 0 9 }))
  | .slot => .next (mmioW s (ringOff r.val 8) ns sec (ringProt r.val 8 { x with slotsz := fld v 0 24 }))
  | .align => .next (mmioW s (ringOff r.val 0x18) ns sec
      (ringProt r.val 0x18 { x with aen := bitOf v 12, bobj := BitVec.ofNat 12 (fld v 0 12) }))

/-! ### Handle queues -/

/-- Offset of a queue register. -/
def hqOff (q r : Nat) : Nat := 0x11000 + 0x10 * q + r
/-- HQ_REG_PUSH (R172). -/
def execHqRegPush (q : Fin 256) (ns : Bool) (v : W32) (s : State) : Host.Outcome State Fault Refusal :=
  .next (mmioW s (hqOff q.val 4) ns (hqSecure s q.val) fun s =>
    let x := hq s q.val
    let s := setHq s q.val { x with last := v }
    if v = BitVec.allOnes 32 ∨ !x.en then refuse s (hqOff q.val 4) 0 0x3A
    else if 64 ≤ x.q.length then
      refuse (pendSrc (setHq s q.val { x with last := v, ovf := true }) 5) (hqOff q.val 4) 0 0x3A
    else hqPush s q.val v)

/-- What a read of MZ_HQ_POP takes from a queue. -/
def hqPop (q : Nat) (s : State) : State × W32 :=
  let x := hq s q
  if !x.en then (refuse s (hqOff q 8) 0 0x3A, BitVec.allOnes 32)
  else match x.q with
    | h :: t => (hqSettle 1024 (setHq s q { x with q := t }) q, h)
    | [] => (refuse (pendSrc (setHq s q { x with under := true }) 5) (hqOff q 8) 0 0x3A, BitVec.allOnes 32)

/-- HQ_REG_POP (R172): a read that pops. -/
def execHqRegPop (q : Fin 256) (ns : Bool) (s : State) : Host.Outcome State Fault Refusal :=
  .next (mmioR s (hqOff q.val 8) ns (hqSecure s q.val) (hqPop q.val))

/-- Write MZ_HQ_CFG: NS by the secure world only, EN, and RESET. -/
def hqCfg (q : Nat) (ns : Bool) (v : W32) (s : State) : State :=
  let s := nsNotice s (hqOff q 0) ns v
  let x := hq s q
  let x := { x with en := bitOf v 0, ns := if ns then x.ns else bitOf v 1 }
  hqSettle 1024 (setHq s q (if bitOf v 2 then { x with q := [] } else x)) q

/-- HQ_RESET (R171). -/
def execHqReset (q : Fin 256) (ns : Bool) (v : W32) (s : State) : Host.Outcome State Fault Refusal :=
  .next (mmioW s (hqOff q.val 0) ns (hqSecure s q.val) (hqCfg q.val ns (v ||| 4)))

/-! ### Barrier messages -/

/-- Offset of a sync-page register. -/
def syncOff (r : Nat) : Nat := 0xF000 + r

/-- Body of a BARR packet (Table 13-3). -/
def barBody (k : Packet) : W64 := BitVec.ofNat 64 (fld (k.slots.getD 1 0) 64 64)
/-- CFG_TAG that a BARR packet carries. -/
def barTag (k : Packet) : W64 := BitVec.ofNat 64 (fld (k.slots.getD 1 0) 0 64)

/-- The oldest barrier message of a kind at port `p` that terminates here. -/
def barMsg (s : State) (p kind : Nat) : Option (Nat × Packet) :=
  oldest s p fun k => terminates s k && pOpc (pktHdr k) == 10 && fld (barBody k) 0 3 == kind

/-- Send the home's ACK. -/
def sendAck (s : State) (chip obj code chan : Nat) (ns : Bool) : State :=
  sendPkt s (barrPkt s chip 1 obj 0 0 code chan 0 0 (ownChip s) ns)

/-- A barrier message that the receive buffer's code could not correct is handled as a discarded packet (R239; its body slot
DEDUCED, log 29). -/
def barLost (ecc : RxEcc) : Bool := ecc == .header || ecc == .data

/-- Whether a packet came over a link in TRANSIT. -/
def overTransit (k : Packet) : Bool := decide (2 ≤ k.via)

/-- BARR_ARRIVE (R45, R281, R285, R286, R327): an arrival reaches its home and is answered. One that is refused for its world raises a
notice of path 3, OP 2 (R322; DEDUCED from Table 15-4, log 24). -/
def execBarrArrive (p : Port) (ecc : RxEcc) (s : State) : Host.Outcome State Fault Refusal :=
  match barMsg s p.val 0 with
  | none => .next s
  | some (i, k) =>
    let s := rxCorr (takePkt s p.val i) p.val ecc
    let h := pktHdr k
    let b := barBody k
    let obj := fld b 3 12
    let chan := fld b 35 9
    if barLost ecc then .next (discardHdr s p.val k)
    else if overTransit k || barTag k != (im s).cfgTag then
      .next (sendAck s (pSchip h) obj cTAG chan (pNs h))
    else
      let s := if pNs h && barSecure s obj then notice s 3 2 p.val obj (pSchip h) else s
      let r := homeArrive s obj (fld b 17 14) (BitVec.ofNat 2 (fld b 15 2)) (pNs h) (pSchip h) chan
      .next (sendAck r.1 (pSchip h) obj r.2.1 chan (pNs h))

/-- The host arrival's ACK: its RESULT, and for a refusal the event of R76 with one of the two DETAILs that a home gives (R285, R300). -/
def hostAck (s : State) (code : Nat) : State :=
  let s := { s with hub := { s.hub with arrBusy := false, arrRes := code } }
  if code = cSTATE then refuse (bump s) (syncOff 0x14) (pickDetail s [13, 14]) 0x3A else s

/-- The ACK of a channel's arrival: its SIGNAL completes with the RESULT (R287). -/
def chanAck (s : State) (chan code home : Nat) : State :=
  if code = cSTATE then refuseStream (bump s) chan (pickDetail s [13, 14])
  else if code = cTAG then finish s chan code home
  else if code = cWORLD then finish (bump s) chan code (anyDetail s)
  else finish s chan code 0

/-- BARR_ACK (R45, R287, R300): the ACK completes the SIGNAL that waits for it at that object, or the host arrival; without one it is
discarded. CHAN 0x1FF of an object at which both wait is taken for the host's (DESIGN CHOICE, log 24). -/
def execBarrAck (p : Port) (ecc : RxEcc) (s : State) : Host.Outcome State Fault Refusal :=
  match barMsg s p.val 1 with
  | none => .next s
  | some (i, k) =>
    let s := rxCorr (takePkt s p.val i) p.val ecc
    let b := barBody k
    let code := fld b 31 4
    let chan := fld b 35 9
    if barLost ecc then .next (discardHdr s p.val k)
    else if chan = 0x1FF ∧ s.hub.arrBusy ∧ fld b 3 12 = s.hub.arrObj.toNat then .next (hostAck s code)
    else match stream s chan with
      | none => .next s
      | some x => if x.wait == .ack (fld b 3 12) then .next (chanAck s chan code (fld b 48 8)) else .next s

/-- Forward a message of the spread in its dimension, and spread it in the higher ones (R288). -/
def forwardSpread (s : State) (p : Nat) (k : Packet) (kind : Nat) : State :=
  let b := barBody k
  let dim := fld b 44 2
  let rem := fld b 46 2
  let obj := fld b 3 12
  let e := BitVec.ofNat 2 (fld b 15 2)
  let home := fld b 48 8
  let ns := pNs (pktHdr k)
  let d := 1 - (portDim s p).2
  let s := if rem = 0 then s
    else sendHop s dim d fun chip => barrPkt s chip kind obj e.toNat 0 0 0 dim (rem - 1) home ns
  spread s obj (dim + 1) kind e home ns

/-- Whether an ABANDON or POISON came from the chip's neighbour in the spread: in one hop, in the dimension of its body (R287, R288). -/
def fromSpread (s : State) (p : Nat) (k : Packet) : Bool :=
  pSchip (pktHdr k) == neighbour s p && pHops (pktHdr k) == 0 && fld (barBody k) 44 2 == (portDim s p).1

/-- A message of the spread at a chip: with another tag neither applied nor forwarded (R45, R289); ignored over a TRANSIT link; an ABANDON
or POISON of another home that did not come by the spread goes on to its HOME (R287); of the other world or another HOME it is forwarded
but not applied, with a barrier-config event (R289, R327). -/
def spreadIn (s : State) (p kind : Nat) (ecc : RxEcc) (act : State → Nat → BitVec 2 → State) : State :=
  match barMsg s p kind with
  | none => s
  | some (i, k) =>
    let s := rxCorr (takePkt s p i) p ecc
    let b := barBody k
    let obj := fld b 3 12
    let home := fld b 48 8
    if barLost ecc then discardHdr s p k
    else if barTag k != (im s).cfgTag then raise s (0xD0 + p) (barTag k).toNat 0 (0x24 + p)
    else if overTransit k then s
    else if kind ≠ 2 ∧ home ≠ ownChip s ∧ fromSpread s p k = false then
      sendPkt s (barrPkt s home kind obj 0 0 0 0 0 0 home (pNs (pktHdr k)))
    else
      let ok := barHome s obj == home && pNs (pktHdr k) != barSecure s obj
      if home = ownChip s ∧ kind ≠ 2 then
        if ok then act (spread s obj 0 kind 0 home (pNs (pktHdr k))) obj 0
        else raise s 0x0A obj home 0x3A
      else
        let s := forwardSpread s p k kind
        if ok then act s obj (BitVec.ofNat 2 (fld b 15 2)) else raise s 0x0A obj home 0x3A

/-- RELEASE_APPLY (R288, R289, R291). -/
def execReleaseApply (p : Port) (ecc : RxEcc) (s : State) : Host.Outcome State Fault Refusal :=
  .next (spreadIn s p.val 2 ecc fun s o e => applyRelease s o e)

/-- ABANDON (R287, R293). -/
def execAbandon (p : Port) (ecc : RxEcc) (s : State) : Host.Outcome State Fault Refusal :=
  .next (spreadIn s p.val 3 ecc fun s o _ => applyClear s o false)

/-- POISON (R287, R295). -/
def execPoison (p : Port) (ecc : RxEcc) (s : State) : Host.Outcome State Fault Refusal :=
  .next (spreadIn s p.val 4 ecc fun s o _ => applyClear s o true)

/-! ### Barrier registers (R284, R286, R300) -/

/-- HOST_ARRIVE (R300). An arrival at a privileged object is refused with STATE (R285). A write while BUSY is 1 is ignored with an event
of the refused-command source, as R300 says of each ignored write (that BUSY ignores one: DEDUCED, log 24). -/
def execHostArrive (ns : Bool) (v : W32) (s : State) : Host.Outcome State Fault Refusal :=
  let o := fld v 0 12
  .next (mmioW s (syncOff 0x14) ns (barSecure s o) fun s =>
    if s.hub.arrBusy then refuse s (syncOff 0x14) 0 0x3A
    else
      let pm1 := fld v 12 14
      let s := { s with hub := { s.hub with arrPm1 := BitVec.ofNat 14 pm1, arrObj := BitVec.ofNat 12 o } }
      if (match objOwner s o with | some (_, true) => true | _ => false) then
        refuse { s with hub := { s.hub with arrRes := cSTATE } } (syncOff 0x14) 14 0x3A
      else if barHome s o = ownChip s then
        let r := homeArrive s o pm1 (bar s o).epoch ns (ownChip s) 0x1FF
        let s := { r.1 with hub := { r.1.hub with arrRes := r.2.1 } }
        if r.2.1 = cSTATE then refuse s (syncOff 0x14) r.2.2 0x3A else s
      else
        let s := { s with hub := { s.hub with arrBusy := true } }
        sendPkt s (barrPkt s (barHome s o) 0 o (bar s o).epoch.toNat pm1 0 0x1FF 0 0 (barHome s o) ns))

/-- HOST_ARRIVE_TIMEOUT (R300). -/
def execHostArriveTimeout (s : State) : Host.Outcome State Fault Refusal :=
  if s.hub.arrBusy then .next { s with hub := { s.hub with arrBusy := false, arrRes := cTIMEOUT } } else .next s

/-- World of the object registers: that of the object MZ_BAR_SEL names (R324). -/
def barSelSecure (s : State) : Bool := barSecure s s.hub.barSel.toNat

/-- INIT (R300): the write sets INIT; no other bit of it means anything. -/
def execInit (ns : Bool) (v : W32) (s : State) : Host.Outcome State Fault Refusal :=
  let _ := v
  .next (mmioW s (syncOff 0x10) ns (barSelSecure s) fun s =>
    let o := s.hub.barSel.toNat
    let x := bar s o
    if x.st == .saved || !(barWaiters s o).isEmpty then refuse s (syncOff 0x10) 0 0x3A
    else setBar s o { x with st := .idle, epoch := 0, count := 0, need := 0 })

/-- Whether a box keeps the limits of R286. -/
def boxOk (s : State) (lo lenm1 : Nat) : Bool :=
  (List.range 4).all fun k => decide ((lenm1 / 4 ^ k) % 4 + 1 ≤ extent s k) && decide ((lo / 4 ^ k) % 4 < extent s k)

/-- BAR_CFG_WRITE (R286, R300). -/
def execBarCfgWrite (ns : Bool) (v : W32) (s : State) : Host.Outcome State Fault Refusal :=
  .next (mmioW s (syncOff 4) ns (barSelSecure s) fun s =>
    let o := s.hub.barSel.toNat
    let x := bar s o
    let lo := fld v 16 8
    let len := fld v 24 8
    if (x.st == .idle || x.st == .abandoned || x.st == .poisoned) && (barWaiters s o).isEmpty && boxOk s lo len then
      setBar s o { x with home := some (fld v 0 8), lo := BitVec.ofNat 8 lo, lenm1 := BitVec.ofNat 8 len }
    else refuse s (syncOff 4) 0 0x3A)

/-- When a context's ROOT, ASID and window may be written (R243): it is OUT, or every channel of it is IDLE, HALTED or
DISABLED. -/
def ctxQuiet (s : State) (x : Nat) : Bool :=
  (ctx s x).st == .out || (ctxChans s x).all fun c => match chState s c with
    | .idle => true | .halted => true | .disabled => true | _ => false

/-- Whether two windows of objects share one. -/
def overlap (b1 c1 b2 c2 : Nat) : Bool := decide (b1 < b2 + c2) && decide (b2 < b1 + c1) && decide (0 < c1) && decide (0 < c2)

/-- BAR_MAP_WRITE (R284). A COUNT above 1,024 is refused too (DEDUCED, log 24). -/
def execBarMapWrite (c : Cx) (ns : Bool) (v : W32) (s : State) : Host.Outcome State Fault Refusal :=
  .next (mmioW s (syncOff (0x100 + 4 * c.val)) ns (ctxSecure s c.val) fun s =>
    let own := bitOf v 24
    let count := fld v 12 11
    let base := fld v 0 12
    let clash := own && (List.range 64).any fun d =>
      d != c.val && (ctx s d).own && overlap base count (ctx s d).base (ctx s d).count
    if !ctxQuiet s c.val || clash || 1024 < count then refuse s (syncOff (0x100 + 4 * c.val)) 0 0x3A
    else setCtx s c.val { ctx s c.val with own := own, count := count, base := base })

/-! ### Mailboxes (R297, R298) -/

/-- Offset of a mailbox register. -/
def mbOff (m r : Nat) : Nat := 0x10000 + 0x80 * m + r

/-- MB_WORD_WRITE (R297). -/
def execMbWordWrite (m : Fin 32) (k : Fin 16) (ns : Bool) (v : W32) (s : State) : Host.Outcome State Fault Refusal :=
  .next (mmioW s (mbOff m.val (4 * k.val)) ns (mbSecure s m.val) fun s =>
    let b := mb s m.val
    if b.go then refuse s (mbOff m.val (4 * k.val)) 0 0x3A
    else setMb s m.val { b with words := b.words.set k v })

/-- One write of MZ_MB_CTRL: CLEAR, then LEN, then GO (R297); then waiting descriptors are served. -/
def mbCtrl (m : Nat) (v : W32) (s : State) : State :=
  let s := if bitOf v 1 then setMb s m { mb s m with go := false } else s
  let b := mb s m
  let len := fld v 8 5
  let s := if len = b.len then s
    else if b.go then refuse s (mbOff m 0x40) 0 0x3A
    else if 8 ≤ len ∧ len ≤ 16 then setMb s m { b with len := len } else s
  let s := if bitOf v 0 then (if (mb s m).go then refuse s (mbOff m 0x40) 0 0x3A else mbGo s m) else s
  mbServe 512 s m

/-- CLEAR (R298). -/
def execClear (m : Fin 32) (ns : Bool) (v : W32) (s : State) : Host.Outcome State Fault Refusal :=
  .next (mmioW s (mbOff m.val 0x40) ns (mbSecure s m.val) (mbCtrl m.val (v ||| 2)))

/-- MB_LEN_WRITE (R297). -/
def execMbLenWrite (m : Fin 32) (ns : Bool) (v : W32) (s : State) : Host.Outcome State Fault Refusal :=
  .next (mmioW s (mbOff m.val 0x40) ns (mbSecure s m.val) (mbCtrl m.val v))

/-- GO (R298). -/
def execGo (m : Fin 32) (ns : Bool) (v : W32) (s : State) : Host.Outcome State Fault Refusal :=
  .next (mmioW s (mbOff m.val 0x40) ns (mbSecure s m.val) (mbCtrl m.val (v ||| 1)))

/-! ### Dump (R299) -/

/-- The two words of a barrier record as four registers. -/
def recWords (r : W64 × W64) : List W32 :=
  [BitVec.ofNat 32 r.1.toNat, BitVec.ofNat 32 (r.1.toNat / 2 ^ 32), BitVec.ofNat 32 r.2.toNat, BitVec.ofNat 32 (r.2.toNat / 2 ^ 32)]

/-- One record of a dump: a secure write through M0 (R299). -/
def dumpOut (a : Nat) (d : List W32) : Out := .dump 0 a false d

/-- The snapshot of every sync object as the records of Table 13-5. -/
def dumpRecords (s : State) (a : Nat) : List Out :=
  ((List.range 4096).map fun o => dumpOut (a + 16 * o) (recWords (barRecord s o (bar s o).st.code (barWaiters s o).length)))
  ++ ((List.range 32).map fun m => dumpOut (a + 0x10000 + 128 * m) (mbBlock s m))
  ++ ((List.range 1024).map fun r => dumpOut (a + 0x11000 + 32 * r) (ringBlock (ring s r)))
  ++ ((List.range 256).map fun q => dumpOut (a + 0x19000 + 16 * q) (hqBlock (hq s q)))
  ++ ((List.range 256).map fun q => dumpOut (a + 0x1A000 + 256 * q) (hqContents (hq s q)))
  ++ [dumpOut (a + 0x2A000) ((List.range 64).map (barMapWord s))]

/-- The echo lines that `n` lines written from physical address `a` on overlap are dropped (R180). -/
def dropRun (s : State) (a n : Nat) : State := (List.range n).foldl (fun s k => echoDrop s (a + 128 * k)) s

/-- The records of a dump go out to physical address `a`, and GO stays 1 until the write is answered (R299). -/
def dumpStart (s : State) (a : Nat) (recs : List Out) : State :=
  (ownReq { s with out := s.out ++ recs, hub := { s.hub with dumpGo := true } } 0 1 a .dump).1

/-- SYNC_DUMP (R299): the write sets GO; the registers are always secure (R324). -/
def execSyncDump (ns : Bool) (v : W32) (s : State) : Host.Outcome State Fault Refusal :=
  let _ := v
  .next (mmioW s (syncOff 0x28) ns true fun s =>
    if s.hub.dumpGo then refuse s (syncOff 0x28) 0 0x3A
    else
      let a := 4096 * s.hub.dumpAddr.toNat
      dumpStart (dropRun s a 1346) a (dumpRecords s a))

/-- SYNC_DUMP_DONE (R299): the last write is acknowledged. -/
def execSyncDumpDone (s : State) : Host.Outcome State Fault Refusal :=
  if s.hub.dumpGo then .next (pendSrc (ownDone { s with hub := { s.hub with dumpGo := false } } .dump) 6) else .next s

end Sys2Proof.Machine
end

