-- ==== Sys2Proof/Machine/Operands.lean ====
section
/-! DEFINITION. Every operand form: element formats (Table 06-1), fields of the descriptors (Tables 03-5 to 03-16), shape
records (Tables 04-1, 04-2), list entries, Whirligig instructions, and the checks that decode makes on them. -/

namespace Sys2Proof.Machine

/-! ### Element formats (R126, Table 06-1) -/

/-- Element size b in bits. -/
def fmtBits (f : Nat) : Nat :=
  ([2, 2, 4, 4, 8, 8, 16, 16, 32, 32, 8, 8, 6, 6, 4, 16, 16, 32, 8, 16, 32, 32, 32, 16, 8, 8, 6, 6, 4, 8, 8, 4] : List Nat).getD f 8

/-- Packing unit q. -/
def fmtUnit (f : Nat) : Nat := match fmtBits f with | 2 => 4 | 4 => 2 | 6 => 4 | _ => 1

/-- Classes of Table 06-5. -/
inductive FCls where
  | int | flt | e8m0 | cplx | cbfp | block
  deriving DecidableEq, Repr

/-- Class of a format. -/
def fmtCls (f : Nat) : FCls :=
  if f < 0x0A then .int else if f < 0x12 then .flt else if f = 0x12 then .e8m0 else if f < 0x17 then .cplx
  else if f = 0x17 then .cbfp else .block

/-- Block formats, codes 0x17 to 0x1F. -/
def isBlock (f : Nat) : Bool := decide (0x17 ≤ f)
/-- Complex formats, CBFP included. -/
def isCplx (f : Nat) : Bool := decide (0x13 ≤ f) && decide (f ≤ 0x17)

/-- Component format of a complex format (Table 06-3), element format of a block format (Table 06-4), else itself. -/
def elemFmt (f : Nat) : Nat :=
  if f < 0x13 then f
  else ([0x04, 0x06, 0x10, 0x0F, 0x04, 0x0A, 0x0B, 0x0C, 0x0D, 0x0E, 0x04, 0x0A, 0x0E] : List Nat).getD (f - 0x13) 4

/-- B of a block format. -/
def blockB (f : Nat) : Nat := if f = 0x17 ∨ f = 0x1E ∨ f = 0x1F then 16 else 32

/-- The cast matrix (R131, R137). -/
def castOk (f g : Nat) : Bool :=
  f == g || (match fmtCls f, fmtCls g with
    | .int, .int => true | .int, .flt => true | .int, .e8m0 => f == 5 | .int, .block => true
    | .flt, .int => true | .flt, .flt => true | .flt, .block => true
    | .e8m0, .int => g == 5 | .e8m0, .flt => true | .e8m0, .block => true
    | .cplx, .cplx => true | .cplx, .cbfp => true
    | .cbfp, .cplx => true
    | .block, .int => true | .block, .flt => true
    | _, _ => false)

/-! ### Transform word (Table 03-5) -/

/-- SFMT. -/
def dSfmt (d : DescData) : Nat := tw d 0 5
/-- DFMT. -/
def dDfmt (d : DescData) : Nat := tw d 5 5
/-- RND. -/
def dRnd (d : DescData) : Nat := tw d 10 3
/-- SAT. -/
def dSat (d : DescData) : Bool := bitOf d 45
/-- SDISC. -/
def dSdisc (d : DescData) : Bool := bitOf d 46
/-- ACC. -/
def dAcc (d : DescData) : Bool := bitOf d 47
/-- SWAP. -/
def dSwap (d : DescData) : Nat := tw d 16 2
/-- KOP. -/
def dKop (d : DescData) : Nat := tw d 18 4
/-- PADM. -/
def dPadm (d : DescData) : Nat := tw d 22 2
/-- KARG. -/
def dKarg (d : DescData) : Nat := tw d 24 8

/-- Whether a descriptor asks for casting (R60). -/
def casts (d : DescData) : Bool :=
  dSfmt d != dDfmt d || dSat d || dSdisc d || dAcc d || dSwap d != 0

/-- Bits that a pair reads: the source element, or one component of it under SPLIT and MERGE (R117). -/
def srcW (d : DescData) : Nat := if dKop d = 3 ∨ dKop d = 4 then fmtBits (dSfmt d) / 2 else fmtBits (dSfmt d)
/-- Bits that a pair writes. -/
def dstW (d : DescData) : Nat := if dKop d = 3 ∨ dKop d = 4 then fmtBits (dDfmt d) / 2 else fmtBits (dDfmt d)

/-- Bits of an element offset on each side: only the planar side counts components (R117). -/
def srcU (d : DescData) : Nat := if dKop d = 4 then fmtBits (dSfmt d) / 2 else fmtBits (dSfmt d)
/-- The destination's. -/
def dstU (d : DescData) : Nat := if dKop d = 3 then fmtBits (dDfmt d) / 2 else fmtBits (dDfmt d)

/-- Bytes that `n` destination positions take. -/
def dstBytes (d : DescData) (n : Nat) : Nat := (n * dstW d + 7) / 8

/-! ### Fields by type -/

/-- A 49-bit address in word `k`. -/
def dVa (d : DescData) (k : Nat) : Nat := dW d k 0 49
/-- SRC and DST of a data descriptor as stored. -/
def dSrc (d : DescData) : Nat := if dType d = 4 then dVa d 3 else dVa d 2
/-- DST. -/
def dDst (d : DescData) : Nat := if dType d = 4 then dVa d 4 else dVa d 3
/-- TENSOR: SHAPE. -/
def tShape (d : DescData) : Nat := dW d 4 6 43 * 64
/-- TENSOR: INDEX, IDXW, IDXK, SCALE, NIDX. -/
def tIndex (d : DescData) : Nat := dVa d 5
/-- IDXW. -/
def tIdxw (d : DescData) : Nat := dW d 5 49 2
/-- IDXK. -/
def tIdxk (d : DescData) : Nat := dW d 5 51 2
/-- SCALE. -/
def tScale (d : DescData) : Nat := dVa d 6
/-- NIDX. -/
def tNidx (d : DescData) : Nat := dW d 7 0 25
/-- GATHER: SLIST. -/
def gSlist (d : DescData) : Bool := bitOf d (64 * 2 + 49)
/-- DLIST. -/
def gDlist (d : DescData) : Bool := bitOf d (64 * 3 + 49)
/-- SCNT. -/
def gScnt (d : DescData) : Nat := dW d 4 0 24
/-- DCNT. -/
def gDcnt (d : DescData) : Nat := dW d 4 24 24
/-- TOTAL. -/
def gTotal (d : DescData) : Nat := dW d 5 0 40
/-- WHIRL: PROG. -/
def wProg (d : DescData) : Nat := dW d 2 8 41 * 256
/-- NINST. -/
def wNinst (d : DescData) : Nat := dW d 2 49 5
/-- LIMIT. -/
def wLimit (d : DescData) : Nat := dW d 7 0 32
/-- Three counts of MOVE. -/
def mCnt (d : DescData) : Nat × Nat × Nat := (dW d 4 0 24 + 1, dW d 4 24 16 + 1, dW d 4 40 16 + 1)
/-- Source steps of MOVE, inner first. -/
def mSstep (d : DescData) : Int × Int × Int := (sext (dW d 5 0 16) 16, sext (dW d 5 32 32) 32, sext (dW d 6 32 32) 32)
/-- Destination steps of MOVE. -/
def mDstep (d : DescData) : Int × Int × Int := (sext (dW d 5 16 16) 16, sext (dW d 6 0 32) 32, sext (dW d 7 0 32) 32)

/-- SIGNAL: SOP, SCOPE, SIZE in bytes. -/
def sSop (d : DescData) : Nat := tw d 0 4
/-- SCOPE of a SIGNAL. -/
def sScope (d : DescData) : Nat := tw d 4 2
/-- SIZE of a SIGNAL in bytes. -/
def sSize (d : DescData) : Nat := if bitOf d 38 then 8 else 4
/-- BVID of a SIGNAL. -/
def sBvid (d : DescData) : Nat := dW d 4 0 10
/-- PCOUNT. -/
def sPcount (d : DescData) : Nat := dW d 4 10 14
/-- HQ of a SIGNAL. -/
def sHq (d : DescData) : Nat := dW d 4 24 8
/-- RING of a SIGNAL. -/
def sRing (d : DescData) : Nat := dW d 4 32 10
/-- CHAN of a SIGNAL. -/
def sChan (d : DescData) : Nat := dW d 4 42 9
/-- WAIT: WOP. -/
def wWop (d : DescData) : Nat := tw d 0 4
/-- CMP. -/
def wCmp (d : DescData) : Nat := tw d 4 3
/-- SIZE of a WAIT in bytes. -/
def wSize (d : DescData) : Nat := if bitOf d 39 then 8 else 4
/-- SCOPE of a WAIT. -/
def wScope (d : DescData) : Nat := tw d 8 2
/-- BVID of a WAIT. -/
def wBvid (d : DescData) : Nat := dW d 5 0 10
/-- HQ of a WAIT. -/
def wHq (d : DescData) : Nat := dW d 5 16 8
/-- RING of a WAIT. -/
def wRing (d : DescData) : Nat := dW d 5 32 10
/-- TIMEOUT. -/
def wTimeout (d : DescData) : Nat := dW d 6 0 32
/-- DEP: BVID. -/
def dpBvid (d : DescData) : Nat := dW d 2 32 10
/-- REARM: TCHAN, WHICH, STOP. -/
def rTchan (d : DescData) : Nat := tw d 0 9
/-- WHICH. -/
def rWhich (d : DescData) : Nat := tw d 9 4
/-- STOP. -/
def rStop (d : DescData) : Bool := bitOf d 45
/-- MAILBOX: SRC. -/
def mbSrc (d : DescData) : Nat := dW d 2 6 43 * 64
/-- ADVISE: LENGTH. -/
def aLen (d : DescData) : Nat := dVa d 3

/-! ### Decode checks (R55, R60, Table 03-19) -/

/-- A failing check contributes its DETAIL. -/
def chk (bad : Bool) (detail : Nat) : List Nat := if bad then [detail] else []

/-- Whether bits outside the listed fields `(lo, n)` of a 64-bit word are nonzero. -/
def resBits (w : Nat) (fs : List (Nat × Nat)) : Bool :=
  (fs.foldl (fun v f => v - (v / 2 ^ f.1 % 2 ^ f.2) * 2 ^ f.1) w) != 0

/-- Word `k` as a number. -/
def word (d : DescData) (k : Nat) : Nat := dW d k 0 64

/-- Words `k` to 7 with only the listed fields. -/
def resWords (d : DescData) (k : Nat) (fss : List (List (Nat × Nat))) : Bool :=
  (List.range (8 - k)).any fun i => resBits (word d (k + i)) (fss.getD i [])

/-- Header checks. -/
def headerFails (d : DescData) : List Nat :=
  let t := dType d
  let sop := sSop d
  chk (decide (12 ≤ t) || dChain d == 3) 1
    ++ chk (fld d 13 19 != 0 || dW d 1 0 6 != 0 || dW d 1 52 12 != 0) 2
    ++ chk (dFinal d && !(isData d || (t == 5 && decide (sop < 2)))) 5
    ++ chk (dPersist d && !isData d) 5

/-- Size in bits of what SWAP acts on (R152). -/
def swapSize (d : DescData) : Nat := if isCplx (dSfmt d) then fmtBits (dSfmt d) / 2 else fmtBits (dSfmt d)

/-- Checks of the transform word, for a mover that may or may not cast. -/
def transformFails (d : DescData) (castMover : Bool) : List Nat :=
  let k := dKop d
  let a := dKarg d
  let f := dSfmt d
  let g := dDfmt d
  let tensor := dType d == 2
  chk (casts d && !castMover) 4
    ++ chk (dPadm d == 3) 1
    ++ chk (decide (6 ≤ k) || (k == 1 && a / 8 % 4 == 0)) 1
    ++ chk (match k with | 0 => a != 0 | 5 => a != 0 | 1 => a / 32 != 0 | 3 => a / 8 != 0 | 4 => a / 8 != 0 | _ => false) 2
    ++ chk (decide (1 ≤ k) && decide (k ≤ 4) && !tensor) 10
    ++ chk (k == 5 && !isCplx f) 10
    ++ chk ((k == 3 || k == 4) && !(isCplx f && isCplx g && !isBlock f && !isBlock g)) 10
    ++ chk (f != g && decide (6 ≤ dRnd d)) 1
    ++ chk (!castOk f g) 10
    ++ chk (dAcc d && !([6, 7, 8, 9, 0x0F, 0x10, 0x11, 0x14, 0x15, 0x16] : List Nat).contains g) 10
    ++ chk (match dSwap d with | 0 => false | 1 => swapSize d != 16 && swapSize d != 32 | _ => swapSize d != 32) 10
    ++ chk ((isBlock f || isBlock g || dSdisc d) && !tensor) 10
    ++ chk (isBlock f && isBlock g) 10
    ++ chk (dSdisc d && !isBlock g) 10

/-- Group bound of Table 05-4 for MOVE, GATHER and WHIRL. -/
def listBound (g : Nat) : Nat := match fmtBits g with | 2 => 512 | 4 => 256 | 6 => 172 | _ => 128

/-- Per-quadrant share of a mover (R113). -/
def quadShare (s : State) (m : Nat) : Nat :=
  let share := match (im s).landing.find? fun e => e.1 == m with | some e => e.2 | none => 2048 * moverWidth s m
  let w := moverWidth s m
  share / (max 1 (w / 8))

/-- Checks of the fields of a data descriptor's own layout. -/
def dataFails (s : State) (c : Nat) (d : DescData) : List Nat :=
  let m := (chanCfg s c).mover
  let w := moverWidth s m
  let g := dDfmt d
  let q := fmtUnit g
  let a49 : List (Nat × Nat) := [(0, 49)]
  transformFails d (match moverCfg s m with | some e => e.cast | none => false) ++
  (match dType d with
  | 1 =>
    let n := mCnt d
    let ds := mDstep d
    chk (decide (w < 4)) 3
      ++ chk (resWords d 2 [a49, a49, [(0, 56)], [(0, 64)], [(0, 64)], [(0, 32)]]) 2
      ++ chk (decide (2 ^ 40 - 1 < dstBytes d (n.1 * n.2.1 * n.2.2))) 5
      ++ chk (decide (1 < q) && !(ds.1 == 1 && n.1 % q == 0 && ds.2.1 % q == 0 && ds.2.2 % q == 0)) 5
  | 2 =>
    chk (resWords d 2 [a49, a49, [(6, 43)], [(0, 53)], a49, [(0, 25)]]) 2
      ++ chk (tIdxw d == 3 || decide (2 ≤ tIdxk d)) 1
      ++ chk ((tIndex d == 0) != (tNidx d == 0) || decide (2 ^ 24 < tNidx d)) 5
      ++ chk ((tScale d != 0) != (isBlock (dSfmt d) || isBlock g)) 5
  | 3 =>
    chk (decide (2 < w)) 3
      ++ chk (resWords d 2 [[(0, 50)], [(0, 50)], [(0, 48)], [(0, 40)], [], []]) 2
      ++ chk ((gSlist d && dVa d 2 % 16 != 0) || (gDlist d && dVa d 3 % 16 != 0)) 5
      ++ chk (gSlist d == (gScnt d == 0) || gDlist d == (gDcnt d == 0) || gTotal d == 0) 5
  | _ =>
    chk (resWords d 2 [[(8, 46)], a49, a49, [(0, 64)], [(0, 64)], [(0, 32)]]) 2
      ++ chk (wLimit d == 0) 5
      ++ chk (decide (1 < q)) 10)
  ++ chk (dType d != 2 && decide (quadShare s m < listBound g)) 5
  ++ chk (dPersist d && decide (3 ≤ dType d) && (tkeys s.hub.rings).any fun r =>
      let x := ring s r
      x.en && ((x.pauto && decide (x.pchan ≤ c) && decide (c ≤ x.pchan + x.pwm1))
        || (x.cauto && decide (x.cchan ≤ c) && decide (c ≤ x.cchan + x.cwm1)))) 12

/-- Checks of a control descriptor's layout. -/
def controlFails (d : DescData) : List Nat :=
  let a49 : List (Nat × Nat) := [(0, 49)]
  match dType d with
  | 0 => chk (tw d 0 32 != 0 || resWords d 2 []) 2
  | 5 =>
    chk (decide (7 ≤ sSop d)) 1 ++
    (if sSop d < 2 then
      chk (sScope d == 3) 1 ++ chk (tw d 7 25 != 0 || resWords d 2 [a49, [(0, 64)]]) 2
        ++ chk (dVa d 2 % sSize d != 0) 5
    else if sSop d < 7 then
      let f : List (Nat × Nat) := match sSop d with | 2 => [(0, 24)] | 3 => [(24, 8)] | 6 => [(42, 9)] | _ => [(32, 10)]
      chk (tw d 4 28 != 0 || resWords d 2 [[], [], f, if sSop d == 3 then [(0, 32)] else []]) 2
    else [])
  | 6 =>
    chk (decide (5 ≤ wWop d)) 1 ++
    (match wWop d with
    | 0 => chk (tw d 4 28 != 0 || resWords d 2 [[], [], [], [(0, 10)], [(0, 32)]]) 2
    | 1 => chk (decide (6 ≤ wCmp d) || wScope d == 3) 1
        ++ chk (tw d 10 22 != 0 || resWords d 2 [a49, [(0, 64)], [(0, 64)], [], [(0, 48)]]) 2
    | 2 => chk (tw d 4 28 != 0 || resWords d 2 [a49, [], [], [(16, 8)], [(0, 32)]]) 2
    | 3 => chk (tw d 4 28 != 0 || resWords d 2 [[], [], [], [(32, 10)], [(0, 32)]]) 2
    | 4 => chk (tw d 4 28 != 0 || resWords d 2 [[], [], [], [(32, 10)], [(0, 32)]]) 2
    | _ => [])
  | 7 =>
    chk (decide (3 ≤ tw d 0 4)) 1
      ++ chk (tw d 4 28 != 0 || resWords d 2 [match tw d 0 4 with | 0 => [] | 1 => [(0, 9), (16, 16)] | _ => [(32, 10)]]) 2
  | 8 => chk (tw d 0 2 == 3 || tw d 2 2 == 3) 1 ++ chk (tw d 4 28 != 0 || resWords d 2 []) 2
  | 9 => chk (tw d 14 18 != 0 || resWords d 2 [a49, a49, a49, a49]) 2 ++ chk (rStop d && rWhich d != 0) 5
  | 10 =>
    let len := tw d 5 5
    chk (tw d 13 19 != 0) 2
      ++ chk (decide (len < 8) || decide (16 < len) || (bitOf d 42 && decide (12 < len))) 5
      ++ chk (if bitOf d 42 then (List.range 12).any fun k => decide (len ≤ k) && fld d (128 + 32 * k) 32 != 0
          else resWords d 2 [[(6, 43)]]) 2
  | 11 => chk (decide (4 ≤ tw d 0 4)) 1 ++ chk (tw d 4 28 != 0 || resWords d 2 [a49, a49]) 2 ++ chk (aLen d == 0) 5
  | _ => []

/-- Every failing check of a fetched descriptor but those of its shape record or program. -/
def decodeFails (s : State) (c : Nat) (d : DescData) : List Nat :=
  headerFails d ++ (if isData d then dataFails s c d else controlFails d)

/-! ### Shape records (R89, R90) -/

/-- Dimension entry at byte `o` of a record. -/
def parseDim (bs : List Byte) (o : Nat) : Dim :=
  let e := fun k lo n => leAt bs (o + 8 * k) 8 / 2 ^ lo % 2 ^ n
  { ext := e 0 0 24 + 1, tile := e 0 24 24 + 1, padLo := e 1 0 16, padHi := e 1 16 16, sStart := sext (e 1 32 32) 32
    sStride := sext (e 2 0 32) 32, dStride := sext (e 2 32 32) 32, sbLo := sext (e 3 0 32) 32, sbHi := sext (e 3 32 32) 32
    dbLo := sext (e 4 0 32) 32, dbHi := sext (e 4 32 32) 32 }

/-- A shape record. -/
def parseShape (bs : List Byte) : Shape :=
  let h := fun k => leAt bs (8 * k) 8
  let n := h 0 % 8 + 1
  { dims := (List.range n).map fun k => parseDim bs (64 + 48 * k)
    sord := (List.range n).map fun r => h 0 / 2 ^ (8 + 3 * r) % 8
    dord := (List.range n).map fun r => h 0 / 2 ^ (32 + 3 * r) % 8
    idxDim := h 0 / 2 ^ 56 % 8, idxSide := h 0 / 2 ^ 59 % 2 == 1, idxSgn := h 0 / 2 ^ 60 % 2 == 1
    padVal := h 1, scLen := h 2 % 2 ^ 32, dcLen := h 2 / 2 ^ 32 }

/-- Bytes of a record of `n` dimensions. -/
def shapeLen (n : Nat) : Nat := 64 + 48 * n

/-- A res0 field of the header or of a read entry is nonzero. -/
def shapeRes (bs : List Byte) : Bool :=
  let h := fun k => leAt bs (8 * k) 8
  let n := h 0 % 8 + 1
  let ord := fun lo => (lo, 3 * n)
  resBits (h 0) [(0, 3), ord 8, ord 32, (56, 5)]
    || (List.range 5).any (fun k => h (3 + k) != 0)
    || (List.range n).any fun k =>
      leAt bs (64 + 48 * k + 6) 2 != 0 || leAt bs (64 + 48 * k + 40) 8 != 0

/-- A dimension of a shape. -/
def dimOf (x : Shape) (k : Nat) : Dim := x.dims.getD k ⟨1, 1, 0, 0, 0, 0, 0, 0, 0, 0, 0⟩

/-- Whether a list is a permutation of 0 to n − 1. -/
def isPerm (l : List Nat) (n : Nat) : Bool := (List.range n).all fun k => l.contains k

/-- Product of a list. -/
def prodL (l : List Nat) : Nat := l.foldl (· * ·) 1

/-- Span of one side of a tile, in bits: the strides' sum as it is, plus one element rounded up to a byte (R101). -/
def spanOf (x : Shape) (st : Dim → Int) (w clen : Nat) : Nat :=
  let v := (x.dims.map fun k => (k.tile - 1) * (st k).natAbs).foldl (· + ·) 0 * w + 8 * ((w + 7) / 8)
  if clen = 0 then v else min v (8 * clen)

/-- Source and destination spans. -/
def spans (d : DescData) (x : Shape) : Nat × Nat :=
  (spanOf x (·.sStride) (srcU d) x.scLen, spanOf x (·.dStride) (dstU d) x.dcLen)

/-- Positions that write under the descriptor's PADM (R84). -/
def writtenCount (d : DescData) (x : Shape) : Nat :=
  if dPadm d = 2 then prodL (x.dims.map fun k => k.ext - k.padLo - k.padHi) else prodL (x.dims.map (·.ext))

/-- log_r(v), if v is a power r^n with n ≥ 1. -/
def logExact (r v : Nat) : Option Nat := (List.range 25).find? fun n => decide (1 ≤ n) && r ^ n == v

/-- Checks of Tables 04-3, 05-3 and 06-9 on a shape record, and R84, R85 and R113. -/
def shapeFails (s : State) (c : Nat) (d : DescData) (bs : List Byte) : List Nat :=
  let x := parseShape bs
  let n := x.dims.length
  let f := dSfmt d
  let g := dDfmt d
  let q := fmtUnit g
  let d0 := x.dord.headD 0
  let s0 := x.sord.headD 0
  let D0 := dimOf x d0
  let S0 := dimOf x s0
  let X := dKarg d % 8
  let DX := dimOf x X
  let k := dKop d
  let idx := tIndex d != 0
  let pads := x.dims.any fun e => e.padLo != 0 || e.padHi != 0
  let leave := dPadm d == 2
  let others := fun (p : Dim → Bool) => (List.range n).all fun j => j == d0 || p (dimOf x j)
  let sp := spans d x
  let P := prodL (x.dims.map (·.tile))
  let idxD0 := idx && x.idxSide && tIdxk d == 0 && x.idxDim == d0
  chk (shapeRes bs) 2
    ++ chk (!isPerm x.sord n || !isPerm x.dord n) 5
    ++ chk (x.dims.any fun e => decide (e.ext < e.tile) || decide (e.ext < e.padLo + e.padHi)) 5
    ++ chk (x.dims.any fun e => decide (e.sbHi < e.sbLo) || decide (e.dbHi < e.dbLo)) 5
    ++ chk (decide (2 ^ 40 < prodL (x.dims.map (·.ext)))) 5
    ++ chk (idx && (decide (n ≤ x.idxDim) || (dimOf x x.idxDim).padLo != 0 || (dimOf x x.idxDim).padHi != 0
        || (dimOf x x.idxDim).ext != tNidx d * (dimOf x x.idxDim).tile)) 5
    ++ chk (!idx && (x.idxDim != 0 || x.idxSide || x.idxSgn)) 2
    ++ chk ((x.scLen * 8) % (fmtUnit f * srcU d) != 0 || (x.dcLen * 8) % (q * dstU d) != 0) 5
    ++ chk (decide (1 < q) && !(D0.dStride == 1 && others (fun e => e.dStride % q == 0) && D0.ext % q == 0
        && D0.tile % q == 0 && D0.dbLo % q == 0 && (D0.dbHi + 1) % q == 0
        && (!leave || (D0.padLo % q == 0 && D0.padHi % q == 0)) && !idxD0)) 5
    ++ chk (isBlock g && !(D0.dStride == 1 && D0.ext % blockB g == 0 && D0.tile % blockB g == 0
        && D0.dbLo % blockB g == 0 && (D0.dbHi + 1) % blockB g == 0)) 5
    ++ chk (isBlock f && !(S0.sStride == 1 && S0.sStart % blockB f == 0 && S0.sbLo % blockB f == 0
        && (S0.sbHi + 1) % blockB f == 0 && !(idx && !x.idxSide && tIdxk d == 0 && x.idxDim == s0))) 5
    ++ chk (pads && !leave && isBlock f) 10
    ++ chk (decide (2 ^ 40 - 1 < dstBytes d (writtenCount d x))) 5
    ++ chk (decide (2 ^ 24 < P) || decide (quadShare s (chanCfg s c).mover < min P ((sp.1 + 1023) / 1024 + 1))) 5
    ++ chk (decide (1 ≤ k) && decide (k ≤ 4) && decide (n ≤ X)) 5
    ++ chk ((k == 1 || k == 2) && (DX.tile != DX.ext || DX.padLo != 0 || DX.padHi != 0)) 5
    ++ chk (k == 1 && (logExact (2 ^ (dKarg d / 8 % 4)) DX.ext).isNone) 5
    ++ chk ((k == 3 || k == 4) && (DX.ext != 2 || DX.tile != 2 || DX.padLo != 0 || DX.padHi != 0)) 5
    ++ chk ((k == 3 && DX.sStride != 0) || (k == 4 && DX.dStride != 0)) 5
    ++ chk (decide (1 ≤ k) && decide (k ≤ 4) && idx && x.idxDim == X) 5
    ++ chk (isBlock g && !others (fun e => e.dStride % blockB g == 0)) 5
    ++ chk ((isBlock f && (x.scLen * 8) % (blockB f * fmtBits f) != 0) || (isBlock g && (x.dcLen * 8) % (blockB g * fmtBits g) != 0)) 5
    ++ chk (isBlock g && leave && !(D0.padLo % blockB g == 0 && D0.padHi % blockB g == 0)) 5
    ++ chk (isBlock g && idxD0) 5
    ++ chk ((isBlock f && decide (64 < (sp.1 + 128 * blockB f * fmtBits f - 1) / (128 * blockB f * fmtBits f) + 1))
        || (isBlock g && decide (64 < (sp.2 + 128 * blockB g * fmtBits g - 1) / (128 * blockB g * fmtBits g) + 1))) 5

/-- TILE_PAGES at decode for a tile without an index stream (R74, R101): the operand to report, if the count exceeds 8. -/
def pagesAtDecode (d : DescData) (x : Shape) : Option Nat :=
  let sp := spans d x
  let a := (sp.1 - 8) / 2 ^ 28 + 2
  let b := (sp.2 - 8) / 2 ^ 28 + 2
  let e := if tScale d = 0 then 0 else 2
  if a + b + e ≤ 8 then none
  else if b ≤ a ∧ e ≤ a then some 0 else if e ≤ b then some 1 else some 3

/-! ### Whirligig instructions (R106, Table 04-5) -/

/-- OP. -/
def iOp (i : W64) : Nat := fld i 0 6
/-- RD. -/
def iRd (i : W64) : Nat := fld i 6 3
/-- RA. -/
def iRa (i : W64) : Nat := fld i 9 3
/-- RB. -/
def iRb (i : W64) : Nat := fld i 12 3
/-- IMM. -/
def iImm (i : W64) : Nat := fld i 32 32

/-- The fields an instruction uses; none for a reserved opcode. -/
def instFields (op : Nat) : Option (List (Nat × Nat)) :=
  let rd := (6, 3)
  let ra := (9, 3)
  let rb := (12, 3)
  let imm := (32, 32)
  match op with
  | 0x00 => some [(0, 6)]
  | 0x01 => some [(0, 6), rd, imm]
  | 0x02 => some [(0, 6), rd, ra, rb]
  | 0x03 => some [(0, 6), rd, ra, imm]
  | 0x04 => some [(0, 6), rd, ra, rb]
  | 0x05 => some [(0, 6), rd, ra, imm]
  | 0x06 => some [(0, 6), rd, ra, rb]
  | 0x07 => some [(0, 6), rd, ra, rb]
  | 0x08 => some [(0, 6), rd, ra, rb]
  | 0x09 => some [(0, 6), rd, ra, (32, 5)]
  | 0x0A => some [(0, 6), rd, ra, (32, 5)]
  | 0x0B => some [(0, 6), rd, ra, (32, 5)]
  | 0x0C => some [(0, 6), rd, ra, (32, 5)]
  | 0x0D => some [(0, 6), rd, ra, (32, 5), (40, 2)]
  | 0x10 => some [(0, 6), rd, ra, rb]
  | 0x11 => some [(0, 6), ra, (32, 5)]
  | 0x12 => some [(0, 6), ra, rb, (32, 5)]
  | 0x13 => some [(0, 6), ra, rb, (32, 5)]
  | 0x14 => some [(0, 6), (32, 5)]
  | _ => none

/-- Checks of a program (R106). -/
def programFails (prog : List W64) : List Nat :=
  prog.flatMap fun i =>
    let op := iOp i
    let n := iImm i % 32
    let m := iImm i / 256 % 4
    chk (instFields op).isNone 1
      ++ chk (match instFields op with | some fs => resBits i.toNat fs | none => false) 2
      ++ chk (decide (0x11 ≤ op) && decide (op ≤ 0x14) && decide (prog.length ≤ n)) 5
      ++ chk (op == 0x0D && (n == 0 || decide (10 < n) || m == 0 || decide (32 < n * m))) 5

/-! ### List entries of GATHER (R63, R87) -/

/-- Stands for the DETAIL of a list entry that has both a nonzero res0 field and a bad LEN: 2 or 5, freely chosen where it is reported
(log 6). -/
def bothBad : Nat := 25

/-- Entry `i` of a list: its ADDR and LEN, or the DETAIL with which it ends the transfer. -/
def listEntry (raw : List Byte) (i w q : Nat) : Except Nat (Nat × Nat) :=
  let a := leAt raw (16 * i) 8
  let l := leAt raw (16 * i + 8) 8
  let res := decide (2 ^ 49 ≤ a) || decide (2 ^ 32 ≤ l)
  let len := decide ((l % 2 ^ 32 * 8) % (w * q) ≠ 0)
  if res && len then .error bothBad else if res then .error 2 else if len then .error 5
  else .ok (a, l)

end Sys2Proof.Machine
end

