-- ==== Sys2Proof/Machine/Address.lean ====
section
/-! DEFINITION. Where lines go: the Miozer region (Table 09-1), worlds of lines (R322), tags (R23, R183), placement (R187),
accesses to stage memory (R185, R192), the echo cache (R178 to R180), and the issue of a line to its target. -/

namespace Sys2Proof.Machine

/-! ### Locations -/

/-- Page size of a leaf by level (Table 11-1). -/
def pageSize (level : Nat) : Nat := if level = 1 then 2 ^ 35 else if level = 2 then 2 ^ 30 else 2 ^ 25

/-- Translate an address through a leaf (R245). -/
def leafLoc (s : State) (l : Leaf) (va : Nat) : Loc :=
  if l.remote then .remote l.chip l.win (l.base + va % 2 ^ 25)
  else locOf s ((l.base + va % pageSize l.level) % 2 ^ 52)

/-- The physical address of a location inside the chip's map; a remote location has none. -/
def locPa (s : State) : Loc → Nat
  | .ext pa => pa
  | .hole pa => pa
  | .stage o => gbase s + o
  | .relay n o => gbase s + 0x10000000 + 2 ^ 24 * n + o
  | .core n o => gbase s + 0x20000000 + 2 ^ 24 * n + o
  | .remote _ _ o => o

/-- Members of a chain in ascending order. -/
def members (s : State) (n : Nat) : List Nat := (List.range 16).filter fun k => (relay s n).members.getLsbD k

/-- Whether a location is secure (Table 15-2, R321). -/
def locSecure (s : State) : Loc → Bool
  | .stage o => stageSecure s o
  | .core n _ => domSecure s (48 + n / 2)
  | .relay n _ => s.img.isNone || (relay s n).sec
  | _ => false

/-- Whether a location lies in the local space of an absent core port (R2). -/
def absentCore (s : State) : Loc → Bool
  | .core n _ => !(im s).cPresent.getLsbD n
  | _ => false

/-! ### Placement (R187, R188) -/

/-- Bank group, bank and row of a stage offset in an ordinary pool. -/
def placeOf (s : State) (off : Nat) : Option (Nat × Nat × Nat) :=
  match poolOf s off with
  | none => none
  | some (p, c) =>
    let gs := maskGroups c.bgmask
    let g := max 1 gs.length
    let i := (off - 0x80000 * c.base) / 128
    let j := i / g
    let grp := gs.getD (i % g) 0
    let row0 := (((im s).pools.filter fun e => !e.echo && decide (e.base < c.base) && e.bgmask.getLsbD grp).map
      fun e => 512 * e.size / max 1 (maskGroups e.bgmask).length).foldl (· + ·) 0
    let lrow := j / 8
    let h := (0x0D2B * (lrow ^^^ (poolSt s p).salt.toNat) % 65536) / 4096 % 8
    some (grp, 8 * grp + ((j % 8) + h) % 8, row0 + lrow)

/-- The domains that a line's target lies in, besides the mover's own: for a relay line, the pairs of every member. -/
def locDomains (s : State) : Loc → List Nat
  | .ext pa => [44 + memPortOf s pa / 2]
  | .stage o => (match placeOf s o with | some e => [20 + e.1] | none => [])
  | .core n _ => [48 + n / 2]
  | .relay n _ => dedup ((members s n).map fun k => 48 + k / 2)
  | _ => []

/-- The 128 B line that contains a location. -/
def locLine : Loc → Loc
  | .ext pa => .ext (pa / 128 * 128)
  | .hole pa => .hole (pa / 128 * 128)
  | .stage o => .stage (o / 128 * 128)
  | .relay n o => .relay n (o / 128 * 128)
  | .core n o => .core n (o / 128 * 128)
  | .remote c w o => .remote c w (o / 128 * 128)

/-- Whether a location is on another chip, or reached as if it were. -/
def isRemote : Loc → Bool
  | .remote .. => true
  | _ => false

/-! ### Tags (R23, R183) -/

/-- Tags of a pool. -/
def poolSize (s : State) : Pool → Nat
  | .rd => 1024 * (im s).rdK
  | .wr => 1024 * (im s).wrK
  | .rm => 1024 * (im s).rmK

/-- Whether a line is an inbound write in a relay chain. -/
def isInbound (l : Line) : Bool := match l.kind with | .inbound .. => true | _ => false

/-- Tags held: an inbound write in a relay chain holds one as a mover's line does (R182, R208). -/
def tagsUsed (s : State) (p : Pool) : Nat := (s.path.lines.filter fun l => l.pool == p).length

/-- Whether a tag is free for a priority. -/
def tagFree (s : State) (p : Pool) (prio : Nat) : Bool :=
  decide (tagsUsed s p < poolSize s p - (if prio = 0 then 0 else poolSize s p / 8))

/-- Pool of a line. -/
def poolFor (loc : Loc) (write : Bool) : Pool := if isRemote loc then .rm else if write then .wr else .rd

/-- Class of a line's number: its memory port, 8 for a core port, 9 for stage memory, 10 for another chip (R204, R237). -/
def lineClass (s : State) : Loc → Nat
  | .ext pa => memPortOf s pa
  | .stage _ => 9
  | .remote .. => 10
  | _ => 8

/-- Whether a number of a location's class is free. -/
def idFree (s : State) (loc : Loc) : Bool :=
  decide (((usedIds s).filter fun n => n / 65536 == lineClass s loc).length < 65536)

/-- Whether a line to a location finds a tag for its priority and a number. -/
def canTag (s : State) (loc : Loc) (write : Bool) (prio : Nat) : Bool := tagFree s (poolFor loc write) prio && idFree s loc

/-- A line by its number. -/
def lineOf (s : State) (id : Nat) : Option Line := s.path.lines.find? fun l => l.id == id

/-- Take a tag and put a line in flight; its number is the next free one of its class. -/
def addLine (s : State) (l : Line) : State × Line :=
  let id := takeId s (lineClass s l.loc)
  let l := { l with id := id }
  let p := { s.path with lines := s.path.lines ++ [l], nextId := (s.path.nextId + 1) % 65536 }
  let s := { s with path := p }
  let n := tagsUsed s l.pool
  let p := match l.pool with
    | .rd => { p with hwmRd := max p.hwmRd n }
    | .wr => { p with hwmWr := max p.hwmWr n }
    | .rm => { p with hwmRm := max p.hwmRm n }
  ({ s with path := p }, l)

/-- Free a line's tag. A write of external memory drops the echo cache's copy once more: a read issued before its acknowledgement may have
brought the old one (R180). -/
def dropLine (s : State) (id : Nat) : State :=
  let t := setLines s (s.path.lines.filter fun l => l.id != id)
  match lineOf s id with
  | some l => if isWrite l.kind then (match l.loc with | .ext pa => echoDrop t pa | _ => t) else t
  | none => t

/-! ### Arbiters (R195 to R197) -/

/-- An input of an arbiter is granted: it drops to the lowest rank, and those below it move up (R195). -/
def rankDown (rank : List Nat) (i : Nat) : List Nat := rank.erase i ++ [i]

/-- Whether a stage offset lies in a bank. -/
def atBank (s : State) (bank off : Nat) : Bool := (placeOf s off).any fun e => e.2.1 == bank

/-- The inputs that request at a bank (Table 08-1): the lanes with an outstanding line there, and those of the inbound accesses and of the
remote requests that wait for it. -/
def bankReqs (s : State) (bank : Nat) : List Nat :=
  (s.path.lines.filterMap fun l => match l.loc with | .stage o => if atBank s bank o then some l.lane else none | _ => none)
    ++ (s.ports.inq.filterMap fun q => match locOf s q.req.addr.toNat with
      | .stage o => if atBank s bank o then some (if q.core then 32 else 33) else none
      | _ => none)
    ++ if (tkeys s.links).any fun p => (link s p).rxq.any fun k => let h := pktHdr k
        terminates s k && isReq (pOpc h) && atBank s bank (4096 * (win s (pWin h)).base.toNat + pOff h) then [34] else []

/-- A bank arbiter grants an input, and the others that request there have their turn hints (R195, R196). -/
def grantBank (s : State) (bank i : Nat) : State :=
  let r := tget (fun _ => List.range 36) s.stage.rankBank bank
  let h := turnHints r (bankReqs s bank) (bg s (bank / 8)).fence.getLsbD i
  { s with stage := { s.stage with rankBank := tset (fun _ => List.range 36) s.stage.rankBank bank (rankDown r i)
                                   hintBank := tset (fun _ => []) s.stage.hintBank bank h } }

/-- The bank of a stage offset grants an input. -/
def grantStage (s : State) (off i : Nat) : State :=
  match placeOf s off with
  | some (_, b, _) => grantBank s b i
  | none => s

/-- A memory-port arbiter grants an input. -/
def grantMem (s : State) (m i : Nat) : State :=
  let r := tget (fun _ => List.range 33) s.stage.rankMem m
  { s with stage := { s.stage with rankMem := tset (fun _ => List.range 33) s.stage.rankMem m (rankDown r i) } }

/-- A core-port arbiter grants an input. -/
def grantCore (s : State) (n i : Nat) : State :=
  let r := tget (fun _ => List.range 33) s.stage.rankCore n
  { s with stage := { s.stage with rankCore := tset (fun _ => List.range 33) s.stage.rankCore n (rankDown r i) } }

/-- Whether an input of a memory port is fenced (R197). -/
def memFenced (s : State) (m i : Nat) : Bool := (tget (fun _ => 0) s.stage.fenceMem m).getLsbD i

/-- Whether an input of a core port is fenced. -/
def coreFenced (s : State) (n i : Nat) : Bool := (tget (fun _ => 0) s.stage.fenceCore n).getLsbD i

/-- The turn hints of a memory port's decision among the inputs `req`. -/
def memHints (s : State) (m : Nat) (req : List Nat) (i : Nat) : State :=
  let h := turnHints (tget (fun _ => List.range 33) s.stage.rankMem m) req (memFenced s m) i
  { s with stage := { s.stage with hintMem := tset (fun _ => []) s.stage.hintMem m h } }

/-- The turn hints of a core port's decision among the inputs `req`. -/
def coreHints (s : State) (n : Nat) (req : List Nat) (i : Nat) : State :=
  let h := turnHints (tget (fun _ => List.range 33) s.stage.rankCore n) req (coreFenced s n) i
  { s with stage := { s.stage with hintCore := tset (fun _ => []) s.stage.hintCore n h } }

/-- Whether a bank input is fenced at a stage offset (R197). -/
def inFenced (s : State) (off input : Nat) : Bool :=
  match placeOf s off with
  | some (g, _, _) => (bg s g).fence.getLsbD input
  | none => false

/-- Whether an access to a stage offset waits at a closed gate: its pool migrates in the group that it reaches (R191). -/
def gateClosed (s : State) (off : Nat) : Bool :=
  match poolOf s off, placeOf s off with
  | some (p, _), some (g, _, _) => (bg s g).migr.contains p
  | _, _ => false

/-- Whether any of a list of locations waits at a closed gate. -/
def anyGate (s : State) (ls : List Loc) : Bool := ls.any fun l => match l with | .stage o => gateClosed s o | _ => false

/-! ### Stage accesses (R185, R192, R193) -/

/-- 64-bit words of a line whose enables are on at all. -/
def wordsOn (be : LineEn) : List Nat := (List.range 16).filter fun w => fld be (8 * w) 8 != 0
/-- All enables of a line. -/
def fullBe : LineEn := BitVec.allOnes 128

/-- Whether any of the enabled words at a line offset reads uncorrectable. -/
def badWords (s : State) (off : Nat) (be : LineEn) : List Nat :=
  ((wordsOn be).map fun w => off + 8 * w).filter fun o => s.stage.bad.contains o

/-- Count ECC events of a group. -/
def bgEcc (s : State) (g corr uncorr : Nat) : State :=
  let b := bg s g
  setBg s g { b with corr := satAdd 16 b.corr corr, uncorr := satAdd 8 b.uncorr uncorr }

/-- One event of the stage-hole source, from the arbiter input that asked. The spec names no island for it: the event bears that of PD44,
0x2C (DESIGN CHOICE, log 17). -/
def holeEvent (s : State) (off input : Nat) : State := raise s 0x0C off input 0x2C

/-- One event of a group for `n` corrected or uncorrectable words of an access, which its counters count one by one (R192, R193, R198). -/
def eccEvents (s : State) (off : Nat) (bad : Bool) (n : Nat) : State :=
  match placeOf s off with
  | some (g, b, _) =>
    raise (bgEcc s g (if bad then 0 else n) (if bad then n else 0)) ((if bad then 0x48 else 0x38) + g) off b (0x14 + g)
  | none => s

/-- The event of a single corrected or uncorrectable word. -/
def eccEvent (s : State) (off : Nat) (bad : Bool) : State := eccEvents s off bad 1

/-- The events of an access that found `n` uncorrectable words, and a correctable one where `corr` says so. -/
def eccFound (s : State) (off n : Nat) (corr : Bool) : State :=
  let s := if corr then eccEvent s off false else s
  if n = 0 then s else eccEvents s off true n

/-- Read a stage line: its data, and whether an uncorrectable word was among those asked for. `ecc` is what the codes find besides the words
that are known to be bad. -/
def stageRead (s : State) (off : Nat) (be : LineEn) (input : Nat) (ecc : Ecc) : State × LineData × Bool :=
  if (poolOf s off).isNone then (holeEvent s off input, 0, false)
  else
    let n := max (badWords s off be).length (if ecc == .uncorrectable then 1 else 0)
    (eccFound (grantStage s off input) off n (ecc == .corrected), memLine s.stage.mem off, n != 0)

/-- The words of a line that its enables cover in part, so that the bank merges them (R192). -/
def mergedWords (be : LineEn) : List Nat := (wordsOn be).filter fun w => fld be (8 * w) 8 != 255

/-- Write the enabled bytes of a stage line. A word merged into an uncorrectable one stays so, and what the codes find in the merged words
is `ecc`; a whole word is good again. -/
def stageWriteEcc (s : State) (off : Nat) (d : LineData) (be : LineEn) (input : Nat) (ecc : Ecc) : State :=
  if (poolOf s off).isNone then holeEvent s off input
  else
    let whole := ((List.range 16).filter fun w => fld be (8 * w) 8 == 255).map fun w => off + 8 * w
    let part := (mergedWords be).map fun w => off + 8 * w
    let known := part.filter s.stage.bad.contains
    let fresh := if ecc == .uncorrectable && known.isEmpty then part.take 1 else []
    let s := { s with stage := { s.stage with
      mem := memWrite s.stage.mem off d be 128, bad := (s.stage.bad.filter fun o => !whole.contains o) ++ fresh } }
    eccFound (grantStage s off input) off (known.length + fresh.length) (ecc == .corrected && !part.isEmpty)

/-- What the codes find in the words of an access whose command does not say it: a correctable error, or none (R192). -/
def freeEcc (s : State) : Ecc := if Config.softErr s.fresh then .corrected else .clean

/-- Write the enabled bytes of a stage line; whether a merged word has a correctable error is free. -/
def stageWrite (s : State) (off : Nat) (d : LineData) (be : LineEn) (input : Nat) : State :=
  stageWriteEcc (bump s) off d be input (freeEcc s)

/-- The code check of the words that a fetch, a poll or the reading of a record takes from stage memory (R192): a correctable error is of
free choice; whether a word is uncorrectable. -/
def stageProbe (s : State) (off : Nat) (be : LineEn) (input : Nat) : State × Bool :=
  let n := (badWords s off be).length
  (eccFound (bump (grantStage s off input)) off n (freeEcc s == .corrected), n != 0)

/-- The code check of the word of an addition (R192): whether it is uncorrectable, with the event of either kind. -/
def addCheck (s : State) (off : Nat) (ecc : Ecc) : State × Bool :=
  if (poolOf s off).isNone then (s, false)
  else
    let bad := s.stage.bad.contains (off / 8 * 8) || ecc == .uncorrectable
    (if bad then eccEvent s off true else if ecc == .corrected then eccEvent s off false else s, bad)

/-- An addition at the bank: the earlier value (R276). -/
def stageAdd (s : State) (off size : Nat) (v : Nat) (input : Nat) : State × Nat :=
  if (poolOf s off).isNone then (holeEvent s off input, 0)
  else
    let o := off / 128 * 128
    let k := off % 128
    let old := memNat s.stage.mem off size
    let new := (old + v) % 2 ^ (8 * size)
    (stageWriteEcc s o (BitVec.ofNat 1024 (new * 2 ^ (8 * k))) (BitVec.ofNat 128 ((2 ^ size - 1) * 2 ^ k)) input .clean, old)

/-! ### Echo cache (R178 to R180) -/

/-- The echo pool of the image. -/
def echoPool (s : State) : Option PoolCfg := (im s).pools.find? (·.echo)

/-- Whether a read of an external line by a world may use the echo cache. -/
def echoUse (s : State) (ns : Bool) : Bool :=
  !s.path.echoDis && !s.path.echoFlush && (match echoPool s with | some p => p.ns == ns | none => false)

/-- The bank group of the echo pool. -/
def echoGroup (s : State) : Nat :=
  match echoPool s with
  | some p => (maskGroups p.bgmask).headD 0
  | none => 0

/-- Set of a physical line among 2,048. -/
def echoSet (pa : Nat) : Nat := pa / 128 % 2048

/-- Install a copy, through the maintenance input of the echo pool's group, at a bank of free choice; a full set loses one of its ways,
unspecified which (R179, R197). -/
def echoFill (s : State) (pa : Nat) (d : LineData) : State :=
  if (bg s (echoGroup s)).fence.getLsbD 35 then s else
  let s := grantBank s (8 * echoGroup s + Config.pick (s.fresh + 1) % 8) 35
  let old := s.path.echo.filter fun e => e.1 != pa
  let set := old.filter fun e => echoSet e.1 == echoSet pa
  let old := if set.length < 16 then old else match set[Config.pick s.fresh % set.length]? with | some e => old.erase e | none => old
  { s with path := { s.path with echo := old ++ [(pa, d)] }, fresh := s.fresh + 2 }

/-! ### Core ports (R210 to R214) -/

/-- The activation position of an offset, if it lies in the activation window (R213). -/
def actPos (s : State) (n off : Nat) : Option Nat :=
  if 0x900000 ≤ off ∧ off < 0xA00000 then some (((off - 0x900000) / 128) % max 1 (cp s n).alen) else none

/-- Where a line of an offset is delivered (R213, R214). -/
def coreDest (s : State) (n off : Nat) : CoreDest :=
  let k := cp s n
  if off < 0x900000 ∨ 0xC00000 ≤ off then .offset
  else match actPos s n off with
    | some p => .act p
    | none =>
      let l := (off - 0xA00000) / 128
      let i := (l / 2) % max 1 k.plen
      if l % 2 = 0 then .x ((k.xbase.toNat + i) % 8192) else .y ((k.ybase.toNat + i) % 8192)

/-- Offset of a line in its core's local space. -/
def coreOffset : Loc → Nat
  | .core _ o => o
  | .relay _ o => o
  | _ => 0

/-- Present a request to a core, from an input of its port's arbiter: an addition carries its SCOPE, and a WAIT VALUE's read is volatile
(R274, R276). -/
def toCoreAs (s : State) (n input op : Nat) (vol : Bool) (scope : Nat) (l : Line) : State :=
  let off := coreOffset l.loc
  emit (grantCore s n input) (.core n off (coreDest s n off) op l.ns vol scope (l.id % 65536) l.data l.be)

/-- The input by which a line reaches a core port: its lane, or relay forwarding past a chain's first member and for an inbound write. -/
def coreInput (s : State) (n : Nat) (l : Line) : Nat :=
  match l.loc with
  | .relay c _ => if isInbound l || (members s c).head? != some n then 32 else l.lane
  | _ => l.lane

/-- Present a line to a core. -/
def toCore (s : State) (n : Nat) (l : Line) (op : Nat) : State := toCoreAs s n (coreInput s n l) op false 0 l

/-- A write arrives at a core port: held while its activation position is not freed, else presented. -/
def coreWrite (s : State) (n off : Nat) (l : Line) : State :=
  let c := cp s n
  match actPos s n off with
  | some p =>
    if c.busy.contains p then setCp s n { c with held := c.held ++ [(l.id, p)] }
    else toCore (setCp s n { c with busy := c.busy ++ [p] }) n l 1
  | none => toCore s n l 1

/-- Whether a core port itself answers ERROR (R211): not ready, a read of a write-only window, or the hole. -/
def coreErr (s : State) (n off : Nat) (write : Bool) : Bool :=
  !s.pins.crdy.getLsbD n || (if write then decide (0xC00000 ≤ off) else decide (0x800000 ≤ off))

/-- What Miozer answers of itself to a line at issue (R182, R201, R211). -/
def autoErr (s : State) (loc : Loc) (write add : Bool) : Bool :=
  match loc with
  | .hole _ => true
  | .relay n off => !(relay s n).en || add || (match (members s n).head? with | some k => coreErr s k off write | none => true)
  | .core n off => coreErr s n off (write && !add)
  | _ => false

/-- Traffic class of a priority (R222). -/
def classOf (prio : Nat) : Nat := if prio = 0 then 1 else 2

/-- The slots of a line's data. -/
def dataSlots (d : LineData) : List Slot := (List.range 8).map fun k => d.extractLsb' (128 * k) 128

/-- A request packet of this chip (Tables 10-2, 10-3); VOL is that of a read. -/
def reqPktV (s : State) (opc prio chip : Nat) (ns : Bool) (scope : Nat) (vol : Bool) (id win off lane : Nat) (body : List Slot) : Packet :=
  ⟨mkHdr opc (classOf prio) chip (ownChip s) ((im s).cfgTag.toNat % 65536) ns scope vol (id % 65536) win off 0 :: body, lane⟩

/-- A request packet that is not volatile. -/
def reqPkt (s : State) (opc prio chip : Nat) (ns : Bool) (scope : Nat) (id win off lane : Nat) (body : List Slot) : Packet :=
  reqPktV s opc prio chip ns scope false id win off lane body

/-- The fabric ID of a line. -/
def fabId (l : Line) : Nat := l.id % 65536

/-- The mark of a line whose transfer a grant watchdog has discarded, or whose lane is fenced at its target's arbiter: no member
of a chain bears that number. -/
def lostMark : Nat := 16

/-- The memory-port input of a line: its lane, or that of echo misses (Table 08-1). -/
def memInput (l : Line) : Nat := if l.echo = 1 then 32 else l.lane

/-- Whether a line's input is fenced at the arbiter of its target (R197). -/
def lineFenced (s : State) (l : Line) : Bool :=
  match l.loc with
  | .stage o => inFenced s o l.lane
  | .ext pa =>
    if l.echo = 2 then (echoPool s).isSome && (bg s (echoGroup s)).fence.getLsbD l.lane
    else memFenced s (memPortOf s pa) (memInput l)
  | .core n _ => coreFenced s n l.lane
  | .relay n _ => (match (members s n).head? with | some k => coreFenced s k (coreInput s k l) | none => false)
  | _ => false

/-- A line that gets no answer: its transfer was discarded, or it waits at a bank for a fenced lane. It ends with the line
timeout (R197). -/
def noAnswer (s : State) (l : Line) : Bool :=
  l.left.contains lostMark || (match l.loc with | .stage _ => lineFenced s l | _ => l.echo == 2 && lineFenced s l)

/-- Mark a line as one without an answer. -/
def loseLine (s : State) (id : Nat) : State :=
  setLines s (s.path.lines.map fun y => if y.id == id then { y with left := [lostMark] } else y)

/-- Whether a member of a chain has still to take an earlier line: one that has not come to it, or that its port holds (R182). -/
def chainWaits (s : State) (n k id : Nat) : Bool :=
  (s.path.lines.takeWhile fun y => y.id != id).any fun y =>
    (match y.loc with | .relay m _ => m == n | _ => false) && isWrite y.kind
      && (y.left.contains k || (cp s k).held.any fun h => h.1 == y.id)

/-- Send a line in flight to its target, from a lane, with its priority. Stage lines need nothing sent: their bank acts when
the line lands or is acknowledged. -/
def sendLine (s : State) (l : Line) (write : Bool) (prio lane : Nat) : State :=
  if lineFenced s l then loseLine s l.id
  else match l.loc with
  | .ext pa =>
    let m := memPortOf s pa
    if write then emit (grantMem (echoDrop s pa) m l.lane) (.fab m 1 3 pa l.ns false 0 (fabId l) l.data l.be)
    else if l.echo = 2 then s
    else emit (grantMem s m (memInput l)) (.fab m 0 3 pa l.ns false 0 (fabId l) 0 0)
  | .remote c w o =>
    if write then
      sendPkt s (if l.be = fullBe then reqPkt s 2 prio c l.ns 0 l.id w o lane (dataSlots l.data)
        else reqPkt s 3 prio c l.ns 0 l.id w o lane (l.be :: dataSlots l.data))
    else sendPkt s (reqPkt s 1 prio c l.ns 0 l.id w o lane [])
  | .core n o => if write then coreWrite s n o l else toCore s n l 0
  | .relay n o =>
    match members s n with
    | k :: _ =>
      if !write then toCore s k l 0
      else if chainWaits s n k l.id then
        setLines s (s.path.lines.map fun y => if y.id == l.id then { y with left := members s n } else y)
      else coreWrite s k o l
    | [] => s
  | .stage _ => s
  | .hole _ => s

/-- A request of memory port `m` to address `pa` is answered with an error: the port's error block and its event (R207). -/
def memErr (s : State) (m pa op resp : Nat) : State :=
  let x := mp s m
  raise (setMp s m { x with addr := BitVec.ofNat 52 pa, errcnt := satAdd 8 x.errcnt 1, op := BitVec.ofNat 3 op, resp := BitVec.ofNat 2 resp })
    (0x88 + m) pa (4 * op + resp) (0x2C + m / 2)

/-- RESP of a line that ends without its data. -/
def rdResp : RdErr → Nat
  | .poison => 1
  | .error => 2
  | .world => 3
  | .timeout => 0

/-- Whether a memory port or a core answers a place's read. -/
def portLoc (l : Loc) : Bool := match l with | .ext _ => true | .core .. => true | .relay .. => true | _ => false

/-- The failures of a read of lines at `locs` that can be: of a line that a memory port or a core answers, or a timeout of any; one a
line. -/
def lineFails (locs : List Loc) (fs : List (RdErr × Nat)) : List (RdErr × Nat) :=
  fs.foldl (fun acc f =>
    if (acc.any fun g => g.2 == f.2) || !(match locs[f.2]? with | some l => portLoc l || f.1 == .timeout | none => false) then acc
    else acc ++ [f]) []

/-- The memory port or core port that an error response of a location is charged to, with its event (R207, R211). -/
def errEvent (s : State) (loc : Loc) (op resp : Nat) : State :=
  let atMem := memErr s (memPortOf s (locPa s loc)) (locPa s loc) op resp
  match loc with
  | .core n off => raise s (0x90 + n) off resp (0x30 + n / 2)
  | .remote .. => s
  | .relay n off =>
    match (members s n).head? with
    | some k => if (relay s n).en && decide (op < 2) then raise s (0x90 + k) off resp (0x30 + k / 2) else atMem
    | none => atMem
  | _ => atMem

/-- Each line of a read that fails has its own event, at the port that answered it (R207, R211). -/
def failEvents (s : State) (locs : List Loc) (fs : List (RdErr × Nat)) : State :=
  fs.foldl (fun s f => if f.1 == .timeout then s else errEvent s (locs.getD f.2 (.hole 0)) 0 (rdResp f.1)) s

end Sys2Proof.Machine
end

