-- ==== Sys2Proof/Machine/Tiles.lean ====
section
/-! DEFINITION. Address generation: the element pairs of MOVE, TENSOR, GATHER and WHIRL (R86, R87, R91, R107, R116, R117),
their tiles (R86, R88, R99, R107), and the landing groups of a tile (R110). Bit addresses are taken modulo 2^52, byte
addresses modulo 2^49 (R82). -/

namespace Sys2Proof.Machine

/-! ### Pairs -/

/-- A bit address modulo 2^52. -/
def bitAddr (v : Int) : Nat := (v % 2 ^ 52).toNat

/-- Base moved to a held slot (R165). -/
def slotMove (s : State) (h : Option (Nat × Nat × Nat)) : Nat :=
  match h with
  | some (r, _, k) => k * (ring s r).slotsz * 128
  | none => 0

/-- SRC of the present run. -/
def srcBase (s : State) (x : Stream) : Nat := x.src + slotMove s x.slotC
/-- DST of the present run. -/
def dstBase (s : State) (x : Stream) : Nat := x.dst + slotMove s x.slotP

/-- A plain pair of element offsets. -/
def linPair (s : State) (x : Stream) (es ed : Int) : Pair :=
  ⟨some (bitAddr (srcBase s x * 8 + es * srcW x.desc)), 0, bitAddr (dstBase s x * 8 + ed * dstW x.desc), es, ed, []⟩

/-- 32 MiB region of a bit address. -/
def regionOf (b : Nat) : Nat := b % 2 ^ 52 / 2 ^ 28

/-- Whether `w` bits from `b` lie in region `r`. -/
def inRegion (r b w : Nat) : Bool := regionOf b == r && regionOf (b + w - 1) == r

/-- Whether pair `q` may follow `p` in one tile of MOVE, GATHER or WHIRL: no 32 MiB boundary on either side. -/
def fits (d : DescData) (p q : Pair) : Bool :=
  let one := fun (a b : Option Nat) w => match a, b with
    | some u, some v => inRegion (regionOf u) u w && inRegion (regionOf u) v w
    | _, _ => true
  one p.src q.src (srcW d) && one (some p.dst) (some q.dst) (dstW d)

/-- The longest start of a list of pairs that forms one tile. -/
def tileStart (d : DescData) : List Pair → List Pair
  | [] => []
  | p :: ps => p :: ps.takeWhile (fits d p)

/-! ### MOVE (R86) -/

/-- Pair number `e` of a MOVE. -/
def movePair (s : State) (x : Stream) (e : Nat) : Pair :=
  let n := mCnt x.desc
  let c0 : Int := (e % n.1 : Nat)
  let c1 : Int := (e / n.1 % n.2.1 : Nat)
  let c2 : Int := (e / n.1 / n.2.1 : Nat)
  let a := mSstep x.desc
  let b := mDstep x.desc
  linPair s x (c2 * a.2.2 + c1 * a.2.1 + c0 * a.1) (c2 * b.2.2 + c1 * b.2.1 + c0 * b.1)

/-- The tile of a MOVE that begins at pair `i`. -/
def moveTile (s : State) (x : Stream) (i : Nat) : List Pair :=
  let n0 := (mCnt x.desc).1
  tileStart x.desc ((List.range (n0 - i % n0)).map fun k => movePair s x (i + k))

/-! ### TENSOR (R91, R99) -/

/-- Digits of a number in mixed radix, fastest first. -/
def digits : List Nat → Nat → List Nat
  | [], _ => []
  | n :: ns, v => v % n :: digits ns (v / n)

/-- The entry that goes with dimension `k` in a list ordered as `ord`. -/
def byDim (ord vs : List Nat) (k : Nat) : Nat :=
  match (ord.zip vs).find? fun e => e.1 == k with
  | some e => e.2
  | none => 0

/-- Number of tiles along a dimension. -/
def tileCount (e : Dim) : Nat := (e.ext + e.tile - 1) / e.tile

/-- Number of tiles of the box. -/
def tileTotal (x : Shape) : Nat := prodL (x.dims.map tileCount)

/-- Tile index along each dimension of tile `t` in tile order. -/
def tileIdx (x : Shape) (t k : Nat) : Nat :=
  byDim x.dord (digits (x.dord.map fun j => tileCount (dimOf x j)) t) k

/-- Digits of `v` in base `r`, reversed over `n` digits (R116). -/
def digitReverse (r : Nat) : Nat → Nat → Nat
  | 0, _ => 0
  | n + 1, v => (v % r) * r ^ n + digitReverse r n (v / r)

/-- `clamp` of R91. -/
def clampI (v lo hi : Int) : Int := if v < lo then lo else if hi < v then hi else v

/-- `wrap` of R91: a bit offset in a circular side of `l` bytes. -/
def wrapI (v : Int) (l : Nat) : Int := if l = 0 then v else v % (8 * l : Nat)

/-- Element `t` of the index stream (R102). -/
def indexElem (x : Stream) (h : Shape) (idx : Nat → Byte) (t : Nat) : Int :=
  let w := 2 * 2 ^ tIdxw x.desc
  let v := leNat ((List.range w).map fun k => idx (t * w + k))
  if h.idxSgn then sext v (8 * w) else v

/-- The pad element of a position (R95, R117). -/
def padBits (d : DescData) (h : Shape) (c : Nat) : Nat :=
  if dPadm d = 1 then
    (if dKop d = 3 then h.padVal / 2 ^ (c * srcW d) else h.padVal) % 2 ^ srcW d
  else 0

/-- The pair of position `p` (a function of the dimension); none where nothing is written (R91, R95). -/
def tensorPair (s : State) (x : Stream) (h : Shape) (idx : Nat → Byte) (p : Nat → Nat) : Option Pair :=
  let d := x.desc
  let n := h.dims.length
  let X := dKarg d % 8
  let isPad := (List.range n).any fun k => let e := dimOf h k; decide (p k < e.padLo) || decide (e.ext - e.padHi ≤ p k)
  if isPad && dPadm d == 2 then none
  else
    let ix := h.idxDim
    let useIdx := tIndex d != 0
    let v := indexElem x h idx (p ix / (dimOf h ix).tile)
    let org : Int := if useIdx then (if tIdxk d = 1 then v * (dimOf h ix).tile else v) else 0
    let r : Int := (p ix % (dimOf h ix).tile : Nat)
    let sc := fun k =>
      let e := dimOf h k
      let v : Int := if (dKop d = 1) && k == X then
          e.sStart + (digitReverse (2 ^ (dKarg d / 8 % 4)) ((logExact (2 ^ (dKarg d / 8 % 4)) e.ext).getD 1) (p k) : Nat)
        else if (dKop d = 2) && k == X then e.sStart + ((p k + dKarg d / 8 * e.ext / 32) % e.ext : Nat)
        else if useIdx && !h.idxSide && k == ix then e.sStart + org + r
        else e.sStart + (p k : Nat) - (e.padLo : Nat)
      clampI v e.sbLo e.sbHi
    let du := fun k => if useIdx && h.idxSide && k == ix then org + r else ((p k : Nat) : Int)
    let dc := fun k => let e := dimOf h k; clampI (du k) e.dbLo e.dbHi
    let so := ((List.range n).map fun k => sc k * (dimOf h k).sStride).foldl (· + ·) 0
    let dof := ((List.range n).map fun k => dc k * (dimOf h k).dStride).foldl (· + ·) 0
    let sbit := wrapI (so * srcU d) h.scLen
    let dbit := wrapI (dof * dstU d) h.dcLen
    let c := if dKop d = 3 ∨ dKop d = 4 then p X else 0
    let d0 := h.dord.headD 0
    some {
      src := if isPad then none else some (bitAddr (sbit + srcBase s x * 8 + if dKop d = 3 then c * srcW d else 0))
      pad := padBits d h c
      dst := bitAddr (dbit + dstBase s x * 8 + if dKop d = 4 then c * dstW d else 0)
      so := sbit / srcU d
      dof := dbit / dstU d
      blk := (List.range n).map fun k => if k = d0 then du k / blockB (dDfmt d) else du k }

/-- Number of positions along a dimension of tile `t`. -/
def tileExt (h : Shape) (t k : Nat) : Nat :=
  let e := dimOf h k
  min e.tile (e.ext - tileIdx h t k * e.tile)

/-- The pairs of tile `t`, walked in the order of dimensions `ord`. -/
def tensorWalk (s : State) (x : Stream) (h : Shape) (idx : Nat → Byte) (t : Nat) (ord : List Nat) : List Pair :=
  let sizes := ord.map (tileExt h t)
  (List.range (prodL sizes)).filterMap fun i =>
    let ds := digits sizes i
    tensorPair s x h idx fun k => tileIdx h t k * (dimOf h k).tile + byDim ord ds k

/-- The pairs of tile `t` in DORD (R104). -/
def tensorTile (s : State) (x : Stream) (h : Shape) (idx : Nat → Byte) (t : Nat) : List Pair := tensorWalk s x h idx t h.dord

/-- The number of the block of `q` positions along DORD[0] that the bound box moves a position to, if it moves it to one of the box's own
(R92, R96). -/
def edgeBlock (x : Stream) (h : Shape) (v : Nat) : Option Nat :=
  let e := dimOf h (h.dord.headD 0)
  let q := fmtUnit (dDfmt x.desc)
  let c := clampI (v : Nat) e.dbLo e.dbHi
  let b := c / q * q
  if q ≤ 1 || c == v || decide (b < 0) || decide ((e.ext : Int) ≤ b) then none else some b.toNat

/-- The other elements of the destination byte of a position that the bound box moves to an edge of a sub-byte TENSOR: the byte is written
whole, with them (R85, R92, R98; DEDUCED, log 26). Where the index stream drives that coordinate on the destination side, they are not
known here. -/
def edgeMates (s : State) (x : Stream) (h : Shape) (idx : Nat → Byte) (p : Nat → Nat) : List Pair :=
  let d0 := h.dord.headD 0
  if tIndex x.desc != 0 && h.idxSide && h.idxDim == d0 then []
  else match edgeBlock x h (p d0) with
    | none => []
    | some b => (List.range (fmtUnit (dDfmt x.desc))).filterMap fun j => tensorPair s x h idx fun k => if k = d0 then b + j else p k

/-- The elements that tile `t` writes besides its own, each once, so that every byte that it writes is whole. -/
def tensorMates (s : State) (x : Stream) (h : Shape) (idx : Nat → Byte) (t : Nat) : List Pair :=
  if fmtUnit (dDfmt x.desc) ≤ 1 then []
  else
    let sizes := h.dord.map (tileExt h t)
    let own := tensorTile s x h idx t
    (dedup ((List.range (prodL sizes)).flatMap fun i =>
      let ds := digits sizes i
      edgeMates s x h idx fun k => tileIdx h t k * (dimOf h k).tile + byDim h.dord ds k)).filter fun p => !own.any fun o => o.dst == p.dst

/-- The index elements that tile `t` uses: its own, and where the index drives DORD[0] on the source side those of the elements that it
writes besides its own. -/
def tileElems (x : Stream) (h : Shape) (t : Nat) : List Nat :=
  let d0 := h.dord.headD 0
  let own := tileIdx h t h.idxDim
  let more := if h.idxDim = d0 && !h.idxSide then
      (List.range (tileExt h t d0)).filterMap fun j =>
        (edgeBlock x h (tileIdx h t d0 * (dimOf h d0).tile + j)).map (· / (dimOf h d0).tile)
    else []
  dedup (own :: more)

/-! ### WHIRL (R107) -/

/-- The tile at the front of a run. -/
def whirlTile (s : State) (x : Stream) (r : Int × Int × Nat) : List Pair :=
  tileStart x.desc ((List.range r.2.2).map fun j => linPair s x (r.1 + (j : Nat)) (r.2.1 + (j : Nat)))

/-! ### GATHER (R87, R88) -/

/-- Advance over exhausted entries: entry, element within it, its address; none when the list has run out; the DETAIL of a
bad entry. -/
def advEntry (entry : Nat → Except Nat (Nat × Nat)) (cnt w : Nat) : Nat → Nat → Nat → Except Nat (Option (Nat × Nat × Nat))
  | 0, _, _ => .ok none
  | f + 1, i, k =>
    if cnt ≤ i then .ok none
    else match entry i with
      | .error e => .error e
      | .ok (a, l) => if k = l * 8 / w then advEntry entry cnt w f (i + 1) 0 else .ok (some (i, k, a))

/-- One side's next place. A contiguous side is one entry of unlimited length. -/
def gSide (list : Bool) (entry : Nat → Except Nat (Nat × Nat)) (cnt w base i k : Nat) : Except Nat (Option (Nat × Nat × Nat)) :=
  if list then advEntry entry cnt w (cnt - i + 1) i k else .ok (some (i, k, base))

/-- Where a GATHER stands after a step. -/
inductive GStep where
  | pair (p : Pair) (cur : GCur)
  | stop
  | bad (detail : Nat)
  deriving DecidableEq, Repr

/-- The next pair in the order of R87. -/
def gNext (s : State) (x : Stream) (se de : Nat → Except Nat (Nat × Nat)) (g : GCur) : GStep :=
  let d := x.desc
  if gTotal d * 8 / fmtBits (dSfmt d) ≤ g.e then .stop
  else match gSide (gSlist d) se (gScnt d) (fmtBits (dSfmt d)) (srcBase s x) g.si g.sk with
    | .error e => .bad e
    | .ok none => .stop
    | .ok (some (si, sk, sa)) =>
      match gSide (gDlist d) de (gDcnt d) (fmtBits (dDfmt d)) (dstBase s x) g.di g.dk with
      | .error e => .bad e
      | .ok none => .stop
      | .ok (some (di, dk, da)) =>
        .pair ⟨some (bitAddr (sa * 8 + sk * srcW d)), 0, bitAddr (da * 8 + dk * dstW d), 0, 0, []⟩
          { g with e := g.e + 1, si := si, sk := sk + 1, di := di, dk := dk + 1 }

/-- The rest of a segment: pairs of the same two entries that fit with its first. -/
def gMore (s : State) (x : Stream) (se de : Nat → Except Nat (Nat × Nat)) (p0 : Pair) (si di : Nat) :
    Nat → GCur → List Pair × GCur
  | 0, g => ([], g)
  | f + 1, g =>
    match gNext s x se de g with
    | .pair p g' =>
      if g'.si = si ∧ g'.di = di ∧ fits x.desc p0 p then
        let r := gMore s x se de p0 si di f g'
        (p :: r.1, r.2)
      else ([], g)
    | _ => ([], g)

/-- What the generator answers: the pairs of the next tile and the cursor after it, the end, or the DETAIL of a bad entry. -/
inductive Seg where
  | tile (ps : List Pair) (cur : GCur)
  | done
  | bad (detail : Nat)
  deriving DecidableEq, Repr

/-- Pairs that lie in the partly covered last byte of a segment, and those that reach into it (R88). -/
def gSplit (w : Nat) (ps : List Pair) : List Pair × List Pair :=
  match ps.getLast? with
  | none => ([], [])
  | some p =>
    let b := (p.dst + w) / 8 * 8
    if (p.dst + w) % 8 = 0 then (ps, [])
    else (ps.filter fun q => decide (q.dst < b), ps.filter fun q => decide (b < q.dst + w))

/-- The next segment of a GATHER. What an earlier one left of a shared byte comes first, and is left again by a segment that ends inside
that byte; at the end of the transfer what is left forms a tile of its own. -/
def gSeg (s : State) (x : Stream) (se de : Nat → Except Nat (Nat × Nat)) : Seg :=
  let g := x.gcur
  match gNext s x se de g with
  | .bad e => .bad e
  | .stop => if g.carry.isEmpty then .done else .tile g.carry { g with carry := [] }
  | .pair p g1 =>
    let r := gMore s x se de p g1.si g1.di (gTotal x.desc * 8) g1
    let sp := gSplit (dstW x.desc) (g.carry ++ p :: r.1)
    .tile sp.1 { r.2 with carry := sp.2 }

/-! ### Regions of a tile (R101, R251) -/

/-- Merge one requirement into a list: the lowest address of each region and operand. -/
def addReq (rs : List XReq) (q : XReq) : List XReq :=
  if rs.any fun r => r.region == q.region && r.opnd == q.opnd then
    rs.map fun r => if r.region == q.region && r.opnd == q.opnd then { r with va := min r.va q.va } else r
  else rs ++ [q]

/-- Requirements of `w` bits at bit address `b`. -/
def bitReqs (b w opnd : Nat) (write : Bool) : List XReq :=
  let v0 := b % 2 ^ 52 / 8
  let v1 := (b + w - 1) % 2 ^ 52 / 8
  if v0 / 2 ^ 25 = v1 / 2 ^ 25 then [⟨v0 / 2 ^ 25, opnd, write, v0⟩]
  else [⟨v0 / 2 ^ 25, opnd, write, v0⟩, ⟨v1 / 2 ^ 25, opnd, write, 2 ^ 25 * (v1 / 2 ^ 25)⟩]

/-- Byte address of the scale of an element offset (R133). -/
def scaleVa (x : Stream) (o : Int) (f : Nat) : Nat := ((x.scale + o / blockB f) % 2 ^ 49).toNat

/-- The scale byte that a pair uses or writes, if a side is a block format. -/
def pairScale (x : Stream) (p : Pair) : Option Nat :=
  if isBlock (dDfmt x.desc) then some (scaleVa x p.dof (dDfmt x.desc))
  else if isBlock (dSfmt x.desc) && p.src.isSome then some (scaleVa x p.so (dSfmt x.desc))
  else none

/-- The regions that a tile needs. -/
def tileReqs (x : Stream) (ps : List Pair) : List XReq :=
  ps.foldl (fun rs p =>
    let rs := match p.src with
      | some b => (bitReqs b (srcW x.desc) 0 false).foldl addReq rs
      | none => rs
    let rs := (bitReqs p.dst (dstW x.desc) 1 true).foldl addReq rs
    match pairScale x p with
    | some v => addReq rs ⟨v / 2 ^ 25, 3, dSdisc x.desc, v⟩
    | none => rs) []

/-- Regions between the lowest and the highest byte of an operand. -/
def opndCount (rs : List XReq) (opnd : Nat) : Nat :=
  let q := (rs.filter fun r => r.opnd == opnd).map (·.region)
  match q with
  | [] => 0
  | r :: rest => rest.foldl max r - rest.foldl min r + 1

/-- TILE_PAGES of an index-driven tile (R101): the operand reported, if the count exceeds 8. -/
def pagesOfTile (rs : List XReq) : Option Nat :=
  let a := opndCount rs 0
  let b := opndCount rs 1
  let e := opndCount rs 3
  if a + b + 1 + e ≤ 8 then none
  else if b ≤ a ∧ 1 ≤ a ∧ e ≤ a then some 0 else if 1 ≤ b ∧ e ≤ b then some 1 else if e ≤ 1 then some 2 else some 3

/-! ### Groups (R110, R113, R114) -/

/-- Virtual lines that `w` bits at `b` touch. -/
def bitLines (b w : Nat) : List Nat := dedup [b % 2 ^ 52 / 1024, (b + w - 1) % 2 ^ 52 / 1024]

/-- Source lines of a pair. -/
def pairSrcLines (x : Stream) (p : Pair) : List Nat :=
  match p.src with
  | some b => bitLines b (srcW x.desc)
  | none => []

/-- The location of a virtual byte address through a tile's translation set. -/
def setLoc (s : State) (set : List XEnt) (va : Nat) : Loc :=
  match set.find? fun e => e.region == va / 2 ^ 25 with
  | some e => leafLoc s e.leaf va
  | none => .hole 0

/-- Location of a virtual line. -/
def vlineLoc (s : State) (set : List XEnt) (v : Nat) : Loc := locLine (setLoc s set (v * 128))

/-- Pack destination lines into runs that draw on at most 128 source lines. R110 bounds a run and does not say that it is as long as it can
be: each run here takes every line that fits, from the tile's first line on (DESIGN CHOICE, log 26). -/
def packLines (lim : Nat) : List (Nat × List Nat) → List Nat → List Nat → List (List Nat)
  | [], cur, _ => if cur.isEmpty then [] else [cur]
  | (v, ss) :: rest, cur, acc =>
    let u := dedup (acc ++ ss)
    if cur.isEmpty || decide (u.length ≤ lim) then packLines lim rest (cur ++ [v]) u
    else cur :: packLines lim rest [v] (dedup ss)

/-- Group bound of a descriptor (Table 05-4). -/
def groupBound (x : Stream) : Nat :=
  match x.shape with
  | some h => min (prodL (h.dims.map (·.tile))) (((spans x.desc h).1 + 1023) / 1024 + 1)
  | none => listBound (dDfmt x.desc)

/-- Quadrants that a mover spans (Table 01-3). -/
def moverQuads (s : State) (m : Nat) : List Nat := (List.range (max 1 (moverWidth s m / 8))).map (m / 8 + ·)

/-- One landing group from a run of destination lines: its data lines in the order of the tile's source walk (R99), and under accumulation
each line that it writes (R150). -/
def mkGroup (s : State) (x : Stream) (m no : Nat) (set : List XEnt) (ps : List Pair) (srcs lines : List Nat) (held : Option Nat) :
    Group :=
  let d := x.desc
  let at' := fun v => vlineLoc s set v
  let outs : List OutLine := lines.map fun v =>
    ⟨at' v, v, ps.filter fun p => (bitLines p.dst (dstW d)).contains v, false, held == some v, 1⟩
  let scs := if isBlock (dDfmt d) && dSdisc d then dedup (ps.filterMap fun p => (pairScale x p).map (· / 128)) else []
  let scOuts : List OutLine := scs.map fun v => ⟨at' v, v, ps.filter fun p => (pairScale x p).map (· / 128) == some v, true, false, 3⟩
  let mine := outs.flatMap (·.pairs)
  let used := dedup (mine.flatMap (pairSrcLines x))
  let dataR := (srcs.filter used.contains).map fun v => (at' v, RdKind.data, 0)
  let scR := if isBlock (dDfmt d) && dSdisc d then [] else
    (dedup (mine.filterMap fun p => (pairScale x p).map (· / 128))).map fun v => (at' v, RdKind.scale, 3)
  let accR := if dAcc d then dedup (lines.map fun v => (at' v, RdKind.acc, 1)) else []
  let qs := moverQuads s m
  ⟨no, qs.getD (no % qs.length) 0, groupBound x, false, dedup dataR ++ dedup scR ++ accR, [], outs ++ scOuts, [], []⟩

/-- The groups of a tile whose regions are translated: one for TENSOR, runs of lines otherwise. Where the last element of a descriptor with
FINAL lies in two lines, the line of its last bit is held: R58 and R104 speak of one line (DESIGN CHOICE, log 39). -/
def mkGroups (s : State) (x : Stream) (m no : Nat) (t : Tile) : List Group :=
  let ps := t.pairs
  let w := dstW x.desc
  let lines := dedup (ps.flatMap fun p => bitLines p.dst w)
  let held := if dFinal x.desc then ps.getLast?.map fun p => (p.dst + w - 1) % 2 ^ 52 / 1024 else none
  let runs := if dType x.desc = 2 then [lines]
    else packLines 128 (lines.map fun v =>
      (v, dedup ((ps.filter fun p => (bitLines p.dst w).contains v).flatMap (pairSrcLines x)))) [] []
  ((List.range runs.length).zip runs).map fun e => mkGroup s x m (no + e.1) t.xset ps t.srcs e.2 held

end Sys2Proof.Machine
end

