-- ==== Sys2Proof/Machine/Translate.lean ====
section
/-! DEFINITION. Address translation: TLB lookups, walks and their merging, fault and advice records, invalidation, and the
registers of the translation and window pages (R242 to R263). -/

namespace Sys2Proof.Machine

/-! ### TLB (R249) -/

/-- Translation half of an address. -/
def halfOf (va : Nat) : Nat := (va / 2 ^ 25 + va / 2 ^ 30 + va / 2 ^ 35 + va / 2 ^ 40 + va / 2 ^ 45) % 2

/-- Regions that a leaf of a level maps. -/
def leafSpan (level : Nat) : Nat := pageSize level / 2 ^ 25

/-- First region of the page of a level that contains a region. -/
def pageBase (level region : Nat) : Nat := region / leafSpan level * leafSpan level

/-- The cached leaf for a region. -/
def tlbFind (s : State) (h : Nat) (asid : BitVec 8) (region : Nat) : Option Leaf :=
  (s.xl.tlb.find? fun t => t.half == h && t.asid == asid && pageBase t.leaf.level region == t.page).map (·.leaf)

/-- Fill a half's TLB of 4,096 entries; which entry a fill replaces is unspecified (R249). -/
def tlbFill (s : State) (h : Nat) (asid : BitVec 8) (region : Nat) (l : Leaf) : State :=
  let page := pageBase l.level region
  let old := s.xl.tlb.filter fun t => !(t.half == h && t.asid == asid && t.page == page)
  let mine := old.filter fun t => t.half == h
  let old := if mine.length < 4096 then old
    else match mine[Config.pick s.fresh % mine.length]? with | some t => old.erase t | none => old
  bump { s with xl := { s.xl with tlb := old ++ [⟨h, asid, page, l⟩] } }

/-- Replace the list of walks. -/
def setWalks (s : State) (ws : List Walk) : State := { s with xl := { s.xl with walks := ws } }

/-- Change one walk. -/
def modWalk (s : State) (id : Nat) (f : Walk → Walk) : State :=
  setWalks s (s.xl.walks.map fun w => if w.id == id then f w else w)

/-- Whether a walk occupies a walker of its half. -/
def walkBusy (w : Walk) : Bool := !w.advice && (w.st == .reading || w.st == .due || w.st == .holding)

/-- The key of a walk, VA[48:25]. -/
def walkKey (w : Walk) : Nat := w.va / 2 ^ 25

/-! ### Walk steps (R244 to R247) -/

/-- Whether a table lies in the Miozer region. -/
def inMiozer (s : State) (pa : Nat) : Bool := decide (gbase s ≤ pa) && decide (pa < gbase s + 2 ^ 30)

/-- A walk holds a fault for the requesters that fault. Without one it ends; WARM is never a requester (R257, R259). -/
def holdFault (w : Walk) (kind : Nat) (entry : W64) (faulting : List Req) (mask : BitVec 64) : Walk :=
  let root := kind == 1
  { w with st := .holding, reqs := []
           held := some ⟨kind, if root then 0 else w.level, if root then 0 else entryAddr w, entry, 0, faulting, mask⟩ }

/-- Contexts of a list of requesters. -/
def reqMask (s : State) (rs : List Req) : BitVec 64 :=
  rs.foldl (fun m r => putBit m (chanCfg s r.ch).ctx true) 0

/-- Whether a request is that of a look-ahead: it fills the TLB, takes no leaf, and its faults are discarded (R176, R253). -/
def isAhead (r : Req) : Bool := r.warm && r.opnd != 7

/-- A WARM that waits on a walk goes on to its next region. -/
def warmNext (s : State) (rs : List Req) : State :=
  (rs.filter fun r => r.warm && r.opnd == 7).foldl (fun s r => modStream s r.ch fun x =>
    match x.wait with
    | .warm n => { x with wait := .warm (n + 1) }
    | _ => x) s

/-- A tile whose pre-walk faults holds no entry of its translation set (R252). -/
def dropSets (s : State) (rs : List Req) : State :=
  rs.foldl (fun s r => modStream s r.ch fun x =>
    { x with tiles := x.tiles.map fun t => if t.walked then t else { t with xset := [] } }) s

/-- The misses of a walk's key that wait for a walker join it as it starts (R257). -/
def mergeQueued (s : State) (w : Walk) : State × Walk :=
  let same := s.xl.walks.filter fun v =>
    v.id != w.id && v.st == .queued && !v.advice && v.half == w.half && v.asid == w.asid && walkKey v == walkKey w
  let h := half s w.half
  (setHalf (setWalks s (s.xl.walks.filter fun v => !same.contains v)) w.half { h with merge := h.merge + BitVec.ofNat 32 same.length },
    { w with reqs := w.reqs ++ same.flatMap (·.reqs) })

/-- A walk's read goes out: SIZE 1, VOL 1, SCOPE 1, in its context's world, by the port that R202 selects, on the input of the lowest
lane of the mover that asked first (R247). A port without power is woken first, and the read is due until then (R32). At a fenced input it
is not granted, and ends with the walk's timeout (R197). -/
def walkRead (s : State) (w : Walk) : State :=
  let a := entryAddr w
  let m := memPortOf s a
  let lane := (chanCfg s (w.reqs.headD ⟨0, 0, false, 0, false⟩).ch).mover
  if !powered s (44 + m / 2) then need (modWalk s w.id fun _ => { w with st := .due }) (44 + m / 2)
  else
    let s := modWalk s w.id fun _ => { w with st := .reading }
    if memFenced s m lane then s
    else
      let h := half s w.half
      let r := ownReq (grantMem (setHalf s w.half { h with walkrd := h.walkrd + 1 }) m lane) m 0 a (.walk w.id)
      emit r.1 (.walk w.id m lane 1 a (!ctxSecure s w.ctx) true 1 (r.2 % 65536))

/-- The reads that waited for their port's power go out. -/
def dueWalks (s : State) : State :=
  (s.xl.walks.filter fun w => !w.advice && w.st == .due).foldl (fun s w =>
    if powered s (44 + memPortOf s (entryAddr w) / 2) then walkRead s w else s) s

/-- Start a queued walk: ROOT while EN is 0, TABLE for a root in the Miozer region, else the level-1 read. The root and EN are those that
its context had as the walk's translation began (R243). -/
def startWalk (s : State) (w : Walk) : State :=
  let (s, w) := mergeQueued s w
  let w := { w with level := 1, table := w.root }
  let real := w.reqs.filter fun r => !r.warm
  let fault := fun kind => if real.isEmpty then warmNext (setWalks s (s.xl.walks.filter fun v => v.id != w.id)) w.reqs
    else warmNext (modWalk (dropSets s real) w.id fun _ => holdFault w kind 0 real (reqMask s real)) w.reqs
  if !w.en then fault 1
  else if inMiozer s w.table then fault 5
  else walkRead s w

/-- Start the oldest queued misses of a half while it has a walker free (R249). -/
def startQueued : Nat → State → Nat → State
  | 0, s, _ => s
  | n + 1, s, h =>
    if 8 ≤ (s.xl.walks.filter fun w => w.half == h && walkBusy w).length then s
    else match s.xl.walks.find? fun w => w.half == h && !w.advice && w.st == .queued with
      | some w => startQueued n (startWalk s w) h
      | none => s

/-- The leaf that an entry of a level spells. -/
def entryLeaf (level : Nat) (e : W64) : Leaf :=
  let remote := bitOf e 3
  ⟨level, bitOf e 2, bitOf e 4 && !remote, remote, if remote then 2 ^ 25 * fld e 24 1 else 2 ^ 25 * fld e 25 27,
    fld e 8 8, fld e 16 8⟩

/-- Whether a channel is named by a fault whose record is still to be acknowledged. -/
def faultPending (s : State) (c : Nat) : Bool := s.xl.walks.any fun w => !w.advice && w.held.any fun f => f.reqs.any fun r => r.ch == c

/-- A leaf found under an ASID joins the translation set of a tile; the first one dates the set (R251, R258). -/
def setAdd (s : State) (t : Tile) (region : Nat) (l : Leaf) (asid : BitVec 8) : Tile :=
  { t with
    xset := (t.xset.filter fun e => e.region != region) ++ [⟨region, l⟩]
    xgen := if t.xset.isEmpty then s.xl.gen else t.xgen
    xasid := if t.xset.isEmpty then asid else t.xasid }

/-- A leaf is kept for a read that precedes tiles or for a control address. -/
def preAdd (x : Stream) (region : Nat) (l : Leaf) : Stream := { x with pre := x.pre.filter (fun e => e.region != region) ++ [⟨region, l⟩] }

/-- Put a leaf where a requester takes it: the translation set of its tile, or the leaves for reads that precede tiles and
for control addresses. A look-ahead takes none, nor does a tile of which another region faults (R252, R253). -/
def deposit (s : State) (r : Req) (region : Nat) (l : Leaf) (asid : BitVec 8) : State :=
  if isAhead r || faultPending s r.ch then s else
  modStream s r.ch fun x =>
    let hit := x.tiles.any fun t => !t.walked && t.need.any fun q => q.region == region && q.opnd == r.opnd
    if hit then
      { x with tiles := x.tiles.map fun t =>
          if !t.walked && t.need.any (fun q => q.region == region && q.opnd == r.opnd)
              && !(t.xset.any fun e => e.region == region) then setAdd s t region l asid
          else t }
    else preAdd x region l

/-- A walk has found a leaf: requesters that need W where it is 0 fault, the others proceed; without a fault the leaf is
cached. -/
def walkLeaf (s : State) (w : Walk) (e : W64) : State :=
  let l := entryLeaf w.level e
  let bad := w.reqs.filter fun r => r.write && !l.w && !r.warm
  let good := w.reqs.filter fun r => !(r.write && !l.w) && !r.warm
  let region := walkKey w
  let s := if bad.isEmpty then tlbFill (setWalks s (s.xl.walks.filter fun v => v.id != w.id)) w.half w.asid region l
    else modWalk (dropSets s bad) w.id fun _ => holdFault w 3 e bad (reqMask s bad)
  let s := good.foldl (fun s r => deposit s r region l w.asid) s
  startQueued 64 (warmNext s w.reqs) w.half

/-- A walk ends in a fault of a kind that faults every requester. -/
def walkFault (s : State) (w : Walk) (kind : Nat) (e : W64) : State :=
  let real := w.reqs.filter fun r => !r.warm
  let s := if real.isEmpty then setWalks s (s.xl.walks.filter fun v => v.id != w.id)
    else modWalk (dropSets s real) w.id fun _ => holdFault w kind e real (reqMask s real)
  startQueued 64 (warmNext s w.reqs) w.half

/-- Whether a chip ID lies inside the cluster's extents. -/
def chipOk (s : State) (c : Nat) : Bool := (List.range 4).all fun k => decide (coord c k < extent s k)

/-- Whether a valid entry is malformed at its level (R246). -/
def badEntry (s : State) (level : Nat) (e : W64) : Bool :=
  if !bitOf e 1 then fld e 2 6 != 0 || fld e 52 12 != 0 || level == 3
  else if bitOf e 3 then
    fld e 4 4 != 0 || fld e 25 39 != 0 || level != 3 || !chipOk s (fld e 8 8)
  else fld e 7 18 != 0 || fld e 52 12 != 0 || (level == 2 && fld e 25 5 != 0) || (level == 1 && fld e 25 10 != 0)

/-- WALK_READ_RESPONSE (R207, R244 to R247, R254, R257): an entry arrives, or the read's port counts an error. -/
def execWalkReadResponse (w : Nat) (a : WalkAns) (s : State) : Host.Outcome State Fault Refusal :=
  match s.xl.walks.find? fun v => v.id == w && v.st == .reading with
  | none => .next s
  | some v =>
    let s := ownDone s (.walk w)
    match a with
    | .okay e =>
      if !bitOf e 0 then .next (walkFault s v 2 e)
      else if badEntry s v.level e then .next (walkFault s v 4 e)
      else if bitOf e 1 then .next (walkLeaf s v e)
      else
        let t := fld e 8 44 * 256
        if inMiozer s t then .next (walkFault s v 5 0)
        else .next (walkRead s { v with level := v.level + 1, table := t })
    | .poison => .next (walkFault (errEvent s (.ext (entryAddr v)) 0 1) v 5 0)
    | .error => .next (walkFault (errEvent s (.ext (entryAddr v)) 0 2) v 5 0)
    | .world => .next (walkFault (errEvent s (.ext (entryAddr v)) 0 3) v 5 0)

/-- WALK_READ_TIMEOUT (R247). -/
def execWalkReadTimeout (w : Nat) (s : State) : Host.Outcome State Fault Refusal :=
  match s.xl.walks.find? fun v => v.id == w && v.st == .reading with
  | none => .next s
  | some v => .next (walkFault (ownDead s (.walk w) true) v 5 0)

/-! ### Lookups -/

/-- A miss joins a walk in flight of its key, or waits for a walker (R249, R257). The requests of one lookup are one miss: those after its
`first` go where that went. -/
def missOne (s : State) (h : Nat) (asid : BitVec 8) (x : Nat) (first : Bool) (r : Req) : State :=
  let region := r.va / 2 ^ 25
  match s.xl.walks.find? fun w =>
      walkBusy w && w.half == h && w.asid == asid && walkKey w == region with
  | some w =>
    let hs := half s h
    let s := if first then setHalf s h { hs with merge := hs.merge + 1 } else s
    if w.st == .holding then
      match w.held with
      | some f =>
        if r.warm then warmNext s [r]
        else if f.kind == 3 && !r.write then deposit s r region (entryLeaf f.level f.entry) asid
        else modWalk (dropSets s [r]) w.id fun w => { w with held := some { f with reqs := f.reqs ++ [r], mask := putBit f.mask x true } }
      | none => s
    else modWalk s w.id fun w => { w with reqs := w.reqs ++ [r] }
  | none =>
    match s.xl.walks.find? fun w => !first && !w.advice && w.st == .queued && w.half == h && w.asid == asid
        && walkKey w == region && w.reqs.any (fun q => q.ch == r.ch && q.warm == r.warm) with
    | some w => modWalk s w.id fun w => { w with reqs := w.reqs ++ [r] }
    | none =>
    let k := ctx s x
    let w : Walk := ⟨s.xl.nextWalk, h, asid, x, r.va, 0, 0, 4096 * k.root.toNat, k.en, [r], .queued, false, none⟩
    startQueued 64 { s with xl := { s.xl with walks := s.xl.walks ++ [w], nextWalk := s.xl.nextWalk + 1 } } h

/-- The one miss of a lookup. -/
def missAll (s : State) (h : Nat) (asid : BitVec 8) (x : Nat) : List Req → State
  | [] => s
  | r :: rs => rs.foldl (fun s r => missOne s h asid x false r) (missOne s h asid x true r)

/-- One lookup of a region for the requests of one tile or read: the cached leaf with its permission, or a miss for each
request (R251). A gated half wakes first (R315). -/
def lookup (s : State) (x : Nat) (rs : List Req) : State × Option Leaf :=
  match rs with
  | [] => (s, none)
  | r :: _ =>
    let h := halfOf r.va
    let asid := (ctx s x).asid
    let hs := half s h
    if !powered s (56 + h) then (need s (56 + h), none) else
    match tlbFind s h asid (r.va / 2 ^ 25) with
    | some l =>
      if l.w || !(rs.any (·.write)) then (setHalf s h { hs with hit := hs.hit + 1 }, some l)
      else (missAll (setHalf s h { hs with miss := hs.miss + 1 }) h asid x rs, none)
    | none => (missAll (setHalf s h { hs with miss := hs.miss + 1 }) h asid x rs, none)

/-- Whether a channel waits on a walk of a region. -/
def walkPending (s : State) (c region : Nat) : Bool :=
  s.xl.walks.any fun w => !w.advice && walkKey w == region
    && ((w.reqs.any fun r => r.ch == c && !isAhead r) || (match w.held with | some f => f.reqs.any fun r => r.ch == c | none => false))

/-- The leaf for a read that precedes tiles or for a control address: found already, cached, or asked for. -/
def preLeaf (s : State) (c opnd va : Nat) (write : Bool) : State × Option Leaf :=
  let region := va % 2 ^ 49 / 2 ^ 25
  match stream s c with
  | none => (s, none)
  | some x =>
    match x.pre.find? fun e => e.region == region && (e.leaf.w || !write) with
    | some e => (s, some e.leaf)
    | none =>
      if walkPending s c region then (s, none)
      else
        let r := lookup s (chanCfg s c).ctx [⟨c, opnd, write, va % 2 ^ 49, false⟩]
        match r.2 with
        | some l => (modStream r.1 c fun x => preAdd x region l, some l)
        | none => r

/-- The read or access that the leaves were found for has been made: the next one looks up anew (R251). -/
def clearPre (s : State) (c : Nat) : State := modStream s c fun x => { x with pre := [] }

/-- The leaves of every region of `n` bytes from `va`; none while one is missing. -/
def preLeaves (s : State) (c opnd va n : Nat) : State × Option (List XEnt) :=
  let r0 := va / 2 ^ 25
  let r1 := (va + (n - 1)) / 2 ^ 25
  (List.range (r1 - r0 + 1)).foldl (fun acc k =>
    match acc with
    | (s, none) => (s, none)
    | (s, some es) =>
      let q := preLeaf s c opnd (if k = 0 then va else 2 ^ 25 * (r0 + k)) false
      (q.1, q.2.map fun l => es ++ [⟨(r0 + k) % 2 ^ 24, l⟩])) (s, some [])

/-- A byte of a record: stage memory's own where it lies in the stage window, else the byte that was answered. -/
def recByte (s : State) (es : List XEnt) (va : Nat) (ans : Byte) : Byte :=
  match es.find? fun e => e.region == va % 2 ^ 49 / 2 ^ 25 with
  | some e => match leafLoc s e.leaf (va % 2 ^ 49) with
    | .stage o => if (poolOf s o).isSome then memByte s.stage.mem o else 0
    | _ => ans
  | none => ans

/-- Whether a request is of a channel's WAIT VALUE or of its read that precedes tiles. -/
def pollOf (c : Nat) (e : OwnReq) : Bool := match e.kind with | .poll d _ => d == c | _ => false

/-- A channel gives up its polls and reads: those that are answered are gone, the others stay outstanding for nobody (R204). -/
def pollsGone (s : State) (c : Nat) : State :=
  let kept := s.ports.own.filter fun e => !(pollOf c e && e.ans.isSome)
  { s with ports := { s.ports with own := kept.map fun e => if pollOf c e then { e with kind := .dead false } else e } }

/-- Requests of a channel leave the walks they are in, and its reads are given up: its descriptor has ended. -/
def dropReqs (s : State) (c : Nat) : State :=
  setWalks (pollsGone s c) ((s.xl.walks.filter fun w => !(w.advice && w.reqs.any fun r => r.ch == c)).map fun w =>
    { w with reqs := w.reqs.filter fun r => r.ch != c })

/-! ### Records (R254, R255, R260) -/

/-- Whether the fault ring is full. -/
def fqFull (s : State) : Bool :=
  (s.xl.fqTail.toNat + 1) % 2 ^ s.xl.fqLog2n == s.xl.fqHead.toNat % 2 ^ s.xl.fqLog2n

/-- A requester ID. -/
def reqId (r : Req) : Nat := r.ch + 2 ^ 9 * r.opnd + flag r.write 12

/-- The 64 B of a record. -/
def frecData (s : State) (w : Walk) (f : FRec) : BitVec 512 :=
  let r0 := f.reqs.headD ⟨0, 0, false, 0, false⟩
  let w0 := r0.va % 2 ^ 49 + 2 ^ 49 * r0.opnd + 2 ^ 52 * f.kind + 2 ^ 56 * f.level + flag s.xl.fqPhase 63
  let w1 := s.xl.fseq.toNat + 2 ^ 16 * w.asid.toNat + 2 ^ 24 * min 7 f.reqs.length + 2 ^ 27 * (if w.advice then 0 else w.half)
  let ids := (f.reqs.take 4).map reqId
  let w4 := ids.getD 0 0 + 2 ^ 16 * ids.getD 1 0 + 2 ^ 32 * ids.getD 2 0 + 2 ^ 48 * ids.getD 3 0
  BitVec.ofNat 512 (w0 + 2 ^ 64 * w1 + 2 ^ 128 * f.mask.toNat + 2 ^ 192 * f.eaddr + 2 ^ 256 * w4 + 2 ^ 320 * f.entry.toNat)

/-- The record reaches its ring, in stage memory or through a memory port (R204, R255). A non-secure record for secure stage memory is
refused with a notice of the fetch path (R322; DEDUCED, log 28). -/
def frecStore (s : State) (pa : Nat) (ns : Bool) (seq : BitVec 16) (d : BitVec 512) : State :=
  match locOf s pa with
  | .stage o =>
    if ns && stageSecure s o then notice s 6 1 0 pa 0
    else stageWrite s (o / 128 * 128) (BitVec.ofNat 1024 (d.toNat * 2 ^ (8 * (o % 128)))) (BitVec.ofNat 128 ((2 ^ 64 - 1) * 2 ^ (o % 128))) 0
  | .ext a => (ownReq (echoDrop s a) (memPortOf s a) 1 a (.frec seq)).1
  | _ => errEvent s (.hole pa) 1 2

/-- FAULT_RECORD_WRITE (R254, R255, R260): a walker that holds a record writes it once there is space and EN is 1. -/
def execFaultRecordWrite (w : Nat) (s : State) : Host.Outcome State Fault Refusal :=
  match s.xl.walks.find? fun v => v.id == w && v.st == .holding with
  | none => .next s
  | some v =>
    match v.held with
    | none => .next s
    | some f =>
      if !s.xl.fqEn || fqFull s || !operating s || anyGate s [locOf s (4096 * s.xl.fqBase.toNat + 64 * s.xl.fqTail.toNat)] then .next s
      else
        let q := s.xl.fseq
        let t := s.xl.fqTail.toNat
        let pa := 4096 * s.xl.fqBase.toNat + 64 * t
        let d := frecData s v f
        let s := frecStore (emit s (.frec pa (!domSecure s 56) d)) pa (!domSecure s 56) q d
        let t' := (t + 1) % 2 ^ s.xl.fqLog2n
        let s := { s with xl := { s.xl with
          fqTail := BitVec.ofNat 10 t', fqPhase := if t' = 0 then !s.xl.fqPhase else s.xl.fqPhase, fseq := q + 1 } }
        if v.advice then
          let c := (f.reqs.headD ⟨0, 0, false, 0, false⟩).ch
          let va := (f.reqs.headD ⟨0, 0, false, 0, false⟩).va
          let s := setWalks s (s.xl.walks.filter fun u => u.id != w)
          let s := { s with xl := { s.xl with adv := s.xl.adv.filter (fun a => a.1 != q) ++ [(q, c, false)] } }
          let s := modStream s c fun x => { x with wait := .advice (2 * q.toNat + 1) }
          .next (raise s 0x06 va q.toNat 0x38)
        else
          let s := modWalk s w fun u => { u with st := .writing, held := some { f with seq := q } }
          let h := half s v.half
          let s := setHalf s v.half { h with faults := h.faults + 1 }
          let s := (List.range 64).foldl (fun s c => if f.mask.getLsbD c then setCtx s c { ctx s c with lastSeq := q } else s) s
          .next (startQueued 64 s v.half)

/-- FAULT_RECORD_ACK (R254): the contexts in CTXMASK are switched out with CAUSE 2. -/
def execFaultRecordAck (seq : BitVec 16) (s : State) : Host.Outcome State Fault Refusal :=
  let s := ownDone s (.frec seq)
  match s.xl.walks.find? fun v => v.st == .writing && (match v.held with | some f => f.seq == seq | none => false) with
  | none => .next s
  | some v =>
    let s := setWalks s (s.xl.walks.filter fun u => u.id != v.id)
    let mask := match v.held with | some f => f.mask | none => 0
    .next ((List.range 64).foldl (fun s c => if mask.getLsbD c then ctxSwitch s c 2 else s) s)

/-! ### Registers (Tables 11-5 to 11-8) -/

/-- FULL of MZ_XL_FQ_CTRL: a record waits for space or for EN. -/
def fqWaits (s : State) : Bool := (!s.xl.fqEn || fqFull s) && s.xl.walks.any fun w => w.st == .holding

/-- MZ_XL_OCC of a half: misses that wait for a walker, and walkers busy. -/
def xlOcc (s : State) (h : Nat) : W32 :=
  BitVec.ofNat 32 (2 ^ 8 * min 255 (s.xl.walks.filter fun w => w.half == h && !w.advice && w.st == .queued).length
    + (s.xl.walks.filter fun w => w.half == h && walkBusy w).length)

/-- Offset of a translation-page register. -/
def xlOff (r : Nat) : Nat := 0xD000 + r

/-- ROOT_ASID_WRITE (R243). -/
def execRootAsidWrite (c : Cx) (r : XlReg) (ns : Bool) (v : W32) (s : State) : Host.Outcome State Fault Refusal :=
  let off := xlOff (0x400 + 0x10 * c.val + match r with | .rootLo => 0 | .rootHi => 4 | .asid => 8)
  .next (mmioW s off ns (ctxSecure s c.val) fun s =>
    let k := ctx s c.val
    if !ctxQuiet s c.val then refuse s off 0 mmioIsland
    else match r with
      | .rootLo => setCtx s c.val { k with en := bitOf v 0, root := BitVec.ofNat 40 (2 ^ 20 * (k.root.toNat / 2 ^ 20) + fld v 12 20) }
      | .rootHi => setCtx s c.val { k with root := BitVec.ofNat 40 (k.root.toNat % 2 ^ 20 + 2 ^ 20 * fld v 0 20) }
      | .asid => setCtx s c.val { k with asid := BitVec.ofNat 8 (fld v 0 8) })

/-- FQ_LO_WRITE (R255): MZ_XL_FQ_LO, or MZ_XL_FQ_HI. -/
def execFqLoWrite (hi : Bool) (ns : Bool) (v : W32) (s : State) : Host.Outcome State Fault Refusal :=
  let off := xlOff (if hi then 4 else 0)
  .next (mmioW s off ns (domSecure s 56) fun s =>
    let b := s.xl.fqBase.toNat
    if s.xl.fqEn then refuse s off 0 mmioIsland
    else if hi then { s with xl := { s.xl with fqBase := BitVec.ofNat 40 (b % 2 ^ 20 + 2 ^ 20 * fld v 0 20) } }
    else if fld v 0 4 < 4 ∨ 10 < fld v 0 4 then refuse s off 0 mmioIsland
    else { s with xl := { s.xl with fqBase := BitVec.ofNat 40 (2 ^ 20 * (b / 2 ^ 20) + fld v 12 20), fqLog2n := fld v 0 4 } })

/-- FQ_ENABLE (R255): EN of MZ_XL_FQ_CTRL. -/
def execFqEnable (ns : Bool) (v : W32) (s : State) : Host.Outcome State Fault Refusal :=
  .next (mmioW s (xlOff 0x10) ns (domSecure s 56) fun s =>
    if bitOf v 0 && !s.xl.fqEn && (4096 * s.xl.fqBase.toNat) % (2 ^ s.xl.fqLog2n * 64) != 0 then
      refuse s (xlOff 0x10) 0 mmioIsland
    else { s with xl := { s.xl with fqEn := bitOf v 0 } })

/-- FQ_HEAD_WRITE (R255). -/
def execFqHeadWrite (ns : Bool) (v : W32) (s : State) : Host.Outcome State Fault Refusal :=
  .next (mmioW s (xlOff 8) ns (domSecure s 56) fun s =>
    { s with xl := { s.xl with fqHead := BitVec.ofNat 10 (fld v 0 10) } })

/-- Whether the invalidation that runs names an ASID. -/
def invNames (s : State) (asid : BitVec 8) : Bool := s.xl.runAll || s.xl.runAsid == asid

/-- Restart from the root every walk in flight that an invalidation names, one with a fault that is not recorded yet among them; the reads
on their way answer nobody. -/
def restartWalks (s : State) : State :=
  (s.xl.walks.filter fun w => walkBusy w && invNames s w.asid).foldl (fun s w =>
    let n := s.xl.nextWalk
    let s := ownDead { s with xl := { s.xl with nextWalk := n + 1 } } (.walk w.id) false
    let w' := { w with id := n, st := .queued, held := none, reqs := w.reqs ++ (match w.held with | some f => f.reqs | none => []) }
    startWalk (setWalks s (s.xl.walks.map fun v => if v.id == w.id then w' else v)) w') s

/-- An invalidation starts (R258): the entries it names are dropped at once, and the walks it names start anew from their roots. -/
def invStart (s : State) : State :=
  let s := { s with xl := { s.xl with runAll := s.xl.invAll, runAsid := s.xl.invAsid, invBusy := true, gen := s.xl.gen + 1 } }
  let s := { s with xl := { s.xl with tlb := s.xl.tlb.filter fun t => !invNames s t.asid } }
  let named := (tkeys s.chans).filter fun c => invNames s (ctx s (chanCfg s c).ctx).asid
  restartWalks (named.foldl (fun s c => modStream s c fun x => { x with pre := [] }) s)

/-- INVALIDATE (R258): ALL and ASID are written, and GO starts the invalidation unless one runs. -/
def execInvalidate (ns : Bool) (v : W32) (s : State) : Host.Outcome State Fault Refusal :=
  .next (mmioW s (xlOff 0x18) ns (domSecure s 56) fun s =>
    if bitOf v 0 && s.xl.invBusy then refuse s (xlOff 0x18) 0 mmioIsland
    else
      let s := { s with xl := { s.xl with invAll := bitOf v 16, invAsid := BitVec.ofNat 8 (fld v 8 8) } }
      if bitOf v 0 then invStart s else s)

/-- Whether a tile or line still rests on a translation taken before the present invalidation. -/
def oldXlate (s : State) : Bool :=
  s.chans.any (fun e => match e.2.stream with
    | some x => x.tiles.any fun t => !t.xset.isEmpty && invNames s t.xasid && decide (t.xgen < s.xl.gen)
    | none => false)
  || s.path.lines.any fun l => !isInbound l && invNames s l.asid && decide (l.xgen < s.xl.gen)

/-- INVALIDATE_DONE (R258): BUSY clears once no tile holds an old entry. -/
def execInvalidateDone (s : State) : Host.Outcome State Fault Refusal :=
  if s.xl.invBusy && !oldXlate s then .next { s with xl := { s.xl with invBusy := false } } else .next s

/-- ADONE (R260): the ADVISE that waits for the record completes; one whose context is OUT keeps it. -/
def execAdone (ns : Bool) (v : W32) (s : State) : Host.Outcome State Fault Refusal :=
  .next (mmioW s (xlOff 0x1C) ns (domSecure s 56) fun s =>
    let q := BitVec.ofNat 16 (fld v 0 16)
    match s.xl.adv.find? fun a => a.1 == q with
    | none => refuse s (xlOff 0x1C) 0 mmioIsland
    | some a =>
      let s := { s with xl := { s.xl with adone := q, adv := s.xl.adv.map fun b => if b.1 == q then (b.1, b.2.1, true) else b } }
      match stream s a.2.1 with
      | some x =>
        if x.wait == .advice (2 * q.toNat + 1) && chState s a.2.1 != .out then finish s a.2.1 cOK 0 else s
      | none => s)

/-- WINDOW_ENTRY_WRITE (R261): MZ_WIN_BASE, or MZ_WIN_SIZE. -/
def execWindowEntryWrite (w : Fin 256) (size : Bool) (ns : Bool) (v : W32) (s : State) : Host.Outcome State Fault Refusal :=
  let off := 0xE000 + 8 * w.val + if size then 4 else 0
  .next (mmioW s off ns (winSecure s w.val) fun s =>
    if (im s).windows ≤ w.val then s
    else
      let x := win s w.val
      let y := if size then { x with size := BitVec.ofNat 15 (fld v 0 15) }
        else { x with valid := bitOf v 31, base := BitVec.ofNat 14 (fld v 0 14) }
      if y.valid && (y.size == 0 || decide (16384 < y.base.toNat + y.size.toNat)) then refuse s off 0 mmioIsland
      else setWin s w.val y)

/-- XL_CLRCNT (R263): the write sets CLRCNT; no other bit of it means anything. -/
def execXlClrcnt (h : Fin 2) (ns : Bool) (v : W32) (s : State) : Host.Outcome State Fault Refusal :=
  let _ := v
  .next (mmioW s (xlOff (0x5C + 0x20 * h.val)) ns (domSecure s (56 + h.val)) fun s => setHalf s h.val {})

/-! ### The end of a wake (R315) -/

/-- What a wake does beyond the power state: a link port trains from DETECT (R240, Table 14-6), Puppeteer loads its
firmware again (R358), and the fetches and walk reads that waited for the domain leave. -/
def wakeEffect (s : State) (d : Nat) : State :=
  if 36 ≤ d ∧ d < 44 then
    let l := link s (d - 36)
    if s.img.isSome && (im s).lPresent.getLsbD (d - 36) && !l.disable && l.st == .off then
      pendSrc (zlog (setLink s (d - 36) { l with st := .detect, reason := 0 }) d (0x0300 + (d - 36)) (1 + 256 * l.pchip) 0) 4
    else s
  else if d = 59 ∧ s.boot.phase = .running ∧ s.boot.st ≠ .wait then
    imageRead { s with boot := { s.boot with st := .loading, err := 0 } } s.boot.fwLatch.toNat
  else dueWalks (dueFetches s)

/-- WAKE_COMPLETE (R315): the wake latency has elapsed; the domain is ON at its FMIN, and the next queued wake starts. A domain whose VI
VDD_T does not cover yet waits on, and so does one whose FMIN has risen since beyond what REQ covers (R310). -/
def execWakeComplete (d : Dom) (s : State) : Host.Outcome State Fault Refusal :=
  let x := isl s d.val
  if x.ps != .waking || s.boot.phase != .running || x.raise then .next s
  else if !wakeCovered s d.val then .next (startWake s d.val)
  else
    let s := setIsl s d.val { atFmin s d.val with wakes := satAdd 16 x.wakes 1 }
    .next (startWakes 64 (wakeEffect (logPower s 0x0701 d.val) d.val))

end Sys2Proof.Machine
end

