-- ==== Sys2Proof/Machine/Channel.lean ====
section
/-! DEFINITION. Channels: fetch, decode, slot admission, completion and its record, and the channel and interrupt registers
(R47 to R60, R71 to R76, R174, R175, R216, R217). -/

namespace Sys2Proof.Machine

/-! ### Fetch (R51, R52, R67, R174) -/

/-- Descriptor `k` of a batch. -/
def batchDesc (b : BatchData) (k : Nat) : DescData := b.extractLsb' (512 * k) 512

/-- Whether fetch stops after a descriptor: END, a DEP, or a reserved CHAIN. -/
def fetchStops (d : DescData) : Bool := decide (2 ≤ dChain d) || dType d == 7

/-- The address that follows a descriptor. -/
def nextAddr (a : Nat) (d : DescData) : Nat := if dChain d = 1 then dNext d else (a + 64) % 2 ^ 52

/-- The next descriptor address to fetch, unless fetch stops before it. -/
def nextFetch (x : Chan) : Option Nat :=
  match x.fetched.getLast?, x.stream with
  | some (a, d), _ => if fetchStops d then none else some (nextAddr a d)
  | none, some y => if fetchStops y.desc then none else some (nextAddr y.addr y.desc)
  | none, none => some x.head.toNat

/-- Descriptors that a batch may bring from address `a` on. -/
def batchRoom (a : Nat) : Nat := 8 - a % 512 / 64

/-- Places that a channel takes in its quarter's store: what it holds and its fetch may bring, and never fewer than its own 8 (R174). -/
def storeUse (x : Chan) : Nat := max 8 (x.fetched.length + if x.fetching.isSome || x.fetchDue.isSome then 8 else 0)

/-- Whether a quarter's store of 2,048 has room for `n` more descriptors of a channel, the room of every valid channel kept (R174). -/
def storeRoom (s : State) (c n : Nat) : Bool :=
  let others := ((List.range 128).map fun k =>
    let d := c / 128 * 128 + k
    if d != c && chanValid s d then storeUse (chan s d) else 0).foldl (· + ·) 0
  decide (others + max 8 ((chan s c).fetched.length + n) ≤ 2048)

/-- Every channel of a quarter above 8 falls by 8 when its store is full, unless FIXED holds LA (R175). -/
def lowerLa (s : State) (q : Nat) : State :=
  if (fe s q).fixed then s
  else (tkeys s.chans).foldl (fun s c =>
    if c / 128 = q then let x := chan s c; setChan s c { x with la := max 8 (x.la - 8) } else s) s

/-- Start a fetch when one is due, none runs and a whole batch finds room within LA and in the store (R51, R174). A store without that
room counts as full (DEDUCED, log 33). -/
def pumpFetch (s : State) (c : Nat) : State :=
  let x := chan s c
  if x.st != .running || x.fetching.isSome || x.fetchDue.isSome || decide (10 ≤ x.fetchTries) then s
  else match nextFetch x with
    | some a =>
      if x.la < x.fetched.length + batchRoom a then s
      else if !storeRoom s c (batchRoom a) then lowerLa s (c / 128)
      else fetchNeed (startFetch (setChan s c { x with fetchTries := 0 }) c (a / 512 * 512)) c
    | none => s

/-- What a channel has fetched is given up, and the answers of a fetch under way are dropped as they come (R204). -/
def dropFetch (s : State) (c : Nat) : State :=
  ownDead (setChan s c { chan s c with fetched := [], fetching := none, fetchDue := none, fetchTries := 0 }) (.fetch c) false

/-- Take in the descriptors of a batch from address `a` on, in at most `n` steps. -/
def takeBatch (b : BatchData) : Nat → Nat → List (Nat × DescData)
  | 0, _ => []
  | n + 1, a =>
    let d := batchDesc b (a % 512 / 64)
    if fetchStops d || dChain d == 1 || a % 512 == 448 then [(a, d)] else (a, d) :: takeBatch b n (a + 64)

/-- A batch read from stage memory. -/
def stageBatch (s : State) (o : Nat) : BatchData := BitVec.ofNat 4096 (memNat s.stage.mem o 512)

/-- The lines of a batch fetch that fail, by their places. -/
def batchFails : BatchAns → List (RdErr × Nat)
  | .fails e l more => (e, l.val) :: more.map fun f => (f.1, f.2.val)
  | _ => []

/-- The codes of the four lines of a batch in stage memory, and whether a word of one is uncorrectable (R192, R193). -/
def batchProbe (s : State) (o m : Nat) : State × Bool :=
  (List.range 4).foldl (fun acc k =>
    let p := stageProbe acc.1 (o + 128 * k) fullBe m
    (p.1, acc.2 || p.2)) (s, false)

/-- A batch in stage memory, read through the lane of the channel's mover: none while that input is fenced (R197). -/
def stageFetch (s : State) (c o : Nat) (late : Bool) : State × Option (Except RdErr BatchData) :=
  let m := (chanCfg s c).mover
  if late then (s, some (.error .timeout))
  else if (List.range 4).any fun k => inFenced s (o + 128 * k) m then (s, none)
  else if (poolOf s o).isNone then (holeEvent s o m, some (.ok 0))
  else
    let r := batchProbe s o m
    (r.1, some (if r.2 then .error .poison else .ok (stageBatch s o)))

/-- What a batch fetch finds: a batch in the Miozer region is judged by Miozer itself, and each line of one in external memory that
fails has its event at its own port (R207). The first failure is the fetch's outcome. -/
def batchAns (s : State) (c blk : Nat) (a : BatchAns) : State × Option (Except RdErr BatchData) :=
  match locOf s blk with
  | .stage o =>
    if !chanSecure s c && (List.range 4).any fun k => stageSecure s (o + 128 * k) then (notice s 6 0 c blk 0, some (.error .world))
    else stageFetch s c o ((batchFails a).any fun f => f.1 == .timeout)
  | .ext _ =>
    match a with
    | .okay d => (s, some (.ok d))
    | .corrupt => (s, some (.error .poison))
    | .fails e _ _ =>
      let locs := (List.range 4).map fun k => locOf s (blk + 128 * k)
      (failEvents s locs (lineFails locs (batchFails a)), some (.error e))
  | _ => (errEvent s (.hole blk) 0 2, some (.error .error))

/-- A stream of a fetched descriptor. -/
def mkStream (a : Nat) (d : DescData) (st : StreamSt) (slot : Bool) (stamp : Nat) : Stream :=
  { addr := a, desc := d, st := st, slot := slot, stamp := stamp, src := dSrc d, dst := dDst d
    index := if dType d = 2 then tIndex d else 0, scale := if dType d = 2 then tScale d else 0
    shape := none, idxRaw := none, sRaw := none, dRaw := none, whirl := none, gcur := ⟨0, 0, 0, 0, 0, []⟩, gknown := []
    mcur := 0, tno := 0, gno := 0, last := false, tiles := [], retries := 0, spent := 0, trans := 0, bytes := 0, wait := .none
    pre := [], slotP := none, slotC := none }

/-- The regions that the front end looks up ahead for a data descriptor: those of a MOVE's first tile, and those of the record, lists or
program that another type's first tile is formed from. -/
def aheadReqs (s : State) (a : Nat) (d : DescData) : List XReq :=
  let x := mkStream a d .decoded false 0
  let one := fun opnd va => [(⟨va % 2 ^ 49 / 2 ^ 25, opnd, false, va % 2 ^ 49⟩ : XReq)]
  match dType d with
  | 1 => tileReqs x (moveTile s x 0)
  | 2 => one 4 (tShape d)
  | 3 => (if gSlist d then one 5 x.src else []) ++ if gDlist d then one 5 x.dst else []
  | 4 => one 6 (wProg d)
  | _ => []

/-- The pre-walk of the next data descriptor that waits (R174): it fills the TLB, builds no set, and its faults are discarded (R176,
R253). A channel may do it and this one always does (DESIGN CHOICE, log 33). -/
def lookAhead (s : State) (c : Nat) : State :=
  match (chan s c).fetched.find? fun e => isData e.2 with
  | none => s
  | some (a, d) =>
    if ctxRuns s c && operating s && (decodeFails s c d).isEmpty then
      (aheadReqs s a d).foldl (fun s r => (lookup s (chanCfg s c).ctx [⟨c, r.opnd, r.write, r.va, true⟩]).1) s
    else s

/-- A batch has come: its descriptors are taken in, and the first data descriptor among them is looked up ahead where none waits already. -/
def takeIn (s : State) (c : Nat) (d : BatchData) : State :=
  let x := chan s c
  let ds := match nextFetch x with | some n => takeBatch d 8 n | none => []
  let s := pumpFetch (setChan s c { x with fetching := none, fetchTries := 0, fetched := x.fetched ++ ds }) c
  if x.fetched.any fun e => isData e.2 then s else lookAhead s c

/-- Whether a fetch waits at a migrating pool's gate (R191). -/
def fetchGate (s : State) (blk : Nat) : Bool := anyGate s ((List.range 4).map fun k => locOf s (blk + 128 * k))

/-- A fetch has failed: it is tried again, at most 3 times, or its failure waits for the descriptor that it was for (R75). -/
def fetchFail (s : State) (c blk : Nat) (e : RdErr) : State :=
  let x := chan s c
  match e with
  | .world => setChan s c { x with fetchTries := 11 }
  | .timeout => raise (setChan s c { x with fetchTries := 12 }) 0x0D ((nextFetch x).getD blk) c (feIsland c)
  | _ =>
    if x.fetchTries < 3 then fetchNeed (startFetch (setChan s c { x with fetching := none, fetchTries := x.fetchTries + 1 }) c blk) c
    else setChan s c { x with fetchTries := 10 }

/-- DESCRIPTOR_FETCH_DONE (R51, R75, R174, R207). -/
def execDescriptorFetchDone (c : Ch) (a : BatchAns) (s : State) : Host.Outcome State Fault Refusal :=
  let x := chan s c.val
  match x.fetching with
  | none => .next s
  | some blk =>
    if decide (10 ≤ x.fetchTries) || fetchGate s blk then .next s
    else
      let r := batchAns s c.val blk a
      let late := ((batchFails a).filter fun f => f.1 == .timeout).map fun f => blk + 128 * f.2
      match r.2 with
      | none => .next r.1
      | some (.ok d) => .next (takeIn (ownRead r.1 (.fetch c.val) []) c.val d)
      | some (.error e) => .next (fetchFail (ownRead r.1 (.fetch c.val) late) c.val blk e)

/-! ### Slots (R19) -/

/-- Whether channel `a` takes a slot before channel `b`: higher priority, then the earlier doorbell. -/
def admitsFirst (s : State) (a b : Nat) : Bool :=
  let p := fun c => match stream s c with | some x => dPrio x.desc | none => 3
  decide (p a < p b) || (p a == p b && decide ((chan s a).stamp ≤ (chan s b).stamp))

/-- Fill free slots of a mover from the streams that wait in the front end. -/
def fillSlots : Nat → State → Nat → State
  | 0, s, _ => s
  | n + 1, s, m =>
    let ws := s.path.waitq.filter fun c => (chanCfg s c).mover == m
    if 16 ≤ (slots s m).length then s
    else match ws with
      | [] => s
      | w :: rest =>
        let c := rest.foldl (fun b a => if admitsFirst s a b then a else b) w
        let s := { s with path := { s.path with waitq := s.path.waitq.erase c } }
        fillSlots n (modStream (setSlots s m (slots s m ++ [c])) c fun x => { x with slot := true }) m

/-- Wake the domains that a mover uses (R32, R315). -/
def needMover (s : State) (m : Nat) : State :=
  match moverCfg s m with
  | some e => (moverDomains e).foldl need s
  | none => s

/-- A channel gives up its slot, and the next stream takes a slot. -/
def freeSlot (s : State) (c : Nat) : State :=
  let m := (chanCfg s c).mover
  let s := { s with path := { s.path with waitq := s.path.waitq.erase c } }
  fillSlots 16 (setSlots s m ((slots s m).erase c)) m

/-- DESCRIPTOR_DECODE (R54, R55, R76, R174): the next descriptor is refused, or its stream takes a slot or waits for one.
A failed fetch becomes the outcome of the descriptor it was for. -/
def execDescriptorDecode (c : Ch) (s : State) : Host.Outcome State Fault Refusal :=
  let x := chan s c.val
  let m := (chanCfg s c.val).mover
  if !operating s || chState s c.val != .running || !ctxRuns s c.val || x.stream.isSome || x.recOut.isSome then
    .next s
  else match x.fetched with
    | (a, d) :: rest =>
      let fails := decodeFails s c.val d
      if fails.isEmpty then
        let s := setChan s c.val { x with fetched := rest, stream := some (mkStream a d .decoded false s.order) }
        let s := { s with path := { s.path with waitq := s.path.waitq ++ [c.val] }, order := s.order + 1 }
        let s := pumpFetch (fillSlots 16 (if isData d then needMover s m else s) m) c.val
        .next (if isData d then lookAhead s c.val else s)
      else
        let r := pickDetail s fails
        let s := setChan s c.val { x with fetched := rest, stream := some (mkStream a d (.done cSTATE r) false s.order) }
        .next (refuse (bump s) a r (feIsland c.val))
    | [] =>
      if x.fetchTries < 10 then .next s
      else
        let st := if x.fetchTries = 10 then StreamSt.done cECC 1 else if x.fetchTries = 11 then .done cWORLD 4 else .done cTIMEOUT 1
        .next (setChan s c.val { x with stream := some (mkStream x.head.toNat 0 st false s.order) })

/-! ### Completion (R52, R56 to R59, R71 to R73) -/

/-- Whether a tile has issued all its writes. -/
def tileDrained (t : Tile) : Bool :=
  t.walked && t.groups.all fun g => g.toRead.isEmpty && g.outs.isEmpty && g.emitted.isEmpty && g.ready.isEmpty

/-- Whether a write line of a tile is outstanding. -/
def tileWrites (s : State) (c no : Nat) : Bool :=
  s.path.lines.any fun l => l.ch == c && l.dseq == (chan s c).seq && match l.kind with | .write t _ _ _ => t == no | _ => false

/-- Whether any line of the present descriptor of a channel is outstanding. -/
def descLines (s : State) (c : Nat) : Bool := s.path.lines.any fun l => l.ch == c && l.dseq == (chan s c).seq

/-- A tile that has completed whole: drained, and every write acknowledged. Its translation set is given up (R251). -/
def retireTiles (s : State) (c : Nat) : State :=
  match stream s c with
  | none => s
  | some x =>
    let done := x.tiles.filter fun t => tileDrained t && !tileWrites s c t.no
    setStream s c { x with
      tiles := x.tiles.filter fun t => !(tileDrained t && !tileWrites s c t.no)
      bytes := x.bytes + (done.map (·.bytes)).foldl (· + ·) 0 }

/-- Whether a descriptor completes only when every line it wrote is acknowledged: one with BF, and a bound producer run whatever BF (R57,
R166). -/
def waitsAcks (x : Stream) : Bool := isData x.desc && (dBf x.desc || x.slotP.isSome)

/-- Whether no write of the present descriptor of a channel is unacknowledged. -/
def writesAcked (s : State) (c : Nat) : Bool :=
  !(s.path.lines.any fun l => l.ch == c && l.dseq == (chan s c).seq && isWrite l.kind)

/-- Whether a data descriptor has taken its last action, and with what code and DETAIL. -/
def dataEnd (s : State) (c : Nat) (x : Stream) : Option (Nat × Nat) :=
  let drained := x.tiles.all tileDrained
  match x.st with
  | .started =>
    if x.last && drained && (!waitsAcks x || writesAcked s c) then
      some (if x.retries = 0 then (cOK, 0) else (cRETRIED, x.trans))
    else none
  | .ending code d =>
    if code = cWORLD then (if descLines s c then none else some (code, d))
    else if drained && (!waitsAcks x || writesAcked s c) then some (code, d) else none
  | _ => none

/-- The outcome of a channel's stream that is due for completion. One that ends with an error waits for its acknowledgements where one
that succeeds would (R57, R166). -/
def endOf (s : State) (c : Nat) (x : Stream) : Option (Nat × Nat) :=
  match x.st with
  | .done code d => if waitsAcks x && !writesAcked s c then none else some (code, d)
  | _ => if isData x.desc then dataEnd s c x else none

/-- Slots of one side that are done in order, and how many were taken. -/
def doneRun : List (Nat × Bool) → Nat × List (Nat × Bool)
  | (_, true) :: t => let r := doneRun t; (r.1 + 1, r.2)
  | l => (0, l)

/-- Mark an ordinal done. -/
def markDone (l : List (Nat × Bool)) (j : Nat) : List (Nat × Bool) := l.map fun e => if e.1 = j then (e.1, true) else e

/-- Apply an operation `n` times. -/
def iter {α : Type} (f : α → α) : Nat → α → α
  | 0, x => x
  | n + 1, x => iter f n (f x)

/-- One side of a bound run completes (R166): its slot is done and the ring advances over the done slots, or FAULT is set and
the slot stays reserved. A ring disabled or faulted meanwhile takes no operation (R158), nor does one that the channel's world may no
longer use (R325). Of such a ring R166 would set FAULT at a run that ends in error, and R322 lets nothing change: nothing does (DESIGN
CHOICE, log 25). -/
def boundSide (s : State) (c addr : Nat) (slot : Option (Nat × Nat × Nat)) (prod ok : Bool) : State :=
  match slot with
  | none => s
  | some (r, j, _) =>
    let y := ring s r
    if hubWorldBad s c (ringSecure s r) then s
    else if !ok then raise (ringFault s r) 0x0B r c 0x3A
    else if !y.en || y.fault then refuse s addr 11 0x3A
    else if prod then
      let d := doneRun (markDone y.resP j)
      setRing s r (iter ringProduce d.1 { y with resP := d.2, issP := max y.issP (j + 1) })
    else
      let d := doneRun (markDone y.resC j)
      setRing s r (iter ringRelease d.1 { y with resC := d.2, issC := max y.issC (j + 1) })

/-- A bound run completes. -/
def boundDone (s : State) (c : Nat) (x : Stream) (ok : Bool) : State :=
  boundSide (boundSide s c x.addr x.slotP true ok) c x.addr x.slotC false ok

/-- Whether the completion ring is full. -/
def cqIsFull (x : Chan) : Bool := (x.tail.toNat + 1) % 2 ^ x.log2n == x.cqHead.toNat % 2 ^ x.log2n

/-- The two words of a completion record (Table 03-17). -/
def recWords2 (s : State) (c : Nat) (x : Stream) (code d bytes : Nat) : W64 × W64 :=
  let k := chan s c
  (BitVec.ofNat 64 (code + 2 ^ 4 * min 3 x.retries + x.addr / 64 * 64 + 2 ^ 52 * dType x.desc + 2 ^ 56 * (chanCfg s c).ctx
      + flag k.phase 63),
   BitVec.ofNat 64 (bytes % 2 ^ 40 + 2 ^ 40 * (k.seq + 1).toNat + 2 ^ 56 * (d % 256)))

/-- The state of a persistent stream between runs. Its shape record or program, read once at decode (R62, R106), is kept. Its
3 retries are for all its runs together (R75); the record of a run counts those that it took (DEDUCED, log 42). -/
def parkStream (x : Stream) : Stream :=
  { x with st := .decoded, tiles := [], tno := 0, gno := 0, mcur := 0, gcur := ⟨0, 0, 0, 0, 0, []⟩, last := false
           spent := x.spent + x.retries, retries := 0, trans := 0, bytes := 0, wait := .none, pre := [], slotP := none, slotC := none
           idxRaw := none, sRaw := none, dRaw := none, gknown := [] }

/-- Start running again from the list pointer. -/
def startRun (s : State) (c : Nat) : State :=
  let s := dropFetch s c
  let x := chan s c
  pumpFetch (setChan s c { x with st := .running, pending := false, stamp := x.pstamp }) c

/-- The state a channel enters after a completion (R52, R59, R73). -/
def moveOn (s : State) (c : Nat) (x : Stream) (code : Nat) (failedFetch : Bool) : State :=
  let nxt := BitVec.ofNat 52 (if failedFetch then x.addr else nextAddr x.addr x.desc)
  if 2 ≤ code then
    let s := dropFetch s c
    freeSlot (setChan s c { chan s c with st := .halted, head := nxt, stream := none }) c
  else if dPersist x.desc then
    let k := chan s c
    setChan s c { k with st := .parked, stream := some (parkStream x) }
  else
    let s := freeSlot (let k := chan s c; setChan s c { k with st := .running, head := nxt, stream := none }) c
    let k := chan s c
    if dChain x.desc = 2 then
      if k.pending then startRun s c
      else
        let s := dropFetch s c
        setChan s c { chan s c with st := .idle }
    else
      let s := if k.fetched.isEmpty then
          let q := fe s (c / 128)
          let s := setFe s (c / 128) { q with dstall := q.dstall + 1 }
          if q.fixed then s else setChan s c { k with la := min (8 * q.lamaxb) (k.la + 8) }
        else s
      pumpFetch s c

/-- A record reaches stage memory, or a place that Miozer itself refuses: the answer it gives at once. At a migrating pool's gate it waits
(R191). -/
def recordStore (s : State) (c pa : Nat) (w : W64 × W64) : State × Option ErrResp :=
  match locOf s pa with
  | .stage o =>
    if !chanSecure s c && stageSecure s o then (notice s 6 1 c pa 0, some .world)
    else if gateClosed s o then
      (setChan s c { chan s c with recOut := (chan s c).recOut.map fun r => { r with held := some (pa, w) } }, none)
    else
      let k := o % 128
      (stageWrite s (o / 128 * 128) (BitVec.ofNat 1024 ((w.1.toNat + 2 ^ 64 * w.2.toNat) * 2 ^ (8 * k)))
        (BitVec.ofNat 128 (0xFFFF * 2 ^ k)) 0, none)
  | .hole _ => (s, some .error)
  | .ext a => ((ownReq (echoDrop s a) (memPortOf s a) 1 a (.record c)).1, none)
  | _ => (s, none)

/-- A record write is answered ERROR, POISON or WORLD (R71). The list pointer addresses the descriptor after the completed one,
that of a run of a persistent descriptor too (DEDUCED from R73, log 38). The spec does not say what becomes of a doorbell that set PENDING
before an END whose record write then fails: the channel has cleared PENDING and fetched as the record went out, and the doorbell is spent
(DESIGN CHOICE, log 38). -/
def recordFail (s : State) (c : Nat) (r : ErrResp) : State :=
  let s := dropFetch s c
  let k := chan s c
  let pa := 4096 * k.cqBase.toNat + 16 * k.tail.toNat
  let code := match r with | .world => cWORLD | _ => cECC
  let resp := match r with | .poison => 1 | .error => 2 | .world => 3
  let s := freeSlot (setChan (ownDone s (.record c)) c { k with
    st := .halted, lastCode := BitVec.ofNat 4 code, recOut := none, stream := none
    head := match k.stream with
      | some x => BitVec.ofNat 52 (nextAddr x.addr x.desc)
      | none => k.head }) c
  errEvent (pendCh (dropReqs s c) c) (locOf s pa) 1 resp

/-- Whether a stream is that of a descriptor whose own fetch failed (R73, R75): its outcome is the fetch's. -/
def failedFetch (k : Chan) (x : Stream) (code d : Nat) : Bool :=
  k.fetched.isEmpty && x.desc == 0
    && (match k.fetchTries with
      | 10 => code == cECC && d == 1
      | 11 => code == cWORLD && d == 4
      | 12 => code == cTIMEOUT && d == 1
      | _ => false)

/-- Write the completion of a stream (R56, R71 to R73): it waits in CQ_FULL, or the record goes out, SEQ advances and the
channel moves on. Under BF = 0 R72 does not say when a tile has completed whole: for BYTES an OK record counts every tile, as all its lines
are issued, and an error record those whose writes are acknowledged (DESIGN CHOICE, log 38). -/
def complete (s : State) (c : Nat) (x : Stream) (code d : Nat) : State :=
  let k := chan s c
  let isRec := dCrec x.desc || decide (2 ≤ code)
  if isRec && cqIsFull k then setChan s c { k with st := .cqFull }
  else
    let bytes := if isData x.desc then
        x.bytes + (if code < 2 then (x.tiles.map (·.bytes)).foldl (· + ·) 0 else 0) else 0
    let irq := dIrq x.desc || decide (2 ≤ code)
    let w := recWords2 s c x code d bytes
    let pa := 4096 * k.cqBase.toNat + 16 * k.tail.toNat
    let s := boundDone s c x (decide (code < 2))
    let s := dropReqs s c
    let s := setChan s c { chan s c with
      seq := k.seq + 1, lastCode := BitVec.ofNat 4 code
      gen := if dBf x.desc then k.gen + 1 else k.gen
      recOut := if isRec then some ⟨code, irq, decide (2 ≤ code), none⟩ else none }
    let s := moveOn s c x code (failedFetch k x code d)
    if isRec then
      let r := recordStore (emit s (.record c pa w.1 w.2)) c pa w
      match r.2 with
      | some e => recordFail r.1 c e
      | none => r.1
    else if irq then pendCh s c else s

/-- Whether the place of a channel's next record waits at a migrating pool's gate (R191). -/
def recordGate (s : State) (c : Nat) : Bool :=
  anyGate s [locOf s (4096 * (chan s c).cqBase.toNat + 16 * (chan s c).tail.toNat)]

/-- A run is no longer bound to the rings that its channel's world may not use. -/
def unbind (s : State) (c : Nat) (o : Option (Nat × Nat × Nat)) : Option (Nat × Nat × Nat) :=
  o.filter fun e => !hubWorldBad s c (ringSecure s e.1)

/-- A bound run whose ring has become secure meets the new world: one notice, and a run that would succeed completes with WORLD, without
advancing the ring (R325). The DETAIL is not stated: a free value. -/
def boundWorld (s : State) (c : Nat) (x : Stream) (code d : Nat) : State × Stream × Nat × Nat :=
  let held := (x.slotP.toList ++ x.slotC.toList).map (·.1)
  match held.find? fun r => hubWorldBad s c (ringSecure s r) with
  | some r =>
    let y := { x with slotP := unbind s c x.slotP, slotC := unbind s c x.slotC }
    (notice s 5 2 c r 0, y, if code < 2 then (cWORLD, anyDetail s) else (code, d))
  | none => (s, x, code, d)

/-- A stream's completion takes the world of its rings as it is now, also one that has waited in CQ_FULL (R71, R325). -/
def completeRun (s : State) (c : Nat) (x : Stream) (code d : Nat) : State :=
  let r := boundWorld s c x code d
  let y := { r.2.1 with st := StreamSt.done r.2.2.1 r.2.2.2 }
  complete (setStream r.1 c y) c y r.2.2.1 r.2.2.2

/-- DESCRIPTOR_COMPLETE (R56): the stream's last action has been taken. It waits for the acknowledgement of the record
before it, for a place in its ring, and at the gate of a migrating pool. -/
def execDescriptorComplete (c : Ch) (s : State) : Host.Outcome State Fault Refusal :=
  let st := (ctx s (chanCfg s c.val).ctx).st
  let due := chState s c.val == .running || (chState s c.val == .cqFull && !cqIsFull (chan s c.val))
  if !operating s || !due || (chan s c.val).recOut.isSome || st == .out || st == .resuming || recordGate s c.val then .next s
  else
    let s := retireTiles s c.val
    match stream s c.val with
    | none => .next s
    | some x =>
      match endOf s c.val x with
      | none => .next s
      | some (code, d) =>
        let late := match x.st with | .ending k _ => k == cSTATE | _ => false
        let s := if late then refuse s x.addr d (feIsland c.val) else s
        .next (completeRun s c.val x code d)

/-- A record has been acknowledged: TAIL advances, and the channel's pending bit is set where the completion asks for it (R216). -/
def recordAck (s : State) (c : Nat) (irq : Bool) : State :=
  let k := chan s c
  let t := (k.tail.toNat + 1) % 2 ^ k.log2n
  let s := setChan (ownDone s (.record c)) c { k with
    recOut := none, tail := BitVec.ofNat 12 t, phase := if t = 0 then !k.phase else k.phase }
  if irq then pendCh s c else s

/-- COMPLETION_RECORD_ACK (R191, R216). A record that a gate held goes to its bank first, once the gate is open. -/
def execCompletionRecordAck (c : Ch) (s : State) : Host.Outcome State Fault Refusal :=
  match (chan s c.val).recOut with
  | none => .next s
  | some r =>
    match r.held with
    | none => .next (recordAck s c.val r.irq)
    | some (pa, w) =>
      if anyGate s [locOf s pa] then .next s
      else
        let q := recordStore s c.val pa w
        match q.2 with
        | some e => .next (recordFail q.1 c.val e)
        | none => .next (recordAck q.1 c.val r.irq)

/-- COMPLETION_RECORD_ERROR (R71). A record that a gate holds has no answer yet. -/
def execCompletionRecordError (c : Ch) (r : ErrResp) (s : State) : Host.Outcome State Fault Refusal :=
  if (chan s c.val).recOut.any fun o => o.held.isNone then .next (recordFail s c.val r) else .next s

/-! ### Channel registers (Table 03-1) -/

/-- DOORBELL (R49, R71): a write of RING; no other bit of the register means anything. -/
def execDoorbell (c : Ch) (ns : Bool) (v : W32) (s : State) : Host.Outcome State Fault Refusal :=
  let _ := v
  .next (mmioW s (chOff c.val 8) ns (chanSecure s c.val) fun s => fetchNeed (ringDoorbell s c.val) c.val)

/-- HALT_CLEAR (R48, R73): a write of 1 to HALT. -/
def execHaltClear (c : Ch) (ns : Bool) (v : W32) (s : State) : Host.Outcome State Fault Refusal :=
  let _ := v
  .next (mmioW s (chOff c.val 0xC) ns (chanSecure s c.val) fun s =>
    let x := chan s c.val
    if chState s c.val != .halted then s
    else if x.pending then startRun s c.val
    else setChan s c.val { x with st := .idle })

/-- CQ_HEAD_WRITE (R71): HEAD is written; a completion that waits in CQ_FULL goes on when there is space. -/
def execCqHeadWrite (c : Ch) (ns : Bool) (v : W32) (s : State) : Host.Outcome State Fault Refusal :=
  .next (mmioW s (chOff c.val 0x18) ns (chanSecure s c.val) fun s =>
    let s := setChan s c.val { chan s c.val with cqHead := BitVec.ofNat 12 (fld v 0 12) }
    let x := chan s c.val
    match x.st, x.stream with
    | .cqFull, some y =>
      match y.st with
      | .done code d => if cqIsFull x || recordGate s c.val || x.recOut.isSome then s else completeRun s c.val y code d
      | _ => s
    | _, _ => s)

/-- CHANNEL_REG_WRITE (R48, R71). -/
def execChannelRegWrite (c : Ch) (r : ChReg) (ns : Bool) (v : W32) (s : State) : Host.Outcome State Fault Refusal :=
  let off := chOff c.val (match r with | .headLo => 0 | .headHi => 4 | .cqLo => 0x10 | .cqHi => 0x14)
  .next (mmioW s off ns (chanSecure s c.val) fun s =>
    let x := chan s c.val
    let st := chState s c.val
    if st != .idle && st != .halted then refuse s off 0 (feIsland c.val)
    else match r with
      | .headLo => setChan s c.val { x with head := BitVec.ofNat 52 (2 ^ 32 * (x.head.toNat / 2 ^ 32) + fld v 6 26 * 64) }
      | .headHi => setChan s c.val { x with head := BitVec.ofNat 52 (x.head.toNat % 2 ^ 32 + 2 ^ 32 * fld v 0 20) }
      | .cqLo =>
        if fld v 0 4 < 4 ∨ 12 < fld v 0 4 then refuse s off 0 (feIsland c.val)
        else setChan s c.val { x with
          cqBase := BitVec.ofNat 40 (2 ^ 20 * (x.cqBase.toNat / 2 ^ 20) + fld v 12 20), log2n := fld v 0 4 }
      | .cqHi => setChan s c.val { x with cqBase := BitVec.ofNat 40 (x.cqBase.toNat % 2 ^ 20 + 2 ^ 20 * fld v 0 20) })

/-! ### Interrupt page (R216, R217, R374) -/

/-- Bits of a 32-bit group of the interrupt page that belong to secure resources. -/
def secureBits (sec : Nat → Bool) (base : Nat) : W32 :=
  BitVec.ofNat 32 (((List.range 32).map fun i => flag (sec (base + i)) i).foldl (· + ·) 0)

/-- A bit-by-bit register write: a non-secure write leaves the secure bits, with a notice if it writes 1 to one (R374). -/
def bitwiseW (s : State) (off : Nat) (ns : Bool) (sec v : W32) (f : W32 → W32 → State → State) : State :=
  let mask := if ns then ~~~sec else BitVec.allOnes 32
  let s := if ns && v &&& sec != 0 then notice s 0 1 0 off 0 else s
  f mask v s

/-- Clear the bits of a pending word. -/
def clearAt {w : Nat} (p : BitVec w) (base : Nat) (v : W32) : BitVec w := p &&& ~~~(v.setWidth w <<< base)

/-- IRQ_PEND_CLEAR (R216, R217, R374): a handler writes 1 to pending bits. -/
def execIrqPendClear (r : PendReg) (ns : Bool) (v : W32) (s : State) : Host.Outcome State Fault Refusal :=
  match r with
  | .ch k => .next (mmioW s (0x5000 + 4 * k.val) ns false fun s =>
      bitwiseW s (0x5000 + 4 * k.val) ns (secureBits (chanSecure s) (32 * k.val)) v fun m v s =>
        setPorts s { s.ports with chPend := clearAt s.ports.chPend (32 * k.val) (v &&& m) })
  | .ctxLo => .next (mmioW s 0x5080 ns false fun s =>
      bitwiseW s 0x5080 ns (secureBits (ctxSecure s) 0) v fun m v s =>
        setPorts s { s.ports with ctxPend := clearAt s.ports.ctxPend 0 (v &&& m) })
  | .ctxHi => .next (mmioW s 0x5084 ns false fun s =>
      bitwiseW s 0x5084 ns (secureBits (ctxSecure s) 32) v fun m v s =>
        setPorts s { s.ports with ctxPend := clearAt s.ports.ctxPend 32 (v &&& m) })
  | .src => .next (mmioW s 0x5090 ns (domSecure s 44) fun s =>
      setPorts s { s.ports with srcPend := clearAt s.ports.srcPend 0 v })

end Sys2Proof.Machine
end

