-- ==== Sys2Proof/Machine/Lines.lean ====
section
/-! DEFINITION. How outstanding lines end: acknowledgement, and every error with what it does to its tile, descriptor or
channel (R23, R65, R75, R76, R151, R201, R206, R207, R237, R380), and how SIGNAL, POP and mailbox accesses are issued. -/

namespace Sys2Proof.Machine

/-- How a line ended without what it asked for. -/
inductive LErr where
  | poison | error | ecc | world | timeout
  | link (port : Nat)
  | tag (chip : Nat)
  deriving DecidableEq, Repr

/-- Operand of a line (Table 11-4). -/
def lineOpnd : LineKind → Nat
  | .read _ _ _ _ o => o
  | .write _ _ o _ => o
  | .signal .. => 1
  | .popWrite => 1
  | .inbound .. => 1

/-- Completion code and DETAIL of an error (Table 03-18). -/
def errOut (k : LineKind) : LErr → Nat × Nat
  | .poison => (cECC, 0)
  | .error => (cECC, 0)
  | .ecc => (cECC, 0)
  | .world => (cWORLD, lineOpnd k)
  | .timeout => (cTIMEOUT, if isWrite k then 2 else 1)
  | .link p => (cLINK, p)
  | .tag c => (cTAG, c)

/-- Whether an error is retried (R75). -/
def LErr.transient : LErr → Bool
  | .poison => true
  | .error => true
  | .ecc => true
  | .link _ => true
  | .world => false
  | .timeout => false
  | .tag _ => false

/-- The descriptor in execution ends: its tiles issue nothing further. -/
def endNow (s : State) (c code detail : Nat) : State :=
  modStream (finish s c code detail) c fun x => { x with tiles := x.tiles.filter tileDrained }

/-- Reissue a tile from its start (R75): its groups are formed anew and one retry event is raised. Whether a group keeps its reservation
is not said: it reserves anew, behind later groups that have theirs (DESIGN CHOICE, log 49); these drain all the same (R112). -/
def retryTile (s : State) (c no code : Nat) : State :=
  match stream s c with
  | none => s
  | some x =>
    let m := (chanCfg s c).mover
    let again := fun (t : Tile) =>
      let g0 := match t.groups.head? with | some g => g.no | none => 0
      { t with att := t.att + 1, groups := mkGroups s x m g0 t, strad := [] }
    let s' := setStream s c { x with
      tiles := x.tiles.map fun t => if t.no == no then again t else t
      retries := x.retries + 1, trans := code }
    raise s' 0x0E x.addr c (m / 4)

/-- Tile `no` has a line that failed for good: it does not complete whole, and BYTES leaves it out (Table 03-15). -/
def spoilTile (s : State) (c no : Nat) : State :=
  modStream s c fun x => { x with tiles := x.tiles.map fun t => if t.no == no then { t with bytes := 0 } else t }

/-- Whether a descriptor may be retried again: at most 3 times in all, over every run of a persistent one (R75). -/
def retriesLeft (x : Stream) : Bool := decide (x.spent + x.retries < 3)

/-- An error of a tile of the present descriptor: retried where R75 and R151 allow it, else the descriptor ends with it. A
stream that R323 stops takes no retry. -/
def tileFail (s : State) (c no att : Nat) (e : LErr) (out : Nat × Nat) : State :=
  let ends := fun (s : State) => endNow (spoilTile s c no) c out.1 out.2
  let attempt := fun (x : Stream) =>
    if !e.transient then ends s
    else match x.tiles.find? fun t => t.no == no && t.att == att with
      | none => s
      | some t => if retriesLeft x ∧ !(dAcc x.desc && t.wrote) then retryTile s c no out.1 else ends s
  match stream s c with
  | none => s
  | some x =>
    match x.st with
    | .done _ _ => spoilTile s c no
    | .decoded => s
    | .started => attempt x
    | .ending k _ => if k = cWORLD then spoilTile s c no else attempt x

/-- A line-timeout event, with the descriptor's address (Table 16-1). -/
def timeoutEvent (s : State) (c : Nat) : State :=
  raise s 0x0D (match stream s c with | some x => x.addr | none => 0) c (feIsland c)

/-- A write that ended without a normal acknowledgement is kept for the descriptor that will wait for it (R380). -/
def addLate (s : State) (l : Line) (out : Nat × Nat) : State :=
  if isWrite l.kind then
    let k := chan s l.ch
    setChan s l.ch { k with late := k.late ++ [⟨l.gen, locClass l.loc, out.1, out.2⟩] }
  else s

/-- Whether a wait is that for the write of a POP's handle. -/
def isPopWrite (w : Wait) : Bool := match w with | .popWrite _ => true | _ => false

/-- RESP of an error at the requester of an inbound access. -/
def errResp : LErr → Nat
  | .poison => 1
  | .ecc => 1
  | .world => 3
  | _ => 2

/-- An inbound write of a relay chain ends: its requester is answered with `resp`, which is OKAY only where every member has performed the
write (R207, R266), and not at all where a member's answer never came (DESIGN CHOICE, log 50). -/
def inboundEnd (s : State) (l : Line) (port id : Nat) (resp : Option Nat) : State :=
  let s := dropLine s l.id
  match resp with
  | some r => emit s (.resp false port (BitVec.ofNat 16 id) r 0)
  | none => s

/-- An outstanding line ends with an error: its tag is freed, and the error ends or retries what it belongs to. A write of a
descriptor that has completed, or under BF = 0 has taken its last action, is kept for the descriptor that waits for it (R380). -/
def lineFail (s : State) (l : Line) (e : LErr) : State :=
  let out := errOut l.kind e
  match l.kind with
  | .inbound p id => inboundEnd s l p id (if e == .timeout then none else some (errResp e))
  | k =>
    let s := dropLine s l.id
    let s := if e == .timeout then timeoutEvent s l.ch else s
    match stream s l.ch with
    | none => addLate s l out
    | some x =>
      if l.dseq != (chan s l.ch).seq then addLate s l out
      else match k with
        | .signal _ _ => if x.wait == .signal l.id then finish s l.ch out.1 out.2 else addLate s l out
        | .popWrite => if isPopWrite x.wait then finish s l.ch out.1 out.2 else s
        | .read t a _ _ _ => tileFail s l.ch t a e out
        | .write t a _ _ =>
          let ended := match x.st with | .done _ _ => !waitsAcks x | _ => false
          tileFail (if ended then addLate s l out else s) l.ch t a e out
        | .inbound _ _ => s

/-- Whether a core port holds a line for an activation position (R213). -/
def heldAtCore (s : State) (l : Line) : Bool :=
  (List.range 16).any fun n => (cp s n).held.any fun h => h.1 == l.id

/-- OP of a line's request (Table 09-2). -/
def lineOp : LineKind → Nat
  | .read .. => 0
  | .write .. => 1
  | .signal true wide => if wide then 3 else 2
  | .signal false _ => 1
  | .popWrite => 1
  | .inbound .. => 1

/-- The request of a line that times out unanswered stays outstanding, so that its number is not used again before its answer comes
(R204). One that was never sent has none. -/
def lineGhost (s : State) (l : Line) : State :=
  let port := match l.loc with
    | .ext pa => if l.echo = 2 then none else some (memPortOf s pa)
    | .core n _ => some (16 + n)
    | .remote .. => some 10
    | .relay n _ => some (16 + (members s n).headD 0)
    | _ => none
  match port with
  | some p =>
    if heldAtCore s l || noAnswer s l then s
    else { s with ports := { s.ports with own := s.ports.own ++ [⟨l.id, p, lineOp l.kind, locPa s l.loc, .dead true, none⟩] } }
  | none => s

/-- Forget a line that a core port holds: it is discarded with its answer. -/
def unhold (s : State) (id : Nat) : State :=
  (List.range 16).foldl (fun s n =>
    let c := cp s n
    if c.held.any fun h => h.1 == id then setCp s n { c with held := c.held.filter fun h => h.1 != id } else s) s

/-- A stage write is performed at its bank as it is acknowledged (R98, R266). -/
def performStage (s : State) (l : Line) : State :=
  match l.loc with
  | .stage o => stageWrite s o l.data l.be l.lane
  | _ => s

/-- Whether a write of a POP's handle is still outstanding. -/
def popWriting (s : State) (c : Nat) : Bool :=
  s.path.lines.any fun l => l.ch == c && l.dseq == (chan s c).seq && l.kind == .popWrite

/-- A write is acknowledged: its tag is freed, and a POP whose handle it carried completes with its last write (R23, R66, R268). -/
def lineAck (s : State) (l : Line) : State :=
  match l.kind with
  | .inbound p id => inboundEnd s l p id (some 0)
  | k =>
    let s := dropLine (performStage s l) l.id
    match stream s l.ch with
    | some x => if k == .popWrite && isPopWrite x.wait && !popWriting s l.ch then finish s l.ch cOK 0 else s
    | none => s

/-! ### Single accesses of control descriptors (R65, R66, R69, R276) -/

/-- Whether the target's domains take a line: every one is powered. -/
def locReady (s : State) (loc : Loc) : Bool := (locDomains s loc).all (powered s)

/-- A need for the domains of a line's target (R32, R315). -/
def locNeed (s : State) (loc : Loc) : State := (locDomains s loc).foldl need s

/-- Whether the channel may not reach a location in its world (R322, R323). -/
def worldBad (s : State) (c : Nat) (loc : Loc) : Bool := !chanSecure s c && locSecure s loc

/-- The bytes of a value at an address within its line, and their enables. -/
def atByte (va size v : Nat) : LineData × LineEn :=
  (BitVec.ofNat 1024 (v % 2 ^ (8 * size) * 2 ^ (8 * (va % 128))), BitVec.ofNat 128 ((2 ^ size - 1) * 2 ^ (va % 128)))

/-- Send an addition in flight to the place that performs it (R276). -/
def sendAdd (s : State) (l : Line) (prio scope size v : Nat) : State :=
  let wide := size = 8
  if lineFenced s l then loseLine s l.id
  else match l.loc with
  | .ext pa =>
    let m := memPortOf s pa
    emit (grantMem (echoDrop s pa) m l.lane)
      (.fab m (if wide then 3 else 2) (if wide then 1 else 0) pa l.ns false scope (fabId l) l.data l.be)
  | .remote c w o =>
    sendPkt s (reqPkt s (if wide then 5 else 4) prio c l.ns scope l.id w o (chanCfg s l.ch).mover [BitVec.ofNat 128 (v % 2 ^ (8 * size))])
  | .core n _ => toCoreAs s n l.lane (if wide then 3 else 2) false scope l
  | _ => s

/-- The line of a SIGNAL or of a POP's handle. -/
def ctlLine (s : State) (c : Nat) (k : LineKind) (loc : Loc) (d : LineData × LineEn) : Line :=
  ⟨0, poolFor loc true, c, (chan s c).seq, k, loc, !chanSecure s c, d.1, d.2, (chan s c).gen, s.xl.gen, (ctx s (chanCfg s c).ctx).asid, 0,
    (chanCfg s c).mover, match loc with | .relay n _ => (members s n).tail | _ => []⟩

/-- The priority whose traffic class a held signal takes: that of the remote writes it waits for (R222). -/
def heldPrio (s : State) (c : Nat) (x : Stream) : Nat :=
  match (chan s c).tcw with
  | some (g, t) => if dFinal x.desc && g == (chan s c).gen then t - 1 else dPrio x.desc
  | none => dPrio x.desc

/-- Remember the traffic class of a remote write. -/
def noteTc (s : State) (c prio : Nat) (loc : Loc) : State :=
  if isRemote loc then let k := chan s c; setChan s c { k with tcw := some (k.gen, classOf prio) } else s

/-- A part of the one access of a control descriptor, in one line: where it goes, its virtual address, its bytes, its value. -/
structure Piece where
  loc : Loc
  va : Nat
  size : Nat
  v : Nat
  deriving DecidableEq, Repr

/-- Put the parts of an access in flight one by one, and the number of the first; none where a tag is missing. -/
def putPieces (s : State) (c : Nat) (x : Stream) (k : LineKind) (scope : Nat) : List Piece → Option (State × Nat)
  | [] => none
  | p :: ps =>
    let add := match k with | .signal a _ => a | _ => false
    if canTag s p.loc true (dPrio x.desc) then
      let r := addLine s (ctlLine s c k (if add then p.loc else locLine p.loc) (atByte p.va p.size p.v))
      let prio := heldPrio s c x
      let s := noteTc r.1 c prio p.loc
      let s := if add then sendAdd s r.2 prio scope p.size p.v else sendLine s r.2 true prio (chanCfg s c).mover
      match ps with
      | [] => some (s, r.2.id)
      | _ => (putPieces s c x k scope ps).map fun q => (q.1, r.2.id)
    else none

/-- Issue the access of a control descriptor to translated locations, two where it crosses a line (R268): refused for an absent core port
or for its world, answered ERROR by Miozer where R201, R182 or R211 say so, held back while a tag or its target's domain is not
there, else in flight with the wait `w` gives. -/
def issueCtl (s : State) (c : Nat) (x : Stream) (k : LineKind) (ps : List Piece) (scope : Nat) (w : Nat → Wait) : State :=
  let add := match k with | .signal a _ => a | _ => false
  let wide := match k with | .signal _ b => b | _ => false
  if ps.any fun p => absentCore s p.loc then refuseStream s c 6
  else match ps.find? fun p => worldBad s c p.loc with
  | some p => finish (notice s 4 (if add then 2 else 1) c (locPa s p.loc) 0) c cWORLD 1
  | none =>
    match ps.find? fun p => autoErr s p.loc true add with
    | some p => finish (errEvent s p.loc (if add then (if wide then 3 else 2) else 1) 2) c cECC 0
    | none =>
      match ps.find? fun p => !locReady s p.loc with
      | some p => locNeed s p.loc
      | none =>
        match putPieces s c x k scope ps with
        | none => s
        | some r => modStream r.1 c fun x => { x with st := .started, wait := w r.2, pre := [] }

/-- The parts of `n` bytes of a value at a virtual address, each translated by one of `es`. -/
def piecesOf (s : State) (es : List XEnt) (va n v : Nat) : List Piece :=
  let a := min n (128 - va % 128)
  ⟨setLoc s es (va % 2 ^ 49), va, a, v⟩
    :: if a < n then [⟨setLoc s es ((va + a) % 2 ^ 49), va + a, n - a, v / 2 ^ (8 * a)⟩] else []

/-- The leaves of the regions that `n` bytes written at a virtual address reach, at most two. -/
def ctlLeaves (s : State) (c va n : Nat) : State × Option (List XEnt) :=
  match preLeaf s c 1 va true with
  | (s, none) => (s, none)
  | (s, some l) =>
    let e := (va + (n - 1)) % 2 ^ 49
    if va / 2 ^ 25 = e / 2 ^ 25 then (s, some [⟨va / 2 ^ 25, l⟩])
    else match preLeaf s c 1 e true with
      | (s, none) => (s, none)
      | (s, some m) => (s, some [⟨va / 2 ^ 25, l⟩, ⟨e / 2 ^ 25, m⟩])

end Sys2Proof.Machine
end

