-- ==== Sys2Proof/Machine/Cast.lean ====
section
/-! DEFINITION. Element values and casting (R126 to R149, R152): exact values, rounding on each format's grid, overflow and
special values, scales and their discovery, accumulation, and the assembly of an output line. A magnitude is an exact quotient
of two naturals. -/

namespace Sys2Proof.Machine

/-! ### Exact values -/

/-- The exact value of an element or component (R128 to R132). -/
inductive Val where
  | nan
  | inf (neg : Bool)
  | fin (neg : Bool) (num den : Nat)
  deriving DecidableEq, Repr

/-- A quotient scaled by 2^e. -/
def scaleQ (num den : Nat) (e : Int) : Nat × Nat := if 0 ≤ e then (num * 2 ^ e.toNat, den) else (num, den * 2 ^ (-e).toNat)

/-- Exponent bits, mantissa bits and bias of a floating format (Table 06-2). -/
def fltParams (f : Nat) : Nat × Nat × Int :=
  match f with
  | 0x0A => (4, 3, 7)
  | 0x0B => (5, 2, 15)
  | 0x0C => (3, 2, 3)
  | 0x0D => (2, 3, 1)
  | 0x0E => (2, 1, 1)
  | 0x0F => (5, 10, 15)
  | 0x10 => (8, 7, 127)
  | _ => (8, 23, 127)

/-- Whether a floating format has infinities (Table 06-2). -/
def hasInf (f : Nat) : Bool := f == 0x0B || f == 0x0F || f == 0x10 || f == 0x11

/-- The canonical NaN of a floating format, if it has NaNs (Table 06-2). -/
def canonNan (f : Nat) : Option Nat :=
  match f with
  | 0x0A => some 0x7F
  | 0x0B => some 0x7E
  | 0x0F => some 0x7E00
  | 0x10 => some 0x7FC0
  | 0x11 => some 0x7FC00000
  | _ => none

/-- Magnitude bits of the largest finite value of a floating format. -/
def maxOrd (f : Nat) : Nat :=
  let p := fltParams f
  if hasInf f then (2 ^ p.1 - 1) * 2 ^ p.2.1 - 1
  else if f = 0x0A then 0x7E
  else 2 ^ (p.1 + p.2.1) - 1

/-- The magnitude that magnitude bits `k` of a floating format spell, as a quotient (R128). -/
def ordVal (f k : Nat) : Nat × Nat :=
  let p := fltParams f
  let e := k / 2 ^ p.2.1
  let m := k % 2 ^ p.2.1
  if e = 0 then scaleQ m 1 (1 - p.2.2 - p.2.1) else scaleQ (2 ^ p.2.1 + m) 1 ((e : Int) - p.2.2 - p.2.1)

/-- Decode a floating element (R128, Table 06-2). -/
def decodeFlt (f raw : Nat) : Val :=
  let p := fltParams f
  let k := raw % 2 ^ (p.1 + p.2.1)
  let neg := raw / 2 ^ (p.1 + p.2.1) % 2 == 1
  if maxOrd f < k then
    (if hasInf f && k == maxOrd f + 1 then .inf neg else .nan)
  else let q := ordVal f k; .fin neg q.1 q.2

/-- Whether an integer format is signed, and its width. -/
def intSigned (f : Nat) : Bool := f % 2 == 0

/-- Decode an integer element (R129). -/
def decodeInt (f raw : Nat) : Int := if intSigned f then sext raw (fmtBits f) else (raw % 2 ^ fmtBits f : Nat)

/-- An integer as a value. -/
def intVal (z : Int) : Val := .fin (decide (z < 0)) z.natAbs 1

/-- Value of an E8M0 byte (R128). -/
def e8m0Val (b : Nat) : Val := if b = 255 then .nan else let q := scaleQ 1 1 ((b : Int) - 127); .fin false q.1 q.2

/-- Value of a block's scale byte (Table 06-4); a CBFP exponent of 0x80 is NaN. -/
def scaleVal (f b : Nat) : Val :=
  if f = 0x17 then (if b = 0x80 then .nan else let q := scaleQ 1 1 (sext b 8); .fin false q.1 q.2)
  else if f = 0x1E ∨ f = 0x1F then decodeFlt 0x0A (b % 128)
  else e8m0Val b

/-- Product of an element value and a scale (R132, R147). -/
def mulVal (v s : Val) : Val :=
  match v, s with
  | .nan, _ => .nan
  | _, .nan => .nan
  | .inf n, _ => .inf n
  | _, .inf _ => .nan
  | .fin n a b, .fin _ c d => .fin n (a * c) (b * d)

/-- Component format of an element format. -/
def compFmt (f : Nat) : Nat := if isCplx f || isBlock f then elemFmt f else f

/-- Decode one component of a source element, with its block's scale byte where its format has one. -/
def decodeComp (f raw scale : Nat) : Val :=
  let c := compFmt f
  if f = 0x12 then e8m0Val raw
  else if isBlock f then
    let v := if f = 0x1D then (match decodeInt 4 raw with | z => .fin (decide (z < 0)) z.natAbs 64)
      else if c < 0x0A then intVal (decodeInt c raw) else decodeFlt c raw
    mulVal v (scaleVal f scale)
  else if c < 0x0A then intVal (decodeInt c raw)
  else decodeFlt c raw

/-! ### Rounding (R138, R139) -/

/-- ⌊log2⌋ of a positive quotient. -/
def log2Q (num den : Nat) : Int :=
  let d : Int := (Nat.log2 num : Int) - (Nat.log2 den : Int)
  let q := scaleQ num den (-d)
  if q.2 ≤ q.1 then d else d - 1

/-- Whether to round away from the lower neighbour: sign, parities of the neighbours, the fraction above the lower one, the
mode and the draw. -/
def roundUp (neg aEven cEven : Bool) (fn fd rnd r : Nat) : Bool :=
  if fn = 0 then false
  else match rnd with
    | 0 => decide (fd < 2 * fn) || (2 * fn == fd && (!aEven || cEven))
    | 1 => false
    | 2 => neg
    | 3 => !neg
    | 4 => decide (fd ≤ 2 * fn)
    | _ => decide (r < 65536 * fn / fd)

/-- A magnitude rounded to the integer grid. -/
def roundInt (neg : Bool) (num den rnd r : Nat) : Nat :=
  let a := num / den
  if roundUp neg (a % 2 == 0) (a % 2 == 1) (num % den) den rnd r then a + 1 else a

/-- A magnitude rounded to a floating format's grid: magnitude bits, or none where it overflows. -/
def roundFlt (f : Nat) (neg : Bool) (num den rnd r : Nat) : Option Nat :=
  if num = 0 then some 0
  else
    let p := fltParams f
    let emin : Int := 1 - p.2.2
    let e := max (log2Q num den) emin
    let q := scaleQ num den ((p.2.1 : Int) - e)
    let t := q.1 / q.2
    let k := (e - emin).toNat * 2 ^ p.2.1 + t
    let top := maxOrd f
    if k < top then
      some (if roundUp neg (k % 2 == 0) (k % 2 == 1) (q.1 % q.2) q.2 rnd r then k + 1 else k)
    else
      let l := ordVal f top
      let eL := log2Q l.1 l.2
      let pv := scaleQ 1 1 (eL + 1)
      if pv.1 * den ≤ num * pv.2 then none
      else
        -- the value lies between L and P
        let fn := num * l.2 - l.1 * den
        let w := pv.1 * l.2 - l.1 * pv.2
        let fd := w * den * l.2
        let fnn := fn * pv.2 * l.2
        if roundUp neg (top % 2 == 0) true fnn fd rnd r then none else some top

/-! ### One result (R140 to R143, Table 06-8) -/

/-- A result: its bits, whether it overflowed, whether a NaN went in. -/
structure Res where
  bits : Nat
  ovf : Bool
  nan : Bool
  deriving DecidableEq, Repr

/-- Sign bit of a floating format above its magnitude bits. -/
def signBit (f : Nat) (neg : Bool) : Nat := let p := fltParams f; if neg then 2 ^ (p.1 + p.2.1) else 0

/-- ±∞ or the largest finite value of a format with infinities, for an overflow under SAT 0 (R140). -/
def ieeeOvf (f : Nat) (neg : Bool) (rnd : Nat) : Nat :=
  let top := maxOrd f
  signBit f neg + (if rnd = 1 ∨ (rnd = 2 ∧ !neg) ∨ (rnd = 3 ∧ neg) then top else top + 1)

/-- An overflow of a floating format. -/
def fltOvf (f : Nat) (neg : Bool) (rnd : Nat) (sat : Bool) : Nat :=
  let top := signBit f neg + maxOrd f
  if hasInf f then (if sat then top else ieeeOvf f neg rnd)
  else if f = 0x0A then (if sat then top else 0x7F)
  else top

/-- A value cast to a floating format. -/
def toFlt (f : Nat) (v : Val) (rnd r : Nat) (sat : Bool) : Res :=
  match v with
  | .nan => ⟨(canonNan f).getD 0, false, true⟩
  | .inf n =>
    ⟨if hasInf f then signBit f n + (if sat then maxOrd f else maxOrd f + 1)
      else if f = 0x0A then (if sat then signBit f n + maxOrd f else 0x7F)
      else signBit f n + maxOrd f, false, false⟩
  | .fin n a b =>
    match roundFlt f n a b rnd r with
    | some k => ⟨signBit f n + k, false, false⟩
    | none => ⟨fltOvf f n rnd sat, true, false⟩

/-- Bounds of an integer format. -/
def intMin (f : Nat) : Int := if intSigned f then -(2 ^ (fmtBits f - 1) : Nat) else 0
/-- The greatest value. -/
def intMax (f : Nat) : Int := if intSigned f then (2 ^ (fmtBits f - 1) : Nat) - 1 else (2 ^ fmtBits f : Nat) - 1

/-- Bits of an integer in a format, its low bits. -/
def intBits (f : Nat) (z : Int) : Nat := (z % (2 ^ fmtBits f : Nat)).toNat

/-- The nearest bound of an integer format. -/
def clampInt (f : Nat) (z : Int) : Int := if z < intMin f then intMin f else if intMax f < z then intMax f else z

/-- A value cast to an integer format; `exact` says that the source is an integer format. -/
def toInt (f : Nat) (v : Val) (exact : Bool) (rnd r : Nat) (sat : Bool) : Res :=
  match v with
  | .nan => ⟨0, false, true⟩
  | .inf n => ⟨intBits f (if n then intMin f else intMax f), false, false⟩
  | .fin n a b =>
    let m : Int := (roundInt n a b rnd r : Nat)
    let z := if n then -m else m
    if z < intMin f ∨ intMax f < z then
      ⟨if exact && !sat then intBits f z else intBits f (clampInt f z), true, false⟩
    else ⟨intBits f z, false, false⟩

/-- A value over a scale. -/
def divVal (v s : Val) : Val :=
  match v, s with
  | .fin n a b, .fin _ c d => .fin n (a * d) (b * c)
  | v, _ => v

/-- Whether a block format's elements are integers (MXINT8 and CBFP). -/
def intBlock (f : Nat) : Bool := f == 0x1D || f == 0x17

/-- A value quantised under a block's scale (R142, R143). Under a discovered NaN scale, and in a block whose discovered amax is 0, every
element is 0. -/
def toBlock (f : Nat) (v : Val) (scale : Nat) (rnd r : Nat) (zero : Bool) : Res :=
  let sv := scaleVal f scale
  let e := elemFmt f
  let isNan := v == .nan
  if zero then ⟨0, false, isNan⟩ else
  match sv with
  | .nan => ⟨0, false, isNan⟩
  | .inf _ => ⟨0, false, isNan⟩
  | .fin _ 0 _ => ⟨0, false, isNan⟩
  | _ =>
    match divVal v sv with
    | .nan => ⟨if intBlock f then 0 else (canonNan e).getD 0, false, true⟩
    | .inf n => ⟨if intBlock f then intBits 4 (if n then -127 else 127) else signBit e n + maxOrd e, true, false⟩
    | .fin n a b =>
      if intBlock f then
        let m := roundInt n (if f = 0x1D then a * 64 else a) b rnd r
        let k : Int := (min m 127 : Nat)
        ⟨intBits 4 (if n then -k else k), decide (127 < m), false⟩
      else match roundFlt e n a b rnd r with
        | some k => ⟨signBit e n + k, false, false⟩
        | none => ⟨signBit e n + maxOrd e, true, false⟩

/-! ### Scale discovery (R143) -/

/-- The larger of two magnitudes. -/
def maxQ (a b : Nat × Nat) : Nat × Nat := if a.1 * b.2 < b.1 * a.2 then b else a

/-- amax of finite values. -/
def amaxOf (vs : List Val) : Nat × Nat :=
  vs.foldl (fun m v => match v with | .fin _ a b => maxQ m (a, b) | _ => m) (0, 1)

/-- EMAX of an MX format (Table 06-4). -/
def emaxOf (f : Nat) : Int := ([8, 15, 4, 2, 2, 0] : List Int).getD (f - 0x18) 0

/-- A B16 scale: a quotient rounded toward +∞ onto FP8E4M3, at most 448. -/
def upE4M3 (num den : Nat) : Nat :=
  match roundFlt 0x0A false num den 3 0 with
  | some k => k
  | none => 0x7E

/-- The scale byte of a block of values, and whether the block is NaN (R143). -/
def discover (f : Nat) (vs : List Val) : Nat × Bool :=
  if vs.any fun v => (match v with | .fin _ _ _ => false | _ => true) then
    (if f = 0x17 then 0x80 else if f = 0x1E ∨ f = 0x1F then 0x7F else 0xFF, true)
  else
    let m := amaxOf vs
    if m.1 = 0 then (if f = 0x17 then 0x81 else 0, false)
    else if f = 0x17 then
      -- ⌈log2(amax / 127)⌉
      let l := log2Q m.1 (127 * m.2)
      let q := scaleQ m.1 (127 * m.2) (-l)
      let x := clampI (if q.1 = q.2 then l else l + 1) (-127) 127
      ((x % 256).toNat, false)
    else if f = 0x1E then (upE4M3 m.1 (448 * m.2), false)
    else if f = 0x1F then (upE4M3 m.1 (6 * m.2), false)
    else ((clampI (log2Q m.1 m.2 - emaxOf f) (-127) 127 + 127).toNat, false)

/-! ### Elements of a descriptor -/

/-- Components of the elements that a descriptor's pairs carry: two for a complex element that is not split or merged. -/
def compsOf (d : DescData) : Nat := if dKop d = 3 ∨ dKop d = 4 then 1 else if isCplx (dSfmt d) then 2 else 1

/-- SWAP on one component of `w` bits (R152). -/
def swapComp (mode w v : Nat) : Nat :=
  let byte := fun k => v / 2 ^ (8 * k) % 256
  match mode with
  | 0 => v
  | 1 => if w = 16 then byte 0 * 256 + byte 1 else byte 1 + 256 * byte 0 + 65536 * byte 3 + 16777216 * byte 2
  | 2 => byte 3 + 256 * byte 2 + 65536 * byte 1 + 16777216 * byte 0
  | _ => v / 65536 % 65536 + 65536 * (v % 65536)

/-- Component `k` of a source element, swapped unless it is a pad. -/
def compRaw (d : DescData) (e : Elem) (k : Nat) : Nat :=
  let n := compsOf d
  let w := srcW d / n
  let v := e.raw / 2 ^ (w * k) % 2 ^ w
  if e.pair.src.isSome then swapComp (dSwap d) w v else v

/-- Exact value of component `k` of an element (step 2 of R127). -/
def compVal (d : DescData) (scale : Pair → Nat) (e : Elem) (k : Nat) : Val := decodeComp (dSfmt d) (compRaw d e k) (scale e.pair)

/-- All component values of a list of elements. -/
def valsOf (d : DescData) (scale : Pair → Nat) (es : List Elem) : List Val :=
  es.flatMap fun e => (List.range (compsOf d)).map (compVal d scale e)

/-- One component cast to the destination: a bit copy between equal formats unless it accumulates (R127), and between E8M0 and UINT8.
`bs` is the scale byte of the destination block. -/
def castComp (d : DescData) (v : Val) (raw bs r : Nat) (zero : Bool) : Res :=
  let f := dSfmt d
  let g := dDfmt d
  if (f = g ∧ !dAcc d) ∨ f = 0x12 ∧ g = 5 ∨ f = 5 ∧ g = 0x12 then ⟨raw, false, f != g && (v == .nan)⟩
  else if isBlock g then toBlock g v bs (dRnd d) r zero
  else
    let c := compFmt g
    if c < 0x0A then toInt c v (fmtCls f == .int || (isCplx f && !isBlock f && decide (compFmt f < 0x0A))) (dRnd d) r (dSat d)
    else toFlt c v (dRnd d) r (dSat d)

/-! ### Accumulation (R149) -/

/-- Sum of two values of a floating format, rounded with RNE. An infinite sum takes the column of SAT as well (DEDUCED from R140, log
37). -/
def addFlt (f : Nat) (x y : Nat) (sat : Bool) : Res :=
  match decodeFlt f x, decodeFlt f y with
  | .nan, _ => ⟨(canonNan f).getD 0, false, true⟩
  | _, .nan => ⟨(canonNan f).getD 0, false, true⟩
  | .inf a, .inf b => if a = b then toFlt f (.inf a) 0 0 sat else ⟨(canonNan f).getD 0, false, true⟩
  | .inf a, _ => toFlt f (.inf a) 0 0 sat
  | _, .inf b => toFlt f (.inf b) 0 0 sat
  | .fin na a b, .fin nb c d =>
    let z : Int := (if na then -((a * d : Nat) : Int) else (a * d : Nat)) + (if nb then -((c * b : Nat) : Int) else (c * b : Nat))
    if z = 0 then ⟨if na && nb then signBit f true else 0, false, false⟩
    else toFlt f (.fin (decide (z < 0)) z.natAbs (b * d)) 0 0 sat

/-- Sum of two integers of a format: it wraps, or saturates under SAT. -/
def addInt (f x y : Nat) (sat : Bool) : Res :=
  let z := decodeInt f x + decodeInt f y
  if z < intMin f ∨ intMax f < z then ⟨if sat then intBits f (clampInt f z) else intBits f z, true, false⟩
  else ⟨intBits f z, false, false⟩

/-- One addition in the destination format. -/
def addComp (d : DescData) (x y : Nat) : Res :=
  let c := compFmt (dDfmt d)
  if c < 0x0A then addInt c x y (dSat d) else addFlt c x y (dSat d)

/-- Counts of a cast. -/
structure Tally where
  sat : Nat := 0
  nan : Nat := 0
  deriving DecidableEq, Repr

/-- Add a result to the counts. -/
def Tally.add (t : Tally) (r : Res) : Tally := ⟨t.sat + flag r.ovf 0, t.nan + flag r.nan 0⟩

/-- An element cast whole: its destination bits and the counts. `i` numbers its first draw, and `zero` says that its block is one of
zeros. -/
def castElem (d : DescData) (scale : Pair → Nat) (bs : Pair → Nat) (zero : Pair → Bool) (draw : Nat → Nat) (e : Elem) (i : Nat) (t : Tally) : Nat × Tally :=
  let n := compsOf d
  let w := dstW d / n
  (List.range n).foldl (fun acc k =>
    let r := castComp d (compVal d scale e k) (compRaw d e k) (bs e.pair) (draw (i + k)) (zero e.pair)
    (acc.1 + r.bits * 2 ^ (w * k), acc.2.add r)) (0, t)

/-- Accumulate a cast element onto an earlier value. -/
def accElem (d : DescData) (old new : Nat) (t : Tally) : Nat × Tally :=
  let n := compsOf d
  let w := dstW d / n
  (List.range n).foldl (fun acc k =>
    let r := addComp d (old / 2 ^ (w * k) % 2 ^ w) (new / 2 ^ (w * k) % 2 ^ w)
    (acc.1 + r.bits * 2 ^ (w * k), acc.2.add r)) (0, t)

/-! ### Assembly of a line (R83, R98, R105) -/

/-- A line under assembly: bits covered, and their values. -/
structure Asm where
  cov : Nat
  dat : Nat
  deriving DecidableEq, Repr

/-- Bit position of an element in a line: its offset may begin before the line. -/
def bitPos (vl : Nat) (dst : Nat) : Int := ((dst + 2 ^ 52 - 1024 * vl) % 2 ^ 52 : Nat) - (if dst / 1024 = vl then 0 else (2 ^ 52 : Nat))

/-- The bits of a `w`-bit value at a position, inside the line. -/
def placeBits (o : Int) (w v : Nat) : Nat × Nat :=
  let n := if 0 ≤ o then o.toNat else 0
  let cut := (-o).toNat
  ((2 ^ (w - cut) - 1) * 2 ^ n % 2 ^ 1024, (v / 2 ^ cut) % 2 ^ (w - cut) * 2 ^ n % 2 ^ 1024)

/-- Place one more element: where it overlaps others, `sel` chooses bit by bit (R98). -/
def Asm.put (a : Asm) (m v sel : Nat) : Asm :=
  let keep := a.cov &&& m &&& sel
  let take := m ^^^ keep
  ⟨a.cov ||| m, ((a.dat ||| take) ^^^ take) ||| (v &&& take)⟩

/-- Byte enables of the bytes that are covered wholly, or, with `any`, in part. -/
def covBe (cov : Nat) (any : Bool) : LineEn :=
  BitVec.ofNat 128 (((List.range 128).map fun j =>
    let b := cov / 2 ^ (8 * j) % 256
    flag (if any then b != 0 else b == 255) j).foldl (· + ·) 0)

/-- Data with the uncovered bits of a line taken from free values (log 17). -/
def fillRest (a : Asm) (n : Nat) : LineData :=
  let rest := ((List.range 128).map fun j => (Config.restBits (n + j)).toNat * 2 ^ (8 * j)).foldl (· + ·) 0
  let un := (2 ^ 1024 - 1) ^^^ a.cov
  BitVec.ofNat 1024 ((a.dat &&& a.cov) ||| (rest &&& un))

end Sys2Proof.Machine
end

