-- ==== Sys2Proof/Machine/Control.lean ====
section
/-! DEFINITION. Control descriptors: NOP, SIGNAL, WAIT, DEP, FENCE, REARM, MAILBOX and ADVISE (R54, R65 to R70, R158 to R173,
R259, R260, R269 to R272, R280 to R287, R297). A command for a descriptor that does not stand at its step changes nothing. -/

namespace Sys2Proof.Machine

/-! ### Reads that precede tiles, and mailbox sources (R62, R63, R69, R75) -/

/-- The link port that a request to a chip leaves by, or 0xFF (R237). -/
def linkOf (s : State) (chip prio : Nat) : Nat :=
  match hop s chip (classOf prio) with
  | some h => (portOf s h).getD 0xFF
  | none => 0xFF

/-- Locations of the lines of `n` bytes from `va`. -/
def recLocs (s : State) (es : List XEnt) (va n : Nat) : List Loc :=
  (List.range ((va % 128 + n + 127) / 128)).map fun k => setLoc s es ((va / 128 + k) * 128 % 2 ^ 49)

/-- A line of a read that precedes tiles, or of a poll, from the channel's lowest lane. -/
def pollLine (s : State) (c : Nat) (loc : Loc) : Line :=
  ⟨takeId s 8, .rd, c, (chan s c).seq, .signal false false, loc, !chanSecure s c, 0, 0, 0, 0, 0, 0, (chanCfg s c).mover, []⟩

/-- The requests of a read that precedes tiles, or of a poll, with its VOL, SCOPE and SIZE: from the channel's lowest lane to the memory
port, the core or the chip of each place, a whole line from its start (R204, R237, R274); a packet's read has SCOPE 0 (Table 10-2). Stage
memory and what Miozer answers itself need nothing sent. Each is an outstanding request of the channel, by its place in the read. -/
def sendReads (s : State) (c prio size : Nat) (vol : Bool) (scope : Nat) (locs : List Loc) : State :=
  let lane := (chanCfg s c).mover
  let ns := !chanSecure s c
  locs.zipIdx.foldl (fun s q =>
    let loc := if size = 3 || isRemote q.1 then locLine q.1 else q.1
    let l := pollLine s c loc
    if lineFenced s l || autoErr s loc false false then s
    else match loc with
    | .ext pa =>
      let m := memPortOf s pa
      let r := ownReq (grantMem s m lane) m 0 pa (.poll c q.2)
      emit r.1 (.fab m 0 size pa ns vol scope (r.2 % 65536) 0 0)
    | .remote ch w o =>
      let r := ownReq s 10 0 o (.poll c q.2)
      sendPkt r.1 (reqPktV r.1 1 prio ch ns 0 vol r.2 w o lane [])
    | .core n o => toCoreAs (ownReqAs s 8 (16 + n) 0 o (.poll c q.2)).1 n lane 0 vol scope l
    | .relay n o =>
      (match members s n with | k :: _ => toCoreAs (ownReqAs s 8 (16 + k) 0 o (.poll c q.2)).1 k lane 0 vol scope l | [] => s)
    | _ => s) s

/-- The outstanding request of place `k` of a channel's read. -/
def pollEnt (s : State) (c k : Nat) : Option OwnReq := s.ports.own.find? fun e => e.kind == .poll c k

/-- RESP and data of the packet that has answered place `k` of a read (R237). -/
def pollPkt (s : State) (c k : Nat) : Option (Nat × LineData) := match pollEnt s c k with | some e => e.ans | none => none

/-- Whether every place of a read on another chip has its request out. -/
def remoteSent (s : State) (c : Nat) (locs : List Loc) : Bool := locs.zipIdx.all fun q => !isRemote q.1 || (pollEnt s c q.2).isSome

/-- Places of a read that time out. -/
def latePlaces (fs : List (RdErr × Nat)) : List Nat := (fs.filter fun f => f.1 == .timeout).map (·.2)

/-- Whether a read still waits: for the packet of another chip's response, or at an arbiter where its input is fenced (R197, R237). A
timeout ends it all the same. -/
def readWaits (s : State) (c : Nat) (locs : List Loc) (fs : List (RdErr × Nat)) : Bool :=
  (latePlaces fs).isEmpty
    && locs.zipIdx.any fun q => lineFenced s (pollLine s c q.1) || (isRemote q.1 && (pollPkt s c q.2).isNone)

/-- A read that precedes tiles, or a poll, has been answered: the next one of its region looks up anew (R251). A place that timed out, or
whose packet has not come, stays outstanding until it comes (R204, R206). -/
def recDone (s : State) (c : Nat) (late : List Nat) : State :=
  let s := clearPre s c
  { s with ports := { s.ports with own := s.ports.own.filterMap fun e => match e.kind with
    | .poll d k =>
      if d != c then some e
      else if late.contains k then some { e with kind := .dead true, ans := none }
      else if e.port == 10 && e.ans.isNone then some { e with kind := .dead false }
      else none
    | _ => some e } }

/-- A read that precedes a tile of a data descriptor fails: an error that may clear is retried, at most 3 times for the descriptor as
everywhere, and its answers are due again (R75, Table 03-18); any other ends it. -/
def recError (s : State) (c code d : Nat) (transient : Bool) : State × Option (Except (Nat × Nat) (List Byte)) :=
  match stream s c with
  | none => (s, none)
  | some x =>
    if transient && isData x.desc && retriesLeft x then
      (raise (setStream s c { x with retries := x.retries + 1, trans := code, idxRaw := none, sRaw := none, dRaw := none })
        0x0E x.addr c ((chanCfg s c).mover / 4), none)
    else (s, some (.error (code, d)))

/-- The code check of the lines of a read in stage memory (R192, R193): whether one is uncorrectable. -/
def recProbe (s : State) (c : Nat) (locs : List Loc) : State × Bool :=
  locs.foldl (fun acc l => match l with
    | .stage o =>
      if inFenced acc.1 o (chanCfg acc.1 c).mover then acc
      else if (poolOf acc.1 o).isNone then (holeEvent acc.1 o (chanCfg acc.1 c).mover, acc.2)
      else let p := stageProbe acc.1 o fullBe (chanCfg acc.1 c).mover; (p.1, acc.2 || p.2)
    | _ => acc) (s, false)

/-- The code, the DETAIL and whether it may clear, of a line that a memory port or a core fails. -/
def rdFail (wd : Nat) : RdErr → Nat × Nat × Bool
  | .world => (cWORLD, wd, false)
  | .timeout => (cTIMEOUT, 1, false)
  | _ => (cECC, 0, true)

/-- What the packet that answered place `k` makes of the read (R237): the data of an error's packet are the SCHIP of its sender. -/
def remoteFail (s : State) (c k prio wd : Nat) (loc : Loc) : Option (Nat × Nat × Bool) :=
  match pollPkt s c k with
  | none => none
  | some (r, d) =>
    match r with
    | 0 => none
    | 3 => some (cWORLD, wd, false)
    | 4 => some (cTAG, d.toNat, false)
    | 5 => some (cLINK, (match loc with | .remote chip _ _ => linkOf s chip prio | _ => 0xFF), true)
    | _ => some (cECC, 0, true)

/-- The first place of a read that another chip has answered with an error. -/
def remoteFails (s : State) (c prio wd : Nat) (locs : List Loc) : Option (Nat × Nat × Bool) :=
  locs.zipIdx.findSome? fun q => if isRemote q.1 then remoteFail s c q.2 prio wd q.1 else none

/-- Byte `va` of a read, at place `k`: that of the packet of another chip, of stage memory, or the byte answered. -/
def readByte (s : State) (pk : Option (Nat × LineData)) (loc : Option Loc) (es : List XEnt) (va : Nat) (b : Byte) : Byte :=
  match loc with
  | some (.remote ..) => (match pk with | some (_, d) => BitVec.ofNat 8 (d.toNat / 2 ^ (8 * (va % 128))) | none => 0)
  | _ => recByte s es va b

/-- A read of `n` bytes from `va` ends: every line that failed has its event, the read's outcome is the first failure, of Miozer's own
answers and stage memory before packets and these before the ports (DESIGN CHOICE, log 14), or its bytes. -/
def recEnd (s : State) (c va n prio wd : Nat) (es : List XEnt) (locs : List Loc) (a : RecAns) :
    State × Option (Except (Nat × Nat) (List Byte)) :=
  let fs := lineFails locs a.fails
  let far := remoteFails s c prio wd locs
  let pks := (List.range locs.length).map (pollPkt s c)
  let s := failEvents (recDone s c (latePlaces fs)) locs fs
  let s := if (latePlaces fs).isEmpty then s else timeoutEvent s c
  let own := locs.filter fun l => autoErr s l false false
  let p := recProbe (own.foldl (fun s l => errEvent s l 0 2) s) c locs
  let fail := if !own.isEmpty || p.2 then some (cECC, 0, true)
    else match far with
      | some e => some e
      | none => fs.head?.map fun f => rdFail wd f.1
  match fail with
  | some (code, d, transient) => recError p.1 c code d transient
  | none => (p.1, some (.ok ((List.range n).map fun k =>
      let i := (va % 128 + k) / 128
      readByte p.1 (pks.getD i none) locs[i]? es (va + k) (a.bytes.getD k 0))))

/-- What a read of `n` bytes at virtual address `va` ends in: `none` while a translation, a powered target, an open gate or an answer is
missing, the code and DETAIL of its failure, or the bytes. Stage memory answers with its own contents, another chip with its packets, which
a first step asks for. `path` and `wd` are the notice path and the DETAIL of a refused world. -/
def recRead (s : State) (c opnd va n : Nat) (a : Option RecAns) (path wd : Nat) :
    State × Option (Except (Nat × Nat) (List Byte)) :=
  match preLeaves s c opnd va n with
  | (s, none) => (s, none)
  | (s, some es) =>
    let locs := recLocs s es va n
    let prio := match stream s c with | some x => dPrio x.desc | none => 3
    let ans := a.getD ⟨[], []⟩
    if locs.any (absentCore s) then (s, some (.error (cSTATE, 6)))
    else match locs.find? (worldBad s c) with
      | some l => (notice s path 0 c (locPa s l) 0, some (.error (cWORLD, wd)))
      | none =>
        match locs.find? fun l => !locReady s l with
        | some l => (locNeed s l, none)
        | none =>
          if anyGate s locs then (s, none)
          else if !remoteSent s c locs then (sendReads (pollsGone s c) c prio 3 false 0 locs, none)
          else if (locs.any portLoc && a.isNone) || readWaits s c locs (lineFails locs ans.fails) then (s, none)
          else recEnd (if locs.any isRemote then s else sendReads s c prio 3 false 0 locs) c va n prio wd es locs ans

/-- A read's failure ends the stream: with a refusal where it is STATE. -/
def recFail (s : State) (c : Nat) (e : Nat × Nat) : State :=
  if e.1 = cSTATE then refuseStream s c e.2 else finish s c e.1 e.2

/-! ### NOP and SIGNAL -/

/-- NOP (R54). -/
def execNop (c : Ch) (s : State) : Host.Outcome State Fault Refusal :=
  match fresh s c.val 0 with
  | none => .next s
  | some _ => .next (finish s c.val cOK 0)

/-- A SIGNAL of operation `op` that has not started. -/
def sig (s : State) (c op : Nat) : Option Stream :=
  match fresh s c 5 with
  | some x => if sSop x.desc = op then some x else none
  | none => none

/-- Issue a SIGNAL WRITE or ADD, held under FINAL (R58, R65). -/
def signalOp (s : State) (c : Nat) (x : Stream) (add : Bool) : State :=
  let issue := fun s =>
    let va := dVa x.desc 2
    match ctlLeaves s c va (sSize x.desc) with
    | (s, none) => s
    | (s, some es) =>
      issueCtl s c x (.signal add (sSize x.desc == 8)) (piecesOf s es va (sSize x.desc) (dW x.desc 3 0 64)) (sScope x.desc)
        fun id => .signal id
  if dFinal x.desc then handOff s c issue else issue s

/-- SIGNAL_WRITE (R58, R65, R182). -/
def execSignalWrite (c : Ch) (s : State) : Host.Outcome State Fault Refusal :=
  match sig s c.val 0 with
  | none => .next s
  | some x => .next (signalOp s c.val x false)

/-- SIGNAL_ADD (R58, R65, R182, R276). -/
def execSignalAdd (c : Ch) (s : State) : Host.Outcome State Fault Refusal :=
  match sig s c.val 1 with
  | none => .next s
  | some x => .next (signalOp s c.val x true)

/-- Value that a SIGNAL carries in its line. -/
def lineValue (l : Line) (off size : Nat) : Nat := l.data.toNat / 2 ^ (8 * (off % 128)) % 2 ^ (8 * size)

/-- The addition or write of a SIGNAL is performed at its bank; whether an uncorrectable word was in its way. -/
def signalPerform (s : State) (l : Line) : State × Bool :=
  match l.kind, l.loc with
  | .signal true wide, .stage o =>
    let size := if wide then 8 else 4
    let r := addCheck (bump s) o (freeEcc s)
    if r.2 then (r.1, true) else ((stageAdd r.1 o size (lineValue l o size) l.lane).1, false)
  | _, _ => (performStage s l, false)

/-- SIGNAL_RESPONSE (R65): the response of a SIGNAL to a local target. A line that a core port holds, or that has relay
members left to take it, has no response yet; a remote one is answered by a packet. -/
def execSignalResponse (c : Ch) (a : SigAns) (s : State) : Host.Outcome State Fault Refusal :=
  match stream s c.val with
  | none => .next s
  | some x =>
    match x.wait with
    | .signal id =>
      match lineOf s id with
      | none => .next s
      | some l =>
        let op := match l.kind with | .signal true wide => if wide then 3 else 2 | _ => 1
        let stage := match l.loc with | .stage _ => true | _ => false
        if a == .timeout then .next (lineFail (unhold (lineGhost s l) id) l .timeout)
        else if isRemote l.loc || heldAtCore s l || !l.left.isEmpty || noAnswer s l || anyGate s [l.loc] then .next s
        else if stage || a == .okay then
          let r := signalPerform s l
          if r.2 then .next (lineFail r.1 l .ecc)
          else .next (finish (dropLine r.1 id) c.val cOK 0)
        else match a with
          | .poison => .next (lineFail (errEvent s l.loc op 1) l .poison)
          | .error => .next (lineFail (errEvent s l.loc op 2) l .error)
          | _ => .next (lineFail (errEvent s l.loc op 3) l .world)
    | _ => .next s

/-- What the use of a virtual barrier ID comes to (R284, R285, R322): its object, or the refusal. -/
def barUse (s : State) (c v : Nat) : Except State Nat :=
  let x := (chanCfg s c).ctx
  let k := ctx s x
  let o := k.base + v
  if k.count ≤ v ∨ 4095 < o then .error (refuseStream s c 14)
  else if !chanSecure s c && barSecure s o then .error (worldRefuse s c o)
  else match barObj s x v with
    | some o => .ok o
    | none => .error (refuseStream s c 14)

/-- An arrival at its home on this chip completes the SIGNAL with its outcome (R281, Table 13-4). -/
def arriveHome (s : State) (c : Nat) (x : Stream) (o : Nat) : State :=
  let r := homeArrive s o (sPcount x.desc) (bar s o).epoch (!chanSecure s c) (ownChip s) c
  if r.2.1 = cSTATE then refuseStream r.1 c r.2.2 else finish r.1 c r.2.1 r.2.2

/-- ARRIVE (R269, R281, R283 to R287): after its counted-back writes, the arrival is counted here or sent to the home. -/
def execArrive (c : Ch) (s : State) : Host.Outcome State Fault Refusal :=
  match sig s c.val 2 with
  | none => .next s
  | some x =>
    .next (handOff s c.val fun s =>
      match barUse s c.val (sBvid x.desc) with
      | .error s => s
      | .ok o =>
        let tag := (bar s o).epoch
        let s := setChan s c.val { chan s c.val with arrRec := some (BitVec.ofNat 10 (sBvid x.desc), tag) }
        if barHome s o = ownChip s then arriveHome s c.val x o
        else
          let s := modStream s c.val fun x => { x with st := .started, wait := .ack o }
          sendPkt s (barrPkt s (barHome s o) 0 o tag.toNat (sPcount x.desc) 0 c.val 0 0 (barHome s o) (!chanSecure s c.val)))

/-- ARRIVE_ACK_TIMEOUT (R287). -/
def execArriveAckTimeout (c : Ch) (s : State) : Host.Outcome State Fault Refusal :=
  match stream s c.val with
  | none => .next s
  | some x =>
    match x.wait with
    | .ack _ => .next (timeoutEvent (finish s c.val cTIMEOUT 2) c.val)
    | _ => .next s

/-- PUSH (R161, R171, R172). -/
def execPush (c : Ch) (s : State) : Host.Outcome State Fault Refusal :=
  match sig s c.val 3 with
  | none => .next s
  | some x =>
    .next (handOff s c.val fun s =>
      let q := sHq x.desc
      let y := hq s q
      let h := BitVec.ofNat 32 (dW x.desc 5 0 32)
      let fails := chk (!y.en) 11 ++ chk (h == BitVec.allOnes 32) 5
      if !chanSecure s c.val && !y.ns then worldRefuse s c.val q
      else if !fails.isEmpty then refuseStream (bump s) c.val (pickDetail s fails)
      else if 64 ≤ y.q.length then beginWait s c.val .push
      else hqPush (finish s c.val cOK 0) q h)

/-- The sync hub takes a PRODUCE or RELEASE, or refuses it (R158, R159, R170). -/
def ringSignal (s : State) (c r : Nat) (prod : Bool) : State :=
  let y := ring s r
  let fails := ringFails y prod
  if !chanSecure s c && !y.ns then worldRefuse s c r
  else if !fails.isEmpty then refuseStream (bump s) c (pickDetail s fails)
  else finish (setRing s r (if prod then ringProduce y else ringRelease y)) c cOK 0

/-- PRODUCE (R158, R161). -/
def execProduce (c : Ch) (s : State) : Host.Outcome State Fault Refusal :=
  match sig s c.val 4 with
  | none => .next s
  | some x => .next (handOff s c.val fun s => ringSignal s c.val (sRing x.desc) true)

/-- RELEASE (R158). -/
def execRelease (c : Ch) (s : State) : Host.Outcome State Fault Refusal :=
  match sig s c.val 5 with
  | none => .next s
  | some x => .next (ringSignal s c.val (sRing x.desc) false)

/-- SIGNAL_DOORBELL (R49, R65, R269, R340). -/
def execSignalDoorbell (c : Ch) (s : State) : Host.Outcome State Fault Refusal :=
  match sig s c.val 6 with
  | none => .next s
  | some x =>
    .next (handOff s c.val fun s =>
      let t := sChan x.desc
      if chState s t == .disabled || (chan s t).blocked then
        refuseStream (setChan s t { chan s t with lastCode := 2 }) c.val 9
      else if chanSecure s t != chanSecure s c.val then refuseStream s c.val 9
      else fetchNeed (ringDoorbell (finish s c.val cOK 0) t) t)

/-! ### WAIT and DEP -/

/-- A WAIT of operation `op` that has not started. -/
def waitOp (s : State) (c op : Nat) : Option Stream :=
  match fresh s c 6 with
  | some x => if wWop x.desc = op then some x else none
  | none => none

/-- A stream that waits as `p` says. -/
def waiting (s : State) (c : Nat) (p : Wait → Bool) : Option Stream :=
  acting s c fun x => x.st == .started && p x.wait

/-- WAIT_BARRIER (R66, R283 to R285). -/
def execWaitBarrier (c : Ch) (s : State) : Host.Outcome State Fault Refusal :=
  match waitOp s c.val 0 with
  | none => .next s
  | some x =>
    match barUse s c.val (wBvid x.desc) with
    | .error s => .next s
    | .ok o =>
      let tag := match (chan s c.val).arrRec with
        | some (v, t) => if v.toNat = wBvid x.desc then t else (bar s o).epoch
        | none => (bar s o).epoch
      .next (barWait s c.val o tag false)

/-- One comparison of a WAIT VALUE (Table 03-12). -/
def waitCmp (d : DescData) (v : Nat) : Bool :=
  let n := 8 * wSize d
  let a := (v &&& dW d 4 0 64) % 2 ^ n
  let b := dW d 3 0 64 % 2 ^ n
  match wCmp d with
  | 0 => a == b
  | 1 => a != b
  | 2 => decide (b ≤ a)
  | 3 => decide (a < b)
  | 4 => decide (sext b n ≤ sext a n)
  | _ => decide (sext a n < sext b n)

/-- The parts of a WAIT VALUE's read, two where it crosses a line (R268). -/
def pollPieces (s : State) (x : Stream) (es : List XEnt) : List Piece := piecesOf s es (dVa x.desc 2) (wSize x.desc) 0

/-- SIZE of a WAIT VALUE's requests: its own where it is naturally aligned, else a whole line (Table 09-2). -/
def pollSize (x : Stream) : Nat := if dVa x.desc 2 % wSize x.desc = 0 then (if wSize x.desc = 8 then 1 else 0) else 3

/-- What Miozer itself makes of a WAIT VALUE's address: `none` lets the read go on. -/
def pollRefused (s : State) (c : Nat) (ps : List Piece) : Option State :=
  if ps.any fun p => absentCore s p.loc then some (refuseStream s c 6)
  else match ps.find? fun p => worldBad s c p.loc with
  | some p => some (finish (notice s 4 0 c (locPa s p.loc) 0) c cWORLD 0)
  | none => match ps.find? fun p => autoErr s p.loc false false with
    | some p => some (finish (errEvent s p.loc 0 2) c cECC 0)
    | none => none

/-- A WAIT VALUE's next read is sent, volatile at its SCOPE, once its address is translated and its target powered (R66, R274). -/
def sendPoll (s : State) (c : Nat) (x : Stream) : State :=
  match preLeaves s c 0 (dVa x.desc 2) (wSize x.desc) with
  | (s, none) => s
  | (s, some es) =>
    let ps := pollPieces s x es
    match pollRefused s c ps with
    | some s => s
    | none =>
      match ps.find? fun p => !locReady s p.loc with
      | some p => locNeed s p.loc
      | none => modStream (sendReads s c (dPrio x.desc) (pollSize x) true (wScope x.desc) (ps.map (·.loc))) c
          fun x => { x with wait := .value true }

/-- WAIT_VALUE (R66): the WAIT starts and its first read is sent. -/
def execWaitValue (c : Ch) (s : State) : Host.Outcome State Fault Refusal :=
  match waitOp s c.val 1 with
  | none => .next s
  | some x => .next (sendPoll (beginWait s c.val (.value false)) c.val x)

/-- The code check of the stage words that a WAIT VALUE reads, a hole's event, and whether a word is uncorrectable (R185, R193). -/
def pollStage (s : State) (c : Nat) (ps : List Piece) : State × Bool :=
  ps.foldl (fun acc p => match p.loc with
    | .stage o =>
      let lane := (chanCfg acc.1 c).mover
      if inFenced acc.1 o lane then acc
      else if (poolOf acc.1 o).isNone then (holeEvent acc.1 o lane, acc.2)
      else
        let r := stageProbe acc.1 (o / 128 * 128) (BitVec.ofNat 128 ((2 ^ p.size - 1) * 2 ^ (o % 128))) lane
        (r.1, acc.2 || r.2)
    | _ => acc) (s, false)

/-- The failures of a WAIT VALUE's parts that its answer names. -/
def pollFails : PollAns → List (RdErr × Nat)
  | .okay _ => []
  | .fails e k more => (e, k.val) :: more.map fun f => (f.1, f.2.val)

/-- The value that the ports answer a WAIT VALUE with. -/
def pollWord : PollAns → Nat
  | .okay v => v.toNat
  | .fails .. => 0

/-- Bytes `i` to `i + n` of a WAIT VALUE's read, in its part `k`. -/
def partBytes (s : State) (x : Stream) (es : List XEnt) (pk : Option (Nat × LineData)) (p : Piece) (i v : Nat) : List Byte :=
  (List.range p.size).map fun k => readByte s pk (some p.loc) es (dVa x.desc 2 + i + k) (BitVec.ofNat 8 (v / 2 ^ (8 * (i + k))))

/-- Whether a WAIT VALUE's read is of two lines of stage memory, which are two accesses and two steps (R268). -/
def twoStage (ps : List Piece) : Bool :=
  decide (1 < ps.length) && ps.all fun p => match p.loc with | .stage _ => true | _ => false

/-- The value of a WAIT VALUE whose parts are all read: the bytes of a first stage part come from an earlier step. -/
def pollValue (s : State) (x : Stream) (es : List XEnt) (pks : List (Option (Nat × LineData))) (ps : List Piece) (v : Nat) : Nat :=
  let a := (ps.map (·.size)).headD 0
  let low := match x.wait with
    | .valueHigh l => l
    | _ => ((ps.take 1).map fun p => partBytes s x es (pks.getD 0 none) p 0 v).flatten
  leNat (low ++ ((ps.drop 1).map fun p => partBytes s x es (pks.getD 1 none) p a v).flatten)

/-- The answer of a WAIT VALUE's read: its value, or the code and DETAIL of the first failure, each failing part with its event; none
while a part of it is missing. -/
def pollAns (s : State) (c : Nat) (x : Stream) (es : List XEnt) (a : PollAns) : State × Option (Except (Nat × Nat) Nat) :=
  let ps := pollPieces s x es
  let locs := ps.map (·.loc)
  let fs := lineFails locs (pollFails a)
  let first := match x.wait with | .valueHigh _ => false | _ => twoStage ps && fs.isEmpty
  if !remoteSent s c locs then (modStream (pollsGone s c) c fun x => { x with wait := .value false }, none)
  else if readWaits s c locs fs then (s, none)
  else if first then
    let r := pollStage s c (ps.take 1)
    if r.2 then (recDone r.1 c [], some (.error (cECC, 0)))
    else
      let low := ((ps.take 1).map fun p => partBytes r.1 x es none p 0 0).flatten
      (modStream r.1 c fun x => { x with wait := .valueHigh low }, none)
  else
    let far := remoteFails s c (dPrio x.desc) 0 locs
    let pks := (List.range locs.length).map (pollPkt s c)
    let s := failEvents (recDone s c (latePlaces fs)) locs fs
    let s := if (latePlaces fs).isEmpty then s else timeoutEvent s c
    let r := pollStage s c (match x.wait with | .valueHigh _ => ps.drop 1 | _ => ps)
    let fail := if r.2 then some (cECC, 0, true)
      else match far with
        | some e => some e
        | none => fs.head?.map fun f => rdFail 0 f.1
    match fail with
    | some (code, d, _) => (r.1, some (.error (code, d)))
    | none => (r.1, some (.ok (pollValue r.1 x es pks ps (pollWord a))))

/-- WAIT_VALUE_POLL (R66): a read returns; the WAIT completes when the comparison holds, and reads again otherwise. A read that has not been
sent yet, for want of a translation, is sent. -/
def execWaitValuePoll (c : Ch) (a : PollAns) (s : State) : Host.Outcome State Fault Refusal :=
  match waiting s c.val fun w => (match w with | .value _ => true | .valueHigh _ => true | _ => false) with
  | none => .next s
  | some x =>
    if x.wait == .value false then .next (sendPoll s c.val x)
    else match preLeaves s c.val 0 (dVa x.desc 2) (wSize x.desc) with
    | (s, none) => .next s
    | (s, some es) =>
      match pollRefused s c.val (pollPieces s x es) with
      | some s => .next s
      | none =>
        if anyGate s ((pollPieces s x es).map (·.loc)) then .next s
        else
          let r := pollAns s c.val x es a
          match r.2 with
          | none => .next r.1
          | some (.error e) => .next (finish r.1 c.val e.1 e.2)
          | some (.ok v) =>
            if waitCmp x.desc v then .next (finish r.1 c.val cOK 0)
            else .next (sendPoll (modStream r.1 c.val fun x => { x with wait := .value false }) c.val x)

/-- Write the handle that a POP has taken to its address. -/
def popIssue (s : State) (c : Nat) (x : Stream) (h : W32) : State :=
  match ctlLeaves s c (dVa x.desc 2) 4 with
  | (s, none) => s
  | (s, some es) => issueCtl s c x .popWrite (piecesOf s es (dVa x.desc 2) 4 h.toNat) 0 fun id => .popWrite id

/-- A POP that has not started: refused, or waiting in the queue's order; it may take a handle at once. -/
def popStart (s : State) (c : Nat) (x : Stream) : State :=
  let q := wHq x.desc
  let y := hq s q
  if !chanSecure s c && !y.ns then worldRefuse s c q
  else if !y.en then refuseStream s c 11
  else match ctlLeaves s c (dVa x.desc 2) 4 with
    | (s, none) => s
    | (s, some es) =>
      let ps := piecesOf s es (dVa x.desc 2) 4 0
      if ps.any fun p => absentCore s p.loc then refuseStream s c 6
      else match ps.find? fun p => worldBad s c p.loc with
        | some p => finish (notice s 4 1 c (locPa s p.loc) 0) c cWORLD 1
        | none => hqSettle 1024 (beginWait s c (.pop none)) q

/-- POP (R66, R171, R173): the POP waits for a handle, and once it has one writes it. -/
def execPop (c : Ch) (s : State) : Host.Outcome State Fault Refusal :=
  let s := match waitOp s c.val 2 with
    | some x => popStart s c.val x
    | none => s
  match waiting s c.val fun w => (match w with | .pop (some _) => true | _ => false) with
  | none => .next s
  | some x =>
    match x.wait with
    | .pop (some h) => .next (popIssue s c.val x h)
    | _ => .next s

/-- Whether a ring's fill lets a WAIT FILLED or FREE complete (R162). -/
def ringHolds (y : Ring) (free : Bool) : Bool := if free then decide (y.fill + 1 ≤ ringN y) else decide (1 ≤ y.fill)

/-- A WAIT FILLED or FREE starts (R162, R170). A disabled or faulted ring refuses it with Table 07-1's reason (DEDUCED, log
25). -/
def ringWait (s : State) (c : Nat) (x : Stream) (free : Bool) : State :=
  let r := wRing x.desc
  let y := ring s r
  if !chanSecure s c && !y.ns then worldRefuse s c r
  else if !y.en || y.fault then refuseStream s c 11
  else if ringHolds y free then finish s c cOK 0
  else beginWait s c (if free then .free r else .filled r)

/-- A waiting FILLED or FREE observes its ring again, in the world that the ring then has (R162, R325). -/
def ringAgain (s : State) (c : Nat) (x : Stream) (free : Bool) : State :=
  let r := wRing x.desc
  if hubWorldBad s c (ringSecure s r) then worldRefuse s c r
  else if ringHolds (ring s r) free then finish s c cOK 0 else s

/-- FILLED (R162): the WAIT starts, or observes the ring again. -/
def execFilled (c : Ch) (s : State) : Host.Outcome State Fault Refusal :=
  match waitOp s c.val 3 with
  | some x => .next (ringWait s c.val x false)
  | none =>
    match waiting s c.val fun w => (match w with | .filled _ => true | _ => false) with
    | some x => .next (ringAgain s c.val x false)
    | none => .next s

/-- FREE (R162). -/
def execFree (c : Ch) (s : State) : Host.Outcome State Fault Refusal :=
  match waitOp s c.val 4 with
  | some x => .next (ringWait s c.val x true)
  | none =>
    match waiting s c.val fun w => (match w with | .free _ => true | _ => false) with
    | some x => .next (ringAgain s c.val x true)
    | none => .next s

/-- Whether a wait of a WAIT descriptor has not met its condition. A POP that has its handle has (R173). -/
def unmet (s : State) (x : Stream) : Bool :=
  match x.wait with
  | .barrier _ _ _ => true
  | .value _ => true
  | .valueHigh _ => true
  | .pop none => true
  | .filled r => !ringHolds (ring s r) false
  | .free r => !ringHolds (ring s r) true
  | _ => false

/-- The ring that a WAIT FILLED or FREE waits at. -/
def waitRing (x : Stream) : Option Nat :=
  match x.wait with
  | .filled r => some r
  | .free r => some r
  | _ => none

/-- WAIT_TIMEOUT (R66, R162, R173): a condition that holds in the same A-cycle wins; a TIMEOUT of 0 never expires. A ring that has turned
secure meanwhile refuses a non-secure waiter (R325). -/
def execWaitTimeout (c : Ch) (s : State) : Host.Outcome State Fault Refusal :=
  match waiting s c.val (fun _ => true) with
  | none => .next s
  | some x =>
    if dType x.desc != 6 || wTimeout x.desc == 0 then .next s
    else match waitRing x with
      | some r =>
        if hubWorldBad s c.val (ringSecure s r) then .next (worldRefuse s c.val r)
        else .next (finish s c.val (if unmet s x then cTIMEOUT else cOK) 0)
      | none => .next (if unmet s x then finish s c.val cTIMEOUT 0 else s)

/-- A DEP of kind `k` that has not started. -/
def depOp (s : State) (c k : Nat) : Option Stream :=
  match fresh s c 7 with
  | some x => if tw x.desc 0 4 = k then some x else none
  | none => none

/-- Wait with `w` while `busy`, report a late error, or act and complete. -/
def orderOp (s : State) (c : Nat) (p : Nat → Nat → Bool) (w : Wait) (act : State → State) : State :=
  match lateErr s c p with
  | some e => act (reportLate s c e)
  | none =>
    if writesOut s c p then
      match stream s c with
      | some x => if x.wait == w then s else beginWait s c w
      | none => s
    else act (finish s c cOK 0)

/-- DRAIN (R67, R380). -/
def execDrain (c : Ch) (s : State) : Host.Outcome State Fault Refusal :=
  let go := (depOp s c.val 0).isSome || (waiting s c.val (· == .drain)).isSome
  if go then .next (orderOp s c.val (fun _ _ => true) .drain id) else .next s

/-- Whether a channel's SEQ has reached a count, as a signed difference (R67). -/
def seqReached (s : State) (t count : Nat) : Bool := decide (0 ≤ sext (((chan s t).seq - BitVec.ofNat 16 count).toNat) 16)

/-- DEP_CHANNEL (R67): refused for a channel that is DISABLED or of the other world. -/
def execDepChannel (c : Ch) (s : State) : Host.Outcome State Fault Refusal :=
  match depOp s c.val 1 with
  | some x =>
    let t := dW x.desc 2 0 9
    if chState s t == .disabled || chanSecure s t != chanSecure s c.val then .next (refuseStream s c.val 9)
    else if seqReached s t (dW x.desc 2 16 16) then .next (finish s c.val cOK 0)
    else .next (beginWait s c.val .chan)
  | none =>
    match waiting s c.val (· == .chan) with
    | some x =>
      if dType x.desc == 7 && seqReached s (dW x.desc 2 0 9) (dW x.desc 2 16 16) then .next (finish s c.val cOK 0) else .next s
    | none => .next s

/-- DEP_BARRIER (R67, R284, R285): it holds at the next release. -/
def execDepBarrier (c : Ch) (s : State) : Host.Outcome State Fault Refusal :=
  match depOp s c.val 2 with
  | none => .next s
  | some x =>
    match barUse s c.val (dpBvid x.desc) with
    | .error s => .next s
    | .ok o => .next (barWait s c.val o (bar s o).epoch true)

/-! ### FENCE -/

/-- A FENCE of kind `k` that has not started, or a fence that waits. -/
def fenceOp (s : State) (c k : Nat) : Option Stream :=
  match fresh s c 8 with
  | some x => if tw x.desc 2 2 = k then some x else none
  | none =>
    match waiting s c fun w => (match w with | .fence _ => true | _ => false) with
    | some x => if tw x.desc 2 2 = k then some x else none
    | none => none

/-- A RELEASE or FULL fence (R271, R272, R380): the covered writes of Table 12-2, and a count-back point. -/
def fenceWait (s : State) (c : Nat) (x : Stream) : State :=
  let scope := tw x.desc 0 2
  orderOp s c (fun _ cls => decide (cls ≤ scope)) (.fence scope) fun s => countBack s c

/-- FENCE_RELEASE (R271). -/
def execFenceRelease (c : Ch) (s : State) : Host.Outcome State Fault Refusal :=
  match fenceOp s c.val 0 with
  | none => .next s
  | some x => .next (fenceWait s c.val x)

/-- FENCE_ACQUIRE (R271): every earlier descriptor has completed when it starts. -/
def execFenceAcquire (c : Ch) (s : State) : Host.Outcome State Fault Refusal :=
  match fenceOp s c.val 1 with
  | none => .next s
  | some _ => .next (countBack (finish s c.val cOK 0) c.val)

/-- FENCE_FULL (R271). -/
def execFenceFull (c : Ch) (s : State) : Host.Outcome State Fault Refusal :=
  match fenceOp s c.val 2 with
  | none => .next s
  | some x => .next (fenceWait s c.val x)

/-! ### REARM (R59, R68, R167) -/

/-- A REARM that has not started, with or without STOP. -/
def rearmOp (s : State) (c : Nat) (stop : Bool) : Option Stream :=
  match fresh s c 9 with
  | some x => if rStop x.desc == stop then some x else none
  | none => none

/-- The target's stream, if it is PARKED in the same context. -/
def rearmTarget (s : State) (c t : Nat) : Option Stream :=
  if chState s t == .parked && (chanCfg s t).ctx == (chanCfg s c).ctx then stream s t else none

/-- Checks of the bases that WHICH selects. -/
def rearmFails (d : DescData) (y : Stream) : List Nat :=
  let w := rWhich d
  let tensor := dType y.desc == 2
  chk (!tensor && decide (4 ≤ w)) 5
    ++ chk (tensor && w / 4 % 2 == 1 && (tIndex y.desc == 0 || dVa d 4 == 0)) 5
    ++ chk (tensor && w / 8 % 2 == 1 && (tScale y.desc == 0 || dVa d 5 == 0)) 5

/-- REARM (R59, R68): once the record of the target's run before is acknowledged, the selected bases are replaced and the target's next
run starts; its acceptance is a trigger of R190. A target that is DISABLED or of the other world fits DETAIL 7 and DETAIL 9 of Table
03-19 alike, as it is not PARKED or not of the context: it has 7 (DESIGN CHOICE, log 6). -/
def execRearm (c : Ch) (s : State) : Host.Outcome State Fault Refusal :=
  match rearmOp s c.val false with
  | none => .next s
  | some x =>
    let t := rTchan x.desc
    match rearmTarget s c.val t with
    | none => .next (refuseStream s c.val 7)
    | some y =>
      if !(rearmFails x.desc y).isEmpty then .next (refuseStream s c.val 5)
      else if (chan s t).recOut.isSome then .next s
      else
        let w := rWhich x.desc
        let y' := { y with
          src := if w % 2 = 1 then dVa x.desc 2 else y.src
          dst := if w / 2 % 2 = 1 then dVa x.desc 3 else y.dst
          index := if w / 4 % 2 = 1 then dVa x.desc 4 else y.index
          scale := if w / 8 % 2 = 1 then dVa x.desc 5 else y.scale }
        let s := setChan s t { chan s t with st := .running, stream := some y' }
        .next (poolRearm (needMover (finish s c.val cOK 0) (chanCfg s t).mover) t)

/-- REARM_STOP (R59, R68): the parked descriptor ends without a record, once the record of its last run is acknowledged, and its channel
goes on in its list. Whether its channel's next persistent descriptor may reserve on the ring, of which R167 says that the channel takes no
further reservations, is open: it may (DESIGN CHOICE, log 25). -/
def execRearmStop (c : Ch) (s : State) : Host.Outcome State Fault Refusal :=
  match rearmOp s c.val true with
  | none => .next s
  | some x =>
    let t := rTchan x.desc
    match rearmTarget s c.val t with
    | none => .next (refuseStream s c.val 7)
    | some y =>
      if (chan s t).recOut.isSome then .next s
      else
      let nonp : Stream := { y with desc := y.desc &&& ~~~(1#512 <<< 12) }
      let s := setChan s t { chan s t with st := .running }
      .next (poolRearm (moveOn (finish s c.val cOK 0) t nonp cOK false) t)

/-! ### MAILBOX (R69, R269, R297) -/

/-- The words are there: the mailbox is filled, or the descriptor waits or is refused. -/
def mbPost (s : State) (c : Nat) (x : Stream) (ws : List W32) : State :=
  let m := tw x.desc 0 5
  if !(mb s m).go then mbFill s c x ws
  else if bitOf x.desc 44 then beginWait s c (.mailbox ws)
  else refuseStream s c 8

/-- MAILBOX (R69, R269 item 4, R344): words from the descriptor, or read from SRC once the mailbox's world is checked (R322). -/
def execMailbox (c : Ch) (words : RecAns) (s : State) : Host.Outcome State Fault Refusal :=
  match fresh s c.val 10 with
  | none => .next s
  | some x =>
    let len := tw x.desc 5 5
    let post := fun s =>
      if hubWorldBad s c.val (mbSecure s (tw x.desc 0 5)) then worldRefuse s c.val (tw x.desc 0 5)
      else if bitOf x.desc 42 then mbPost s c.val x []
      else match recRead s c.val 0 (mbSrc x.desc) (4 * len) (some words) 4 0 with
        | (s, none) => s
        | (s, some (.error e)) => recFail s c.val e
        | (s, some (.ok bs)) => mbPost s c.val x ((List.range len).map fun k => BitVec.ofNat 32 (leAt bs (4 * k) 4))
    if bitOf x.desc 43 then .next (handOff s c.val post) else .next (post s)

/-! ### ADVISE (R70, R259, R260) -/

/-- An ADVISE of operation `op` that has not started. -/
def advOp (s : State) (c op : Nat) : Option Stream :=
  match fresh s c 11 with
  | some x => if tw x.desc 0 4 = op then some x else none
  | none => none

/-- Advice kinds of Table 11-3: 8 PREFETCH, 9 EVICT. -/
def adviceKind (op : Nat) : Nat := 8 + op

/-- An advice record joins the records that wait for space (R260). -/
def advise (s : State) (c op : Nat) (x : Stream) : State :=
  let k := (chanCfg s c).ctx
  let va := dVa x.desc 2
  let id := s.xl.nextWalk
  let r : Req := ⟨c, 7, false, va, false⟩
  let f : FRec := ⟨adviceKind op, 0, aLen x.desc, 0, 0, [r], putBit 0 k true⟩
  let w : Walk := ⟨id, 0, (ctx s k).asid, k, va, 0, 0, 0, true, [r], .holding, true, some f⟩
  let s := { s with xl := { s.xl with walks := s.xl.walks ++ [w], nextWalk := id + 1 } }
  beginWait s c (.advice (2 * id))

/-- PREFETCH (R260). -/
def execPrefetch (c : Ch) (s : State) : Host.Outcome State Fault Refusal :=
  match advOp s c.val 0 with
  | none => .next s
  | some x => .next (advise s c.val 0 x)

/-- EVICT (R260). -/
def execEvict (c : Ch) (s : State) : Host.Outcome State Fault Refusal :=
  match advOp s c.val 1 with
  | none => .next s
  | some x => .next (advise s c.val 1 x)

/-- Regions of an ADVISE's range. -/
def advRegions (x : Stream) : Nat := (dVa x.desc 2 + aLen x.desc - 1) / 2 ^ 25 - dVa x.desc 2 / 2 ^ 25 + 1

/-- WARM (R259): its next region is looked up as a read, and a miss walks; once every region is done it completes. -/
def execWarm (c : Ch) (s : State) : Host.Outcome State Fault Refusal :=
  let s := match advOp s c.val 2 with
    | some _ => beginWait s c.val (.warm 0)
    | none => s
  match waiting s c.val fun w => (match w with | .warm _ => true | _ => false) with
  | none => .next s
  | some x =>
    match x.wait with
    | .warm n =>
      if advRegions x ≤ n then .next (finish s c.val cOK 0)
      else
        let va := (if n = 0 then dVa x.desc 2 else 2 ^ 25 * (dVa x.desc 2 / 2 ^ 25 + n)) % 2 ^ 49
        if walkPending s c.val (va / 2 ^ 25) then .next s
        else
          let r := lookup s (chanCfg s c.val).ctx [⟨c.val, 7, false, va, true⟩]
          match r.2 with
          | some _ => .next (modStream r.1 c.val fun x => { x with wait := .warm (n + 1) })
          | none => .next r.1
    | _ => .next s

/-- Whether a TLB entry maps any byte of a range of `n` regions from region `r0`, modulo 2^24 regions. -/
def entryMeets (t : TlbEnt) (r0 n : Nat) : Bool :=
  decide ((t.page + 2 ^ 24 - r0) % 2 ^ 24 < n) || decide ((r0 + 2 ^ 24 - t.page) % 2 ^ 24 < leafSpan t.leaf.level)

/-- COLD (R259). -/
def execCold (c : Ch) (s : State) : Host.Outcome State Fault Refusal :=
  match advOp s c.val 3 with
  | none => .next s
  | some x =>
    let asid := (ctx s (chanCfg s c.val).ctx).asid
    let keep := s.xl.tlb.filter fun t => !(t.asid == asid && entryMeets t (dVa x.desc 2 / 2 ^ 25) (advRegions x))
    .next (finish { s with xl := { s.xl with tlb := keep } } c.val cOK 0)

end Sys2Proof.Machine
end

