-- ==== Sys2Proof/Machine/Whirl.lean ====
section
/-! DEFINITION. The Whirligig machine (R64, R106 to R108, Table 04-5). Each command executes the instruction at PC, if it is
the one the command names, the program has not stopped, and fewer than 16 runs are ahead of line issue: those whose tiles are still to be
formed, and those with a tile that has not issued its last read line. -/

namespace Sys2Proof.Machine

/-- A machine that starts a program (R106). -/
def whirlInit (d : DescData) (prog : List W64) : Whirl :=
  { prog := prog
    g := #v[BitVec.ofNat 32 (dW d 5 0 32), BitVec.ofNat 32 (dW d 5 32 32), BitVec.ofNat 32 (dW d 6 0 32),
            BitVec.ofNat 32 (dW d 6 32 32), 0, 0, 0, 0]
    pc := 0, emits := 0, quiet := 0, written := 0, runs := [], made := 0, stopped := false }

/-- Register G[k]. -/
def greg (w : Whirl) (k : Nat) : W32 := w.g.toList.getD k 0

/-- Write G[k]. -/
def gset (w : Whirl) (k : Nat) (v : W32) : Whirl := { w with g := w.g.setIfInBounds k v }

/-- A WHIRL whose program may execute. While its context is switched out no tile is formed any more (R77), but a program under
FINAL goes on until it is known whether the last tile formed holds the held line (R58, R104; DEDUCED, log 39). -/
def whirlLive (s : State) (c : Nat) : Option Stream :=
  let p := fun (x : Stream) => x.st == .started && dType x.desc == 4
  match acting s c p with
  | some x => some x
  | none =>
    if operating s && chState s c == .running && (ctx s (chanCfg s c).ctx).st == .switching then
      match stream s c with
      | some x =>
        let undecided := match x.whirl with | some w => w.runs.isEmpty | none => false
        if x.slot && p x && dFinal x.desc && undecided && x.tiles.any (·.walked) then some x else none
      | none => none
    else none

/-- Runs of a program that line issue has not passed (R108). The rule does not say which line issue counts: a run counts until its last
read line has issued (DESIGN CHOICE, log 39). -/
def runsAhead (x : Stream) (w : Whirl) : Nat :=
  let waiting := (List.range w.runs.length).map fun k => w.made - w.runs.length + k
  let walking := (x.tiles.filter fun t => !t.walked || t.groups.any fun g => !g.toRead.isEmpty).map (·.run)
  (dedup (waiting ++ walking)).length

/-- The stream, machine and instruction of a channel whose program is about to execute opcode `op`. -/
def whirlAt (s : State) (c op : Nat) : Option (Stream × Whirl × W64) :=
  match whirlLive s c with
  | none => none
  | some x =>
    match x.whirl with
    | none => none
    | some w =>
      match w.prog[w.pc]? with
      | none => none
      | some i =>
        if w.stopped || decide (16 ≤ runsAhead x w) || decide (65536 ≤ w.quiet) || iOp i != op then none else some (x, w, i)

/-- The instruction at `w` leaves the machine in `w'` with the next PC: the program stops there when PC passes NINST or
LIMIT EMITs are made. -/
def whirlStop (d : DescData) (w : Whirl) : Whirl :=
  if w.prog.length ≤ w.pc ∨ wLimit d ≤ w.emits then { w with stopped := true } else w

/-- An instruction other than EMIT and HALT: `f` gives the machine after its effect and whether it branched to IMM[4:0]. -/
def whirlOp (s : State) (c op : Nat) (f : Whirl → W64 → Whirl × Bool) : State :=
  match whirlAt s c op with
  | none => s
  | some (x, w, i) =>
    let r := f w i
    let w' := { r.1 with pc := if r.2 then iImm i % 32 else w.pc + 1, quiet := w.quiet + 1 }
    setStream s c { x with whirl := some (whirlStop x.desc w') }

/-- An instruction that writes G[RD] and goes on. -/
def whirlAlu (s : State) (c op : Nat) (f : W32 → W32 → W32 → W32) : State :=
  whirlOp s c op fun w i => (gset w (iRd i) (f (greg w (iRa i)) (greg w (iRb i)) (BitVec.ofNat 32 (iImm i))), false)

/-- The low `n` bits reversed, upper bits 0. -/
def bitReverse (n : Nat) (v : W32) : W32 := BitVec.ofNat 32 (digitReverse 2 n (v.toNat % 2 ^ n))

/-- The low `n` digits of `m` bits in reverse digit order, upper bits 0. -/
def digReverse (n m : Nat) (v : W32) : W32 := BitVec.ofNat 32 (digitReverse (2 ^ m) n (v.toNat % 2 ^ (n * m)))

/-- WH_HALT (R107). -/
def execWhHalt (c : Ch) (s : State) : Host.Outcome State Fault Refusal :=
  match whirlAt s c.val 0x00 with
  | none => .next s
  | some (x, w, _) => .next (setStream s c.val { x with whirl := some { w with stopped := true } })

/-- MOVI (R106). -/
def execWhMovi (c : Ch) (s : State) : Host.Outcome State Fault Refusal :=
  .next (whirlAlu s c.val 0x01 fun _ _ k => k)

/-- ADD (R106). -/
def execWhAdd (c : Ch) (s : State) : Host.Outcome State Fault Refusal :=
  .next (whirlAlu s c.val 0x02 fun a b _ => a + b)

/-- ADDI (R106). -/
def execWhAddi (c : Ch) (s : State) : Host.Outcome State Fault Refusal :=
  .next (whirlAlu s c.val 0x03 fun a _ k => a + k)

/-- SUB (R106). -/
def execWhSub (c : Ch) (s : State) : Host.Outcome State Fault Refusal :=
  .next (whirlAlu s c.val 0x04 fun a b _ => a - b)

/-- MULI (R106). -/
def execWhMuli (c : Ch) (s : State) : Host.Outcome State Fault Refusal :=
  .next (whirlAlu s c.val 0x05 fun a _ k => a * k)

/-- AND (R106). -/
def execWhAnd (c : Ch) (s : State) : Host.Outcome State Fault Refusal :=
  .next (whirlAlu s c.val 0x06 fun a b _ => a &&& b)

/-- OR (R106). -/
def execWhOr (c : Ch) (s : State) : Host.Outcome State Fault Refusal :=
  .next (whirlAlu s c.val 0x07 fun a b _ => a ||| b)

/-- XOR (R106). -/
def execWhXor (c : Ch) (s : State) : Host.Outcome State Fault Refusal :=
  .next (whirlAlu s c.val 0x08 fun a b _ => a ^^^ b)

/-- SHLI (R106). -/
def execWhShli (c : Ch) (s : State) : Host.Outcome State Fault Refusal :=
  .next (whirlAlu s c.val 0x09 fun a _ k => a <<< (k.toNat % 32))

/-- SHRI (R106). -/
def execWhShri (c : Ch) (s : State) : Host.Outcome State Fault Refusal :=
  .next (whirlAlu s c.val 0x0A fun a _ k => a >>> (k.toNat % 32))

/-- SARI (R106). -/
def execWhSari (c : Ch) (s : State) : Host.Outcome State Fault Refusal :=
  .next (whirlAlu s c.val 0x0B fun a _ k => a.sshiftRight (k.toNat % 32))

/-- BREV (R106). -/
def execWhBrev (c : Ch) (s : State) : Host.Outcome State Fault Refusal :=
  .next (whirlAlu s c.val 0x0C fun a _ k => bitReverse (if k.toNat % 32 = 0 then 32 else k.toNat % 32) a)

/-- DREV (R106). -/
def execWhDrev (c : Ch) (s : State) : Host.Outcome State Fault Refusal :=
  .next (whirlAlu s c.val 0x0D fun a _ k => digReverse (k.toNat % 32) (k.toNat / 256 % 4) a)

/-- EMIT (R107): a run of G[RD] pairs joins the runs that tiles are formed from, cut where the bytes written would pass
2^40 − 1. -/
def execWhEmit (c : Ch) (s : State) : Host.Outcome State Fault Refusal :=
  match whirlAt s c.val 0x10 with
  | none => .next s
  | some (x, w, i) =>
    let n := (greg w (iRd i)).toNat
    let db := fmtBits (dDfmt x.desc) / 8
    let room := (2 ^ 40 - 1 - w.written) / max 1 db
    let k := min n room
    let run := (sext (greg w (iRa i)).toNat 32, sext (greg w (iRb i)).toNat 32, k)
    let w' := { w with
      pc := w.pc + 1, emits := w.emits + 1, quiet := 0, written := w.written + k * db
      runs := if k = 0 then w.runs else w.runs ++ [run], made := if k = 0 then w.made else w.made + 1, stopped := decide (room < n) }
    .next (setStream s c.val { x with whirl := some (whirlStop x.desc w') })

/-- DJNZ (R106). -/
def execWhDjnz (c : Ch) (s : State) : Host.Outcome State Fault Refusal :=
  .next (whirlOp s c.val 0x11 fun w i =>
    let v := greg w (iRa i) - 1
    (gset w (iRa i) v, v != 0))

/-- BLT (R106): signed. -/
def execWhBlt (c : Ch) (s : State) : Host.Outcome State Fault Refusal :=
  .next (whirlOp s c.val 0x12 fun w i => (w, (greg w (iRa i)).slt (greg w (iRb i))))

/-- BNE (R106). -/
def execWhBne (c : Ch) (s : State) : Host.Outcome State Fault Refusal :=
  .next (whirlOp s c.val 0x13 fun w i => (w, greg w (iRa i) != greg w (iRb i)))

/-- JMP (R106). -/
def execWhJmp (c : Ch) (s : State) : Host.Outcome State Fault Refusal :=
  .next (whirlOp s c.val 0x14 fun w _ => (w, true))

/-- WHIRL_QUIET_STOP (R107): 65,536 instructions in a row without an EMIT end the program as a HALT does. -/
def execWhirlQuietStop (c : Ch) (s : State) : Host.Outcome State Fault Refusal :=
  match whirlLive s c.val with
  | none => .next s
  | some x =>
    match x.whirl with
    | none => .next s
    | some w =>
      if 65536 ≤ w.quiet ∧ !w.stopped then .next (setStream s c.val { x with whirl := some { w with stopped := true } })
      else .next s

end Sys2Proof.Machine
end

