-- ==== Sys2Proof/Machine/Starts.lean ====
section
/-! DEFINITION. How data descriptors start and how their tiles come about: slots of bound runs (R164 to R167), the reads that
precede tiles (R62 to R64, R100, R102, R106), tile generation (R86 to R88, R99, R107) and the pre-walk (R22, R100, R101,
R251). -/

namespace Sys2Proof.Machine

/-! ### Bound runs (R163 to R167) -/

/-- The enabled ring whose producer or consumer side a channel is bound to. -/
def boundRing (s : State) (c : Nat) (prod : Bool) : Option Nat :=
  (tkeys s.hub.rings).find? fun r => (ring s r).en && (boundChans (ring s r) prod).contains c

/-- Whether automatic binding acts on a stream: a persistent MOVE or TENSOR (R164). -/
def bindable (x : Stream) : Bool := dPersist x.desc && (dType x.desc == 1 || dType x.desc == 2)

/-- The sides on which a run has still to reserve its slot, true for the producer side. -/
def sidesLeft (s : State) (c : Nat) (x : Stream) : List Bool :=
  if bindable x then
    (if x.slotP.isNone && (boundRing s c true).isSome then [true] else [])
      ++ (if x.slotC.isNone && (boundRing s c false).isSome then [false] else [])
  else []

/-- Whether a channel's turn has come on a side of a ring and the side has room (R164). A ring with FAULT set takes no
reservation (DEDUCED, log 25). -/
def canReserve (s : State) (c : Nat) (prod : Bool) : Bool :=
  match boundRing s c prod with
  | none => false
  | some r =>
    let y := ring s r
    let n := ringN y
    !y.fault &&
    (if prod then
      y.pchan + y.ordP % (y.pwm1 + 1) == c && decide (y.fill + (y.pres + n - y.tail) % n < n)
    else
      y.cchan + y.ordC % (y.cwm1 + 1) == c && decide ((y.cres + n - y.head) % n < y.fill))

/-- Reserve the next slot of a side for a run: PRES or CRES advances. -/
def reserveSide (s : State) (c : Nat) (prod : Bool) : State :=
  match boundRing s c prod with
  | none => s
  | some r =>
    let y := ring s r
    if prod then
      modStream (setRing s r { y with pres := (y.pres + 1) % ringN y, ordP := y.ordP + 1, resP := y.resP ++ [(y.ordP, false)] }) c
        fun x => { x with slotP := some (r, y.ordP, y.pres) }
    else
      modStream (setRing s r { y with cres := (y.cres + 1) % ringN y, ordC := y.ordC + 1, resC := y.resC ++ [(y.ordC, false)] }) c
        fun x => { x with slotC := some (r, y.ordC, y.cres) }

/-- Whether a side's ring is of a world that the channel may not reach (R170). -/
def sideWorldBad (s : State) (c : Nat) (prod : Bool) : Bool :=
  match boundRing s c prod with
  | some r => !chanSecure s c && ringSecure s r
  | none => false

/-- BOUND_RUN_RESERVE (R164, R167, R170): a run reserves on each side whose turn and room allow it. A PARKED bound channel
leaves PARKED when its next run can reserve all its slots, once the record of the run before is acknowledged (R59). -/
def execBoundRunReserve (c : Ch) (s : State) : Host.Outcome State Fault Refusal :=
  let c := c.val
  let parked := chState s c == .parked
  if !operating s || !ctxRuns s c || !(parked || chState s c == .running) || (chan s c).recOut.isSome then .next s
  else
    match stream s c with
    | none => .next s
    | some x =>
      let sides := sidesLeft s c x
      if x.st != .decoded || !x.slot || sides.isEmpty then .next s
      else if parked && !(sides.all (canReserve s c)) then .next s
      else
        let s := if parked then needMover (setChan s c { chan s c with st := .running }) (chanCfg s c).mover else s
        if sides.any (sideWorldBad s c) then
          .next (worldRefuse s c ((boundRing s c ((sides.find? (sideWorldBad s c)).getD true)).getD 0))
        else .next (sides.foldl (fun s p => if canReserve s c p then reserveSide s c p else s) s)

/-- A run on both sides of whose rings every earlier run has issued its last read (R166). R166 does not say what becomes of the runs behind
one that failed before its last read line: their turn does not come (DESIGN CHOICE, log 25). -/
def readTurn (s : State) (x : Stream) : Bool :=
  (match x.slotP with | some (r, j, _) => decide (j ≤ (ring s r).issP) | none => true)
    && (match x.slotC with | some (r, j, _) => decide (j ≤ (ring s r).issC) | none => true)

/-- The run has issued its last read line: the next ordinal's may read (R166). -/
def markIssued (s : State) (c : Nat) : State :=
  match stream s c with
  | none => s
  | some x =>
    if x.last && x.tiles.all (fun t => t.walked && t.groups.all fun g => g.toRead.isEmpty) then
      let s := match x.slotP with
        | some (r, j, _) => if j = (ring s r).issP then setRing s r { ring s r with issP := j + 1 } else s
        | none => s
      match x.slotC with
      | some (r, j, _) => if j = (ring s r).issC then setRing s r { ring s r with issC := j + 1 } else s
      | none => s
    else s

/-! ### Starts -/

/-- A data descriptor of a type that may start: its slot is held and its bound sides are reserved. -/
def startable' (s : State) (c t : Nat) : Option Stream :=
  match fresh s c t with
  | some x => if (sidesLeft s c x).isEmpty then some x else none
  | none => none

/-- MOVE (R61, R86): the descriptor starts; its tiles follow. -/
def execMove (c : Ch) (s : State) : Host.Outcome State Fault Refusal :=
  match startable' s c.val 1 with
  | none => .next s
  | some x => .next (setStream s c.val { x with st := .started })

/-- The reading of a shape record, whose header gives its length. -/
def shapeRead (s : State) (c va : Nat) (a : RecAns) : State × Option (Except (Nat × Nat) (List Byte)) :=
  match (recRead s c 4 va 64 (some a) 6 4).2 with
  | some (.ok b) => recRead s c 4 va (shapeLen ((b.getD 0 0).toNat % 8 + 1)) (some a) 6 4
  | _ => recRead s c 4 va 64 (some a) 6 4

/-- The answer to the read of one line, at place `k` of a stream of lines whose answer `a` begins at byte `b` of the first. -/
def ansWindow (a : RecAns) (k b : Nat) : RecAns :=
  ⟨(List.range 128).map fun i => if 128 * k + i < b then 0 else a.bytes.getD (128 * k + i - b) 0,
   (a.fails.filter fun f => f.2 == k).map fun f => (f.1, 0)⟩

/-- Bytes of one index element. -/
def idxWidth (d : DescData) : Nat := 2 * 2 ^ tIdxw d

/-- The bytes of a line of an index stream or of a list, if it has been read. -/
def knownLine (x : Stream) (side line : Nat) : Option (List Byte) := (x.gknown.find? fun e => e.1 == 2 * line + side).map (·.2)

/-- Read the lines of an index stream or of a list that are still to be read, whole and in order (R88, R102): `none` while one is missing,
or the code and DETAIL of its failure. `base` is where the answer `a` begins; addresses are modulo 2^49 (R82). -/
def readLines (c opnd side base : Nat) (a : Stream → Option RecAns) (path wd : Nat) : List Nat → State → State × Option (Except (Nat × Nat) Unit)
  | [], s => (s, some (.ok ()))
  | line :: rest, s =>
    match stream s c with
    | none => (s, none)
    | some x =>
      if (knownLine x side line).isSome then readLines c opnd side base a path wd rest s
      else
        match recRead s c opnd (128 * line) 128 ((a x).map fun r => ansWindow r ((line + 2 ^ 42 - base % 2 ^ 49 / 128) % 2 ^ 42) (base % 128)) path wd with
        | (s, none) => (s, none)
        | (s, some (.error e)) => (s, some (.error e))
        | (s, some (.ok bs)) =>
          readLines c opnd side base a path wd rest (modStream s c fun x => { x with gknown := x.gknown ++ [(2 * line + side, bs)] })

/-- The stream of a data descriptor of a type that has started and whose reads wait for an answer after a retry (R75). -/
def answerDue (s : State) (c t : Nat) : Option Stream :=
  acting s c fun x => x.st == .started && dType x.desc == t
    && (if t = 2 then x.idxRaw.isNone && tIndex x.desc != 0 else x.sRaw.isNone || x.dRaw.isNone)

/-- TENSOR (R62, R74, R90, R101, R102, R113, R119, R134): the shape record is read and checked once, then the run starts. The answer to the
reads of its index stream is kept until a tile needs it, and given anew after a retry. -/
def execTensor (c : Ch) (shape : RecAns) (index : RecAns) (s : State) : Host.Outcome State Fault Refusal :=
  match startable' s c.val 2 with
  | none =>
    match answerDue s c.val 2 with
    | some x => .next (setStream s c.val { x with idxRaw := some index })
    | none => .next s
  | some x =>
    match x.shape with
    | some _ => .next (setStream s c.val { x with st := .started, idxRaw := some index })
    | none =>
      match shapeRead s c.val (tShape x.desc) shape with
      | (s, none) => .next s
      | (s, some (.error e)) => .next (recFail s c.val e)
      | (s, some (.ok bs)) =>
        let h := parseShape bs
        let fails := shapeFails s c.val x.desc bs
        if !fails.isEmpty then .next (refuseStream (bump s) c.val (pickDetail s fails))
        else
          match (if tIndex x.desc = 0 then pagesAtDecode x.desc h else none) with
          | some o => .next (finish s c.val cPAGES o)
          | none => .next (modStream s c.val fun x => { x with shape := some h, st := .started, idxRaw := some index })

/-- GATHER (R63, R87): the transfer starts. Its lists are read as R87 reaches their entries; the answers to those reads are kept until then,
and given anew after a retry. -/
def execGather (c : Ch) (slist : RecAns) (dlist : RecAns) (s : State) : Host.Outcome State Fault Refusal :=
  match startable' s c.val 3 with
  | some x => .next (setStream s c.val { x with st := .started, sRaw := some slist, dRaw := some dlist })
  | none =>
    match answerDue s c.val 3 with
    | some x => .next (setStream s c.val { x with sRaw := some slist, dRaw := some dlist })
    | none => .next s

/-- The instructions that a list of bytes spells. -/
def progWords (bs : List Byte) (n : Nat) : List W64 := (List.range n).map fun k => BitVec.ofNat 64 (leAt bs (8 * k) 8)

/-- WHIRL (R64, R106, R107): the program is read and checked once, then a run starts with fresh registers. Tables 03-18 and 15-3 name no
DETAIL of WORLD for the read of a program: it has 4, as a shape record and a list have (DESIGN CHOICE, log 6). -/
def execWhirl (c : Ch) (prog : RecAns) (s : State) : Host.Outcome State Fault Refusal :=
  match startable' s c.val 4 with
  | none => .next s
  | some x =>
    match x.whirl with
    | some w => .next (setStream s c.val { x with st := .started, whirl := some (whirlInit x.desc w.prog) })
    | none =>
      let n := wNinst x.desc + 1
      match recRead s c.val 6 (wProg x.desc) (8 * n) (some prog) 6 4 with
      | (s, none) => .next s
      | (s, some (.error e)) => .next (recFail s c.val e)
      | (s, some (.ok bs)) =>
        let p := progWords bs n
        let fails := programFails p
        if !fails.isEmpty then .next (refuseStream (bump s) c.val (pickDetail s fails))
        else .next (modStream s c.val fun x => { x with st := .started, whirl := some (whirlInit x.desc p) })

/-! ### Ends that wait for earlier tiles -/

/-- The generation of tiles ends with a code that waits for the tiles before (Table 03-18). -/
def endTiles (s : State) (c code detail : Nat) : State :=
  modStream s c fun x => { x with st := .ending code detail, last := true }

/-- A refused line stops the stream (R323): it issues nothing further, and completes with WORLD once its lines in flight are
done. -/
def worldStop (s : State) (c opnd : Nat) : State :=
  modStream (retireTiles s c) c fun x =>
    { x with st := .ending cWORLD opnd, last := true, tiles := x.tiles.filter tileDrained }

/-- A read that precedes a tile fails while tiles before it have moved. -/
def preFail (s : State) (c : Nat) (e : Nat × Nat) : State :=
  if e.1 = cSTATE then endTiles s c cSTATE e.2
  else if e.1 = cWORLD then worldStop s c e.2
  else endNow s c e.1 e.2

/-! ### Generation -/

/-- Bytes of destination that a tile's pairs write whole. -/
def tileBytes (x : Stream) (ps : List Pair) : Nat :=
  let w := dstW x.desc
  if fmtUnit (dDfmt x.desc) = 1 then dstBytes x.desc ps.length
  else match ps.head?, ps.getLast? with
    | some p, some q => if p.blk = [1] then 1 else (q.dst + w) / 8 - (p.dst + 7) / 8
    | _, _ => 0

/-- A new tile joins the stream's tiles, with its source lines in the order of the walk `walk` of its own elements (R99) and the number
of its run. -/
def addTileAs (x : Stream) (ps walk : List Pair) (run : Nat) : Stream :=
  { x with tno := x.tno + 1
           tiles := x.tiles ++ [{ no := x.tno, att := 0, run := run, pairs := ps, srcs := dedup ((walk ++ ps).flatMap (pairSrcLines x))
                                  need := tileReqs x ps, xset := [], xgen := 0, xasid := 0, walked := false, groups := []
                                  bytes := if dType x.desc = 2 then dstBytes x.desc walk.length else tileBytes x ps, wrote := false, strad := [] }] }

/-- A new tile whose sources are read in the order of its pairs. -/
def addTile (x : Stream) (ps : List Pair) : Stream := addTileAs x ps ps 0

/-- The generator is exhausted. -/
def noMore (s : State) (c : Nat) : State := markIssued (modStream s c fun x => { x with last := true }) c

/-- Earlier pairs of the inner run that reach into the byte in which pair `i` of a MOVE begins: the tile that holds the
byte's last element writes it whole (R85, R88; DEDUCED for a MOVE cut at a source boundary, log 26). -/
def moveLead (s : State) (x : Stream) (i : Nat) : List Pair :=
  let p := movePair s x i
  if p.dst % 8 = 0 then []
  else
    let k := min (i % (mCnt x.desc).1) 4
    ((List.range k).map fun j => movePair s x (i - k + j)).filter fun q => decide (p.dst / 8 * 8 < q.dst + dstW x.desc)

/-- The next tile of a MOVE. -/
def genMove (s : State) (c : Nat) (x : Stream) : State :=
  let n := mCnt x.desc
  if n.1 * n.2.1 * n.2.2 ≤ x.mcur then noMore s c
  else
    let ps := moveTile s x x.mcur
    setStream s c { addTile x (moveLead s x x.mcur ++ ps) with mcur := x.mcur + ps.length }

/-- A tile of a TENSOR from its index bytes: refused where its regions are too many. -/
def tensorTileAdd (s : State) (c : Nat) (x : Stream) (h : Shape) (idx : Nat → Byte) : State :=
  let ps := tensorTile s x h idx x.mcur
  match (if tIndex x.desc = 0 then none else pagesOfTile (tileReqs x ps)) with
  | some o => endTiles s c cPAGES o
  | none =>
    let walk := tensorWalk s x h idx x.mcur h.sord
    setStream s c { addTileAs x (tensorMates s x h idx x.mcur ++ ps) walk 0 with mcur := x.mcur + 1 }

/-- Byte at a virtual address of an index stream or list, from the lines read. -/
def knownByte (x : Stream) (side va : Nat) : Byte := ((knownLine x side (va % 2 ^ 49 / 128)).getD []).getD (va % 128) 0

/-- The virtual lines of index elements. -/
def idxLines (x : Stream) (es : List Nat) : List Nat :=
  let w := idxWidth x.desc
  dedup (es.flatMap fun t =>
    let va := x.index + t * w
    [va % 2 ^ 49 / 128, (va + w - 1) % 2 ^ 49 / 128])

/-- A tile that is skipped (R100): its index element is read with its line, as long as the line translates. It cannot fault, so that the
translation is a look-ahead, whose fault is discarded; `wait` holds the line that has been looked up so. -/
def skipTile (s : State) (c : Nat) (x : Stream) (h : Shape) : State :=
  let skip := fun s => modStream s c fun x => { x with mcur := x.mcur + 1, wait := .none }
  let lines := if tIndex x.desc = 0 then [] else idxLines x [tileIdx h x.mcur h.idxDim]
  match lines.find? fun l => (knownLine x 0 l).isNone with
  | none => skip s
  | some l =>
    let va := 128 * l
    let k := (chanCfg s c).ctx
    if (tlbFind s (halfOf va) (ctx s k).asid (va / 2 ^ 25)).isSome then
      match readLines c 2 0 x.index (·.idxRaw) 4 2 [l] s with
      | (s, some (.error e)) => preFail s c e
      | (s, _) => s
    else if s.xl.walks.any fun w => !w.advice && walkKey w == va / 2 ^ 25 && w.reqs.any fun r => r.ch == c && isAhead r then s
    else if x.wait == .warm l then skip s
    else if !powered s (56 + halfOf va) then need s (56 + halfOf va)
    else modStream (lookup s k [⟨c, 2, false, va, true⟩]).1 c fun x => { x with wait := .warm l }

/-- The next tile of a TENSOR (R99, R100, R102). -/
def genTensor (s : State) (c : Nat) (x : Stream) : State :=
  match x.shape with
  | none => s
  | some h =>
    if tileTotal h ≤ x.mcur then noMore s c
    else if (tensorTile s x h (fun _ => 0) x.mcur).isEmpty then skipTile s c x h
    else if tIndex x.desc = 0 then tensorTileAdd s c x h fun _ => 0
    else
      match readLines c 2 0 x.index (·.idxRaw) 4 2 (idxLines x (tileElems x h x.mcur)) s with
      | (s, none) => s
      | (s, some (.error e)) => preFail s c e
      | (s, some (.ok _)) =>
        match stream s c with
        | some x => tensorTileAdd s c x h fun k => knownByte x 0 (x.index + k)
        | none => s

/-- The base of a GATHER's list. -/
def listBase (x : Stream) (side : Nat) : Nat := if side = 0 then x.src else x.dst

/-- The virtual line of entry `i` of a list. -/
def entryLine (x : Stream) (side i : Nat) : Nat := (listBase x side + 16 * i) % 2 ^ 49 / 128

/-- Entry `i` of a list from the lines read; one that is not there is asked for by a DETAIL of 1000 and more. -/
def knownEntry (x : Stream) (side i w q : Nat) : Except Nat (Nat × Nat) :=
  match knownLine x side (entryLine x side i) with
  | some b => listEntry (sliceB b ((listBase x side + 16 * i) % 128) 16) 0 w q
  | none => .error (1000 + 2 * i + side)

/-- Entries of the source list as far as they have been read. -/
def srcEntry (x : Stream) (i : Nat) : Except Nat (Nat × Nat) := knownEntry x 0 i (fmtBits (dSfmt x.desc)) (fmtUnit (dSfmt x.desc))
/-- Entries of the destination list. -/
def dstEntry (x : Stream) (i : Nat) : Except Nat (Nat × Nat) := knownEntry x 1 i (fmtBits (dDfmt x.desc)) (fmtUnit (dDfmt x.desc))

/-- The next segment of a GATHER, reading the lines of its lists as R87 reaches their entries: the state, and the segment once every
entry it needs is there, or the failure of a read. -/
def gatherSeg (c : Nat) : Nat → State → State × Option (Except (Nat × Nat) Seg)
  | 0, s => (s, none)
  | f + 1, s =>
    match stream s c with
    | none => (s, none)
    | some x =>
      match gSeg s x (srcEntry x) (dstEntry x) with
      | .bad e =>
        if e < 1000 then (s, some (.ok (.bad e)))
        else
          let side := e % 2
          match readLines c 5 side (listBase x side) (if side = 0 then (·.sRaw) else (·.dRaw)) 6 4 [entryLine x side ((e - 1000) / 2)] s with
          | (s, none) => (s, none)
          | (s, some (.error e)) => (s, some (.error e))
          | (s, some (.ok _)) => gatherSeg c f s
      | r => (s, some (.ok r))

/-- Forget the lines of the lists that lie before a cursor. -/
def forgetLines (x : Stream) (cur : GCur) : Stream :=
  { x with gknown := x.gknown.filter fun e =>
      decide (entryLine x (e.1 % 2) (if e.1 % 2 = 0 then cur.si else cur.di) ≤ e.1 / 2) }

/-- Where a GATHER of FINAL in a context that switches out has still to say whether a further element follows, it reads on without
forming a tile (R58, R104; DEDUCED, log 39). -/
def peekGather (s : State) (c : Nat) : State := (gatherSeg c 64 s).1

/-- The next tile of a GATHER (R87, R88). What an earlier segment left of a shared byte is written even where the transfer
ends inside the byte. -/
def genGather (s : State) (c : Nat) (x : Stream) : State :=
  match gatherSeg c (gScnt x.desc + gDcnt x.desc + 4) s with
  | (s, none) => s
  | (s, some (.error e)) => preFail s c e
  | (s, some (.ok r)) =>
    let flush := fun (ps : List Pair) => ps.map fun p => { p with blk := [1] }
    match stream s c with
    | none => s
    | some x =>
      match r with
      | .tile ps cur =>
        let rest := x.gcur.e == cur.e
        if ps.isEmpty then setStream s c { forgetLines x cur with gcur := cur }
        else setStream s c { addTile (forgetLines x cur) (if rest then flush ps else ps) with gcur := cur }
      | .done => noMore s c
      | .bad d =>
        if x.gcur.carry.isEmpty then
          markIssued (endTiles (bump s) c cSTATE (if d = bothBad then pickDetail s [2, 5] else d)) c
        else setStream s c { addTile x (flush x.gcur.carry) with gcur := { x.gcur with carry := [] } }

/-- The next tile of a WHIRL: the start of its oldest run (R107). -/
def genWhirl (s : State) (c : Nat) (x : Stream) : State :=
  match x.whirl with
  | none => s
  | some w =>
    match w.runs with
    | [] => if w.stopped then noMore s c else s
    | r :: rest =>
      let ps := whirlTile s x r
      let k := ps.length
      let runs := if r.2.2 ≤ k then rest else (r.1 + (k : Nat), r.2.1 + (k : Nat), r.2.2 - k) :: rest
      setStream s c { addTileAs x ps ps (w.made - w.runs.length) with whirl := some { w with runs := runs } }

/-! ### Pre-walk (R22, R100, R251, R252) -/

/-- Whether a requirement is met by a translation set. -/
def reqMet (set : List XEnt) (q : XReq) : Bool := set.any fun e => e.region == q.region && (e.leaf.w || !q.write)

/-- Change a tile of a stream. -/
def modTile (s : State) (c no : Nat) (f : Tile → Tile) : State :=
  modStream s c fun x => { x with tiles := x.tiles.map fun t => if t.no == no then f t else t }

/-- A tile of a channel's stream. -/
def tileOf (s : State) (c no : Nat) : Option Tile :=
  match stream s c with
  | some x => x.tiles.find? fun t => t.no == no
  | none => none

/-- Look one region of a tile up, unless it is there or a walk is under way. -/
def walkRegion (s : State) (c no region : Nat) : State :=
  match tileOf s c no with
  | none => s
  | some t =>
    let qs := t.need.filter fun q => q.region == region
    if qs.all (reqMet t.xset) || walkPending s c region || faultPending s c then s
    else
      let r := lookup s (chanCfg s c).ctx (qs.map fun q => ⟨c, q.opnd, q.write, q.va, false⟩)
      match r.2 with
      | none => r.1
      | some l => modTile r.1 c no fun t => setAdd r.1 t region l (ctx r.1 (chanCfg r.1 c).ctx).asid

/-- Locations of a group's lines. -/
def groupLocs (g : Group) : List Loc := g.toRead.map (·.1) ++ g.outs.map (·.loc)

/-- Every region of a tile is translated: its groups are formed, or it is refused for an absent core port (R2). -/
def tileWalked (s : State) (c : Nat) (t : Tile) : State :=
  match stream s c with
  | none => s
  | some x =>
    let gs := mkGroups s x (chanCfg s c).mover x.gno t
    if gs.any fun g => (groupLocs g).any (absentCore s) then
      markIssued (endTiles (setStream s c { x with tno := x.tno - 1, tiles := x.tiles.filter fun u => u.no != t.no }) c cSTATE 6) c
    else
      setStream s c { x with
        gno := x.gno + gs.length
        tiles := x.tiles.map fun u => if u.no == t.no then { u with walked := true, groups := gs } else u }

/-- TILE_PREWALK (R22, R86 to R88, R99 to R102, R107, R251): the stream's next tile is generated, or the tile that stands at its
pre-walk looks its regions up. -/
def execTilePrewalk (c : Ch) (s : State) : Host.Outcome State Fault Refusal :=
  match acting s c.val fun x => x.st == .started && isData x.desc with
  | none =>
    if operating s && chState s c.val == .running && (ctx s (chanCfg s c.val).ctx).st == .switching then
      match stream s c.val with
      | some x =>
        if x.slot && x.st == .started && dType x.desc == 3 && dFinal x.desc && !x.last then .next (peekGather s c.val) else .next s
      | none => .next s
    else .next s
  | some x =>
    match x.tiles.find? fun t => !t.walked with
    | some t =>
      let s := (dedup (t.need.map (·.region))).foldl (fun s r => walkRegion s c.val t.no r) s
      match tileOf s c.val t.no with
      | none => .next s
      | some t =>
        if t.need.all (reqMet t.xset) && !(t.need.any fun q => walkPending s c.val q.region) then .next (tileWalked s c.val t)
        else .next s
    | none =>
      if x.last then .next s
      else match dType x.desc with
        | 1 => .next (genMove s c.val x)
        | 2 => .next (genTensor s c.val x)
        | 3 => .next (genGather s c.val x)
        | _ => .next (genWhirl s c.val x)

end Sys2Proof.Machine
end

