-- ==== Sys2Proof/Machine/DataPath.lean ====
section
/-! DEFINITION. The data path: read issue, landing, the permutation lattice, Mordant, write issue, acknowledgement and the
held write (R19 to R26, R58, R105, R110 to R125, R127 to R155, R166, R178 to R184, R206, R207, R323, R380). -/

namespace Sys2Proof.Machine

/-! ### Streams on the move -/

/-- The stream of a channel whose tiles past their pre-walk go on: its context is in RUN, or in SWITCHING, which lets them
finish (R77). -/
def flowing (s : State) (c : Nat) : Option Stream :=
  let k := (ctx s (chanCfg s c).ctx).st
  if operating s && chState s c == .running && (k == .run || k == .switching) then
    match stream s c with
    | some x =>
      if x.slot && isData x.desc && (match x.st with | .started => true | .ending k _ => k != cWORLD | _ => false) then some x else none
    | none => none
  else none

/-- Change a group of a tile. -/
def modGroup (s : State) (c no gno : Nat) (f : Group → Group) : State :=
  modTile s c no fun t => { t with groups := t.groups.map fun g => if g.no == gno then f g else g }

/-- Every group of a stream with its tile, in order. -/
def allGroups (x : Stream) : List (Tile × Group) := x.tiles.flatMap fun t => t.groups.map fun g => (t, g)

/-- A priority's rank of the channels in a mover's slots: the served one goes last (R20). The spec does not say whether the read side
and the write side rotate each on its own: they share one order, so that a served write lowers its stream's rank for reads too (DESIGN
CHOICE, log 49). -/
def rotate (s : State) (m c : Nat) : State :=
  if (slots s m).contains c then setSlots s m ((slots s m).erase c ++ [c]) else s

/-! ### Landing space (R24, R112) -/

/-- Locations of the source lines that a list of pairs draws on. -/
def srcLocs (s : State) (x : Stream) (t : Tile) (ps : List Pair) : List Loc :=
  dedup ((dedup (ps.flatMap (pairSrcLines x))).map (vlineLoc s t.xset))

/-- Whether a line in flight is a read for a group of a tile. -/
def readsFor (s : State) (c : Nat) (t : Tile) (g : Group) (k : RdKind) (l : Line) : Bool :=
  l.ch == c && l.dseq == (chan s c).seq
    && (match l.kind with | .read n a h k' _ => n == t.no && a == t.att && h == g.no && k' == k | _ => false)

/-- Lines that a group reserves: until its last read issues its bound, less the landed lines whose last output line has been issued; after
that what is in flight or landed and needed (R112). -/
def groupUse (s : State) (c : Nat) (x : Stream) (t : Tile) (g : Group) : Nat :=
  let needed := srcLocs s x t ((groupOuts g).flatMap (·.pairs))
  let landed := g.landed.filter fun e => e.2.1 == .data
  if !g.reserved then 0
  else if g.toRead.any fun e => e.2.1 == .data then g.bound - (landed.filter fun e => !needed.contains e.1).length
  else (landed.filter fun e => needed.contains e.1).length + (s.path.lines.filter (readsFor s c t g .data)).length

/-- Whether a line in flight is a data read whose group is gone: it holds the line reserved for it until it lands. -/
def staleRead (s : State) (l : Line) : Bool :=
  match l.kind with
  | .read n a h .data _ =>
    !(match stream s l.ch with
      | some x => l.dseq == (chan s l.ch).seq && (allGroups x).any fun e => e.1.no == n && e.1.att == a && e.2.no == h
      | none => false)
  | _ => false

/-- Lines reserved in a quadrant by the channels that `p` selects (R112). -/
def landUsed (s : State) (q : Nat) (p : Nat → Bool) : Nat :=
  let held := s.chans.map fun e =>
    match e.2.stream with
    | some x => if p e.1 then ((allGroups x).map fun g => if g.2.quad = q then groupUse s e.1 x g.1 g.2 else 0).foldl (· + ·) 0 else 0
    | none => 0
  held.foldl (· + ·) 0 + (s.path.lines.filter fun l => p l.ch && l.lane / 8 == q && staleRead s l).length

/-- Whether a group can be reserved whole in its mover's per-quadrant share. -/
def canLand (s : State) (m : Nat) (g : Group) : Bool :=
  decide (landUsed s g.quad (fun c => (chanCfg s c).mover == m) + g.bound ≤ quadShare s m)

/-- Whether an element lies in two lines. -/
def straddles (x : Stream) (p : Nat) : Bool := decide (1 < (bitLines p (dstW x.desc)).length)

/-- The destination elements of a line. -/
def lineDsts (o : OutLine) : List Nat := dedup (o.pairs.map (·.dst))

/-! ### Accumulation order on a mover (R150) -/

/-- The groups of a tile whose accumulations are ordered together: the group alone, or every group of a tile that has elements in two
lines (R98, R150). -/
def accGroups (x : Stream) (t : Tile) (g : Group) : List Group :=
  if t.pairs.any fun p => straddles x p.dst then t.groups else [g]

/-- Destination lines under accumulation that a list of groups has not yet issued as writes. -/
def accLocs (gs : List Group) : List Loc := dedup ((gs.flatMap groupOuts).map (·.loc))

/-- Whether a group has begun to read its destination lines. -/
def accBegun (s : State) (c : Nat) (t : Tile) (g : Group) : Bool :=
  (g.landed.any fun e => e.2.1 == .acc) || s.path.lines.any (readsFor s c t g .acc)

/-- Whether a group's destination reads wait: an accumulation of one of its lines on the same mover has begun or is
unacknowledged. -/
def accBlocked (s : State) (m c : Nat) (x : Stream) (t : Tile) (g : Group) : Bool :=
  let gs := accGroups x t g
  if gs.any (accBegun s c t) then false
  else
    let mine := accLocs gs
    (s.path.lines.any fun l => (chanCfg s l.ch).mover == m && mine.contains (locLine l.loc)
      && (match l.kind with | .write _ _ _ a => a | _ => false))
    || (slots s m).any fun c' => match stream s c' with
      | some y => dAcc y.desc && (allGroups y).any fun e =>
          !(c' == c && e.1.no == t.no && gs.any fun h => h.no == e.2.no)
            && (accGroups y e.1 e.2).any (accBegun s c' e.1) && (accLocs (accGroups y e.1 e.2)).any mine.contains
      | none => false

/-! ### Mordant units and their buffers (R114, R135, R150, R156) -/

/-- Lanes of a mover in a quadrant. -/
def quadLanes (s : State) (m q : Nat) : List Nat := ((List.range (moverWidth s m)).map (m + ·)).filter fun l => l / 8 == q

/-- The Mordant units, or lane clusters, of a mover in a quadrant. -/
def quadUnits (s : State) (m q : Nat) : List Nat := dedup ((quadLanes s m q).map (· / 4))

/-- A number for a place. -/
def locKey : Loc → Nat
  | .ext pa => 8 * pa
  | .hole pa => 8 * pa + 1
  | .stage o => 8 * o + 2
  | .relay n o => 8 * (2 ^ 24 * n + o) + 3
  | .core n o => 8 * (2 ^ 24 * n + o) + 4
  | .remote c w o => 8 * (2 ^ 52 * (256 * c + w) + o) + 5

/-- The Mordant unit that a line of a landing group passes: that of the lane that moves it, one of those of the mover in the group's
quadrant. Which one is open (R114). A scale line is read once, into the buffer of its lane's unit, also where lines of another unit use
it (DESIGN CHOICE, log 17). -/
def unitOf (s : State) (c quad gno : Nat) (loc : Loc) : Nat :=
  let us := quadUnits s (chanCfg s c).mover quad
  us.getD (Config.mdUnit c gno (locKey loc) % us.length) 0

/-- Whether the cast of a group's lines still needs a landed scale line. -/
def scaleNeeded (s : State) (x : Stream) (t : Tile) (g : Group) (loc : Loc) : Bool :=
  (g.outs ++ g.emitted.map (·.line)).any fun o => o.pairs.any fun p => match pairScale x p with
    | some v => vlineLoc s t.xset (v / 128) == loc
    | none => false

/-- Lines that a group holds in a buffer of a unit: landed scale lines until their last element is cast (R135), landed destination lines
until their write issues (R150). -/
def bufHeld (s : State) (c u : Nat) (x : Stream) (t : Tile) (g : Group) (k : RdKind) : Nat :=
  (g.landed.filter fun e => e.2.1 == k && unitOf s c g.quad g.no e.1 == u
    && (if k == .scale then scaleNeeded s x t g e.1 else (groupOuts g).any fun o => o.loc == e.1)).length

/-- Lines that a unit's scale buffer or accumulate buffer holds, those in flight among them. -/
def bufUse (s : State) (u : Nat) (k : RdKind) : Nat :=
  let held := s.chans.map fun e => match e.2.stream with
    | some x => ((allGroups x).map fun g => bufHeld s e.1 u x g.1 g.2 k).foldl (· + ·) 0
    | none => 0
  held.foldl (· + ·) 0 + (s.path.lines.filter fun l => match l.kind with
    | .read _ _ _ k' _ => k' == k && l.lane / 4 == u
    | _ => false).length

/-- Whether a unit's buffer of 128 scale lines, or of 512 destination lines, has room. -/
def bufRoom (s : State) (u : Nat) (k : RdKind) : Bool :=
  match k with
  | .data => true
  | .scale => decide (bufUse s u .scale < 128)
  | .acc => decide (bufUse s u .acc < 512)

/-! ### Issue places (R20, R21, R184) -/

/-- What one side of a mover may issue next for a channel in a quadrant: the line of a group, and the unit whose lanes alone it may take. -/
structure Cand where
  ch : Nat
  prio : Nat
  loc : Loc
  quad : Nat
  unit : Option Nat
  tile : Nat
  grp : Nat
  deriving DecidableEq, Repr

/-- The line of a group that is read next: the first that nothing holds back but a tag, power or the room of a buffer. -/
def nextLine (s : State) (m c : Nat) (x : Stream) (e : Tile × Group) : Option (Loc × RdKind × Nat) :=
  e.2.toRead.find? fun r => !(r.2.1 == .acc && accBlocked s m c x e.1 e.2)

/-- Whether a line that a group is to read may go on a lane of unit `u`: its tag is there, its target powered, and no accumulation
before it; a line for a buffer goes through the buffer's own unit and finds room there. -/
def lineMay (s : State) (m c u : Nat) (x : Stream) (e : Tile × Group) (r : Loc × RdKind × Nat) : Bool :=
  !(r.2.1 == .acc && accBlocked s m c x e.1 e.2) && canTag s r.1 false (dPrio x.desc) && locReady s r.1
    && (r.2.1 == .data || (unitOf s c e.2.quad e.2.no r.1 == u && bufRoom s u r.2.1))

/-- Whether a group still needs its reservation. -/
def needsLand (g : Group) : Bool := !g.reserved && g.toRead.any fun e => e.2.1 == .data

/-- The first group of a stream that still needs its reservation: groups reserve in order (R112). -/
def nextLand (x : Stream) : Option (Tile × Group) := (allGroups x).find? fun e => needsLand e.2

/-- The groups of a stream that have lines to read in a quadrant, in group order. -/
def readGroups (x : Stream) (q : Nat) : List (Tile × Group) := (allGroups x).filter fun e => e.2.quad == q && !e.2.toRead.isEmpty

/-- Reserve a group's landing space; the high-water mark follows (R112). -/
def reserveLand (s : State) (c : Nat) (t : Tile) (g : Group) : State :=
  if needsLand g then
    let s := modGroup s c t.no g.no fun g => { g with reserved := true }
    let q := kq s g.quad
    setKq s g.quad { q with hwm := max q.hwm (landUsed s g.quad fun _ => true) }
  else s

/-- Reserve the groups of a stream in group order, up to a group of number `no`: a group reserves only after every earlier one (R112). None
where one of them cannot be reserved whole. -/
def reserveTo (s : State) (m c no : Nat) : List (Tile × Group) → Option State
  | [] => some s
  | e :: rest =>
    if no < e.2.no then some s
    else if needsLand e.2 && !canLand s m e.2 then none
    else reserveTo (reserveLand s c e.1 e.2) m c no rest

/-- The state in which a group that is to read has its reservation: nothing is done for a group that has it, or needs none. -/
def reserved (s : State) (m c : Nat) (x : Stream) (e : Tile × Group) : Option State :=
  if needsLand e.2 then reserveTo s m c e.2.no (allGroups x) else some s

/-- Read side: what a channel's stream may issue, on the lanes of each of its units the first line that may go, of the first group that
has its reservation or finds it (R19, R20, R112, R166). -/
def readCands (s : State) (m c : Nat) : List Cand :=
  match flowing s c with
  | none => []
  | some x =>
    if !readTurn s x then []
    else (moverQuads s m).flatMap fun q => (quadUnits s m q).filterMap fun u =>
      (readGroups x q).findSome? fun e =>
        match e.2.toRead.find? (lineMay s m c u x e) with
        | none => none
        | some r => if (reserved s m c x e).isNone then none else some ⟨c, dPrio x.desc, r.1, q, some u, e.1.no, e.2.no⟩

/-- Whether address generation produces a further element that is written (R104): none while a WHIRL program or a list of a GATHER has still
to say. -/
def genMore (s : State) (x : Stream) : Option Bool :=
  if x.last then some false
  else match dType x.desc with
    | 1 => let n := mCnt x.desc; some (decide (x.mcur < n.1 * n.2.1 * n.2.2))
    | 2 =>
      match x.shape with
      | none => some false
      | some h => some ((List.range (tileTotal h - x.mcur)).any fun i => !(tensorTile s x h (fun _ => 0) (x.mcur + i)).isEmpty)
    | 3 =>
      match gNext s x (srcEntry x) (dstEntry x) x.gcur with
      | .pair _ _ => some true
      | .bad d => if d < 1000 then some (!x.gcur.carry.isEmpty) else none
      | .stop => some (!x.gcur.carry.isEmpty)
    | _ =>
      match x.whirl with
      | none => some false
      | some w => if !w.runs.isEmpty then some true else if w.stopped then some false else none

/-- Whether a ready line is the held write of R58, or may still turn out to be: it lies in the last tile there is. -/
def heldLine (s : State) (x : Stream) (t : Tile) (o : OutLine) : Bool :=
  dFinal x.desc && o.held && decide (t.no + 1 = x.tno) && genMore s x != some true

/-- Whether a line waits for an earlier tile: an element that lies in it and in a neighbouring line is written by that tile too, whose
writes are not all acknowledged, or by an earlier attempt of its own tile. The two parts of an element are thus written in one order
(R98; DEDUCED, log 26). -/
def stradBlocked (s : State) (c : Nat) (x : Stream) (t : Tile) (o : OutLine) : Bool :=
  let w := dstW x.desc
  let ds := (lineDsts o).filter (straddles x)
  !ds.isEmpty
    && ((x.tiles.any fun u => decide (u.no < t.no) && !(tileDrained u && !tileWrites s c u.no)
          && u.pairs.any fun p => ds.any fun a => decide (a < p.dst + w) && decide (p.dst < a + w))
      || s.path.lines.any fun l => l.ch == c && l.dseq == (chan s c).seq
          && (match l.kind with | .write n a _ _ => n == t.no && a != t.att | _ => false))

/-- The lines that a stream may write next. -/
def readyLines (s : State) (c : Nat) (x : Stream) : List (Tile × Group × Ready) :=
  (allGroups x).flatMap fun e =>
    (e.2.ready.filter fun r => !heldLine s x e.1 r.line && !stradBlocked s c x e.1 r.line).map fun r => (e.1, e.2, r)

/-- The ready line of a group at a location that is written next. -/
def readyAt (s : State) (c : Nat) (x : Stream) (k : Cand) : Option (Tile × Group × Ready) :=
  (readyLines s c x).find? fun e => e.1.no == k.tile && e.2.1.no == k.grp && e.2.2.line.loc == k.loc

/-- The unit that a line to write has passed, if its descriptor casts: the lanes of that unit write it. -/
def writeUnit (s : State) (c : Nat) (x : Stream) (g : Group) (loc : Loc) : Option Nat :=
  if casts x.desc then some (unitOf s c g.quad g.no loc) else none

/-- Write side: the lines of a channel's stream that have their tag. -/
def writeCands (s : State) (c : Nat) : List Cand :=
  match flowing s c with
  | none => []
  | some x => (readyLines s c x).filterMap fun e =>
      let loc := e.2.2.line.loc
      if canTag s loc true (dPrio x.desc) && locReady s loc then
        some ⟨c, dPrio x.desc, loc, e.2.1.quad, writeUnit s c x e.2.1 loc, e.1.no, e.2.1.no⟩
      else none

/-- Needs for the domains of the lines that a mover's streams would issue next. -/
def issueNeeds (s : State) (m : Nat) (write : Bool) : State :=
  (slots s m).foldl (fun s c => match flowing s c with
    | none => s
    | some x =>
      if write then (readyLines s c x).foldl (fun s e => locNeed s e.2.2.line.loc) s
      else (moverQuads s m).foldl (fun s q => match (readGroups x q).findSome? (nextLine s m c x) with
        | some r => locNeed s r.1
        | none => s) s) s

/-- Places of the present window of a lane cluster on one side. -/
def win8 (s : State) (k : Nat) (write : Bool) : Win8 := tget (fun _ => {}) (if write then s.path.winWr else s.path.winRd) k

/-- Replace them. -/
def setWin8 (s : State) (k : Nat) (write : Bool) (w : Win8) : State :=
  if write then { s with path := { s.path with winWr := tset (fun _ => {}) s.path.winWr k w } }
  else { s with path := { s.path with winRd := tset (fun _ => {}) s.path.winRd k w } }

/-- Whether a cluster has a place left on one side in its present T-cycle and window (R184). -/
def placeLeft (s : State) (k : Nat) (write : Bool) : Bool :=
  let w := win8 s k write
  decide (w.now < 4) && decide (w.own + w.rm < 32)

/-- One T-cycle of the windows of a mover's clusters passes; it is counted by the lowest mover of each cluster (R184). -/
def tickWin8 (s : State) (m : Nat) (write : Bool) : State :=
  (dedup ((List.range (moverWidth s m)).map fun i => (m + i) / 4)).foldl (fun s k =>
    if (im s).movers.any fun e => e.low / 4 == k && decide (e.low < m) then s
    else
      let w := win8 s k write
      setWin8 s k write (if 8 ≤ w.t then { t := 1 } else { w with t := w.t + 1, now := 0 })) s

/-- The candidates of the class that goes first in a cluster: one that has used fewer places in the window than its guarantee, two such
classes in proportion to their guarantees (R184). -/
def classFirst (s : State) (k : Nat) (write : Bool) (cs : List Cand) : List Cand :=
  let own := cs.filter fun k => !isRemote k.loc
  let rem := cs.filter fun k => isRemote k.loc
  let w := win8 s k write
  let ownG := if write then (im s).bwWr else (im s).bwRd
  let remG := (im s).bwRm
  let remU := (win8 s k false).rm + (win8 s k true).rm
  let ownDue := !own.isEmpty && decide (w.own < ownG)
  let remDue := !rem.isEmpty && decide (remU < remG)
  if ownDue && remDue then (if w.own * remG ≤ remU * ownG then own else rem)
  else if ownDue then own else if remDue then rem else cs

/-- The candidate that is served: the best priority, in slot order (R20). -/
def served (cs : List Cand) : Option Cand :=
  match cs with
  | [] => none
  | k :: rest => some (rest.foldl (fun b a => if a.prio < b.prio then a else b) k)

/-- The candidates of streams that no stream of higher priority of their class displaces (R21; that the classes of R184 displace one another
no further is DEDUCED, log 49). -/
def undisplaced (cs : List Cand) : List Cand :=
  cs.filter fun k => !cs.any fun j => isRemote j.loc == isRemote k.loc && decide (j.prio < k.prio)

/-- Count a place of a cluster. -/
def usePlace (s : State) (k : Nat) (write : Bool) (c : Cand) : State :=
  let w := win8 s k write
  setWin8 s k write (if isRemote c.loc then { w with now := w.now + 1, rm := w.rm + 1 } else { w with now := w.now + 1, own := w.own + 1 })

/-- A line that has been issued and goes to its target: the line, whether it writes, its priority. -/
abbrev Sent := Line × Bool × Nat

/-- Whether a lane may move the line of a candidate. -/
def laneFits (lane : Nat) (k : Cand) : Bool := k.quad == lane / 8 && k.unit.all (· == lane / 4)

/-- Fill the places of one side in a T-cycle, one a lane, up to `n` of them, and collect what has been issued. Which of the free lanes
that a line is there for comes next is open. `act` issues the line of the candidate on the lane. -/
def fillPlaces (m : Nat) (write : Bool) (cands : State → List Cand) (act : State → Cand → Nat → State × Option Sent) :
    Nat → List Nat → State × List Sent → State × List Sent
  | 0, _, a => a
  | n + 1, used, (s, out) =>
    let cs := cands s
    let free := ((List.range (moverWidth s m)).map (m + ·)).filter fun l =>
      !used.contains l && placeLeft s (l / 4) write && cs.any (laneFits l)
    match free[Config.pick s.fresh % free.length]? with
    | none => (s, out)
    | some lane =>
      match served (classFirst s (lane / 4) write (cs.filter (laneFits lane))) with
      | none => (s, out)
      | some k =>
        let r := act (rotate (usePlace (bump s) (lane / 4) write k) m k.ch) k lane
        fillPlaces m write cands act n (lane :: used) (r.1, out ++ r.2.toList)

/-- The arbiter of a memory port or a core port that a line goes to, and its input there; none for a line that passes no such arbiter
now. -/
def portOfLine (s : State) (l : Line) : Option (Bool × Nat × Nat) :=
  match l.loc with
  | .ext pa => if l.echo = 2 then none else some (false, memPortOf s pa, memInput l)
  | .core n _ => some (true, n, l.lane)
  | .relay n _ => (match members s n with | k :: _ => some (true, k, coreInput s k l) | [] => none)
  | _ => none

/-- Place of an input in the rotation of a memory-port or a core-port arbiter (R195). -/
def rankOf (s : State) (a : Bool × Nat × Nat) : Nat :=
  if a.1 then (tget (fun _ => List.range 33) s.stage.rankCore a.2.1).idxOf a.2.2
  else (tget (fun _ => List.range 33) s.stage.rankMem a.2.1).idxOf a.2.2

/-- The line that is granted before the others at the arbiter of `l`, by rotation among the inputs that request there in this T-cycle. -/
def grantFirst (s : State) (ls : List Sent) (l : Sent) : Sent :=
  match portOfLine s l.1 with
  | none => l
  | some a => ls.foldl (fun b y => match portOfLine s y.1, portOfLine s b.1 with
    | some c, some d => if c.1 == a.1 && c.2.1 == a.2.1 && decide (rankOf s c < rankOf s d) then y else b
    | _, _ => b) l

/-- The inputs that request in this T-cycle at the arbiter of a line. -/
def inputsAt (s : State) (ls : List Sent) (a : Bool × Nat × Nat) : List Nat :=
  ls.filterMap fun y => match portOfLine s y.1 with
    | some c => if c.1 == a.1 && c.2.1 == a.2.1 then some c.2.2 else none
    | none => none

/-- The turn hints of the decision that grants a line (R196). -/
def lineHints (s : State) (ls : List Sent) (l : Line) : State :=
  match portOfLine s l with
  | none => s
  | some a => if a.1 then coreHints s a.2.1 (inputsAt s ls a) a.2.2 else memHints s a.2.1 (inputsAt s ls a) a.2.2

/-- What a T-cycle has issued goes to its targets: at each memory port and core port in the order of the arbiter's rotation, whatever the
priority of the streams (R195, R196). -/
def sendAll : Nat → List Sent → State → State
  | 0, _, s => s
  | _, [], s => s
  | n + 1, l :: rest, s =>
    let k := grantFirst s (l :: rest) l
    let s := lineHints s (l :: rest) k.1
    sendAll n ((l :: rest).erase k) (sendLine s k.1 k.2.1 k.2.2 k.1.lane)

/-! ### Read issue -/

/-- The regions through which a tile reaches a line that it reads for a kind. -/
def lineRegions (s : State) (x : Stream) (t : Tile) (k : RdKind) (loc : Loc) : List Nat :=
  let vs := match k with
    | .data => t.srcs
    | .scale => t.pairs.filterMap fun (p : Pair) => (pairScale x p).map (· / 128)
    | .acc => t.pairs.flatMap fun (p : Pair) => bitLines p.dst (dstW x.desc)
  dedup ((vs.filter fun v => vlineLoc s t.xset v == loc).map (· / 2 ^ 18))

/-- Whether every page through which a tile reaches a line carries the echo attribute (R178). -/
def echoPage (s : State) (x : Stream) (t : Tile) (k : RdKind) (loc : Loc) : Bool :=
  let rs := lineRegions s x t k loc
  !rs.isEmpty && rs.all fun r => t.xset.any fun e => e.region == r && e.leaf.echo

/-- Whether a read uses the echo cache, and the copy it finds. -/
def echoLook (s : State) (ns : Bool) (x : Stream) (t : Tile) (k : RdKind) (loc : Loc) : Option (Option LineData) :=
  match loc with
  | .ext pa => if echoPage s x t k loc && echoUse s ns then some ((s.path.echo.find? fun e => e.1 == pa).map (·.2)) else none
  | _ => none

/-- The tile and group of a candidate. -/
def candGroup (x : Stream) (k : Cand) : Option (Tile × Group) := (allGroups x).find? fun e => e.1.no == k.tile && e.2.no == k.grp

/-- The line of a read. -/
def readLine (s : State) (c : Nat) (x : Stream) (t : Tile) (g : Group) (r : Loc × RdKind × Nat) (lane : Nat) : Line :=
  let ns := !chanSecure s c
  let e := echoLook s ns x t r.2.1 r.1
  { id := 0, pool := poolFor r.1 false, ch := c, dseq := (chan s c).seq, kind := .read t.no t.att g.no r.2.1 r.2.2, loc := r.1, ns := ns
    data := match e with | some (some d) => d | _ => 0
    be := 0, gen := (chan s c).gen, xgen := t.xgen, asid := t.xasid
    echo := match e with | some (some _) => 2 | some none => 1 | none => 0
    lane := lane, left := [] }

/-- Count a hit or a miss of the echo cache. -/
def countEcho (s : State) (echo : Nat) : State :=
  if echo = 2 then { s with path := { s.path with echoHit := s.path.echoHit + 1 } }
  else if echo = 1 then { s with path := { s.path with echoMiss := s.path.echoMiss + 1 } } else s

/-- Issue the read line of a candidate on a lane. -/
def issueRead (s : State) (k : Cand) (lane : Nat) : State × Option Sent :=
  let c := k.ch
  let m := (chanCfg s c).mover
  match flowing s c with
  | none => (s, none)
  | some x =>
    match candGroup x k with
    | none => (s, none)
    | some (t, g) =>
      match g.toRead.find? (lineMay s m c (lane / 4) x (t, g)) with
      | none => (s, none)
      | some r =>
        if worldBad s c r.1 then (worldStop (notice s 4 0 c (locPa s r.1) 0) c r.2.2, none)
        else if autoErr s r.1 false false then (tileFail (errEvent s r.1 0 2) c t.no t.att .error (cECC, 0), none)
        else
          let s := modGroup ((reserved s m c x (t, g)).getD s) c t.no g.no fun g => { g with toRead := g.toRead.erase r }
          let l := readLine s c x t g r lane
          let a := addLine (countEcho s l.echo) l
          (markIssued a.1 c, some (a.2, false, k.prio))

/-- Count the T-cycle in which a stream of a quadrant is ineligible for want of landing space (R112), at the quadrant's lowest mover.
When a stream tries to reserve its next group is open: it is counted also while an earlier group of it, which is reserved, still issues
reads (DESIGN CHOICE, log 49). -/
def countResWait (s : State) (m : Nat) : State :=
  (moverQuads s m).foldl (fun s q =>
    if (im s).movers.any fun e => (moverQuads s e.low).contains q && decide (e.low < m) then s
    else
      let stuck := s.chans.any fun e => match flowing s e.1 with
        | some x => readTurn s x && (match nextLand x with
            | some (_, g) => g.quad == q && !canLand s (chanCfg s e.1).mover g
            | none => false)
        | none => false
      if stuck then let k := kq s q; setKq s q { k with reswait := k.reswait + 1 } else s) s

/-- Whether every domain of a mover is powered. -/
def moverReady (s : State) (m : Nat) : Bool :=
  match moverCfg s m with
  | some e => (moverDomains e).all (powered s)
  | none => false

/-- A tile whose translation set has an entry with a parity error, as a line takes its address from it (R250): it fails as an ECC error of
the data. -/
def setParity (s : State) (k : Option Cand) : State :=
  match k with
  | none => s
  | some k =>
    match flowing s k.ch with
    | none => s
    | some x =>
      match candGroup x k with
      | some (t, _) => tileFail s k.ch t.no t.att .ecc (cECC, 0)
      | none => s

/-- READ_ISSUE (R19 to R21, R23, R24, R112, R114, R166, R178, R184, R195, R250): one T-cycle of a mover's read side. `t.par` is a channel
whose next line finds a parity error in its translation set. -/
def execReadIssue (t : IssueCycle) (s : State) : Host.Outcome State Fault Refusal :=
  if !operating s || (moverCfg s t.mover.val).isNone then .next s
  else if !moverReady s t.mover.val then .next (if (slots s t.mover.val).isEmpty then s else needMover s t.mover.val)
  else
    let s := tickWin8 (issueNeeds s t.mover.val false) t.mover.val false
    let s := countResWait s t.mover.val
    let cands := fun s => undisplaced ((slots s t.mover.val).flatMap (readCands s t.mover.val))
    let s := setParity s ((cands s).find? fun k => t.par.any fun c => c.val == k.ch)
    let r := fillPlaces t.mover.val false cands issueRead (moverWidth s t.mover.val) [] (s, [])
    .next (sendAll r.2.length r.2 r.1)

/-! ### Write issue -/

/-- Issue a ready line as a write. A line written under ACC is counted by its unit (R156). -/
def issueWrite (s : State) (c : Nat) (t : Tile) (g : Group) (r : Ready) (lane : Nat) : State × Option Sent :=
  match stream s c with
  | none => (s, none)
  | some x =>
    let loc := r.line.loc
    if worldBad s c loc then (worldStop (notice s 4 1 c (locPa s loc) 0) c r.line.opnd, none)
    else if autoErr s loc true false then (tileFail (errEvent s loc 1 2) c t.no t.att .error (cECC, 0), none)
    else
      let s := modTile (modGroup s c t.no g.no fun g => { g with ready := g.ready.erase r }) c t.no fun t => { t with wrote := true }
      let n := lane / 4
      let s := if dAcc x.desc then setMd s n { md s n with acclines := (md s n).acclines + 1 } else s
      let l : Line :=
        { id := 0, pool := poolFor loc true, ch := c, dseq := (chan s c).seq, kind := .write t.no t.att r.line.opnd (dAcc x.desc), loc := loc
          ns := !chanSecure s c, data := r.data, be := r.be, gen := (chan s c).gen, xgen := t.xgen, asid := t.xasid, echo := 0, lane := lane
          left := match loc with | .relay n _ => (members s n).tail | _ => [] }
      let a := addLine (noteTc s c (dPrio x.desc) loc) l
      (a.1, some (a.2, true, dPrio x.desc))

/-- Issue the write of a candidate. -/
def issueNextWrite (s : State) (k : Cand) (lane : Nat) : State × Option Sent :=
  match flowing s k.ch with
  | none => (s, none)
  | some x =>
    match readyAt s k.ch x k with
    | none => (s, none)
    | some (t, g, r) => issueWrite s k.ch t g r lane

/-- WRITE_ISSUE (R19, R20, R23, R24, R114, R184, R195, R250): one T-cycle of a mover's write side. `t.par` is a channel whose next line
finds a parity error in its translation set. -/
def execWriteIssue (t : IssueCycle) (s : State) : Host.Outcome State Fault Refusal :=
  if !operating s || (moverCfg s t.mover.val).isNone then .next s
  else if !moverReady s t.mover.val then .next (if (slots s t.mover.val).isEmpty then s else needMover s t.mover.val)
  else
    let s := tickWin8 (issueNeeds s t.mover.val true) t.mover.val true
    let cands := fun s => (slots s t.mover.val).flatMap (writeCands s)
    let s := setParity s ((cands s).find? fun k => t.par.any fun c => c.val == k.ch)
    let r := fillPlaces t.mover.val true cands issueNextWrite (moverWidth s t.mover.val) [] (s, [])
    .next (sendAll r.2.length r.2 r.1)

/-- The held line of a channel that may go: it alone is left of its descriptor, nothing more is generated, and every other line of the
descriptor is acknowledged (R58). -/
def heldReady (s : State) (c : Nat) (x : Stream) : Option (Tile × Group × Ready) :=
  let rest := (allGroups x).flatMap fun e => e.2.ready.map fun r => (e.1, e.2, r)
  let others := (allGroups x).any fun e => !e.2.toRead.isEmpty || !e.2.outs.isEmpty || !e.2.emitted.isEmpty
  match rest with
  | [(t, g, r)] =>
    if genMore s x == some false && x.tiles.all (·.walked) && !others && heldLine s x t r.line && !descLines s c then some (t, g, r)
    else none
  | _ => none

/-- Whether a held line finds a write place that its cluster has left in its T-cycle and window, its class going first among the lines that
wait there (R184). -/
def heldPlace (s : State) (m lane : Nat) (k : Cand) : Bool :=
  let cs := ((slots s m).flatMap (writeCands s)).filter (laneFits lane)
  placeLeft s (lane / 4) true && (classFirst s (lane / 4) true (k :: cs)).contains k

/-- HELD_WRITE_ISSUE (R58, R184): the held line takes a write place once every other line of the descriptor has been issued and
acknowledged. -/
def execHeldWriteIssue (c : Ch) (s : State) : Host.Outcome State Fault Refusal :=
  match flowing s c.val with
  | none => .next s
  | some x =>
    match heldReady s c.val x with
    | none => .next s
    | some (t, g, r) =>
      let m := (chanCfg s c.val).mover
      let k : Cand := ⟨c.val, dPrio x.desc, r.line.loc, g.quad, writeUnit s c.val x g r.line.loc, t.no, g.no⟩
      let ls := (quadLanes s m g.quad).filter (laneFits · k)
      let lane := ls.getD (Config.pick s.fresh % ls.length) 0
      if !locReady s r.line.loc then .next (locNeed s r.line.loc)
      else if !canTag s r.line.loc true (dPrio x.desc) || !heldPlace s m lane k then .next s
      else
        let r := issueWrite (rotate (usePlace (bump s) (lane / 4) true k) m c.val) c.val t g r lane
        .next (sendAll 1 r.2.toList r.1)

/-! ### Requests of the block itself (R204, R206) -/

/-- A request of the block itself by its number. -/
def ownOf (s : State) (id : Nat) : Option OwnReq := s.ports.own.find? fun e => e.id == id

/-- A request of the block itself is no longer outstanding: it has been answered. -/
def ownGone (s : State) (id : Nat) : State :=
  let s := match ownOf s id with | some e => ownEcho s e | none => s
  { s with ports := { s.ports with own := s.ports.own.filter fun e => e.id != id } }

/-- A response comes for a request that has timed out, or whose answer has been given up: it changes nothing but LATE, for a timed-out one
of a memory port (R206). -/
def ownLate (s : State) (e : OwnReq) : State :=
  let s := { s with ports := { s.ports with own := s.ports.own.filter fun y => y.id != e.id } }
  if e.kind == .dead true && decide (e.port < 8) then
    let x := mp s e.port
    setMp s e.port { x with late := satAdd 8 x.late 1 }
  else s

/-- Whether a request of the block itself waits for nobody. -/
def isDead (e : OwnReq) : Bool := match e.kind with | .dead _ => true | _ => false

/-! ### Landing (R23, R24, R124, R179, R192) -/

/-- A landed line joins its group. -/
def landLine (s : State) (l : Line) (d : LineData) : State :=
  match l.kind with
  | .read no att gno k _ =>
    let s := dropLine s l.id
    if l.dseq != (chan s l.ch).seq then s
    else modTile s l.ch no fun t =>
      if t.att != att then t
      else { t with groups := t.groups.map fun g => if g.no == gno then { g with landed := g.landed ++ [(l.loc, k, d)] } else g }
  | _ => s

/-- A line of the echo cache is read: its bank group's code (R192). -/
def echoEcc (s : State) (pa : Nat) (bad : Bool) : State :=
  let g := echoGroup s
  raise (bgEcc s g (if bad then 0 else 1) (if bad then 1 else 0)) ((if bad then 0x48 else 0x38) + g) pa (8 * g) (0x14 + g)

/-- READ_DATA_LAND (R23, R24, R179): the data of a read line arrives: from its bank for stage memory, from the cache for an echo
hit, else `d`. `ecc` is what the code of the bank finds. -/
def execReadDataLand (line : Nat) (d : LineData) (ecc : Ecc) (s : State) : Host.Outcome State Fault Refusal :=
  match lineOf s line with
  | none => .next (match ownOf s line with | some e => if isDead e then ownLate s e else s | none => s)
  | some l =>
    if isWrite l.kind || noAnswer s l || anyGate s [l.loc] then .next s
    else match l.loc with
      | .stage o =>
        let r := stageRead s o fullBe l.lane ecc
        .next (if r.2.2 then lineFail r.1 l .ecc else landLine r.1 l r.2.1)
      | .ext pa =>
        if l.echo = 2 then
          let s := bump (grantBank s (8 * echoGroup s + Config.pick s.fresh % 8) l.lane)
          match ecc with
          | .uncorrectable => .next (lineFail (echoEcc s pa true) l .ecc)
          | .corrected => .next (landLine (echoEcc s pa false) l l.data)
          | .clean => .next (landLine s l l.data)
        else .next (landLine (if l.echo = 1 then echoFill s pa d else s) l d)
      | .remote .. => .next s
      | _ => .next (landLine s l d)

/-! ### Kaleidoscope (R109, R118, R120, R124) -/

/-- The landed line of a kind at a location. -/
def landedAt (g : Group) (k : RdKind) (loc : Loc) : Option LineData :=
  (g.landed.find? fun e => e.2.1 == k && e.1 == loc).map (·.2.2)

/-- `w` bits at a bit address from landed lines of a kind. -/
def landedBits (s : State) (t : Tile) (g : Group) (k : RdKind) (b w : Nat) : Nat :=
  let at' := fun v => ((landedAt g k (vlineLoc s t.xset v)).getD 0).toNat
  let o := b % 1024
  let v := b % 2 ^ 52 / 1024
  let lo := at' v / 2 ^ o
  let hi := if 1024 < o + w then at' ((b + w - 1) % 2 ^ 52 / 1024) * 2 ^ (1024 - o) else 0
  (lo + hi) % 2 ^ w

/-- IQSWAP of an element of `w` bits. -/
def iqSwap (d : DescData) (w v : Nat) : Nat := if dKop d = 5 then v / 2 ^ (w / 2) % 2 ^ (w / 2) + v % 2 ^ (w / 2) * 2 ^ (w / 2) else v

/-- A pair's element as it leaves the quadrant. -/
def elemOf (s : State) (x : Stream) (t : Tile) (g : Group) (p : Pair) : Elem :=
  let w := srcW x.desc
  ⟨p, iqSwap x.desc w (match p.src with | some b => landedBits s t g .data b w | none => p.pad)⟩

/-- The pairs of the blocks that a list of pairs has parts of (R144). -/
def blockPairs (x : Stream) (t : Tile) (ps : List Pair) : List Pair :=
  if isBlock (dDfmt x.desc) && dSdisc x.desc then
    let bs := dedup (ps.map (·.blk))
    t.pairs.filter fun p => bs.contains p.blk
  else []

/-- Whether every source line that a list of pairs draws on has landed. -/
def allLanded (s : State) (x : Stream) (t : Tile) (g : Group) (ps : List Pair) : Bool :=
  (srcLocs s x t ps).all fun l => (landedAt g .data l).isSome

/-- The output lines of a stream that have not left their quadrants, with their tiles and groups. -/
def outLines (x : Stream) : List (Tile × Group × OutLine) := (allGroups x).flatMap fun e => e.2.outs.map fun o => (e.1, e.2, o)

/-- Passes of an output line (R120). -/
def passesOf (s : State) (x : Stream) (t : Tile) (o : OutLine) : Nat := max 1 (((srcLocs s x t o.pairs).length + 63) / 64)

/-! ### Assembly of a line (R83, R98, R105) -/

/-- A choice among `n` for an element of a tile that several writes reach. -/
def aliasPick (s : State) (n : Nat) : Nat := if n ≤ 1 then 0 else Config.pick s.fresh % n

/-- Bits by which overlapping elements share a line (R98). -/
def overlapSel (s : State) : Nat := ((List.range 128).map fun j => (Config.restBits (s.fresh + j)).toNat * 2 ^ (8 * j)).foldl (· + ·) 0

/-- Put the final elements of a line together, one for each destination address. The enables are those of the bytes covered whole; a
GATHER's last partial byte is written with it, and a byte that a TENSOR covers in part all the same, at an edge of its bound box of which no
other element is known to be written (R92), is written with its other bits free (log 17). -/
def assemble (s : State) (x : Stream) (o : OutLine) (es : List (Nat × Nat)) : State × Ready :=
  let w := dstW x.desc
  let r := es.foldl (fun (acc : State × Asm) e =>
    let b := placeBits (bitPos o.vl e.1) w e.2
    if acc.2.cov &&& b.1 = 0 then (acc.1, acc.2.put b.1 b.2 0)
    else ({ acc.1 with fresh := acc.1.fresh + 128 }, acc.2.put b.1 b.2 (overlapSel acc.1))) (s, ⟨0, 0⟩)
  let s := r.1
  let flush := o.pairs.any fun p => p.blk == [1] && dType x.desc == 3
  if flush then
    let last := match o.pairs.getLast? with | some p => (p.dst + w - 1) % 2 ^ 52 / 8 | none => 0
    let be : LineEn := if last / 128 = o.vl then BitVec.ofNat 128 (2 ^ (last % 128)) else 0
    ({ s with fresh := s.fresh + 128 }, ⟨o, fillRest r.2 s.fresh, be⟩)
  else
    let be := covBe r.2.cov (dType x.desc == 2)
    if be == covBe r.2.cov false then (s, ⟨o, BitVec.ofNat 1024 r.2.dat, be⟩)
    else ({ s with fresh := s.fresh + 128 }, ⟨o, fillRest r.2 s.fresh, be⟩)

/-- A line is ready for write issue; one without enabled bytes writes nothing. -/
def addReady (s : State) (c : Nat) (t : Tile) (g : Group) (x : Stream) (vals : List (Nat × Nat)) (r : Ready) : State :=
  modTile s c t.no fun t =>
    { t with
      strad := t.strad ++ vals.filter fun v => straddles x v.1 && !(t.strad.any fun w => w.1 == v.1)
      groups := t.groups.map fun u => if u.no == g.no && r.be != 0 then { u with ready := u.ready ++ [r] } else u }

/-- The value of each destination element of a line: the one kept from the neighbouring line, else one of the writes that
reach it (R98). -/
def pickVals (s : State) (t : Tile) (o : OutLine) (val : Elem → Nat) (es : List Elem) : State × List (Nat × Nat) :=
  (lineDsts o).foldl (fun acc a =>
    match t.strad.find? fun v => v.1 == a with
    | some v => (acc.1, acc.2 ++ [v])
    | none =>
      let cs := es.filter fun e => e.pair.dst == a
      match cs[aliasPick acc.1 cs.length]? with
      | some e => (bump acc.1, acc.2 ++ [(a, val e)])
      | none => acc) (s, [])

/-- A line of a descriptor that does not cast bypasses Mordant: its bits are copied (R25, R109). -/
def bypassLine (s : State) (c : Nat) (x : Stream) (t : Tile) (g : Group) (o : OutLine) : State :=
  let p := pickVals s t o (·.raw) (o.pairs.map (elemOf s x t g))
  let r := assemble p.1 x o p.2
  addReady r.1 c t g x p.2 r.2

/-- OUTPUT_LINE_EMIT (R25, R109, R111, R118, R120, R123, R124): the `k`-th output line of a channel whose source lines have
landed leaves its quadrant. -/
def execOutputLineEmit (c : Ch) (k : Nat) (ecc : Ecc) (s : State) : Host.Outcome State Fault Refusal :=
  match flowing s c.val with
  | none => .next s
  | some x =>
    match (outLines x)[k]? with
    | none => .next s
    | some (t, g, o) =>
      if !allLanded s x t g (o.pairs ++ blockPairs x t o.pairs) || !powered s (8 + g.quad) then .next s
      else
        let word := (Config.unstated s.fresh).toNat
        let q := kq s g.quad
        let n := if o.scale then 0 else passesOf s x t o
        let q := { q with pass := q.pass + BitVec.ofNat 64 n, extra := q.extra + BitVec.ofNat 32 (n - 1) }
        let s := match ecc with
          | .clean => setKq s g.quad q
          | .corrected => raise (setKq s g.quad { q with corr := satAdd 16 q.corr 1 }) (0x20 + g.quad) word 0 (8 + g.quad)
          | .uncorrectable => raise (setKq s g.quad { q with uncorr := satAdd 8 q.uncorr 1 }) (0x24 + g.quad) word c.val (8 + g.quad)
        if ecc == .uncorrectable then .next (tileFail s c.val t.no t.att .ecc (cECC, 0))
        else
          let s' := modGroup s c.val t.no g.no fun u => { u with outs := u.outs.erase o }
          if casts x.desc then
            let em : Emitted := ⟨o, o.pairs.map (elemOf s x t g), (blockPairs x t o.pairs).map (elemOf s x t g)⟩
            .next (modGroup s' c.val t.no g.no fun u => { u with emitted := u.emitted ++ [em] })
          else .next (bypassLine s' c.val x t g o)

/-! ### Mordant (R127, R133, R135, R139, R142 to R155) -/

/-- The byte at a virtual address among the landed scale lines. -/
def scaleByte (s : State) (t : Tile) (g : Group) (va : Nat) : Nat := landedBits s t g .scale (va * 8) 8

/-- The scale byte of an element's source block, or 0. -/
def srcScale (s : State) (x : Stream) (t : Tile) (g : Group) (p : Pair) : Nat :=
  if isBlock (dSfmt x.desc) && p.src.isSome then scaleByte s t g (scaleVa x p.so (dSfmt x.desc)) else 0

/-- The scale byte of a block discovered from its elements, and whether it is NaN. -/
def blockScale (s : State) (x : Stream) (t : Tile) (g : Group) (es : List Elem) (blk : List Int) : Nat × Bool :=
  discover (dDfmt x.desc) (valsOf x.desc (srcScale s x t g) (es.filter fun e => e.pair.blk == blk))

/-- The scale byte under which an element is quantised: discovered, or supplied. -/
def dstScale (s : State) (x : Stream) (t : Tile) (g : Group) (es : List Elem) (p : Pair) : Nat :=
  if !isBlock (dDfmt x.desc) then 0
  else if dSdisc x.desc then (blockScale s x t g es p.blk).1
  else scaleByte s t g (scaleVa x p.dof (dDfmt x.desc))

/-- Whether a destination block discovers a scale that stands for zeros alone (R143). -/
def blockZero (s : State) (x : Stream) (t : Tile) (g : Group) (es : List Elem) (blk : List Int) : Bool :=
  let vs := valsOf x.desc (srcScale s x t g) (es.filter fun e => e.pair.blk == blk)
  isBlock (dDfmt x.desc) && dSdisc x.desc
    && vs.all (fun v => match v with | .fin _ _ _ => true | _ => false) && (amaxOf vs).1 == 0

/-- A group with the lines that its whole tile has landed: an element in two lines is accumulated from both (R98, R150). -/
def tileLanded (t : Tile) (g : Group) : Group := { g with landed := t.groups.flatMap (·.landed) }

/-- Whether the scale and destination lines that a line's cast needs have landed. -/
def castReady (s : State) (x : Stream) (t : Tile) (g : Group) (o : OutLine) : Bool :=
  (dSdisc x.desc && isBlock (dDfmt x.desc)
    || o.pairs.all fun p => match pairScale x p with
      | some v => (landedAt g .scale (vlineLoc s t.xset (v / 128))).isSome
      | none => true)
  && (!dAcc x.desc || o.pairs.all fun p => (bitLines p.dst (dstW x.desc)).all fun v => (landedAt (tileLanded t g) .acc (vlineLoc s t.xset v)).isSome)

/-- The unit's generator before a draw: a pending RESEED loads it, and a seed of 0 loads as 1 (R156). -/
def drawGen (u : Md) : Md := if u.reseed then { u with reseed := false, gen := if u.seed = 0 then 1 else u.seed } else u

/-- Cast each element of a line: its destination bits with its pair, and the counts. -/
def castLine (s : State) (x : Stream) (t : Tile) (g : Group) (em : Emitted) (gen : BitVec 64) : List Elem × Tally :=
  let es := ((List.range em.elems.length).zip em.elems)
  es.foldl (fun acc e =>
    let r := castElem x.desc (srcScale s x t g) (dstScale s x t g em.block)
      (fun p => blockZero s x t g em.block p.blk) (fun i => (Config.srDraw gen i).toNat) e.2 (2 * e.1) ⟨0, 0⟩
    let tally := if e.2.pair.dst / 1024 = em.line.vl then Tally.mk (acc.2.sat + r.2.sat) (acc.2.nan + r.2.nan) else acc.2
    (acc.1 ++ [⟨e.2.pair, r.1⟩], tally)) ([], ⟨0, 0⟩)

/-- Add up contributions to an element in an order of free choice (R149). -/
def accSum (d : DescData) : Nat → State → Nat → List Elem → Tally → State × Nat × Tally
  | 0, s, v, _, t => (s, v, t)
  | n + 1, s, v, es, t =>
    match es[aliasPick s es.length]? with
    | none => (s, v, t)
    | some e =>
      let r := accElem d v e.raw ⟨0, 0⟩
      accSum d n (bump s) r.1 (es.erase e) ⟨t.sat + r.2.sat, t.nan + r.2.nan⟩

/-- The new value of each destination element of a line under ACC. -/
def accVals (s : State) (x : Stream) (t : Tile) (g : Group) (o : OutLine) (es : List Elem) : State × List (Nat × Nat) × Tally :=
  (lineDsts o).foldl (fun acc a =>
    match t.strad.find? fun v => v.1 == a with
    | some v => (acc.1, acc.2.1 ++ [v], acc.2.2)
    | none =>
      let cs := es.filter fun e => e.pair.dst == a
      let r := accSum x.desc cs.length acc.1 (landedBits s t (tileLanded t g) .acc a (dstW x.desc)) cs acc.2.2
      (r.1, acc.2.1 ++ [(a, r.2.1)], r.2.2)) (s, [], ⟨0, 0⟩)

/-- Bytes of a scale line that discovery writes, with their values and how many blocks were discovered and were NaN. -/
def scaleLine (s : State) (x : Stream) (t : Tile) (g : Group) (em : Emitted) : State × Ready × Nat × Nat :=
  let o := em.line
  let blks := dedup (o.pairs.map fun p => ((pairScale x p).getD 0, p.blk))
  let vals := blks.map fun b => (b.1, blockScale s x t g em.block b.2)
  let r := (dedup (vals.map (·.1))).foldl (fun (acc : State × Nat × Nat) a =>
    let cs := vals.filter fun v => v.1 == a
    match cs[aliasPick acc.1 cs.length]? with
    | some v => (bump acc.1, acc.2.1 + v.2.1 * 2 ^ (8 * (a % 128)), acc.2.2 + 2 ^ (a % 128))
    | none => acc) (s, 0, 0)
  (r.1, ⟨o, BitVec.ofNat 1024 r.2.1, BitVec.ofNat 128 r.2.2⟩, vals.length, (vals.filter (·.2.2)).length)

/-- MORDANT_CAST (R25, R127, R133 to R152, R155): the `k`-th line of a channel that waits at Mordant, with its scales and its
destination line there, is cast and is ready for write issue. -/
def execMordantCast (c : Ch) (k : Nat) (ecc : Ecc) (s : State) : Host.Outcome State Fault Refusal :=
  match flowing s c.val with
  | none => .next s
  | some x =>
    match ((allGroups x).flatMap fun e => e.2.emitted.map fun m => (e.1, e.2, m))[k]? with
    | none => .next s
    | some (t, g, em) =>
      let n := unitOf s c.val g.quad g.no em.line.loc
      if !castReady s x t g em.line || !powered s (12 + n) then .next s
      else
        let u := md s n
        let word := (Config.unstated s.fresh).toNat
        match ecc with
        | .uncorrectable =>
          let s := raise (setMd s n { u with uncorr := satAdd 8 u.uncorr 1 }) (0x30 + n) word c.val (12 + n)
          .next (tileFail s c.val t.no t.att .ecc (cECC, 0))
        | _ =>
          let corr := ecc == .corrected
          let u := if corr then { u with corr := satAdd 16 u.corr 1 } else u
          let s := if corr then raise s (0x28 + n) word 0 (12 + n) else s
          let s := modGroup s c.val t.no g.no fun h => { h with emitted := h.emitted.erase em }
          if em.line.scale then
            let r := scaleLine s x t g em
            let u := { u with blk := u.blk + BitVec.ofNat 32 r.2.2.1, nanblk := u.nanblk + BitVec.ofNat 32 r.2.2.2 }
            .next (addReady (setMd r.1 n u) c.val t g x [] r.2.1)
          else
            let draws := dRnd x.desc == 5 && dSfmt x.desc != dDfmt x.desc
            let u := if draws then drawGen u else u
            let cl := castLine s x t g em u.gen
            let p := if dAcc x.desc then accVals s x t g em.line cl.1
              else let q := pickVals s t em.line (·.raw) cl.1; (q.1, q.2, ⟨0, 0⟩)
            let r := assemble p.1 x em.line p.2.1
            let u := { u with
              gen := if draws then Config.genNext u.gen else u.gen
              sat := u.sat + BitVec.ofNat 32 (cl.2.sat + p.2.2.sat), nan := u.nan + BitVec.ofNat 32 (cl.2.nan + p.2.2.nan) }
            .next (addReady (setMd r.1 n u) c.val t g x p.2.1 r.2)

/-! ### Acknowledgements and errors -/

/-- A message, a dump's record or a line of a save area has been answered OKAY; other requests of the block itself have commands of their
own for that. -/
def ownAck (s : State) (e : OwnReq) : State :=
  match e.kind with
  | .dead _ => ownLate s e
  | .msi => ownGone s e.id
  | .dump => ownGone s e.id
  | .save _ => if e.op = 1 then ownGone s e.id else s
  | _ => s

/-- WRITE_ACKNOWLEDGE (R23, R182, R191, R266): the receiver has taken a local write. A line that a core port holds, that waits at a gate, or
that a relay chain has not passed on to its last member, has no acknowledgement yet; a remote one is acknowledged by its packet. -/
def execWriteAcknowledge (line : Nat) (s : State) : Host.Outcome State Fault Refusal :=
  match lineOf s line with
  | none => .next (match ownOf s line with | some e => ownAck s e | none => s)
  | some l =>
    match l.kind with
    | .read .. => .next s
    | .signal .. => .next s
    | _ => if isRemote l.loc || !l.left.isEmpty || heldAtCore s l || noAnswer s l || anyGate s [l.loc] then .next s
      else .next (lineAck s l)

/-- RELAY_FORWARD (R182, R197): a line enters its chain, or a member passes it on to the next higher one, once that member has the
earlier lines of the chain. A fenced input gets no grant, and the line is lost there. -/
def execRelayForward (line : Nat) (s : State) : Host.Outcome State Fault Refusal :=
  match lineOf s line with
  | none => .next s
  | some l =>
    match l.left, l.loc with
    | k :: rest, .relay n off =>
      if heldAtCore s l || noAnswer s l || chainWaits s n k l.id then .next s
      else if coreFenced s k (coreInput s k l) then .next (loseLine s l.id)
      else
        let l' := { l with left := rest }
        let s := setLines s (s.path.lines.map fun y => if y.id == l.id then l' else y)
        if coreErr s k off true then .next (lineFail (raise s (0x90 + k) off 2 (0x30 + k / 2)) l' .error)
        else .next (coreWrite s k off l')
    | _, _ => .next s

/-- The error that a response stands for, and its code (Table 09-3). -/
def respErr : ErrResp → LErr × Nat
  | .poison => (.poison, 1)
  | .error => (.error, 2)
  | .world => (.world, 3)

/-- A request of the block itself is answered with an error, which its port counts and reports (R207). A record's error has its own
consequence (R71), and the answers of fetches, walks and polls come with commands of their own. -/
def ownError (s : State) (e : OwnReq) (r : ErrResp) : State :=
  match e.kind with
  | .record c => recordFail s c r
  | .poll .. => s
  | .fetch _ => s
  | .walk _ => s
  | .image => s
  | .dead _ => ownLate s e
  | _ => memErr (ownGone s e.id) e.port e.addr e.op (respErr r).2

/-- FABRIC_ERROR_RESPONSE (R207, R211, R380): a local line, or a request of the block itself, is answered POISON, ERROR or WORLD. The
bank of a stage line answers nothing of the kind. -/
def execFabricErrorResponse (line : Nat) (r : ErrResp) (s : State) : Host.Outcome State Fault Refusal :=
  match lineOf s line with
  | none => .next (match ownOf s line with | some e => ownError s e r | none => s)
  | some l =>
    match l.loc with
    | .stage _ => .next s
    | .remote .. => .next s
    | loc =>
      if l.echo = 2 || heldAtCore s l || noAnswer s l then .next s
      else
        let e := respErr r
        let s := match loc with
          | .relay n off =>
            let k := ((members s n).filter fun k => !l.left.contains k).getLast?.getD 0
            raise s (0x90 + (if isWrite l.kind then k else (members s n).headD 0)) off e.2 (0x30 + k / 2)
          | _ => errEvent s loc (lineOp l.kind) e.2
        .next (lineFail s l e.1)

/-- LATE_RESPONSE (R204, R206, R353): a response with an ID that a memory port still has outstanding comes for a line that has timed out: it
is dropped and counted, and the ID is free. A target answers no other ID (R204). -/
def execLateResponse (r : FabRsp) (s : State) : Host.Outcome State Fault Refusal :=
  if s.boot.phase != .running then .next s
  else match ownOf s (65536 * r.port.val + r.id.toNat) with
    | some e => .next (if isDead e then ownLate s e else s)
    | none => .next s

/-- LINE_TIMEOUT (R204, R380, Table 03-18): a line's answer has not come in time; a line that a core port holds is discarded. -/
def execLineTimeout (line : Nat) (s : State) : Host.Outcome State Fault Refusal :=
  match lineOf s line with
  | none => .next s
  | some l => .next (lineFail (unhold (lineGhost s l) l.id) l .timeout)

/-! ### Registers of the data path (Tables 05-6, 06-13, 07-6, 08-2, 09-6) -/

/-- Offset of a stream-page register. -/
def strOff (r : Nat) : Nat := 0x7000 + r

/-- World of the echo registers: the echo pool's, or PD60's (Table 19-1). -/
def echoSecure (s : State) : Bool :=
  match (if s.img.isSome then echoPool s else none) with
  | some p => !p.ns
  | none => domSecure s 60

/-- ECHO_FLUSH (R180): MZ_ECHO_CTRL is written; FLUSH drops every copy, and copies on their way are not installed. -/
def execEchoFlush (ns : Bool) (v : W32) (s : State) : Host.Outcome State Fault Refusal :=
  .next (mmioW s (strOff 0x50) ns (echoSecure s) fun s =>
    { s with path := { s.path with
      echoDis := bitOf v 1, echo := [], echoFlush := true
      lines := s.path.lines.map fun l => if l.echo == 1 then { l with echo := 0 } else l } })

/-- ECHO_FLUSH_DONE (R180): FLUSH reads 0. -/
def execEchoFlushDone (s : State) : Host.Outcome State Fault Refusal :=
  .next { s with path := { s.path with echoFlush := false } }

/-- Whether a member set may be enabled (R181, R321). -/
def relayOk (s : State) (ms : List Nat) : Bool :=
  !ms.isEmpty && ms.all (fun k => (im s).cPresent.getLsbD k || s.img.isNone)
    && ms.all fun k => domSecure s (48 + k / 2) == domSecure s (48 + ms.headD 0 / 2)

/-- World of chain `n`, as its members had it when EN was last set: secure with any secure member; one never enabled, or enabled empty,
follows no core port and is non-secure (R319, R321). -/
def relaySecure (s : State) (n : Nat) : Bool := s.img.isNone || locSecure s (.relay n 0)

/-- A write of MZ_RELAY_n (R181, R321): while EN is 1 only EN changes, and R181 names no fault source for a
changed MEMBERS there; EN = 1 with a member set that may not be enabled is refused. -/
def relayWrite (n : Nat) (v : W32) (s : State) : State :=
  let x := relay s n
  let ms := (List.range 16).filter fun k => bitOf v k
  if x.en then setRelay s n { x with en := bitOf v 16 }
  else if bitOf v 16 && !relayOk s ms then refuse s (strOff (0x80 + 4 * n)) 0 mmioIsland
  else setRelay s n ⟨bitOf v 16, BitVec.ofNat 16 (fld v 0 16), if bitOf v 16 then ms.any fun k => domSecure s (48 + k / 2) else x.sec⟩

/-- RELAY_ENABLE (R181, R321). -/
def execRelayEnable (n : Fin 16) (ns : Bool) (v : W32) (s : State) : Host.Outcome State Fault Refusal :=
  .next (mmioW s (strOff (0x80 + 4 * n.val)) ns (relaySecure s n.val) (relayWrite n.val v))

/-- What a read of a pool's tag register gives, and the mark it leaves. -/
def tagRead (p : Pool) (s : State) : State × W32 :=
  let u := tagsUsed s p
  let h := match p with | .rd => s.path.hwmRd | .wr => s.path.hwmWr | .rm => s.path.hwmRm
  let q := s.path
  ({ s with path := match p with
      | .rd => { q with hwmRd := u }
      | .wr => { q with hwmWr := u }
      | .rm => { q with hwmRm := u } }, BitVec.ofNat 32 (2 ^ 16 * min h 0xFFFF + min u 0xFFFF))

/-- TAG_HWM_READ (R183, Table 07-6): HWM and USED are returned, and HWM starts anew from the tags held (DEDUCED, log 27). -/
def execTagHwmRead (p : Pool) (ns : Bool) (s : State) : Host.Outcome State Fault Refusal :=
  .next (mmioR s (strOff (match p with | .rd => 0x40 | .wr => 0x44 | .rm => 0x48)) ns (domSecure s 60) (tagRead p))

/-- Offset of a Kaleidoscope register. -/
def kqOff (q r : Nat) : Nat := 0x1A000 + 0x40 * q + r

/-- What a read of MZ_KQ_LAND gives, and the mark it leaves. -/
def kqLand (q : Nat) (s : State) : State × W32 :=
  let u := landUsed s q fun _ => true
  let k := kq s q
  (setKq s q { k with hwm := u }, BitVec.ofNat 32 (2 ^ 16 * min k.hwm 0x3FFF + min u 0x3FFF))

/-- KQ_LAND_READ (R112, Table 05-6): HWM and USED are returned, and HWM starts anew from the lines reserved (DEDUCED, log 27). -/
def execKqLandRead (q : Fin 4) (ns : Bool) (s : State) : Host.Outcome State Fault Refusal :=
  .next (mmioR s (kqOff q.val 0) ns (domSecure s (8 + q.val)) (kqLand q.val))

/-- KQ_CLRCNT (R121, Table 05-6): CLRCNT clears PASS, EXTRA, FULL, RESWAIT and ECC. -/
def execKqClrcnt (q : Fin 4) (ns : Bool) (v : W32) (s : State) : Host.Outcome State Fault Refusal :=
  let _ := v
  .next (mmioW s (kqOff q.val 0x1C) ns (domSecure s (8 + q.val)) fun s =>
    setKq s q.val { hwm := (kq s q.val).hwm, latch := (kq s q.val).latch })

/-- Offset of a Mordant register. -/
def mdOff (u r : Nat) : Nat := 0x1B000 + 0x40 * u + r

/-- A write of MZ_MD_CTRL (R156): CLRCNT clears the counters; RESEED waits for the unit's next draw. -/
def mdCtrl (u : Nat) (v : W32) (s : State) : State :=
  let x := md s u
  let x := if bitOf v 0 then { x with sat := 0, nan := 0, blk := 0, nanblk := 0, acclines := 0, corr := 0, uncorr := 0 } else x
  setMd s u (if bitOf v 1 then { x with reseed := true } else x)

/-- MD_CLRCNT (R156). -/
def execMdClrcnt (u : Fin 8) (ns : Bool) (v : W32) (s : State) : Host.Outcome State Fault Refusal :=
  .next (mmioW s (mdOff u.val 0x20) ns (domSecure s (12 + u.val)) (mdCtrl u.val (v ||| 1)))

/-- RESEED (R156). -/
def execReseed (u : Fin 8) (ns : Bool) (v : W32) (s : State) : Host.Outcome State Fault Refusal :=
  .next (mmioW s (mdOff u.val 0x20) ns (domSecure s (12 + u.val)) (mdCtrl u.val (v ||| 2)))

/-- Whether a memory port's block takes accesses: a locked image that marks the port absent hides it (R375). -/
def memThere (s : State) (m : Nat) : Bool := s.img.isNone || (im s).mPresent.getLsbD m

/-- MP_CLR (R207, Table 09-6): CLR clears LATE and ERRCNT. A port that a locked image marks absent ignores it (R375). -/
def execMpClr (m : Port) (ns : Bool) (v : W32) (s : State) : Host.Outcome State Fault Refusal :=
  let _ := v
  .next (mmioW s (0x6100 + 0x10 * m.val + 0xC) ns (memThere s m.val && domSecure s (44 + m.val / 2)) fun s =>
    if !memThere s m.val then s
    else setMp s m.val { mp s m.val with late := 0, errcnt := 0 })

end Sys2Proof.Machine
end

