-- ==== Sys2Proof/Machine/Stage.lean ====
section
/-! DEFINITION. Stage memory's own steps (the placement loop, scrubbing, the grant watchdog), the inbound sides of the memory
and core ports, and requests that the MMIO target refuses (R185 to R199, R208 to R213). -/

namespace Sys2Proof.Machine

/-! ### The placement loop (R189, R191) -/

/-- Offset of a bank-group register. -/
def bgOff (g r : Nat) : Nat := 0x1C000 + 0x40 * g + r
/-- Offset of a pool register. -/
def poolOff (p r : Nat) : Nat := 0x1C400 + 0x10 * p + r

/-- A pool of the image that names a group. -/
def poolIn (s : State) (g p : Nat) : Option PoolCfg := ((im s).pools[p]?).filter fun c => c.bgmask.getLsbD g

/-- MZ_BG_STATUS (Table 08-2): the pools that name the group, whether one of them migrates there, and whether the group is without power. -/
def bgStatus (s : State) (g : Nat) : W32 :=
  BitVec.ofNat 32 (2 ^ 16 * ((im s).pools.filter fun c => c.bgmask.getLsbD g).length + flag (!(bg s g).migr.isEmpty) 1
    + flag (!powered s (20 + g)) 0)

/-- PLACEMENT_WINDOW_END (R189, R198): a group's window of 65,536 T-cycles ends with these conflicts per bank for a pool, which its counter
takes in. Two windows in a row at THRESH arm the pool and draw its next salt; the echo pool is never armed. -/
def execPlacementWindowEnd (g : Fin 16) (p : Fin 32) (cnt : Vector Nat 8) (s : State) : Host.Outcome State Fault Refusal :=
  match poolIn s g.val p.val with
  | none => .next s
  | some c =>
    let cs := cnt.toList
    let b := bg s g.val
    let s := setBg s g.val { b with conflict := b.conflict + BitVec.ofNat 32 (cs.foldl (· + ·) 0) }
    if c.echo then .next s else
    let im := cs.foldl max 0 - cs.foldl min (cs.headD 0)
    let x := poolSt s p.val
    let n := if x.thresh.toNat ≤ im then min 2 (tget (fun _ => 0) x.hits g.val + 1) else 0
    let x := { x with hits := tset (fun _ => 0) x.hits g.val n }
    if 2 ≤ n ∧ !x.armed ∧ !x.dis then .next (bump (setPoolSt s p.val { x with armed := true, next := Config.salt s.fresh }))
    else .next (setPoolSt s p.val x)

/-- World of a pool's registers. -/
def poolSecure (s : State) (p : Nat) : Bool :=
  s.img.isNone || (match (im s).pools[p]? with | some c => !c.ns | none => false)

/-- A write of MZ_POOL_LOOP (R189): writing DIS with 1 disarms. -/
def poolLoop (p : Nat) (v : W32) (s : State) : State :=
  if (im s).pools.length ≤ p then s
  else
    let x := poolSt s p
    setPoolSt s p { x with dis := bitOf v 31, thresh := BitVec.ofNat 16 (fld v 0 16), armed := x.armed && !bitOf v 31 }

/-- POOL_DISARM (R189). -/
def execPoolDisarm (p : Fin 32) (ns : Bool) (v : W32) (s : State) : Host.Outcome State Fault Refusal :=
  .next (mmioW s (poolOff p.val 4) ns (poolSecure s p.val) (poolLoop p.val v))

/-! ### Scrubbing (R194) -/

/-- Rows that a pool takes in each bank of its groups. -/
def poolRows (c : PoolCfg) : Nat := 512 * c.size / max 1 (maskGroups c.bgmask).length

/-- First row of a pool in a group (R186). -/
def poolRow0 (s : State) (g : Nat) (c : PoolCfg) : Nat :=
  (((im s).pools.filter fun e => !e.echo && decide (e.base < c.base) && e.bgmask.getLsbD g).map poolRows).foldl (· + ·) 0

/-- The stage offsets of the eight lines in a row of a group, if a pool's window holds the row. -/
def rowLines (s : State) (g r : Nat) : Option (List Nat) :=
  ((im s).pools.find? fun c => c.bgmask.getLsbD g && decide (poolRow0 s g c ≤ r) && decide (r < poolRow0 s g c + poolRows c)).map
    fun c =>
      let gs := maskGroups c.bgmask
      let k := gs.idxOf g
      (List.range 8).map fun b => 0x80000 * c.base + 128 * ((8 * (r - poolRow0 s g c) + b) * gs.length + k)

/-- The next row to scrub from `r` on, wrapping after 4,095; rows outside every pool are skipped. -/
def nextRow (s : State) (g : Nat) : Nat → Nat → Option (Nat × List Nat)
  | 0, _ => none
  | n + 1, r =>
    match rowLines s g (r % 4096) with
    | some ls => some (r % 4096, ls)
    | none => nextRow s g n (r + 1)

/-- The event of a word that the scrubber finds, in the echo pool's group too (R193, R194). -/
def scrubEvent (s : State) (g w : Nat) (bad : Bool) : State :=
  if (placeOf s w).isSome then eccEvent s w bad
  else raise (bgEcc s g (if bad then 0 else 1) (if bad then 1 else 0)) ((if bad then 0x48 else 0x38) + g) w (8 * g + w / 128 % 8) (0x14 + g)

/-- The maintenance input of a group is granted at its eight banks. -/
def grantRow (s : State) (g : Nat) : State := (List.range 8).foldl (fun s b => grantBank s (8 * g + b) 35) s

/-- SCRUB_ROW (R194, R197): the row's uncorrectable words are counted and left; `ecc` says what else the codes find: a correctable
word, which is rewritten, or a word that turns out uncorrectable and stays so. A fenced maintenance input scrubs no more. -/
def execScrubRow (g : Fin 16) (ecc : Ecc) (s : State) : Host.Outcome State Fault Refusal :=
  let b := bg s g.val
  if b.scrubDis || b.fence.getLsbD 35 || !powered s (0x14 + g.val) then .next s
  else match nextRow s g.val 4096 b.pos.toNat with
    | none => .next s
    | some (r, ls) =>
      let s := grantRow (setBg s g.val { b with pos := BitVec.ofNat 12 (r + 1) }) g.val
      let w := ls.getD (Config.pick s.fresh % 8) 0 + 8 * (Config.pick (s.fresh + 1) % 16)
      let s := { s with fresh := s.fresh + 2 }
      let s := match ecc with
        | .clean => s
        | .corrected => scrubEvent s g.val w false
        | .uncorrectable =>
          if s.stage.bad.contains w then s
          else if (placeOf s w).isNone then scrubEvent s g.val w true
          else { s with stage := { s.stage with bad := s.stage.bad ++ [w] } }
      .next ((ls.flatMap fun o => badWords s o fullBe).foldl (fun s o => eccEvent s o true) s)

/-- A write of MZ_BG_CTRL (Table 08-2). -/
def bgCtrl (g : Nat) (v : W32) (s : State) : State :=
  if bitOf v 0 then setBg s g { bg s g with conflict := 0, corr := 0, uncorr := 0, bites := 0 } else s

/-- BG_CLRCNT (R198, Table 08-2). -/
def execBgClrcnt (g : Fin 16) (ns : Bool) (v : W32) (s : State) : Host.Outcome State Fault Refusal :=
  .next (mmioW s (bgOff g.val 0x1C) ns (domSecure s (20 + g.val)) (bgCtrl g.val (v ||| 1)))

/-! ### The grant watchdog (R197) -/

/-- The line whose transfer is discarded gets no answer; a packet of it that waits at a link port is dropped. -/
def discardLine (s : State) (line : Option Nat) : State :=
  match line with
  | none => s
  | some id =>
    match lineOf s id with
    | none => s
    | some l =>
      let s := loseLine s id
      if isRemote l.loc then
        (List.range 8).foldl (fun s p =>
          let k := link s p
          setLink s p { k with txq := k.txq.filter fun q =>
            !(isReq (pOpc (pktHdr q)) && pSchip (pktHdr q) == ownChip s && pRtag (pktHdr q) == id % 65536) }) s
      else unhold s id

/-- GRANT_WATCHDOG_BITE (R197): the transfer is discarded, the input is fenced until block reset, and the arbiter's source is
raised. A bank arbiter's bite fences the input at all eight banks of the group. In reset no arbiter runs (R353, R355). -/
def execGrantWatchdogBite (a : Arb) (input : BitVec 6) (line : Option Nat) (s : State) : Host.Outcome State Fault Refusal :=
  if s.boot.phase != .running then .next s
  else
  let i := input.toNat
  let s := discardLine s line
  match a with
  | .bank b =>
    let g := b.val / 8
    let x := bg s g
    .next (raise (setBg s g { x with bites := satAdd 8 x.bites 1, input := input, fence := putBit x.fence i true }) (0x58 + g) b.val i (0x14 + g))
  | .mem m =>
    let f := putBit (tget (fun _ => 0) s.stage.fenceMem m.val) i true
    .next (raise { s with stage := { s.stage with fenceMem := tset (fun _ => 0) s.stage.fenceMem m.val f } } (0x68 + m.val) 0 i (0x2C + m.val / 2))
  | .core n =>
    let f := putBit (tget (fun _ => 0) s.stage.fenceCore n.val) i true
    .next (raise { s with stage := { s.stage with fenceCore := tset (fun _ => 0) s.stage.fenceCore n.val f } } (0x70 + n.val) 0 i (0x30 + n.val / 2))
  | .link p =>
    let f := putBit (tget (fun _ => 0) s.stage.fenceLink p.val) i true
    .next (raise { s with stage := { s.stage with fenceLink := tset (fun _ => 0) s.stage.fenceLink p.val f } } (0x80 + p.val) 0 i (0x24 + p.val))

/-! ### Inbound accesses (R27, R193, R208, R211) -/

/-- The operation of a bus request as a world notice records it: 0 read, 1 write, 2 atomic (Table 15-4). -/
def noticeOp (r : FabReq) : Nat := min 2 r.op.toNat

/-- An inbound access of a stage line, with its answer: state, RESP, data. `bank` is what the bank's codes find in the words
that it reads or merges. -/
def inStage (s : State) (r : FabReq) (off input path agent : Nat) (bank : Ecc) : State × Nat × LineData :=
  let line := off / 128 * 128
  if r.ns && stageSecure s off then (notice s path (noticeOp r) agent r.addr.toNat 0, 3, 0)
  else match r.op.toNat with
    | 0 =>
      let k := if r.size = 3 then fullBe else BitVec.ofNat 128 ((2 ^ (if r.size = 0 then 4 else 8) - 1) * 2 ^ (off % 128))
      let q := stageRead s line k input bank
      (q.1, if q.2.2 then 1 else 0, if q.2.2 then 0 else q.2.1)
    | 1 => (stageWriteEcc s line r.data r.be input bank, 0, 0)
    | _ =>
      let n := if r.op.toNat = 3 then 8 else 4
      let (s, bad) := addCheck s off bank
      if bad then (s, 1, 0)
      else
        let v := r.data.toNat / 2 ^ (8 * (off % 128)) % 2 ^ (8 * n)
        let q := stageAdd s off n v input
        (q.1, 0, BitVec.ofNat 1024 (q.2 * 2 ^ (8 * (off % 128))))

/-- The channel number that an inbound write in a relay chain carries: that of no channel. -/
def noChan : Nat := 512

/-- An inbound write enters a relay chain as a mover line does, and is answered OKAY when its last member has taken it (R182, R208, R266). A
member's error is the member's own event, and its requester's answer (R207; DEDUCED, log 50). -/
def inRelay (s : State) (m : Nat) (r : FabReq) (n off : Nat) : State :=
  let k := (members s n).headD 0
  if coreErr s k off true then emit (raise s (0x90 + k) off 2 (0x30 + k / 2)) (.resp false m r.id 2 0)
  else
    let l : Line :=
      { id := 0, pool := .wr, ch := noChan, dseq := 0, kind := .inbound m r.id.toNat, loc := .relay n off, ns := r.ns, data := r.data, be := r.be
        gen := 0, xgen := 0, asid := 0, echo := 0, lane := 33, left := (members s n).tail }
    let a := addLine s l
    sendLine a.1 a.2 true 3 33

/-- The bank input of an inbound access: 33 of a memory port, 32 of a core port (Table 08-1). -/
def inInput (q : InReq) : Nat := if q.core then 32 else 33

/-- Whether an inbound access of a stage offset must wait: for its group's power, at a migrating pool's gate, or at a fenced input. -/
def inWaits (s : State) (off input : Nat) : Bool := !locReady s (.stage off) || gateClosed s off || inFenced s off input

/-- The OP and SIZE pairs that a port accepts (R208, R276). -/
def inAccepts (q : InReq) : Bool :=
  if q.core then
    (match q.req.op.toNat with
      | 0 => q.req.size != 2
      | 1 => q.req.size != 2
      | 2 => q.req.size == 0
      | 3 => q.req.size == 1
      | _ => false)
  else q.req.size == 3 && decide (q.req.op.toNat ≤ 1)

/-- Serve an accepted inbound access and answer it, or none while it waits (R27, R191, R208, R211). A write of a relay chain waits for a
write tag too (R182); that it may not take the eighth that R183 keeps for P0 is a DESIGN CHOICE (log 50). -/
def serveIn (s : State) (q : InReq) : Option State :=
  let ans := fun (a : State × Nat × LineData) => some (emit a.1 (.resp q.core q.port q.req.id a.2.1 a.2.2))
  if !powered s ((if q.core then 48 else 44) + q.port / 2) || !q.taken then none
  else if !inAccepts q then ans (s, 2, 0)
  else match locOf s q.req.addr.toNat with
    | .stage off =>
      if inWaits s off (inInput q) then none else ans (inStage s q.req off (inInput q) (if q.core then 2 else 1) q.port q.bank)
    | .relay n off =>
      if q.core || q.req.op.toNat != 1 || !(relay s n).en then ans (s, 2, 0)
      else if q.req.ns && locSecure s (.relay n off) then ans (notice s 1 1 q.port q.req.addr.toNat 0, 3, 0)
      else if !locReady s (.relay n off) || !tagFree s .wr 1 then none
      else some (inRelay s q.port q.req n (off / 128 * 128))
    | _ => ans (s, 2, 0)

/-- The needs of an inbound access that waits: its port's domain and its target's. -/
def inNeeds (s : State) (q : InReq) : State :=
  let s := need s ((if q.core then 48 else 44) + q.port / 2)
  match locOf s q.req.addr.toNat with
  | .stage off => locNeed s (.stage off)
  | .relay n off => if q.core then s else locNeed s (.relay n off)
  | _ => s

/-- Whether an earlier access of a port and ID is still unanswered: responses of one ID return in request order (R208). -/
def idBehind (s : State) (waiting : List InReq) (q : InReq) : Bool :=
  (waiting.any fun w => w.core == q.core && w.port == q.port && w.req.id == q.req.id)
    || (!q.core && s.path.lines.any fun l => l.kind == .inbound q.port q.req.id.toNat)

/-- The waiting accesses that may be served now, after those in `w`. -/
def inReady (s : State) : List InReq → List InReq → List InReq
  | [], _ => []
  | q :: qs, w =>
    let rest := inReady s qs (w ++ [q])
    if idBehind s w q || (serveIn s q).isNone then rest else q :: rest

/-- The bank that an inbound access reaches. -/
def inBank (s : State) (q : InReq) : Option Nat :=
  match locOf s q.req.addr.toNat with
  | .stage o => (placeOf s o).map fun e => e.2.1
  | _ => none

/-- Place of an access's input in the rotation of a bank's arbiter (R195). -/
def inRank (s : State) (b : Nat) (q : InReq) : Nat := (tget (fun _ => List.range 36) s.stage.rankBank b).idxOf (inInput q)

/-- The access that is served next of those that may be: the oldest, but for one that its bank's arbiter ranks before it (R195). -/
def inNext (s : State) (qs : List InReq) : Option InReq :=
  match qs with
  | [] => none
  | q :: rest =>
    match inBank s q with
    | none => some q
    | some b => some (rest.foldl (fun a y => if inBank s y == some b && decide (inRank s b y < inRank s b a) then y else a) q)

/-- Serve the waiting inbound accesses one by one, those that go on waiting with their needs. -/
def drainFrom : Nat → State → State
  | 0, s => s
  | n + 1, s =>
    match inNext s (inReady s s.ports.inq []) with
    | none => s.ports.inq.foldl inNeeds s
    | some q =>
      let t := { s with ports := { s.ports with inq := s.ports.inq.erase q } }
      drainFrom n ((serveIn t q).getD t)

/-- Serve every inbound access that may go. -/
def drainIn (s : State) : State := if !operating s then s else drainFrom (s.ports.inq.length + 1) s

/-- What passes while no command waits (log 10): one A-cycle of AON, and the inbound accesses that a wake has let go are served. -/
def idleStep (s : State) : State := drainIn (idleCycle s)

/-- A port accepts an inbound access, which is served or waits there. -/
def acceptIn (s : State) (q : InReq) : State := drainIn { s with ports := { s.ports with inq := s.ports.inq ++ [q] } }

/-- STAGE_INBOUND_REQUEST (R27, R191, R193, R208, R322): a memory port serves a request, or answers ERROR. While its pair or its bank
group is not powered, at a migrating pool's gate and at a fenced input the request waits. -/
def execStageInboundRequest (m : Port) (r : FabReq) (bank : Ecc) (s : State) : Host.Outcome State Fault Refusal :=
  if !operating s || (s.img.isSome && !(im s).mPresent.getLsbD m.val) then .next s
  else .next (acceptIn s ⟨false, m.val, r, bank, true⟩)

/-- CORE_INBOUND_REQUEST (R27, R191, R193, R211, R276, R322): a core's access to the stage window. One that is presented while MZ_CRDYn
is low waits unaccepted until it rises; one accepted before goes on. ADD is performed at the bank (DEDUCED, log 28). -/
def execCoreInboundRequest (n : CPort) (r : FabReq) (bank : Ecc) (s : State) : Host.Outcome State Fault Refusal :=
  if !operating s || (s.img.isSome && !(im s).cPresent.getLsbD n.val) then .next s
  else .next (acceptIn s ⟨true, n.val, r, bank, s.pins.crdy.getLsbD n.val⟩)

/-- Rotation of a row under a salt (R187). -/
def rowTurn (row : Nat) (salt : BitVec 12) : Nat := (0x0D2B * (row ^^^ salt.toNat) % 65536) / 4096 % 8

/-- Whether a migration moves a row of a pool: rows whose rotation is unchanged are skipped (R191). -/
def rowMoves (s : State) (p row : Nat) : Bool := rowTurn row (poolSt s p).old != rowTurn row (poolSt s p).salt

/-- The rows of a pool in a group that a migration moves. -/
def movedRows (s : State) (p : Nat) : List Nat :=
  match (im s).pools[p]? with
  | some c => (List.range (poolRows c)).filter (rowMoves s p)
  | none => []

/-- Whether a migration of a pool reads a word in a group. -/
def migrReads (s : State) (g p o : Nat) : Bool :=
  match poolOf s o, placeOf s o with
  | some (k, c), some (h, _, r) => k == p && h == g && rowMoves s p (r - poolRow0 s g c)
  | _, _ => false

/-- A word of a moved row, of free choice. -/
def migrWord (s : State) (g p : Nat) : Option Nat :=
  match (im s).pools[p]? with
  | none => none
  | some c =>
    let rs := movedRows s p
    match rs[Config.pick s.fresh % rs.length]? with
    | none => none
    | some r => (rowLines s g (poolRow0 s g c + r)).map fun ls =>
        ls.getD (Config.pick (s.fresh + 1) % 8) 0 + 8 * (Config.pick (s.fresh + 2) % 16)

/-- What the codes find as a migration reads a group's rows (R191 to R193): uncorrectable words keep their place and are reported, one that
turns out so among them; a correctable word is corrected. -/
def migrEcc (s : State) (g p : Nat) (bank : Ecc) : State :=
  let w := migrWord s g p
  let s := { s with fresh := s.fresh + 3 }
  let s := match bank, w with
    | .corrected, some w => eccEvent s w false
    | .uncorrectable, some w => if s.stage.bad.contains w then s else { s with stage := { s.stage with bad := s.stage.bad ++ [w] } }
    | _, _ => s
  (s.stage.bad.filter (migrReads s g p)).foldl (fun s o => eccEvent s o true) s

/-- SALT_MIGRATION_DONE (R191, R192): the group opens the pool's gate, and the accesses that waited there go on; with the last group,
CHANGES rises. `e.bank` is what the codes have found in the rows. A group whose maintenance input is fenced never finishes (R197). -/
def execSaltMigrationDone (g : Fin 16) (e : MigrEnd) (s : State) : Host.Outcome State Fault Refusal :=
  let b := bg s g.val
  if !b.migr.contains e.pool.val || b.fence.getLsbD 35 then .next s
  else
    let s := grantRow (setBg s g.val { b with migr := b.migr.erase e.pool.val }) g.val
    let s := migrEcc s g.val e.pool.val e.bank
    if (List.range 16).any fun k => (bg s k).migr.contains e.pool.val then .next (drainIn s)
    else
      let x := poolSt s e.pool.val
      .next (drainIn (setPoolSt s e.pool.val { x with changes := x.changes + 1 }))

/-! ### Core ports (R211, R213) -/

/-- Whether a line has been presented to a core and not answered, or is held at its port. -/
def atCore (s : State) (n : Nat) (l : Line) : Bool :=
  !l.left.contains lostMark && (match l.loc with
    | .core k _ => k == n
    | .relay c _ =>
      if isWrite l.kind then ((members s c).filter fun k => !l.left.contains k).getLast? == some n
      else (members s c).head? == some n
    | _ => false)

/-- CORE_READY_CHANGE (R211): while MZ_CRDYn is low the port answers every outbound line ERROR, those it holds or has presented among them;
when it rises, the accesses that the core has presented are served. -/
def execCoreReadyChange (n : CPort) (level : Bool) (s : State) : Host.Outcome State Fault Refusal :=
  let s := { s with pins := { s.pins with crdy := putBit s.pins.crdy n.val level } }
  if level then
    .next (drainIn { s with ports := { s.ports with inq := s.ports.inq.map fun q =>
      if q.core && q.port == n.val then { q with taken := true } else q } })
  else
    let ls := s.path.lines.filter (atCore s n.val)
    .next (ls.foldl (fun s l => lineFail (errEvent (unhold s l.id) (.core n.val (coreOffset l.loc)) (lineOp l.kind) 2) l .error) s)

/-- ACTIVATION_POSITION_FREE (R213): the core has freed a position, and the port presents the line held for it. -/
def execActivationPositionFree (n : CPort) (p : BitVec 13) (s : State) : Host.Outcome State Fault Refusal :=
  let c := cp s n.val
  let p := p.toNat
  match c.held.find? fun h => h.2 == p with
  | none => .next (setCp s n.val { c with busy := c.busy.erase p })
  | some h =>
    match lineOf s h.1 with
    | some l => .next (toCore (setCp s n.val { c with held := c.held.erase h }) n.val l 1)
    | none => .next (setCp s n.val { c with held := c.held.erase h, busy := c.busy.erase p })

end Sys2Proof.Machine
end

