-- ==== Sys2Proof/Machine/Remote.lean ====
section
/-! DEFINITION. The link inbound unit: remote requests served at this chip's stage windows, and the responses to this chip's
own remote lines (R27, R45, R235 to R239, R276). A command takes the oldest packet of its opcode that has arrived at the port for
this chip; with none it changes nothing. -/

namespace Sys2Proof.Machine

/-- The oldest packet of an opcode at port `p` that terminates here. -/
def inPkt (s : State) (p opc : Nat) : Option (Nat × Packet) :=
  oldest s p fun k => terminates s k && pOpc (pktHdr k) == opc

/-- Bytes that a request accesses. -/
def reqSize (opc : Nat) : Nat := if opc = 4 then 4 else if opc = 5 then 8 else 128

/-- Operation of a link notice (Table 15-4). -/
def reqOp (opc : Nat) : Nat := if opc = 1 then 0 else if opc ≤ 3 then 1 else 2

/-- Stage offset of a window's address. -/
def winOff (s : State) (h : Slot) : Nat := 4096 * (win s (pWin h)).base.toNat + pOff h

/-- RESP of the first check of R236 that a request fails; 0 when it passes every one. A non-secure request reaches neither a secure window
nor a secure pool behind a non-secure window (R27, R322). -/
def reqCheck (s : State) (k : Packet) : Nat :=
  let h := pktHdr k
  let w := win s (pWin h)
  if pTchk h ≠ (im s).cfgTag.toNat % 65536 ∨ overTransit k then 4
  else if (im s).windows ≤ pWin h ∨ !w.valid then 2
  else if 4096 * w.size.toNat < pOff h + reqSize (pOpc h) then 2
  else if pNs h && (winSecure s (pWin h) || stageSecure s (winOff s h)) then 3 else 0

/-- The response packet of a request. -/
def rspPkt (s : State) (h : Slot) (opc : Nat) (body : List Slot) : Packet :=
  ⟨mkHdr opc 0 (pSchip h) (ownChip s) 0 (pNs h) 0 false (pRtag h) 0 0 0 :: body, 32⟩

/-- Serve a request of an opcode (R236): its checks in order, then `act` at the stage offset, or POISON for data that the code
of the receive buffer could not correct. While input 34 is fenced at the bank, its pool migrates there (R191) or its bank group is without
power (R315), the request waits. -/
def serve (s : State) (p opc : Nat) (ecc : RxEcc) (act : State → Slot → List Slot → Nat → State × Packet) : State :=
  match inPkt s p opc with
  | none => s
  | some (i, k) =>
    let h := pktHdr k
    let off := winOff s h
    let c := reqCheck s k
    if !operating s then s
    else if c = 0 && inWaits s off 34 then locNeed s (.stage off)
    else
      let s := rxCorr (takePkt s p i) p ecc
      if ecc == .header then discardHdr s p k
      else if c ≠ 0 then
        sendPkt (if c = 3 then notice s 3 (reqOp opc) p (pOff h) (pSchip h) else s) (errFor s h c)
      else if ecc == .data && opc != 1 then sendPkt s (errFor s h 1)
      else let r := act s h k.slots.tail off; sendPkt r.1 r.2

/-- The line that a packet's data slots carry. -/
def slotsLine (b : List Slot) : LineData := BitVec.ofNat 1024 (slotsNat (b.take 8))

/-- A remote read at its bank. -/
def serveRead (bank : Ecc) (s : State) (h : Slot) (_ : List Slot) (off : Nat) : State × Packet :=
  let r := stageRead s off fullBe 34 bank
  if r.2.2 then (r.1, errFor s h 1) else (r.1, rspPkt s h 6 (dataSlots r.2.1))

/-- A remote addition at its bank. -/
def serveAdd (size : Nat) (bank : Ecc) (s : State) (h : Slot) (b : List Slot) (off : Nat) : State × Packet :=
  let (s, bad) := addCheck s off bank
  if bad then (s, errFor s h 1)
  else
    let r := stageAdd s off size ((b.headD 0).toNat % 2 ^ (8 * size)) 34
    (r.1, rspPkt s h 8 [BitVec.ofNat 128 r.2])

/-- RDREQ (R236, R239). -/
def execRdreq (p : Port) (ecc : RxEcc) (bank : Ecc) (s : State) : Host.Outcome State Fault Refusal :=
  .next (serve s p.val 1 ecc (serveRead bank))

/-- WRREQ (R236, R239): the whole line is written and acknowledged once visible. -/
def execWrreq (p : Port) (ecc : RxEcc) (s : State) : Host.Outcome State Fault Refusal :=
  .next (serve s p.val 2 ecc fun s h b off => (stageWrite s off (slotsLine b) fullBe 34, rspPkt s h 7 []))

/-- WRPART (R236, R239): the enabled bytes are written. -/
def execWrpart (p : Port) (ecc : RxEcc) (s : State) : Host.Outcome State Fault Refusal :=
  .next (serve s p.val 3 ecc fun s h b off => (stageWrite s off (slotsLine b.tail) (b.headD 0) 34, rspPkt s h 7 []))

/-- ADD32 (R236, R239, R276). -/
def execAdd32 (p : Port) (ecc : RxEcc) (bank : Ecc) (s : State) : Host.Outcome State Fault Refusal :=
  .next (serve s p.val 4 ecc (serveAdd 4 bank))

/-- ADD64 (R236, R239, R276). -/
def execAdd64 (p : Port) (ecc : RxEcc) (bank : Ecc) (s : State) : Host.Outcome State Fault Refusal :=
  .next (serve s p.val 5 ecc (serveAdd 8 bank))

/-! ### Responses (R237) -/

/-- The number of the request to another chip whose remote tag is 0 (`takeId`). -/
def remoteNo : Nat := 655360

/-- The read which precedes tiles, or the poll, that a response of an opcode answers: one that still waits for its answer. -/
def ownReadTag (s : State) (h : Slot) (opc : Nat) : Option OwnReq :=
  if opc = 6 ∨ opc = 9 then
    (ownOf s (remoteNo + pRtag h)).filter fun e => (match e.kind with | .poll .. => true | _ => false) && e.ans.isNone
  else none

/-- RESP and data that a read which precedes tiles, or a poll, takes from its packet: POISON for data that the code could not correct
(R239). An error keeps the SCHIP of its sender (R237); one of RESP 0 is an ERROR (DEDUCED, log 51). -/
def ownAns (k : Packet) (opc : Nat) (ecc : RxEcc) : Nat × LineData :=
  let h := pktHdr k
  if opc = 6 then (if ecc == .data then (1, 0) else (0, BitVec.ofNat 1024 (slotsNat (k.slots.tail.take 8))))
  else (if pResp h = 0 then 2 else pResp h, BitVec.ofNat 1024 (pSchip h))

/-- The response of a read which precedes tiles, or of a poll, is kept for its command, and its number is free once that has taken it. -/
def ownAnswered (s : State) (id : Nat) (a : Nat × LineData) : State :=
  { s with ports := { s.ports with own := s.ports.own.map fun e => if e.id == id then { e with ans := some a } else e } }

/-- The line of a remote tag that a response of an opcode answers. -/
def tagLine (s : State) (h : Slot) (opc : Nat) : Option Line :=
  match lineOf s (remoteNo + pRtag h) with
  | none => none
  | some l =>
    let ok := match opc, l.kind with
      | 6, .read .. => true
      | 7, .write .. => true
      | 7, .popWrite => true
      | 7, .signal add _ => !add
      | 8, .signal add _ => add
      | 9, _ => true
      | _, _ => false
    if ok then some l else none

/-- Take the oldest response of an opcode and match it to its line; without one it is discarded with a link-protocol event, which also
frees the number of a line that has timed out (R204).
Data that the receive buffer's code could not correct make the response one of POISON (R239). -/
def response (s : State) (p opc : Nat) (ecc : RxEcc) (act : State → Packet → Line → State) : State :=
  match inPkt s p opc with
  | none => s
  | some (i, k) =>
    let h := pktHdr k
    let s := rxCorr (takePkt s p i) p ecc
    if ecc == .header then discardHdr s p k
    else match tagLine s h opc with
      | some l => if ecc == .data && (opc == 6 || opc == 8) then lineFail s l .poison else act s k l
      | none =>
        match ownReadTag s h opc with
        | some e => ownAnswered s e.id (ownAns k opc ecc)
        | none =>
          let s := match ownOf s (remoteNo + pRtag h) with | some e => if isDead e then ownLate s e else s | none => s
          raise s (0xA8 + p) (fld h 0 64) (pSchip h) (0x24 + p)

/-- A write or a SIGNAL to another chip is acknowledged. -/
def remoteAck (s : State) (l : Line) : State :=
  match l.kind with
  | .signal _ _ =>
    let s := dropLine s l.id
    match stream s l.ch with
    | some x => if x.wait == .signal l.id then finish s l.ch cOK 0 else s
    | none => s
  | _ => lineAck s l

/-- RDRSP (R237, R239): the line lands. -/
def execRdrsp (p : Port) (ecc : RxEcc) (s : State) : Host.Outcome State Fault Refusal :=
  .next (response s p.val 6 ecc fun s k l => landLine s l (slotsLine k.slots.tail))

/-- WRACK (R65, R237). -/
def execWrack (p : Port) (ecc : RxEcc) (s : State) : Host.Outcome State Fault Refusal :=
  .next (response s p.val 7 ecc fun s _ l => remoteAck s l)

/-- ADDRSP (R65, R237). -/
def execAddrsp (p : Port) (ecc : RxEcc) (s : State) : Host.Outcome State Fault Refusal :=
  .next (response s p.val 8 ecc fun s _ l => remoteAck s l)

/-- What a RESP does to its line (R237). -/
def rspErr (s : State) (h : Slot) (l : Line) : LErr :=
  match pResp h with
  | 1 => .poison
  | 3 => .world
  | 4 => .tag (pSchip h)
  | 5 => .link (match l.loc with
    | .remote chip _ _ => (match stream s l.ch with | some x => linkOf s chip (dPrio x.desc) | none => linkOf s chip 3)
    | _ => 0xFF)
  | _ => .error

/-- ERRRSP (R237). -/
def execErrrsp (p : Port) (ecc : RxEcc) (s : State) : Host.Outcome State Fault Refusal :=
  .next (response s p.val 9 ecc fun s k l => lineFail s l (rspErr s (pktHdr k) l))

end Sys2Proof.Machine
end

