-- ==== Sys2Proof/Machine/Context.lean ====
section
/-! DEFINITION. Contexts: switching out, the save area and its check, resume, abort and kill (R77 to R79, R253, R254, R256, R283,
R293 to R295, Table 03-20). -/

namespace Sys2Proof.Machine

/-! ### Switching out (R77) -/

/-- Whether a channel has nothing under way that R77 lets finish: no line outstanding, every tile past its pre-walk done, no
SIGNAL, arrival or handle on its way, no completion due and no record on its way. -/
def chanStill (s : State) (c : Nat) : Bool :=
  let k := chan s c
  !(s.path.lines.any fun l => l.ch == c) && k.recOut.isNone
    && (match k.stream with
      | none => true
      | some x =>
        x.tiles.all (fun t => !t.walked || tileDrained t)
          && (match x.wait with | .signal _ => false | .ack _ => false | .popWrite _ => false | _ => true)
          && (k.st != .running || (endOf s c x).isNone))

/-- Whether every channel of a context is still. -/
def ctxStill (s : State) (x : Nat) : Bool := (ctxChans s x).all (chanStill s)

/-- What a stream put aside waits for: a read of a WAIT VALUE, and a look-ahead of a skipped tile, begin anew. -/
def waitAside (x : Stream) : Wait :=
  match x.wait with
  | .value _ => .value false
  | .valueHigh _ => .value false
  | w => if isData x.desc then .none else w

/-- A stream is put aside: its finished tiles are counted, the tiles before their pre-walk keep nothing (R253), and its reads that precede
tiles, and its polls, are given up. -/
def setAside (s : State) (c : Nat) : State :=
  modStream (pollsGone (retireTiles s c) c) c fun x =>
    { x with tiles := x.tiles.map fun t => { t with xset := [] }, pre := [], wait := waitAside x }

/-- Objects of a context's owning window, by virtual number from `lo` on. -/
def ownObjs (s : State) (x lo n : Nat) : List Nat :=
  let k := ctx s x
  if k.own then ((List.range (min n k.count)).filter fun v => decide (lo ≤ v) && decide (k.base + v ≤ 4095)).map (k.base + ·) else []

/-- The privileged objects of a context (R285). -/
def privObjs (s : State) (x : Nat) : List Nat := ownObjs s x 0 16

/-! ### The save area (R78) -/

/-- The CRC-32 of IEEE 802.3, bits least significant first, over a list of bytes from register `r`. -/
def crc32From (r : Nat) : List Byte → Nat
  | [] => r
  | b :: bs =>
    let step := fun (c : Nat) => if c % 2 = 1 then (c / 2) ^^^ 0xEDB88320 else c / 2
    crc32From (iter step 8 (r ^^^ b.toNat)) bs

/-- The CRC-32 of a list of bytes. -/
def crc32 (bs : List Byte) : Nat := crc32From 0xFFFFFFFF bs ^^^ 0xFFFFFFFF

/-- The CRC of a save area: bytes 0 to 251, then byte 256 to the end. -/
def areaCrc (bs : List Byte) : Nat := crc32 (bs.take 252 ++ bs.drop 256)

/-- Size of a context's area. -/
def areaSize (s : State) (x : Nat) : Nat := 512 + 64 * (ctxChans s x).length

/-- Records of the privileged objects, 256 B (R294). -/
def privRecords (s : State) (x : Nat) : List Byte :=
  let rs := (privObjs s x).flatMap fun o =>
    let w := barRecord s o (bar s o).st.code (barWaiters s o).length
    leBytes 8 w.1.toNat ++ leBytes 8 w.2.toNat
  rs ++ List.replicate (256 - rs.length) 0

/-- A save area as it is written. The layout of bytes 0 to 251 and of each channel's 64 B is not given: free bytes. -/
def saveArea (s : State) (x : Nat) : List Byte :=
  let free := fun i => Config.saveByte s.fresh i
  let head := (List.range 252).map free
  let rest := privRecords s x ++ (List.range (64 * (ctxChans s x).length)).map fun i => free (512 + i)
  head ++ leBytes 4 (crc32 (head ++ rest)) ++ rest

/-- The bytes of a line from a list, from its byte `i` on. -/
def chunk (bs : List Byte) (i : Nat) : LineData × LineEn :=
  (BitVec.ofNat 1024 (leNat (sliceB bs i 128)), BitVec.ofNat 128 (2 ^ min 128 (bs.length - i) - 1))

/-- Lines of `n` bytes from a 4 KiB-aligned address. -/
def areaLines (n : Nat) : List Nat := (List.range ((n + 127) / 128)).map (128 * ·)

/-- Whether a world may reach a location inside the chip. -/
def reachable (s : State) (ns : Bool) (l : Loc) : Bool := !(ns && locSecure s l)

/-- Whether a line of a save area in stage memory waits at a migrating pool's gate, or at the fenced input of its accesses, lane 0's (R191,
R197; that lane is a DESIGN CHOICE, log 31). -/
def areaWaits (s : State) (x : Nat) : Bool :=
  (areaLines (areaSize s x)).any fun i => match locOf s (4096 * (ctx s x).save.toNat + i) with
    | .stage o => gateClosed s o || inFenced s o 0
    | _ => false

/-- A save area that lies in stage memory is written there; in external memory each line is a request of its port. -/
def areaStore (s : State) (x pa : Nat) (bs : List Byte) : State :=
  let ns := !ctxSecure s x
  (areaLines bs.length).foldl (fun s i =>
    match locOf s (pa + i) with
    | .stage o =>
      if reachable s ns (.stage o) then stageWrite s o (chunk bs i).1 (chunk bs i).2 0
      else notice s 6 1 ((ctxChans s x).headD 0) (pa + i) 0
    | .ext a => (ownReq (echoDrop s a) (memPortOf s a) 1 a (.save x)).1
    | _ => s) s

/-- A save area is read: in external memory each line is a request of its port. -/
def areaFetch (s : State) (x : Nat) : State :=
  let pa := 4096 * (ctx s x).save.toNat
  (areaLines (areaSize s x)).foldl (fun s i =>
    match locOf s (pa + i) with
    | .ext a => (ownReq s (memPortOf s a) 0 a (.save x)).1
    | _ => s) (emit s (.load x pa))

/-- The lines of a save area in stage memory are read, each in the context's world: whether every one was allowed and correct. One that the
world forbids raises a notice (R322), a hole its event (R185). -/
def areaProbe (s : State) (x : Nat) : State × Bool :=
  let pa := 4096 * (ctx s x).save.toNat
  let ns := !ctxSecure s x
  (areaLines (areaSize s x)).foldl (fun a i =>
    match locOf a.1 (pa + i) with
    | .stage o =>
      if !reachable a.1 ns (.stage o) then (notice a.1 6 0 ((ctxChans a.1 x).headD 0) (pa + i) 0, false)
      else if (poolOf a.1 o).isNone then (holeEvent a.1 o 0, a.2)
      else let p := stageProbe a.1 o fullBe 0; (p.1, a.2 && !p.2)
    | _ => (a.1, false)) (s, true)

/-- What a read of the save area gives: the bytes that came back, or the contents of stage memory; none where Miozer itself
refuses it or a word is uncorrectable. -/
def areaLoad (s : State) (x : Nat) (area : List Byte) : State × Option (List Byte) :=
  let s := { s with ports := { s.ports with own := s.ports.own.filter fun e => !(e.kind == .save x && e.op == 0) } }
  match locOf s (4096 * (ctx s x).save.toNat) with
  | .ext _ => (s, some area)
  | .stage o =>
    let p := areaProbe s x
    (p.1, if p.2 then some ((List.range (areaSize s x)).map fun i => memByte s.stage.mem (o + i)) else none)
  | _ => (s, none)

/-- The area when it passes its check. -/
def areaChecked (s : State) (x : Nat) (area : List Byte) : State × Option (List Byte) :=
  let r := areaLoad s x area
  (r.1, r.2.filter fun bs => decide (bs.length = areaSize s x ∧ leAt bs 252 4 = areaCrc bs))

/-- States by value; a value of none of them, in an area that software has altered, is one of the five (log 31). -/
def barStOf (s : State) (n : Nat) : BarSt :=
  ([.idle, .gather, .abandoned, .poisoned, .saved] : List BarSt).getD (if n < 5 then n else Config.pick s.fresh % 5) .saved

/-- A privileged object is restored from its record (R294). -/
def restoreObj (s : State) (o : Nat) (bs : List Byte) (v : Nat) : State :=
  let w := leAt bs (256 + 16 * v) 8
  let w : W64 := BitVec.ofNat 64 w
  bump (setBar s o {
    st := barStOf s (fld w 0 3), epoch := BitVec.ofNat 2 (fld w 3 2), count := BitVec.ofNat 14 (fld w 5 14)
    need := BitVec.ofNat 14 (fld w 19 14), home := some (fld w 40 8), lo := BitVec.ofNat 8 (fld w 48 8)
    lenm1 := BitVec.ofNat 8 (fld w 56 8) })

/-- Restore the privileged objects that the window maps now, or poison them where the area failed its check (R79). -/
def restoreObjs (s : State) (x : Nat) (a : Option (List Byte)) : State :=
  let os := privObjs s x
  match a with
  | some bs => ((List.range os.length).zip os).foldl (fun s e => restoreObj s e.2 bs e.1) s
  | none => os.foldl (fun s o => setBar s o { bar s o with st := .poisoned }) s

/-! ### Ends -/

/-- A Zoetrope event of a context; the manual names no island for it, so a front-end quarter is freely chosen (log 17). -/
def ctxLog (s : State) (code x : Nat) : State := zlog s (0x3C + Config.pick s.fresh % 4) code x (ctx s x).cause

/-- A channel whose context was OUT goes on in the state it held before (R48). A doorbell that came meanwhile to one that was IDLE has set
PENDING (R49), and takes effect now (DEDUCED, log 38). -/
def chanBack (s : State) (c : Nat) : State :=
  let k := chan s c
  if k.st != .out then s
  else if k.pre == .idle && k.pending then
    let s := ringDoorbell (setChan s c { k with st := .idle, pending := false }) c
    setChan s c { chan s c with stamp := k.pstamp }
  else pumpFetch (setChan s c { k with st := k.pre }) c

/-- A context is in RUN with CAUSE 0, and its channels go on. -/
def ctxRun (s : State) (x : Nat) : State :=
  let s := setCtx s x { ctx s x with st := .run, cause := 0, killing := false }
  (ctxChans s x).foldl chanBack s

/-- A channel's executing descriptor ends with a code (R79): the tiles that completed whole count. A completion that waits in
CQ_FULL keeps its own code. -/
def endDesc (s : State) (code d c : Nat) : State :=
  let s := setAside s c
  match stream s c with
  | none => s
  | some x =>
    let k := chan s c
    if k.st == .cqFull || (k.st == .out && k.pre == .cqFull) then s
    else
      let y := { x with st := StreamSt.done code d, wait := .none, tiles := [] }
      complete (setStream s c y) c y code d

/-- Every executing descriptor of a context ends with a code, and the context is in RUN. -/
def ctxEnd (s : State) (x code d : Nat) : State :=
  ctxRun ((ctxChans s x).foldl (fun s c => endDesc s code d c) s) x

/-- KILL takes effect once the context has stopped (R79, R295). -/
def killEnd (s : State) (x : Nat) : State :=
  let os := ownObjs s x 0 1024
  let s := ctxEnd (setCtx s x { ctx s x with restoring := false }) x cABANDONED 1
  os.foldl (fun s o => clearObj s o true) s

/-- A channel enters OUT and keeps the state it held. Table 03-2 names OUT among the exits of RUNNING alone, but gives it for every channel
whose context is switched out, and R47 binds each valid channel to one: all of them enter it (DEDUCED, log 38). -/
def chanOut (s : State) (c : Nat) : State :=
  let k := chan s c
  if k.st == .out then s else setChan s c { k with st := .out, pre := k.st }

/-- A context's state is saved, and it enters OUT (R77, R254, R293, R294). -/
def switchOut (s : State) (x : Nat) : State :=
  let s := (ctxChans s x).foldl setAside s
  let s := (ownObjs s x 16 1024).foldl (fun s o => clearObj s o false) s
  let bs := saveArea s x
  let pa := 4096 * (ctx s x).save.toNat
  let s := areaStore (emit (bump s) (.save x pa bs)) x pa bs
  let s := (privObjs s x).foldl (fun s o => setBar s o { bar s o with st := .saved }) s
  let s := (ctxChans s x).foldl chanOut s
  let s := setCtx s x { ctx s x with st := .out }
  pendCtx (ctxLog s 0x0400 x) x

/-- CONTEXT_OUT (R77, R79, R293, R294): the tiles past their pre-walk are acknowledged; the context enters OUT, or KILL takes
effect. -/
def execContextOut (c : Cx) (s : State) : Host.Outcome State Fault Refusal :=
  let k := ctx s c.val
  if k.st != .switching || !operating s || !ctxStill s c.val then .next s
  else if k.killing then .next (killEnd s c.val)
  else if k.restoring || areaWaits s c.val then .next s
  else .next (switchOut s c.val)

/-! ### Resume (R79, R283, R294) -/

/-- A waiter waits again, or finds its condition met (R66, R173, R260, R283). -/
def waitAgain (s : State) (c : Nat) : State :=
  match stream s c with
  | none => s
  | some x =>
    match x.wait with
    | .barrier _ tag dep =>
      match barUse s c (if dep then dpBvid x.desc else wBvid x.desc) with
      | .error s => s
      | .ok o => barWait s c o tag dep
    | .advice n => if s.xl.adv.any fun a => 2 * a.1.toNat + 1 == n && a.2.1 == c && a.2.2 then finish s c cOK 0 else s
    | _ => s

/-- Serve the queues and mailboxes that a resumed context waits for. -/
def serveAgain (s : State) : State :=
  let s := (tkeys s.hub.hqs).foldl (fun s q => hqSettle 1024 s q) s
  (List.range 32).foldl (fun s m => mbServe 512 s m) s

/-- CONTEXT_RESTORED (R78, R79, R294): the save area comes back and is checked. A failed check raises the save-area source. In SAFE the
answer is discarded (R335). -/
def execContextRestored (c : Cx) (area : List Byte) (s : State) : Host.Outcome State Fault Refusal :=
  let x := c.val
  let k := ctx s x
  if !operating s || (!k.restoring && k.st != .resuming) || areaWaits s x then .next s
  else
    let r := areaChecked s x area
    let s := if r.2.isNone then raise r.1 0x0F x 0 (0x3C + Config.pick r.1.fresh % 4) else r.1
    if k.restoring then .next (restoreObjs (setCtx s x { ctx s x with restoring := false }) x r.2)
    else match r.2 with
      | some _ =>
        let s := ctxRun (restoreObjs s x r.2) x
        .next (serveAgain ((ctxChans s x).foldl waitAgain s))
      | none => .next (ctxEnd (restoreObjs s x none) x cECC 2)

/-! ### MZ_CTX_CTRL (Table 03-20) -/

/-- Offset of a context register. -/
def ctxOff (x r : Nat) : Nat := 0xC000 + 0x40 * x + r

/-- ABORT in OUT (R79): every executing descriptor ends, the context is in RUN, and its privileged objects come back from the
save area, which is read for them; its channels start nothing until then (DEDUCED, log 32). -/
def doAbort (s : State) (x : Nat) : State :=
  let k := ctx s x
  let s := ctxLog s 0x0403 x
  let s := ctxEnd s x (if k.cause = 2 then cFAULT else cABANDONED) (if k.cause = 2 then k.lastSeq.toNat % 256 else 0)
  areaFetch (setCtx s x { ctx s x with restoring := true }) x

/-- RESUME in OUT (R79): the save area is read. -/
def doResume (s : State) (x : Nat) : State :=
  let s := ctxLog s 0x0401 x
  areaFetch (setCtx s x { ctx s x with st := .resuming }) x

/-- KILL (R79): at once for a context that has stopped; else once its tiles past their pre-walk are done. -/
def doKill (s : State) (x : Nat) : State :=
  let s := ctxLog s 0x0402 x
  let k := ctx s x
  if k.st == .out || k.st == .resuming || ctxStill s x then killEnd s x
  else setCtx s x { k with killing := true, st := .switching }

/-- A write of MZ_CTX_CTRL (R79): each bit is judged against the state before the write. -/
def ctxCtrl (x : Nat) (v : W32) (s : State) : State :=
  let st := (ctx s x).st
  if bitOf v 3 then doKill s x
  else
    let bad := (if bitOf v 0 && st != .run then 1 else 0) + (if bitOf v 1 && (st != .out || bitOf v 2) then 1 else 0)
      + (if bitOf v 2 && st != .out then 1 else 0)
    let s := if bitOf v 0 then ctxSwitch s x 1 else s
    let s := if bitOf v 2 && st == .out then doAbort s x else if bitOf v 1 && st == .out then doResume s x else s
    iter (fun s => refuse s (ctxOff x 0) 0 mmioIsland) bad s

/-- A write of MZ_CTX_CTRL over MMIO. -/
def ctxCtrlW (x : Nat) (ns : Bool) (v : W32) (s : State) : State := mmioW s (ctxOff x 0) ns (ctxSecure s x) (ctxCtrl x v)

/-- SUSPEND (R77). -/
def execSuspend (c : Cx) (ns : Bool) (v : W32) (s : State) : Host.Outcome State Fault Refusal := .next (ctxCtrlW c.val ns (v ||| 1) s)

/-- RESUME (R79). -/
def execResume (c : Cx) (ns : Bool) (v : W32) (s : State) : Host.Outcome State Fault Refusal := .next (ctxCtrlW c.val ns (v ||| 2) s)

/-- ABORT (R79). -/
def execAbort (c : Cx) (ns : Bool) (v : W32) (s : State) : Host.Outcome State Fault Refusal := .next (ctxCtrlW c.val ns (v ||| 4) s)

/-- KILL (R79, R295). -/
def execKill (c : Cx) (ns : Bool) (v : W32) (s : State) : Host.Outcome State Fault Refusal := .next (ctxCtrlW c.val ns (v ||| 8) s)

end Sys2Proof.Machine
end

