-- ==== Sys2Proof/Machine/Crypto.lean ====
section
/-! DEFINITION. The digest and the signature of the image (R38, R40, "Image format"): SHA-384 of FIPS 180-4 and the verification of
ECDSA over curve P-384 of FIPS 186-5. -/

namespace Sys2Proof.Machine

/-! ### SHA-384 -/

/-- The primes below a bound. -/
def primesTo (n : Nat) : List Nat := (List.range n).filter fun p => decide (2 ≤ p) && (List.range p).all fun d => decide (d < 2) || p % d != 0

/-- The integer `k`-th root of `n` above `r`, over the `b` bits that are left to find. -/
def rootFrom (k n : Nat) : Nat → Nat → Nat
  | 0, r => r
  | b + 1, r => rootFrom k n b (if (r + 2 ^ b) ^ k ≤ n then r + 2 ^ b else r)

/-- The first 64 bits of the fractional part of the `k`-th root of a prime: the rule by which FIPS 180-4 sets its constants. -/
def rootFrac (k p : Nat) : Nat := rootFrom k (p * 2 ^ (64 * k)) 70 0 % 2 ^ 64

/-- The 80 round constants: those of the cube roots of the first 80 primes. -/
def shaK : List Nat := (primesTo 410).map (rootFrac 3)

/-- The initial hash value of SHA-384: those of the square roots of the ninth to the sixteenth prime. -/
def shaInit : List Nat := ((primesTo 54).drop 8).map (rootFrac 2)

/-- Rotate a 64-bit word right. -/
def rotr (x n : Nat) : Nat := x / 2 ^ n + x % 2 ^ n * 2 ^ (64 - n)

/-- The number that a list of bytes spells, most significant byte first. -/
def beNat (bs : List Byte) : Nat := bs.foldl (fun a b => 256 * a + b.toNat) 0

/-- The `n` bytes of a number, most significant first. -/
def beBytes (n v : Nat) : List Byte := (leBytes n v).reverse

/-- The message schedule, newest word first, from the 16 words of a block. -/
def shaSched : Nat → List Nat → List Nat
  | 0, w => w
  | n + 1, w =>
    let w2 := w.getD 1 0
    let w15 := w.getD 14 0
    let s1 := rotr w2 19 ^^^ rotr w2 61 ^^^ (w2 / 2 ^ 6)
    let s0 := rotr w15 1 ^^^ rotr w15 8 ^^^ (w15 / 2 ^ 7)
    shaSched n (((s1 + w.getD 6 0 + s0 + w.getD 15 0) % 2 ^ 64) :: w)

/-- One round on the eight working variables. -/
def shaRound (v : List Nat) (kw : Nat × Nat) : List Nat :=
  match v with
  | [a, b, c, d, e, f, g, h] =>
    let s1 := rotr e 14 ^^^ rotr e 18 ^^^ rotr e 41
    let ch := (e &&& f) ^^^ ((2 ^ 64 - 1 - e) &&& g)
    let t1 := h + s1 + ch + kw.1 + kw.2
    let s0 := rotr a 28 ^^^ rotr a 34 ^^^ rotr a 39
    let mj := (a &&& b) ^^^ (a &&& c) ^^^ (b &&& c)
    [(t1 + s0 + mj) % 2 ^ 64, a, b, c, (d + t1) % 2 ^ 64, e, f, g]
  | _ => v

/-- One block of 128 B into the hash value. -/
def shaBlock (h : List Nat) (b : List Byte) : List Nat :=
  let w := (List.range 16).map fun i => beNat (sliceB b (8 * i) 8)
  let ws := (shaSched 64 w.reverse).reverse
  let v := (shaK.zip ws).foldl shaRound h
  (h.zip v).map fun e => (e.1 + e.2) % 2 ^ 64

/-- Blocks of a padded message. -/
def shaBlocks : Nat → List Nat → List Byte → List Nat
  | 0, h, _ => h
  | n + 1, h, bs => shaBlocks n (shaBlock h (bs.take 128)) (bs.drop 128)

/-- The SHA-384 digest, 48 B. -/
def sha384 (m : List Byte) : List Byte :=
  let n := m.length
  let z := (111 + 128 - n % 128) % 128
  let p := m ++ [0x80] ++ List.replicate z 0 ++ beBytes 16 (8 * n)
  ((shaBlocks (p.length / 128) shaInit p).take 6).flatMap (beBytes 8)

/-! ### P-384 -/

/-- The field's prime. -/
def ecP : Nat := 2 ^ 384 - 2 ^ 128 - 2 ^ 96 + 2 ^ 32 - 1
/-- The coefficient b of the curve y² = x³ − 3x + b. -/
def ecB : Nat := 0xb3312fa7e23ee7e4988e056be3f82d19181d9c6efe8141120314088f5013875ac656398d8a2ed19d2a85c8edd3ec2aef
/-- The order of the base point. -/
def ecN : Nat := 0xffffffffffffffffffffffffffffffffffffffffffffffffc7634d81f4372ddf581a0db248b0a77aecec196accc52973
/-- The base point. -/
def ecG : Nat × Nat :=
  (0xaa87ca22be8b05378eb1c71ef320ad746e1d3b628ba79b9859f741e082542a385502f25dbf55296c3a545e3872760ab7,
   0x3617de4a96262c6f5d9e98bf9292dc29f8f41dbd289a147ce9da3113b5f0b8c00a60b1ce1d7e819d7a431d7c90ea0e5f)

/-- `b ^ e mod m`, over `n` bits of the exponent. -/
def powMod (m : Nat) : Nat → Nat → Nat → Nat
  | 0, _, _ => 1 % m
  | n + 1, b, e => (if e % 2 = 1 then b else 1) * powMod m n (b * b % m) (e / 2) % m

/-- The inverse modulo a prime. -/
def invMod (m a : Nat) : Nat := powMod m 384 (a % m) (m - 2)

/-- Sum of two points; none is the point at infinity. -/
def ecAdd : Option (Nat × Nat) → Option (Nat × Nat) → Option (Nat × Nat)
  | none, q => q
  | p, none => p
  | some (x1, y1), some (x2, y2) =>
    if x1 = x2 ∧ (y1 + y2) % ecP = 0 then none
    else
      let l := if x1 = x2 then (3 * x1 * x1 + (ecP - 3)) * invMod ecP (2 * y1) % ecP
        else (y2 + ecP - y1) * invMod ecP (x2 + ecP - x1) % ecP
      let x3 := (l * l + 2 * ecP - x1 - x2) % ecP
      some (x3, (l * (x1 + ecP - x3) + ecP - y1) % ecP)

/-- A multiple of a point, over `n` bits of the scalar. -/
def ecMul : Nat → Nat → Option (Nat × Nat) → Option (Nat × Nat)
  | 0, _, _ => none
  | n + 1, k, p => ecAdd (if k % 2 = 1 then p else none) (ecMul n (k / 2) (ecAdd p p))

/-- Whether a point is a public key of the curve. -/
def ecValid (x y : Nat) : Bool :=
  decide (x < ecP) && decide (y < ecP) && decide ((y * y) % ecP = (x * x * x + (ecP - 3) * x + ecB) % ecP)

/-- Verification of a signature over a message by the key (x, y). -/
def ecdsaOk (m : List Byte) (x y r s : Nat) : Bool :=
  let e := beNat (sha384 m)
  if !ecValid x y || r = 0 || ecN ≤ r || s = 0 || ecN ≤ s then false
  else
    let w := invMod ecN s
    match ecAdd (ecMul 384 (e * w % ecN) (some ecG)) (ecMul 384 (r * w % ecN) (some (x, y))) with
    | some (x1, _) => decide (x1 % ecN = r)
    | none => false

/-- The signature block check of an image of `n` bytes: its last 192 B hold x, y, r and s, and the signature covers every byte
up to the end of the public key. -/
def signatureOk (img : List Byte) (n : Nat) : Bool :=
  let f := fun k => beNat (sliceB img (n - 192 + 48 * k) 48)
  ecdsaOk (img.take (n - 96)) (f 0) (f 1) (f 2) (f 3)

/-- MZ_KEYHASH against the digest of the stored public key; an all-zero MZ_KEYHASH never matches. Byte `i` of the digest is bits
`8i` to `8i + 7` (DEDUCED from R6, log 35). -/
def keyOk (keyhash : BitVec 384) (img : List Byte) (n : Nat) : Bool :=
  keyhash != 0 && decide (leNat (sha384 (sliceB img (n - 192) 96)) = keyhash.toNat)

end Sys2Proof.Machine
end

