-- ==== Sys2Proof/WellFormed.lean ====
section
/-! DEFINITION. Which commands spell a row of the table. The operand types already hold every index to its range; two rows
need a check of their own. -/

namespace Sys2Proof

/-- Whether a source number is one of Table 16-1. -/
def FaultEv.wf (e : FaultEv) : Bool :=
  decide (e.src.val < 0x12) || (decide (0x20 ≤ e.src.val) && decide (e.src.val < 0xD8))

/-- Whether an opcode selects the bypass register alone: 0xFF and every reserved opcode (R367, R368). -/
def bypassOpcode (o : Byte) : Bool := !([0x00, 0x01, 0x02, 0x03, 0x04] : List Byte).contains o

/-- A command that spells a row of the table. -/
def Instr.wf : Instr → Bool
  | .faultEvent evs => evs.all FaultEv.wf
  | .bypass o => bypassOpcode o
  | _ => true

end Sys2Proof
end

