-- ==== Sys2Proof/Machine/Collector.lean ====
section
/-! DEFINITION. The fault collector and Zoetrope (R328 to R350), the safe state, function re-initialisation, the start of a block
reset (R338, R356), and the world-notice register (R326). -/

namespace Sys2Proof.Machine

/-! ### Reset of the switched domains (R338, R356, R373, Table 02-10) -/

/-- Every domain other than AON at its reset values. The collector, Zoetrope and every register of the clock page keep theirs, with the
power state, VI and FREQ of each island among them (R373), as do the firmware address, LASTRST, the straps and the pins. The window counts
of the loops start anew, and no wake is queued. -/
def blockWipe (s : State) : State :=
  let b := s.boot
  { s with
    boot := { phase := b.phase, straps := b.straps, coldBy := b.coldBy, lastRst := b.lastRst, pupFw := b.pupFw, rstBy := b.rstBy }
    img := none, chans := [], ctxs := [], path := {}, stage := {}, hub := {}, xl := {}, ports := {}, links := []
    clk := { s.clk with
      wakeq := []
      isl := s.clk.isl.foldl (fun t e => tset islDflt t e.1 { e.2 with hi := 0, lo := 0, wantWake := false }) s.clk.isl }
    aon := { s.aon with wn := {} } }

/-- A block reset begins, by LASTRST code `by_`; one that is requested while the block is held in reset is absorbed (R356). Outside SAFE it
powers PD44 up where SAFE had gated it (R357). -/
def beginReset (s : State) (by_ : Nat) : State :=
  if s.boot.phase == .running then
    let s := blockWipe s
    let s := if s.aon.fc.st != .safe && (isl s 44).ps == .gated then startWake s 44 else s
    { s with boot := { s.boot with phase := .resetting, rstBy := by_ } }
  else s

/-- Event 0x0600 of a block reset that begins. -/
def resetLog (s : State) (arg : Nat) : State :=
  if s.boot.phase == .running then aonLog s 0x0600 arg s.aon.fc.recov else s

/-! ### The safe state (R335) -/

/-- Whether the rail source is the cause and MZ_PGOOD_T or _M is low, so that PD44 is gated too. -/
def railCause (s : State) : Bool := s.aon.fc.cause == 1 && !(s.pins.pgT && s.pins.pgM)

/-- A domain is gated by the safe state. -/
def safeGate (s : State) (d : Nat) : State :=
  let x := isl s d
  if x.ps == .gated || (d == 44 && !railCause s) then s
  else logPower (gateLoss (setIsl s d { x with
    ps := .gated, freq := 0, vi := 0, raise := false, wantWake := false, stop := clusterStopped s d }) d) 0x0700 d

/-- A channel keeps its registers and loses what its front-end quarter held. -/
def chanLoss (s : State) (c : Nat) : State :=
  setChan s c { chan s c with
    stream := none, fetched := [], fetching := none, fetchDue := none, fetchTries := 0, recOut := none, late := [], arrRec := none, tcw := none }

/-- Every port answers ERROR to the inbound requests that it has accepted and not answered yet (R335). One that a core presents while
MZ_CRDY is low has not been accepted (R211). -/
def inboundError (s : State) : State :=
  let s := (s.ports.inq.filter (·.taken)).foldl (fun s q => emit s (.resp q.core q.port q.req.id 2 0)) s
  s.path.lines.foldl (fun s l => match l.kind with | .inbound m id => emit s (.resp false m (BitVec.ofNat 16 id) 2 0) | _ => s) s

/-- The entry into SAFE is completed (R335): lanes, hub, ports and links stop, and every domain except PD44 and AON is gated with
the loss of its contents. The answers to the block's own requests are discarded as they come. The quiet count starts. -/
def safeEnter (s : State) : State :=
  let s := inboundError s
  let s := (tkeys s.links).foldl (fun s p => linkTo s p .off) s
  let s := (tkeys s.chans).foldl chanLoss s
  let s := { s with
    links := [], hub := {}
    path := { s.path with slots := [], waitq := [], lines := [], echo := [], echoFlush := false }
    stage := { s.stage with mem := [], bad := [] }
    xl := { s.xl with walks := [], tlb := [], invBusy := false }
    ports := { s.ports with cp := [], own := [], inq := s.ports.inq.filter fun q => !q.taken }
    clk := { s.clk with wakeq := [], settling := false } }
  let s := (List.range 64).foldl safeGate s
  setFc s { s.aon.fc with quiet := s.aon.fc.acyc }

/-! ### States (R333, Table 16-2) -/

/-- The collector enters a state with a CAUSE and records event 0x0200. An entry into ALERT starts a new stay; an entry into
RESETTING clears STUCK. -/
def fcGo (s : State) (st : FcSt) (cause : Nat) : State :=
  let x := s.aon.fc
  let s := setFc s { x with
    st := st, cause := cause, acked := x.acked && st != .alert, stuck := x.stuck && st != .resetting }
  aonLog s 0x0200 (st.code + 16 * x.st.code + 256 * cause) x.recov

/-- Freeze the record (R348). -/
def ztFreeze (s : State) : State := setZt s { s.aon.zt with frozen := true }

/-- Thaw the record (R348); nothing happens if it is not frozen. -/
def ztThaw (s : State) : State :=
  let z := s.aon.zt
  if z.frozen then aonLog (setZt s { z with frozen := false, lost := 0 }) 0x0800 z.lost.toNat 0 else s

/-- The state that newly severe sources lead to: SAFE before ALERT, and CAUSE a freely chosen one of those of that ACT. -/
def fcNext (s : State) (newly : List Nat) : Option (FcSt × Nat) :=
  let of := fun a => newly.filter fun i => (src s i).act == a
  let one := fun l => List.getD l (Config.pick s.fresh % l.length) 0
  match s.aon.fc.st with
  | .normal => if of .safe != [] then some (.safe, one (of .safe)) else if of .alert != [] then some (.alert, one (of .alert)) else none
  | .alert => if of .safe != [] then some (.safe, one (of .safe)) else none
  | _ => none

/-- Sources become severe (R331, R333): the change of state, the freeze, pending bit 1, and the safe state. -/
def severe (s : State) (newly : List Nat) : State :=
  if newly = [] then s
  else
    let n := fcNext s newly
    let s := match n with | some e => fcGo (bump s) e.1 e.2 | none => s
    let s := pendSrc (ztFreeze s) 1
    match n with | some (.safe, _) => safeEnter s | _ => s

/-! ### Counting (R329) -/

/-- Events of one A-cycle `t` on one source, `m` of them. -/
def srcCount (x : Src) (t m : Nat) : Src :=
  let x := if x.opn && decide (x.w0 + 2 ^ x.k ≤ t) then { x with opn := false, c := 0 } else x
  let x := if x.opn then x else { x with opn := true, w0 := t }
  let c := min (x.c + m) 255
  { x with c := c, life := min (x.life + m) (2 ^ 24 - 1), sev := x.sev || (decide (x.n ≤ c) && x.act != .note) }

/-- A parity error in translation (R250), reported by half `h` with a VA and an ASID. A TLB entry that maps them is dropped, so that its
next lookup misses, and PARITY counts it. An error in a tile's translation set is found at issue (`setParity`). -/
def parityHit (s : State) (h va : Nat) (asid : BitVec 8) : State :=
  let region := va % 2 ^ 49 / 2 ^ 25
  if (tlbFind s h asid region).isSome then
    let n := (half s h).parity
    setHalf { s with xl := { s.xl with
        tlb := s.xl.tlb.filter fun t => !(t.half == h && t.asid == asid && pageBase t.leaf.level region == t.page) } }
      h { half s h with parity := if n = BitVec.allOnes 16 then n else n + 1 }
  else s

/-- An event that no rule of this model raises comes from the hardware itself: what goes with it happens as it is raised. -/
def outsideEvent (s : State) (e : FaultEv) : State :=
  if e.src.val = 0x07 ∨ e.src.val = 0x08 then parityHit s (e.src.val - 7) e.a.toNat (e.b.setWidth 8) else s

/-- The event as it arrives: with the stamps of the island that raised it, taken out of the crossing, or raised now where no rule
of the block raised it. -/
def arrive1 (s : State) (e : FaultEv) : State × EvQ :=
  match s.aon.fc.evq.find? (fun q => q.ev == e) with
  | some q => (setFc s { s.aon.fc with evq := s.aon.fc.evq.erase q }, q)
  | none =>
    let s := outsideEvent s e
    let i := e.island.val
    let q : EvQ := ⟨e, islSeq s i, cycleOf s i, s.aon.fc.blkcnt⟩
    (bump (if i = 0x40 then s else ztQueue (takeSeq s i) (evEntry q) true), q)

/-- The events of one A-cycle as they arrive, in order. -/
def arriveAll (s : State) : List FaultEv → State × List EvQ
  | [] => (s, [])
  | e :: es =>
    let r := arrive1 s e
    let q := arriveAll r.1 es
    (q.1, r.2 :: q.2)

/-- The Zoetrope entry of an event, with its source's C and SEV after it (Table 16-7). -/
def evRecord (s : State) (q : EvQ) : ZtEnt :=
  let x := src s q.ev.src.val
  { evEntry q with a1 := BitVec.ofNat 64 (x.c + flag x.sev 8 + 2 ^ 32 * q.ev.b.toNat) }

/-- The entry that waits for a counted event in its island's queue is complete; AON's own events go into the ring with their SEQ (R346). One
whose place was taken when it was raised has no entry. -/
def ztFill (s : State) (q : EvQ) : State :=
  let e := evRecord s q
  if q.ev.island.val = 0x40 then ztWrite (takeSeq s 0x40) { e with seq := islSeq s 0x40 }
  else setZt s { s.aon.zt with q := s.aon.zt.q.map fun w => if w.wait && w.ent == evEntry q then ⟨e, false⟩ else w }

/-- The entries of sources that have become severe reach the ring before the freeze, whatever waits before them in their islands (R331,
R348). -/
def ztUrgent (s : State) (is : List Nat) : State :=
  let p := fun (w : ZtQ) => !w.wait && is.any fun i => w.ent.code == BitVec.ofNat 16 (0x0100 + i)
  (s.aon.zt.q.filter p).foldl (fun s w => ztWrite s w.ent) (setZt s { s.aon.zt with q := s.aon.zt.q.filter fun w => !p w })

/-- Count the events of one A-cycle per source. -/
def countAll (s : State) (is : List Nat) : State :=
  (dedup is).foldl (fun s i => setSrc s i (srcCount (src s i) s.aon.fc.acyc (is.filter (· == i)).length)) s

/-- Events reach the collector in one A-cycle (R329, R331): they are counted together, recorded with what else AON writes in it, and
followed by the steps of a source that becomes severe, before whose freeze every event that AON holds is written (R348); a minor event
or a notice sets pending bit 2. An event of a source whose ACT is not NOTE restarts the quiet count (R336). -/
def collect (s : State) (evs : List FaultEv) : State :=
  let r := arriveAll (setFc s { s.aon.fc with acyc := s.aon.fc.acyc + 1 }) evs
  let is := evs.map (·.src.val)
  let t := countAll r.1 is
  let newly := (dedup is).filter fun i => !(src s i).sev && (src t i).sev
  let t := ztDrain (r.2.foldl ztFill t)
  let t := if newly = [] then t else ztUrgent (ztFlush t) newly
  let t := if is.any fun i => !(src t i).sev then pendSrc t 2 else t
  let t := severe t newly
  if is.any fun i => (src t i).act != .note then setFc t { t.aon.fc with quiet := t.aon.fc.acyc } else t

/-- FAULT_EVENT (R328, R329, R331). -/
def execFaultEvent (evs : List FaultEv) (s : State) : Host.Outcome State Fault Refusal :=
  if !(evs.all FaultEv.wf) then .refused .illFormed
  else if s.boot.phase == .cold then .next s
  else .next (collect s evs)

/-- FAULT_WINDOW_CLOSE (R329): the A-cycle at which the window closes has come. -/
def execFaultWindowClose (i : Fin 256) (s : State) : Host.Outcome State Fault Refusal :=
  let x := src s i.val
  if x.opn then
    let s := setSrc s i.val { x with opn := false, c := 0 }
    .next (setFc s { s.aon.fc with acyc := max s.aon.fc.acyc (x.w0 + 2 ^ x.k) })
  else .next s

/-- Whether an offset of the collector page holds a configuration register (R334). -/
def fcConfig (o : Nat) : Bool :=
  o == 0x004 || o == 0x014 || o == 0x018
    || (decide (0x800 ≤ o) && decide (o % 8 = 0) && decide (o < 0x1000) && !srcReserved ((o - 0x800) / 8))

/-- Every configuration register of the collector takes its reset value; counts, SEV flags and RECOV stay (R334). -/
def fcReload (s : State) : State :=
  let s := (tkeys s.aon.fc.src).foldl (fun s i =>
    let d := srcDflt i
    setSrc s i { src s i with n := d.n, k := d.k, act := d.act }) s
  setFc s { s.aon.fc with
    autox := true, zthaw := false, esc := true, autoload := false, rlim := 4, esck := 26, quietk := 27, reimg := 0 }

/-- COLLECTOR_PARITY_ERROR (R334, Table 16-2): `off` is the first failing register. The record freezes where source 0x00 becomes severe
by it (R331, R348). -/
def execCollectorParityError (off : BitVec 12) (s : State) : Host.Outcome State Fault Refusal :=
  if s.boot.phase == .cold || !fcConfig off.toNat then .next s
  else
    let newly := !(src s 0).sev
    let s := fcReload (setSrc s 0 { src s 0 with sev := true })
    let s := aonLog (if newly then ztFlush s else s) 0x0100 off.toNat ((src s 0).c + 256)
    let s := fcGo s .safe 0
    .next (safeEnter (if newly then pendSrc (ztFreeze s) 1 else s))

/-! ### Escalation and exits (R333, R336, R337) -/

/-- ESCALATION_EXPIRE (Table 16-2): 2^ESCK A-cycles in ALERT without an ACK. -/
def execEscalationExpire (s : State) : Host.Outcome State Fault Refusal :=
  let x := s.aon.fc
  if x.st == .alert && x.esc && !x.acked then .next (safeEnter (fcGo s .safe x.cause)) else .next s

/-- Clear every SEV flag (R336). -/
def sevNone (s : State) : State := (tkeys s.aon.fc.src).foldl (fun s i => setSrc s i { src s i with sev := false }) s

/-- An exit from SAFE (R336): RECOV, SEV and FAULT_N, the thaw of an automatic exit with ZTHAW, RESETTING and its block reset. -/
def fcExit (s : State) (auto : Bool) : State :=
  let s := setFc s { s.aon.fc with recov := satAdd 16 s.aon.fc.recov 1 }
  let s := sevNone s
  let s := if auto && s.aon.fc.zthaw then ztThaw s else s
  let s := fcGo s .resetting s.aon.fc.cause
  beginReset (resetLog s (if auto then 2 else 1)) (if auto then 3 else 2)

/-- Whether the rails and the temperature allow an automatic exit (R336). -/
def calm (s : State) : Bool := s.pins.pgT && s.pins.pgM && s.pins.pgL && decide (s.clk.temp + 10 < s.clk.tlim)

/-- AUTOMATIC_EXIT (R336, R337): the conditions have held for 2^QUIETK A-cycles. More than RLIM exits within 2^31 A-cycles set
STUCK instead. -/
def execAutomaticExit (s : State) : Host.Outcome State Fault Refusal :=
  let x := s.aon.fc
  if x.st == .safe && x.autox && !x.stuck && calm s then
    let t := max x.acyc (x.quiet + 2 ^ x.quietk)
    let recent := x.exits.filter fun e => decide (t < e + 2 ^ 31)
    let s := setFc s { x with acyc := t, exits := recent }
    if x.rlim < recent.length + 1 then .next (setFc s { s.aon.fc with stuck := true })
    else .next (fcExit (setFc s { s.aon.fc with exits := recent ++ [t] }) true)
  else .next s

/-! ### MZ_FC_CTRL and MZ_FC_SEV_k (R330) -/

/-- Clear the SEV flags of some sources, close their windows and set C to 0; ALERT ends with the last flag. -/
def sevClear (s : State) (is : List Nat) : State :=
  let had := anySevere s
  let s := is.foldl (fun s i => if srcReserved i then s else setSrc s i { src s i with sev := false, opn := false, c := 0 }) s
  if had && !anySevere s && s.aon.fc.st == .alert then fcGo s .normal s.aon.fc.cause else s

/-- A write of MZ_FC_CTRL (Table 16-8): CLRALL, EXIT and ACK. -/
def fcCtrl (v : W32) (s : State) : State :=
  let st := s.aon.fc.st
  let s := if bitOf v 0 && st == .alert then setFc s { s.aon.fc with acked := true } else s
  let s := if bitOf v 2 then
      let s := sevClear s ((List.range 256).filter fun i => (src s i).sev)
      if s.aon.fc.st == .alert then fcGo s .normal s.aon.fc.cause else s
    else s
  if bitOf v 1 && st == .safe && s.pins.pgT && s.pins.pgM && s.pins.pgL && s.pins.pgA then fcExit s false else s

/-- A write of MZ_FC_CTRL over MMIO. -/
def fcCtrlW (ns : Bool) (v : W32) (s : State) : State := mmioW s 0x2008 ns true (fcCtrl v)

/-- ACK (R333). -/
def execAck (ns : Bool) (v : W32) (s : State) : Host.Outcome State Fault Refusal := .next (fcCtrlW ns (v ||| 1) s)

/-- EXIT (R336). -/
def execExit (ns : Bool) (v : W32) (s : State) : Host.Outcome State Fault Refusal := .next (fcCtrlW ns (v ||| 2) s)

/-- CLRALL (R330). -/
def execClrall (ns : Bool) (v : W32) (s : State) : Host.Outcome State Fault Refusal := .next (fcCtrlW ns (v ||| 4) s)

/-- SEV_CLEAR (R330): a write of MZ_FC_SEV_k. -/
def execSevClear (k : Fin 8) (ns : Bool) (v : W32) (s : State) : Host.Outcome State Fault Refusal :=
  .next (mmioW s (0x2040 + 4 * k.val) ns true fun s =>
    sevClear s (((List.range 32).filter fun i => bitOf v i).map (32 * k.val + ·)))

/-- FS_CFG_WRITE (R328, R330): K, and outside sources 0x00 and 0x01 also N and ACT; N of 0 and ACT of 3 are ignored. -/
def execFsCfgWrite (i : Fin 256) (ns : Bool) (v : W32) (s : State) : Host.Outcome State Fault Refusal :=
  .next (mmioW s (0x2800 + 8 * i.val) ns true fun s =>
    if srcReserved i.val then s
    else
      let x := src s i.val
      let fixed := decide (i.val < 2)
      setSrc s i.val { x with
        k := fld v 8 5, opn := false, c := 0
        n := if fixed || fld v 0 8 = 0 then x.n else fld v 0 8
        act := if fixed then x.act else match fld v 16 2 with | 0 => .note | 1 => .alert | 2 => .safe | _ => x.act })

/-- BLKRST (R341): the key starts a block reset outside RESETTING; another value does nothing. -/
def execBlkrst (ns : Bool) (v : W32) (s : State) : Host.Outcome State Fault Refusal :=
  .next (mmioW s 0x200C ns true fun s =>
    if fld v 0 16 = 0xB10C ∧ s.aon.fc.st ≠ .resetting then beginReset (resetLog s 0) (if s.aon.fc.st = .safe then 5 else 1)
    else s)

/-! ### Function re-initialisation (R340) -/

/-- The channels of a target. -/
def reChans (s : State) (kind : Bool) (t : Nat) : List Nat := (List.range 512).filter fun c => reTarget s kind t c

/-- Whether a non-secure agent may write MZ_FC_REINIT with a target: all its channels are non-secure, and it has some. -/
def reNs (s : State) (kind : Bool) (t : Nat) : Bool :=
  s.img.isSome &&
    (if kind then decide (t < 32) && (List.range 16).all fun k => (chanCfg s (16 * t + k)).ns
     else !ctxSecure s t)

/-- A write of MZ_FC_REINIT: FAIL is cleared by 1; a GO that names no group or comes while BUSY is 1 is refused and ignored. -/
def reinitW (ns : Bool) (v : W32) (s : State) : State :=
  let kind := bitOf v 8
  let t := fld v 0 6
  mmioW s 0x2010 ns (!reNs s kind t) fun s =>
    let s := if bitOf v 30 then setFc s { s.aon.fc with reFail := false } else s
    if bitOf v 15 && (s.aon.fc.reBusy || (kind && decide (32 ≤ t))) then refuse s 0x2010 0 0x40
    else
      let s := setFc s { s.aon.fc with reKind := kind, reTarget := t }
      if bitOf v 15 then setFc s { s.aon.fc with reBusy := true, goKind := kind, goTarget := t, goTimed := false } else s

/-- REINIT (R340): the target's streams stop at once. -/
def execReinit (ns : Bool) (v : W32) (s : State) : Host.Outcome State Fault Refusal := .next (reinitW ns (v ||| 0x8000) s)

/-- A ring slot that a stopped channel held stays reserved, and its ring has FAULT. -/
def reSlot (s : State) (slot : Option (Nat × Nat × Nat)) : State :=
  match slot with | some e => ringFault s e.1 | none => s

/-- A POP of a stopped channel takes no handle: one that it holds goes back to the front of its queue, if that is enabled and has room
(DEDUCED, log 56). -/
def rePop (s : State) (x : Stream) : State :=
  match x.wait with
  | .pop (some h) =>
    let q := wHq x.desc
    let y := hq s q
    if y.en && decide (y.q.length < 64) then setHq s q { y with q := h :: y.q } else s
  | _ => s

/-- A target channel is returned to IDLE: its list pointer addresses the descriptor that was executing. -/
def reChan (s : State) (c : Nat) : State :=
  let k := chan s c
  let s := match k.stream with | some x => rePop (reSlot (reSlot s x.slotP) x.slotC) x | none => s
  let s := dropFetch (dropReqs s c) c
  freeSlot (setChan s c { chan s c with
    st := .idle, pre := .idle, pending := false, stream := none, recOut := none
    late := [], arrRec := none, tcw := none
    head := match k.stream with | some x => BitVec.ofNat 52 x.addr | none => k.head }) c

/-- Whether a stopped channel has nothing under way: no line or record on its way, no tile past its pre-walk with a write to come, no
signal, arrival or handle without its answer (R77 steps 1 and 2, R340). -/
def reStill (s : State) (c : Nat) : Bool :=
  let k := chan s c
  !(s.path.lines.any fun l => l.ch == c) && k.recOut.isNone
    && (match k.stream with
      | none => true
      | some x =>
        x.tiles.all (fun t => !t.walked || tileDrained t)
          && (match x.wait with | .signal _ => false | .ack _ => false | .popWrite _ => false | _ => true))

/-- REINIT_DONE (R340): every line and tile of the target that was under way has been acknowledged or has ended. -/
def execReinitDone (s : State) : Host.Outcome State Fault Refusal :=
  let x := s.aon.fc
  let cs := reChans s x.goKind x.goTarget
  if !x.reBusy || !operating s || !(cs.all (reStill s)) then .next s
  else
    let s := (tkeys s.hub.hqs).foldl (fun s q => hqSettle 1024 s q) (cs.foldl reChan s)
    let s := if x.goKind then s
      else
        let s := setCtx s x.goTarget { ctx s x.goTarget with st := .run, cause := 0, killing := false, restoring := false }
        (ownObjs s x.goTarget 0 1024).foldl (fun s o => clearObj s o true) s
    let s := setFc s { s.aon.fc with reBusy := false }
    .next (aonLog s 0x0601 (x.goTarget + flag x.goKind 8) (flag x.reFail 0))

/-- REINIT_TIMEOUT (R340): BUSY is still 1 after 2^16 A-cycles; the target's doorbells are refused until a block reset. -/
def execReinitTimeout (s : State) : Host.Outcome State Fault Refusal :=
  let x := s.aon.fc
  if !x.reBusy || x.goTimed then .next s
  else
    let s := raise (setFc s { x with reFail := true, goTimed := true }) 0x11 x.goTarget (flag x.goKind 0) 0x40
    .next ((reChans s x.goKind x.goTarget).foldl (fun s c => setChan s c { chan s c with blocked := true }) s)

/-! ### Zoetrope page (R348, R349, Table 16-9) -/

/-- A write of MZ_ZT_CTRL: LOGPWR, then THAW, then FREEZE. The events that AON holds reach the ring before the freeze. -/
def ztCtrlW (ns : Bool) (v : W32) (s : State) : State :=
  mmioW s 0x3000 ns true fun s =>
    let s := setZt s { s.aon.zt with logpwr := bitOf v 2 }
    let s := if bitOf v 1 then ztThaw s else s
    if bitOf v 0 then ztFreeze (ztFlush s) else s

/-- FREEZE (R348). -/
def execFreeze (ns : Bool) (v : W32) (s : State) : Host.Outcome State Fault Refusal := .next (ztCtrlW ns (v ||| 1) s)

/-- THAW (R348). -/
def execThaw (ns : Bool) (v : W32) (s : State) : Host.Outcome State Fault Refusal := .next (ztCtrlW ns (v ||| 2) s)

/-- What a reader gets of word `k` of entry `i` when the code of its words reads `ecc`, and BAD (R346, R349): the data of an
uncorrectable word are not stated (free). -/
def ztTake (s : State) (i k : Nat) (ecc : Ecc) : State × W32 :=
  let s := setZt s { s.aon.zt with bad := ecc == .uncorrectable }
  if ecc == .uncorrectable then (bump s, (Config.unstated s.fresh).setWidth 32) else (s, ztWord s i k)

/-- A read of MZ_ZT_WORDk: that of WORD7 advances IDX. -/
def ztWordRead (k : Nat) (ecc : Ecc) (s : State) : State × W32 :=
  let r := ztTake s s.aon.zt.idx.toNat k ecc
  (if k = 7 then setZt r.1 { r.1.aon.zt with idx := r.1.aon.zt.idx + 1 } else r.1, r.2)

/-- ZT_WORD7_READ (R349): the read advances IDX. -/
def execZtWord7Read (ns : Bool) (ecc : Ecc) (s : State) : Host.Outcome State Fault Refusal :=
  .next (mmioR s 0x302C ns true (ztWordRead 7 ecc))

/-- WN_CLR (R326, Table 15-4): a write of MZ_WN_CTRL. -/
def execWnClr (ns : Bool) (v : W32) (s : State) : Host.Outcome State Fault Refusal :=
  let _ := v
  .next (mmioW s 0x104C ns true fun s =>
    { s with aon := { s.aon with wn := { s.aon.wn with valid := false, count := 0 } } })

end Sys2Proof.Machine
end

