-- ==== Sys2Proof/Machine/Check.lean ====
section
/-! DEFINITION. The check of a Marionette image and of a firmware image (R14, R24, R33 to R42, R186, R202, R320, R358, R379, Tables
02-1 to 02-4, 02-8, 02-13, 17-2). Offsets are byte offsets in the image; ERR_WORD is the offset of the first violation divided by 4. -/

namespace Sys2Proof.Machine

/-- The least of some offsets. -/
def leastOf : List Nat → Option Nat
  | [] => none
  | a :: l => match leastOf l with | some b => some (min a b) | none => some a

/-- The offsets of the conditions that hold. -/
def viol (l : List (Bool × Nat)) : List Nat := (l.filter (·.1)).map (·.2)

/-- Whether some byte of a range is not zero. -/
def nonzeroAt (img : List Byte) (o n : Nat) : Bool := leAt img o n != 0

/-! ### FORMAT (R33, R40 step 2) -/

/-- The least and the greatest LENGTH of a section type in units of 8 B (Table 02-1); none for an unknown type. -/
def sectSize : Nat → Option (Nat × Nat)
  | 1 => some (8, 8) | 2 => some (2, 2) | 3 => some (1, 16) | 4 => some (256, 256) | 5 => some (1, 16)
  | 6 => some (2, 2) | 7 => some (1, 32) | 8 => some (8, 8) | 9 => some (16, 16) | _ => none

/-- A section-table entry: its place, TYPE, LENGTH in bytes and OFFSET. -/
structure Sect where
  at_ : Nat
  typ : Nat
  len : Nat
  off : Nat
  deriving DecidableEq, Repr

/-- Section-table entry `i`. -/
def sectAt (img : List Byte) (i : Nat) : Sect :=
  let o := 0x30 + 8 * i
  ⟨o, leAt img o 2, 8 * leAt img (o + 2) 2, leAt img (o + 4) 4⟩

/-- The nine entries. -/
def sects (img : List Byte) : List Sect := (List.range 9).map (sectAt img)

/-- Whether two sections overlap. -/
def sectMeet (a b : Sect) : Bool := decide (a.off < b.off + b.len) && decide (b.off < a.off + a.len)

/-- Violations of one entry of the section table; `n` is the image's LENGTH, `before` the entries before it. A LENGTH outside the entry
counts of Table 02-1 may be FORMAT (R40, step 2) or LIMIT (R37); it is FORMAT here, at the entry's first word (DEDUCED, log 34). -/
def sectViol (n : Nat) (before : List Sect) (e : Sect) : List Nat :=
  viol [((match sectSize e.typ with | some z => decide (e.len < 8 * z.1) || decide (8 * z.2 < e.len) | none => true), e.at_),
    (before.any fun b => b.typ == e.typ, e.at_),
    (e.off % 8 != 0 || decide (e.off < 256) || decide (n < e.off + e.len + 192), e.at_ + 4),
    (before.any fun b => sectMeet b e, e.at_ + 4)]

/-- Violations of the section table. -/
def tableViol (n : Nat) : List Sect → List Sect → List Nat
  | _, [] => []
  | before, e :: es => sectViol n before e ++ tableViol n (before ++ [e]) es

/-- Whether a LENGTH is one that an image can have. -/
def lengthOk (n : Nat) : Bool := n % 8 == 0 && decide (448 ≤ n) && decide (n ≤ 65536)

/-- Violations of the FORMAT step. -/
def formatViol (img : List Byte) : List Nat :=
  viol [(leAt img 0 4 != 0x4D495A4D, 0), (leAt img 4 2 != 1, 4), (leAt img 6 2 != 256, 6), (!lengthOk (leAt img 8 4), 8),
    (leAt img 12 2 != 9, 12)]
  ++ tableViol (leAt img 8 4) [] (sects img)
  ++ viol ((List.range 14).map fun k => (nonzeroAt img (0x30 + 72 + 4 * k) 4, 0x30 + 72 + 4 * k))

/-- The place of the section of a type. -/
def sectOff (img : List Byte) (t : Nat) : Nat := match (sects img).find? (fun e => e.typ == t) with | some e => e.off | none => 0

/-- The length of the section of a type, in bytes. -/
def sectLen (img : List Byte) (t : Nat) : Nat := match (sects img).find? (fun e => e.typ == t) with | some e => e.len | none => 0

/-! ### Entries of the sections -/

/-- The 4 B entries of a section with their offsets; a last word of all ones is a pad in MOVERS and LANDING (R379). -/
def words4 (img : List Byte) (t : Nat) (pad : Bool) : List (Nat × Nat) :=
  let n := sectLen img t / 4
  let l := (List.range n).map fun i => (sectOff img t + 4 * i, leAt img (sectOff img t + 4 * i) 4)
  if pad && (l.getLast?.any fun e => e.2 == 0xFFFFFFFF) then l.dropLast else l

/-- Bits of a number. -/
def bits (v lo n : Nat) : Nat := v / 2 ^ lo % 2 ^ n

/-- The mover that a MOVERS word spells. -/
def moverOf (v : Nat) : MoverCfg := ⟨bits v 0 5, bits v 5 3, bits v 8 1 == 1⟩

/-- Whether a MOVERS word is legal by itself (R14). -/
def moverOk (v : Nat) : Bool := decide (bits v 5 3 ≤ 5) && bits v 0 5 % 2 ^ bits v 5 3 == 0 && bits v 9 23 == 0

/-- Whether two movers share a lane. -/
def moverMeet (a b : MoverCfg) : Bool := decide (a.low < b.low + 2 ^ b.log2w) && decide (b.low < a.low + 2 ^ a.log2w)

/-- The quadrants that a mover spans (R113). -/
def quadsOf (e : MoverCfg) : List Nat := dedup ((moverClusters e).map (· / 2))

/-- The channel that a CHANNELS word spells. -/
def chanOf (v : Nat) : ChanCfg := ⟨bits v 0 1 == 1, bits v 1 5, bits v 6 1 == 1, bits v 7 6⟩

/-- The pool that a POOLS entry spells. -/
def poolWord (v : Nat) : PoolCfg := ⟨bits v 0 14, bits v 14 14, BitVec.ofNat 16 (bits v 28 16), bits v 44 2 == 1, bits v 46 1 == 1⟩

/-- The pools with their offsets and words. -/
def poolEnts (img : List Byte) : List (Nat × Nat × PoolCfg) :=
  (List.range (sectLen img 7 / 8)).map fun i =>
    let o := sectOff img 7 + 8 * i
    (o, leAt img o 8, poolWord (leAt img o 8))

/-- The image that a checked list of bytes spells. -/
def parseImage (img : List Byte) : Image :=
  let c := sectOff img 1
  let p := sectOff img 2
  let sp := sectOff img 6
  let wd := sectOff img 8
  let ms := (words4 img 3 true).map fun e => moverOf e.2
  let tbl := fun {α : Type} (l : List α) => (List.range l.length).zip l
  { chip := leAt img 0x10 1, svn := leAt img 0x0E 1, cfgTag := BitVec.ofNat 64 (leAt img 0x18 8)
    bridgeTag := BitVec.ofNat 64 (leAt img 0x20 8), ext := #v[leAt img c 1, leAt img (c + 1) 1, leAt img (c + 2) 1, leAt img (c + 3) 1]
    windows := leAt img (c + 4) 2, fanout := leAt img (c + 6) 1, linkrev := leAt img (c + 7) 1
    clusterId := BitVec.ofNat 32 (leAt img (c + 8) 4), generation := BitVec.ofNat 32 (leAt img (c + 12) 4)
    cPresent := BitVec.ofNat 16 (leAt img p 2), mPresent := BitVec.ofNat 8 (leAt img (p + 2) 1)
    lPresent := BitVec.ofNat 8 (leAt img (p + 3) 1)
    lcode := Vector.ofFn fun (n : Fin 8) => bits (leAt img (p + 4) 4) (4 * n.val) 4
    movers := ms
    chans := (tbl ((words4 img 4 false).map fun e => chanOf e.2)).foldl (fun t e => tset (fun _ => {}) t e.1 e.2) []
    landing := (words4 img 5 true).map fun e => (bits e.2 0 5, 128 * bits e.2 5 10)
    rdK := leAt img sp 2, wrK := leAt img (sp + 2) 2, rmK := leAt img (sp + 4) 2
    bwRd := leAt img (sp + 6) 1, bwWr := leAt img (sp + 7) 1, bwRm := leAt img (sp + 8) 1
    pools := (poolEnts img).map (·.2.2)
    pdSecure := BitVec.ofNat 64 (leAt img wd 8), bgSecure := BitVec.ofNat 16 (leAt img (wd + 8) 2)
    mbSecure := BitVec.ofNat 32 (leAt img (wd + 12) 4), barSecure := BitVec.ofNat 64 (leAt img (wd + 16) 8)
    winSecure := BitVec.ofNat 256 (leAt img (wd + 24) 32)
    mbs := (tbl ((words4 img 9 false).map fun e => (⟨bits e.2 0 3, bits e.2 8 9⟩ : MbCfg))).foldl
      (fun t e => tset (fun _ => {}) t e.1 e.2) [] }

/-! ### LIMIT (R14, R24, R35, R36, R37, R47, R186, R202, R320) -/

/-- Header and CLUSTER. -/
def limHead (img : List Byte) : List Nat :=
  let c := sectOff img 1
  let b := leAt img 0x20 8
  viol ([(nonzeroAt img 0x0F 1, 0x0F), (nonzeroAt img 0x14 4, 0x14), (nonzeroAt img 0x28 8, 0x28), (nonzeroAt img 0xB0 80, 0xB0),
    (b != 0 && (b == 2 ^ 64 - 1 || b % 2 ^ 16 == leAt img 0x18 2), 0x20)]
  ++ ((List.range 4).map fun i => (!([1, 2, 3, 4] : List Nat).contains (leAt img (c + i) 1), c + i))
  ++ [(leAt img (c + 4) 2 == 0 || decide (256 < leAt img (c + 4) 2), c + 4), (!([2, 4, 8] : List Nat).contains (leAt img (c + 6) 1), c + 6),
    (leAt img (c + 7) 1 != 1, c + 7), (nonzeroAt img (c + 16) 48, c + 16)])

/-- PORTS (R35, R202). The section has 16 B and no field is named for its bytes 8 to 15: they must be zero, as a res0 field, and are met at
their first byte (DESIGN CHOICE, log 34). -/
def limPorts (img : List Byte) (i : Image) : List Nat :=
  let c := sectOff img 1
  let p := sectOff img 2
  let code := fun n => i.lcode.toList.getD n 0
  let present := (List.range 8).filter fun n => i.lPresent.getLsbD n
  viol ([(!i.mPresent.getLsbD 0, p + 2), (nonzeroAt img (p + 8) 8, p + 8)]
  ++ ((List.range 8).map fun n => (code n % 2 == 1, p + 4))
  ++ (present.map fun n => (i.ext.toList.getD (code n / 4) 1 == 1, max (p + 4) (c + code n / 4)))
  ++ (present.map fun n => (present.any fun k => decide (k < n) && code k / 2 == code n / 2, p + 4)))

/-- MOVERS (R14): a shared lane is met at the later entry. -/
def limMovers (img : List Byte) : List Nat :=
  let es := words4 img 3 true
  viol (es.map fun e => (!moverOk e.2, e.1))
  ++ viol (es.map fun e => (es.any fun f => decide (f.1 < e.1) && moverMeet (moverOf f.2) (moverOf e.2), e.1))

/-- The MOVERS entry that defines a mover. -/
def moverEnt (img : List Byte) (m : Nat) : Option (Nat × MoverCfg) :=
  ((words4 img 3 true).find? fun e => moverOk e.2 && bits e.2 0 5 == m).map fun e => (e.1, moverOf e.2)

/-- CHANNELS (R36, R37, R47, R320). An entry that names a mover which MOVERS does not define is a limit of its own MOVER field, and is met
there even where MOVERS lies higher; so is one of LANDING (DESIGN CHOICE, log 34). -/
def limChans (img : List Byte) (i : Image) : List Nat :=
  let es := words4 img 4 false
  let wd := sectOff img 8
  let valid := es.filter fun e => (chanOf e.2).valid
  viol (es.map fun e => (bits e.2 13 19 != 0, e.1))
  ++ viol (valid.map fun e => ((moverEnt img (chanOf e.2).mover).isNone, e.1))
  ++ viol (valid.map fun e =>
      (match valid.find? (fun f => (chanOf f.2).ctx == (chanOf e.2).ctx) with
       | some f => (chanOf f.2).ns != (chanOf e.2).ns
       | none => false, e.1))
  ++ valid.filterMap fun e =>
      match moverEnt img (chanOf e.2).mover with
      | some m => if (chanOf e.2).ns && (moverDomains m.2).any (fun d => i.pdSecure.getLsbD d) then some (max e.1 (max m.1 wd)) else none
      | none => none

/-- A mover's share of landing space in lines, and the entries it follows from (R24). -/
def shareOf (img : List Byte) (m : Nat × MoverCfg) : Nat × Nat :=
  match (words4 img 5 true).find? fun e => bits e.2 0 5 == m.2.low with
  | some e => (128 * bits e.2 5 10, max m.1 e.1)
  | none => (2048 * 2 ^ m.2.log2w, m.1)

/-- LANDING (R24, R37): a sum over a quadrant is met at the highest entry it takes in. -/
def limLanding (img : List Byte) : List Nat :=
  let es := words4 img 5 true
  let ms := ((words4 img 3 true).filter fun e => moverOk e.2).map fun e => (e.1, moverOf e.2)
  viol (es.map fun e => (bits e.2 15 17 != 0 || bits e.2 5 10 == 0 || decide (512 < bits e.2 5 10)
      || (moverEnt img (bits e.2 0 5)).isNone || es.any (fun f => decide (f.1 < e.1) && bits f.2 0 5 == bits e.2 0 5), e.1))
  ++ (List.range 4).filterMap fun q =>
      let us := ms.filter fun m => (quadsOf m.2).contains q
      let sum : Nat := ((us.map fun m => (shareOf img m).1 / max 1 (quadsOf m.2).length).foldl (· + ·) 0 : Nat)
      if 16384 < sum then some ((us.map fun m => (shareOf img m).2).foldl max 0) else none

/-- SPLIT (Table 02-4). -/
def limSplit (img : List Byte) (i : Image) : List Nat :=
  let s := sectOff img 6
  viol [(i.rdK == 0 || decide (32 < i.rdK), s), (i.wrK == 0 || decide (16 < i.wrK), s + 2), (decide (32 < i.rmK), s + 4),
    (i.rmK == 0 && i.lPresent != 0, max (s + 4) (sectOff img 2 + 3)), (i.bwRd + i.bwWr + i.bwRm != 64, s + 8), (nonzeroAt img (s + 9) 7, s + 9)]

/-- Rows per bank that a pool takes in each of its groups (R186). -/
def rowsOf (p : PoolCfg) : Nat := if p.echo then 4096 else 512 * p.size / max 1 (popcnt p.bgmask)

/-- Rows per bank that some pools take in group `k`. -/
def groupRows (es : List (Nat × Nat × PoolCfg)) (k : Nat) : Nat :=
  ((es.filter fun f => f.2.2.bgmask.getLsbD k).map fun f => rowsOf f.2.2).foldl (· + ·) 0

/-- POOLS (R186): overlaps, the rows of a group and the world of its groups are met at the highest field that they relate. A pool of no size
overlaps nothing. -/
def limPools (img : List Byte) (i : Image) : List Nat :=
  let es := poolEnts img
  let wd := sectOff img 8
  ((List.range 16).filterMap fun k =>
    if 4096 < groupRows es k then some (((es.filter fun e => e.2.2.bgmask.getLsbD k).map fun e => e.1 + 5).foldl max 0) else none)
  ++ es.flatMap fun e =>
    let o := e.1
    let p := e.2.2
    let before := es.filter fun f => decide (f.1 < o)
    let g := popcnt p.bgmask
    viol [(bits e.2.1 47 17 != 0, o + 5), (decide (1 < bits e.2.1 44 2), o + 5), (decide (128 < p.base + p.size), o + 1),
      (p.size != 0 && before.any fun f =>
        f.2.2.size != 0 && decide (f.2.2.base < p.base + p.size) && decide (p.base < f.2.2.base + f.2.2.size), o + 1),
      (p.echo && before.any (fun f => f.2.2.echo), o + 5), (p.echo && p.size != 8, o + 5), (p.echo && g != 1, o + 5),
      (!p.echo && (if g = 0 then p.size != 0 else 512 * p.size % g != 0), o + 5),
      ((maskGroups p.bgmask).any fun k => i.bgSecure.getLsbD k == p.ns, max (o + 5) (wd + 8))]

/-- WORLDS. -/
def limWorlds (img : List Byte) : List Nat :=
  let wd := sectOff img 8
  viol [(nonzeroAt img (wd + 0x0A) 2, wd + 0x0A), (nonzeroAt img (wd + 0x38) 8, wd + 0x38)]

/-- MAILBOXES (R36). -/
def limMbs (img : List Byte) (i : Image) : List Nat :=
  let wd := sectOff img 8
  let es := words4 img 9 false
  ((List.range es.length).zip es).flatMap fun x =>
    let o := x.2.1
    let v := x.2.2
    let k := bits v 0 3
    let t := bits v 8 9
    let ch := sectOff img 4 + 4 * t
    let c := tget (fun _ => ({} : ChanCfg)) i.chans t
    viol [(bits v 3 5 != 0 || bits v 17 15 != 0, o), (decide (4 < k), o), (k == 1 && !c.valid, max o ch),
      (k == 1 && c.ns == i.mbSecure.getLsbD x.1, max o (max ch (wd + 12))), (k == 3 && decide (15 < t), o),
      (k == 3 && decide (t ≤ 15) && !i.cPresent.getLsbD t, max o (sectOff img 2)), ((k == 0 || k == 2 || k == 4) && t != 0, o)]

/-- Every violation of the LIMIT step. -/
def limitViol (img : List Byte) (i : Image) : List Nat :=
  limHead img ++ limPorts img i ++ limMovers img ++ limChans img i ++ limLanding img ++ limSplit img i ++ limPools img i ++ limWorlds img
    ++ limMbs img i

/-! ### The load (R40) -/

/-- CFG_TAG of a CLUSTER section (R38). -/
def tagOf (img : List Byte) : Nat := leNat ((sha384 (sliceB img (sectOff img 1) 64)).take 8)

/-- The checks of R40 in order: the image, or ERR with the offset of the violation. ERR_WORD of TAG is the header's CFG_TAG and of
CHIP, whose highest field is an extent, the lowest extent violated (DEDUCED, log 34). -/
def checkImage (kh : BitVec 384) (minsvn : Byte) (img : List Byte) : Except (Nat × Nat) Image :=
  let n := leAt img 8 4
  if img.length < 256 || (lengthOk n && decide (img.length < n)) then .error (1, 0)
  else match leastOf (formatViol img) with
  | some o => .error (2, o)
  | none =>
    let i := parseImage img
    if leAt img 0x12 2 ≠ 0x4D5A ∨ leAt img 0x11 1 ≠ 1 then .error (3, 16)
    else if !keyOk kh img n then .error (4, 0)
    else if leAt img 0x0E 1 < minsvn.toNat then .error (5, 12)
    else if !signatureOk img n then .error (6, 0)
    else if leAt img 0x18 8 ≠ tagOf img ∨ tagOf img = 0 ∨ tagOf img = 2 ^ 64 - 1 then .error (7, 0x18)
    else match leastOf (limitViol img i) with
    | some o => .error (8, o)
    | none =>
      match leastOf (viol ((List.range 4).map fun k => (decide (i.ext.toList.getD k 1 ≤ coord i.chip k), sectOff img 1 + k))) with
      | some o => .error (9, o)
      | none => .ok i

/-- The firmware's checks (R358, Table 17-2), the same six steps: its code and ENTRY, or ERR. -/
def checkFirmware (kh : BitVec 384) (minsvn : Byte) (img : List Byte) : Except Nat (List Byte × Nat × Byte) :=
  let n := leAt img 8 4
  let code := leAt img 0x10 4
  let entry := leAt img 0x14 4
  let shape := code % 8 == 0 && decide (code ≤ 262144) && n == 448 + code
  if img.length < 256 || (shape && decide (img.length < n)) then .error 1
  else if leAt img 0 4 != 0x57465A4D || leAt img 4 2 != 1 || !shape || entry % 4 != 0 || decide (code ≤ entry) then .error 2
  else if leAt img 0x0E 2 != 0x4D5A || leAt img 0x0D 1 != 1 then .error 3
  else if !keyOk kh img n then .error 4
  else if decide (leAt img 0x0C 1 < minsvn.toNat) then .error 5
  else if !signatureOk img n then .error 6
  else .ok (sliceB img 256 code, entry, BitVec.ofNat 8 (leAt img 0x0C 1))

end Sys2Proof.Machine
end

