-- ==== Sys2Proof/Machine/Boot.lean ====
section
/-! DEFINITION. Loading and locking the image, the boot of Puppeteer, the automatic reload and PARK (R40 to R42, R280, R338, R354,
R358, R359, Tables 02-10, 17-3). -/

namespace Sys2Proof.Machine

/-- Puppeteer's island, PD59. -/
def pupIsland : Nat := 0x3B

/-! ### The image load -/

/-- Start the load that LOADING stands for, or hold it until the firmware runs (R359). The write of LOAD is no wake need (R315, R372): while
Puppeteer is gated the load is held until something wakes it. -/
def imgStart (s : State) : State :=
  if s.boot.st == .running && powered s 59 then
    imageRead { s with boot := { s.boot with imgHeld := false } } s.boot.imgLatch.toNat
  else { s with boot := { s.boot with imgHeld := true } }

/-- A write of LOAD (Table 02-10): refused in LOADING and LOCKED; else the address is latched and the load starts. -/
def imgLoad (s : State) : State :=
  let b := s.boot
  if b.imgSt == .loading || b.imgSt == .locked then refuse s 0x048 0 mmioIsland
  else imgStart { s with boot := { b with imgSt := .loading, imgErr := 0, imgErrWord := 0, imgLatch := b.imgAddr } }

/-- A write of MZ_IMG_ADDR_LO or _HI (RWL): refused in LOADING and LOCKED. -/
def imgAddrSet (hi : Bool) (v : W32) (s : State) : State :=
  let b := s.boot
  if b.imgSt == .loading || b.imgSt == .locked then refuse s (if hi then 0x044 else 0x040) 0 mmioIsland
  else
    let a := b.imgAddr.toNat
    let n := if hi then a % 2 ^ 32 + 2 ^ 32 * fld v 0 20 else 2 ^ 32 * (a / 2 ^ 32) + fld v 8 24 * 256
    { s with boot := { b with imgAddr := BitVec.ofNat 52 n } }

/-- IMAGE_LOAD (R40): a write of LOAD to MZ_IMG_CTRL. -/
def execImageLoad (ns : Bool) (v : W32) (s : State) : Host.Outcome State Fault Refusal :=
  let _ := v
  .next (mmioW s 0x048 ns true imgLoad)

/-- Whether a load runs, so that its check may end. -/
def loadRuns (s : State) : Bool := s.boot.imgSt == .loading && !s.boot.imgHeld && s.boot.st == .running && operating s

/-- Every section takes effect and the image is LOCKED, in one step (R41): barrier objects take their reset values under the new
chip ID (R280), and every present port begins to train (R227). The bank groups that a pool names wake (R194). -/
def lock (s : State) (i : Image) : State :=
  let s := { s with
    img := some i
    boot := { s.boot with imgSt := .locked, imgErr := 0, imgErrWord := 0, imgSvn := BitVec.ofNat 8 i.svn }
    hub := { s.hub with bars := [] } }
  let s := pendSrc (zlog s pupIsland 0x0500 i.cfgTag.toNat i.bridgeTag.toNat) 3
  let s := (List.range 16).foldl (fun s g => if i.pools.any fun p => p.bgmask.getLsbD g then need s (20 + g) else s) s
  (List.range 8).foldl (fun s p => tryDetect (trainNeed s p) p) s

/-- IMAGE_LOCK (R40, R41): the bytes fetched pass every check. -/
def execImageLock (img : List Byte) (s : State) : Host.Outcome State Fault Refusal :=
  if !loadRuns s then .next s
  else match checkImage s.boot.keyhash s.boot.minsvn img with
    | .ok i => .next (lock (ownDone s .image) i)
    | .error _ => .next s

/-- A load fails (R42): STATE FAILED, ERR and ERR_WORD, and one event of the image-load source. -/
def imgFail (s : State) (err off : Nat) : State :=
  let w := off / 4
  let s := { s with boot := { s.boot with imgSt := .failed, imgErr := err, imgErrWord := BitVec.ofNat 16 w, imgHeld := false } }
  pendSrc (zlog (raise s 0x03 err w pupIsland) pupIsland 0x0501 err w) 3

/-- A fetch of an image or of firmware through M0 has failed. Which line failed, and whether it was answered POISON, ERROR or WORLD, for
which M0 records an error (R207), or not at all, is free (log 47). -/
def fetchError (s : State) (addr : Nat) : State :=
  let r := Config.pick s.fresh % 4
  let a := (addr + 128 * Config.pick (s.fresh + 1)) % 2 ^ 52
  let s := { s with fresh := s.fresh + 2 }
  if r = 0 then ownDead s .image true else memErr (ownDone s .image) 0 a 0 r

/-- IMAGE_LOAD_FAIL (R40, R42): the fetch failed (none), or the bytes fail a check. -/
def execImageLoadFail (img : Option (List Byte)) (s : State) : Host.Outcome State Fault Refusal :=
  if !loadRuns s then .next s
  else match img with
    | none => .next (imgFail (fetchError s s.boot.imgLatch.toNat) 1 0)
    | some bs =>
      match checkImage s.boot.keyhash s.boot.minsvn bs with
      | .ok _ => .next s
      | .error e => .next (imgFail (ownDone s .image) e.1 e.2)

/-! ### Puppeteer (R358) -/

/-- A firmware load starts from MZ_PUP_FW, with secure reads through M0; a wake of PD59 repeats the same load. FWLOAD is no wake need (R315,
R372): while Puppeteer is gated its load waits for a wake. -/
def fwStart (s : State) : State :=
  let s := { s with boot := { s.boot with st := .loading, err := 0, fwLatch := s.boot.pupFw } }
  if powered s 59 then imageRead s s.boot.pupFw.toNat else s

/-- PARK (R354, R356): only in NORMAL and ALERT; the block reset leads back to rail wait with the rail source disarmed and REQ at code 70
(R351). -/
def park (s : State) : State :=
  if s.aon.fc.st == .normal || s.aon.fc.st == .alert then
    let s := beginReset s 4
    { s with pins := { s.pins with railArm := false }, clk := { s.clk with req := 70, settling := false } }
  else refuse s 0x060 0 mmioIsland

/-- A write of MZ_BOOT (Table 17-3): PARK, and FWLOAD in WAIT or FAILED. In SAFE the write is ignored with every other of the
page (R335), and a PARK in it is an event all the same (R356). -/
def bootW (ns : Bool) (v : W32) (s : State) : State :=
  let s := if mmioReady s && s.aon.fc.st == .safe && !ns && bitOf v 3 then refuse s 0x060 0 mmioIsland else s
  mmioW s 0x060 ns true fun s =>
    if bitOf v 3 then park s
    else if bitOf v 2 && (s.boot.st == .wait || s.boot.st == .failed) then fwStart s
    else s

/-- FWLOAD (R358). -/
def execFwload (ns : Bool) (v : W32) (s : State) : Host.Outcome State Fault Refusal := .next (bootW ns (v ||| 4) s)

/-- PARK (R354). -/
def execPark (ns : Bool) (v : W32) (s : State) : Host.Outcome State Fault Refusal := .next (bootW ns (v ||| 8) s)

/-- The boot enters FAILED (R358, R359): one event of the Puppeteer source, and a held image load fails with FETCH. -/
def fwFail (s : State) (err : Nat) : State :=
  let s := raise { s with boot := { s.boot with st := .failed, err := err } } 0x10 err 0 pupIsland
  if s.boot.imgSt == .loading && s.boot.imgHeld then imgFail s 1 0 else s

/-- FIRMWARE_LOAD_DONE (R358): the code starts at ENTRY, and a held load starts; or the load fails. -/
def execFirmwareLoadDone (img : Option (List Byte)) (s : State) : Host.Outcome State Fault Refusal :=
  if s.boot.st != .loading || !operating s then .next s
  else match img with
    | none => .next (fwFail (fetchError s s.boot.fwLatch.toNat) 1)
    | some bs =>
      let s := ownDone s .image
      match checkFirmware s.boot.keyhash s.boot.minsvn bs with
      | .error e => .next (fwFail s e)
      | .ok f =>
        let s := { s with boot := { s.boot with st := .running, err := 0, pupCode := f.1, pupEntry := f.2.1, fwSvn := f.2.2 } }
        .next (if s.boot.imgSt == .loading && s.boot.imgHeld then imgStart s else s)

/-- AUTOLOAD_RELOAD (R338): after a reset from SAFE the firmware copies MZ_FC_REIMG and writes LOAD. -/
def execAutoloadReload (s : State) : Host.Outcome State Fault Refusal :=
  if s.boot.reloadDue && s.boot.st == .running && operating s then
    let s := { s with boot := { s.boot with reloadDue := false } }
    let a := s.aon.fc.reimg
    let s := imgAddrSet false (BitVec.ofNat 32 (fld a 0 24 * 256)) s
    .next (imgLoad (imgAddrSet true (BitVec.ofNat 32 (fld a 24 20)) s))
  else .next s

end Sys2Proof.Machine
end

