-- ==== Sys2Proof/Machine/Links.lean ====
section
/-! DEFINITION. Commands of the chip links: pins and registers of a port, training, control flits, data flits with replay
and credits, and forwarding (R218 to R241). -/

namespace Sys2Proof.Machine

/-! ### Control flits (R228 to R230) -/

/-- Kind of a CONTROL flit. -/
def ctlKind (f : FlitData) : Nat := fld (flitSlot f 0) 0 8

/-- Whether every bit that the kind does not define is zero, and the kind is not reserved (R230). -/
def ctlGood (f : FlitData) : Bool :=
  let a := flitSlot f 0
  let b := flitSlot f 1
  let rest := fun k => ((List.range 16).drop k).all fun i => flitSlot f i == 0
  match ctlKind f with
  | 1 => decide (fld a 28 36 = 0) && decide (fld b 64 64 = 0) && rest 2
  | 2 => decide (fld a 12 116 = 0) && rest 1
  | 3 => decide (fld a 8 120 = 0) && (List.range 8).all (fun k =>
      decide (fld (flitSlot f (1 + k / 4)) (32 * (k % 4) + 16) 8 = 0)) && rest 3
  | 4 => decide (fld a 24 104 = 0) && rest 1
  | _ => false

/-- A link with FACK of a flit applied: the replay buffer keeps what the peer has still to receive (R225). -/
def ackOf (l : Link) (f : FlitData) : Link :=
  let n := (fAck f + 4096 - l.acked.toNat) % 4096
  if 0 < n ∧ n ≤ l.replay.length then { l with replay := l.replay.drop n, acked := BitVec.ofNat 12 (fAck f), nackRun := 0 } else l

/-- The credit that a flit's return leaves a link with. -/
def creditOf (l : Link) (f : FlitData) : Nat := credit l (fld f 27 3) + fld f 30 11

/-- A NACK is counted and raises one event of the link-replay source (R225). -/
def nackIn (s : State) (p : Nat) (f : FlitData) : State :=
  let l := link s p
  raise (setLink s p { l with nackrx := satAdd 16 l.nackrx 1, nackRun := l.nackRun + 1 }) (0xA0 + p) (fAck f) 0 (0x24 + p)

/-- What the header of a CONTROL flit carries while the port retrains, where buffers and credits are kept (R220, R226): FACK, from which the
transmitter resends, the credit return, and NACK. A return above 2,048 is an error that the port answers with the state it is in. -/
def retrainHdr (s : State) (p : Nat) (f : FlitData) : State :=
  let l := ackOf (link s p) f
  let s := setLink s p (if 2048 < creditOf l f then l else setCredit l (fld f 27 3) (creditOf l f))
  if bitOf f 26 then nackIn s p f else s

/-- Resend every unacknowledged DATA flit in FSEQ order, and start what waits (R225). `rep` is what the code of the replay
buffer finds: an uncorrectable error takes the port to DOWN (R239). -/
def resend (s : State) (p : Nat) (rep : Ecc) : State :=
  let go := fun s => pump 512 ((link s p).replay.foldl (fun s e => sendFlit s p 1 e.1.toNat false e.2) s) p
  if (link s p).replay.isEmpty then go s
  else match rep with
    | .clean => go s
    | .corrected => go (linkCorr s p)
    | .uncorrectable => enterDown s p

/-- What every flit's header carries (R220, R225): FACK frees the replay buffer, a credit return is added or is a protocol
error, and NACK is counted, raises the link-replay source and resends, or retrains at the eighth without progress. -/
def applyHdr (s : State) (p : Nat) (f : FlitData) (rep : Ecc) : State :=
  let l := ackOf (link s p) f
  if 2048 < creditOf l f then enterRetrain (setLink s p l) p
  else
    let l := setCredit l (fld f 27 3) (creditOf l f)
    let s := setLink s p l
    if bitOf f 26 then
      if 8 ≤ l.nackRun + 1 then enterRetrain (nackIn s p f) p else resend (nackIn s p f) p rep
    else pump 512 s p

/-- Whether a port's receiver decodes codewords: from LOCK on. -/
def decoding (l : Link) : Bool :=
  match l.st with
  | .lock | .ident | .active | .transit | .refused => true
  | .retrain => decide (1 ≤ l.sub)
  | _ => false

/-- The codewords that a flit is the first to show are counted, those flagged in UNCORR and those corrected in CORRCW (R219, R241). -/
def fecCount (s : State) (p : Nat) (rx : FlitRx) : State :=
  let l := link s p
  if decoding l then
    setLink s p { l with uncorr := BitVec.ofNat 16 (satAdd 16 l.uncorr.toNat rx.uncorr.val)
                         corrcw := BitVec.ofNat 16 (satAdd 16 l.corrcw.toNat rx.corr.val), corrWin := l.corrWin + rx.corr.val }
  else s

/-- A CONTROL flit arrives: with a bad CRC it is nothing; a malformed one is discarded with a link-protocol event; one of
another kind is another row's; otherwise its header takes effect as any flit's does, and then `act` (R220). -/
def controlIn (s : State) (p : Nat) (f : FlitData) (rx : FlitRx) (kind : Nat) (act : State → State) : State :=
  let s := fecCount s p rx
  if !flitGood f || fType f != 2 then s
  else if !ctlGood f then raise s (0xA8 + p) (fld f 0 64) 0 (0x24 + p)
  else if ctlKind f = kind then
    act (if (link s p).st == .retrain then retrainHdr s p f else if linkUp (link s p) then applyHdr s p f rx.rep else s)
  else s

/-- Send a CONTROL flit with these slots, with NACK where it repeats one. -/
def sendCtl (s : State) (p : Nat) (nack : Bool) (slots : List Slot) : State := sendFlit s p 2 0 nack slots

/-- Send this side's IDENT (R228). -/
def sendIdent (s : State) (p : Nat) (nack : Bool := false) : State :=
  let i := im s
  sendCtl s p nack [BitVec.ofNat 128 (1 + 2 ^ 8 * i.chip + 2 ^ 16 * i.lcode.toList.getD p 0 + 2 ^ 20 * i.linkrev
    + 2 ^ 64 * i.cfgTag.toNat), BitVec.ofNat 128 i.bridgeTag.toNat]

/-- Send the next SYNC flit (R230). -/
def sendSync (s : State) (p : Nat) (nack : Bool := false) : State :=
  let l := link s p
  sendCtl (setLink s p { l with syncTx := (l.syncTx + 1) % 65536 }) p nack [BitVec.ofNat 128 (4 + 2 ^ 8 * l.syncTx)]

/-- Whether a port is in EQ, or in the equalisation of RETRAIN. -/
def inEq (l : Link) : Bool := l.st == .eq || (l.st == .retrain && l.sub == 0)
/-- Whether a port is in LOCK, or in LOCK of RETRAIN. -/
def inLock (l : Link) : Bool := l.st == .lock || (l.st == .retrain && l.sub == 1)
/-- Whether a port exchanges IDENTs, in IDENT or in RETRAIN. -/
def inIdent (l : Link) : Bool := l.st == .ident || (l.st == .retrain && l.sub == 2)

/-- From EQ to LOCK: flit alignment starts anew and SYNC flits are sent from number 0. -/
def toLock (s : State) (p : Nat) : State :=
  let l := link s p
  let l' := { l with syncRun := 0, syncTx := 0 }
  sendSync (if l.st == .retrain then setLink s p { l' with sub := 1 } else linkTo (setLink s p l') p .lock) p

/-! ### Pins, registers and timers -/

/-- LINK_PRESENCE_CHANGE (R227): high takes the port to DETECT after the DOWN actions; low starts the presence count. The
pin is ignored in OFF (Table 17-4). -/
def execLinkPresenceChange (p : Port) (high : Bool) (s : State) : Host.Outcome State Fault Refusal :=
  let s := { s with pins := { s.pins with prsntN := putBit s.pins.prsntN p.val high } }
  if high && (link s p.val).st != .off then .next (leaveTo s p.val .detect) else .next s

/-- Clear the counters of a port's block (Table 10-8); SYMS is not one of them. -/
def linkClear (l : Link) : Link :=
  { l with uncorr := 0, corrcw := 0, nackrx := 0, nacktx := 0, retrains := 0, downs := 0, route := 0, pktdrop := 0 }

/-- A write of MZ_LK_CTRL. -/
def lkCtrl (v : W32) (s : State) (p : Nat) : State :=
  if s.img.isSome && !linkPresent s p then s
  else
    let l := { link s p with fixeq := bitOf v 3 }
    let l := if bitOf v 2 then linkClear l else l
    let s := setLink s p { l with disable := bitOf v 0 }
    let s := if bitOf v 1 then enterRetrain s p else s
    if bitOf v 0 then leaveTo s p .off else tryDetect s p

/-- Offset of a link register. -/
def lkOff (p r : Nat) : Nat := 0x1D000 + 0x40 * p + r

/-- A write of MZ_LK_CTRL over MMIO. -/
def lkCtrlW (p : Nat) (ns : Bool) (v : W32) (s : State) : State :=
  mmioW s (lkOff p 0) ns ((s.img.isNone || linkPresent s p) && domSecure s (36 + p)) fun s => lkCtrl v s p

/-- LINK_DISABLE (R227). -/
def execLinkDisable (p : Port) (ns : Bool) (v : W32) (s : State) : Host.Outcome State Fault Refusal :=
  .next (lkCtrlW p.val ns v s)

/-- LINK_RETRAIN (R226). -/
def execLinkRetrain (p : Port) (ns : Bool) (v : W32) (s : State) : Host.Outcome State Fault Refusal :=
  .next (lkCtrlW p.val ns (v ||| 2) s)

/-- LINK_CLRCNT (R241). -/
def execLinkClrcnt (p : Port) (ns : Bool) (v : W32) (s : State) : Host.Outcome State Fault Refusal :=
  .next (lkCtrlW p.val ns (v ||| 4) s)

/-- LINK_STATE_TIMER_EXPIRE (Table 10-5): the count of the present state expires. -/
def execLinkStateTimerExpire (p : Port) (s : State) : Host.Outcome State Fault Refusal :=
  let l := link s p.val
  match l.st with
  | .detect => .next (if s.pins.prsntN.getLsbD p.val then s else linkTo s p.val .wake)
  | .wake => .next (enterDown s p.val)
  | .eq => .next (enterDown s p.val)
  | .lock => .next (enterDown s p.val)
  | .ident => .next (enterDown s p.val)
  | .retrain => .next (enterDown s p.val)
  | .down => .next (linkTo s p.val .detect)
  | .refused => .next (sendIdent s p.val)
  | .off => .next s
  | .active => .next s
  | .transit => .next s

/-- LINK_SIGNAL_DETECT (R227, R231): EQ is entered and every lane sends frames. -/
def execLinkSignalDetect (p : Port) (s : State) : Host.Outcome State Fault Refusal :=
  let l := link s p.val
  if l.st == .wake then .next (sendFrames (linkTo (setLink s p.val { l with lane := [] }) p.val .eq) p.val) else .next s

/-! ### Equalisation (R229, R231) -/

/-- A request moves one tap by one step; beyond the range, where the main cursor would be below 0, it changes nothing and
the status is 2 (the range is DEDUCED, log 22). -/
def tapMove (x : Lane) (tap act : Nat) : Lane × Nat :=
  let d : Int := if act = 1 then 1 else -1
  let y := if tap = 0 then { x with cm2 := x.cm2 + d }
    else if tap = 1 then { x with cm1 := x.cm1 + d } else { x with cp1 := x.cp1 + d }
  if 64 < y.cm2.natAbs + y.cm1.natAbs + y.cp1.natAbs then (x, 2) else (y, 1)

/-- Whether a lane field's request has been acted on already: its RQN is the last one (R231). -/
def oldReq (x : Lane) (f : Nat) : Bool := x.lastRqn == some (BitVec.ofNat 8 (f / 256))

/-- Act on a lane field (Table 10-11) whose RQN is new; `live` is ACTIVE or TRANSIT, where a preset is refused, and with FIXEQ set every
coefficient holds its value (R229). -/
def laneReq (x : Lane) (f : Nat) (live fixeq : Bool) : Lane :=
  let tap := f % 4
  let act := (f / 4) % 4
  let rqn := BitVec.ofNat 8 (f / 256)
  if oldReq x f then x
  else
    let r : Lane × Nat :=
      if act = 3 then (if live || fixeq then (x, 3) else ({ x with cm2 := 0, cm1 := -4, cp1 := 0 }, 1))
      else if act = 0 ∨ tap = 3 then (x, 1)
      else if fixeq then (x, 3)
      else tapMove x tap act
    { r.1 with lastRqn := some rqn, status := r.2, ackn := rqn }

/-- What a lane makes of a frame: a request or a precoding request acts where its RQN is new, and READY counts while it comes in frame after
frame. A field whose CHECK fails is ignored, and its frame is none with READY (R231). -/
def takeFrame (x : Lane) (f : W64) (fixeq : Bool) : Lane :=
  if fld f 56 8 != frameCheck f then { x with peerReady := 0 }
  else
    let v := f.toNat % 2 ^ 32
    { laneReq x v false fixeq with
      precoded := if oldReq x v then x.precoded else bitOf f 32
      peerReady := if bitOf f 34 then min 4 (x.peerReady + 1) else 0 }

/-- TRAINING_FRAME (R231): a frame taken whole. The lane's own frames go on back to back, one for each that comes (DESIGN CHOICE, log
22). EQ ends when every lane has had READY in 4 consecutive frames. -/
def execTrainingFrame (p : Port) (lane : Fin 8) (f : W64) (s : State) : Host.Outcome State Fault Refusal :=
  let l := link s p.val
  if !inEq l then .next s
  else
    let x := takeFrame (laneOf l lane.val) f l.fixeq
    let l := { l with lane := tset (fun _ => {}) l.lane lane.val x }
    let s := emit (setLink s p.val l) (.frame p.val lane.val (laneFrame x lane.val))
    .next (if (List.range 8).all fun k => decide (4 ≤ (laneOf l k).peerReady) then toLock s p.val else s)

/-! ### LOCK and IDENT -/

/-- SYNC (R230): consecutive SYNC numbers count toward flit alignment. -/
def execSync (p : Port) (x : FlitIn) (s : State) : Host.Outcome State Fault Refusal :=
  .next (controlIn s p.val x.flit x.rx 4 fun s =>
    let l := link s p.val
    if !inLock l then s
    else
      let n := fld (flitSlot x.flit 0) 8 16
      let run := if l.syncRun ≠ 0 ∧ n = (l.syncNo + 1) % 65536 then min 8 (l.syncRun + 1) else 1
      sendSync (setLink s p.val { l with syncNo := n, syncRun := run }) p.val)

/-- Send what a side in IDENT sends: its IDENT until it has decided, then its CONFIRM (R228). -/
def sendIdentStep (s : State) (p : Nat) (nack : Bool := false) : State :=
  match (link s p).decided with
  | none => sendIdent s p nack
  | some o => sendCtl s p nack [BitVec.ofNat 128 (2 + 2 ^ 8 * o.code)]

/-- LOCK_ALIGNMENT_HELD (R227, R228): alignment has held for 1,024 codewords; the side enters IDENT and sends the two identical IDENTs
that its peer decides by. Before the flit alignment is found, and in IDENT, each such stretch repeats what the step sends, SYNC, IDENT or
CONFIRM, in place of what was lost (R229, R230; the rate is a DESIGN CHOICE, log 22). -/
def execLockAlignmentHeld (p : Port) (s : State) : Host.Outcome State Fault Refusal :=
  let l := link s p.val
  if inLock l && l.syncRun == 8 then
    let l' := { l with lanes := 8, identLast := none, decided := none, peerConf := none }
    .next (sendIdent (sendIdent (if l.st == .retrain then setLink s p.val { l' with sub := 2 }
      else linkTo (setLink s p.val l') p.val .ident) p.val) p.val)
  else if inLock l then .next (sendSync s p.val)
  else if inIdent l then .next (sendIdentStep s p.val)
  else .next s

/-- The outcome that Table 02-11 gives, with its REASON. -/
def identOutcome (s : State) (p : Nat) (a b : Slot) : LinkSt × Nat :=
  let i := im s
  let pchip := fld a 8 8
  let pcode := fld a 16 4
  let own := portDim s p
  let tag := fld a 64 64
  let btag := fld b 0 64
  if pchip ≠ neighbour s p ∨ pcode / 4 ≠ own.1 ∨ (pcode / 2) % 2 = own.2 then (.refused, 2)
  else if tag = i.cfgTag.toNat then (.active, 0)
  else if (i.bridgeTag ≠ 0 ∧ tag = i.bridgeTag.toNat) ∨ (btag ≠ 0 ∧ btag = i.cfgTag.toNat) then (.transit, 0)
  else (.refused, 1)

/-- The peer's identity that an IDENT carries, as the registers of Table 10-8 show it. -/
def takePeer (l : Link) (a b : Slot) : Link :=
  { l with pchip := fld a 8 8, pcode := fld a 16 4, ptag := BitVec.ofNat 64 (fld a 64 64), pbtag := BitVec.ofNat 64 (fld b 0 64) }

/-- Enter ACTIVE or TRANSIT from IDENT: full credit on every channel, so that none is owed for what the receive buffer still holds, and
flit numbers from 0 (R223; the numbers DESIGN CHOICE, log 20). -/
def linkStart (s : State) (p : Nat) (st : LinkSt) : State :=
  let l := link s p
  linkTo (setLink s p { l with
    cred := Vector.replicate 8 2048, owed := Vector.replicate 8 0, txSeq := 0, rxSeq := 0, acked := 4095, replay := [], rxPart := []
    nack := false, nackRun := 0, starts := 0
    rxq := l.rxq.map fun k => if k.via % 2 = 0 then { k with via := k.via + 1 } else k }) p st

/-- Whether the identity that the last IDENT showed is the peer's of before. -/
def samePeer (l : Link) : Bool :=
  match l.identLast with
  | some (a, b) => takePeer l a b == l
  | none => false

/-- Both sides have sent CONFIRM, this one for `o` and the peer for the state of value `theirs` (R228, R226): the link takes the outcome
that both confirm; two that differ refuse it with REASON 4. In RETRAIN another peer or outcome takes the port to DOWN. -/
def bothConfirm (s : State) (p : Nat) (o : LinkSt) (theirs : Nat) (rep : Ecc) : State :=
  let l := link s p
  let l' := { l with decided := none, peerConf := none }
  if l.st == .retrain then
    if theirs = o.code ∧ o = l.pre ∧ samePeer l then resend (linkTo (setLink s p l') p o) p rep else enterDown s p
  else if theirs ≠ o.code then linkTo (setLink s p { l' with reason := 4 }) p .refused
  else if o = .refused then
    linkTo (setLink s p { l' with reason := (match l.identLast with
      | some (a, b) => (identOutcome s p a b).2
      | none => 0) }) p .refused
  else linkStart (setLink s p l') p o

/-- CONFIRM (R228, R226). One that comes before this side has decided is remembered until it has. -/
def execConfirm (p : Port) (f : FlitData) (rx : FlitRx) (s : State) : Host.Outcome State Fault Refusal :=
  .next (controlIn s p.val f rx 2 fun s =>
    let l := link s p.val
    let theirs := fld (flitSlot f 0) 8 4
    if !inIdent l then s
    else match l.decided with
      | none => setLink s p.val { l with peerConf := some theirs }
      | some o => bothConfirm s p.val o theirs rx.rep)

/-- Having received two identical IDENTs, the side decides and sends CONFIRM (R228); a CONFIRM of the peer that is there already
completes the exchange. -/
def decide2 (s : State) (p : Nat) (a b : Slot) (rep : Ecc) : State :=
  let l := link s p
  let o := identOutcome s p a b
  let s := setLink s p { (if l.st == .retrain then l else takePeer l a b) with identLast := some (a, b), decided := some o.1 }
  let s := if o.2 = 2 then raise s (0xC8 + p) (fld a 8 8) (fld a 16 4) (0x24 + p)
    else if o.2 = 1 then raise s (0xD0 + p) (fld a 64 64) 0 (0x24 + p) else s
  let s := sendIdentStep s p
  match l.peerConf with
  | some c => bothConfirm s p o.1 c rep
  | none => s

/-- IDENT (R228). In REFUSED a change of the peer's IDENT content takes the port back to IDENT. An IDENT that decides nothing yet is
answered with this side's own, and one after the decision with its CONFIRM. -/
def execIdent (p : Port) (x : FlitIn) (s : State) : Host.Outcome State Fault Refusal :=
  .next (controlIn s p.val x.flit x.rx 1 fun s =>
    let l := link s p.val
    let a := flitSlot x.flit 0
    let b := flitSlot x.flit 1
    if l.st == .refused then
      if l.identLast = some (a, b) then s
      else
        let same := l.identLast.isNone
        let s := setLink s p.val { l with identLast := some (a, b), decided := none, peerConf := none }
        if same then s else sendIdent (sendIdent (linkTo s p.val .ident) p.val) p.val
    else if !inIdent l then s
    else if l.decided.isSome then sendIdentStep s p.val
    else if l.identLast = some (a, b) then decide2 s p.val a b x.rx.rep
    else sendIdent (setLink s p.val { l with identLast := some (a, b) }) p.val)

/-! ### Flits in service -/

/-- Whether the body of a barrier message is malformed: a reserved kind or a nonzero res0 field. -/
def badBody (h : Slot) (t : List Slot) : Bool :=
  pOpc h == 10 && (decide (5 ≤ fld (t.headD 0) 64 3) || decide (fld (t.headD 0) 120 8 ≠ 0))

/-- Take the packets out of the slots received in order (R221): an all-zero slot is unused; an incomplete packet waits for the next flit; a
malformed packet is discarded whole, with a link-protocol event, and its slots drain; one of a reserved opcode has no length, and its header
alone is discarded (DEDUCED, log 20). -/
def takeSlots : Nat → State → Nat → List Slot → State
  | 0, s, _, _ => s
  | _ + 1, s, p, [] => setLink s p { link s p with rxPart := [] }
  | n + 1, s, p, h :: t =>
    if h = 0 then takeSlots n s p t
    else
      let len := (pktLen (pOpc h)).getD 1
      let l := link s p
      if (h :: t).length < len then setLink s p { l with rxPart := h :: t }
      else if badHdr h || badBody h t then
        let s := raise (countDrop s p) (0xA8 + p) (fld h 0 64) (pSchip h) (0x24 + p)
        takeSlots n (returnCredit s p (pVc h) len) p ((h :: t).drop len)
      else takeSlots n (setLink s p { l with rxq := l.rxq ++ [⟨(h :: t).take len, if l.st == .transit then 2 else 0⟩] }) p ((h :: t).drop len)

/-- A DATA flit is discarded: at the first discard NACK goes out in the next flit (R225). -/
def discardFlit (s : State) (p : Nat) : State :=
  let l := link s p
  if l.nack then s
  else sendFlit (setLink s p { l with nack := true, nacktx := satAdd 16 l.nacktx 1 }) p 0 0 true []

/-- DATA_FLIT_RECEIVED (R221, R225): a flit of bad CRC, or of a codeword that was flagged uncorrectable, is discarded. -/
def execDataFlitReceived (p : Port) (f : FlitData) (fec : FlitFec) (rep : Ecc) (s : State) : Host.Outcome State Fault Refusal :=
  let s := fecCount s p.val { fec with rep }
  if !linkUp (link s p.val) then .next s
  else if fec.flagged || fec.uncorr != 0 || !flitGood f then .next (discardFlit s p.val)
  else if fType f ≠ 1 then .next s
  else
    let s := applyHdr s p.val f rep
    let l := link s p.val
    if !linkUp l then .next s
    else if fSeq f ≠ l.rxSeq.toNat then .next (discardFlit s p.val)
    else
      let s := setLink s p.val { l with rxSeq := l.rxSeq + 1, nack := false }
      let slots := l.rxPart ++ flitSlots f
      .next (sendFlit (takeSlots (slots.length + 1) s p.val slots) p.val 0 0 false [])

/-- IDLE_FLIT_RECEIVED (R220): its FACK, NACK and credit return are applied. -/
def execIdleFlitReceived (p : Port) (f : FlitData) (rx : FlitRx) (s : State) : Host.Outcome State Fault Refusal :=
  let s := fecCount s p.val rx
  if linkUp (link s p.val) && flitGood f && fType f == 0 then .next (applyHdr s p.val f rx.rep) else .next s

/-- NACK_REPEAT (R225): a receiver still missing the expected flit repeats its NACK, in an IDLE flit, or in the SYNC, IDENT or CONFIRM that
its step of RETRAIN sends next (R220); the frames of equalisation carry none. -/
def execNackRepeat (p : Port) (s : State) : Host.Outcome State Fault Refusal :=
  let l := link s p.val
  if !l.nack then .next s
  else
    let u := setLink s p.val { l with nacktx := satAdd 16 l.nacktx 1 }
    if linkUp l then .next (sendFlit u p.val 0 0 true [])
    else if inLock l then .next (sendSync u p.val true)
    else if inIdent l then .next (sendIdentStep u p.val true)
    else .next s

/-- EQREQ (R229): one step per lane; the outcomes go back in an EQREQ flit. -/
def execEqreq (p : Port) (f : FlitData) (rx : FlitRx) (s : State) : Host.Outcome State Fault Refusal :=
  .next (controlIn s p.val f rx 3 fun s =>
    if !linkUp (link s p.val) then s
    else
      let l := link s p.val
      let field := fun k => fld (flitSlot f (1 + k / 4)) (32 * (k % 4)) 32
      let l := (List.range 8).foldl (fun l k =>
        { l with lane := tset (fun _ => {}) l.lane k (laneReq (laneOf l k) (field k) true l.fixeq) }) l
      let back := fun k => (3 + 2 ^ 4 * (laneOf l k).status + 2 ^ 24 * (laneOf l k).ackn.toNat) * 2 ^ (32 * (k % 4))
      sendCtl (setLink s p.val l) p.val false [3, BitVec.ofNat 128 (back 0 + back 1 + back 2 + back 3),
        BitVec.ofNat 128 (back 4 + back 5 + back 6 + back 7)])

/-- ELECTRICAL_IDLE_DETECT (R226). -/
def execElectricalIdleDetect (p : Port) (s : State) : Host.Outcome State Fault Refusal := .next (enterRetrain s p.val)

/-- SER_WINDOW_END (R229): a window of 2^22 codewords ends with `w.syms` corrected symbols in `w.cws` corrected codewords; above THRESH
× 1,024 an ACTIVE or TRANSIT port retrains. CORRCW takes in those that no flit has shown yet: the flits between them come as no command
(log 17). -/
def execSerWindowEnd (p : Port) (w : SerWindow) (s : State) : Host.Outcome State Fault Refusal :=
  let l := link s p.val
  let l := { l with syms := w.syms, corrcw := BitVec.ofNat 16 (satAdd 16 l.corrcw.toNat (w.cws.toNat - l.corrWin)), corrWin := 0 }
  let s := setLink s p.val l
  .next (if 1024 * l.thresh.toNat < w.syms.toNat then enterRetrain s p.val else s)

/-- A packet on its way through whose data slots are uncorrectable (R239): a write or an addition goes no further and is answered POISON; a
response goes on as POISON; for a barrier message, which R239 does not name, the model takes the way of an uncorrectable header (DESIGN
CHOICE, log 20). A packet without data slots is whole. -/
def transitPoison (s : State) (p : Nat) (k : Packet) (fwd : Packet → State → State) : State :=
  let h := pktHdr k
  if decide (2 ≤ pOpc h) && decide (pOpc h ≤ 5) then
    let e := errFor s h 1
    if pSchip h == ownChip s then deliverOwn s p e else sendOrDrop s e
  else if pOpc h == 6 || pOpc h == 8 then
    fwd ⟨[BitVec.ofNat 128 (h.toNat / 2 ^ 4 * 2 ^ 4 % 2 ^ 93 + 9 + 2 ^ 93 + 2 ^ 96 * pHops h)], k.via⟩ s
  else if pOpc h == 10 then discardHdr s p k
  else fwd k s

/-- A packet that arrived at port `p` and does not terminate here goes on (R232 to R234). For an absent port, or HOPS that would reach
9, the event and the counts are those of the port it arrived on: R234 names none (DESIGN CHOICE, log 21). -/
def forwardPkt (p : Nat) (k : Packet) (s : State) : State :=
  let h := pktHdr k
  match hop s (pDchip h) (pVc h / 2) with
  | none => s
  | some hp =>
    if 9 ≤ pHops h + 1 then dropPkt (routeEvent s p k) p k
    else match portOf s hp with
      | none => dropPkt (routeEvent s p k) p k
      | some q =>
        let l := link s q
        if linkUp l || l.st == .retrain then
          enqueue s q ⟨setVcHops h (pVc h) (pHops h + 1) :: k.slots.tail, 33 + p⟩ hp (some (portDim s p).1)
        else dropPkt (if l.st == .refused then routeEvent s q k else s) q k

/-- PACKET_FORWARD (R232 to R234, R239): the oldest packet in the port's receive buffer that does not terminate here goes to the
port that dimension-order routing selects. -/
def execPacketForward (p : Port) (ecc : RxEcc) (s : State) : Host.Outcome State Fault Refusal :=
  match oldest s p.val fun k => !terminates s k with
  | none => .next s
  | some (i, k) =>
    let s := rxCorr (takePkt s p.val i) p.val ecc
    .next (match ecc with
      | .header => discardHdr s p.val k
      | .data => transitPoison s p.val k (forwardPkt p.val)
      | _ => forwardPkt p.val k s)

end Sys2Proof.Machine
end

