-- ==== Sys2Proof/Machine/Reset.lean ====
section
/-! DEFINITION. Rails, resets and the wake pin (R316, R338, R351 to R356, R362, Table 17-1). -/

namespace Sys2Proof.Machine

/-- Level of a rail's power-good input. -/
def railLevel (s : State) (r : Rail) : Bool := match r with | .t => s.pins.pgT | .m => s.pins.pgM | .l => s.pins.pgL

/-- Set the level of a rail's power-good input. -/
def setRail (s : State) (r : Rail) (b : Bool) : State :=
  match r with
  | .t => { s with pins := { s.pins with pgT := b } }
  | .m => { s with pins := { s.pins with pgM := b } }
  | .l => { s with pins := { s.pins with pgL := b } }

/-- The bitmap of the rail source: T at bit 0 (Table 16-1). -/
def railBits (s : State) : Nat := flag s.pins.pgT 0 + flag s.pins.pgM 1 + flag s.pins.pgL 2

/-- PGOOD_FALL (R316, R335, R353): while armed, one event of the rail source, which is severe at its first event. In SAFE with that
source as the cause, PD44 is gated once T or M is low. -/
def execPgoodFall (r : Rail) (s : State) : Host.Outcome State Fault Refusal :=
  if !railLevel s r then .next s
  else
    let s := setRail s r false
    if s.boot.phase == .cold then .next s
    else
      let s := if s.pins.railArm then raise s 0x01 (railBits s) 0 0x40 else s
      .next (if s.aon.fc.st == .safe then safeGate s 44 else s)

/-- PGOOD_RISE (R336, R353): a rise starts the rail-wait count, whose end is a command, and the quiet count of an automatic exit. -/
def execPgoodRise (r : Rail) (s : State) : Host.Outcome State Fault Refusal :=
  if railLevel s r then .next s
  else
    let s := setRail s r true
    if s.boot.phase == .cold then .next s
    else .next (setFc s { s.aon.fc with quiet := s.aon.fc.acyc })

/-- A domain that wakes raises REQ to what the VI of its FMIN needs, and waits with VDD_T (R310). A bank group that no pool names is not
powered (R194). -/
def wakeDue (s : State) (d : Nat) : State :=
  if (isl s d).ps == .waking && !bankUnnamed s d then startWake s d else s

/-- RAIL_WAIT_END (R353): the three inputs have been high for 400 A-cycles; the rail source is armed and a block reset begins, in which
the domains power up: until now REQ has had its reset value (R351). -/
def execRailWaitEnd (s : State) : Host.Outcome State Fault Refusal :=
  if s.boot.phase == .railWait && s.pins.pgT && s.pins.pgM && s.pins.pgL then
    .next ((List.range 64).foldl wakeDue
      { s with pins := { s.pins with railArm := true }, boot := { s.boot with phase := .resetting, rstBy := 0 } })
  else .next s

/-- Cold reset (R355): everything at its reset value; the pins keep their levels, RAILARM is 0. -/
def coldWipe (s : State) : State :=
  { State.reset with
    pending := s.pending, pins := { s.pins with railArm := false }, out := s.out, fresh := s.fresh, order := s.order
    boot := { phase := .cold, coldBy := s.boot.coldBy } }

/-- COLD_RESET (R355): MZ_PORST_N or MZ_PGOOD_A goes low and holds the whole block. -/
def execColdReset (c : ColdCause) (s : State) : Host.Outcome State Fault Refusal :=
  let s := match c with
    | .porst => { s with pins := { s.pins with porstN := false } }
    | .pgoodA => { s with pins := { s.pins with pgA := false } }
  let s := coldWipe s
  .next { s with boot := { s.boot with coldBy := dedup (s.boot.coldBy ++ [c]) } }

/-- COLD_RESET_END (R355): both inputs have been high for 400 A-cycles; the straps are sampled and rail wait begins. -/
def execColdResetEnd (st : Straps) (s : State) : Host.Outcome State Fault Refusal :=
  if s.boot.phase != .cold then .next s
  else .next { s with
    pins := { s.pins with porstN := true, pgA := true }
    boot := { s.boot with phase := .railWait, straps := st, coldBy := [] } }

/-- The state that a block reset leaves RESETTING for: SAFE before ALERT, by the sources that are severe (R333). -/
def resetNext (s : State) : FcSt × Nat :=
  let sev := fun a => (List.range 256).filter fun i => (src s i).sev && (src s i).act == a
  let one := fun l => List.getD l (Config.pick s.fresh % l.length) 0
  if sev .safe != [] then (.safe, one (sev .safe))
  else if sev .alert != [] then (.alert, one (sev .alert))
  else (.normal, s.aon.fc.cause)

/-- A bank group without power: no pool names it, as no image is locked (R194). -/
def bankOff (x : Island) : Island :=
  { x with ps := .gated, freq := 0, vi := 0, hi := 0, lo := 0, margin := true, raise := false, wantWake := false }

/-- A domain's wake that a block reset outlasts: the reset is longer than every latency of Table 14-6, so the domain is ON at its FMIN,
unless it waits for VDD_T still; a bank group that no pool names is gated. A domain that is ON, GATING or GATED keeps its state, VI and
FREQ (R373; DEDUCED, log 43). -/
def wakeEnds (s : State) (d : Nat) : State :=
  let x := isl s d
  if x.ps != .waking then s
  else if bankUnnamed s d then setIsl s d (bankOff x)
  else if x.raise then s
  else setIsl s d (atFmin s d)

/-- The domains after a block reset. AON runs at 40 MHz (R314). In SAFE every domain but PD44 is gated, and PD44 too where R335 says so
(R194, R335, R356). -/
def domainsUp (s : State) : State :=
  let s := setIsl s 0x40 { isl s 0x40 with ps := .on, freq := 40 }
  if s.aon.fc.st == .safe then (List.range 64).foldl safeGate (wakeEnds s 44)
  else (List.range 64).foldl wakeEnds s

/-- The boot ROM runs (R358): a load from a nonzero MZ_PUP_FW, for which a gated Puppeteer is woken, else WAIT. -/
def bootRom (s : State) : State := if s.boot.pupFw ≠ 0 then need (fwStart s) 59 else { s with boot := { s.boot with st := .wait } }

/-- RESETTING ends (R333, R338): EXITED, pending bit 1, the next state, and the reload that AUTOLOAD asks for. A block reset that BLKRST
started in SAFE leaves the state, and sets EXITED (R341, Table 16-8). -/
def resettingEnd (s : State) : State :=
  if s.aon.fc.st != .resetting then
    let s := domainsUp s
    if s.boot.rstBy = 5 then pendSrc (setFc s { s.aon.fc with exited := true }) 1 else s
  else
    let n := resetNext s
    let s := fcGo (bump (setFc s { s.aon.fc with exited := true })) n.1 n.2
    let s := domainsUp s
    let s := pendSrc s 1
    let s := { s with boot := { s.boot with reloadDue := s.aon.fc.autoload } }
    if n.1 == .safe then safeEnter s else s

/-- BLOCK_RESET_DONE (R338, R356, R358): the tie-offs are sampled, MZ_FC_BLKCNT rises, LASTRST is set. After PARK, rail wait
follows; otherwise the block runs. -/
def execBlockResetDone (keyhash : BitVec 384) (minsvn : Byte) (s : State) : Host.Outcome State Fault Refusal :=
  if s.boot.phase != .resetting then .next s
  else
    let by_ := s.boot.rstBy
    let s := setFc s { s.aon.fc with blkcnt := s.aon.fc.blkcnt + 1 }
    let s := setZt s { s.aon.zt with seq := [] }
    let s := { s with boot := { s.boot with
      keyhash := keyhash, minsvn := minsvn, lastRst := if by_ = 5 then 1 else by_, phase := if by_ = 4 then .railWait else .running } }
    if by_ = 4 then .next s
    else
      let s := resettingEnd s
      .next (if s.aon.fc.st == .safe then s else bootRom s)

/-- WAKE_N (R360, R362): the pin's next change of level. From high it falls and stays low for 4 A-cycles; from low it rises, for which
the table has no row of its own (DESIGN CHOICE, log 3). The pin's level is followed in every phase. A fall wakes PD59 to PD63, and
the firmware records it; in a reset, in rail wait and in SAFE the request is ignored. -/
def execWakeN (s : State) : Host.Outcome State Fault Refusal :=
  let t := { s with pins := { s.pins with wakeN := !s.pins.wakeN } }
  if !s.pins.wakeN || !operating s || s.aon.fc.st == .resetting then .next t
  else .next (zlog ([59, 60, 61, 62, 63].foldl need t) pupIsland 0x0F01 0 0)

end Sys2Proof.Machine
end

