-- ==== Sys2Proof/Machine/Sideband.lean ====
section
/-! DEFINITION. The sideband (R364 to R366), the test access port (R367, R368) and the levels of the pins that Miozer drives (R332,
R368, Tables 10-5, 17-4). -/

namespace Sys2Proof.Machine

/-! ### Sideband -/

/-- Whether the sideband is served (R364). -/
def sbServed (s : State) : Bool := s.boot.phase != .cold && s.boot.straps.sben

/-- Replace the sideband interface. -/
def setSb (s : State) (x : Sb) : State := { s with aon := { s.aon with sb := x } }

/-- SIDEBAND_OFFSET_WRITE (R365): two offset bytes. An offset with a nonzero res0 bit, or that is no multiple of 4, is not
acknowledged and selects nothing. -/
def execSidebandOffsetWrite (hi lo : Byte) (s : State) : Host.Outcome State Fault Refusal :=
  if !sbServed s then .next (emit s (.sbAck false))
  else
    let o := 256 * hi.toNat + lo.toNat
    if o / 2 ^ 12 % 8 ≠ 0 ∨ o % 4 ≠ 0 then .next (emit s (.sbAck false))
    else .next (emit (setSb s { s.aon.sb with
      sel := true, zt := decide (2 ^ 15 ≤ o), off := BitVec.ofNat 12 o, byte := 0 }) (.sbAck true))

/-- Whether the selected register is MZ_ZT_WORD7. -/
def sbWord7 (x : Sb) : Bool := x.sel && x.zt && x.off == 0x02C

/-- Whether the selected register is one of MZ_ZT_WORDk. -/
def sbWordK (x : Sb) : Bool := x.zt && decide (0x010 ≤ x.off.toNat) && decide (x.off.toNat < 0x030)

/-- Sample the selected register at its first byte (R365, R366): a read of WORD7 advances SIDX. -/
def sbSample (s : State) (ecc : Ecc) : State :=
  let x := s.aon.sb
  if sbWordK x then
    let r := ztTake s x.sidx.toNat ((x.off.toNat - 0x010) / 4) ecc
    let y := r.1.aon.sb
    setSb r.1 { y with word := r.2, sidx := if sbWord7 x then y.sidx + 1 else y.sidx }
  else setSb s { x with word := if x.zt then ztRead s x.sidx.toNat x.off.toNat else fcRead s x.off.toNat }

/-- One byte goes out; the offset advances by 4 after a fourth byte. -/
def sbByte (s : State) (ecc : Ecc) : State :=
  let s := if s.aon.sb.byte = 0 then sbSample s ecc else s
  let x := s.aon.sb
  let b := BitVec.ofNat 8 (fld x.word (8 * x.byte) 8)
  emit (setSb s (if x.byte = 3 then { x with byte := 0, off := x.off + 4 } else { x with byte := x.byte + 1 })) (.sb b)

/-- SIDEBAND_READ (R365): one byte of the selected register. `ecc` is what the code of the words of a Zoetrope entry finds. -/
def execSidebandRead (ecc : Ecc) (s : State) : Host.Outcome State Fault Refusal :=
  if sbServed s && s.aon.sb.sel then .next (sbByte s ecc) else .next s

/-- SIDEBAND_IDX_WRITE (R365, R366): data bytes are accepted only for MZ_ZT_IDX, where they set SIDX. -/
def execSidebandIdxWrite (data : Vector Byte 4) (s : State) : Host.Outcome State Fault Refusal :=
  let x := s.aon.sb
  if sbServed s && x.sel && x.zt && x.off == 0x00C then
    .next (emit (setSb s { x with sidx := BitVec.ofNat 13 (leNat data.toList) }) (.sbAck true))
  else .next (emit s (.sbAck false))

/-- SIDEBAND_WORD7_READ (R366): the four bytes of MZ_ZT_WORD7, when it is the selected register. -/
def execSidebandWord7Read (ecc : Ecc) (s : State) : Host.Outcome State Fault Refusal :=
  if sbServed s && sbWord7 s.aon.sb && s.aon.sb.byte == 0 then .next (iter (fun s => sbByte s ecc) 4 s) else .next s

/-! ### Pins -/

/-- Whether the test access port has the pins (R368). -/
def tapHolds (s : State) : Bool := !s.aon.tap.reset && ([0x00, 0x03, 0x04] : List Byte).contains s.aon.tap.ir

/-- Whether a control cell pulls its pin low: a cell that holds 0 does, unless HIGHZ releases every output. -/
def tapLow (s : State) (cell : Nat) : Bool := s.aon.tap.ir != 0x04 && !bitOf s.aon.tap.bsr cell

/-- Whether FAULT_N is driven low (R332, R368). -/
def faultPinLow (s : State) : Bool := if tapHolds s then tapLow s 16 else !faultN s

/-- Whether LINK_PERST_N of a port is driven low: in DETECT (Table 10-5, R368). -/
def perstPinLow (s : State) (p : Nat) : Bool := if tapHolds s then tapLow s (8 + p) else (link s p).st == .detect

/-- Whether SB_SCL is driven low: Miozer does not stretch the clock (R364), and the test access port drives the pin by cell 19 (R368). -/
def sclPinLow (s : State) : Bool := tapHolds s && tapLow s 19

/-- Whether the test access port drives SB_SDA low, by cell 21 (R368). What Miozer itself sends on the pin are the bytes and the
acknowledgements of its sideband commands. -/
def sdaPinLow (s : State) : Bool := tapHolds s && tapLow s 21

/-- MZ_PINS (Table 17-3). While EXTEST, CLAMP or HIGHZ is active, the driven pins show what the port makes of them. -/
def pinsWord (s : State) : W32 :=
  BitVec.ofNat 32 (2 ^ 24 * (~~~s.pins.prsntN).toNat
    + 2 ^ 16 * ((List.range 8).map fun p => flag (perstPinLow s p) p).foldl (· + ·) 0
    + flag (faultPinLow s) 15 + flag (!s.pins.wakeN) 14 + flag s.pins.pgT 13 + flag s.pins.pgM 12 + flag s.pins.pgL 11
    + flag s.pins.railArm 10 + s.boot.straps.sbaddr.toNat)

/-! ### Test access port -/

/-- Load a test instruction, unless cold reset holds the port (R367). -/
def tapLoad (s : State) (op : Byte) (f : State → State) : State :=
  if s.boot.phase == .cold then s
  else f { s with aon := { s.aon with tap := { s.aon.tap with ir := op, reset := false } } }

/-- What the boundary cells capture (R368): LINK_PRSNT_N and MZ_WAKE_N, and a sideband pin that the port itself drives low; the levels that
others give the two sideband pins, which no command tells, and what a control cell captures are not stated (free, log 17). -/
def capture (s : State) : BitVec 22 :=
  let free := Config.unstated s.fresh
  let known := BitVec.ofNat 22 (s.pins.prsntN.toNat + flag s.pins.wakeN 17)
  let low := BitVec.ofNat 22 (flag (sclPinLow s) 18 + flag (sdaPinLow s) 20)
  let mask : BitVec 22 := 0x0200FF
  (known &&& mask) ||| (free.setWidth 22 &&& ~~~mask &&& ~~~low)

/-- A shift through the boundary register: the captured cells go out, the new ones are held. -/
def tapShift (s : State) (d : BitVec 22) : State :=
  let c := capture s
  emit (bump { s with aon := { s.aon with tap := { s.aon.tap with bsr := d } } }) (.tdo 22 (c.setWidth 32))

/-- The bypass register: one bit, captured as 0. -/
def tapBypass (s : State) : State := emit s (.tdo 1 0)

/-- TEST_LOGIC_RESET (R367): IDCODE is loaded and the pins are Miozer's own. -/
def execTestLogicReset (s : State) : Host.Outcome State Fault Refusal :=
  .next { s with aon := { s.aon with tap := { s.aon.tap with ir := 0x01, reset := true } } }

/-- EXTEST (R368): the pins follow the boundary register. -/
def execExtest (shift : BitVec 22) (s : State) : Host.Outcome State Fault Refusal := .next (tapLoad s 0x00 fun s => tapShift s shift)

/-- IDCODE (R367). -/
def execIdcode (s : State) : Host.Outcome State Fault Refusal := .next (tapLoad s 0x01 fun s => emit s (.tdo 32 0x14D5A74F))

/-- SAMPLE/PRELOAD (R368): the same shift, with the pins left to Miozer. -/
def execSamplePreload (shift : BitVec 22) (s : State) : Host.Outcome State Fault Refusal :=
  .next (tapLoad s 0x02 fun s => tapShift s shift)

/-- CLAMP (R368): the pins are held from the boundary register. -/
def execClamp (s : State) : Host.Outcome State Fault Refusal := .next (tapLoad s 0x03 tapBypass)

/-- HIGHZ (R368): every output is released. -/
def execHighz (s : State) : Host.Outcome State Fault Refusal := .next (tapLoad s 0x04 tapBypass)

/-- BYPASS (R367): 0xFF and every reserved opcode. -/
def execBypass (opcode : Byte) (s : State) : Host.Outcome State Fault Refusal :=
  if !bypassOpcode opcode then .refused .illFormed else .next (tapLoad s opcode tapBypass)

end Sys2Proof.Machine
end

