-- ==== Sys2Proof/Machine/Reads.lean ====
section
/-! DEFINITION. Reads of the MMIO window (R209, R322, R324, R335, R350, R371 to R378, Tables 19-1 to 19-6): the world and the value of every
register, and what a read changes where it does. -/

namespace Sys2Proof.Machine

/-- What a read of a register does: the state that it leaves and the value. -/
abbrev RegRd := State → State × W32

/-- A register of a world whose read changes nothing; `none` stands for an offset that no register occupies. -/
def plainRd (sec : Bool) (v : W32) : Option (Bool × RegRd) := some (sec, fun s => (s, v))

/-- A register whose value is a number. -/
def numRd (sec : Bool) (n : Nat) : Option (Bool × RegRd) := plainRd sec (BitVec.ofNat 32 n)

/-- A register with an NS field at bit `b`, which is always secure (R324): a non-secure read has 0 there, as R374 gives it for
MZ_MSI_CTRL (DEDUCED, log 36). -/
def nsRd (ns : Bool) (b : Nat) (sec : Bool) (v : W32) : Option (Bool × RegRd) :=
  plainRd sec (if ns then v &&& ~~~(1#32 <<< b) else v)

/-- The registers of a present block only: an absent one reads 0 (R375). -/
def ifThere (there : Bool) (r : Option (Bool × RegRd)) : Option (Bool × RegRd) := if there then r else none

/-- Power states (Table 14-4). -/
def PSt.code : PSt → Nat
  | .on => 0 | .gating => 1 | .gated => 2 | .waking => 3

/-- Image states (Table 02-8). -/
def ImgSt.code : ImgSt → Nat
  | .none => 0 | .loading => 1 | .locked => 2 | .failed => 3

/-- Boot states (Table 17-3). -/
def BootSt.code : BootSt → Nat
  | .wait => 0 | .loading => 1 | .running => 2 | .failed => 3

/-- Whether the MSI block of a line takes writes (R375). -/
def msiThere (s : State) (l : Nat) : Bool := s.img.isNone || decide (l < 40)

/-- MZ_ID (Table 00-7). -/
def idWord (s : State) : W32 := BitVec.ofNat 32 (0x4D5A1000 + flag s.boot.straps.licensed 7 + flag s.img.isSome 6)

/-- Global page (Tables 00-7, 02-5 to 02-9, 17-3). -/
def globalR (r : Nat) (s : State) : Option (Bool × RegRd) :=
  let b := s.boot
  match r with
  | 0x000 => plainRd false (idWord s)
  | 0x040 => numRd true b.imgAddr.toNat
  | 0x044 => numRd true (b.imgAddr.toNat / 2 ^ 32)
  | 0x048 => numRd true (flag (b.imgSt == .loading) 0)
  | 0x04C => numRd true (2 ^ 16 * b.imgErrWord.toNat + 2 ^ 8 * b.imgSvn.toNat + 2 ^ 4 * b.imgErr + b.imgSt.code)
  | 0x050 => numRd true (fld (if s.img.isSome then (im s).cfgTag else 0) 0 32)
  | 0x054 => numRd true (fld (if s.img.isSome then (im s).cfgTag else 0) 32 32)
  | 0x058 => numRd true (fld (im s).bridgeTag 0 32)
  | 0x05C => numRd true (fld (im s).bridgeTag 32 32)
  | 0x060 => numRd true (2 ^ 28 * b.err + 2 ^ 20 * b.fwSvn.toNat + 2 ^ 16 * b.lastRst + b.st.code)
  | 0x064 => numRd true b.pupFw.toNat
  | 0x068 => numRd true (b.pupFw.toNat / 2 ^ 32)
  | 0x06C => plainRd false (pinsWord s)
  | _ => none

/-- Secure page (Table 15-4): before a lock every resource is secure. -/
def secureR (r : Nat) (s : State) : Option (Bool × RegRd) :=
  let w := s.aon.wn
  let mask := fun {n : Nat} (x : BitVec n) (lo k : Nat) => numRd true (if s.img.isNone then 2 ^ k - 1 else fld x lo k)
  if r = 0x000 then mask (im s).pdSecure 0 32
  else if r = 0x004 then mask (im s).pdSecure 32 32
  else if r = 0x008 then mask (im s).bgSecure 0 16
  else if r = 0x00C then mask (im s).mbSecure 0 32
  else if r = 0x010 then mask (im s).barSecure 0 32
  else if r = 0x014 then mask (im s).barSecure 32 32
  else if 0x020 ≤ r ∧ r < 0x040 then mask (im s).winSecure (8 * (r - 0x020)) 32
  else if r = 0x040 then numRd true (flag w.valid 31 + 2 ^ 28 * w.path + 2 ^ 25 * w.op + 2 ^ 16 * w.src + w.count)
  else if r = 0x044 then numRd true w.addr.toNat
  else if r = 0x048 then numRd true (2 ^ 20 * w.chip + w.addr.toNat / 2 ^ 32)
  else if r = 0x04C then numRd true 0
  else none

/-- Collector page (R350, Table 16-8). -/
def collectorR (r : Nat) (s : State) : Option (Bool × RegRd) :=
  let open_ := r == 0x000 || r == 0x010 || (decide (0x040 ≤ r) && decide (r < 0x060))
  if r < 0x020 ∨ (0x040 ≤ r ∧ r < 0x060) ∨ 0x800 ≤ r then plainRd (!open_) (fcRead s r) else none

/-- Zoetrope page (R349, Table 16-9). What the code of a word finds in a read that is no command of its own is a free choice (log 16). -/
def zoetropeR (r : Nat) (s : State) : Option (Bool × RegRd) :=
  if 0x010 ≤ r ∧ r < 0x030 then
    some (true, fun s => ztWordRead ((r - 0x010) / 4) (if Config.softErr s.fresh then .uncorrectable else .clean) (bump s))
  else if r < 0x010 ∨ (0x040 ≤ r ∧ r < 0x144) then plainRd true (ztRead s s.aon.zt.idx.toNat r)
  else none

/-- Clock page (Tables 14-7, 14-8). -/
def clockR (r : Nat) (s : State) : Option (Bool × RegRd) :=
  let i := r / 16
  let x := isl s i
  let k := s.clk
  if r < 0x410 then
    let sec := islSecure s i
    match r % 16 with
    | 0 => numRd sec (2 ^ 25 * x.ps.code + flag (clusterStopped s i) 24 + 2 ^ 12 * x.vi.toNat + x.freq)
    | 4 => numRd sec (flag x.fixed 31 + 2 ^ 16 * x.fmax + x.fmin)
    | 8 => numRd sec (2 ^ 8 * x.idlek + flag x.policy 0)
    | _ => numRd sec (2 ^ 16 * x.wakes + x.stretch)
  else match r with
  | 0x800 => numRd true (2 ^ 16 * k.settle + flag k.settling 8 + k.req)
  | 0x804 => numRd true k.maxwake
  | 0x808 => numRd true (2 ^ 8 * k.tlim + k.temp)
  | _ => none

/-- A register whose bits are those of resources of either world: a non-secure read has 0 in the bits of secure ones (R374). -/
def maskedRd (ns : Bool) (sec v : W32) : Option (Bool × RegRd) := plainRd false (if ns then v &&& ~~~sec else v)

/-- Levels of 32 interrupt lines. -/
def lineWord (s : State) (base : Nat) : Nat := ((List.range 32).map fun i => flag (irqLine s.ports (base + i)) i).foldl (· + ·) 0

/-- Interrupt page (R374, R375, Table 09-8). -/
def interruptR (r : Nat) (ns : Bool) (s : State) : Option (Bool × RegRd) :=
  let p := s.ports
  let grp := fun {n : Nat} (x : BitVec n) (sec : Nat → Bool) (b : Nat) => maskedRd ns (secureBits sec b) (BitVec.ofNat 32 (fld x b 32))
  if r < 0x040 then grp p.chPend (chanSecure s) (8 * r)
  else if r < 0x080 then grp p.chEn (chanSecure s) (8 * (r - 0x040))
  else if 0x400 ≤ r ∧ r < 0x800 then
    let l := (r - 0x400) / 16
    let m := msi s l
    ifThere (msiThere s l) (match r % 16 with
      | 0 => numRd (!m.ns) (4 * m.addr.toNat)
      | 4 => numRd (!m.ns) (4 * m.addr.toNat / 2 ^ 32)
      | 8 => plainRd (!m.ns) m.data
      | _ => maskedRd ns (if m.ns then 2 else 3) (BitVec.ofNat 32 (flag m.ns 1 + flag m.en 0)))
  else match r with
  | 0x080 => grp p.ctxPend (ctxSecure s) 0
  | 0x084 => grp p.ctxPend (ctxSecure s) 32
  | 0x088 => grp p.ctxEn (ctxSecure s) 0
  | 0x08C => grp p.ctxEn (ctxSecure s) 32
  | 0x090 => numRd (domSecure s 44) p.srcPend.toNat
  | 0x094 => numRd (domSecure s 44) p.srcEn.toNat
  | 0x098 => numRd false (lineWord s 0)
  | 0x09C => numRd false (lineWord s 32)
  | _ => none

/-- Port page (R375, Tables 09-5, 09-6). -/
def portR (r : Nat) (s : State) : Option (Bool × RegRd) :=
  if r < 0x100 then
    let n := r / 16
    let x := cp s n
    let sec := domSecure s (48 + n / 2)
    ifThere (s.img.isNone || (im s).cPresent.getLsbD n) (match r % 16 with
      | 0 => numRd sec (flag (s.pins.crdy.getLsbD n) 31 + x.alen)
      | 4 => numRd sec x.xbase.toNat
      | 8 => numRd sec x.ybase.toNat
      | _ => numRd sec x.plen)
  else if r < 0x180 then
    let m := (r - 0x100) / 16
    let x := mp s m
    let sec := domSecure s (44 + m / 2)
    ifThere (memThere s m) (match r % 16 with
      | 0 => numRd sec x.addr.toNat
      | 4 => numRd sec (x.addr.toNat / 2 ^ 32)
      | 8 => numRd sec (2 ^ 24 * x.late + 2 ^ 16 * x.errcnt + 2 ^ 2 * x.op.toNat + x.resp.toNat)
      | _ => numRd sec 0)
  else none

/-- Stream page (Tables 07-4, 07-6). -/
def streamR (r : Nat) (s : State) : Option (Bool × RegRd) :=
  let p := s.path
  if r < 0x040 then
    let x := fe s (r / 16)
    let sec := domSecure s (60 + r / 16)
    match r % 16 with
    | 0 => numRd sec (flag x.fixed 3 + x.lamaxb)
    | 4 => plainRd sec x.dstall
    | 8 => plainRd sec x.discard
    | _ => none
  else if 0x080 ≤ r ∧ r < 0x0C0 then
    let n := (r - 0x080) / 4
    numRd (relaySecure s n) (flag (relay s n).en 16 + (relay s n).members.toNat)
  else match r with
  | 0x040 => some (domSecure s 60, tagRead .rd)
  | 0x044 => some (domSecure s 60, tagRead .wr)
  | 0x048 => some (domSecure s 60, tagRead .rm)
  | 0x050 => numRd (echoSecure s) (flag p.echoDis 1 + flag p.echoFlush 0)
  | 0x054 => plainRd (echoSecure s) p.echoHit
  | 0x058 => plainRd (echoSecure s) p.echoMiss
  | _ => none

/-- Channel block (Table 03-1). -/
def channelR (c r : Nat) (s : State) : Option (Bool × RegRd) :=
  let x := chan s c
  let sec := chanSecure s c
  let st := chState s c
  match r with
  | 0x00 => numRd sec x.head.toNat
  | 0x04 => numRd sec (x.head.toNat / 2 ^ 32)
  | 0x08 => numRd sec 0
  | 0x0C => numRd sec (2 ^ 16 * x.seq.toNat + flag (st == .halted) 8 + 2 ^ 4 * x.lastCode.toNat + flag x.pending 3 + st.code)
  | 0x10 => numRd sec (4096 * x.cqBase.toNat + x.log2n)
  | 0x14 => numRd sec (4096 * x.cqBase.toNat / 2 ^ 32)
  | 0x18 => numRd sec x.cqHead.toNat
  | _ => numRd sec x.tail.toNat

/-- Context block (Table 03-20). -/
def contextR (x r : Nat) (s : State) : Option (Bool × RegRd) :=
  let sec := ctxSecure s x
  let a := 4096 * (ctx s x).save.toNat
  match r with
  | 0x00 => numRd sec 0
  | 0x04 => plainRd sec (ctxStatus s x)
  | 0x08 => numRd sec a
  | 0x0C => numRd sec (a / 2 ^ 32)
  | _ => none

/-- Translation page (Tables 11-5 to 11-7). -/
def translationR (r : Nat) (s : State) : Option (Bool × RegRd) :=
  let x := s.xl
  let sec := domSecure s 56
  let a := 4096 * x.fqBase.toNat
  if 0x040 ≤ r ∧ r < 0x080 then
    let h := (r - 0x040) / 0x20
    let y := half s h
    let sec := domSecure s (56 + h)
    match r % 0x20 with
    | 0x00 => plainRd sec y.hit
    | 0x04 => plainRd sec y.miss
    | 0x08 => plainRd sec y.walkrd
    | 0x0C => plainRd sec y.merge
    | 0x10 => plainRd sec y.faults
    | 0x14 => numRd sec y.parity.toNat
    | 0x18 => plainRd sec (xlOcc s h)
    | _ => numRd sec 0
  else if 0x400 ≤ r ∧ r < 0x800 then
    let c := (r - 0x400) / 16
    let k := ctx s c
    match r % 16 with
    | 0 => numRd (ctxSecure s c) (4096 * k.root.toNat + flag k.en 0)
    | 4 => numRd (ctxSecure s c) (4096 * k.root.toNat / 2 ^ 32)
    | 8 => numRd (ctxSecure s c) k.asid.toNat
    | _ => none
  else match r with
  | 0x000 => numRd sec (a + x.fqLog2n)
  | 0x004 => numRd sec (a / 2 ^ 32)
  | 0x008 => numRd sec x.fqHead.toNat
  | 0x00C => numRd sec x.fqTail.toNat
  | 0x010 => numRd sec (flag (fqWaits s) 1 + flag x.fqEn 0)
  | 0x014 => numRd sec x.fseq.toNat
  | 0x018 => numRd sec (flag x.invBusy 31 + flag x.invAll 16 + 2 ^ 8 * x.invAsid.toNat)
  | 0x01C => numRd sec x.adone.toNat
  | _ => none

/-- Window page (Table 11-8): entries at or beyond WINDOWS read 0 (R261). -/
def windowR (r : Nat) (ns : Bool) (s : State) : Option (Bool × RegRd) :=
  let w := r / 8
  let x := win s w
  if 0x800 ≤ r then none
  else if (im s).windows ≤ w then numRd (winSecure s w) 0
  else if r % 8 = 0 then
    nsRd ns 30 (winSecure s w) (BitVec.ofNat 32 (flag x.valid 31 + flag (!winSecure s w) 30 + x.base.toNat))
  else numRd (winSecure s w) x.size.toNat

/-- Sync page (R324, Table 13-6). The spec does not say whose world a read of MZ_BAR_ARRIVE has: that of the object it names (DESIGN CHOICE,
log 36). -/
def syncR (r : Nat) (s : State) : Option (Bool × RegRd) :=
  let h := s.hub
  let o := h.barSel.toNat
  let x := bar s o
  let w := objOwner s o
  let sec := barSelSecure s
  let a := 4096 * h.dumpAddr.toNat
  if 0x100 ≤ r ∧ r < 0x200 then plainRd (ctxSecure s ((r - 0x100) / 4)) (barMapWord s ((r - 0x100) / 4))
  else match r with
  | 0x000 => numRd false o
  | 0x004 => numRd sec (2 ^ 24 * x.lenm1.toNat + 2 ^ 16 * barLoByte s o + barHome s o)
  | 0x008 => numRd sec (2 ^ 16 * (barWaiters s o).length + flag w.isSome 12 + 2 ^ 6 * (match w with | some e => e.1 | none => 0)
      + flag (match w with | some e => e.2 | none => false) 5 + 2 ^ 3 * x.epoch.toNat + x.st.code)
  | 0x00C => numRd sec (2 ^ 16 * x.need.toNat + x.count.toNat)
  | 0x010 => numRd sec 0
  | 0x014 => numRd (barSecure s h.arrObj.toNat) (2 ^ 28 * h.arrRes + flag h.arrBusy 27 + 2 ^ 12 * h.arrPm1.toNat + h.arrObj.toNat)
  | 0x020 => numRd true a
  | 0x024 => numRd true (a / 2 ^ 32)
  | 0x028 => numRd true (flag h.dumpGo 0)
  | _ => none

/-- Mailbox page (Table 13-7). -/
def mailboxR (r : Nat) (ns : Bool) (s : State) : Option (Bool × RegRd) :=
  let m := r / 0x80
  let k := r % 0x80
  if k < 0x40 then plainRd (mbSecure s m) ((mb s m).words.toList.getD (k / 4) 0)
  else if k = 0x40 then nsRd ns 13 (mbSecure s m) (mbCtrlWord s m)
  else if k = 0x44 then plainRd true (mbCfgWord s m)
  else none

/-- Handle-queue page (Table 07-3). -/
def queueR (r : Nat) (ns : Bool) (s : State) : Option (Bool × RegRd) :=
  let q := r / 16
  let sec := hqSecure s q
  match r % 16 with
  | 0 => nsRd ns 1 sec (hqCfgWord (hq s q))
  | 4 => plainRd sec (hq s q).last
  | 8 => some (sec, hqPop q)
  | _ => plainRd sec (hqStatusWord (hq s q))

/-- Kaleidoscope page (Table 05-6): a read of PASS_LO latches PASS_HI. -/
def kqR (r : Nat) (s : State) : Option (Bool × RegRd) :=
  let q := r / 0x40
  let x := kq s q
  let sec := domSecure s (8 + q)
  if 0x100 ≤ r then none
  else match r % 0x40 with
  | 0x00 => some (sec, kqLand q)
  | 0x04 => some (sec, fun s =>
      (setKq s q { kq s q with latch := BitVec.ofNat 32 (fld (kq s q).pass 32 32) }, BitVec.ofNat 32 (fld (kq s q).pass 0 32)))
  | 0x08 => plainRd sec x.latch
  | 0x0C => plainRd sec x.extra
  | 0x10 => plainRd sec x.full
  | 0x14 => plainRd sec x.reswait
  | 0x18 => numRd sec (2 ^ 16 * x.uncorr + x.corr)
  | 0x1C => numRd sec 0
  | _ => none

/-- Mordant page (Table 06-13). -/
def mordantR (r : Nat) (s : State) : Option (Bool × RegRd) :=
  let u := r / 0x40
  let x := md s u
  let sec := domSecure s (12 + u)
  if 0x200 ≤ r then none
  else match r % 0x40 with
  | 0x00 => plainRd sec x.sat
  | 0x04 => plainRd sec x.nan
  | 0x08 => plainRd sec x.blk
  | 0x0C => plainRd sec x.nanblk
  | 0x10 => plainRd sec x.acclines
  | 0x14 => numRd sec (2 ^ 16 * x.uncorr + x.corr)
  | 0x18 => numRd sec (fld x.seed 0 32)
  | 0x1C => numRd sec (fld x.seed 32 32)
  | 0x20 => numRd sec 0
  | _ => none

/-- MZ_POOL_SALT and MZ_POOL_GEOM (Table 08-3). -/
def poolSaltWord (s : State) (p : Nat) : Nat :=
  let x := poolSt s p
  2 ^ 16 * x.changes.toNat + flag ((List.range 16).any fun g => (bg s g).migr.contains p) 13 + flag x.armed 12 + x.salt.toNat

/-- Stage page (Tables 08-2, 08-3). -/
def stageR (r : Nat) (s : State) : Option (Bool × RegRd) :=
  if r < 0x400 then
    let g := r / 0x40
    let x := bg s g
    let sec := domSecure s (20 + g)
    match r % 0x40 with
    | 0x00 => plainRd sec (bgStatus s g)
    | 0x04 => plainRd sec x.conflict
    | 0x08 => numRd sec (2 ^ 16 * x.uncorr + x.corr)
    | 0x0C => numRd sec (flag x.scrubDis 12 + x.pos.toNat)
    | 0x10 => numRd sec (2 ^ 8 * x.input.toNat + x.bites)
    | 0x14 => numRd sec (fld x.fence 0 32)
    | 0x18 => numRd sec (fld x.fence 32 4)
    | 0x1C => numRd sec 0
    | _ => none
  else if r < 0x600 then
    let p := (r - 0x400) / 16
    let x := poolSt s p
    let sec := poolSecure s p
    match r % 16 with
    | 0 => numRd sec (2 ^ 14 * x.rchan.toNat + flag x.ren 13 + flag x.aen 12 + x.bobj.toNat)
    | 4 => numRd sec (if p < (im s).pools.length then flag x.dis 31 + x.thresh.toNat else 0)
    | 8 => numRd sec (poolSaltWord s p)
    | _ => numRd sec (match (im s).pools[p]? with | some c => poolRows c | none => 0)
  else none

/-- Link page (R375, Table 10-8). -/
def linkR (r : Nat) (s : State) : Option (Bool × RegRd) :=
  let p := r / 0x40
  let x := link s p
  let sec := domSecure s (36 + p)
  if 0x200 ≤ r then none
  else ifThere (s.img.isNone || linkPresent s p) (match r % 0x40 with
  | 0x00 => numRd sec (flag x.fixeq 3 + flag x.disable 0)
  | 0x04 => numRd sec (2 ^ 20 * x.reason + 2 ^ 16 * x.pcode + 2 ^ 8 * x.pchip + 2 ^ 4 * x.lanes + x.st.code)
  | 0x08 => numRd sec (fld x.ptag 0 32)
  | 0x0C => numRd sec (fld x.ptag 32 32)
  | 0x10 => numRd sec (fld x.pbtag 0 32)
  | 0x14 => numRd sec (fld x.pbtag 32 32)
  | 0x18 => numRd sec (2 ^ 16 * x.uncorr.toNat + x.corrcw.toNat)
  | 0x1C => plainRd sec x.syms
  | 0x20 => numRd sec x.thresh.toNat
  | 0x24 => numRd sec (2 ^ 16 * x.nackrx + x.nacktx)
  | 0x28 => numRd sec (2 ^ 8 * x.downs + x.retrains)
  | 0x2C => numRd sec (2 ^ 16 * x.route + x.pktdrop)
  | _ => none)

/-- The register at an aligned window offset, if one occupies it (R371, Table 19-1). -/
def regR (off : Nat) (ns : Bool) (s : State) : Option (Bool × RegRd) :=
  let r := off % 0x1000
  match off / 0x1000 with
  | 0x00 => globalR r s
  | 0x01 => secureR r s
  | 0x02 => collectorR r s
  | 0x03 => zoetropeR r s
  | 0x04 => clockR r s
  | 0x05 => interruptR r ns s
  | 0x06 => portR r s
  | 0x07 => streamR r s
  | 0x0C => contextR (r / 0x40) (r % 0x40) s
  | 0x0D => translationR r s
  | 0x0E => windowR r ns s
  | 0x0F => syncR r s
  | 0x10 => mailboxR r ns s
  | 0x11 => queueR r ns s
  | 0x1A => kqR r s
  | 0x1B => mordantR r s
  | 0x1C => stageR r s
  | 0x1D => linkR r s
  | p =>
    if 0x08 ≤ p ∧ p ≤ 0x0B then channelR (128 * (p - 0x08) + r / 0x20) (r % 0x20) s
    else if 0x12 ≤ p ∧ p ≤ 0x19 then
      let n := 128 * (p - 0x12) + r / 0x20
      let v := (ringBlock (ring s n)).getD (r % 0x20 / 4) 0
      if r % 0x20 = 0 then nsRd ns 1 (ringSecure s n) v else plainRd (ringSecure s n) v
    else none

/-- A read of 4 bytes as the target performs it (R209): 0 from an offset that no register occupies, 0 with a notice from a secure
register for a non-secure agent (R322), and 0 outside the collector and Zoetrope pages in SAFE (R335). -/
def readAt (s : State) (off : Nat) (ns : Bool) : State × W32 :=
  if s.aon.fc.st == .safe && !safePage off then (s, 0)
  else match regR off ns s with
    | none => (s, 0)
    | some (sec, f) => if ns && sec then (notice s 0 0 0 off 0, 0) else f s

end Sys2Proof.Machine
end

