-- ==== Sys2Proof/Machine/Regs.lean ====
section
/-! DEFINITION. REGISTER_WRITE: a write at any offset of the MMIO window (R9, R209, R315, R371 to R378, Tables 19-1 to 19-6), and the request
beats that the MMIO target accepts or refuses. A
register that only takes its value is written here; one whose write is a command of its own has that command's effect. A read-only
register ignores the write after the world check, and an offset that no register occupies ignores it without one. -/

namespace Sys2Proof.Machine

/-! ### Parts of registers -/

/-- A 32-bit half of an address register of `w` bits: its low half from bit `lo` on, or its high half of 20 bits. `cut` is the number of
low address bits that the register does not hold. -/
def addrHalf {w : Nat} (a : BitVec w) (hi : Bool) (cut : Nat) (v : W32) : BitVec w :=
  let n := 32 - cut
  BitVec.ofNat w (if hi then a.toNat % 2 ^ n + fld v 0 20 * 2 ^ n else a.toNat / 2 ^ n * 2 ^ n + fld v cut n)

/-- `old` with the bits of `mask` from `v`, at a 32-bit group of a wide register. -/
def groupPut {w : Nat} (old : BitVec w) (base : Nat) (mask v : W32) : BitVec w :=
  (old &&& ~~~(mask.setWidth w <<< base)) ||| ((v &&& mask).setWidth w <<< base)

/-- The state after a command that always goes on. -/
def after (o : Host.Outcome State Fault Refusal) (s : State) : State := match o with | .next t => t | _ => s

/-- A write whose trigger bit is 0: nothing but the answer and the world check. -/
def idleW (s : State) (off : Nat) (ns sec : Bool) : State := mmioW s off ns sec id

/-- A write of a register whose command is a write of 1 to bit `b`. -/
def trigW (s : State) (off : Nat) (ns sec : Bool) (v : W32) (b : Nat) (o : Host.Outcome State Fault Refusal) : State :=
  if bitOf v b then after o s else idleW s off ns sec

/-! ### Pages -/

/-- Global page (R5, R41, R360). -/
def globalW (r : Nat) (ns : Bool) (v : W32) (s : State) : State :=
  if r = 0x040 then mmioW s r ns true (imgAddrSet false v)
  else if r = 0x044 then mmioW s r ns true (imgAddrSet true v)
  else if r = 0x048 then trigW s r ns true v 0 (execImageLoad ns v s)
  else if r = 0x060 then bootW ns v s
  else if r = 0x064 ∨ r = 0x068 then
    mmioW s r ns true fun s => { s with boot := { s.boot with
      pupFw := BitVec.ofNat 52 (let a := s.boot.pupFw.toNat
        if r = 0x068 then a % 2 ^ 32 + 2 ^ 32 * fld v 0 20 else 2 ^ 32 * (a / 2 ^ 32) + fld v 8 24 * 256) } }
  else idleW s r ns (decide (0x04C ≤ r) && decide (r ≤ 0x05C))

/-- Secure page (R326). -/
def secureW (r : Nat) (ns : Bool) (v : W32) (s : State) : State :=
  if r = 0x04C then trigW s (0x1000 + r) ns true v 0 (execWnClr ns v s)
  else idleW s (0x1000 + r) ns (decide (r ≤ 0x014) || (decide (0x020 ≤ r) && decide (r < 0x04C)))

/-- MZ_FC_CFG (Table 16-8): RLIM of 0 is ignored. -/
def fcCfgSet (v : W32) (s : State) : State :=
  let x := s.aon.fc
  setFc s { x with
    autox := bitOf v 31, zthaw := bitOf v 30, esc := bitOf v 29, autoload := bitOf v 28
    rlim := if fld v 24 4 = 0 then x.rlim else fld v 24 4
    esck := fld v 19 5, quietk := fld v 14 5 }

/-- Collector page (R350). -/
def collectorW (r : Nat) (ns : Bool) (v : W32) (s : State) : State :=
  let off := 0x2000 + r
  if r = 0x000 then mmioW s off ns true fun s =>
    if bitOf v 6 then setFc s { s.aon.fc with exited := false } else s
  else if r = 0x004 then mmioW s off ns true (fcCfgSet v)
  else if r = 0x008 then fcCtrlW ns v s
  else if r = 0x00C then after (execBlkrst ns v s) s
  else if r = 0x010 then reinitW ns v s
  else if r = 0x014 ∨ r = 0x018 then mmioW s off ns true fun s =>
    setFc s { s.aon.fc with reimg := addrHalf s.aon.fc.reimg (r == 0x018) 8 v }
  else if 0x040 ≤ r ∧ r < 0x060 then after (execSevClear (Fin.ofNat 8 ((r - 0x040) / 4)) ns v s) s
  else if 0x800 ≤ r ∧ r % 8 = 0 then after (execFsCfgWrite (Fin.ofNat 256 ((r - 0x800) / 8)) ns v s) s
  else idleW s off ns (r == 0x01C || decide (0x800 ≤ r))

/-- Zoetrope page (R349). -/
def zoetropeW (r : Nat) (ns : Bool) (v : W32) (s : State) : State :=
  let off := 0x3000 + r
  if r = 0x000 then ztCtrlW ns v s
  else if r = 0x00C then mmioW s off ns true fun s => setZt s { s.aon.zt with idx := BitVec.ofNat 13 (fld v 0 13) }
  else idleW s off ns (r == 0x004 || r == 0x008 || (decide (0x010 ≤ r) && decide (r < 0x030)) || (decide (0x040 ≤ r) && decide (r < 0x144)))

/-- Clock page (R317, Table 14-8): SETTLE and MAXWAKE of 0 and TLIM outside 60 to 104 are ignored. -/
def clockW (r : Nat) (ns : Bool) (v : W32) (s : State) : State :=
  let off := 0x4000 + r
  let i : Isl := Fin.ofNat 65 (r / 16)
  if r < 0x410 then
    if r % 16 = 4 then after (execIslLimWrite i ns v s) s
    else if r % 16 = 8 then after (execIslPolicyWrite i ns v s) s
    else idleW s off ns (islSecure s i.val)
  else if r = 0x800 then mmioW s off ns true fun s =>
    if fld v 16 8 = 0 then s else { s with clk := { s.clk with settle := fld v 16 8 } }
  else if r = 0x804 then mmioW s off ns true fun s =>
    if fld v 0 3 = 0 then s else startWakes 64 { s with clk := { s.clk with maxwake := fld v 0 3 } }
  else if r = 0x808 then mmioW s off ns true fun s =>
    let t := fld v 8 8
    if t < 60 ∨ 104 < t then s else { s with clk := { s.clk with tlim := t, throttle := decide (t ≤ s.clk.temp) } }
  else idleW s off ns false

/-- Interrupt page (R374, Table 09-8). -/
def interruptW (r : Nat) (ns : Bool) (v : W32) (s : State) : State :=
  let off := 0x5000 + r
  if r < 0x040 then after (execIrqPendClear (.ch (Fin.ofNat 16 (r / 4))) ns v s) s
  else if r < 0x080 then
    let b := 32 * ((r - 0x040) / 4)
    mmioW s off ns false fun s => bitwiseW s off ns (secureBits (chanSecure s) b) v fun m v s =>
      setPorts s { s.ports with chEn := groupPut s.ports.chEn b m v }
  else if r = 0x080 then after (execIrqPendClear .ctxLo ns v s) s
  else if r = 0x084 then after (execIrqPendClear .ctxHi ns v s) s
  else if r = 0x088 ∨ r = 0x08C then
    let b := if r = 0x088 then 0 else 32
    mmioW s off ns false fun s => bitwiseW s off ns (secureBits (ctxSecure s) b) v fun m v s =>
      setPorts s { s.ports with ctxEn := groupPut s.ports.ctxEn b m v }
  else if r = 0x090 then after (execIrqPendClear .src ns v s) s
  else if r = 0x094 then mmioW s off ns (domSecure s 44) fun s => setPorts s { s.ports with srcEn := BitVec.ofNat 7 (fld v 0 7) }
  else if 0x400 ≤ r ∧ r < 0x800 then
    let l := (r - 0x400) / 16
    let m := msi s l
    let there := msiThere s l
    let put := fun (x : Msi) (s : State) => if there then setMsi s l x else s
    if r % 16 = 0 then mmioW s off ns (there && !m.ns) (put { m with
      addr := BitVec.ofNat 50 (2 ^ 30 * (m.addr.toNat / 2 ^ 30) + fld v 2 30) })
    else if r % 16 = 4 then mmioW s off ns (there && !m.ns) (put { m with
      addr := BitVec.ofNat 50 (m.addr.toNat % 2 ^ 30 + 2 ^ 30 * fld v 0 20) })
    else if r % 16 = 8 then mmioW s off ns (there && !m.ns) (put { m with data := v })
    else mmioW s off ns false fun s =>
      if !there then s
      else bitwiseW s off ns (if m.ns then 2 else 3) v fun k v s =>
        setMsi s l { m with ns := if bitOf k 1 then bitOf v 1 else m.ns, en := if bitOf k 0 then bitOf v 0 else m.en }
  else idleW s off ns false

/-- Port page (R215, R375, Tables 09-5, 09-6): ALEN and PLEN outside 1 to 8,192 are ignored. -/
def portW (r : Nat) (ns : Bool) (v : W32) (s : State) : State :=
  let off := 0x6000 + r
  if r < 0x100 then
    let n := r / 16
    let there := s.img.isNone || (im s).cPresent.getLsbD n
    let put := fun (f : Cp → Cp) (s : State) => if there then setCp s n (f (cp s n)) else s
    let len := fld v 0 14
    let ok := decide (1 ≤ len) && decide (len ≤ 8192)
    mmioW s off ns (there && domSecure s (48 + n / 2))
      (if r % 16 = 0 then put fun x => if ok then { x with alen := len } else x
       else if r % 16 = 4 then put fun x => { x with xbase := BitVec.ofNat 13 (fld v 0 13) }
       else if r % 16 = 8 then put fun x => { x with ybase := BitVec.ofNat 13 (fld v 0 13) }
       else put fun x => if ok then { x with plen := len } else x)
  else if r < 0x180 then
    let m : Port := Fin.ofNat 8 ((r - 0x100) / 16)
    let sec := memThere s m.val && domSecure s (44 + m.val / 2)
    if r % 16 = 12 then trigW s off ns sec v 0 (execMpClr m ns v s) else idleW s off ns sec
  else idleW s off ns false

/-- MZ_FE_LA (R175, Table 07-4): LAMAXB of 1 to 4 is taken; FIXED sets LA on every channel of the quarter, and a smaller LAMAXB
bounds it. -/
def feLaSet (q : Nat) (v : W32) (s : State) : State :=
  let x := fe s q
  let n := fld v 0 3
  let x := { x with fixed := bitOf v 3, lamaxb := if 1 ≤ n ∧ n ≤ 4 then n else x.lamaxb }
  let s := setFe s q x
  ((tkeys s.chans).filter fun c => c / 128 == q).foldl (fun s c =>
    let k := chan s c
    pumpFetch (setChan s c { k with la := if x.fixed then 8 * x.lamaxb else min k.la (8 * x.lamaxb) }) c) s

/-- Stream page (Tables 07-4, 07-6). -/
def streamW (r : Nat) (ns : Bool) (v : W32) (s : State) : State :=
  let off := 0x7000 + r
  if r < 0x040 then
    let q := r / 16
    if r % 16 = 0 then mmioW s off ns (domSecure s (60 + q)) (feLaSet q v)
    else idleW s off ns (r % 16 != 0x0C && domSecure s (60 + q))
  else if r < 0x050 then idleW s off ns (r != 0x04C && domSecure s 60)
  else if r = 0x050 then
    if bitOf v 0 then after (execEchoFlush ns v s) s
    else mmioW s off ns (echoSecure s) fun s => { s with path := { s.path with echoDis := bitOf v 1 } }
  else if r = 0x054 ∨ r = 0x058 then idleW s off ns (echoSecure s)
  else if 0x080 ≤ r ∧ r < 0x0C0 then
    mmioW s off ns (relaySecure s ((r - 0x080) / 4)) (relayWrite ((r - 0x080) / 4) v)
  else idleW s off ns false

/-- Channel pages (Table 03-1). -/
def channelW (off : Nat) (ns : Bool) (v : W32) (s : State) : State :=
  let q := off / 0x1000 - 8
  let r := off % 0x1000
  let c : Ch := Fin.ofNat 512 (128 * q + r / 0x20)
  let sec := chanSecure s c.val
  if r % 0x20 = 0x00 then after (execChannelRegWrite c .headLo ns v s) s
  else if r % 0x20 = 0x04 then after (execChannelRegWrite c .headHi ns v s) s
  else if r % 0x20 = 0x08 then trigW s off ns sec v 0 (execDoorbell c ns v s)
  else if r % 0x20 = 0x0C then trigW s off ns sec v 8 (execHaltClear c ns v s)
  else if r % 0x20 = 0x10 then after (execChannelRegWrite c .cqLo ns v s) s
  else if r % 0x20 = 0x14 then after (execChannelRegWrite c .cqHi ns v s) s
  else if r % 0x20 = 0x18 then after (execCqHeadWrite c ns v s) s
  else idleW s off ns sec

/-- Context page (Table 03-20). -/
def contextW (r : Nat) (ns : Bool) (v : W32) (s : State) : State :=
  let off := 0xC000 + r
  let x := r / 0x40
  let sec := ctxSecure s x
  if r % 0x40 = 0 then ctxCtrlW x ns v s
  else if r % 0x40 = 8 ∨ r % 0x40 = 12 then mmioW s off ns sec fun s =>
    setCtx s x { ctx s x with save := addrHalf (ctx s x).save (r % 0x40 == 12) 12 v }
  else idleW s off ns (sec && r % 0x40 == 4)

/-- Translation page (Tables 11-5 to 11-7). -/
def translationW (r : Nat) (ns : Bool) (v : W32) (s : State) : State :=
  let off := 0xD000 + r
  let sec := domSecure s 56
  if r = 0x000 then after (execFqLoWrite false ns v s) s
  else if r = 0x004 then after (execFqLoWrite true ns v s) s
  else if r = 0x008 then after (execFqHeadWrite ns v s) s
  else if r = 0x010 then after (execFqEnable ns v s) s
  else if r = 0x018 then after (execInvalidate ns v s) s
  else if r = 0x01C then after (execAdone ns v s) s
  else if r < 0x020 then idleW s off ns sec
  else if 0x040 ≤ r ∧ r < 0x080 then
    let h : Fin 2 := Fin.ofNat 2 ((r - 0x040) / 0x20)
    let sec := domSecure s (56 + h.val)
    if r % 0x20 = 0x1C then trigW s off ns sec v 0 (execXlClrcnt h ns v s) else idleW s off ns sec
  else if 0x400 ≤ r ∧ r < 0x800 then
    let c : Cx := Fin.ofNat 64 ((r - 0x400) / 16)
    if r % 16 = 0 then after (execRootAsidWrite c .rootLo ns v s) s
    else if r % 16 = 4 then after (execRootAsidWrite c .rootHi ns v s) s
    else if r % 16 = 8 then after (execRootAsidWrite c .asid ns v s) s
    else idleW s off ns false
  else idleW s off ns false

/-- Window page (Table 11-8). -/
def windowW (r : Nat) (ns : Bool) (v : W32) (s : State) : State :=
  if r < 0x800 then after (execWindowEntryWrite (Fin.ofNat 256 (r / 8)) (r % 8 == 4) ns v s) s else idleW s (0xE000 + r) ns false

/-- Sync page (R324, Table 13-6). -/
def syncW (r : Nat) (ns : Bool) (v : W32) (s : State) : State :=
  let off := 0xF000 + r
  if r = 0x000 then mmioW s off ns false fun s => { s with hub := { s.hub with barSel := BitVec.ofNat 12 (fld v 0 12) } }
  else if r = 0x004 then after (execBarCfgWrite ns v s) s
  else if r = 0x008 ∨ r = 0x00C then idleW s off ns (barSelSecure s)
  else if r = 0x010 then trigW s off ns (barSelSecure s) v 0 (execInit ns v s)
  else if r = 0x014 then after (execHostArrive ns v s) s
  else if r = 0x020 ∨ r = 0x024 then mmioW s off ns true fun s =>
    { s with hub := { s.hub with dumpAddr := addrHalf s.hub.dumpAddr (r == 0x024) 12 v } }
  else if r = 0x028 then trigW s off ns true v 0 (execSyncDump ns v s)
  else if 0x100 ≤ r ∧ r < 0x200 then after (execBarMapWrite (Fin.ofNat 64 ((r - 0x100) / 4)) ns v s) s
  else idleW s off ns false

/-- Mailbox page (Table 13-7). -/
def mailboxW (r : Nat) (ns : Bool) (v : W32) (s : State) : State :=
  let off := 0x10000 + r
  let m : Fin 32 := Fin.ofNat 32 (r / 0x80)
  if r % 0x80 < 0x40 then after (execMbWordWrite m (Fin.ofNat 16 (r % 0x80 / 4)) ns v s) s
  else if r % 0x80 = 0x40 then mmioW s off ns (mbSecure s m.val) (mbCtrl m.val v)
  else idleW s off ns (r % 0x80 == 0x44)

/-- MZ_HQ_STATUS (Table 07-3): UNDER and OVF are cleared by 1. -/
def hqStatusSet (q : Nat) (v : W32) (s : State) : State :=
  let x := hq s q
  setHq s q { x with under := x.under && !bitOf v 9, ovf := x.ovf && !bitOf v 8 }

/-- Handle-queue page (Table 07-3). -/
def queueW (r : Nat) (ns : Bool) (v : W32) (s : State) : State :=
  let off := 0x11000 + r
  let q : Fin 256 := Fin.ofNat 256 (r / 16)
  let sec := hqSecure s q.val
  if r % 16 = 0 then mmioW s off ns sec (hqCfg q.val ns v)
  else if r % 16 = 4 then after (execHqRegPush q ns v s) s
  else if r % 16 = 8 then idleW s off ns sec
  else mmioW s off ns sec (hqStatusSet q.val v)

/-- Ring pages (Table 07-2). -/
def ringW (off : Nat) (ns : Bool) (v : W32) (s : State) : State :=
  let r : Fin 1024 := Fin.ofNat 1024 (128 * (off / 0x1000 - 0x12) + off % 0x1000 / 0x20)
  let k := off % 0x20
  let sec := ringSecure s r.val
  if k = 0x00 then after (execRingCfgWrite r .cfg ns v s) s
  else if k = 0x04 then after (execRingCfgWrite r .bind ns v s) s
  else if k = 0x08 then after (execRingCfgWrite r .slot ns v s) s
  else if k = 0x18 then after (execRingCfgWrite r .align ns v s) s
  else if k = 0x1C then mmioW s off ns sec (ringCtrl r.val v)
  else idleW s off ns sec

/-- Kaleidoscope page (Table 05-6). -/
def kqW (r : Nat) (ns : Bool) (v : W32) (s : State) : State :=
  let off := 0x1A000 + r
  if r < 0x100 then
    let q : Fin 4 := Fin.ofNat 4 (r / 0x40)
    let sec := domSecure s (8 + q.val)
    if r % 0x40 = 0x1C then trigW s off ns sec v 0 (execKqClrcnt q ns v s) else idleW s off ns (sec && decide (r % 0x40 < 0x20))
  else idleW s off ns false

/-- Mordant page (Table 06-13). -/
def mordantW (r : Nat) (ns : Bool) (v : W32) (s : State) : State :=
  let off := 0x1B000 + r
  if r < 0x200 then
    let u := r / 0x40
    let sec := domSecure s (12 + u)
    let k := r % 0x40
    if k = 0x18 ∨ k = 0x1C then mmioW s off ns sec fun s =>
      setMd s u { md s u with seed := groupPut (md s u).seed (if k = 0x18 then 0 else 32) (BitVec.allOnes 32) v }
    else if k = 0x20 then mmioW s off ns sec (mdCtrl u v)
    else idleW s off ns (sec && decide (k < 0x20))
  else idleW s off ns false

/-- MZ_POOL_TRIG (R199, Table 08-3): a block without an entry ignores it. -/
def poolTrigSet (p : Nat) (v : W32) (s : State) : State :=
  if (im s).pools.length ≤ p then s
  else setPoolSt s p { poolSt s p with
    rchan := BitVec.ofNat 9 (fld v 14 9), ren := bitOf v 13, aen := bitOf v 12, bobj := BitVec.ofNat 12 (fld v 0 12) }

/-- Stage page (Tables 08-2, 08-3). -/
def stageW (r : Nat) (ns : Bool) (v : W32) (s : State) : State :=
  let off := 0x1C000 + r
  if r < 0x400 then
    let g := r / 0x40
    let sec := domSecure s (20 + g)
    if r % 0x40 = 0x0C then mmioW s off ns sec fun s => setBg s g { bg s g with scrubDis := bitOf v 12 }
    else if r % 0x40 = 0x1C then mmioW s off ns sec (bgCtrl g v)
    else idleW s off ns (sec && decide (r % 0x40 < 0x20))
  else if r < 0x600 then
    let p := (r - 0x400) / 16
    let sec := poolSecure s p && (s.img.isNone || decide (p < (im s).pools.length))
    if r % 16 = 0 then mmioW s off ns sec (poolTrigSet p v)
    else if r % 16 = 4 then mmioW s off ns sec (poolLoop p v)
    else idleW s off ns sec
  else idleW s off ns false

/-- Link page (R375, Table 10-8). -/
def linkW (r : Nat) (ns : Bool) (v : W32) (s : State) : State :=
  let off := 0x1D000 + r
  if r < 0x200 then
    let p := r / 0x40
    let there := s.img.isNone || linkPresent s p
    let sec := there && domSecure s (36 + p)
    if r % 0x40 = 0 then lkCtrlW p ns v s
    else if r % 0x40 = 0x20 then mmioW s off ns sec fun s =>
      if there then setLink s p { link s p with thresh := BitVec.ofNat 16 (fld v 0 16) } else s
    else idleW s off ns (sec && decide (r % 0x40 < 0x30))
  else idleW s off ns false

/-- A write of the register at an aligned window offset. -/
def regW (off : Nat) (ns : Bool) (v : W32) (s : State) : State :=
  let r := off % 0x1000
  match off / 0x1000 with
  | 0x00 => globalW r ns v s
  | 0x01 => secureW r ns v s
  | 0x02 => collectorW r ns v s
  | 0x03 => zoetropeW r ns v s
  | 0x04 => clockW r ns v s
  | 0x05 => interruptW r ns v s
  | 0x06 => portW r ns v s
  | 0x07 => streamW r ns v s
  | 0x0C => contextW r ns v s
  | 0x0D => translationW r ns v s
  | 0x0E => windowW r ns v s
  | 0x0F => syncW r ns v s
  | 0x10 => mailboxW r ns v s
  | 0x11 => queueW r ns v s
  | 0x1A => kqW r ns v s
  | 0x1B => mordantW r ns v s
  | 0x1C => stageW r ns v s
  | 0x1D => linkW r ns v s
  | p =>
    if 0x08 ≤ p ∧ p ≤ 0x0B then channelW off ns v s
    else if 0x12 ≤ p ∧ p ≤ 0x19 then ringW off ns v s
    else idleW s off ns false

/-- REGISTER_WRITE (R209). An offset that is no multiple of 4 is no request of SIZE 0: it is answered ERROR and raises the
refused-command source (DEDUCED, log 36). -/
def execRegisterWrite (off : BitVec 20) (ns : Bool) (v : W32) (s : State) : Host.Outcome State Fault Refusal :=
  if !mmioReady s then .next s
  else if off.toNat % 4 ≠ 0 then .next (emit (refuse s off.toNat 0 mmioIsland) (.mmio 2 0))
  else .next (regW off.toNat ns v s)

/-- The 32 bits of a beat's data at a byte position (Table 09-2). -/
def beatWord (r : FabReq) (k : Nat) : W32 := BitVec.ofNat 32 (fld r.data (8 * k) 32)

/-- An accepted READ: its 4 B or its two halves, the lower address first, and one answer (R209, R377). -/
def mmioBeatR (r : FabReq) (off : Nat) (s : State) : State :=
  let a := readAt s off r.ns
  if r.size = 0 then emit a.1 (.mmio 0 a.2)
  else let b := readAt a.1 (off + 4) r.ns; emit b.1 (.mmio8 0 a.2 b.2)

/-- The state `a` that a half of an access left, without the answer that it has put behind the outputs `n` before it. -/
def unanswered (n : Nat) (a : State) : State := if n < a.out.length then { a with out := a.out.dropLast } else a

/-- An accepted WRITE: its 4 B or its two halves, the lower address first, and one answer (R209, R377). A second half that the first has put
into a reset changes nothing (R357). -/
def mmioBeatW (r : FabReq) (off : Nat) (s : State) : State :=
  let k := r.addr.toNat % 128
  let a := regW off r.ns (beatWord r k) s
  if r.size = 0 then a
  else
    let a := unanswered s.out.length a
    let b := unanswered a.out.length (regW (off + 4) r.ns (beatWord r (k + 4)) a)
    emit b (.mmio8 0 0 0)

/-- MMIO_BAD_REQUEST (R209): a request beat at the MMIO target. An OP other than READ and WRITE, a SIZE other than 4 B and 8 B, and an
address that its SIZE does not divide (DEDUCED, log 36) are answered ERROR and raise the refused-command source; a beat that is accepted
after all has its effect and its answer. -/
def execMmioBadRequest (r : FabReq) (s : State) : Host.Outcome State Fault Refusal :=
  let off := r.addr.toNat % 2 ^ 20
  if !mmioReady s then .next s
  else if decide (2 ≤ r.op.toNat) || decide (2 ≤ r.size.toNat) || decide (off % (if r.size = 0 then 4 else 8) ≠ 0) then
    .next (emit (refuse s off 0 mmioIsland) (.mmio 2 0))
  else if r.op = 0 then .next (mmioBeatR r off s)
  else .next (mmioBeatW r off s)

end Sys2Proof.Machine
end

