-- ==== Sys2Proof/Machine/Dispatch.lean ====
section
/-! DEFINITION. The one dispatch: every command of spec/opcode_table.json to its meaning. -/

namespace Sys2Proof.Machine

def exec (i : Instr) (s : State) : Host.Outcome State Fault Refusal :=
  match i with
  | .imageLoad ns v => Sys2Proof.Machine.execImageLoad ns v s
  | .imageLock img => Sys2Proof.Machine.execImageLock img s
  | .imageLoadFail img => Sys2Proof.Machine.execImageLoadFail img s
  | .fwload ns v => Sys2Proof.Machine.execFwload ns v s
  | .firmwareLoadDone img => Sys2Proof.Machine.execFirmwareLoadDone img s
  | .autoloadReload => Sys2Proof.Machine.execAutoloadReload s
  | .park ns v => Sys2Proof.Machine.execPark ns v s
  | .doorbell c ns v => Sys2Proof.Machine.execDoorbell c ns v s
  | .haltClear c ns v => Sys2Proof.Machine.execHaltClear c ns v s
  | .cqHeadWrite c ns v => Sys2Proof.Machine.execCqHeadWrite c ns v s
  | .channelRegWrite c r ns v => Sys2Proof.Machine.execChannelRegWrite c r ns v s
  | .descriptorFetchDone c a => Sys2Proof.Machine.execDescriptorFetchDone c a s
  | .descriptorDecode c => Sys2Proof.Machine.execDescriptorDecode c s
  | .nop c => Sys2Proof.Machine.execNop c s
  | .move c => Sys2Proof.Machine.execMove c s
  | .tensor c shape index => Sys2Proof.Machine.execTensor c shape index s
  | .gather c slist dlist => Sys2Proof.Machine.execGather c slist dlist s
  | .whirl c prog => Sys2Proof.Machine.execWhirl c prog s
  | .whHalt c => Sys2Proof.Machine.execWhHalt c s
  | .whMovi c => Sys2Proof.Machine.execWhMovi c s
  | .whAdd c => Sys2Proof.Machine.execWhAdd c s
  | .whAddi c => Sys2Proof.Machine.execWhAddi c s
  | .whSub c => Sys2Proof.Machine.execWhSub c s
  | .whMuli c => Sys2Proof.Machine.execWhMuli c s
  | .whAnd c => Sys2Proof.Machine.execWhAnd c s
  | .whOr c => Sys2Proof.Machine.execWhOr c s
  | .whXor c => Sys2Proof.Machine.execWhXor c s
  | .whShli c => Sys2Proof.Machine.execWhShli c s
  | .whShri c => Sys2Proof.Machine.execWhShri c s
  | .whSari c => Sys2Proof.Machine.execWhSari c s
  | .whBrev c => Sys2Proof.Machine.execWhBrev c s
  | .whDrev c => Sys2Proof.Machine.execWhDrev c s
  | .whEmit c => Sys2Proof.Machine.execWhEmit c s
  | .whDjnz c => Sys2Proof.Machine.execWhDjnz c s
  | .whBlt c => Sys2Proof.Machine.execWhBlt c s
  | .whBne c => Sys2Proof.Machine.execWhBne c s
  | .whJmp c => Sys2Proof.Machine.execWhJmp c s
  | .whirlQuietStop c => Sys2Proof.Machine.execWhirlQuietStop c s
  | .signalWrite c => Sys2Proof.Machine.execSignalWrite c s
  | .signalAdd c => Sys2Proof.Machine.execSignalAdd c s
  | .signalResponse c a => Sys2Proof.Machine.execSignalResponse c a s
  | .arrive c => Sys2Proof.Machine.execArrive c s
  | .push c => Sys2Proof.Machine.execPush c s
  | .produce c => Sys2Proof.Machine.execProduce c s
  | .release c => Sys2Proof.Machine.execRelease c s
  | .signalDoorbell c => Sys2Proof.Machine.execSignalDoorbell c s
  | .waitBarrier c => Sys2Proof.Machine.execWaitBarrier c s
  | .waitValue c => Sys2Proof.Machine.execWaitValue c s
  | .waitValuePoll c a => Sys2Proof.Machine.execWaitValuePoll c a s
  | .pop c => Sys2Proof.Machine.execPop c s
  | .filled c => Sys2Proof.Machine.execFilled c s
  | .free c => Sys2Proof.Machine.execFree c s
  | .waitTimeout c => Sys2Proof.Machine.execWaitTimeout c s
  | .drain c => Sys2Proof.Machine.execDrain c s
  | .depChannel c => Sys2Proof.Machine.execDepChannel c s
  | .depBarrier c => Sys2Proof.Machine.execDepBarrier c s
  | .fenceRelease c => Sys2Proof.Machine.execFenceRelease c s
  | .fenceAcquire c => Sys2Proof.Machine.execFenceAcquire c s
  | .fenceFull c => Sys2Proof.Machine.execFenceFull c s
  | .rearm c => Sys2Proof.Machine.execRearm c s
  | .rearmStop c => Sys2Proof.Machine.execRearmStop c s
  | .mailbox c words => Sys2Proof.Machine.execMailbox c words s
  | .prefetch c => Sys2Proof.Machine.execPrefetch c s
  | .evict c => Sys2Proof.Machine.execEvict c s
  | .warm c => Sys2Proof.Machine.execWarm c s
  | .cold c => Sys2Proof.Machine.execCold c s
  | .tilePrewalk c => Sys2Proof.Machine.execTilePrewalk c s
  | .walkReadResponse w a => Sys2Proof.Machine.execWalkReadResponse w a s
  | .walkReadTimeout w => Sys2Proof.Machine.execWalkReadTimeout w s
  | .faultRecordWrite w => Sys2Proof.Machine.execFaultRecordWrite w s
  | .faultRecordAck seq => Sys2Proof.Machine.execFaultRecordAck seq s
  | .readIssue t => Sys2Proof.Machine.execReadIssue t s
  | .writeIssue t => Sys2Proof.Machine.execWriteIssue t s
  | .readDataLand line d ecc => Sys2Proof.Machine.execReadDataLand line d ecc s
  | .outputLineEmit c k ecc => Sys2Proof.Machine.execOutputLineEmit c k ecc s
  | .mordantCast c k ecc => Sys2Proof.Machine.execMordantCast c k ecc s
  | .writeAcknowledge line => Sys2Proof.Machine.execWriteAcknowledge line s
  | .heldWriteIssue c => Sys2Proof.Machine.execHeldWriteIssue c s
  | .fabricErrorResponse line r => Sys2Proof.Machine.execFabricErrorResponse line r s
  | .lateResponse r => Sys2Proof.Machine.execLateResponse r s
  | .lineTimeout line => Sys2Proof.Machine.execLineTimeout line s
  | .descriptorComplete c => Sys2Proof.Machine.execDescriptorComplete c s
  | .completionRecordError c r => Sys2Proof.Machine.execCompletionRecordError c r s
  | .irqPendClear r ns v => Sys2Proof.Machine.execIrqPendClear r ns v s
  | .suspend c ns v => Sys2Proof.Machine.execSuspend c ns v s
  | .contextOut c => Sys2Proof.Machine.execContextOut c s
  | .resume c ns v => Sys2Proof.Machine.execResume c ns v s
  | .abort c ns v => Sys2Proof.Machine.execAbort c ns v s
  | .kill c ns v => Sys2Proof.Machine.execKill c ns v s
  | .rootAsidWrite c r ns v => Sys2Proof.Machine.execRootAsidWrite c r ns v s
  | .fqLoWrite hi ns v => Sys2Proof.Machine.execFqLoWrite hi ns v s
  | .fqEnable ns v => Sys2Proof.Machine.execFqEnable ns v s
  | .fqHeadWrite ns v => Sys2Proof.Machine.execFqHeadWrite ns v s
  | .invalidate ns v => Sys2Proof.Machine.execInvalidate ns v s
  | .invalidateDone => Sys2Proof.Machine.execInvalidateDone s
  | .adone ns v => Sys2Proof.Machine.execAdone ns v s
  | .windowEntryWrite w size ns v => Sys2Proof.Machine.execWindowEntryWrite w size ns v s
  | .xlClrcnt h ns v => Sys2Proof.Machine.execXlClrcnt h ns v s
  | .ringRegProduce r ns v => Sys2Proof.Machine.execRingRegProduce r ns v s
  | .ringRegRelease r ns v => Sys2Proof.Machine.execRingRegRelease r ns v s
  | .ringReset r ns v => Sys2Proof.Machine.execRingReset r ns v s
  | .ringCfgWrite r reg ns v => Sys2Proof.Machine.execRingCfgWrite r reg ns v s
  | .boundRunReserve c => Sys2Proof.Machine.execBoundRunReserve c s
  | .hqRegPush q ns v => Sys2Proof.Machine.execHqRegPush q ns v s
  | .hqRegPop q ns => Sys2Proof.Machine.execHqRegPop q ns s
  | .hqReset q ns v => Sys2Proof.Machine.execHqReset q ns v s
  | .echoFlush ns v => Sys2Proof.Machine.execEchoFlush ns v s
  | .echoFlushDone => Sys2Proof.Machine.execEchoFlushDone s
  | .relayEnable n ns v => Sys2Proof.Machine.execRelayEnable n ns v s
  | .relayForward line => Sys2Proof.Machine.execRelayForward line s
  | .tagHwmRead p ns => Sys2Proof.Machine.execTagHwmRead p ns s
  | .kqLandRead q ns => Sys2Proof.Machine.execKqLandRead q ns s
  | .kqClrcnt q ns v => Sys2Proof.Machine.execKqClrcnt q ns v s
  | .mdClrcnt u ns v => Sys2Proof.Machine.execMdClrcnt u ns v s
  | .reseed u ns v => Sys2Proof.Machine.execReseed u ns v s
  | .bgClrcnt g ns v => Sys2Proof.Machine.execBgClrcnt g ns v s
  | .mpClr m ns v => Sys2Proof.Machine.execMpClr m ns v s
  | .placementWindowEnd g p cnt => Sys2Proof.Machine.execPlacementWindowEnd g p cnt s
  | .poolDisarm p ns v => Sys2Proof.Machine.execPoolDisarm p ns v s
  | .saltMigrationDone g e => Sys2Proof.Machine.execSaltMigrationDone g e s
  | .scrubRow g ecc => Sys2Proof.Machine.execScrubRow g ecc s
  | .grantWatchdogBite a input line => Sys2Proof.Machine.execGrantWatchdogBite a input line s
  | .stageInboundRequest m r bank => Sys2Proof.Machine.execStageInboundRequest m r bank s
  | .coreInboundRequest n r bank => Sys2Proof.Machine.execCoreInboundRequest n r bank s
  | .coreReadyChange n level => Sys2Proof.Machine.execCoreReadyChange n level s
  | .activationPositionFree n p => Sys2Proof.Machine.execActivationPositionFree n p s
  | .mmioBadRequest r => Sys2Proof.Machine.execMmioBadRequest r s
  | .registerWrite off ns v => Sys2Proof.Machine.execRegisterWrite off ns v s
  | .linkPresenceChange p high => Sys2Proof.Machine.execLinkPresenceChange p high s
  | .linkDisable p ns v => Sys2Proof.Machine.execLinkDisable p ns v s
  | .linkRetrain p ns v => Sys2Proof.Machine.execLinkRetrain p ns v s
  | .linkClrcnt p ns v => Sys2Proof.Machine.execLinkClrcnt p ns v s
  | .linkStateTimerExpire p => Sys2Proof.Machine.execLinkStateTimerExpire p s
  | .linkSignalDetect p => Sys2Proof.Machine.execLinkSignalDetect p s
  | .trainingFrame p lane f => Sys2Proof.Machine.execTrainingFrame p lane f s
  | .sync p x => Sys2Proof.Machine.execSync p x s
  | .lockAlignmentHeld p => Sys2Proof.Machine.execLockAlignmentHeld p s
  | .ident p x => Sys2Proof.Machine.execIdent p x s
  | .confirm p f rx => Sys2Proof.Machine.execConfirm p f rx s
  | .eqreq p f rx => Sys2Proof.Machine.execEqreq p f rx s
  | .dataFlitReceived p f fec rep => Sys2Proof.Machine.execDataFlitReceived p f fec rep s
  | .nackRepeat p => Sys2Proof.Machine.execNackRepeat p s
  | .electricalIdleDetect p => Sys2Proof.Machine.execElectricalIdleDetect p s
  | .serWindowEnd p w => Sys2Proof.Machine.execSerWindowEnd p w s
  | .packetForward p ecc => Sys2Proof.Machine.execPacketForward p ecc s
  | .rdreq p ecc bank => Sys2Proof.Machine.execRdreq p ecc bank s
  | .wrreq p ecc => Sys2Proof.Machine.execWrreq p ecc s
  | .wrpart p ecc => Sys2Proof.Machine.execWrpart p ecc s
  | .add32 p ecc bank => Sys2Proof.Machine.execAdd32 p ecc bank s
  | .add64 p ecc bank => Sys2Proof.Machine.execAdd64 p ecc bank s
  | .rdrsp p ecc => Sys2Proof.Machine.execRdrsp p ecc s
  | .wrack p ecc => Sys2Proof.Machine.execWrack p ecc s
  | .addrsp p ecc => Sys2Proof.Machine.execAddrsp p ecc s
  | .errrsp p ecc => Sys2Proof.Machine.execErrrsp p ecc s
  | .barrArrive p ecc => Sys2Proof.Machine.execBarrArrive p ecc s
  | .barrAck p ecc => Sys2Proof.Machine.execBarrAck p ecc s
  | .arriveAckTimeout c => Sys2Proof.Machine.execArriveAckTimeout c s
  | .releaseApply p ecc => Sys2Proof.Machine.execReleaseApply p ecc s
  | .abandon p ecc => Sys2Proof.Machine.execAbandon p ecc s
  | .poison p ecc => Sys2Proof.Machine.execPoison p ecc s
  | .hostArrive ns v => Sys2Proof.Machine.execHostArrive ns v s
  | .hostArriveTimeout => Sys2Proof.Machine.execHostArriveTimeout s
  | .init ns v => Sys2Proof.Machine.execInit ns v s
  | .barCfgWrite ns v => Sys2Proof.Machine.execBarCfgWrite ns v s
  | .barMapWrite c ns v => Sys2Proof.Machine.execBarMapWrite c ns v s
  | .mbWordWrite m k ns v => Sys2Proof.Machine.execMbWordWrite m k ns v s
  | .clear m ns v => Sys2Proof.Machine.execClear m ns v s
  | .mbLenWrite m ns v => Sys2Proof.Machine.execMbLenWrite m ns v s
  | .go m ns v => Sys2Proof.Machine.execGo m ns v s
  | .syncDump ns v => Sys2Proof.Machine.execSyncDump ns v s
  | .syncDumpDone => Sys2Proof.Machine.execSyncDumpDone s
  | .adaptiveWindowEnd d u => Sys2Proof.Machine.execAdaptiveWindowEnd d u s
  | .vddtSettleExpire => Sys2Proof.Machine.execVddtSettleExpire s
  | .freqStep d => Sys2Proof.Machine.execFreqStep d s
  | .vddtLowerExpire => Sys2Proof.Machine.execVddtLowerExpire s
  | .delayMarginNegative d edges => Sys2Proof.Machine.execDelayMarginNegative d edges s
  | .thermalLimit sensor temp => Sys2Proof.Machine.execThermalLimit sensor temp s
  | .domainIdleExpire d => Sys2Proof.Machine.execDomainIdleExpire d s
  | .domainGated d => Sys2Proof.Machine.execDomainGated d s
  | .wakeRequest d => Sys2Proof.Machine.execWakeRequest d s
  | .wakeComplete d => Sys2Proof.Machine.execWakeComplete d s
  | .islLimWrite d ns v => Sys2Proof.Machine.execIslLimWrite d ns v s
  | .islPolicyWrite d ns v => Sys2Proof.Machine.execIslPolicyWrite d ns v s
  | .pgoodFall r => Sys2Proof.Machine.execPgoodFall r s
  | .railWaitEnd => Sys2Proof.Machine.execRailWaitEnd s
  | .coldReset c => Sys2Proof.Machine.execColdReset c s
  | .coldResetEnd st => Sys2Proof.Machine.execColdResetEnd st s
  | .blockResetDone keyhash minsvn => Sys2Proof.Machine.execBlockResetDone keyhash minsvn s
  | .wakeN => Sys2Proof.Machine.execWakeN s
  | .faultEvent evs => Sys2Proof.Machine.execFaultEvent evs s
  | .faultWindowClose src => Sys2Proof.Machine.execFaultWindowClose src s
  | .collectorParityError off => Sys2Proof.Machine.execCollectorParityError off s
  | .escalationExpire => Sys2Proof.Machine.execEscalationExpire s
  | .automaticExit => Sys2Proof.Machine.execAutomaticExit s
  | .ack ns v => Sys2Proof.Machine.execAck ns v s
  | .exit ns v => Sys2Proof.Machine.execExit ns v s
  | .clrall ns v => Sys2Proof.Machine.execClrall ns v s
  | .sevClear k ns v => Sys2Proof.Machine.execSevClear k ns v s
  | .fsCfgWrite src ns v => Sys2Proof.Machine.execFsCfgWrite src ns v s
  | .blkrst ns v => Sys2Proof.Machine.execBlkrst ns v s
  | .reinit ns v => Sys2Proof.Machine.execReinit ns v s
  | .reinitDone => Sys2Proof.Machine.execReinitDone s
  | .reinitTimeout => Sys2Proof.Machine.execReinitTimeout s
  | .freeze ns v => Sys2Proof.Machine.execFreeze ns v s
  | .thaw ns v => Sys2Proof.Machine.execThaw ns v s
  | .ztWord7Read ns ecc => Sys2Proof.Machine.execZtWord7Read ns ecc s
  | .wnClr ns v => Sys2Proof.Machine.execWnClr ns v s
  | .sidebandOffsetWrite hi lo => Sys2Proof.Machine.execSidebandOffsetWrite hi lo s
  | .sidebandRead ecc => Sys2Proof.Machine.execSidebandRead ecc s
  | .sidebandIdxWrite data => Sys2Proof.Machine.execSidebandIdxWrite data s
  | .sidebandWord7Read ecc => Sys2Proof.Machine.execSidebandWord7Read ecc s
  | .testLogicReset => Sys2Proof.Machine.execTestLogicReset s
  | .extest shift => Sys2Proof.Machine.execExtest shift s
  | .idcode => Sys2Proof.Machine.execIdcode s
  | .samplePreload shift => Sys2Proof.Machine.execSamplePreload shift s
  | .clamp => Sys2Proof.Machine.execClamp s
  | .highz => Sys2Proof.Machine.execHighz s
  | .bypass opcode => Sys2Proof.Machine.execBypass opcode s
  | .completionRecordAck c => Sys2Proof.Machine.execCompletionRecordAck c s
  | .pgoodRise r => Sys2Proof.Machine.execPgoodRise r s
  | .idleFlitReceived p f rx => Sys2Proof.Machine.execIdleFlitReceived p f rx s
  | .tempFall temp => Sys2Proof.Machine.execTempFall temp s
  | .marginReturn d => Sys2Proof.Machine.execMarginReturn d s
  | .contextRestored c area => Sys2Proof.Machine.execContextRestored c area s

end Sys2Proof.Machine
end

