-- ==== Sys2Proof/Safety.lean ====
section
/-! DEFINITION. The terms the statements use: a register access that is served, an event on its way to the collector, the state
invariants, and which commands write stage memory or are register writes. -/

namespace Sys2Proof.Machine

/-- A register access at window offset `off` is served: the MMIO target is ready (R357), the page answers in SAFE (R335), and a
non-secure request does not meet a secure register (R322). -/
structure Served (s : State) (off : Nat) (ns sec : Bool) : Prop where
  ready : mmioReady s = true
  page : s.aon.fc.st = .safe → safePage off = true
  world : ns = true → sec = false

/-- One more event waits in the crossing of R305: its source, arguments and island. -/
def Crosses (s t : State) (source a b island : Nat) : Prop :=
  ∃ q : EvQ, t.aon.fc.evq = s.aon.fc.evq ++ [q]
    ∧ q.ev = ⟨Fin.ofNat 256 source, BitVec.ofNat 64 a, BitVec.ofNat 32 b, Fin.ofNat 65 island⟩

/-- The fetch of an image or of firmware has left from `a`: one request of port M0, secure and not volatile, outstanding under its ID
(R40, R204, R358). -/
structure ImageFetch (s t : State) (a : Nat) : Prop where
  frame : t = { s with path := { s.path with nextId := t.path.nextId }, ports := { s.ports with own := t.ports.own }, out := t.out }
  sent : ∃ id, t.out = s.out ++ [.image 0 a false false id] ∧ t.ports.own = s.ports.own ++ [⟨id, 0, 0, a, .image, none⟩]

/-- The fetch of the 512 B block at `a` has left for channel `c`: one read of each line of it that lies in external memory, outstanding on
the line's own port (R51, R204). -/
structure FetchSent (s t : State) (c a : Nat) : Prop where
  out : t.out = s.out ++ [.fetch c a (fetchIds t c)]
  own : ∃ new, t.ports.own = s.ports.own ++ new
    ∧ new.map (fun e => (e.port, e.op, e.addr, e.kind)) = (fetchLines s a).map fun l => (memPortOf s l, 0, l, .fetch c)

/-- The register write that a command is: its window offset (Tables 19-1 to 19-6), its world, and whether the register is secure.
Commands with an effect beside the gate's (FWLOAD and PARK, R356), pending bits whose world is a bit's own (IRQ_PEND_CLEAR), reads,
and REGISTER_WRITE, whose offset is an operand, are not listed. -/
def regWrite (s : State) : Instr → Option (Nat × Bool × Bool)
  | .imageLoad ns _ => some (0x048, ns, true)
  | .doorbell c ns _ => some (chOff c.val 0x08, ns, chanSecure s c.val)
  | .haltClear c ns _ => some (chOff c.val 0x0C, ns, chanSecure s c.val)
  | .cqHeadWrite c ns _ => some (chOff c.val 0x18, ns, chanSecure s c.val)
  | .channelRegWrite c .headLo ns _ => some (chOff c.val 0x00, ns, chanSecure s c.val)
  | .channelRegWrite c .headHi ns _ => some (chOff c.val 0x04, ns, chanSecure s c.val)
  | .channelRegWrite c .cqLo ns _ => some (chOff c.val 0x10, ns, chanSecure s c.val)
  | .channelRegWrite c .cqHi ns _ => some (chOff c.val 0x14, ns, chanSecure s c.val)
  | .suspend c ns _ => some (0xC000 + 0x40 * c.val, ns, ctxSecure s c.val)
  | .resume c ns _ => some (0xC000 + 0x40 * c.val, ns, ctxSecure s c.val)
  | .abort c ns _ => some (0xC000 + 0x40 * c.val, ns, ctxSecure s c.val)
  | .kill c ns _ => some (0xC000 + 0x40 * c.val, ns, ctxSecure s c.val)
  | .rootAsidWrite c .rootLo ns _ => some (0xD400 + 0x10 * c.val, ns, ctxSecure s c.val)
  | .rootAsidWrite c .rootHi ns _ => some (0xD404 + 0x10 * c.val, ns, ctxSecure s c.val)
  | .rootAsidWrite c .asid ns _ => some (0xD408 + 0x10 * c.val, ns, ctxSecure s c.val)
  | .fqLoWrite hi ns _ => some (if hi then 0xD004 else 0xD000, ns, domSecure s 56)
  | .fqHeadWrite ns _ => some (0xD008, ns, domSecure s 56)
  | .fqEnable ns _ => some (0xD010, ns, domSecure s 56)
  | .invalidate ns _ => some (0xD018, ns, domSecure s 56)
  | .adone ns _ => some (0xD01C, ns, domSecure s 56)
  | .windowEntryWrite w size ns _ => some (0xE000 + 8 * w.val + (if size then 4 else 0), ns, winSecure s w.val)
  | .xlClrcnt h ns _ => some (0xD05C + 0x20 * h.val, ns, domSecure s (56 + h.val))
  | .ringRegProduce r ns _ => some (ringOff r.val 0x1C, ns, ringSecure s r.val)
  | .ringRegRelease r ns _ => some (ringOff r.val 0x1C, ns, ringSecure s r.val)
  | .ringReset r ns _ => some (ringOff r.val 0x1C, ns, ringSecure s r.val)
  | .ringCfgWrite r .cfg ns _ => some (ringOff r.val 0x00, ns, ringSecure s r.val)
  | .ringCfgWrite r .bind ns _ => some (ringOff r.val 0x04, ns, ringSecure s r.val)
  | .ringCfgWrite r .slot ns _ => some (ringOff r.val 0x08, ns, ringSecure s r.val)
  | .ringCfgWrite r .align ns _ => some (ringOff r.val 0x18, ns, ringSecure s r.val)
  | .hqRegPush q ns _ => some (0x11004 + 0x10 * q.val, ns, hqSecure s q.val)
  | .hqReset q ns _ => some (0x11000 + 0x10 * q.val, ns, hqSecure s q.val)
  | .echoFlush ns _ => some (0x7050, ns, echoSecure s)
  | .relayEnable n ns _ => some (0x7080 + 4 * n.val, ns, relaySecure s n.val)
  | .kqClrcnt q ns _ => some (0x1A01C + 0x40 * q.val, ns, domSecure s (8 + q.val))
  | .mdClrcnt u ns _ => some (0x1B020 + 0x40 * u.val, ns, domSecure s (12 + u.val))
  | .reseed u ns _ => some (0x1B020 + 0x40 * u.val, ns, domSecure s (12 + u.val))
  | .bgClrcnt g ns _ => some (0x1C01C + 0x40 * g.val, ns, domSecure s (20 + g.val))
  | .mpClr m ns _ => some (0x610C + 0x10 * m.val, ns, memThere s m.val && domSecure s (44 + m.val / 2))
  | .poolDisarm p ns _ => some (0x1C404 + 0x10 * p.val, ns, poolSecure s p.val)
  | .hostArrive ns v => some (0xF014, ns, barSecure s (fld v 0 12))
  | .init ns _ => some (0xF010, ns, barSelSecure s)
  | .barCfgWrite ns _ => some (0xF004, ns, barSelSecure s)
  | .barMapWrite c ns _ => some (0xF100 + 4 * c.val, ns, ctxSecure s c.val)
  | .mbWordWrite m k ns _ => some (0x10000 + 0x80 * m.val + 4 * k.val, ns, mbSecure s m.val)
  | .clear m ns _ => some (0x10040 + 0x80 * m.val, ns, mbSecure s m.val)
  | .mbLenWrite m ns _ => some (0x10040 + 0x80 * m.val, ns, mbSecure s m.val)
  | .go m ns _ => some (0x10040 + 0x80 * m.val, ns, mbSecure s m.val)
  | .syncDump ns _ => some (0xF028, ns, true)
  | .islLimWrite i ns _ => some (0x4004 + 0x10 * i.val, ns, islSecure s i.val)
  | .islPolicyWrite i ns _ => some (0x4008 + 0x10 * i.val, ns, islSecure s i.val)
  | .ack ns _ => some (0x2008, ns, true)
  | .exit ns _ => some (0x2008, ns, true)
  | .clrall ns _ => some (0x2008, ns, true)
  | .sevClear k ns _ => some (0x2040 + 4 * k.val, ns, true)
  | .fsCfgWrite i ns _ => some (0x2800 + 8 * i.val, ns, true)
  | .blkrst ns _ => some (0x200C, ns, true)
  | .reinit ns v => some (0x2010, ns, !reNs s (bitOf v 8) (fld v 0 6))
  | .freeze ns _ => some (0x3000, ns, true)
  | .thaw ns _ => some (0x3000, ns, true)
  | .wnClr ns _ => some (0x104C, ns, true)
  | .linkDisable p ns _ => some (0x1D000 + 0x40 * p.val, ns, (s.img.isNone || linkPresent s p.val) && domSecure s (36 + p.val))
  | .linkRetrain p ns _ => some (0x1D000 + 0x40 * p.val, ns, (s.img.isNone || linkPresent s p.val) && domSecure s (36 + p.val))
  | .linkClrcnt p ns _ => some (0x1D000 + 0x40 * p.val, ns, (s.img.isNone || linkPresent s p.val) && domSecure s (36 + p.val))
  | _ => none

/-- The commands that may change stage memory: a store, the acknowledgement of a line or a record written to it, and the commands
that may begin a reset or the safe state. -/
def mayTouchStage : Instr → Bool
  | .fwload _ _ => true
  | .park _ _ => true
  | .cqHeadWrite _ _ _ => true
  | .signalResponse _ _ => true
  | .writeAcknowledge _ => true
  | .descriptorComplete _ => true
  | .suspend _ _ _ => true
  | .contextOut _ => true
  | .resume _ _ _ => true
  | .abort _ _ _ => true
  | .kill _ _ _ => true
  | .stageInboundRequest _ _ _ => true
  | .coreInboundRequest _ _ _ => true
  | .registerWrite _ _ _ => true
  | .wrreq _ _ => true
  | .wrpart _ _ => true
  | .add32 _ _ _ => true
  | .add64 _ _ _ => true
  | .wrack _ _ => true
  | .addrsp _ _ => true
  | .coldReset _ => true
  | .blockResetDone _ _ => true
  | .faultEvent _ => true
  | .collectorParityError _ => true
  | .escalationExpire => true
  | .automaticExit => true
  | .ack _ _ => true
  | .exit _ _ => true
  | .clrall _ _ => true
  | .blkrst _ _ => true
  | .contextRestored _ _ => true
  | .faultRecordWrite _ => true
  | .saltMigrationDone _ _ => true
  | .coreReadyChange _ _ => true
  | .mmioBadRequest _ => true
  | _ => false

/-- Every sparse table of the state is in canonical form: indexes strictly rising, and no listed record equal to the one an
unlisted index reads as. A write of one record then leaves every other record alone. -/
structure Canon (s : State) : Prop where
  chans : twf (fun _ => {}) s.chans = true
  ctxs : twf ctxDflt s.ctxs = true
  links : twf (fun _ => {}) s.links = true
  slots : twf (fun _ => []) s.path.slots = true
  winRd : twf (fun _ => {}) s.path.winRd = true
  winWr : twf (fun _ => {}) s.path.winWr = true
  kq : twf (fun _ => {}) s.path.kq = true
  md : twf (fun _ => {}) s.path.md = true
  fe : twf (fun _ => {}) s.path.fe = true
  relay : twf (fun _ => {}) s.path.relay = true
  mem : Memory.wf s.stage.mem = true
  bg : twf (fun _ => {}) s.stage.bg = true
  pool : twf (fun _ => {}) s.stage.pool = true
  fenceMem : twf (fun _ => 0) s.stage.fenceMem = true
  fenceCore : twf (fun _ => 0) s.stage.fenceCore = true
  fenceLink : twf (fun _ => 0) s.stage.fenceLink = true
  rankBank : twf (fun _ => List.range 36) s.stage.rankBank = true
  rankMem : twf (fun _ => List.range 33) s.stage.rankMem = true
  rankCore : twf (fun _ => List.range 33) s.stage.rankCore = true
  hintBank : twf (fun _ => []) s.stage.hintBank = true
  hintMem : twf (fun _ => []) s.stage.hintMem = true
  hintCore : twf (fun _ => []) s.stage.hintCore = true
  rings : twf (fun _ => {}) s.hub.rings = true
  hqs : twf (fun _ => {}) s.hub.hqs = true
  bars : twf (fun _ => {}) s.hub.bars = true
  mbs : twf (fun _ => {}) s.hub.mbs = true
  half : twf (fun _ => {}) s.xl.half = true
  wins : twf (fun _ => {}) s.xl.wins = true
  cp : twf (fun _ => {}) s.ports.cp = true
  mp : twf (fun _ => {}) s.ports.mp = true
  msi : twf (fun _ => {}) s.ports.msi = true
  isl : twf islDflt s.clk.isl = true
  src : twf srcDflt s.aon.fc.src = true
  ent : twf (fun _ => {}) s.aon.zt.ent = true
  drop : twf (fun _ => 0) s.aon.zt.drop = true
  seq : twf (fun _ => 0) s.aon.zt.seq = true

/-- Channel `c` runs with the stream `x` in a slot, and its context lets it act (R18, R19, R77). -/
structure Acts (s : State) (c : Nat) (x : Stream) : Prop where
  on : operating s = true
  run : chState s c = .running
  ctx : ctxRuns s c = true
  here : stream s c = some x
  slot : x.slot = true

/-- The stream holds a descriptor of type `t` (Table 03-4) that has not started. -/
structure Decoded (s : State) (c : Nat) (x : Stream) (t : Nat) : Prop where
  acts : Acts s c x
  st : x.st = .decoded
  type : dType x.desc = t

/-- No write counted back to the channel's last count-back point is outstanding, and none has failed late (R58, R380). -/
structure Settled (s : State) (c : Nat) : Prop where
  acked : writesOut s c (sinceBack s c) = false
  noLate : lateErr s c (sinceBack s c) = none

/-- The state in which channel `c`'s stream `x` has taken its last action, with the code and DETAIL of its completion. -/
def ended (s : State) (c : Nat) (x : Stream) (code detail : Nat) : State :=
  setStream s c { x with
    st := .done code detail, wait := .none }

/-- The state in which channel `c`'s stream `x` begins to wait for `w`, in the order of the streams that wait. -/
def waits (s : State) (c : Nat) (x : Stream) (w : Wait) : State :=
  setStream { s with order := s.order + 1 } c { x with
    st := .started, wait := w, stamp := s.order }

/-- Channel `c`'s Whirligig program stands at instruction `i` of opcode `op`, and may execute it (R106, R107). -/
structure AtWhirl (s : State) (c op : Nat) (x : Stream) (w : Whirl) (i : W64) : Prop where
  acts : Acts s c x
  st : x.st = .started
  type : dType x.desc = 4
  prog : x.whirl = some w
  instr : w.prog[w.pc]? = some i
  opcode : iOp i = op
  live : w.stopped = false
  ahead : runsAhead x w < 16
  quiet : w.quiet < 65536

/-- The state behind a Whirligig instruction other than EMIT and HALT, with the registers `g` and the next PC: the program stops
where PC passes NINST, and once LIMIT addresses are emitted (R107). -/
def whirlNext (s : State) (c : Nat) (x : Stream) (w : Whirl) (g : Vector W32 8) (pc : Nat) : State :=
  setStream s c { x with
    whirl := some { w with
      g := g, pc := pc, quiet := w.quiet + 1, stopped := decide (w.prog.length ≤ pc ∨ wLimit x.desc ≤ w.emits) } }

/-- A read of `n` bytes at virtual address `va` by the stream `x` of a secure channel is answered from external memory: the leaf of its
one region is found, every line of it leads outside the Miozer region, and the ports of those lines are powered and grant the channel's
lane (R62, R197, R201, R245). -/
structure Readable (s : State) (c : Nat) (x : Stream) (va n : Nat) : Prop where
  secure : chanSecure s c = true
  low : va + n ≤ 2 ^ 49
  some : 0 < n
  one : (va + (n - 1)) / 2 ^ 25 = va / 2 ^ 25
  leaf : ∃ e, x.pre.find? (fun e => e.region == va / 2 ^ 25) = .some e
    ∧ (∀ l ∈ recLocs s [e] va n, (∃ pa, l = .ext pa) ∧ locReady s l = true ∧ lineFenced s (pollLine s c l) = false)
    ∧ ∀ k < n, ∃ pa, leafLoc s e.leaf (va + k) = .ext pa

/-- From `s` to `t` channel `c` has read external memory: beside its own stream, only the requests of the read go out, with their
numbers, the ports' turns, and the requests that wait for an answer (R195, R204). -/
structure ReadsOnly (s t : State) (c : Nat) : Prop where
  frame : t = { s with
    chans := t.chans, path := { s.path with nextId := t.path.nextId }, stage := { s.stage with rankMem := t.stage.rankMem }
    ports := { s.ports with own := t.ports.own }, out := t.out }
  others : ∀ d, d ≠ c → chan t d = chan s d
  here : chan t c = { chan s c with stream := stream t c }

/-- The memory port of an external address takes a request of channel `c`: it is powered, and the channel's lane is not fenced there
(R197, R315). -/
structure PollReady (s : State) (c pa : Nat) : Prop where
  on : powered s (44 + memPortOf s pa / 2) = true
  open_ : (tget (fun _ => 0) s.stage.fenceMem (memPortOf s pa)).getLsbD (chanCfg s c).mover = false

/-- Whether a value meets the condition of a WAIT VALUE: masked to its SIZE, against REF, equal, unequal, unsigned or signed (R66). -/
def valueIs (x : Stream) (w : Nat) : Bool :=
  let n := 8 * wSize x.desc
  let a := BitVec.ofNat n (w &&& dW x.desc 4 0 64)
  let b := BitVec.ofNat n (dW x.desc 3 0 64)
  match wCmp x.desc with
  | 0 => a == b
  | 1 => a != b
  | 2 => decide (b.toNat ≤ a.toNat)
  | 3 => decide (a.toNat < b.toNat)
  | 4 => decide (b.toInt ≤ a.toInt)
  | _ => decide (a.toInt < b.toInt)

/-- The reads of a WAIT VALUE have gone out: one for each line that it touches, volatile at its SCOPE, with its SIZE where it is naturally
aligned and of a whole line otherwise (R66, R204, R268, R274). -/
def PollsSent (s t : State) (c : Nat) (x : Stream) (es : List XEnt) : Prop :=
  ∃ ids : List Nat, ids.length = (pollPieces s x es).length
    ∧ t.out = s.out ++ ((pollPieces s x es).zip ids).map fun e =>
        let a := if pollSize x = 3 then locPa s e.1.loc / 128 * 128 else locPa s e.1.loc
        .fab (memPortOf s a) 0 (pollSize x) a (!chanSecure s c) true (wScope x.desc) e.2 0 0

/-- A well-formed CONTROL flit of a kind (R220, R230). -/
structure Control (f : FlitData) (kind : Nat) : Prop where
  crc : flitGood f = true
  type : fType f = 2
  form : ctlGood f = true
  kind : ctlKind f = kind

/-- The header of a flit brings port `p` nothing to do: FACK is the acknowledgement it has, there is no NACK and no credit, the
credit it holds is in range, and nothing waits for credit (R220, R223, R225). -/
structure Quiet (s : State) (p : Nat) (f : FlitData) : Prop where
  ack : fAck f = (link s p).acked.toNat
  nack : bitOf f 26 = false
  count : fld f 30 11 = 0
  credit : credit (link s p) (fld f 27 3) ≤ 2048
  empty : (link s p).txq = []

/-- Port `p` has entered RETRAIN from a state that carries traffic (R226). -/
structure Retrains (s t : State) (p : Nat) : Prop where
  st : (link t p).st = .retrain
  pre : (link t p).pre = (link s p).st
  count : (link t p).retrains = min ((link s p).retrains + 1) 255

/-- Port `p` has entered DOWN with one event of its link-down source (R226), after the link-route events that the answers to what it
held may raise (R234). -/
structure GoesDown (s t : State) (p : Nat) : Prop where
  st : (link t p).st = .down
  count : (link t p).downs = min ((link s p).downs + 1) 255
  event : ∃ (es : List EvQ) (q : EvQ), t.aon.fc.evq = s.aon.fc.evq ++ es ++ [q]
    ∧ q.ev = ⟨Fin.ofNat 256 (0xC0 + p), BitVec.ofNat 64 (link s p).st.code, BitVec.ofNat 32 (link t p).pktdrop, Fin.ofNat 65 (0x24 + p)⟩
    ∧ ∀ e ∈ es, 0xB0 ≤ e.ev.src.val ∧ e.ev.src.val < 0xB8

/-- Port `p` and its peer have both sent CONFIRM, this side for the outcome `o` and the peer for the state of value `theirs` (R226, R228,
R239): the outcome that both confirm, with full credit and fresh numbers where it carries traffic; REFUSED where they differ; and in RETRAIN
the state before it, or DOWN. -/
structure Confirmed (s t : State) (p : Nat) (o : LinkSt) (theirs : Nat) (rep : Ecc) : Prop where
  traffic : (link s p).st = .ident → theirs = o.code → o = .active ∨ o = .transit →
    (link t p).st = o ∧ (link t p).cred = Vector.replicate 8 2048 ∧ (link t p).txSeq = 0 ∧ (link t p).rxSeq = 0 ∧ (link t p).replay = []
  differ : (link s p).st = .ident → theirs ≠ o.code → (link t p).st = .refused ∧ (link t p).reason = 4
  refused : (link s p).st = .ident → theirs = o.code → o = .refused →
    (link t p).st = .refused ∧ ∀ a b, (link s p).identLast = some (a, b) → (link t p).reason = (identOutcome s p a b).2
  lost : (link s p).st = .retrain → ¬ (theirs = o.code ∧ o = (link s p).pre ∧ samePeer (link s p) = true) → (link t p).st = .down
  back : (link s p).st = .retrain → theirs = o.code → o = (link s p).pre → samePeer (link s p) = true →
    rep ≠ .uncorrectable ∨ (link s p).replay = [] → (link t p).st = o

/-- Where a packet with header `h` that arrived at port `p` is turned away under the DOWN rules of port `q`, after an event that leaves `r`
(R226, R234): it is counted, and a request of another chip is answered ERRRSP with LINK. -/
structure Drops (s r : State) (h : Slot) (p : Port) (q : Nat) : Prop where
  frame : r = { takePkt s p.val 0 with links := r.links, aon := r.aon, fresh := r.fresh }
  plain : isReq (pOpc h) = false → exec (.packetForward p .clean) s = .next r
  answered : isReq (pOpc h) = true → pSchip h ≠ ownChip s →
    exec (.packetForward p .clean) s = .next (sendOrDrop r (errFor s h 5))
  own : isReq (pOpc h) = true → pSchip h = ownChip s → exec (.packetForward p .clean) s = .next (deliverOwn r q (errFor s h 5))
  counted : (link r q).pktdrop = min ((link (takePkt s p.val 0) q).pktdrop + 1) 65535

end Sys2Proof.Machine
end

