-- ==== Sys2Proof/Certificates/Slice0/Obligations.lean ====
section
/-! DEFINITION. The statements about this model, one definition each. -/

open Sys2Proof Sys2Proof.Machine

/-- A step with a command at the front of the queue is that command's effect on the state with the queue's rest
(95_what_each_step_holds: each step is whole and indivisible). -/
def Obligations.StepRunsTheFrontCommand : Prop :=
  ∀ (c : Instr) (q : List Instr) (s : State), step { s with pending := c :: q } = exec c { s with pending := q }

/-- With no command waiting, a step is one A-cycle of AON outside cold reset: the count of A-cycles advances, and at most four queued
events of the record leave the islands, oldest first and each island's in order. An inbound access that waited for a wake is served
then; with none waiting, or while the ports do not serve, nothing outside AON changes, and in cold reset nothing at all (DESIGN
CHOICE, log 10; R346, R355). -/
def Obligations.EmptyQueueStepIsOneCycle : Prop :=
  ∀ s : State, s.pending = [] → ∃ t, step s = .next t
    ∧ (s.boot.phase = .cold → t = s)
    ∧ (s.ports.inq = [] ∨ operating s = false → t = { s with aon := t.aon }
      ∧ (s.boot.phase ≠ .cold → t.aon.fc = { s.aon.fc with acyc := s.aon.fc.acyc + 1 } ∧ t.aon.zt.q = (ztSplit 4 [] s.aon.zt.q).2))
    ∧ (operating s = true → t = drainIn (idleCycle s) ∧ t.aon.fc.acyc = s.aon.fc.acyc + 1)

/-- Every well-formed command goes on to a next state: nothing stops the block (the spec names no stop, R76, R330). A command that
is not of the table (an event of a reserved source, a BYPASS with another instruction's opcode) is refused by name, and no other
command is refused. -/
def Obligations.WellFormedCommandsRun : Prop :=
  (∀ (c : Instr) (s : State), c.wf = true → ∃ t, exec c s = .next t)
  ∧ (∀ (c : Instr) (s : State), exec c s = .refused .illFormed ↔ c.wf = false)

/-- A register write reaches its register only while the MMIO target is ready (R357); a write that waits changes nothing (log 11). -/
def Obligations.WritesWaitUntilReady : Prop :=
  ∀ (s : State) (c : Instr) (off : Nat) (ns sec : Bool), regWrite s c = some (off, ns, sec) → mmioReady s = false →
    exec c s = .next s

/-- R335: in SAFE a write outside the pages of the collector and of Zoetrope is answered and changes nothing. -/
def Obligations.SafeServesOnlyTheCollectorPages : Prop :=
  ∀ (s : State) (c : Instr) (off : Nat) (ns sec : Bool), regWrite s c = some (off, ns, sec) → mmioReady s = true →
    s.aon.fc.st = .safe → (off < 0x2000 ∨ 0x4000 ≤ off) → exec c s = .next (emit s (.mmio 0 0))

/-- R322: a non-secure write of a secure register changes no register: it raises one world notice of path 0, a write, with the
register's offset, and is answered OKAY. -/
def Obligations.NonSecureWriteOfSecureRegister : Prop :=
  ∀ (s : State) (c : Instr) (off : Nat), regWrite s c = some (off, true, true) → mmioReady s = true →
    (s.aon.fc.st = .safe → 0x2000 ≤ off ∧ off < 0x4000) →
    ∃ t, exec c s = .next (emit t (.mmio 0 0)) ∧ t = { s with aon := t.aon, fresh := t.fresh }
      ∧ t.aon.wn.valid = true ∧ t.aon.wn.count = min (s.aon.wn.count + 1) 65535
      ∧ (s.aon.wn.valid = false → t.aon.wn.path = 0 ∧ t.aon.wn.op = 1 ∧ t.aon.wn.addr = BitVec.ofNat 52 off)
      ∧ Crosses s t 0x05 off (2 ^ 31 + 2 ^ 25 + t.aon.wn.count) 0x2C

/-- A step with a command in front takes exactly that command out of the queue. -/
def Obligations.StepTakesOneCommand : Prop :=
  ∀ (c : Instr) (q : List Instr) (s t : State), step { s with pending := c :: q } = .next t → t.pending = q

/-- Every sparse table and stage memory are in canonical form after reset. -/
def Obligations.ResetTablesAreCanonical : Prop := Canon State.reset

/-- Every step keeps every sparse table and stage memory in canonical form. -/
def Obligations.StepKeepsTablesCanonical : Prop :=
  ∀ s t : State, Canon s → step s = .next t → Canon t

/-- No command but IMAGE_LOCK puts an image into force: every other command leaves the image as it is, or a reset removes it
(R40, R41). -/
def Obligations.OnlyImageLockSetsTheImage : Prop :=
  ∀ (c : Instr) (s t : State), (∀ b, c ≠ .imageLock b) → exec c s = .next t → t.img = s.img ∨ t.img = none

/-- Stage memory keeps every byte under every command but those that store to it, complete a line or a record in it, or begin
a reset or the safe state (`mayTouchStage`). -/
def Obligations.StageMemoryKeptByOtherCommands : Prop :=
  ∀ (c : Instr) (s t : State), mayTouchStage c = false → exec c s = .next t → t.stage.mem = s.stage.mem

/-! ### Image and boot -/

/-- R40: a write of LOAD in NONE or FAILED latches MZ_IMG_ADDR, clears the error and enters LOADING; with the firmware running on a
powered Puppeteer the fetch starts at once, with secure and non-volatile reads of port M0 under one ID (log 47), and otherwise it is
held. In LOADING and
LOCKED the write is refused. R40 to R42: while a load runs, bytes that pass every check take effect in one step and lock; bytes that
fail one leave FAILED with the check's code and word, and a fetch that fails leaves FETCH. A locked image starts with every barrier
object at reset (R280). -/
def Obligations.ImageLoads : Prop :=
  (∀ (s : State) (ns : Bool) (v : W32), Served s 0x048 ns true →
    (s.boot.imgSt = .none ∨ s.boot.imgSt = .failed →
      ∃ t, exec (.imageLoad ns v) s = .next (emit t (.mmio 0 0)) ∧ t.boot.imgSt = .loading ∧ t.boot.imgErr = 0
        ∧ t.boot.imgErrWord = 0 ∧ t.boot.imgLatch = s.boot.imgAddr ∧ t.img = s.img
        ∧ (s.boot.st = .running ∧ powered s 59 = true →
            ImageFetch { s with boot := t.boot } t s.boot.imgAddr.toNat ∧ t.boot.imgHeld = false)
        ∧ (s.boot.st ≠ .running → t.boot.imgHeld = true ∧ t.out = s.out))
    ∧ (s.boot.imgSt = .loading ∨ s.boot.imgSt = .locked →
      ∃ t, exec (.imageLoad ns v) s = .next (emit t (.mmio 0 0)) ∧ t = { s with aon := t.aon, fresh := t.fresh }
        ∧ Crosses s t 0x04 0x048 0 0x2C))
  ∧ (∀ (s : State) (b : List Byte), loadRuns s = true →
    (∃ t, exec (.imageLock b) s = .next t ∧
      match checkImage s.boot.keyhash s.boot.minsvn b with
      | .ok i => t.img = some i ∧ t.boot.imgSt = .locked ∧ t.boot.imgErr = 0 ∧ t.boot.imgErrWord = 0
          ∧ t.boot.imgSvn = BitVec.ofNat 8 i.svn ∧ t.hub.bars = [] ∧ t.chans = s.chans
      | .error _ => t = s)
    ∧ (∃ t, exec (.imageLoadFail (some b)) s = .next t ∧
      match checkImage s.boot.keyhash s.boot.minsvn b with
      | .ok _ => t = s
      | .error e => t.boot.imgSt = .failed ∧ t.boot.imgErr = e.1 ∧ t.boot.imgErrWord = BitVec.ofNat 16 (e.2 / 4) ∧ t.img = s.img
          ∧ Crosses s t 0x03 e.1 (e.2 / 4) 0x3B)
    ∧ (∃ t, exec (.imageLoadFail none) s = .next t ∧ t.boot.imgSt = .failed ∧ t.boot.imgErr = 1 ∧ t.boot.imgErrWord = 0
        ∧ t.img = s.img ∧ Crosses (fetchError s s.boot.imgLatch.toNat) t 0x03 1 0 0x3B))

/-- R358: FWLOAD in WAIT or FAILED starts a load from MZ_PUP_FW; a load that ends with a good image runs its code from ENTRY, and
one that fails leaves FAILED with the error and one event of the Puppeteer source. R338: the reload after a reset from SAFE
copies MZ_FC_REIMG into the image address and starts the load from it. -/
def Obligations.FirmwareBootsAndReloads : Prop :=
  ((∀ (s : State) (ns : Bool) (v : W32), Served s 0x060 ns true → s.aon.fc.st ≠ .safe → bitOf v 3 = false →
    s.boot.st = .wait ∨ s.boot.st = .failed → powered s 59 = true →
    ∃ t, exec (.fwload ns v) s = .next (emit t (.mmio 0 0))
      ∧ ImageFetch { s with boot := { s.boot with st := .loading, err := 0, fwLatch := s.boot.pupFw } } t s.boot.pupFw.toNat)
  ∧ (∀ (s : State) (b : List Byte), operating s = true → s.boot.st = .loading → s.boot.imgSt ≠ .loading →
    ∃ t, exec (.firmwareLoadDone (some b)) s = .next t ∧
      match checkFirmware s.boot.keyhash s.boot.minsvn b with
      | .ok f => t = { ownDone s .image with
          boot := { s.boot with st := .running, err := 0, pupCode := f.1, pupEntry := f.2.1, fwSvn := f.2.2 } }
      | .error e => t = { ownDone s .image with boot := { s.boot with st := .failed, err := e }, aon := t.aon, fresh := t.fresh }
          ∧ Crosses s t 0x10 e 0 0x3B)
  ∧ (∀ s : State, operating s = true → s.boot.st = .loading → s.boot.imgSt ≠ .loading →
    ∃ t, exec (.firmwareLoadDone none) s = .next t
      ∧ t = { fetchError s s.boot.fwLatch.toNat with boot := { s.boot with st := .failed, err := 1 }, aon := t.aon, fresh := t.fresh }
      ∧ Crosses (fetchError s s.boot.fwLatch.toNat) t 0x10 1 0 0x3B))
  ∧ (∀ s : State, operating s = true → s.boot.reloadDue = true → s.boot.st = .running → powered s 59 = true →
    s.boot.imgSt = .none ∨ s.boot.imgSt = .failed →
    ∃ t, exec .autoloadReload s = .next t ∧ ImageFetch { s with boot := t.boot } t (256 * s.aon.fc.reimg.toNat)
      ∧ t.boot.imgSt = .loading ∧ t.boot.imgLatch.toNat = 256 * s.aon.fc.reimg.toNat ∧ t.boot.reloadDue = false)

/-! ### Rails, resets and the wake pin -/

/-- R354, R356: PARK in NORMAL or ALERT begins a block reset that leads back to rail wait with the rail source disarmed; in SAFE it is
refused with one event. R316, R353: a rail that falls while the rail source is armed raises one event of source 0x01 with the levels of
the three inputs; a rail that rises sets its level (in cold reset, nothing more); rail wait ends with the source armed and a block
reset, in which the domains that power up raise REQ for their VI (R310, R351; `wakeDue`, log 43). -/
def Obligations.RailsAreWatchedAndParked : Prop :=
  (∀ (s : State) (v : W32), mmioReady s = true →
    (s.aon.fc.st = .normal ∨ s.aon.fc.st = .alert →
      ∃ t, exec (.park false v) s = .next t ∧ t.boot.phase = .resetting ∧ t.boot.rstBy = 4 ∧ t.pins = { s.pins with railArm := false }
        ∧ t.clk.req = 70
        ∧ t.img = none ∧ t.chans = [] ∧ t.ctxs = [] ∧ t.links = [] ∧ t.stage.mem = [] ∧ t.hub = {} ∧ t.path = {} ∧ t.xl = {}
        ∧ t.boot.pupFw = s.boot.pupFw ∧ t.boot.straps = s.boot.straps ∧ t.aon.fc = s.aon.fc ∧ t.aon.zt = s.aon.zt)
    ∧ (s.aon.fc.st = .safe →
      ∃ t, exec (.park false v) s = .next (emit t (.mmio 0 0)) ∧ t = { s with aon := t.aon, fresh := t.fresh }
        ∧ Crosses s t 0x04 0x060 0 0x2C))
  ∧ ((∀ (s : State) (r : Rail), railLevel s r = true → s.boot.phase ≠ .cold → s.pins.railArm = true → s.aon.fc.st ≠ .safe →
    ∃ t, exec (.pgoodFall r) s = .next t ∧ railLevel t r = false ∧ (∀ q, q ≠ r → railLevel t q = railLevel s q)
      ∧ t = { s with pins := t.pins, aon := t.aon, fresh := t.fresh } ∧ Crosses s t 0x01 (railBits t) 0 0x40)
  ∧ (∀ (s : State) (r : Rail), railLevel s r = false →
    ∃ t, exec (.pgoodRise r) s = .next t ∧ railLevel t r = true ∧ (∀ q, q ≠ r → railLevel t q = railLevel s q)
      ∧ (s.boot.phase ≠ .cold → t = { s with pins := t.pins, aon := { s.aon with fc := { s.aon.fc with quiet := s.aon.fc.acyc } } })
      ∧ (s.boot.phase = .cold → t = { s with pins := t.pins }))
  ∧ (∀ s : State, s.boot.phase = .railWait → s.pins.pgT = true → s.pins.pgM = true → s.pins.pgL = true →
    ∃ t, exec .railWaitEnd s = .next t ∧ t = { s with
        pins := { s.pins with railArm := true }, boot := { s.boot with phase := .resetting, rstBy := 0 }, clk := t.clk }
      ∧ s.clk.req ≤ t.clk.req
      ∧ (Canon s → ∀ d, d < 64 → (isl s d).ps = .waking → bankUnnamed s d = false → wakeCovered t d = true ∧ (isl t d).ps = .waking)))

/-- R355: a cold reset takes every register to its reset value, whatever the block was doing, and its end samples the straps into
rail wait; only the levels of the pins and what is already on the outputs stay. R356, R358: the end of a block reset samples the
tie-offs, counts in MZ_FC_BLKCNT and sets LASTRST; after PARK the block waits for its rails, otherwise it runs (after a reset from
SAFE by BLKRST with EXITED set, Table 16-8), and the boot ROM
loads from a nonzero MZ_PUP_FW or waits. -/
def Obligations.ResetsBeginAndEnd : Prop :=
  ((∀ (s : State) (c : ColdCause), ∃ t, exec (.coldReset c) s = .next t ∧ t.boot.phase = .cold ∧ c ∈ t.boot.coldBy
    ∧ t.pins.railArm = false ∧ (c = .porst → t.pins.porstN = false) ∧ (c = .pgoodA → t.pins.pgA = false)
    ∧ t = { State.reset with pending := s.pending, boot := { State.reset.boot with phase := .cold, coldBy := t.boot.coldBy },
                             pins := t.pins, out := s.out, fresh := s.fresh, order := s.order })
  ∧ (∀ (s : State) (st : Straps), s.boot.phase = .cold →
    exec (.coldResetEnd st) s = .next { s with
      pins := { s.pins with porstN := true, pgA := true }, boot := { s.boot with phase := .railWait, straps := st, coldBy := [] } }))
  ∧ (∀ (s : State) (k : BitVec 384) (m : Byte), s.boot.phase = .resetting →
    ∃ t, exec (.blockResetDone k m) s = .next t ∧ t.boot.keyhash = k ∧ t.boot.minsvn = m
      ∧ t.boot.lastRst = (if s.boot.rstBy = 5 then 1 else s.boot.rstBy)
      ∧ t.aon.fc.blkcnt = s.aon.fc.blkcnt + 1
      ∧ (s.boot.rstBy = 4 → t.boot.phase = .railWait ∧ t.aon.fc.st = s.aon.fc.st)
      ∧ (s.boot.rstBy ≠ 4 → t.boot.phase = .running)
      ∧ (s.boot.rstBy = 5 → t.aon.fc.exited = true)
      ∧ (s.boot.rstBy ≠ 4 ∧ s.aon.fc.st = .normal → t.aon.fc.st = .normal
          ∧ t.boot.st = (if s.boot.pupFw = 0 then .wait else .loading)))

/-- R314, R315: an idle domain without policy bit 0 is gated, unless it is busy; a gated one has FREQ and VI 0, a quadrant's counters
are 0, a Mordant unit's generator is reseeded and a translation half's TLB is empty (Table 14-6); a need that came while it was gating
wakes it; a wake whose voltage VDD_T covers ends with the domain on at FMIN, and WAKES counts it. A bank group that no pool names stays
gated (R194). R362: a fall of MZ_WAKE_N wakes PD59 to PD63, and the firmware records event 0x0F01, whose entry is dropped when the
island's 16 places are taken (R346); a level held low, a rise, and a fall in a reset, in rail wait or in SAFE change the pin's level
alone (log 3). -/
def Obligations.DomainsGateAndWake : Prop :=
  ((∀ (s : State) (d : Dom), operating s = true → (isl s d.val).ps = .on → (isl s d.val).policy = false → domBusy s d.val = false →
    exec (.domainIdleExpire d) s = .next (setIsl s d.val { isl s d.val with ps := .gating }))
  ∧ (∀ (s : State) (d : Dom), Canon s → (isl s d.val).ps = .gating →
    ∃ t, exec (.domainGated d) s = .next t ∧ t = { s with clk := t.clk, path := t.path, xl := t.xl, aon := t.aon, fresh := t.fresh }
      ∧ ((isl s d.val).wantWake = false → (isl t d.val).ps = .gated ∧ (isl t d.val).freq = 0 ∧ (isl t d.val).vi = 0
          ∧ ∀ k, k ≠ d.val → isl t k = isl s k)
      ∧ ((isl s d.val).wantWake = true → operating s = true → bankUnnamed s d.val = false →
          d.val ∈ t.clk.wakeq ∨ (isl t d.val).ps = .waking)
      ∧ (8 ≤ d.val → d.val < 12 → kq t (d.val - 8) = {})
      ∧ (12 ≤ d.val → d.val < 20 → md t (d.val - 12) = { md s (d.val - 12) with
          gen := if (md s (d.val - 12)).seed = 0 then 1 else (md s (d.val - 12)).seed })
      ∧ (d.val = 56 ∨ d.val = 57 → t.xl.tlb = s.xl.tlb.filter fun e => e.half != d.val - 56))
  ∧ (∀ (s : State) (d : Dom), bankUnnamed s d.val = true → exec (.wakeRequest d) s = .next s)
  ∧ (∀ (s : State) (d : Dom), Canon s → (isl s d.val).ps = .gated → operating s = true → bankUnnamed s d.val = false →
    ∃ t, exec (.wakeRequest d) s = .next t ∧ (d.val ∈ t.clk.wakeq ∨ (isl t d.val).ps = .waking) ∧ t = { s with clk := t.clk })
  ∧ (∀ (s : State) (d : Dom), Canon s → (isl s d.val).ps = .waking → (isl s d.val).raise = false → s.boot.phase = .running →
    wakeCovered s d.val = true → s.clk.wakeq = [] →
    ∃ t, exec (.wakeComplete d) s = .next t ∧ (isl t d.val).ps = .on ∧ (isl t d.val).wakes = min ((isl s d.val).wakes + 1) 65535
      ∧ (isl t d.val).freq = wakeFreq d.val (isl s d.val) ∧ (isl t d.val).vi = wakeVi s d.val
      ∧ (∀ k, k ≠ d.val → isl t k = isl s k) ∧ t.img = s.img
      ∧ ((∀ e ∈ s.chans, e.2.fetchDue = none) → t.chans = s.chans)))
  ∧ (∀ s : State, Canon s → operating s = true → s.aon.fc.st ≠ .resetting → s.pins.wakeN = true →
    ∃ t, exec .wakeN s = .next t ∧ t.pins = { s.pins with wakeN := false }
      ∧ (∀ d, 59 ≤ d → d ≤ 63 → (isl s d).ps = .gated → d ∈ t.clk.wakeq ∨ (isl t d).ps = .waking)
      ∧ (if (s.aon.zt.q.filter fun e => e.ent.island == 0x3B).length < 16
          then ∃ e, t.aon.zt.q = s.aon.zt.q ++ [⟨e, false⟩] ∧ e.island = 0x3B ∧ e.code = 0x0F01 ∧ e.a0 = 0 ∧ e.a1 = 0
          else t.aon.zt.q = s.aon.zt.q)
      ∧ t = { s with pins := t.pins, clk := t.clk, aon := t.aon, fresh := t.fresh })
  ∧ (∀ s : State, s.pins.wakeN = false ∨ operating s = false →
    exec .wakeN s = .next { s with pins := { s.pins with wakeN := !s.pins.wakeN } })

/-! ### The fault collector -/

/-- R329: one event of a source counts once: C restarts when the window of 2^K A-cycles from the source's first event has passed,
LIFE counts every event, SEV rises once C reaches N (never for NOTE), and no other source changes. The event comes with the
A-cycle in which it arrives. R329: a window that closes sets C to 0 and leaves N, K, ACT, LIFE and SEV, at the A-cycle in which
it ends. -/
def Obligations.FaultEventsCountInWindows : Prop :=
  (∀ (s : State) (e : FaultEv), Canon s → s.boot.phase ≠ .cold → e.wf = true →
    ∃ t, exec (.faultEvent [e]) s = .next t
      ∧ (let x := src s e.src.val
         let base := if x.opn && decide (x.w0 + 2 ^ x.k ≤ s.aon.fc.acyc + 1) then 0 else x.c
         let c := min (base + 1) 255
         (src t e.src.val).c = c ∧ (src t e.src.val).life = min (x.life + 1) (2 ^ 24 - 1) ∧ (src t e.src.val).opn = true
           ∧ (src t e.src.val).sev = (x.sev || (decide (x.n ≤ c) && x.act != .note)))
      ∧ (∀ j, j ≠ e.src.val → src t j = src s j) ∧ t.aon.fc.acyc = s.aon.fc.acyc + 1)
  ∧ (∀ (s : State) (i : Fin 256), (src s i.val).opn = true →
    ∃ t, exec (.faultWindowClose i) s = .next t ∧ (Canon s → src t i.val = { src s i.val with opn := false, c := 0 })
      ∧ (Canon s → ∀ j, j ≠ i.val → src t j = src s j)
      ∧ t = { s with aon := { s.aon with fc := { s.aon.fc with
          src := t.aon.fc.src, acyc := max s.aon.fc.acyc ((src s i.val).w0 + 2 ^ (src s i.val).k) } } })

/-- R331, R333, R335: a source that becomes severe with ACT SAFE takes the block from NORMAL or ALERT to SAFE with itself as the cause
and freezes the record: every domain but PD44 and AON is gated, and links, lines, hub and stage memory are lost. One with ACT ALERT
takes it from NORMAL to ALERT and freezes the record. R333, R334, Table 16-2: a parity error of a configuration register reloads every
one of them, makes source 0x00 severe (freezing the record where it was not) and enters SAFE; ESCK A-cycles of ALERT without an ACK
enter SAFE with the same cause. -/
def Obligations.CollectorChangesState : Prop :=
  (∀ (s : State) (e : FaultEv), Canon s → s.boot.phase ≠ .cold → e.wf = true → (src s e.src.val).sev = false →
    (src s e.src.val).opn = false → (src s e.src.val).n ≤ min ((src s e.src.val).c + 1) 255 →
    ((src s e.src.val).act = .safe → s.aon.fc.st = .normal ∨ s.aon.fc.st = .alert →
      ∃ t, exec (.faultEvent [e]) s = .next t ∧ t.aon.fc.st = .safe ∧ t.aon.fc.cause = e.src.val ∧ t.aon.zt.frozen = true
        ∧ (∀ d, d < 64 → d ≠ 44 → (isl t d).ps = .gated) ∧ t.links = [] ∧ t.path.lines = [] ∧ t.hub = {} ∧ t.stage.mem = []
        ∧ t.img = s.img ∧ faultN t = false)
    ∧ ((src s e.src.val).act = .alert → s.aon.fc.st = .normal →
      ∃ t, exec (.faultEvent [e]) s = .next t ∧ t.aon.fc.st = .alert ∧ t.aon.fc.cause = e.src.val ∧ t.aon.zt.frozen = true
        ∧ t.aon.fc.acked = false ∧ t.links = s.links ∧ t.stage.mem = s.stage.mem ∧ t.img = s.img ∧ faultN t = false))
  ∧ ((∀ (s : State) (off : BitVec 12), Canon s → s.boot.phase ≠ .cold → fcConfig off.toNat = true →
    ∃ t, exec (.collectorParityError off) s = .next t ∧ t.aon.fc.st = .safe ∧ t.aon.fc.cause = 0 ∧ (src t 0).sev = true
      ∧ t.aon.zt.frozen = (s.aon.zt.frozen || !(src s 0).sev) ∧ t.aon.fc.autox = true ∧ t.aon.fc.esc = true
        ∧ t.aon.fc.zthaw = false ∧ t.aon.fc.autoload = false
      ∧ t.aon.fc.rlim = 4 ∧ t.aon.fc.esck = 26 ∧ t.aon.fc.quietk = 27 ∧ t.aon.fc.reimg = 0
      ∧ (∀ j, (src t j).n = (srcDflt j).n ∧ (src t j).k = (srcDflt j).k ∧ (src t j).act = (srcDflt j).act
          ∧ (src t j).life = (src s j).life))
  ∧ (∀ s : State, s.aon.fc.st = .alert → s.aon.fc.esc = true → s.aon.fc.acked = false →
    ∃ t, exec .escalationExpire s = .next t ∧ t.aon.fc.st = .safe ∧ t.aon.fc.cause = s.aon.fc.cause ∧ t.stage.mem = []
      ∧ t.links = []))

/-- R336, R337: EXIT in SAFE with the rails good, and an automatic exit that RLIM allows, count in RECOV, clear every SEV flag and
enter RESETTING with a block reset; one exit more than RLIM within 2^31 A-cycles sets STUCK and stays in SAFE. -/
def Obligations.ExitsFromSafe : Prop :=
  (∀ (s : State) (ns : Bool) (v : W32), Canon s → Served s 0x2008 ns true → s.aon.fc.st = .safe → bitOf v 2 = false →
    s.pins.pgT = true → s.pins.pgM = true → s.pins.pgL = true → s.pins.pgA = true →
    ∃ t, exec (.exit ns v) s = .next t ∧ t.aon.fc.st = .resetting ∧ t.aon.fc.recov = min (s.aon.fc.recov + 1) 65535
      ∧ (∀ i, (src t i).sev = false) ∧ t.boot.phase = .resetting ∧ t.boot.rstBy = 2 ∧ t.img = none ∧ t.chans = []
      ∧ t.aon.fc.cause = s.aon.fc.cause)
  ∧ (∀ s : State, Canon s → s.aon.fc.st = .safe → s.aon.fc.autox = true → s.aon.fc.stuck = false → calm s = true →
    (let now := max s.aon.fc.acyc (s.aon.fc.quiet + 2 ^ s.aon.fc.quietk)
     let recent := s.aon.fc.exits.filter fun e => decide (now < e + 2 ^ 31)
     (recent.length + 1 ≤ s.aon.fc.rlim → s.boot.phase = .running →
        ∃ t, exec .automaticExit s = .next t ∧ t.aon.fc.st = .resetting ∧ t.aon.fc.exits = recent ++ [now]
          ∧ (∀ i, (src t i).sev = false) ∧ t.boot.phase = .resetting ∧ t.boot.rstBy = 3
          ∧ t.aon.fc.recov = min (s.aon.fc.recov + 1) 65535)
     ∧ (s.aon.fc.rlim < recent.length + 1 →
        exec .automaticExit s = .next { s with aon := { s.aon with fc := { s.aon.fc with
          acyc := now, exits := recent, stuck := true } } })))

/-- R330, R333: ACK stops the escalation of the present ALERT and does nothing else; MZ_FC_SEV_k, and CLRALL for every source whose SEV
is 1 (log 41), clear SEV, close the window and set C to 0, and ALERT ends with the last SEV flag, of either write. R328, R330: a write
of a source's configuration sets K, closes its window and sets C to 0; N of 0 and ACT of 3 leave those fields, and sources 0x00 and 0x01
keep N and ACT. R341: the key 0xB10C starts a block reset outside RESETTING, which takes the switched domains to their reset values and
keeps the collector, the clock page (R373) and the record, to which event 0x0600 comes (`resetLog`, R346); any other value does nothing.
R340: GO names a context or a group and sets BUSY; once nothing of the target is under way (no line, record, written tile, SIGNAL,
ARRIVE or handle) its channels return to IDLE with the list pointer at the descriptor that was executing, and BUSY is 0; 2^16 A-cycles
of BUSY set FAIL, raise one event of source 0x11 and refuse the target's doorbells. -/
def Obligations.CollectorRegisters : Prop :=
  ((∀ (s : State) (ns : Bool) (v : W32), Served s 0x2008 ns true → s.aon.fc.st = .alert → bitOf v 1 = false → bitOf v 2 = false →
    exec (.ack ns v) s = .next (emit { s with aon := { s.aon with fc := { s.aon.fc with acked := true } } } (.mmio 0 0)))
  ∧ (∀ (s : State) (ns : Bool) (v : W32), Canon s → Served s 0x2008 ns true → s.aon.fc.st = .alert → bitOf v 1 = false →
    (∀ i, i < 256 → srcReserved i = true → (src s i).sev = false) →
    ∃ t, exec (.clrall ns v) s = .next t ∧ t.aon.fc.st = .normal ∧ (∀ i, i < 256 → (src t i).sev = false)
      ∧ (∀ i, i < 256 → (src s i).sev = true → (src t i).c = 0 ∧ (src t i).opn = false)
      ∧ (∀ i, (src t i).life = (src s i).life ∧ (src t i).n = (src s i).n ∧ (src t i).k = (src s i).k))
  ∧ (∀ (s : State) (k : Fin 8) (ns : Bool) (v : W32), Canon s → Served s (0x2040 + 4 * k.val) ns true →
    ∃ t, exec (.sevClear k ns v) s = .next t
      ∧ (∀ b, b < 32 → bitOf v b = true → srcReserved (32 * k.val + b) = false →
          src t (32 * k.val + b) = { src s (32 * k.val + b) with sev := false, opn := false, c := 0 })
      ∧ (∀ j, (j < 32 * k.val ∨ 32 * k.val + 32 ≤ j ∨ bitOf v (j - 32 * k.val) = false) → src t j = src s j)
      ∧ (s.aon.fc.st ≠ .alert → t.aon.fc.st = s.aon.fc.st)
      ∧ (s.aon.fc.st = .alert → anySevere s = true → t.aon.fc.st = if anySevere t then .alert else .normal)))
  ∧ (∀ (s : State) (i : Fin 256) (ns : Bool) (v : W32), Served s (0x2800 + 8 * i.val) ns true → srcReserved i.val = false →
    exec (.fsCfgWrite i ns v) s = .next (emit (setSrc s i.val { src s i.val with
      k := fld v 8 5, opn := false, c := 0
      n := if i.val < 2 ∨ fld v 0 8 = 0 then (src s i.val).n else fld v 0 8
      act := if i.val < 2 then (src s i.val).act
             else if fld v 16 2 = 0 then .note else if fld v 16 2 = 1 then .alert else if fld v 16 2 = 2 then .safe
             else (src s i.val).act }) (.mmio 0 0)))
  ∧ (∀ (s : State) (ns : Bool) (v : W32), Served s 0x200C ns true →
    (fld v 0 16 = 0xB10C → s.aon.fc.st ≠ .resetting →
      ∃ t, exec (.blkrst ns v) s = .next t ∧ t.boot.phase = .resetting
        ∧ t.boot.rstBy = (if s.aon.fc.st = .safe then 5 else 1) ∧ t.img = none ∧ t.chans = []
        ∧ t.ctxs = [] ∧ t.links = [] ∧ t.path = {} ∧ t.stage = {} ∧ t.hub = {} ∧ t.xl = {} ∧ t.ports = {}
        ∧ t.aon.fc = s.aon.fc ∧ t.pins = s.pins ∧ t.boot.pupFw = s.boot.pupFw
        ∧ t.aon.zt = (resetLog s 0).aon.zt
        ∧ (Canon s → s.aon.zt.frozen = false → t.aon.zt.next = (s.aon.zt.next + 1) % 8192
            ∧ (tget (fun _ => {}) t.aon.zt.ent s.aon.zt.next).code = 0x0600)
        ∧ (Canon s → ∀ i, isl t i = { isl s i with hi := 0, lo := 0, wantWake := false })
        ∧ t.clk = { s.clk with isl := t.clk.isl, wakeq := [] })
    ∧ (fld v 0 16 ≠ 0xB10C ∨ s.aon.fc.st = .resetting → exec (.blkrst ns v) s = .next (emit s (.mmio 0 0))))
  ∧ ((∀ (s : State) (ns : Bool) (v : W32), Served s 0x2010 ns (!reNs s (bitOf v 8) (fld v 0 6)) → s.aon.fc.reBusy = false →
    (bitOf v 8 = true → fld v 0 6 < 32) →
    exec (.reinit ns v) s = .next (emit { s with aon := { s.aon with fc := { s.aon.fc with
      reFail := s.aon.fc.reFail && !bitOf v 30, reKind := bitOf v 8, reTarget := fld v 0 6
      reBusy := true, goKind := bitOf v 8, goTarget := fld v 0 6, goTimed := false } } } (.mmio 0 0)))
  ∧ (∀ s : State, Canon s → s.aon.fc.reBusy = true → operating s = true →
    (reChans s s.aon.fc.goKind s.aon.fc.goTarget).all (reStill s) = true →
    ∃ t, exec .reinitDone s = .next t ∧ t.aon.fc.reBusy = false
      ∧ (∀ c, c < 512 → reTarget s s.aon.fc.goKind s.aon.fc.goTarget c = true →
          (chan t c).st = .idle ∧ (chan t c).stream = none ∧ (chan t c).pending = false ∧ (chan t c).seq = (chan s c).seq
          ∧ (chan t c).head = (match (chan s c).stream with | some x => BitVec.ofNat 52 x.addr | none => (chan s c).head)))
  ∧ (∀ s : State, Canon s → s.aon.fc.reBusy = true → s.aon.fc.goTimed = false →
    ∃ t, exec .reinitTimeout s = .next t ∧ t.aon.fc.reFail = true ∧ t.aon.fc.reBusy = true
      ∧ Crosses s t 0x11 s.aon.fc.goTarget (flag s.aon.fc.goKind 0) 0x40
      ∧ (∀ c, c < 512 → (chan t c).blocked = ((chan s c).blocked || reTarget s s.aon.fc.goKind s.aon.fc.goTarget c))))

/-! ### Zoetrope and the world-notice register -/

/-- R348, R349, R326: FREEZE freezes the record and THAW releases it and clears LOST; a read of word 7 returns it and moves IDX to the
next entry; WN_CLR clears VALID and COUNT of the world-notice register. R364, R365: two offset bytes select a register of the collector or
Zoetrope page for the sideband; a read returns its bytes, least significant first, sampled at the first, and the offset advances after the
fourth; what is not accepted is not acknowledged and changes nothing. That a misaligned offset is not acknowledged, and that a data write
with no register selected is not, is the model's choice (log 53). -/
def Obligations.RecordRegisters : Prop :=
  (∀ (s : State) (ns : Bool) (v : W32), Served s 0x3000 ns true → bitOf v 1 = false →
    ∃ t, exec (.freeze ns v) s = .next (emit t (.mmio 0 0)) ∧ t = { s with aon := { s.aon with zt := t.aon.zt } }
      ∧ t.aon.zt.frozen = true ∧ t.aon.zt.logpwr = bitOf v 2)
  ∧ (∀ (s : State) (ns : Bool) (v : W32), Served s 0x3000 ns true → bitOf v 0 = false → s.aon.zt.frozen = true →
    ∃ t, exec (.thaw ns v) s = .next (emit t (.mmio 0 0)) ∧ t = { s with aon := { s.aon with zt := t.aon.zt } }
      ∧ t.aon.zt.frozen = false ∧ t.aon.zt.lost = 0 ∧ t.aon.zt.next = (s.aon.zt.next + 1) % 8192)
  ∧ (∀ (s : State) (ns : Bool), Served s 0x302C ns true →
    exec (.ztWord7Read ns .clean) s = .next (emit { s with aon := { s.aon with zt := { s.aon.zt with
      bad := false, idx := s.aon.zt.idx + 1 } } } (.mmio 0 (ztWord s s.aon.zt.idx.toNat 7))))
  ∧ (∀ (s : State) (ns : Bool) (v : W32), Served s 0x104C ns true →
    exec (.wnClr ns v) s = .next (emit { s with aon := { s.aon with wn := { s.aon.wn with valid := false, count := 0 } } }
      (.mmio 0 0)))
  ∧ (∀ (s : State) (hi lo : Byte),
    let o := 256 * hi.toNat + lo.toNat
    (sbServed s = true → o / 2 ^ 12 % 8 = 0 → o % 4 = 0 →
      exec (.sidebandOffsetWrite hi lo) s = .next (emit { s with aon := { s.aon with sb := { s.aon.sb with
        sel := true, zt := decide (2 ^ 15 ≤ o), off := BitVec.ofNat 12 o, byte := 0 } } } (.sbAck true)))
    ∧ (sbServed s = false ∨ o / 2 ^ 12 % 8 ≠ 0 ∨ o % 4 ≠ 0 → exec (.sidebandOffsetWrite hi lo) s = .next (emit s (.sbAck false))))
  ∧ (∀ (s : State) (e : Ecc), sbServed s = true → s.aon.sb.sel = true →
    let x := s.aon.sb
    let o := x.off.toNat
    (x.byte = 0 → x.zt = false →
      exec (.sidebandRead e) s = .next (emit { s with aon := { s.aon with sb := { x with word := fcRead s o, byte := 1 } } }
        (.sb (BitVec.ofNat 8 (fcRead s o).toNat))))
    ∧ (x.byte = 0 → x.zt = true → (o < 0x010 ∨ 0x030 ≤ o) →
      exec (.sidebandRead e) s = .next (emit { s with aon := { s.aon with sb := { x with word := ztRead s x.sidx.toNat o, byte := 1 } } }
        (.sb (BitVec.ofNat 8 (ztRead s x.sidx.toNat o).toNat))))
    ∧ (0 < x.byte → x.byte < 4 → exec (.sidebandRead e) s = .next (emit { s with aon := { s.aon with sb :=
        (if x.byte = 3 then { x with byte := 0, off := x.off + 4 } else { x with byte := x.byte + 1 }) } }
        (.sb (BitVec.ofNat 8 (x.word.toNat / 2 ^ (8 * x.byte)))))))
  ∧ (∀ (s : State) (d : Vector Byte 4), sbServed s = false ∨ s.aon.sb.sel = false ∨ s.aon.sb.zt = false ∨ s.aon.sb.off ≠ 0x00C →
    exec (.sidebandIdxWrite d) s = .next (emit s (.sbAck false)))

/-! ### Clocks, voltage, temperature and power -/

/-- R308: at the end of an adaptation window of a powered island that is not fixed, a busy fourth window in a row (90 % and more) takes
FMAX as the target, a sixteenth window of 50 % and less lowers it by 200 MHz, not below FMIN, and any other keeps it, within the limits.
R309, R310: a powered island steps toward the highest target of its mover's powered clusters by at most 25 MHz, upward only at a VI that
covers it, which it raises first, and takes the VI of the target with the last step down; the end of the settling time gives every island
that waits the VI of its target, as far as REQ covers it, but for one whose target has fallen below its frequency, which keeps its VI, and
one that is waking, which takes its VI as its wake ends; lowering takes MZ_VDDT_REQ to the least code that covers every island, but not
before the block runs (R351). R312: a negative delay margin clears a powered island's MARGIN and counts its stretched edges; its return
sets MARGIN. The frequency's VI is a free value (log 8). -/
def Obligations.IslandsAdapt : Prop :=
  (∀ (s : State) (d : Isl) (u : Fin 101), Canon s → adaptive d.val = true → (isl s d.val).ps = .on → (isl s d.val).fixed = false →
    s.clk.throttle = false →
    ∃ t, exec (.adaptiveWindowEnd d u) s = .next t ∧ t = { s with clk := t.clk }
      ∧ (90 ≤ u.val → 3 ≤ (isl s d.val).hi → (isl t d.val).target = (isl s d.val).fmax)
      ∧ (u.val ≤ 50 → (isl s d.val).lo = 15 →
          (isl t d.val).target = min (isl s d.val).fmax (max (isl s d.val).fmin ((isl s d.val).target - 200)))
      ∧ (50 < u.val → u.val < 90 → (isl t d.val).target = min (isl s d.val).fmax (max (isl s d.val).fmin (isl s d.val).target)
          ∧ (isl t d.val).hi = 0 ∧ (isl t d.val).lo = 0))
  ∧ ((∀ (s : State) (d : Isl), adaptive d.val = true → (isl s d.val).ps = .on →
    ((isl s d.val).freq < effTarget s d.val → (isl s d.val).raise = false →
      exec (.freqStep d) s = .next (if (isl s d.val).vi.toNat < (islVi s d.val (effTarget s d.val)).toNat then adapt s d.val
        else setIsl s d.val { isl s d.val with freq := min (effTarget s d.val) ((isl s d.val).freq + 25) }))
    ∧ (effTarget s d.val < (isl s d.val).freq →
      exec (.freqStep d) s = .next (setIsl s d.val { isl s d.val with
        freq := max (effTarget s d.val) ((isl s d.val).freq - 25)
        vi := if (isl s d.val).freq - 25 ≤ effTarget s d.val then coveredVi s d.val (effTarget s d.val) else (isl s d.val).vi })))
  ∧ (∀ s : State, Canon s → s.clk.settling = true →
    ∃ t, exec .vddtSettleExpire s = .next t ∧ t = { s with clk := t.clk } ∧ t.clk.settling = false ∧ t.clk.req = s.clk.req
      ∧ (∀ d, d < 64 → (isl t d).raise = false ∧ (isl t d).freq = (isl s d).freq
          ∧ ((isl s d).raise = false → isl t d = isl s d)
          ∧ ((isl s d).raise = true → (isl t d).vi = if (isl s d).ps = .waking ∨ loopFreq s d < (isl s d).freq then (isl s d).vi
              else coveredVi s d (loopFreq s d))))
  ∧ (∀ s : State, s.boot.phase = .running →
    exec .vddtLowerExpire s = .next { s with clk := { s.clk with req := min s.clk.req (needCode s) } })
  ∧ (∀ s : State, s.boot.phase ≠ .running → exec .vddtLowerExpire s = .next s))
  ∧ (∀ (s : State) (d : Isl), monitored s d.val = true →
    (∀ n : BitVec 16, exec (.delayMarginNegative d n) s = .next (setIsl s d.val { isl s d.val with
      margin := false, stretch := min ((isl s d.val).stretch + n.toNat) 65535 }))
    ∧ exec (.marginReturn d) s = .next (setIsl s d.val { isl s d.val with margin := true }))

/-- R313: a sensor at TLIM or above lowers every powered adaptive island's target by 25 MHz, one with FIXED too (log 44), not below
FMIN, and throttles; at 105 °C it raises one event of source 0x02. A temperature below TLIM ends the throttle. R315, R317, Table 14-7:
MZ_ISL_LIM takes FMIN, FMAX and FIXED when both are frequencies of the island in order, with the target moved into the limits, which
rises only while nothing throttles (log 19), and refuses the write otherwise; MZ_ISL_PWR takes POLICY and, from 4 on, IDLEK, and POLICY
ON wakes a gated domain, but for a bank group that no pool names (R194). -/
def Obligations.IslandRegistersAndLimits : Prop :=
  ((∀ (s : State) (i : Fin 16) (x : Byte), Canon s → s.boot.phase ≠ .cold → s.clk.tlim ≤ x.toNat →
    ∃ t, exec (.thermalLimit i x) s = .next t ∧ t = { s with clk := t.clk, aon := t.aon, fresh := t.fresh } ∧ t.clk.throttle = true
      ∧ t.clk.temp = max s.clk.temp x.toNat
      ∧ (∀ d, d < 64 → adaptive d = true → (isl s d).ps = .on →
          (isl t d).target = max (isl s d).fmin ((isl s d).target - 25))
      ∧ (105 ≤ x.toNat → Crosses s t 0x02 i.val x.toNat 0x40) ∧ (x.toNat < 105 → t.aon = s.aon))
  ∧ (∀ (s : State) (i : Fin 16) (x : Byte), s.boot.phase ≠ .cold → x.toNat < s.clk.tlim →
    exec (.thermalLimit i x) s = .next { s with clk := { s.clk with temp := max s.clk.temp x.toNat } })
  ∧ (∀ (s : State) (x : Byte), s.boot.phase ≠ .cold → x.toNat < s.clk.temp →
    ∃ t, exec (.tempFall x) s = .next t ∧ t.clk = { s.clk with
        temp := x.toNat, throttle := s.clk.throttle && decide (s.clk.tlim ≤ x.toNat) }
      ∧ t = { s with clk := t.clk, aon := { s.aon with fc := { s.aon.fc with quiet := t.aon.fc.quiet } } }))
  ∧ ((∀ (s : State) (d : Isl) (ns : Bool) (v : W32), Served s (0x4004 + 0x10 * d.val) ns (islSecure s d.val) → adaptive d.val = true →
    (freqOk d.val (fld v 0 11) = true → freqOk d.val (fld v 16 11) = true → fld v 0 11 ≤ fld v 16 11 →
      let u := setIsl s d.val { isl s d.val with
        fmin := fld v 0 11, fmax := fld v 16 11, fixed := bitOf v 31
        target := if s.clk.throttle then min (fld v 16 11) (isl s d.val).target
          else if bitOf v 31 then fld v 16 11 else min (fld v 16 11) (max (fld v 0 11) (isl s d.val).target) }
      exec (.islLimWrite d ns v) s
        = .next (emit (if (isl s d.val).ps = .waking then startWake u d.val else adaptMates u d.val) (.mmio 0 0)))
    ∧ (fld v 16 11 < fld v 0 11 ∨ freqOk d.val (fld v 0 11) = false ∨ freqOk d.val (fld v 16 11) = false →
      ∃ t, exec (.islLimWrite d ns v) s = .next (emit t (.mmio 0 0)) ∧ t = { s with aon := t.aon, fresh := t.fresh }
        ∧ Crosses s t 0x04 (0x4004 + 0x10 * d.val) 0 0x2C))
  ∧ (∀ (s : State) (d : Isl) (ns : Bool) (v : W32), Served s (0x4008 + 0x10 * d.val) ns (islSecure s d.val) →
    let x := isl s d.val
    let y := { x with policy := bitOf v 0, idlek := if 4 ≤ fld v 8 4 then fld v 8 4 else x.idlek }
    (Canon s → bitOf v 0 = false ∨ x.ps = .on ∨ x.ps = .waking ∨ d.val = 0x40 ∨ bankUnnamed s d.val = true →
      exec (.islPolicyWrite d ns v) s = .next (emit (setIsl s d.val y) (.mmio 0 0)))
    ∧ (Canon s → bitOf v 0 = true → d.val ≠ 0x40 → bankUnnamed s d.val = false →
      ∃ t, exec (.islPolicyWrite d ns v) s = .next (emit t (.mmio 0 0)) ∧ t = { s with clk := t.clk }
        ∧ (x.ps = .gating → isl t d.val = { y with wantWake := true } ∧ ∀ k, k ≠ d.val → isl t k = isl s k)
        ∧ (x.ps = .gated → (isl t d.val).policy = true ∧ (isl t d.val).idlek = y.idlek
            ∧ (d.val ∈ t.clk.wakeq ∨ (isl t d.val).ps = .waking)
            ∧ (s.clk.wakeq = [] → ∀ k, k ≠ d.val → isl t k = isl s k)))))

/-! ### Channels -/

/-- R49, R71: a doorbell in IDLE starts fetch at the list pointer and the channel runs; in any other valid state it sets PENDING,
once. The fetch goes out where the channel's quarter and its memory ports are powered, and waits for them otherwise (R32, R315). In
DISABLED, and with a misaligned completion ring, the doorbell is refused: LASTCODE is STATE and one event is raised. -/
def Obligations.DoorbellStartsFetchOrIsKept : Prop :=
  ∀ (s : State) (c : Ch) (ns : Bool) (v : W32), Served s (chOff c.val 0x08) ns (chanSecure s c.val) → Canon s →
    let x := chan s c.val
    let a := x.head.toNat / 512 * 512
    let bad := (4096 * x.cqBase.toNat) % (16 * 2 ^ x.log2n) ≠ 0
    ∃ t, exec (.doorbell c ns v) s = .next (emit t (.mmio 0 0)) ∧ (∀ d, d ≠ c.val → chan t d = chan s d)
      ∧ t = { s with
          chans := t.chans, clk := t.clk, aon := t.aon, fresh := t.fresh, order := t.order, out := t.out
          path := { s.path with nextId := t.path.nextId }, ports := { s.ports with own := t.ports.own } }
      ∧ (chState s c.val = .idle ∧ x.blocked = false ∧ ¬ bad → x.fetching = none → x.fetchDue = none →
          (fetchReady s c.val a = true → FetchSent s t c.val a) ∧ (fetchReady s c.val a = false → t.out = s.out)
          ∧ ∃ la, chan t c.val = { x with
              st := .running, fetching := if fetchReady s c.val a then some a else none
              fetchDue := if fetchReady s c.val a then none else some a
              fetchTries := 0, fetched := [], gen := x.gen + 1, stamp := s.order, la := la })
      ∧ (chState s c.val ≠ .disabled ∧ chState s c.val ≠ .idle ∧ x.blocked = false → t.out = s.out ∧ chan t c.val = { x with
          pending := true, pstamp := if x.pending then x.pstamp else s.order })
      ∧ (chState s c.val = .disabled → t.out = s.out ∧ chan t c.val = { x with lastCode := 2 }
          ∧ Crosses s t 0x04 (chOff c.val 8) 9 (feIsland c.val))
      ∧ (chState s c.val = .idle ∧ x.blocked = false ∧ bad → t.out = s.out ∧ chan t c.val = { x with lastCode := 2 }
          ∧ Crosses s t 0x04 (chOff c.val 8) 5 (feIsland c.val))

/-- R48, R71, R73: HALT takes a halted channel to IDLE, or to a new fetch when PENDING is 1, and does nothing otherwise; the list
pointer and the completion base are written in IDLE and HALTED, and a write elsewhere is ignored with one event. -/
def Obligations.ChannelRegistersAreWrittenAtRest : Prop :=
  (∀ (s : State) (c : Ch) (ns : Bool) (v : W32), Served s (chOff c.val 0x0C) ns (chanSecure s c.val) →
    let x := chan s c.val
    (chState s c.val = .halted ∧ x.pending = false →
      exec (.haltClear c ns v) s = .next (emit (setChan s c.val { x with st := .idle }) (.mmio 0 0)))
    ∧ (chState s c.val = .halted ∧ x.pending = true ∧ x.stream = none ∧ Canon s →
      ∃ t, exec (.haltClear c ns v) s = .next (emit t (.mmio 0 0))
        ∧ t = { s with
            chans := t.chans, clk := t.clk, out := t.out
            path := { s.path with nextId := t.path.nextId }, ports := { s.ports with own := t.ports.own } }
        ∧ (chan t c.val).st = .running ∧ (chan t c.val).pending = false ∧ (chan t c.val).head = x.head
        ∧ (8 ≤ x.la → storeRoom (setChan s c.val { x with fetched := [], fetching := none, fetchDue := none }) c.val
              (batchRoom x.head.toNat) = true →
            fetchReady s c.val (x.head.toNat / 512 * 512) = true → (∀ e ∈ s.ports.own, e.kind ≠ .fetch c.val) →
            FetchSent s t c.val (x.head.toNat / 512 * 512) ∧ (chan t c.val).fetching = some (x.head.toNat / 512 * 512)))
    ∧ (chState s c.val ≠ .halted → exec (.haltClear c ns v) s = .next (emit s (.mmio 0 0))))
  ∧ (∀ (s : State) (c : Ch) (r : ChReg) (ns : Bool) (v : W32),
    let off := chOff c.val (match r with | .headLo => 0 | .headHi => 4 | .cqLo => 0x10 | .cqHi => 0x14)
    Served s off ns (chanSecure s c.val) →
    let x := chan s c.val
    (chState s c.val = .idle ∨ chState s c.val = .halted →
      match r with
      | .headLo => exec (.channelRegWrite c r ns v) s = .next (emit (setChan s c.val { x with
          head := BitVec.ofNat 52 (2 ^ 32 * (x.head.toNat / 2 ^ 32) + 64 * fld v 6 26) }) (.mmio 0 0))
      | .headHi => exec (.channelRegWrite c r ns v) s = .next (emit (setChan s c.val { x with
          head := BitVec.ofNat 52 (x.head.toNat % 2 ^ 32 + 2 ^ 32 * fld v 0 20) }) (.mmio 0 0))
      | .cqLo => 4 ≤ fld v 0 4 → fld v 0 4 ≤ 12 → exec (.channelRegWrite c r ns v) s = .next (emit (setChan s c.val { x with
          cqBase := BitVec.ofNat 40 (2 ^ 20 * (x.cqBase.toNat / 2 ^ 20) + fld v 12 20), log2n := fld v 0 4 }) (.mmio 0 0))
      | .cqHi => exec (.channelRegWrite c r ns v) s = .next (emit (setChan s c.val { x with
          cqBase := BitVec.ofNat 40 (x.cqBase.toNat % 2 ^ 20 + 2 ^ 20 * fld v 0 20) }) (.mmio 0 0)))
    ∧ (chState s c.val ≠ .idle ∧ chState s c.val ≠ .halted →
      ∃ t, exec (.channelRegWrite c r ns v) s = .next (emit t (.mmio 0 0)) ∧ t = { s with aon := t.aon, fresh := t.fresh }
        ∧ Crosses s t 0x04 off 0 (feIsland c.val)))

/-- R51, R75, R174: a batch that arrives adds descriptors of the block in address order to those fetched; an ECC error is reread
three times before it counts, and WORLD and a timeout are not retried, the timeout with one event of source 0x0D. The whole rest of the
batch is kept, up to a descriptor that ends or leaves it. R207: each line that fails has its event at its own port; the first failure is
the batch's outcome. -/
def Obligations.FetchTakesABatchOrRetries : Prop :=
  ∀ (s : State) (c : Ch) (a : BatchAns) (blk pa : Nat), Canon s → (chan s c.val).fetching = some blk →
    (chan s c.val).fetchTries < 10 → locOf s blk = .ext pa → fetchGate s blk = false →
    let x := chan s c.val
    let again := fun t : State => (x.fetchTries < 3 → (chan t c.val).fetchTries = x.fetchTries + 1
          ∧ (fetchReady s c.val blk = true → ∃ o, t.out = o ++ [.fetch c.val blk (fetchIds t c.val)]))
        ∧ (3 ≤ x.fetchTries → (chan t c.val).fetchTries = 10 ∧ t.out = s.out)
    ∃ t, exec (.descriptorFetchDone c a) s = .next t ∧ t.hub = s.hub ∧ t.ctxs = s.ctxs ∧ t.img = s.img ∧ t.path.lines = s.path.lines
      ∧ t.stage.mem = s.stage.mem ∧ (∀ d, d ≠ c.val → (chan t d).fetched = (chan s d).fetched ∧ stream t d = stream s d)
      ∧ match a with
        | .okay d => ∀ n, nextFetch x = some n → (chan t c.val).fetched = x.fetched ++ takeBatch d 8 n
        | .corrupt => (chan t c.val).fetched = x.fetched ∧ again t
        | .fails e k more => (chan t c.val).fetched = x.fetched
            ∧ (e = .timeout → (chan t c.val).fetchTries = 12
                ∧ (more = [] → Crosses s t 0x0D ((nextFetch x).getD blk) c.val (feIsland c.val)))
            ∧ (e = .world → (chan t c.val).fetchTries = 11) ∧ (e = .poison ∨ e = .error → again t)
            ∧ (∀ p, e ≠ .timeout → locOf s (blk + 128 * k.val) = .ext p → more = [] →
                ∃ u, t.aon.fc.evq = u.aon.fc.evq ∧ Crosses s u (0x88 + memPortOf s p) p (rdResp e) (0x2C + memPortOf s p / 2))

/-- R19, R55, R75, R76: the next descriptor of a running channel with nothing in execution is decoded. One that passes every check
becomes the channel's stream, in a slot when no other stream waits and one is free; one that fails a check ends with STATE, with
the DETAIL of a failing check (which of several, log 6) and one event; a failed fetch ends as R75 says. -/
def Obligations.DecodeFormsAStreamOrRefuses : Prop :=
  ∀ (s : State) (c : Ch), Canon s → operating s = true → chState s c.val = .running → ctxRuns s c.val = true →
    (chan s c.val).stream = none → (chan s c.val).recOut = none →
    let x := chan s c.val
    let m := (chanCfg s c.val).mover
    ∃ t, exec (.descriptorDecode c) s = .next t ∧ t.stage.mem = s.stage.mem ∧ t.hub = s.hub
      ∧ match x.fetched with
        | (a, d) :: rest => (chan t c.val).fetched = rest
            ∧ (decodeFails s c.val d = [] → ∃ b, (chan t c.val).stream = some (mkStream a d .decoded b s.order)
                ∧ ((∀ e ∈ s.path.waitq, (chanCfg s e).mover ≠ m) → (slots s m).length < 16 → b = true))
            ∧ (decodeFails s c.val d ≠ [] → ∃ r ∈ decodeFails s c.val d,
                (chan t c.val).stream = some (mkStream a d (.done cSTATE r) false s.order)
                ∧ Crosses s t 0x04 a r (feIsland c.val))
        | [] => (x.fetchTries = 10 → (chan t c.val).stream = some (mkStream x.head.toNat 0 (.done cECC 1) false s.order))
            ∧ (x.fetchTries = 11 → (chan t c.val).stream = some (mkStream x.head.toNat 0 (.done cWORLD 4) false s.order))
            ∧ (x.fetchTries = 12 → (chan t c.val).stream = some (mkStream x.head.toNat 0 (.done cTIMEOUT 1) false s.order))
            ∧ (x.fetchTries < 10 → t = s)

/-- R52, R56, R71 to R73: a stream that has ended completes. Its record waits in CQ_FULL while the ring is full; otherwise SEQ
advances, LASTCODE is the code, the record carries code, SEQ and PHASE, and the channel halts behind an error, at the address of a
descriptor whose own fetch failed, rests behind END or runs on. -/
def Obligations.CompletionWritesItsRecord : Prop :=
  ∀ (s : State) (c : Ch) (x : Stream) (code d : Nat), Canon s → operating s = true → chState s c.val = .running →
    ctxRuns s c.val = true → (chan s c.val).recOut = none → stream s c.val = some x → x.st = .done code d → x.tiles = [] →
    (waitsAcks x = true → writesAcked s c.val = true) → dPersist x.desc = false → x.slotP = none → x.slotC = none →
    code < 12 → x.addr < 2 ^ 52 →
    (chanCfg s c.val).ctx < 64 →
    let k := chan s c.val
    let pa := 4096 * k.cqBase.toNat + 16 * k.tail.toNat
    let recs := dCrec x.desc = true ∨ 2 ≤ code
    (∃ p, locOf s pa = .ext p) →
    ∃ t, exec (.descriptorComplete c) s = .next t
      ∧ (recs ∧ cqIsFull k = true → (chan t c.val).st = .cqFull ∧ (chan t c.val).seq = k.seq ∧ t.out = s.out)
      ∧ (¬ (recs ∧ cqIsFull k = true) → (chan t c.val).seq = k.seq + 1 ∧ (chan t c.val).lastCode = BitVec.ofNat 4 code
          ∧ (recs → ∃ w0 w1, Out.record c.val pa w0 w1 ∈ t.out ∧ fld w0 0 4 = code ∧ bitOf w0 63 = k.phase
              ∧ fld w1 40 16 = (k.seq + 1).toNat)
          ∧ (2 ≤ code → (chan t c.val).st = .halted ∧ (chan t c.val).stream = none
              ∧ (chan t c.val).head = BitVec.ofNat 52 (if failedFetch k x code d then x.addr else nextAddr x.addr x.desc))
          ∧ (code < 2 → dChain x.desc = 2 → (chan t c.val).head = BitVec.ofNat 52 (x.addr + 64)
              ∧ (chan t c.val).pending = false ∧ (chan t c.val).st = (if k.pending then .running else .idle))
          ∧ (code < 2 → dChain x.desc ≠ 2 → (chan t c.val).st = .running ∧ (chan t c.val).stream = none))

/-- R71, R216: the acknowledgement of a record advances TAIL, inverts PHASE at the wrap and raises the interrupt that the
completion asks for; an answer other than OKAY halts the channel with WORLD or ECC in LASTCODE; a write of
MZ_CH_CQ_HEAD is kept. R191: a record that waits at a migrating pool's gate has no answer while the gate is closed. -/
def Obligations.RecordsEndAndHeadMoves : Prop :=
  (∀ (s : State) (c : Ch) (r : RecOut) (pa : Nat) (w : W64 × W64), (chan s c.val).recOut = some r → r.held = some (pa, w) →
    (anyGate s [locOf s pa] = true → exec (.completionRecordAck c) s = .next s)
    ∧ ∀ e : ErrResp, exec (.completionRecordError c e) s = .next s)
  ∧ (∀ (s : State) (c : Ch) (r : RecOut), Canon s → (chan s c.val).recOut = some r → r.held = none →
    let k := chan s c.val
    (∃ t, exec (.completionRecordAck c) s = .next t
      ∧ t = { s with chans := t.chans, ports := t.ports, path := t.path, out := t.out }
      ∧ chan t c.val = { k with
          recOut := none, tail := BitVec.ofNat 12 ((k.tail.toNat + 1) % 2 ^ k.log2n)
          phase := if (k.tail.toNat + 1) % 2 ^ k.log2n = 0 then !k.phase else k.phase }
      ∧ t.ports = { s.ports with
          chPend := if r.irq then putBit s.ports.chPend c.val true else s.ports.chPend, own := t.ports.own })
    ∧ ∀ e : ErrResp, ∃ t, exec (.completionRecordError c e) s = .next t ∧ (chan t c.val).st = .halted
      ∧ (chan t c.val).lastCode = (if e = .world then 7 else 10) ∧ (chan t c.val).recOut = none ∧ (chan t c.val).stream = none
      ∧ (chan t c.val).tail = k.tail ∧ t.ports.chPend = putBit s.ports.chPend c.val true)
  ∧ (∀ (s : State) (c : Ch) (ns : Bool) (v : W32), Served s (chOff c.val 0x18) ns (chanSecure s c.val) →
    (chan s c.val).st ≠ .cqFull →
    exec (.cqHeadWrite c ns v) s
      = .next (emit (setChan s c.val { chan s c.val with cqHead := BitVec.ofNat 12 (fld v 0 12) }) (.mmio 0 0)))

/-- R216, R374: a write of ones clears pending bits, and a non-secure write leaves those of secure channels and contexts. -/
def Obligations.PendingBitsAreClearedByWorld : Prop :=
  (∀ (s : State) (k : Fin 16) (ns : Bool) (v : W32), Served s (0x5000 + 4 * k.val) ns false →
    ∃ t, exec (.irqPendClear (.ch k) ns v) s = .next (emit t (.mmio 0 0))
      ∧ t = { s with ports := { s.ports with chPend := t.ports.chPend }, aon := t.aon, fresh := t.fresh }
      ∧ ∀ i < 512, t.ports.chPend.getLsbD i
          = (s.ports.chPend.getLsbD i && !(decide (i / 32 = k.val) && v.getLsbD (i % 32) && !(ns && chanSecure s i))))
  ∧ (∀ (s : State) (hi ns : Bool) (v : W32), Served s (if hi then 0x5084 else 0x5080) ns false →
    ∃ t, exec (.irqPendClear (if hi then .ctxHi else .ctxLo) ns v) s = .next (emit t (.mmio 0 0))
      ∧ t = { s with ports := { s.ports with ctxPend := t.ports.ctxPend }, aon := t.aon, fresh := t.fresh }
      ∧ ∀ i < 64, t.ports.ctxPend.getLsbD i
          = (s.ports.ctxPend.getLsbD i && !(decide (i / 32 = if hi then 1 else 0) && v.getLsbD (i % 32) && !(ns && ctxSecure s i))))
  ∧ (∀ (s : State) (ns : Bool) (v : W32), Served s 0x5090 ns (domSecure s 44) →
    exec (.irqPendClear .src ns v) s
      = .next (emit { s with ports := { s.ports with srcPend := s.ports.srcPend &&& ~~~v.setWidth 7 } } (.mmio 0 0)))

/-! ### Data descriptors start -/

/-- R54, R61 to R64, R102, R106: NOP completes at once; MOVE and GATHER start; a TENSOR reads and checks its shape record, a WHIRL reads
and checks its program with G0 to G3 from the descriptor. The answers to the reads of an index stream and of the lists are kept until a
tile needs them (R87, R88, R100). A record or program that fails a check is refused with STATE and one event (which DETAIL of several,
log 6), and a shape of too many pages ends with TILE_PAGES. R164, R170: a bound run whose turn and room have come reserves the next slot
of its ring: PRES or CRES advances, and the run holds the slot's number. -/
def Obligations.DataDescriptorsStartAndReserve : Prop :=
  ((∀ (s : State) (c : Ch) (x : Stream), Decoded s c.val x 0 → exec (.nop c) s = .next (ended s c.val x cOK 0))
  ∧ (∀ (s : State) (c : Ch) (x : Stream), Decoded s c.val x 1 → sidesLeft s c.val x = [] →
    exec (.move c) s = .next (setStream s c.val { x with st := .started }))
  ∧ (∀ (s : State) (c : Ch) (x : Stream) (b : List Byte) (i : RecAns), Canon s → Decoded s c.val x 2 → sidesLeft s c.val x = [] →
    x.shape = none → b.length = shapeLen ((b.getD 0 0).toNat % 8 + 1) → Readable s c.val x (tShape x.desc) b.length →
    let fails := shapeFails s c.val x.desc b
    let pages := if tIndex x.desc = 0 then pagesAtDecode x.desc (parseShape b) else none
    ∃ t, exec (.tensor c ⟨b, []⟩ i) s = .next t
      ∧ (fails = [] → ReadsOnly s t c.val)
      ∧ (fails = [] ∧ pages = none →
          stream t c.val = some { x with pre := [], st := .started, shape := some (parseShape b), idxRaw := some i })
      ∧ (∀ o, fails = [] → pages = some o → stream t c.val = some { x with pre := [], st := .done cPAGES o, wait := .none })
      ∧ (fails ≠ [] → ∃ r ∈ fails, Crosses s t 0x04 x.addr r (feIsland c.val)
          ∧ stream t c.val = some { x with pre := [], st := .done cSTATE r, wait := .none }))
  ∧ (∀ (s : State) (c : Ch) (x : Stream) (h : Shape) (a i : RecAns), Decoded s c.val x 2 → sidesLeft s c.val x = [] → x.shape = some h →
    exec (.tensor c a i) s = .next (setStream s c.val { x with st := .started, idxRaw := some i }))
  ∧ (∀ (s : State) (c : Ch) (x : Stream) (a b : RecAns), Decoded s c.val x 3 → sidesLeft s c.val x = [] →
    exec (.gather c a b) s = .next (setStream s c.val { x with st := .started, sRaw := some a, dRaw := some b }))
  ∧ (∀ (s : State) (c : Ch) (x : Stream) (b : List Byte), Canon s → Decoded s c.val x 4 → sidesLeft s c.val x = [] → x.whirl = none →
    b.length = 8 * (wNinst x.desc + 1) → Readable s c.val x (wProg x.desc) b.length →
    let p := progWords b (wNinst x.desc + 1)
    ∃ t, exec (.whirl c ⟨b, []⟩) s = .next t
      ∧ (programFails p = [] → ReadsOnly s t c.val
          ∧ stream t c.val = some { x with pre := [], st := .started, whirl := some (whirlInit x.desc p) })
      ∧ (programFails p ≠ [] → ∃ r ∈ programFails p, Crosses s t 0x04 x.addr r (feIsland c.val)
          ∧ stream t c.val = some { x with pre := [], st := .done cSTATE r, wait := .none })))
  ∧ (∀ (s : State) (c : Ch) (x : Stream) (prod : Bool) (r : Nat), Canon s → Acts s c.val x → x.st = .decoded →
    sidesLeft s c.val x = [prod] → boundRing s c.val prod = some r → canReserve s c.val prod = true → (chan s c.val).recOut = none →
    (chanSecure s c.val = true ∨ ringSecure s r = false) →
    let y := ring s r
    ∃ t, exec (.boundRunReserve c) s = .next t ∧ t = { s with chans := t.chans, hub := t.hub }
      ∧ (∀ q, q ≠ r → ring t q = ring s q) ∧ (∀ d, d ≠ c.val → chan t d = chan s d)
      ∧ (prod = true → ring t r = { y with
            pres := (y.pres + 1) % (y.nm1 + 1), ordP := y.ordP + 1, resP := y.resP ++ [(y.ordP, false)] }
          ∧ stream t c.val = some { x with slotP := some (r, y.ordP, y.pres) })
      ∧ (prod = false → ring t r = { y with
            cres := (y.cres + 1) % (y.nm1 + 1), ordC := y.ordC + 1, resC := y.resC ++ [(y.ordC, false)] }
          ∧ stream t c.val = some { x with slotC := some (r, y.ordC, y.cres) }))

/-- R22, R61, R86: the next tile of a MOVE holds the element pairs from its cursor on, in order (`moveTile`), and the run has no more
tiles once every pair has been in one; before them it has the earlier pairs of the run that lie in its first byte, so that one tile
writes that byte whole, which is the model's choice (`moveLead`, log 26); a tile whose regions are all translated and that names no
absent core port passes its pre-walk with its groups formed. -/
def Obligations.TilesAreGeneratedAndPrewalked : Prop :=
  (∀ (s : State) (c : Ch) (x : Stream), Acts s c.val x → x.st = .started → dType x.desc = 1 → x.tiles = [] → x.last = false →
    let n := mCnt x.desc
    (x.mcur < n.1 * n.2.1 * n.2.2 →
      let ps := moveTile s x x.mcur
      let all := moveLead s x x.mcur ++ ps
      exec (.tilePrewalk c) s = .next (setStream s c.val { x with
        mcur := x.mcur + ps.length, tno := x.tno + 1
        tiles := [{ no := x.tno, att := 0, run := 0, pairs := all, srcs := dedup (all.flatMap (pairSrcLines x))
                    need := tileReqs x all, xset := [], xgen := 0, xasid := 0, walked := false, groups := []
                    bytes := tileBytes x all, wrote := false, strad := [] }] })
        ∧ 0 < ps.length ∧ ∀ k < ps.length, ps[k]? = some (movePair s x (x.mcur + k)))
    ∧ (n.1 * n.2.1 * n.2.2 ≤ x.mcur → x.slotP = none → x.slotC = none →
      exec (.tilePrewalk c) s = .next (setStream s c.val { x with last := true })))
  ∧ (∀ (s : State) (c : Ch) (x : Stream) (t : Tile), Acts s c.val x → x.st = .started → isData x.desc = true → x.tiles = [t] →
    t.walked = false → (∀ q ∈ t.need, reqMet t.xset q = true ∧ walkPending s c.val q.region = false) →
    let gs := mkGroups s x (chanCfg s c.val).mover x.gno t
    (∀ g ∈ gs, ∀ l ∈ groupLocs g, absentCore s l = false) →
    exec (.tilePrewalk c) s
      = .next (setStream s c.val { x with gno := x.gno + gs.length, tiles := [{ t with walked := true, groups := gs }] }))

/-! ### Whirligig -/

/-- R106, Table 04-5: each arithmetic instruction writes its result to G[RD] and goes on to the next instruction; BREV reverses the
low n bits and DREV the low n digits of m bits, upper bits 0. R106, R107, Table 04-5: the branches, EMIT, and the two ends of a
program. EMIT appends a run of G[RD] pairs with signed offsets; a run that would pass 2^40 − 1 bytes is cut there and the
program stops. -/
def Obligations.WhirligigRuns : Prop :=
  (∀ (s : State) (c : Ch) (x : Stream) (w : Whirl) (i : W64),
    let a := greg w (iRa i)
    let b := greg w (iRb i)
    let k := BitVec.ofNat 32 (iImm i)
    let n := iImm i % 32
    let done := fun v : W32 => whirlNext s c.val x w (w.g.setIfInBounds (iRd i) v) (w.pc + 1)
    (AtWhirl s c.val 0x01 x w i → exec (.whMovi c) s = .next (done k))
    ∧ (AtWhirl s c.val 0x02 x w i → exec (.whAdd c) s = .next (done (a + b)))
    ∧ (AtWhirl s c.val 0x03 x w i → exec (.whAddi c) s = .next (done (a + k)))
    ∧ (AtWhirl s c.val 0x04 x w i → exec (.whSub c) s = .next (done (a - b)))
    ∧ (AtWhirl s c.val 0x05 x w i → exec (.whMuli c) s = .next (done (a * k)))
    ∧ (AtWhirl s c.val 0x06 x w i → exec (.whAnd c) s = .next (done (a &&& b)))
    ∧ (AtWhirl s c.val 0x07 x w i → exec (.whOr c) s = .next (done (a ||| b)))
    ∧ (AtWhirl s c.val 0x08 x w i → exec (.whXor c) s = .next (done (a ^^^ b)))
    ∧ (AtWhirl s c.val 0x09 x w i → exec (.whShli c) s = .next (done (a <<< n)))
    ∧ (AtWhirl s c.val 0x0A x w i → exec (.whShri c) s = .next (done (a >>> n)))
    ∧ (AtWhirl s c.val 0x0B x w i → exec (.whSari c) s = .next (done (a.sshiftRight n)))
    ∧ (AtWhirl s c.val 0x0C x w i → ∃ v, exec (.whBrev c) s = .next (done v)
        ∧ ∀ j < 32, v.getLsbD j = (decide (j < (if n = 0 then 32 else n)) && a.getLsbD ((if n = 0 then 32 else n) - 1 - j)))
    ∧ (AtWhirl s c.val 0x0D x w i → ∃ v, exec (.whDrev c) s = .next (done v)
        ∧ ∀ m, iImm i / 256 % 4 = m → 1 ≤ m →
          ∀ j < 32, v.getLsbD j = (decide (j < n * m) && a.getLsbD ((n - 1 - j / m) * m + j % m))))
  ∧ (∀ (s : State) (c : Ch) (x : Stream) (w : Whirl) (i : W64),
    let a := greg w (iRa i)
    let b := greg w (iRb i)
    let tgt := iImm i % 32
    (AtWhirl s c.val 0x11 x w i → exec (.whDjnz c) s
        = .next (whirlNext s c.val x w (w.g.setIfInBounds (iRa i) (a - 1)) (if a - 1 ≠ 0 then tgt else w.pc + 1)))
    ∧ (AtWhirl s c.val 0x12 x w i → exec (.whBlt c) s
        = .next (whirlNext s c.val x w w.g (if a.toInt < b.toInt then tgt else w.pc + 1)))
    ∧ (AtWhirl s c.val 0x13 x w i → exec (.whBne c) s = .next (whirlNext s c.val x w w.g (if a ≠ b then tgt else w.pc + 1)))
    ∧ (AtWhirl s c.val 0x14 x w i → exec (.whJmp c) s = .next (whirlNext s c.val x w w.g tgt))
    ∧ (AtWhirl s c.val 0x00 x w i → exec (.whHalt c) s
        = .next (setStream s c.val { x with whirl := some { w with stopped := true } }))
    ∧ (AtWhirl s c.val 0x10 x w i → ∃ w', exec (.whEmit c) s = .next (setStream s c.val { x with whirl := some w' })
        ∧ w'.prog = w.prog ∧ w'.g = w.g ∧ w'.pc = w.pc + 1 ∧ w'.emits = w.emits + 1 ∧ w'.quiet = 0
        ∧ (let n := (greg w (iRd i)).toNat
          let db := fmtBits (dDfmt x.desc) / 8
          (0 < db → w.written + n * db ≤ 2 ^ 40 - 1 → w'.written = w.written + n * db
              ∧ w'.runs = w.runs ++ (if n = 0 then [] else [(a.toInt, b.toInt, n)])
              ∧ w'.stopped = decide (w.prog.length ≤ w.pc + 1 ∨ wLimit x.desc ≤ w.emits + 1))
          ∧ (0 < db → w.written ≤ 2 ^ 40 - 1 → 2 ^ 40 - 1 < w.written + n * db → w'.stopped = true
              ∧ w'.written ≤ 2 ^ 40 - 1 ∧ 2 ^ 40 - 1 < w'.written + db)))
    ∧ (Acts s c.val x → x.st = .started → dType x.desc = 4 → x.whirl = some w → w.stopped = false → 65536 ≤ w.quiet →
        exec (.whirlQuietStop c) s = .next (setStream s c.val { x with whirl := some { w with stopped := true } })))

/-! ### Control descriptors -/

/-- R58, R65: a SIGNAL WRITE or ADD puts one line in flight and waits for its response; under FINAL it waits until the writes counted
back are acknowledged. An OKAY response completes it, and another one ends it with its code, never retried. An addition in stage
memory adds modulo its size and changes no other byte; that it is performed as its response comes is the model's choice (log 13). -/
def Obligations.SignalsWriteAndAdd : Prop :=
  (∀ (s : State) (c : Ch) (x : Stream) (add : Bool) (e : XEnt) (pa : Nat), Canon s → Decoded s c.val x 5 →
    sSop x.desc = (if add then 1 else 0) →
    let va := dVa x.desc 2
    let size := sSize x.desc
    let m := memPortOf s pa
    let data := BitVec.ofNat 1024 (dW x.desc 3 0 64 % 2 ^ (8 * size) * 2 ^ (8 * (va % 128)))
    let be := BitVec.ofNat 128 ((2 ^ size - 1) * 2 ^ (va % 128))
    let cmd := if add then Instr.signalAdd c else Instr.signalWrite c
    (x.pre.find? (fun y => y.region == va / 2 ^ 25 && y.leaf.w) = some e → va % size = 0 → leafLoc s e.leaf va = .ext pa →
      powered s (44 + m / 2) = true → canTag s (.ext pa) true (dPrio x.desc) = true →
      (tget (fun _ => 0) s.stage.fenceMem m).getLsbD (chanCfg s c.val).mover = false →
      (dFinal x.desc = false ∨ Settled s c.val) →
      ∃ t id tag, exec cmd s = .next t ∧ stream t c.val = some { x with st := .started, wait := .signal id, pre := [] }
        ∧ t.out = s.out ++ [.fab m (if add then (if size = 8 then 3 else 2) else 1) (if add then (if size = 8 then 1 else 0) else 3)
            (if add then pa else pa / 128 * 128) (!chanSecure s c.val) false (if add then sScope x.desc else 0) tag data be]
        ∧ ∃ l ∈ t.path.lines, l.id = id ∧ l.ch = c.val ∧ l.kind = .signal add (size == 8) ∧ l.data = data ∧ l.be = be)
    ∧ (dFinal x.desc = true → lateErr s c.val (sinceBack s c.val) = none → writesOut s c.val (sinceBack s c.val) = true →
        exec cmd s = .next s))
  ∧ (∀ (s : State) (c : Ch) (x : Stream) (l : Line) (a : SigAns) (add wide : Bool) (pa : Nat), Canon s → stream s c.val = some x →
    x.wait = .signal l.id → lineOf s l.id = some l → l.ch = c.val → l.dseq = (chan s c.val).seq → l.kind = .signal add wide →
    l.loc = .ext pa → heldAtCore s l = false → l.left = [] → l.echo = 0 →
    ∃ t, exec (.signalResponse c a) s = .next t ∧ t.path = (dropLine s l.id).path ∧ lineOf t l.id = none
      ∧ stream t c.val = some { x with wait := .none, st := match a with
          | .okay => .done cOK 0 | .timeout => .done cTIMEOUT 2 | .world => .done cWORLD 1 | _ => .done cECC 0 })
  ∧ (∀ (s : State) (c : Ch) (x : Stream) (l : Line) (wide : Bool) (o : Nat), Canon s → stream s c.val = some x →
    x.wait = .signal l.id → lineOf s l.id = some l → l.kind = .signal true wide → l.loc = .stage o → heldAtCore s l = false →
    l.left = [] → lineFenced s l = false → gateClosed s o = false →
    let size := if wide then 8 else 4
    o % size = 0 → (poolOf s o).isSome = true → s.stage.bad.contains (o / 8 * 8) = false →
    ∃ t, exec (.signalResponse c .okay) s = .next t ∧ stream t c.val = some { x with st := .done cOK 0, wait := .none }
      ∧ memNat t.stage.mem o size = (memNat s.stage.mem o size + lineValue l o size) % 2 ^ (8 * size)
      ∧ ∀ b, b < o ∨ o + size ≤ b → memByte t.stage.mem b = memByte s.stage.mem b)

/-- R65, R158, R161, R171, R281, R283, R287: the hand-offs to the sync hub. An arrival at an object whose home is here is counted,
and the last one releases; an arrival elsewhere waits for its acknowledgement, and ends with TIMEOUT, 2 without one. PUSH appends
its handle or waits for an entry; PRODUCE and RELEASE move their ring, or are refused with 11; DOORBELL rings its channel, whose fetch
leaves once its way is powered (R32). -/
def Obligations.SignalsHandOff : Prop :=
  (∀ (s : State) (c : Ch) (x : Stream) (o : Nat), Canon s → Decoded s c.val x 5 → sSop x.desc = 2 → Settled s c.val →
    barObj s (chanCfg s c.val).ctx (sBvid x.desc) = some o → (chanSecure s c.val = true ∨ barSecure s o = false) →
    let b := bar s o
    let pm1 := sPcount x.desc
    ∃ t, exec (.arrive c) s = .next t
      ∧ (barHome s o ≠ ownChip s → stream t c.val = some { x with st := .started, wait := .ack o } ∧ t.hub = s.hub)
      ∧ (barHome s o = ownChip s → inBox s o (ownChip s) = true → b.st = .idle ∨ (b.st = .gather ∧ b.need.toNat = pm1) →
          stream t c.val = some { x with st := .done cOK 0, wait := .none }
          ∧ (b.count.toNat + 1 ≠ pm1 + 1 → bar t o = { b with
                st := .gather, count := BitVec.ofNat 14 (b.count.toNat + 1), need := BitVec.ofNat 14 pm1 })
          ∧ (b.count.toNat + 1 = pm1 + 1 → bar t o = { b with
                st := .idle, count := 0, need := BitVec.ofNat 14 pm1, epoch := b.epoch + 1 })))
  ∧ (∀ (s : State) (c : Ch) (x : Stream) (o : Nat), stream s c.val = some x → x.wait = .ack o →
    ∃ t, exec (.arriveAckTimeout c) s = .next t ∧ t = { ended s c.val x cTIMEOUT 2 with aon := t.aon, fresh := t.fresh }
      ∧ (Canon s → Crosses s t 0x0D x.addr c.val (feIsland c.val)))
  ∧ (∀ (s : State) (c : Ch) (x : Stream), Decoded s c.val x 5 → sSop x.desc = 3 → Settled s c.val →
    let y := hq s (sHq x.desc)
    let h := BitVec.ofNat 32 (dW x.desc 5 0 32)
    y.en = true → h ≠ BitVec.allOnes 32 → (chanSecure s c.val = true ∨ y.ns = true) →
    (64 ≤ y.q.length → exec (.push c) s = .next (waits s c.val x .push))
    ∧ (y.q.length < 64 → Canon s → (∀ d z, stream s d = some z → z.wait ≠ .pop none ∧ z.wait ≠ .push) →
        exec (.push c) s = .next (setHq (ended s c.val x cOK 0) (sHq x.desc) { y with q := y.q ++ [h] })))
  ∧ (∀ (s : State) (c : Ch) (x : Stream) (prod : Bool), Decoded s c.val x 5 → sSop x.desc = (if prod then 4 else 5) →
    (prod = true → Settled s c.val) →
    let y := ring s (sRing x.desc)
    let cmd := if prod then Instr.produce c else Instr.release c
    (chanSecure s c.val = true ∨ y.ns = true) → (if prod then y.pauto else y.cauto) = false →
    (y.en = true → y.fault = false → (prod = true → y.fill ≠ y.nm1 + 1) → (prod = false → y.fill ≠ 0) →
      exec cmd s = .next (ended (setRing s (sRing x.desc) (if prod
        then { y with tail := (y.tail + 1) % (y.nm1 + 1), pres := (y.tail + 1) % (y.nm1 + 1), fill := y.fill + 1, pcnt := y.pcnt + 1 }
        else { y with head := (y.head + 1) % (y.nm1 + 1), cres := (y.head + 1) % (y.nm1 + 1), fill := y.fill - 1, ccnt := y.ccnt + 1 }))
        c.val x cOK 0))
    ∧ (y.en = false ∨ y.fault = true ∨ (if prod then y.fill = y.nm1 + 1 else y.fill = 0) →
      ∃ t, exec cmd s = .next t ∧ t = { ended s c.val x cSTATE 11 with aon := t.aon, fresh := t.fresh }
        ∧ Crosses s t 0x04 x.addr 11 (feIsland c.val)))
  ∧ (∀ (s : State) (c : Ch) (x : Stream), Canon s → Decoded s c.val x 5 → sSop x.desc = 6 → Settled s c.val →
    let d := sChan x.desc
    ∃ t, exec (.signalDoorbell c) s = .next t
      ∧ (chState s d = .disabled → stream t c.val = some { x with st := .done cSTATE 9, wait := .none } ∧ (chan t d).lastCode = 2
          ∧ Crosses s t 0x04 x.addr 9 (feIsland c.val))
      ∧ (chState s d ≠ .disabled → (chan s d).blocked = false → chanSecure s d = chanSecure s c.val →
          stream t c.val = some { x with st := .done cOK 0, wait := .none }
          ∧ (chState s d ≠ .idle → (chan t d).pending = true ∧ (chan t d).st = (chan s d).st ∧ t.out = s.out)
          ∧ (chState s d = .idle → (4096 * (chan s d).cqBase.toNat) % (16 * 2 ^ (chan s d).log2n) = 0 →
              let a := (chan s d).head.toNat / 512 * 512
              (chan t d).st = .running ∧ (fetchReady s d a = true → FetchSent s t d a)
              ∧ (fetchReady s d a = false → t.out = s.out ∧ (chan t d).fetchDue = some a))))

/-- R66, R162, R171 to R173, R283: a WAIT completes OK where its condition holds and waits otherwise. BARRIER waits with the tag of
the channel's last arrival at the object; VALUE reads, compares and reads again; POP takes the oldest handle and writes it; FILLED
and FREE look at the ring; a TIMEOUT of its own ends it with TIMEOUT unless the condition holds, and 0 never does, and a ring that has
turned secure ends a non-secure one with WORLD (R325). That a VALUE at a misaligned address reads whole lines is the model's choice
(log 46), as it is that stage memory answers a poll with its contents at that moment (log 13), which are not in the command's own
answer (log 14); a poll over a line end of stage memory reads its two parts in two steps (R268). -/
def Obligations.WaitsCompleteOnTheirCondition : Prop :=
  (∀ (s : State) (c : Ch) (x : Stream) (o : Nat), Decoded s c.val x 6 → wWop x.desc = 0 →
    barObj s (chanCfg s c.val).ctx (wBvid x.desc) = some o → (chanSecure s c.val = true ∨ barSecure s o = false) →
    (bar s o).st ≠ .abandoned → (bar s o).st ≠ .poisoned →
    let tag := match (chan s c.val).arrRec with
      | some (v, t) => if v.toNat = wBvid x.desc then t else (bar s o).epoch
      | none => (bar s o).epoch
    exec (.waitBarrier c) s
      = .next (if tag = (bar s o).epoch then waits s c.val x (.barrier o tag false) else ended s c.val x cOK 0))
  ∧ (∀ (s : State) (c : Ch) (x : Stream) (e : XEnt), Canon s → Decoded s c.val x 6 → wWop x.desc = 1 →
    let va := dVa x.desc 2
    x.pre.find? (fun y => y.region == va / 2 ^ 25) = some e → (va + (wSize x.desc - 1)) / 2 ^ 25 = va / 2 ^ 25 →
    (∀ k < wSize x.desc, ∃ pa, leafLoc s e.leaf (va + k) = .ext pa ∧ PollReady s c.val pa) →
    ∃ t, exec (.waitValue c) s = .next t ∧ ReadsOnly { s with order := s.order + 1 } t c.val
      ∧ stream t c.val = some { x with st := .started, wait := .value true, stamp := s.order }
      ∧ PollsSent s t c.val x [e])
  ∧ (∀ (s : State) (c : Ch) (x : Stream) (e : XEnt) (v : W64), Canon s → Acts s c.val x → x.st = .started → wCmp x.desc ≤ 5 →
    x.pre.find? (fun y => y.region == dVa x.desc 2 / 2 ^ 25) = some e →
    (dVa x.desc 2 + (wSize x.desc - 1)) / 2 ^ 25 = dVa x.desc 2 / 2 ^ 25 →
    let va := dVa x.desc 2
    let n := wSize x.desc
    let a := 128 - va % 128
    let again := walkPending s c.val (va / 2 ^ 25) = false ∧ powered s (56 + halfOf va) = true
      ∧ tlbFind s (halfOf va) (ctx s (chanCfg s c.val).ctx).asid (va / 2 ^ 25) = some e.leaf
    let ends := fun (t : State) (w : Nat) =>
      (valueIs x w = true → stream t c.val = some { x with pre := [], st := .done cOK 0, wait := .none })
      ∧ (valueIs x w = false → again → ∃ y, stream t c.val = some y ∧ y.st = .started ∧ ∃ b, y.wait = .value b)
    (x.wait = .value true → (∀ k < n, ∃ pa, leafLoc s e.leaf (va + k) = .ext pa ∧ PollReady s c.val pa) →
      ∃ t, exec (.waitValuePoll c (.okay v)) s = .next t
        ∧ (valueIs x v.toNat = true → ReadsOnly s t c.val ∧ stream t c.val = some { x with pre := [], st := .done cOK 0, wait := .none })
        ∧ (valueIs x v.toNat = false → again → stream t c.val = some { x with pre := [⟨va / 2 ^ 25, e.leaf⟩] } ∧ PollsSent s t c.val x [e]))
    ∧ (∀ o, (∀ k < n, leafLoc s e.leaf (va + k) = .stage (o + k) ∧ (poolOf s (o + k)).isSome = true
          ∧ (chanSecure s c.val = true ∨ stageSecure s (o + k) = false) ∧ gateClosed s (o + k) = false
          ∧ inFenced s (o + k) (chanCfg s c.val).mover = false ∧ s.stage.bad.contains ((o + k) / 8 * 8) = false) → o % 128 = va % 128 →
        (x.wait = .value true → n ≤ a → ∃ t, exec (.waitValuePoll c (.okay v)) s = .next t ∧ ends t (memNat s.stage.mem o n))
        ∧ (x.wait = .value true → a < n → ∃ t low, exec (.waitValuePoll c (.okay v)) s = .next t
            ∧ stream t c.val = some { x with wait := .valueHigh low } ∧ low.length = a ∧ leNat low = memNat s.stage.mem o a)
        ∧ (∀ low, x.wait = .valueHigh low → low.length = a → a < n → ∃ t, exec (.waitValuePoll c (.okay v)) s = .next t
            ∧ ends t (leNat low + 2 ^ (8 * a) * memNat s.stage.mem (o + a) (n - a)))))
  ∧ (∀ (s : State) (c : Ch) (x : Stream) (e : XEnt) (pa : Nat), Canon s → Decoded s c.val x 6 → wWop x.desc = 2 →
    x.pre.find? (fun y => y.region == dVa x.desc 2 / 2 ^ 25 && y.leaf.w) = some e → dVa x.desc 2 % 128 + 4 ≤ 128 →
    leafLoc s e.leaf (dVa x.desc 2) = .ext pa → (∀ d z, stream s d = some z → z.wait ≠ .pop none ∧ z.wait ≠ .push) →
    let y := hq s (wHq x.desc)
    let va := dVa x.desc 2
    let m := memPortOf s pa
    y.en = true → (chanSecure s c.val = true ∨ y.ns = true) →
    (y.q = [] → exec (.pop c) s = .next (waits s c.val x (.pop none)))
    ∧ (∀ h rest, y.q = h :: rest → powered s (44 + m / 2) = true → canTag s (.ext pa) true (dPrio x.desc) = true →
        (tget (fun _ => 0) s.stage.fenceMem m).getLsbD (chanCfg s c.val).mover = false →
        ∃ t id tag, exec (.pop c) s = .next t ∧ (hq t (wHq x.desc)).q = rest
          ∧ stream t c.val = some { x with st := .started, wait := .popWrite id, stamp := s.order, pre := [] }
          ∧ t.out = s.out ++ [.fab m 1 3 (pa / 128 * 128) (!chanSecure s c.val) false 0 tag
              (BitVec.ofNat 1024 (h.toNat * 2 ^ (8 * (va % 128)))) (BitVec.ofNat 128 (15 * 2 ^ (va % 128)))]))
  ∧ (∀ (s : State) (c : Ch) (x : Stream) (free : Bool), Decoded s c.val x 6 → wWop x.desc = (if free then 4 else 3) →
    let y := ring s (wRing x.desc)
    let holds := if free then y.fill ≤ y.nm1 else 1 ≤ y.fill
    y.en = true → y.fault = false → (chanSecure s c.val = true ∨ y.ns = true) →
    exec (if free then .free c else .filled c) s = .next (if holds then ended s c.val x cOK 0
      else waits s c.val x (if free then .free (wRing x.desc) else .filled (wRing x.desc))))
  ∧ (∀ (s : State) (c : Ch) (x : Stream), Acts s c.val x → x.st = .started → dType x.desc = 6 →
    (wTimeout x.desc = 0 → exec (.waitTimeout c) s = .next s)
    ∧ (wTimeout x.desc ≠ 0 → (∃ b, x.wait = .value b) ∨ (∃ l, x.wait = .valueHigh l) ∨ x.wait = .pop none →
        exec (.waitTimeout c) s = .next (ended s c.val x cTIMEOUT 0))
    ∧ (∀ r, wTimeout x.desc ≠ 0 → x.wait = .filled r ∨ x.wait = .free r →
        ((chanSecure s c.val = true ∨ ringSecure s r = false) → exec (.waitTimeout c) s = .next (ended s c.val x
          (if (if x.wait = .filled r then 1 ≤ (ring s r).fill else (ring s r).fill ≤ (ring s r).nm1) then cOK else cTIMEOUT) 0))
        ∧ (chanSecure s c.val = false → ringSecure s r = true → ∃ t d, exec (.waitTimeout c) s = .next t
            ∧ stream t c.val = some { x with st := .done cWORLD d, wait := .none })))

/-- R67, R271, R283, R380: DRAIN and the RELEASE and FULL fences wait for the writes they cover, take a late error as their own
outcome, and complete; every fence is a count-back point. That the first late error is reported at once, while other writes are still
out, is the model's choice (log 42). DEP CHANNEL holds when the other channel's SEQ has reached COUNT as a
signed difference; DEP BARRIER waits for the next release. -/
def Obligations.OrderingDescriptors : Prop :=
  (∀ (s : State) (c : Ch) (x : Stream), Decoded s c.val x 7 → tw x.desc 0 4 = 0 →
    let late := lateErr s c.val (fun _ _ => true)
    let out := writesOut s c.val (fun _ _ => true)
    (late = none → out = false → exec (.drain c) s = .next (ended s c.val x cOK 0))
    ∧ (late = none → out = true → x.wait ≠ .drain → exec (.drain c) s = .next (waits s c.val x .drain))
    ∧ (∀ e, Canon s → late = some e → ∃ t, exec (.drain c) s = .next t ∧ (chan t c.val).late = (chan s c.val).late.erase e
        ∧ stream t c.val = some { x with st := .done e.code e.detail, wait := .none }))
  ∧ (∀ (s : State) (c : Ch) (x : Stream), Decoded s c.val x 7 → tw x.desc 0 4 = 1 →
    let d := dW x.desc 2 0 9
    chState s d ≠ .disabled → chanSecure s d = chanSecure s c.val →
    exec (.depChannel c) s = .next (if 0 ≤ ((chan s d).seq - BitVec.ofNat 16 (dW x.desc 2 16 16)).toInt
      then ended s c.val x cOK 0 else waits s c.val x .chan))
  ∧ (∀ (s : State) (c : Ch) (x : Stream) (o : Nat), Decoded s c.val x 7 → tw x.desc 0 4 = 2 →
    barObj s (chanCfg s c.val).ctx (dpBvid x.desc) = some o → (chanSecure s c.val = true ∨ barSecure s o = false) →
    (bar s o).st ≠ .abandoned → (bar s o).st ≠ .poisoned →
    exec (.depBarrier c) s = .next (waits s c.val x (.barrier o (bar s o).epoch true)))
  ∧ (∀ (s : State) (c : Ch) (x : Stream) (k : Fin 3), Canon s → Decoded s c.val x 8 → tw x.desc 2 2 = k.val →
    let scope := tw x.desc 0 2
    let cmd := if k.val = 0 then Instr.fenceRelease c else if k.val = 1 then .fenceAcquire c else .fenceFull c
    (lateErr s c.val (fun _ cls => decide (cls ≤ scope)) = none →
      (k.val = 1 ∨ writesOut s c.val (fun _ cls => decide (cls ≤ scope)) = false →
        ∃ t, exec cmd s = .next t ∧ t = { s with chans := t.chans } ∧ (∀ d, d ≠ c.val → chan t d = chan s d)
          ∧ chan t c.val = { chan s c.val with
              gen := (chan s c.val).gen + 1, stream := some { x with st := .done cOK 0, wait := .none } })
      ∧ (k.val ≠ 1 → writesOut s c.val (fun _ cls => decide (cls ≤ scope)) = true → x.wait ≠ .fence scope →
          exec cmd s = .next (waits s c.val x (.fence scope))))
    ∧ (∀ e, k.val ≠ 1 → lateErr s c.val (fun _ cls => decide (cls ≤ scope)) = some e →
        ∃ t, exec cmd s = .next t ∧ (chan t c.val).late = (chan s c.val).late.erase e ∧ (chan t c.val).gen = (chan s c.val).gen + 1
          ∧ stream t c.val = some { x with st := .done e.code e.detail, wait := .none }))

/-- R59, R68, R69, R259, R260, R297: REARM replaces the bases that WHICH selects and starts the parked target's next run, and with STOP
ends its descriptor without a record, each once the record of the target's last run is acknowledged; a target that is not parked is
refused with 7, and that this is so of a DISABLED one, or one of the other world, is the model's choice (log 6). MAILBOX fills the words
and sets GO, or waits or is refused with 8 while GO is 1. PREFETCH and EVICT wait for their advice record; WARM looks its regions up;
COLD drops the cached leaves of its range. -/
def Obligations.RearmMailboxAdvise : Prop :=
  (∀ (s : State) (c : Ch) (x : Stream) (stop : Bool), Canon s → Decoded s c.val x 9 → rStop x.desc = stop →
    let d := rTchan x.desc
    let w := rWhich x.desc
    let cmd := if stop then Instr.rearmStop c else Instr.rearm c
    ∃ t, exec cmd s = .next t
      ∧ (chState s d ≠ .parked ∨ (chanCfg s d).ctx ≠ (chanCfg s c.val).ctx →
          t = { ended s c.val x cSTATE 7 with aon := t.aon, fresh := t.fresh } ∧ Crosses s t 0x04 x.addr 7 (feIsland c.val))
      ∧ (∀ y, chState s d = .parked → (chanCfg s d).ctx = (chanCfg s c.val).ctx → stream s d = some y →
          ((chan s d).recOut ≠ none → stop = true ∨ rearmFails x.desc y = [] → t = s)
          ∧ (stop = false → rearmFails x.desc y = [] → (chan s d).recOut = none → stream t c.val = some { x with st := .done cOK 0, wait := .none }
            ∧ (chan t d).st = .running ∧ (chan t d).seq = (chan s d).seq ∧ stream t d = some { y with
                src := if w % 2 = 1 then dVa x.desc 2 else y.src
                dst := if w / 2 % 2 = 1 then dVa x.desc 3 else y.dst
                index := if w / 4 % 2 = 1 then dVa x.desc 4 else y.index
                scale := if w / 8 % 2 = 1 then dVa x.desc 5 else y.scale })
          ∧ (stop = true → (chan s d).recOut = none → stream t c.val = some { x with st := .done cOK 0, wait := .none } ∧ stream t d = none
            ∧ (chan t d).seq = (chan s d).seq ∧ (chan t d).head = BitVec.ofNat 52 (nextAddr y.addr y.desc)
            ∧ (dChain y.desc = 2 → (chan s d).pending = false → (chan t d).st = .idle))))
  ∧ (∀ (s : State) (c : Ch) (x : Stream) (bs : List Byte), Canon s → Decoded s c.val x 10 →
    let m := tw x.desc 0 5
    let len := tw x.desc 5 5
    let inl := bitOf x.desc 42
    let y := if inl then x else { x with pre := [] }
    (chanSecure s c.val = true ∨ mbSecure s m = false) → (bitOf x.desc 43 = true → Settled s c.val) →
    (inl = false → Readable s c.val x (mbSrc x.desc) (4 * len) ∧ bs.length = 4 * len) → (inl = true → len ≤ 12) → len ≤ 16 →
    ∃ t, exec (.mailbox c ⟨bs, []⟩) s = .next t
      ∧ ((mb s m).go = false → stream t c.val = some { y with st := .done cOK 0, wait := .none }
          ∧ (mb t m).go = bitOf x.desc 43 ∧ (mb t m).len = len
          ∧ ∀ k, (h : k < 16) → (mb t m).words[k] = if k < len then
              BitVec.ofNat 32 (if inl then fld x.desc (128 + 32 * k) 32 else leAt bs (4 * k) 4) else (mb s m).words[k])
      ∧ ((mb s m).go = true → bitOf x.desc 44 = true → ∃ ws,
          stream t c.val = some { y with st := .started, wait := .mailbox ws, stamp := s.order } ∧ t.hub = s.hub)
      ∧ ((mb s m).go = true → bitOf x.desc 44 = false → stream t c.val = some { y with st := .done cSTATE 8, wait := .none } ∧ t.hub = s.hub
          ∧ Crosses s t 0x04 x.addr 8 (feIsland c.val)))
  ∧ (∀ (s : State) (c : Ch) (x : Stream) (ev : Bool), Decoded s c.val x 11 → tw x.desc 0 4 = (if ev then 1 else 0) →
    let k := (chanCfg s c.val).ctx
    let r : Req := ⟨c.val, 7, false, dVa x.desc 2, false⟩
    exec (if ev then .evict c else .prefetch c) s = .next (waits { s with xl := { s.xl with
      nextWalk := s.xl.nextWalk + 1
      walks := s.xl.walks ++ [⟨s.xl.nextWalk, 0, (ctx s k).asid, k, dVa x.desc 2, 0, 0, 0, true, [r], .holding, true,
        some ⟨if ev then 9 else 8, 0, aLen x.desc, 0, 0, [r], putBit 0 k true⟩⟩] } } c.val x (.advice (2 * s.xl.nextWalk))))
  ∧ (∀ (s : State) (c : Ch) (x : Stream) (l : Leaf), Canon s → Decoded s c.val x 11 → tw x.desc 0 4 = 2 →
    let va := dVa x.desc 2
    walkPending s c.val (va / 2 ^ 25) = false → powered s (56 + halfOf va) = true →
    tlbFind s (halfOf va) (ctx s (chanCfg s c.val).ctx).asid (va / 2 ^ 25) = some l →
    ∃ t, exec (.warm c) s = .next t ∧ stream t c.val = some { x with st := .started, wait := .warm 1, stamp := s.order }
      ∧ t = { s with chans := t.chans, order := s.order + 1, xl := { s.xl with half := t.xl.half } })
  ∧ (∀ (s : State) (c : Ch) (x : Stream) (n : Nat), Acts s c.val x → x.st = .started → x.wait = .warm n → advRegions x ≤ n →
    exec (.warm c) s = .next (ended s c.val x cOK 0))
  ∧ (∀ (s : State) (c : Ch) (x : Stream), Decoded s c.val x 11 → tw x.desc 0 4 = 3 →
    exec (.cold c) s = .next (ended { s with xl := { s.xl with tlb := s.xl.tlb.filter fun t =>
      !(t.asid == (ctx s (chanCfg s c.val).ctx).asid && entryMeets t (dVa x.desc 2 / 2 ^ 25) (advRegions x)) } } c.val x cOK 0))

/-! ### The data path -/

/-- R19 to R24, R58, R182, R184: a T-cycle of a mover's sides issues the line that a stream stands at: a read takes a tag and goes
to its port, a write goes with its data and enables, a line of the stage window needs nothing sent, each in a place that its lane's
cluster has left. The held line of FINAL goes only
when no other line of the descriptor is outstanding, and takes a write place. A member of a relay chain passes a line on to the next, once
that one has the earlier lines of the chain. -/
def Obligations.LinesAreIssued : Prop :=
  (∀ (s : State) (m : Mv) (c : Nat) (x : Stream) (t : Tile) (g : Group) (loc : Loc) (o : Nat), Canon s → operating s = true →
    moverReady s m.val = true → slots s m.val = [c] → (chanCfg s c).mover = m.val → flowing s c = some x → readTurn s x = true →
    x.tiles = [t] → t.groups = [g] → g.toRead = [(loc, .data, o)] → (g.reserved = true ∨ canLand s m.val g = true) →
    canTag s loc false (dPrio x.desc) = true → locReady s loc = true → g.quad ∈ moverQuads s m.val → quadLanes s m.val g.quad ≠ [] →
    echoPage s x t .data loc = false →
    (∀ lane ∈ quadLanes s m.val g.quad, placeLeft (tickWin8 s m.val false) (lane / 4) false = true) →
    (∀ pa, loc = .ext pa → tget (fun _ => 0) s.stage.fenceMem (memPortOf s pa) = 0 →
      ∃ u l tag, exec (.readIssue ⟨m, none⟩) s = .next u ∧ u.path.lines = s.path.lines ++ [l] ∧ l.ch = c ∧ l.loc = loc
        ∧ l.kind = .read t.no t.att g.no .data o ∧ l.lane ∈ quadLanes s m.val g.quad
        ∧ u.out = s.out ++ [.fab (memPortOf s pa) 0 3 pa (!chanSecure s c) false 0 tag 0 0])
    ∧ (∀ a, loc = .stage a → chanSecure s c = true → (bg s ((placeOf s a).getD (0, 0, 0)).1).fence = 0 →
      ∃ u l, exec (.readIssue ⟨m, none⟩) s = .next u ∧ u.path.lines = s.path.lines ++ [l] ∧ l.ch = c ∧ l.loc = loc
        ∧ l.kind = .read t.no t.att g.no .data o ∧ u.out = s.out))
  ∧ (∀ (s : State) (m : Mv) (c : Nat) (x : Stream) (t : Tile) (g : Group) (r : Ready) (pa : Nat), Canon s → operating s = true →
    moverReady s m.val = true → slots s m.val = [c] → (chanCfg s c).mover = m.val → flowing s c = some x → dFinal x.desc = false →
    x.tiles = [t] → t.groups = [g] → g.ready = [r] → r.line.loc = .ext pa → canTag s (.ext pa) true (dPrio x.desc) = true →
    stradBlocked s c x t r.line = false → quadLanes s m.val g.quad ≠ [] → powered s (44 + memPortOf s pa / 2) = true →
    tget (fun _ => 0) s.stage.fenceMem (memPortOf s pa) = 0 →
    (∀ lane ∈ quadLanes s m.val g.quad, placeLeft (tickWin8 s m.val true) (lane / 4) true = true) →
    ∃ u tag, exec (.writeIssue ⟨m, none⟩) s = .next u
      ∧ u.out = s.out ++ [.fab (memPortOf s pa) 1 3 pa (!chanSecure s c) false 0 tag r.data r.be]
      ∧ stream u c = some { x with tiles := [{ t with wrote := true, groups := [{ g with ready := [] }] }] }
      ∧ ∃ l ∈ u.path.lines, l.ch = c ∧ l.loc = .ext pa ∧ l.kind = .write t.no t.att r.line.opnd (dAcc x.desc) ∧ l.data = r.data
          ∧ l.be = r.be)
  ∧ (∀ (s : State) (c : Ch) (x : Stream) (t : Tile) (g : Group) (r : Ready) (pa : Nat), Canon s → flowing s c.val = some x →
    x.tiles = [t] → t.walked = true → t.groups = [g] → g.toRead = [] → g.outs = [] → g.emitted = [] → g.ready = [r] →
    heldLine s x t r.line = true → genMore s x = some false → r.line.loc = .ext pa → canTag s (.ext pa) true (dPrio x.desc) = true →
    powered s (44 + memPortOf s pa / 2) = true → tget (fun _ => 0) s.stage.fenceMem (memPortOf s pa) = 0 →
    let m := (chanCfg s c.val).mover
    quadLanes s m g.quad ≠ [] → (slots s m).flatMap (writeCands s) = [] →
    (∀ lane ∈ quadLanes s m g.quad, placeLeft s (lane / 4) true = true) →
    (descLines s c.val = true → exec (.heldWriteIssue c) s = .next s)
    ∧ (descLines s c.val = false → ∃ u tag, exec (.heldWriteIssue c) s = .next u
        ∧ u.out = s.out ++ [.fab (memPortOf s pa) 1 3 pa (!chanSecure s c.val) false 0 tag r.data r.be]
        ∧ stream u c.val = some { x with tiles := [{ t with wrote := true, groups := [{ g with ready := [] }] }] }))
  ∧ (∀ (s : State) (l : Line) (n off k : Nat) (rest : List Nat), lineOf s l.id = some l → l.loc = .relay n off → l.left = k :: rest →
    l.left.contains lostMark = false → l.echo = 0 → heldAtCore s l = false → chainWaits s n k l.id = false →
    coreFenced s k (coreInput s k l) = false → coreErr s k off true = false → actPos s k off = none →
    ∃ t, exec (.relayForward l.id) s = .next (emit t (.core k off (coreDest s k off) 1 l.ns false 0 (l.id % 65536) l.data l.be))
      ∧ t = { setLines s (s.path.lines.map fun y => if y.id == l.id then { l with left := rest } else y) with
          stage := { s.stage with rankCore := t.stage.rankCore } })

/-- R23 to R25, R75, R192, R206, R207, R380: data that lands joins its group, and frees its tag; an output line whose source lines
have landed leaves its quadrant, for Mordant when the descriptor casts; a cast line is ready to be written. An acknowledgement
frees a write's tag and leaves no copy of its line in the echo cache, and stage memory then holds its enabled bytes and no other change (at
that moment, log 13). An error reissues the tile up to three times in all, WORLD and a timeout end the descriptor, and a write that fails
after its descriptor completed, or under BF = 0 has taken its last action, is kept for the next. The response of a request that has timed
out frees its ID and is counted in LATE, while the block runs (R353). -/
def Obligations.LinesLandAndEnd : Prop :=
  (∀ (s : State) (x : Stream) (t : Tile) (g : Group) (l : Line) (k : RdKind) (o : Nat) (d : LineData), Canon s →
    lineOf s l.id = some l → stream s l.ch = some x → l.dseq = (chan s l.ch).seq → x.tiles = [t] → t.groups = [g] →
    l.kind = .read t.no t.att g.no k o → l.left = [] → l.echo = 0 →
    (∀ pa, l.loc = .ext pa → ∃ u, exec (.readDataLand l.id d .clean) s = .next u
      ∧ u = { s with chans := u.chans, path := { s.path with lines := s.path.lines.filter fun y => y.id != l.id } }
      ∧ stream u l.ch = some { x with tiles := [{ t with groups := [{ g with landed := g.landed ++ [(l.loc, k, d)] }] }] })
    ∧ (∀ a, l.loc = .stage a → lineFenced s l = false → gateClosed s a = false → (poolOf s a).isSome = true → badWords s a fullBe = [] →
      (∃ u, exec (.readDataLand l.id d .clean) s = .next u
        ∧ stream u l.ch = some { x with tiles := [{ t with
            groups := [{ g with landed := g.landed ++ [(l.loc, k, memLine s.stage.mem a)] }] }] })
      ∧ (x.st = .started → x.spent + x.retries < 3 → dAcc x.desc = false →
          ∃ u y, exec (.readDataLand l.id d .uncorrectable) s = .next u ∧ stream u l.ch = some y ∧ y.retries = x.retries + 1
            ∧ y.trans = cECC ∧ y.st = .started ∧ y.tiles.map (·.att) = [t.att + 1])))
  ∧ (∀ (s : State) (c : Ch) (x : Stream) (t : Tile) (g : Group) (o : OutLine), Canon s → flowing s c.val = some x → x.tiles = [t] →
    t.groups = [g] → g.outs = [o] → allLanded s x t g (o.pairs ++ blockPairs x t o.pairs) = true → powered s (8 + g.quad) = true →
    ∃ u y, exec (.outputLineEmit c 0 .clean) s = .next u ∧ stream u c.val = some y ∧ u.out = s.out ∧ u.stage = s.stage
      ∧ (casts x.desc = true → y = { x with tiles := [{ t with groups := [{ g with
            outs := []
            emitted := g.emitted ++ [⟨o, o.pairs.map (elemOf s x t g), (blockPairs x t o.pairs).map (elemOf s x t g)⟩] }] }] })
      ∧ (casts x.desc = false → ∃ rs strad, y = { x with tiles := [{ t with
            strad := strad, groups := [{ g with outs := [], ready := g.ready ++ rs }] }] }
          ∧ rs.length ≤ 1 ∧ ∀ r ∈ rs, r.line = o))
  ∧ (∀ (s : State) (c : Ch) (x : Stream) (t : Tile) (g : Group) (e : Emitted), Canon s → flowing s c.val = some x → x.tiles = [t] →
    t.groups = [g] → g.emitted = [e] → castReady s x t g e.line = true → quadLanes s (chanCfg s c.val).mover g.quad ≠ [] →
    (∀ n < max 1 (moverWidth s (chanCfg s c.val).mover), powered s (12 + ((chanCfg s c.val).mover + n) / 4) = true) →
    ∃ u rs strad, exec (.mordantCast c 0 .clean) s = .next u ∧ u.out = s.out ∧ u.stage = s.stage ∧ rs.length ≤ 1
      ∧ (∀ r ∈ rs, r.line = e.line) ∧ stream u c.val = some { x with tiles := [{ t with
          strad := strad, groups := [{ g with emitted := [], ready := g.ready ++ rs }] }] })
  ∧ (∀ (s : State) (l : Line) (no att o : Nat) (acc : Bool), Canon s → lineOf s l.id = some l → l.kind = .write no att o acc →
    l.left = [] → l.echo = 0 → heldAtCore s l = false →
    (∀ pa, l.loc = .ext pa → exec (.writeAcknowledge l.id) s = .next (dropLine s l.id)
      ∧ lineOf (dropLine s l.id) l.id = none ∧ (dropLine s l.id).path.echo.all (fun k => k.1 != pa / 128 * 128) = true)
    ∧ (∀ a, l.loc = .stage a → lineFenced s l = false → gateClosed s a = false → (poolOf s a).isSome = true → badWords s a l.be = [] →
      ∃ u, exec (.writeAcknowledge l.id) s = .next u
        ∧ u = { dropLine s l.id with
            stage := { s.stage with
              mem := u.stage.mem, bad := u.stage.bad, bg := u.stage.bg, rankBank := u.stage.rankBank, hintBank := u.stage.hintBank }
            aon := u.aon, fresh := u.fresh }
        ∧ (∀ j < 128, memByte u.stage.mem (a + j) = if l.be.getLsbD j then lineByte l.data j else memByte s.stage.mem (a + j))
        ∧ ∀ b, b < a ∨ a + 128 ≤ b → memByte u.stage.mem b = memByte s.stage.mem b))
  ∧ (∀ (s : State) (x : Stream) (t : Tile) (l : Line) (pa no : Nat), Canon s → lineOf s l.id = some l → l.loc = .ext pa →
    l.echo = 0 → l.left = [] → heldAtCore s l = false → stream s l.ch = some x → l.dseq = (chan s l.ch).seq → x.st = .started →
    x.tiles = [t] → t.no = no → (∃ g k o, l.kind = .read no t.att g k o) ∨ (∃ o a, l.kind = .write no t.att o a) →
    (∀ r : ErrResp, ∃ u y, exec (.fabricErrorResponse l.id r) s = .next u ∧ stream u l.ch = some y
      ∧ u.path = (dropLine s l.id).path
      ∧ (r = .world → y.st = .done cWORLD (lineOpnd l.kind))
      ∧ (r ≠ .world → x.spent + x.retries < 3 → dAcc x.desc = false → y.st = .started ∧ y.retries = x.retries + 1)
      ∧ (r ≠ .world → 3 ≤ x.spent + x.retries → y.st = .done cECC 0))
    ∧ ∃ u y, exec (.lineTimeout l.id) s = .next u ∧ stream u l.ch = some y ∧ y.st = .done cTIMEOUT (if isWrite l.kind then 2 else 1)
      ∧ u.path = (dropLine s l.id).path)
  ∧ (∀ (s : State) (l : Line), Canon s → lineOf s l.id = some l → isWrite l.kind = true → (∀ p i, l.kind ≠ .inbound p i) →
    l.dseq ≠ (chan s l.ch).seq →
    ∃ u, exec (.lineTimeout l.id) s = .next u
      ∧ (chan u l.ch).late = (chan s l.ch).late ++ [⟨l.gen, locClass l.loc, cTIMEOUT, 2⟩] ∧ stream u l.ch = stream s l.ch)
  ∧ (∀ (s : State) (l : Line) (x : Stream) (no att o : Nat) (acc : Bool) (code d : Nat), Canon s → lineOf s l.id = some l →
    l.kind = .write no att o acc → l.dseq = (chan s l.ch).seq → stream s l.ch = some x → x.st = .done code d → waitsAcks x = false →
    ∃ u y, exec (.lineTimeout l.id) s = .next u ∧ stream u l.ch = some y ∧ y.st = x.st
      ∧ (chan u l.ch).late = (chan s l.ch).late ++ [⟨l.gen, locClass l.loc, cTIMEOUT, 2⟩])
  ∧ (∀ (s : State) (m : Port) (id : BitVec 16) (e : OwnReq), ownOf s (65536 * m.val + id.toNat) = some e →
    let gone := { s with ports := { s.ports with own := s.ports.own.filter fun y => y.id != e.id } }
    (s.boot.phase = .running → e.kind = .dead true → e.port = m.val →
      exec (.lateResponse ⟨m, id⟩) s = .next (setMp gone m.val { mp s m.val with late := min ((mp s m.val).late + 1) 255 }))
    ∧ (s.boot.phase = .running → e.kind = .dead false → exec (.lateResponse ⟨m, id⟩) s = .next gone)
    ∧ (s.boot.phase ≠ .running ∨ (∀ b, e.kind ≠ .dead b) → exec (.lateResponse ⟨m, id⟩) s = .next s))

/-! ### Contexts and translation -/

/-- R77 to R79, R293 to R295, Table 03-20: SUSPEND starts to switch a running context out, whose tiles before their pre-walk forget what
their walks found (R253), and a write that the state does not allow is
ignored with one event. When its tiles are done, and no gate holds its save area (R191), the context is saved and OUT, each of its
channels enters OUT and keeps the state it held (log 38), its privileged objects are SAVED, and its pending bit is set. RESUME and ABORT
(at once, log 32) read the save area; a good area restores the privileged objects and lets the context run, and a bad one ends its
executing descriptors with ECC and an event of source 0x0F and poisons the privileged objects; in SAFE the answer is discarded (R335).
KILL acts in any state and poisons what it owns. -/
def Obligations.ContextsSwitch : Prop :=
  (∀ (s : State) (c : Cx) (ns : Bool) (v : W32), Canon s → Served s (0xC000 + 0x40 * c.val) ns (ctxSecure s c.val) →
    let k := ctx s c.val
    let pa := 4096 * k.save.toNat
    (bitOf v 1 = false → bitOf v 2 = false → bitOf v 3 = false →
      (k.st = .run → exec (.suspend c ns v) s
        = .next (emit (setCtx (forgetWalks s c.val) c.val { k with st := .switching, cause := 1 }) (.mmio 0 0)))
      ∧ (k.st ≠ .run → ∃ t, exec (.suspend c ns v) s = .next (emit t (.mmio 0 0)) ∧ t = { s with aon := t.aon, fresh := t.fresh }
          ∧ Crosses s t 0x04 (0xC000 + 0x40 * c.val) 0 0x2C))
    ∧ (bitOf v 0 = false → bitOf v 2 = false → bitOf v 3 = false →
      (k.st = .out → ∃ t, exec (.resume c ns v) s = .next (emit t (.mmio 0 0)) ∧ ctx t c.val = { k with st := .resuming }
          ∧ t = { s with
              ctxs := t.ctxs, aon := t.aon, fresh := t.fresh, out := s.out ++ [.load c.val pa]
              path := { s.path with nextId := t.path.nextId }, ports := { s.ports with own := t.ports.own } })
      ∧ (k.st ≠ .out → ∃ t, exec (.resume c ns v) s = .next (emit t (.mmio 0 0)) ∧ t = { s with aon := t.aon, fresh := t.fresh }
          ∧ Crosses s t 0x04 (0xC000 + 0x40 * c.val) 0 0x2C))
    ∧ (bitOf v 0 = false → bitOf v 1 = false → bitOf v 3 = false →
      (k.st = .out → ∃ t o, exec (.abort c ns v) s = .next (emit t (.mmio 0 0)) ∧ (ctx t c.val).st = .run ∧ (ctx t c.val).cause = 0
          ∧ (ctx t c.val).restoring = true ∧ t.out = o ++ [.load c.val pa]
          ∧ ∀ d ∈ ctxChans s c.val, (chan t d).st ≠ .out ∨ (chan s d).pre = .out))
    ∧ ((k.st = .out ∨ ctxStill s c.val = true → ∃ t, exec (.kill c ns v) s = .next (emit t (.mmio 0 0)) ∧ (ctx t c.val).st = .run
          ∧ (ctx t c.val).killing = false
          ∧ ∀ o ∈ ownObjs s c.val 0 1024, barHome s o = ownChip s → (bar t o).st = .poisoned)
      ∧ (k.st = .run → ctxStill s c.val = false → ∃ t, exec (.kill c ns v) s = .next (emit t (.mmio 0 0))
          ∧ ctx t c.val = { k with killing := true, st := .switching } ∧ t.chans = s.chans ∧ t.out = s.out)))
  ∧ (∀ (s : State) (c : Cx), Canon s → operating s = true → (ctx s c.val).st = .switching → ctxStill s c.val = true →
    (ctx s c.val).killing = false → (ctx s c.val).restoring = false → areaWaits s c.val = false →
    ∃ t, exec (.contextOut c) s = .next t ∧ (ctx t c.val).st = .out ∧ (ctx t c.val).cause = (ctx s c.val).cause
      ∧ (∃ bs, Out.save c.val (4096 * (ctx s c.val).save.toNat) bs ∈ t.out)
      ∧ t.ports.ctxPend = putBit s.ports.ctxPend c.val true
      ∧ (∀ d ∈ ctxChans s c.val, (chan s d).st ≠ .out → (chan t d).st = .out ∧ (chan t d).pre = (chan s d).st)
      ∧ ∀ o ∈ privObjs s c.val, (bar t o).st = .saved)
  ∧ (∀ (s : State) (c : Cx) (area : List Byte), operating s = false ∨ areaWaits s c.val = true →
    exec (.contextRestored c area) s = .next s)
  ∧ (∀ (s : State) (c : Cx) (area : List Byte), Canon s → operating s = true → (ctx s c.val).st = .resuming →
    (ctx s c.val).restoring = false → areaWaits s c.val = false →
    (∀ d x o tag dep, stream s d = some x → x.wait ≠ .barrier o tag dep) →
    ∃ t, exec (.contextRestored c area) s = .next t ∧ (ctx t c.val).st = .run ∧ (ctx t c.val).cause = 0
      ∧ (∀ bs v o, (areaChecked s c.val area).2 = some bs → (privObjs s c.val)[v]? = some o →
          let w : W64 := BitVec.ofNat 64 (leAt bs (256 + 16 * v) 8)
          (bar t o).epoch = BitVec.ofNat 2 (fld w 3 2) ∧ (bar t o).count = BitVec.ofNat 14 (fld w 5 14)
            ∧ (bar t o).need = BitVec.ofNat 14 (fld w 19 14) ∧ barHome t o = fld w 40 8 ∧ (bar t o).lo = BitVec.ofNat 8 (fld w 48 8)
            ∧ (bar t o).lenm1 = BitVec.ofNat 8 (fld w 56 8))
      ∧ ((areaChecked s c.val area).2 = none → (∃ q ∈ t.aon.fc.evq, q.ev.src = 0x0F)
          ∧ (∀ o ∈ privObjs s c.val, (bar t o).st = .poisoned)
          ∧ ∀ d ∈ ctxChans s c.val, stream s d ≠ none → (chan s d).st ≠ .cqFull → (chan s d).pre ≠ .cqFull →
              cqIsFull (chan s d) = false → (∃ pa, locOf s (4096 * (chan s d).cqBase.toNat + 16 * (chan s d).tail.toNat) = .ext pa) →
              (chan t d).st = .halted ∧ (chan t d).lastCode = BitVec.ofNat 4 cECC ∧ (chan t d).seq = (chan s d).seq + 1))

/-- R244 to R247, R254, R257: an entry that a walk reads is a leaf, which is cached and given to its requester, a pointer, which leads
to the next level by a volatile read at chip scope, or a fault, which the walk holds: 2 for an invalid entry, 3 for a write without
permission, 4 for a malformed entry, 5 for a read that fails; the tile that faults keeps no translation. R255: its record goes to the
fault ring when EN is 1 and there is room, and its acknowledgement switches the contexts of CTXMASK out with CAUSE 2. That TAIL advances as
the record is written, and not as it is acknowledged, is the model's choice (log 47), as it is that stage memory holds a record from that
moment where the ring lies there (log 13). -/
def Obligations.WalksAndFaultRecords : Prop :=
  (∀ (s : State) (v : Walk) (r : Req) (e : W64), Canon s → s.xl.walks = [v] → v.st = .reading → v.advice = false → v.reqs = [r] →
    r.warm = false →
    let l := entryLeaf v.level e
    let held := fun kind (w : W64) =>
      let f : FRec := ⟨kind, v.level, entryAddr v, w, 0, [r], putBit 0 (chanCfg s r.ch).ctx true⟩
      [{ v with st := .holding, reqs := [], held := some f }]
    let t' := fld e 8 44 * 256
    let drops := fun t => ∀ c, stream t c = if c = r.ch then (stream s c).map fun x => { x with
      tiles := x.tiles.map fun u => if u.walked then u else { u with xset := [] } } else stream s c
    (bitOf e 0 = false → ∃ t, exec (.walkReadResponse v.id (.okay e)) s = .next t ∧ t.xl.walks = held 2 e ∧ drops t)
    ∧ (bitOf e 0 = true → badEntry s v.level e = true →
      ∃ t, exec (.walkReadResponse v.id (.okay e)) s = .next t ∧ t.xl.walks = held 4 e ∧ drops t)
    ∧ (bitOf e 0 = true → badEntry s v.level e = false → bitOf e 1 = true → r.write = true → l.w = false →
      ∃ t, exec (.walkReadResponse v.id (.okay e)) s = .next t ∧ t.xl.walks = held 3 e ∧ drops t)
    ∧ (bitOf e 0 = true → badEntry s v.level e = false → bitOf e 1 = true → (r.write = false ∨ l.w = true) →
      ∃ t, exec (.walkReadResponse v.id (.okay e)) s = .next t ∧ t.xl.walks = []
        ∧ TlbEnt.mk v.half v.asid (pageBase v.level (v.va / 2 ^ 25)) l ∈ t.xl.tlb
        ∧ ∀ x, stream s r.ch = some x → x.tiles = [] → stream t r.ch = some { x with
            pre := x.pre.filter (fun y => y.region != v.va / 2 ^ 25) ++ [⟨v.va / 2 ^ 25, l⟩] })
    ∧ (bitOf e 0 = true → badEntry s v.level e = false → bitOf e 1 = false → inMiozer s t' = false →
      let w := { v with level := v.level + 1, table := t' }
      let m := memPortOf s (entryAddr w)
      powered s (44 + m / 2) = true → memFenced s m (chanCfg s r.ch).mover = false →
      ∃ t id, exec (.walkReadResponse v.id (.okay e)) s = .next t ∧ t.xl.walks = [w] ∧ t.chans = s.chans
        ∧ t.out = s.out ++ [.walk v.id m (chanCfg s r.ch).mover 1 (entryAddr w) (!ctxSecure s v.ctx) true 1 id])
    ∧ (∀ a : WalkAns, (∀ w, a ≠ .okay w) → ∃ t, exec (.walkReadResponse v.id a) s = .next t ∧ t.xl.walks = held 5 0 ∧ drops t)
    ∧ ∃ t, exec (.walkReadTimeout v.id) s = .next t ∧ t.xl.walks = held 5 0 ∧ drops t)
  ∧ (∀ (s : State) (v : Walk) (f : FRec), Canon s → s.xl.walks = [v] → v.st = .holding → v.held = some f →
    let full := (s.xl.fqTail.toNat + 1) % 2 ^ s.xl.fqLog2n = s.xl.fqHead.toNat % 2 ^ s.xl.fqLog2n
    let k := (s.xl.fqTail.toNat + 1) % 2 ^ s.xl.fqLog2n
    let pa := 4096 * s.xl.fqBase.toNat + 64 * s.xl.fqTail.toNat
    (s.xl.fqEn = false ∨ full → exec (.faultRecordWrite v.id) s = .next s)
    ∧ (s.xl.fqEn = true → ¬ full → operating s = true → v.advice = false → anyGate s [locOf s pa] = false →
      ∃ t d, exec (.faultRecordWrite v.id) s = .next t ∧ t.out = s.out ++ [.frec pa (!domSecure s 56) d]
        ∧ (∀ o, locOf s pa = .stage o → o % 64 = 0 → (domSecure s 56 = true ∨ stageSecure s o = false) →
            (poolOf s (o / 128 * 128)).isSome = true → ∀ j < 64, memByte t.stage.mem (o + j) = BitVec.extractLsb' (8 * j) 8 d)
        ∧ t.xl.walks = [{ v with st := .writing, held := some { f with seq := s.xl.fseq } }] ∧ t.xl.fqTail = BitVec.ofNat 10 k
        ∧ t.xl.fqPhase = (if k = 0 then !s.xl.fqPhase else s.xl.fqPhase) ∧ t.xl.fseq = s.xl.fseq + 1
        ∧ ∀ c < 64, ctx t c = if f.mask.getLsbD c then { ctx s c with lastSeq := s.xl.fseq } else ctx s c))
  ∧ (∀ (s : State) (v : Walk) (f : FRec), Canon s → s.xl.walks = [v] → v.st = .writing → v.held = some f →
    let bare := fun k : Chan => { k with stream := k.stream.map fun x : Stream => { x with
      pre := [], tiles := x.tiles.map fun u : Tile => if u.walked then u else { u with xset := [] } } }
    ∃ t, exec (.faultRecordAck f.seq) s = .next t
      ∧ t = { ownDone s (.frec f.seq) with ctxs := t.ctxs, chans := t.chans, xl := { s.xl with walks := [] } }
      ∧ (∀ d, bare (chan t d) = bare (chan s d))
      ∧ ∀ c < 64, ctx t c = if f.mask.getLsbD c && (ctx s c).st == .run then { ctx s c with st := .switching, cause := 2 }
          else ctx s c)

/-- R243, R255, R258, R260, R261, R263: the registers of the translation and window pages. ROOT and ASID are written while every channel
of the context rests; the fault ring's base while EN is 0; an invalidation, which GO starts, drops the cached leaves it names at once
and is BUSY until no tile rests on one; ADONE completes the ADVISE of its record; a window is written unless the pair leaves its space.
-/
def Obligations.TranslationRegisters : Prop :=
  (∀ (s : State) (c : Cx) (r : XlReg) (ns : Bool) (v : W32),
    let off := 0xD400 + 0x10 * c.val + match r with | .rootLo => 0 | .rootHi => 4 | .asid => 8
    let k := ctx s c.val
    Served s off ns (ctxSecure s c.val) →
    (ctxQuiet s c.val = true → exec (.rootAsidWrite c r ns v) s = .next (emit (setCtx s c.val (match r with
      | .rootLo => { k with en := bitOf v 0, root := BitVec.ofNat 40 (2 ^ 20 * (k.root.toNat / 2 ^ 20) + fld v 12 20) }
      | .rootHi => { k with root := BitVec.ofNat 40 (k.root.toNat % 2 ^ 20 + 2 ^ 20 * fld v 0 20) }
      | .asid => { k with asid := BitVec.ofNat 8 (fld v 0 8) })) (.mmio 0 0)))
    ∧ (ctxQuiet s c.val = false → ∃ t, exec (.rootAsidWrite c r ns v) s = .next (emit t (.mmio 0 0))
        ∧ t = { s with aon := t.aon, fresh := t.fresh } ∧ Crosses s t 0x04 off 0 0x2C))
  ∧ (∀ (s : State) (hi ns : Bool) (v : W32), Served s (if hi then 0xD004 else 0xD000) ns (domSecure s 56) →
    let x := s.xl
    (x.fqEn = false → (hi = true ∨ (4 ≤ fld v 0 4 ∧ fld v 0 4 ≤ 10)) → exec (.fqLoWrite hi ns v) s = .next (emit { s with
      xl := if hi then { x with fqBase := BitVec.ofNat 40 (x.fqBase.toNat % 2 ^ 20 + 2 ^ 20 * fld v 0 20) }
        else { x with fqBase := BitVec.ofNat 40 (2 ^ 20 * (x.fqBase.toNat / 2 ^ 20) + fld v 12 20), fqLog2n := fld v 0 4 } } (.mmio 0 0)))
    ∧ (x.fqEn = true → ∃ t, exec (.fqLoWrite hi ns v) s = .next (emit t (.mmio 0 0))
        ∧ t = { s with aon := t.aon, fresh := t.fresh } ∧ Crosses s t 0x04 (if hi then 0xD004 else 0xD000) 0 0x2C))
  ∧ (∀ (s : State) (ns : Bool) (v : W32), Served s 0xD010 ns (domSecure s 56) →
    let misaligned := (4096 * s.xl.fqBase.toNat) % (64 * 2 ^ s.xl.fqLog2n) ≠ 0
    (¬ (bitOf v 0 = true ∧ s.xl.fqEn = false ∧ misaligned) →
      exec (.fqEnable ns v) s = .next (emit { s with xl := { s.xl with fqEn := bitOf v 0 } } (.mmio 0 0)))
    ∧ (bitOf v 0 = true ∧ s.xl.fqEn = false ∧ misaligned → ∃ t, exec (.fqEnable ns v) s = .next (emit t (.mmio 0 0))
        ∧ t = { s with aon := t.aon, fresh := t.fresh } ∧ Crosses s t 0x04 0xD010 0 0x2C))
  ∧ (∀ (s : State) (ns : Bool) (v : W32), Served s 0xD008 ns (domSecure s 56) →
    exec (.fqHeadWrite ns v) s = .next (emit { s with xl := { s.xl with fqHead := BitVec.ofNat 10 (fld v 0 10) } } (.mmio 0 0)))
  ∧ (∀ (s : State) (ns : Bool) (v : W32), Served s 0xD018 ns (domSecure s 56) →
    (bitOf v 0 = true → s.xl.invBusy = true → ∃ t, exec (.invalidate ns v) s = .next (emit t (.mmio 0 0))
      ∧ t = { s with aon := t.aon, fresh := t.fresh } ∧ Crosses s t 0x04 0xD018 0 0x2C)
    ∧ (bitOf v 0 = false → exec (.invalidate ns v) s = .next (emit { s with xl := { s.xl with
        invAll := bitOf v 16, invAsid := BitVec.ofNat 8 (fld v 8 8) } } (.mmio 0 0)))
    ∧ (bitOf v 0 = true → s.xl.invBusy = false → ∃ t, exec (.invalidate ns v) s = .next (emit t (.mmio 0 0)) ∧ t.xl.invBusy = true
        ∧ t.xl.tlb = s.xl.tlb.filter fun e => !(bitOf v 16 || BitVec.ofNat 8 (fld v 8 8) == e.asid)))
  ∧ (∀ s : State, s.xl.invBusy = true → oldXlate s = false →
    exec .invalidateDone s = .next { s with xl := { s.xl with invBusy := false } })
  ∧ (∀ (s : State) (ns : Bool) (v : W32) (c : Nat) (d : Bool), Canon s → Served s 0xD01C ns (domSecure s 56) →
    let q := BitVec.ofNat 16 (fld v 0 16)
    s.xl.adv.find? (fun a => a.1 == q) = some (q, c, d) →
    ∃ t, exec (.adone ns v) s = .next (emit t (.mmio 0 0)) ∧ t.xl.adone = q ∧ t.xl.tlb = s.xl.tlb
      ∧ ∀ x, stream s c = some x → stream t c = some (if x.wait = .advice (2 * q.toNat + 1) ∧ chState s c ≠ .out
          then { x with st := .done cOK 0, wait := .none } else x))
  ∧ (∀ (s : State) (w : Fin 256) (size ns : Bool) (v : W32),
    let off := 0xE000 + 8 * w.val + (if size then 4 else 0)
    Served s off ns (winSecure s w.val) → w.val < (im s).windows →
    let x := win s w.val
    let y := if size then { x with size := BitVec.ofNat 15 (fld v 0 15) }
      else { x with valid := bitOf v 31, base := BitVec.ofNat 14 (fld v 0 14) }
    let bad := y.valid = true ∧ (y.size = 0 ∨ 16384 < y.base.toNat + y.size.toNat)
    (¬ bad → exec (.windowEntryWrite w size ns v) s = .next (emit (setWin s w.val y) (.mmio 0 0)))
    ∧ (bad → ∃ t, exec (.windowEntryWrite w size ns v) s = .next (emit t (.mmio 0 0))
        ∧ t = { s with aon := t.aon, fresh := t.fresh } ∧ Crosses s t 0x04 off 0 0x2C))
  ∧ (∀ (s : State) (h : Fin 2) (ns : Bool) (v : W32), Served s (0xD05C + 0x20 * h.val) ns (domSecure s (56 + h.val)) →
    exec (.xlClrcnt h ns v) s = .next (emit (setHalf s h.val {}) (.mmio 0 0)))

/-! ### Register commands of rings, queues and counters -/

/-- R157, R158, R163, R168, R170 to R172: a register produce or release moves an enabled, unbound ring with room, and is otherwise
ignored with one event; RESET empties a ring without reservations; configuration is written while EN is 0, and EN is set only for a
binding that R163 allows. A non-secure 1 in an NS field, which is secure, leaves it and raises a notice (R324; that it is so in
MZ_RING_CFG and MZ_HQ_CFG is the model's choice, log 36). A queue takes a handle while it has room, sets OVF when it is full, gives its
oldest handle to a read, sets UNDER when it is empty, and RESET empties it. -/
def Obligations.RingAndQueueRegisters : Prop :=
  (∀ (s : State) (r : Fin 1024) (prod ns : Bool) (v : W32), Served s (ringOff r.val 0x1C) ns (ringSecure s r.val) →
    bitOf v 2 = false → (if prod then bitOf v 1 else bitOf v 0) = false →
    let y := ring s r.val
    let cmd := if prod then Instr.ringRegProduce r ns v else .ringRegRelease r ns v
    let ok := y.en = true ∧ y.fault = false ∧ (if prod then y.fill ≠ y.nm1 + 1 else y.fill ≠ 0) ∧ (if prod then y.pauto else y.cauto) = false
    (ok → exec cmd s = .next (emit (setRing s r.val (if prod
        then { y with tail := (y.tail + 1) % (y.nm1 + 1), pres := (y.tail + 1) % (y.nm1 + 1), fill := y.fill + 1, pcnt := y.pcnt + 1 }
        else { y with head := (y.head + 1) % (y.nm1 + 1), cres := (y.head + 1) % (y.nm1 + 1), fill := y.fill - 1, ccnt := y.ccnt + 1 }))
        (.mmio 0 0)))
    ∧ (¬ ok → ∃ t, exec cmd s = .next (emit t (.mmio 0 0)) ∧ t = { s with aon := t.aon, fresh := t.fresh }
        ∧ Crosses s t 0x04 (ringOff r.val 0x1C) 0 0x3A))
  ∧ (∀ (s : State) (r : Fin 1024) (ns : Bool) (v : W32), Served s (ringOff r.val 0x1C) ns (ringSecure s r.val) →
    bitOf v 0 = false → bitOf v 1 = false →
    let y := ring s r.val
    (y.resP = [] → y.resC = [] → exec (.ringReset r ns v) s = .next (emit (setRing s r.val { y with
      head := 0, tail := 0, pres := 0, cres := 0, fill := 0, pcnt := 0, ccnt := 0, epoch := 0, fault := false
      ordP := 0, ordC := 0, issP := 0, issC := 0 }) (.mmio 0 0)))
    ∧ (y.resP ≠ [] ∨ y.resC ≠ [] → ∃ t, exec (.ringReset r ns v) s = .next (emit t (.mmio 0 0))
        ∧ t = { s with aon := t.aon, fresh := t.fresh } ∧ Crosses s t 0x04 (ringOff r.val 0x1C) 0 0x3A))
  ∧ (∀ (s : State) (r : Fin 1024) (reg : RingReg) (ns : Bool) (v : W32),
    let off := ringOff r.val (match reg with | .cfg => 0 | .bind => 4 | .slot => 8 | .align => 0x18)
    Served s off ns (ringSecure s r.val) → (ring s r.val).en = false →
    let y := ring s r.val
    let s' := nsNotice s off ns v
    let z : Ring := { y with
      nm1 := fld v 16 8, cwm1 := fld v 6 2, pwm1 := fld v 4 2, cauto := bitOf v 3, pauto := bitOf v 2
      pres := if bitOf v 2 then y.pres else y.tail, cres := if bitOf v 3 then y.cres else y.head
      ns := if ns then y.ns else bitOf v 1, en := false }
    match reg with
    | .bind => exec (.ringCfgWrite r reg ns v) s
        = .next (emit (setRing s r.val { y with cchan := fld v 16 9, pchan := fld v 0 9 }) (.mmio 0 0))
    | .slot => exec (.ringCfgWrite r reg ns v) s = .next (emit (setRing s r.val { y with slotsz := fld v 0 24 }) (.mmio 0 0))
    | .align => exec (.ringCfgWrite r reg ns v) s
        = .next (emit (setRing s r.val { y with aen := bitOf v 12, bobj := BitVec.ofNat 12 (fld v 0 12) }) (.mmio 0 0))
    | .cfg => 2 ≤ fld v 16 8 →
        (bitOf v 0 = false ∨ bindOk s' r.val z = true →
          exec (.ringCfgWrite r reg ns v) s = .next (emit (setRing s' r.val { z with en := bitOf v 0 }) (.mmio 0 0)))
        ∧ (bitOf v 0 = true → bindOk s' r.val z = false → ∃ t, exec (.ringCfgWrite r reg ns v) s = .next (emit t (.mmio 0 0))
            ∧ t = { setRing s' r.val z with aon := t.aon, fresh := t.fresh } ∧ Crosses s' t 0x04 off 0 0x3A))
  ∧ (∀ (s : State) (q : Fin 256) (ns : Bool) (v : W32), Canon s →
    (∀ d z, stream s d = some z → z.wait ≠ .pop none ∧ z.wait ≠ .push) →
    let x := hq s q.val
    (Served s (0x11004 + 0x10 * q.val) ns (hqSecure s q.val) → x.en = true → v ≠ BitVec.allOnes 32 →
      (x.q.length < 64 → exec (.hqRegPush q ns v) s
        = .next (emit (setHq s q.val { x with last := v, q := x.q ++ [v] }) (.mmio 0 0)))
      ∧ (64 ≤ x.q.length → ∃ t, exec (.hqRegPush q ns v) s = .next (emit t (.mmio 0 0))
          ∧ hq t q.val = { x with last := v, ovf := true } ∧ Crosses s t 0x04 (0x11004 + 0x10 * q.val) 0 0x3A))
    ∧ (Served s (0x11008 + 0x10 * q.val) ns (hqSecure s q.val) → x.en = true →
      (∀ h rest, x.q = h :: rest → exec (.hqRegPop q ns) s = .next (emit (setHq s q.val { x with q := rest }) (.mmio 0 h)))
      ∧ (x.q = [] → ∃ t, exec (.hqRegPop q ns) s = .next (emit t (.mmio 0 (BitVec.allOnes 32)))
          ∧ hq t q.val = { x with under := true } ∧ Crosses s t 0x04 (0x11008 + 0x10 * q.val) 0 0x3A))
    ∧ (Served s (0x11000 + 0x10 * q.val) ns (hqSecure s q.val) →
      exec (.hqReset q ns v) s = .next (emit (setHq (nsNotice s (0x11000 + 0x10 * q.val) ns v) q.val { x with
        en := bitOf v 0, ns := if ns then x.ns else bitOf v 1, q := [] }) (.mmio 0 0))))

/-- R112, R121, R156, R180, R181, R183, R189, R198, R207: the echo cache is flushed and no copy on its way is installed; a relay chain
is enabled with members it may have, whose world it takes then (R321), and disabled by EN; a read of a high-water mark returns and
restarts it (log 27); CLRCNT and CLR clear their counters; RESEED waits for the next draw; DIS disarms a pool. -/
def Obligations.DataPathRegisters : Prop :=
  (∀ (s : State) (ns : Bool) (v : W32), Served s 0x7050 ns (echoSecure s) →
    ∃ t, exec (.echoFlush ns v) s = .next (emit t (.mmio 0 0)) ∧ t.path.echo = [] ∧ t.path.echoFlush = true
      ∧ t.path.echoDis = bitOf v 1 ∧ (∀ l ∈ t.path.lines, l.echo ≠ 1)
      ∧ t = { s with path := { s.path with
          echo := [], echoFlush := true, echoDis := bitOf v 1, lines := t.path.lines } }
      ∧ t.path.lines.map (·.id) = s.path.lines.map (·.id))
  ∧ (∀ s : State, exec .echoFlushDone s = .next { s with path := { s.path with echoFlush := false } })
  ∧ (∀ (s : State) (n : Fin 16) (ns : Bool) (v : W32), Served s (0x7080 + 4 * n.val) ns (relaySecure s n.val) →
    let x := relay s n.val
    let ok := bitOf v 16 = true → relayOk s ((List.range 16).filter fun k => bitOf v k) = true
    (x.en = true → exec (.relayEnable n ns v) s = .next (emit (setRelay s n.val { x with en := bitOf v 16 }) (.mmio 0 0)))
    ∧ (x.en = false → ok → exec (.relayEnable n ns v) s
        = .next (emit (setRelay s n.val ⟨bitOf v 16, BitVec.ofNat 16 (fld v 0 16), if bitOf v 16
            then ((List.range 16).filter fun k => bitOf v k).any fun k => domSecure s (48 + k / 2) else x.sec⟩) (.mmio 0 0)))
    ∧ (x.en = false → ¬ ok → ∃ t, exec (.relayEnable n ns v) s = .next (emit t (.mmio 0 0))
        ∧ t = { s with aon := t.aon, fresh := t.fresh } ∧ Crosses s t 0x04 (0x7080 + 4 * n.val) 0 0x2C))
  ∧ (∀ (s : State) (p : Pool) (ns : Bool),
    Served s (match p with | .rd => 0x7040 | .wr => 0x7044 | .rm => 0x7048) ns (domSecure s 60) →
    let u := tagsUsed s p
    let h := match p with | .rd => s.path.hwmRd | .wr => s.path.hwmWr | .rm => s.path.hwmRm
    exec (.tagHwmRead p ns) s = .next (emit { s with path := match p with
        | .rd => { s.path with hwmRd := u } | .wr => { s.path with hwmWr := u } | .rm => { s.path with hwmRm := u } }
      (.mmio 0 (BitVec.ofNat 32 (2 ^ 16 * min h 0xFFFF + min u 0xFFFF)))))
  ∧ (∀ (s : State) (q : Fin 4) (ns : Bool), Served s (0x1A000 + 0x40 * q.val) ns (domSecure s (8 + q.val)) →
    let u := landUsed s q.val fun _ => true
    exec (.kqLandRead q ns) s = .next (emit (setKq s q.val { kq s q.val with hwm := u })
      (.mmio 0 (BitVec.ofNat 32 (2 ^ 16 * min (kq s q.val).hwm 0x3FFF + min u 0x3FFF)))))
  ∧ (∀ (s : State) (q : Fin 4) (ns : Bool) (v : W32), Served s (0x1A01C + 0x40 * q.val) ns (domSecure s (8 + q.val)) →
    exec (.kqClrcnt q ns v) s = .next (emit (setKq s q.val { kq s q.val with
      pass := 0, extra := 0, full := 0, reswait := 0, corr := 0, uncorr := 0 }) (.mmio 0 0)))
  ∧ (∀ (s : State) (u : Fin 8) (ns : Bool) (v : W32), Served s (0x1B020 + 0x40 * u.val) ns (domSecure s (12 + u.val)) →
    (bitOf v 1 = false → exec (.mdClrcnt u ns v) s = .next (emit (setMd s u.val { md s u.val with
      sat := 0, nan := 0, blk := 0, nanblk := 0, acclines := 0, corr := 0, uncorr := 0 }) (.mmio 0 0)))
    ∧ (bitOf v 0 = false → exec (.reseed u ns v) s = .next (emit (setMd s u.val { md s u.val with reseed := true }) (.mmio 0 0))))
  ∧ (∀ (s : State) (g : Fin 16) (ns : Bool) (v : W32), Served s (0x1C01C + 0x40 * g.val) ns (domSecure s (20 + g.val)) →
    exec (.bgClrcnt g ns v) s = .next (emit (setBg s g.val { bg s g.val with
      conflict := 0, corr := 0, uncorr := 0, bites := 0 }) (.mmio 0 0)))
  ∧ (∀ (s : State) (m : Port) (ns : Bool) (v : W32), Served s (0x610C + 0x10 * m.val) ns (memThere s m.val && domSecure s (44 + m.val / 2)) →
    exec (.mpClr m ns v) s = .next (emit (if memThere s m.val then setMp s m.val { mp s m.val with late := 0, errcnt := 0 } else s)
      (.mmio 0 0)))
  ∧ (∀ (s : State) (p : Fin 32) (ns : Bool) (v : W32), Served s (0x1C404 + 0x10 * p.val) ns (poolSecure s p.val) →
    p.val < (im s).pools.length →
    exec (.poolDisarm p ns v) s = .next (emit (setPoolSt s p.val { poolSt s p.val with
      dis := bitOf v 31, thresh := BitVec.ofNat 16 (fld v 0 16), armed := (poolSt s p.val).armed && !bitOf v 31 }) (.mmio 0 0)))

/-! ### Stage memory and its ports -/

/-- R189, R191, R194, R197: two windows in a row at THRESH arm a pool with a fresh salt (its value is free, log 7); the last group to
finish its migration counts a change; a scrubbed row leaves stage memory as it is; a group whose maintenance input is fenced does neither; a
watchdog bite fences the input at its arbiter and raises the arbiter's source, while the block runs (R353). -/
def Obligations.StageKeepsItself : Prop :=
  (∀ (s : State) (g : Fin 16) (p : Fin 32) (cnt : Vector Nat 8) (c : PoolCfg), Canon s → poolIn s g.val p.val = some c →
    let cs := cnt.toList
    let x := poolSt s p.val
    let spread := cs.foldl max 0 - cs.foldl min (cs.headD 0)
    let n := if x.thresh.toNat ≤ spread then min 2 (tget (fun _ => 0) x.hits g.val + 1) else 0
    ∃ t salt, exec (.placementWindowEnd g p cnt) s = .next t ∧ t.stage.mem = s.stage.mem ∧ t.chans = s.chans
      ∧ (bg t g.val).conflict = (bg s g.val).conflict + BitVec.ofNat 32 cs.sum
      ∧ (c.echo = true → poolSt t p.val = x)
      ∧ (c.echo = false → poolSt t p.val = { x with
          hits := tset (fun _ => 0) x.hits g.val n, armed := x.armed || (n == 2 && !x.dis), next := salt })
      ∧ (x.armed = true ∨ x.dis = true ∨ n < 2 → salt = x.next))
  ∧ (∀ (s : State) (g : Fin 16) (p : Fin 32), (bg s g.val).fence.getLsbD 35 = true →
    ∀ e, exec (.saltMigrationDone g ⟨p, e⟩) s = .next s ∧ exec (.scrubRow g e) s = .next s)
  ∧ (∀ (s : State) (g : Fin 16) (p : Fin 32) (e : Ecc), Canon s → (bg s g.val).migr.contains p.val = true → (bg s g.val).fence.getLsbD 35 = false →
    ∃ t, exec (.saltMigrationDone g ⟨p, e⟩) s = .next t ∧ (bg t g.val).migr = (bg s g.val).migr.erase p.val
      ∧ (((bg s g.val).migr.erase p.val).contains p.val = false →
          (∀ k < 16, k ≠ g.val → (bg s k).migr.contains p.val = false) →
          (poolSt t p.val).changes = (poolSt s p.val).changes + 1)
      ∧ (s.ports.inq = [] → ∀ k < 16, k ≠ g.val → (bg s k).migr.contains p.val = true →
          t = { s with
            stage := { s.stage with bg := t.stage.bg, bad := t.stage.bad, rankBank := t.stage.rankBank, hintBank := t.stage.hintBank }
            aon := t.aon, fresh := t.fresh }))
  ∧ (∀ (s : State) (g : Fin 16) (e : Ecc) (r : Nat) (ls : List Nat), Canon s → (bg s g.val).scrubDis = false → (bg s g.val).fence.getLsbD 35 = false →
    powered s (0x14 + g.val) = true → nextRow s g.val 4096 (bg s g.val).pos.toNat = some (r, ls) →
    ∃ t, exec (.scrubRow g e) s = .next t ∧ (bg t g.val).pos = BitVec.ofNat 12 (r + 1) ∧ t.stage.mem = s.stage.mem
      ∧ t = { s with stage := t.stage, aon := t.aon, fresh := t.fresh })
  ∧ (∀ (s : State) (a : Arb) (i : BitVec 6) (line : Option Nat), s.boot.phase ≠ .running →
    exec (.grantWatchdogBite a i line) s = .next s)
  ∧ (∀ (s : State) (i : BitVec 6) (line : Option Nat), Canon s → s.boot.phase = .running →
    (∀ b : Fin 128, ∃ t, exec (.grantWatchdogBite (.bank b) i line) s = .next t
      ∧ bg t (b.val / 8) = { bg s (b.val / 8) with
          bites := min ((bg s (b.val / 8)).bites + 1) 255, input := i, fence := putBit (bg s (b.val / 8)).fence i.toNat true }
      ∧ Crosses s t (0x58 + b.val / 8) b.val i.toNat (0x14 + b.val / 8))
    ∧ (∀ m : Port, ∃ t, exec (.grantWatchdogBite (.mem m) i line) s = .next t ∧ Crosses s t (0x68 + m.val) 0 i.toNat (0x2C + m.val / 2)
      ∧ tget (fun _ => 0) t.stage.fenceMem m.val = putBit (tget (fun _ => 0) s.stage.fenceMem m.val) i.toNat true)
    ∧ (∀ n : CPort, ∃ t, exec (.grantWatchdogBite (.core n) i line) s = .next t ∧ Crosses s t (0x70 + n.val) 0 i.toNat (0x30 + n.val / 2)
      ∧ tget (fun _ => 0) t.stage.fenceCore n.val = putBit (tget (fun _ => 0) s.stage.fenceCore n.val) i.toNat true)
    ∧ ∀ p : Port, ∃ t, exec (.grantWatchdogBite (.link p) i line) s = .next t ∧ Crosses s t (0x80 + p.val) 0 i.toNat (0x24 + p.val)
      ∧ tget (fun _ => 0) t.stage.fenceLink p.val = putBit (tget (fun _ => 0) s.stage.fenceLink p.val) i.toNat true)

/-- R27, R193, R208, R211, R322: an inbound line read returns the 128 B of stage memory, an inbound write stores its enabled bytes and
changes no other, a non-secure request of a secure pool is answered WORLD, and another OP or SIZE at a memory port is answered ERROR. A
core's addition returns the old value and adds modulo its size (log 28). An access waits while its port or its target's group is not
powered, at a migrating pool's gate, and at a fenced input (R191, R197, R315), and a core's one that is presented while its MZ_CRDY is low
waits unaccepted. -/
def Obligations.InboundRequestsAreServed : Prop :=
  (∀ (s : State) (core : Bool) (m : Port) (n : CPort) (r : FabReq) (off : Nat), Canon s → operating s = true →
    (if core then s.pins.crdy.getLsbD n.val else true) = true →
    s.img.isNone = true ∨ (if core then (im s).cPresent.getLsbD n.val else (im s).mPresent.getLsbD m.val) = true →
    locOf s r.addr.toNat = .stage off → (poolOf s off).isSome = true → r.size = 3 → r.op.toNat ≤ 1 →
    badWords s (off / 128 * 128) (if r.op = 0 then fullBe else r.be) = [] → s.ports.inq = [] →
    (∀ l ∈ s.path.lines, ∀ p i, l.kind ≠ .inbound p i) →
    let on := powered s (if core then 48 + n.val / 2 else 44 + m.val / 2)
    let waits := inWaits s off (if core then 32 else 33)
    let port := if core then n.val else m.val
    let cmd := if core then Instr.coreInboundRequest n r .clean else .stageInboundRequest m r .clean
    let line := off / 128 * 128
    (on = false ∨ waits = true → ∃ t, exec cmd s = .next t ∧ t.ports.inq = [⟨core, port, r, .clean, true⟩]
      ∧ t = { s with clk := t.clk, ports := { s.ports with inq := t.ports.inq } })
    ∧ (on = true → waits = false → r.ns = true → stageSecure s off = true →
      ∃ t, exec cmd s = .next (emit t (.resp core port r.id 3 0)) ∧ t.stage = s.stage ∧ t.aon.wn.count = min (s.aon.wn.count + 1) 0xFFFF)
    ∧ (on = true → waits = false → r.ns = false ∨ stageSecure s off = false →
      (r.op = 0 → ∃ t, exec cmd s = .next (emit t (.resp core port r.id 0 (memLine s.stage.mem line)))
          ∧ t = { s with stage := { s.stage with rankBank := t.stage.rankBank, hintBank := t.stage.hintBank } })
      ∧ (r.op = 1 → ∃ t, exec cmd s = .next (emit t (.resp core port r.id 0 0))
          ∧ t = { s with stage := { s.stage with
              mem := t.stage.mem, bad := t.stage.bad, rankBank := t.stage.rankBank, hintBank := t.stage.hintBank } }
          ∧ (∀ j < 128, memByte t.stage.mem (line + j) = if r.be.getLsbD j then lineByte r.data j else memByte s.stage.mem (line + j))
          ∧ ∀ b, b < line ∨ line + 128 ≤ b → memByte t.stage.mem b = memByte s.stage.mem b)))
  ∧ (∀ (s : State) (n : CPort) (r : FabReq) (off : Nat) (wide : Bool), Canon s → operating s = true → s.pins.crdy.getLsbD n.val = true →
    s.img.isNone = true ∨ (im s).cPresent.getLsbD n.val = true → powered s (48 + n.val / 2) = true →
    locOf s r.addr.toNat = .stage off → inWaits s off 32 = false → s.ports.inq = [] → (poolOf s off).isSome = true →
    (r.ns = false ∨ stageSecure s off = false) → r.op = (if wide then 3 else 2) → r.size = (if wide then 1 else 0) →
    let k := if wide then 8 else 4
    off % k = 0 → s.stage.bad.contains (off / 8 * 8) = false →
    let old := memNat s.stage.mem off k
    ∃ t, exec (.coreInboundRequest n r .clean) s
        = .next (emit t (.resp true n.val r.id 0 (BitVec.ofNat 1024 (old * 2 ^ (8 * (off % 128))))))
      ∧ memNat t.stage.mem off k = (old + r.data.toNat / 2 ^ (8 * (off % 128)) % 2 ^ (8 * k)) % 2 ^ (8 * k)
      ∧ ∀ b, b < off ∨ off + k ≤ b → memByte t.stage.mem b = memByte s.stage.mem b)
  ∧ (∀ (s : State) (n : CPort) (r : FabReq) (e : Ecc), operating s = true → s.img.isNone = true ∨ (im s).cPresent.getLsbD n.val = true →
    s.pins.crdy.getLsbD n.val = false → s.ports.inq = [] →
    ∃ t, exec (.coreInboundRequest n r e) s = .next t
      ∧ t = { s with clk := t.clk, ports := { s.ports with inq := [⟨true, n.val, r, e, false⟩] } })
  ∧ (∀ (s : State) (m : Port) (r : FabReq) (e : Ecc), operating s = true → s.img.isNone = true ∨ (im s).mPresent.getLsbD m.val = true →
    powered s (44 + m.val / 2) = true → s.ports.inq = [] → (∀ l ∈ s.path.lines, ∀ p i, l.kind ≠ .inbound p i) →
    (r.size ≠ 3 ∨ 2 ≤ r.op.toNat) →
    exec (.stageInboundRequest m r e) s = .next (emit s (.resp false m.val r.id 2 0)))

/-- R209, R211, R213, R374: MZ_CRDYn rises and falls, and a port that falls has no line in flight any longer; a freed activation
position takes the line held for it; a bad request of the MMIO target is answered ERROR with one event, and so is a misaligned one (log
36); that a good request which MMIO_BAD_REQUEST carries is served all the same is the model's choice (log 15): a read of 8 B is two reads,
the lower first, with one answer. REGISTER_WRITE writes MZ_MSI_DATA, MZ_IRQ_CHEN bit by bit as its world may, and MZ_FS_CFG as FS_CFG_WRITE
does. -/
def Obligations.CoresAndTheMmioTarget : Prop :=
  (∀ (s : State) (n : CPort) (level : Bool), Canon s → ∃ t, exec (.coreReadyChange n level) s = .next t
    ∧ t.pins = { s.pins with crdy := putBit s.pins.crdy n.val level }
    ∧ (level = true → s.ports.inq = [] → t = { s with pins := t.pins })
    ∧ (level = false → ∀ l ∈ s.path.lines, atCore s n.val l = true → lineOf t l.id = none ∧ ∀ h ∈ (cp t n.val).held, h.1 ≠ l.id))
  ∧ (∀ (s : State) (n : CPort) (p : BitVec 13),
    let k := cp s n.val
    ((∀ h ∈ k.held, h.2 ≠ p.toNat) →
      exec (.activationPositionFree n p) s = .next (setCp s n.val { k with busy := k.busy.erase p.toNat }))
    ∧ (∀ l : Line, Canon s → k.held.find? (fun h => h.2 == p.toNat) = some (l.id, p.toNat) → lineOf s l.id = some l →
      let off := coreOffset l.loc
      ∃ t, exec (.activationPositionFree n p) s
          = .next (emit t (.core n.val off (coreDest s n.val off) 1 l.ns false 0 (l.id % 65536) l.data l.be))
        ∧ t = { setCp s n.val { k with held := k.held.erase (l.id, p.toNat) } with
            stage := { s.stage with rankCore := t.stage.rankCore } }))
  ∧ (∀ (s : State) (r : FabReq), mmioReady s = true →
    (2 ≤ r.op.toNat ∨ 2 ≤ r.size.toNat ∨ r.addr.toNat % (if r.size = 0 then 4 else 8) ≠ 0) →
    ∃ t, exec (.mmioBadRequest r) s = .next (emit t (.mmio 2 0)) ∧ t = { s with aon := t.aon, fresh := t.fresh }
      ∧ Crosses s t 0x04 (r.addr.toNat % 2 ^ 20) 0 0x2C)
  ∧ (∀ (s : State) (r : FabReq), mmioReady s = true → r.op = 0 → r.addr.toNat % 8 = 0 →
    let off := r.addr.toNat % 2 ^ 20
    (r.size = 0 → exec (.mmioBadRequest r) s = .next (emit (readAt s off r.ns).1 (.mmio 0 (readAt s off r.ns).2)))
    ∧ (r.size = 1 → let a := readAt s off r.ns
        let b := readAt a.1 (off + 4) r.ns
        exec (.mmioBadRequest r) s = .next (emit b.1 (.mmio8 0 a.2 b.2))))
  ∧ (∀ (s : State) (off : BitVec 20) (ns : Bool) (v : W32), mmioReady s = true → off.toNat % 4 ≠ 0 →
    ∃ t, exec (.registerWrite off ns v) s = .next (emit t (.mmio 2 0)) ∧ t = { s with aon := t.aon, fresh := t.fresh }
      ∧ Crosses s t 0x04 off.toNat 0 0x2C)
  ∧ (∀ (s : State) (l : Fin 40) (ns : Bool) (v : W32),
    Served s (0x5408 + 0x10 * l.val) ns (msiThere s l.val && !(msi s l.val).ns) →
    exec (.registerWrite (BitVec.ofNat 20 (0x5408 + 0x10 * l.val)) ns v) s
      = .next (emit (setMsi s l.val { msi s l.val with data := v }) (.mmio 0 0)))
  ∧ (∀ (s : State) (k : Fin 16) (ns : Bool) (v : W32), Served s (0x5040 + 4 * k.val) ns false →
    ∃ t, exec (.registerWrite (BitVec.ofNat 20 (0x5040 + 4 * k.val)) ns v) s = .next (emit t (.mmio 0 0))
      ∧ t.ports.chPend = s.ports.chPend ∧ ∀ i < 512, t.ports.chEn.getLsbD i
          = if i / 32 = k.val ∧ (ns = true → chanSecure s i = false) then v.getLsbD (i % 32) else s.ports.chEn.getLsbD i)
  ∧ (∀ (s : State) (i : Fin 256) (ns : Bool) (v : W32), mmioReady s = true →
    exec (.registerWrite (BitVec.ofNat 20 (0x2800 + 8 * i.val)) ns v) s = exec (.fsCfgWrite i ns v) s)

/-! ### Links -/

/-- R226, R227, R229, R241, Table 10-5: presence, MZ_LK_CTRL, the state counts and the watch on corrected symbols move a port between
its states. DISABLE takes it to OFF; RETRAIN, an electrical idle and a window above the threshold retrain a port that carries traffic;
a count that expires in a training state takes it to DOWN. CORRCW takes in, at a window's end, the corrected codewords that no flit has
shown (log 17). -/
def Obligations.LinkStatesMove : Prop :=
  (∀ (s : State) (p : Port), Canon s → ∃ t, exec (.linkPresenceChange p true) s = .next t
    ∧ t.pins = { s.pins with prsntN := putBit s.pins.prsntN p.val true }
    ∧ (link t p.val).st = (if (link s p.val).st = .off then .off else .detect))
  ∧ (∀ (s : State) (p : Port), exec (.linkPresenceChange p false) s
    = .next { s with pins := { s.pins with prsntN := putBit s.pins.prsntN p.val false } })
  ∧ (∀ (s : State) (p : Port) (ns : Bool) (v : W32), Canon s → (s.img.isNone = true ∨ linkPresent s p.val = true) →
    Served s (0x1D000 + 0x40 * p.val) ns (domSecure s (36 + p.val)) →
    let l := link s p.val
    (bitOf v 0 = true → bitOf v 1 = false → bitOf v 2 = false → ∃ t, exec (.linkDisable p ns v) s = .next (emit t (.mmio 0 0))
      ∧ (link t p.val).st = .off ∧ (link t p.val).disable = true ∧ (link t p.val).fixeq = bitOf v 3)
    ∧ (bitOf v 0 = false → bitOf v 1 = false → bitOf v 2 = false → l.st = .off → s.img.isSome = true →
      s.boot.phase = .running → powered s (0x24 + p.val) = true → ∃ t, exec (.linkDisable p ns v) s = .next (emit t (.mmio 0 0))
      ∧ (link t p.val).st = .detect ∧ (link t p.val).disable = false)
    ∧ (bitOf v 0 = false → bitOf v 2 = false → linkUp l = true → ∃ t, exec (.linkRetrain p ns v) s = .next (emit t (.mmio 0 0))
      ∧ Retrains s t p.val)
    ∧ (bitOf v 0 = false → bitOf v 1 = false → l.st ≠ .off → exec (.linkClrcnt p ns v) s = .next (emit (setLink s p.val { l with
        fixeq := bitOf v 3, disable := false, uncorr := 0, corrcw := 0, nackrx := 0, nacktx := 0, retrains := 0, downs := 0
        route := 0, pktdrop := 0 }) (.mmio 0 0))))
  ∧ (∀ (s : State) (p : Port), Canon s →
    let l := link s p.val
    ∃ t, exec (.linkStateTimerExpire p) s = .next t ∧ (∀ q < 8, q ≠ p.val → l.st = .detect ∨ l.st = .down → link t q = link s q)
      ∧ (l.st = .detect → s.pins.prsntN.getLsbD p.val = false → (link t p.val).st = .wake)
      ∧ (l.st = .wake ∨ l.st = .eq ∨ l.st = .lock ∨ l.st = .ident ∨ l.st = .retrain → GoesDown s t p.val)
      ∧ (l.st = .down → (link t p.val).st = .detect)
      ∧ (l.st = .refused → ∃ f, t = { s with links := t.links, out := s.out ++ [.flit p.val f] } ∧ fType f = 2 ∧ ctlKind f = 1
          ∧ link t p.val = { l with owed := (link t p.val).owed, crTurn := (link t p.val).crTurn }))
  ∧ (∀ (s : State) (p : Port), Canon s → (link s p.val).st = .wake →
    ∃ t, exec (.linkSignalDetect p) s = .next t ∧ (link t p.val).st = .eq ∧ (link t p.val).lane = [])
  ∧ (∀ (s : State) (p : Port), Canon s → linkUp (link s p.val) = true →
    ∃ t, exec (.electricalIdleDetect p) s = .next t ∧ Retrains s t p.val)
  ∧ (∀ (s : State) (p : Port) (n : W32) (cws : BitVec 23), Canon s →
    let l := link s p.val
    ∃ t, exec (.serWindowEnd p ⟨n, cws⟩) s = .next t ∧ (link t p.val).syms = n
      ∧ (link t p.val).corrcw = BitVec.ofNat 16 (min (l.corrcw.toNat + (cws.toNat - l.corrWin)) 65535)
      ∧ (linkUp l = true → 1024 * l.thresh.toNat < n.toNat → Retrains s t p.val)
      ∧ (n.toNat ≤ 1024 * l.thresh.toNat → (link t p.val).st = l.st))

/-- R228 to R231: training. A field whose check is good is acted on where its RQN is new, and EQ ends when every lane has had READY in four
frames; SYNC numbers in sequence count toward alignment; a port that has held it exchanges IDENTs, decides after two alike, and takes
the outcome that both sides CONFIRM: traffic with full credit, or REFUSED, with REASON 4 where they differ. A malformed CONTROL
flit is discarded with one event. How often a side sends is the model's choice (log 22): one frame of its own, with READY 1, for each that
comes, two IDENTs as it enters IDENT, one SYNC for each, and each stretch in LOCK or IDENT repeats what the step sends. -/
def Obligations.LinksTrain : Prop :=
  (∀ (s : State) (p : Port) (k : Fin 8) (f : W64), Canon s → inEq (link s p.val) = true →
    let l := link s p.val
    let y := laneOf l k.val
    let x := if fld f 56 8 = frameCheck f then { laneReq y (f.toNat % 2 ^ 32) false l.fixeq with
        precoded := if y.lastRqn = some (BitVec.ofNat 8 (f.toNat % 2 ^ 32 / 256)) then y.precoded else bitOf f 32
        peerReady := if bitOf f 34 then min 4 (y.peerReady + 1) else 0 }
      else { y with peerReady := 0 }
    let l' := { l with lane := tset (fun _ => {}) l.lane k.val x }
    let all := ∀ j < 8, 4 ≤ (laneOf l' j).peerReady
    (¬ all → exec (.trainingFrame p k f) s = .next (emit (setLink s p.val l') (.frame p.val k.val (laneFrame x k.val))))
    ∧ (all → ∃ t g, exec (.trainingFrame p k f) s = .next t
        ∧ t.out = s.out ++ [.frame p.val k.val (laneFrame x k.val), .flit p.val g] ∧ (l.st = .eq → (link t p.val).st = .lock)
        ∧ (l.st = .retrain → (link t p.val).st = .retrain ∧ (link t p.val).sub = 1) ∧ (link t p.val).syncRun = 0))
  ∧ (∀ (s : State) (p : Port) (f : FlitData) (rx : FlitRx), Canon s → Control f 4 → inLock (link s p.val) = true →
    let l := link s p.val
    let n := fld (flitSlot f 0) 8 16
    ∃ t g, exec (.sync p ⟨f, rx⟩) s = .next t ∧ t.out = s.out ++ [.flit p.val g] ∧ (link t p.val).syncNo = n
      ∧ (link t p.val).syncRun = (if l.syncRun ≠ 0 ∧ n = (l.syncNo + 1) % 65536 then min 8 (l.syncRun + 1) else 1))
  ∧ (∀ (s : State) (p : Port), Canon s → inLock (link s p.val) = true → (link s p.val).syncRun = 8 →
    ∃ t g g', exec (.lockAlignmentHeld p) s = .next t ∧ t.out = s.out ++ [.flit p.val g, .flit p.val g'] ∧ ctlKind g = 1
      ∧ flitSlots g = flitSlots g' ∧ (link t p.val).lanes = 8 ∧ inIdent (link t p.val) = true)
  ∧ (∀ (s : State) (p : Port), Canon s → inLock (link s p.val) = true → (link s p.val).syncRun ≠ 8 →
    ∃ t g, exec (.lockAlignmentHeld p) s = .next t ∧ t = { s with links := t.links, out := s.out ++ [.flit p.val g] }
      ∧ ctlKind g = 4 ∧ (link t p.val).syncRun = (link s p.val).syncRun)
  ∧ (∀ (s : State) (p : Port), Canon s → inIdent (link s p.val) = true →
    ∃ t g, exec (.lockAlignmentHeld p) s = .next t ∧ t = { s with links := t.links, out := s.out ++ [.flit p.val g] }
      ∧ ctlKind g = if (link s p.val).decided.isSome then 2 else 1)
  ∧ (∀ (s : State) (p : Port) (f : FlitData) (rx : FlitRx), Canon s → Control f 1 → inIdent (link s p.val) = true →
    (link s p.val).decided = none → ((link s p.val).st = .retrain → bitOf f 26 = false) →
    let l := link s p.val
    let a := flitSlot f 0
    let b := flitSlot f 1
    (l.identLast ≠ some (a, b) → ∃ t g, exec (.ident p ⟨f, rx⟩) s = .next t
        ∧ t = { s with links := t.links, out := s.out ++ [.flit p.val g] } ∧ ctlKind g = 1
        ∧ (link t p.val).identLast = some (a, b) ∧ (link t p.val).decided = none)
    ∧ (l.identLast = some (a, b) → ∀ theirs, l.peerConf = some theirs → ∃ t, exec (.ident p ⟨f, rx⟩) s = .next t
        ∧ Confirmed s t p.val (identOutcome s p.val a b).1 theirs rx.rep)
    ∧ (l.identLast = some (a, b) → l.peerConf = none → ∃ t g, exec (.ident p ⟨f, rx⟩) s = .next t
        ∧ t.out = s.out ++ [.flit p.val g] ∧ ctlKind g = 2 ∧ (link t p.val).decided = some (identOutcome s p.val a b).1
        ∧ (l.st = .ident → (link t p.val).pchip = fld a 8 8 ∧ (link t p.val).ptag.toNat = fld a 64 64)
        ∧ ((identOutcome s p.val a b).2 = 2 → Crosses s t (0xC8 + p.val) (fld a 8 8) (fld a 16 4) (0x24 + p.val))
        ∧ ((identOutcome s p.val a b).2 = 1 → Crosses s t (0xD0 + p.val) (fld a 64 64) 0 (0x24 + p.val))))
  ∧ (∀ (s : State) (p : Port) (f : FlitData) (rx : FlitRx), Canon s → Control f 1 →
    let l := link s p.val
    let x := (flitSlot f 0, flitSlot f 1)
    (inIdent l = true → l.decided.isSome = true → ∃ t g, exec (.ident p ⟨f, rx⟩) s = .next t
        ∧ t.out = s.out ++ [.flit p.val g] ∧ ctlKind g = 2 ∧ (link t p.val).st = l.st ∧ (link t p.val).decided = l.decided)
    ∧ (l.st = .refused → ∀ y, l.identLast = some y →
        (y = x → exec (.ident p ⟨f, rx⟩) s = .next (fecCount s p.val rx))
        ∧ (y ≠ x → ∃ t g g', exec (.ident p ⟨f, rx⟩) s = .next t ∧ t.out = s.out ++ [.flit p.val g, .flit p.val g'] ∧ ctlKind g = 1
            ∧ flitSlots g = flitSlots g' ∧ (link t p.val).st = .ident ∧ (link t p.val).identLast = some x)))
  ∧ (∀ (s : State) (p : Port) (f : FlitData) (rx : FlitRx), Canon s → Control f 2 → inIdent (link s p.val) = true →
    ((link s p.val).st = .retrain → bitOf f 26 = false) →
    let theirs := fld (flitSlot f 0) 8 4
    ((link s p.val).decided = none → ∃ t, exec (.confirm p f rx) s = .next t ∧ t = { s with links := t.links }
      ∧ (link t p.val).peerConf = some theirs)
    ∧ (∀ o, (link s p.val).decided = some o → ∃ t, exec (.confirm p f rx) s = .next t ∧ Confirmed s t p.val o theirs rx.rep
      ∧ ((link s p.val).st = .retrain →
          ¬ (theirs = o.code ∧ o = (link s p.val).pre ∧ samePeer (link s p.val) = true) → GoesDown s t p.val)))
  ∧ (∀ (s : State) (p : Port) (f : FlitData) (rx : FlitRx), flitGood f = true → fType f = 2 → ctlGood f = false →
    ∃ t, exec (.sync p ⟨f, rx⟩) s = .next t ∧ exec (.ident p ⟨f, rx⟩) s = .next t ∧ exec (.confirm p f rx) s = .next t
      ∧ exec (.eqreq p f rx) s = .next t ∧ t = { fecCount s p.val rx with aon := t.aon, fresh := t.fresh }
      ∧ Crosses s t (0xA8 + p.val) (fld f 0 64) 0 (0x24 + p.val))

/-- R220, R221, R223, R225, R229: in service a good DATA flit in sequence is taken: its packets join the receive buffer and it is
acknowledged; a bad or out-of-sequence one is discarded with one NACK, which is repeated while it is missing. A header's FACK frees the
replay buffer and its credit is added, and too much credit retrains the port. EQREQ moves each lane, within the range of its taps that
the model takes (`laneReq`, log 22), and is answered. A codeword that is flagged uncorrectable counts once, with the first flit that
overlaps it, which is the model's choice (log 17). In the steps of RETRAIN a NACK is repeated in the flit that the step sends. -/
def Obligations.LinksCarryFlits : Prop :=
  (∀ (s : State) (p : Port) (f : FlitData) (rx : FlitRx) (h : Slot) (body rest : List Slot), Canon s → linkUp (link s p.val) = true →
    rx.flagged = false → rx.uncorr = 0 → flitGood f = true → fType f = 1 → Quiet s p.val f → fSeq f = (link s p.val).rxSeq.toNat → (link s p.val).rxPart = [] →
    flitSlots f = h :: body ++ rest → (∀ x ∈ rest, x = 0) → h ≠ 0 → badHdr h = false → badBody h body = false →
    pktLen (pOpc h) = some (body.length + 1) →
    ∃ t g, exec (.dataFlitReceived p f rx.toFlitFec rx.rep) s = .next t ∧ t = { s with links := t.links, out := s.out ++ [.flit p.val g] }
      ∧ (link t p.val).rxSeq = (link s p.val).rxSeq + 1 ∧ (link t p.val).nack = false ∧ (link t p.val).rxPart = []
      ∧ (link t p.val).rxq = (link s p.val).rxq ++ [⟨h :: body, if (link s p.val).st = .transit then 2 else 0⟩])
  ∧ (∀ (s : State) (p : Port) (f : FlitData) (rx : FlitRx), Canon s → linkUp (link s p.val) = true →
    let l := link s p.val
    (rx.flagged = true ∨ rx.uncorr ≠ 0 ∨ flitGood f = false
      ∨ (fType f = 1 ∧ fSeq f ≠ l.rxSeq.toNat ∧ Quiet s p.val f)) →
    ∃ t, exec (.dataFlitReceived p f rx.toFlitFec rx.rep) s = .next t ∧ (link t p.val).uncorr = BitVec.ofNat 16 (min (l.uncorr.toNat + rx.uncorr.val) 65535)
      ∧ (link t p.val).rxq = l.rxq ∧ (link t p.val).rxSeq = l.rxSeq ∧ (link t p.val).nack = true
      ∧ (l.nack = false → ∃ g, t = { s with links := t.links, out := s.out ++ [.flit p.val g] }
          ∧ fType g = 0 ∧ bitOf g 26 = true ∧ (link t p.val).nacktx = min (l.nacktx + 1) 65535)
      ∧ (l.nack = true → t = { s with links := t.links } ∧ (link t p.val).nacktx = l.nacktx))
  ∧ (∀ (s : State) (p : Port), Canon s → linkUp (link s p.val) = true → (link s p.val).nack = true →
    ∃ t g, exec (.nackRepeat p) s = .next t ∧ t = { s with links := t.links, out := s.out ++ [.flit p.val g] }
      ∧ fType g = 0 ∧ bitOf g 26 = true ∧ (link t p.val).nacktx = min ((link s p.val).nacktx + 1) 65535)
  ∧ (∀ (s : State) (p : Port), Canon s → inLock (link s p.val) = true ∨ inIdent (link s p.val) = true → (link s p.val).nack = true →
    ∃ t g, exec (.nackRepeat p) s = .next t ∧ t = { s with links := t.links, out := s.out ++ [.flit p.val g] }
      ∧ fType g = 2 ∧ bitOf g 26 = true ∧ (link t p.val).nacktx = min ((link s p.val).nacktx + 1) 65535)
  ∧ (∀ (s : State) (p : Port) (f : FlitData) (rx : FlitRx), Canon s → linkUp (link s p.val) = true → flitGood f = true → fType f = 0 →
    bitOf f 26 = false → (link s p.val).txq = [] →
    let l := link s p.val
    let n := (fAck f + 4096 - l.acked.toNat) % 4096
    let c := credit l (fld f 27 3) + fld f 30 11
    ∃ t, exec (.idleFlitReceived p f rx) s = .next t
      ∧ (c ≤ 2048 → t.out = s.out ∧ (link t p.val).cred = l.cred.setIfInBounds (fld f 27 3) c
          ∧ (0 < n → n ≤ l.replay.length → (link t p.val).replay = l.replay.drop n ∧ (link t p.val).acked = BitVec.ofNat 12 (fAck f)))
      ∧ (2048 < c → Retrains s t p.val))
  ∧ (∀ (s : State) (p : Port) (f : FlitData) (rx : FlitRx), Canon s → Control f 3 → linkUp (link s p.val) = true → Quiet s p.val f →
    twf (fun _ => {}) (link s p.val).lane = true →
    let l := link s p.val
    ∃ t g, exec (.eqreq p f rx) s = .next t ∧ t = { s with links := t.links, out := s.out ++ [.flit p.val g] }
      ∧ ∀ k < 8, laneOf (link t p.val) k = laneReq (laneOf l k) (fld (flitSlot f (1 + k / 4)) (32 * (k % 4)) 32) true l.fixeq)

/-! ### Packets -/

/-- R222, R223, R226, R232 to R234: the oldest packet that does not terminate here goes, with HOPS one higher and its other fields as
they are, to the port that dimension-order routing selects, on the channel of its class that the dateline rule gives, against credit
for the whole packet. A ninth hop, an absent port or a port in REFUSED raises one link-route event; a packet of a port that is not up
is counted, and a request is answered ERRRSP with LINK. A write or an addition whose data the receive buffer's code cannot correct is
answered POISON, and a packet whose header it cannot correct is discarded (R239); that it is so for an addition is the model's choice (log
51). The port that counts a packet whose selected port is absent
is the model's choice (log 21). -/
def Obligations.PacketsAreForwarded : Prop :=
  ∀ (s : State) (p : Port) (h : Slot) (b : List Slot) (v : Nat) (hp : Nat × Nat), Canon s → v ≠ 1 → (link s p.val).rxq = [⟨h :: b, v⟩] →
  pDchip h ≠ ownChip s → hop s (pDchip h) (pVc h / 2) = some hp →
  let u := takePkt s p.val 0
  let dl := if dateline s hp then 1 else if (portDim s p.val).1 = hp.1 then pVc h % 2 else 0
  let vc := 2 * (pVc h / 2) + dl
  (link u p.val).rxq = []
  ∧ (∀ q < 8, portOf s hp = some q → pHops h < 8 →
    (q ≠ p.val → linkUp (link s q) = true → (link s q).txq = [] → (link s q).replay.length < 512 → 33 + p.val ∈ (link s q).rank →
      linkFenced s q (33 + p.val) = false → b.length + 1 ≤ credit (link s q) vc →
      ∃ h', exec (.packetForward p .clean) s = .next (sendFlit (setLink u q { link s q with
          cred := (link s q).cred.setIfInBounds vc (credit (link s q) vc - (b.length + 1)), replay := (link s q).replay ++ [((link s q).txSeq, h' :: b)]
          txSeq := (link s q).txSeq + 1, starts := (link s q).starts + 1
          dlTurn := putBit (link s q).dlTurn (vc / 2) (vc % 2 = 0), rank := (link s q).rank.erase (33 + p.val) ++ [33 + p.val], hints := [] })
          q 1 (link s q).txSeq.toNat false (h' :: b))
        ∧ pHops h' = pHops h + 1 ∧ pVc h' = vc ∧ pOpc h' = pOpc h ∧ fld h' 7 89 = fld h 7 89 ∧ fld h' 100 28 = fld h 100 28)
    ∧ (q ≠ p.val → (linkUp (link s q) = true ∨ (link s q).st = .retrain) → (link s q).txq = [] →
        ((link s q).st = .retrain ∨ credit (link s q) vc < b.length + 1 ∨ linkFenced s q (33 + p.val) = true) →
        ∃ t h', exec (.packetForward p .clean) s = .next t ∧ t.out = u.out ∧ (link t q).txq = [⟨h' :: b, 33 + p.val⟩]
          ∧ pHops h' = pHops h + 1 ∧ pVc h' = vc)
    ∧ (linkUp (link s q) = false → (link s q).st ≠ .retrain → (link s q).st ≠ .refused →
        (isReq (pOpc h) = false → exec (.packetForward p .clean) s = .next (countDrop u q))
        ∧ (isReq (pOpc h) = true → pSchip h ≠ ownChip s →
            exec (.packetForward p .clean) s = .next (sendOrDrop (countDrop u q) (errFor s h 5))))
    ∧ ((link s q).st = .refused → ∃ r, Crosses s r (0xB0 + q) (pDchip h) (pHops h) (0x24 + q) ∧ Drops s r h p q))
  ∧ (8 ≤ pHops h ∨ portOf s hp = none → ∃ r, Crosses s r (0xB0 + p.val) (pDchip h) (pHops h) (0x24 + p.val) ∧ Drops s r h p p.val
      ∧ link r p.val = { link u p.val with
          route := min ((link s p.val).route + 1) 65535, pktdrop := min ((link s p.val).pktdrop + 1) 65535 })
  ∧ (2 ≤ pOpc h → pOpc h ≤ 5 → pSchip h ≠ ownChip s → exec (.packetForward p .data) s = .next (sendOrDrop u (errFor s h 1)))
  ∧ (∃ t, exec (.packetForward p .header) s = .next t ∧ Crosses s t (0xA8 + p.val) (fld h 0 64) (pSchip h) (0x24 + p.val)
      ∧ t.out = u.out ∧ (link t p.val).pktdrop = min ((link s p.val).pktdrop + 1) 65535)

/-- R236, R239: a request that terminates here meets the checks of its tag, its window, the extent and its world in that order, and the
first that fails is answered with its RESP and does nothing else. One that passes reads the line, writes it, writes its enabled bytes,
or adds modulo its size, and changes no other byte of stage memory; data that the receive buffer's code cannot correct are not used, and
the answer is POISON, which for an addition is the model's choice (log 51). Each answer leaves for the originator with the request's
tag. -/
def Obligations.RemoteRequestsAreServed : Prop :=
  ∀ (s : State) (p : Port) (h : Slot) (b : List Slot) (v : Nat), Canon s → v ≠ 1 → operating s = true →
  (link s p.val).rxq = [⟨h :: b, v⟩] → pDchip h = ownChip s →
  let u := takePkt s p.val 0
  let w := win s (pWin h)
  let off := winOff s h
  let c := if pTchk h ≠ (im s).cfgTag.toNat % 65536 ∨ 2 ≤ v then 4
    else if (im s).windows ≤ pWin h ∨ w.valid = false then 2
    else if 4096 * w.size.toNat < pOff h + reqSize (pOpc h) then 2
    else if pNs h = true ∧ (winSecure s (pWin h) = true ∨ stageSecure s off = true) then 3 else 0
  (∀ cmd opc, (cmd, opc) ∈ [(Instr.rdreq p .clean .clean, 1), (.wrreq p .clean, 2), (.wrpart p .clean, 3), (.add32 p .clean .clean, 4),
      (.add64 p .clean .clean, 5)] → pOpc h = opc → c ≠ 0 →
    (c ≠ 3 → exec cmd s = .next (sendPkt u (errFor s h c)))
    ∧ (c = 3 → ∃ t, exec cmd s = .next (sendPkt t (errFor s h 3)) ∧ t = { u with aon := t.aon, fresh := t.fresh }
        ∧ t.aon.wn.count = min (s.aon.wn.count + 1) 0xFFFF))
  ∧ (c = 0 → inWaits s off 34 = false → (poolOf s off).isSome = true →
    (∀ cmd opc, (cmd, opc) ∈ [(Instr.wrreq p .data, 2), (.wrpart p .data, 3), (.add32 p .data .clean, 4), (.add64 p .data .clean, 5)] →
      pOpc h = opc → exec cmd s = .next (sendPkt u (errFor s h 1)))
    ∧ (pOpc h = 1 → badWords s off fullBe = [] → exec (.rdreq p .clean .clean) s
        = .next (sendPkt (grantStage u off 34) (rspPkt s h 6 (dataSlots (memLine s.stage.mem off)))))
    ∧ (∀ be d cmd, (pOpc h = 2 ∧ cmd = Instr.wrreq p .clean ∧ be = fullBe ∧ d = slotsLine b)
          ∨ (pOpc h = 3 ∧ cmd = Instr.wrpart p .clean ∧ be = b.headD 0 ∧ d = slotsLine b.tail) →
        ∃ t, exec cmd s = .next (sendPkt t (rspPkt s h 7 []))
          ∧ t = { u with
              stage := { s.stage with
                mem := t.stage.mem, bad := t.stage.bad, rankBank := t.stage.rankBank, hintBank := t.stage.hintBank, bg := t.stage.bg }
              aon := t.aon, fresh := t.fresh }
          ∧ (be = fullBe → t.aon = s.aon ∧ t.stage.bg = s.stage.bg)
          ∧ (∀ j < 128, memByte t.stage.mem (off + j) = if be.getLsbD j then lineByte d j else memByte s.stage.mem (off + j))
          ∧ ∀ a, a < off ∨ off + 128 ≤ a → memByte t.stage.mem a = memByte s.stage.mem a)
    ∧ (∀ size cmd, (pOpc h = 4 ∧ cmd = Instr.add32 p .clean .clean ∧ size = 4) ∨ (pOpc h = 5 ∧ cmd = Instr.add64 p .clean .clean ∧ size = 8) →
        off % size = 0 → s.stage.bad.contains (off / 8 * 8) = false →
        ∃ t, exec cmd s = .next (sendPkt t (rspPkt s h 8 [BitVec.ofNat 128 (memNat s.stage.mem off size)]))
          ∧ t = { u with stage := { s.stage with
              mem := t.stage.mem, bad := t.stage.bad, rankBank := t.stage.rankBank, hintBank := t.stage.hintBank } }
          ∧ memNat t.stage.mem off size = (memNat s.stage.mem off size + (b.headD 0).toNat % 2 ^ (8 * size)) % 2 ^ (8 * size)
          ∧ ∀ a, a < off ∨ off + size ≤ a → memByte t.stage.mem a = memByte s.stage.mem a))
  ∧ (c = 0 → inWaits s off 34 = true → pOpc h = 1 → exec (.rdreq p .clean .clean) s = .next (locNeed s (.stage off)))

/-- R65, R75, R237, R239: a response finds its line by its tag: read data land, a write acknowledgement frees its tag, the response of a
SIGNAL completes it, and an error response ends a SIGNAL with the code its RESP gives; data that the receive buffer's code cannot
correct count as POISON. The response of a read that precedes tiles, or of a poll, is kept for it. A response that matches nothing that
waits, or whose header that code cannot correct, is discarded with one link-protocol event. The model's choices here are log 51: an
ERRRSP of RESP 0 ends in ECC, an ADDRSP with bad data is POISON, and a response of another kind than its line's matches nothing. -/
def Obligations.RemoteResponsesEndTheirLines : Prop :=
  ∀ (s : State) (p : Port) (h : Slot) (b : List Slot) (v : Nat), Canon s → v ≠ 1 → (link s p.val).rxq = [⟨h :: b, v⟩] →
  pDchip h = ownChip s →
  let u := takePkt s p.val 0
  let id := remoteNo + pRtag h
  (∀ (x : Stream) (t : Tile) (g : Group) (l : Line) (k : RdKind) (o : Nat), pOpc h = 6 → lineOf s id = some l → stream s l.ch = some x →
    l.dseq = (chan s l.ch).seq → x.tiles = [t] → t.groups = [g] → l.kind = .read t.no t.att g.no k o →
    ∃ y, exec (.rdrsp p .clean) s = .next y
      ∧ y = { u with chans := y.chans, path := { s.path with lines := s.path.lines.filter fun z => z.id != id } }
      ∧ stream y l.ch = some { x with tiles := [{ t with groups := [{ g with landed := g.landed ++ [(l.loc, k, slotsLine b)] }] }] })
  ∧ (∀ (l : Line) (no att o chip win off : Nat) (acc : Bool), pOpc h = 7 → lineOf s id = some l → l.kind = .write no att o acc →
    l.loc = .remote chip win off →
    exec (.wrack p .clean) s = .next (dropLine u id))
  ∧ (∀ (x : Stream) (l : Line) (add wide : Bool), lineOf s id = some l → l.kind = .signal add wide → stream s l.ch = some x →
    x.wait = .signal id → pOpc h = (if add then 8 else 7) →
    exec (if add then Instr.addrsp p .clean else .wrack p .clean) s
      = .next (setStream (dropLine u id) l.ch { x with st := .done cOK 0, wait := .none }))
  ∧ (∀ (x : Stream) (l : Line) (add wide : Bool) (chip win off : Nat), pOpc h = 9 → lineOf s id = some l → l.kind = .signal add wide →
    l.loc = .remote chip win off → stream s l.ch = some x → x.wait = .signal id → l.dseq = (chan s l.ch).seq →
    ∃ y, exec (.errrsp p .clean) s = .next y ∧ y.path.lines = s.path.lines.filter (fun z => z.id != id)
      ∧ stream y l.ch = some { x with wait := .none, st := match pResp h with
          | 3 => .done cWORLD 1 | 4 => .done cTAG (pSchip h) | 5 => .done cLINK (linkOf s chip (dPrio x.desc)) | _ => .done cECC 0 })
  ∧ (∀ cmd opc, (cmd, opc) ∈ [(Instr.rdrsp p .clean, 6), (.wrack p .clean, 7), (.addrsp p .clean, 8), (.errrsp p .clean, 9)] →
    pOpc h = opc → tagLine s h opc = none →
    (∀ e, ownReadTag s h opc = some e → exec cmd s = .next { u with ports := { u.ports with own := u.ports.own.map fun y =>
      if y.id == e.id then { y with ans := some (if opc = 6 then (0, slotsLine b)
        else (if pResp h = 0 then 2 else pResp h, BitVec.ofNat 1024 (pSchip h))) } else y } })
    ∧ (ownReadTag s h opc = none → (∀ e, ownOf s id = some e → isDead e = false) → ∃ t, exec cmd s = .next t ∧ t = { u with aon := t.aon, fresh := t.fresh }
      ∧ Crosses s t (0xA8 + p.val) (fld h 0 64) (pSchip h) (0x24 + p.val)))
  ∧ (∀ l : Line,
    (pOpc h = 6 → tagLine s h 6 = some l → exec (.rdrsp p .data) s = .next (lineFail u l .poison))
    ∧ (pOpc h = 8 → tagLine s h 8 = some l → exec (.addrsp p .data) s = .next (lineFail u l .poison)))
  ∧ (∀ cmd opc, (cmd, opc) ∈ [(Instr.rdrsp p .header, 6), (.wrack p .header, 7), (.addrsp p .header, 8), (.errrsp p .header, 9)] →
    pOpc h = opc → ∃ t, exec cmd s = .next t ∧ Crosses s t (0xA8 + p.val) (fld h 0 64) (pSchip h) (0x24 + p.val)
      ∧ t.path.lines = s.path.lines)

/-! ### Barrier objects, mailboxes and the dump -/

/-- R45, R281, R286 to R295, R327: an arrival message at the home is counted, completes the round, or is answered with the result of
the first check it fails; the last arrival advances EPOCH and completes the waiters that it releases. A release, an abandonment or a
poisoning is passed on for its remaining hops and applied, with its waiters completed, unless its tag, its HOME or its world is not
the object's. An arrival carries the EPOCH of the copy of the chip that sends it. That an acknowledgement with CHAN 0x1FF is the host's also
while the channel of that number waits is the model's choice (log 24), and so is DETAIL 13 or 14 of one with STATE (log 52). -/
def Obligations.BarrierMessagesAct : Prop :=
  (∀ (s : State) (p : Port) (h b1 : Slot) (v : Nat), Canon s → v ≠ 1 → (link s p.val).rxq = [⟨[h, b1], v⟩] → pDchip h = ownChip s →
  pOpc h = 10 →
  let u := takePkt s p.val 0
  let kind := fld b1 64 3
  let o := fld b1 67 12
  let epoch := fld b1 79 2
  let pm1 := fld b1 81 14
  let code := fld b1 95 4
  let chan := fld b1 99 9
  let dim := fld b1 108 2
  let rem := fld b1 110 2
  let home := fld b1 112 8
  let x := bar s o
  let mine := v < 2 ∧ fld b1 0 64 = (im s).cfgTag.toNat
  let open_ := inBox s o (pSchip h) = true ∧ (pSchip h = ownChip s ∨ ∀ c, objOwner s o ≠ some (c, true))
  let bare := fun y : Stream => { y with pre := [], tiles := y.tiles.map fun u : Tile => if u.walked then u else { u with xset := [] } }
  let host := chan = 0x1FF ∧ s.hub.arrBusy = true ∧ o = s.hub.arrObj.toNat
  let ack := fun t r => Host.Outcome.next (φ := Fault) (ρ := Refusal) (sendAck t (pSchip h) o r chan (pNs h))
  (kind = 0 →
    (¬ mine → exec (.barrArrive p .clean) s = ack u cTAG)
    ∧ (mine → pNs h = true → barSecure s o = true → ∃ t, exec (.barrArrive p .clean) s = ack t cWORLD
        ∧ t = { u with aon := t.aon, fresh := t.fresh } ∧ t.aon.wn.count = min (s.aon.wn.count + 1) 0xFFFF)
    ∧ (mine → (pNs h = false ∨ barSecure s o = false) →
      (¬ open_ → exec (.barrArrive p .clean) s = ack u cSTATE)
      ∧ (open_ →
        (x.st = .abandoned → exec (.barrArrive p .clean) s = ack u cABANDONED)
        ∧ (x.st = .poisoned → exec (.barrArrive p .clean) s = ack u cPOISONED)
        ∧ (x.st = .saved → exec (.barrArrive p .clean) s = ack u cSTATE)
        ∧ (x.st = .idle ∨ x.st = .gather → (epoch ≠ x.epoch.toNat ∨ (x.st = .gather ∧ x.need.toNat ≠ pm1)) →
          ∃ t, exec (.barrArrive p .clean) s = ack t cSTATE ∧ t = { u with aon := t.aon, fresh := t.fresh }
            ∧ Crosses s t 0x09 o chan 0x3A)
        ∧ (x.st = .idle ∨ (x.st = .gather ∧ x.need.toNat = pm1) → epoch = x.epoch.toNat →
          (x.count.toNat ≠ pm1 → exec (.barrArrive p .clean) s = ack (setBar u o { x with
              st := .gather, count := BitVec.ofNat 14 (x.count.toNat + 1), need := BitVec.ofNat 14 pm1 }) cOK)
          ∧ (x.count.toNat = pm1 → ∃ t, exec (.barrArrive p .clean) s = ack t cOK
              ∧ bar t o = { x with st := .idle, count := 0, need := BitVec.ofNat 14 pm1, epoch := x.epoch + 1 }
              ∧ ∀ c ∈ barWaiters s o, ∀ y, stream s c = some y →
                  stream t c = some (if waitTag s c = x.epoch + 1 then y else { y with st := .done cOK 0, wait := .none }))))))
  ∧ (kind = 1 →
    (∀ y, stream s chan = some y → y.wait = .ack o → ¬ host →
      (code ≠ cSTATE → code ≠ cTAG → code ≠ cWORLD →
        exec (.barrAck p .clean) s = .next (setStream u chan { y with st := .done code 0, wait := .none }))
      ∧ (code = cTAG → exec (.barrAck p .clean) s = .next (setStream u chan { y with st := .done cTAG home, wait := .none }))
      ∧ (code = cSTATE → ∃ t d, exec (.barrAck p .clean) s = .next t ∧ (d = 13 ∨ d = 14)
          ∧ stream t chan = some { y with st := .done cSTATE d, wait := .none } ∧ Crosses s t 0x04 y.addr d (feIsland chan))
      ∧ (code = cWORLD → ∃ t d, exec (.barrAck p .clean) s = .next t
          ∧ stream t chan = some { y with st := .done cWORLD d, wait := .none }))
    ∧ ((∀ y, stream s chan = some y → y.wait ≠ .ack o) → ¬ host → exec (.barrAck p .clean) s = .next u)
    ∧ (host → ∃ t, exec (.barrAck p .clean) s = .next t ∧ t.hub = { s.hub with arrBusy := false, arrRes := code } ∧ t.chans = s.chans
        ∧ (code ≠ cSTATE → t = { u with hub := t.hub })
        ∧ (code = cSTATE → ∃ d, (d = 13 ∨ d = 14) ∧ Crosses s t 0x04 0xF014 d 0x3A)))
  ∧ (∀ cmd n, (cmd, n) ∈ [(Instr.releaseApply p .clean, 2), (.abandon p .clean, 3), (.poison p .clean, 4)] → kind = n →
    let here := n = 2 ∨ home = ownChip s ∨ fromSpread s p.val ⟨[h, b1], v⟩ = true
    (2 ≤ v → fld b1 0 64 = (im s).cfgTag.toNat → exec cmd s = .next u)
    ∧ (fld b1 0 64 ≠ (im s).cfgTag.toNat → ∃ t, exec cmd s = .next t ∧ t = { u with aon := t.aon, fresh := t.fresh }
        ∧ Crosses s t (0xD0 + p.val) (fld b1 0 64) 0 (0x24 + p.val))
    ∧ (mine → ¬ here → exec cmd s = .next (sendPkt u (barrPkt s home n o 0 0 0 0 0 0 home (pNs h))))
    ∧ (mine → here → (barHome s o ≠ home ∨ pNs h = barSecure s o) → ∃ r t, exec cmd s = .next t ∧ Crosses r t 0x0A o home 0x3A
        ∧ t.hub = s.hub ∧ t.chans = s.chans ∧ (n ≠ 2 → home = ownChip s → r = u))
    ∧ (mine → here → barHome s o = home → pNs h ≠ barSecure s o → ∃ t, exec cmd s = .next t
        ∧ bar t o = (if n = 2 then { x with epoch := BitVec.ofNat 2 epoch }
            else { x with st := if n = 4 ∨ x.st = .poisoned then .poisoned else .abandoned })
        ∧ (∀ c ∈ barWaiters s o, ∀ y, stream s c = some y →
            let z := if n = 2 ∧ (waitTag s c).toNat = epoch then y
              else { y with st := .done (if n = 2 then cOK else if n = 3 then cABANDONED else cPOISONED) 0, wait := .none }
            (n ≠ 3 → stream t c = some z) ∧ (n = 3 → (stream t c).map bare = some (bare z)))
        ∧ (n = 3 → ∀ c ∈ barWaiters s o, (ctx s (chanCfg s c).ctx).st = .run →
            (ctx t (chanCfg s c).ctx).st = .switching ∧ (ctx t (chanCfg s c).ctx).cause = 3)
        ∧ (n = 2 ∨ home ≠ ownChip s → (∀ k < 4, dim < k → barLen s o k = 1) →
            (rem = 0 → t.out = u.out)
            ∧ (∀ q < 8, rem ≠ 0 → portOf s (dim, 1 - (portDim s p.val).2) = some q → linkUp (link s q) = true →
                (link s q).txq = [] → (link s q).replay.length < 512 → 41 ∈ (link s q).rank → linkFenced s q 41 = false →
                2 ≤ credit (link s q) 6 → 2 ≤ credit (link s q) 7 → ownChip s < 256 → neighbour s q < 256 →
                ∃ g, t.out = u.out ++ [.flit q g] ∧ fType g = 1 ∧ pOpc (flitSlot g 0) = 10 ∧ pDchip (flitSlot g 0) = neighbour s q
                  ∧ fld (flitSlot g 1) 0 110 = fld b1 0 79 + 2 ^ 79 * epoch + 2 ^ 108 * dim ∧ fld (flitSlot g 1) 110 2 = rem - 1
                  ∧ fld (flitSlot g 1) 112 16 = home)))))
  ∧ (∀ (s : State) (c : Ch) (x : Stream) (o : Nat), Canon s → Decoded s c.val x 5 → sSop x.desc = 2 → Settled s c.val →
    barObj s (chanCfg s c.val).ctx (sBvid x.desc) = some o → (chanSecure s c.val = true ∨ barSecure s o = false) →
    (barHome s o ≠ ownChip s → ∃ t, stream t c.val = some { x with st := .started, wait := .ack o } ∧ t.hub = s.hub
      ∧ exec (.arrive c) s = .next (sendPkt t (barrPkt s (barHome s o) 0 o (bar s o).epoch.toNat (sPcount x.desc) 0 c.val 0 0
          (barHome s o) (!chanSecure s c.val))))
    ∧ (barHome s o = ownChip s → inBox s o (ownChip s) = true → (bar s o).st = .gather → (bar s o).need.toNat ≠ sPcount x.desc →
      ∃ t q r, exec (.arrive c) s = .next t ∧ stream t c.val = some { x with st := .done cSTATE 13, wait := .none } ∧ t.hub = s.hub
        ∧ t.aon.fc.evq = s.aon.fc.evq ++ [q, r] ∧ q.ev = ⟨9, BitVec.ofNat 64 o, BitVec.ofNat 32 c.val, 0x3A⟩))
  ∧ (∀ (s : State) (ns : Bool) (v : W32), Served s 0xF014 ns (barSecure s (fld v 0 12)) → s.hub.arrBusy = false →
    (∀ c, objOwner s (fld v 0 12) ≠ some (c, true)) → barHome s (fld v 0 12) ≠ ownChip s →
    ∃ t, t.hub.arrBusy = true ∧ exec (.hostArrive ns v) s = .next (emit (sendPkt t (barrPkt s (barHome s (fld v 0 12)) 0 (fld v 0 12)
      (bar s (fld v 0 12)).epoch.toNat (fld v 12 14) 0 0x1FF 0 0 (barHome s (fld v 0 12)) ns)) (.mmio 0 0)))

/-- R284 to R286, R300: a host arrival is made at this chip's home, sent to another, or refused; INIT, the configuration and the map
of objects are written when the object or the context stands still, and refused with one event otherwise (log 24). -/
def Obligations.BarrierRegisters : Prop :=
  (∀ (s : State) (ns : Bool) (v : W32), Canon s →
    let o := fld v 0 12
    let pm1 := fld v 12 14
    let x := bar s o
    let hub := { s.hub with arrPm1 := BitVec.ofNat 14 pm1, arrObj := BitVec.ofNat 12 o }
    Served s 0xF014 ns (barSecure s o) →
    (s.hub.arrBusy = true → ∃ t, exec (.hostArrive ns v) s = .next (emit t (.mmio 0 0)) ∧ t = { s with aon := t.aon, fresh := t.fresh }
      ∧ Crosses s t 0x04 0xF014 0 0x3A)
    ∧ (s.hub.arrBusy = false → (∃ c, objOwner s o = some (c, true)) → ∃ t, exec (.hostArrive ns v) s = .next (emit t (.mmio 0 0))
        ∧ t = { s with hub := { hub with arrRes := cSTATE }, aon := t.aon, fresh := t.fresh } ∧ Crosses s t 0x04 0xF014 14 0x3A)
    ∧ (s.hub.arrBusy = false → (∀ c, objOwner s o ≠ some (c, true)) →
      (barHome s o ≠ ownChip s → exec (.hostArrive ns v) s = .next (emit (sendPkt { s with hub := { hub with arrBusy := true } }
          (barrPkt s (barHome s o) 0 o x.epoch.toNat pm1 0 0x1FF 0 0 (barHome s o) ns)) (.mmio 0 0)))
      ∧ (barHome s o = ownChip s → inBox s o (ownChip s) = true → x.st = .idle ∨ (x.st = .gather ∧ x.need.toNat = pm1) →
        ∃ t, exec (.hostArrive ns v) s = .next (emit t (.mmio 0 0)) ∧ t.hub.arrRes = cOK ∧ t.hub.arrBusy = false
          ∧ bar t o = (if x.count.toNat = pm1 then { x with st := .idle, count := 0, need := BitVec.ofNat 14 pm1, epoch := x.epoch + 1 }
              else { x with st := .gather, count := BitVec.ofNat 14 (x.count.toNat + 1), need := BitVec.ofNat 14 pm1 }))))
  ∧ (∀ s : State, s.hub.arrBusy = true →
    exec .hostArriveTimeout s = .next { s with hub := { s.hub with arrBusy := false, arrRes := cTIMEOUT } })
  ∧ (∀ (s : State) (ns : Bool) (v : W32),
    let o := s.hub.barSel.toNat
    let x := bar s o
    (Served s 0xF010 ns (barSecure s o) →
      (x.st ≠ .saved → barWaiters s o = [] → exec (.init ns v) s
        = .next (emit (setBar s o { x with st := .idle, epoch := 0, count := 0, need := 0 }) (.mmio 0 0)))
      ∧ (x.st = .saved ∨ barWaiters s o ≠ [] → ∃ t, exec (.init ns v) s = .next (emit t (.mmio 0 0))
          ∧ t = { s with aon := t.aon, fresh := t.fresh } ∧ Crosses s t 0x04 0xF010 0 0x3A))
    ∧ (Served s 0xF004 ns (barSecure s o) →
      let fits := ∀ k < 4, fld v (24 + 2 * k) 2 + 1 ≤ extent s k ∧ fld v (16 + 2 * k) 2 < extent s k
      let still := (x.st = .idle ∨ x.st = .abandoned ∨ x.st = .poisoned) ∧ barWaiters s o = []
      (still → fits → exec (.barCfgWrite ns v) s = .next (emit (setBar s o { x with
          home := some (fld v 0 8), lo := BitVec.ofNat 8 (fld v 16 8), lenm1 := BitVec.ofNat 8 (fld v 24 8) }) (.mmio 0 0)))
      ∧ (¬ (still ∧ fits) → ∃ t, exec (.barCfgWrite ns v) s = .next (emit t (.mmio 0 0))
          ∧ t = { s with aon := t.aon, fresh := t.fresh } ∧ Crosses s t 0x04 0xF004 0 0x3A)))
  ∧ (∀ (s : State) (c : Cx) (ns : Bool) (v : W32), Served s (0xF100 + 4 * c.val) ns (ctxSecure s c.val) →
    let count := fld v 12 11
    let base := fld v 0 12
    let may := ((ctx s c.val).st = .out ∨ ∀ k ∈ ctxChans s c.val, chState s k = .idle ∨ chState s k = .halted ∨ chState s k = .disabled)
      ∧ (bitOf v 24 = true → ∀ d < 64, d ≠ c.val → (ctx s d).own = true →
          base + count ≤ (ctx s d).base ∨ (ctx s d).base + (ctx s d).count ≤ base ∨ count = 0 ∨ (ctx s d).count = 0)
      ∧ count ≤ 1024
    (may → exec (.barMapWrite c ns v) s
      = .next (emit (setCtx s c.val { ctx s c.val with own := bitOf v 24, count := count, base := base }) (.mmio 0 0)))
    ∧ (¬ may → ∃ t, exec (.barMapWrite c ns v) s = .next (emit t (.mmio 0 0)) ∧ t = { s with aon := t.aon, fresh := t.fresh }
        ∧ Crosses s t 0x04 (0xF100 + 4 * c.val) 0 0x3A))

/-- R297 to R299: while GO is 1 the words and LEN of a mailbox are refused; CLEAR ends GO and the descriptor that waited longest then
fills the mailbox; GO raises the receiver's wake event. A dump writes every sync object's record from one snapshot through M0, in the
secure world, drops the echo copies it overlaps as it writes them and as they are acknowledged (R180), and its end sets its pending bit. -/
def Obligations.MailboxesAndTheDump : Prop :=
  (∀ (s : State) (m : Fin 32) (ns : Bool) (v : W32), Canon s →
    let b := mb s m.val
    let off := 0x10000 + 0x80 * m.val
    (∀ k : Fin 16, Served s (off + 4 * k.val) ns (mbSecure s m.val) →
      (b.go = false → exec (.mbWordWrite m k ns v) s = .next (emit (setMb s m.val { b with words := b.words.set k v }) (.mmio 0 0)))
      ∧ (b.go = true → ∃ t, exec (.mbWordWrite m k ns v) s = .next (emit t (.mmio 0 0))
          ∧ t = { s with aon := t.aon, fresh := t.fresh } ∧ Crosses s t 0x04 (off + 4 * k.val) 0 0x3A))
    ∧ (Served s (off + 0x40) ns (mbSecure s m.val) →
      let len := fld v 8 5
      (bitOf v 0 = false → len = b.len ∨ ¬ (8 ≤ len ∧ len ≤ 16) → mbWaiter s m.val = none →
        exec (.clear m ns v) s = .next (emit (setMb s m.val { b with go := false }) (.mmio 0 0)))
      ∧ (bitOf v 0 = false → len = b.len → ∀ c x w, mbWaiter s m.val = some c → stream s c = some x → x.wait = .mailbox w →
          bitOf x.desc 43 = true → (mbCfg s m.val).kind = 2 →
          ∃ t, exec (.clear m ns v) s = .next (emit t (.mmio 0 0)) ∧ stream t c = some { x with st := .done cOK 0, wait := .none }
            ∧ (mb t m.val).go = true ∧ (mb t m.val).len = tw x.desc 5 5 ∧ t.ports.srcPend = putBit s.ports.srcPend 0 true
            ∧ ∀ k < 16, (mb t m.val).words.toList.getD k 0
                = if k < tw x.desc 5 5 then (mbWords x w).getD k 0 else b.words.toList.getD k 0)
      ∧ (bitOf v 0 = false → bitOf v 1 = false → mbWaiter s m.val = none →
          (b.go = false → 8 ≤ len → len ≤ 16 →
            exec (.mbLenWrite m ns v) s = .next (emit (setMb s m.val { b with len := len }) (.mmio 0 0)))
          ∧ (b.go = false → ¬ (8 ≤ len ∧ len ≤ 16) → exec (.mbLenWrite m ns v) s = .next (emit s (.mmio 0 0)))
          ∧ (b.go = true → len ≠ b.len → ∃ t, exec (.mbLenWrite m ns v) s = .next (emit t (.mmio 0 0))
              ∧ t = { s with aon := t.aon, fresh := t.fresh } ∧ Crosses s t 0x04 (off + 0x40) 0 0x3A))
      ∧ (bitOf v 1 = false → len = b.len →
          (b.go = true → ∃ t, exec (.go m ns v) s = .next (emit t (.mmio 0 0)) ∧ t = { s with aon := t.aon, fresh := t.fresh }
            ∧ Crosses s t 0x04 (off + 0x40) 0 0x3A)
          ∧ (b.go = false → ∃ t, exec (.go m ns v) s = .next (emit t (.mmio 0 0)) ∧ mb t m.val = { b with go := true }
              ∧ ((mbCfg s m.val).kind = 2 → t = { setMb s m.val { b with go := true } with
                  ports := { s.ports with srcPend := putBit s.ports.srcPend 0 true } })))))
  ∧ (∀ (s : State) (ns : Bool) (v : W32), Served s 0xF028 ns true →
    (s.hub.dumpGo = true → ∃ t, exec (.syncDump ns v) s = .next (emit t (.mmio 0 0)) ∧ t = { s with aon := t.aon, fresh := t.fresh }
      ∧ Crosses s t 0x04 0xF028 0 0x3A)
    ∧ (s.hub.dumpGo = false → ∃ t ds, exec (.syncDump ns v) s = .next (emit t (.mmio 0 0))
        ∧ t = { s with out := s.out ++ ds, hub := { s.hub with dumpGo := true }, path := t.path, ports := { s.ports with own := t.ports.own } }
        ∧ let a := 4096 * s.hub.dumpAddr.toNat
          (∀ k < 1346, ∀ e ∈ t.path.echo, e.1 ≠ (a + 128 * k) / 128 * 128)
          ∧ (∀ o < 4096, .dump 0 (a + 16 * o) false (recWords (barRecord s o (bar s o).st.code (barWaiters s o).length)) ∈ ds)
          ∧ (∀ m < 32, .dump 0 (a + 0x10000 + 128 * m) false (mbBlock s m) ∈ ds)
          ∧ (∀ r < 1024, .dump 0 (a + 0x11000 + 32 * r) false (ringBlock (ring s r)) ∈ ds)
          ∧ (∀ q < 256, .dump 0 (a + 0x19000 + 16 * q) false (hqBlock (hq s q)) ∈ ds
              ∧ .dump 0 (a + 0x1A000 + 256 * q) false (hqContents (hq s q)) ∈ ds)
          ∧ .dump 0 (a + 0x2A000) false ((List.range 64).map (barMapWord s)) ∈ ds))
  ∧ (∀ s : State, s.hub.dumpGo = true → mmioReady s = true → ∃ t, exec .syncDumpDone s = .next t
      ∧ t = { s with
          hub := { s.hub with dumpGo := false }, path := { s.path with echo := t.path.echo, lines := t.path.lines }
          ports := { s.ports with srcPend := putBit s.ports.srcPend 6 true, own := s.ports.own.filter fun e => e.kind != .dump } }
      ∧ ∀ e ∈ s.ports.own, e.kind = .dump → e.op = 1 → ∀ k ∈ t.path.echo, k.1 ≠ e.addr / 128 * 128)

/-! ### Sideband, test access port and reset -/

/-- R366: the sideband's reads of MZ_ZT_WORDk return the word of the entry SIDX, and one of WORD7 then advances SIDX; BAD reports an
uncorrectable word of the entry that was read. A read of MZ_ZT_IDX returns SIDX, and data bytes set it. None of these moves IDX, and no
MMIO read or write of the Zoetrope page moves SIDX. -/
def Obligations.SidebandHasItsOwnIndex : Prop :=
  (∀ (s : State) (k : Fin 8) (e : Ecc), sbServed s = true → s.aon.sb.sel = true → s.aon.sb.zt = true → s.aon.sb.byte = 0 →
    s.aon.sb.off.toNat = 0x010 + 4 * k.val →
    let x := s.aon.sb
    let zt := { s.aon.zt with bad := decide (e = .uncorrectable) }
    let sidx := if k = 7 then x.sidx + 1 else x.sidx
    (∃ w t, exec (.sidebandRead e) s = .next t ∧ (e ≠ .uncorrectable → w = ztWord s x.sidx.toNat k.val)
      ∧ t = { s with
          aon := { s.aon with zt := zt, sb := { x with word := w, sidx := sidx, byte := 1 } }, fresh := t.fresh
          out := s.out ++ [.sb (BitVec.ofNat 8 w.toNat)] })
    ∧ (k = 7 → ∃ w t, exec (.sidebandWord7Read e) s = .next t ∧ (e ≠ .uncorrectable → w = ztWord s x.sidx.toNat 7)
      ∧ t = { s with
          aon := { s.aon with zt := zt, sb := { x with word := w, sidx := sidx, byte := 0, off := x.off + 4 } }, fresh := t.fresh
          out := s.out ++ (List.range 4).map fun j => .sb (BitVec.ofNat 8 (w.toNat / 2 ^ (8 * j))) }))
  ∧ (∀ (s : State) (e : Ecc), sbServed s = true → s.aon.sb.sel = true → s.aon.sb.zt = true → s.aon.sb.byte = 0 → s.aon.sb.off = 0x00C →
    exec (.sidebandRead e) s = .next (emit { s with aon := { s.aon with sb := { s.aon.sb with
      word := s.aon.sb.sidx.setWidth 32, byte := 1 } } } (.sb (s.aon.sb.sidx.setWidth 8))))
  ∧ (∀ (s : State) (d : Vector Byte 4), sbServed s = true → s.aon.sb.sel = true → s.aon.sb.zt = true → s.aon.sb.off = 0x00C →
    exec (.sidebandIdxWrite d) s = .next (emit { s with aon := { s.aon with sb := { s.aon.sb with
      sidx := BitVec.ofNat 13 (d[0].toNat + 2 ^ 8 * d[1].toNat) } } } (.sbAck true)))
  ∧ (∀ (s : State) (ns : Bool) (e : Ecc), ∃ t, exec (.ztWord7Read ns e) s = .next t ∧ t.aon.sb = s.aon.sb)
  ∧ (∀ (s : State) (ns : Bool) (v : W32), Served s 0x300C ns true →
    ∃ t, exec (.registerWrite 0x300C ns v) s = .next t ∧ t.aon.sb = s.aon.sb ∧ t.aon.zt.idx = v.setWidth 13)

/-- R332, R367, R368: IDCODE reads 0x14D5_A74F; BYPASS, CLAMP and HIGHZ put one bit between TDI and TDO; EXTEST and SAMPLE/PRELOAD
shift the 22 cells, whose observing cells show LINK_PRSNT_N and MZ_WAKE_N. The pins follow the port under EXTEST, CLAMP and HIGHZ
alone, and the block's state is not touched. -/
def Obligations.TestAccessPort : Prop :=
  (∀ s : State, exec .testLogicReset s = .next { s with aon := { s.aon with tap := { s.aon.tap with ir := 1, reset := true } } })
  ∧ (∀ (s : State) (op : Byte), s.boot.phase ≠ .cold →
    let u := fun i => { s with aon := { s.aon with tap := { s.aon.tap with ir := i, reset := false } } }
    exec .idcode s = .next (emit (u 1) (.tdo 32 0x14D5A74F))
    ∧ exec .clamp s = .next (emit (u 3) (.tdo 1 0)) ∧ exec .highz s = .next (emit (u 4) (.tdo 1 0))
    ∧ (bypassOpcode op = true → exec (.bypass op) s = .next (emit (u op) (.tdo 1 0))))
  ∧ (∀ (s : State) (d : BitVec 22), s.boot.phase ≠ .cold → ∃ c : BitVec 32,
    let u := fun i => { s with
      aon := { s.aon with tap := ⟨i, d, false⟩ }, fresh := s.fresh + 1, out := s.out ++ [.tdo 22 c] }
    exec (.extest d) s = .next (u 0) ∧ exec (.samplePreload d) s = .next (u 2)
      ∧ (∀ p < 8, c.getLsbD p = s.pins.prsntN.getLsbD p) ∧ c.getLsbD 17 = s.pins.wakeN)
  ∧ (∀ (s : State) (c : ColdCause), ∃ t, exec (.coldReset c) s = .next t ∧ t.aon.tap.reset = true ∧ t.aon.tap.ir = 1)
  ∧ (∀ (s : State) (d : BitVec 22) (op : Byte) (c : Instr), s.boot.phase = .cold → bypassOpcode op = true →
    c ∈ [Instr.idcode, .clamp, .highz, .extest d, .samplePreload d, .bypass op] → exec c s = .next s)
  ∧ (∀ (s : State) (d : BitVec 22) (p : Nat), p < 8 → s.boot.phase ≠ .cold →
    ∃ t, exec (.extest d) s = .next t ∧ faultPinLow t = !(d.getLsbD 16) ∧ perstPinLow t p = !(d.getLsbD (8 + p))
      ∧ sclPinLow t = !(d.getLsbD 19) ∧ sdaPinLow t = !(d.getLsbD 21)
      ∧ ∃ u, exec .highz t = .next u ∧ faultPinLow u = false ∧ perstPinLow u p = false ∧ sclPinLow u = false ∧ sdaPinLow u = false
      ∧ ∃ w, exec .testLogicReset u = .next w ∧ faultPinLow w = faultPinLow { s with aon := { s.aon with tap := {} } }
        ∧ perstPinLow w p = decide ((link s p).st = .detect))

/-- What reset leaves. The registers whose reset value the spec gives hold it (R280, R308, R329, R347, R367 and the register tables):
nothing is locked, nothing runs, and the contexts, islands, fault sources and globals have their tables' values. -/
def Obligations.ResetLeavesTheTablesValues : Prop :=
  let s := State.reset
  s.img = none ∧ s.boot.imgSt = .none ∧ s.boot.imgErr = 0 ∧ s.boot.st = .wait ∧ s.boot.pupFw = 0 ∧ s.pins.railArm = false
  ∧ (∀ c < 512, (chan s c).stream = none ∧ chState s c = .disabled) ∧ (∀ x < 64, (ctx s x).asid.toNat = x ∧ (ctx s x).base = 64 * x)
  ∧ (∀ r < 1024, (ring s r).en = false ∧ (ring s r).fill = 0) ∧ (∀ q < 256, (hq s q).en = false ∧ (hq s q).q = [])
  ∧ (∀ o < 4096, (bar s o).st = .idle ∧ (bar s o).epoch = 0 ∧ (bar s o).count = 0) ∧ (∀ m < 32, (mb s m).go = false)
  ∧ (∀ p < 8, (link s p).st = .off ∧ (link s p).disable = false ∧ (link s p).retrains = 0)
  ∧ (∀ i < 0x24, (isl s i).fmin = 1200 ∧ (isl s i).fmax = 1800) ∧ (∀ i < 8, (isl s (0x38 + i)).fmin = 800 ∧ (isl s (0x38 + i)).fmax = 1200)
  ∧ s.clk.settle = 5 ∧ s.clk.req = 70 ∧ s.clk.maxwake = 4 ∧ s.clk.tlim = 100 ∧ s.clk.throttle = false
  ∧ s.aon.fc.st = .normal ∧ s.aon.fc.blkcnt = 0 ∧ s.aon.fc.autox = true ∧ s.aon.fc.rlim = 4 ∧ s.aon.fc.esck = 26 ∧ s.aon.fc.quietk = 27
  ∧ (src s 0).act = .safe ∧ (src s 3).act = .alert ∧ (src s 3).n = 4 ∧ (src s 3).k = 26 ∧ (src s 5).act = .note ∧ (src s 5).n = 255
  ∧ s.aon.zt.frozen = false ∧ s.aon.zt.next = 0 ∧ s.aon.zt.idx = 0 ∧ s.aon.tap.ir = 1 ∧ s.aon.wn.valid = false ∧ s.pending = []
  ∧ faultN s = true
end

