-- ==== Sys2Proof/Laws/Reads.lean ====
section
/-! SUPPORT. What a read of the MMIO window may do: nothing, raise a notice, or one of the six reads with an effect. -/

namespace Sys2Proof.Laws

open Sys2Proof Sys2Proof.Machine

/-- What a register's read may do: nothing, or one of the six reads with an effect. -/
inductive ReadEffect (f : RegRd) : Prop
  | pure (h : ∀ s, (f s).1 = s)
  | tag (p : Pool) (h : f = tagRead p)
  | land (q : Nat) (h : f = kqLand q)
  | latch (q : Nat) (x : Kq → Kq) (h : ∀ s, (f s).1 = setKq s q (x (kq s q)))
  | pop (q : Nat) (h : f = hqPop q)
  | zt (k : Nat) (e : State → Ecc) (h : f = fun s => ztWordRead k (e s) (bump s))
/-- The register, if one is there, has such a read. -/
def Effects (r : Option (Bool × RegRd)) : Prop := ∀ p, r = some p → ReadEffect p.2
@[simp] theorem effects_none : Effects none := fun _ h => nomatch h
@[simp] theorem effects_plain (b : Bool) (v : W32) : Effects (plainRd b v) := by
  intro p h; cases h; exact .pure fun _ => rfl
@[simp] theorem effects_num (b : Bool) (n : Nat) : Effects (numRd b n) := effects_plain _ _
@[simp] theorem effects_masked (ns : Bool) (a b : W32) : Effects (maskedRd ns a b) := effects_plain _ _
@[simp] theorem effects_ns (ns : Bool) (k : Nat) (b : Bool) (v : W32) : Effects (nsRd ns k b v) := effects_plain _ _
theorem effects_some {b : Bool} {f : RegRd} (h : ReadEffect f) : Effects (some (b, f)) := by
  intro p e; cases e; exact h
theorem effects_there {b : Bool} {r : Option (Bool × RegRd)} (h : Effects r) : Effects (ifThere b r) := by
  unfold ifThere; split <;> simp [h]
theorem globalR_effects (r s) : Effects (globalR r s) := by unfold globalR; extract_lets; split <;> simp
theorem secureR_effects (r s) : Effects (secureR r s) := by unfold secureR; extract_lets w mask; (repeat' split) <;> simp [mask]
theorem collectorR_effects (r s) : Effects (collectorR r s) := by unfold collectorR; extract_lets; split <;> simp
theorem zoetropeR_effects (r s) : Effects (zoetropeR r s) := by
  unfold zoetropeR
  (repeat' split) <;> try simp
  exact effects_some (.zt _ _ rfl)
theorem clockR_effects (r s) : Effects (clockR r s) := by unfold clockR; extract_lets; (repeat' split) <;> simp
theorem interruptR_effects (r ns s) : Effects (interruptR r ns s) := by
  unfold interruptR; extract_lets p grp
  (repeat' split) <;> first | (simp [grp]; done) | (refine effects_there ?_; (repeat' split) <;> simp)
theorem portR_effects (r s) : Effects (portR r s) := by
  unfold portR; extract_lets
  (repeat' split) <;> first | (simp; done) | (refine effects_there ?_; (repeat' split) <;> simp)
theorem streamR_effects (r s) : Effects (streamR r s) := by
  unfold streamR; extract_lets
  (repeat' split) <;> first | (simp; done) | exact effects_some (.tag _ rfl)
theorem channelR_effects (c r s) : Effects (channelR c r s) := by unfold channelR; extract_lets; split <;> simp
theorem contextR_effects (c r s) : Effects (contextR c r s) := by unfold contextR; extract_lets; split <;> simp
theorem translationR_effects (r s) : Effects (translationR r s) := by
  unfold translationR; extract_lets
  (repeat' split) <;> first | (simp; done)
theorem windowR_effects (r ns s) : Effects (windowR r ns s) := by unfold windowR; extract_lets; (repeat' split) <;> simp
theorem syncR_effects (r s) : Effects (syncR r s) := by unfold syncR; extract_lets; (repeat' split) <;> simp
theorem mailboxR_effects (r ns s) : Effects (mailboxR r ns s) := by unfold mailboxR; extract_lets; (repeat' split) <;> simp
theorem queueR_effects (r ns s) : Effects (queueR r ns s) := by
  unfold queueR; extract_lets
  (repeat' split) <;> first | (simp; done) | exact effects_some (.pop _ rfl)
theorem kqR_effects (r s) : Effects (kqR r s) := by
  unfold kqR; extract_lets
  (repeat' split) <;> first
    | (simp; done)
    | exact effects_some (.land _ rfl)
    | exact effects_some (.latch _ (fun x => { x with latch := BitVec.ofNat 32 (fld x.pass 32 32) }) fun _ => rfl)
theorem mordantR_effects (r s) : Effects (mordantR r s) := by unfold mordantR; extract_lets; (repeat' split) <;> simp
theorem stageR_effects (r s) : Effects (stageR r s) := by unfold stageR; extract_lets; (repeat' split) <;> simp
theorem linkR_effects (r s) : Effects (linkR r s) := by
  unfold linkR; extract_lets
  split
  · simp
  · refine effects_there ?_; split <;> simp
/-- Every register's read does nothing, or is one of the six with an effect. -/
theorem regR_effects (off ns s) : Effects (regR off ns s) := by
  unfold regR
  extract_lets
  split
  all_goals first
    | exact globalR_effects _ _ | exact secureR_effects _ _ | exact collectorR_effects _ _ | exact zoetropeR_effects _ _
    | exact clockR_effects _ _ | exact interruptR_effects _ _ _ | exact portR_effects _ _ | exact streamR_effects _ _
    | exact contextR_effects _ _ _ | exact translationR_effects _ _ | exact windowR_effects _ _ _ | exact syncR_effects _ _
    | exact mailboxR_effects _ _ _ | exact queueR_effects _ _ _ | exact kqR_effects _ _ | exact mordantR_effects _ _
    | exact stageR_effects _ _ | exact linkR_effects _ _ | skip
  split
  · exact channelR_effects _ _ _
  · (repeat' split) <;> simp
/-- A read of the window does nothing but raise a notice, or is one of the reads with an effect. -/
theorem readAt_cases (s off ns) : (readAt s off ns).1 = s ∨ (readAt s off ns).1 = notice s 0 0 0 off 0
    ∨ ∃ f : RegRd, ReadEffect f ∧ (readAt s off ns).1 = (f s).1 := by
  unfold readAt
  (repeat' split)
  · exact .inl rfl
  · exact .inl rfl
  · exact .inr (.inl rfl)
  · rename_i h _; exact .inr (.inr ⟨_, regR_effects _ _ _ _ h, rfl⟩)

end Sys2Proof.Laws
end

