-- ==== Sys2Proof/Laws/Kept.lean ====
section
/-! SUPPORT. What a state function leaves alone: the queue of waiting commands, the locked image and stage memory. One lemma
per state function that keeps all three, in the order of their definitions; the functions that write stage memory, wipe it or
lock an image are in Laws/Held.lean. -/

namespace Sys2Proof.Laws

open Sys2Proof Sys2Proof.Machine

/-- The queue, the image and stage memory of a state. -/
def kept (s : State) : List Instr × Option Image × List Host.Cell := (s.pending, s.img, s.stage.mem)
@[simp] theorem kept_foldl {α : Type} (g : State → α → State) (h : ∀ s a, kept (g s a) = kept s) (l : List α) (s : State) : kept (l.foldl g s) = kept s := by
  induction l generalizing s with
  | nil => rfl
  | cons a l ih => rw [List.foldl_cons, ih, h]
@[simp] theorem kept_ite (c : Prop) [Decidable c] (a b : State) : kept (if c then a else b) = if c then kept a else kept b := by split <;> rfl
@[simp] theorem kept_mk (pending boot img pins chans ctxs path stage hub xl ports links clk aon out fresh order) : kept ⟨pending, boot, img, pins, chans, ctxs, path, stage, hub, xl, ports, links, clk, aon, out, fresh, order⟩ = (pending, img, stage.mem) := rfl
@[simp] theorem kept_eta (s : State) : (s.pending, s.img, s.stage.mem) = kept s := rfl

theorem kept_iter (f : State → State) (h : ∀ s, kept (f s) = kept s) : ∀ n s, kept (iter f n s) = kept s := by
  intro n
  induction n with
  | zero => intro s; rfl
  | succ n ih => intro s; simp only [iter]; first | rw [ih, h] | rw [h, ih]
theorem kept_foldl1 {α β : Type} (g : State × β → α → State × β) (h : ∀ acc a, kept (g acc a).1 = kept acc.1) (l : List α) (acc : State × β) :
    kept (l.foldl g acc).1 = kept acc.1 := by
  induction l generalizing acc with
  | nil => rfl
  | cons a l ih => rw [List.foldl_cons, ih, h]
@[simp] theorem after_next (t s : State) : after (.next t) s = t := rfl
@[simp] theorem after_ite (c : Prop) [Decidable c] (a b : Host.Outcome State Fault Refusal) (s : State) :
    after (if c then a else b) s = if c then after a s else after b s := by split <;> rfl
@[simp] theorem setChan_kept : ∀ s a1 a2, kept (setChan s a1 a2) = kept s := by intros; simp [setChan]
@[simp] theorem setCtx_kept : ∀ s a1 a2, kept (setCtx s a1 a2) = kept s := by intros; simp [setCtx]
@[simp] theorem setLink_kept : ∀ s a1 a2, kept (setLink s a1 a2) = kept s := by intros; simp [setLink]
@[simp] theorem setIsl_kept : ∀ s a1 a2, kept (setIsl s a1 a2) = kept s := by intros; simp [setIsl]
@[simp] theorem setRing_kept : ∀ s a1 a2, kept (setRing s a1 a2) = kept s := by intros; simp [setRing]
@[simp] theorem setHq_kept : ∀ s a1 a2, kept (setHq s a1 a2) = kept s := by intros; simp [setHq]
@[simp] theorem setBar_kept : ∀ s a1 a2, kept (setBar s a1 a2) = kept s := by intros; simp [setBar]
@[simp] theorem setMb_kept : ∀ s a1 a2, kept (setMb s a1 a2) = kept s := by intros; simp [setMb]
@[simp] theorem setBg_kept : ∀ s a1 a2, kept (setBg s a1 a2) = kept s := by intros; simp [setBg]
@[simp] theorem setPoolSt_kept : ∀ s a1 a2, kept (setPoolSt s a1 a2) = kept s := by intros; simp [setPoolSt]
@[simp] theorem setKq_kept : ∀ s a1 a2, kept (setKq s a1 a2) = kept s := by intros; simp [setKq]
@[simp] theorem setMd_kept : ∀ s a1 a2, kept (setMd s a1 a2) = kept s := by intros; simp [setMd]
@[simp] theorem setFe_kept : ∀ s a1 a2, kept (setFe s a1 a2) = kept s := by intros; simp [setFe]
@[simp] theorem setRelay_kept : ∀ s a1 a2, kept (setRelay s a1 a2) = kept s := by intros; simp [setRelay]
@[simp] theorem setCp_kept : ∀ s a1 a2, kept (setCp s a1 a2) = kept s := by intros; simp [setCp]
@[simp] theorem setMp_kept : ∀ s a1 a2, kept (setMp s a1 a2) = kept s := by intros; simp [setMp]
@[simp] theorem setMsi_kept : ∀ s a1 a2, kept (setMsi s a1 a2) = kept s := by intros; simp [setMsi]
@[simp] theorem setHalf_kept : ∀ s a1 a2, kept (setHalf s a1 a2) = kept s := by intros; simp [setHalf]
@[simp] theorem setWin_kept : ∀ s a1 a2, kept (setWin s a1 a2) = kept s := by intros; simp [setWin]
@[simp] theorem setSlots_kept : ∀ s a1 a2, kept (setSlots s a1 a2) = kept s := by intros; simp [setSlots]
@[simp] theorem setLines_kept : ∀ s a1, kept (setLines s a1) = kept s := by intros; simp [setLines]
@[simp] theorem setSrc_kept : ∀ s a1 a2, kept (setSrc s a1 a2) = kept s := by intros; simp [setSrc]
@[simp] theorem setFc_kept : ∀ s a1, kept (setFc s a1) = kept s := by intros; simp [setFc]
@[simp] theorem setZt_kept : ∀ s a1, kept (setZt s a1) = kept s := by intros; simp [setZt]
@[simp] theorem emit_kept : ∀ s a1, kept (emit s a1) = kept s := by intros; simp [emit]
@[simp] theorem bump_kept : ∀ s, kept (bump s) = kept s := by intros; simp [bump]
@[simp] theorem takeSeq_kept : ∀ s a1, kept (takeSeq s a1) = kept s := by intros; simp [takeSeq]
@[simp] theorem ztQueue_kept : ∀ s a1 a2, kept (ztQueue s a1 a2) = kept s := by intros; simp [ztQueue]
@[simp] theorem raise_kept : ∀ s a1 a2 a3 a4, kept (raise s a1 a2 a3 a4) = kept s := by intros; simp [raise]
@[simp] theorem refuse_kept : ∀ s a1 a2 a3, kept (refuse s a1 a2 a3) = kept s := by intros; simp [refuse]
@[simp] theorem ztWrite_kept : ∀ s a1, kept (ztWrite s a1) = kept s := by intros; simp [ztWrite]
@[simp] theorem aonLog_kept : ∀ s a1 a2 a3, kept (aonLog s a1 a2 a3) = kept s := by intros; simp [aonLog]
@[simp] theorem zlog_kept : ∀ s a1 a2 a3 a4, kept (zlog s a1 a2 a3 a4) = kept s := by intros; simp [zlog]
@[simp] theorem ztTakeN_kept : ∀ s a1, kept (ztTakeN s a1) = kept s := by intros; simp [ztTakeN]
@[simp] theorem ztDrain_kept : ∀ s, kept (ztDrain s) = kept s := by intros; simp [ztDrain]
@[simp] theorem ztFlush_kept : ∀ s, kept (ztFlush s) = kept s := by intros; simp [ztFlush]
@[simp] theorem idleCycle_kept : ∀ s, kept (idleCycle s) = kept s := by intros; simp [idleCycle]
@[simp] theorem notice_kept : ∀ s a1 a2 a3 a4 a5, kept (notice s a1 a2 a3 a4 a5) = kept s := by intros; simp [notice]
@[simp] theorem ownReqAs_kept : ∀ s a1 a2 a3 a4 a5, kept ((ownReqAs s a1 a2 a3 a4 a5).1) = kept s := by intros; simp [ownReqAs]
@[simp] theorem ownReq_kept : ∀ s a1 a2 a3 a4, kept ((ownReq s a1 a2 a3 a4).1) = kept s := by intros; simp [ownReq]
@[simp] theorem imageRead_kept : ∀ s a1, kept (imageRead s a1) = kept s := by intros; simp [imageRead]
@[simp] theorem ownDead_kept : ∀ s a1 a2, kept (ownDead s a1 a2) = kept s := by intros; simp [ownDead]
@[simp] theorem echoDrop_kept : ∀ s a1, kept (echoDrop s a1) = kept s := by intros; simp [echoDrop]
@[simp] theorem ownEcho_kept : ∀ s a1, kept (ownEcho s a1) = kept s := by intros; simp [ownEcho]
@[simp] theorem ownDone_kept : ∀ s a1, kept (ownDone s a1) = kept s := by intros; simp [ownDone]
@[simp] theorem ownRead_kept : ∀ s a1 a2, kept (ownRead s a1 a2) = kept s := by intros; simp [ownRead]
@[simp] theorem msiWrite_kept : ∀ s a1, kept (msiWrite s a1) = kept s := by intros; simp [msiWrite]
@[simp] theorem setPorts_kept : ∀ s a1, kept (setPorts s a1) = kept s := by intros; simp [setPorts]
@[simp] theorem pendSrc_kept : ∀ s a1, kept (pendSrc s a1) = kept s := by intros; simp [pendSrc]
@[simp] theorem pendCh_kept : ∀ s a1, kept (pendCh s a1) = kept s := by intros; simp [pendCh]
@[simp] theorem pendCtx_kept : ∀ s a1, kept (pendCtx s a1) = kept s := by intros; simp [pendCtx]
@[simp] theorem mmioW_kept : ∀ s a1 a2 a3 a4, (∀ s, kept (a4 s) = kept s) → kept (mmioW s a1 a2 a3 a4) = kept s := by intros; simp only [mmioW]; (repeat' split) <;> simp_all
@[simp] theorem mmioR_kept : ∀ s a1 a2 a3 a4, (∀ s, kept ((a4 s).1) = kept s) → kept (mmioR s a1 a2 a3 a4) = kept s := by intros; simp only [mmioR]; (repeat' split) <;> simp_all
@[simp] theorem setStream_kept : ∀ s a1 a2, kept (setStream s a1 a2) = kept s := by intros; simp [setStream]
@[simp] theorem modStream_kept : ∀ s a1 a2, kept (modStream s a1 a2) = kept s := by intros; simp only [modStream]; (repeat' split) <;> simp_all
@[simp] theorem finish_kept : ∀ s a1 a2 a3, kept (finish s a1 a2 a3) = kept s := by intros; simp [finish]
@[simp] theorem refuseStream_kept : ∀ s a1 a2, kept (refuseStream s a1 a2) = kept s := by intros; simp only [refuseStream]; (repeat' split) <;> simp_all
@[simp] theorem reportLate_kept : ∀ s a1 a2, kept (reportLate s a1 a2) = kept s := by intros; simp [reportLate]
@[simp] theorem countBack_kept : ∀ s a1, kept (countBack s a1) = kept s := by intros; simp [countBack]
@[simp] theorem handOff_kept : ∀ s a1 a2, (∀ s, kept (a2 s) = kept s) → kept (handOff s a1 a2) = kept s := by intros; simp only [handOff]; (repeat' split) <;> simp_all
@[simp] theorem sendFetch_kept : ∀ s a1 a2, kept (sendFetch s a1 a2) = kept s := by intros; simp [sendFetch]
@[simp] theorem startFetch_kept : ∀ s a1 a2, kept (startFetch s a1 a2) = kept s := by intros; simp [startFetch]
@[simp] theorem dueFetches_kept : ∀ s, kept (dueFetches s) = kept s := by
  intros
  unfold dueFetches
  refine kept_foldl _ (fun s a => ?_) _ _
  (repeat' split) <;> simp
@[simp] theorem ringDoorbell_kept : ∀ s a1, kept (ringDoorbell s a1) = kept s := by intros; simp only [ringDoorbell]; (repeat' split) <;> simp_all
@[simp] theorem raiseReq_kept : ∀ s a1, kept (raiseReq s a1) = kept s := by intros; simp [raiseReq]
@[simp] theorem startWake_kept : ∀ s a1, kept (startWake s a1) = kept s := by intros; simp [startWake]
@[simp] theorem startWakes_kept : ∀ a0 s, kept (startWakes a0 s) = kept s := by
  intro n
  induction n with
  | zero => intros; simp only [startWakes]
  | succ n ih => intros; simp only [startWakes]; (repeat' split) <;> simp_all
@[simp] theorem need_kept : ∀ s a1, kept (need s a1) = kept s := by intros; simp only [need]; (repeat' split) <;> simp_all
@[simp] theorem fetchNeed_kept : ∀ s a1, kept (fetchNeed s a1) = kept s := by intros; simp only [fetchNeed]; (repeat' split) <;> simp_all
@[simp] theorem logPower_kept : ∀ s a1 a2, kept (logPower s a1 a2) = kept s := by intros; simp [logPower]
@[simp] theorem gateLoss_kept : ∀ s a1, kept (gateLoss s a1) = kept s := by intros; simp [gateLoss]
@[simp] theorem adapt_kept : ∀ s a1, kept (adapt s a1) = kept s := by intros; simp [adapt]
@[simp] theorem adaptMates_kept : ∀ s a1, kept (adaptMates s a1) = kept s := by intros; simp [adaptMates]
@[simp] theorem execAdaptiveWindowEnd_kept : ∀ a0 a1 s, kept (after (execAdaptiveWindowEnd a0 a1 s) s) = kept s := by intros; simp [execAdaptiveWindowEnd]
@[simp] theorem execVddtSettleExpire_kept : ∀ s, kept (after (execVddtSettleExpire s) s) = kept s := by intros; simp [execVddtSettleExpire]
@[simp] theorem execFreqStep_kept : ∀ a0 s, kept (after (execFreqStep a0 s) s) = kept s := by intros; simp [execFreqStep]
@[simp] theorem execVddtLowerExpire_kept : ∀ s, kept (after (execVddtLowerExpire s) s) = kept s := by intros; simp [execVddtLowerExpire]
@[simp] theorem execDelayMarginNegative_kept : ∀ a0 a1 s, kept (after (execDelayMarginNegative a0 a1 s) s) = kept s := by intros; simp [execDelayMarginNegative]
@[simp] theorem execMarginReturn_kept : ∀ a0 s, kept (after (execMarginReturn a0 s) s) = kept s := by intros; simp [execMarginReturn]
@[simp] theorem execThermalLimit_kept : ∀ a0 a1 s, kept (after (execThermalLimit a0 a1 s) s) = kept s := by intros; simp [execThermalLimit]
@[simp] theorem execTempFall_kept : ∀ a0 s, kept (after (execTempFall a0 s) s) = kept s := by intros; simp [execTempFall]
@[simp] theorem execDomainIdleExpire_kept : ∀ a0 s, kept (after (execDomainIdleExpire a0 s) s) = kept s := by intros; simp [execDomainIdleExpire]
@[simp] theorem execDomainGated_kept : ∀ a0 s, kept (after (execDomainGated a0 s) s) = kept s := by intros; simp [execDomainGated]
@[simp] theorem execWakeRequest_kept : ∀ a0 s, kept (after (execWakeRequest a0 s) s) = kept s := by intros; simp [execWakeRequest]
@[simp] theorem execIslLimWrite_kept : ∀ a0 a1 a2 s, kept (after (execIslLimWrite a0 a1 a2 s) s) = kept s := by intros; simp [execIslLimWrite]
@[simp] theorem execIslPolicyWrite_kept : ∀ a0 a1 a2 s, kept (after (execIslPolicyWrite a0 a1 a2 s) s) = kept s := by intros; simp [execIslPolicyWrite]
@[simp] theorem sendFlit_kept : ∀ s a1 a2 a3 a4 a5, kept (sendFlit s a1 a2 a3 a4 a5) = kept s := by intros; simp only [sendFlit]; (repeat' split) <;> simp_all
@[simp] theorem linkTo_kept : ∀ s a1 a2, kept (linkTo s a1 a2) = kept s := by intros; simp [linkTo]
@[simp] theorem pump_kept : ∀ a0 s a2, kept (pump a0 s a2) = kept s := by
  intro n
  induction n with
  | zero => intros; simp only [pump]
  | succ n ih => intros; simp only [pump]; (repeat' split) <;> simp_all
@[simp] theorem returnCredit_kept : ∀ s a1 a2 a3, kept (returnCredit s a1 a2 a3) = kept s := by intros; simp [returnCredit]
@[simp] theorem countDrop_kept : ∀ s a1, kept (countDrop s a1) = kept s := by intros; simp [countDrop]
@[simp] theorem routeEvent_kept : ∀ s a1 a2, kept (routeEvent s a1 a2) = kept s := by intros; simp [routeEvent]
@[simp] theorem absentDrop_kept : ∀ s a1, kept (absentDrop s a1) = kept s := by intros; simp [absentDrop]
@[simp] theorem enqueue_kept : ∀ s a1 a2 a3 a4, kept (enqueue s a1 a2 a3 a4) = kept s := by intros; simp [enqueue]
@[simp] theorem sendOrDrop_kept : ∀ s a1, kept (sendOrDrop s a1) = kept s := by intros; simp only [sendOrDrop]; (repeat' split) <;> simp_all
@[simp] theorem deliverOwn_kept : ∀ s a1 a2, kept (deliverOwn s a1 a2) = kept s := by intros; simp [deliverOwn]
@[simp] theorem dropPkt_kept : ∀ s a1 a2, kept (dropPkt s a1 a2) = kept s := by intros; simp [dropPkt]
@[simp] theorem downActions_kept : ∀ s a1, kept (downActions s a1) = kept s := by intros; simp [downActions]
@[simp] theorem enterDown_kept : ∀ s a1, kept (enterDown s a1) = kept s := by intros; simp [enterDown]
@[simp] theorem sendFrames_kept : ∀ s a1, kept (sendFrames s a1) = kept s := by intros; simp [sendFrames]
@[simp] theorem enterRetrain_kept : ∀ s a1, kept (enterRetrain s a1) = kept s := by intros; simp [enterRetrain]
@[simp] theorem leaveTo_kept : ∀ s a1 a2, kept (leaveTo s a1 a2) = kept s := by intros; simp [leaveTo]
@[simp] theorem tryDetect_kept : ∀ s a1, kept (tryDetect s a1) = kept s := by intros; simp [tryDetect]
@[simp] theorem trainNeed_kept : ∀ s a1, kept (trainNeed s a1) = kept s := by intros; simp [trainNeed]
@[simp] theorem sendPkt_kept : ∀ s a1, kept (sendPkt s a1) = kept s := by intros; simp only [sendPkt]; (repeat' split) <;> simp_all
@[simp] theorem takePkt_kept : ∀ s a1 a2, kept (takePkt s a1 a2) = kept s := by intros; simp only [takePkt]; (repeat' split) <;> simp_all
@[simp] theorem linkCorr_kept : ∀ s a1, kept (linkCorr s a1) = kept s := by intros; simp [linkCorr]
@[simp] theorem discardHdr_kept : ∀ s a1 a2, kept (discardHdr s a1 a2) = kept s := by intros; simp [discardHdr]
@[simp] theorem rxCorr_kept : ∀ s a1 a2, kept (rxCorr s a1 a2) = kept s := by intros; simp [rxCorr]
@[simp] theorem nackIn_kept : ∀ s a1 a2, kept (nackIn s a1 a2) = kept s := by intros; simp [nackIn]
@[simp] theorem retrainHdr_kept : ∀ s a1 a2, kept (retrainHdr s a1 a2) = kept s := by intros; simp [retrainHdr]
@[simp] theorem resend_kept : ∀ s a1 a2, kept (resend s a1 a2) = kept s := by intros; simp only [resend]; (repeat' split) <;> simp_all
@[simp] theorem applyHdr_kept : ∀ s a1 a2 a3, kept (applyHdr s a1 a2 a3) = kept s := by intros; simp [applyHdr]
@[simp] theorem fecCount_kept : ∀ s a1 a2, kept (fecCount s a1 a2) = kept s := by intros; simp [fecCount]
@[simp] theorem controlIn_kept : ∀ s a1 a2 a3 a4 a5, (∀ s, kept (a5 s) = kept s) → kept (controlIn s a1 a2 a3 a4 a5) = kept s := by intros; simp only [controlIn]; (repeat' split) <;> simp_all
@[simp] theorem sendCtl_kept : ∀ s a1 a2 a3, kept (sendCtl s a1 a2 a3) = kept s := by intros; simp [sendCtl]
@[simp] theorem sendIdent_kept : ∀ s a1 a2, kept (sendIdent s a1 a2) = kept s := by intros; simp [sendIdent]
@[simp] theorem sendSync_kept : ∀ s a1 a2, kept (sendSync s a1 a2) = kept s := by intros; simp [sendSync]
@[simp] theorem toLock_kept : ∀ s a1, kept (toLock s a1) = kept s := by intros; simp [toLock]
@[simp] theorem execLinkPresenceChange_kept : ∀ a0 a1 s, kept (after (execLinkPresenceChange a0 a1 s) s) = kept s := by intros; simp [execLinkPresenceChange]
@[simp] theorem lkCtrl_kept : ∀ a0 s a2, kept (lkCtrl a0 s a2) = kept s := by intros; simp [lkCtrl]
@[simp] theorem lkCtrlW_kept : ∀ a0 a1 a2 s, kept (lkCtrlW a0 a1 a2 s) = kept s := by intros; simp [lkCtrlW]
@[simp] theorem execLinkDisable_kept : ∀ a0 a1 a2 s, kept (after (execLinkDisable a0 a1 a2 s) s) = kept s := by intros; simp [execLinkDisable]
@[simp] theorem execLinkRetrain_kept : ∀ a0 a1 a2 s, kept (after (execLinkRetrain a0 a1 a2 s) s) = kept s := by intros; simp [execLinkRetrain]
@[simp] theorem execLinkClrcnt_kept : ∀ a0 a1 a2 s, kept (after (execLinkClrcnt a0 a1 a2 s) s) = kept s := by intros; simp [execLinkClrcnt]
@[simp] theorem execLinkStateTimerExpire_kept : ∀ a0 s, kept (after (execLinkStateTimerExpire a0 s) s) = kept s := by intros; simp only [execLinkStateTimerExpire]; (repeat' split) <;> simp_all
@[simp] theorem execLinkSignalDetect_kept : ∀ a0 s, kept (after (execLinkSignalDetect a0 s) s) = kept s := by intros; simp [execLinkSignalDetect]
@[simp] theorem execTrainingFrame_kept : ∀ a0 a1 a2 s, kept (after (execTrainingFrame a0 a1 a2 s) s) = kept s := by intros; simp [execTrainingFrame]
@[simp] theorem execSync_kept : ∀ a0 a1 s, kept (after (execSync a0 a1 s) s) = kept s := by intros; simp [execSync]
@[simp] theorem sendIdentStep_kept : ∀ s a1 a2, kept (sendIdentStep s a1 a2) = kept s := by intros; simp only [sendIdentStep]; (repeat' split) <;> simp_all
@[simp] theorem execLockAlignmentHeld_kept : ∀ a0 s, kept (after (execLockAlignmentHeld a0 s) s) = kept s := by intros; simp [execLockAlignmentHeld]
@[simp] theorem linkStart_kept : ∀ s a1 a2, kept (linkStart s a1 a2) = kept s := by intros; simp [linkStart]
@[simp] theorem bothConfirm_kept : ∀ s a1 a2 a3 a4, kept (bothConfirm s a1 a2 a3 a4) = kept s := by intros; simp [bothConfirm]
@[simp] theorem execConfirm_kept : ∀ a0 a1 a2 s, kept (after (execConfirm a0 a1 a2 s) s) = kept s := by intros; unfold execConfirm; (repeat' split) <;> grind [after, bothConfirm_kept, controlIn_kept, setLink_kept]
@[simp] theorem decide2_kept : ∀ s a1 a2 a3 a4, kept (decide2 s a1 a2 a3 a4) = kept s := by intros; simp only [decide2]; (repeat' split) <;> simp_all
@[simp] theorem execIdent_kept : ∀ a0 a1 s, kept (after (execIdent a0 a1 s) s) = kept s := by intros; simp [execIdent]
@[simp] theorem takeSlots_kept : ∀ a0 s a2 a3, kept (takeSlots a0 s a2 a3) = kept s := by
  intro n
  induction n with
  | zero => intros; simp only [takeSlots]
  | succ n ih => intro s p l; cases l with
    | nil => simp [takeSlots]
    | cons h t => simp only [takeSlots]; (repeat' split) <;> simp_all
@[simp] theorem discardFlit_kept : ∀ s a1, kept (discardFlit s a1) = kept s := by intros; simp [discardFlit]
@[simp] theorem execDataFlitReceived_kept : ∀ a0 a1 a2 a3 s, kept (after (execDataFlitReceived a0 a1 a2 a3 s) s) = kept s := by intros; simp [execDataFlitReceived]
@[simp] theorem execIdleFlitReceived_kept : ∀ a0 a1 a2 s, kept (after (execIdleFlitReceived a0 a1 a2 s) s) = kept s := by intros; simp [execIdleFlitReceived]
@[simp] theorem execNackRepeat_kept : ∀ a0 s, kept (after (execNackRepeat a0 s) s) = kept s := by intros; simp [execNackRepeat]
@[simp] theorem execEqreq_kept : ∀ a0 a1 a2 s, kept (after (execEqreq a0 a1 a2 s) s) = kept s := by intros; simp [execEqreq]
@[simp] theorem execElectricalIdleDetect_kept : ∀ a0 s, kept (after (execElectricalIdleDetect a0 s) s) = kept s := by intros; simp [execElectricalIdleDetect]
@[simp] theorem execSerWindowEnd_kept : ∀ a0 a1 s, kept (after (execSerWindowEnd a0 a1 s) s) = kept s := by intros; simp [execSerWindowEnd]
@[simp] theorem transitPoison_kept : ∀ s a1 a2 a3, (∀ x1 s, kept (a3 x1 s) = kept s) → kept (transitPoison s a1 a2 a3) = kept s := by intros; simp only [transitPoison]; (repeat' split) <;> simp_all
@[simp] theorem forwardPkt_kept : ∀ a0 a1 s, kept (forwardPkt a0 a1 s) = kept s := by intros; simp only [forwardPkt]; (repeat' split) <;> simp_all
@[simp] theorem execPacketForward_kept : ∀ a0 a1 s, kept (after (execPacketForward a0 a1 s) s) = kept s := by intros; simp only [execPacketForward]; (repeat' split) <;> simp_all
@[simp] theorem worldRefuse_kept : ∀ s a1 a2, kept (worldRefuse s a1 a2) = kept s := by intros; simp [worldRefuse]
@[simp] theorem beginWait_kept : ∀ s a1 a2, kept (beginWait s a1 a2) = kept s := by intros; simp [beginWait]
@[simp] theorem forgetWalks_kept : ∀ s a1, kept (forgetWalks s a1) = kept s := by intros; simp [forgetWalks]
@[simp] theorem ctxSwitch_kept : ∀ s a1 a2, kept (ctxSwitch s a1 a2) = kept s := by intros; simp [ctxSwitch]
@[simp] theorem ringFault_kept : ∀ s a1, kept (ringFault s a1) = kept s := by intros; simp [ringFault]
@[simp] theorem ringRealign_kept : ∀ s a1 a2, kept (ringRealign s a1 a2) = kept s := by intros; simp [ringRealign]
@[simp] theorem hqSettle_kept : ∀ a0 s a2, kept (hqSettle a0 s a2) = kept s := by
  intro n
  induction n with
  | zero => intros; simp only [hqSettle]
  | succ n ih => intros; simp only [hqSettle]; (repeat' split) <;> simp_all
@[simp] theorem hqPush_kept : ∀ s a1 a2, kept (hqPush s a1 a2) = kept s := by intros; simp [hqPush]
@[simp] theorem poolTrigger_kept : ∀ s a1, kept (poolTrigger s a1) = kept s := by intros; simp only [poolTrigger]; (repeat' split) <;> simp_all
@[simp] theorem poolBarrier_kept : ∀ s a1, kept (poolBarrier s a1) = kept s := by intros; simp [poolBarrier]
@[simp] theorem poolRearm_kept : ∀ s a1, kept (poolRearm s a1) = kept s := by intros; simp [poolRearm]
@[simp] theorem sendHop_kept : ∀ s a1 a2 a3, kept (sendHop s a1 a2 a3) = kept s := by intros; simp only [sendHop]; (repeat' split) <;> simp_all
@[simp] theorem spread_kept : ∀ s a1 a2 a3 a4 a5 a6, kept (spread s a1 a2 a3 a4 a5 a6) = kept s := by intros; simp [spread]
@[simp] theorem barWait_kept : ∀ s a1 a2 a3 a4, kept (barWait s a1 a2 a3 a4) = kept s := by intros; simp only [barWait]; (repeat' split) <;> simp_all
@[simp] theorem applyRelease_kept : ∀ s a1 a2, kept (applyRelease s a1 a2) = kept s := by intros; simp [applyRelease]
@[simp] theorem applyClear_kept : ∀ s a1 a2, kept (applyClear s a1 a2) = kept s := by intros; simp [applyClear]
@[simp] theorem clearObj_kept : ∀ s a1 a2, kept (clearObj s a1 a2) = kept s := by intros; simp [clearObj]
@[simp] theorem homeArrive_kept : ∀ s a1 a2 a3 a4 a5 a6, kept ((homeArrive s a1 a2 a3 a4 a5 a6).1) = kept s := by intros; simp only [homeArrive]; (repeat' split) <;> simp_all
@[simp] theorem mbGo_kept : ∀ s a1, kept (mbGo s a1) = kept s := by intros; simp [mbGo]
@[simp] theorem mbFill_kept : ∀ s a1 a2 a3, kept (mbFill s a1 a2 a3) = kept s := by intros; simp [mbFill]
@[simp] theorem mbServe_kept : ∀ a0 s a2, kept (mbServe a0 s a2) = kept s := by
  intro n
  induction n with
  | zero => intros; simp only [mbServe]
  | succ n ih => intros; simp only [mbServe]; (repeat' split) <;> simp_all
@[simp] theorem ringRegOp_kept : ∀ a0 a1 s, kept (ringRegOp a0 a1 s) = kept s := by intros; simp [ringRegOp]
@[simp] theorem ringResetOp_kept : ∀ a0 s, kept (ringResetOp a0 s) = kept s := by intros; simp [ringResetOp]
@[simp] theorem ringCtrl_kept : ∀ a0 a1 s, kept (ringCtrl a0 a1 s) = kept s := by intros; simp [ringCtrl]
@[simp] theorem execRingRegProduce_kept : ∀ a0 a1 a2 s, kept (after (execRingRegProduce a0 a1 a2 s) s) = kept s := by intros; simp [execRingRegProduce]
@[simp] theorem execRingRegRelease_kept : ∀ a0 a1 a2 s, kept (after (execRingRegRelease a0 a1 a2 s) s) = kept s := by intros; simp [execRingRegRelease]
@[simp] theorem execRingReset_kept : ∀ a0 a1 a2 s, kept (after (execRingReset a0 a1 a2 s) s) = kept s := by intros; simp [execRingReset]
@[simp] theorem nsNotice_kept : ∀ s a1 a2 a3, kept (nsNotice s a1 a2 a3) = kept s := by intros; simp [nsNotice]
@[simp] theorem ringCfg_kept : ∀ a0 a1 a2 s, kept (ringCfg a0 a1 a2 s) = kept s := by intros; simp [ringCfg]
@[simp] theorem ringProt_kept : ∀ a0 a1 a2 s, kept (ringProt a0 a1 a2 s) = kept s := by intros; simp [ringProt]
@[simp] theorem execRingCfgWrite_kept : ∀ a0 a1 a2 a3 s, kept (after (execRingCfgWrite a0 a1 a2 a3 s) s) = kept s := by intros; simp only [execRingCfgWrite]; (repeat' split) <;> simp_all
@[simp] theorem execHqRegPush_kept : ∀ a0 a1 a2 s, kept (after (execHqRegPush a0 a1 a2 s) s) = kept s := by intros; simp [execHqRegPush]
@[simp] theorem hqPop_kept : ∀ a0 s, kept ((hqPop a0 s).1) = kept s := by intros; simp only [hqPop]; (repeat' split) <;> simp_all
@[simp] theorem execHqRegPop_kept : ∀ a0 a1 s, kept (after (execHqRegPop a0 a1 s) s) = kept s := by intros; simp [execHqRegPop]
@[simp] theorem hqCfg_kept : ∀ a0 a1 a2 s, kept (hqCfg a0 a1 a2 s) = kept s := by intros; simp [hqCfg]
@[simp] theorem execHqReset_kept : ∀ a0 a1 a2 s, kept (after (execHqReset a0 a1 a2 s) s) = kept s := by intros; simp [execHqReset]
@[simp] theorem sendAck_kept : ∀ s a1 a2 a3 a4 a5, kept (sendAck s a1 a2 a3 a4 a5) = kept s := by intros; simp [sendAck]
@[simp] theorem execBarrArrive_kept : ∀ a0 a1 s, kept (after (execBarrArrive a0 a1 s) s) = kept s := by intros; simp only [execBarrArrive]; (repeat' split) <;> simp_all
@[simp] theorem hostAck_kept : ∀ s a1, kept (hostAck s a1) = kept s := by intros; simp [hostAck]
@[simp] theorem chanAck_kept : ∀ s a1 a2 a3, kept (chanAck s a1 a2 a3) = kept s := by intros; simp [chanAck]
@[simp] theorem execBarrAck_kept : ∀ a0 a1 s, kept (after (execBarrAck a0 a1 s) s) = kept s := by intros; simp only [execBarrAck]; (repeat' split) <;> simp_all
@[simp] theorem forwardSpread_kept : ∀ s a1 a2 a3, kept (forwardSpread s a1 a2 a3) = kept s := by intros; simp [forwardSpread]
@[simp] theorem spreadIn_kept : ∀ s a1 a2 a3 a4, (∀ s x1 x2, kept (a4 s x1 x2) = kept s) → kept (spreadIn s a1 a2 a3 a4) = kept s := by intros; simp only [spreadIn]; (repeat' split) <;> simp_all
@[simp] theorem execReleaseApply_kept : ∀ a0 a1 s, kept (after (execReleaseApply a0 a1 s) s) = kept s := by intros; simp [execReleaseApply]
@[simp] theorem execAbandon_kept : ∀ a0 a1 s, kept (after (execAbandon a0 a1 s) s) = kept s := by intros; simp [execAbandon]
@[simp] theorem execPoison_kept : ∀ a0 a1 s, kept (after (execPoison a0 a1 s) s) = kept s := by intros; simp [execPoison]
@[simp] theorem execHostArrive_kept : ∀ a0 a1 s, kept (after (execHostArrive a0 a1 s) s) = kept s := by intros; simp [execHostArrive]
@[simp] theorem execHostArriveTimeout_kept : ∀ s, kept (after (execHostArriveTimeout s) s) = kept s := by intros; simp [execHostArriveTimeout]
@[simp] theorem execInit_kept : ∀ a0 a1 s, kept (after (execInit a0 a1 s) s) = kept s := by intros; simp [execInit]
@[simp] theorem execBarCfgWrite_kept : ∀ a0 a1 s, kept (after (execBarCfgWrite a0 a1 s) s) = kept s := by intros; simp [execBarCfgWrite]
@[simp] theorem execBarMapWrite_kept : ∀ a0 a1 a2 s, kept (after (execBarMapWrite a0 a1 a2 s) s) = kept s := by intros; simp [execBarMapWrite]
@[simp] theorem execMbWordWrite_kept : ∀ a0 a1 a2 a3 s, kept (after (execMbWordWrite a0 a1 a2 a3 s) s) = kept s := by intros; simp [execMbWordWrite]
@[simp] theorem mbCtrl_kept : ∀ a0 a1 s, kept (mbCtrl a0 a1 s) = kept s := by intros; simp [mbCtrl]
@[simp] theorem execClear_kept : ∀ a0 a1 a2 s, kept (after (execClear a0 a1 a2 s) s) = kept s := by intros; simp [execClear]
@[simp] theorem execMbLenWrite_kept : ∀ a0 a1 a2 s, kept (after (execMbLenWrite a0 a1 a2 s) s) = kept s := by intros; simp [execMbLenWrite]
@[simp] theorem execGo_kept : ∀ a0 a1 a2 s, kept (after (execGo a0 a1 a2 s) s) = kept s := by intros; simp [execGo]
@[simp] theorem dropRun_kept : ∀ s a1 a2, kept (dropRun s a1 a2) = kept s := by intros; simp [dropRun]
@[simp] theorem dumpStart_kept : ∀ s a1 a2, kept (dumpStart s a1 a2) = kept s := by intros; simp [dumpStart]
@[simp] theorem execSyncDump_kept : ∀ a0 a1 s, kept (after (execSyncDump a0 a1 s) s) = kept s := by intros; simp only [execSyncDump]; (repeat' split) <;> simp_all
@[simp] theorem execSyncDumpDone_kept : ∀ s, kept (after (execSyncDumpDone s) s) = kept s := by intros; simp [execSyncDumpDone]
@[simp] theorem addLine_kept : ∀ s a1, kept ((addLine s a1).1) = kept s := by intros; simp [addLine]
@[simp] theorem dropLine_kept : ∀ s a1, kept (dropLine s a1) = kept s := by intros; simp only [dropLine]; (repeat' split) <;> simp_all
@[simp] theorem grantBank_kept : ∀ s a1 a2, kept (grantBank s a1 a2) = kept s := by intros; simp [grantBank]
@[simp] theorem grantStage_kept : ∀ s a1 a2, kept (grantStage s a1 a2) = kept s := by intros; simp only [grantStage]; (repeat' split) <;> simp_all
@[simp] theorem grantMem_kept : ∀ s a1 a2, kept (grantMem s a1 a2) = kept s := by intros; simp [grantMem]
@[simp] theorem grantCore_kept : ∀ s a1 a2, kept (grantCore s a1 a2) = kept s := by intros; simp [grantCore]
@[simp] theorem memHints_kept : ∀ s a1 a2 a3, kept (memHints s a1 a2 a3) = kept s := by intros; simp [memHints]
@[simp] theorem coreHints_kept : ∀ s a1 a2 a3, kept (coreHints s a1 a2 a3) = kept s := by intros; simp [coreHints]
@[simp] theorem bgEcc_kept : ∀ s a1 a2 a3, kept (bgEcc s a1 a2 a3) = kept s := by intros; simp [bgEcc]
@[simp] theorem holeEvent_kept : ∀ s a1 a2, kept (holeEvent s a1 a2) = kept s := by intros; simp [holeEvent]
@[simp] theorem eccEvents_kept : ∀ s a1 a2 a3, kept (eccEvents s a1 a2 a3) = kept s := by intros; simp only [eccEvents]; (repeat' split) <;> simp_all
@[simp] theorem eccEvent_kept : ∀ s a1 a2, kept (eccEvent s a1 a2) = kept s := by intros; simp only [eccEvent]; (repeat' split) <;> simp_all
@[simp] theorem eccFound_kept : ∀ s a1 a2 a3, kept (eccFound s a1 a2 a3) = kept s := by intros; simp [eccFound]
@[simp] theorem stageRead_kept : ∀ s a1 a2 a3 a4, kept ((stageRead s a1 a2 a3 a4).1) = kept s := by intros; simp only [stageRead]; (repeat' split) <;> simp_all
@[simp] theorem stageProbe_kept : ∀ s a1 a2 a3, kept ((stageProbe s a1 a2 a3).1) = kept s := by intros; simp [stageProbe]
@[simp] theorem addCheck_kept : ∀ s a1 a2, kept ((addCheck s a1 a2).1) = kept s := by intros; simp only [addCheck]; (repeat' split) <;> simp_all
@[simp] theorem echoFill_kept : ∀ s a1 a2, kept (echoFill s a1 a2) = kept s := by intros; simp [echoFill]
@[simp] theorem toCoreAs_kept : ∀ s a1 a2 a3 a4 a5 a6, kept (toCoreAs s a1 a2 a3 a4 a5 a6) = kept s := by intros; simp [toCoreAs]
@[simp] theorem toCore_kept : ∀ s a1 a2 a3, kept (toCore s a1 a2 a3) = kept s := by intros; simp [toCore]
@[simp] theorem coreWrite_kept : ∀ s a1 a2 a3, kept (coreWrite s a1 a2 a3) = kept s := by intros; simp only [coreWrite]; (repeat' split) <;> simp_all
@[simp] theorem loseLine_kept : ∀ s a1, kept (loseLine s a1) = kept s := by intros; simp [loseLine]
@[simp] theorem sendLine_kept : ∀ s a1 a2 a3 a4, kept (sendLine s a1 a2 a3 a4) = kept s := by intros; simp only [sendLine]; (repeat' split) <;> simp_all
@[simp] theorem memErr_kept : ∀ s a1 a2 a3 a4, kept (memErr s a1 a2 a3 a4) = kept s := by intros; simp [memErr]
@[simp] theorem errEvent_kept : ∀ s a1 a2 a3, kept (errEvent s a1 a2 a3) = kept s := by intros; simp only [errEvent]; (repeat' split) <;> simp_all
@[simp] theorem failEvents_kept : ∀ s a1 a2, kept (failEvents s a1 a2) = kept s := by intros; simp [failEvents]
@[simp] theorem tlbFill_kept : ∀ s a1 a2 a3 a4, kept (tlbFill s a1 a2 a3 a4) = kept s := by intros; simp [tlbFill]
@[simp] theorem setWalks_kept : ∀ s a1, kept (setWalks s a1) = kept s := by intros; simp [setWalks]
@[simp] theorem modWalk_kept : ∀ s a1 a2, kept (modWalk s a1 a2) = kept s := by intros; simp [modWalk]
@[simp] theorem warmNext_kept : ∀ s a1, kept (warmNext s a1) = kept s := by intros; simp [warmNext]
@[simp] theorem dropSets_kept : ∀ s a1, kept (dropSets s a1) = kept s := by intros; simp [dropSets]
@[simp] theorem mergeQueued_kept : ∀ s a1, kept ((mergeQueued s a1).1) = kept s := by intros; simp [mergeQueued]
@[simp] theorem walkRead_kept : ∀ s a1, kept (walkRead s a1) = kept s := by intros; simp [walkRead]
@[simp] theorem dueWalks_kept : ∀ s, kept (dueWalks s) = kept s := by intros; simp [dueWalks]
@[simp] theorem startWalk_kept : ∀ s a1, kept (startWalk s a1) = kept s := by intros; simp [startWalk]
@[simp] theorem startQueued_kept : ∀ a0 s a2, kept (startQueued a0 s a2) = kept s := by
  intro n
  induction n with
  | zero => intros; simp only [startQueued]
  | succ n ih => intros; simp only [startQueued]; (repeat' split) <;> simp_all
@[simp] theorem deposit_kept : ∀ s a1 a2 a3 a4, kept (deposit s a1 a2 a3 a4) = kept s := by intros; simp [deposit]
@[simp] theorem walkLeaf_kept : ∀ s a1 a2, kept (walkLeaf s a1 a2) = kept s := by intros; simp [walkLeaf]
@[simp] theorem walkFault_kept : ∀ s a1 a2 a3, kept (walkFault s a1 a2 a3) = kept s := by intros; simp [walkFault]
@[simp] theorem execWalkReadResponse_kept : ∀ a0 a1 s, kept (after (execWalkReadResponse a0 a1 s) s) = kept s := by intros; simp only [execWalkReadResponse]; (repeat' split) <;> simp_all
@[simp] theorem execWalkReadTimeout_kept : ∀ a0 s, kept (after (execWalkReadTimeout a0 s) s) = kept s := by intros; simp only [execWalkReadTimeout]; (repeat' split) <;> simp_all
@[simp] theorem missOne_kept : ∀ s a1 a2 a3 a4 a5, kept (missOne s a1 a2 a3 a4 a5) = kept s := by intros; simp only [missOne]; (repeat' split) <;> simp_all
@[simp] theorem missAll_kept : ∀ s a1 a2 a3 a4, kept (missAll s a1 a2 a3 a4) = kept s := by intros; simp only [missAll]; (repeat' split) <;> simp_all
@[simp] theorem lookup_kept : ∀ s a1 a2, kept ((lookup s a1 a2).1) = kept s := by intros; simp only [lookup]; (repeat' split) <;> simp_all
@[simp] theorem preLeaf_kept : ∀ s a1 a2 a3 a4, kept ((preLeaf s a1 a2 a3 a4).1) = kept s := by intros; simp only [preLeaf]; (repeat' split) <;> simp_all
@[simp] theorem clearPre_kept : ∀ s a1, kept (clearPre s a1) = kept s := by intros; simp [clearPre]
@[simp] theorem preLeaves_kept : ∀ s a1 a2 a3 a4, kept ((preLeaves s a1 a2 a3 a4).1) = kept s := by
  intros
  simp only [preLeaves]
  refine kept_foldl1 _ ?_ _ _
  intro acc a; (repeat' split) <;> simp_all
@[simp] theorem pollsGone_kept : ∀ s a1, kept (pollsGone s a1) = kept s := by intros; simp [pollsGone]
@[simp] theorem dropReqs_kept : ∀ s a1, kept (dropReqs s a1) = kept s := by intros; simp [dropReqs]
@[simp] theorem execFaultRecordAck_kept : ∀ a0 s, kept (after (execFaultRecordAck a0 s) s) = kept s := by intros; simp only [execFaultRecordAck]; (repeat' split) <;> simp_all
@[simp] theorem execRootAsidWrite_kept : ∀ a0 a1 a2 a3 s, kept (after (execRootAsidWrite a0 a1 a2 a3 s) s) = kept s := by intros; simp only [execRootAsidWrite]; (repeat' split) <;> simp_all
@[simp] theorem execFqLoWrite_kept : ∀ a0 a1 a2 s, kept (after (execFqLoWrite a0 a1 a2 s) s) = kept s := by
  intros
  unfold execFqLoWrite
  rw [after_next]
  refine mmioW_kept _ _ _ _ _ ?_
  intro s; (repeat' split) <;> simp only [refuse_kept, kept_mk, kept_eta]
@[simp] theorem execFqEnable_kept : ∀ a0 a1 s, kept (after (execFqEnable a0 a1 s) s) = kept s := by intros; simp [execFqEnable]
@[simp] theorem execFqHeadWrite_kept : ∀ a0 a1 s, kept (after (execFqHeadWrite a0 a1 s) s) = kept s := by
  intros
  simp only [execFqHeadWrite, after_next]
  refine mmioW_kept _ _ _ _ _ ?_
  intro s; rfl
@[simp] theorem restartWalks_kept : ∀ s, kept (restartWalks s) = kept s := by intros; simp [restartWalks]
@[simp] theorem invStart_kept : ∀ s, kept (invStart s) = kept s := by intros; simp [invStart]
@[simp] theorem execInvalidate_kept : ∀ a0 a1 s, kept (after (execInvalidate a0 a1 s) s) = kept s := by intros; simp [execInvalidate]
@[simp] theorem execInvalidateDone_kept : ∀ s, kept (after (execInvalidateDone s) s) = kept s := by intros; simp [execInvalidateDone]
@[simp] theorem execAdone_kept : ∀ a0 a1 s, kept (after (execAdone a0 a1 s) s) = kept s := by
  intros
  simp only [execAdone, after_next]
  refine mmioW_kept _ _ _ _ _ ?_
  intro s; (repeat' split) <;> simp only [refuse_kept, finish_kept, kept_mk, kept_eta]
@[simp] theorem execWindowEntryWrite_kept : ∀ a0 a1 a2 a3 s, kept (after (execWindowEntryWrite a0 a1 a2 a3 s) s) = kept s := by intros; simp [execWindowEntryWrite]
@[simp] theorem execXlClrcnt_kept : ∀ a0 a1 a2 s, kept (after (execXlClrcnt a0 a1 a2 s) s) = kept s := by intros; simp [execXlClrcnt]
@[simp] theorem wakeEffect_kept : ∀ s a1, kept (wakeEffect s a1) = kept s := by intros; simp [wakeEffect]
@[simp] theorem execWakeComplete_kept : ∀ a0 s, kept (after (execWakeComplete a0 s) s) = kept s := by intros; simp [execWakeComplete]
@[simp] theorem lowerLa_kept : ∀ s a1, kept (lowerLa s a1) = kept s := by intros; simp [lowerLa]
@[simp] theorem pumpFetch_kept : ∀ s a1, kept (pumpFetch s a1) = kept s := by intros; simp only [pumpFetch]; (repeat' split) <;> simp_all
@[simp] theorem dropFetch_kept : ∀ s a1, kept (dropFetch s a1) = kept s := by intros; simp [dropFetch]
@[simp] theorem batchProbe_kept : ∀ s a1 a2, kept (batchProbe s a1 a2).1 = kept s := by
  intros
  unfold batchProbe
  refine kept_foldl1 _ (fun s a => ?_) _ _
  exact stageProbe_kept _ _ _ _
@[simp] theorem stageFetch_kept : ∀ s a1 a2 a3, kept ((stageFetch s a1 a2 a3).1) = kept s := by intros; simp only [stageFetch]; (repeat' split) <;> simp_all
@[simp] theorem batchAns_kept : ∀ s a1 a2 a3, kept (batchAns s a1 a2 a3).1 = kept s := by
  intros
  unfold batchAns
  extract_lets
  (repeat' split) <;> simp
@[simp] theorem lookAhead_kept : ∀ s a1, kept (lookAhead s a1) = kept s := by intros; simp only [lookAhead]; (repeat' split) <;> simp_all
@[simp] theorem takeIn_kept : ∀ s a1 a2, kept (takeIn s a1 a2) = kept s := by intros; simp [takeIn]
@[simp] theorem fetchFail_kept : ∀ s a1 a2 a3, kept (fetchFail s a1 a2 a3) = kept s := by intros; simp only [fetchFail]; (repeat' split) <;> simp_all
@[simp] theorem execDescriptorFetchDone_kept : ∀ a0 a1 s, kept (after (execDescriptorFetchDone a0 a1 s) s) = kept s := by intros; simp only [execDescriptorFetchDone]; (repeat' split) <;> simp_all
@[simp] theorem fillSlots_kept : ∀ a0 s a2, kept (fillSlots a0 s a2) = kept s := by
  intro n
  induction n with
  | zero => intros; simp only [fillSlots]
  | succ n ih => intros; simp only [fillSlots]; (repeat' split) <;> simp_all
@[simp] theorem needMover_kept : ∀ s a1, kept (needMover s a1) = kept s := by intros; simp only [needMover]; (repeat' split) <;> simp_all
@[simp] theorem freeSlot_kept : ∀ s a1, kept (freeSlot s a1) = kept s := by intros; simp [freeSlot]
@[simp] theorem execDescriptorDecode_kept : ∀ a0 s, kept (after (execDescriptorDecode a0 s) s) = kept s := by intros; simp only [execDescriptorDecode]; (repeat' split) <;> simp_all
@[simp] theorem retireTiles_kept : ∀ s a1, kept (retireTiles s a1) = kept s := by intros; simp only [retireTiles]; (repeat' split) <;> simp_all
@[simp] theorem boundSide_kept : ∀ s a1 a2 a3 a4 a5, kept (boundSide s a1 a2 a3 a4 a5) = kept s := by intros; simp only [boundSide]; (repeat' split) <;> simp_all
@[simp] theorem boundDone_kept : ∀ s a1 a2 a3, kept (boundDone s a1 a2 a3) = kept s := by intros; simp [boundDone]
@[simp] theorem startRun_kept : ∀ s a1, kept (startRun s a1) = kept s := by intros; simp [startRun]
@[simp] theorem moveOn_kept : ∀ s a1 a2 a3 a4, kept (moveOn s a1 a2 a3 a4) = kept s := by intros; simp [moveOn]
@[simp] theorem recordFail_kept : ∀ s a1 a2, kept (recordFail s a1 a2) = kept s := by intros; unfold recordFail; (repeat' split) <;> grind [after, dropFetch_kept, dropReqs_kept, errEvent_kept, freeSlot_kept, ownDone_kept, pendCh_kept, setChan_kept]
@[simp] theorem boundWorld_kept : ∀ s a1 a2 a3 a4, kept ((boundWorld s a1 a2 a3 a4).1) = kept s := by intros; simp only [boundWorld]; (repeat' split) <;> simp_all
@[simp] theorem recordAck_kept : ∀ s a1 a2, kept (recordAck s a1 a2) = kept s := by intros; simp [recordAck]
@[simp] theorem execCompletionRecordError_kept : ∀ a0 a1 s, kept (after (execCompletionRecordError a0 a1 s) s) = kept s := by intros; simp [execCompletionRecordError]
@[simp] theorem execDoorbell_kept : ∀ a0 a1 a2 s, kept (after (execDoorbell a0 a1 a2 s) s) = kept s := by intros; simp [execDoorbell]
@[simp] theorem execHaltClear_kept : ∀ a0 a1 a2 s, kept (after (execHaltClear a0 a1 a2 s) s) = kept s := by intros; simp [execHaltClear]
@[simp] theorem execChannelRegWrite_kept : ∀ a0 a1 a2 a3 s, kept (after (execChannelRegWrite a0 a1 a2 a3 s) s) = kept s := by intros; simp only [execChannelRegWrite]; (repeat' split) <;> simp_all
@[simp] theorem bitwiseW_kept : ∀ s a1 a2 a3 a4 a5, (∀ x1 x2 s, kept (a5 x1 x2 s) = kept s) → kept (bitwiseW s a1 a2 a3 a4 a5) = kept s := by intros; simp only [bitwiseW]; (repeat' split) <;> simp_all
@[simp] theorem execIrqPendClear_kept : ∀ a0 a1 a2 s, kept (after (execIrqPendClear a0 a1 a2 s) s) = kept s := by intros; simp only [execIrqPendClear]; (repeat' split) <;> simp_all
@[simp] theorem endNow_kept : ∀ s a1 a2 a3, kept (endNow s a1 a2 a3) = kept s := by intros; simp [endNow]
@[simp] theorem retryTile_kept : ∀ s a1 a2 a3, kept (retryTile s a1 a2 a3) = kept s := by intros; simp only [retryTile]; (repeat' split) <;> simp_all
@[simp] theorem spoilTile_kept : ∀ s a1 a2, kept (spoilTile s a1 a2) = kept s := by intros; simp [spoilTile]
@[simp] theorem tileFail_kept : ∀ s a1 a2 a3 a4 a5, kept (tileFail s a1 a2 a3 a4 a5) = kept s := by intros; simp only [tileFail]; (repeat' split) <;> simp_all
@[simp] theorem timeoutEvent_kept : ∀ s a1, kept (timeoutEvent s a1) = kept s := by intros; simp [timeoutEvent]
@[simp] theorem addLate_kept : ∀ s a1 a2, kept (addLate s a1 a2) = kept s := by intros; simp [addLate]
@[simp] theorem inboundEnd_kept : ∀ s a1 a2 a3 a4, kept (inboundEnd s a1 a2 a3 a4) = kept s := by intros; simp only [inboundEnd]; (repeat' split) <;> simp_all
@[simp] theorem lineFail_kept : ∀ s a1 a2, kept (lineFail s a1 a2) = kept s := by intros; simp only [lineFail]; (repeat' split) <;> simp_all
@[simp] theorem lineGhost_kept : ∀ s a1, kept (lineGhost s a1) = kept s := by intros; simp only [lineGhost]; (repeat' split) <;> simp_all
@[simp] theorem unhold_kept : ∀ s a1, kept (unhold s a1) = kept s := by intros; simp [unhold]
@[simp] theorem locNeed_kept : ∀ s a1, kept (locNeed s a1) = kept s := by intros; simp only [locNeed]; (repeat' split) <;> simp_all
@[simp] theorem sendAdd_kept : ∀ s a1 a2 a3 a4 a5, kept (sendAdd s a1 a2 a3 a4 a5) = kept s := by intros; simp only [sendAdd]; (repeat' split) <;> simp_all
@[simp] theorem noteTc_kept : ∀ s a1 a2 a3, kept (noteTc s a1 a2 a3) = kept s := by intros; simp [noteTc]
theorem putPieces_kept : ∀ s a1 a2 a3 a4 a5 r, putPieces s a1 a2 a3 a4 a5 = some r → kept r.1 = kept s := by
  intro s c x k sc ps
  induction ps generalizing s with
  | nil => intro r h; simp [putPieces] at h
  | cons p ps ih =>
    intro r h
    unfold putPieces at h
    extract_lets add q prio s1 s2 at h
    have h2 : kept s2 = kept s := by simp only [s2, s1, q]; split <;> simp
    split at h
    · split at h
      · cases h; exact h2
      · obtain ⟨q', hq, rfl⟩ := Option.map_eq_some_iff.1 h
        exact (ih _ _ hq).trans h2
    · cases h
@[simp] theorem issueCtl_kept : ∀ s a1 a2 a3 a4 a5 a6, kept (issueCtl s a1 a2 a3 a4 a5 a6) = kept s := by
  intros
  unfold issueCtl
  extract_lets
  (repeat' split) <;> first | (simp; done) | (rw [modStream_kept]; exact putPieces_kept _ _ _ _ _ _ _ ‹_›)
@[simp] theorem ctlLeaves_kept : ∀ s a1 a2 a3, kept ((ctlLeaves s a1 a2 a3).1) = kept s := by intros; unfold ctlLeaves; (repeat' split) <;> grind [after, preLeaf_kept]
@[simp] theorem sendReads_kept : ∀ s a1 a2 a3 a4 a5 a6, kept (sendReads s a1 a2 a3 a4 a5 a6) = kept s := by
  intros
  unfold sendReads
  extract_lets
  refine kept_foldl _ (fun s a => ?_) _ _
  extract_lets loc l
  clear_value loc
  (repeat' split) <;> simp
@[simp] theorem recDone_kept : ∀ s a1 a2, kept (recDone s a1 a2) = kept s := by intros; simp [recDone]
@[simp] theorem recError_kept : ∀ s a1 a2 a3 a4, kept ((recError s a1 a2 a3 a4).1) = kept s := by intros; simp only [recError]; (repeat' split) <;> simp_all
@[simp] theorem recProbe_kept : ∀ s a1 a2, kept (recProbe s a1 a2).1 = kept s := by
  intros
  unfold recProbe
  refine kept_foldl1 _ (fun s a => ?_) _ _
  (repeat' split) <;> simp
@[simp] theorem recEnd_kept : ∀ s a1 a2 a3 a4 a5 a6 a7 a8, kept ((recEnd s a1 a2 a3 a4 a5 a6 a7 a8).1) = kept s := by intros; simp only [recEnd]; (repeat' split) <;> simp_all
@[simp] theorem recRead_kept : ∀ s a1 a2 a3 a4 a5 a6 a7, kept (recRead s a1 a2 a3 a4 a5 a6 a7).1 = kept s := by
  intro s c o va n a p w
  unfold recRead
  split
  · grind [preLeaves_kept]
  · rename_i s1 es heq
    have h : kept s1 = kept s := by rw [← preLeaves_kept s c o va n, heq]
    rw [← h]
    extract_lets locs prio ans
    (repeat' split) <;> simp
@[simp] theorem recFail_kept : ∀ s a1 a2, kept (recFail s a1 a2) = kept s := by intros; simp [recFail]
@[simp] theorem execNop_kept : ∀ a0 s, kept (after (execNop a0 s) s) = kept s := by intros; simp only [execNop]; (repeat' split) <;> simp_all
@[simp] theorem signalOp_kept : ∀ s a1 a2 a3, kept (signalOp s a1 a2 a3) = kept s := by intros; unfold signalOp; (repeat' split) <;> grind [after, ctlLeaves_kept, handOff_kept, issueCtl_kept]
@[simp] theorem execSignalWrite_kept : ∀ a0 s, kept (after (execSignalWrite a0 s) s) = kept s := by intros; simp only [execSignalWrite]; (repeat' split) <;> simp_all
@[simp] theorem execSignalAdd_kept : ∀ a0 s, kept (after (execSignalAdd a0 s) s) = kept s := by intros; simp only [execSignalAdd]; (repeat' split) <;> simp_all
theorem barUse_kept : ∀ s a1 a2 t, barUse s a1 a2 = .error t → kept t = kept s := by
  intro s c v t h
  simp only [barUse] at h
  (repeat' split at h) <;> cases h <;> simp
@[simp] theorem arriveHome_kept : ∀ s a1 a2 a3, kept (arriveHome s a1 a2 a3) = kept s := by intros; simp [arriveHome]
@[simp] theorem execArrive_kept : ∀ a0 s, kept (after (execArrive a0 s) s) = kept s := by
  intro c s
  unfold execArrive
  split
  · rfl
  · rw [after_next]
    refine handOff_kept _ _ _ (fun s => ?_)
    split
    · exact barUse_kept _ _ _ _ ‹_›
    · extract_lets
      split <;> simp +zetaDelta
@[simp] theorem execArriveAckTimeout_kept : ∀ a0 s, kept (after (execArriveAckTimeout a0 s) s) = kept s := by intros; simp only [execArriveAckTimeout]; (repeat' split) <;> simp_all
@[simp] theorem execPush_kept : ∀ a0 s, kept (after (execPush a0 s) s) = kept s := by intros; simp only [execPush]; (repeat' split) <;> simp_all
@[simp] theorem ringSignal_kept : ∀ s a1 a2 a3, kept (ringSignal s a1 a2 a3) = kept s := by intros; simp [ringSignal]
@[simp] theorem execProduce_kept : ∀ a0 s, kept (after (execProduce a0 s) s) = kept s := by intros; simp only [execProduce]; (repeat' split) <;> simp_all
@[simp] theorem execRelease_kept : ∀ a0 s, kept (after (execRelease a0 s) s) = kept s := by intros; simp only [execRelease]; (repeat' split) <;> simp_all
@[simp] theorem execSignalDoorbell_kept : ∀ a0 s, kept (after (execSignalDoorbell a0 s) s) = kept s := by intros; simp only [execSignalDoorbell]; (repeat' split) <;> simp_all
@[simp] theorem execWaitBarrier_kept : ∀ a0 s, kept (after (execWaitBarrier a0 s) s) = kept s := by
  intro c s
  unfold execWaitBarrier
  split
  · rfl
  · split
    · exact barUse_kept _ _ _ _ ‹_›
    · simp
theorem pollRefused_kept : ∀ s a1 a2 t, pollRefused s a1 a2 = some t → kept t = kept s := by
  intro s c ps t h
  unfold pollRefused at h
  (repeat' split at h) <;> simp_all <;> subst h <;> simp
@[simp] theorem sendPoll_kept : ∀ s a1 a2, kept (sendPoll s a1 a2) = kept s := by
  intro s c x
  unfold sendPoll
  split
  · grind [preLeaves_kept]
  · rename_i s1 es heq
    have h : kept s1 = kept s := by rw [← preLeaves_kept s c _ _ _, heq]
    rw [← h]
    extract_lets ps
    split
    · exact pollRefused_kept _ _ _ _ ‹_›
    · split <;> simp
@[simp] theorem execWaitValue_kept : ∀ a0 s, kept (after (execWaitValue a0 s) s) = kept s := by intros; simp only [execWaitValue]; (repeat' split) <;> simp_all
@[simp] theorem pollStage_kept : ∀ s a1 a2, kept (pollStage s a1 a2).1 = kept s := by
  intros
  unfold pollStage
  refine kept_foldl1 _ (fun s a => ?_) _ _
  split
  · extract_lets lane
    split
    · rfl
    · split
      · simp
      · exact stageProbe_kept _ _ _ _
  · rfl
@[simp] theorem pollAns_kept : ∀ s a1 a2 a3 a4, kept ((pollAns s a1 a2 a3 a4).1) = kept s := by intros; simp only [pollAns]; (repeat' split) <;> simp_all
@[simp] theorem execWaitValuePoll_kept : ∀ a0 a1 s, kept (after (execWaitValuePoll a0 a1 s) s) = kept s := by
  intro c a s
  unfold execWaitValuePoll
  split
  · rfl
  · split
    · simp
    · split
      · rw [after_next]; grind [preLeaves_kept]
      · rename_i x _ _ s1 es heq
        have h : kept s1 = kept s := by rw [← preLeaves_kept s c.val _ _ _, heq]
        rw [← h]
        split
        · rw [after_next]; exact pollRefused_kept _ _ _ _ ‹_›
        · split
          · rfl
          · extract_lets r
            have h2 : kept r.1 = kept s1 := by simp [r]
            rw [← h2]
            (repeat' split) <;> simp
@[simp] theorem popIssue_kept : ∀ s a1 a2 a3, kept (popIssue s a1 a2 a3) = kept s := by intros; unfold popIssue; (repeat' split) <;> grind [after, ctlLeaves_kept, issueCtl_kept]
@[simp] theorem popStart_kept : ∀ s a1 a2, kept (popStart s a1 a2) = kept s := by intros; unfold popStart; (repeat' split) <;> grind [after, beginWait_kept, ctlLeaves_kept, finish_kept, hqSettle_kept, notice_kept, refuseStream_kept, worldRefuse_kept]
@[simp] theorem execPop_kept : ∀ a0 s, kept (after (execPop a0 s) s) = kept s := by intros; simp only [execPop]; (repeat' split) <;> simp_all
@[simp] theorem ringWait_kept : ∀ s a1 a2 a3, kept (ringWait s a1 a2 a3) = kept s := by intros; simp [ringWait]
@[simp] theorem ringAgain_kept : ∀ s a1 a2 a3, kept (ringAgain s a1 a2 a3) = kept s := by intros; simp [ringAgain]
@[simp] theorem execFilled_kept : ∀ a0 s, kept (after (execFilled a0 s) s) = kept s := by intros; simp only [execFilled]; (repeat' split) <;> simp_all
@[simp] theorem execFree_kept : ∀ a0 s, kept (after (execFree a0 s) s) = kept s := by intros; simp only [execFree]; (repeat' split) <;> simp_all
@[simp] theorem execWaitTimeout_kept : ∀ a0 s, kept (after (execWaitTimeout a0 s) s) = kept s := by intros; simp only [execWaitTimeout]; (repeat' split) <;> simp_all
@[simp] theorem orderOp_kept : ∀ s a1 a2 a3 a4, (∀ s, kept (a4 s) = kept s) → kept (orderOp s a1 a2 a3 a4) = kept s := by intros; simp only [orderOp]; (repeat' split) <;> simp_all
@[simp] theorem execDrain_kept : ∀ a0 s, kept (after (execDrain a0 s) s) = kept s := by intros; simp [execDrain]
@[simp] theorem execDepChannel_kept : ∀ a0 s, kept (after (execDepChannel a0 s) s) = kept s := by intros; simp only [execDepChannel]; (repeat' split) <;> simp_all
@[simp] theorem execDepBarrier_kept : ∀ a0 s, kept (after (execDepBarrier a0 s) s) = kept s := by
  intro c s
  unfold execDepBarrier
  split
  · rfl
  · split
    · exact barUse_kept _ _ _ _ ‹_›
    · simp
@[simp] theorem fenceWait_kept : ∀ s a1 a2, kept (fenceWait s a1 a2) = kept s := by intros; simp [fenceWait]
@[simp] theorem execFenceRelease_kept : ∀ a0 s, kept (after (execFenceRelease a0 s) s) = kept s := by intros; simp only [execFenceRelease]; (repeat' split) <;> simp_all
@[simp] theorem execFenceAcquire_kept : ∀ a0 s, kept (after (execFenceAcquire a0 s) s) = kept s := by intros; simp only [execFenceAcquire]; (repeat' split) <;> simp_all
@[simp] theorem execFenceFull_kept : ∀ a0 s, kept (after (execFenceFull a0 s) s) = kept s := by intros; simp only [execFenceFull]; (repeat' split) <;> simp_all
@[simp] theorem execRearm_kept : ∀ a0 s, kept (after (execRearm a0 s) s) = kept s := by intros; simp only [execRearm]; (repeat' split) <;> simp_all
@[simp] theorem execRearmStop_kept : ∀ a0 s, kept (after (execRearmStop a0 s) s) = kept s := by intros; simp only [execRearmStop]; (repeat' split) <;> simp_all
@[simp] theorem mbPost_kept : ∀ s a1 a2 a3, kept (mbPost s a1 a2 a3) = kept s := by intros; simp [mbPost]
@[simp] theorem execMailbox_kept : ∀ a0 a1 s, kept (after (execMailbox a0 a1 s) s) = kept s := by intros; unfold execMailbox; (repeat' split) <;> grind [after, handOff_kept, mbPost_kept, recFail_kept, recRead_kept, worldRefuse_kept]
@[simp] theorem advise_kept : ∀ s a1 a2 a3, kept (advise s a1 a2 a3) = kept s := by intros; simp [advise]
@[simp] theorem execPrefetch_kept : ∀ a0 s, kept (after (execPrefetch a0 s) s) = kept s := by intros; simp only [execPrefetch]; (repeat' split) <;> simp_all
@[simp] theorem execEvict_kept : ∀ a0 s, kept (after (execEvict a0 s) s) = kept s := by intros; simp only [execEvict]; (repeat' split) <;> simp_all
@[simp] theorem execWarm_kept : ∀ a0 s, kept (after (execWarm a0 s) s) = kept s := by intros; simp only [execWarm]; (repeat' split) <;> simp_all
@[simp] theorem execCold_kept : ∀ a0 s, kept (after (execCold a0 s) s) = kept s := by intros; simp only [execCold]; (repeat' split) <;> simp_all
@[simp] theorem whirlOp_kept : ∀ s a1 a2 a3, kept (whirlOp s a1 a2 a3) = kept s := by intros; simp only [whirlOp]; (repeat' split) <;> simp_all
@[simp] theorem whirlAlu_kept : ∀ s a1 a2 a3, kept (whirlAlu s a1 a2 a3) = kept s := by intros; simp [whirlAlu]
@[simp] theorem execWhHalt_kept : ∀ a0 s, kept (after (execWhHalt a0 s) s) = kept s := by intros; simp only [execWhHalt]; (repeat' split) <;> simp_all
@[simp] theorem execWhMovi_kept : ∀ a0 s, kept (after (execWhMovi a0 s) s) = kept s := by intros; simp [execWhMovi]
@[simp] theorem execWhAdd_kept : ∀ a0 s, kept (after (execWhAdd a0 s) s) = kept s := by intros; simp [execWhAdd]
@[simp] theorem execWhAddi_kept : ∀ a0 s, kept (after (execWhAddi a0 s) s) = kept s := by intros; simp [execWhAddi]
@[simp] theorem execWhSub_kept : ∀ a0 s, kept (after (execWhSub a0 s) s) = kept s := by intros; simp [execWhSub]
@[simp] theorem execWhMuli_kept : ∀ a0 s, kept (after (execWhMuli a0 s) s) = kept s := by intros; simp [execWhMuli]
@[simp] theorem execWhAnd_kept : ∀ a0 s, kept (after (execWhAnd a0 s) s) = kept s := by intros; simp [execWhAnd]
@[simp] theorem execWhOr_kept : ∀ a0 s, kept (after (execWhOr a0 s) s) = kept s := by intros; simp [execWhOr]
@[simp] theorem execWhXor_kept : ∀ a0 s, kept (after (execWhXor a0 s) s) = kept s := by intros; simp [execWhXor]
@[simp] theorem execWhShli_kept : ∀ a0 s, kept (after (execWhShli a0 s) s) = kept s := by intros; simp [execWhShli]
@[simp] theorem execWhShri_kept : ∀ a0 s, kept (after (execWhShri a0 s) s) = kept s := by intros; simp [execWhShri]
@[simp] theorem execWhSari_kept : ∀ a0 s, kept (after (execWhSari a0 s) s) = kept s := by intros; simp [execWhSari]
@[simp] theorem execWhBrev_kept : ∀ a0 s, kept (after (execWhBrev a0 s) s) = kept s := by intros; simp [execWhBrev]
@[simp] theorem execWhDrev_kept : ∀ a0 s, kept (after (execWhDrev a0 s) s) = kept s := by intros; simp [execWhDrev]
@[simp] theorem execWhEmit_kept : ∀ a0 s, kept (after (execWhEmit a0 s) s) = kept s := by intros; simp only [execWhEmit]; (repeat' split) <;> simp_all
@[simp] theorem execWhDjnz_kept : ∀ a0 s, kept (after (execWhDjnz a0 s) s) = kept s := by intros; simp [execWhDjnz]
@[simp] theorem execWhBlt_kept : ∀ a0 s, kept (after (execWhBlt a0 s) s) = kept s := by intros; simp [execWhBlt]
@[simp] theorem execWhBne_kept : ∀ a0 s, kept (after (execWhBne a0 s) s) = kept s := by intros; simp [execWhBne]
@[simp] theorem execWhJmp_kept : ∀ a0 s, kept (after (execWhJmp a0 s) s) = kept s := by intros; simp [execWhJmp]
@[simp] theorem execWhirlQuietStop_kept : ∀ a0 s, kept (after (execWhirlQuietStop a0 s) s) = kept s := by intros; simp only [execWhirlQuietStop]; (repeat' split) <;> simp_all
@[simp] theorem reserveSide_kept : ∀ s a1 a2, kept (reserveSide s a1 a2) = kept s := by intros; simp only [reserveSide]; (repeat' split) <;> simp_all
@[simp] theorem execBoundRunReserve_kept : ∀ a0 s, kept (after (execBoundRunReserve a0 s) s) = kept s := by intros; simp only [execBoundRunReserve]; (repeat' split) <;> simp_all
@[simp] theorem markIssued_kept : ∀ s a1, kept (markIssued s a1) = kept s := by intros; simp only [markIssued]; (repeat' split) <;> simp_all
@[simp] theorem execMove_kept : ∀ a0 s, kept (after (execMove a0 s) s) = kept s := by intros; simp only [execMove]; (repeat' split) <;> simp_all
@[simp] theorem shapeRead_kept : ∀ s a1 a2 a3, kept ((shapeRead s a1 a2 a3).1) = kept s := by intros; simp only [shapeRead]; (repeat' split) <;> simp_all
@[simp] theorem readLines_kept : ∀ a0 a1 a2 a3 a4 a5 a6 a7 s, kept (readLines a0 a1 a2 a3 a4 a5 a6 a7 s).1 = kept s := by
  intro c o sd b a p w l
  induction l with
  | nil => intro s; rfl
  | cons e l ih =>
    intro s
    unfold readLines
    (repeat' split) <;> grind [recRead_kept, modStream_kept]
@[simp] theorem execTensor_kept : ∀ a0 a1 a2 s, kept (after (execTensor a0 a1 a2 s) s) = kept s := by
  intro c a b s
  unfold execTensor
  split
  · split
    · simp
    · rfl
  · split
    · simp
    · split <;> (rename_i heq; have h := congrArg (fun p => kept p.1) heq; simp only [shapeRead_kept] at h)
      · rw [after_next, h]
      · rw [after_next, recFail_kept, h]
      · extract_lets
        (repeat' split) <;> simp [h]
@[simp] theorem execGather_kept : ∀ a0 a1 a2 s, kept (after (execGather a0 a1 a2 s) s) = kept s := by intros; simp only [execGather]; (repeat' split) <;> simp_all
@[simp] theorem execWhirl_kept : ∀ a0 a1 s, kept (after (execWhirl a0 a1 s) s) = kept s := by intros; unfold execWhirl; (repeat' split) <;> grind [after, refuseStream_kept, bump_kept, setStream_kept, modStream_kept, recRead_kept, recFail_kept]
@[simp] theorem endTiles_kept : ∀ s a1 a2 a3, kept (endTiles s a1 a2 a3) = kept s := by intros; simp [endTiles]
@[simp] theorem worldStop_kept : ∀ s a1 a2, kept (worldStop s a1 a2) = kept s := by intros; simp [worldStop]
@[simp] theorem preFail_kept : ∀ s a1 a2, kept (preFail s a1 a2) = kept s := by intros; simp [preFail]
@[simp] theorem noMore_kept : ∀ s a1, kept (noMore s a1) = kept s := by intros; simp [noMore]
@[simp] theorem genMove_kept : ∀ s a1 a2, kept (genMove s a1 a2) = kept s := by intros; simp [genMove]
@[simp] theorem tensorTileAdd_kept : ∀ s a1 a2 a3 a4, kept (tensorTileAdd s a1 a2 a3 a4) = kept s := by intros; simp only [tensorTileAdd]; (repeat' split) <;> simp_all
@[simp] theorem skipTile_kept : ∀ s a1 a2 a3, kept (skipTile s a1 a2 a3) = kept s := by intros; unfold skipTile; (repeat' split) <;> grind [after, lookup_kept, modStream_kept, need_kept, preFail_kept, readLines_kept]
@[simp] theorem genTensor_kept : ∀ s a1 a2, kept (genTensor s a1 a2) = kept s := by intros; unfold genTensor; (repeat' split) <;> grind [after, noMore_kept, preFail_kept, readLines_kept, skipTile_kept, tensorTileAdd_kept]
@[simp] theorem gatherSeg_kept : ∀ a0 a1 s, kept (gatherSeg a0 a1 s).1 = kept s := by
  intro c n
  induction n with
  | zero => intro s; rfl
  | succ n ih =>
    intro s
    unfold gatherSeg
    (repeat' split) <;> grind [readLines_kept]
@[simp] theorem peekGather_kept : ∀ s a1, kept (peekGather s a1) = kept s := by intros; simp [peekGather]
@[simp] theorem genGather_kept : ∀ s a1 a2, kept (genGather s a1 a2) = kept s := by intros; unfold genGather; (repeat' split) <;> grind [after, bump_kept, endTiles_kept, gatherSeg_kept, markIssued_kept, noMore_kept, preFail_kept, setStream_kept]
@[simp] theorem genWhirl_kept : ∀ s a1 a2, kept (genWhirl s a1 a2) = kept s := by intros; simp only [genWhirl]; (repeat' split) <;> simp_all
@[simp] theorem modTile_kept : ∀ s a1 a2 a3, kept (modTile s a1 a2 a3) = kept s := by intros; simp [modTile]
@[simp] theorem walkRegion_kept : ∀ s a1 a2 a3, kept (walkRegion s a1 a2 a3) = kept s := by intros; simp only [walkRegion]; (repeat' split) <;> simp_all
@[simp] theorem tileWalked_kept : ∀ s a1 a2, kept (tileWalked s a1 a2) = kept s := by intros; simp only [tileWalked]; (repeat' split) <;> simp_all
@[simp] theorem execTilePrewalk_kept : ∀ a0 s, kept (after (execTilePrewalk a0 s) s) = kept s := by intros; simp only [execTilePrewalk]; (repeat' split) <;> simp_all
@[simp] theorem modGroup_kept : ∀ s a1 a2 a3 a4, kept (modGroup s a1 a2 a3 a4) = kept s := by intros; simp [modGroup]
@[simp] theorem rotate_kept : ∀ s a1 a2, kept (rotate s a1 a2) = kept s := by intros; simp [rotate]
@[simp] theorem reserveLand_kept : ∀ s a1 a2 a3, kept (reserveLand s a1 a2 a3) = kept s := by intros; simp [reserveLand]
theorem reserveTo_kept : ∀ s a1 a2 a3 a4 r, reserveTo s a1 a2 a3 a4 = some r → kept r = kept s := by
  intro s m c no es
  induction es generalizing s with
  | nil => intro r h; cases h; rfl
  | cons e es ih =>
    intro r h
    unfold reserveTo at h
    (repeat' split at h) <;> first | (cases h; rfl) | (cases h; done) | exact (ih _ _ h).trans (by simp)
@[simp] theorem reserved_kept : ∀ s a1 a2 a3 a4, kept ((reserved s a1 a2 a3 a4).getD s) = kept s := by
  intro s m c x e
  unfold reserved
  split
  · cases h : reserveTo s m c e.2.no (allGroups x) with
    | none => rfl
    | some r => exact reserveTo_kept _ _ _ _ _ _ h
  · rfl
@[simp] theorem issueNeeds_kept : ∀ s a1 a2, kept (issueNeeds s a1 a2) = kept s := by
  intros
  unfold issueNeeds
  refine kept_foldl _ (fun s a => ?_) _ _
  split
  · rfl
  · split
    · simp
    · refine kept_foldl _ (fun s a => ?_) _ _
      split <;> simp
@[simp] theorem setWin8_kept : ∀ s a1 a2 a3, kept (setWin8 s a1 a2 a3) = kept s := by intros; simp [setWin8]
@[simp] theorem tickWin8_kept : ∀ s a1 a2, kept (tickWin8 s a1 a2) = kept s := by intros; simp [tickWin8]
@[simp] theorem usePlace_kept : ∀ s a1 a2 a3, kept (usePlace s a1 a2 a3) = kept s := by intros; simp [usePlace]
@[simp] theorem fillPlaces_kept : ∀ a0 a1 a2 a3, (∀ s x1 x2, kept (a3 s x1 x2).1 = kept s) → ∀ n u r, kept (fillPlaces a0 a1 a2 a3 n u r).1 = kept r.1 := by
  intro m w cs act h n
  induction n with
  | zero => intros; rfl
  | succ n ih =>
    intro u r
    obtain ⟨s, o⟩ := r
    unfold fillPlaces
    extract_lets
    (repeat' split) <;> first | rfl | (rw [ih]; simp [h])
@[simp] theorem lineHints_kept : ∀ s a1 a2, kept (lineHints s a1 a2) = kept s := by intros; simp only [lineHints]; (repeat' split) <;> simp_all
@[simp] theorem sendAll_kept : ∀ n a1 s, kept (sendAll n a1 s) = kept s := by
  intro n
  induction n with
  | zero => intros; rfl
  | succ n ih =>
    intro l s
    cases l with
    | nil => rfl
    | cons e l => unfold sendAll; rw [ih]; simp
@[simp] theorem countEcho_kept : ∀ s a1, kept (countEcho s a1) = kept s := by intros; simp [countEcho]
@[simp] theorem issueRead_kept : ∀ s a1 a2, kept (issueRead s a1 a2).1 = kept s := by
  intros
  unfold issueRead
  dsimp only
  (repeat' split) <;> simp
@[simp] theorem countResWait_kept : ∀ s a1, kept (countResWait s a1) = kept s := by intros; simp [countResWait]
@[simp] theorem setParity_kept : ∀ s a1, kept (setParity s a1) = kept s := by intros; simp only [setParity]; (repeat' split) <;> simp_all
@[simp] theorem execReadIssue_kept : ∀ a0 s, kept (after (execReadIssue a0 s) s) = kept s := by
  intro t s
  unfold execReadIssue
  split
  · rfl
  · split
    · rw [after_next]; split <;> simp
    · extract_lets s1 s2 cands s3 r
      rw [after_next, sendAll_kept]
      exact (fillPlaces_kept _ _ _ _ issueRead_kept _ _ _).trans (by simp [s3, s2, s1])
@[simp] theorem issueWrite_kept : ∀ s a1 a2 a3 a4 a5, kept ((issueWrite s a1 a2 a3 a4 a5).1) = kept s := by intros; simp only [issueWrite]; (repeat' split) <;> simp_all
@[simp] theorem issueNextWrite_kept : ∀ s a1 a2, kept ((issueNextWrite s a1 a2).1) = kept s := by intros; simp only [issueNextWrite]; (repeat' split) <;> simp_all
@[simp] theorem execWriteIssue_kept : ∀ a0 s, kept (after (execWriteIssue a0 s) s) = kept s := by
  intro t s
  unfold execWriteIssue
  split
  · rfl
  · split
    · rw [after_next]; split <;> simp
    · extract_lets s1 cands s3 r
      rw [after_next, sendAll_kept]
      exact (fillPlaces_kept _ _ _ _ issueNextWrite_kept _ _ _).trans (by simp [s3, s1])
@[simp] theorem execHeldWriteIssue_kept : ∀ a0 s, kept (after (execHeldWriteIssue a0 s) s) = kept s := by intros; simp only [execHeldWriteIssue]; (repeat' split) <;> simp_all
@[simp] theorem ownGone_kept : ∀ s a1, kept (ownGone s a1) = kept s := by intros; simp only [ownGone]; (repeat' split) <;> simp_all
@[simp] theorem ownLate_kept : ∀ s a1, kept (ownLate s a1) = kept s := by intros; simp [ownLate]
@[simp] theorem landLine_kept : ∀ s a1 a2, kept (landLine s a1 a2) = kept s := by intros; simp only [landLine]; (repeat' split) <;> simp_all
@[simp] theorem echoEcc_kept : ∀ s a1 a2, kept (echoEcc s a1 a2) = kept s := by intros; simp [echoEcc]
@[simp] theorem execReadDataLand_kept : ∀ a0 a1 a2 s, kept (after (execReadDataLand a0 a1 a2 s) s) = kept s := by intros; simp only [execReadDataLand]; (repeat' split) <;> simp_all
@[simp] theorem assemble_kept : ∀ s a1 a2 a3, kept (assemble s a1 a2 a3).1 = kept s := by
  intros
  unfold assemble
  extract_lets w r s1 flush last be be2
  have h : kept s1 = kept _ := kept_foldl1 _ (fun acc a => by dsimp only; split <;> rfl) _ _
  rw [← h]
  (repeat' split) <;> rfl
@[simp] theorem addReady_kept : ∀ s a1 a2 a3 a4 a5 a6, kept (addReady s a1 a2 a3 a4 a5 a6) = kept s := by intros; simp [addReady]
@[simp] theorem pickVals_kept : ∀ s a1 a2 a3 a4, kept ((pickVals s a1 a2 a3 a4).1) = kept s := by
  intros
  simp only [pickVals]
  refine kept_foldl1 _ ?_ _ _
  intro acc a; (repeat' split) <;> simp_all
@[simp] theorem bypassLine_kept : ∀ s a1 a2 a3 a4 a5, kept (bypassLine s a1 a2 a3 a4 a5) = kept s := by intros; simp [bypassLine]
@[simp] theorem execOutputLineEmit_kept : ∀ a0 a1 a2 s, kept (after (execOutputLineEmit a0 a1 a2 s) s) = kept s := by intros; simp only [execOutputLineEmit]; (repeat' split) <;> simp_all
@[simp] theorem accSum_kept : ∀ a0 a1 s a3 a4 a5, kept ((accSum a0 a1 s a3 a4 a5).1) = kept s := by
  intro d n
  induction n with
  | zero => intros; simp [accSum]
  | succ n ih => intros; simp only [accSum]; (repeat' split) <;> simp_all
@[simp] theorem accVals_kept : ∀ s a1 a2 a3 a4 a5, kept ((accVals s a1 a2 a3 a4 a5).1) = kept s := by
  intros
  simp only [accVals]
  refine kept_foldl1 _ ?_ _ _
  intro acc a; (repeat' split) <;> simp_all
@[simp] theorem scaleLine_kept : ∀ s a1 a2 a3 a4, kept ((scaleLine s a1 a2 a3 a4).1) = kept s := by
  intros
  simp only [scaleLine]
  refine kept_foldl1 _ ?_ _ _
  intro acc a; (repeat' split) <;> simp_all
@[simp] theorem execMordantCast_kept : ∀ a0 a1 a2 s, kept (after (execMordantCast a0 a1 a2 s) s) = kept s := by intros; simp only [execMordantCast]; (repeat' split) <;> simp_all
@[simp] theorem ownAck_kept : ∀ s a1, kept (ownAck s a1) = kept s := by intros; simp only [ownAck]; (repeat' split) <;> simp_all
@[simp] theorem execRelayForward_kept : ∀ a0 s, kept (after (execRelayForward a0 s) s) = kept s := by intros; simp only [execRelayForward]; (repeat' split) <;> simp_all
@[simp] theorem ownError_kept : ∀ s a1 a2, kept (ownError s a1 a2) = kept s := by intros; simp only [ownError]; (repeat' split) <;> simp_all
@[simp] theorem execFabricErrorResponse_kept : ∀ a0 a1 s, kept (after (execFabricErrorResponse a0 a1 s) s) = kept s := by intros; simp only [execFabricErrorResponse]; (repeat' split) <;> simp_all
@[simp] theorem execLateResponse_kept : ∀ a0 s, kept (after (execLateResponse a0 s) s) = kept s := by intros; simp only [execLateResponse]; (repeat' split) <;> simp_all
@[simp] theorem execLineTimeout_kept : ∀ a0 s, kept (after (execLineTimeout a0 s) s) = kept s := by intros; simp only [execLineTimeout]; (repeat' split) <;> simp_all
@[simp] theorem execEchoFlush_kept : ∀ a0 a1 s, kept (after (execEchoFlush a0 a1 s) s) = kept s := by
  intros
  simp only [execEchoFlush, after_next]
  refine mmioW_kept _ _ _ _ _ ?_
  intro s; rfl
@[simp] theorem execEchoFlushDone_kept : ∀ s, kept (after (execEchoFlushDone s) s) = kept s := by intros; simp [execEchoFlushDone]
@[simp] theorem relayWrite_kept : ∀ a0 a1 s, kept (relayWrite a0 a1 s) = kept s := by intros; simp [relayWrite]
@[simp] theorem execRelayEnable_kept : ∀ a0 a1 a2 s, kept (after (execRelayEnable a0 a1 a2 s) s) = kept s := by intros; simp [execRelayEnable]
@[simp] theorem tagRead_kept : ∀ a0 s, kept ((tagRead a0 s).1) = kept s := by intros; simp [tagRead]
@[simp] theorem execTagHwmRead_kept : ∀ a0 a1 s, kept (after (execTagHwmRead a0 a1 s) s) = kept s := by intros; simp [execTagHwmRead]
@[simp] theorem kqLand_kept : ∀ a0 s, kept ((kqLand a0 s).1) = kept s := by intros; simp [kqLand]
@[simp] theorem execKqLandRead_kept : ∀ a0 a1 s, kept (after (execKqLandRead a0 a1 s) s) = kept s := by intros; simp [execKqLandRead]
@[simp] theorem execKqClrcnt_kept : ∀ a0 a1 a2 s, kept (after (execKqClrcnt a0 a1 a2 s) s) = kept s := by intros; simp [execKqClrcnt]
@[simp] theorem mdCtrl_kept : ∀ a0 a1 s, kept (mdCtrl a0 a1 s) = kept s := by intros; simp [mdCtrl]
@[simp] theorem execMdClrcnt_kept : ∀ a0 a1 a2 s, kept (after (execMdClrcnt a0 a1 a2 s) s) = kept s := by intros; simp [execMdClrcnt]
@[simp] theorem execReseed_kept : ∀ a0 a1 a2 s, kept (after (execReseed a0 a1 a2 s) s) = kept s := by intros; simp [execReseed]
@[simp] theorem execMpClr_kept : ∀ a0 a1 a2 s, kept (after (execMpClr a0 a1 a2 s) s) = kept s := by intros; simp [execMpClr]
@[simp] theorem execPlacementWindowEnd_kept : ∀ a0 a1 a2 s, kept (after (execPlacementWindowEnd a0 a1 a2 s) s) = kept s := by intros; simp only [execPlacementWindowEnd]; (repeat' split) <;> simp_all
@[simp] theorem poolLoop_kept : ∀ a0 a1 s, kept (poolLoop a0 a1 s) = kept s := by intros; simp [poolLoop]
@[simp] theorem execPoolDisarm_kept : ∀ a0 a1 a2 s, kept (after (execPoolDisarm a0 a1 a2 s) s) = kept s := by intros; simp [execPoolDisarm]
@[simp] theorem scrubEvent_kept : ∀ s a1 a2 a3, kept (scrubEvent s a1 a2 a3) = kept s := by intros; simp [scrubEvent]
@[simp] theorem grantRow_kept : ∀ s a1, kept (grantRow s a1) = kept s := by intros; simp [grantRow]
@[simp] theorem execScrubRow_kept : ∀ a0 a1 s, kept (after (execScrubRow a0 a1 s) s) = kept s := by intros; simp only [execScrubRow]; (repeat' split) <;> simp_all
@[simp] theorem bgCtrl_kept : ∀ a0 a1 s, kept (bgCtrl a0 a1 s) = kept s := by intros; simp [bgCtrl]
@[simp] theorem execBgClrcnt_kept : ∀ a0 a1 a2 s, kept (after (execBgClrcnt a0 a1 a2 s) s) = kept s := by intros; simp [execBgClrcnt]
@[simp] theorem discardLine_kept : ∀ s a1, kept (discardLine s a1) = kept s := by intros; simp only [discardLine]; (repeat' split) <;> simp_all
@[simp] theorem execGrantWatchdogBite_kept : ∀ a0 a1 a2 s, kept (after (execGrantWatchdogBite a0 a1 a2 s) s) = kept s := by intros; simp only [execGrantWatchdogBite]; (repeat' split) <;> simp_all
@[simp] theorem inRelay_kept : ∀ s a1 a2 a3 a4, kept (inRelay s a1 a2 a3 a4) = kept s := by intros; simp [inRelay]
@[simp] theorem inNeeds_kept : ∀ s a1, kept (inNeeds s a1) = kept s := by intros; simp only [inNeeds]; (repeat' split) <;> simp_all
@[simp] theorem migrEcc_kept : ∀ s a1 a2 a3, kept (migrEcc s a1 a2 a3) = kept s := by intros; simp only [migrEcc]; (repeat' split) <;> simp_all
@[simp] theorem execActivationPositionFree_kept : ∀ a0 a1 s, kept (after (execActivationPositionFree a0 a1 s) s) = kept s := by intros; simp only [execActivationPositionFree]; (repeat' split) <;> simp_all
@[simp] theorem serve_kept : ∀ s a1 a2 a3 a4, (∀ s x1 x2 x3, kept ((a4 s x1 x2 x3).1) = kept s) → kept (serve s a1 a2 a3 a4) = kept s := by intros; simp only [serve]; (repeat' split) <;> simp_all
@[simp] theorem serveRead_kept : ∀ a0 s a2 a3 a4, kept ((serveRead a0 s a2 a3 a4).1) = kept s := by intros; simp only [serveRead]; (repeat' split) <;> simp_all
@[simp] theorem execRdreq_kept : ∀ a0 a1 a2 s, kept (after (execRdreq a0 a1 a2 s) s) = kept s := by intros; simp [execRdreq]
@[simp] theorem ownAnswered_kept : ∀ s a1 a2, kept (ownAnswered s a1 a2) = kept s := by intros; simp [ownAnswered]
@[simp] theorem response_kept : ∀ s a1 a2 a3 a4, (∀ s x1 x2, kept (a4 s x1 x2) = kept s) → kept (response s a1 a2 a3 a4) = kept s := by intros; simp only [response]; (repeat' split) <;> simp_all
@[simp] theorem execRdrsp_kept : ∀ a0 a1 s, kept (after (execRdrsp a0 a1 s) s) = kept s := by intros; simp [execRdrsp]
@[simp] theorem execErrrsp_kept : ∀ a0 a1 s, kept (after (execErrrsp a0 a1 s) s) = kept s := by intros; simp [execErrrsp]
@[simp] theorem setAside_kept : ∀ s a1, kept (setAside s a1) = kept s := by intros; simp [setAside]
@[simp] theorem areaFetch_kept : ∀ s a1, kept (areaFetch s a1) = kept s := by
  intros
  unfold areaFetch
  extract_lets
  rw [kept_foldl _ (fun s a => ?_)]
  · simp
  · (repeat' split) <;> simp
@[simp] theorem areaProbe_kept : ∀ s a1, kept (areaProbe s a1).1 = kept s := by
  intros
  unfold areaProbe
  extract_lets
  refine kept_foldl1 _ (fun s a => ?_) _ _
  (repeat' split) <;> simp
@[simp] theorem areaLoad_kept : ∀ s a1 a2, kept ((areaLoad s a1 a2).1) = kept s := by intros; simp only [areaLoad]; (repeat' split) <;> simp_all
@[simp] theorem areaChecked_kept : ∀ s a1 a2, kept ((areaChecked s a1 a2).1) = kept s := by intros; simp [areaChecked]
@[simp] theorem restoreObj_kept : ∀ s a1 a2 a3, kept (restoreObj s a1 a2 a3) = kept s := by intros; simp [restoreObj]
@[simp] theorem restoreObjs_kept : ∀ s a1 a2, kept (restoreObjs s a1 a2) = kept s := by intros; simp only [restoreObjs]; (repeat' split) <;> simp_all
@[simp] theorem ctxLog_kept : ∀ s a1 a2, kept (ctxLog s a1 a2) = kept s := by intros; simp [ctxLog]
@[simp] theorem chanBack_kept : ∀ s a1, kept (chanBack s a1) = kept s := by intros; simp [chanBack]
@[simp] theorem ctxRun_kept : ∀ s a1, kept (ctxRun s a1) = kept s := by intros; simp [ctxRun]
@[simp] theorem chanOut_kept : ∀ s a1, kept (chanOut s a1) = kept s := by intros; simp [chanOut]
@[simp] theorem waitAgain_kept : ∀ s a1, kept (waitAgain s a1) = kept s := by
  intro s c
  unfold waitAgain
  (repeat' split) <;> first | (simp; done) | exact barUse_kept _ _ _ _ ‹_›
@[simp] theorem serveAgain_kept : ∀ s, kept (serveAgain s) = kept s := by intros; simp [serveAgain]
@[simp] theorem doResume_kept : ∀ s a1, kept (doResume s a1) = kept s := by intros; simp [doResume]
@[simp] theorem resetLog_kept : ∀ s a1, kept (resetLog s a1) = kept s := by intros; simp [resetLog]
@[simp] theorem safeGate_kept : ∀ s a1, kept (safeGate s a1) = kept s := by intros; simp [safeGate]
@[simp] theorem chanLoss_kept : ∀ s a1, kept (chanLoss s a1) = kept s := by intros; simp [chanLoss]
@[simp] theorem inboundError_kept : ∀ s, kept (inboundError s) = kept s := by
  intros
  unfold inboundError
  extract_lets s1
  have h : kept s1 = kept _ := kept_foldl _ (fun s a => by simp) _ _
  rw [← h]
  refine kept_foldl _ (fun s a => ?_) _ _
  split <;> simp
@[simp] theorem fcGo_kept : ∀ s a1 a2, kept (fcGo s a1 a2) = kept s := by intros; simp [fcGo]
@[simp] theorem ztFreeze_kept : ∀ s, kept (ztFreeze s) = kept s := by intros; simp [ztFreeze]
@[simp] theorem ztThaw_kept : ∀ s, kept (ztThaw s) = kept s := by intros; simp [ztThaw]
@[simp] theorem parityHit_kept : ∀ s a1 a2 a3, kept (parityHit s a1 a2 a3) = kept s := by
  intro s a1 a2 a3
  unfold parityHit
  extract_lets r n
  split
  · simp only [setHalf_kept]; rfl
  · rfl
@[simp] theorem outsideEvent_kept : ∀ s a1, kept (outsideEvent s a1) = kept s := by intros; simp [outsideEvent]
@[simp] theorem arrive1_kept : ∀ s a1, kept ((arrive1 s a1).1) = kept s := by intros; simp only [arrive1]; (repeat' split) <;> simp_all
@[simp] theorem arriveAll_kept : ∀ s a1, kept ((arriveAll s a1).1) = kept s := by
  intro s l
  induction l generalizing s with
  | nil => rfl
  | cons e es ih => simp [arriveAll, ih]
@[simp] theorem ztFill_kept : ∀ s a1, kept (ztFill s a1) = kept s := by intros; simp [ztFill]
@[simp] theorem ztUrgent_kept : ∀ s a1, kept (ztUrgent s a1) = kept s := by intros; simp [ztUrgent]
@[simp] theorem countAll_kept : ∀ s a1, kept (countAll s a1) = kept s := by intros; simp [countAll]
@[simp] theorem execFaultWindowClose_kept : ∀ a0 s, kept (after (execFaultWindowClose a0 s) s) = kept s := by intros; simp [execFaultWindowClose]
@[simp] theorem fcReload_kept : ∀ s, kept (fcReload s) = kept s := by intros; simp [fcReload]
@[simp] theorem sevNone_kept : ∀ s, kept (sevNone s) = kept s := by intros; simp [sevNone]
@[simp] theorem sevClear_kept : ∀ s a1, kept (sevClear s a1) = kept s := by intros; simp [sevClear]
@[simp] theorem execSevClear_kept : ∀ a0 a1 a2 s, kept (after (execSevClear a0 a1 a2 s) s) = kept s := by intros; simp [execSevClear]
@[simp] theorem execFsCfgWrite_kept : ∀ a0 a1 a2 s, kept (after (execFsCfgWrite a0 a1 a2 s) s) = kept s := by intros; simp [execFsCfgWrite]
@[simp] theorem reinitW_kept : ∀ a0 a1 s, kept (reinitW a0 a1 s) = kept s := by intros; simp [reinitW]
@[simp] theorem execReinit_kept : ∀ a0 a1 s, kept (after (execReinit a0 a1 s) s) = kept s := by intros; simp [execReinit]
@[simp] theorem reSlot_kept : ∀ s a1, kept (reSlot s a1) = kept s := by intros; simp only [reSlot]; (repeat' split) <;> simp_all
@[simp] theorem rePop_kept : ∀ s a1, kept (rePop s a1) = kept s := by intros; simp only [rePop]; (repeat' split) <;> simp_all
@[simp] theorem reChan_kept : ∀ s a1, kept (reChan s a1) = kept s := by intros; simp only [reChan]; (repeat' split) <;> simp_all
@[simp] theorem execReinitDone_kept : ∀ s, kept (after (execReinitDone s) s) = kept s := by intros; simp [execReinitDone]
@[simp] theorem execReinitTimeout_kept : ∀ s, kept (after (execReinitTimeout s) s) = kept s := by intros; simp [execReinitTimeout]
@[simp] theorem ztCtrlW_kept : ∀ a0 a1 s, kept (ztCtrlW a0 a1 s) = kept s := by intros; simp [ztCtrlW]
@[simp] theorem execFreeze_kept : ∀ a0 a1 s, kept (after (execFreeze a0 a1 s) s) = kept s := by intros; simp [execFreeze]
@[simp] theorem execThaw_kept : ∀ a0 a1 s, kept (after (execThaw a0 a1 s) s) = kept s := by intros; simp [execThaw]
@[simp] theorem ztTake_kept : ∀ s a1 a2 a3, kept ((ztTake s a1 a2 a3).1) = kept s := by intros; simp only [ztTake]; (repeat' split) <;> simp_all
@[simp] theorem ztWordRead_kept : ∀ a0 a1 s, kept ((ztWordRead a0 a1 s).1) = kept s := by intros; simp [ztWordRead]
@[simp] theorem execZtWord7Read_kept : ∀ a0 a1 s, kept (after (execZtWord7Read a0 a1 s) s) = kept s := by intros; simp [execZtWord7Read]
@[simp] theorem execWnClr_kept : ∀ a0 a1 s, kept (after (execWnClr a0 a1 s) s) = kept s := by
  intros
  simp only [execWnClr, after_next]
  refine mmioW_kept _ _ _ _ _ ?_
  intro s; (repeat' split) <;> simp
@[simp] theorem imgStart_kept : ∀ s, kept (imgStart s) = kept s := by intros; simp [imgStart]
@[simp] theorem imgLoad_kept : ∀ s, kept (imgLoad s) = kept s := by intros; simp [imgLoad]
@[simp] theorem imgAddrSet_kept : ∀ a0 a1 s, kept (imgAddrSet a0 a1 s) = kept s := by intros; simp [imgAddrSet]
@[simp] theorem execImageLoad_kept : ∀ a0 a1 s, kept (after (execImageLoad a0 a1 s) s) = kept s := by intros; simp [execImageLoad]
@[simp] theorem imgFail_kept : ∀ s a1 a2, kept (imgFail s a1 a2) = kept s := by intros; simp [imgFail]
@[simp] theorem fetchError_kept : ∀ s a1, kept (fetchError s a1) = kept s := by intros; simp [fetchError]
@[simp] theorem execImageLoadFail_kept : ∀ a0 s, kept (after (execImageLoadFail a0 s) s) = kept s := by intros; simp only [execImageLoadFail]; (repeat' split) <;> simp_all
@[simp] theorem fwStart_kept : ∀ s, kept (fwStart s) = kept s := by intros; simp [fwStart]
@[simp] theorem fwFail_kept : ∀ s a1, kept (fwFail s a1) = kept s := by intros; simp [fwFail]
@[simp] theorem execFirmwareLoadDone_kept : ∀ a0 s, kept (after (execFirmwareLoadDone a0 s) s) = kept s := by intros; simp only [execFirmwareLoadDone]; (repeat' split) <;> simp_all
@[simp] theorem execAutoloadReload_kept : ∀ s, kept (after (execAutoloadReload s) s) = kept s := by intros; simp [execAutoloadReload]
@[simp] theorem setRail_kept : ∀ s a1 a2, kept (setRail s a1 a2) = kept s := by intros; simp only [setRail]; (repeat' split) <;> simp_all
@[simp] theorem execPgoodFall_kept : ∀ a0 s, kept (after (execPgoodFall a0 s) s) = kept s := by intros; simp [execPgoodFall]
@[simp] theorem execPgoodRise_kept : ∀ a0 s, kept (after (execPgoodRise a0 s) s) = kept s := by intros; simp [execPgoodRise]
@[simp] theorem wakeDue_kept : ∀ s a1, kept (wakeDue s a1) = kept s := by intros; simp [wakeDue]
@[simp] theorem execRailWaitEnd_kept : ∀ s, kept (after (execRailWaitEnd s) s) = kept s := by intros; simp [execRailWaitEnd]
@[simp] theorem execColdResetEnd_kept : ∀ a0 s, kept (after (execColdResetEnd a0 s) s) = kept s := by intros; simp [execColdResetEnd]
@[simp] theorem wakeEnds_kept : ∀ s a1, kept (wakeEnds s a1) = kept s := by intros; simp [wakeEnds]
@[simp] theorem domainsUp_kept : ∀ s, kept (domainsUp s) = kept s := by intros; simp [domainsUp]
@[simp] theorem bootRom_kept : ∀ s, kept (bootRom s) = kept s := by intros; simp [bootRom]
@[simp] theorem execWakeN_kept : ∀ s, kept (after (execWakeN s) s) = kept s := by intros; simp [execWakeN]
@[simp] theorem setSb_kept : ∀ s a1, kept (setSb s a1) = kept s := by intros; simp [setSb]
@[simp] theorem execSidebandOffsetWrite_kept : ∀ a0 a1 s, kept (after (execSidebandOffsetWrite a0 a1 s) s) = kept s := by intros; simp [execSidebandOffsetWrite]
@[simp] theorem sbSample_kept : ∀ s a1, kept (sbSample s a1) = kept s := by intros; simp [sbSample]
@[simp] theorem sbByte_kept : ∀ s a1, kept (sbByte s a1) = kept s := by intros; simp [sbByte]
@[simp] theorem execSidebandRead_kept : ∀ a0 s, kept (after (execSidebandRead a0 s) s) = kept s := by intros; simp [execSidebandRead]
@[simp] theorem execSidebandIdxWrite_kept : ∀ a0 s, kept (after (execSidebandIdxWrite a0 s) s) = kept s := by intros; simp [execSidebandIdxWrite]
@[simp] theorem execSidebandWord7Read_kept : ∀ a0 s, kept (after (execSidebandWord7Read a0 s) s) = kept s := by
  intros
  unfold execSidebandWord7Read
  split
  · exact kept_iter _ (fun s => sbByte_kept _ _) _ _
  · rfl
@[simp] theorem tapLoad_kept : ∀ s a1 a2, (∀ s, kept (a2 s) = kept s) → kept (tapLoad s a1 a2) = kept s := by intros; simp only [tapLoad]; (repeat' split) <;> simp_all
@[simp] theorem tapShift_kept : ∀ s a1, kept (tapShift s a1) = kept s := by intros; simp [tapShift]
@[simp] theorem tapBypass_kept : ∀ s, kept (tapBypass s) = kept s := by intros; simp [tapBypass]
@[simp] theorem execTestLogicReset_kept : ∀ s, kept (after (execTestLogicReset s) s) = kept s := by intros; simp [execTestLogicReset]
@[simp] theorem execExtest_kept : ∀ a0 s, kept (after (execExtest a0 s) s) = kept s := by intros; simp [execExtest]
@[simp] theorem execIdcode_kept : ∀ s, kept (after (execIdcode s) s) = kept s := by intros; simp [execIdcode]
@[simp] theorem execSamplePreload_kept : ∀ a0 s, kept (after (execSamplePreload a0 s) s) = kept s := by intros; simp [execSamplePreload]
@[simp] theorem execClamp_kept : ∀ s, kept (after (execClamp s) s) = kept s := by intros; simp [execClamp]
@[simp] theorem execHighz_kept : ∀ s, kept (after (execHighz s) s) = kept s := by intros; simp [execHighz]
@[simp] theorem execBypass_kept : ∀ a0 s, kept (after (execBypass a0 s) s) = kept s := by intros; unfold execBypass; (repeat' split) <;> grind [after, tapLoad_kept, tapBypass_kept]
@[simp] theorem readAt_kept : ∀ s a1 a2, kept (readAt s a1 a2).1 = kept s := by
  intro s off ns
  obtain h | h | ⟨f, hf, h⟩ := readAt_cases s off ns <;> rw [h]
  · simp
  · cases hf with
    | pure h => rw [h]
    | tag p h => rw [h, tagRead_kept]
    | land q h => rw [h, kqLand_kept]
    | latch q x h => rw [h, setKq_kept]
    | pop q h => rw [h, hqPop_kept]
    | zt k e h => rw [h, ztWordRead_kept, bump_kept]
@[simp] theorem idleW_kept : ∀ s a1 a2 a3, kept (idleW s a1 a2 a3) = kept s := by intros; simp [idleW]
@[simp] theorem trigW_kept : ∀ s a1 a2 a3 a4 a5 (o : Host.Outcome State Fault Refusal), kept (after o s) = kept s → kept (trigW s a1 a2 a3 a4 a5 o) = kept s := by
  intros
  simp only [trigW]
  split <;> simp_all
@[simp] theorem secureW_kept : ∀ a0 a1 a2 s, kept (secureW a0 a1 a2 s) = kept s := by intros; simp [secureW]
@[simp] theorem fcCfgSet_kept : ∀ a0 s, kept (fcCfgSet a0 s) = kept s := by intros; simp [fcCfgSet]
@[simp] theorem zoetropeW_kept : ∀ a0 a1 a2 s, kept (zoetropeW a0 a1 a2 s) = kept s := by intros; simp [zoetropeW]
@[simp] theorem clockW_kept : ∀ a0 a1 a2 s, kept (clockW a0 a1 a2 s) = kept s := by intros; simp [clockW]
@[simp] theorem interruptW_kept : ∀ a0 a1 a2 s, kept (interruptW a0 a1 a2 s) = kept s := by intros; simp [interruptW]
@[simp] theorem portW_kept : ∀ a0 a1 a2 s, kept (portW a0 a1 a2 s) = kept s := by intros; simp only [portW]; (repeat' split) <;> simp_all
@[simp] theorem feLaSet_kept : ∀ a0 a1 s, kept (feLaSet a0 a1 s) = kept s := by intros; simp [feLaSet]
@[simp] theorem streamW_kept : ∀ a0 a1 a2 s, kept (streamW a0 a1 a2 s) = kept s := by
  intro a0 a1 a2 s
  unfold streamW
  extract_lets
  (repeat' split) <;> first | (simp; done) | (refine mmioW_kept _ _ _ _ _ ?_; intro s; first | (simp; done) | rfl)
@[simp] theorem translationW_kept : ∀ a0 a1 a2 s, kept (translationW a0 a1 a2 s) = kept s := by intros; simp [translationW]
@[simp] theorem windowW_kept : ∀ a0 a1 a2 s, kept (windowW a0 a1 a2 s) = kept s := by intros; simp [windowW]
@[simp] theorem syncW_kept : ∀ a0 a1 a2 s, kept (syncW a0 a1 a2 s) = kept s := by
  intro a0 a1 a2 s
  unfold syncW
  extract_lets
  (repeat' split) <;> first | (simp; done) | (refine mmioW_kept _ _ _ _ _ ?_; intro s; first | (simp; done) | rfl)
@[simp] theorem mailboxW_kept : ∀ a0 a1 a2 s, kept (mailboxW a0 a1 a2 s) = kept s := by intros; simp [mailboxW]
@[simp] theorem hqStatusSet_kept : ∀ a0 a1 s, kept (hqStatusSet a0 a1 s) = kept s := by intros; simp [hqStatusSet]
@[simp] theorem queueW_kept : ∀ a0 a1 a2 s, kept (queueW a0 a1 a2 s) = kept s := by intros; simp [queueW]
@[simp] theorem ringW_kept : ∀ a0 a1 a2 s, kept (ringW a0 a1 a2 s) = kept s := by intros; simp [ringW]
@[simp] theorem kqW_kept : ∀ a0 a1 a2 s, kept (kqW a0 a1 a2 s) = kept s := by intros; simp [kqW]
@[simp] theorem mordantW_kept : ∀ a0 a1 a2 s, kept (mordantW a0 a1 a2 s) = kept s := by intros; simp [mordantW]
@[simp] theorem poolTrigSet_kept : ∀ a0 a1 s, kept (poolTrigSet a0 a1 s) = kept s := by intros; simp [poolTrigSet]
@[simp] theorem stageW_kept : ∀ a0 a1 a2 s, kept (stageW a0 a1 a2 s) = kept s := by intros; simp [stageW]
@[simp] theorem linkW_kept : ∀ a0 a1 a2 s, kept (linkW a0 a1 a2 s) = kept s := by intros; simp [linkW]
@[simp] theorem mmioBeatR_kept : ∀ a0 a1 s, kept (mmioBeatR a0 a1 s) = kept s := by intros; simp [mmioBeatR]
@[simp] theorem unanswered_kept : ∀ a0 s, kept (unanswered a0 s) = kept s := by intros; simp [unanswered]

end Sys2Proof.Laws
end

