-- ==== Sys2Proof/Laws/Tables.lean ====
section
/-! SUPPORT. Laws of the sparse tables and of stage memory: a read after a write at the same index gives the value written,
a write leaves every other index alone, and a write keeps the canonical form. -/

namespace Sys2Proof.Laws

open Sys2Proof Sys2Proof.Machine

variable {α : Type} [DecidableEq α] {d : Nat → α}

theorem twfFrom_mono {lo lo' : Nat} {t : Tbl α} (h : twfFrom d lo t = true) (hl : lo' ≤ lo) : twfFrom d lo' t = true := by
  cases t with
  | nil => rfl
  | cons e t =>
    simp only [twfFrom, Bool.and_eq_true, decide_eq_true_eq] at h ⊢
    exact ⟨⟨by omega, h.1.2⟩, h.2⟩

/-- Below the first listed index a canonical table reads as its reset records. -/
theorem tget_below {lo i : Nat} {t : Tbl α} (h : twfFrom d lo t = true) (hi : i < lo) : tget d t i = d i := by
  cases t with
  | nil => rfl
  | cons e t =>
    simp only [twfFrom, Bool.and_eq_true, decide_eq_true_eq] at h
    simp only [tget]
    rw [if_neg (by omega), if_pos (by omega)]

theorem twfFrom_tset {lo i : Nat} {t : Tbl α} (v : α) (h : twfFrom d lo t = true) (hi : lo ≤ i) :
    twfFrom d lo (tset d t i v) = true := by
  induction t generalizing lo with
  | nil =>
    simp only [tset]
    split
    · rfl
    · simp [twfFrom, *]
  | cons e t ih =>
    obtain ⟨j, w⟩ := e
    simp only [twfFrom, Bool.and_eq_true, decide_eq_true_eq] at h
    obtain ⟨⟨hj, hw⟩, ht⟩ := h
    simp only [tset]
    split
    · split
      · simp [twfFrom, *]
      · simp only [twfFrom, Bool.and_eq_true, decide_eq_true_eq]
        exact ⟨⟨hi, by simpa⟩, ⟨by omega, hw⟩, ht⟩
    · split
      · split
        · exact twfFrom_mono ht (by omega)
        · subst i
          simp only [twfFrom, Bool.and_eq_true, decide_eq_true_eq]
          exact ⟨⟨hj, by simpa⟩, ht⟩
      · simp only [twfFrom, Bool.and_eq_true, decide_eq_true_eq]
        exact ⟨⟨hj, hw⟩, ih ht (by omega)⟩

/-- A write keeps the canonical form. -/
theorem twf_tset {t : Tbl α} (i : Nat) (v : α) (h : twf d t = true) : twf d (tset d t i v) = true :=
  twfFrom_tset v h (Nat.zero_le i)

theorem tget_tset_self_from {lo i : Nat} {t : Tbl α} (v : α) (h : twfFrom d lo t = true) : tget d (tset d t i v) i = v := by
  induction t generalizing lo with
  | nil =>
    simp only [tset]
    split
    · simp [tget, *]
    · simp [tget]
  | cons e t ih =>
    obtain ⟨j, w⟩ := e
    simp only [twfFrom, Bool.and_eq_true, decide_eq_true_eq] at h
    obtain ⟨⟨hj, hw⟩, ht⟩ := h
    simp only [tset]
    split
    · split
      · simp only [tget]
        rw [if_neg (by omega), if_pos (by omega)]
        simp [*]
      · simp [tget]
    · split
      · split
        · subst i
          rw [tget_below ht (by omega)]
          simp [*]
        · simp [tget]
      · simp only [tget]
        rw [if_neg (by omega), if_neg (by omega)]
        exact ih ht

/-- Read after write at the same index. -/
theorem tget_tset_self {t : Tbl α} (i : Nat) (v : α) (h : twf d t = true) : tget d (tset d t i v) i = v :=
  tget_tset_self_from v h

theorem tget_tset_other_from {lo i k : Nat} {t : Tbl α} (v : α) (h : twfFrom d lo t = true) (hk : k ≠ i) :
    tget d (tset d t i v) k = tget d t k := by
  induction t generalizing lo with
  | nil =>
    simp only [tset]
    split
    · rfl
    · simp only [tget]
      rw [if_neg (by omega)]
      split <;> rfl
  | cons e t ih =>
    obtain ⟨j, w⟩ := e
    simp only [twfFrom, Bool.and_eq_true, decide_eq_true_eq] at h
    obtain ⟨⟨hj, hw⟩, ht⟩ := h
    simp only [tset]
    split
    · split
      · rfl
      · simp only [tget]
        rw [if_neg (by omega)]
        split
        · rw [if_neg (by omega), if_pos (by omega)]
        · rfl
    · split
      · subst i
        split
        · simp only [tget]
          rw [if_neg (by omega)]
          split
          · exact tget_below ht (by omega)
          · rfl
        · have hj' : ¬ j = k := fun e => hk e.symm
          simp only [tget, if_neg hj']
      · simp only [tget]
        split
        · rfl
        · split
          · rfl
          · exact ih ht

/-- A write leaves every other index alone. -/
theorem tget_tset_other {t : Tbl α} (i : Nat) (v : α) {k : Nat} (h : twf d t = true) (hk : k ≠ i) :
    tget d (tset d t i v) k = tget d t k := tget_tset_other_from v h hk

/-! ### Stage memory -/

theorem Memory.wf_nil : Memory.wf [] = true := rfl

theorem memSet_wf {m : List Host.Cell} (a : Nat) (b : Byte) (h : Memory.wf m = true) : Memory.wf (memSet m a b) = true :=
  twf_tset a b h

theorem memWrite_wf {m : List Host.Cell} (a : Nat) (x : LineData) (be : LineEn) (n : Nat) (h : Memory.wf m = true) :
    Memory.wf (memWrite m a x be n) = true := by
  induction n with
  | zero => exact h
  | succ n ih =>
    simp only [memWrite]
    split
    · exact memSet_wf _ _ ih
    · exact ih

/-- A byte whose enable is low, or that lies outside the first `n`, keeps its value. -/
theorem memByte_memWrite_other {m : List Host.Cell} (a : Nat) (x : LineData) (be : LineEn) (n k : Nat)
    (h : Memory.wf m = true) (hk : ∀ j, j < n → be.getLsbD j = true → k ≠ a + j) :
    memByte (memWrite m a x be n) k = memByte m k := by
  induction n with
  | zero => rfl
  | succ n ih =>
    have ih := ih fun j hj hb => hk j (by omega) hb
    simp only [memWrite]
    split
    · rename_i hb
      exact (tget_tset_other _ _ (memWrite_wf a x be n h) (hk n (by omega) hb)).trans ih
    · exact ih

/-- A byte that the write enables holds the written byte. -/
theorem memByte_memWrite_same {m : List Host.Cell} (a : Nat) (x : LineData) (be : LineEn) (n j : Nat)
    (h : Memory.wf m = true) (hj : j < n) (hb : be.getLsbD j = true) :
    memByte (memWrite m a x be n) (a + j) = lineByte x j := by
  induction n with
  | zero => omega
  | succ n ih =>
    simp only [memWrite]
    by_cases hjn : j = n
    · subst hjn
      rw [if_pos hb]
      exact tget_tset_self _ _ (memWrite_wf a x be j h)
    · have ih := ih (by omega)
      split
      · exact (tget_tset_other _ _ (memWrite_wf a x be n h) (by omega)).trans ih
      · exact ih

end Sys2Proof.Laws
end

