-- ==== Sys2Proof/Laws/Canon.lean ====
section
/-! SUPPORT. Every state function keeps the canonical form of every sparse table (`Canon`): one lemma per state function, in
the order of their definitions. `okX` is the canonical form of table X, kept folded while a record update is simplified. -/

namespace Sys2Proof.Laws

open Sys2Proof Sys2Proof.Machine

def okChans (t : Tbl Chan) : Prop := twf (fun _ => {}) t = true
def okCtxs (t : Tbl Ctx) : Prop := twf ctxDflt t = true
def okLinks (t : Tbl Link) : Prop := twf (fun _ => {}) t = true
def okSlots (t : Tbl (List Nat)) : Prop := twf (fun _ => []) t = true
def okWinRd (t : Tbl Win8) : Prop := twf (fun _ => {}) t = true
def okWinWr (t : Tbl Win8) : Prop := twf (fun _ => {}) t = true
def okKq (t : Tbl Kq) : Prop := twf (fun _ => {}) t = true
def okMd (t : Tbl Md) : Prop := twf (fun _ => {}) t = true
def okFe (t : Tbl Fe) : Prop := twf (fun _ => {}) t = true
def okRelay (t : Tbl Relay) : Prop := twf (fun _ => {}) t = true
def okMem (t : List Host.Cell) : Prop := Memory.wf t = true
def okBg (t : Tbl Bg) : Prop := twf (fun _ => {}) t = true
def okPool (t : Tbl PoolSt) : Prop := twf (fun _ => {}) t = true
def okFenceMem (t : Tbl (BitVec 33)) : Prop := twf (fun _ => 0) t = true
def okFenceCore (t : Tbl (BitVec 33)) : Prop := twf (fun _ => 0) t = true
def okFenceLink (t : Tbl (BitVec 42)) : Prop := twf (fun _ => 0) t = true
def okRankBank (t : Tbl (List Nat)) : Prop := twf (fun _ => List.range 36) t = true
def okRankMem (t : Tbl (List Nat)) : Prop := twf (fun _ => List.range 33) t = true
def okRankCore (t : Tbl (List Nat)) : Prop := twf (fun _ => List.range 33) t = true
def okHintBank (t : Tbl (List (Nat × Nat))) : Prop := twf (fun _ => []) t = true
def okHintMem (t : Tbl (List (Nat × Nat))) : Prop := twf (fun _ => []) t = true
def okHintCore (t : Tbl (List (Nat × Nat))) : Prop := twf (fun _ => []) t = true
def okRings (t : Tbl Ring) : Prop := twf (fun _ => {}) t = true
def okHqs (t : Tbl Hq) : Prop := twf (fun _ => {}) t = true
def okBars (t : Tbl Bar) : Prop := twf (fun _ => {}) t = true
def okMbs (t : Tbl Mb) : Prop := twf (fun _ => {}) t = true
def okHalf (t : Tbl Half) : Prop := twf (fun _ => {}) t = true
def okWins (t : Tbl Window) : Prop := twf (fun _ => {}) t = true
def okCp (t : Tbl Cp) : Prop := twf (fun _ => {}) t = true
def okMp (t : Tbl Mp) : Prop := twf (fun _ => {}) t = true
def okMsi (t : Tbl Msi) : Prop := twf (fun _ => {}) t = true
def okIsl (t : Tbl Island) : Prop := twf islDflt t = true
def okSrc (t : Tbl Src) : Prop := twf srcDflt t = true
def okEnt (t : Tbl ZtEnt) : Prop := twf (fun _ => {}) t = true
def okDrop (t : Tbl (BitVec 16)) : Prop := twf (fun _ => 0) t = true
def okSeq (t : Tbl (BitVec 32)) : Prop := twf (fun _ => 0) t = true
@[simp] theorem canon_mk (pending boot img pins chans ctxs path stage hub xl ports links clk aon out fresh order) : Canon ⟨pending, boot, img, pins, chans, ctxs, path, stage, hub, xl, ports, links, clk, aon, out, fresh, order⟩ ↔ (okChans chans ∧ okCtxs ctxs ∧ okLinks links ∧ okSlots path.slots ∧ okWinRd path.winRd ∧ okWinWr path.winWr ∧ okKq path.kq ∧ okMd path.md ∧ okFe path.fe ∧ okRelay path.relay ∧ okMem stage.mem ∧ okBg stage.bg ∧ okPool stage.pool ∧ okFenceMem stage.fenceMem ∧ okFenceCore stage.fenceCore ∧ okFenceLink stage.fenceLink ∧ okRankBank stage.rankBank ∧ okRankMem stage.rankMem ∧ okRankCore stage.rankCore ∧ okHintBank stage.hintBank ∧ okHintMem stage.hintMem ∧ okHintCore stage.hintCore ∧ okRings hub.rings ∧ okHqs hub.hqs ∧ okBars hub.bars ∧ okMbs hub.mbs ∧ okHalf xl.half ∧ okWins xl.wins ∧ okCp ports.cp ∧ okMp ports.mp ∧ okMsi ports.msi ∧ okIsl clk.isl ∧ okSrc aon.fc.src ∧ okEnt aon.zt.ent ∧ okDrop aon.zt.drop ∧ okSeq aon.zt.seq) :=
  ⟨fun h => by cases h; and_intros <;> assumption, fun h => by (repeat cases' h with _ h); constructor <;> with_unfolding_all assumption⟩
@[simp] theorem canon_chans {s : State} (h : Canon s) : okChans s.chans := h.chans
@[simp] theorem okChans_nil : okChans [] := rfl
@[simp] theorem canon_ctxs {s : State} (h : Canon s) : okCtxs s.ctxs := h.ctxs
@[simp] theorem okCtxs_nil : okCtxs [] := rfl
@[simp] theorem canon_links {s : State} (h : Canon s) : okLinks s.links := h.links
@[simp] theorem okLinks_nil : okLinks [] := rfl
@[simp] theorem canon_slots {s : State} (h : Canon s) : okSlots s.path.slots := h.slots
@[simp] theorem okSlots_nil : okSlots [] := rfl
@[simp] theorem canon_winRd {s : State} (h : Canon s) : okWinRd s.path.winRd := h.winRd
@[simp] theorem okWinRd_nil : okWinRd [] := rfl
@[simp] theorem canon_winWr {s : State} (h : Canon s) : okWinWr s.path.winWr := h.winWr
@[simp] theorem okWinWr_nil : okWinWr [] := rfl
@[simp] theorem canon_kq {s : State} (h : Canon s) : okKq s.path.kq := h.kq
@[simp] theorem okKq_nil : okKq [] := rfl
@[simp] theorem canon_md {s : State} (h : Canon s) : okMd s.path.md := h.md
@[simp] theorem okMd_nil : okMd [] := rfl
@[simp] theorem canon_fe {s : State} (h : Canon s) : okFe s.path.fe := h.fe
@[simp] theorem okFe_nil : okFe [] := rfl
@[simp] theorem canon_relay {s : State} (h : Canon s) : okRelay s.path.relay := h.relay
@[simp] theorem okRelay_nil : okRelay [] := rfl
@[simp] theorem canon_mem {s : State} (h : Canon s) : okMem s.stage.mem := h.mem
@[simp] theorem okMem_nil : okMem [] := rfl
@[simp] theorem canon_bg {s : State} (h : Canon s) : okBg s.stage.bg := h.bg
@[simp] theorem okBg_nil : okBg [] := rfl
@[simp] theorem canon_pool {s : State} (h : Canon s) : okPool s.stage.pool := h.pool
@[simp] theorem okPool_nil : okPool [] := rfl
@[simp] theorem canon_fenceMem {s : State} (h : Canon s) : okFenceMem s.stage.fenceMem := h.fenceMem
@[simp] theorem okFenceMem_nil : okFenceMem [] := rfl
@[simp] theorem canon_fenceCore {s : State} (h : Canon s) : okFenceCore s.stage.fenceCore := h.fenceCore
@[simp] theorem okFenceCore_nil : okFenceCore [] := rfl
@[simp] theorem canon_fenceLink {s : State} (h : Canon s) : okFenceLink s.stage.fenceLink := h.fenceLink
@[simp] theorem okFenceLink_nil : okFenceLink [] := rfl
@[simp] theorem canon_rankBank {s : State} (h : Canon s) : okRankBank s.stage.rankBank := h.rankBank
@[simp] theorem okRankBank_nil : okRankBank [] := rfl
@[simp] theorem canon_rankMem {s : State} (h : Canon s) : okRankMem s.stage.rankMem := h.rankMem
@[simp] theorem okRankMem_nil : okRankMem [] := rfl
@[simp] theorem canon_rankCore {s : State} (h : Canon s) : okRankCore s.stage.rankCore := h.rankCore
@[simp] theorem okRankCore_nil : okRankCore [] := rfl
@[simp] theorem canon_hintBank {s : State} (h : Canon s) : okHintBank s.stage.hintBank := h.hintBank
@[simp] theorem okHintBank_nil : okHintBank [] := rfl
@[simp] theorem canon_hintMem {s : State} (h : Canon s) : okHintMem s.stage.hintMem := h.hintMem
@[simp] theorem okHintMem_nil : okHintMem [] := rfl
@[simp] theorem canon_hintCore {s : State} (h : Canon s) : okHintCore s.stage.hintCore := h.hintCore
@[simp] theorem okHintCore_nil : okHintCore [] := rfl
@[simp] theorem canon_rings {s : State} (h : Canon s) : okRings s.hub.rings := h.rings
@[simp] theorem okRings_nil : okRings [] := rfl
@[simp] theorem canon_hqs {s : State} (h : Canon s) : okHqs s.hub.hqs := h.hqs
@[simp] theorem okHqs_nil : okHqs [] := rfl
@[simp] theorem canon_bars {s : State} (h : Canon s) : okBars s.hub.bars := h.bars
@[simp] theorem okBars_nil : okBars [] := rfl
@[simp] theorem canon_mbs {s : State} (h : Canon s) : okMbs s.hub.mbs := h.mbs
@[simp] theorem okMbs_nil : okMbs [] := rfl
@[simp] theorem canon_half {s : State} (h : Canon s) : okHalf s.xl.half := h.half
@[simp] theorem okHalf_nil : okHalf [] := rfl
@[simp] theorem canon_wins {s : State} (h : Canon s) : okWins s.xl.wins := h.wins
@[simp] theorem okWins_nil : okWins [] := rfl
@[simp] theorem canon_cp {s : State} (h : Canon s) : okCp s.ports.cp := h.cp
@[simp] theorem okCp_nil : okCp [] := rfl
@[simp] theorem canon_mp {s : State} (h : Canon s) : okMp s.ports.mp := h.mp
@[simp] theorem okMp_nil : okMp [] := rfl
@[simp] theorem canon_msi {s : State} (h : Canon s) : okMsi s.ports.msi := h.msi
@[simp] theorem okMsi_nil : okMsi [] := rfl
@[simp] theorem canon_isl {s : State} (h : Canon s) : okIsl s.clk.isl := h.isl
@[simp] theorem okIsl_nil : okIsl [] := rfl
@[simp] theorem canon_src {s : State} (h : Canon s) : okSrc s.aon.fc.src := h.src
@[simp] theorem okSrc_nil : okSrc [] := rfl
@[simp] theorem canon_ent {s : State} (h : Canon s) : okEnt s.aon.zt.ent := h.ent
@[simp] theorem okEnt_nil : okEnt [] := rfl
@[simp] theorem canon_drop {s : State} (h : Canon s) : okDrop s.aon.zt.drop := h.drop
@[simp] theorem okDrop_nil : okDrop [] := rfl
@[simp] theorem canon_seq {s : State} (h : Canon s) : okSeq s.aon.zt.seq := h.seq
@[simp] theorem okSeq_nil : okSeq [] := rfl

@[simp] theorem canon_foldl {α : Type} (g : State → α → State) (h : ∀ s a, Canon s → Canon (g s a)) (l : List α) (s : State) (hs : Canon s) : Canon (l.foldl g s) := by
  induction l generalizing s with
  | nil => exact hs
  | cons a l ih => exact ih _ (h _ _ hs)
@[simp] theorem canon_foldl1 {α β : Type} (g : State × β → α → State × β) (h : ∀ acc a, Canon acc.1 → Canon (g acc a).1) (l : List α) (acc : State × β)
    (hs : Canon acc.1) : Canon (l.foldl g acc).1 := by
  induction l generalizing acc with
  | nil => exact hs
  | cons a l ih => exact ih _ (h _ _ hs)
@[simp] theorem canon_iter (f : State → State) (h : ∀ s, Canon s → Canon (f s)) : ∀ n s, Canon s → Canon (iter f n s) := by
  intro n
  induction n with
  | zero => intro s hs; exact hs
  | succ n ih => intro s hs; simp only [iter]; first | exact ih _ (h _ hs) | exact h _ (ih _ hs)
@[simp] theorem canon_ite (c : Prop) [Decidable c] (a b : State) : Canon (if c then a else b) = if c then Canon a else Canon b := by split <;> rfl
@[simp] theorem okFenceMem_tset {t i v} (h : okFenceMem t) : okFenceMem (tset (fun _ => 0#33) t i v) := twf_tset i v h
@[simp] theorem okFenceCore_tset {t i v} (h : okFenceCore t) : okFenceCore (tset (fun _ => 0#33) t i v) := twf_tset i v h
@[simp] theorem okFenceLink_tset {t i v} (h : okFenceLink t) : okFenceLink (tset (fun _ => 0#42) t i v) := twf_tset i v h
@[simp] theorem okRankBank_tset {t i v} (h : okRankBank t) : okRankBank (tset (fun _ => List.range 36) t i v) := twf_tset i v h
@[simp] theorem okRankMem_tset {t i v} (h : okRankMem t) : okRankMem (tset (fun _ => List.range 33) t i v) := twf_tset i v h
@[simp] theorem okRankCore_tset {t i v} (h : okRankCore t) : okRankCore (tset (fun _ => List.range 33) t i v) := twf_tset i v h
@[simp] theorem okHintBank_tset {t i v} (h : okHintBank t) : okHintBank (tset (fun _ => []) t i v) := twf_tset i v h
@[simp] theorem okHintMem_tset {t i v} (h : okHintMem t) : okHintMem (tset (fun _ => []) t i v) := twf_tset i v h
@[simp] theorem okHintCore_tset {t i v} (h : okHintCore t) : okHintCore (tset (fun _ => []) t i v) := twf_tset i v h

theorem canon_fresh {s : State} (h : Canon s) (n : Nat) : Canon { s with fresh := n } := { h with }
theorem twf_foldl {α β : Type} [DecidableEq α] {d : Nat → α} (g : Tbl α → β → Tbl α) (h : ∀ t e, twf d t = true → twf d (g t e) = true)
    (l : List β) (t : Tbl α) (ht : twf d t = true) : twf d (l.foldl g t) = true := by
  induction l generalizing t with
  | nil => exact ht
  | cons e l ih => exact ih _ (h _ _ ht)

theorem canon_if {c : Prop} [Decidable c] {a b : State} (ha : Canon a) (hb : Canon b) : Canon (if c then a else b) := by
  split <;> assumption
@[simp] theorem setChan_canon : ∀ s a1 a2, Canon s → Canon (setChan s a1 a2) := by
  intro s i v h
  exact { h with chans := twf_tset _ _ h.chans }
@[simp] theorem setCtx_canon : ∀ s a1 a2, Canon s → Canon (setCtx s a1 a2) := by
  intro s i v h
  exact { h with ctxs := twf_tset _ _ h.ctxs }
@[simp] theorem setLink_canon : ∀ s a1 a2, Canon s → Canon (setLink s a1 a2) := by
  intro s i v h
  exact { h with links := twf_tset _ _ h.links }
@[simp] theorem setIsl_canon : ∀ s a1 a2, Canon s → Canon (setIsl s a1 a2) := by
  intro s i v h
  exact { h with isl := twf_tset _ _ h.isl }
@[simp] theorem setRing_canon : ∀ s a1 a2, Canon s → Canon (setRing s a1 a2) := by
  intro s i v h
  exact { h with rings := twf_tset _ _ h.rings }
@[simp] theorem setHq_canon : ∀ s a1 a2, Canon s → Canon (setHq s a1 a2) := by
  intro s i v h
  exact { h with hqs := twf_tset _ _ h.hqs }
@[simp] theorem setBar_canon : ∀ s a1 a2, Canon s → Canon (setBar s a1 a2) := by
  intro s i v h
  exact { h with bars := twf_tset _ _ h.bars }
@[simp] theorem setMb_canon : ∀ s a1 a2, Canon s → Canon (setMb s a1 a2) := by
  intro s i v h
  exact { h with mbs := twf_tset _ _ h.mbs }
@[simp] theorem setBg_canon : ∀ s a1 a2, Canon s → Canon (setBg s a1 a2) := by
  intro s i v h
  exact { h with bg := twf_tset _ _ h.bg }
@[simp] theorem setPoolSt_canon : ∀ s a1 a2, Canon s → Canon (setPoolSt s a1 a2) := by
  intro s i v h
  exact { h with pool := twf_tset _ _ h.pool }
@[simp] theorem setKq_canon : ∀ s a1 a2, Canon s → Canon (setKq s a1 a2) := by
  intro s i v h
  exact { h with kq := twf_tset _ _ h.kq }
@[simp] theorem setMd_canon : ∀ s a1 a2, Canon s → Canon (setMd s a1 a2) := by
  intro s i v h
  exact { h with md := twf_tset _ _ h.md }
@[simp] theorem setFe_canon : ∀ s a1 a2, Canon s → Canon (setFe s a1 a2) := by
  intro s i v h
  exact { h with fe := twf_tset _ _ h.fe }
@[simp] theorem setRelay_canon : ∀ s a1 a2, Canon s → Canon (setRelay s a1 a2) := by
  intro s i v h
  exact { h with relay := twf_tset _ _ h.relay }
@[simp] theorem setCp_canon : ∀ s a1 a2, Canon s → Canon (setCp s a1 a2) := by
  intro s i v h
  exact { h with cp := twf_tset _ _ h.cp }
@[simp] theorem setMp_canon : ∀ s a1 a2, Canon s → Canon (setMp s a1 a2) := by
  intro s i v h
  exact { h with mp := twf_tset _ _ h.mp }
@[simp] theorem setMsi_canon : ∀ s a1 a2, Canon s → Canon (setMsi s a1 a2) := by
  intro s i v h
  exact { h with msi := twf_tset _ _ h.msi }
@[simp] theorem setHalf_canon : ∀ s a1 a2, Canon s → Canon (setHalf s a1 a2) := by
  intro s i v h
  exact { h with half := twf_tset _ _ h.half }
@[simp] theorem setWin_canon : ∀ s a1 a2, Canon s → Canon (setWin s a1 a2) := by
  intro s i v h
  exact { h with wins := twf_tset _ _ h.wins }
@[simp] theorem setSlots_canon : ∀ s a1 a2, Canon s → Canon (setSlots s a1 a2) := by
  intro s i v h
  exact { h with slots := twf_tset _ _ h.slots }
@[simp] theorem setLines_canon : ∀ s a1, Canon s → Canon (setLines s a1) := by intros; simp +contextual (maxDischargeDepth := 12) [setLines, *]
@[simp] theorem setSrc_canon : ∀ s a1 a2, Canon s → Canon (setSrc s a1 a2) := by
  intro s i v h
  exact { h with src := twf_tset _ _ h.src }
@[simp] theorem setFc_canon : ∀ s a1, Canon s → okSrc a1.src → Canon (setFc s a1) := by
  intro s x h hx
  exact { h with src := hx }
@[simp] theorem setZt_canon : ∀ s a1, Canon s → okEnt a1.ent → okDrop a1.drop → okSeq a1.seq → Canon (setZt s a1) := by
  intro s x h h1 h2 h3
  exact { h with ent := h1, drop := h2, seq := h3 }
@[simp] theorem emit_canon : ∀ s a1, Canon s → Canon (emit s a1) := by intros; simp +contextual (maxDischargeDepth := 12) [emit, *]
@[simp] theorem bump_canon : ∀ s, Canon s → Canon (bump s) := by intros; simp +contextual (maxDischargeDepth := 12) [bump, *]
@[simp] theorem takeSeq_canon : ∀ s a1, Canon s → Canon (takeSeq s a1) := by
  intro s i h
  exact { h with seq := twf_tset _ _ h.seq }
@[simp] theorem ztQueue_canon : ∀ s a1 a2, Canon s → Canon (ztQueue s a1 a2) := by
  intro s e w h
  unfold ztQueue
  extract_lets
  split
  · exact setZt_canon _ _ h h.ent (twf_tset _ _ h.drop) h.seq
  · exact setZt_canon _ _ h h.ent h.drop h.seq
@[simp] theorem raise_canon : ∀ s a1 a2 a3 a4, Canon s → Canon (raise s a1 a2 a3 a4) := by intros; simp +contextual (maxDischargeDepth := 12) [raise, *]
@[simp] theorem refuse_canon : ∀ s a1 a2 a3, Canon s → Canon (refuse s a1 a2 a3) := by intros; simp +contextual (maxDischargeDepth := 12) [refuse, *]
@[simp] theorem ztWrite_canon : ∀ s a1, Canon s → Canon (ztWrite s a1) := by
  intro s e h
  unfold ztWrite
  simp only []
  split
  · exact { h with }
  · exact { h with ent := twf_tset _ _ h.ent }
@[simp] theorem aonLog_canon : ∀ s a1 a2 a3, Canon s → Canon (aonLog s a1 a2 a3) := by intros; simp +contextual (maxDischargeDepth := 12) [aonLog, *]
@[simp] theorem zlog_canon : ∀ s a1 a2 a3 a4, Canon s → Canon (zlog s a1 a2 a3 a4) := by intros; simp +contextual (maxDischargeDepth := 12) [zlog, *]
@[simp] theorem ztTakeN_canon : ∀ s a1, Canon s → Canon (ztTakeN s a1) := by intros; simp +contextual (maxDischargeDepth := 12) [ztTakeN, *]
@[simp] theorem ztDrain_canon : ∀ s, Canon s → Canon (ztDrain s) := by intros; simp +contextual (maxDischargeDepth := 12) [ztDrain, *]
@[simp] theorem ztFlush_canon : ∀ s, Canon s → Canon (ztFlush s) := by intros; simp +contextual (maxDischargeDepth := 12) [ztFlush, *]
@[simp] theorem idleCycle_canon : ∀ s, Canon s → Canon (idleCycle s) := by intros; simp +contextual (maxDischargeDepth := 12) [idleCycle, *]
@[simp] theorem notice_canon : ∀ s a1 a2 a3 a4 a5, Canon s → Canon (notice s a1 a2 a3 a4 a5) := by intros; simp +contextual (maxDischargeDepth := 12) [notice, *]
@[simp] theorem ownReqAs_canon : ∀ s a1 a2 a3 a4 a5, Canon s → Canon ((ownReqAs s a1 a2 a3 a4 a5).1) := by intros; simp +contextual (maxDischargeDepth := 12) [ownReqAs, *]
@[simp] theorem ownReq_canon : ∀ s a1 a2 a3 a4, Canon s → Canon ((ownReq s a1 a2 a3 a4).1) := by intros; simp +contextual (maxDischargeDepth := 12) [ownReq, *]
@[simp] theorem imageRead_canon : ∀ s a1, Canon s → Canon (imageRead s a1) := by intros; simp +contextual (maxDischargeDepth := 12) [imageRead, *]
@[simp] theorem ownDead_canon : ∀ s a1 a2, Canon s → Canon (ownDead s a1 a2) := by intros; simp +contextual (maxDischargeDepth := 12) [ownDead, *]
@[simp] theorem echoDrop_canon : ∀ s a1, Canon s → Canon (echoDrop s a1) := by intros; simp +contextual (maxDischargeDepth := 12) [echoDrop, *]
@[simp] theorem ownEcho_canon : ∀ s a1, Canon s → Canon (ownEcho s a1) := by intros; simp +contextual (maxDischargeDepth := 12) [ownEcho, *]
@[simp] theorem ownDone_canon : ∀ s a1, Canon s → Canon (ownDone s a1) := by intros; simp +contextual (maxDischargeDepth := 12) [ownDone, *]
@[simp] theorem ownRead_canon : ∀ s a1 a2, Canon s → Canon (ownRead s a1 a2) := by intros; simp +contextual (maxDischargeDepth := 12) [ownRead, *]
@[simp] theorem msiWrite_canon : ∀ s a1, Canon s → Canon (msiWrite s a1) := by intros; simp +contextual (maxDischargeDepth := 12) [msiWrite, *]
@[simp] theorem setPorts_canon : ∀ s a1, Canon s → okCp a1.cp → okMp a1.mp → okMsi a1.msi → Canon (setPorts s a1) := by
  intro s x h h1 h2 h3
  unfold setPorts
  refine canon_foldl _ (fun s a h => ?_) _ _ ?_
  · split <;> simp_all
  · exact { h with cp := h1, mp := h2, msi := h3 }
@[simp] theorem pendSrc_canon : ∀ s a1, Canon s → Canon (pendSrc s a1) := by intros; simp +contextual (maxDischargeDepth := 12) [pendSrc, *]
@[simp] theorem pendCh_canon : ∀ s a1, Canon s → Canon (pendCh s a1) := by intros; simp +contextual (maxDischargeDepth := 12) [pendCh, *]
@[simp] theorem pendCtx_canon : ∀ s a1, Canon s → Canon (pendCtx s a1) := by intros; simp +contextual (maxDischargeDepth := 12) [pendCtx, *]
@[simp] theorem mmioW_canon : ∀ s a1 a2 a3 a4, (∀ s, Canon s → Canon (a4 s)) → Canon s → Canon (mmioW s a1 a2 a3 a4) := by intros; simp +contextual (maxDischargeDepth := 12) [mmioW, *]
@[simp] theorem mmioR_canon : ∀ s a1 a2 a3 a4, (∀ s, Canon s → Canon ((a4 s).1)) → Canon s → Canon (mmioR s a1 a2 a3 a4) := by intros; simp +contextual (maxDischargeDepth := 12) [mmioR, *]
@[simp] theorem setStream_canon : ∀ s a1 a2, Canon s → Canon (setStream s a1 a2) := by intros; simp +contextual (maxDischargeDepth := 12) [setStream, *]
@[simp] theorem modStream_canon : ∀ s a1 a2, Canon s → Canon (modStream s a1 a2) := by intros; simp only [modStream]; (repeat' split) <;> simp +contextual (maxDischargeDepth := 12) [*]
@[simp] theorem finish_canon : ∀ s a1 a2 a3, Canon s → Canon (finish s a1 a2 a3) := by intros; simp +contextual (maxDischargeDepth := 12) [finish, *]
@[simp] theorem refuseStream_canon : ∀ s a1 a2, Canon s → Canon (refuseStream s a1 a2) := by intros; simp only [refuseStream]; (repeat' split) <;> simp +contextual (maxDischargeDepth := 12) [*]
@[simp] theorem reportLate_canon : ∀ s a1 a2, Canon s → Canon (reportLate s a1 a2) := by intros; simp +contextual (maxDischargeDepth := 12) [reportLate, *]
@[simp] theorem countBack_canon : ∀ s a1, Canon s → Canon (countBack s a1) := by intros; simp +contextual (maxDischargeDepth := 12) [countBack, *]
@[simp] theorem handOff_canon : ∀ s a1 a2, (∀ s, Canon s → Canon (a2 s)) → Canon s → Canon (handOff s a1 a2) := by intros; simp only [handOff]; (repeat' split) <;> simp +contextual (maxDischargeDepth := 12) [*]
@[simp] theorem sendFetch_canon : ∀ s a1 a2, Canon s → Canon (sendFetch s a1 a2) := by intros; simp +contextual (maxDischargeDepth := 12) [sendFetch, *]
@[simp] theorem startFetch_canon : ∀ s a1 a2, Canon s → Canon (startFetch s a1 a2) := by intros; simp +contextual (maxDischargeDepth := 12) [startFetch, *]
@[simp] theorem dueFetches_canon : ∀ s, Canon s → Canon (dueFetches s) := by
  intro s h
  unfold dueFetches
  refine canon_foldl _ (fun s a h => ?_) _ _ h
  (repeat' split) <;> simp (maxDischargeDepth := 12) [h]
@[simp] theorem ringDoorbell_canon : ∀ s a1, Canon s → Canon (ringDoorbell s a1) := by intros; simp only [ringDoorbell]; (repeat' split) <;> simp +contextual (maxDischargeDepth := 12) [*]
@[simp] theorem raiseReq_canon : ∀ s a1, Canon s → Canon (raiseReq s a1) := by intros; simp +contextual (maxDischargeDepth := 12) [raiseReq, *]
@[simp] theorem startWake_canon : ∀ s a1, Canon s → Canon (startWake s a1) := by intros; simp +contextual (maxDischargeDepth := 12) [startWake, *]
@[simp] theorem startWakes_canon : ∀ a0 s, Canon s → Canon (startWakes a0 s) := by
  intro n
  induction n with
  | zero => intros; simp only [startWakes]; assumption
  | succ n ih => intros; simp only [startWakes]; (repeat' split) <;> simp_all +contextual (maxDischargeDepth := 12)
@[simp] theorem need_canon : ∀ s a1, Canon s → Canon (need s a1) := by intros; simp only [need]; (repeat' split) <;> simp +contextual (maxDischargeDepth := 12) [*]
@[simp] theorem fetchNeed_canon : ∀ s a1, Canon s → Canon (fetchNeed s a1) := by intros; simp only [fetchNeed]; (repeat' split) <;> simp_all +contextual (maxDischargeDepth := 12)
@[simp] theorem logPower_canon : ∀ s a1 a2, Canon s → Canon (logPower s a1 a2) := by intros; simp +contextual (maxDischargeDepth := 12) [logPower, *]
@[simp] theorem gateLoss_canon : ∀ s a1, Canon s → Canon (gateLoss s a1) := by intros; simp +contextual (maxDischargeDepth := 12) [gateLoss, *]
@[simp] theorem adapt_canon : ∀ s a1, Canon s → Canon (adapt s a1) := by intros; simp +contextual (maxDischargeDepth := 12) [adapt, *]
@[simp] theorem adaptMates_canon : ∀ s a1, Canon s → Canon (adaptMates s a1) := by intros; simp +contextual (maxDischargeDepth := 12) [adaptMates, *]
@[simp] theorem execAdaptiveWindowEnd_canon : ∀ a0 a1 s, Canon s → Canon (after (execAdaptiveWindowEnd a0 a1 s) s) := by
  intro i u s h
  unfold execAdaptiveWindowEnd
  extract_lets
  split
  · exact h
  split
  · exact adapt_canon _ _ h
  · rw [after_next]
    refine canon_foldl _ (fun s k hs => ?_) _ _ (setIsl_canon _ _ _ h)
    split
    · exact adapt_canon _ _ hs
    · exact hs
@[simp] theorem execVddtSettleExpire_canon : ∀ s, Canon s → Canon (after (execVddtSettleExpire s) s) := by intros; simp +contextual (maxDischargeDepth := 12) [execVddtSettleExpire, *]
@[simp] theorem execFreqStep_canon : ∀ a0 s, Canon s → Canon (after (execFreqStep a0 s) s) := by intros; simp +contextual (maxDischargeDepth := 12) [execFreqStep, *]
@[simp] theorem execVddtLowerExpire_canon : ∀ s, Canon s → Canon (after (execVddtLowerExpire s) s) := by intros; simp +contextual (maxDischargeDepth := 12) [execVddtLowerExpire, *]
@[simp] theorem execDelayMarginNegative_canon : ∀ a0 a1 s, Canon s → Canon (after (execDelayMarginNegative a0 a1 s) s) := by intros; simp +contextual (maxDischargeDepth := 12) [execDelayMarginNegative, *]
@[simp] theorem execMarginReturn_canon : ∀ a0 s, Canon s → Canon (after (execMarginReturn a0 s) s) := by intros; simp +contextual (maxDischargeDepth := 12) [execMarginReturn, *]
@[simp] theorem execThermalLimit_canon : ∀ a0 a1 s, Canon s → Canon (after (execThermalLimit a0 a1 s) s) := by intros; simp +contextual (maxDischargeDepth := 12) [execThermalLimit, *]
@[simp] theorem execTempFall_canon : ∀ a0 s, Canon s → Canon (after (execTempFall a0 s) s) := by intros; simp +contextual (maxDischargeDepth := 12) [execTempFall, *]
@[simp] theorem execDomainIdleExpire_canon : ∀ a0 s, Canon s → Canon (after (execDomainIdleExpire a0 s) s) := by intros; simp +contextual (maxDischargeDepth := 12) [execDomainIdleExpire, *]
@[simp] theorem execDomainGated_canon : ∀ a0 s, Canon s → Canon (after (execDomainGated a0 s) s) := by intros; simp +contextual (maxDischargeDepth := 12) [execDomainGated, *]
@[simp] theorem execWakeRequest_canon : ∀ a0 s, Canon s → Canon (after (execWakeRequest a0 s) s) := by intros; simp +contextual (maxDischargeDepth := 12) [execWakeRequest, *]
@[simp] theorem execIslLimWrite_canon : ∀ a0 a1 a2 s, Canon s → Canon (after (execIslLimWrite a0 a1 a2 s) s) := by intros; simp only [execIslLimWrite]; (repeat' split) <;> simp_all +contextual (maxDischargeDepth := 12)
@[simp] theorem execIslPolicyWrite_canon : ∀ a0 a1 a2 s, Canon s → Canon (after (execIslPolicyWrite a0 a1 a2 s) s) := by intros; simp +contextual (maxDischargeDepth := 12) [execIslPolicyWrite, *]
@[simp] theorem sendFlit_canon : ∀ s a1 a2 a3 a4 a5, Canon s → Canon (sendFlit s a1 a2 a3 a4 a5) := by intros; simp only [sendFlit]; (repeat' split) <;> simp_all +contextual (maxDischargeDepth := 12)
@[simp] theorem linkTo_canon : ∀ s a1 a2, Canon s → Canon (linkTo s a1 a2) := by intros; simp +contextual (maxDischargeDepth := 12) [linkTo, *]
@[simp] theorem pump_canon : ∀ a0 s a2, Canon s → Canon (pump a0 s a2) := by
  intro n
  induction n with
  | zero => intros; simp only [pump]; assumption
  | succ n ih => intros; simp only [pump]; (repeat' split) <;> simp_all +contextual (maxDischargeDepth := 12)
@[simp] theorem returnCredit_canon : ∀ s a1 a2 a3, Canon s → Canon (returnCredit s a1 a2 a3) := by intros; simp +contextual (maxDischargeDepth := 12) [returnCredit, *]
@[simp] theorem countDrop_canon : ∀ s a1, Canon s → Canon (countDrop s a1) := by intros; simp +contextual (maxDischargeDepth := 12) [countDrop, *]
@[simp] theorem routeEvent_canon : ∀ s a1 a2, Canon s → Canon (routeEvent s a1 a2) := by intros; simp +contextual (maxDischargeDepth := 12) [routeEvent, *]
@[simp] theorem absentDrop_canon : ∀ s a1, Canon s → Canon (absentDrop s a1) := by intros; simp +contextual (maxDischargeDepth := 12) [absentDrop, *]
@[simp] theorem enqueue_canon : ∀ s a1 a2 a3 a4, Canon s → Canon (enqueue s a1 a2 a3 a4) := by intros; simp +contextual (maxDischargeDepth := 12) [enqueue, *]
@[simp] theorem sendOrDrop_canon : ∀ s a1, Canon s → Canon (sendOrDrop s a1) := by intros; simp only [sendOrDrop]; (repeat' split) <;> simp +contextual (maxDischargeDepth := 12) [*]
@[simp] theorem deliverOwn_canon : ∀ s a1 a2, Canon s → Canon (deliverOwn s a1 a2) := by intros; simp +contextual (maxDischargeDepth := 12) [deliverOwn, *]
@[simp] theorem dropPkt_canon : ∀ s a1 a2, Canon s → Canon (dropPkt s a1 a2) := by intros; simp +contextual (maxDischargeDepth := 12) [dropPkt, *]
@[simp] theorem downActions_canon : ∀ s a1, Canon s → Canon (downActions s a1) := by intros; simp +contextual (maxDischargeDepth := 12) [downActions, *]
@[simp] theorem enterDown_canon : ∀ s a1, Canon s → Canon (enterDown s a1) := by intros; simp +contextual (maxDischargeDepth := 12) [enterDown, *]
@[simp] theorem sendFrames_canon : ∀ s a1, Canon s → Canon (sendFrames s a1) := by intros; simp +contextual (maxDischargeDepth := 12) [sendFrames, *]
@[simp] theorem enterRetrain_canon : ∀ s a1, Canon s → Canon (enterRetrain s a1) := by intros; simp +contextual (maxDischargeDepth := 12) [enterRetrain, *]
@[simp] theorem leaveTo_canon : ∀ s a1 a2, Canon s → Canon (leaveTo s a1 a2) := by intros; simp +contextual (maxDischargeDepth := 12) [leaveTo, *]
@[simp] theorem tryDetect_canon : ∀ s a1, Canon s → Canon (tryDetect s a1) := by intros; simp +contextual (maxDischargeDepth := 12) [tryDetect, *]
@[simp] theorem trainNeed_canon : ∀ s a1, Canon s → Canon (trainNeed s a1) := by intros; simp +contextual (maxDischargeDepth := 12) [trainNeed, *]
@[simp] theorem sendPkt_canon : ∀ s a1, Canon s → Canon (sendPkt s a1) := by intros; simp only [sendPkt]; (repeat' split) <;> simp +contextual (maxDischargeDepth := 12) [*]
@[simp] theorem takePkt_canon : ∀ s a1 a2, Canon s → Canon (takePkt s a1 a2) := by intros; simp only [takePkt]; (repeat' split) <;> simp +contextual (maxDischargeDepth := 12) [*]
@[simp] theorem linkCorr_canon : ∀ s a1, Canon s → Canon (linkCorr s a1) := by intros; simp +contextual (maxDischargeDepth := 12) [linkCorr, *]
@[simp] theorem discardHdr_canon : ∀ s a1 a2, Canon s → Canon (discardHdr s a1 a2) := by intros; simp +contextual (maxDischargeDepth := 12) [discardHdr, *]
@[simp] theorem rxCorr_canon : ∀ s a1 a2, Canon s → Canon (rxCorr s a1 a2) := by intros; simp +contextual (maxDischargeDepth := 12) [rxCorr, *]
@[simp] theorem nackIn_canon : ∀ s a1 a2, Canon s → Canon (nackIn s a1 a2) := by intros; simp +contextual (maxDischargeDepth := 12) [nackIn, *]
@[simp] theorem retrainHdr_canon : ∀ s a1 a2, Canon s → Canon (retrainHdr s a1 a2) := by intros; simp +contextual (maxDischargeDepth := 12) [retrainHdr, *]
@[simp] theorem resend_canon : ∀ s a1 a2, Canon s → Canon (resend s a1 a2) := by intros; simp only [resend]; (repeat' split) <;> simp +contextual (maxDischargeDepth := 12) [*]
@[simp] theorem applyHdr_canon : ∀ s a1 a2 a3, Canon s → Canon (applyHdr s a1 a2 a3) := by
  intros
  unfold applyHdr
  (try extract_lets)
  repeat' (with_reducible refine canon_if ?_ ?_)
  all_goals simp +zetaDelta +contextual (maxDischargeDepth := 12) [*]
@[simp] theorem fecCount_canon : ∀ s a1 a2, Canon s → Canon (fecCount s a1 a2) := by intros; simp +contextual (maxDischargeDepth := 12) [fecCount, *]
@[simp] theorem controlIn_canon : ∀ s a1 a2 a3 a4 a5, (∀ s, Canon s → Canon (a5 s)) → Canon s → Canon (controlIn s a1 a2 a3 a4 a5) := by intros; simp +contextual (maxDischargeDepth := 12) [controlIn, *]
@[simp] theorem sendCtl_canon : ∀ s a1 a2 a3, Canon s → Canon (sendCtl s a1 a2 a3) := by intros; simp +contextual (maxDischargeDepth := 12) [sendCtl, *]
@[simp] theorem sendIdent_canon : ∀ s a1 a2, Canon s → Canon (sendIdent s a1 a2) := by intros; simp +contextual (maxDischargeDepth := 12) [sendIdent, *]
@[simp] theorem sendSync_canon : ∀ s a1 a2, Canon s → Canon (sendSync s a1 a2) := by intros; simp +contextual (maxDischargeDepth := 12) [sendSync, *]
@[simp] theorem toLock_canon : ∀ s a1, Canon s → Canon (toLock s a1) := by intros; simp +contextual (maxDischargeDepth := 12) [toLock, *]
@[simp] theorem execLinkPresenceChange_canon : ∀ a0 a1 s, Canon s → Canon (after (execLinkPresenceChange a0 a1 s) s) := by intros; simp +contextual (maxDischargeDepth := 12) [execLinkPresenceChange, *]
@[simp] theorem lkCtrl_canon : ∀ a0 s a2, Canon s → Canon (lkCtrl a0 s a2) := by intros; simp +contextual (maxDischargeDepth := 12) [lkCtrl, *]
@[simp] theorem lkCtrlW_canon : ∀ a0 a1 a2 s, Canon s → Canon (lkCtrlW a0 a1 a2 s) := by intros; simp +contextual (maxDischargeDepth := 12) [lkCtrlW, *]
@[simp] theorem execLinkDisable_canon : ∀ a0 a1 a2 s, Canon s → Canon (after (execLinkDisable a0 a1 a2 s) s) := by intros; simp +contextual (maxDischargeDepth := 12) [execLinkDisable, *]
@[simp] theorem execLinkRetrain_canon : ∀ a0 a1 a2 s, Canon s → Canon (after (execLinkRetrain a0 a1 a2 s) s) := by intros; simp +contextual (maxDischargeDepth := 12) [execLinkRetrain, *]
@[simp] theorem execLinkClrcnt_canon : ∀ a0 a1 a2 s, Canon s → Canon (after (execLinkClrcnt a0 a1 a2 s) s) := by intros; simp +contextual (maxDischargeDepth := 12) [execLinkClrcnt, *]
@[simp] theorem execLinkStateTimerExpire_canon : ∀ a0 s, Canon s → Canon (after (execLinkStateTimerExpire a0 s) s) := by intros; simp only [execLinkStateTimerExpire]; (repeat' split) <;> simp +contextual (maxDischargeDepth := 12) [*]
@[simp] theorem execLinkSignalDetect_canon : ∀ a0 s, Canon s → Canon (after (execLinkSignalDetect a0 s) s) := by intros; simp +contextual (maxDischargeDepth := 12) [execLinkSignalDetect, *]
@[simp] theorem execTrainingFrame_canon : ∀ a0 a1 a2 s, Canon s → Canon (after (execTrainingFrame a0 a1 a2 s) s) := by intros; simp +contextual (maxDischargeDepth := 12) [execTrainingFrame, *]
@[simp] theorem execSync_canon : ∀ a0 a1 s, Canon s → Canon (after (execSync a0 a1 s) s) := by intros; simp +contextual (maxDischargeDepth := 12) [execSync, *]
@[simp] theorem sendIdentStep_canon : ∀ s a1 a2, Canon s → Canon (sendIdentStep s a1 a2) := by intros; simp only [sendIdentStep]; (repeat' split) <;> simp_all +contextual (maxDischargeDepth := 12)
@[simp] theorem execLockAlignmentHeld_canon : ∀ a0 s, Canon s → Canon (after (execLockAlignmentHeld a0 s) s) := by intros; simp +contextual (maxDischargeDepth := 12) [execLockAlignmentHeld, *]
@[simp] theorem linkStart_canon : ∀ s a1 a2, Canon s → Canon (linkStart s a1 a2) := by intros; simp +contextual (maxDischargeDepth := 12) [linkStart, *]
@[simp] theorem bothConfirm_canon : ∀ s a1 a2 a3 a4, Canon s → Canon (bothConfirm s a1 a2 a3 a4) := by intros; simp +contextual (maxDischargeDepth := 12) [bothConfirm, *]
@[simp] theorem execConfirm_canon : ∀ a0 a1 a2 s, Canon s → Canon (after (execConfirm a0 a1 a2 s) s) := by intros; unfold execConfirm; (repeat' split) <;> grind [after, bothConfirm_canon, controlIn_canon, setLink_canon]
@[simp] theorem decide2_canon : ∀ s a1 a2 a3 a4, Canon s → Canon (decide2 s a1 a2 a3 a4) := by intros; simp only [decide2]; (repeat' split) <;> simp_all +contextual (maxDischargeDepth := 12)
@[simp] theorem execIdent_canon : ∀ a0 a1 s, Canon s → Canon (after (execIdent a0 a1 s) s) := by intros; simp +contextual (maxDischargeDepth := 12) [execIdent, *]
@[simp] theorem takeSlots_canon : ∀ a0 s a2 a3, Canon s → Canon (takeSlots a0 s a2 a3) := by
  intro n
  induction n with
  | zero => intros; simp only [takeSlots]; assumption
  | succ n ih => intro s p l h; cases l with
    | nil => simp [takeSlots, h]
    | cons a t => simp only [takeSlots]; (repeat' split) <;> simp_all +contextual (maxDischargeDepth := 12)
@[simp] theorem discardFlit_canon : ∀ s a1, Canon s → Canon (discardFlit s a1) := by intros; simp +contextual (maxDischargeDepth := 12) [discardFlit, *]
@[simp] theorem execDataFlitReceived_canon : ∀ a0 a1 a2 a3 s, Canon s → Canon (after (execDataFlitReceived a0 a1 a2 a3 s) s) := by intros; simp +contextual (maxDischargeDepth := 12) [execDataFlitReceived, *]
@[simp] theorem execIdleFlitReceived_canon : ∀ a0 a1 a2 s, Canon s → Canon (after (execIdleFlitReceived a0 a1 a2 s) s) := by intros; simp +contextual (maxDischargeDepth := 12) [execIdleFlitReceived, *]
@[simp] theorem execNackRepeat_canon : ∀ a0 s, Canon s → Canon (after (execNackRepeat a0 s) s) := by intros; simp +contextual (maxDischargeDepth := 12) [execNackRepeat, *]
@[simp] theorem execEqreq_canon : ∀ a0 a1 a2 s, Canon s → Canon (after (execEqreq a0 a1 a2 s) s) := by intros; simp +contextual (maxDischargeDepth := 12) [execEqreq, *]
@[simp] theorem execElectricalIdleDetect_canon : ∀ a0 s, Canon s → Canon (after (execElectricalIdleDetect a0 s) s) := by intros; simp +contextual (maxDischargeDepth := 12) [execElectricalIdleDetect, *]
@[simp] theorem execSerWindowEnd_canon : ∀ a0 a1 s, Canon s → Canon (after (execSerWindowEnd a0 a1 s) s) := by intros; simp +contextual (maxDischargeDepth := 12) [execSerWindowEnd, *]
@[simp] theorem transitPoison_canon : ∀ s a1 a2 a3, (∀ x1 s, Canon s → Canon (a3 x1 s)) → Canon s → Canon (transitPoison s a1 a2 a3) := by intros; simp +contextual (maxDischargeDepth := 12) [transitPoison, *]
@[simp] theorem forwardPkt_canon : ∀ a0 a1 s, Canon s → Canon (forwardPkt a0 a1 s) := by intros; simp only [forwardPkt]; (repeat' split) <;> simp_all +contextual (maxDischargeDepth := 12)
@[simp] theorem execPacketForward_canon : ∀ a0 a1 s, Canon s → Canon (after (execPacketForward a0 a1 s) s) := by intros; simp only [execPacketForward]; (repeat' split) <;> simp +contextual (maxDischargeDepth := 12) [*]
@[simp] theorem worldRefuse_canon : ∀ s a1 a2, Canon s → Canon (worldRefuse s a1 a2) := by intros; simp +contextual (maxDischargeDepth := 12) [worldRefuse, *]
@[simp] theorem beginWait_canon : ∀ s a1 a2, Canon s → Canon (beginWait s a1 a2) := by intros; simp +contextual (maxDischargeDepth := 12) [beginWait, *]
@[simp] theorem forgetWalks_canon : ∀ s a1, Canon s → Canon (forgetWalks s a1) := by intros; simp +contextual (maxDischargeDepth := 12) [forgetWalks, *]
@[simp] theorem ctxSwitch_canon : ∀ s a1 a2, Canon s → Canon (ctxSwitch s a1 a2) := by intros; simp +contextual (maxDischargeDepth := 12) [ctxSwitch, *]
@[simp] theorem ringFault_canon : ∀ s a1, Canon s → Canon (ringFault s a1) := by intros; simp +contextual (maxDischargeDepth := 12) [ringFault, *]
@[simp] theorem ringRealign_canon : ∀ s a1 a2, Canon s → Canon (ringRealign s a1 a2) := by intros; simp +contextual (maxDischargeDepth := 12) [ringRealign, *]
@[simp] theorem hqSettle_canon : ∀ a0 s a2, Canon s → Canon (hqSettle a0 s a2) := by
  intro n
  induction n with
  | zero => intros; simp only [hqSettle]; assumption
  | succ n ih => intros; simp only [hqSettle]; (repeat' split) <;> simp_all +contextual (maxDischargeDepth := 12)
@[simp] theorem hqPush_canon : ∀ s a1 a2, Canon s → Canon (hqPush s a1 a2) := by intros; simp +contextual (maxDischargeDepth := 12) [hqPush, *]
@[simp] theorem poolTrigger_canon : ∀ s a1, Canon s → Canon (poolTrigger s a1) := by intros; simp only [poolTrigger]; (repeat' split) <;> simp +contextual (maxDischargeDepth := 12) [*]
@[simp] theorem poolBarrier_canon : ∀ s a1, Canon s → Canon (poolBarrier s a1) := by intros; simp +contextual (maxDischargeDepth := 12) [poolBarrier, *]
@[simp] theorem poolRearm_canon : ∀ s a1, Canon s → Canon (poolRearm s a1) := by intros; simp +contextual (maxDischargeDepth := 12) [poolRearm, *]
@[simp] theorem sendHop_canon : ∀ s a1 a2 a3, Canon s → Canon (sendHop s a1 a2 a3) := by intros; simp only [sendHop]; (repeat' split) <;> simp +contextual (maxDischargeDepth := 12) [*]
@[simp] theorem spread_canon : ∀ s a1 a2 a3 a4 a5 a6, Canon s → Canon (spread s a1 a2 a3 a4 a5 a6) := by
  intro s o lo k e hm ns h
  unfold spread
  refine canon_foldl _ (fun s a h => ?_) _ _ h
  extract_lets e n n2 up down go
  have hg : ∀ s d r, Canon s → Canon (go s d r) := by
    intro s d r h
    simp only [go]
    split
    · exact h
    · exact sendHop_canon _ _ _ _ h
  exact hg _ _ _ (hg _ _ _ h)
@[simp] theorem barWait_canon : ∀ s a1 a2 a3 a4, Canon s → Canon (barWait s a1 a2 a3 a4) := by intros; simp only [barWait]; (repeat' split) <;> simp +contextual (maxDischargeDepth := 12) [*]
@[simp] theorem applyRelease_canon : ∀ s a1 a2, Canon s → Canon (applyRelease s a1 a2) := by intros; simp +contextual (maxDischargeDepth := 12) [applyRelease, *]
@[simp] theorem applyClear_canon : ∀ s a1 a2, Canon s → Canon (applyClear s a1 a2) := by intros; simp +contextual (maxDischargeDepth := 12) [applyClear, *]
@[simp] theorem clearObj_canon : ∀ s a1 a2, Canon s → Canon (clearObj s a1 a2) := by intros; simp +contextual (maxDischargeDepth := 12) [clearObj, *]
@[simp] theorem homeArrive_canon : ∀ s a1 a2 a3 a4 a5 a6, Canon s → Canon ((homeArrive s a1 a2 a3 a4 a5 a6).1) := by intros; simp only [homeArrive]; (repeat' split) <;> simp +contextual (maxDischargeDepth := 12) [*]
@[simp] theorem mbGo_canon : ∀ s a1, Canon s → Canon (mbGo s a1) := by intros; simp +contextual (maxDischargeDepth := 12) [mbGo, *]
@[simp] theorem mbFill_canon : ∀ s a1 a2 a3, Canon s → Canon (mbFill s a1 a2 a3) := by intros; simp +contextual (maxDischargeDepth := 12) [mbFill, *]
@[simp] theorem mbServe_canon : ∀ a0 s a2, Canon s → Canon (mbServe a0 s a2) := by
  intro n
  induction n with
  | zero => intros; simp only [mbServe]; assumption
  | succ n ih => intros; simp only [mbServe]; (repeat' split) <;> simp_all +contextual (maxDischargeDepth := 12)
@[simp] theorem ringRegOp_canon : ∀ a0 a1 s, Canon s → Canon (ringRegOp a0 a1 s) := by intros; simp +contextual (maxDischargeDepth := 12) [ringRegOp, *]
@[simp] theorem ringResetOp_canon : ∀ a0 s, Canon s → Canon (ringResetOp a0 s) := by intros; simp +contextual (maxDischargeDepth := 12) [ringResetOp, *]
@[simp] theorem ringCtrl_canon : ∀ a0 a1 s, Canon s → Canon (ringCtrl a0 a1 s) := by intros; simp +contextual (maxDischargeDepth := 12) [ringCtrl, *]
@[simp] theorem execRingRegProduce_canon : ∀ a0 a1 a2 s, Canon s → Canon (after (execRingRegProduce a0 a1 a2 s) s) := by intros; simp +contextual (maxDischargeDepth := 12) [execRingRegProduce, *]
@[simp] theorem execRingRegRelease_canon : ∀ a0 a1 a2 s, Canon s → Canon (after (execRingRegRelease a0 a1 a2 s) s) := by intros; simp +contextual (maxDischargeDepth := 12) [execRingRegRelease, *]
@[simp] theorem execRingReset_canon : ∀ a0 a1 a2 s, Canon s → Canon (after (execRingReset a0 a1 a2 s) s) := by intros; simp +contextual (maxDischargeDepth := 12) [execRingReset, *]
@[simp] theorem nsNotice_canon : ∀ s a1 a2 a3, Canon s → Canon (nsNotice s a1 a2 a3) := by intros; simp +contextual (maxDischargeDepth := 12) [nsNotice, *]
@[simp] theorem ringCfg_canon : ∀ a0 a1 a2 s, Canon s → Canon (ringCfg a0 a1 a2 s) := by intros; simp +contextual (maxDischargeDepth := 12) [ringCfg, *]
@[simp] theorem ringProt_canon : ∀ a0 a1 a2 s, Canon s → Canon (ringProt a0 a1 a2 s) := by intros; simp +contextual (maxDischargeDepth := 12) [ringProt, *]
@[simp] theorem execRingCfgWrite_canon : ∀ a0 a1 a2 a3 s, Canon s → Canon (after (execRingCfgWrite a0 a1 a2 a3 s) s) := by intros; simp only [execRingCfgWrite]; (repeat' split) <;> simp +contextual (maxDischargeDepth := 12) [*]
@[simp] theorem execHqRegPush_canon : ∀ a0 a1 a2 s, Canon s → Canon (after (execHqRegPush a0 a1 a2 s) s) := by intros; simp +contextual (maxDischargeDepth := 12) [execHqRegPush, *]
@[simp] theorem hqPop_canon : ∀ a0 s, Canon s → Canon ((hqPop a0 s).1) := by intros; simp only [hqPop]; (repeat' split) <;> simp_all +contextual (maxDischargeDepth := 12)
@[simp] theorem execHqRegPop_canon : ∀ a0 a1 s, Canon s → Canon (after (execHqRegPop a0 a1 s) s) := by intros; simp +contextual (maxDischargeDepth := 12) [execHqRegPop, *]
@[simp] theorem hqCfg_canon : ∀ a0 a1 a2 s, Canon s → Canon (hqCfg a0 a1 a2 s) := by intros; simp +contextual (maxDischargeDepth := 12) [hqCfg, *]
@[simp] theorem execHqReset_canon : ∀ a0 a1 a2 s, Canon s → Canon (after (execHqReset a0 a1 a2 s) s) := by intros; simp +contextual (maxDischargeDepth := 12) [execHqReset, *]
@[simp] theorem sendAck_canon : ∀ s a1 a2 a3 a4 a5, Canon s → Canon (sendAck s a1 a2 a3 a4 a5) := by intros; simp +contextual (maxDischargeDepth := 12) [sendAck, *]
@[simp] theorem execBarrArrive_canon : ∀ a0 a1 s, Canon s → Canon (after (execBarrArrive a0 a1 s) s) := by intros; simp only [execBarrArrive]; (repeat' split) <;> simp +contextual (maxDischargeDepth := 12) [*]
@[simp] theorem hostAck_canon : ∀ s a1, Canon s → Canon (hostAck s a1) := by intros; simp +contextual (maxDischargeDepth := 12) [hostAck, *]
@[simp] theorem chanAck_canon : ∀ s a1 a2 a3, Canon s → Canon (chanAck s a1 a2 a3) := by intros; simp +contextual (maxDischargeDepth := 12) [chanAck, *]
@[simp] theorem execBarrAck_canon : ∀ a0 a1 s, Canon s → Canon (after (execBarrAck a0 a1 s) s) := by intros; simp only [execBarrAck]; (repeat' split) <;> simp +contextual (maxDischargeDepth := 12) [*]
@[simp] theorem forwardSpread_canon : ∀ s a1 a2 a3, Canon s → Canon (forwardSpread s a1 a2 a3) := by intros; simp +contextual (maxDischargeDepth := 12) [forwardSpread, *]
@[simp] theorem spreadIn_canon : ∀ s a1 a2 a3 a4, (∀ s x1 x2, Canon s → Canon (a4 s x1 x2)) → Canon s → Canon (spreadIn s a1 a2 a3 a4) := by intros; simp only [spreadIn]; (repeat' split) <;> simp +contextual (maxDischargeDepth := 12) [*]
@[simp] theorem execReleaseApply_canon : ∀ a0 a1 s, Canon s → Canon (after (execReleaseApply a0 a1 s) s) := by intros; simp +contextual (maxDischargeDepth := 12) [execReleaseApply, *]
@[simp] theorem execAbandon_canon : ∀ a0 a1 s, Canon s → Canon (after (execAbandon a0 a1 s) s) := by intros; simp +contextual (maxDischargeDepth := 12) [execAbandon, *]
@[simp] theorem execPoison_canon : ∀ a0 a1 s, Canon s → Canon (after (execPoison a0 a1 s) s) := by intros; simp +contextual (maxDischargeDepth := 12) [execPoison, *]
@[simp] theorem execHostArrive_canon : ∀ a0 a1 s, Canon s → Canon (after (execHostArrive a0 a1 s) s) := by intros; simp +contextual (maxDischargeDepth := 12) [execHostArrive, *]
@[simp] theorem execHostArriveTimeout_canon : ∀ s, Canon s → Canon (after (execHostArriveTimeout s) s) := by intros; simp +contextual (maxDischargeDepth := 12) [execHostArriveTimeout, *]
@[simp] theorem execInit_canon : ∀ a0 a1 s, Canon s → Canon (after (execInit a0 a1 s) s) := by intros; simp +contextual (maxDischargeDepth := 12) [execInit, *]
@[simp] theorem execBarCfgWrite_canon : ∀ a0 a1 s, Canon s → Canon (after (execBarCfgWrite a0 a1 s) s) := by intros; simp +contextual (maxDischargeDepth := 12) [execBarCfgWrite, *]
@[simp] theorem execBarMapWrite_canon : ∀ a0 a1 a2 s, Canon s → Canon (after (execBarMapWrite a0 a1 a2 s) s) := by intros; simp +contextual (maxDischargeDepth := 12) [execBarMapWrite, *]
@[simp] theorem execMbWordWrite_canon : ∀ a0 a1 a2 a3 s, Canon s → Canon (after (execMbWordWrite a0 a1 a2 a3 s) s) := by intros; simp +contextual (maxDischargeDepth := 12) [execMbWordWrite, *]
@[simp] theorem mbCtrl_canon : ∀ a0 a1 s, Canon s → Canon (mbCtrl a0 a1 s) := by
  intros
  unfold mbCtrl
  (try extract_lets)
  repeat' (with_reducible refine canon_if ?_ ?_)
  all_goals simp +zetaDelta +contextual (maxDischargeDepth := 12) [*]
@[simp] theorem execClear_canon : ∀ a0 a1 a2 s, Canon s → Canon (after (execClear a0 a1 a2 s) s) := by intros; simp +contextual (maxDischargeDepth := 12) [execClear, *]
@[simp] theorem execMbLenWrite_canon : ∀ a0 a1 a2 s, Canon s → Canon (after (execMbLenWrite a0 a1 a2 s) s) := by intros; simp +contextual (maxDischargeDepth := 12) [execMbLenWrite, *]
@[simp] theorem execGo_canon : ∀ a0 a1 a2 s, Canon s → Canon (after (execGo a0 a1 a2 s) s) := by intros; simp +contextual (maxDischargeDepth := 12) [execGo, *]
@[simp] theorem dropRun_canon : ∀ s a1 a2, Canon s → Canon (dropRun s a1 a2) := by intros; simp +contextual (maxDischargeDepth := 12) [dropRun, *]
@[simp] theorem dumpStart_canon : ∀ s a1 a2, Canon s → Canon (dumpStart s a1 a2) := by intros; simp +contextual (maxDischargeDepth := 12) [dumpStart, *]
@[simp] theorem execSyncDump_canon : ∀ a0 a1 s, Canon s → Canon (after (execSyncDump a0 a1 s) s) := by intros; simp +contextual (maxDischargeDepth := 12) [execSyncDump, *]
@[simp] theorem execSyncDumpDone_canon : ∀ s, Canon s → Canon (after (execSyncDumpDone s) s) := by intros; simp +contextual (maxDischargeDepth := 12) [execSyncDumpDone, *]
@[simp] theorem addLine_canon : ∀ s a1, Canon s → Canon ((addLine s a1).1) := by intros; simp only [addLine]; (repeat' split) <;> simp +contextual (maxDischargeDepth := 12) [*]
@[simp] theorem dropLine_canon : ∀ s a1, Canon s → Canon (dropLine s a1) := by intros; simp only [dropLine]; (repeat' split) <;> simp_all +contextual (maxDischargeDepth := 12)
@[simp] theorem grantBank_canon : ∀ s a1 a2, Canon s → Canon (grantBank s a1 a2) := by intros; simp +contextual (maxDischargeDepth := 12) [grantBank, *]
@[simp] theorem grantStage_canon : ∀ s a1 a2, Canon s → Canon (grantStage s a1 a2) := by intros; simp only [grantStage]; (repeat' split) <;> simp_all +contextual (maxDischargeDepth := 12)
@[simp] theorem grantMem_canon : ∀ s a1 a2, Canon s → Canon (grantMem s a1 a2) := by intros; simp +contextual (maxDischargeDepth := 12) [grantMem, *]
@[simp] theorem grantCore_canon : ∀ s a1 a2, Canon s → Canon (grantCore s a1 a2) := by intros; simp +contextual (maxDischargeDepth := 12) [grantCore, *]
@[simp] theorem memHints_canon : ∀ s a1 a2 a3, Canon s → Canon (memHints s a1 a2 a3) := by intros; simp +contextual (maxDischargeDepth := 12) [memHints, *]
@[simp] theorem coreHints_canon : ∀ s a1 a2 a3, Canon s → Canon (coreHints s a1 a2 a3) := by intros; simp +contextual (maxDischargeDepth := 12) [coreHints, *]
@[simp] theorem bgEcc_canon : ∀ s a1 a2 a3, Canon s → Canon (bgEcc s a1 a2 a3) := by intros; simp +contextual (maxDischargeDepth := 12) [bgEcc, *]
@[simp] theorem holeEvent_canon : ∀ s a1 a2, Canon s → Canon (holeEvent s a1 a2) := by intros; simp +contextual (maxDischargeDepth := 12) [holeEvent, *]
@[simp] theorem eccEvents_canon : ∀ s a1 a2 a3, Canon s → Canon (eccEvents s a1 a2 a3) := by intros; simp only [eccEvents]; (repeat' split) <;> simp_all +contextual (maxDischargeDepth := 12)
@[simp] theorem eccEvent_canon : ∀ s a1 a2, Canon s → Canon (eccEvent s a1 a2) := by intros; simp only [eccEvent]; (repeat' split) <;> simp +contextual (maxDischargeDepth := 12) [*]
@[simp] theorem eccFound_canon : ∀ s a1 a2 a3, Canon s → Canon (eccFound s a1 a2 a3) := by intros; simp +contextual (maxDischargeDepth := 12) [eccFound, *]
@[simp] theorem stageRead_canon : ∀ s a1 a2 a3 a4, Canon s → Canon ((stageRead s a1 a2 a3 a4).1) := by intros; simp only [stageRead]; (repeat' split) <;> simp +contextual (maxDischargeDepth := 12) [*]
@[simp] theorem stageWriteEcc_canon : ∀ s a1 a2 a3 a4 a5, Canon s → Canon (stageWriteEcc s a1 a2 a3 a4 a5) := by
  intro s a b e n c h
  unfold stageWriteEcc
  split
  · simp (maxDischargeDepth := 12) [h]
  · extract_lets
    refine eccFound_canon _ _ _ _ (grantStage_canon _ _ _ ?_)
    exact { h with mem := memWrite_wf _ _ _ _ h.mem }
@[simp] theorem stageWrite_canon : ∀ s a1 a2 a3 a4, Canon s → Canon (stageWrite s a1 a2 a3 a4) := by intros; simp +contextual (maxDischargeDepth := 12) [stageWrite, *]
@[simp] theorem stageProbe_canon : ∀ s a1 a2 a3, Canon s → Canon ((stageProbe s a1 a2 a3).1) := by intros; simp +contextual (maxDischargeDepth := 12) [stageProbe, *]
@[simp] theorem addCheck_canon : ∀ s a1 a2, Canon s → Canon ((addCheck s a1 a2).1) := by intros; simp only [addCheck]; (repeat' split) <;> simp +contextual (maxDischargeDepth := 12) [*]
@[simp] theorem stageAdd_canon : ∀ s a1 a2 a3 a4, Canon s → Canon ((stageAdd s a1 a2 a3 a4).1) := by intros; simp only [stageAdd]; (repeat' split) <;> simp +contextual (maxDischargeDepth := 12) [*]
@[simp] theorem echoFill_canon : ∀ s a1 a2, Canon s → Canon (echoFill s a1 a2) := by
  intro s pa d h
  unfold echoFill
  split
  · exact h
  · extract_lets s1 o set o2
    have h : Canon s1 := grantBank_canon _ _ _ h
    exact { h with }
@[simp] theorem toCoreAs_canon : ∀ s a1 a2 a3 a4 a5 a6, Canon s → Canon (toCoreAs s a1 a2 a3 a4 a5 a6) := by intros; simp +contextual (maxDischargeDepth := 12) [toCoreAs, *]
@[simp] theorem toCore_canon : ∀ s a1 a2 a3, Canon s → Canon (toCore s a1 a2 a3) := by intros; simp +contextual (maxDischargeDepth := 12) [toCore, *]
@[simp] theorem coreWrite_canon : ∀ s a1 a2 a3, Canon s → Canon (coreWrite s a1 a2 a3) := by intros; simp only [coreWrite]; (repeat' split) <;> simp +contextual (maxDischargeDepth := 12) [*]
@[simp] theorem loseLine_canon : ∀ s a1, Canon s → Canon (loseLine s a1) := by intros; simp +contextual (maxDischargeDepth := 12) [loseLine, *]
@[simp] theorem sendLine_canon : ∀ s a1 a2 a3 a4, Canon s → Canon (sendLine s a1 a2 a3 a4) := by intros; simp only [sendLine]; (repeat' split) <;> simp +contextual (maxDischargeDepth := 12) [*]
@[simp] theorem memErr_canon : ∀ s a1 a2 a3 a4, Canon s → Canon (memErr s a1 a2 a3 a4) := by intros; simp +contextual (maxDischargeDepth := 12) [memErr, *]
@[simp] theorem errEvent_canon : ∀ s a1 a2 a3, Canon s → Canon (errEvent s a1 a2 a3) := by intros; simp only [errEvent]; (repeat' split) <;> simp +contextual (maxDischargeDepth := 12) [*]
@[simp] theorem failEvents_canon : ∀ s a1 a2, Canon s → Canon (failEvents s a1 a2) := by intros; simp +contextual (maxDischargeDepth := 12) [failEvents, *]
@[simp] theorem tlbFill_canon : ∀ s a1 a2 a3 a4, Canon s → Canon (tlbFill s a1 a2 a3 a4) := by intros; simp +contextual (maxDischargeDepth := 12) [tlbFill, *]
@[simp] theorem setWalks_canon : ∀ s a1, Canon s → Canon (setWalks s a1) := by intros; simp +contextual (maxDischargeDepth := 12) [setWalks, *]
@[simp] theorem modWalk_canon : ∀ s a1 a2, Canon s → Canon (modWalk s a1 a2) := by intros; simp +contextual (maxDischargeDepth := 12) [modWalk, *]
@[simp] theorem warmNext_canon : ∀ s a1, Canon s → Canon (warmNext s a1) := by intros; simp +contextual (maxDischargeDepth := 12) [warmNext, *]
@[simp] theorem dropSets_canon : ∀ s a1, Canon s → Canon (dropSets s a1) := by intros; simp +contextual (maxDischargeDepth := 12) [dropSets, *]
@[simp] theorem mergeQueued_canon : ∀ s a1, Canon s → Canon ((mergeQueued s a1).1) := by intros; simp +contextual (maxDischargeDepth := 12) [mergeQueued, *]
@[simp] theorem walkRead_canon : ∀ s a1, Canon s → Canon (walkRead s a1) := by intros; simp +contextual (maxDischargeDepth := 12) [walkRead, *]
@[simp] theorem dueWalks_canon : ∀ s, Canon s → Canon (dueWalks s) := by intros; simp +contextual (maxDischargeDepth := 12) [dueWalks, *]
@[simp] theorem startWalk_canon : ∀ s a1, Canon s → Canon (startWalk s a1) := by intros; simp +contextual (maxDischargeDepth := 12) [startWalk, *]
@[simp] theorem startQueued_canon : ∀ a0 s a2, Canon s → Canon (startQueued a0 s a2) := by
  intro n
  induction n with
  | zero => intros; simp only [startQueued]; assumption
  | succ n ih => intros; simp only [startQueued]; (repeat' split) <;> simp_all +contextual (maxDischargeDepth := 12)
@[simp] theorem deposit_canon : ∀ s a1 a2 a3 a4, Canon s → Canon (deposit s a1 a2 a3 a4) := by intros; simp +contextual (maxDischargeDepth := 12) [deposit, *]
@[simp] theorem walkLeaf_canon : ∀ s a1 a2, Canon s → Canon (walkLeaf s a1 a2) := by intros; simp +contextual (maxDischargeDepth := 12) [walkLeaf, *]
@[simp] theorem walkFault_canon : ∀ s a1 a2 a3, Canon s → Canon (walkFault s a1 a2 a3) := by intros; simp +contextual (maxDischargeDepth := 12) [walkFault, *]
@[simp] theorem execWalkReadResponse_canon : ∀ a0 a1 s, Canon s → Canon (after (execWalkReadResponse a0 a1 s) s) := by intros; simp only [execWalkReadResponse]; (repeat' split) <;> simp +contextual (maxDischargeDepth := 12) [*]
@[simp] theorem execWalkReadTimeout_canon : ∀ a0 s, Canon s → Canon (after (execWalkReadTimeout a0 s) s) := by intros; simp only [execWalkReadTimeout]; (repeat' split) <;> simp +contextual (maxDischargeDepth := 12) [*]
@[simp] theorem missOne_canon : ∀ s a1 a2 a3 a4 a5, Canon s → Canon (missOne s a1 a2 a3 a4 a5) := by intros; simp only [missOne]; (repeat' split) <;> simp +contextual (maxDischargeDepth := 12) [*]
@[simp] theorem missAll_canon : ∀ s a1 a2 a3 a4, Canon s → Canon (missAll s a1 a2 a3 a4) := by intros; simp only [missAll]; (repeat' split) <;> simp_all +contextual (maxDischargeDepth := 12)
@[simp] theorem lookup_canon : ∀ s a1 a2, Canon s → Canon ((lookup s a1 a2).1) := by intros; simp only [lookup]; (repeat' split) <;> simp +contextual (maxDischargeDepth := 12) [*]
@[simp] theorem preLeaf_canon : ∀ s a1 a2 a3 a4, Canon s → Canon ((preLeaf s a1 a2 a3 a4).1) := by intros; simp only [preLeaf]; (repeat' split) <;> simp +contextual (maxDischargeDepth := 12) [*]
@[simp] theorem clearPre_canon : ∀ s a1, Canon s → Canon (clearPre s a1) := by intros; simp +contextual (maxDischargeDepth := 12) [clearPre, *]
@[simp] theorem preLeaves_canon : ∀ s a1 a2 a3 a4, Canon s → Canon ((preLeaves s a1 a2 a3 a4).1) := by
  intros
  simp only [preLeaves]
  refine canon_foldl1 _ ?_ _ _ ?_
  · intro acc a h; (repeat' split) <;> simp_all +contextual (maxDischargeDepth := 12)
  · simp [*]
@[simp] theorem pollsGone_canon : ∀ s a1, Canon s → Canon (pollsGone s a1) := by intros; simp +contextual (maxDischargeDepth := 12) [pollsGone, *]
@[simp] theorem dropReqs_canon : ∀ s a1, Canon s → Canon (dropReqs s a1) := by intros; simp +contextual (maxDischargeDepth := 12) [dropReqs, *]
@[simp] theorem frecStore_canon : ∀ s a1 a2 a3 a4, Canon s → Canon (frecStore s a1 a2 a3 a4) := by intros; simp only [frecStore]; (repeat' split) <;> simp_all +contextual (maxDischargeDepth := 12)
@[simp] theorem execFaultRecordWrite_canon : ∀ a0 s, Canon s → Canon (after (execFaultRecordWrite a0 s) s) := by intros; simp only [execFaultRecordWrite]; (repeat' split) <;> simp +contextual (maxDischargeDepth := 12) [*]
@[simp] theorem execFaultRecordAck_canon : ∀ a0 s, Canon s → Canon (after (execFaultRecordAck a0 s) s) := by intros; simp only [execFaultRecordAck]; (repeat' split) <;> simp +contextual (maxDischargeDepth := 12) [*]
@[simp] theorem execRootAsidWrite_canon : ∀ a0 a1 a2 a3 s, Canon s → Canon (after (execRootAsidWrite a0 a1 a2 a3 s) s) := by intros; simp only [execRootAsidWrite]; (repeat' split) <;> simp +contextual (maxDischargeDepth := 12) [*]
@[simp] theorem execFqLoWrite_canon : ∀ a0 a1 a2 s, Canon s → Canon (after (execFqLoWrite a0 a1 a2 s) s) := by intros; simp +contextual (maxDischargeDepth := 12) [execFqLoWrite, *]
@[simp] theorem execFqEnable_canon : ∀ a0 a1 s, Canon s → Canon (after (execFqEnable a0 a1 s) s) := by intros; simp +contextual (maxDischargeDepth := 12) [execFqEnable, *]
@[simp] theorem execFqHeadWrite_canon : ∀ a0 a1 s, Canon s → Canon (after (execFqHeadWrite a0 a1 s) s) := by intros; simp +contextual (maxDischargeDepth := 12) [execFqHeadWrite, *]
@[simp] theorem restartWalks_canon : ∀ s, Canon s → Canon (restartWalks s) := by intros; simp +contextual (maxDischargeDepth := 12) [restartWalks, *]
@[simp] theorem invStart_canon : ∀ s, Canon s → Canon (invStart s) := by intros; simp +contextual (maxDischargeDepth := 12) [invStart, *]
@[simp] theorem execInvalidate_canon : ∀ a0 a1 s, Canon s → Canon (after (execInvalidate a0 a1 s) s) := by intros; simp +contextual (maxDischargeDepth := 12) [execInvalidate, *]
@[simp] theorem execInvalidateDone_canon : ∀ s, Canon s → Canon (after (execInvalidateDone s) s) := by intros; simp +contextual (maxDischargeDepth := 12) [execInvalidateDone, *]
@[simp] theorem execAdone_canon : ∀ a0 a1 s, Canon s → Canon (after (execAdone a0 a1 s) s) := by
  intro a b s h
  simp only [execAdone, after_next]
  refine mmioW_canon _ _ _ _ _ ?_ h
  intro s h; (repeat' split) <;> simp [h]
@[simp] theorem execWindowEntryWrite_canon : ∀ a0 a1 a2 a3 s, Canon s → Canon (after (execWindowEntryWrite a0 a1 a2 a3 s) s) := by intros; simp +contextual (maxDischargeDepth := 12) [execWindowEntryWrite, *]
@[simp] theorem execXlClrcnt_canon : ∀ a0 a1 a2 s, Canon s → Canon (after (execXlClrcnt a0 a1 a2 s) s) := by intros; simp +contextual (maxDischargeDepth := 12) [execXlClrcnt, *]
@[simp] theorem wakeEffect_canon : ∀ s a1, Canon s → Canon (wakeEffect s a1) := by intros; simp +contextual (maxDischargeDepth := 12) [wakeEffect, *]
@[simp] theorem execWakeComplete_canon : ∀ a0 s, Canon s → Canon (after (execWakeComplete a0 s) s) := by intros; simp +contextual (maxDischargeDepth := 12) [execWakeComplete, *]
@[simp] theorem lowerLa_canon : ∀ s a1, Canon s → Canon (lowerLa s a1) := by intros; simp +contextual (maxDischargeDepth := 12) [lowerLa, *]
@[simp] theorem pumpFetch_canon : ∀ s a1, Canon s → Canon (pumpFetch s a1) := by intros; simp only [pumpFetch]; (repeat' split) <;> simp +contextual (maxDischargeDepth := 12) [*]
@[simp] theorem dropFetch_canon : ∀ s a1, Canon s → Canon (dropFetch s a1) := by intros; simp +contextual (maxDischargeDepth := 12) [dropFetch, *]
@[simp] theorem batchProbe_canon : ∀ s a1 a2, Canon s → Canon (batchProbe s a1 a2).1 := by
  intro s a1 a2 h
  unfold batchProbe
  refine canon_foldl1 _ (fun s a h => ?_) _ _ h
  exact stageProbe_canon _ _ _ _ h
@[simp] theorem stageFetch_canon : ∀ s a1 a2 a3, Canon s → Canon ((stageFetch s a1 a2 a3).1) := by intros; simp only [stageFetch]; (repeat' split) <;> simp_all +contextual (maxDischargeDepth := 12)
@[simp] theorem batchAns_canon : ∀ s a1 a2 a3, Canon s → Canon ((batchAns s a1 a2 a3).1) := by intros; simp only [batchAns]; (repeat' split) <;> simp +contextual (maxDischargeDepth := 12) [*]
@[simp] theorem lookAhead_canon : ∀ s a1, Canon s → Canon (lookAhead s a1) := by intros; simp only [lookAhead]; (repeat' split) <;> simp_all +contextual (maxDischargeDepth := 12)
@[simp] theorem takeIn_canon : ∀ s a1 a2, Canon s → Canon (takeIn s a1 a2) := by intros; simp +contextual (maxDischargeDepth := 12) [takeIn, *]
@[simp] theorem fetchFail_canon : ∀ s a1 a2 a3, Canon s → Canon (fetchFail s a1 a2 a3) := by intros; simp only [fetchFail]; (repeat' split) <;> simp_all +contextual (maxDischargeDepth := 12)
@[simp] theorem execDescriptorFetchDone_canon : ∀ a0 a1 s, Canon s → Canon (after (execDescriptorFetchDone a0 a1 s) s) := by intros; simp only [execDescriptorFetchDone]; (repeat' split) <;> simp +contextual (maxDischargeDepth := 12) [*]
@[simp] theorem fillSlots_canon : ∀ a0 s a2, Canon s → Canon (fillSlots a0 s a2) := by
  intro n
  induction n with
  | zero => intros; simp only [fillSlots]; assumption
  | succ n ih => intros; simp only [fillSlots]; (repeat' split) <;> simp_all +contextual (maxDischargeDepth := 12)
@[simp] theorem needMover_canon : ∀ s a1, Canon s → Canon (needMover s a1) := by intros; simp only [needMover]; (repeat' split) <;> simp +contextual (maxDischargeDepth := 12) [*]
@[simp] theorem freeSlot_canon : ∀ s a1, Canon s → Canon (freeSlot s a1) := by intros; simp +contextual (maxDischargeDepth := 12) [freeSlot, *]
@[simp] theorem execDescriptorDecode_canon : ∀ a0 s, Canon s → Canon (after (execDescriptorDecode a0 s) s) := by intros; simp only [execDescriptorDecode]; (repeat' split) <;> simp +contextual (maxDischargeDepth := 12) [*]
@[simp] theorem retireTiles_canon : ∀ s a1, Canon s → Canon (retireTiles s a1) := by intros; simp only [retireTiles]; (repeat' split) <;> simp +contextual (maxDischargeDepth := 12) [*]
@[simp] theorem boundSide_canon : ∀ s a1 a2 a3 a4 a5, Canon s → Canon (boundSide s a1 a2 a3 a4 a5) := by intros; simp only [boundSide]; (repeat' split) <;> simp +contextual (maxDischargeDepth := 12) [*]
@[simp] theorem boundDone_canon : ∀ s a1 a2 a3, Canon s → Canon (boundDone s a1 a2 a3) := by intros; simp +contextual (maxDischargeDepth := 12) [boundDone, *]
@[simp] theorem startRun_canon : ∀ s a1, Canon s → Canon (startRun s a1) := by intros; simp +contextual (maxDischargeDepth := 12) [startRun, *]
@[simp] theorem moveOn_canon : ∀ s a1 a2 a3 a4, Canon s → Canon (moveOn s a1 a2 a3 a4) := by
  intros
  unfold moveOn
  (try extract_lets)
  repeat' (with_reducible refine canon_if ?_ ?_)
  all_goals simp +zetaDelta +contextual (maxDischargeDepth := 12) [*]
@[simp] theorem recordStore_canon : ∀ s a1 a2 a3, Canon s → Canon ((recordStore s a1 a2 a3).1) := by intros; simp only [recordStore]; (repeat' split) <;> simp +contextual (maxDischargeDepth := 12) [*]
@[simp] theorem recordFail_canon : ∀ s a1 a2, Canon s → Canon (recordFail s a1 a2) := by intros; unfold recordFail; (repeat' split) <;> simp_all (maxDischargeDepth := 12)
@[simp] theorem complete_canon : ∀ s a1 a2 a3 a4, Canon s → Canon (complete s a1 a2 a3 a4) := by intros; simp only [complete]; (repeat' split) <;> simp +contextual (maxDischargeDepth := 12) [*]
@[simp] theorem boundWorld_canon : ∀ s a1 a2 a3 a4, Canon s → Canon ((boundWorld s a1 a2 a3 a4).1) := by intros; simp only [boundWorld]; (repeat' split) <;> simp_all +contextual (maxDischargeDepth := 12)
@[simp] theorem completeRun_canon : ∀ s a1 a2 a3 a4, Canon s → Canon (completeRun s a1 a2 a3 a4) := by intros; simp +contextual (maxDischargeDepth := 12) [completeRun, *]
@[simp] theorem execDescriptorComplete_canon : ∀ a0 s, Canon s → Canon (after (execDescriptorComplete a0 s) s) := by intros; simp only [execDescriptorComplete]; (repeat' split) <;> simp +contextual (maxDischargeDepth := 12) [*]
@[simp] theorem recordAck_canon : ∀ s a1 a2, Canon s → Canon (recordAck s a1 a2) := by intros; simp +contextual (maxDischargeDepth := 12) [recordAck, *]
@[simp] theorem execCompletionRecordAck_canon : ∀ a0 s, Canon s → Canon (after (execCompletionRecordAck a0 s) s) := by intros; simp only [execCompletionRecordAck]; (repeat' split) <;> simp +contextual (maxDischargeDepth := 12) [*]
@[simp] theorem execCompletionRecordError_canon : ∀ a0 a1 s, Canon s → Canon (after (execCompletionRecordError a0 a1 s) s) := by intros; simp +contextual (maxDischargeDepth := 12) [execCompletionRecordError, *]
@[simp] theorem execDoorbell_canon : ∀ a0 a1 a2 s, Canon s → Canon (after (execDoorbell a0 a1 a2 s) s) := by intros; simp +contextual (maxDischargeDepth := 12) [execDoorbell, *]
@[simp] theorem execHaltClear_canon : ∀ a0 a1 a2 s, Canon s → Canon (after (execHaltClear a0 a1 a2 s) s) := by intros; simp +contextual (maxDischargeDepth := 12) [execHaltClear, *]
@[simp] theorem execCqHeadWrite_canon : ∀ a0 a1 a2 s, Canon s → Canon (after (execCqHeadWrite a0 a1 a2 s) s) := by intros; unfold execCqHeadWrite; (repeat' split) <;> grind [after, completeRun_canon, mmioW_canon, setChan_canon]
@[simp] theorem execChannelRegWrite_canon : ∀ a0 a1 a2 a3 s, Canon s → Canon (after (execChannelRegWrite a0 a1 a2 a3 s) s) := by intros; simp only [execChannelRegWrite]; (repeat' split) <;> simp +contextual (maxDischargeDepth := 12) [*]
@[simp] theorem bitwiseW_canon : ∀ s a1 a2 a3 a4 a5, (∀ x1 x2 s, Canon s → Canon (a5 x1 x2 s)) → Canon s → Canon (bitwiseW s a1 a2 a3 a4 a5) := by intros; simp +contextual (maxDischargeDepth := 12) [bitwiseW, *]
@[simp] theorem execIrqPendClear_canon : ∀ a0 a1 a2 s, Canon s → Canon (after (execIrqPendClear a0 a1 a2 s) s) := by intros; simp only [execIrqPendClear]; (repeat' split) <;> simp +contextual (maxDischargeDepth := 12) [*]
@[simp] theorem endNow_canon : ∀ s a1 a2 a3, Canon s → Canon (endNow s a1 a2 a3) := by intros; simp +contextual (maxDischargeDepth := 12) [endNow, *]
@[simp] theorem retryTile_canon : ∀ s a1 a2 a3, Canon s → Canon (retryTile s a1 a2 a3) := by intros; simp only [retryTile]; (repeat' split) <;> simp +contextual (maxDischargeDepth := 12) [*]
@[simp] theorem spoilTile_canon : ∀ s a1 a2, Canon s → Canon (spoilTile s a1 a2) := by intros; simp +contextual (maxDischargeDepth := 12) [spoilTile, *]
@[simp] theorem tileFail_canon : ∀ s a1 a2 a3 a4 a5, Canon s → Canon (tileFail s a1 a2 a3 a4 a5) := by intros; simp only [tileFail]; (repeat' split) <;> simp +contextual (maxDischargeDepth := 12) [*]
@[simp] theorem timeoutEvent_canon : ∀ s a1, Canon s → Canon (timeoutEvent s a1) := by intros; simp +contextual (maxDischargeDepth := 12) [timeoutEvent, *]
@[simp] theorem addLate_canon : ∀ s a1 a2, Canon s → Canon (addLate s a1 a2) := by intros; simp +contextual (maxDischargeDepth := 12) [addLate, *]
@[simp] theorem inboundEnd_canon : ∀ s a1 a2 a3 a4, Canon s → Canon (inboundEnd s a1 a2 a3 a4) := by intros; simp only [inboundEnd]; (repeat' split) <;> simp_all +contextual (maxDischargeDepth := 12)
@[simp] theorem lineFail_canon : ∀ s a1 a2, Canon s → Canon (lineFail s a1 a2) := by intros; simp only [lineFail]; (repeat' split) <;> simp +contextual (maxDischargeDepth := 12) [*]
@[simp] theorem lineGhost_canon : ∀ s a1, Canon s → Canon (lineGhost s a1) := by intros; simp only [lineGhost]; (repeat' split) <;> simp_all +contextual (maxDischargeDepth := 12)
@[simp] theorem unhold_canon : ∀ s a1, Canon s → Canon (unhold s a1) := by intros; simp +contextual (maxDischargeDepth := 12) [unhold, *]
@[simp] theorem performStage_canon : ∀ s a1, Canon s → Canon (performStage s a1) := by intros; simp only [performStage]; (repeat' split) <;> simp +contextual (maxDischargeDepth := 12) [*]
@[simp] theorem lineAck_canon : ∀ s a1, Canon s → Canon (lineAck s a1) := by intros; simp only [lineAck]; (repeat' split) <;> simp +contextual (maxDischargeDepth := 12) [*]
@[simp] theorem locNeed_canon : ∀ s a1, Canon s → Canon (locNeed s a1) := by intros; simp only [locNeed]; (repeat' split) <;> simp +contextual (maxDischargeDepth := 12) [*]
@[simp] theorem sendAdd_canon : ∀ s a1 a2 a3 a4 a5, Canon s → Canon (sendAdd s a1 a2 a3 a4 a5) := by intros; simp only [sendAdd]; (repeat' split) <;> simp +contextual (maxDischargeDepth := 12) [*]
@[simp] theorem noteTc_canon : ∀ s a1 a2 a3, Canon s → Canon (noteTc s a1 a2 a3) := by intros; simp +contextual (maxDischargeDepth := 12) [noteTc, *]
theorem putPieces_canon : ∀ s a1 a2 a3 a4 a5 r, putPieces s a1 a2 a3 a4 a5 = some r → Canon s → Canon r.1 := by
  intro s c x k sc ps
  induction ps generalizing s with
  | nil => intro r h; simp [putPieces] at h
  | cons p ps ih =>
    intro r h hs
    unfold putPieces at h
    extract_lets add q prio s1 s2 at h
    have h2 : Canon s2 := by dsimp only [s2]; split <;> simp (maxDischargeDepth := 12) [s1, q, hs]
    split at h
    · split at h
      · cases h; exact h2
      · obtain ⟨q', hq, rfl⟩ := Option.map_eq_some_iff.1 h
        exact ih _ q' hq h2
    · cases h
@[simp] theorem issueCtl_canon : ∀ s a1 a2 a3 a4 a5 a6, Canon s → Canon (issueCtl s a1 a2 a3 a4 a5 a6) := by
  intro s a1 a2 a3 a4 a5 a6 h
  unfold issueCtl
  extract_lets
  (repeat' split) <;> first | (simp (maxDischargeDepth := 12) [h]; done) | exact modStream_canon _ _ _ (putPieces_canon _ _ _ _ _ _ _ ‹_› h)
@[simp] theorem ctlLeaves_canon : ∀ s a1 a2 a3, Canon s → Canon ((ctlLeaves s a1 a2 a3).1) := by intros; unfold ctlLeaves; (repeat' split) <;> grind [after, preLeaf_canon]
@[simp] theorem sendReads_canon : ∀ s a1 a2 a3 a4 a5 a6, Canon s → Canon (sendReads s a1 a2 a3 a4 a5 a6) := by
  intro s a1 a2 a3 a4 a5 a6 h
  unfold sendReads
  extract_lets
  refine canon_foldl _ (fun s a h => ?_) _ _ h
  extract_lets loc l
  clear_value loc
  (repeat' split) <;> simp (maxDischargeDepth := 12) [h]
@[simp] theorem recDone_canon : ∀ s a1 a2, Canon s → Canon (recDone s a1 a2) := by intros; simp +contextual (maxDischargeDepth := 12) [recDone, *]
@[simp] theorem recError_canon : ∀ s a1 a2 a3 a4, Canon s → Canon ((recError s a1 a2 a3 a4).1) := by intros; simp only [recError]; (repeat' split) <;> simp_all +contextual (maxDischargeDepth := 12)
@[simp] theorem recProbe_canon : ∀ s a1 a2, Canon s → Canon (recProbe s a1 a2).1 := by
  intro s a1 a2 h
  unfold recProbe
  refine canon_foldl1 _ (fun s a h => ?_) _ _ h
  (repeat' split) <;> simp (maxDischargeDepth := 12) [h]
@[simp] theorem recEnd_canon : ∀ s a1 a2 a3 a4 a5 a6 a7 a8, Canon s → Canon ((recEnd s a1 a2 a3 a4 a5 a6 a7 a8).1) := by intros; simp only [recEnd]; (repeat' split) <;> simp_all +contextual (maxDischargeDepth := 12)
@[simp] theorem recRead_canon : ∀ s a1 a2 a3 a4 a5 a6 a7, Canon s → Canon (recRead s a1 a2 a3 a4 a5 a6 a7).1 := by
  intro s c o va n a p w h0
  unfold recRead
  split
  · grind [preLeaves_canon]
  · rename_i s1 es heq
    have h : Canon s1 := by have := preLeaves_canon s c o va n h0; rwa [heq] at this
    extract_lets locs prio ans
    (repeat' split) <;> simp (maxDischargeDepth := 12) [h]
@[simp] theorem recFail_canon : ∀ s a1 a2, Canon s → Canon (recFail s a1 a2) := by intros; simp +contextual (maxDischargeDepth := 12) [recFail, *]
@[simp] theorem execNop_canon : ∀ a0 s, Canon s → Canon (after (execNop a0 s) s) := by intros; simp only [execNop]; (repeat' split) <;> simp +contextual (maxDischargeDepth := 12) [*]
@[simp] theorem signalOp_canon : ∀ s a1 a2 a3, Canon s → Canon (signalOp s a1 a2 a3) := by intros; unfold signalOp; (repeat' split) <;> grind [after, ctlLeaves_canon, handOff_canon, issueCtl_canon]
@[simp] theorem execSignalWrite_canon : ∀ a0 s, Canon s → Canon (after (execSignalWrite a0 s) s) := by intros; simp only [execSignalWrite]; (repeat' split) <;> simp +contextual (maxDischargeDepth := 12) [*]
@[simp] theorem execSignalAdd_canon : ∀ a0 s, Canon s → Canon (after (execSignalAdd a0 s) s) := by intros; simp only [execSignalAdd]; (repeat' split) <;> simp +contextual (maxDischargeDepth := 12) [*]
@[simp] theorem signalPerform_canon : ∀ s a1, Canon s → Canon ((signalPerform s a1).1) := by intros; simp only [signalPerform]; (repeat' split) <;> simp +contextual (maxDischargeDepth := 12) [*]
@[simp] theorem execSignalResponse_canon : ∀ a0 a1 s, Canon s → Canon (after (execSignalResponse a0 a1 s) s) := by intros; simp only [execSignalResponse]; (repeat' split) <;> simp +contextual (maxDischargeDepth := 12) [*]
theorem barUse_canon : ∀ s a1 a2 t, barUse s a1 a2 = .error t → Canon s → Canon t := by
  intro s c v t h hs
  simp only [barUse] at h
  (repeat' split at h) <;> cases h <;> simp (maxDischargeDepth := 12) [hs]
@[simp] theorem arriveHome_canon : ∀ s a1 a2 a3, Canon s → Canon (arriveHome s a1 a2 a3) := by intros; simp +contextual (maxDischargeDepth := 12) [arriveHome, *]
@[simp] theorem execArrive_canon : ∀ a0 s, Canon s → Canon (after (execArrive a0 s) s) := by
  intro c s h
  unfold execArrive
  split
  · exact h
  · rw [after_next]
    refine handOff_canon _ _ _ (fun s h => ?_) h
    split
    · exact barUse_canon _ _ _ _ ‹_› h
    · extract_lets
      split <;> simp +zetaDelta (maxDischargeDepth := 12) [h]
@[simp] theorem execArriveAckTimeout_canon : ∀ a0 s, Canon s → Canon (after (execArriveAckTimeout a0 s) s) := by intros; simp only [execArriveAckTimeout]; (repeat' split) <;> simp +contextual (maxDischargeDepth := 12) [*]
@[simp] theorem execPush_canon : ∀ a0 s, Canon s → Canon (after (execPush a0 s) s) := by intros; simp only [execPush]; (repeat' split) <;> simp +contextual (maxDischargeDepth := 12) [*]
@[simp] theorem ringSignal_canon : ∀ s a1 a2 a3, Canon s → Canon (ringSignal s a1 a2 a3) := by intros; simp +contextual (maxDischargeDepth := 12) [ringSignal, *]
@[simp] theorem execProduce_canon : ∀ a0 s, Canon s → Canon (after (execProduce a0 s) s) := by intros; simp only [execProduce]; (repeat' split) <;> simp +contextual (maxDischargeDepth := 12) [*]
@[simp] theorem execRelease_canon : ∀ a0 s, Canon s → Canon (after (execRelease a0 s) s) := by intros; simp only [execRelease]; (repeat' split) <;> simp +contextual (maxDischargeDepth := 12) [*]
@[simp] theorem execSignalDoorbell_canon : ∀ a0 s, Canon s → Canon (after (execSignalDoorbell a0 s) s) := by intros; simp only [execSignalDoorbell]; (repeat' split) <;> simp +contextual (maxDischargeDepth := 12) [*]
@[simp] theorem execWaitBarrier_canon : ∀ a0 s, Canon s → Canon (after (execWaitBarrier a0 s) s) := by
  intro c s h
  unfold execWaitBarrier
  split
  · exact h
  · split
    · exact barUse_canon _ _ _ _ ‹_› h
    · simp (maxDischargeDepth := 12) [h]
theorem pollRefused_canon : ∀ s a1 a2 t, pollRefused s a1 a2 = some t → Canon s → Canon t := by
  intro s c ps t h hs
  unfold pollRefused at h
  (repeat' split at h) <;> simp_all <;> subst h <;> simp (maxDischargeDepth := 12) [hs]
@[simp] theorem sendPoll_canon : ∀ s a1 a2, Canon s → Canon (sendPoll s a1 a2) := by
  intro s c x h0
  unfold sendPoll
  split
  · grind [preLeaves_canon]
  · rename_i s1 es heq
    have h : Canon s1 := by have := preLeaves_canon s c 0 (dVa x.desc 2) (wSize x.desc) h0; rwa [heq] at this
    extract_lets ps
    split
    · exact pollRefused_canon _ _ _ _ ‹_› h
    · split <;> simp (maxDischargeDepth := 12) [h]
@[simp] theorem execWaitValue_canon : ∀ a0 s, Canon s → Canon (after (execWaitValue a0 s) s) := by intros; simp only [execWaitValue]; (repeat' split) <;> simp_all +contextual (maxDischargeDepth := 12)
@[simp] theorem pollStage_canon : ∀ s a1 a2, Canon s → Canon (pollStage s a1 a2).1 := by
  intro s a1 a2 h
  unfold pollStage
  refine canon_foldl1 _ (fun s a h => ?_) _ _ h
  split
  · extract_lets lane
    split
    · exact h
    · split
      · simp (maxDischargeDepth := 12) [h]
      · exact stageProbe_canon _ _ _ _ h
  · exact h
@[simp] theorem pollAns_canon : ∀ s a1 a2 a3 a4, Canon s → Canon ((pollAns s a1 a2 a3 a4).1) := by intros; simp only [pollAns]; (repeat' split) <;> simp +contextual (maxDischargeDepth := 12) [*]
@[simp] theorem execWaitValuePoll_canon : ∀ a0 a1 s, Canon s → Canon (after (execWaitValuePoll a0 a1 s) s) := by
  intro c a s h0
  unfold execWaitValuePoll
  split
  · exact h0
  · split
    · simp (maxDischargeDepth := 12) [h0]
    · split <;> (rename_i heq; have h : Canon _ := (congrArg (fun p => Canon p.1) heq).mp (preLeaves_canon _ _ _ _ _ h0); dsimp only at h)
      · exact h
      · split
        · rw [after_next]; exact pollRefused_canon _ _ _ _ ‹_› h
        · split
          · exact h
          · extract_lets r
            have h2 : Canon r.1 := by simp [r, h]
            (repeat' split) <;> simp (maxDischargeDepth := 12) [h2]
@[simp] theorem popIssue_canon : ∀ s a1 a2 a3, Canon s → Canon (popIssue s a1 a2 a3) := by intros; unfold popIssue; (repeat' split) <;> grind [after, ctlLeaves_canon, issueCtl_canon]
@[simp] theorem popStart_canon : ∀ s a1 a2, Canon s → Canon (popStart s a1 a2) := by intros; unfold popStart; (repeat' split) <;> grind [after, beginWait_canon, ctlLeaves_canon, finish_canon, hqSettle_canon, notice_canon, refuseStream_canon, worldRefuse_canon]
@[simp] theorem execPop_canon : ∀ a0 s, Canon s → Canon (after (execPop a0 s) s) := by intros; simp only [execPop]; (repeat' split) <;> simp +contextual (maxDischargeDepth := 12) [*]
@[simp] theorem ringWait_canon : ∀ s a1 a2 a3, Canon s → Canon (ringWait s a1 a2 a3) := by intros; simp +contextual (maxDischargeDepth := 12) [ringWait, *]
@[simp] theorem ringAgain_canon : ∀ s a1 a2 a3, Canon s → Canon (ringAgain s a1 a2 a3) := by intros; simp +contextual (maxDischargeDepth := 12) [ringAgain, *]
@[simp] theorem execFilled_canon : ∀ a0 s, Canon s → Canon (after (execFilled a0 s) s) := by intros; simp only [execFilled]; (repeat' split) <;> simp +contextual (maxDischargeDepth := 12) [*]
@[simp] theorem execFree_canon : ∀ a0 s, Canon s → Canon (after (execFree a0 s) s) := by intros; simp only [execFree]; (repeat' split) <;> simp +contextual (maxDischargeDepth := 12) [*]
@[simp] theorem execWaitTimeout_canon : ∀ a0 s, Canon s → Canon (after (execWaitTimeout a0 s) s) := by intros; simp only [execWaitTimeout]; (repeat' split) <;> simp +contextual (maxDischargeDepth := 12) [*]
@[simp] theorem orderOp_canon : ∀ s a1 a2 a3 a4, (∀ s, Canon s → Canon (a4 s)) → Canon s → Canon (orderOp s a1 a2 a3 a4) := by intros; simp only [orderOp]; (repeat' split) <;> simp +contextual (maxDischargeDepth := 12) [*]
@[simp] theorem execDrain_canon : ∀ a0 s, Canon s → Canon (after (execDrain a0 s) s) := by intros; simp +contextual (maxDischargeDepth := 12) [execDrain, *]
@[simp] theorem execDepChannel_canon : ∀ a0 s, Canon s → Canon (after (execDepChannel a0 s) s) := by intros; simp only [execDepChannel]; (repeat' split) <;> simp +contextual (maxDischargeDepth := 12) [*]
@[simp] theorem execDepBarrier_canon : ∀ a0 s, Canon s → Canon (after (execDepBarrier a0 s) s) := by
  intro c s h
  unfold execDepBarrier
  split
  · exact h
  · split
    · exact barUse_canon _ _ _ _ ‹_› h
    · simp (maxDischargeDepth := 12) [h]
@[simp] theorem fenceWait_canon : ∀ s a1 a2, Canon s → Canon (fenceWait s a1 a2) := by intros; simp +contextual (maxDischargeDepth := 12) [fenceWait, *]
@[simp] theorem execFenceRelease_canon : ∀ a0 s, Canon s → Canon (after (execFenceRelease a0 s) s) := by intros; simp only [execFenceRelease]; (repeat' split) <;> simp +contextual (maxDischargeDepth := 12) [*]
@[simp] theorem execFenceAcquire_canon : ∀ a0 s, Canon s → Canon (after (execFenceAcquire a0 s) s) := by intros; simp only [execFenceAcquire]; (repeat' split) <;> simp +contextual (maxDischargeDepth := 12) [*]
@[simp] theorem execFenceFull_canon : ∀ a0 s, Canon s → Canon (after (execFenceFull a0 s) s) := by intros; simp only [execFenceFull]; (repeat' split) <;> simp +contextual (maxDischargeDepth := 12) [*]
@[simp] theorem execRearm_canon : ∀ a0 s, Canon s → Canon (after (execRearm a0 s) s) := by intros; simp only [execRearm]; (repeat' split) <;> simp +contextual (maxDischargeDepth := 12) [*]
@[simp] theorem execRearmStop_canon : ∀ a0 s, Canon s → Canon (after (execRearmStop a0 s) s) := by intros; simp only [execRearmStop]; (repeat' split) <;> simp +contextual (maxDischargeDepth := 12) [*]
@[simp] theorem mbPost_canon : ∀ s a1 a2 a3, Canon s → Canon (mbPost s a1 a2 a3) := by intros; simp +contextual (maxDischargeDepth := 12) [mbPost, *]
@[simp] theorem execMailbox_canon : ∀ a0 a1 s, Canon s → Canon (after (execMailbox a0 a1 s) s) := by intros; unfold execMailbox; (repeat' split) <;> grind [after, handOff_canon, mbPost_canon, recFail_canon, recRead_canon, worldRefuse_canon]
@[simp] theorem advise_canon : ∀ s a1 a2 a3, Canon s → Canon (advise s a1 a2 a3) := by intros; simp +contextual (maxDischargeDepth := 12) [advise, *]
@[simp] theorem execPrefetch_canon : ∀ a0 s, Canon s → Canon (after (execPrefetch a0 s) s) := by intros; simp only [execPrefetch]; (repeat' split) <;> simp +contextual (maxDischargeDepth := 12) [*]
@[simp] theorem execEvict_canon : ∀ a0 s, Canon s → Canon (after (execEvict a0 s) s) := by intros; simp only [execEvict]; (repeat' split) <;> simp +contextual (maxDischargeDepth := 12) [*]
@[simp] theorem execWarm_canon : ∀ a0 s, Canon s → Canon (after (execWarm a0 s) s) := by intros; simp only [execWarm]; (repeat' split) <;> simp +contextual (maxDischargeDepth := 12) [*]
@[simp] theorem execCold_canon : ∀ a0 s, Canon s → Canon (after (execCold a0 s) s) := by intros; simp only [execCold]; (repeat' split) <;> simp +contextual (maxDischargeDepth := 12) [*]
@[simp] theorem whirlOp_canon : ∀ s a1 a2 a3, Canon s → Canon (whirlOp s a1 a2 a3) := by intros; simp only [whirlOp]; (repeat' split) <;> simp +contextual (maxDischargeDepth := 12) [*]
@[simp] theorem whirlAlu_canon : ∀ s a1 a2 a3, Canon s → Canon (whirlAlu s a1 a2 a3) := by intros; simp +contextual (maxDischargeDepth := 12) [whirlAlu, *]
@[simp] theorem execWhHalt_canon : ∀ a0 s, Canon s → Canon (after (execWhHalt a0 s) s) := by intros; simp only [execWhHalt]; (repeat' split) <;> simp +contextual (maxDischargeDepth := 12) [*]
@[simp] theorem execWhMovi_canon : ∀ a0 s, Canon s → Canon (after (execWhMovi a0 s) s) := by intros; simp +contextual (maxDischargeDepth := 12) [execWhMovi, *]
@[simp] theorem execWhAdd_canon : ∀ a0 s, Canon s → Canon (after (execWhAdd a0 s) s) := by intros; simp +contextual (maxDischargeDepth := 12) [execWhAdd, *]
@[simp] theorem execWhAddi_canon : ∀ a0 s, Canon s → Canon (after (execWhAddi a0 s) s) := by intros; simp +contextual (maxDischargeDepth := 12) [execWhAddi, *]
@[simp] theorem execWhSub_canon : ∀ a0 s, Canon s → Canon (after (execWhSub a0 s) s) := by intros; simp +contextual (maxDischargeDepth := 12) [execWhSub, *]
@[simp] theorem execWhMuli_canon : ∀ a0 s, Canon s → Canon (after (execWhMuli a0 s) s) := by intros; simp +contextual (maxDischargeDepth := 12) [execWhMuli, *]
@[simp] theorem execWhAnd_canon : ∀ a0 s, Canon s → Canon (after (execWhAnd a0 s) s) := by intros; simp +contextual (maxDischargeDepth := 12) [execWhAnd, *]
@[simp] theorem execWhOr_canon : ∀ a0 s, Canon s → Canon (after (execWhOr a0 s) s) := by intros; simp +contextual (maxDischargeDepth := 12) [execWhOr, *]
@[simp] theorem execWhXor_canon : ∀ a0 s, Canon s → Canon (after (execWhXor a0 s) s) := by intros; simp +contextual (maxDischargeDepth := 12) [execWhXor, *]
@[simp] theorem execWhShli_canon : ∀ a0 s, Canon s → Canon (after (execWhShli a0 s) s) := by intros; simp +contextual (maxDischargeDepth := 12) [execWhShli, *]
@[simp] theorem execWhShri_canon : ∀ a0 s, Canon s → Canon (after (execWhShri a0 s) s) := by intros; simp +contextual (maxDischargeDepth := 12) [execWhShri, *]
@[simp] theorem execWhSari_canon : ∀ a0 s, Canon s → Canon (after (execWhSari a0 s) s) := by intros; simp +contextual (maxDischargeDepth := 12) [execWhSari, *]
@[simp] theorem execWhBrev_canon : ∀ a0 s, Canon s → Canon (after (execWhBrev a0 s) s) := by intros; simp +contextual (maxDischargeDepth := 12) [execWhBrev, *]
@[simp] theorem execWhDrev_canon : ∀ a0 s, Canon s → Canon (after (execWhDrev a0 s) s) := by intros; simp +contextual (maxDischargeDepth := 12) [execWhDrev, *]
@[simp] theorem execWhEmit_canon : ∀ a0 s, Canon s → Canon (after (execWhEmit a0 s) s) := by intros; simp only [execWhEmit]; (repeat' split) <;> simp +contextual (maxDischargeDepth := 12) [*]
@[simp] theorem execWhDjnz_canon : ∀ a0 s, Canon s → Canon (after (execWhDjnz a0 s) s) := by intros; simp +contextual (maxDischargeDepth := 12) [execWhDjnz, *]
@[simp] theorem execWhBlt_canon : ∀ a0 s, Canon s → Canon (after (execWhBlt a0 s) s) := by intros; simp +contextual (maxDischargeDepth := 12) [execWhBlt, *]
@[simp] theorem execWhBne_canon : ∀ a0 s, Canon s → Canon (after (execWhBne a0 s) s) := by intros; simp +contextual (maxDischargeDepth := 12) [execWhBne, *]
@[simp] theorem execWhJmp_canon : ∀ a0 s, Canon s → Canon (after (execWhJmp a0 s) s) := by intros; simp +contextual (maxDischargeDepth := 12) [execWhJmp, *]
@[simp] theorem execWhirlQuietStop_canon : ∀ a0 s, Canon s → Canon (after (execWhirlQuietStop a0 s) s) := by intros; simp only [execWhirlQuietStop]; (repeat' split) <;> simp +contextual (maxDischargeDepth := 12) [*]
@[simp] theorem reserveSide_canon : ∀ s a1 a2, Canon s → Canon (reserveSide s a1 a2) := by intros; simp only [reserveSide]; (repeat' split) <;> simp +contextual (maxDischargeDepth := 12) [*]
@[simp] theorem execBoundRunReserve_canon : ∀ a0 s, Canon s → Canon (after (execBoundRunReserve a0 s) s) := by intros; simp only [execBoundRunReserve]; (repeat' split) <;> simp +contextual (maxDischargeDepth := 12) [*]
@[simp] theorem markIssued_canon : ∀ s a1, Canon s → Canon (markIssued s a1) := by intros; simp only [markIssued]; (repeat' split) <;> simp +contextual (maxDischargeDepth := 12) [*]
@[simp] theorem execMove_canon : ∀ a0 s, Canon s → Canon (after (execMove a0 s) s) := by intros; simp only [execMove]; (repeat' split) <;> simp +contextual (maxDischargeDepth := 12) [*]
@[simp] theorem shapeRead_canon : ∀ s a1 a2 a3, Canon s → Canon ((shapeRead s a1 a2 a3).1) := by intros; simp only [shapeRead]; (repeat' split) <;> simp +contextual (maxDischargeDepth := 12) [*]
@[simp] theorem readLines_canon : ∀ a0 a1 a2 a3 a4 a5 a6 a7 s, Canon s → Canon (readLines a0 a1 a2 a3 a4 a5 a6 a7 s).1 := by
  intro c o sd b a p w l
  induction l with
  | nil => intro s h; exact h
  | cons e l ih =>
    intro s h
    unfold readLines
    (repeat' split) <;> grind [recRead_canon, modStream_canon]
@[simp] theorem execTensor_canon : ∀ a0 a1 a2 s, Canon s → Canon (after (execTensor a0 a1 a2 s) s) := by
  intro c a b s h0
  unfold execTensor
  split
  · split
    · simp (maxDischargeDepth := 12) [h0]
    · exact h0
  · split
    · simp (maxDischargeDepth := 12) [h0]
    · split <;> (rename_i heq; have h1 : Canon _ := (congrArg (fun p => Canon p.1) heq).mp (shapeRead_canon _ _ _ _ h0))
      · exact h1
      · exact recFail_canon _ _ _ h1
      · dsimp only at h1
        extract_lets
        (repeat' split) <;> simp (maxDischargeDepth := 12) [h1]
@[simp] theorem execGather_canon : ∀ a0 a1 a2 s, Canon s → Canon (after (execGather a0 a1 a2 s) s) := by intros; simp only [execGather]; (repeat' split) <;> simp_all +contextual (maxDischargeDepth := 12)
@[simp] theorem execWhirl_canon : ∀ a0 a1 s, Canon s → Canon (after (execWhirl a0 a1 s) s) := by intros; unfold execWhirl; (repeat' split) <;> grind [after, bump_canon, modStream_canon, recFail_canon, recRead_canon, refuseStream_canon, setStream_canon]
@[simp] theorem endTiles_canon : ∀ s a1 a2 a3, Canon s → Canon (endTiles s a1 a2 a3) := by intros; simp +contextual (maxDischargeDepth := 12) [endTiles, *]
@[simp] theorem worldStop_canon : ∀ s a1 a2, Canon s → Canon (worldStop s a1 a2) := by intros; simp +contextual (maxDischargeDepth := 12) [worldStop, *]
@[simp] theorem preFail_canon : ∀ s a1 a2, Canon s → Canon (preFail s a1 a2) := by intros; simp +contextual (maxDischargeDepth := 12) [preFail, *]
@[simp] theorem noMore_canon : ∀ s a1, Canon s → Canon (noMore s a1) := by intros; simp +contextual (maxDischargeDepth := 12) [noMore, *]
@[simp] theorem genMove_canon : ∀ s a1 a2, Canon s → Canon (genMove s a1 a2) := by intros; simp +contextual (maxDischargeDepth := 12) [genMove, *]
@[simp] theorem tensorTileAdd_canon : ∀ s a1 a2 a3 a4, Canon s → Canon (tensorTileAdd s a1 a2 a3 a4) := by intros; simp only [tensorTileAdd]; (repeat' split) <;> simp +contextual (maxDischargeDepth := 12) [*]
@[simp] theorem skipTile_canon : ∀ s a1 a2 a3, Canon s → Canon (skipTile s a1 a2 a3) := by intros; unfold skipTile; (repeat' split) <;> grind [after, lookup_canon, modStream_canon, need_canon, preFail_canon, readLines_canon]
@[simp] theorem genTensor_canon : ∀ s a1 a2, Canon s → Canon (genTensor s a1 a2) := by intros; unfold genTensor; (repeat' split) <;> grind [after, noMore_canon, preFail_canon, readLines_canon, skipTile_canon, tensorTileAdd_canon]
@[simp] theorem gatherSeg_canon : ∀ a0 a1 s, Canon s → Canon (gatherSeg a0 a1 s).1 := by
  intro c n
  induction n with
  | zero => intro s h; exact h
  | succ n ih =>
    intro s h
    unfold gatherSeg
    (repeat' split) <;> grind [readLines_canon]
@[simp] theorem peekGather_canon : ∀ s a1, Canon s → Canon (peekGather s a1) := by intros; simp +contextual (maxDischargeDepth := 12) [peekGather, *]
@[simp] theorem genGather_canon : ∀ s a1 a2, Canon s → Canon (genGather s a1 a2) := by intros; unfold genGather; (repeat' split) <;> grind [after, bump_canon, endTiles_canon, gatherSeg_canon, markIssued_canon, noMore_canon, preFail_canon, setStream_canon]
@[simp] theorem genWhirl_canon : ∀ s a1 a2, Canon s → Canon (genWhirl s a1 a2) := by intros; simp only [genWhirl]; (repeat' split) <;> simp +contextual (maxDischargeDepth := 12) [*]
@[simp] theorem modTile_canon : ∀ s a1 a2 a3, Canon s → Canon (modTile s a1 a2 a3) := by intros; simp +contextual (maxDischargeDepth := 12) [modTile, *]
@[simp] theorem walkRegion_canon : ∀ s a1 a2 a3, Canon s → Canon (walkRegion s a1 a2 a3) := by intros; simp only [walkRegion]; (repeat' split) <;> simp +contextual (maxDischargeDepth := 12) [*]
@[simp] theorem tileWalked_canon : ∀ s a1 a2, Canon s → Canon (tileWalked s a1 a2) := by intros; simp only [tileWalked]; (repeat' split) <;> simp +contextual (maxDischargeDepth := 12) [*]
@[simp] theorem execTilePrewalk_canon : ∀ a0 s, Canon s → Canon (after (execTilePrewalk a0 s) s) := by intros; simp only [execTilePrewalk]; (repeat' split) <;> simp +contextual (maxDischargeDepth := 12) [*]
@[simp] theorem modGroup_canon : ∀ s a1 a2 a3 a4, Canon s → Canon (modGroup s a1 a2 a3 a4) := by intros; simp +contextual (maxDischargeDepth := 12) [modGroup, *]
@[simp] theorem rotate_canon : ∀ s a1 a2, Canon s → Canon (rotate s a1 a2) := by intros; simp +contextual (maxDischargeDepth := 12) [rotate, *]
@[simp] theorem reserveLand_canon : ∀ s a1 a2 a3, Canon s → Canon (reserveLand s a1 a2 a3) := by intros; simp +contextual (maxDischargeDepth := 12) [reserveLand, *]
theorem reserveTo_canon : ∀ s a1 a2 a3 a4 r, reserveTo s a1 a2 a3 a4 = some r → Canon s → Canon r := by
  intro s m c no es
  induction es generalizing s with
  | nil => intro r h hs; cases h; exact hs
  | cons e es ih =>
    intro r h hs
    unfold reserveTo at h
    (repeat' split at h) <;> first | (cases h; exact hs) | (cases h; done) | exact ih _ _ h (by simp (maxDischargeDepth := 12) [hs])
@[simp] theorem reserved_canon : ∀ s a1 a2 a3 a4, Canon s → Canon ((reserved s a1 a2 a3 a4).getD s) := by
  intro s m c x e h
  unfold reserved
  split
  · cases k : reserveTo s m c e.2.no (allGroups x) with
    | none => exact h
    | some r => exact reserveTo_canon _ _ _ _ _ _ k h
  · exact h
@[simp] theorem issueNeeds_canon : ∀ s a1 a2, Canon s → Canon (issueNeeds s a1 a2) := by
  intro s m w h
  unfold issueNeeds
  refine canon_foldl _ (fun s a h => ?_) _ _ h
  split
  · exact h
  · split
    · exact canon_foldl _ (fun s a h => by simp (maxDischargeDepth := 12) [h]) _ _ h
    · refine canon_foldl _ (fun s a h => ?_) _ _ h
      split <;> simp (maxDischargeDepth := 12) [h]
@[simp] theorem setWin8_canon : ∀ s a1 a2 a3, Canon s → Canon (setWin8 s a1 a2 a3) := by
  intro s i b v h
  cases b
  · exact { h with winRd := twf_tset _ _ h.winRd }
  · exact { h with winWr := twf_tset _ _ h.winWr }
@[simp] theorem tickWin8_canon : ∀ s a1 a2, Canon s → Canon (tickWin8 s a1 a2) := by intros; simp +contextual (maxDischargeDepth := 12) [tickWin8, *]
@[simp] theorem usePlace_canon : ∀ s a1 a2 a3, Canon s → Canon (usePlace s a1 a2 a3) := by intros; simp +contextual (maxDischargeDepth := 12) [usePlace, *]
@[simp] theorem fillPlaces_canon : ∀ a0 a1 a2 a3, (∀ s x1 x2, Canon s → Canon (a3 s x1 x2).1) → ∀ n u r, Canon r.1 → Canon (fillPlaces a0 a1 a2 a3 n u r).1 := by
  intro m w cs act ha n
  induction n with
  | zero => intro u r h; exact h
  | succ n ih =>
    intro u r h
    obtain ⟨s, o⟩ := r
    unfold fillPlaces
    extract_lets
    (repeat' split) <;> first | exact h | exact ih _ _ (ha _ _ _ (by dsimp only at h; simp (maxDischargeDepth := 12) [h]))
@[simp] theorem lineHints_canon : ∀ s a1 a2, Canon s → Canon (lineHints s a1 a2) := by intros; simp only [lineHints]; (repeat' split) <;> simp_all +contextual (maxDischargeDepth := 12)
@[simp] theorem sendAll_canon : ∀ n a1 s, Canon s → Canon (sendAll n a1 s) := by
  intro n
  induction n with
  | zero => intro _ s h; exact h
  | succ n ih =>
    intro l s h
    cases l with
    | nil => exact h
    | cons e l => unfold sendAll; exact ih _ _ (by simp (maxDischargeDepth := 12) [h])
@[simp] theorem countEcho_canon : ∀ s a1, Canon s → Canon (countEcho s a1) := by intros; simp +contextual (maxDischargeDepth := 12) [countEcho, *]
@[simp] theorem issueRead_canon : ∀ s a1 a2, Canon s → Canon (issueRead s a1 a2).1 := by
  intro s k l h
  unfold issueRead
  dsimp only
  (repeat' split) <;> simp (maxDischargeDepth := 12) [h]
@[simp] theorem countResWait_canon : ∀ s a1, Canon s → Canon (countResWait s a1) := by intros; simp +contextual (maxDischargeDepth := 12) [countResWait, *]
@[simp] theorem setParity_canon : ∀ s a1, Canon s → Canon (setParity s a1) := by intros; simp only [setParity]; (repeat' split) <;> simp_all +contextual (maxDischargeDepth := 12)
@[simp] theorem execReadIssue_canon : ∀ a0 s, Canon s → Canon (after (execReadIssue a0 s) s) := by
  intro t s h
  unfold execReadIssue
  split
  · exact h
  · split
    · rw [after_next]; split <;> simp (maxDischargeDepth := 12) [h]
    · extract_lets s1 s2 cands s3 r
      rw [after_next]
      refine sendAll_canon _ _ _ ?_
      refine fillPlaces_canon _ _ _ _ issueRead_canon _ _ _ ?_
      simp (maxDischargeDepth := 12) [s3, s2, s1, h]
@[simp] theorem issueWrite_canon : ∀ s a1 a2 a3 a4 a5, Canon s → Canon ((issueWrite s a1 a2 a3 a4 a5).1) := by intros; simp only [issueWrite]; (repeat' split) <;> simp +contextual (maxDischargeDepth := 12) [*]
@[simp] theorem issueNextWrite_canon : ∀ s a1 a2, Canon s → Canon ((issueNextWrite s a1 a2).1) := by intros; simp only [issueNextWrite]; (repeat' split) <;> simp +contextual (maxDischargeDepth := 12) [*]
@[simp] theorem execWriteIssue_canon : ∀ a0 s, Canon s → Canon (after (execWriteIssue a0 s) s) := by
  intro t s h
  unfold execWriteIssue
  split
  · exact h
  · split
    · rw [after_next]; split <;> simp (maxDischargeDepth := 12) [h]
    · extract_lets s1 cands s3 r
      rw [after_next]
      refine sendAll_canon _ _ _ ?_
      refine fillPlaces_canon _ _ _ _ issueNextWrite_canon _ _ _ ?_
      simp (maxDischargeDepth := 12) [s3, s1, h]
@[simp] theorem execHeldWriteIssue_canon : ∀ a0 s, Canon s → Canon (after (execHeldWriteIssue a0 s) s) := by intros; simp only [execHeldWriteIssue]; (repeat' split) <;> simp +contextual (maxDischargeDepth := 12) [*]
@[simp] theorem ownGone_canon : ∀ s a1, Canon s → Canon (ownGone s a1) := by intros; simp only [ownGone]; (repeat' split) <;> simp_all +contextual (maxDischargeDepth := 12)
@[simp] theorem ownLate_canon : ∀ s a1, Canon s → Canon (ownLate s a1) := by intros; simp +contextual (maxDischargeDepth := 12) [ownLate, *]
@[simp] theorem landLine_canon : ∀ s a1 a2, Canon s → Canon (landLine s a1 a2) := by intros; simp only [landLine]; (repeat' split) <;> simp +contextual (maxDischargeDepth := 12) [*]
@[simp] theorem echoEcc_canon : ∀ s a1 a2, Canon s → Canon (echoEcc s a1 a2) := by intros; simp +contextual (maxDischargeDepth := 12) [echoEcc, *]
@[simp] theorem execReadDataLand_canon : ∀ a0 a1 a2 s, Canon s → Canon (after (execReadDataLand a0 a1 a2 s) s) := by intros; simp only [execReadDataLand]; (repeat' split) <;> simp +contextual (maxDischargeDepth := 12) [*]
@[simp] theorem assemble_canon : ∀ s a1 a2 a3, Canon s → Canon (assemble s a1 a2 a3).1 := by
  intro s x o es h
  unfold assemble
  extract_lets w r s1 flush last be be2
  have h1 : Canon s1 := by
    refine canon_foldl1 _ ?_ _ _ h
    intro acc e ha
    dsimp only
    split
    · exact ha
    · exact canon_fresh ha _
  (repeat' split) <;> first | exact h1 | exact canon_fresh h1 _
@[simp] theorem addReady_canon : ∀ s a1 a2 a3 a4 a5 a6, Canon s → Canon (addReady s a1 a2 a3 a4 a5 a6) := by intros; simp +contextual (maxDischargeDepth := 12) [addReady, *]
@[simp] theorem pickVals_canon : ∀ s a1 a2 a3 a4, Canon s → Canon ((pickVals s a1 a2 a3 a4).1) := by
  intros
  simp only [pickVals]
  refine canon_foldl1 _ ?_ _ _ ?_
  · intro acc a h; (repeat' split) <;> simp_all +contextual (maxDischargeDepth := 12)
  · simp [*]
@[simp] theorem bypassLine_canon : ∀ s a1 a2 a3 a4 a5, Canon s → Canon (bypassLine s a1 a2 a3 a4 a5) := by intros; simp +contextual (maxDischargeDepth := 12) [bypassLine, *]
@[simp] theorem execOutputLineEmit_canon : ∀ a0 a1 a2 s, Canon s → Canon (after (execOutputLineEmit a0 a1 a2 s) s) := by intros; simp only [execOutputLineEmit]; (repeat' split) <;> simp +contextual (maxDischargeDepth := 12) [*]
@[simp] theorem accSum_canon : ∀ a0 a1 s a3 a4 a5, Canon s → Canon ((accSum a0 a1 s a3 a4 a5).1) := by
  intro d n
  induction n with
  | zero => intros; simpa [accSum]
  | succ n ih => intros; simp only [accSum]; (repeat' split) <;> simp_all +contextual (maxDischargeDepth := 12)
@[simp] theorem accVals_canon : ∀ s a1 a2 a3 a4 a5, Canon s → Canon ((accVals s a1 a2 a3 a4 a5).1) := by
  intros
  simp only [accVals]
  refine canon_foldl1 _ ?_ _ _ ?_
  · intro acc a h; (repeat' split) <;> simp_all +contextual (maxDischargeDepth := 12)
  · simp [*]
@[simp] theorem scaleLine_canon : ∀ s a1 a2 a3 a4, Canon s → Canon ((scaleLine s a1 a2 a3 a4).1) := by
  intros
  simp only [scaleLine]
  refine canon_foldl1 _ ?_ _ _ ?_
  · intro acc a h; (repeat' split) <;> simp_all +contextual (maxDischargeDepth := 12)
  · simp [*]
@[simp] theorem execMordantCast_canon : ∀ a0 a1 a2 s, Canon s → Canon (after (execMordantCast a0 a1 a2 s) s) := by intros; simp only [execMordantCast]; (repeat' split) <;> simp +contextual (maxDischargeDepth := 12) [*]
@[simp] theorem ownAck_canon : ∀ s a1, Canon s → Canon (ownAck s a1) := by intros; simp only [ownAck]; (repeat' split) <;> simp_all +contextual (maxDischargeDepth := 12)
@[simp] theorem execWriteAcknowledge_canon : ∀ a0 s, Canon s → Canon (after (execWriteAcknowledge a0 s) s) := by intros; simp only [execWriteAcknowledge]; (repeat' split) <;> simp +contextual (maxDischargeDepth := 12) [*]
@[simp] theorem execRelayForward_canon : ∀ a0 s, Canon s → Canon (after (execRelayForward a0 s) s) := by intros; simp only [execRelayForward]; (repeat' split) <;> simp +contextual (maxDischargeDepth := 12) [*]
@[simp] theorem ownError_canon : ∀ s a1 a2, Canon s → Canon (ownError s a1 a2) := by intros; simp only [ownError]; (repeat' split) <;> simp_all +contextual (maxDischargeDepth := 12)
@[simp] theorem execFabricErrorResponse_canon : ∀ a0 a1 s, Canon s → Canon (after (execFabricErrorResponse a0 a1 s) s) := by intros; simp only [execFabricErrorResponse]; (repeat' split) <;> simp +contextual (maxDischargeDepth := 12) [*]
@[simp] theorem execLateResponse_canon : ∀ a0 s, Canon s → Canon (after (execLateResponse a0 s) s) := by intros; simp only [execLateResponse]; (repeat' split) <;> simp_all +contextual (maxDischargeDepth := 12)
@[simp] theorem execLineTimeout_canon : ∀ a0 s, Canon s → Canon (after (execLineTimeout a0 s) s) := by intros; simp only [execLineTimeout]; (repeat' split) <;> simp +contextual (maxDischargeDepth := 12) [*]
@[simp] theorem execEchoFlush_canon : ∀ a0 a1 s, Canon s → Canon (after (execEchoFlush a0 a1 s) s) := by intros; simp +contextual (maxDischargeDepth := 12) [execEchoFlush, *]
@[simp] theorem execEchoFlushDone_canon : ∀ s, Canon s → Canon (after (execEchoFlushDone s) s) := by intros; simp +contextual (maxDischargeDepth := 12) [execEchoFlushDone, *]
@[simp] theorem relayWrite_canon : ∀ a0 a1 s, Canon s → Canon (relayWrite a0 a1 s) := by intros; simp +contextual (maxDischargeDepth := 12) [relayWrite, *]
@[simp] theorem execRelayEnable_canon : ∀ a0 a1 a2 s, Canon s → Canon (after (execRelayEnable a0 a1 a2 s) s) := by intros; simp +contextual (maxDischargeDepth := 12) [execRelayEnable, *]
@[simp] theorem tagRead_canon : ∀ a0 s, Canon s → Canon ((tagRead a0 s).1) := by intros; simp only [tagRead]; (repeat' split) <;> simp_all +contextual (maxDischargeDepth := 12)
@[simp] theorem execTagHwmRead_canon : ∀ a0 a1 s, Canon s → Canon (after (execTagHwmRead a0 a1 s) s) := by intros; simp only [execTagHwmRead]; (repeat' split) <;> simp +contextual (maxDischargeDepth := 12) [*]
@[simp] theorem kqLand_canon : ∀ a0 s, Canon s → Canon ((kqLand a0 s).1) := by intros; simp +contextual (maxDischargeDepth := 12) [kqLand, *]
@[simp] theorem execKqLandRead_canon : ∀ a0 a1 s, Canon s → Canon (after (execKqLandRead a0 a1 s) s) := by intros; simp +contextual (maxDischargeDepth := 12) [execKqLandRead, *]
@[simp] theorem execKqClrcnt_canon : ∀ a0 a1 a2 s, Canon s → Canon (after (execKqClrcnt a0 a1 a2 s) s) := by intros; simp +contextual (maxDischargeDepth := 12) [execKqClrcnt, *]
@[simp] theorem mdCtrl_canon : ∀ a0 a1 s, Canon s → Canon (mdCtrl a0 a1 s) := by intros; simp +contextual (maxDischargeDepth := 12) [mdCtrl, *]
@[simp] theorem execMdClrcnt_canon : ∀ a0 a1 a2 s, Canon s → Canon (after (execMdClrcnt a0 a1 a2 s) s) := by intros; simp +contextual (maxDischargeDepth := 12) [execMdClrcnt, *]
@[simp] theorem execReseed_canon : ∀ a0 a1 a2 s, Canon s → Canon (after (execReseed a0 a1 a2 s) s) := by intros; simp +contextual (maxDischargeDepth := 12) [execReseed, *]
@[simp] theorem execMpClr_canon : ∀ a0 a1 a2 s, Canon s → Canon (after (execMpClr a0 a1 a2 s) s) := by intros; simp +contextual (maxDischargeDepth := 12) [execMpClr, *]
@[simp] theorem execPlacementWindowEnd_canon : ∀ a0 a1 a2 s, Canon s → Canon (after (execPlacementWindowEnd a0 a1 a2 s) s) := by intros; simp only [execPlacementWindowEnd]; (repeat' split) <;> simp +contextual (maxDischargeDepth := 12) [*]
@[simp] theorem poolLoop_canon : ∀ a0 a1 s, Canon s → Canon (poolLoop a0 a1 s) := by intros; simp +contextual (maxDischargeDepth := 12) [poolLoop, *]
@[simp] theorem execPoolDisarm_canon : ∀ a0 a1 a2 s, Canon s → Canon (after (execPoolDisarm a0 a1 a2 s) s) := by intros; simp +contextual (maxDischargeDepth := 12) [execPoolDisarm, *]
@[simp] theorem scrubEvent_canon : ∀ s a1 a2 a3, Canon s → Canon (scrubEvent s a1 a2 a3) := by intros; simp +contextual (maxDischargeDepth := 12) [scrubEvent, *]
@[simp] theorem grantRow_canon : ∀ s a1, Canon s → Canon (grantRow s a1) := by intros; simp +contextual (maxDischargeDepth := 12) [grantRow, *]
@[simp] theorem execScrubRow_canon : ∀ a0 a1 s, Canon s → Canon (after (execScrubRow a0 a1 s) s) := by intros; simp only [execScrubRow]; (repeat' split) <;> simp +contextual (maxDischargeDepth := 12) [*]
@[simp] theorem bgCtrl_canon : ∀ a0 a1 s, Canon s → Canon (bgCtrl a0 a1 s) := by intros; simp +contextual (maxDischargeDepth := 12) [bgCtrl, *]
@[simp] theorem execBgClrcnt_canon : ∀ a0 a1 a2 s, Canon s → Canon (after (execBgClrcnt a0 a1 a2 s) s) := by intros; simp +contextual (maxDischargeDepth := 12) [execBgClrcnt, *]
@[simp] theorem discardLine_canon : ∀ s a1, Canon s → Canon (discardLine s a1) := by intros; simp only [discardLine]; (repeat' split) <;> simp +contextual (maxDischargeDepth := 12) [*]
@[simp] theorem execGrantWatchdogBite_canon : ∀ a0 a1 a2 s, Canon s → Canon (after (execGrantWatchdogBite a0 a1 a2 s) s) := by intros; simp only [execGrantWatchdogBite]; (repeat' split) <;> simp +contextual (maxDischargeDepth := 12) [*]
@[simp] theorem inStage_canon : ∀ s a1 a2 a3 a4 a5 a6, Canon s → Canon ((inStage s a1 a2 a3 a4 a5 a6).1) := by intros; simp only [inStage]; (repeat' split) <;> simp +contextual (maxDischargeDepth := 12) [*]
@[simp] theorem inRelay_canon : ∀ s a1 a2 a3 a4, Canon s → Canon (inRelay s a1 a2 a3 a4) := by intros; simp +contextual (maxDischargeDepth := 12) [inRelay, *]
theorem serveIn_canon : ∀ s a1 t, serveIn s a1 = some t → Canon s → Canon t := by
  intro s r t e h
  unfold serveIn at e
  extract_lets ans at e
  (repeat' split at e) <;> first
    | (simp only [ans, reduceCtorEq, Option.some.injEq] at e; subst e; first | (simp (maxDischargeDepth := 12) [h]; done) | exact emit_canon _ _ (inStage_canon _ _ _ _ _ _ _ h))
    | cases e
@[simp] theorem inNeeds_canon : ∀ s a1, Canon s → Canon (inNeeds s a1) := by intros; simp only [inNeeds]; (repeat' split) <;> simp_all +contextual (maxDischargeDepth := 12)
@[simp] theorem drainFrom_canon : ∀ n s, Canon s → Canon (drainFrom n s) := by
  intro n
  induction n with
  | zero => intro s h; exact h
  | succ n ih =>
    intro s h
    unfold drainFrom
    split
    · exact canon_foldl _ (fun s a h => inNeeds_canon _ _ h) _ _ h
    · extract_lets _ t
      refine ih _ ?_
      have ht : Canon t := { h with }
      cases e : serveIn t _ with
      | none => exact ht
      | some r => exact serveIn_canon _ _ _ e ht
@[simp] theorem drainIn_canon : ∀ s, Canon s → Canon (drainIn s) := by
  intro s h
  unfold drainIn
  split
  · exact h
  · exact drainFrom_canon _ _ h
@[simp] theorem idleStep_canon : ∀ s, Canon s → Canon (idleStep s) := by intros; simp +contextual (maxDischargeDepth := 12) [idleStep, *]
@[simp] theorem acceptIn_canon : ∀ s a1, Canon s → Canon (acceptIn s a1) := by intros; simp +contextual (maxDischargeDepth := 12) [acceptIn, *]
@[simp] theorem execStageInboundRequest_canon : ∀ a0 a1 a2 s, Canon s → Canon (after (execStageInboundRequest a0 a1 a2 s) s) := by intros; simp only [execStageInboundRequest]; (repeat' split) <;> simp +contextual (maxDischargeDepth := 12) [*]
@[simp] theorem execCoreInboundRequest_canon : ∀ a0 a1 a2 s, Canon s → Canon (after (execCoreInboundRequest a0 a1 a2 s) s) := by intros; simp only [execCoreInboundRequest]; (repeat' split) <;> simp +contextual (maxDischargeDepth := 12) [*]
@[simp] theorem migrEcc_canon : ∀ s a1 a2 a3, Canon s → Canon (migrEcc s a1 a2 a3) := by intros; simp only [migrEcc]; (repeat' split) <;> simp_all +contextual (maxDischargeDepth := 12)
@[simp] theorem execSaltMigrationDone_canon : ∀ a0 a1 s, Canon s → Canon (after (execSaltMigrationDone a0 a1 s) s) := by intros; simp only [execSaltMigrationDone]; (repeat' split) <;> simp_all +contextual (maxDischargeDepth := 12)
@[simp] theorem execCoreReadyChange_canon : ∀ a0 a1 s, Canon s → Canon (after (execCoreReadyChange a0 a1 s) s) := by intros; simp +contextual (maxDischargeDepth := 12) [execCoreReadyChange, *]
@[simp] theorem execActivationPositionFree_canon : ∀ a0 a1 s, Canon s → Canon (after (execActivationPositionFree a0 a1 s) s) := by intros; simp only [execActivationPositionFree]; (repeat' split) <;> simp +contextual (maxDischargeDepth := 12) [*]
@[simp] theorem serve_canon : ∀ s a1 a2 a3 a4, (∀ s x1 x2 x3, Canon s → Canon ((a4 s x1 x2 x3).1)) → Canon s → Canon (serve s a1 a2 a3 a4) := by intros; simp only [serve]; (repeat' split) <;> simp +contextual (maxDischargeDepth := 12) [*]
@[simp] theorem serveRead_canon : ∀ a0 s a2 a3 a4, Canon s → Canon ((serveRead a0 s a2 a3 a4).1) := by intros; simp only [serveRead]; (repeat' split) <;> simp +contextual (maxDischargeDepth := 12) [*]
@[simp] theorem serveAdd_canon : ∀ a0 a1 s a3 a4 a5, Canon s → Canon ((serveAdd a0 a1 s a3 a4 a5).1) := by intros; simp only [serveAdd]; (repeat' split) <;> simp +contextual (maxDischargeDepth := 12) [*]
@[simp] theorem execRdreq_canon : ∀ a0 a1 a2 s, Canon s → Canon (after (execRdreq a0 a1 a2 s) s) := by intros; simp +contextual (maxDischargeDepth := 12) [execRdreq, *]
@[simp] theorem execWrreq_canon : ∀ a0 a1 s, Canon s → Canon (after (execWrreq a0 a1 s) s) := by intros; simp +contextual (maxDischargeDepth := 12) [execWrreq, *]
@[simp] theorem execWrpart_canon : ∀ a0 a1 s, Canon s → Canon (after (execWrpart a0 a1 s) s) := by intros; simp +contextual (maxDischargeDepth := 12) [execWrpart, *]
@[simp] theorem execAdd32_canon : ∀ a0 a1 a2 s, Canon s → Canon (after (execAdd32 a0 a1 a2 s) s) := by intros; simp +contextual (maxDischargeDepth := 12) [execAdd32, *]
@[simp] theorem execAdd64_canon : ∀ a0 a1 a2 s, Canon s → Canon (after (execAdd64 a0 a1 a2 s) s) := by intros; simp +contextual (maxDischargeDepth := 12) [execAdd64, *]
@[simp] theorem ownAnswered_canon : ∀ s a1 a2, Canon s → Canon (ownAnswered s a1 a2) := by intros; simp +contextual (maxDischargeDepth := 12) [ownAnswered, *]
@[simp] theorem response_canon : ∀ s a1 a2 a3 a4, (∀ s x1 x2, Canon s → Canon (a4 s x1 x2)) → Canon s → Canon (response s a1 a2 a3 a4) := by intros; simp only [response]; (repeat' split) <;> simp +contextual (maxDischargeDepth := 12) [*]
@[simp] theorem remoteAck_canon : ∀ s a1, Canon s → Canon (remoteAck s a1) := by intros; simp only [remoteAck]; (repeat' split) <;> simp +contextual (maxDischargeDepth := 12) [*]
@[simp] theorem execRdrsp_canon : ∀ a0 a1 s, Canon s → Canon (after (execRdrsp a0 a1 s) s) := by intros; simp +contextual (maxDischargeDepth := 12) [execRdrsp, *]
@[simp] theorem execWrack_canon : ∀ a0 a1 s, Canon s → Canon (after (execWrack a0 a1 s) s) := by intros; simp +contextual (maxDischargeDepth := 12) [execWrack, *]
@[simp] theorem execAddrsp_canon : ∀ a0 a1 s, Canon s → Canon (after (execAddrsp a0 a1 s) s) := by intros; simp +contextual (maxDischargeDepth := 12) [execAddrsp, *]
@[simp] theorem execErrrsp_canon : ∀ a0 a1 s, Canon s → Canon (after (execErrrsp a0 a1 s) s) := by intros; simp +contextual (maxDischargeDepth := 12) [execErrrsp, *]
@[simp] theorem setAside_canon : ∀ s a1, Canon s → Canon (setAside s a1) := by intros; simp +contextual (maxDischargeDepth := 12) [setAside, *]
@[simp] theorem areaStore_canon : ∀ s a1 a2 a3, Canon s → Canon (areaStore s a1 a2 a3) := by
  intro s a b e h
  unfold areaStore
  refine canon_foldl _ ?_ _ _ h
  intro s a hs
  (repeat' split) <;> simp [hs]
@[simp] theorem areaFetch_canon : ∀ s a1, Canon s → Canon (areaFetch s a1) := by
  intro s x h
  unfold areaFetch
  extract_lets
  refine canon_foldl _ (fun s a h => ?_) _ _ (by simp (maxDischargeDepth := 12) [h])
  (repeat' split) <;> simp (maxDischargeDepth := 12) [h]
@[simp] theorem areaProbe_canon : ∀ s a1, Canon s → Canon (areaProbe s a1).1 := by
  intro s x h
  unfold areaProbe
  extract_lets
  refine canon_foldl1 _ (fun s a h => ?_) _ _ h
  (repeat' split) <;> simp (maxDischargeDepth := 12) [h]
@[simp] theorem areaLoad_canon : ∀ s a1 a2, Canon s → Canon ((areaLoad s a1 a2).1) := by intros; simp only [areaLoad]; (repeat' split) <;> simp_all +contextual (maxDischargeDepth := 12)
@[simp] theorem areaChecked_canon : ∀ s a1 a2, Canon s → Canon ((areaChecked s a1 a2).1) := by intros; simp +contextual (maxDischargeDepth := 12) [areaChecked, *]
@[simp] theorem restoreObj_canon : ∀ s a1 a2 a3, Canon s → Canon (restoreObj s a1 a2 a3) := by intros; simp +contextual (maxDischargeDepth := 12) [restoreObj, *]
@[simp] theorem restoreObjs_canon : ∀ s a1 a2, Canon s → Canon (restoreObjs s a1 a2) := by intros; simp only [restoreObjs]; (repeat' split) <;> simp +contextual (maxDischargeDepth := 12) [*]
@[simp] theorem ctxLog_canon : ∀ s a1 a2, Canon s → Canon (ctxLog s a1 a2) := by intros; simp +contextual (maxDischargeDepth := 12) [ctxLog, *]
@[simp] theorem chanBack_canon : ∀ s a1, Canon s → Canon (chanBack s a1) := by intros; simp +contextual (maxDischargeDepth := 12) [chanBack, *]
@[simp] theorem ctxRun_canon : ∀ s a1, Canon s → Canon (ctxRun s a1) := by intros; simp +contextual (maxDischargeDepth := 12) [ctxRun, *]
@[simp] theorem endDesc_canon : ∀ s a1 a2 a3, Canon s → Canon (endDesc s a1 a2 a3) := by intros; simp only [endDesc]; (repeat' split) <;> simp +contextual (maxDischargeDepth := 12) [*]
@[simp] theorem ctxEnd_canon : ∀ s a1 a2 a3, Canon s → Canon (ctxEnd s a1 a2 a3) := by intros; simp +contextual (maxDischargeDepth := 12) [ctxEnd, *]
@[simp] theorem killEnd_canon : ∀ s a1, Canon s → Canon (killEnd s a1) := by intros; simp +contextual (maxDischargeDepth := 12) [killEnd, *]
@[simp] theorem chanOut_canon : ∀ s a1, Canon s → Canon (chanOut s a1) := by intros; simp +contextual (maxDischargeDepth := 12) [chanOut, *]
@[simp] theorem switchOut_canon : ∀ s a1, Canon s → Canon (switchOut s a1) := by intros; simp +contextual (maxDischargeDepth := 12) [switchOut, *]
@[simp] theorem execContextOut_canon : ∀ a0 s, Canon s → Canon (after (execContextOut a0 s) s) := by intros; simp +contextual (maxDischargeDepth := 12) [execContextOut, *]
@[simp] theorem waitAgain_canon : ∀ s a1, Canon s → Canon (waitAgain s a1) := by
  intro s c h
  unfold waitAgain
  (repeat' split) <;> first | (simp (maxDischargeDepth := 12) [h]; done) | exact barUse_canon _ _ _ _ ‹_› h
@[simp] theorem serveAgain_canon : ∀ s, Canon s → Canon (serveAgain s) := by intros; simp +contextual (maxDischargeDepth := 12) [serveAgain, *]
@[simp] theorem execContextRestored_canon : ∀ a0 a1 s, Canon s → Canon (after (execContextRestored a0 a1 s) s) := by intros; simp only [execContextRestored]; (repeat' split) <;> simp +contextual (maxDischargeDepth := 12) [*]
@[simp] theorem doAbort_canon : ∀ s a1, Canon s → Canon (doAbort s a1) := by intros; simp +contextual (maxDischargeDepth := 12) [doAbort, *]
@[simp] theorem doResume_canon : ∀ s a1, Canon s → Canon (doResume s a1) := by intros; simp +contextual (maxDischargeDepth := 12) [doResume, *]
@[simp] theorem doKill_canon : ∀ s a1, Canon s → Canon (doKill s a1) := by intros; simp +contextual (maxDischargeDepth := 12) [doKill, *]
@[simp] theorem ctxCtrl_canon : ∀ a0 a1 s, Canon s → Canon (ctxCtrl a0 a1 s) := by intros; simp +contextual (maxDischargeDepth := 12) [ctxCtrl, *]
@[simp] theorem ctxCtrlW_canon : ∀ a0 a1 a2 s, Canon s → Canon (ctxCtrlW a0 a1 a2 s) := by intros; simp +contextual (maxDischargeDepth := 12) [ctxCtrlW, *]
@[simp] theorem execSuspend_canon : ∀ a0 a1 a2 s, Canon s → Canon (after (execSuspend a0 a1 a2 s) s) := by intros; simp +contextual (maxDischargeDepth := 12) [execSuspend, *]
@[simp] theorem execResume_canon : ∀ a0 a1 a2 s, Canon s → Canon (after (execResume a0 a1 a2 s) s) := by intros; simp +contextual (maxDischargeDepth := 12) [execResume, *]
@[simp] theorem execAbort_canon : ∀ a0 a1 a2 s, Canon s → Canon (after (execAbort a0 a1 a2 s) s) := by intros; simp +contextual (maxDischargeDepth := 12) [execAbort, *]
@[simp] theorem execKill_canon : ∀ a0 a1 a2 s, Canon s → Canon (after (execKill a0 a1 a2 s) s) := by intros; simp +contextual (maxDischargeDepth := 12) [execKill, *]
@[simp] theorem blockWipe_canon : ∀ s, Canon s → Canon (blockWipe s) := by
  intro s h
  constructor <;> first | exact h.src | exact h.ent | exact h.drop | exact h.seq | exact twf_foldl _ (fun t e ht => twf_tset _ _ ht) _ _ h.isl | rfl
@[simp] theorem beginReset_canon : ∀ s a1, Canon s → Canon (beginReset s a1) := by intros; simp +contextual (maxDischargeDepth := 12) [beginReset, *]
@[simp] theorem resetLog_canon : ∀ s a1, Canon s → Canon (resetLog s a1) := by intros; simp +contextual (maxDischargeDepth := 12) [resetLog, *]
@[simp] theorem safeGate_canon : ∀ s a1, Canon s → Canon (safeGate s a1) := by intros; simp +contextual (maxDischargeDepth := 12) [safeGate, *]
@[simp] theorem chanLoss_canon : ∀ s a1, Canon s → Canon (chanLoss s a1) := by intros; simp +contextual (maxDischargeDepth := 12) [chanLoss, *]
@[simp] theorem inboundError_canon : ∀ s, Canon s → Canon (inboundError s) := by
  intro s h
  unfold inboundError
  extract_lets s1
  have h : Canon s1 := canon_foldl _ (fun s a h => by simp (maxDischargeDepth := 12) [h]) _ _ h
  refine canon_foldl _ (fun s a h => ?_) _ _ h
  split <;> simp (maxDischargeDepth := 12) [h]
@[simp] theorem safeEnter_canon : ∀ s, Canon s → Canon (safeEnter s) := by intros; simp +contextual (maxDischargeDepth := 12) [safeEnter, *]
@[simp] theorem fcGo_canon : ∀ s a1 a2, Canon s → Canon (fcGo s a1 a2) := by intros; simp +contextual (maxDischargeDepth := 12) [fcGo, *]
@[simp] theorem ztFreeze_canon : ∀ s, Canon s → Canon (ztFreeze s) := by intros; simp +contextual (maxDischargeDepth := 12) [ztFreeze, *]
@[simp] theorem ztThaw_canon : ∀ s, Canon s → Canon (ztThaw s) := by intros; simp +contextual (maxDischargeDepth := 12) [ztThaw, *]
@[simp] theorem severe_canon : ∀ s a1, Canon s → Canon (severe s a1) := by intros; simp only [severe]; (repeat' split) <;> simp +contextual (maxDischargeDepth := 12) [*]
@[simp] theorem parityHit_canon : ∀ s a1 a2 a3, Canon s → Canon (parityHit s a1 a2 a3) := by
  intro s a b c h
  unfold parityHit
  extract_lets
  split
  · exact setHalf_canon _ _ _ { h with }
  · exact h
@[simp] theorem outsideEvent_canon : ∀ s a1, Canon s → Canon (outsideEvent s a1) := by intros; simp +contextual (maxDischargeDepth := 12) [outsideEvent, *]
@[simp] theorem arrive1_canon : ∀ s a1, Canon s → Canon ((arrive1 s a1).1) := by intros; simp only [arrive1]; (repeat' split) <;> simp +contextual (maxDischargeDepth := 12) [*]
@[simp] theorem arriveAll_canon : ∀ s a1, Canon s → Canon ((arriveAll s a1).1) := by
  intro s l h
  induction l generalizing s with
  | nil => exact h
  | cons e es ih => simp [arriveAll, ih, h]
@[simp] theorem ztFill_canon : ∀ s a1, Canon s → Canon (ztFill s a1) := by intros; simp +contextual (maxDischargeDepth := 12) [ztFill, *]
@[simp] theorem ztUrgent_canon : ∀ s a1, Canon s → Canon (ztUrgent s a1) := by intros; simp +contextual (maxDischargeDepth := 12) [ztUrgent, *]
@[simp] theorem countAll_canon : ∀ s a1, Canon s → Canon (countAll s a1) := by intros; simp +contextual (maxDischargeDepth := 12) [countAll, *]
@[simp] theorem collect_canon : ∀ s a1, Canon s → Canon (collect s a1) := by intros; simp only [collect]; (repeat' split) <;> simp_all +contextual (maxDischargeDepth := 12)
@[simp] theorem execFaultEvent_canon : ∀ a0 s, Canon s → Canon (after (execFaultEvent a0 s) s) := by intros; unfold execFaultEvent; (repeat' split) <;> grind [after, collect_canon]
@[simp] theorem execFaultWindowClose_canon : ∀ a0 s, Canon s → Canon (after (execFaultWindowClose a0 s) s) := by intros; simp +contextual (maxDischargeDepth := 12) [execFaultWindowClose, *]
@[simp] theorem fcReload_canon : ∀ s, Canon s → Canon (fcReload s) := by intros; simp +contextual (maxDischargeDepth := 12) [fcReload, *]
@[simp] theorem execCollectorParityError_canon : ∀ a0 s, Canon s → Canon (after (execCollectorParityError a0 s) s) := by intros; simp +contextual (maxDischargeDepth := 12) [execCollectorParityError, *]
@[simp] theorem execEscalationExpire_canon : ∀ s, Canon s → Canon (after (execEscalationExpire s) s) := by intros; simp +contextual (maxDischargeDepth := 12) [execEscalationExpire, *]
@[simp] theorem sevNone_canon : ∀ s, Canon s → Canon (sevNone s) := by intros; simp +contextual (maxDischargeDepth := 12) [sevNone, *]
@[simp] theorem fcExit_canon : ∀ s a1, Canon s → Canon (fcExit s a1) := by intros; simp +contextual (maxDischargeDepth := 12) [fcExit, *]
@[simp] theorem execAutomaticExit_canon : ∀ s, Canon s → Canon (after (execAutomaticExit s) s) := by intros; simp +contextual (maxDischargeDepth := 12) [execAutomaticExit, *]
@[simp] theorem sevClear_canon : ∀ s a1, Canon s → Canon (sevClear s a1) := by intros; simp +contextual (maxDischargeDepth := 12) [sevClear, *]
@[simp] theorem fcCtrl_canon : ∀ a0 s, Canon s → Canon (fcCtrl a0 s) := by intros; simp +contextual (maxDischargeDepth := 12) [fcCtrl, *]
@[simp] theorem fcCtrlW_canon : ∀ a0 a1 s, Canon s → Canon (fcCtrlW a0 a1 s) := by intros; simp +contextual (maxDischargeDepth := 12) [fcCtrlW, *]
@[simp] theorem execAck_canon : ∀ a0 a1 s, Canon s → Canon (after (execAck a0 a1 s) s) := by intros; simp +contextual (maxDischargeDepth := 12) [execAck, *]
@[simp] theorem execExit_canon : ∀ a0 a1 s, Canon s → Canon (after (execExit a0 a1 s) s) := by intros; simp +contextual (maxDischargeDepth := 12) [execExit, *]
@[simp] theorem execClrall_canon : ∀ a0 a1 s, Canon s → Canon (after (execClrall a0 a1 s) s) := by intros; simp +contextual (maxDischargeDepth := 12) [execClrall, *]
@[simp] theorem execSevClear_canon : ∀ a0 a1 a2 s, Canon s → Canon (after (execSevClear a0 a1 a2 s) s) := by intros; simp +contextual (maxDischargeDepth := 12) [execSevClear, *]
@[simp] theorem execFsCfgWrite_canon : ∀ a0 a1 a2 s, Canon s → Canon (after (execFsCfgWrite a0 a1 a2 s) s) := by intros; simp +contextual (maxDischargeDepth := 12) [execFsCfgWrite, *]
@[simp] theorem execBlkrst_canon : ∀ a0 a1 s, Canon s → Canon (after (execBlkrst a0 a1 s) s) := by intros; simp +contextual (maxDischargeDepth := 12) [execBlkrst, *]
@[simp] theorem reinitW_canon : ∀ a0 a1 s, Canon s → Canon (reinitW a0 a1 s) := by intros; simp +contextual (maxDischargeDepth := 12) [reinitW, *]
@[simp] theorem execReinit_canon : ∀ a0 a1 s, Canon s → Canon (after (execReinit a0 a1 s) s) := by intros; simp +contextual (maxDischargeDepth := 12) [execReinit, *]
@[simp] theorem reSlot_canon : ∀ s a1, Canon s → Canon (reSlot s a1) := by intros; simp only [reSlot]; (repeat' split) <;> simp +contextual (maxDischargeDepth := 12) [*]
@[simp] theorem rePop_canon : ∀ s a1, Canon s → Canon (rePop s a1) := by intros; simp only [rePop]; (repeat' split) <;> simp_all +contextual (maxDischargeDepth := 12)
@[simp] theorem reChan_canon : ∀ s a1, Canon s → Canon (reChan s a1) := by intros; simp only [reChan]; (repeat' split) <;> simp +contextual (maxDischargeDepth := 12) [*]
@[simp] theorem execReinitDone_canon : ∀ s, Canon s → Canon (after (execReinitDone s) s) := by intros; simp +contextual (maxDischargeDepth := 12) [execReinitDone, *]
@[simp] theorem execReinitTimeout_canon : ∀ s, Canon s → Canon (after (execReinitTimeout s) s) := by intros; simp +contextual (maxDischargeDepth := 12) [execReinitTimeout, *]
@[simp] theorem ztCtrlW_canon : ∀ a0 a1 s, Canon s → Canon (ztCtrlW a0 a1 s) := by intros; simp +contextual (maxDischargeDepth := 12) [ztCtrlW, *]
@[simp] theorem execFreeze_canon : ∀ a0 a1 s, Canon s → Canon (after (execFreeze a0 a1 s) s) := by intros; simp +contextual (maxDischargeDepth := 12) [execFreeze, *]
@[simp] theorem execThaw_canon : ∀ a0 a1 s, Canon s → Canon (after (execThaw a0 a1 s) s) := by intros; simp +contextual (maxDischargeDepth := 12) [execThaw, *]
@[simp] theorem ztTake_canon : ∀ s a1 a2 a3, Canon s → Canon ((ztTake s a1 a2 a3).1) := by intros; simp only [ztTake]; (repeat' split) <;> simp +contextual (maxDischargeDepth := 12) [*]
@[simp] theorem ztWordRead_canon : ∀ a0 a1 s, Canon s → Canon ((ztWordRead a0 a1 s).1) := by intros; simp +contextual (maxDischargeDepth := 12) [ztWordRead, *]
@[simp] theorem execZtWord7Read_canon : ∀ a0 a1 s, Canon s → Canon (after (execZtWord7Read a0 a1 s) s) := by intros; simp +contextual (maxDischargeDepth := 12) [execZtWord7Read, *]
@[simp] theorem execWnClr_canon : ∀ a0 a1 s, Canon s → Canon (after (execWnClr a0 a1 s) s) := by intros; simp +contextual (maxDischargeDepth := 12) [execWnClr, *]
@[simp] theorem imgStart_canon : ∀ s, Canon s → Canon (imgStart s) := by intros; simp +contextual (maxDischargeDepth := 12) [imgStart, *]
@[simp] theorem imgLoad_canon : ∀ s, Canon s → Canon (imgLoad s) := by intros; simp +contextual (maxDischargeDepth := 12) [imgLoad, *]
@[simp] theorem imgAddrSet_canon : ∀ a0 a1 s, Canon s → Canon (imgAddrSet a0 a1 s) := by intros; simp +contextual (maxDischargeDepth := 12) [imgAddrSet, *]
@[simp] theorem execImageLoad_canon : ∀ a0 a1 s, Canon s → Canon (after (execImageLoad a0 a1 s) s) := by intros; simp +contextual (maxDischargeDepth := 12) [execImageLoad, *]
@[simp] theorem lock_canon : ∀ s a1, Canon s → Canon (lock s a1) := by intros; simp +contextual (maxDischargeDepth := 12) [lock, *]
@[simp] theorem execImageLock_canon : ∀ a0 s, Canon s → Canon (after (execImageLock a0 s) s) := by intros; simp only [execImageLock]; (repeat' split) <;> simp +contextual (maxDischargeDepth := 12) [*]
@[simp] theorem imgFail_canon : ∀ s a1 a2, Canon s → Canon (imgFail s a1 a2) := by intros; simp +contextual (maxDischargeDepth := 12) [imgFail, *]
@[simp] theorem fetchError_canon : ∀ s a1, Canon s → Canon (fetchError s a1) := by intros; simp +contextual (maxDischargeDepth := 12) [fetchError, *]
@[simp] theorem execImageLoadFail_canon : ∀ a0 s, Canon s → Canon (after (execImageLoadFail a0 s) s) := by intros; simp only [execImageLoadFail]; (repeat' split) <;> simp +contextual (maxDischargeDepth := 12) [*]
@[simp] theorem fwStart_canon : ∀ s, Canon s → Canon (fwStart s) := by intros; simp +contextual (maxDischargeDepth := 12) [fwStart, *]
@[simp] theorem park_canon : ∀ s, Canon s → Canon (park s) := by intros; simp +contextual (maxDischargeDepth := 12) [park, *]
@[simp] theorem bootW_canon : ∀ a0 a1 s, Canon s → Canon (bootW a0 a1 s) := by intros; simp +contextual (maxDischargeDepth := 12) [bootW, *]
@[simp] theorem execFwload_canon : ∀ a0 a1 s, Canon s → Canon (after (execFwload a0 a1 s) s) := by intros; simp +contextual (maxDischargeDepth := 12) [execFwload, *]
@[simp] theorem execPark_canon : ∀ a0 a1 s, Canon s → Canon (after (execPark a0 a1 s) s) := by intros; simp +contextual (maxDischargeDepth := 12) [execPark, *]
@[simp] theorem fwFail_canon : ∀ s a1, Canon s → Canon (fwFail s a1) := by intros; simp +contextual (maxDischargeDepth := 12) [fwFail, *]
@[simp] theorem execFirmwareLoadDone_canon : ∀ a0 s, Canon s → Canon (after (execFirmwareLoadDone a0 s) s) := by intros; simp only [execFirmwareLoadDone]; (repeat' split) <;> simp +contextual (maxDischargeDepth := 12) [*]
@[simp] theorem execAutoloadReload_canon : ∀ s, Canon s → Canon (after (execAutoloadReload s) s) := by intros; simp +contextual (maxDischargeDepth := 12) [execAutoloadReload, *]
@[simp] theorem setRail_canon : ∀ s a1 a2, Canon s → Canon (setRail s a1 a2) := by intros; simp only [setRail]; (repeat' split) <;> simp +contextual (maxDischargeDepth := 12) [*]
@[simp] theorem execPgoodFall_canon : ∀ a0 s, Canon s → Canon (after (execPgoodFall a0 s) s) := by intros; simp +contextual (maxDischargeDepth := 12) [execPgoodFall, *]
@[simp] theorem execPgoodRise_canon : ∀ a0 s, Canon s → Canon (after (execPgoodRise a0 s) s) := by intros; simp +contextual (maxDischargeDepth := 12) [execPgoodRise, *]
@[simp] theorem wakeDue_canon : ∀ s a1, Canon s → Canon (wakeDue s a1) := by intros; simp +contextual (maxDischargeDepth := 12) [wakeDue, *]
@[simp] theorem execRailWaitEnd_canon : ∀ s, Canon s → Canon (after (execRailWaitEnd s) s) := by intros; simp +contextual (maxDischargeDepth := 12) [execRailWaitEnd, *]
@[simp] theorem coldWipe_canon : ∀ s, Canon s → Canon (coldWipe s) := by
  intro s h
  exact by constructor <;> rfl
@[simp] theorem execColdReset_canon : ∀ a0 s, Canon s → Canon (after (execColdReset a0 s) s) := by intros; simp only [execColdReset]; (repeat' split) <;> simp +contextual (maxDischargeDepth := 12) [*]
@[simp] theorem execColdResetEnd_canon : ∀ a0 s, Canon s → Canon (after (execColdResetEnd a0 s) s) := by intros; simp +contextual (maxDischargeDepth := 12) [execColdResetEnd, *]
@[simp] theorem wakeEnds_canon : ∀ s a1, Canon s → Canon (wakeEnds s a1) := by intros; simp +contextual (maxDischargeDepth := 12) [wakeEnds, *]
@[simp] theorem domainsUp_canon : ∀ s, Canon s → Canon (domainsUp s) := by intros; simp +contextual (maxDischargeDepth := 12) [domainsUp, *]
@[simp] theorem bootRom_canon : ∀ s, Canon s → Canon (bootRom s) := by intros; simp +contextual (maxDischargeDepth := 12) [bootRom, *]
@[simp] theorem resettingEnd_canon : ∀ s, Canon s → Canon (resettingEnd s) := by intros; simp +contextual (maxDischargeDepth := 12) [resettingEnd, *]
@[simp] theorem execBlockResetDone_canon : ∀ a0 a1 s, Canon s → Canon (after (execBlockResetDone a0 a1 s) s) := by intros; simp +contextual (maxDischargeDepth := 12) [execBlockResetDone, *]
@[simp] theorem execWakeN_canon : ∀ s, Canon s → Canon (after (execWakeN s) s) := by intros; simp +contextual (maxDischargeDepth := 12) [execWakeN, *]
@[simp] theorem setSb_canon : ∀ s a1, Canon s → Canon (setSb s a1) := by intros; simp +contextual (maxDischargeDepth := 12) [setSb, *]
@[simp] theorem execSidebandOffsetWrite_canon : ∀ a0 a1 s, Canon s → Canon (after (execSidebandOffsetWrite a0 a1 s) s) := by intros; simp +contextual (maxDischargeDepth := 12) [execSidebandOffsetWrite, *]
@[simp] theorem sbSample_canon : ∀ s a1, Canon s → Canon (sbSample s a1) := by intros; simp +contextual (maxDischargeDepth := 12) [sbSample, *]
@[simp] theorem sbByte_canon : ∀ s a1, Canon s → Canon (sbByte s a1) := by intros; simp +contextual (maxDischargeDepth := 12) [sbByte, *]
@[simp] theorem execSidebandRead_canon : ∀ a0 s, Canon s → Canon (after (execSidebandRead a0 s) s) := by intros; simp +contextual (maxDischargeDepth := 12) [execSidebandRead, *]
@[simp] theorem execSidebandIdxWrite_canon : ∀ a0 s, Canon s → Canon (after (execSidebandIdxWrite a0 s) s) := by intros; simp +contextual (maxDischargeDepth := 12) [execSidebandIdxWrite, *]
@[simp] theorem execSidebandWord7Read_canon : ∀ a0 s, Canon s → Canon (after (execSidebandWord7Read a0 s) s) := by intros; simp +contextual (maxDischargeDepth := 12) [execSidebandWord7Read, *]
@[simp] theorem tapLoad_canon : ∀ s a1 a2, (∀ s, Canon s → Canon (a2 s)) → Canon s → Canon (tapLoad s a1 a2) := by intros; simp +contextual (maxDischargeDepth := 12) [tapLoad, *]
@[simp] theorem tapShift_canon : ∀ s a1, Canon s → Canon (tapShift s a1) := by intros; simp +contextual (maxDischargeDepth := 12) [tapShift, *]
@[simp] theorem tapBypass_canon : ∀ s, Canon s → Canon (tapBypass s) := by intros; simp +contextual (maxDischargeDepth := 12) [tapBypass, *]
@[simp] theorem execTestLogicReset_canon : ∀ s, Canon s → Canon (after (execTestLogicReset s) s) := by intros; simp +contextual (maxDischargeDepth := 12) [execTestLogicReset, *]
@[simp] theorem execExtest_canon : ∀ a0 s, Canon s → Canon (after (execExtest a0 s) s) := by intros; simp +contextual (maxDischargeDepth := 12) [execExtest, *]
@[simp] theorem execIdcode_canon : ∀ s, Canon s → Canon (after (execIdcode s) s) := by intros; simp +contextual (maxDischargeDepth := 12) [execIdcode, *]
@[simp] theorem execSamplePreload_canon : ∀ a0 s, Canon s → Canon (after (execSamplePreload a0 s) s) := by intros; simp +contextual (maxDischargeDepth := 12) [execSamplePreload, *]
@[simp] theorem execClamp_canon : ∀ s, Canon s → Canon (after (execClamp s) s) := by intros; simp +contextual (maxDischargeDepth := 12) [execClamp, *]
@[simp] theorem execHighz_canon : ∀ s, Canon s → Canon (after (execHighz s) s) := by intros; simp +contextual (maxDischargeDepth := 12) [execHighz, *]
@[simp] theorem execBypass_canon : ∀ a0 s, Canon s → Canon (after (execBypass a0 s) s) := by intros; unfold execBypass; (repeat' split) <;> grind [after, tapLoad_canon, tapBypass_canon]
@[simp] theorem readAt_canon : ∀ s a1 a2, Canon s → Canon (readAt s a1 a2).1 := by
  intro s off ns hs
  obtain h | h | ⟨f, hf, h⟩ := readAt_cases s off ns <;> rw [h]
  · exact hs
  · simp (maxDischargeDepth := 12) [hs]
  · cases hf with
    | pure h => rw [h]; exact hs
    | tag p h => rw [h]; simp (maxDischargeDepth := 12) [hs]
    | land q h => rw [h]; simp (maxDischargeDepth := 12) [hs]
    | latch q x h => rw [h]; simp (maxDischargeDepth := 12) [hs]
    | pop q h => rw [h]; simp (maxDischargeDepth := 12) [hs]
    | zt k e h => rw [h]; simp (maxDischargeDepth := 12) [hs]
@[simp] theorem idleW_canon : ∀ s a1 a2 a3, Canon s → Canon (idleW s a1 a2 a3) := by intros; simp +contextual (maxDischargeDepth := 12) [idleW, *]
@[simp] theorem trigW_canon : ∀ s a1 a2 a3 a4 a5 (o : Host.Outcome State Fault Refusal), Canon s → Canon (after o s) → Canon s → Canon (trigW s a1 a2 a3 a4 a5 o) := by intros; simp +contextual (maxDischargeDepth := 12) [trigW, *]
@[simp] theorem globalW_canon : ∀ a0 a1 a2 s, Canon s → Canon (globalW a0 a1 a2 s) := by
  intros
  unfold globalW
  (try extract_lets)
  repeat' (with_reducible refine canon_if ?_ ?_)
  all_goals simp +zetaDelta +contextual (maxDischargeDepth := 12) [*]
@[simp] theorem secureW_canon : ∀ a0 a1 a2 s, Canon s → Canon (secureW a0 a1 a2 s) := by intros; simp +contextual (maxDischargeDepth := 12) [secureW, *]
@[simp] theorem fcCfgSet_canon : ∀ a0 s, Canon s → Canon (fcCfgSet a0 s) := by intros; simp +contextual (maxDischargeDepth := 12) [fcCfgSet, *]
@[simp] theorem collectorW_canon : ∀ a0 a1 a2 s, Canon s → Canon (collectorW a0 a1 a2 s) := by
  intro r ns v s h
  unfold collectorW
  extract_lets
  repeat' (with_reducible refine canon_if ?_ ?_)
  all_goals simp +zetaDelta +contextual (maxDischargeDepth := 12) [h]
@[simp] theorem zoetropeW_canon : ∀ a0 a1 a2 s, Canon s → Canon (zoetropeW a0 a1 a2 s) := by intros; simp +contextual (maxDischargeDepth := 12) [zoetropeW, *]
@[simp] theorem clockW_canon : ∀ a0 a1 a2 s, Canon s → Canon (clockW a0 a1 a2 s) := by
  intros
  unfold clockW
  (try extract_lets)
  repeat' (with_reducible refine canon_if ?_ ?_)
  all_goals simp +zetaDelta +contextual (maxDischargeDepth := 12) [*]
@[simp] theorem interruptW_canon : ∀ a0 a1 a2 s, Canon s → Canon (interruptW a0 a1 a2 s) := by
  intro r ns v s h
  unfold interruptW
  extract_lets
  repeat' (with_reducible refine canon_if ?_ ?_)
  all_goals simp +zetaDelta +contextual (maxDischargeDepth := 12) [h]
@[simp] theorem portW_canon : ∀ a0 a1 a2 s, Canon s → Canon (portW a0 a1 a2 s) := by intros; simp only [portW]; (repeat' split) <;> simp +contextual (maxDischargeDepth := 12) [*]
@[simp] theorem feLaSet_canon : ∀ a0 a1 s, Canon s → Canon (feLaSet a0 a1 s) := by intros; simp +contextual (maxDischargeDepth := 12) [feLaSet, *]
@[simp] theorem streamW_canon : ∀ a0 a1 a2 s, Canon s → Canon (streamW a0 a1 a2 s) := by
  intros
  unfold streamW
  (try extract_lets)
  repeat' (with_reducible refine canon_if ?_ ?_)
  all_goals simp +zetaDelta +contextual (maxDischargeDepth := 12) [*]
@[simp] theorem channelW_canon : ∀ a0 a1 a2 s, Canon s → Canon (channelW a0 a1 a2 s) := by
  intros
  unfold channelW
  (try extract_lets)
  repeat' (with_reducible refine canon_if ?_ ?_)
  all_goals simp +zetaDelta +contextual (maxDischargeDepth := 12) [*]
@[simp] theorem contextW_canon : ∀ a0 a1 a2 s, Canon s → Canon (contextW a0 a1 a2 s) := by intros; simp +contextual (maxDischargeDepth := 12) [contextW, *]
@[simp] theorem translationW_canon : ∀ a0 a1 a2 s, Canon s → Canon (translationW a0 a1 a2 s) := by
  intro r ns v s h
  unfold translationW
  extract_lets
  repeat' (with_reducible refine canon_if ?_ ?_)
  all_goals simp +zetaDelta +contextual (maxDischargeDepth := 12) [h]
@[simp] theorem windowW_canon : ∀ a0 a1 a2 s, Canon s → Canon (windowW a0 a1 a2 s) := by intros; simp +contextual (maxDischargeDepth := 12) [windowW, *]
@[simp] theorem syncW_canon : ∀ a0 a1 a2 s, Canon s → Canon (syncW a0 a1 a2 s) := by
  intros
  unfold syncW
  (try extract_lets)
  repeat' (with_reducible refine canon_if ?_ ?_)
  all_goals simp +zetaDelta +contextual (maxDischargeDepth := 12) [*]
@[simp] theorem mailboxW_canon : ∀ a0 a1 a2 s, Canon s → Canon (mailboxW a0 a1 a2 s) := by intros; simp +contextual (maxDischargeDepth := 12) [mailboxW, *]
@[simp] theorem hqStatusSet_canon : ∀ a0 a1 s, Canon s → Canon (hqStatusSet a0 a1 s) := by intros; simp +contextual (maxDischargeDepth := 12) [hqStatusSet, *]
@[simp] theorem queueW_canon : ∀ a0 a1 a2 s, Canon s → Canon (queueW a0 a1 a2 s) := by intros; simp +contextual (maxDischargeDepth := 12) [queueW, *]
@[simp] theorem ringW_canon : ∀ a0 a1 a2 s, Canon s → Canon (ringW a0 a1 a2 s) := by
  intros
  unfold ringW
  (try extract_lets)
  repeat' (with_reducible refine canon_if ?_ ?_)
  all_goals simp +zetaDelta +contextual (maxDischargeDepth := 12) [*]
@[simp] theorem kqW_canon : ∀ a0 a1 a2 s, Canon s → Canon (kqW a0 a1 a2 s) := by intros; simp +contextual (maxDischargeDepth := 12) [kqW, *]
@[simp] theorem mordantW_canon : ∀ a0 a1 a2 s, Canon s → Canon (mordantW a0 a1 a2 s) := by intros; simp +contextual (maxDischargeDepth := 12) [mordantW, *]
@[simp] theorem poolTrigSet_canon : ∀ a0 a1 s, Canon s → Canon (poolTrigSet a0 a1 s) := by intros; simp +contextual (maxDischargeDepth := 12) [poolTrigSet, *]
@[simp] theorem stageW_canon : ∀ a0 a1 a2 s, Canon s → Canon (stageW a0 a1 a2 s) := by
  intros
  unfold stageW
  (try extract_lets)
  repeat' (with_reducible refine canon_if ?_ ?_)
  all_goals simp +zetaDelta +contextual (maxDischargeDepth := 12) [*]
@[simp] theorem linkW_canon : ∀ a0 a1 a2 s, Canon s → Canon (linkW a0 a1 a2 s) := by intros; simp +contextual (maxDischargeDepth := 12) [linkW, *]
@[simp] theorem regW_canon : ∀ a0 a1 a2 s, Canon s → Canon (regW a0 a1 a2 s) := by intros; simp only [regW]; (repeat' split) <;> simp +contextual (maxDischargeDepth := 12) [*]
@[simp] theorem execRegisterWrite_canon : ∀ a0 a1 a2 s, Canon s → Canon (after (execRegisterWrite a0 a1 a2 s) s) := by intros; simp +contextual (maxDischargeDepth := 12) [execRegisterWrite, *]
@[simp] theorem mmioBeatR_canon : ∀ a0 a1 s, Canon s → Canon (mmioBeatR a0 a1 s) := by intros; simp +contextual (maxDischargeDepth := 12) [mmioBeatR, *]
@[simp] theorem unanswered_canon : ∀ a0 s, Canon s → Canon (unanswered a0 s) := by intros; simp +contextual (maxDischargeDepth := 12) [unanswered, *]
@[simp] theorem mmioBeatW_canon : ∀ a0 a1 s, Canon s → Canon (mmioBeatW a0 a1 s) := by intros; simp +contextual (maxDischargeDepth := 12) [mmioBeatW, *]
@[simp] theorem execMmioBadRequest_canon : ∀ a0 s, Canon s → Canon (after (execMmioBadRequest a0 s) s) := by intros; simp +contextual (maxDischargeDepth := 12) [execMmioBadRequest, *]

end Sys2Proof.Laws
end

