-- ==== Sys2Proof/Laws/Held.lean ====
section
/-! SUPPORT. The functions that write stage memory, wipe it or clear the image: the queue stays, the image stays or is gone, and
stage memory keeps its canonical form. -/

namespace Sys2Proof.Laws

open Sys2Proof Sys2Proof.Machine

/-- Queue kept, image kept or cleared, stage memory canonical. -/
def Held (q : List Instr) (i : Option Image) (k : List Instr × Option Image × List Host.Cell) : Prop :=
  k.1 = q ∧ (k.2.1 = i ∨ k.2.1 = none) ∧ Memory.wf k.2.2 = true
variable {q : List Instr} {i : Option Image}
theorem held_foldl {α : Type} (g : State → α → State) (h : ∀ s a, Held q i (kept s) → Held q i (kept (g s a))) (l : List α) (s : State)
    (hs : Held q i (kept s)) : Held q i (kept (l.foldl g s)) := by
  induction l generalizing s with
  | nil => exact hs
  | cons a l ih => exact ih _ (h _ _ hs)

theorem mmioW_held (s : State) (off : Nat) (ns sec : Bool) (f : State → State) (hf : ∀ s, Held q i (kept s) → Held q i (kept (f s)))
    (h : Held q i (kept s)) : Held q i (kept (mmioW s off ns sec f)) := by
  unfold mmioW
  (repeat' split)
  · exact h
  · simpa using h
  · simpa using h
  · simpa using hf _ h
theorem serve_held (s : State) (p opc : Nat) (ecc : RxEcc) (act : State → Slot → List Slot → Nat → State × Packet)
    (hf : ∀ s a b c, Held q i (kept s) → Held q i (kept (act s a b c).1)) (h : Held q i (kept s)) :
    Held q i (kept (serve s p opc ecc act)) := by
  unfold serve
  split
  · exact h
  · extract_lets a off c s1 r
    have h1 : Held q i (kept s1) := by simpa [s1] using h
    have h2 : Held q i (kept r.1) := hf _ _ _ _ h1
    (repeat' split) <;> first | exact h | simpa using h | simpa using h1 | simpa using h2
theorem response_held (s : State) (p opc : Nat) (ecc : RxEcc) (act : State → Packet → Line → State)
    (hf : ∀ s a b, Held q i (kept s) → Held q i (kept (act s a b))) (h : Held q i (kept s)) :
    Held q i (kept (response s p opc ecc act)) := by
  unfold response
  split
  · exact h
  · extract_lets a s1
    have h1 : Held q i (kept s1) := by simpa [s1] using h
    (repeat' split) <;> try first | exact hf _ _ _ h1 | (simpa using h1)
    rename_i s2 _ _ _ _ _
    have h2 : Held q i (kept s2) := by dsimp only [s2]; (repeat' split) <;> simpa using h1
    simpa using h2
@[simp] theorem stageWriteEcc_held : ∀ s a1 a2 a3 a4 a5, Held q i (kept s) → Held q i (kept (stageWriteEcc s a1 a2 a3 a4 a5)) := by
  intro s a b e n c h
  unfold stageWriteEcc
  split
  · simpa using h
  · extract_lets
    rw [eccFound_kept, grantStage_kept]
    exact ⟨h.1, h.2.1, memWrite_wf _ _ _ _ h.2.2⟩
@[simp] theorem stageWrite_held : ∀ s a1 a2 a3 a4, Held q i (kept s) → Held q i (kept (stageWrite s a1 a2 a3 a4)) := by intros; simp [stageWrite, *]
@[simp] theorem stageAdd_held : ∀ s a1 a2 a3 a4, Held q i (kept s) → Held q i (kept ((stageAdd s a1 a2 a3 a4).1)) := by intros; simp only [stageAdd]; (repeat' split) <;> simp_all
@[simp] theorem frecStore_held : ∀ s a1 a2 a3 a4, Held q i (kept s) → Held q i (kept (frecStore s a1 a2 a3 a4)) := by intros; simp only [frecStore]; (repeat' split) <;> simp_all
@[simp] theorem execFaultRecordWrite_held : ∀ a0 s, Held q i (kept s) → Held q i (kept (after (execFaultRecordWrite a0 s) s)) := by intros; simp only [execFaultRecordWrite]; (repeat' split) <;> simp_all
@[simp] theorem recordStore_held : ∀ s a1 a2 a3, Held q i (kept s) → Held q i (kept ((recordStore s a1 a2 a3).1)) := by intros; simp only [recordStore]; (repeat' split) <;> simp_all
@[simp] theorem complete_held : ∀ s a1 a2 a3 a4, Held q i (kept s) → Held q i (kept (complete s a1 a2 a3 a4)) := by intros; simp only [complete]; (repeat' split) <;> simp_all
@[simp] theorem completeRun_held : ∀ s a1 a2 a3 a4, Held q i (kept s) → Held q i (kept (completeRun s a1 a2 a3 a4)) := by intros; simp [completeRun, *]
@[simp] theorem execDescriptorComplete_held : ∀ a0 s, Held q i (kept s) → Held q i (kept (after (execDescriptorComplete a0 s) s)) := by intros; simp only [execDescriptorComplete]; (repeat' split) <;> simp_all
@[simp] theorem execCompletionRecordAck_held : ∀ a0 s, Held q i (kept s) → Held q i (kept (after (execCompletionRecordAck a0 s) s)) := by intros; simp only [execCompletionRecordAck]; (repeat' split) <;> simp_all
@[simp] theorem execCqHeadWrite_held : ∀ a0 a1 a2 s, Held q i (kept s) → Held q i (kept (after (execCqHeadWrite a0 a1 a2 s) s)) := by
  intros
  simp only [execCqHeadWrite, after_next]
  refine mmioW_held _ _ _ _ _ ?_ ‹_›
  intro s h; (repeat' split) <;> first | (apply complete_held; simpa using h) | simpa using h
@[simp] theorem performStage_held : ∀ s a1, Held q i (kept s) → Held q i (kept (performStage s a1)) := by intros; simp only [performStage]; (repeat' split) <;> simp_all
@[simp] theorem lineAck_held : ∀ s a1, Held q i (kept s) → Held q i (kept (lineAck s a1)) := by intros; simp only [lineAck]; (repeat' split) <;> simp_all
@[simp] theorem signalPerform_held : ∀ s a1, Held q i (kept s) → Held q i (kept ((signalPerform s a1).1)) := by intros; simp only [signalPerform]; (repeat' split) <;> simp_all
@[simp] theorem execSignalResponse_held : ∀ a0 a1 s, Held q i (kept s) → Held q i (kept (after (execSignalResponse a0 a1 s) s)) := by intros; simp only [execSignalResponse]; (repeat' split) <;> simp_all
@[simp] theorem execWriteAcknowledge_held : ∀ a0 s, Held q i (kept s) → Held q i (kept (after (execWriteAcknowledge a0 s) s)) := by intros; simp only [execWriteAcknowledge]; (repeat' split) <;> simp_all
@[simp] theorem inStage_held : ∀ s a1 a2 a3 a4 a5 a6, Held q i (kept s) → Held q i (kept ((inStage s a1 a2 a3 a4 a5 a6).1)) := by intros; simp only [inStage]; (repeat' split) <;> simp_all
theorem serveIn_held : ∀ s a1 t, serveIn s a1 = some t → Held q i (kept s) → Held q i (kept t) := by
  intro s r t e h
  unfold serveIn at e
  extract_lets ans at e
  (repeat' split at e) <;> first
    | (simp only [ans, reduceCtorEq, Option.some.injEq] at e; subst e; first | (simpa using h) | (rw [emit_kept]; exact inStage_held _ _ _ _ _ _ _ h))
    | cases e
@[simp] theorem drainFrom_held : ∀ n s, Held q i (kept s) → Held q i (kept (drainFrom n s)) := by
  intro n
  induction n with
  | zero => intro s h; exact h
  | succ n ih =>
    intro s h
    unfold drainFrom
    split
    · rw [kept_foldl _ (fun s a => by simp)]
      exact h
    · extract_lets _ t
      refine ih _ ?_
      have ht : Held q i (kept t) := h
      cases e : serveIn t _ with
      | none => exact ht
      | some r => exact serveIn_held _ _ _ e ht
@[simp] theorem drainIn_held : ∀ s, Held q i (kept s) → Held q i (kept (drainIn s)) := by
  intro s h
  unfold drainIn
  split
  · exact h
  · exact drainFrom_held _ _ h
@[simp] theorem idleStep_held : ∀ s, Held q i (kept s) → Held q i (kept (idleStep s)) := by intros; simp [idleStep, *]
@[simp] theorem acceptIn_held : ∀ s a1, Held q i (kept s) → Held q i (kept (acceptIn s a1)) := by
  intro s r h
  exact drainIn_held _ h
@[simp] theorem execStageInboundRequest_held : ∀ a0 a1 a2 s, Held q i (kept s) → Held q i (kept (after (execStageInboundRequest a0 a1 a2 s) s)) := by intros; simp only [execStageInboundRequest]; (repeat' split) <;> simp_all
@[simp] theorem execCoreInboundRequest_held : ∀ a0 a1 a2 s, Held q i (kept s) → Held q i (kept (after (execCoreInboundRequest a0 a1 a2 s) s)) := by intros; simp only [execCoreInboundRequest]; (repeat' split) <;> simp_all
@[simp] theorem execSaltMigrationDone_held : ∀ a0 a1 s, Held q i (kept s) → Held q i (kept (after (execSaltMigrationDone a0 a1 s) s)) := by intros; simp only [execSaltMigrationDone]; (repeat' split) <;> simp_all
@[simp] theorem execCoreReadyChange_held : ∀ a0 a1 s, Held q i (kept s) → Held q i (kept (after (execCoreReadyChange a0 a1 s) s)) := by
  intro n l s h
  unfold execCoreReadyChange
  extract_lets s1 ls
  split
  · exact drainIn_held _ h
  · exact held_foldl _ (fun s l h => by simpa using h) _ _ h
@[simp] theorem serveAdd_held : ∀ a0 a1 s a3 a4 a5, Held q i (kept s) → Held q i (kept ((serveAdd a0 a1 s a3 a4 a5).1)) := by intros; simp only [serveAdd]; (repeat' split) <;> simp_all
@[simp] theorem execWrreq_held : ∀ a0 a1 s, Held q i (kept s) → Held q i (kept (after (execWrreq a0 a1 s) s)) := by
  intro p e s h
  unfold execWrreq
  rw [after_next]
  refine serve_held _ _ _ _ _ ?_ h
  intro s a b o h
  simp only []
  apply stageWrite_held
  exact h
@[simp] theorem execWrpart_held : ∀ a0 a1 s, Held q i (kept s) → Held q i (kept (after (execWrpart a0 a1 s) s)) := by
  intro p e s h
  unfold execWrpart
  rw [after_next]
  refine serve_held _ _ _ _ _ ?_ h
  intro s a b o h
  simp only []
  apply stageWrite_held
  exact h
@[simp] theorem execAdd32_held : ∀ a0 a1 a2 s, Held q i (kept s) → Held q i (kept (after (execAdd32 a0 a1 a2 s) s)) := by
  intro p e b s h
  exact serve_held _ _ _ _ _ (fun s x l o h => serveAdd_held _ _ _ _ _ _ h) h
@[simp] theorem execAdd64_held : ∀ a0 a1 a2 s, Held q i (kept s) → Held q i (kept (after (execAdd64 a0 a1 a2 s) s)) := by
  intro p e b s h
  exact serve_held _ _ _ _ _ (fun s x l o h => serveAdd_held _ _ _ _ _ _ h) h
@[simp] theorem remoteAck_held : ∀ s a1, Held q i (kept s) → Held q i (kept (remoteAck s a1)) := by intros; simp only [remoteAck]; (repeat' split) <;> simp_all
@[simp] theorem execWrack_held : ∀ a0 a1 s, Held q i (kept s) → Held q i (kept (after (execWrack a0 a1 s) s)) := by
  intro p e s h
  unfold execWrack
  rw [after_next]
  exact response_held _ _ _ _ _ (fun s a l h => remoteAck_held s l h) h
@[simp] theorem execAddrsp_held : ∀ a0 a1 s, Held q i (kept s) → Held q i (kept (after (execAddrsp a0 a1 s) s)) := by
  intro p e s h
  unfold execAddrsp
  rw [after_next]
  exact response_held _ _ _ _ _ (fun s a l h => remoteAck_held s l h) h
@[simp] theorem areaStore_held : ∀ s a1 a2 a3, Held q i (kept s) → Held q i (kept (areaStore s a1 a2 a3)) := by
  intro s a b e h
  unfold areaStore
  refine held_foldl _ ?_ _ _ h
  intro s a hs
  (repeat' split) <;> simp_all
@[simp] theorem endDesc_held : ∀ s a1 a2 a3, Held q i (kept s) → Held q i (kept (endDesc s a1 a2 a3)) := by intros; simp only [endDesc]; (repeat' split) <;> simp_all
@[simp] theorem ctxEnd_held : ∀ s a1 a2 a3, Held q i (kept s) → Held q i (kept (ctxEnd s a1 a2 a3)) := by
  intro s a b e h
  unfold ctxEnd
  rw [ctxRun_kept]
  exact held_foldl _ (fun s a hs => endDesc_held _ _ _ _ hs) _ _ h
@[simp] theorem killEnd_held : ∀ s a1, Held q i (kept s) → Held q i (kept (killEnd s a1)) := by intros; simp [killEnd, *]
@[simp] theorem switchOut_held : ∀ s a1, Held q i (kept s) → Held q i (kept (switchOut s a1)) := by intros; simp [switchOut, *]
@[simp] theorem execContextOut_held : ∀ a0 s, Held q i (kept s) → Held q i (kept (after (execContextOut a0 s) s)) := by intros; simp only [execContextOut]; (repeat' split) <;> simp_all
@[simp] theorem execContextRestored_held : ∀ a0 a1 s, Held q i (kept s) → Held q i (kept (after (execContextRestored a0 a1 s) s)) := by intros; simp only [execContextRestored]; (repeat' split) <;> simp_all
@[simp] theorem doAbort_held : ∀ s a1, Held q i (kept s) → Held q i (kept (doAbort s a1)) := by intros; simp [doAbort, *]
@[simp] theorem doKill_held : ∀ s a1, Held q i (kept s) → Held q i (kept (doKill s a1)) := by intros; simp only [doKill]; (repeat' split) <;> simp_all
@[simp] theorem ctxCtrl_held : ∀ a0 a1 s, Held q i (kept s) → Held q i (kept (ctxCtrl a0 a1 s)) := by
  intro x v s h
  unfold ctxCtrl
  extract_lets st b s1 s2
  split
  · exact doKill_held _ _ h
  · rw [kept_iter _ (fun s => by simp)]
    have h1 : Held q i (kept s1) := by simp only [s1]; split <;> simpa using h
    simp only [s2]
    (repeat' split)
    · exact doAbort_held _ _ h1
    · simpa using h1
    · exact h1
@[simp] theorem ctxCtrlW_held : ∀ a0 a1 a2 s, Held q i (kept s) → Held q i (kept (ctxCtrlW a0 a1 a2 s)) := by
  intro x ns v s h
  exact mmioW_held _ _ _ _ _ (fun s h => ctxCtrl_held _ _ _ h) h
@[simp] theorem execSuspend_held : ∀ a0 a1 a2 s, Held q i (kept s) → Held q i (kept (after (execSuspend a0 a1 a2 s) s)) := by intros; simp [execSuspend, *]
@[simp] theorem execResume_held : ∀ a0 a1 a2 s, Held q i (kept s) → Held q i (kept (after (execResume a0 a1 a2 s) s)) := by intros; simp [execResume, *]
@[simp] theorem execAbort_held : ∀ a0 a1 a2 s, Held q i (kept s) → Held q i (kept (after (execAbort a0 a1 a2 s) s)) := by intros; simp [execAbort, *]
@[simp] theorem execKill_held : ∀ a0 a1 a2 s, Held q i (kept s) → Held q i (kept (after (execKill a0 a1 a2 s) s)) := by intros; simp [execKill, *]
@[simp] theorem blockWipe_held : ∀ s, Held q i (kept s) → Held q i (kept (blockWipe s)) := by
  intro s h
  refine ⟨h.1, Or.inr rfl, rfl⟩
@[simp] theorem beginReset_held : ∀ s a1, Held q i (kept s) → Held q i (kept (beginReset s a1)) := by intros; simp only [beginReset]; (repeat' split) <;> simp_all
@[simp] theorem safeEnter_held : ∀ s, Held q i (kept s) → Held q i (kept (safeEnter s)) := by
  intro s h
  unfold safeEnter
  simp only [setFc_kept]
  refine held_foldl _ (fun s a hs => by simpa using hs) _ _ ?_
  have h2 : Held q i (kept ((tkeys ((tkeys (inboundError s).links).foldl (fun s p => linkTo s p .off) (inboundError s)).chans).foldl chanLoss
      ((tkeys (inboundError s).links).foldl (fun s p => linkTo s p .off) (inboundError s)))) := by simpa using h
  exact ⟨h2.1, h2.2.1, rfl⟩
@[simp] theorem severe_held : ∀ s a1, Held q i (kept s) → Held q i (kept (severe s a1)) := by intros; simp only [severe]; (repeat' split) <;> simp_all
@[simp] theorem collect_held : ∀ s a1, Held q i (kept s) → Held q i (kept (collect s a1)) := by intros; simp [collect, *]
@[simp] theorem execFaultEvent_held : ∀ a0 s, Held q i (kept s) → Held q i (kept (after (execFaultEvent a0 s) s)) := by
  intro l s h
  unfold execFaultEvent
  (repeat' split)
  · exact h
  · exact h
  · exact collect_held _ _ h
@[simp] theorem execCollectorParityError_held : ∀ a0 s, Held q i (kept s) → Held q i (kept (after (execCollectorParityError a0 s) s)) := by intros; simp only [execCollectorParityError]; (repeat' split) <;> simp_all
@[simp] theorem execEscalationExpire_held : ∀ s, Held q i (kept s) → Held q i (kept (after (execEscalationExpire s) s)) := by intros; simp only [execEscalationExpire]; (repeat' split) <;> simp_all
@[simp] theorem fcExit_held : ∀ s a1, Held q i (kept s) → Held q i (kept (fcExit s a1)) := by intros; simp [fcExit, *]
@[simp] theorem execAutomaticExit_held : ∀ s, Held q i (kept s) → Held q i (kept (after (execAutomaticExit s) s)) := by intros; simp only [execAutomaticExit]; (repeat' split) <;> simp_all
@[simp] theorem fcCtrl_held : ∀ a0 s, Held q i (kept s) → Held q i (kept (fcCtrl a0 s)) := by intros; simp only [fcCtrl]; (repeat' split) <;> simp_all
@[simp] theorem fcCtrlW_held : ∀ a0 a1 s, Held q i (kept s) → Held q i (kept (fcCtrlW a0 a1 s)) := by
  intro ns v s h
  exact mmioW_held _ _ _ _ _ (fun s h => fcCtrl_held _ _ h) h
@[simp] theorem execAck_held : ∀ a0 a1 s, Held q i (kept s) → Held q i (kept (after (execAck a0 a1 s) s)) := by intros; simp [execAck, *]
@[simp] theorem execExit_held : ∀ a0 a1 s, Held q i (kept s) → Held q i (kept (after (execExit a0 a1 s) s)) := by intros; simp [execExit, *]
@[simp] theorem execClrall_held : ∀ a0 a1 s, Held q i (kept s) → Held q i (kept (after (execClrall a0 a1 s) s)) := by intros; simp [execClrall, *]
@[simp] theorem execBlkrst_held : ∀ a0 a1 s, Held q i (kept s) → Held q i (kept (after (execBlkrst a0 a1 s) s)) := by
  intros
  simp only [execBlkrst, after_next]
  refine mmioW_held _ _ _ _ _ ?_ ‹_›
  intro s h; split
  · apply beginReset_held; simpa using h
  · exact h
@[simp] theorem park_held : ∀ s, Held q i (kept s) → Held q i (kept (park s)) := by intros; simp only [park]; (repeat' split) <;> simp_all
@[simp] theorem bootW_held : ∀ a0 a1 s, Held q i (kept s) → Held q i (kept (bootW a0 a1 s)) := by
  intro ns v s h
  unfold bootW
  extract_lets s1
  refine mmioW_held _ _ _ _ _ ?_ ?_
  · intro s h
    (repeat' split)
    · exact park_held _ h
    · simpa using h
    · exact h
  · simp only [s1]; split <;> simpa using h
@[simp] theorem execFwload_held : ∀ a0 a1 s, Held q i (kept s) → Held q i (kept (after (execFwload a0 a1 s) s)) := by intros; simp [execFwload, *]
@[simp] theorem execPark_held : ∀ a0 a1 s, Held q i (kept s) → Held q i (kept (after (execPark a0 a1 s) s)) := by intros; simp [execPark, *]
@[simp] theorem coldWipe_held : ∀ s, Held q i (kept s) → Held q i (kept (coldWipe s)) := by
  intro s h
  refine ⟨h.1, Or.inr rfl, rfl⟩
@[simp] theorem execColdReset_held : ∀ a0 s, Held q i (kept s) → Held q i (kept (after (execColdReset a0 s) s)) := by
  intro c s h
  unfold execColdReset
  cases c <;> exact ⟨h.1, Or.inr rfl, rfl⟩
@[simp] theorem resettingEnd_held : ∀ s, Held q i (kept s) → Held q i (kept (resettingEnd s)) := by intros; simp only [resettingEnd]; (repeat' split) <;> simp_all
@[simp] theorem execBlockResetDone_held : ∀ a0 a1 s, Held q i (kept s) → Held q i (kept (after (execBlockResetDone a0 a1 s) s)) := by intros; simp only [execBlockResetDone]; (repeat' split) <;> simp_all
@[simp] theorem globalW_held : ∀ a0 a1 a2 s, Held q i (kept s) → Held q i (kept (globalW a0 a1 a2 s)) := by
  intro a ns v s h
  unfold globalW
  split
  · rw [mmioW_kept _ _ _ _ _ (by simp)]; exact h
  split
  · rw [mmioW_kept _ _ _ _ _ (by simp)]; exact h
  split
  · rw [trigW_kept _ _ _ _ _ _ _ (by simp)]; exact h
  split
  · exact bootW_held _ _ _ h
  split
  · exact mmioW_held _ _ _ _ _ (fun s h => h) h
  · simpa using h
@[simp] theorem collectorW_held : ∀ a0 a1 a2 s, Held q i (kept s) → Held q i (kept (collectorW a0 a1 a2 s)) := by intros; simp only [collectorW]; (repeat' split) <;> simp_all
@[simp] theorem channelW_held : ∀ a0 a1 a2 s, Held q i (kept s) → Held q i (kept (channelW a0 a1 a2 s)) := by intros; simp only [channelW]; (repeat' split) <;> simp_all
@[simp] theorem contextW_held : ∀ a0 a1 a2 s, Held q i (kept s) → Held q i (kept (contextW a0 a1 a2 s)) := by intros; simp only [contextW]; (repeat' split) <;> simp_all
@[simp] theorem regW_held : ∀ a0 a1 a2 s, Held q i (kept s) → Held q i (kept (regW a0 a1 a2 s)) := by intros; simp only [regW]; (repeat' split) <;> simp_all
@[simp] theorem execRegisterWrite_held : ∀ a0 a1 a2 s, Held q i (kept s) → Held q i (kept (after (execRegisterWrite a0 a1 a2 s) s)) := by intros; simp only [execRegisterWrite]; (repeat' split) <;> simp_all
@[simp] theorem mmioBeatW_held : ∀ a0 a1 s, Held q i (kept s) → Held q i (kept (mmioBeatW a0 a1 s)) := by
  intro r off s h
  unfold mmioBeatW
  extract_lets k a a' b
  have ha : Held q i (kept a) := regW_held _ _ _ _ h
  split
  · exact ha
  · have ha' : Held q i (kept a') := by rw [unanswered_kept]; exact ha
    have hb : Held q i (kept b) := by rw [unanswered_kept]; exact regW_held _ _ _ _ ha'
    rw [emit_kept]
    exact hb
@[simp] theorem execMmioBadRequest_held : ∀ a0 s, Held q i (kept s) → Held q i (kept (after (execMmioBadRequest a0 s) s)) := by intros; simp only [execMmioBadRequest]; (repeat' split) <;> simp_all

/-- Locking an image keeps the queue and stage memory. -/
theorem lock_keeps (s : State) (m : Image) : (kept (lock s m)).1 = s.pending ∧ (kept (lock s m)).2.2 = s.stage.mem := by
  unfold lock
  rw [kept_foldl _ (fun s a => by simp), kept_foldl _ (fun s a => by split <;> simp)]
  simp only [pendSrc_kept, zlog_kept]
  exact ⟨rfl, rfl⟩

/-- IMAGE_LOCK keeps the queue and stage memory. -/
theorem execImageLock_keeps (a : List Byte) (s : State) : (kept (after (execImageLock a s) s)).1 = s.pending ∧
    (kept (after (execImageLock a s) s)).2.2 = s.stage.mem := by
  unfold execImageLock
  split
  · exact ⟨rfl, rfl⟩
  · generalize checkImage s.boot.keyhash s.boot.minsvn a = r
    cases r
    · simp only [after_next]; exact ⟨rfl, rfl⟩
    · rename_i m
      have h := lock_keeps (ownDone s .image) m
      have k := ownDone_kept s .image
      simp only [kept, Prod.mk.injEq] at k
      exact ⟨h.1.trans k.1, h.2.trans k.2.2⟩

end Sys2Proof.Laws
end

