-- ==== Sys2Proof/Laws/State.lean ====
section
/-! SUPPORT. One lemma per field and update: what each replacement of a record leaves unchanged in the state, and what the
accessor of a replicated block reads after it (in a state whose tables are canonical, `Canon`). -/

namespace Sys2Proof.Laws

open Sys2Proof Sys2Proof.Machine

/-! ### setChan -/

@[simp] theorem setChan_pending (s c x) : (setChan s c x).pending = s.pending := rfl
@[simp] theorem setChan_boot (s c x) : (setChan s c x).boot = s.boot := rfl
@[simp] theorem setChan_img (s c x) : (setChan s c x).img = s.img := rfl
@[simp] theorem setChan_pins (s c x) : (setChan s c x).pins = s.pins := rfl
@[simp] theorem setChan_ctxs (s c x) : (setChan s c x).ctxs = s.ctxs := rfl
@[simp] theorem setChan_path (s c x) : (setChan s c x).path = s.path := rfl
@[simp] theorem setChan_stage (s c x) : (setChan s c x).stage = s.stage := rfl
@[simp] theorem setChan_hub (s c x) : (setChan s c x).hub = s.hub := rfl
@[simp] theorem setChan_xl (s c x) : (setChan s c x).xl = s.xl := rfl
@[simp] theorem setChan_ports (s c x) : (setChan s c x).ports = s.ports := rfl
@[simp] theorem setChan_links (s c x) : (setChan s c x).links = s.links := rfl
@[simp] theorem setChan_clk (s c x) : (setChan s c x).clk = s.clk := rfl
@[simp] theorem setChan_aon (s c x) : (setChan s c x).aon = s.aon := rfl
@[simp] theorem setChan_out (s c x) : (setChan s c x).out = s.out := rfl
@[simp] theorem setChan_fresh (s c x) : (setChan s c x).fresh = s.fresh := rfl
@[simp] theorem setChan_order (s c x) : (setChan s c x).order = s.order := rfl
theorem chan_setChan_self {s : State} (h : Canon s) (c x) : chan (setChan s c x) c = x := tget_tset_self _ _ h.chans
theorem chan_setChan_other {s : State} (h : Canon s) (c x) {k} (hk : k ≠ c) : chan (setChan s c x) k = chan s k :=
  tget_tset_other _ _ h.chans hk

/-! ### setCtx -/

@[simp] theorem setCtx_pending (s c x) : (setCtx s c x).pending = s.pending := rfl
@[simp] theorem setCtx_boot (s c x) : (setCtx s c x).boot = s.boot := rfl
@[simp] theorem setCtx_img (s c x) : (setCtx s c x).img = s.img := rfl
@[simp] theorem setCtx_pins (s c x) : (setCtx s c x).pins = s.pins := rfl
@[simp] theorem setCtx_chans (s c x) : (setCtx s c x).chans = s.chans := rfl
@[simp] theorem setCtx_path (s c x) : (setCtx s c x).path = s.path := rfl
@[simp] theorem setCtx_stage (s c x) : (setCtx s c x).stage = s.stage := rfl
@[simp] theorem setCtx_hub (s c x) : (setCtx s c x).hub = s.hub := rfl
@[simp] theorem setCtx_xl (s c x) : (setCtx s c x).xl = s.xl := rfl
@[simp] theorem setCtx_ports (s c x) : (setCtx s c x).ports = s.ports := rfl
@[simp] theorem setCtx_links (s c x) : (setCtx s c x).links = s.links := rfl
@[simp] theorem setCtx_clk (s c x) : (setCtx s c x).clk = s.clk := rfl
@[simp] theorem setCtx_aon (s c x) : (setCtx s c x).aon = s.aon := rfl
@[simp] theorem setCtx_out (s c x) : (setCtx s c x).out = s.out := rfl
@[simp] theorem setCtx_fresh (s c x) : (setCtx s c x).fresh = s.fresh := rfl
@[simp] theorem setCtx_order (s c x) : (setCtx s c x).order = s.order := rfl
theorem ctx_setCtx_self {s : State} (h : Canon s) (c x) : ctx (setCtx s c x) c = x := tget_tset_self _ _ h.ctxs
theorem ctx_setCtx_other {s : State} (h : Canon s) (c x) {k} (hk : k ≠ c) : ctx (setCtx s c x) k = ctx s k :=
  tget_tset_other _ _ h.ctxs hk

/-! ### setLink -/

@[simp] theorem setLink_pending (s p x) : (setLink s p x).pending = s.pending := rfl
@[simp] theorem setLink_boot (s p x) : (setLink s p x).boot = s.boot := rfl
@[simp] theorem setLink_img (s p x) : (setLink s p x).img = s.img := rfl
@[simp] theorem setLink_pins (s p x) : (setLink s p x).pins = s.pins := rfl
@[simp] theorem setLink_chans (s p x) : (setLink s p x).chans = s.chans := rfl
@[simp] theorem setLink_ctxs (s p x) : (setLink s p x).ctxs = s.ctxs := rfl
@[simp] theorem setLink_path (s p x) : (setLink s p x).path = s.path := rfl
@[simp] theorem setLink_stage (s p x) : (setLink s p x).stage = s.stage := rfl
@[simp] theorem setLink_hub (s p x) : (setLink s p x).hub = s.hub := rfl
@[simp] theorem setLink_xl (s p x) : (setLink s p x).xl = s.xl := rfl
@[simp] theorem setLink_ports (s p x) : (setLink s p x).ports = s.ports := rfl
@[simp] theorem setLink_clk (s p x) : (setLink s p x).clk = s.clk := rfl
@[simp] theorem setLink_aon (s p x) : (setLink s p x).aon = s.aon := rfl
@[simp] theorem setLink_out (s p x) : (setLink s p x).out = s.out := rfl
@[simp] theorem setLink_fresh (s p x) : (setLink s p x).fresh = s.fresh := rfl
@[simp] theorem setLink_order (s p x) : (setLink s p x).order = s.order := rfl
theorem link_setLink_self {s : State} (h : Canon s) (p x) : link (setLink s p x) p = x := tget_tset_self _ _ h.links
theorem link_setLink_other {s : State} (h : Canon s) (p x) {k} (hk : k ≠ p) : link (setLink s p x) k = link s k :=
  tget_tset_other _ _ h.links hk

/-! ### setIsl -/

@[simp] theorem setIsl_pending (s i x) : (setIsl s i x).pending = s.pending := rfl
@[simp] theorem setIsl_boot (s i x) : (setIsl s i x).boot = s.boot := rfl
@[simp] theorem setIsl_img (s i x) : (setIsl s i x).img = s.img := rfl
@[simp] theorem setIsl_pins (s i x) : (setIsl s i x).pins = s.pins := rfl
@[simp] theorem setIsl_chans (s i x) : (setIsl s i x).chans = s.chans := rfl
@[simp] theorem setIsl_ctxs (s i x) : (setIsl s i x).ctxs = s.ctxs := rfl
@[simp] theorem setIsl_path (s i x) : (setIsl s i x).path = s.path := rfl
@[simp] theorem setIsl_stage (s i x) : (setIsl s i x).stage = s.stage := rfl
@[simp] theorem setIsl_hub (s i x) : (setIsl s i x).hub = s.hub := rfl
@[simp] theorem setIsl_xl (s i x) : (setIsl s i x).xl = s.xl := rfl
@[simp] theorem setIsl_ports (s i x) : (setIsl s i x).ports = s.ports := rfl
@[simp] theorem setIsl_links (s i x) : (setIsl s i x).links = s.links := rfl
@[simp] theorem setIsl_aon (s i x) : (setIsl s i x).aon = s.aon := rfl
@[simp] theorem setIsl_out (s i x) : (setIsl s i x).out = s.out := rfl
@[simp] theorem setIsl_fresh (s i x) : (setIsl s i x).fresh = s.fresh := rfl
@[simp] theorem setIsl_order (s i x) : (setIsl s i x).order = s.order := rfl
@[simp] theorem setIsl_clk_settle (s i x) : (setIsl s i x).clk.settle = s.clk.settle := rfl
@[simp] theorem setIsl_clk_settling (s i x) : (setIsl s i x).clk.settling = s.clk.settling := rfl
@[simp] theorem setIsl_clk_req (s i x) : (setIsl s i x).clk.req = s.clk.req := rfl
@[simp] theorem setIsl_clk_maxwake (s i x) : (setIsl s i x).clk.maxwake = s.clk.maxwake := rfl
@[simp] theorem setIsl_clk_tlim (s i x) : (setIsl s i x).clk.tlim = s.clk.tlim := rfl
@[simp] theorem setIsl_clk_temp (s i x) : (setIsl s i x).clk.temp = s.clk.temp := rfl
@[simp] theorem setIsl_clk_throttle (s i x) : (setIsl s i x).clk.throttle = s.clk.throttle := rfl
@[simp] theorem setIsl_clk_wakeq (s i x) : (setIsl s i x).clk.wakeq = s.clk.wakeq := rfl
theorem isl_setIsl_self {s : State} (h : Canon s) (i x) : isl (setIsl s i x) i = x := tget_tset_self _ _ h.isl
theorem isl_setIsl_other {s : State} (h : Canon s) (i x) {k} (hk : k ≠ i) : isl (setIsl s i x) k = isl s k :=
  tget_tset_other _ _ h.isl hk

/-! ### setRing -/

@[simp] theorem setRing_pending (s r x) : (setRing s r x).pending = s.pending := rfl
@[simp] theorem setRing_boot (s r x) : (setRing s r x).boot = s.boot := rfl
@[simp] theorem setRing_img (s r x) : (setRing s r x).img = s.img := rfl
@[simp] theorem setRing_pins (s r x) : (setRing s r x).pins = s.pins := rfl
@[simp] theorem setRing_chans (s r x) : (setRing s r x).chans = s.chans := rfl
@[simp] theorem setRing_ctxs (s r x) : (setRing s r x).ctxs = s.ctxs := rfl
@[simp] theorem setRing_path (s r x) : (setRing s r x).path = s.path := rfl
@[simp] theorem setRing_stage (s r x) : (setRing s r x).stage = s.stage := rfl
@[simp] theorem setRing_xl (s r x) : (setRing s r x).xl = s.xl := rfl
@[simp] theorem setRing_ports (s r x) : (setRing s r x).ports = s.ports := rfl
@[simp] theorem setRing_links (s r x) : (setRing s r x).links = s.links := rfl
@[simp] theorem setRing_clk (s r x) : (setRing s r x).clk = s.clk := rfl
@[simp] theorem setRing_aon (s r x) : (setRing s r x).aon = s.aon := rfl
@[simp] theorem setRing_out (s r x) : (setRing s r x).out = s.out := rfl
@[simp] theorem setRing_fresh (s r x) : (setRing s r x).fresh = s.fresh := rfl
@[simp] theorem setRing_order (s r x) : (setRing s r x).order = s.order := rfl
@[simp] theorem setRing_hub_hqs (s r x) : (setRing s r x).hub.hqs = s.hub.hqs := rfl
@[simp] theorem setRing_hub_bars (s r x) : (setRing s r x).hub.bars = s.hub.bars := rfl
@[simp] theorem setRing_hub_mbs (s r x) : (setRing s r x).hub.mbs = s.hub.mbs := rfl
@[simp] theorem setRing_hub_barSel (s r x) : (setRing s r x).hub.barSel = s.hub.barSel := rfl
@[simp] theorem setRing_hub_arrRes (s r x) : (setRing s r x).hub.arrRes = s.hub.arrRes := rfl
@[simp] theorem setRing_hub_arrBusy (s r x) : (setRing s r x).hub.arrBusy = s.hub.arrBusy := rfl
@[simp] theorem setRing_hub_arrPm1 (s r x) : (setRing s r x).hub.arrPm1 = s.hub.arrPm1 := rfl
@[simp] theorem setRing_hub_arrObj (s r x) : (setRing s r x).hub.arrObj = s.hub.arrObj := rfl
@[simp] theorem setRing_hub_dumpAddr (s r x) : (setRing s r x).hub.dumpAddr = s.hub.dumpAddr := rfl
@[simp] theorem setRing_hub_dumpGo (s r x) : (setRing s r x).hub.dumpGo = s.hub.dumpGo := rfl
theorem ring_setRing_self {s : State} (h : Canon s) (r x) : ring (setRing s r x) r = x := tget_tset_self _ _ h.rings
theorem ring_setRing_other {s : State} (h : Canon s) (r x) {k} (hk : k ≠ r) : ring (setRing s r x) k = ring s k :=
  tget_tset_other _ _ h.rings hk

/-! ### setHq -/

@[simp] theorem setHq_pending (s q x) : (setHq s q x).pending = s.pending := rfl
@[simp] theorem setHq_boot (s q x) : (setHq s q x).boot = s.boot := rfl
@[simp] theorem setHq_img (s q x) : (setHq s q x).img = s.img := rfl
@[simp] theorem setHq_pins (s q x) : (setHq s q x).pins = s.pins := rfl
@[simp] theorem setHq_chans (s q x) : (setHq s q x).chans = s.chans := rfl
@[simp] theorem setHq_ctxs (s q x) : (setHq s q x).ctxs = s.ctxs := rfl
@[simp] theorem setHq_path (s q x) : (setHq s q x).path = s.path := rfl
@[simp] theorem setHq_stage (s q x) : (setHq s q x).stage = s.stage := rfl
@[simp] theorem setHq_xl (s q x) : (setHq s q x).xl = s.xl := rfl
@[simp] theorem setHq_ports (s q x) : (setHq s q x).ports = s.ports := rfl
@[simp] theorem setHq_links (s q x) : (setHq s q x).links = s.links := rfl
@[simp] theorem setHq_clk (s q x) : (setHq s q x).clk = s.clk := rfl
@[simp] theorem setHq_aon (s q x) : (setHq s q x).aon = s.aon := rfl
@[simp] theorem setHq_out (s q x) : (setHq s q x).out = s.out := rfl
@[simp] theorem setHq_fresh (s q x) : (setHq s q x).fresh = s.fresh := rfl
@[simp] theorem setHq_order (s q x) : (setHq s q x).order = s.order := rfl
@[simp] theorem setHq_hub_rings (s q x) : (setHq s q x).hub.rings = s.hub.rings := rfl
@[simp] theorem setHq_hub_bars (s q x) : (setHq s q x).hub.bars = s.hub.bars := rfl
@[simp] theorem setHq_hub_mbs (s q x) : (setHq s q x).hub.mbs = s.hub.mbs := rfl
@[simp] theorem setHq_hub_barSel (s q x) : (setHq s q x).hub.barSel = s.hub.barSel := rfl
@[simp] theorem setHq_hub_arrRes (s q x) : (setHq s q x).hub.arrRes = s.hub.arrRes := rfl
@[simp] theorem setHq_hub_arrBusy (s q x) : (setHq s q x).hub.arrBusy = s.hub.arrBusy := rfl
@[simp] theorem setHq_hub_arrPm1 (s q x) : (setHq s q x).hub.arrPm1 = s.hub.arrPm1 := rfl
@[simp] theorem setHq_hub_arrObj (s q x) : (setHq s q x).hub.arrObj = s.hub.arrObj := rfl
@[simp] theorem setHq_hub_dumpAddr (s q x) : (setHq s q x).hub.dumpAddr = s.hub.dumpAddr := rfl
@[simp] theorem setHq_hub_dumpGo (s q x) : (setHq s q x).hub.dumpGo = s.hub.dumpGo := rfl
theorem hq_setHq_self {s : State} (h : Canon s) (q x) : hq (setHq s q x) q = x := tget_tset_self _ _ h.hqs
theorem hq_setHq_other {s : State} (h : Canon s) (q x) {k} (hk : k ≠ q) : hq (setHq s q x) k = hq s k :=
  tget_tset_other _ _ h.hqs hk

/-! ### setBar -/

@[simp] theorem setBar_pending (s o x) : (setBar s o x).pending = s.pending := rfl
@[simp] theorem setBar_boot (s o x) : (setBar s o x).boot = s.boot := rfl
@[simp] theorem setBar_img (s o x) : (setBar s o x).img = s.img := rfl
@[simp] theorem setBar_pins (s o x) : (setBar s o x).pins = s.pins := rfl
@[simp] theorem setBar_chans (s o x) : (setBar s o x).chans = s.chans := rfl
@[simp] theorem setBar_ctxs (s o x) : (setBar s o x).ctxs = s.ctxs := rfl
@[simp] theorem setBar_path (s o x) : (setBar s o x).path = s.path := rfl
@[simp] theorem setBar_stage (s o x) : (setBar s o x).stage = s.stage := rfl
@[simp] theorem setBar_xl (s o x) : (setBar s o x).xl = s.xl := rfl
@[simp] theorem setBar_ports (s o x) : (setBar s o x).ports = s.ports := rfl
@[simp] theorem setBar_links (s o x) : (setBar s o x).links = s.links := rfl
@[simp] theorem setBar_clk (s o x) : (setBar s o x).clk = s.clk := rfl
@[simp] theorem setBar_aon (s o x) : (setBar s o x).aon = s.aon := rfl
@[simp] theorem setBar_out (s o x) : (setBar s o x).out = s.out := rfl
@[simp] theorem setBar_fresh (s o x) : (setBar s o x).fresh = s.fresh := rfl
@[simp] theorem setBar_order (s o x) : (setBar s o x).order = s.order := rfl
@[simp] theorem setBar_hub_rings (s o x) : (setBar s o x).hub.rings = s.hub.rings := rfl
@[simp] theorem setBar_hub_hqs (s o x) : (setBar s o x).hub.hqs = s.hub.hqs := rfl
@[simp] theorem setBar_hub_mbs (s o x) : (setBar s o x).hub.mbs = s.hub.mbs := rfl
@[simp] theorem setBar_hub_barSel (s o x) : (setBar s o x).hub.barSel = s.hub.barSel := rfl
@[simp] theorem setBar_hub_arrRes (s o x) : (setBar s o x).hub.arrRes = s.hub.arrRes := rfl
@[simp] theorem setBar_hub_arrBusy (s o x) : (setBar s o x).hub.arrBusy = s.hub.arrBusy := rfl
@[simp] theorem setBar_hub_arrPm1 (s o x) : (setBar s o x).hub.arrPm1 = s.hub.arrPm1 := rfl
@[simp] theorem setBar_hub_arrObj (s o x) : (setBar s o x).hub.arrObj = s.hub.arrObj := rfl
@[simp] theorem setBar_hub_dumpAddr (s o x) : (setBar s o x).hub.dumpAddr = s.hub.dumpAddr := rfl
@[simp] theorem setBar_hub_dumpGo (s o x) : (setBar s o x).hub.dumpGo = s.hub.dumpGo := rfl
theorem bar_setBar_self {s : State} (h : Canon s) (o x) : bar (setBar s o x) o = x := tget_tset_self _ _ h.bars
theorem bar_setBar_other {s : State} (h : Canon s) (o x) {k} (hk : k ≠ o) : bar (setBar s o x) k = bar s k :=
  tget_tset_other _ _ h.bars hk

/-! ### setMb -/

@[simp] theorem setMb_pending (s m x) : (setMb s m x).pending = s.pending := rfl
@[simp] theorem setMb_boot (s m x) : (setMb s m x).boot = s.boot := rfl
@[simp] theorem setMb_img (s m x) : (setMb s m x).img = s.img := rfl
@[simp] theorem setMb_pins (s m x) : (setMb s m x).pins = s.pins := rfl
@[simp] theorem setMb_chans (s m x) : (setMb s m x).chans = s.chans := rfl
@[simp] theorem setMb_ctxs (s m x) : (setMb s m x).ctxs = s.ctxs := rfl
@[simp] theorem setMb_path (s m x) : (setMb s m x).path = s.path := rfl
@[simp] theorem setMb_stage (s m x) : (setMb s m x).stage = s.stage := rfl
@[simp] theorem setMb_xl (s m x) : (setMb s m x).xl = s.xl := rfl
@[simp] theorem setMb_ports (s m x) : (setMb s m x).ports = s.ports := rfl
@[simp] theorem setMb_links (s m x) : (setMb s m x).links = s.links := rfl
@[simp] theorem setMb_clk (s m x) : (setMb s m x).clk = s.clk := rfl
@[simp] theorem setMb_aon (s m x) : (setMb s m x).aon = s.aon := rfl
@[simp] theorem setMb_out (s m x) : (setMb s m x).out = s.out := rfl
@[simp] theorem setMb_fresh (s m x) : (setMb s m x).fresh = s.fresh := rfl
@[simp] theorem setMb_order (s m x) : (setMb s m x).order = s.order := rfl
@[simp] theorem setMb_hub_rings (s m x) : (setMb s m x).hub.rings = s.hub.rings := rfl
@[simp] theorem setMb_hub_hqs (s m x) : (setMb s m x).hub.hqs = s.hub.hqs := rfl
@[simp] theorem setMb_hub_bars (s m x) : (setMb s m x).hub.bars = s.hub.bars := rfl
@[simp] theorem setMb_hub_barSel (s m x) : (setMb s m x).hub.barSel = s.hub.barSel := rfl
@[simp] theorem setMb_hub_arrRes (s m x) : (setMb s m x).hub.arrRes = s.hub.arrRes := rfl
@[simp] theorem setMb_hub_arrBusy (s m x) : (setMb s m x).hub.arrBusy = s.hub.arrBusy := rfl
@[simp] theorem setMb_hub_arrPm1 (s m x) : (setMb s m x).hub.arrPm1 = s.hub.arrPm1 := rfl
@[simp] theorem setMb_hub_arrObj (s m x) : (setMb s m x).hub.arrObj = s.hub.arrObj := rfl
@[simp] theorem setMb_hub_dumpAddr (s m x) : (setMb s m x).hub.dumpAddr = s.hub.dumpAddr := rfl
@[simp] theorem setMb_hub_dumpGo (s m x) : (setMb s m x).hub.dumpGo = s.hub.dumpGo := rfl
theorem mb_setMb_self {s : State} (h : Canon s) (m x) : mb (setMb s m x) m = x := tget_tset_self _ _ h.mbs
theorem mb_setMb_other {s : State} (h : Canon s) (m x) {k} (hk : k ≠ m) : mb (setMb s m x) k = mb s k :=
  tget_tset_other _ _ h.mbs hk

/-! ### setBg -/

@[simp] theorem setBg_pending (s g x) : (setBg s g x).pending = s.pending := rfl
@[simp] theorem setBg_boot (s g x) : (setBg s g x).boot = s.boot := rfl
@[simp] theorem setBg_img (s g x) : (setBg s g x).img = s.img := rfl
@[simp] theorem setBg_pins (s g x) : (setBg s g x).pins = s.pins := rfl
@[simp] theorem setBg_chans (s g x) : (setBg s g x).chans = s.chans := rfl
@[simp] theorem setBg_ctxs (s g x) : (setBg s g x).ctxs = s.ctxs := rfl
@[simp] theorem setBg_path (s g x) : (setBg s g x).path = s.path := rfl
@[simp] theorem setBg_hub (s g x) : (setBg s g x).hub = s.hub := rfl
@[simp] theorem setBg_xl (s g x) : (setBg s g x).xl = s.xl := rfl
@[simp] theorem setBg_ports (s g x) : (setBg s g x).ports = s.ports := rfl
@[simp] theorem setBg_links (s g x) : (setBg s g x).links = s.links := rfl
@[simp] theorem setBg_clk (s g x) : (setBg s g x).clk = s.clk := rfl
@[simp] theorem setBg_aon (s g x) : (setBg s g x).aon = s.aon := rfl
@[simp] theorem setBg_out (s g x) : (setBg s g x).out = s.out := rfl
@[simp] theorem setBg_fresh (s g x) : (setBg s g x).fresh = s.fresh := rfl
@[simp] theorem setBg_order (s g x) : (setBg s g x).order = s.order := rfl
@[simp] theorem setBg_stage_mem (s g x) : (setBg s g x).stage.mem = s.stage.mem := rfl
@[simp] theorem setBg_stage_bad (s g x) : (setBg s g x).stage.bad = s.stage.bad := rfl
@[simp] theorem setBg_stage_pool (s g x) : (setBg s g x).stage.pool = s.stage.pool := rfl
@[simp] theorem setBg_stage_fenceMem (s g x) : (setBg s g x).stage.fenceMem = s.stage.fenceMem := rfl
@[simp] theorem setBg_stage_fenceCore (s g x) : (setBg s g x).stage.fenceCore = s.stage.fenceCore := rfl
@[simp] theorem setBg_stage_fenceLink (s g x) : (setBg s g x).stage.fenceLink = s.stage.fenceLink := rfl
@[simp] theorem setBg_stage_rankBank (s g x) : (setBg s g x).stage.rankBank = s.stage.rankBank := rfl
@[simp] theorem setBg_stage_rankMem (s g x) : (setBg s g x).stage.rankMem = s.stage.rankMem := rfl
@[simp] theorem setBg_stage_rankCore (s g x) : (setBg s g x).stage.rankCore = s.stage.rankCore := rfl
@[simp] theorem setBg_stage_hintBank (s g x) : (setBg s g x).stage.hintBank = s.stage.hintBank := rfl
@[simp] theorem setBg_stage_hintMem (s g x) : (setBg s g x).stage.hintMem = s.stage.hintMem := rfl
@[simp] theorem setBg_stage_hintCore (s g x) : (setBg s g x).stage.hintCore = s.stage.hintCore := rfl
theorem bg_setBg_self {s : State} (h : Canon s) (g x) : bg (setBg s g x) g = x := tget_tset_self _ _ h.bg
theorem bg_setBg_other {s : State} (h : Canon s) (g x) {k} (hk : k ≠ g) : bg (setBg s g x) k = bg s k :=
  tget_tset_other _ _ h.bg hk

/-! ### setPoolSt -/

@[simp] theorem setPoolSt_pending (s p x) : (setPoolSt s p x).pending = s.pending := rfl
@[simp] theorem setPoolSt_boot (s p x) : (setPoolSt s p x).boot = s.boot := rfl
@[simp] theorem setPoolSt_img (s p x) : (setPoolSt s p x).img = s.img := rfl
@[simp] theorem setPoolSt_pins (s p x) : (setPoolSt s p x).pins = s.pins := rfl
@[simp] theorem setPoolSt_chans (s p x) : (setPoolSt s p x).chans = s.chans := rfl
@[simp] theorem setPoolSt_ctxs (s p x) : (setPoolSt s p x).ctxs = s.ctxs := rfl
@[simp] theorem setPoolSt_path (s p x) : (setPoolSt s p x).path = s.path := rfl
@[simp] theorem setPoolSt_hub (s p x) : (setPoolSt s p x).hub = s.hub := rfl
@[simp] theorem setPoolSt_xl (s p x) : (setPoolSt s p x).xl = s.xl := rfl
@[simp] theorem setPoolSt_ports (s p x) : (setPoolSt s p x).ports = s.ports := rfl
@[simp] theorem setPoolSt_links (s p x) : (setPoolSt s p x).links = s.links := rfl
@[simp] theorem setPoolSt_clk (s p x) : (setPoolSt s p x).clk = s.clk := rfl
@[simp] theorem setPoolSt_aon (s p x) : (setPoolSt s p x).aon = s.aon := rfl
@[simp] theorem setPoolSt_out (s p x) : (setPoolSt s p x).out = s.out := rfl
@[simp] theorem setPoolSt_fresh (s p x) : (setPoolSt s p x).fresh = s.fresh := rfl
@[simp] theorem setPoolSt_order (s p x) : (setPoolSt s p x).order = s.order := rfl
@[simp] theorem setPoolSt_stage_mem (s p x) : (setPoolSt s p x).stage.mem = s.stage.mem := rfl
@[simp] theorem setPoolSt_stage_bad (s p x) : (setPoolSt s p x).stage.bad = s.stage.bad := rfl
@[simp] theorem setPoolSt_stage_bg (s p x) : (setPoolSt s p x).stage.bg = s.stage.bg := rfl
@[simp] theorem setPoolSt_stage_fenceMem (s p x) : (setPoolSt s p x).stage.fenceMem = s.stage.fenceMem := rfl
@[simp] theorem setPoolSt_stage_fenceCore (s p x) : (setPoolSt s p x).stage.fenceCore = s.stage.fenceCore := rfl
@[simp] theorem setPoolSt_stage_fenceLink (s p x) : (setPoolSt s p x).stage.fenceLink = s.stage.fenceLink := rfl
@[simp] theorem setPoolSt_stage_rankBank (s p x) : (setPoolSt s p x).stage.rankBank = s.stage.rankBank := rfl
@[simp] theorem setPoolSt_stage_rankMem (s p x) : (setPoolSt s p x).stage.rankMem = s.stage.rankMem := rfl
@[simp] theorem setPoolSt_stage_rankCore (s p x) : (setPoolSt s p x).stage.rankCore = s.stage.rankCore := rfl
@[simp] theorem setPoolSt_stage_hintBank (s p x) : (setPoolSt s p x).stage.hintBank = s.stage.hintBank := rfl
@[simp] theorem setPoolSt_stage_hintMem (s p x) : (setPoolSt s p x).stage.hintMem = s.stage.hintMem := rfl
@[simp] theorem setPoolSt_stage_hintCore (s p x) : (setPoolSt s p x).stage.hintCore = s.stage.hintCore := rfl
theorem poolSt_setPoolSt_self {s : State} (h : Canon s) (p x) : poolSt (setPoolSt s p x) p = x := tget_tset_self _ _ h.pool
theorem poolSt_setPoolSt_other {s : State} (h : Canon s) (p x) {k} (hk : k ≠ p) : poolSt (setPoolSt s p x) k = poolSt s k :=
  tget_tset_other _ _ h.pool hk

/-! ### setKq -/

@[simp] theorem setKq_pending (s q x) : (setKq s q x).pending = s.pending := rfl
@[simp] theorem setKq_boot (s q x) : (setKq s q x).boot = s.boot := rfl
@[simp] theorem setKq_img (s q x) : (setKq s q x).img = s.img := rfl
@[simp] theorem setKq_pins (s q x) : (setKq s q x).pins = s.pins := rfl
@[simp] theorem setKq_chans (s q x) : (setKq s q x).chans = s.chans := rfl
@[simp] theorem setKq_ctxs (s q x) : (setKq s q x).ctxs = s.ctxs := rfl
@[simp] theorem setKq_stage (s q x) : (setKq s q x).stage = s.stage := rfl
@[simp] theorem setKq_hub (s q x) : (setKq s q x).hub = s.hub := rfl
@[simp] theorem setKq_xl (s q x) : (setKq s q x).xl = s.xl := rfl
@[simp] theorem setKq_ports (s q x) : (setKq s q x).ports = s.ports := rfl
@[simp] theorem setKq_links (s q x) : (setKq s q x).links = s.links := rfl
@[simp] theorem setKq_clk (s q x) : (setKq s q x).clk = s.clk := rfl
@[simp] theorem setKq_aon (s q x) : (setKq s q x).aon = s.aon := rfl
@[simp] theorem setKq_out (s q x) : (setKq s q x).out = s.out := rfl
@[simp] theorem setKq_fresh (s q x) : (setKq s q x).fresh = s.fresh := rfl
@[simp] theorem setKq_order (s q x) : (setKq s q x).order = s.order := rfl
@[simp] theorem setKq_path_slots (s q x) : (setKq s q x).path.slots = s.path.slots := rfl
@[simp] theorem setKq_path_waitq (s q x) : (setKq s q x).path.waitq = s.path.waitq := rfl
@[simp] theorem setKq_path_lines (s q x) : (setKq s q x).path.lines = s.path.lines := rfl
@[simp] theorem setKq_path_nextId (s q x) : (setKq s q x).path.nextId = s.path.nextId := rfl
@[simp] theorem setKq_path_hwmRd (s q x) : (setKq s q x).path.hwmRd = s.path.hwmRd := rfl
@[simp] theorem setKq_path_hwmWr (s q x) : (setKq s q x).path.hwmWr = s.path.hwmWr := rfl
@[simp] theorem setKq_path_hwmRm (s q x) : (setKq s q x).path.hwmRm = s.path.hwmRm := rfl
@[simp] theorem setKq_path_winRd (s q x) : (setKq s q x).path.winRd = s.path.winRd := rfl
@[simp] theorem setKq_path_winWr (s q x) : (setKq s q x).path.winWr = s.path.winWr := rfl
@[simp] theorem setKq_path_md (s q x) : (setKq s q x).path.md = s.path.md := rfl
@[simp] theorem setKq_path_fe (s q x) : (setKq s q x).path.fe = s.path.fe := rfl
@[simp] theorem setKq_path_relay (s q x) : (setKq s q x).path.relay = s.path.relay := rfl
@[simp] theorem setKq_path_echo (s q x) : (setKq s q x).path.echo = s.path.echo := rfl
@[simp] theorem setKq_path_echoDis (s q x) : (setKq s q x).path.echoDis = s.path.echoDis := rfl
@[simp] theorem setKq_path_echoFlush (s q x) : (setKq s q x).path.echoFlush = s.path.echoFlush := rfl
@[simp] theorem setKq_path_echoHit (s q x) : (setKq s q x).path.echoHit = s.path.echoHit := rfl
@[simp] theorem setKq_path_echoMiss (s q x) : (setKq s q x).path.echoMiss = s.path.echoMiss := rfl
theorem kq_setKq_self {s : State} (h : Canon s) (q x) : kq (setKq s q x) q = x := tget_tset_self _ _ h.kq
theorem kq_setKq_other {s : State} (h : Canon s) (q x) {k} (hk : k ≠ q) : kq (setKq s q x) k = kq s k :=
  tget_tset_other _ _ h.kq hk

/-! ### setMd -/

@[simp] theorem setMd_pending (s u x) : (setMd s u x).pending = s.pending := rfl
@[simp] theorem setMd_boot (s u x) : (setMd s u x).boot = s.boot := rfl
@[simp] theorem setMd_img (s u x) : (setMd s u x).img = s.img := rfl
@[simp] theorem setMd_pins (s u x) : (setMd s u x).pins = s.pins := rfl
@[simp] theorem setMd_chans (s u x) : (setMd s u x).chans = s.chans := rfl
@[simp] theorem setMd_ctxs (s u x) : (setMd s u x).ctxs = s.ctxs := rfl
@[simp] theorem setMd_stage (s u x) : (setMd s u x).stage = s.stage := rfl
@[simp] theorem setMd_hub (s u x) : (setMd s u x).hub = s.hub := rfl
@[simp] theorem setMd_xl (s u x) : (setMd s u x).xl = s.xl := rfl
@[simp] theorem setMd_ports (s u x) : (setMd s u x).ports = s.ports := rfl
@[simp] theorem setMd_links (s u x) : (setMd s u x).links = s.links := rfl
@[simp] theorem setMd_clk (s u x) : (setMd s u x).clk = s.clk := rfl
@[simp] theorem setMd_aon (s u x) : (setMd s u x).aon = s.aon := rfl
@[simp] theorem setMd_out (s u x) : (setMd s u x).out = s.out := rfl
@[simp] theorem setMd_fresh (s u x) : (setMd s u x).fresh = s.fresh := rfl
@[simp] theorem setMd_order (s u x) : (setMd s u x).order = s.order := rfl
@[simp] theorem setMd_path_slots (s u x) : (setMd s u x).path.slots = s.path.slots := rfl
@[simp] theorem setMd_path_waitq (s u x) : (setMd s u x).path.waitq = s.path.waitq := rfl
@[simp] theorem setMd_path_lines (s u x) : (setMd s u x).path.lines = s.path.lines := rfl
@[simp] theorem setMd_path_nextId (s u x) : (setMd s u x).path.nextId = s.path.nextId := rfl
@[simp] theorem setMd_path_hwmRd (s u x) : (setMd s u x).path.hwmRd = s.path.hwmRd := rfl
@[simp] theorem setMd_path_hwmWr (s u x) : (setMd s u x).path.hwmWr = s.path.hwmWr := rfl
@[simp] theorem setMd_path_hwmRm (s u x) : (setMd s u x).path.hwmRm = s.path.hwmRm := rfl
@[simp] theorem setMd_path_winRd (s u x) : (setMd s u x).path.winRd = s.path.winRd := rfl
@[simp] theorem setMd_path_winWr (s u x) : (setMd s u x).path.winWr = s.path.winWr := rfl
@[simp] theorem setMd_path_kq (s u x) : (setMd s u x).path.kq = s.path.kq := rfl
@[simp] theorem setMd_path_fe (s u x) : (setMd s u x).path.fe = s.path.fe := rfl
@[simp] theorem setMd_path_relay (s u x) : (setMd s u x).path.relay = s.path.relay := rfl
@[simp] theorem setMd_path_echo (s u x) : (setMd s u x).path.echo = s.path.echo := rfl
@[simp] theorem setMd_path_echoDis (s u x) : (setMd s u x).path.echoDis = s.path.echoDis := rfl
@[simp] theorem setMd_path_echoFlush (s u x) : (setMd s u x).path.echoFlush = s.path.echoFlush := rfl
@[simp] theorem setMd_path_echoHit (s u x) : (setMd s u x).path.echoHit = s.path.echoHit := rfl
@[simp] theorem setMd_path_echoMiss (s u x) : (setMd s u x).path.echoMiss = s.path.echoMiss := rfl
theorem md_setMd_self {s : State} (h : Canon s) (u x) : md (setMd s u x) u = x := tget_tset_self _ _ h.md
theorem md_setMd_other {s : State} (h : Canon s) (u x) {k} (hk : k ≠ u) : md (setMd s u x) k = md s k :=
  tget_tset_other _ _ h.md hk

/-! ### setFe -/

@[simp] theorem setFe_pending (s q x) : (setFe s q x).pending = s.pending := rfl
@[simp] theorem setFe_boot (s q x) : (setFe s q x).boot = s.boot := rfl
@[simp] theorem setFe_img (s q x) : (setFe s q x).img = s.img := rfl
@[simp] theorem setFe_pins (s q x) : (setFe s q x).pins = s.pins := rfl
@[simp] theorem setFe_chans (s q x) : (setFe s q x).chans = s.chans := rfl
@[simp] theorem setFe_ctxs (s q x) : (setFe s q x).ctxs = s.ctxs := rfl
@[simp] theorem setFe_stage (s q x) : (setFe s q x).stage = s.stage := rfl
@[simp] theorem setFe_hub (s q x) : (setFe s q x).hub = s.hub := rfl
@[simp] theorem setFe_xl (s q x) : (setFe s q x).xl = s.xl := rfl
@[simp] theorem setFe_ports (s q x) : (setFe s q x).ports = s.ports := rfl
@[simp] theorem setFe_links (s q x) : (setFe s q x).links = s.links := rfl
@[simp] theorem setFe_clk (s q x) : (setFe s q x).clk = s.clk := rfl
@[simp] theorem setFe_aon (s q x) : (setFe s q x).aon = s.aon := rfl
@[simp] theorem setFe_out (s q x) : (setFe s q x).out = s.out := rfl
@[simp] theorem setFe_fresh (s q x) : (setFe s q x).fresh = s.fresh := rfl
@[simp] theorem setFe_order (s q x) : (setFe s q x).order = s.order := rfl
@[simp] theorem setFe_path_slots (s q x) : (setFe s q x).path.slots = s.path.slots := rfl
@[simp] theorem setFe_path_waitq (s q x) : (setFe s q x).path.waitq = s.path.waitq := rfl
@[simp] theorem setFe_path_lines (s q x) : (setFe s q x).path.lines = s.path.lines := rfl
@[simp] theorem setFe_path_nextId (s q x) : (setFe s q x).path.nextId = s.path.nextId := rfl
@[simp] theorem setFe_path_hwmRd (s q x) : (setFe s q x).path.hwmRd = s.path.hwmRd := rfl
@[simp] theorem setFe_path_hwmWr (s q x) : (setFe s q x).path.hwmWr = s.path.hwmWr := rfl
@[simp] theorem setFe_path_hwmRm (s q x) : (setFe s q x).path.hwmRm = s.path.hwmRm := rfl
@[simp] theorem setFe_path_winRd (s q x) : (setFe s q x).path.winRd = s.path.winRd := rfl
@[simp] theorem setFe_path_winWr (s q x) : (setFe s q x).path.winWr = s.path.winWr := rfl
@[simp] theorem setFe_path_kq (s q x) : (setFe s q x).path.kq = s.path.kq := rfl
@[simp] theorem setFe_path_md (s q x) : (setFe s q x).path.md = s.path.md := rfl
@[simp] theorem setFe_path_relay (s q x) : (setFe s q x).path.relay = s.path.relay := rfl
@[simp] theorem setFe_path_echo (s q x) : (setFe s q x).path.echo = s.path.echo := rfl
@[simp] theorem setFe_path_echoDis (s q x) : (setFe s q x).path.echoDis = s.path.echoDis := rfl
@[simp] theorem setFe_path_echoFlush (s q x) : (setFe s q x).path.echoFlush = s.path.echoFlush := rfl
@[simp] theorem setFe_path_echoHit (s q x) : (setFe s q x).path.echoHit = s.path.echoHit := rfl
@[simp] theorem setFe_path_echoMiss (s q x) : (setFe s q x).path.echoMiss = s.path.echoMiss := rfl
theorem fe_setFe_self {s : State} (h : Canon s) (q x) : fe (setFe s q x) q = x := tget_tset_self _ _ h.fe
theorem fe_setFe_other {s : State} (h : Canon s) (q x) {k} (hk : k ≠ q) : fe (setFe s q x) k = fe s k :=
  tget_tset_other _ _ h.fe hk

/-! ### setRelay -/

@[simp] theorem setRelay_pending (s n x) : (setRelay s n x).pending = s.pending := rfl
@[simp] theorem setRelay_boot (s n x) : (setRelay s n x).boot = s.boot := rfl
@[simp] theorem setRelay_img (s n x) : (setRelay s n x).img = s.img := rfl
@[simp] theorem setRelay_pins (s n x) : (setRelay s n x).pins = s.pins := rfl
@[simp] theorem setRelay_chans (s n x) : (setRelay s n x).chans = s.chans := rfl
@[simp] theorem setRelay_ctxs (s n x) : (setRelay s n x).ctxs = s.ctxs := rfl
@[simp] theorem setRelay_stage (s n x) : (setRelay s n x).stage = s.stage := rfl
@[simp] theorem setRelay_hub (s n x) : (setRelay s n x).hub = s.hub := rfl
@[simp] theorem setRelay_xl (s n x) : (setRelay s n x).xl = s.xl := rfl
@[simp] theorem setRelay_ports (s n x) : (setRelay s n x).ports = s.ports := rfl
@[simp] theorem setRelay_links (s n x) : (setRelay s n x).links = s.links := rfl
@[simp] theorem setRelay_clk (s n x) : (setRelay s n x).clk = s.clk := rfl
@[simp] theorem setRelay_aon (s n x) : (setRelay s n x).aon = s.aon := rfl
@[simp] theorem setRelay_out (s n x) : (setRelay s n x).out = s.out := rfl
@[simp] theorem setRelay_fresh (s n x) : (setRelay s n x).fresh = s.fresh := rfl
@[simp] theorem setRelay_order (s n x) : (setRelay s n x).order = s.order := rfl
@[simp] theorem setRelay_path_slots (s n x) : (setRelay s n x).path.slots = s.path.slots := rfl
@[simp] theorem setRelay_path_waitq (s n x) : (setRelay s n x).path.waitq = s.path.waitq := rfl
@[simp] theorem setRelay_path_lines (s n x) : (setRelay s n x).path.lines = s.path.lines := rfl
@[simp] theorem setRelay_path_nextId (s n x) : (setRelay s n x).path.nextId = s.path.nextId := rfl
@[simp] theorem setRelay_path_hwmRd (s n x) : (setRelay s n x).path.hwmRd = s.path.hwmRd := rfl
@[simp] theorem setRelay_path_hwmWr (s n x) : (setRelay s n x).path.hwmWr = s.path.hwmWr := rfl
@[simp] theorem setRelay_path_hwmRm (s n x) : (setRelay s n x).path.hwmRm = s.path.hwmRm := rfl
@[simp] theorem setRelay_path_winRd (s n x) : (setRelay s n x).path.winRd = s.path.winRd := rfl
@[simp] theorem setRelay_path_winWr (s n x) : (setRelay s n x).path.winWr = s.path.winWr := rfl
@[simp] theorem setRelay_path_kq (s n x) : (setRelay s n x).path.kq = s.path.kq := rfl
@[simp] theorem setRelay_path_md (s n x) : (setRelay s n x).path.md = s.path.md := rfl
@[simp] theorem setRelay_path_fe (s n x) : (setRelay s n x).path.fe = s.path.fe := rfl
@[simp] theorem setRelay_path_echo (s n x) : (setRelay s n x).path.echo = s.path.echo := rfl
@[simp] theorem setRelay_path_echoDis (s n x) : (setRelay s n x).path.echoDis = s.path.echoDis := rfl
@[simp] theorem setRelay_path_echoFlush (s n x) : (setRelay s n x).path.echoFlush = s.path.echoFlush := rfl
@[simp] theorem setRelay_path_echoHit (s n x) : (setRelay s n x).path.echoHit = s.path.echoHit := rfl
@[simp] theorem setRelay_path_echoMiss (s n x) : (setRelay s n x).path.echoMiss = s.path.echoMiss := rfl
theorem relay_setRelay_self {s : State} (h : Canon s) (n x) : relay (setRelay s n x) n = x := tget_tset_self _ _ h.relay
theorem relay_setRelay_other {s : State} (h : Canon s) (n x) {k} (hk : k ≠ n) : relay (setRelay s n x) k = relay s k :=
  tget_tset_other _ _ h.relay hk

/-! ### setCp -/

@[simp] theorem setCp_pending (s n x) : (setCp s n x).pending = s.pending := rfl
@[simp] theorem setCp_boot (s n x) : (setCp s n x).boot = s.boot := rfl
@[simp] theorem setCp_img (s n x) : (setCp s n x).img = s.img := rfl
@[simp] theorem setCp_pins (s n x) : (setCp s n x).pins = s.pins := rfl
@[simp] theorem setCp_chans (s n x) : (setCp s n x).chans = s.chans := rfl
@[simp] theorem setCp_ctxs (s n x) : (setCp s n x).ctxs = s.ctxs := rfl
@[simp] theorem setCp_path (s n x) : (setCp s n x).path = s.path := rfl
@[simp] theorem setCp_stage (s n x) : (setCp s n x).stage = s.stage := rfl
@[simp] theorem setCp_hub (s n x) : (setCp s n x).hub = s.hub := rfl
@[simp] theorem setCp_xl (s n x) : (setCp s n x).xl = s.xl := rfl
@[simp] theorem setCp_links (s n x) : (setCp s n x).links = s.links := rfl
@[simp] theorem setCp_clk (s n x) : (setCp s n x).clk = s.clk := rfl
@[simp] theorem setCp_aon (s n x) : (setCp s n x).aon = s.aon := rfl
@[simp] theorem setCp_out (s n x) : (setCp s n x).out = s.out := rfl
@[simp] theorem setCp_fresh (s n x) : (setCp s n x).fresh = s.fresh := rfl
@[simp] theorem setCp_order (s n x) : (setCp s n x).order = s.order := rfl
@[simp] theorem setCp_ports_mp (s n x) : (setCp s n x).ports.mp = s.ports.mp := rfl
@[simp] theorem setCp_ports_chPend (s n x) : (setCp s n x).ports.chPend = s.ports.chPend := rfl
@[simp] theorem setCp_ports_chEn (s n x) : (setCp s n x).ports.chEn = s.ports.chEn := rfl
@[simp] theorem setCp_ports_ctxPend (s n x) : (setCp s n x).ports.ctxPend = s.ports.ctxPend := rfl
@[simp] theorem setCp_ports_ctxEn (s n x) : (setCp s n x).ports.ctxEn = s.ports.ctxEn := rfl
@[simp] theorem setCp_ports_srcPend (s n x) : (setCp s n x).ports.srcPend = s.ports.srcPend := rfl
@[simp] theorem setCp_ports_srcEn (s n x) : (setCp s n x).ports.srcEn = s.ports.srcEn := rfl
@[simp] theorem setCp_ports_msi (s n x) : (setCp s n x).ports.msi = s.ports.msi := rfl
@[simp] theorem setCp_ports_own (s n x) : (setCp s n x).ports.own = s.ports.own := rfl
@[simp] theorem setCp_ports_inq (s n x) : (setCp s n x).ports.inq = s.ports.inq := rfl
theorem cp_setCp_self {s : State} (h : Canon s) (n x) : cp (setCp s n x) n = x := tget_tset_self _ _ h.cp
theorem cp_setCp_other {s : State} (h : Canon s) (n x) {k} (hk : k ≠ n) : cp (setCp s n x) k = cp s k :=
  tget_tset_other _ _ h.cp hk

/-! ### setMp -/

@[simp] theorem setMp_pending (s n x) : (setMp s n x).pending = s.pending := rfl
@[simp] theorem setMp_boot (s n x) : (setMp s n x).boot = s.boot := rfl
@[simp] theorem setMp_img (s n x) : (setMp s n x).img = s.img := rfl
@[simp] theorem setMp_pins (s n x) : (setMp s n x).pins = s.pins := rfl
@[simp] theorem setMp_chans (s n x) : (setMp s n x).chans = s.chans := rfl
@[simp] theorem setMp_ctxs (s n x) : (setMp s n x).ctxs = s.ctxs := rfl
@[simp] theorem setMp_path (s n x) : (setMp s n x).path = s.path := rfl
@[simp] theorem setMp_stage (s n x) : (setMp s n x).stage = s.stage := rfl
@[simp] theorem setMp_hub (s n x) : (setMp s n x).hub = s.hub := rfl
@[simp] theorem setMp_xl (s n x) : (setMp s n x).xl = s.xl := rfl
@[simp] theorem setMp_links (s n x) : (setMp s n x).links = s.links := rfl
@[simp] theorem setMp_clk (s n x) : (setMp s n x).clk = s.clk := rfl
@[simp] theorem setMp_aon (s n x) : (setMp s n x).aon = s.aon := rfl
@[simp] theorem setMp_out (s n x) : (setMp s n x).out = s.out := rfl
@[simp] theorem setMp_fresh (s n x) : (setMp s n x).fresh = s.fresh := rfl
@[simp] theorem setMp_order (s n x) : (setMp s n x).order = s.order := rfl
@[simp] theorem setMp_ports_cp (s n x) : (setMp s n x).ports.cp = s.ports.cp := rfl
@[simp] theorem setMp_ports_chPend (s n x) : (setMp s n x).ports.chPend = s.ports.chPend := rfl
@[simp] theorem setMp_ports_chEn (s n x) : (setMp s n x).ports.chEn = s.ports.chEn := rfl
@[simp] theorem setMp_ports_ctxPend (s n x) : (setMp s n x).ports.ctxPend = s.ports.ctxPend := rfl
@[simp] theorem setMp_ports_ctxEn (s n x) : (setMp s n x).ports.ctxEn = s.ports.ctxEn := rfl
@[simp] theorem setMp_ports_srcPend (s n x) : (setMp s n x).ports.srcPend = s.ports.srcPend := rfl
@[simp] theorem setMp_ports_srcEn (s n x) : (setMp s n x).ports.srcEn = s.ports.srcEn := rfl
@[simp] theorem setMp_ports_msi (s n x) : (setMp s n x).ports.msi = s.ports.msi := rfl
@[simp] theorem setMp_ports_own (s n x) : (setMp s n x).ports.own = s.ports.own := rfl
@[simp] theorem setMp_ports_inq (s n x) : (setMp s n x).ports.inq = s.ports.inq := rfl
theorem mp_setMp_self {s : State} (h : Canon s) (n x) : mp (setMp s n x) n = x := tget_tset_self _ _ h.mp
theorem mp_setMp_other {s : State} (h : Canon s) (n x) {k} (hk : k ≠ n) : mp (setMp s n x) k = mp s k :=
  tget_tset_other _ _ h.mp hk

/-! ### setMsi -/

@[simp] theorem setMsi_pending (s l x) : (setMsi s l x).pending = s.pending := rfl
@[simp] theorem setMsi_boot (s l x) : (setMsi s l x).boot = s.boot := rfl
@[simp] theorem setMsi_img (s l x) : (setMsi s l x).img = s.img := rfl
@[simp] theorem setMsi_pins (s l x) : (setMsi s l x).pins = s.pins := rfl
@[simp] theorem setMsi_chans (s l x) : (setMsi s l x).chans = s.chans := rfl
@[simp] theorem setMsi_ctxs (s l x) : (setMsi s l x).ctxs = s.ctxs := rfl
@[simp] theorem setMsi_path (s l x) : (setMsi s l x).path = s.path := rfl
@[simp] theorem setMsi_stage (s l x) : (setMsi s l x).stage = s.stage := rfl
@[simp] theorem setMsi_hub (s l x) : (setMsi s l x).hub = s.hub := rfl
@[simp] theorem setMsi_xl (s l x) : (setMsi s l x).xl = s.xl := rfl
@[simp] theorem setMsi_links (s l x) : (setMsi s l x).links = s.links := rfl
@[simp] theorem setMsi_clk (s l x) : (setMsi s l x).clk = s.clk := rfl
@[simp] theorem setMsi_aon (s l x) : (setMsi s l x).aon = s.aon := rfl
@[simp] theorem setMsi_out (s l x) : (setMsi s l x).out = s.out := rfl
@[simp] theorem setMsi_fresh (s l x) : (setMsi s l x).fresh = s.fresh := rfl
@[simp] theorem setMsi_order (s l x) : (setMsi s l x).order = s.order := rfl
@[simp] theorem setMsi_ports_cp (s l x) : (setMsi s l x).ports.cp = s.ports.cp := rfl
@[simp] theorem setMsi_ports_mp (s l x) : (setMsi s l x).ports.mp = s.ports.mp := rfl
@[simp] theorem setMsi_ports_chPend (s l x) : (setMsi s l x).ports.chPend = s.ports.chPend := rfl
@[simp] theorem setMsi_ports_chEn (s l x) : (setMsi s l x).ports.chEn = s.ports.chEn := rfl
@[simp] theorem setMsi_ports_ctxPend (s l x) : (setMsi s l x).ports.ctxPend = s.ports.ctxPend := rfl
@[simp] theorem setMsi_ports_ctxEn (s l x) : (setMsi s l x).ports.ctxEn = s.ports.ctxEn := rfl
@[simp] theorem setMsi_ports_srcPend (s l x) : (setMsi s l x).ports.srcPend = s.ports.srcPend := rfl
@[simp] theorem setMsi_ports_srcEn (s l x) : (setMsi s l x).ports.srcEn = s.ports.srcEn := rfl
@[simp] theorem setMsi_ports_own (s l x) : (setMsi s l x).ports.own = s.ports.own := rfl
@[simp] theorem setMsi_ports_inq (s l x) : (setMsi s l x).ports.inq = s.ports.inq := rfl
theorem msi_setMsi_self {s : State} (h : Canon s) (l x) : msi (setMsi s l x) l = x := tget_tset_self _ _ h.msi
theorem msi_setMsi_other {s : State} (h : Canon s) (l x) {k} (hk : k ≠ l) : msi (setMsi s l x) k = msi s k :=
  tget_tset_other _ _ h.msi hk

/-! ### setHalf -/

@[simp] theorem setHalf_pending (s g x) : (setHalf s g x).pending = s.pending := rfl
@[simp] theorem setHalf_boot (s g x) : (setHalf s g x).boot = s.boot := rfl
@[simp] theorem setHalf_img (s g x) : (setHalf s g x).img = s.img := rfl
@[simp] theorem setHalf_pins (s g x) : (setHalf s g x).pins = s.pins := rfl
@[simp] theorem setHalf_chans (s g x) : (setHalf s g x).chans = s.chans := rfl
@[simp] theorem setHalf_ctxs (s g x) : (setHalf s g x).ctxs = s.ctxs := rfl
@[simp] theorem setHalf_path (s g x) : (setHalf s g x).path = s.path := rfl
@[simp] theorem setHalf_stage (s g x) : (setHalf s g x).stage = s.stage := rfl
@[simp] theorem setHalf_hub (s g x) : (setHalf s g x).hub = s.hub := rfl
@[simp] theorem setHalf_ports (s g x) : (setHalf s g x).ports = s.ports := rfl
@[simp] theorem setHalf_links (s g x) : (setHalf s g x).links = s.links := rfl
@[simp] theorem setHalf_clk (s g x) : (setHalf s g x).clk = s.clk := rfl
@[simp] theorem setHalf_aon (s g x) : (setHalf s g x).aon = s.aon := rfl
@[simp] theorem setHalf_out (s g x) : (setHalf s g x).out = s.out := rfl
@[simp] theorem setHalf_fresh (s g x) : (setHalf s g x).fresh = s.fresh := rfl
@[simp] theorem setHalf_order (s g x) : (setHalf s g x).order = s.order := rfl
@[simp] theorem setHalf_xl_fqBase (s g x) : (setHalf s g x).xl.fqBase = s.xl.fqBase := rfl
@[simp] theorem setHalf_xl_fqLog2n (s g x) : (setHalf s g x).xl.fqLog2n = s.xl.fqLog2n := rfl
@[simp] theorem setHalf_xl_fqHead (s g x) : (setHalf s g x).xl.fqHead = s.xl.fqHead := rfl
@[simp] theorem setHalf_xl_fqTail (s g x) : (setHalf s g x).xl.fqTail = s.xl.fqTail := rfl
@[simp] theorem setHalf_xl_fqEn (s g x) : (setHalf s g x).xl.fqEn = s.xl.fqEn := rfl
@[simp] theorem setHalf_xl_fqPhase (s g x) : (setHalf s g x).xl.fqPhase = s.xl.fqPhase := rfl
@[simp] theorem setHalf_xl_fseq (s g x) : (setHalf s g x).xl.fseq = s.xl.fseq := rfl
@[simp] theorem setHalf_xl_invBusy (s g x) : (setHalf s g x).xl.invBusy = s.xl.invBusy := rfl
@[simp] theorem setHalf_xl_invAll (s g x) : (setHalf s g x).xl.invAll = s.xl.invAll := rfl
@[simp] theorem setHalf_xl_invAsid (s g x) : (setHalf s g x).xl.invAsid = s.xl.invAsid := rfl
@[simp] theorem setHalf_xl_runAll (s g x) : (setHalf s g x).xl.runAll = s.xl.runAll := rfl
@[simp] theorem setHalf_xl_runAsid (s g x) : (setHalf s g x).xl.runAsid = s.xl.runAsid := rfl
@[simp] theorem setHalf_xl_gen (s g x) : (setHalf s g x).xl.gen = s.xl.gen := rfl
@[simp] theorem setHalf_xl_adone (s g x) : (setHalf s g x).xl.adone = s.xl.adone := rfl
@[simp] theorem setHalf_xl_adv (s g x) : (setHalf s g x).xl.adv = s.xl.adv := rfl
@[simp] theorem setHalf_xl_tlb (s g x) : (setHalf s g x).xl.tlb = s.xl.tlb := rfl
@[simp] theorem setHalf_xl_walks (s g x) : (setHalf s g x).xl.walks = s.xl.walks := rfl
@[simp] theorem setHalf_xl_nextWalk (s g x) : (setHalf s g x).xl.nextWalk = s.xl.nextWalk := rfl
@[simp] theorem setHalf_xl_wins (s g x) : (setHalf s g x).xl.wins = s.xl.wins := rfl
theorem half_setHalf_self {s : State} (h : Canon s) (g x) : half (setHalf s g x) g = x := tget_tset_self _ _ h.half
theorem half_setHalf_other {s : State} (h : Canon s) (g x) {k} (hk : k ≠ g) : half (setHalf s g x) k = half s k :=
  tget_tset_other _ _ h.half hk

/-! ### setWin -/

@[simp] theorem setWin_pending (s w x) : (setWin s w x).pending = s.pending := rfl
@[simp] theorem setWin_boot (s w x) : (setWin s w x).boot = s.boot := rfl
@[simp] theorem setWin_img (s w x) : (setWin s w x).img = s.img := rfl
@[simp] theorem setWin_pins (s w x) : (setWin s w x).pins = s.pins := rfl
@[simp] theorem setWin_chans (s w x) : (setWin s w x).chans = s.chans := rfl
@[simp] theorem setWin_ctxs (s w x) : (setWin s w x).ctxs = s.ctxs := rfl
@[simp] theorem setWin_path (s w x) : (setWin s w x).path = s.path := rfl
@[simp] theorem setWin_stage (s w x) : (setWin s w x).stage = s.stage := rfl
@[simp] theorem setWin_hub (s w x) : (setWin s w x).hub = s.hub := rfl
@[simp] theorem setWin_ports (s w x) : (setWin s w x).ports = s.ports := rfl
@[simp] theorem setWin_links (s w x) : (setWin s w x).links = s.links := rfl
@[simp] theorem setWin_clk (s w x) : (setWin s w x).clk = s.clk := rfl
@[simp] theorem setWin_aon (s w x) : (setWin s w x).aon = s.aon := rfl
@[simp] theorem setWin_out (s w x) : (setWin s w x).out = s.out := rfl
@[simp] theorem setWin_fresh (s w x) : (setWin s w x).fresh = s.fresh := rfl
@[simp] theorem setWin_order (s w x) : (setWin s w x).order = s.order := rfl
@[simp] theorem setWin_xl_fqBase (s w x) : (setWin s w x).xl.fqBase = s.xl.fqBase := rfl
@[simp] theorem setWin_xl_fqLog2n (s w x) : (setWin s w x).xl.fqLog2n = s.xl.fqLog2n := rfl
@[simp] theorem setWin_xl_fqHead (s w x) : (setWin s w x).xl.fqHead = s.xl.fqHead := rfl
@[simp] theorem setWin_xl_fqTail (s w x) : (setWin s w x).xl.fqTail = s.xl.fqTail := rfl
@[simp] theorem setWin_xl_fqEn (s w x) : (setWin s w x).xl.fqEn = s.xl.fqEn := rfl
@[simp] theorem setWin_xl_fqPhase (s w x) : (setWin s w x).xl.fqPhase = s.xl.fqPhase := rfl
@[simp] theorem setWin_xl_fseq (s w x) : (setWin s w x).xl.fseq = s.xl.fseq := rfl
@[simp] theorem setWin_xl_invBusy (s w x) : (setWin s w x).xl.invBusy = s.xl.invBusy := rfl
@[simp] theorem setWin_xl_invAll (s w x) : (setWin s w x).xl.invAll = s.xl.invAll := rfl
@[simp] theorem setWin_xl_invAsid (s w x) : (setWin s w x).xl.invAsid = s.xl.invAsid := rfl
@[simp] theorem setWin_xl_runAll (s w x) : (setWin s w x).xl.runAll = s.xl.runAll := rfl
@[simp] theorem setWin_xl_runAsid (s w x) : (setWin s w x).xl.runAsid = s.xl.runAsid := rfl
@[simp] theorem setWin_xl_gen (s w x) : (setWin s w x).xl.gen = s.xl.gen := rfl
@[simp] theorem setWin_xl_adone (s w x) : (setWin s w x).xl.adone = s.xl.adone := rfl
@[simp] theorem setWin_xl_adv (s w x) : (setWin s w x).xl.adv = s.xl.adv := rfl
@[simp] theorem setWin_xl_half (s w x) : (setWin s w x).xl.half = s.xl.half := rfl
@[simp] theorem setWin_xl_tlb (s w x) : (setWin s w x).xl.tlb = s.xl.tlb := rfl
@[simp] theorem setWin_xl_walks (s w x) : (setWin s w x).xl.walks = s.xl.walks := rfl
@[simp] theorem setWin_xl_nextWalk (s w x) : (setWin s w x).xl.nextWalk = s.xl.nextWalk := rfl
theorem win_setWin_self {s : State} (h : Canon s) (w x) : win (setWin s w x) w = x := tget_tset_self _ _ h.wins
theorem win_setWin_other {s : State} (h : Canon s) (w x) {k} (hk : k ≠ w) : win (setWin s w x) k = win s k :=
  tget_tset_other _ _ h.wins hk

/-! ### setSlots -/

@[simp] theorem setSlots_pending (s m x) : (setSlots s m x).pending = s.pending := rfl
@[simp] theorem setSlots_boot (s m x) : (setSlots s m x).boot = s.boot := rfl
@[simp] theorem setSlots_img (s m x) : (setSlots s m x).img = s.img := rfl
@[simp] theorem setSlots_pins (s m x) : (setSlots s m x).pins = s.pins := rfl
@[simp] theorem setSlots_chans (s m x) : (setSlots s m x).chans = s.chans := rfl
@[simp] theorem setSlots_ctxs (s m x) : (setSlots s m x).ctxs = s.ctxs := rfl
@[simp] theorem setSlots_stage (s m x) : (setSlots s m x).stage = s.stage := rfl
@[simp] theorem setSlots_hub (s m x) : (setSlots s m x).hub = s.hub := rfl
@[simp] theorem setSlots_xl (s m x) : (setSlots s m x).xl = s.xl := rfl
@[simp] theorem setSlots_ports (s m x) : (setSlots s m x).ports = s.ports := rfl
@[simp] theorem setSlots_links (s m x) : (setSlots s m x).links = s.links := rfl
@[simp] theorem setSlots_clk (s m x) : (setSlots s m x).clk = s.clk := rfl
@[simp] theorem setSlots_aon (s m x) : (setSlots s m x).aon = s.aon := rfl
@[simp] theorem setSlots_out (s m x) : (setSlots s m x).out = s.out := rfl
@[simp] theorem setSlots_fresh (s m x) : (setSlots s m x).fresh = s.fresh := rfl
@[simp] theorem setSlots_order (s m x) : (setSlots s m x).order = s.order := rfl
@[simp] theorem setSlots_path_waitq (s m x) : (setSlots s m x).path.waitq = s.path.waitq := rfl
@[simp] theorem setSlots_path_lines (s m x) : (setSlots s m x).path.lines = s.path.lines := rfl
@[simp] theorem setSlots_path_nextId (s m x) : (setSlots s m x).path.nextId = s.path.nextId := rfl
@[simp] theorem setSlots_path_hwmRd (s m x) : (setSlots s m x).path.hwmRd = s.path.hwmRd := rfl
@[simp] theorem setSlots_path_hwmWr (s m x) : (setSlots s m x).path.hwmWr = s.path.hwmWr := rfl
@[simp] theorem setSlots_path_hwmRm (s m x) : (setSlots s m x).path.hwmRm = s.path.hwmRm := rfl
@[simp] theorem setSlots_path_winRd (s m x) : (setSlots s m x).path.winRd = s.path.winRd := rfl
@[simp] theorem setSlots_path_winWr (s m x) : (setSlots s m x).path.winWr = s.path.winWr := rfl
@[simp] theorem setSlots_path_kq (s m x) : (setSlots s m x).path.kq = s.path.kq := rfl
@[simp] theorem setSlots_path_md (s m x) : (setSlots s m x).path.md = s.path.md := rfl
@[simp] theorem setSlots_path_fe (s m x) : (setSlots s m x).path.fe = s.path.fe := rfl
@[simp] theorem setSlots_path_relay (s m x) : (setSlots s m x).path.relay = s.path.relay := rfl
@[simp] theorem setSlots_path_echo (s m x) : (setSlots s m x).path.echo = s.path.echo := rfl
@[simp] theorem setSlots_path_echoDis (s m x) : (setSlots s m x).path.echoDis = s.path.echoDis := rfl
@[simp] theorem setSlots_path_echoFlush (s m x) : (setSlots s m x).path.echoFlush = s.path.echoFlush := rfl
@[simp] theorem setSlots_path_echoHit (s m x) : (setSlots s m x).path.echoHit = s.path.echoHit := rfl
@[simp] theorem setSlots_path_echoMiss (s m x) : (setSlots s m x).path.echoMiss = s.path.echoMiss := rfl

/-! ### setLines -/

@[simp] theorem setLines_pending (s x) : (setLines s x).pending = s.pending := rfl
@[simp] theorem setLines_boot (s x) : (setLines s x).boot = s.boot := rfl
@[simp] theorem setLines_img (s x) : (setLines s x).img = s.img := rfl
@[simp] theorem setLines_pins (s x) : (setLines s x).pins = s.pins := rfl
@[simp] theorem setLines_chans (s x) : (setLines s x).chans = s.chans := rfl
@[simp] theorem setLines_ctxs (s x) : (setLines s x).ctxs = s.ctxs := rfl
@[simp] theorem setLines_stage (s x) : (setLines s x).stage = s.stage := rfl
@[simp] theorem setLines_hub (s x) : (setLines s x).hub = s.hub := rfl
@[simp] theorem setLines_xl (s x) : (setLines s x).xl = s.xl := rfl
@[simp] theorem setLines_ports (s x) : (setLines s x).ports = s.ports := rfl
@[simp] theorem setLines_links (s x) : (setLines s x).links = s.links := rfl
@[simp] theorem setLines_clk (s x) : (setLines s x).clk = s.clk := rfl
@[simp] theorem setLines_aon (s x) : (setLines s x).aon = s.aon := rfl
@[simp] theorem setLines_out (s x) : (setLines s x).out = s.out := rfl
@[simp] theorem setLines_fresh (s x) : (setLines s x).fresh = s.fresh := rfl
@[simp] theorem setLines_order (s x) : (setLines s x).order = s.order := rfl
@[simp] theorem setLines_path_slots (s x) : (setLines s x).path.slots = s.path.slots := rfl
@[simp] theorem setLines_path_waitq (s x) : (setLines s x).path.waitq = s.path.waitq := rfl
@[simp] theorem setLines_path_nextId (s x) : (setLines s x).path.nextId = s.path.nextId := rfl
@[simp] theorem setLines_path_hwmRd (s x) : (setLines s x).path.hwmRd = s.path.hwmRd := rfl
@[simp] theorem setLines_path_hwmWr (s x) : (setLines s x).path.hwmWr = s.path.hwmWr := rfl
@[simp] theorem setLines_path_hwmRm (s x) : (setLines s x).path.hwmRm = s.path.hwmRm := rfl
@[simp] theorem setLines_path_winRd (s x) : (setLines s x).path.winRd = s.path.winRd := rfl
@[simp] theorem setLines_path_winWr (s x) : (setLines s x).path.winWr = s.path.winWr := rfl
@[simp] theorem setLines_path_kq (s x) : (setLines s x).path.kq = s.path.kq := rfl
@[simp] theorem setLines_path_md (s x) : (setLines s x).path.md = s.path.md := rfl
@[simp] theorem setLines_path_fe (s x) : (setLines s x).path.fe = s.path.fe := rfl
@[simp] theorem setLines_path_relay (s x) : (setLines s x).path.relay = s.path.relay := rfl
@[simp] theorem setLines_path_echo (s x) : (setLines s x).path.echo = s.path.echo := rfl
@[simp] theorem setLines_path_echoDis (s x) : (setLines s x).path.echoDis = s.path.echoDis := rfl
@[simp] theorem setLines_path_echoFlush (s x) : (setLines s x).path.echoFlush = s.path.echoFlush := rfl
@[simp] theorem setLines_path_echoHit (s x) : (setLines s x).path.echoHit = s.path.echoHit := rfl
@[simp] theorem setLines_path_echoMiss (s x) : (setLines s x).path.echoMiss = s.path.echoMiss := rfl
@[simp] theorem setLines_self (s x) : (setLines s x).path.lines = x := rfl

/-! ### setWalks -/

@[simp] theorem setWalks_pending (s x) : (setWalks s x).pending = s.pending := rfl
@[simp] theorem setWalks_boot (s x) : (setWalks s x).boot = s.boot := rfl
@[simp] theorem setWalks_img (s x) : (setWalks s x).img = s.img := rfl
@[simp] theorem setWalks_pins (s x) : (setWalks s x).pins = s.pins := rfl
@[simp] theorem setWalks_chans (s x) : (setWalks s x).chans = s.chans := rfl
@[simp] theorem setWalks_ctxs (s x) : (setWalks s x).ctxs = s.ctxs := rfl
@[simp] theorem setWalks_path (s x) : (setWalks s x).path = s.path := rfl
@[simp] theorem setWalks_stage (s x) : (setWalks s x).stage = s.stage := rfl
@[simp] theorem setWalks_hub (s x) : (setWalks s x).hub = s.hub := rfl
@[simp] theorem setWalks_ports (s x) : (setWalks s x).ports = s.ports := rfl
@[simp] theorem setWalks_links (s x) : (setWalks s x).links = s.links := rfl
@[simp] theorem setWalks_clk (s x) : (setWalks s x).clk = s.clk := rfl
@[simp] theorem setWalks_aon (s x) : (setWalks s x).aon = s.aon := rfl
@[simp] theorem setWalks_out (s x) : (setWalks s x).out = s.out := rfl
@[simp] theorem setWalks_fresh (s x) : (setWalks s x).fresh = s.fresh := rfl
@[simp] theorem setWalks_order (s x) : (setWalks s x).order = s.order := rfl
@[simp] theorem setWalks_xl_fqBase (s x) : (setWalks s x).xl.fqBase = s.xl.fqBase := rfl
@[simp] theorem setWalks_xl_fqLog2n (s x) : (setWalks s x).xl.fqLog2n = s.xl.fqLog2n := rfl
@[simp] theorem setWalks_xl_fqHead (s x) : (setWalks s x).xl.fqHead = s.xl.fqHead := rfl
@[simp] theorem setWalks_xl_fqTail (s x) : (setWalks s x).xl.fqTail = s.xl.fqTail := rfl
@[simp] theorem setWalks_xl_fqEn (s x) : (setWalks s x).xl.fqEn = s.xl.fqEn := rfl
@[simp] theorem setWalks_xl_fqPhase (s x) : (setWalks s x).xl.fqPhase = s.xl.fqPhase := rfl
@[simp] theorem setWalks_xl_fseq (s x) : (setWalks s x).xl.fseq = s.xl.fseq := rfl
@[simp] theorem setWalks_xl_invBusy (s x) : (setWalks s x).xl.invBusy = s.xl.invBusy := rfl
@[simp] theorem setWalks_xl_invAll (s x) : (setWalks s x).xl.invAll = s.xl.invAll := rfl
@[simp] theorem setWalks_xl_invAsid (s x) : (setWalks s x).xl.invAsid = s.xl.invAsid := rfl
@[simp] theorem setWalks_xl_runAll (s x) : (setWalks s x).xl.runAll = s.xl.runAll := rfl
@[simp] theorem setWalks_xl_runAsid (s x) : (setWalks s x).xl.runAsid = s.xl.runAsid := rfl
@[simp] theorem setWalks_xl_gen (s x) : (setWalks s x).xl.gen = s.xl.gen := rfl
@[simp] theorem setWalks_xl_adone (s x) : (setWalks s x).xl.adone = s.xl.adone := rfl
@[simp] theorem setWalks_xl_adv (s x) : (setWalks s x).xl.adv = s.xl.adv := rfl
@[simp] theorem setWalks_xl_half (s x) : (setWalks s x).xl.half = s.xl.half := rfl
@[simp] theorem setWalks_xl_tlb (s x) : (setWalks s x).xl.tlb = s.xl.tlb := rfl
@[simp] theorem setWalks_xl_nextWalk (s x) : (setWalks s x).xl.nextWalk = s.xl.nextWalk := rfl
@[simp] theorem setWalks_xl_wins (s x) : (setWalks s x).xl.wins = s.xl.wins := rfl
@[simp] theorem setWalks_self (s x) : (setWalks s x).xl.walks = x := rfl

/-! ### setFc -/

@[simp] theorem setFc_pending (s x) : (setFc s x).pending = s.pending := rfl
@[simp] theorem setFc_boot (s x) : (setFc s x).boot = s.boot := rfl
@[simp] theorem setFc_img (s x) : (setFc s x).img = s.img := rfl
@[simp] theorem setFc_pins (s x) : (setFc s x).pins = s.pins := rfl
@[simp] theorem setFc_chans (s x) : (setFc s x).chans = s.chans := rfl
@[simp] theorem setFc_ctxs (s x) : (setFc s x).ctxs = s.ctxs := rfl
@[simp] theorem setFc_path (s x) : (setFc s x).path = s.path := rfl
@[simp] theorem setFc_stage (s x) : (setFc s x).stage = s.stage := rfl
@[simp] theorem setFc_hub (s x) : (setFc s x).hub = s.hub := rfl
@[simp] theorem setFc_xl (s x) : (setFc s x).xl = s.xl := rfl
@[simp] theorem setFc_ports (s x) : (setFc s x).ports = s.ports := rfl
@[simp] theorem setFc_links (s x) : (setFc s x).links = s.links := rfl
@[simp] theorem setFc_clk (s x) : (setFc s x).clk = s.clk := rfl
@[simp] theorem setFc_out (s x) : (setFc s x).out = s.out := rfl
@[simp] theorem setFc_fresh (s x) : (setFc s x).fresh = s.fresh := rfl
@[simp] theorem setFc_order (s x) : (setFc s x).order = s.order := rfl
@[simp] theorem setFc_aon_zt (s x) : (setFc s x).aon.zt = s.aon.zt := rfl
@[simp] theorem setFc_aon_sb (s x) : (setFc s x).aon.sb = s.aon.sb := rfl
@[simp] theorem setFc_aon_tap (s x) : (setFc s x).aon.tap = s.aon.tap := rfl
@[simp] theorem setFc_aon_wn (s x) : (setFc s x).aon.wn = s.aon.wn := rfl
@[simp] theorem setFc_self (s x) : (setFc s x).aon.fc = x := rfl

/-! ### setZt -/

@[simp] theorem setZt_pending (s x) : (setZt s x).pending = s.pending := rfl
@[simp] theorem setZt_boot (s x) : (setZt s x).boot = s.boot := rfl
@[simp] theorem setZt_img (s x) : (setZt s x).img = s.img := rfl
@[simp] theorem setZt_pins (s x) : (setZt s x).pins = s.pins := rfl
@[simp] theorem setZt_chans (s x) : (setZt s x).chans = s.chans := rfl
@[simp] theorem setZt_ctxs (s x) : (setZt s x).ctxs = s.ctxs := rfl
@[simp] theorem setZt_path (s x) : (setZt s x).path = s.path := rfl
@[simp] theorem setZt_stage (s x) : (setZt s x).stage = s.stage := rfl
@[simp] theorem setZt_hub (s x) : (setZt s x).hub = s.hub := rfl
@[simp] theorem setZt_xl (s x) : (setZt s x).xl = s.xl := rfl
@[simp] theorem setZt_ports (s x) : (setZt s x).ports = s.ports := rfl
@[simp] theorem setZt_links (s x) : (setZt s x).links = s.links := rfl
@[simp] theorem setZt_clk (s x) : (setZt s x).clk = s.clk := rfl
@[simp] theorem setZt_out (s x) : (setZt s x).out = s.out := rfl
@[simp] theorem setZt_fresh (s x) : (setZt s x).fresh = s.fresh := rfl
@[simp] theorem setZt_order (s x) : (setZt s x).order = s.order := rfl
@[simp] theorem setZt_aon_fc (s x) : (setZt s x).aon.fc = s.aon.fc := rfl
@[simp] theorem setZt_aon_sb (s x) : (setZt s x).aon.sb = s.aon.sb := rfl
@[simp] theorem setZt_aon_tap (s x) : (setZt s x).aon.tap = s.aon.tap := rfl
@[simp] theorem setZt_aon_wn (s x) : (setZt s x).aon.wn = s.aon.wn := rfl
@[simp] theorem setZt_self (s x) : (setZt s x).aon.zt = x := rfl

/-! ### setSb -/

@[simp] theorem setSb_pending (s x) : (setSb s x).pending = s.pending := rfl
@[simp] theorem setSb_boot (s x) : (setSb s x).boot = s.boot := rfl
@[simp] theorem setSb_img (s x) : (setSb s x).img = s.img := rfl
@[simp] theorem setSb_pins (s x) : (setSb s x).pins = s.pins := rfl
@[simp] theorem setSb_chans (s x) : (setSb s x).chans = s.chans := rfl
@[simp] theorem setSb_ctxs (s x) : (setSb s x).ctxs = s.ctxs := rfl
@[simp] theorem setSb_path (s x) : (setSb s x).path = s.path := rfl
@[simp] theorem setSb_stage (s x) : (setSb s x).stage = s.stage := rfl
@[simp] theorem setSb_hub (s x) : (setSb s x).hub = s.hub := rfl
@[simp] theorem setSb_xl (s x) : (setSb s x).xl = s.xl := rfl
@[simp] theorem setSb_ports (s x) : (setSb s x).ports = s.ports := rfl
@[simp] theorem setSb_links (s x) : (setSb s x).links = s.links := rfl
@[simp] theorem setSb_clk (s x) : (setSb s x).clk = s.clk := rfl
@[simp] theorem setSb_out (s x) : (setSb s x).out = s.out := rfl
@[simp] theorem setSb_fresh (s x) : (setSb s x).fresh = s.fresh := rfl
@[simp] theorem setSb_order (s x) : (setSb s x).order = s.order := rfl
@[simp] theorem setSb_aon_fc (s x) : (setSb s x).aon.fc = s.aon.fc := rfl
@[simp] theorem setSb_aon_zt (s x) : (setSb s x).aon.zt = s.aon.zt := rfl
@[simp] theorem setSb_aon_tap (s x) : (setSb s x).aon.tap = s.aon.tap := rfl
@[simp] theorem setSb_aon_wn (s x) : (setSb s x).aon.wn = s.aon.wn := rfl
@[simp] theorem setSb_self (s x) : (setSb s x).aon.sb = x := rfl

/-! ### grantBank -/

@[simp] theorem grantBank_pending (s b i) : (grantBank s b i).pending = s.pending := rfl
@[simp] theorem grantBank_boot (s b i) : (grantBank s b i).boot = s.boot := rfl
@[simp] theorem grantBank_img (s b i) : (grantBank s b i).img = s.img := rfl
@[simp] theorem grantBank_pins (s b i) : (grantBank s b i).pins = s.pins := rfl
@[simp] theorem grantBank_chans (s b i) : (grantBank s b i).chans = s.chans := rfl
@[simp] theorem grantBank_ctxs (s b i) : (grantBank s b i).ctxs = s.ctxs := rfl
@[simp] theorem grantBank_path (s b i) : (grantBank s b i).path = s.path := rfl
@[simp] theorem grantBank_hub (s b i) : (grantBank s b i).hub = s.hub := rfl
@[simp] theorem grantBank_xl (s b i) : (grantBank s b i).xl = s.xl := rfl
@[simp] theorem grantBank_ports (s b i) : (grantBank s b i).ports = s.ports := rfl
@[simp] theorem grantBank_links (s b i) : (grantBank s b i).links = s.links := rfl
@[simp] theorem grantBank_clk (s b i) : (grantBank s b i).clk = s.clk := rfl
@[simp] theorem grantBank_aon (s b i) : (grantBank s b i).aon = s.aon := rfl
@[simp] theorem grantBank_out (s b i) : (grantBank s b i).out = s.out := rfl
@[simp] theorem grantBank_fresh (s b i) : (grantBank s b i).fresh = s.fresh := rfl
@[simp] theorem grantBank_order (s b i) : (grantBank s b i).order = s.order := rfl
@[simp] theorem grantBank_stage_mem (s b i) : (grantBank s b i).stage.mem = s.stage.mem := rfl
@[simp] theorem grantBank_stage_bad (s b i) : (grantBank s b i).stage.bad = s.stage.bad := rfl
@[simp] theorem grantBank_stage_bg (s b i) : (grantBank s b i).stage.bg = s.stage.bg := rfl
@[simp] theorem grantBank_stage_pool (s b i) : (grantBank s b i).stage.pool = s.stage.pool := rfl
@[simp] theorem grantBank_stage_fenceMem (s b i) : (grantBank s b i).stage.fenceMem = s.stage.fenceMem := rfl
@[simp] theorem grantBank_stage_fenceCore (s b i) : (grantBank s b i).stage.fenceCore = s.stage.fenceCore := rfl
@[simp] theorem grantBank_stage_fenceLink (s b i) : (grantBank s b i).stage.fenceLink = s.stage.fenceLink := rfl
@[simp] theorem grantBank_stage_rankMem (s b i) : (grantBank s b i).stage.rankMem = s.stage.rankMem := rfl
@[simp] theorem grantBank_stage_rankCore (s b i) : (grantBank s b i).stage.rankCore = s.stage.rankCore := rfl
@[simp] theorem grantBank_stage_hintMem (s b i) : (grantBank s b i).stage.hintMem = s.stage.hintMem := rfl
@[simp] theorem grantBank_stage_hintCore (s b i) : (grantBank s b i).stage.hintCore = s.stage.hintCore := rfl

/-! ### grantMem -/

@[simp] theorem grantMem_pending (s m i) : (grantMem s m i).pending = s.pending := rfl
@[simp] theorem grantMem_boot (s m i) : (grantMem s m i).boot = s.boot := rfl
@[simp] theorem grantMem_img (s m i) : (grantMem s m i).img = s.img := rfl
@[simp] theorem grantMem_pins (s m i) : (grantMem s m i).pins = s.pins := rfl
@[simp] theorem grantMem_chans (s m i) : (grantMem s m i).chans = s.chans := rfl
@[simp] theorem grantMem_ctxs (s m i) : (grantMem s m i).ctxs = s.ctxs := rfl
@[simp] theorem grantMem_path (s m i) : (grantMem s m i).path = s.path := rfl
@[simp] theorem grantMem_hub (s m i) : (grantMem s m i).hub = s.hub := rfl
@[simp] theorem grantMem_xl (s m i) : (grantMem s m i).xl = s.xl := rfl
@[simp] theorem grantMem_ports (s m i) : (grantMem s m i).ports = s.ports := rfl
@[simp] theorem grantMem_links (s m i) : (grantMem s m i).links = s.links := rfl
@[simp] theorem grantMem_clk (s m i) : (grantMem s m i).clk = s.clk := rfl
@[simp] theorem grantMem_aon (s m i) : (grantMem s m i).aon = s.aon := rfl
@[simp] theorem grantMem_out (s m i) : (grantMem s m i).out = s.out := rfl
@[simp] theorem grantMem_fresh (s m i) : (grantMem s m i).fresh = s.fresh := rfl
@[simp] theorem grantMem_order (s m i) : (grantMem s m i).order = s.order := rfl
@[simp] theorem grantMem_stage_mem (s m i) : (grantMem s m i).stage.mem = s.stage.mem := rfl
@[simp] theorem grantMem_stage_bad (s m i) : (grantMem s m i).stage.bad = s.stage.bad := rfl
@[simp] theorem grantMem_stage_bg (s m i) : (grantMem s m i).stage.bg = s.stage.bg := rfl
@[simp] theorem grantMem_stage_pool (s m i) : (grantMem s m i).stage.pool = s.stage.pool := rfl
@[simp] theorem grantMem_stage_fenceMem (s m i) : (grantMem s m i).stage.fenceMem = s.stage.fenceMem := rfl
@[simp] theorem grantMem_stage_fenceCore (s m i) : (grantMem s m i).stage.fenceCore = s.stage.fenceCore := rfl
@[simp] theorem grantMem_stage_fenceLink (s m i) : (grantMem s m i).stage.fenceLink = s.stage.fenceLink := rfl
@[simp] theorem grantMem_stage_rankBank (s m i) : (grantMem s m i).stage.rankBank = s.stage.rankBank := rfl
@[simp] theorem grantMem_stage_rankCore (s m i) : (grantMem s m i).stage.rankCore = s.stage.rankCore := rfl
@[simp] theorem grantMem_stage_hintBank (s m i) : (grantMem s m i).stage.hintBank = s.stage.hintBank := rfl
@[simp] theorem grantMem_stage_hintMem (s m i) : (grantMem s m i).stage.hintMem = s.stage.hintMem := rfl
@[simp] theorem grantMem_stage_hintCore (s m i) : (grantMem s m i).stage.hintCore = s.stage.hintCore := rfl

/-! ### grantCore -/

@[simp] theorem grantCore_pending (s n i) : (grantCore s n i).pending = s.pending := rfl
@[simp] theorem grantCore_boot (s n i) : (grantCore s n i).boot = s.boot := rfl
@[simp] theorem grantCore_img (s n i) : (grantCore s n i).img = s.img := rfl
@[simp] theorem grantCore_pins (s n i) : (grantCore s n i).pins = s.pins := rfl
@[simp] theorem grantCore_chans (s n i) : (grantCore s n i).chans = s.chans := rfl
@[simp] theorem grantCore_ctxs (s n i) : (grantCore s n i).ctxs = s.ctxs := rfl
@[simp] theorem grantCore_path (s n i) : (grantCore s n i).path = s.path := rfl
@[simp] theorem grantCore_hub (s n i) : (grantCore s n i).hub = s.hub := rfl
@[simp] theorem grantCore_xl (s n i) : (grantCore s n i).xl = s.xl := rfl
@[simp] theorem grantCore_ports (s n i) : (grantCore s n i).ports = s.ports := rfl
@[simp] theorem grantCore_links (s n i) : (grantCore s n i).links = s.links := rfl
@[simp] theorem grantCore_clk (s n i) : (grantCore s n i).clk = s.clk := rfl
@[simp] theorem grantCore_aon (s n i) : (grantCore s n i).aon = s.aon := rfl
@[simp] theorem grantCore_out (s n i) : (grantCore s n i).out = s.out := rfl
@[simp] theorem grantCore_fresh (s n i) : (grantCore s n i).fresh = s.fresh := rfl
@[simp] theorem grantCore_order (s n i) : (grantCore s n i).order = s.order := rfl
@[simp] theorem grantCore_stage_mem (s n i) : (grantCore s n i).stage.mem = s.stage.mem := rfl
@[simp] theorem grantCore_stage_bad (s n i) : (grantCore s n i).stage.bad = s.stage.bad := rfl
@[simp] theorem grantCore_stage_bg (s n i) : (grantCore s n i).stage.bg = s.stage.bg := rfl
@[simp] theorem grantCore_stage_pool (s n i) : (grantCore s n i).stage.pool = s.stage.pool := rfl
@[simp] theorem grantCore_stage_fenceMem (s n i) : (grantCore s n i).stage.fenceMem = s.stage.fenceMem := rfl
@[simp] theorem grantCore_stage_fenceCore (s n i) : (grantCore s n i).stage.fenceCore = s.stage.fenceCore := rfl
@[simp] theorem grantCore_stage_fenceLink (s n i) : (grantCore s n i).stage.fenceLink = s.stage.fenceLink := rfl
@[simp] theorem grantCore_stage_rankBank (s n i) : (grantCore s n i).stage.rankBank = s.stage.rankBank := rfl
@[simp] theorem grantCore_stage_rankMem (s n i) : (grantCore s n i).stage.rankMem = s.stage.rankMem := rfl
@[simp] theorem grantCore_stage_hintBank (s n i) : (grantCore s n i).stage.hintBank = s.stage.hintBank := rfl
@[simp] theorem grantCore_stage_hintMem (s n i) : (grantCore s n i).stage.hintMem = s.stage.hintMem := rfl
@[simp] theorem grantCore_stage_hintCore (s n i) : (grantCore s n i).stage.hintCore = s.stage.hintCore := rfl

/-! ### emit -/

@[simp] theorem emit_pending (s x) : (emit s x).pending = s.pending := rfl
@[simp] theorem emit_boot (s x) : (emit s x).boot = s.boot := rfl
@[simp] theorem emit_img (s x) : (emit s x).img = s.img := rfl
@[simp] theorem emit_pins (s x) : (emit s x).pins = s.pins := rfl
@[simp] theorem emit_chans (s x) : (emit s x).chans = s.chans := rfl
@[simp] theorem emit_ctxs (s x) : (emit s x).ctxs = s.ctxs := rfl
@[simp] theorem emit_path (s x) : (emit s x).path = s.path := rfl
@[simp] theorem emit_stage (s x) : (emit s x).stage = s.stage := rfl
@[simp] theorem emit_hub (s x) : (emit s x).hub = s.hub := rfl
@[simp] theorem emit_xl (s x) : (emit s x).xl = s.xl := rfl
@[simp] theorem emit_ports (s x) : (emit s x).ports = s.ports := rfl
@[simp] theorem emit_links (s x) : (emit s x).links = s.links := rfl
@[simp] theorem emit_clk (s x) : (emit s x).clk = s.clk := rfl
@[simp] theorem emit_aon (s x) : (emit s x).aon = s.aon := rfl
@[simp] theorem emit_fresh (s x) : (emit s x).fresh = s.fresh := rfl
@[simp] theorem emit_order (s x) : (emit s x).order = s.order := rfl
@[simp] theorem emit_out (s x) : (emit s x).out = s.out ++ [x] := rfl

/-! ### bump -/

@[simp] theorem bump_pending (s) : (bump s).pending = s.pending := rfl
@[simp] theorem bump_boot (s) : (bump s).boot = s.boot := rfl
@[simp] theorem bump_img (s) : (bump s).img = s.img := rfl
@[simp] theorem bump_pins (s) : (bump s).pins = s.pins := rfl
@[simp] theorem bump_chans (s) : (bump s).chans = s.chans := rfl
@[simp] theorem bump_ctxs (s) : (bump s).ctxs = s.ctxs := rfl
@[simp] theorem bump_path (s) : (bump s).path = s.path := rfl
@[simp] theorem bump_stage (s) : (bump s).stage = s.stage := rfl
@[simp] theorem bump_hub (s) : (bump s).hub = s.hub := rfl
@[simp] theorem bump_xl (s) : (bump s).xl = s.xl := rfl
@[simp] theorem bump_ports (s) : (bump s).ports = s.ports := rfl
@[simp] theorem bump_links (s) : (bump s).links = s.links := rfl
@[simp] theorem bump_clk (s) : (bump s).clk = s.clk := rfl
@[simp] theorem bump_aon (s) : (bump s).aon = s.aon := rfl
@[simp] theorem bump_out (s) : (bump s).out = s.out := rfl
@[simp] theorem bump_order (s) : (bump s).order = s.order := rfl
@[simp] theorem bump_fresh (s) : (bump s).fresh = s.fresh + 1 := rfl

end Sys2Proof.Laws
end

