-- ==== Sys2Proof/Tests/Slice0.lean ====
section
/-! SUPPORT. Tests: what is not well formed is refused; for every statement a state and operands that meet its hypotheses, clause by
clause; and a few commands on small states. -/

namespace Sys2Proof.Tests

open Sys2Proof Sys2Proof.Machine

set_option Elab.async false

/-! ### Small states -/

/-- `Canon` as a test. -/
def canonB (s : State) : Bool :=
  twf (fun _ => {}) s.chans && twf ctxDflt s.ctxs && twf (fun _ => {}) s.links && twf (fun _ => []) s.path.slots
  && twf (fun _ => {}) s.path.winRd && twf (fun _ => {}) s.path.winWr && twf (fun _ => {}) s.path.kq && twf (fun _ => {}) s.path.md
  && twf (fun _ => {}) s.path.fe && twf (fun _ => {}) s.path.relay && Memory.wf s.stage.mem && twf (fun _ => {}) s.stage.bg
  && twf (fun _ => {}) s.stage.pool && twf (fun _ => 0) s.stage.fenceMem && twf (fun _ => 0) s.stage.fenceCore
  && twf (fun _ => 0) s.stage.fenceLink && twf (fun _ => List.range 36) s.stage.rankBank && twf (fun _ => List.range 33) s.stage.rankMem
  && twf (fun _ => List.range 33) s.stage.rankCore && twf (fun _ => []) s.stage.hintBank && twf (fun _ => []) s.stage.hintMem
  && twf (fun _ => []) s.stage.hintCore && twf (fun _ => {}) s.hub.rings && twf (fun _ => {}) s.hub.hqs && twf (fun _ => {}) s.hub.bars
  && twf (fun _ => {}) s.hub.mbs && twf (fun _ => {}) s.xl.half && twf (fun _ => {}) s.xl.wins && twf (fun _ => {}) s.ports.cp
  && twf (fun _ => {}) s.ports.mp && twf (fun _ => {}) s.ports.msi && twf islDflt s.clk.isl && twf srcDflt s.aon.fc.src
  && twf (fun _ => {}) s.aon.zt.ent && twf (fun _ => 0) s.aon.zt.drop && twf (fun _ => 0) s.aon.zt.seq

theorem canonOf (s : State) (h : canonB s = true) : Canon s := by
  simp only [canonB, Bool.and_eq_true] at h
  constructor <;> tauto

/-- Every domain is on. -/
def allOn : Tbl Island := (List.range 64).map fun d => (d, { islDflt d with ps := .on })

/-- A chip of a ring of four, with one mover, four channels in three contexts, a pool and an echo pool. -/
def imgA : Image := {
  ext := #v[4, 1, 1, 1], windows := 4, cPresent := 3, mPresent := 255, lPresent := 3, lcode := #v[0, 2, 0, 0, 0, 0, 0, 0]
  movers := [⟨0, 0, true⟩]
  chans := [(0, { valid := true }), (1, { valid := true }), (2, { valid := true, ctx := 1 }), (3, { valid := true, ns := true, ctx := 2 })]
  landing := [(0, 1024)]
  pools := [⟨0, 1, 1, false, false⟩, ⟨1, 1, 2, true, false⟩]
  pdSecure := BitVec.allOnes 64, bgSecure := BitVec.allOnes 16, mbSecure := BitVec.allOnes 32, barSecure := BitVec.allOnes 64
  winSecure := 1, mbs := [(1, { kind := 2 })] }

/-- The block in service with that image locked, every domain on. -/
def run : State := {
  boot := { phase := .running, st := .running, straps := ⟨1, 0, true, false⟩, imgSt := .locked }
  img := some imgA, clk := { isl := allOn }
  pins := { pgT := true, pgM := true, pgL := true, railArm := true } }

/-- What a command leaves. -/
def gone (c : Instr) (s : State) : State := after (exec c s) s

/-- In the collector state `f`. -/
def inFc (f : FcSt) : State := { run with aon := { run.aon with fc := { run.aon.fc with st := f } } }
/-- In service before an image is locked, with an image state. -/
def inImg (i : ImgSt) : State := { run with img := none, boot := { run.boot with imgSt := i } }
/-- In a boot state, with an image state. -/
def inBoot (b : BootSt) (i : ImgSt) : State := { run with img := none, boot := { run.boot with st := b, imgSt := i } }
/-- In a reset phase. -/
def inPhase (p : BlkPhase) (by_ : Nat) : State := { run with boot := { run.boot with phase := p, rstBy := by_ } }
/-- With domain `d` in power state `p`. -/
def inDom (d : Nat) (p : PSt) : State := setIsl run d { islDflt d with ps := p }
/-- Domain 57 wakes and REQ is at its highest code. -/
def waking57 : State := let s := inDom 57 .waking; { s with clk := { s.clk with req := 100 } }

/-- Channel 0 in a state. -/
def inCh (c : ChSt) : State := setChan run 0 { st := c }
/-- Channel `c` runs a stream. -/
def runs (s : State) (c : Nat) (x : Stream) : State := setChan s c { chan s c with st := .running, stream := some x }
/-- A descriptor of a type with the rest of its bits. -/
def dsc (t rest : Nat) : DescData := BitVec.ofNat 512 (t + 2 ^ 4 * rest)
/-- A descriptor of a control type with fields of its first 64-bit word from bit 32 on and its words 2 to 5. -/
def ctl (t w1 w2 w3 w4 w5 : Nat) : DescData :=
  BitVec.ofNat 512 (t + 2 ^ 32 * w1 + 2 ^ 128 * w2 + 2 ^ 192 * w3 + 2 ^ 256 * w4 + 2 ^ 320 * w5)
/-- A stream of descriptor `d` in a state, in a slot. -/
def strm (d : DescData) (st : StreamSt) : Stream := mkStream 64 d st true 0
/-- The leaf of the identity page that holds region 0. -/
def idLeaf : Leaf := ⟨1, true, false, false, 0, 0, 0⟩
/-- The stream has the leaf of its reads and control addresses. -/
def withPre (x : Stream) : Stream := { x with pre := [⟨0, idLeaf⟩] }
/-- Channel 0 holds a decoded descriptor, its leaves found. -/
def dec (d : DescData) : State := runs run 0 (withPre (strm d .decoded))
/-- Channel 0 executes a descriptor and waits. -/
def wai (d : DescData) (w : Wait) : State := runs run 0 { withPre (strm d .started) with wait := w }

/-- Nothing wrong comes with a flit. -/
def rx0 : FlitRx := ⟨⟨false, 0, 0⟩, .clean⟩
/-- A codeword of the flit was flagged. -/
def rxBad : FlitRx := ⟨⟨true, 1, 0⟩, .clean⟩
/-- A read of port 0 that is given up, late or not. -/
def own7 (late : Bool) : OwnReq := ⟨7, 0, 0, 0, .dead late, none⟩
/-- A link port 0 in a state. -/
def lk (l : Link) : State := setLink run 0 l
/-- The reload after a reset from SAFE is due. -/
def reload : State := let s := inBoot .running .none; { s with boot := { s.boot with reloadDue := true } }
/-- No rail is good. -/
def noRails : State := { run with pins := {} }
/-- With these collector registers. -/
def fcIs (x : Fc) : State := { run with aon := { run.aon with fc := x } }
/-- With this recorder. -/
def ztIs (x : Zt) : State := { run with aon := { run.aon with zt := x } }
/-- With these clock registers. -/
def clkIs (x : Clk) : State := { run with clk := { x with isl := allOn } }
/-- Island 0 steps toward a target. -/
def stepping (freq target : Nat) : State := setIsl run 0 { islDflt 0 with ps := .on, freq := freq, target := target }

/-- Channel 0 with this record. -/
def chIs (x : Chan) : State := setChan run 0 x
/-- Channel 0 fetches, after `n` tries. -/
def ftc (n : Nat) : State := chIs { st := .running, fetching := some 0, fetchTries := n }
/-- Channel 0 runs with nothing fetched after `n` tries. -/
def bare (n : Nat) : State := chIs { st := .running, fetchTries := n }
/-- Channel 0 runs with one descriptor fetched. -/
def got (d : DescData) : State := chIs { st := .running, fetched := [(0, d)] }
/-- Channel 0 runs a stream that has ended, its ring's HEAD at `h`. -/
def fin (d : DescData) (code h : Nat) : State :=
  chIs { st := .running, cqHead := BitVec.ofNat 12 h, stream := some (strm d (.done code 0)) }
/-- Channel 0 waits for the acknowledgement of a record. -/
def rcd : State := chIs { st := .running, recOut := some ⟨2, true, true, none⟩ }
/-- The same, its record held at the stage address of the window's start. -/
def rcdHeld : State := chIs { st := .running, recOut := some ⟨2, true, true, some (2 ^ 30, (1, 2))⟩ }
/-- The state with a ring. -/
def withRing (s : State) (y : Ring) : State := setRing s 0 y
/-- The state with a handle queue. -/
def withHq (s : State) (y : Hq) : State := setHq s 0 y
/-- The state with a barrier object. -/
def withBar (s : State) (y : Bar) : State := setBar s 0 y
/-- The state with lines in flight. -/
def withLines (s : State) (ls : List Line) : State := { s with path := { s.path with lines := ls } }
/-- A line of channel 0. -/
def line (k : LineKind) (loc : Loc) : Line := ⟨7, .wr, 0, 0, k, loc, false, 0, fullBe, 0, 0, 0, 0, 0, []⟩
/-- A persistent MOVE of four bytes. -/
def pmove : DescData := dsc 1 (2 ^ 8)
/-- A Whirligig instruction. -/
def whi (op rest : Nat) : W64 := BitVec.ofNat 64 (op + 2 ^ 8 * rest)
/-- A WHIRL stream at a program of one instruction. -/
def atW (i : W64) (quiet : Nat) : Stream :=
  { strm (dsc 4 (2 ^ 444)) .started with
    whirl := some ⟨[i, 0], Vector.replicate 8 0, 0, 0, quiet, 0, [], 0, false⟩ }
/-- A shape record of one dimension whose bytes `l` are set. -/
def shp (l : List (Nat × Nat)) : List Byte := (List.range 112).map fun i => BitVec.ofNat 8 ((l.lookup i).getD 0)
/-- A TENSOR of one-byte elements with an index stream at `i` of `n` elements. -/
def tns (i n : Nat) : DescData := ctl 2 132 0 0 0 i ||| BitVec.ofNat 512 (2 ^ 448 * n)
/-- A stream that has read its shape record. -/
def shaped : Stream := { withPre (strm (tns 0 0) .decoded) with shape := some (parseShape (shp [])) }
/-- A persistent MOVE that binds to a ring. -/
def bound (y : Ring) : State := withRing (runs run 0 (strm pmove .decoded)) y
/-- A WHIRL of one-byte elements, LIMIT 5, at an instruction. -/
def atWx (op quiet : Nat) : Stream :=
  { strm (ctl 4 132 0 0 0 0 ||| BitVec.ofNat 512 (2 ^ 448 * 5)) .started with
    whirl := some ⟨[whi op 0, 0], Vector.replicate 8 0, 0, 0, quiet, 0, [], 0, false⟩ }
/-- A MOVE that has started, its next pair `n`. -/
def mvd (n : Nat) : Stream := { withPre (strm (ctl 1 132 0 0 0 0) .started) with mcur := n }
/-- A tile with its leaf found, not walked. -/
def til : Tile := ⟨0, 0, 0, [⟨some 0, 0, 0, 0, 0, []⟩], [0], [⟨0, 0, false, 0⟩], [⟨0, idLeaf⟩], 0, 0, false, [], 1, false, []⟩
/-- Channel 0 runs stream `x`. -/
def runX (x : Stream) : State := runs run 0 x
/-- Channel 0 has a decoded descriptor whose addresses lie in the stage window. -/
def stg (x : Stream) : Stream := { x with pre := [⟨32, idLeaf⟩] }
/-- A stream that has started and waits. -/
def wx (d : DescData) (w : Wait) : Stream := { withPre (strm d .started) with wait := w }
/-- A decoded stream. -/
def dx (d : DescData) : Stream := withPre (strm d .decoded)
/-- Channel 1 is parked with a persistent MOVE. -/
def parked (s : State) : State := setChan s 1 { st := .parked, stream := some (strm pmove .decoded) }
/-- The same with a record of channel 1 out. -/
def parkedOut (s : State) : State := setChan s 1 { st := .parked, stream := some (strm pmove .decoded), recOut := some ⟨2, true, true, none⟩ }
/-- A latched late error. -/
def lateE : LateErr := ⟨0, 0, 8, 2⟩
/-- The leaf of region 0 of address-space 0 is cached. -/
def cached (s : State) : State := { s with xl := { s.xl with tlb := [⟨0, 0, 0, idLeaf⟩] } }
/-- The leaf of region 32 of address-space 0 is cached. -/
def cached32 (s : State) : State := { s with xl := { s.xl with tlb := [⟨1, 0, pageBase 1 32, idLeaf⟩] } }
/-- An output line of an external line. -/
def oln (held : Bool) : OutLine := ⟨.ext 0, 0, til.pairs, false, held, 1⟩
/-- A landing group of one line to read, to emit, to cast, or to write. -/
def grp (rd : List (Loc × RdKind × Nat)) (landed : List (Loc × RdKind × LineData)) (outs : List OutLine) (em : List Emitted)
    (rdy : List Ready) : Group := ⟨0, 0, 1, true, rd, landed, outs, em, rdy⟩
/-- A tile past its pre-walk with one group. -/
def tilG (g : Group) : Tile := { til with walked := true, groups := [g] }
/-- A MOVE that has started, with that group. -/
def gx (w1 : Nat) (g : Group) : Stream :=
  { withPre (strm (ctl 1 w1 0 0 0 0) .started) with tiles := [tilG g], tno := 1, last := true }
/-- A MOVE under FINAL that has started, with that group. -/
def fx (g : Group) : Stream := { gx 132 g with desc := ctl 2049 132 0 0 0 0 }
/-- Channel 0 runs stream `x` in a slot of mover 0. -/
def slotX (x : Stream) : State := { runX x with path := { run.path with slots := [(0, [0])] } }
/-- A group that reads a line. -/
def gRd (l : Loc) : Group := grp [(l, .data, 0)] [] [] [] []
/-- A line that is ready to be written. -/
def rdy (held : Bool) : Ready := ⟨oln held, 5, fullBe⟩
/-- A group with a line ready to be written. -/
def gWr (held : Bool) : Group := grp [] [] [] [] [rdy held]
/-- A group with a line to emit, its source landed. -/
def gOut : Group := grp [] [(.ext 0, .data, 0)] [oln false] [] []
/-- A line to cast. -/
def emt : Emitted := ⟨oln false, [], []⟩
/-- A group with a line to cast, its source landed. -/
def gEm : Group := grp [] [(.ext 0, .data, 0)] [] [emt] []
/-- A read line of that group. -/
def rline (l : Loc) : Line := line (.read 0 0 0 .data 0) l
/-- A write line of that tile. -/
def wline (l : Loc) : Line := line (.write 0 0 1 false) l
/-- A stream with a number of retries. -/
def retried (x : Stream) (n : Nat) : Stream := { x with retries := n }
/-- Context 0 in a state. -/
def inCtx (s : State) (k : CtxSt) : State := setCtx s 0 { ctxDflt 0 with st := k }
/-- A requester of a walk. -/
def reqW (w : Bool) : Req := ⟨0, 0, w, 0, false⟩
/-- A walk of level 1 that reads. -/
def wlk (w : Bool) : Walk := ⟨0, 0, 0, 0, 0, 1, 0, 0, true, [reqW w], .reading, false, none⟩
/-- A fault record. -/
def frc : FRec := ⟨2, 1, 0, 0, 0, [reqW false], 1⟩
/-- A walk that holds it. -/
def wlkH (st : WalkSt) : Walk := { wlk false with reqs := [], st := st, held := some frc }
/-- With this translation state. -/
def xlIs (x : Xl) : State := { run with xl := x }
/-- Channel 0 waits for advice record 3. -/
def advd : State :=
  { runX (wx (ctl 11 0 0 1 0 0) (.advice 7)) with xl := { adv := [(3, 0, false)] } }
/-- A stage request. -/
def rq (op size : Nat) (ns : Bool) (addr : Nat) : FabReq :=
  ⟨BitVec.ofNat 3 op, BitVec.ofNat 52 addr, BitVec.ofNat 2 size, 9, ns, false, 0, 3, fullBe⟩
/-- Core port 0 is ready. -/
def coreUp : State := { run with pins := { run.pins with crdy := 3 } }
/-- The same with the first core port pair gated. -/
def coreGated : State := { inDom 48 .gated with pins := coreUp.pins }
/-- A pool of conflicts per bank. -/
def cfl (n : Nat) : Vector Nat 8 := #v[n, 0, 0, 0, 0, 0, 0, 0]
/-- A relayed line with one member to go. -/
def relayed : Line := { wline (.relay 0 0) with left := [1] }
/-- Core port 0 holds a line for position 5. -/
def held0 : State := withLines (setCp coreUp 0 { held := [(7, 5)] }) [wline (.core 0 0x900280)]
/-- A link port in a state. -/
def inLk (x : LinkSt) : Link := { st := x }
/-- A CONTROL flit of these slots. -/
def ctlF (l : List Slot) : FlitData := mkFlit 2 0 4095 false 0 0 l
/-- Slot 0 of an IDENT of chip `c` with a tag. -/
def idA (c tag : Nat) : Slot := BitVec.ofNat 128 (1 + 2 ^ 8 * c + 2 ^ 17 + 2 ^ 64 * tag)
/-- Slot 0 of a CONFIRM of an outcome. -/
def cfm (o : LinkSt) : Slot := BitVec.ofNat 128 (2 + 2 ^ 8 * o.code)
/-- Every lane but lane 0 has had READY in four frames, and lane 0 in three. -/
def readied : Tbl Lane := (List.range 8).map fun k => (k, { peerReady := if k = 0 then 3 else 4 })
/-- A port in RETRAIN behind ACTIVE with the same peer, in IDENT, decided. -/
def back (o : LinkSt) : Link := { takePeer {} (idA 1 1) 0 with
  st := .retrain, pre := .active, sub := 2, decided := some o, identLast := some (idA 1 1, 0) }
/-- A header of a packet of an opcode to a chip from a chip. -/
def hdr (opc d sc : Nat) (ns : Bool) (tchk : Nat) : Slot := mkHdr opc 0 d sc tchk ns 0 false 7 0 0 0
/-- Port 1 holds a packet to be handled; port 0 is in a state. -/
def pkt (h : Slot) (b : List Slot) (v : Nat) (l0 : Link) : State :=
  setLink (setLink run 0 l0) 1 { st := .active, rxq := [⟨h :: b, v⟩] }
/-- A port with full credit. -/
def up : Link := { st := .active, cred := Vector.replicate 8 2048 }
/-- Window 0 receives 4 KiB of stage memory. -/
def withWin (s : State) : State := setWin s 0 { valid := true, size := 1 }
/-- A request or response that terminates here. -/
def here (opc : Nat) (b : List Slot) (ns : Bool) (tchk : Nat) : State := withWin (pkt (hdr opc 0 1 ns tchk) b 0 up)
/-- A remote line of channel 0 with the tag of that packet. -/
def rmL (k : LineKind) : Line := { line k (.remote 1 0 0) with id := remoteNo + 7, pool := .rm }
/-- A response to a line of a stream. -/
def rsp (opc : Nat) (b : List Slot) (x : Stream) (l : Line) : State := withLines (runs (here opc b false 1) 0 x) [l]
/-- The second slot of a barrier message. -/
def bm (tag kind o epoch pm1 code ch dim rem home : Nat) : Slot :=
  BitVec.ofNat 128 (tag + 2 ^ 64 * kind + 2 ^ 67 * o + 2 ^ 79 * epoch + 2 ^ 81 * pm1 + 2 ^ 95 * code + 2 ^ 99 * ch + 2 ^ 108 * dim
    + 2 ^ 110 * rem + 2 ^ 112 * home)
/-- A barrier message at port 1, object 0 in a state. -/
def bar0 (h b1 : Slot) (v : Nat) (x : Bar) : State := setBar (pkt h [b1] v up) 0 x
/-- A barrier message's header. -/
def bh (sc : Nat) (ns : Bool) : Slot := mkHdr 10 3 0 sc 1 ns 0 false 0 0 0 0
/-- With these hub registers. -/
def hubIs (x : Hub) : State := { run with hub := x }
/-- Channel 0 waits for mailbox 1, whose GO is 1, with a MAILBOX of 12 words that sets GO. -/
def mailing : Stream := wx (ctl 10 (1 + 12 * 2 ^ 5 + 2 ^ 11) 0 0 0 0) (.mailbox [])
/-- That state. -/
def mailed : State := setMb (runX mailing) 1 { go := true }
/-- With these sideband registers. -/
def sbIs (x : Sb) : State := { run with aon := { run.aon with sb := x } }
/-- A link partner is present at port 0. -/
def clean0 (s : State) : State := { s with pins := { s.pins with prsntN := 254 } }
/-- An arrival of the host is under way at object 0. -/
def arrB (s : State) : State := { s with hub := { s.hub with arrBusy := true } }
/-- Ring 0 as a write of its configuration leaves it, EN apart. -/
def cfgRing (s : State) (v : W32) : Ring :=
  let y := ring s 0
  { y with
    nm1 := fld v 16 8, cwm1 := fld v 6 2, pwm1 := fld v 4 2, cauto := bitOf v 3, pauto := bitOf v 2
    pres := if bitOf v 2 then y.pres else y.tail, cres := if bitOf v 3 then y.cres else y.head, ns := bitOf v 1 }
/-- Port 0 as a training field of its lane 0 leaves it. -/
def trained (s : State) (f : W64) : Link :=
  let l := link s 0
  { l with
    lane := tset (fun _ => {}) l.lane 0 (takeFrame (laneOf l 0) f l.fixeq) }
/-- A MOVE without BF that has taken its last action. -/
def endedX : Stream := strm (ctl 1 132 0 0 0 0) (.done 0 0)

theorem stream_listed (p : Machine.Stream → Prop) (s : State) (h : ∀ e ∈ s.chans, ∀ z, e.2.stream = some z → p z) (d : Nat)
    (z : Machine.Stream) (hz : stream s d = some z) : p z := by
  have key : ∀ t : Tbl Chan, (∀ e ∈ t, ∀ z, e.2.stream = some z → p z) → (tget (fun _ => ({} : Chan)) t d).stream = some z → p z := by
    intro t
    induction t with
    | nil => intro _ h; cases h
    | cons e t ih =>
      intro h hz
      simp only [tget] at hz
      split at hz
      · exact h _ (by simp) z hz
      · split at hz
        · cases hz
        · exact ih (fun e he => h e (by simp [he])) hz
  exact key s.chans h hz

theorem noHqWait (s : State) (h : s.chans.all (fun e => e.2.stream.all fun z => z.wait != .pop none && z.wait != .push) = true) :
    ∀ (d : Nat) (z : Machine.Stream), stream s d = some z → z.wait ≠ .pop none ∧ z.wait ≠ .push := by
  refine stream_listed _ s fun e he z hz => ?_
  have := List.all_eq_true.mp h e he
  simpa [hz] using this

/-- Whether a wait is for a barrier object. -/
def barWait : Wait → Bool
  | .barrier _ _ _ => true
  | _ => false

theorem noBarWait (s : State) (h : s.chans.all (fun e => e.2.stream.all fun z => !barWait z.wait) = true) :
    ∀ (d : Nat) (x : Machine.Stream) (o : Nat) (tag : BitVec 2) (dep : Bool), stream s d = some x → x.wait ≠ .barrier o tag dep := by
  intro d x o tag dep hx hw
  have := stream_listed (fun z => barWait z.wait = false) s (fun e he z hz => by
    have := List.all_eq_true.mp h e he
    simpa [hz] using this) d x hx
  simp [hw, barWait] at this

theorem fromOwner (s : State) (o : Nat) (h : objOwner s o = some (0, false)) (c : Nat) : objOwner s o ≠ some (c, true) := by
  rw [h]; simp

/-! ### For every statement, states that meet its hypotheses, clause by clause -/


/-- Whether a place is external memory. -/
def extB : Loc → Bool
  | .ext _ => true
  | _ => false

theorem ext_of {l : Loc} (h : extB l = true) : ∃ pa, l = .ext pa := by
  cases l with
  | ext pa => exact ⟨pa, rfl⟩
  | _ => cases h

theorem readableOf {s : State} {c : Nat} {x : Machine.Stream} {va n : Nat} (e : XEnt)
    (h : (chanSecure s c && decide (va + n ≤ 2 ^ 49) && decide (0 < n) && decide ((va + (n - 1)) / 2 ^ 25 = va / 2 ^ 25)
      && decide (x.pre.find? (fun e => e.region == va / 2 ^ 25) = some e)
      && (recLocs s [e] va n).all (fun l => extB l && locReady s l && !lineFenced s (pollLine s c l))
      && (List.range n).all fun k => extB (leafLoc s e.leaf (va + k))) = true) : Readable s c x va n := by
  simp only [Bool.and_eq_true, decide_eq_true_eq, List.all_eq_true, List.mem_range] at h
  obtain ⟨⟨⟨⟨⟨⟨a, b⟩, c⟩, d⟩, e'⟩, f⟩, g⟩ := h
  exact ⟨a, b, c, d, e, e', fun l hl => ⟨ext_of (f l hl).1.1, (f l hl).1.2, by simpa using (f l hl).2⟩, fun k hk => ext_of (g k hk)⟩

theorem pollOf {s : State} {L : Leaf} {va c n : Nat}
    (h : ((List.range n).all fun k => match leafLoc s L (va + k) with
      | .ext pa => powered s (44 + memPortOf s pa / 2)
          && !(tget (fun _ => 0) s.stage.fenceMem (memPortOf s pa)).getLsbD (chanCfg s c).mover
      | _ => false) = true) : ∀ k < n, ∃ pa, leafLoc s L (va + k) = .ext pa ∧ PollReady s c pa := by
  intro k hk
  have h := List.all_eq_true.mp h k (List.mem_range.mpr hk)
  split at h
  · next pa hl =>
    simp only [Bool.and_eq_true, Bool.not_eq_true'] at h
    exact ⟨pa, hl, h.1, h.2⟩
  · cases h

theorem noInbound {s : State} (h : s.path.lines = []) : ∀ l ∈ s.path.lines, ∀ p i, l.kind ≠ .inbound p i := by
  simp [h]
theorem witness_EmptyQueueStepIsOneCycle :
    (∃ (s : State), s.pending = [] ∧ s.boot.phase = BlkPhase.cold)
    ∧ (∃ (s : State), s.pending = [] ∧ (s.ports.inq = [] ∨ operating s = false))
    ∧ (∃ (s : State), s.pending = [] ∧ operating s = true) :=
  ⟨⟨inPhase .cold 0, by decide +kernel⟩,
   ⟨run, by decide +kernel⟩,
   ⟨run, by decide +kernel⟩⟩

theorem witness_WellFormedCommandsRun :
    Instr.idcode.wf = true :=
  by decide +kernel

theorem witness_WritesWaitUntilReady :
    ∃ (s : State), regWrite s (Instr.ack false 1) = some (8200, false, true) ∧ mmioReady s = false :=
  ⟨State.reset, by decide +kernel⟩

theorem witness_SafeServesOnlyTheCollectorPages :
    ∃ (s : State), regWrite s (Instr.imageLoad false 1) = some (72, false, true) ∧ mmioReady s = true ∧ s.aon.fc.st = FcSt.safe ∧ (72 <
      8192 ∨ 16384 ≤ 72) :=
  ⟨inFc .safe, by decide +kernel⟩

theorem witness_NonSecureWriteOfSecureRegister :
    ∃ (s : State), regWrite s (Instr.ack true 1) = some (8200, true, true) ∧ mmioReady s = true ∧ (s.aon.fc.st = FcSt.safe → 8192 ≤ 8200 ∧
      8200 < 16384) :=
  ⟨run, by decide +kernel⟩

theorem witness_StepTakesOneCommand :
    ∃ (q : List Instr) (s : State) (t : State), step { s with pending := Instr.idcode :: q } = Host.Outcome.next t :=
  ⟨[], run, gone .idcode run, rfl⟩

theorem witness_StepKeepsTablesCanonical :
    ∃ (s : State) (t : State), Canon s ∧ step s = Host.Outcome.next t :=
  ⟨run, after (step run) run, canonOf _ (by decide +kernel), rfl⟩

theorem witness_OnlyImageLockSetsTheImage :
    ∃ (s : State) (t : State), (∀ (b : List Byte), Instr.idcode ≠ Instr.imageLock b) ∧ exec Instr.idcode s = Host.Outcome.next t :=
  ⟨run, gone .idcode run, (fun _ h => by cases h), rfl⟩

theorem witness_StageMemoryKeptByOtherCommands :
    ∃ (s : State) (t : State), mayTouchStage Instr.idcode = false ∧ exec Instr.idcode s = Host.Outcome.next t :=
  ⟨run, gone .idcode run, by decide +kernel, rfl⟩

theorem witness_ImageLoads :
    (∃ (s : State), Served s 72 false true ∧ (s.boot.imgSt = ImgSt.none ∨ s.boot.imgSt = ImgSt.failed))
    ∧ (∃ (s : State), Served s 72 false true ∧ (s.boot.imgSt = ImgSt.loading ∨ s.boot.imgSt = ImgSt.locked))
    ∧ (∃ (s : State), loadRuns s = true) :=
  ⟨⟨inImg .none, (by constructor <;> decide +kernel), by decide +kernel⟩,
   ⟨run, (by constructor <;> decide +kernel), by decide +kernel⟩,
   ⟨inImg .loading, by decide +kernel⟩⟩

theorem witness_FirmwareBootsAndReloads :
    (∃ (s : State) (v : W32), Served s 96 false true ∧ s.aon.fc.st ≠ FcSt.safe ∧ bitOf v 3 = false ∧ (s.boot.st = BootSt.wait ∨ s.boot.st
      = BootSt.failed) ∧ powered s 59 = true)
    ∧ (∃ (s : State), operating s = true ∧ s.boot.st = BootSt.loading ∧ s.boot.imgSt ≠ ImgSt.loading)
    ∧ (∃ (s : State), operating s = true ∧ s.boot.st = BootSt.loading ∧ s.boot.imgSt ≠ ImgSt.loading)
    ∧ (∃ (s : State), operating s = true ∧ s.boot.reloadDue = true ∧ s.boot.st = BootSt.running ∧ powered s 59 = true ∧ (s.boot.imgSt =
      ImgSt.none ∨ s.boot.imgSt = ImgSt.failed)) :=
  ⟨⟨inBoot .wait .none, 4, (by constructor <;> decide +kernel), by decide +kernel⟩,
   ⟨inBoot .loading .none, by decide +kernel⟩,
   ⟨inBoot .loading .none, by decide +kernel⟩,
   ⟨reload, by decide +kernel⟩⟩

theorem witness_RailsAreWatchedAndParked :
    (∃ (s : State), mmioReady s = true ∧ (s.aon.fc.st = FcSt.normal ∨ s.aon.fc.st = FcSt.alert))
    ∧ (∃ (s : State), mmioReady s = true ∧ s.aon.fc.st = FcSt.safe)
    ∧ (∃ (s : State), railLevel s Rail.m = true ∧ s.boot.phase ≠ BlkPhase.cold ∧ s.pins.railArm = true ∧ s.aon.fc.st ≠ FcSt.safe)
    ∧ (∃ (s : State), railLevel s Rail.l = false)
    ∧ (∃ (s : State), s.boot.phase = BlkPhase.railWait ∧ s.pins.pgT = true ∧ s.pins.pgM = true ∧ s.pins.pgL = true) :=
  ⟨⟨run, by decide +kernel⟩,
   ⟨inFc .safe, by decide +kernel⟩,
   ⟨run, by decide +kernel⟩,
   ⟨noRails, by decide +kernel⟩,
   ⟨inPhase .railWait 0, by decide +kernel⟩⟩

theorem witness_ResetsBeginAndEnd :
    (∃ (s : State), s.boot.phase = BlkPhase.cold)
    ∧ (∃ (s : State), s.boot.phase = BlkPhase.resetting) :=
  ⟨⟨inPhase .cold 0, by decide +kernel⟩,
   ⟨inPhase .resetting 4, by decide +kernel⟩⟩

theorem witness_DomainsGateAndWake :
    (∃ (s : State), operating s = true ∧ (isl s 57).ps = PSt.on ∧ (isl s 57).policy = false ∧ domBusy s 57 = false)
    ∧ (∃ (s : State), Canon s ∧ (isl s 57).ps = PSt.gating)
    ∧ (∃ (s : State), bankUnnamed s 35 = true)
    ∧ (∃ (s : State), Canon s ∧ (isl s 57).ps = PSt.gated ∧ operating s = true ∧ bankUnnamed s 57 = false)
    ∧ (∃ (s : State), Canon s ∧ (isl s 57).ps = PSt.waking ∧ (isl s 57).raise = false ∧ s.boot.phase = BlkPhase.running ∧ wakeCovered s 57
      = true ∧ s.clk.wakeq = [])
    ∧ (∃ (s : State), Canon s ∧ operating s = true ∧ s.aon.fc.st ≠ FcSt.resetting ∧ s.pins.wakeN = true)
    ∧ (∃ (s : State), s.pins.wakeN = false ∨ operating s = false) :=
  ⟨⟨run, by decide +kernel⟩,
   ⟨inDom 57 .gating, canonOf _ (by decide +kernel), by decide +kernel⟩,
   ⟨run, by decide +kernel⟩,
   ⟨inDom 57 .gated, canonOf _ (by decide +kernel), by decide +kernel⟩,
   ⟨waking57, canonOf _ (by decide +kernel), by decide +kernel, by decide +kernel, by decide +kernel, decide_eq_true (Nat.min_le_left _
     _), by decide +kernel⟩,
   ⟨run, canonOf _ (by decide +kernel), by decide +kernel⟩,
   ⟨{ run with pins := { run.pins with wakeN := false } }, by decide +kernel⟩⟩

theorem witness_FaultEventsCountInWindows :
    (∃ (s : State) (e : FaultEv), Canon s ∧ s.boot.phase ≠ BlkPhase.cold ∧ e.wf = true)
    ∧ (∃ (s : State), (src s 12).opn = true) :=
  ⟨⟨run, ⟨0x0C, 0, 0, 0⟩, canonOf _ (by decide +kernel), by decide +kernel⟩,
   ⟨setSrc run 0x0C { n := 255, k := 20, opn := true, c := 1 }, by decide +kernel⟩⟩

theorem witness_CollectorChangesState :
    (∃ (s : State) (e : FaultEv), Canon s ∧ s.boot.phase ≠ BlkPhase.cold ∧ e.wf = true ∧ (src s ↑e.src).sev = false ∧ (src s ↑e.src).opn =
      false ∧ (src s ↑e.src).n ≤ min ((src s ↑e.src).c + 1) 255 ∧ (src s ↑e.src).act = Act.safe ∧ (s.aon.fc.st = FcSt.normal ∨ s.aon.fc.st
      = FcSt.alert))
    ∧ (∃ (s : State) (e : FaultEv), Canon s ∧ s.boot.phase ≠ BlkPhase.cold ∧ e.wf = true ∧ (src s ↑e.src).sev = false ∧ (src s ↑e.src).opn
      = false ∧ (src s ↑e.src).n ≤ min ((src s ↑e.src).c + 1) 255 ∧ (src s ↑e.src).act = Act.alert ∧ s.aon.fc.st = FcSt.normal)
    ∧ (∃ (s : State) (off : BitVec 12), Canon s ∧ s.boot.phase ≠ BlkPhase.cold ∧ fcConfig off.toNat = true)
    ∧ (∃ (s : State), s.aon.fc.st = FcSt.alert ∧ s.aon.fc.esc = true ∧ s.aon.fc.acked = false) :=
  ⟨⟨run, ⟨1, 0, 0, 0⟩, canonOf _ (by decide +kernel), by decide +kernel⟩,
   ⟨run, ⟨0x0A, 0, 0, 0⟩, canonOf _ (by decide +kernel), by decide +kernel⟩,
   ⟨run, 4, canonOf _ (by decide +kernel), by decide +kernel⟩,
   ⟨inFc .alert, by decide +kernel⟩⟩

theorem witness_ExitsFromSafe :
    (∃ (s : State) (v : W32), Canon s ∧ Served s 8200 false true ∧ s.aon.fc.st = FcSt.safe ∧ bitOf v 2 = false ∧ s.pins.pgT = true ∧
      s.pins.pgM = true ∧ s.pins.pgL = true ∧ s.pins.pgA = true)
    ∧ (∃ (s : State), Canon s ∧ s.aon.fc.st = FcSt.safe ∧ s.aon.fc.autox = true ∧ s.aon.fc.stuck = false ∧ calm s = true ∧ (List.filter
      (fun e => decide (max s.aon.fc.acyc (s.aon.fc.quiet + 2 ^ s.aon.fc.quietk) < e + 2 ^ 31)) s.aon.fc.exits).length + 1 ≤ s.aon.fc.rlim
      ∧ s.boot.phase = BlkPhase.running)
    ∧ (∃ (s : State), Canon s ∧ s.aon.fc.st = FcSt.safe ∧ s.aon.fc.autox = true ∧ s.aon.fc.stuck = false ∧ calm s = true ∧ s.aon.fc.rlim <
      (List.filter (fun e => decide (max s.aon.fc.acyc (s.aon.fc.quiet + 2 ^ s.aon.fc.quietk) < e + 2 ^ 31)) s.aon.fc.exits).length + 1) :=
  ⟨⟨inFc .safe, 2, canonOf _ (by decide +kernel), (by constructor <;> decide +kernel), by decide +kernel⟩,
   ⟨inFc .safe, canonOf _ (by decide +kernel), by decide +kernel⟩,
   ⟨fcIs { st := .safe, rlim := 0 }, canonOf _ (by decide +kernel), by decide +kernel⟩⟩

theorem witness_CollectorRegisters :
    (∃ (s : State) (v : W32), Served s 8200 false true ∧ s.aon.fc.st = FcSt.alert ∧ bitOf v 1 = false ∧ bitOf v 2 = false)
    ∧ (∃ (s : State) (v : W32), Canon s ∧ Served s 8200 false true ∧ s.aon.fc.st = FcSt.alert ∧ bitOf v 1 = false ∧ ∀ i < 256, srcReserved
      i = true → (src s i).sev = false)
    ∧ (∃ (s : State), Canon s ∧ Served s (8256 + 4 * 7) false true)
    ∧ (∃ (s : State), Served s (10240 + 8 * 192) false true ∧ srcReserved 192 = false)
    ∧ (∃ (s : State) (v : W32), Served s 8204 false true ∧ fld v 0 16 = 45324 ∧ s.aon.fc.st ≠ FcSt.resetting)
    ∧ (∃ (s : State) (v : W32), Served s 8204 false true ∧ (fld v 0 16 ≠ 45324 ∨ s.aon.fc.st = FcSt.resetting))
    ∧ (∃ (s : State) (v : W32), Served s 8208 false !reNs s (bitOf v 8) (fld v 0 6) ∧ s.aon.fc.reBusy = false ∧ (bitOf v 8 = true → fld v
      0 6 < 32))
    ∧ (∃ (s : State), Canon s ∧ s.aon.fc.reBusy = true ∧ operating s = true ∧ (reChans s s.aon.fc.goKind s.aon.fc.goTarget).all (reStill
      s) = true)
    ∧ (∃ (s : State), Canon s ∧ s.aon.fc.reBusy = true ∧ s.aon.fc.goTimed = false) :=
  ⟨⟨inFc .alert, 1, (by constructor <;> decide +kernel), by decide +kernel⟩,
   ⟨inFc .alert, 4, canonOf _ (by decide +kernel), (by constructor <;> decide +kernel), by decide +kernel⟩,
   ⟨run, canonOf _ (by decide +kernel), (by constructor <;> decide +kernel)⟩,
   ⟨run, (by constructor <;> decide +kernel), by decide +kernel⟩,
   ⟨run, 0xB10C, (by constructor <;> decide +kernel), by decide +kernel⟩,
   ⟨run, 0xB10D, (by constructor <;> decide +kernel), by decide +kernel⟩,
   ⟨run, 0x8000011F, (by constructor <;> decide +kernel), by decide +kernel⟩,
   ⟨fcIs { reBusy := true }, canonOf _ (by decide +kernel), by decide +kernel⟩,
   ⟨fcIs { reBusy := true }, canonOf _ (by decide +kernel), by decide +kernel⟩⟩

theorem witness_RecordRegisters :
    (∃ (s : State) (v : W32), Served s 12288 false true ∧ bitOf v 1 = false)
    ∧ (∃ (s : State) (v : W32), Served s 12288 false true ∧ bitOf v 0 = false ∧ s.aon.zt.frozen = true)
    ∧ (∃ (s : State), Served s 12332 false true)
    ∧ (∃ (s : State), Served s 4172 false true)
    ∧ (∃ (s : State) (hi : Byte) (lo : Byte), sbServed s = true ∧ (256 * BitVec.toNat hi + BitVec.toNat lo) / 2 ^ 12 % 8 = 0 ∧ (256 *
      BitVec.toNat hi + BitVec.toNat lo) % 4 = 0)
    ∧ (∃ (s : State) (hi : Byte) (lo : Byte), sbServed s = false ∨ (256 * BitVec.toNat hi + BitVec.toNat lo) / 2 ^ 12 % 8 ≠ 0 ∨ (256 *
      BitVec.toNat hi + BitVec.toNat lo) % 4 ≠ 0)
    ∧ (∃ (s : State), sbServed s = true ∧ s.aon.sb.sel = true ∧ s.aon.sb.byte = 0 ∧ s.aon.sb.zt = false)
    ∧ (∃ (s : State), sbServed s = true ∧ s.aon.sb.sel = true ∧ s.aon.sb.byte = 0 ∧ s.aon.sb.zt = true ∧ (s.aon.sb.off.toNat < 16 ∨ 48 ≤
      s.aon.sb.off.toNat))
    ∧ (∃ (s : State), sbServed s = true ∧ s.aon.sb.sel = true ∧ 0 < s.aon.sb.byte ∧ s.aon.sb.byte < 4)
    ∧ (∃ (s : State), sbServed s = false ∨ s.aon.sb.sel = false ∨ s.aon.sb.zt = false ∨ s.aon.sb.off ≠ 12) :=
  ⟨⟨run, 1, (by constructor <;> decide +kernel), by decide +kernel⟩,
   ⟨ztIs { frozen := true }, 2, (by constructor <;> decide +kernel), by decide +kernel⟩,
   ⟨run, (by constructor <;> decide +kernel)⟩,
   ⟨run, (by constructor <;> decide +kernel)⟩,
   ⟨run, 0, 4, by decide +kernel⟩,
   ⟨run, 0, 5, by decide +kernel⟩,
   ⟨sbIs { sel := true }, by decide +kernel⟩,
   ⟨sbIs { sel := true, zt := true, off := 0x00C }, by decide +kernel⟩,
   ⟨sbIs { sel := true, byte := 3 }, by decide +kernel⟩,
   ⟨run, by decide +kernel⟩⟩

theorem witness_IslandsAdapt :
    (∃ (s : State), Canon s ∧ adaptive 0 = true ∧ (isl s 0).ps = PSt.on ∧ (isl s 0).fixed = false ∧ s.clk.throttle = false)
    ∧ (∃ (s : State), adaptive 0 = true ∧ (isl s 0).ps = PSt.on ∧ (isl s 0).freq < effTarget s 0 ∧ (isl s 0).raise = false)
    ∧ (∃ (s : State), adaptive 0 = true ∧ (isl s 0).ps = PSt.on ∧ effTarget s 0 < (isl s 0).freq)
    ∧ (∃ (s : State), Canon s ∧ s.clk.settling = true)
    ∧ (∃ (s : State), s.boot.phase = BlkPhase.running)
    ∧ (∃ (s : State), s.boot.phase ≠ BlkPhase.running)
    ∧ (∃ (s : State), monitored s 63 = true) :=
  ⟨⟨run, canonOf _ (by decide +kernel), by decide +kernel⟩,
   ⟨stepping 1200 1800, by decide +kernel⟩,
   ⟨stepping 1200 1175, by decide +kernel⟩,
   ⟨clkIs { settling := true }, canonOf _ (by decide +kernel), by decide +kernel⟩,
   ⟨run, by decide +kernel⟩,
   ⟨State.reset, by decide +kernel⟩,
   ⟨run, by decide +kernel⟩⟩

theorem witness_IslandRegistersAndLimits :
    (∃ (s : State) (x : Byte), Canon s ∧ s.boot.phase ≠ BlkPhase.cold ∧ s.clk.tlim ≤ BitVec.toNat x)
    ∧ (∃ (s : State) (x : Byte), s.boot.phase ≠ BlkPhase.cold ∧ BitVec.toNat x < s.clk.tlim)
    ∧ (∃ (s : State) (x : Byte), s.boot.phase ≠ BlkPhase.cold ∧ BitVec.toNat x < s.clk.temp)
    ∧ (∃ (s : State) (v : W32), Served s (16388 + 16 * 35) false (islSecure s 35) ∧ adaptive 35 = true ∧ freqOk 35 (fld v 0 11) = true ∧
      freqOk 35 (fld v 16 11) = true ∧ fld v 0 11 ≤ fld v 16 11)
    ∧ (∃ (s : State) (v : W32), Served s (16388 + 16 * 63) false (islSecure s 63) ∧ adaptive 63 = true ∧ (fld v 16 11 < fld v 0 11 ∨
      freqOk 63 (fld v 0 11) = false ∨ freqOk 63 (fld v 16 11) = false))
    ∧ (∃ (s : State) (v : W32), Served s (16392 + 16 * 64) false (islSecure s 64) ∧ Canon s ∧ (bitOf v 0 = false ∨ (isl s 64).ps = PSt.on
      ∨ (isl s 64).ps = PSt.waking ∨ 64 = 64 ∨ bankUnnamed s 64 = true))
    ∧ (∃ (s : State) (v : W32), Served s (16392 + 16 * 5) false (islSecure s 5) ∧ Canon s ∧ bitOf v 0 = true ∧ 5 ≠ 64 ∧ bankUnnamed s 5 =
      false ∧ (isl s 5).ps = PSt.gating)
    ∧ (∃ (s : State) (v : W32), Served s (16392 + 16 * 5) false (islSecure s 5) ∧ Canon s ∧ bitOf v 0 = true ∧ 5 ≠ 64 ∧ bankUnnamed s 5 =
      false ∧ (isl s 5).ps = PSt.gated) :=
  ⟨⟨run, 100, canonOf _ (by decide +kernel), by decide +kernel⟩,
   ⟨run, 99, by decide +kernel⟩,
   ⟨clkIs { temp := 90 }, 89, by decide +kernel⟩,
   ⟨run, BitVec.ofNat 32 (1200 + 2 ^ 16 * 1800), (by constructor <;> decide +kernel), by decide +kernel⟩,
   ⟨run, 1, (by constructor <;> decide +kernel), by decide +kernel⟩,
   ⟨run, 0, (by constructor <;> decide +kernel), canonOf _ (by decide +kernel), by decide +kernel⟩,
   ⟨inDom 5 .gating, 1, (by constructor <;> decide +kernel), canonOf _ (by decide +kernel), by decide +kernel⟩,
   ⟨inDom 5 .gated, 1, (by constructor <;> decide +kernel), canonOf _ (by decide +kernel), by decide +kernel⟩⟩

theorem witness_DoorbellStartsFetchOrIsKept :
    (∃ (s : State), Served s (chOff 0 8) false (chanSecure s 0) ∧ Canon s ∧ chState s 0 = ChSt.idle ∧ (chan s 0).blocked = false ∧ ¬4096 *
      (chan s 0).cqBase.toNat % (16 * 2 ^ (chan s 0).log2n) ≠ 0 ∧ (chan s 0).fetching = none ∧ (chan s 0).fetchDue = none)
    ∧ (∃ (s : State), Served s (chOff 0 8) false (chanSecure s 0) ∧ Canon s ∧ chState s 0 ≠ ChSt.disabled ∧ chState s 0 ≠ ChSt.idle ∧
      (chan s 0).blocked = false)
    ∧ (∃ (s : State), Served s (chOff 9 8) false (chanSecure s 9) ∧ Canon s ∧ chState s 9 = ChSt.disabled)
    ∧ (∃ (s : State), Served s (chOff 0 8) false (chanSecure s 0) ∧ Canon s ∧ chState s 0 = ChSt.idle ∧ (chan s 0).blocked = false ∧ 4096
      * (chan s 0).cqBase.toNat % (16 * 2 ^ (chan s 0).log2n) ≠ 0) :=
  ⟨⟨run, (by constructor <;> decide +kernel), canonOf _ (by decide +kernel), by decide +kernel⟩,
   ⟨inCh .halted, (by constructor <;> decide +kernel), canonOf _ (by decide +kernel), by decide +kernel⟩,
   ⟨run, (by constructor <;> decide +kernel), canonOf _ (by decide +kernel), by decide +kernel⟩,
   ⟨chIs { cqBase := 1, log2n := 12 }, (by constructor <;> decide +kernel), canonOf _ (by decide +kernel), by decide +kernel⟩⟩

theorem witness_ChannelRegistersAreWrittenAtRest :
    (∃ (s : State), Served s (chOff 0 12) false (chanSecure s 0) ∧ chState s 0 = ChSt.halted ∧ (chan s 0).pending = false)
    ∧ (∃ (s : State), Served s (chOff 0 12) false (chanSecure s 0) ∧ chState s 0 = ChSt.halted ∧ (chan s 0).pending = true ∧ (chan s
      0).stream = none ∧ Canon s)
    ∧ (∃ (s : State), Served s (chOff 0 12) false (chanSecure s 0) ∧ chState s 0 ≠ ChSt.halted)
    ∧ (∃ (s : State) (v : W32), Served s (chOff 0 16) false (chanSecure s 0) ∧ (chState s 0 = ChSt.idle ∨ chState s 0 = ChSt.halted) ∧ 4 ≤
      fld v 0 4 ∧ fld v 0 4 ≤ 12)
    ∧ (∃ (s : State) (v : W32), Served s (chOff 0 16) false (chanSecure s 0) ∧ (chState s 0 = ChSt.idle ∨ chState s 0 = ChSt.halted) ∧ 4 ≤
      fld v 0 4 ∧ fld v 0 4 ≤ 12)
    ∧ (∃ (s : State), Served s (chOff 0 0) false (chanSecure s 0) ∧ chState s 0 ≠ ChSt.idle ∧ chState s 0 ≠ ChSt.halted) :=
  ⟨⟨inCh .halted, (by constructor <;> decide +kernel), by decide +kernel⟩,
   ⟨chIs { st := .halted, pending := true }, (by constructor <;> decide +kernel), by decide +kernel, by decide +kernel, by decide +kernel,
     canonOf _ (by decide +kernel)⟩,
   ⟨run, (by constructor <;> decide +kernel), by decide +kernel⟩,
   ⟨run, 4, (by constructor <;> decide +kernel), by decide +kernel⟩,
   ⟨inCh .halted, 12, (by constructor <;> decide +kernel), by decide +kernel⟩,
   ⟨inCh .running, (by constructor <;> decide +kernel), by decide +kernel⟩⟩

theorem witness_FetchTakesABatchOrRetries :
    (∃ (s : State), Canon s ∧ (chan s 0).fetching = some 0 ∧ (chan s 0).fetchTries < 10 ∧ locOf s 0 = Loc.ext 0 ∧ fetchGate s 0 = false ∧
      nextFetch (chan s 0) = some 0)
    ∧ (∃ (s : State), Canon s ∧ (chan s 0).fetching = some 0 ∧ (chan s 0).fetchTries < 10 ∧ locOf s 0 = Loc.ext 0 ∧ fetchGate s 0 = false
      ∧ (chan s 0).fetchTries < 3 ∧ fetchReady s 0 0 = true)
    ∧ (∃ (s : State), Canon s ∧ (chan s 0).fetching = some 0 ∧ (chan s 0).fetchTries < 10 ∧ locOf s 0 = Loc.ext 0 ∧ fetchGate s 0 = false
      ∧ 3 ≤ (chan s 0).fetchTries)
    ∧ (∃ (s : State), Canon s ∧ (chan s 0).fetching = some 0 ∧ (chan s 0).fetchTries < 10 ∧ locOf s 0 = Loc.ext 0 ∧ fetchGate s 0 = false
      ∧ RdErr.timeout = RdErr.timeout)
    ∧ (∃ (s : State), Canon s ∧ (chan s 0).fetching = some 0 ∧ (chan s 0).fetchTries < 10 ∧ locOf s 0 = Loc.ext 0 ∧ fetchGate s 0 = false
      ∧ RdErr.world = RdErr.world)
    ∧ (∃ (s : State), Canon s ∧ (chan s 0).fetching = some 0 ∧ (chan s 0).fetchTries < 10 ∧ locOf s 0 = Loc.ext 0 ∧ fetchGate s 0 = false
      ∧ (RdErr.poison = RdErr.poison ∨ RdErr.poison = RdErr.error) ∧ 3 ≤ (chan s 0).fetchTries)
    ∧ (∃ (s : State), Canon s ∧ (chan s 0).fetching = some 0 ∧ (chan s 0).fetchTries < 10 ∧ locOf s 0 = Loc.ext 0 ∧ fetchGate s 0 = false
      ∧ RdErr.error ≠ RdErr.timeout ∧ locOf s (0 + 128 * 1) = Loc.ext 128) :=
  ⟨⟨ftc 0, canonOf _ (by decide +kernel), by decide +kernel⟩,
   ⟨ftc 2, canonOf _ (by decide +kernel), by decide +kernel⟩,
   ⟨ftc 3, canonOf _ (by decide +kernel), by decide +kernel⟩,
   ⟨ftc 0, canonOf _ (by decide +kernel), by decide +kernel⟩,
   ⟨ftc 0, canonOf _ (by decide +kernel), by decide +kernel⟩,
   ⟨ftc 3, canonOf _ (by decide +kernel), by decide +kernel⟩,
   ⟨ftc 0, canonOf _ (by decide +kernel), by decide +kernel⟩⟩

theorem witness_DecodeFormsAStreamOrRefuses :
    (∃ (s : State), decodeFails (got (dsc 0 0)) 0 (dsc 0 0) = [] ∧ (slots (got (dsc 0 0)) 0).length < 16 ∧ Canon s ∧ operating s = true ∧
      chState s 0 = ChSt.running ∧ ctxRuns s 0 = true ∧ (chan s 0).stream = none ∧ (chan s 0).recOut = none)
    ∧ (∃ (s : State), decodeFails (got (dsc 12 0)) 0 (dsc 12 0) ≠ [] ∧ Canon s ∧ operating s = true ∧ chState s 0 = ChSt.running ∧ ctxRuns
      s 0 = true ∧ (chan s 0).stream = none ∧ (chan s 0).recOut = none)
    ∧ (∃ (s : State), (chan (bare 10) 0).fetchTries = 10 ∧ Canon s ∧ operating s = true ∧ chState s 0 = ChSt.running ∧ ctxRuns s 0 = true
      ∧ (chan s 0).stream = none ∧ (chan s 0).recOut = none)
    ∧ (∃ (s : State), Canon s ∧ operating s = true ∧ chState s 0 = ChSt.running ∧ ctxRuns s 0 = true ∧ (chan s 0).stream = none ∧ (chan s
      0).recOut = none)
    ∧ (∃ (s : State), Canon s ∧ operating s = true ∧ chState s 0 = ChSt.running ∧ ctxRuns s 0 = true ∧ (chan s 0).stream = none ∧ (chan s
      0).recOut = none)
    ∧ (∃ (s : State), (chan (bare 9) 0).fetchTries < 10 ∧ Canon s ∧ operating s = true ∧ chState s 0 = ChSt.running ∧ ctxRuns s 0 = true ∧
      (chan s 0).stream = none ∧ (chan s 0).recOut = none) :=
  ⟨⟨got (dsc 0 0), by decide +kernel, by decide +kernel, canonOf _ (by decide +kernel), by decide +kernel⟩,
   ⟨got (dsc 12 0), by decide +kernel, canonOf _ (by decide +kernel), by decide +kernel⟩,
   ⟨bare 10, by decide +kernel, canonOf _ (by decide +kernel), by decide +kernel⟩,
   ⟨bare 11, canonOf _ (by decide +kernel), by decide +kernel⟩,
   ⟨bare 12, canonOf _ (by decide +kernel), by decide +kernel⟩,
   ⟨bare 9, by decide +kernel, canonOf _ (by decide +kernel), by decide +kernel⟩⟩

theorem witness_CompletionWritesItsRecord :
    (∃ (s : State) (x : Machine.Stream), Canon s ∧ operating s = true ∧ chState s 0 = ChSt.running ∧ ctxRuns s 0 = true ∧ (chan s
      0).recOut = none ∧ stream s 0 = some x ∧ x.st = StreamSt.done 0 0 ∧ x.tiles = [] ∧ (waitsAcks x = true → writesAcked s 0 = true) ∧
      dPersist x.desc = false ∧ x.slotP = none ∧ x.slotC = none ∧ 0 < 12 ∧ x.addr < 2 ^ 52 ∧ (chanCfg s 0).ctx < 64 ∧ (∃ p, locOf s (4096
      * (chan s 0).cqBase.toNat + 16 * (chan s 0).tail.toNat) = Loc.ext p) ∧ (dCrec x.desc = true ∨ 2 ≤ 0) ∧ cqIsFull (chan s 0) = true)
    ∧ (∃ (s : State) (x : Machine.Stream), Canon s ∧ operating s = true ∧ chState s 0 = ChSt.running ∧ ctxRuns s 0 = true ∧ (chan s
      0).recOut = none ∧ stream s 0 = some x ∧ x.st = StreamSt.done 0 0 ∧ x.tiles = [] ∧ (waitsAcks x = true → writesAcked s 0 = true) ∧
      dPersist x.desc = false ∧ x.slotP = none ∧ x.slotC = none ∧ 0 < 12 ∧ x.addr < 2 ^ 52 ∧ (chanCfg s 0).ctx < 64 ∧ (∃ p, locOf s (4096
      * (chan s 0).cqBase.toNat + 16 * (chan s 0).tail.toNat) = Loc.ext p) ∧ ¬((dCrec x.desc = true ∨ 2 ≤ 0) ∧ cqIsFull (chan s 0) = true)
      ∧ 0 < 2 ∧ dChain x.desc ≠ 2)
    ∧ (∃ (s : State) (x : Machine.Stream), Canon s ∧ operating s = true ∧ chState s 0 = ChSt.running ∧ ctxRuns s 0 = true ∧ (chan s
      0).recOut = none ∧ stream s 0 = some x ∧ x.st = StreamSt.done 2 0 ∧ x.tiles = [] ∧ (waitsAcks x = true → writesAcked s 0 = true) ∧
      dPersist x.desc = false ∧ x.slotP = none ∧ x.slotC = none ∧ 2 < 12 ∧ x.addr < 2 ^ 52 ∧ (chanCfg s 0).ctx < 64 ∧ (∃ p, locOf s (4096
      * (chan s 0).cqBase.toNat + 16 * (chan s 0).tail.toNat) = Loc.ext p) ∧ ¬((dCrec x.desc = true ∨ 2 ≤ 2) ∧ cqIsFull (chan s 0) = true)
      ∧ 2 ≤ 2)
    ∧ (∃ (s : State) (x : Machine.Stream), Canon s ∧ operating s = true ∧ chState s 0 = ChSt.running ∧ ctxRuns s 0 = true ∧ (chan s
      0).recOut = none ∧ stream s 0 = some x ∧ x.st = StreamSt.done 1 0 ∧ x.tiles = [] ∧ (waitsAcks x = true → writesAcked s 0 = true) ∧
      dPersist x.desc = false ∧ x.slotP = none ∧ x.slotC = none ∧ 1 < 12 ∧ x.addr < 2 ^ 52 ∧ (chanCfg s 0).ctx < 64 ∧ (∃ p, locOf s (4096
      * (chan s 0).cqBase.toNat + 16 * (chan s 0).tail.toNat) = Loc.ext p) ∧ ¬((dCrec x.desc = true ∨ 2 ≤ 1) ∧ cqIsFull (chan s 0) = true)
      ∧ 1 < 2 ∧ dChain x.desc = 2)
    ∧ (∃ (s : State) (x : Machine.Stream), Canon s ∧ operating s = true ∧ chState s 0 = ChSt.running ∧ ctxRuns s 0 = true ∧ (chan s
      0).recOut = none ∧ stream s 0 = some x ∧ x.st = StreamSt.done 11 0 ∧ x.tiles = [] ∧ (waitsAcks x = true → writesAcked s 0 = true) ∧
      dPersist x.desc = false ∧ x.slotP = none ∧ x.slotC = none ∧ 11 < 12 ∧ x.addr < 2 ^ 52 ∧ (chanCfg s 0).ctx < 64 ∧ (∃ p, locOf s (4096
      * (chan s 0).cqBase.toNat + 16 * (chan s 0).tail.toNat) = Loc.ext p) ∧ ¬((dCrec x.desc = true ∨ 2 ≤ 11) ∧ cqIsFull (chan s 0) =
      true)) :=
  ⟨⟨fin (dsc 0 64) 0 1, strm (dsc 0 64) (.done 0 0), by
      refine ⟨canonOf _ (by decide +kernel), ?_, ?_, ?_, ?_, ?_, ?_, ?_, ?_, ?_, ?_, ?_, ?_, ?_, ?_, ⟨_, rfl⟩, ?_⟩ <;> decide +kernel⟩,
   ⟨fin (dsc 0 64) 0 0, strm (dsc 0 64) (.done 0 0), by
       refine ⟨canonOf _ (by decide +kernel), ?_, ?_, ?_, ?_, ?_, ?_, ?_, ?_, ?_, ?_, ?_, ?_, ?_, ?_, ⟨_, rfl⟩, ?_⟩ <;> decide +kernel⟩,
   ⟨fin (dsc 0 0) 2 0, strm (dsc 0 0) (.done 2 0), by
       refine ⟨canonOf _ (by decide +kernel), ?_, ?_, ?_, ?_, ?_, ?_, ?_, ?_, ?_, ?_, ?_, ?_, ?_, ?_, ⟨_, rfl⟩, ?_⟩ <;> decide +kernel⟩,
   ⟨fin (dsc 0 2) 1 0, strm (dsc 0 2) (.done 1 0), by
       refine ⟨canonOf _ (by decide +kernel), ?_, ?_, ?_, ?_, ?_, ?_, ?_, ?_, ?_, ?_, ?_, ?_, ?_, ?_, ⟨_, rfl⟩, ?_⟩ <;> decide +kernel⟩,
   ⟨fin (dsc 0 0) 11 0, strm (dsc 0 0) (.done 11 0), by
       refine ⟨canonOf _ (by decide +kernel), ?_, ?_, ?_, ?_, ?_, ?_, ?_, ?_, ?_, ?_, ?_, ?_, ?_, ?_, ⟨_, rfl⟩, ?_⟩ <;> decide +kernel⟩⟩

theorem witness_RecordsEndAndHeadMoves :
    (∃ (s : State) (r : RecOut), (chan s 0).recOut = some r ∧ r.held = some (2 ^ 30, 1, 2) ∧ anyGate s [locOf s (2 ^ 30)] = true)
    ∧ (∃ (s : State) (r : RecOut), Canon s ∧ (chan s 0).recOut = some r ∧ r.held = none)
    ∧ (∃ (s : State), Served s (chOff 0 24) false (chanSecure s 0) ∧ (chan s 0).st ≠ ChSt.cqFull) :=
  ⟨⟨setBg rcdHeld 0 { migr := [0] }, ⟨2, true, true, some (2 ^ 30, (1, 2))⟩, by decide +kernel⟩,
   ⟨rcd, ⟨2, true, true, none⟩, canonOf _ (by decide +kernel), by decide +kernel⟩,
   ⟨run, (by constructor <;> decide +kernel), by decide +kernel⟩⟩

theorem witness_PendingBitsAreClearedByWorld :
    (∃ (s : State), Served s (20480 + 4 * 15) true false)
    ∧ (∃ (s : State), Served s 20612 true false)
    ∧ (∃ (s : State), Served s 20624 false (domSecure s 44)) :=
  ⟨⟨run, (by constructor <;> decide +kernel)⟩,
   ⟨run, (by constructor <;> decide +kernel)⟩,
   ⟨run, (by constructor <;> decide +kernel)⟩⟩

theorem witness_DataDescriptorsStartAndReserve :
    (∃ (s : State) (x : Machine.Stream), Decoded s 0 x 0)
    ∧ (∃ (s : State) (x : Machine.Stream), Decoded s 0 x 1 ∧ sidesLeft s 0 x = [])
    ∧ (∃ (s : State) (x : Machine.Stream) (b : List Byte), Canon s ∧ Decoded s 0 x 2 ∧ sidesLeft s 0 x = [] ∧ x.shape = none ∧ b.length =
      shapeLen (BitVec.toNat (b.getD 0 0) % 8 + 1) ∧ Readable s 0 x (tShape x.desc) b.length ∧ shapeFails s 0 x.desc b = [] ∧ (if tIndex
      x.desc = 0 then pagesAtDecode x.desc (parseShape b) else none) = none)
    ∧ (∃ (s : State) (x : Machine.Stream) (b : List Byte), Canon s ∧ Decoded s 0 x 2 ∧ sidesLeft s 0 x = [] ∧ x.shape = none ∧ b.length =
      shapeLen (BitVec.toNat (b.getD 0 0) % 8 + 1) ∧ Readable s 0 x (tShape x.desc) b.length ∧ shapeFails s 0 x.desc b = [] ∧ (if tIndex
      x.desc = 0 then pagesAtDecode x.desc (parseShape b) else none) = some 0)
    ∧ (∃ (s : State) (x : Machine.Stream) (b : List Byte), Canon s ∧ Decoded s 0 x 2 ∧ sidesLeft s 0 x = [] ∧ x.shape = none ∧ b.length =
      shapeLen (BitVec.toNat (b.getD 0 0) % 8 + 1) ∧ Readable s 0 x (tShape x.desc) b.length ∧ shapeFails s 0 x.desc b ≠ [])
    ∧ (∃ (s : State) (x : Machine.Stream) (h : Shape), Decoded s 0 x 2 ∧ sidesLeft s 0 x = [] ∧ x.shape = some h)
    ∧ (∃ (s : State) (x : Machine.Stream), Decoded s 0 x 3 ∧ sidesLeft s 0 x = [])
    ∧ (∃ (s : State) (x : Machine.Stream) (b : List Byte), Canon s ∧ Decoded s 0 x 4 ∧ sidesLeft s 0 x = [] ∧ x.whirl = none ∧ b.length =
      8 * (wNinst x.desc + 1) ∧ Readable s 0 x (wProg x.desc) b.length ∧ programFails (progWords b (wNinst x.desc + 1)) = [])
    ∧ (∃ (s : State) (x : Machine.Stream) (b : List Byte), Canon s ∧ Decoded s 0 x 4 ∧ sidesLeft s 0 x = [] ∧ x.whirl = none ∧ b.length =
      8 * (wNinst x.desc + 1) ∧ Readable s 0 x (wProg x.desc) b.length ∧ programFails (progWords b (wNinst x.desc + 1)) ≠ [])
    ∧ (∃ (s : State) (x : Machine.Stream), Canon s ∧ Acts s 0 x ∧ x.st = StreamSt.decoded ∧ sidesLeft s 0 x = [true] ∧ boundRing s 0 true
      = some 0 ∧ canReserve s 0 true = true ∧ (chan s 0).recOut = none ∧ (chanSecure s 0 = true ∨ ringSecure s 0 = false))
    ∧ (∃ (s : State) (x : Machine.Stream), Canon s ∧ Acts s 0 x ∧ x.st = StreamSt.decoded ∧ sidesLeft s 0 x = [false] ∧ boundRing s 0
      false = some 0 ∧ canReserve s 0 false = true ∧ (chan s 0).recOut = none ∧ (chanSecure s 0 = true ∨ ringSecure s 0 = false)) :=
  ⟨⟨runX (dx (dsc 0 0)), dx (dsc 0 0), ⟨by constructor <;> decide +kernel, by decide +kernel, by decide +kernel⟩⟩,
   ⟨runX (dx (ctl 1 132 0 0 0 0)), dx (ctl 1 132 0 0 0 0), ⟨by constructor <;> decide +kernel, by decide +kernel, by decide +kernel⟩, by
     decide +kernel⟩,
   ⟨runX (dx (tns 0 0)), dx (tns 0 0), shp [], canonOf _ (by decide +kernel), ⟨by constructor <;> decide +kernel, by decide +kernel, by
     decide +kernel⟩, by decide +kernel, by decide +kernel, by decide +kernel, readableOf ⟨0, idLeaf⟩ (by decide +kernel), by
     decide +kernel⟩,
   ⟨runX (dx (tns 0 0)), dx (tns 0 0), shp [(64, 1), (67, 1), (83, 127)], canonOf _ (by decide +kernel), ⟨by
     constructor <;> decide +kernel, by decide +kernel, by decide +kernel⟩, by decide +kernel, by decide +kernel, by decide +kernel,
     readableOf ⟨0, idLeaf⟩ (by decide +kernel), by decide +kernel⟩,
   ⟨runX (dx (tns 0 0)), dx (tns 0 0), shp [(24, 1)], canonOf _ (by decide +kernel), ⟨by constructor <;> decide +kernel, by
     decide +kernel, by decide +kernel⟩, by decide +kernel, by decide +kernel, by decide +kernel, readableOf ⟨0, idLeaf⟩ (by
     decide +kernel), by decide +kernel⟩,
   ⟨runX shaped, shaped, parseShape (shp []), ⟨by constructor <;> decide +kernel, by decide +kernel, by decide +kernel⟩, by
     decide +kernel⟩,
   ⟨runX (dx (ctl 3 132 (2 ^ 49) (2 ^ 49) 0 0)), dx (ctl 3 132 (2 ^ 49) (2 ^ 49) 0 0), ⟨by constructor <;> decide +kernel, by
     decide +kernel, by decide +kernel⟩, by decide +kernel⟩,
   ⟨runX (dx (ctl 4 132 0 0 0 0)), dx (ctl 4 132 0 0 0 0), List.replicate 8 0, canonOf _ (by decide +kernel), ⟨by
     constructor <;> decide +kernel, by decide +kernel, by decide +kernel⟩, by decide +kernel, by decide +kernel, by decide +kernel,
     readableOf ⟨0, idLeaf⟩ (by decide +kernel), by decide +kernel⟩,
   ⟨runX (dx (ctl 4 132 0 0 0 0)), dx (ctl 4 132 0 0 0 0), List.replicate 8 63, canonOf _ (by decide +kernel), ⟨by
     constructor <;> decide +kernel, by decide +kernel, by decide +kernel⟩, by decide +kernel, by decide +kernel, by decide +kernel,
     readableOf ⟨0, idLeaf⟩ (by decide +kernel), by decide +kernel⟩,
   ⟨bound { en := true, pauto := true }, strm pmove .decoded, canonOf _ (by decide +kernel), (by constructor <;> decide +kernel), by
     decide +kernel⟩,
   ⟨bound { en := true, cauto := true, tail := 1, fill := 1 }, strm pmove .decoded, canonOf _ (by decide +kernel), (by
     constructor <;> decide +kernel), by decide +kernel⟩⟩

theorem witness_TilesAreGeneratedAndPrewalked :
    (∃ (s : State) (x : Machine.Stream), Acts s 0 x ∧ x.st = StreamSt.started ∧ dType x.desc = 1 ∧ x.tiles = [] ∧ x.last = false ∧ x.mcur
      < (mCnt x.desc).1 * (mCnt x.desc).2.1 * (mCnt x.desc).2.2)
    ∧ (∃ (s : State) (x : Machine.Stream), Acts s 0 x ∧ x.st = StreamSt.started ∧ dType x.desc = 1 ∧ x.tiles = [] ∧ x.last = false ∧ (mCnt
      x.desc).1 * (mCnt x.desc).2.1 * (mCnt x.desc).2.2 ≤ x.mcur ∧ x.slotP = none ∧ x.slotC = none)
    ∧ (∃ (s : State) (x : Machine.Stream) (t : Tile), Acts s 0 x ∧ x.st = StreamSt.started ∧ isData x.desc = true ∧ x.tiles = [t] ∧
      t.walked = false ∧ (∀ q ∈ t.need, reqMet t.xset q = true ∧ walkPending s 0 q.region = false) ∧ ∀ g ∈ mkGroups s x (chanCfg s
      0).mover x.gno t, ∀ l ∈ groupLocs g, absentCore s l = false) :=
  ⟨⟨runX (mvd 0), mvd 0, (by constructor <;> decide +kernel), by decide +kernel⟩,
   ⟨runX (mvd 1), mvd 1, (by constructor <;> decide +kernel), by decide +kernel⟩,
   ⟨runX { mvd 1 with tiles := [til] }, { mvd 1 with tiles := [til] }, til, (by constructor <;> decide +kernel), by decide +kernel⟩⟩

theorem witness_SignalsWriteAndAdd :
    (∃ (s : State) (x : Machine.Stream) (e : XEnt), Canon s ∧ Decoded s 0 x 5 ∧ sSop x.desc = 0 ∧ List.find? (fun y => y.region == dVa
      x.desc 2 / 2 ^ 25 && y.leaf.w) x.pre = some e ∧ dVa x.desc 2 % sSize x.desc = 0 ∧ leafLoc s e.leaf (dVa x.desc 2) = Loc.ext 0 ∧
      powered s (44 + memPortOf s 0 / 2) = true ∧ canTag s (Loc.ext 0) true (dPrio x.desc) = true ∧ (tget (fun x => 0) s.stage.fenceMem
      (memPortOf s 0)).getLsbD (chanCfg s 0).mover = false ∧ (dFinal x.desc = false ∨ Settled s 0))
    ∧ (∃ (s : State) (x : Machine.Stream) (e : XEnt), Canon s ∧ Decoded s 0 x 5 ∧ sSop x.desc = 1 ∧ List.find? (fun y => y.region == dVa
      x.desc 2 / 2 ^ 25 && y.leaf.w) x.pre = some e ∧ dVa x.desc 2 % sSize x.desc = 0 ∧ leafLoc s e.leaf (dVa x.desc 2) = Loc.ext 8 ∧
      powered s (44 + memPortOf s 8 / 2) = true ∧ canTag s (Loc.ext 8) true (dPrio x.desc) = true ∧ (tget (fun x => 0) s.stage.fenceMem
      (memPortOf s 8)).getLsbD (chanCfg s 0).mover = false ∧ (dFinal x.desc = false ∨ Settled s 0))
    ∧ (∃ (s : State) (x : Machine.Stream), Canon s ∧ Decoded s 0 x 5 ∧ sSop x.desc = 0 ∧ dFinal x.desc = true ∧ lateErr s 0 (sinceBack s
      0) = none ∧ writesOut s 0 (sinceBack s 0) = true)
    ∧ (∃ (s : State) (x : Machine.Stream) (l : Line), Canon s ∧ stream s 0 = some x ∧ x.wait = Wait.signal l.id ∧ lineOf s l.id = some l ∧
      l.ch = 0 ∧ l.dseq = (chan s 0).seq ∧ l.kind = LineKind.signal false false ∧ l.loc = Loc.ext 0 ∧ heldAtCore s l = false ∧ l.left = []
      ∧ l.echo = 0)
    ∧ (∃ (s : State) (x : Machine.Stream) (l : Line), Canon s ∧ stream s 0 = some x ∧ x.wait = Wait.signal l.id ∧ lineOf s l.id = some l ∧
      l.kind = LineKind.signal true true ∧ l.loc = Loc.stage 8 ∧ heldAtCore s l = false ∧ l.left = [] ∧ lineFenced s l = false ∧
      gateClosed s 8 = false ∧ 8 % 8 = 0 ∧ (poolOf s 8).isSome = true ∧ s.stage.bad.contains (8 / 8 * 8) = false) :=
  ⟨⟨runX (dx (ctl 5 0 0 7 0 0)), dx (ctl 5 0 0 7 0 0), ⟨0, idLeaf⟩, by
      refine ⟨canonOf _ (by decide +kernel), ⟨by constructor <;> decide +kernel, by decide +kernel, by decide +kernel⟩, ?_, ?_, ?_, ?_,
        ?_, ?_, ?_, .inl (by decide +kernel)⟩ <;> decide +kernel⟩,
   ⟨runX (dx (ctl 5 65 8 7 0 0)), dx (ctl 5 65 8 7 0 0), ⟨0, idLeaf⟩, by
       refine ⟨canonOf _ (by decide +kernel), ⟨by constructor <;> decide +kernel, by decide +kernel, by decide +kernel⟩, ?_, ?_, ?_, ?_,
         ?_, ?_, ?_, .inl (by decide +kernel)⟩ <;> decide +kernel⟩,
   ⟨withLines (runX (dx (ctl 2053 0 0 7 0 0))) [line (.write 0 0 0 false) (.ext 0)], dx (ctl 2053 0 0 7 0 0), canonOf _ (by
     decide +kernel), ⟨by constructor <;> decide +kernel, by decide +kernel, by decide +kernel⟩, by decide +kernel⟩,
   ⟨withLines (runX (wx (ctl 5 0 0 7 0 0) (.signal 7))) [line (.signal false false) (.ext 0)], wx (ctl 5 0 0 7 0 0) (.signal 7), line
     (.signal false false) (.ext 0), canonOf _ (by decide +kernel), by decide +kernel⟩,
   ⟨withLines (runX (wx (ctl 5 1 0 7 0 0) (.signal 7))) [line (.signal true true) (.stage 8)], wx (ctl 5 1 0 7 0 0) (.signal 7), line
     (.signal true true) (.stage 8), canonOf _ (by decide +kernel), by decide +kernel⟩⟩

theorem witness_SignalsHandOff :
    (∃ (s : State) (x : Machine.Stream), Canon s ∧ Decoded s 0 x 5 ∧ sSop x.desc = 2 ∧ Settled s 0 ∧ barObj s (chanCfg s 0).ctx (sBvid
      x.desc) = some 16 ∧ (chanSecure s 0 = true ∨ barSecure s 16 = false) ∧ barHome s 16 ≠ ownChip s)
    ∧ (∃ (s : State) (x : Machine.Stream), Canon s ∧ Decoded s 0 x 5 ∧ sSop x.desc = 2 ∧ Settled s 0 ∧ barObj s (chanCfg s 0).ctx (sBvid
      x.desc) = some 0 ∧ (chanSecure s 0 = true ∨ barSecure s 0 = false) ∧ barHome s 0 = ownChip s ∧ inBox s 0 (ownChip s) = true ∧ ((bar
      s 0).st = BarSt.idle ∨ (bar s 0).st = BarSt.gather ∧ (bar s 0).need.toNat = sPcount x.desc) ∧ (bar s 0).count.toNat + 1 ≠ sPcount
      x.desc + 1)
    ∧ (∃ (s : State) (x : Machine.Stream), Canon s ∧ Decoded s 0 x 5 ∧ sSop x.desc = 2 ∧ Settled s 0 ∧ barObj s (chanCfg s 0).ctx (sBvid
      x.desc) = some 0 ∧ (chanSecure s 0 = true ∨ barSecure s 0 = false) ∧ barHome s 0 = ownChip s ∧ inBox s 0 (ownChip s) = true ∧ ((bar
      s 0).st = BarSt.idle ∨ (bar s 0).st = BarSt.gather ∧ (bar s 0).need.toNat = sPcount x.desc) ∧ (bar s 0).count.toNat + 1 = sPcount
      x.desc + 1)
    ∧ (∃ (s : State) (x : Machine.Stream), stream s 0 = some x ∧ x.wait = Wait.ack 0)
    ∧ (∃ (s : State) (x : Machine.Stream), Decoded s 0 x 5 ∧ sSop x.desc = 3 ∧ Settled s 0 ∧ (hq s (sHq x.desc)).en = true ∧ BitVec.ofNat
      32 (dW x.desc 5 0 32) ≠ BitVec.allOnes 32 ∧ (chanSecure s 0 = true ∨ (hq s (sHq x.desc)).ns = true) ∧ 64 ≤ (hq s (sHq
      x.desc)).q.length)
    ∧ (∃ (s : State) (x : Machine.Stream), Decoded s 0 x 5 ∧ sSop x.desc = 3 ∧ Settled s 0 ∧ (hq s (sHq x.desc)).en = true ∧ BitVec.ofNat
      32 (dW x.desc 5 0 32) ≠ BitVec.allOnes 32 ∧ (chanSecure s 0 = true ∨ (hq s (sHq x.desc)).ns = true) ∧ (hq s (sHq x.desc)).q.length <
      64 ∧ Canon s ∧ ∀ (d : ℕ) (z : Machine.Stream), stream s d = some z → z.wait ≠ Wait.pop none ∧ z.wait ≠ Wait.push)
    ∧ (∃ (s : State) (x : Machine.Stream), Decoded s 0 x 5 ∧ sSop x.desc = 4 ∧ (true = true → Settled s 0) ∧ (chanSecure s 0 = true ∨
      (ring s (sRing x.desc)).ns = true) ∧ (ring s (sRing x.desc)).pauto = false ∧ (ring s (sRing x.desc)).en = true ∧ (ring s (sRing
      x.desc)).fault = false ∧ (true = true → (ring s (sRing x.desc)).fill ≠ (ring s (sRing x.desc)).nm1 + 1) ∧ (true = false → (ring s
      (sRing x.desc)).fill ≠ 0))
    ∧ (∃ (s : State) (x : Machine.Stream), Decoded s 0 x 5 ∧ sSop x.desc = 5 ∧ (false = true → Settled s 0) ∧ (chanSecure s 0 = true ∨
      (ring s (sRing x.desc)).ns = true) ∧ (ring s (sRing x.desc)).cauto = false ∧ (ring s (sRing x.desc)).en = true ∧ (ring s (sRing
      x.desc)).fault = false ∧ (false = true → (ring s (sRing x.desc)).fill ≠ (ring s (sRing x.desc)).nm1 + 1) ∧ (false = false → (ring s
      (sRing x.desc)).fill ≠ 0))
    ∧ (∃ (s : State) (x : Machine.Stream), Decoded s 0 x 5 ∧ sSop x.desc = 4 ∧ (true = true → Settled s 0) ∧ (chanSecure s 0 = true ∨
      (ring s (sRing x.desc)).ns = true) ∧ (ring s (sRing x.desc)).pauto = false ∧ ((ring s (sRing x.desc)).en = false ∨ (ring s (sRing
      x.desc)).fault = true ∨ (ring s (sRing x.desc)).fill = (ring s (sRing x.desc)).nm1 + 1))
    ∧ (∃ (s : State) (x : Machine.Stream), Canon s ∧ Decoded s 0 x 5 ∧ sSop x.desc = 6 ∧ Settled s 0 ∧ chState s (sChan x.desc) =
      ChSt.disabled)
    ∧ (∃ (s : State) (x : Machine.Stream), Canon s ∧ Decoded s 0 x 5 ∧ sSop x.desc = 6 ∧ Settled s 0 ∧ chState s (sChan x.desc) ≠
      ChSt.disabled ∧ (chan s (sChan x.desc)).blocked = false ∧ chanSecure s (sChan x.desc) = chanSecure s 0 ∧ chState s (sChan x.desc) =
      ChSt.idle ∧ 4096 * (chan s (sChan x.desc)).cqBase.toNat % (16 * 2 ^ (chan s (sChan x.desc)).log2n) = 0)
    ∧ (∃ (s : State) (x : Machine.Stream), Canon s ∧ Decoded s 0 x 5 ∧ sSop x.desc = 6 ∧ Settled s 0 ∧ chState s (sChan x.desc) ≠
      ChSt.disabled ∧ (chan s (sChan x.desc)).blocked = false ∧ chanSecure s (sChan x.desc) = chanSecure s 0 ∧ chState s (sChan x.desc) ≠
      ChSt.idle) :=
  ⟨⟨setBar (runX (dx (ctl 5 2 0 0 16 0))) 16 { home := some 1 }, dx (ctl 5 2 0 0 16 0), canonOf _ (by decide +kernel), ⟨by
    constructor <;> decide +kernel, by decide +kernel, by decide +kernel⟩, by decide +kernel, (by constructor <;> decide +kernel), by
    decide +kernel⟩,
   ⟨runX (dx (ctl 5 2 0 0 1024 0)), dx (ctl 5 2 0 0 1024 0), canonOf _ (by decide +kernel), ⟨by constructor <;> decide +kernel, by
     decide +kernel, by decide +kernel⟩, by decide +kernel, (by constructor <;> decide +kernel), by decide +kernel⟩,
   ⟨runX (dx (ctl 5 2 0 0 0 0)), dx (ctl 5 2 0 0 0 0), canonOf _ (by decide +kernel), ⟨by constructor <;> decide +kernel, by
     decide +kernel, by decide +kernel⟩, by decide +kernel, (by constructor <;> decide +kernel), by decide +kernel⟩,
   ⟨runX (wx (ctl 5 2 0 0 0 0) (.ack 0)), wx (ctl 5 2 0 0 0 0) (.ack 0), by decide +kernel⟩,
   ⟨withHq (runX (dx (ctl 5 3 0 0 0 1))) { en := true, q := List.replicate 64 1 }, dx (ctl 5 3 0 0 0 1), ⟨by
     constructor <;> decide +kernel, by decide +kernel, by decide +kernel⟩, by decide +kernel, (by constructor <;> decide +kernel), by
     decide +kernel⟩,
   ⟨withHq (runX (dx (ctl 5 3 0 0 0 1))) { en := true, q := List.replicate 63 1 }, dx (ctl 5 3 0 0 0 1), by
       refine ⟨⟨by constructor <;> decide +kernel, by decide +kernel, by decide +kernel⟩, ?_, (by constructor <;> decide +kernel), ?_, ?_,
         ?_, ?_, canonOf _ (by decide +kernel), noHqWait _ (by decide +kernel)⟩ <;> decide +kernel⟩,
   ⟨withRing (runX (dx (ctl 5 4 0 0 0 0))) { en := true, fill := 2 }, dx (ctl 5 4 0 0 0 0), ⟨by constructor <;> decide +kernel, by
     decide +kernel, by decide +kernel⟩, by decide +kernel, (fun _ => ⟨by decide +kernel, by decide +kernel⟩), by decide +kernel⟩,
   ⟨withRing (runX (dx (ctl 5 5 0 0 0 0))) { en := true, fill := 1 }, dx (ctl 5 5 0 0 0 0), ⟨by constructor <;> decide +kernel, by
     decide +kernel, by decide +kernel⟩, by decide +kernel, (fun h => by cases h), by decide +kernel⟩,
   ⟨withRing (runX (dx (ctl 5 4 0 0 0 0))) { en := true, fill := 3 }, dx (ctl 5 4 0 0 0 0), ⟨by constructor <;> decide +kernel, by
     decide +kernel, by decide +kernel⟩, by decide +kernel, (fun _ => ⟨by decide +kernel, by decide +kernel⟩), by decide +kernel⟩,
   ⟨runX (dx (ctl 5 6 0 0 (9 * 2 ^ 42) 0)), dx (ctl 5 6 0 0 (9 * 2 ^ 42) 0), canonOf _ (by decide +kernel), ⟨by
     constructor <;> decide +kernel, by decide +kernel, by decide +kernel⟩, by decide +kernel, (by constructor <;> decide +kernel), by
     decide +kernel⟩,
   ⟨runX (dx (ctl 5 6 0 0 (2 ^ 42) 0)), dx (ctl 5 6 0 0 (2 ^ 42) 0), canonOf _ (by decide +kernel), ⟨by constructor <;> decide +kernel, by
     decide +kernel, by decide +kernel⟩, by decide +kernel, (by constructor <;> decide +kernel), by decide +kernel⟩,
   ⟨setChan (runX (dx (ctl 5 6 0 0 (2 ^ 42) 0))) 1 { st := .halted }, dx (ctl 5 6 0 0 (2 ^ 42) 0), canonOf _ (by decide +kernel), ⟨by
     constructor <;> decide +kernel, by decide +kernel, by decide +kernel⟩, by decide +kernel, (by constructor <;> decide +kernel), by
     decide +kernel⟩⟩

theorem witness_WaitsCompleteOnTheirCondition :
    (∃ (s : State) (x : Machine.Stream), Decoded s 0 x 6 ∧ wWop x.desc = 0 ∧ barObj s (chanCfg s 0).ctx (wBvid x.desc) = some 0 ∧
      (chanSecure s 0 = true ∨ barSecure s 0 = false) ∧ (bar s 0).st ≠ BarSt.abandoned ∧ (bar s 0).st ≠ BarSt.poisoned)
    ∧ (∃ (s : State) (x : Machine.Stream) (e : XEnt), Canon s ∧ Decoded s 0 x 6 ∧ wWop x.desc = 1 ∧ List.find? (fun y => y.region == dVa
      x.desc 2 / 2 ^ 25) x.pre = some e ∧ (dVa x.desc 2 + (wSize x.desc - 1)) / 2 ^ 25 = dVa x.desc 2 / 2 ^ 25 ∧ ∀ k < wSize x.desc, ∃ pa,
      leafLoc s e.leaf (dVa x.desc 2 + k) = Loc.ext pa ∧ PollReady s 0 pa)
    ∧ (∃ (s : State) (x : Machine.Stream) (e : XEnt) (v : W64), Canon s ∧ Acts s 0 x ∧ x.st = StreamSt.started ∧ wCmp x.desc ≤ 5 ∧
      List.find? (fun y => y.region == dVa x.desc 2 / 2 ^ 25) x.pre = some e ∧ (dVa x.desc 2 + (wSize x.desc - 1)) / 2 ^ 25 = dVa x.desc 2
      / 2 ^ 25 ∧ x.wait = Wait.value true ∧ (∀ k < wSize x.desc, ∃ pa, leafLoc s e.leaf (dVa x.desc 2 + k) = Loc.ext pa ∧ PollReady s 0
      pa) ∧ valueIs x (BitVec.toNat v) = true)
    ∧ (∃ (s : State) (x : Machine.Stream) (e : XEnt) (v : W64), Canon s ∧ Acts s 0 x ∧ x.st = StreamSt.started ∧ wCmp x.desc ≤ 5 ∧
      List.find? (fun y => y.region == dVa x.desc 2 / 2 ^ 25) x.pre = some e ∧ (dVa x.desc 2 + (wSize x.desc - 1)) / 2 ^ 25 = dVa x.desc 2
      / 2 ^ 25 ∧ x.wait = Wait.value true ∧ (∀ k < wSize x.desc, ∃ pa, leafLoc s e.leaf (dVa x.desc 2 + k) = Loc.ext pa ∧ PollReady s 0
      pa) ∧ valueIs x (BitVec.toNat v) = false ∧ walkPending s 0 (dVa x.desc 2 / 2 ^ 25) = false ∧ powered s (56 + halfOf (dVa x.desc 2))
      = true ∧ tlbFind s (halfOf (dVa x.desc 2)) (ctx s (chanCfg s 0).ctx).asid (dVa x.desc 2 / 2 ^ 25) = some e.leaf)
    ∧ (∃ (s : State) (x : Machine.Stream) (e : XEnt), Canon s ∧ Acts s 0 x ∧ x.st = StreamSt.started ∧ wCmp x.desc ≤ 5 ∧ List.find? (fun y
      => y.region == dVa x.desc 2 / 2 ^ 25) x.pre = some e ∧ (dVa x.desc 2 + (wSize x.desc - 1)) / 2 ^ 25 = dVa x.desc 2 / 2 ^ 25 ∧ (∀ k <
      wSize x.desc, leafLoc s e.leaf (dVa x.desc 2 + k) = Loc.stage (0 + k) ∧ (poolOf s (0 + k)).isSome = true ∧ (chanSecure s 0 = true ∨
      stageSecure s (0 + k) = false) ∧ gateClosed s (0 + k) = false ∧ inFenced s (0 + k) (chanCfg s 0).mover = false ∧
      s.stage.bad.contains ((0 + k) / 8 * 8) = false) ∧ 0 % 128 = dVa x.desc 2 % 128 ∧ x.wait = Wait.value true ∧ wSize x.desc ≤ 128 - dVa
      x.desc 2 % 128 ∧ valueIs x (memNat s.stage.mem 0 (wSize x.desc)) = true)
    ∧ (∃ (s : State) (x : Machine.Stream) (e : XEnt), Canon s ∧ Acts s 0 x ∧ x.st = StreamSt.started ∧ wCmp x.desc ≤ 5 ∧ List.find? (fun y
      => y.region == dVa x.desc 2 / 2 ^ 25) x.pre = some e ∧ (dVa x.desc 2 + (wSize x.desc - 1)) / 2 ^ 25 = dVa x.desc 2 / 2 ^ 25 ∧ (∀ k <
      wSize x.desc, leafLoc s e.leaf (dVa x.desc 2 + k) = Loc.stage (0 + k) ∧ (poolOf s (0 + k)).isSome = true ∧ (chanSecure s 0 = true ∨
      stageSecure s (0 + k) = false) ∧ gateClosed s (0 + k) = false ∧ inFenced s (0 + k) (chanCfg s 0).mover = false ∧
      s.stage.bad.contains ((0 + k) / 8 * 8) = false) ∧ 0 % 128 = dVa x.desc 2 % 128 ∧ x.wait = Wait.value true ∧ wSize x.desc ≤ 128 - dVa
      x.desc 2 % 128 ∧ valueIs x (memNat s.stage.mem 0 (wSize x.desc)) = false ∧ walkPending s 0 (dVa x.desc 2 / 2 ^ 25) = false ∧ powered
      s (56 + halfOf (dVa x.desc 2)) = true ∧ tlbFind s (halfOf (dVa x.desc 2)) (ctx s (chanCfg s 0).ctx).asid (dVa x.desc 2 / 2 ^ 25) =
      some e.leaf)
    ∧ (∃ (s : State) (x : Machine.Stream) (e : XEnt), Canon s ∧ Acts s 0 x ∧ x.st = StreamSt.started ∧ wCmp x.desc ≤ 5 ∧ List.find? (fun y
      => y.region == dVa x.desc 2 / 2 ^ 25) x.pre = some e ∧ (dVa x.desc 2 + (wSize x.desc - 1)) / 2 ^ 25 = dVa x.desc 2 / 2 ^ 25 ∧ (∀ k <
      wSize x.desc, leafLoc s e.leaf (dVa x.desc 2 + k) = Loc.stage (126 + k) ∧ (poolOf s (126 + k)).isSome = true ∧ (chanSecure s 0 =
      true ∨ stageSecure s (126 + k) = false) ∧ gateClosed s (126 + k) = false ∧ inFenced s (126 + k) (chanCfg s 0).mover = false ∧
      s.stage.bad.contains ((126 + k) / 8 * 8) = false) ∧ 126 % 128 = dVa x.desc 2 % 128 ∧ x.wait = Wait.value true ∧ 128 - dVa x.desc 2 %
      128 < wSize x.desc)
    ∧ (∃ (s : State) (x : Machine.Stream) (e : XEnt) (low : List Byte), Canon s ∧ Acts s 0 x ∧ x.st = StreamSt.started ∧ wCmp x.desc ≤ 5 ∧
      List.find? (fun y => y.region == dVa x.desc 2 / 2 ^ 25) x.pre = some e ∧ (dVa x.desc 2 + (wSize x.desc - 1)) / 2 ^ 25 = dVa x.desc 2
      / 2 ^ 25 ∧ (∀ k < wSize x.desc, leafLoc s e.leaf (dVa x.desc 2 + k) = Loc.stage (126 + k) ∧ (poolOf s (126 + k)).isSome = true ∧
      (chanSecure s 0 = true ∨ stageSecure s (126 + k) = false) ∧ gateClosed s (126 + k) = false ∧ inFenced s (126 + k) (chanCfg s
      0).mover = false ∧ s.stage.bad.contains ((126 + k) / 8 * 8) = false) ∧ 126 % 128 = dVa x.desc 2 % 128 ∧ x.wait = Wait.valueHigh low
      ∧ low.length = 128 - dVa x.desc 2 % 128 ∧ 128 - dVa x.desc 2 % 128 < wSize x.desc ∧ valueIs x (leNat low + 2 ^ (8 * (128 - dVa
      x.desc 2 % 128)) * memNat s.stage.mem (126 + (128 - dVa x.desc 2 % 128)) (wSize x.desc - (128 - dVa x.desc 2 % 128))) = true)
    ∧ (∃ (s : State) (x : Machine.Stream) (e : XEnt), Canon s ∧ Decoded s 0 x 6 ∧ wWop x.desc = 2 ∧ List.find? (fun y => y.region == dVa
      x.desc 2 / 2 ^ 25 && y.leaf.w) x.pre = some e ∧ dVa x.desc 2 % 128 + 4 ≤ 128 ∧ leafLoc s e.leaf (dVa x.desc 2) = Loc.ext 0 ∧ (∀ (d :
      ℕ) (z : Machine.Stream), stream s d = some z → z.wait ≠ Wait.pop none ∧ z.wait ≠ Wait.push) ∧ (hq s (wHq x.desc)).en = true ∧
      (chanSecure s 0 = true ∨ (hq s (wHq x.desc)).ns = true) ∧ (hq s (wHq x.desc)).q = [])
    ∧ (∃ (s : State) (x : Machine.Stream) (e : XEnt) (h : W32) (rest : List W32), Canon s ∧ Decoded s 0 x 6 ∧ wWop x.desc = 2 ∧ List.find?
      (fun y => y.region == dVa x.desc 2 / 2 ^ 25 && y.leaf.w) x.pre = some e ∧ dVa x.desc 2 % 128 + 4 ≤ 128 ∧ leafLoc s e.leaf (dVa
      x.desc 2) = Loc.ext 0 ∧ (∀ (d : ℕ) (z : Machine.Stream), stream s d = some z → z.wait ≠ Wait.pop none ∧ z.wait ≠ Wait.push) ∧ (hq s
      (wHq x.desc)).en = true ∧ (chanSecure s 0 = true ∨ (hq s (wHq x.desc)).ns = true) ∧ (hq s (wHq x.desc)).q = h :: rest ∧ powered s
      (44 + memPortOf s 0 / 2) = true ∧ canTag s (Loc.ext 0) true (dPrio x.desc) = true ∧ (tget (fun x => 0) s.stage.fenceMem (memPortOf s
      0)).getLsbD (chanCfg s 0).mover = false)
    ∧ (∃ (s : State) (x : Machine.Stream), Decoded s 0 x 6 ∧ wWop x.desc = 3 ∧ (ring s (wRing x.desc)).en = true ∧ (ring s (wRing
      x.desc)).fault = false ∧ (chanSecure s 0 = true ∨ (ring s (wRing x.desc)).ns = true))
    ∧ (∃ (s : State) (x : Machine.Stream), Decoded s 0 x 6 ∧ wWop x.desc = 4 ∧ (ring s (wRing x.desc)).en = true ∧ (ring s (wRing
      x.desc)).fault = false ∧ (chanSecure s 0 = true ∨ (ring s (wRing x.desc)).ns = true))
    ∧ (∃ (s : State) (x : Machine.Stream), Acts s 0 x ∧ x.st = StreamSt.started ∧ dType x.desc = 6 ∧ wTimeout x.desc = 0)
    ∧ (∃ (s : State) (x : Machine.Stream), Acts s 0 x ∧ x.st = StreamSt.started ∧ dType x.desc = 6 ∧ wTimeout x.desc ≠ 0 ∧ ((∃ b, x.wait =
      Wait.value b) ∨ (∃ l, x.wait = Wait.valueHigh l) ∨ x.wait = Wait.pop none))
    ∧ (∃ (s : State) (x : Machine.Stream), Acts s 0 x ∧ x.st = StreamSt.started ∧ dType x.desc = 6 ∧ wTimeout x.desc ≠ 0 ∧ (x.wait =
      Wait.filled 0 ∨ x.wait = Wait.free 0) ∧ (chanSecure s 0 = true ∨ ringSecure s 0 = false))
    ∧ (∃ (s : State) (x : Machine.Stream), Acts s 3 x ∧ x.st = StreamSt.started ∧ dType x.desc = 6 ∧ wTimeout x.desc ≠ 0 ∧ (x.wait =
      Wait.filled 0 ∨ x.wait = Wait.free 0) ∧ chanSecure s 3 = false ∧ ringSecure s 0 = true) :=
  ⟨⟨runX (dx (ctl 6 0 0 0 0 0)), dx (ctl 6 0 0 0 0 0), ⟨by constructor <;> decide +kernel, by decide +kernel, by decide +kernel⟩, by
    decide +kernel⟩,
   ⟨runX (dx (ctl 6 1 0 0 0 0)), dx (ctl 6 1 0 0 0 0), ⟨0, idLeaf⟩, canonOf _ (by decide +kernel), ⟨by constructor <;> decide +kernel, by
     decide +kernel, by decide +kernel⟩, by decide +kernel, by decide +kernel, by decide +kernel, pollOf (by decide +kernel)⟩,
   ⟨runX (wx (ctl 6 81 0 0 (2 ^ 64 - 1) 0) (.value true)), wx (ctl 6 81 0 0 (2 ^ 64 - 1) 0) (.value true), ⟨0, idLeaf⟩, 0xFFFFFFFF, by
       refine ⟨canonOf _ (by decide +kernel), (by constructor <;> decide +kernel), ?_, ?_, ?_, ?_, ?_, pollOf (by decide +kernel),
         ?_⟩ <;> decide +kernel⟩,
   ⟨cached (runX (wx (ctl 6 81 0 0 (2 ^ 64 - 1) 0) (.value true))), wx (ctl 6 81 0 0 (2 ^ 64 - 1) 0) (.value true), ⟨0, idLeaf⟩, 0, by
       refine ⟨canonOf _ (by decide +kernel), (by constructor <;> decide +kernel), ?_, ?_, ?_, ?_, ?_, pollOf (by decide +kernel),
         ?_⟩ <;> decide +kernel⟩,
   ⟨runX (stg (wx (ctl 6 1 (2 ^ 30) 0 (2 ^ 64 - 1) 0) (.value true))), stg (wx (ctl 6 1 (2 ^ 30) 0 (2 ^ 64 - 1) 0) (.value true)), ⟨32,
     idLeaf⟩, canonOf _ (by decide +kernel), (by constructor <;> decide +kernel), by decide +kernel⟩,
   ⟨cached32 (runX (stg (wx (ctl 6 17 (2 ^ 30) 0 (2 ^ 64 - 1) 0) (.value true)))), stg (wx (ctl 6 17 (2 ^ 30) 0 (2 ^ 64 - 1) 0) (.value
     true)), ⟨32, idLeaf⟩, canonOf _ (by decide +kernel), (by constructor <;> decide +kernel), by decide +kernel⟩,
   ⟨runX (stg (wx (ctl 6 81 (2 ^ 30 + 126) 0 (2 ^ 64 - 1) 0) (.value true))), stg (wx (ctl 6 81 (2 ^ 30 + 126) 0 (2 ^ 64 - 1) 0) (.value
     true)), ⟨32, idLeaf⟩, canonOf _ (by decide +kernel), (by constructor <;> decide +kernel), by decide +kernel⟩,
   ⟨runX (stg (wx (ctl 6 65 (2 ^ 30 + 126) 0 (2 ^ 64 - 1) 0) (.valueHigh [0, 0]))), stg (wx (ctl 6 65 (2 ^ 30 + 126) 0 (2 ^ 64 - 1) 0)
     (.valueHigh [0, 0])), ⟨32, idLeaf⟩, [0, 0], canonOf _ (by decide +kernel), (by constructor <;> decide +kernel), by decide +kernel⟩,
   ⟨withHq (runX (dx (ctl 6 2 0 0 0 0))) { en := true }, dx (ctl 6 2 0 0 0 0), ⟨0, idLeaf⟩, by
       refine ⟨canonOf _ (by decide +kernel), ⟨by constructor <;> decide +kernel, by decide +kernel, by decide +kernel⟩, ?_, ?_, ?_, ?_,
         noHqWait _ (by decide +kernel), ?_⟩ <;> decide +kernel⟩,
   ⟨withHq (runX (dx (ctl 6 2 0 0 0 0))) { en := true, q := [5] }, dx (ctl 6 2 0 0 0 0), ⟨0, idLeaf⟩, 5, [], by
       refine ⟨canonOf _ (by decide +kernel), ⟨by constructor <;> decide +kernel, by decide +kernel, by decide +kernel⟩, ?_, ?_, ?_, ?_,
         noHqWait _ (by decide +kernel), ?_⟩ <;> decide +kernel⟩,
   ⟨withRing (runX (dx (ctl 6 3 0 0 0 0))) { en := true }, dx (ctl 6 3 0 0 0 0), ⟨by constructor <;> decide +kernel, by decide +kernel, by
     decide +kernel⟩, by decide +kernel⟩,
   ⟨withRing (runX (dx (ctl 6 4 0 0 0 0))) { en := true, fill := 3 }, dx (ctl 6 4 0 0 0 0), ⟨by constructor <;> decide +kernel, by
     decide +kernel, by decide +kernel⟩, by decide +kernel⟩,
   ⟨runX (wx (ctl 6 1 0 0 0 0) (.value true)), wx (ctl 6 1 0 0 0 0) (.value true), (by constructor <;> decide +kernel), by
     decide +kernel⟩,
   ⟨runX (wx (ctl 6 1 0 0 0 0 ||| BitVec.ofNat 512 (2 ^ 384)) (.value true)), wx (ctl 6 1 0 0 0 0 ||| BitVec.ofNat 512 (2 ^ 384)) (.value
     true), (by constructor <;> decide +kernel), by decide +kernel, by decide +kernel, by decide +kernel, .inl ⟨true, by decide +kernel⟩⟩,
   ⟨runX (wx (ctl 6 3 0 0 0 0 ||| BitVec.ofNat 512 (2 ^ 384)) (.filled 0)), wx (ctl 6 3 0 0 0 0 ||| BitVec.ofNat 512 (2 ^ 384)) (.filled
     0), (by constructor <;> decide +kernel), by decide +kernel⟩,
   ⟨runs run 3 (wx (ctl 6 3 0 0 0 0 ||| BitVec.ofNat 512 (2 ^ 384)) (.filled 0)), wx (ctl 6 3 0 0 0 0 ||| BitVec.ofNat 512 (2 ^ 384))
     (.filled 0), (by constructor <;> decide +kernel), by decide +kernel⟩⟩

theorem witness_OrderingDescriptors :
    (∃ (s : State) (x : Machine.Stream), Decoded s 0 x 7 ∧ tw x.desc 0 4 = 0 ∧ (lateErr s 0 fun x x_1 => true) = none ∧ (writesOut s 0 fun
      x x_1 => true) = false)
    ∧ (∃ (s : State) (x : Machine.Stream), Decoded s 0 x 7 ∧ tw x.desc 0 4 = 0 ∧ (lateErr s 0 fun x x_1 => true) = none ∧ (writesOut s 0
      fun x x_1 => true) = true ∧ x.wait ≠ Wait.drain)
    ∧ (∃ (s : State) (x : Machine.Stream) (e : LateErr), Decoded s 0 x 7 ∧ tw x.desc 0 4 = 0 ∧ Canon s ∧ (lateErr s 0 fun x x_1 => true) =
      some e)
    ∧ (∃ (s : State) (x : Machine.Stream), Decoded s 0 x 7 ∧ tw x.desc 0 4 = 1 ∧ chState s (dW x.desc 2 0 9) ≠ ChSt.disabled ∧ chanSecure
      s (dW x.desc 2 0 9) = chanSecure s 0)
    ∧ (∃ (s : State) (x : Machine.Stream), Decoded s 0 x 7 ∧ tw x.desc 0 4 = 2 ∧ barObj s (chanCfg s 0).ctx (dpBvid x.desc) = some 0 ∧
      (chanSecure s 0 = true ∨ barSecure s 0 = false) ∧ (bar s 0).st ≠ BarSt.abandoned ∧ (bar s 0).st ≠ BarSt.poisoned)
    ∧ (∃ (s : State) (x : Machine.Stream), Canon s ∧ Decoded s 0 x 8 ∧ tw x.desc 2 2 = 0 ∧ (lateErr s 0 fun x_1 cls => decide (cls ≤ tw
      x.desc 0 2)) = none)
    ∧ (∃ (s : State) (x : Machine.Stream), Canon s ∧ Decoded s 0 x 8 ∧ tw x.desc 2 2 = 1 ∧ (lateErr s 0 fun x_1 cls => decide (cls ≤ tw
      x.desc 0 2)) = none)
    ∧ (∃ (s : State) (x : Machine.Stream), Canon s ∧ Decoded s 0 x 8 ∧ tw x.desc 2 2 = 2 ∧ (lateErr s 0 fun x_1 cls => decide (cls ≤ tw
      x.desc 0 2)) = none)
    ∧ (∃ (s : State) (x : Machine.Stream), Canon s ∧ Decoded s 0 x 8 ∧ tw x.desc 2 2 = 0) :=
  ⟨⟨runX (dx (dsc 7 0)), dx (dsc 7 0), ⟨by constructor <;> decide +kernel, by decide +kernel, by decide +kernel⟩, by decide +kernel⟩,
   ⟨withLines (runX (dx (dsc 7 0))) [line (.write 0 0 0 false) (.ext 0)], dx (dsc 7 0), ⟨by constructor <;> decide +kernel, by
     decide +kernel, by decide +kernel⟩, by decide +kernel⟩,
   ⟨setChan run 0 { st := .running, late := [lateE], stream := some (dx (dsc 7 0)) }, dx (dsc 7 0), lateE, ⟨by
     constructor <;> decide +kernel, by decide +kernel, by decide +kernel⟩, by decide +kernel, canonOf _ (by decide +kernel), by
     decide +kernel⟩,
   ⟨runX (dx (ctl 7 1 1 0 0 0)), dx (ctl 7 1 1 0 0 0), ⟨by constructor <;> decide +kernel, by decide +kernel, by decide +kernel⟩, by
     decide +kernel⟩,
   ⟨runX (dx (ctl 7 2 0 0 0 0)), dx (ctl 7 2 0 0 0 0), ⟨by constructor <;> decide +kernel, by decide +kernel, by decide +kernel⟩, by
     decide +kernel⟩,
   ⟨runX (dx (ctl 8 2 0 0 0 0)), dx (ctl 8 2 0 0 0 0), canonOf _ (by decide +kernel), ⟨by constructor <;> decide +kernel, by
     decide +kernel, by decide +kernel⟩, by decide +kernel⟩,
   ⟨runX (dx (ctl 8 4 0 0 0 0)), dx (ctl 8 4 0 0 0 0), canonOf _ (by decide +kernel), ⟨by constructor <;> decide +kernel, by
     decide +kernel, by decide +kernel⟩, by decide +kernel⟩,
   ⟨runX (dx (ctl 8 8 0 0 0 0)), dx (ctl 8 8 0 0 0 0), canonOf _ (by decide +kernel), ⟨by constructor <;> decide +kernel, by
     decide +kernel, by decide +kernel⟩, by decide +kernel⟩,
   ⟨withLines (runX (dx (ctl 8 1 0 0 0 0))) [line (.write 0 0 0 false) (.ext 0)], dx (ctl 8 1 0 0 0 0), canonOf _ (by decide +kernel), ⟨by
     constructor <;> decide +kernel, by decide +kernel, by decide +kernel⟩, by decide +kernel⟩⟩

theorem witness_RearmMailboxAdvise :
    (∃ (s : State) (x : Machine.Stream), Canon s ∧ Decoded s 0 x 9 ∧ rStop x.desc = false ∧ (chState s (rTchan x.desc) ≠ ChSt.parked ∨
      (chanCfg s (rTchan x.desc)).ctx ≠ (chanCfg s 0).ctx))
    ∧ (∃ (s : State) (x : Machine.Stream) (y : Machine.Stream), Canon s ∧ Decoded s 0 x 9 ∧ rStop x.desc = false ∧ chState s (rTchan
      x.desc) = ChSt.parked ∧ (chanCfg s (rTchan x.desc)).ctx = (chanCfg s 0).ctx ∧ stream s (rTchan x.desc) = some y ∧ false = false ∧
      rearmFails x.desc y = [] ∧ (chan s (rTchan x.desc)).recOut = none)
    ∧ (∃ (s : State) (x : Machine.Stream) (y : Machine.Stream), Canon s ∧ Decoded s 0 x 9 ∧ rStop x.desc = false ∧ chState s (rTchan
      x.desc) = ChSt.parked ∧ (chanCfg s (rTchan x.desc)).ctx = (chanCfg s 0).ctx ∧ stream s (rTchan x.desc) = some y ∧ (chan s (rTchan
      x.desc)).recOut ≠ none ∧ (false = true ∨ rearmFails x.desc y = []))
    ∧ (∃ (s : State) (x : Machine.Stream) (y : Machine.Stream), Canon s ∧ Decoded s 0 x 9 ∧ rStop x.desc = true ∧ chState s (rTchan
      x.desc) = ChSt.parked ∧ (chanCfg s (rTchan x.desc)).ctx = (chanCfg s 0).ctx ∧ stream s (rTchan x.desc) = some y ∧ true = true ∧
      (chan s (rTchan x.desc)).recOut = none)
    ∧ (∃ (s : State) (x : Machine.Stream) (bs : List Byte), Canon s ∧ Decoded s 0 x 10 ∧ (chanSecure s 0 = true ∨ mbSecure s (tw x.desc 0
      5) = false) ∧ (bitOf x.desc 43 = true → Settled s 0) ∧ (bitOf x.desc 42 = false → Readable s 0 x (mbSrc x.desc) (4 * tw x.desc 5 5)
      ∧ bs.length = 4 * tw x.desc 5 5) ∧ (bitOf x.desc 42 = true → tw x.desc 5 5 ≤ 12) ∧ tw x.desc 5 5 ≤ 16 ∧ (mb s (tw x.desc 0 5)).go =
      false)
    ∧ (∃ (s : State) (x : Machine.Stream) (bs : List Byte), Canon s ∧ Decoded s 0 x 10 ∧ (chanSecure s 0 = true ∨ mbSecure s (tw x.desc 0
      5) = false) ∧ (bitOf x.desc 43 = true → Settled s 0) ∧ (bitOf x.desc 42 = false → Readable s 0 x (mbSrc x.desc) (4 * tw x.desc 5 5)
      ∧ bs.length = 4 * tw x.desc 5 5) ∧ (bitOf x.desc 42 = true → tw x.desc 5 5 ≤ 12) ∧ tw x.desc 5 5 ≤ 16 ∧ (mb s (tw x.desc 0 5)).go =
      true ∧ bitOf x.desc 44 = true)
    ∧ (∃ (s : State) (x : Machine.Stream) (bs : List Byte), Canon s ∧ Decoded s 0 x 10 ∧ (chanSecure s 0 = true ∨ mbSecure s (tw x.desc 0
      5) = false) ∧ (bitOf x.desc 43 = true → Settled s 0) ∧ (bitOf x.desc 42 = false → Readable s 0 x (mbSrc x.desc) (4 * tw x.desc 5 5)
      ∧ bs.length = 4 * tw x.desc 5 5) ∧ (bitOf x.desc 42 = true → tw x.desc 5 5 ≤ 12) ∧ tw x.desc 5 5 ≤ 16 ∧ (mb s (tw x.desc 0 5)).go =
      true ∧ bitOf x.desc 44 = false)
    ∧ (∃ (s : State) (x : Machine.Stream), Decoded s 0 x 11 ∧ tw x.desc 0 4 = 0)
    ∧ (∃ (s : State) (x : Machine.Stream), Decoded s 0 x 11 ∧ tw x.desc 0 4 = 1)
    ∧ (∃ (s : State) (x : Machine.Stream) (l : Leaf), Canon s ∧ Decoded s 0 x 11 ∧ tw x.desc 0 4 = 2 ∧ walkPending s 0 (dVa x.desc 2 / 2 ^
      25) = false ∧ powered s (56 + halfOf (dVa x.desc 2)) = true ∧ tlbFind s (halfOf (dVa x.desc 2)) (ctx s (chanCfg s 0).ctx).asid (dVa
      x.desc 2 / 2 ^ 25) = some l)
    ∧ (∃ (s : State) (x : Machine.Stream), Acts s 0 x ∧ x.st = StreamSt.started ∧ x.wait = Wait.warm 1 ∧ advRegions x ≤ 1)
    ∧ (∃ (s : State) (x : Machine.Stream), Decoded s 0 x 11 ∧ tw x.desc 0 4 = 3) :=
  ⟨⟨runX (dx (ctl 9 (9 + 2 ^ 9) 0 0 0 0)), dx (ctl 9 (9 + 2 ^ 9) 0 0 0 0), canonOf _ (by decide +kernel), ⟨by
    constructor <;> decide +kernel, by decide +kernel, by decide +kernel⟩, by decide +kernel⟩,
   ⟨parked (runX (dx (ctl 9 (1 + 2 ^ 9) 64 0 0 0))), dx (ctl 9 (1 + 2 ^ 9) 64 0 0 0), strm pmove .decoded, canonOf _ (by decide +kernel),
     ⟨by constructor <;> decide +kernel, by decide +kernel, by decide +kernel⟩, by decide +kernel⟩,
   ⟨parkedOut (runX (dx (ctl 9 (1 + 2 ^ 9) 64 0 0 0))), dx (ctl 9 (1 + 2 ^ 9) 64 0 0 0), strm pmove .decoded, canonOf _ (by
     decide +kernel), ⟨by constructor <;> decide +kernel, by decide +kernel, by decide +kernel⟩, by decide +kernel⟩,
   ⟨parked (runX (dx (ctl 9 (1 + 2 ^ 13) 0 0 0 0))), dx (ctl 9 (1 + 2 ^ 13) 0 0 0 0), strm pmove .decoded, canonOf _ (by decide +kernel),
     ⟨by constructor <;> decide +kernel, by decide +kernel, by decide +kernel⟩, by decide +kernel⟩,
   ⟨runX (dx (ctl 10 (16 * 2 ^ 5) 0 0 0 0)), dx (ctl 10 (16 * 2 ^ 5) 0 0 0 0), List.replicate 64 1, canonOf _ (by decide +kernel), ⟨by
     constructor <;> decide +kernel, by decide +kernel, by decide +kernel⟩, by decide +kernel, (fun _ => ⟨by decide +kernel, by
     decide +kernel⟩), (fun _ => ⟨readableOf ⟨0, idLeaf⟩ (by decide +kernel), by decide +kernel⟩), by decide +kernel⟩,
   ⟨setMb (runX (dx (ctl 10 (12 * 2 ^ 5 + 2 ^ 10 + 2 ^ 11 + 2 ^ 12) 0 0 0 0))) 0 { go := true }, dx (ctl 10 (12 * 2 ^ 5 + 2 ^ 10 + 2 ^ 11
     + 2 ^ 12) 0 0 0 0), [], canonOf _ (by decide +kernel), ⟨by constructor <;> decide +kernel, by decide +kernel, by decide +kernel⟩, by
     decide +kernel, (fun _ => ⟨by decide +kernel, by decide +kernel⟩), (fun h => absurd h (by decide +kernel)), by decide +kernel⟩,
   ⟨setMb (runX (dx (ctl 10 (2 ^ 10) 0 0 0 0))) 0 { go := true }, dx (ctl 10 (2 ^ 10) 0 0 0 0), [], canonOf _ (by decide +kernel), ⟨by
     constructor <;> decide +kernel, by decide +kernel, by decide +kernel⟩, by decide +kernel, (fun _ => ⟨by decide +kernel, by
     decide +kernel⟩), (fun h => absurd h (by decide +kernel)), by decide +kernel⟩,
   ⟨runX (dx (ctl 11 0 0 1 0 0)), dx (ctl 11 0 0 1 0 0), ⟨by constructor <;> decide +kernel, by decide +kernel, by decide +kernel⟩, by
     decide +kernel⟩,
   ⟨runX (dx (ctl 11 1 0 1 0 0)), dx (ctl 11 1 0 1 0 0), ⟨by constructor <;> decide +kernel, by decide +kernel, by decide +kernel⟩, by
     decide +kernel⟩,
   ⟨cached (runX (dx (ctl 11 2 0 1 0 0))), dx (ctl 11 2 0 1 0 0), idLeaf, canonOf _ (by decide +kernel), ⟨by
     constructor <;> decide +kernel, by decide +kernel, by decide +kernel⟩, by decide +kernel⟩,
   ⟨runX (wx (ctl 11 2 0 1 0 0) (.warm 1)), wx (ctl 11 2 0 1 0 0) (.warm 1), (by constructor <;> decide +kernel), by decide +kernel⟩,
   ⟨runX (dx (ctl 11 3 0 1 0 0)), dx (ctl 11 3 0 1 0 0), ⟨by constructor <;> decide +kernel, by decide +kernel, by decide +kernel⟩, by
     decide +kernel⟩⟩

theorem witness_LinesAreIssued :
    (∃ (s : State) (x : Machine.Stream) (t : Tile) (g : Machine.Group), Canon s ∧ operating s = true ∧ moverReady s 0 = true ∧ slots s 0 =
      [0] ∧ (chanCfg s 0).mover = 0 ∧ flowing s 0 = some x ∧ readTurn s x = true ∧ x.tiles = [t] ∧ t.groups = [g] ∧ g.toRead = [(Loc.ext
      0, RdKind.data, 0)] ∧ (g.reserved = true ∨ canLand s 0 g = true) ∧ canTag s (Loc.ext 0) false (dPrio x.desc) = true ∧ locReady s
      (Loc.ext 0) = true ∧ g.quad ∈ moverQuads s 0 ∧ quadLanes s 0 g.quad ≠ [] ∧ echoPage s x t RdKind.data (Loc.ext 0) = false ∧ (∀ lane
      ∈ quadLanes s 0 g.quad, placeLeft (tickWin8 s 0 false) (lane / 4) false = true) ∧ Loc.ext 0 = Loc.ext 0 ∧ tget (fun x => 0)
      s.stage.fenceMem (memPortOf s 0) = 0)
    ∧ (∃ (s : State) (x : Machine.Stream) (t : Tile) (g : Machine.Group), Canon s ∧ operating s = true ∧ moverReady s 0 = true ∧ slots s 0
      = [0] ∧ (chanCfg s 0).mover = 0 ∧ flowing s 0 = some x ∧ readTurn s x = true ∧ x.tiles = [t] ∧ t.groups = [g] ∧ g.toRead =
      [(Loc.stage 0, RdKind.data, 0)] ∧ (g.reserved = true ∨ canLand s 0 g = true) ∧ canTag s (Loc.stage 0) false (dPrio x.desc) = true ∧
      locReady s (Loc.stage 0) = true ∧ g.quad ∈ moverQuads s 0 ∧ quadLanes s 0 g.quad ≠ [] ∧ echoPage s x t RdKind.data (Loc.stage 0) =
      false ∧ (∀ lane ∈ quadLanes s 0 g.quad, placeLeft (tickWin8 s 0 false) (lane / 4) false = true) ∧ Loc.stage 0 = Loc.stage 0 ∧
      chanSecure s 0 = true ∧ (bg s ((placeOf s 0).getD (0, 0, 0)).1).fence = 0)
    ∧ (∃ (s : State) (x : Machine.Stream) (t : Tile) (g : Machine.Group) (r : Ready), Canon s ∧ operating s = true ∧ moverReady s 0 = true
      ∧ slots s 0 = [0] ∧ (chanCfg s 0).mover = 0 ∧ flowing s 0 = some x ∧ dFinal x.desc = false ∧ x.tiles = [t] ∧ t.groups = [g] ∧
      g.ready = [r] ∧ r.line.loc = Loc.ext 0 ∧ canTag s (Loc.ext 0) true (dPrio x.desc) = true ∧ stradBlocked s 0 x t r.line = false ∧
      quadLanes s 0 g.quad ≠ [] ∧ powered s (44 + memPortOf s 0 / 2) = true ∧ tget (fun x => 0) s.stage.fenceMem (memPortOf s 0) = 0 ∧ ∀
      lane ∈ quadLanes s 0 g.quad, placeLeft (tickWin8 s 0 true) (lane / 4) true = true)
    ∧ (∃ (s : State) (x : Machine.Stream) (t : Tile) (g : Machine.Group) (r : Ready), Canon s ∧ flowing s 0 = some x ∧ x.tiles = [t] ∧
      t.walked = true ∧ t.groups = [g] ∧ g.toRead = [] ∧ g.outs = [] ∧ g.emitted = [] ∧ g.ready = [r] ∧ heldLine s x t r.line = true ∧
      genMore s x = some false ∧ r.line.loc = Loc.ext 0 ∧ canTag s (Loc.ext 0) true (dPrio x.desc) = true ∧ powered s (44 + memPortOf s 0
      / 2) = true ∧ tget (fun x => 0) s.stage.fenceMem (memPortOf s 0) = 0 ∧ quadLanes s (chanCfg s 0).mover g.quad ≠ [] ∧ List.flatMap
      (writeCands s) (slots s (chanCfg s 0).mover) = [] ∧ (∀ lane ∈ quadLanes s (chanCfg s 0).mover g.quad, placeLeft s (lane / 4) true =
      true) ∧ descLines s 0 = true)
    ∧ (∃ (s : State) (x : Machine.Stream) (t : Tile) (g : Machine.Group) (r : Ready), Canon s ∧ flowing s 0 = some x ∧ x.tiles = [t] ∧
      t.walked = true ∧ t.groups = [g] ∧ g.toRead = [] ∧ g.outs = [] ∧ g.emitted = [] ∧ g.ready = [r] ∧ heldLine s x t r.line = true ∧
      genMore s x = some false ∧ r.line.loc = Loc.ext 0 ∧ canTag s (Loc.ext 0) true (dPrio x.desc) = true ∧ powered s (44 + memPortOf s 0
      / 2) = true ∧ tget (fun x => 0) s.stage.fenceMem (memPortOf s 0) = 0 ∧ quadLanes s (chanCfg s 0).mover g.quad ≠ [] ∧ List.flatMap
      (writeCands s) (slots s (chanCfg s 0).mover) = [] ∧ (∀ lane ∈ quadLanes s (chanCfg s 0).mover g.quad, placeLeft s (lane / 4) true =
      true) ∧ descLines s 0 = false)
    ∧ (∃ (s : State) (l : Line) (rest : List ℕ), lineOf s l.id = some l ∧ l.loc = Loc.relay 0 0 ∧ l.left = 1 :: rest ∧ l.left.contains
      lostMark = false ∧ l.echo = 0 ∧ heldAtCore s l = false ∧ chainWaits s 0 1 l.id = false ∧ coreFenced s 1 (coreInput s 1 l) = false ∧
      coreErr s 1 0 true = false ∧ actPos s 1 0 = none) :=
  ⟨⟨slotX (gx 132 (gRd (.ext 0))), gx 132 (gRd (.ext 0)), tilG (gRd (.ext 0)), gRd (.ext 0), canonOf _ (by decide +kernel), by
    decide +kernel⟩,
   ⟨slotX (gx 132 (gRd (.stage 0))), gx 132 (gRd (.stage 0)), tilG (gRd (.stage 0)), gRd (.stage 0), canonOf _ (by decide +kernel), by
     decide +kernel⟩,
   ⟨slotX (gx 132 (gWr false)), gx 132 (gWr false), tilG (gWr false), gWr false, rdy false, canonOf _ (by decide +kernel), by
     decide +kernel⟩,
   ⟨withLines (runX (fx (gWr true))) [wline (.ext 0)], fx (gWr true), tilG (gWr true), gWr true, rdy true, canonOf _ (by decide +kernel),
     by decide +kernel⟩,
   ⟨runX (fx (gWr true)), fx (gWr true), tilG (gWr true), gWr true, rdy true, canonOf _ (by decide +kernel), by decide +kernel⟩,
   ⟨withLines coreUp [relayed], relayed, [], by decide +kernel⟩⟩

theorem witness_LinesLandAndEnd :
    (∃ (s : State) (x : Machine.Stream) (t : Tile) (g : Machine.Group) (l : Line), Canon s ∧ lineOf s l.id = some l ∧ stream s l.ch = some
      x ∧ l.dseq = (chan s l.ch).seq ∧ x.tiles = [t] ∧ t.groups = [g] ∧ l.kind = LineKind.read t.no t.att g.no RdKind.data 0 ∧ l.left = []
      ∧ l.echo = 0 ∧ l.loc = Loc.ext 0)
    ∧ (∃ (s : State) (x : Machine.Stream) (t : Tile) (g : Machine.Group) (l : Line), Canon s ∧ lineOf s l.id = some l ∧ stream s l.ch =
      some x ∧ l.dseq = (chan s l.ch).seq ∧ x.tiles = [t] ∧ t.groups = [g] ∧ l.kind = LineKind.read t.no t.att g.no RdKind.data 0 ∧ l.left
      = [] ∧ l.echo = 0 ∧ l.loc = Loc.stage 0 ∧ lineFenced s l = false ∧ gateClosed s 0 = false ∧ (poolOf s 0).isSome = true ∧ badWords s
      0 fullBe = [] ∧ x.st = StreamSt.started ∧ x.spent + x.retries < 3 ∧ dAcc x.desc = false)
    ∧ (∃ (s : State) (x : Machine.Stream) (t : Tile) (g : Machine.Group) (o : OutLine), Canon s ∧ flowing s 0 = some x ∧ x.tiles = [t] ∧
      t.groups = [g] ∧ g.outs = [o] ∧ allLanded s x t g (o.pairs ++ blockPairs x t o.pairs) = true ∧ powered s (8 + g.quad) = true ∧ casts
      x.desc = true)
    ∧ (∃ (s : State) (x : Machine.Stream) (t : Tile) (g : Machine.Group) (o : OutLine), Canon s ∧ flowing s 0 = some x ∧ x.tiles = [t] ∧
      t.groups = [g] ∧ g.outs = [o] ∧ allLanded s x t g (o.pairs ++ blockPairs x t o.pairs) = true ∧ powered s (8 + g.quad) = true ∧ casts
      x.desc = false)
    ∧ (∃ (s : State) (x : Machine.Stream) (t : Tile) (g : Machine.Group) (e : Emitted), Canon s ∧ flowing s 0 = some x ∧ x.tiles = [t] ∧
      t.groups = [g] ∧ g.emitted = [e] ∧ castReady s x t g e.line = true ∧ quadLanes s (chanCfg s 0).mover g.quad ≠ [] ∧ ∀ n < max 1
      (moverWidth s (chanCfg s 0).mover), powered s (12 + ((chanCfg s 0).mover + n) / 4) = true)
    ∧ (∃ (s : State) (l : Line), Canon s ∧ lineOf s l.id = some l ∧ l.kind = LineKind.write 0 0 1 false ∧ l.left = [] ∧ l.echo = 0 ∧
      heldAtCore s l = false ∧ l.loc = Loc.ext 0)
    ∧ (∃ (s : State) (l : Line), Canon s ∧ lineOf s l.id = some l ∧ l.kind = LineKind.write 0 0 1 false ∧ l.left = [] ∧ l.echo = 0 ∧
      heldAtCore s l = false ∧ l.loc = Loc.stage 128 ∧ lineFenced s l = false ∧ gateClosed s 128 = false ∧ (poolOf s 128).isSome = true ∧
      badWords s 128 l.be = [])
    ∧ (∃ (s : State) (x : Machine.Stream) (t : Tile) (l : Line), Canon s ∧ lineOf s l.id = some l ∧ l.loc = Loc.ext 0 ∧ l.echo = 0 ∧
      l.left = [] ∧ heldAtCore s l = false ∧ stream s l.ch = some x ∧ l.dseq = (chan s l.ch).seq ∧ x.st = StreamSt.started ∧ x.tiles = [t]
      ∧ t.no = 0 ∧ ((∃ g k o, l.kind = LineKind.read 0 t.att g k o) ∨ ∃ o a, l.kind = LineKind.write 0 t.att o a) ∧ ErrResp.world =
      ErrResp.world)
    ∧ (∃ (s : State) (x : Machine.Stream) (t : Tile) (l : Line), Canon s ∧ lineOf s l.id = some l ∧ l.loc = Loc.ext 0 ∧ l.echo = 0 ∧
      l.left = [] ∧ heldAtCore s l = false ∧ stream s l.ch = some x ∧ l.dseq = (chan s l.ch).seq ∧ x.st = StreamSt.started ∧ x.tiles = [t]
      ∧ t.no = 0 ∧ ((∃ g k o, l.kind = LineKind.read 0 t.att g k o) ∨ ∃ o a, l.kind = LineKind.write 0 t.att o a) ∧ ErrResp.poison ≠
      ErrResp.world ∧ x.spent + x.retries < 3 ∧ dAcc x.desc = false)
    ∧ (∃ (s : State) (x : Machine.Stream) (t : Tile) (l : Line), Canon s ∧ lineOf s l.id = some l ∧ l.loc = Loc.ext 0 ∧ l.echo = 0 ∧
      l.left = [] ∧ heldAtCore s l = false ∧ stream s l.ch = some x ∧ l.dseq = (chan s l.ch).seq ∧ x.st = StreamSt.started ∧ x.tiles = [t]
      ∧ t.no = 0 ∧ ((∃ g k o, l.kind = LineKind.read 0 t.att g k o) ∨ ∃ o a, l.kind = LineKind.write 0 t.att o a) ∧ ErrResp.error ≠
      ErrResp.world ∧ 3 ≤ x.spent + x.retries)
    ∧ (∃ (s : State) (l : Line), Canon s ∧ lineOf s l.id = some l ∧ isWrite l.kind = true ∧ (∀ (p i : ℕ), l.kind ≠ LineKind.inbound p i) ∧
      l.dseq ≠ (chan s l.ch).seq)
    ∧ (∃ (s : State) (l : Line) (x : Machine.Stream), Canon s ∧ lineOf s l.id = some l ∧ l.kind = LineKind.write 0 0 1 false ∧ l.dseq =
      (chan s l.ch).seq ∧ stream s l.ch = some x ∧ x.st = StreamSt.done 0 0 ∧ waitsAcks x = false)
    ∧ (∃ (s : State) (id : BitVec 16), ownOf s (65536 * 0 + id.toNat) = some (own7 true) ∧ s.boot.phase = BlkPhase.running ∧ (own7
      true).kind = OwnKind.dead true ∧ (own7 true).port = 0)
    ∧ (∃ (s : State) (id : BitVec 16), ownOf s (65536 * 0 + id.toNat) = some (own7 false) ∧ s.boot.phase = BlkPhase.running ∧ (own7
      false).kind = OwnKind.dead false)
    ∧ (∃ (s : State) (id : BitVec 16), ownOf s (65536 * 0 + id.toNat) = some (own7 true) ∧ (s.boot.phase ≠ BlkPhase.running ∨ ∀ (b :
      Bool), (own7 true).kind ≠ OwnKind.dead b)) :=
  ⟨⟨withLines (runX (gx 132 (gRd (.ext 0)))) [rline (.ext 0)], gx 132 (gRd (.ext 0)), tilG (gRd (.ext 0)), gRd (.ext 0), rline (.ext 0),
    canonOf _ (by decide +kernel), by decide +kernel⟩,
   ⟨withLines (runX (gx 132 (gRd (.stage 0)))) [rline (.stage 0)], gx 132 (gRd (.stage 0)), tilG (gRd (.stage 0)), gRd (.stage 0), rline
     (.stage 0), canonOf _ (by decide +kernel), by decide +kernel⟩,
   ⟨runX (gx (132 + 2 ^ 13) gOut), gx (132 + 2 ^ 13) gOut, tilG gOut, gOut, oln false, canonOf _ (by decide +kernel), by decide +kernel⟩,
   ⟨runX (gx 132 gOut), gx 132 gOut, tilG gOut, gOut, oln false, canonOf _ (by decide +kernel), by decide +kernel⟩,
   ⟨runX (gx 132 gEm), gx 132 gEm, tilG gEm, gEm, emt, canonOf _ (by decide +kernel), by decide +kernel⟩,
   ⟨withLines (runX (gx 132 gOut)) [wline (.ext 0)], wline (.ext 0), canonOf _ (by decide +kernel), by decide +kernel⟩,
   ⟨withLines (runX (gx 132 gOut)) [wline (.stage 128)], wline (.stage 128), canonOf _ (by decide +kernel), by decide +kernel⟩,
   ⟨withLines (runX (retried (gx 132 (gWr false)) 0)) [wline (.ext 0)], retried (gx 132 (gWr false)) 0, tilG (gWr false), wline (.ext 0),
     by
       refine ⟨canonOf _ (by decide +kernel), ?_, ?_, ?_, ?_, ?_, ?_, ?_, ?_, ?_, ?_, .inr ⟨1, false, rfl⟩, ?_⟩ <;> decide +kernel⟩,
   ⟨withLines (runX (retried (gx 132 (gWr false)) 2)) [wline (.ext 0)], retried (gx 132 (gWr false)) 2, tilG (gWr false), wline (.ext 0),
     by
       refine ⟨canonOf _ (by decide +kernel), ?_, ?_, ?_, ?_, ?_, ?_, ?_, ?_, ?_, ?_, .inr ⟨1, false, rfl⟩, ?_⟩ <;> decide +kernel⟩,
   ⟨withLines (runX (retried (gx 132 (gWr false)) 3)) [wline (.ext 0)], retried (gx 132 (gWr false)) 3, tilG (gWr false), wline (.ext 0),
     by
       refine ⟨canonOf _ (by decide +kernel), ?_, ?_, ?_, ?_, ?_, ?_, ?_, ?_, ?_, ?_, .inr ⟨1, false, rfl⟩, ?_⟩ <;> decide +kernel⟩,
   ⟨withLines (setChan run 0 { seq := 1 }) [wline (.ext 0)], wline (.ext 0), canonOf _ (by decide +kernel), by decide +kernel, by
     decide +kernel, (fun _ _ h => by cases h), by decide +kernel⟩,
   ⟨withLines (runX endedX) [wline (.ext 0)], wline (.ext 0), endedX, canonOf _ (by decide +kernel), by decide +kernel⟩,
   ⟨{ run with ports := { own := [own7 true] } }, 7, by decide +kernel⟩,
   ⟨{ run with ports := { own := [own7 false] } }, 7, by decide +kernel⟩,
   ⟨{ inPhase .cold 0 with ports := { own := [own7 true] } }, 7, by decide +kernel⟩⟩

theorem witness_ContextsSwitch :
    (∃ (s : State) (v : W32), Canon s ∧ Served s (49152 + 64 * 0) false (ctxSecure s 0) ∧ bitOf v 1 = false ∧ bitOf v 2 = false ∧ bitOf v
      3 = false ∧ (ctx s 0).st = CtxSt.run)
    ∧ (∃ (s : State) (v : W32), Canon s ∧ Served s (49152 + 64 * 0) false (ctxSecure s 0) ∧ bitOf v 1 = false ∧ bitOf v 2 = false ∧ bitOf
      v 3 = false ∧ (ctx s 0).st ≠ CtxSt.run)
    ∧ (∃ (s : State) (v : W32), Canon s ∧ Served s (49152 + 64 * 0) false (ctxSecure s 0) ∧ bitOf v 0 = false ∧ bitOf v 2 = false ∧ bitOf
      v 3 = false ∧ (ctx s 0).st = CtxSt.out)
    ∧ (∃ (s : State) (v : W32), Canon s ∧ Served s (49152 + 64 * 0) false (ctxSecure s 0) ∧ bitOf v 0 = false ∧ bitOf v 2 = false ∧ bitOf
      v 3 = false ∧ (ctx s 0).st ≠ CtxSt.out)
    ∧ (∃ (s : State) (v : W32), Canon s ∧ Served s (49152 + 64 * 0) false (ctxSecure s 0) ∧ bitOf v 0 = false ∧ bitOf v 1 = false ∧ bitOf
      v 3 = false ∧ (ctx s 0).st = CtxSt.out)
    ∧ (∃ (s : State), Canon s ∧ Served s (49152 + 64 * 0) false (ctxSecure s 0) ∧ ((ctx s 0).st = CtxSt.out ∨ ctxStill s 0 = true))
    ∧ (∃ (s : State), Canon s ∧ Served s (49152 + 64 * 0) false (ctxSecure s 0) ∧ (ctx s 0).st = CtxSt.run ∧ ctxStill s 0 = false)
    ∧ (∃ (s : State), Canon s ∧ operating s = true ∧ (ctx s 0).st = CtxSt.switching ∧ ctxStill s 0 = true ∧ (ctx s 0).killing = false ∧
      (ctx s 0).restoring = false ∧ areaWaits s 0 = false)
    ∧ (∃ (s : State), operating s = false ∨ areaWaits s 0 = true)
    ∧ (∃ (s : State), Canon s ∧ operating s = true ∧ (ctx s 0).st = CtxSt.resuming ∧ (ctx s 0).restoring = false ∧ areaWaits s 0 = false ∧
      ∀ (d : ℕ) (x : Machine.Stream) (o : ℕ) (tag : BitVec 2) (dep : Bool), stream s d = some x → x.wait ≠ Wait.barrier o tag dep) :=
  ⟨⟨run, 1, canonOf _ (by decide +kernel), (by constructor <;> decide +kernel), by decide +kernel⟩,
   ⟨inCtx run .out, 1, canonOf _ (by decide +kernel), (by constructor <;> decide +kernel), by decide +kernel⟩,
   ⟨inCtx run .out, 2, canonOf _ (by decide +kernel), (by constructor <;> decide +kernel), by decide +kernel⟩,
   ⟨run, 2, canonOf _ (by decide +kernel), (by constructor <;> decide +kernel), by decide +kernel⟩,
   ⟨inCtx run .out, 4, canonOf _ (by decide +kernel), (by constructor <;> decide +kernel), by decide +kernel⟩,
   ⟨run, canonOf _ (by decide +kernel), (by constructor <;> decide +kernel), by decide +kernel⟩,
   ⟨runX (gx 132 (gWr false)), canonOf _ (by decide +kernel), (by constructor <;> decide +kernel), by decide +kernel⟩,
   ⟨inCtx run .switching, canonOf _ (by decide +kernel), by decide +kernel⟩,
   ⟨State.reset, by decide +kernel⟩,
   ⟨inCtx run .resuming, by
       refine ⟨canonOf _ (by decide +kernel), ?_, ?_, ?_, ?_, noBarWait _ (by decide +kernel)⟩ <;> decide +kernel⟩⟩

theorem witness_WalksAndFaultRecords :
    (∃ (s : State) (v : Walk) (e : W64), Canon s ∧ s.xl.walks = [v] ∧ v.st = WalkSt.reading ∧ v.advice = false ∧ v.reqs = [reqW false] ∧
      (reqW false).warm = false ∧ bitOf e 0 = false)
    ∧ (∃ (s : State) (v : Walk) (e : W64), Canon s ∧ s.xl.walks = [v] ∧ v.st = WalkSt.reading ∧ v.advice = false ∧ v.reqs = [reqW false] ∧
      (reqW false).warm = false ∧ bitOf e 0 = true ∧ badEntry s v.level e = true)
    ∧ (∃ (s : State) (v : Walk) (e : W64), Canon s ∧ s.xl.walks = [v] ∧ v.st = WalkSt.reading ∧ v.advice = false ∧ v.reqs = [reqW true] ∧
      (reqW true).warm = false ∧ bitOf e 0 = true ∧ badEntry s v.level e = false ∧ bitOf e 1 = true ∧ (reqW true).write = true ∧
      (entryLeaf v.level e).w = false)
    ∧ (∃ (s : State) (v : Walk) (e : W64), Canon s ∧ s.xl.walks = [v] ∧ v.st = WalkSt.reading ∧ v.advice = false ∧ v.reqs = [reqW true] ∧
      (reqW true).warm = false ∧ bitOf e 0 = true ∧ badEntry s v.level e = false ∧ bitOf e 1 = true ∧ ((reqW true).write = false ∨
      (entryLeaf v.level e).w = true))
    ∧ (∃ (s : State) (v : Walk) (e : W64), Canon s ∧ s.xl.walks = [v] ∧ v.st = WalkSt.reading ∧ v.advice = false ∧ v.reqs = [reqW false] ∧
      (reqW false).warm = false ∧ bitOf e 0 = true ∧ badEntry s v.level e = false ∧ bitOf e 1 = false ∧ inMiozer s (fld e 8 44 * 256) =
      false ∧ powered s (44 + memPortOf s (entryAddr { v with level := v.level + 1, table := fld e 8 44 * 256 }) / 2) = true ∧ memFenced s
      (memPortOf s (entryAddr { v with level := v.level + 1, table := fld e 8 44 * 256 })) (chanCfg s (reqW false).ch).mover = false)
    ∧ (∃ (s : State) (v : Walk), Canon s ∧ s.xl.walks = [v] ∧ v.st = WalkSt.reading ∧ v.advice = false ∧ v.reqs = [reqW false] ∧ (reqW
      false).warm = false ∧ ∀ (w : W64), WalkAns.error ≠ WalkAns.okay w)
    ∧ (∃ (s : State) (v : Walk) (f : FRec), Canon s ∧ s.xl.walks = [v] ∧ v.st = WalkSt.holding ∧ v.held = some f ∧ (s.xl.fqEn = false ∨
      (s.xl.fqTail.toNat + 1) % 2 ^ s.xl.fqLog2n = s.xl.fqHead.toNat % 2 ^ s.xl.fqLog2n))
    ∧ (∃ (s : State) (v : Walk) (f : FRec), Canon s ∧ s.xl.walks = [v] ∧ v.st = WalkSt.holding ∧ v.held = some f ∧ s.xl.fqEn = true ∧
      ¬(s.xl.fqTail.toNat + 1) % 2 ^ s.xl.fqLog2n = s.xl.fqHead.toNat % 2 ^ s.xl.fqLog2n ∧ operating s = true ∧ v.advice = false ∧ anyGate
      s [locOf s (4096 * s.xl.fqBase.toNat + 64 * s.xl.fqTail.toNat)] = false)
    ∧ (∃ (s : State) (v : Walk) (f : FRec), Canon s ∧ s.xl.walks = [v] ∧ v.st = WalkSt.holding ∧ v.held = some f ∧ s.xl.fqEn = true ∧
      ¬(s.xl.fqTail.toNat + 1) % 2 ^ s.xl.fqLog2n = s.xl.fqHead.toNat % 2 ^ s.xl.fqLog2n ∧ operating s = true ∧ v.advice = false ∧ anyGate
      s [locOf s (4096 * s.xl.fqBase.toNat + 64 * s.xl.fqTail.toNat)] = false ∧ locOf s (4096 * s.xl.fqBase.toNat + 64 *
      s.xl.fqTail.toNat) = Loc.stage 0 ∧ 0 % 64 = 0 ∧ (domSecure s 56 = true ∨ stageSecure s 0 = false) ∧ (poolOf s (0 / 128 *
      128)).isSome = true)
    ∧ (∃ (s : State) (v : Walk) (f : FRec), Canon s ∧ s.xl.walks = [v] ∧ v.st = WalkSt.writing ∧ v.held = some f) :=
  ⟨⟨xlIs { walks := [wlk false] }, wlk false, 0, canonOf _ (by decide +kernel), by decide +kernel⟩,
   ⟨xlIs { walks := [wlk false] }, wlk false, 5, canonOf _ (by decide +kernel), by decide +kernel⟩,
   ⟨xlIs { walks := [wlk true] }, wlk true, 3, canonOf _ (by decide +kernel), by decide +kernel⟩,
   ⟨xlIs { walks := [wlk true] }, wlk true, 7, canonOf _ (by decide +kernel), by decide +kernel⟩,
   ⟨xlIs { walks := [wlk false] }, wlk false, 1, canonOf _ (by decide +kernel), by decide +kernel⟩,
   ⟨xlIs { walks := [wlk false] }, wlk false, by
       refine ⟨canonOf _ (by decide +kernel), ?_, ?_, ?_, ?_, ?_, (fun _ h => by cases h)⟩ <;> decide +kernel⟩,
   ⟨xlIs { walks := [wlkH .holding] }, wlkH .holding, frc, canonOf _ (by decide +kernel), by decide +kernel⟩,
   ⟨xlIs { walks := [wlkH .holding], fqEn := true }, wlkH .holding, frc, canonOf _ (by decide +kernel), by decide +kernel⟩,
   ⟨xlIs { walks := [wlkH .holding], fqEn := true, fqBase := 262144 }, wlkH .holding, frc, canonOf _ (by decide +kernel), by
     decide +kernel⟩,
   ⟨xlIs { walks := [wlkH .writing] }, wlkH .writing, frc, canonOf _ (by decide +kernel), by decide +kernel⟩⟩

theorem witness_TranslationRegisters :
    (∃ (s : State), Served s (54272 + 16 * 0 + 0) false (ctxSecure s 0) ∧ ctxQuiet s 0 = true)
    ∧ (∃ (s : State), Served s (54272 + 16 * 0 + 8) false (ctxSecure s 0) ∧ ctxQuiet s 0 = false)
    ∧ (∃ (s : State) (v : W32), Served s 53248 false (domSecure s 56) ∧ s.xl.fqEn = false ∧ (false = true ∨ 4 ≤ fld v 0 4 ∧ fld v 0 4 ≤
      10))
    ∧ (∃ (s : State) (v : W32), Served s 53252 false (domSecure s 56) ∧ s.xl.fqEn = false ∧ (true = true ∨ 4 ≤ fld v 0 4 ∧ fld v 0 4 ≤
      10))
    ∧ (∃ (s : State) (v : W32), Served s 53248 false (domSecure s 56) ∧ s.xl.fqEn = false ∧ (false = true ∨ 4 ≤ fld v 0 4 ∧ fld v 0 4 ≤
      10))
    ∧ (∃ (s : State), Served s 53248 false (domSecure s 56) ∧ s.xl.fqEn = true)
    ∧ (∃ (s : State) (v : W32), Served s 53264 false (domSecure s 56) ∧ ¬(bitOf v 0 = true ∧ s.xl.fqEn = false ∧ 4096 * s.xl.fqBase.toNat
      % (64 * 2 ^ s.xl.fqLog2n) ≠ 0))
    ∧ (∃ (s : State) (v : W32), Served s 53264 false (domSecure s 56) ∧ bitOf v 0 = true ∧ s.xl.fqEn = false ∧ 4096 * s.xl.fqBase.toNat %
      (64 * 2 ^ s.xl.fqLog2n) ≠ 0)
    ∧ (∃ (s : State), Served s 53256 false (domSecure s 56))
    ∧ (∃ (s : State) (v : W32), Served s 53272 false (domSecure s 56) ∧ bitOf v 0 = true ∧ s.xl.invBusy = true)
    ∧ (∃ (s : State), Served s 53272 false (domSecure s 56))
    ∧ (∃ (s : State), s.xl.invBusy = true ∧ oldXlate s = false)
    ∧ (∃ (s : State) (v : W32), Canon s ∧ Served s 53276 false (domSecure s 56) ∧ List.find? (fun a => a.1 == BitVec.ofNat 16 (fld v 0
      16)) s.xl.adv = some (BitVec.ofNat 16 (fld v 0 16), 0, false))
    ∧ (∃ (s : State) (v : W32), Served s (57344 + 8 * 3 + 4) false (winSecure s 3) ∧ 3 < (im s).windows ∧
      ¬({ (win s 3) with size := BitVec.ofNat 15 (fld v 0 15) }.valid = true ∧
      ({ (win s 3) with size := BitVec.ofNat 15 (fld v 0 15) }.size = 0 ∨ 16384 <
      { (win s 3) with size := BitVec.ofNat 15 (fld v 0 15) }.base.toNat +
      { (win s 3) with size := BitVec.ofNat 15 (fld v 0 15) }.size.toNat)))
    ∧ (∃ (s : State) (v : W32), Served s (57344 + 8 * 3 + 0) false (winSecure s 3) ∧ 3 < (im s).windows ∧
      { (win s 3) with valid := bitOf v 31, base := BitVec.ofNat 14 (fld v 0 14) }.valid = true ∧
      ({ (win s 3) with valid := bitOf v 31, base := BitVec.ofNat 14 (fld v 0 14) }.size = 0 ∨ 16384 <
      { (win s 3) with valid := bitOf v 31, base := BitVec.ofNat 14 (fld v 0 14) }.base.toNat +
      { (win s 3) with valid := bitOf v 31, base := BitVec.ofNat 14 (fld v 0 14) }.size.toNat))
    ∧ (∃ (s : State), Served s (53340 + 32 * 1) false (domSecure s (56 + 1))) :=
  ⟨⟨run, (by constructor <;> decide +kernel), by decide +kernel⟩,
   ⟨inCh .running, (by constructor <;> decide +kernel), by decide +kernel⟩,
   ⟨run, 4, (by constructor <;> decide +kernel), by decide +kernel⟩,
   ⟨run, 10, (by constructor <;> decide +kernel), by decide +kernel⟩,
   ⟨run, 10, (by constructor <;> decide +kernel), by decide +kernel⟩,
   ⟨xlIs { fqEn := true }, (by constructor <;> decide +kernel), by decide +kernel⟩,
   ⟨run, 1, (by constructor <;> decide +kernel), by decide +kernel⟩,
   ⟨xlIs { fqBase := 1, fqLog2n := 10 }, 1, (by constructor <;> decide +kernel), by decide +kernel⟩,
   ⟨run, (by constructor <;> decide +kernel)⟩,
   ⟨xlIs { invBusy := true }, 1, (by constructor <;> decide +kernel), by decide +kernel⟩,
   ⟨run, (by constructor <;> decide +kernel)⟩,
   ⟨xlIs { invBusy := true }, by decide +kernel⟩,
   ⟨advd, 3, canonOf _ (by decide +kernel), (by constructor <;> decide +kernel), by decide +kernel⟩,
   ⟨run, 1, (by constructor <;> decide +kernel), by decide +kernel⟩,
   ⟨run, BitVec.ofNat 32 (2 ^ 31), (by constructor <;> decide +kernel), by decide +kernel⟩,
   ⟨run, (by constructor <;> decide +kernel)⟩⟩

theorem witness_RingAndQueueRegisters :
    (∃ (s : State) (v : W32), Served s (ringOff 0 28) false (ringSecure s 0) ∧ bitOf v 2 = false ∧ bitOf v 1 = false ∧ (ring s 0).en =
      true ∧ (ring s 0).fault = false ∧ (ring s 0).fill ≠ (ring s 0).nm1 + 1 ∧ (ring s 0).pauto = false)
    ∧ (∃ (s : State) (v : W32), Served s (ringOff 0 28) false (ringSecure s 0) ∧ bitOf v 2 = false ∧ bitOf v 0 = false ∧ (ring s 0).en =
      true ∧ (ring s 0).fault = false ∧ (ring s 0).fill ≠ 0 ∧ (ring s 0).cauto = false)
    ∧ (∃ (s : State) (v : W32), Served s (ringOff 0 28) false (ringSecure s 0) ∧ bitOf v 2 = false ∧ bitOf v 1 = false ∧ ¬((ring s 0).en =
      true ∧ (ring s 0).fault = false ∧ (ring s 0).fill ≠ (ring s 0).nm1 + 1 ∧ (ring s 0).pauto = false))
    ∧ (∃ (s : State) (v : W32), Served s (ringOff 0 28) false (ringSecure s 0) ∧ bitOf v 0 = false ∧ bitOf v 1 = false ∧ (ring s 0).resP =
      [] ∧ (ring s 0).resC = [])
    ∧ (∃ (s : State) (v : W32), Served s (ringOff 0 28) false (ringSecure s 0) ∧ bitOf v 0 = false ∧ bitOf v 1 = false ∧ ((ring s 0).resP
      ≠ [] ∨ (ring s 0).resC ≠ []))
    ∧ (∃ (s : State) (v : W32), Served s (ringOff 0 0) false (ringSecure s 0) ∧ (ring s 0).en = false ∧ 2 ≤ fld v 16 8 ∧ (bitOf v 0 =
      false ∨ bindOk (nsNotice s (ringOff 0 0) false v) 0 (cfgRing s v) = true))
    ∧ (∃ (s : State) (v : W32), Served s (ringOff 0 0) false (ringSecure s 0) ∧ (ring s 0).en = false ∧ 2 ≤ fld v 16 8 ∧ bitOf v 0 = true
      ∧ bindOk (nsNotice s (ringOff 0 0) false v) 0 (cfgRing s v) = false)
    ∧ (∃ (s : State) (v : W32), Canon s ∧ (∀ (d : ℕ) (z : Machine.Stream), stream s d = some z → z.wait ≠ Wait.pop none ∧ z.wait ≠
      Wait.push) ∧ Served s (69636 + 16 * 0) false (hqSecure s 0) ∧ (hq s 0).en = true ∧ v ≠ BitVec.allOnes 32 ∧ (hq s 0).q.length < 64)
    ∧ (∃ (s : State) (v : W32), Canon s ∧ (∀ (d : ℕ) (z : Machine.Stream), stream s d = some z → z.wait ≠ Wait.pop none ∧ z.wait ≠
      Wait.push) ∧ Served s (69636 + 16 * 0) false (hqSecure s 0) ∧ (hq s 0).en = true ∧ v ≠ BitVec.allOnes 32 ∧ 64 ≤ (hq s 0).q.length)
    ∧ (∃ (s : State) (h : W32) (rest : List W32), Canon s ∧ (∀ (d : ℕ) (z : Machine.Stream), stream s d = some z → z.wait ≠ Wait.pop none
      ∧ z.wait ≠ Wait.push) ∧ Served s (69640 + 16 * 0) false (hqSecure s 0) ∧ (hq s 0).en = true ∧ (hq s 0).q = h :: rest)
    ∧ (∃ (s : State), Canon s ∧ (∀ (d : ℕ) (z : Machine.Stream), stream s d = some z → z.wait ≠ Wait.pop none ∧ z.wait ≠ Wait.push) ∧
      Served s (69640 + 16 * 0) false (hqSecure s 0) ∧ (hq s 0).en = true ∧ (hq s 0).q = [])
    ∧ (∃ (s : State), Canon s ∧ (∀ (d : ℕ) (z : Machine.Stream), stream s d = some z → z.wait ≠ Wait.pop none ∧ z.wait ≠ Wait.push) ∧
      Served s (69632 + 16 * 0) false (hqSecure s 0)) :=
  ⟨⟨withRing run { en := true, fill := 2 }, 1, (by constructor <;> decide +kernel), by decide +kernel⟩,
   ⟨withRing run { en := true, fill := 1 }, 2, (by constructor <;> decide +kernel), by decide +kernel⟩,
   ⟨withRing run { en := true, fill := 3 }, 1, (by constructor <;> decide +kernel), by decide +kernel⟩,
   ⟨run, 4, (by constructor <;> decide +kernel), by decide +kernel⟩,
   ⟨withRing run { resP := [(0, false)] }, 4, (by constructor <;> decide +kernel), by decide +kernel⟩,
   ⟨run, BitVec.ofNat 32 (1 + 2 * 2 ^ 16), (by constructor <;> decide +kernel), by decide +kernel⟩,
   ⟨run, BitVec.ofNat 32 (5 + 2 * 2 ^ 16), (by constructor <;> decide +kernel), by decide +kernel⟩,
   ⟨withHq run { en := true, q := List.replicate 63 1 }, 1, canonOf _ (by decide +kernel), noHqWait _ (by decide +kernel), (by
     constructor <;> decide +kernel), by decide +kernel⟩,
   ⟨withHq run { en := true, q := List.replicate 64 1 }, 1, canonOf _ (by decide +kernel), noHqWait _ (by decide +kernel), (by
     constructor <;> decide +kernel), by decide +kernel⟩,
   ⟨withHq run { en := true, q := [5] }, 5, [], canonOf _ (by decide +kernel), noHqWait _ (by decide +kernel), (by
     constructor <;> decide +kernel), by decide +kernel⟩,
   ⟨withHq run { en := true }, canonOf _ (by decide +kernel), noHqWait _ (by decide +kernel), (by constructor <;> decide +kernel), by
     decide +kernel⟩,
   ⟨run, canonOf _ (by decide +kernel), noHqWait _ (by decide +kernel), (by constructor <;> decide +kernel)⟩⟩

theorem witness_DataPathRegisters :
    (∃ (s : State), Served s 28752 false (echoSecure s))
    ∧ (∃ (s : State), Served s (28800 + 4 * 0) false (relaySecure s 0) ∧ (relay s 0).en = true)
    ∧ (∃ (s : State) (v : W32), Served s (28800 + 4 * 0) false (relaySecure s 0) ∧ (relay s 0).en = false ∧ (bitOf v 16 = true → relayOk s
      (List.filter (fun k => bitOf v k) (List.range 16)) = true))
    ∧ (∃ (s : State) (v : W32), Served s (28800 + 4 * 0) false (relaySecure s 0) ∧ (relay s 0).en = false ∧ ¬(bitOf v 16 = true → relayOk
      s (List.filter (fun k => bitOf v k) (List.range 16)) = true))
    ∧ (∃ (s : State), Served s 28744 false (domSecure s 60))
    ∧ (∃ (s : State), Served s (106496 + 64 * 3) false (domSecure s (8 + 3)))
    ∧ (∃ (s : State), Served s (106524 + 64 * 0) false (domSecure s (8 + 0)))
    ∧ (∃ (s : State) (v : W32), Served s (110624 + 64 * 0) false (domSecure s (12 + 0)) ∧ bitOf v 1 = false)
    ∧ (∃ (s : State) (v : W32), Served s (110624 + 64 * 0) false (domSecure s (12 + 0)) ∧ bitOf v 0 = false)
    ∧ (∃ (s : State), Served s (114716 + 64 * 0) false (domSecure s (20 + 0)))
    ∧ (∃ (s : State), Served s (24844 + 16 * 0) false (memThere s 0 && domSecure s (44 + 0 / 2)))
    ∧ (∃ (s : State), Served s (115716 + 16 * 1) false (poolSecure s 1) ∧ 1 < (im s).pools.length) :=
  ⟨⟨run, (by constructor <;> decide +kernel)⟩,
   ⟨setRelay run 0 { en := true, members := 1 }, (by constructor <;> decide +kernel), by decide +kernel⟩,
   ⟨run, BitVec.ofNat 32 (1 + 2 ^ 16), (by constructor <;> decide +kernel), by decide +kernel⟩,
   ⟨run, BitVec.ofNat 32 (2 ^ 16), (by constructor <;> decide +kernel), by decide +kernel⟩,
   ⟨run, (by constructor <;> decide +kernel)⟩,
   ⟨run, (by constructor <;> decide +kernel)⟩,
   ⟨run, (by constructor <;> decide +kernel)⟩,
   ⟨run, 1, (by constructor <;> decide +kernel), by decide +kernel⟩,
   ⟨run, 2, (by constructor <;> decide +kernel), by decide +kernel⟩,
   ⟨run, (by constructor <;> decide +kernel)⟩,
   ⟨run, (by constructor <;> decide +kernel)⟩,
   ⟨run, (by constructor <;> decide +kernel), by decide +kernel⟩⟩

theorem witness_StageKeepsItself :
    (∃ (s : State), Canon s ∧ poolIn s 0 0 = some { base := 0, size := 1, bgmask := 1, echo := false, ns := false } ∧
      ({ base := 0, size := 1, bgmask := 1, echo := false, ns := false } : PoolCfg).echo = false)
    ∧ (∃ (s : State), Canon s ∧ poolIn s 1 1 = some { base := 1, size := 1, bgmask := 2, echo := true, ns := false } ∧
      ({ base := 1, size := 1, bgmask := 2, echo := true, ns := false } : PoolCfg).echo = true)
    ∧ (∃ (s : State) (cnt : Vector ℕ 8), Canon s ∧ poolIn s 0 0 = some { base := 0, size := 1, bgmask := 1, echo := false, ns := false } ∧
      ((poolSt s 0).armed = true ∨ (poolSt s 0).dis = true ∨ (if (poolSt s 0).thresh.toNat ≤ List.foldl max 0 cnt.toList - List.foldl min
      (cnt.toList.headD 0) cnt.toList then min 2 (tget (fun x => 0) (poolSt s 0).hits 0 + 1) else 0) < 2))
    ∧ (∃ (s : State), (bg s 0).fence.getLsbD 35 = true)
    ∧ (∃ (s : State), Canon s ∧ (bg s 0).migr.contains 0 = true ∧ (bg s 0).fence.getLsbD 35 = false ∧ ((bg s 0).migr.erase 0).contains 0 =
      false ∧ ∀ k < 16, k ≠ 0 → (bg s k).migr.contains 0 = false)
    ∧ (∃ (s : State), Canon s ∧ (bg s 0).migr.contains 0 = true ∧ (bg s 0).fence.getLsbD 35 = false ∧ s.ports.inq = [] ∧ 15 < 16 ∧ 15 ≠ 0
      ∧ (bg s 15).migr.contains 0 = true)
    ∧ (∃ (s : State) (ls : List ℕ), Canon s ∧ (bg s 0).scrubDis = false ∧ (bg s 0).fence.getLsbD 35 = false ∧ powered s (20 + 0) = true ∧
      nextRow s 0 4096 (bg s 0).pos.toNat = some (0, ls))
    ∧ (∃ (s : State), s.boot.phase ≠ BlkPhase.running)
    ∧ (∃ (s : State), Canon s ∧ s.boot.phase = BlkPhase.running) :=
  ⟨⟨run, canonOf _ (by decide +kernel), by decide +kernel⟩,
   ⟨run, canonOf _ (by decide +kernel), by decide +kernel⟩,
   ⟨run, cfl 1024, canonOf _ (by decide +kernel), by decide +kernel⟩,
   ⟨setBg run 0 { fence := BitVec.ofNat 36 (2 ^ 35) }, by decide +kernel⟩,
   ⟨setBg run 0 { migr := [0] }, canonOf _ (by decide +kernel), by decide +kernel⟩,
   ⟨setBg (setBg run 0 { migr := [0] }) 15 { migr := [0] }, canonOf _ (by decide +kernel), by decide +kernel⟩,
   ⟨run, [0, 128, 256, 384, 512, 640, 768, 896], canonOf _ (by decide +kernel), by decide +kernel⟩,
   ⟨inPhase .cold 0, by decide +kernel⟩,
   ⟨run, canonOf _ (by decide +kernel), by decide +kernel⟩⟩

theorem witness_InboundRequestsAreServed :
    (∃ (s : State) (r : FabReq), Canon s ∧ operating s = true ∧ true = true ∧ (s.img.isNone = true ∨ (im s).mPresent.getLsbD 0 = true) ∧
      locOf s r.addr.toNat = Loc.stage 0 ∧ (poolOf s 0).isSome = true ∧ r.size = 3 ∧ r.op.toNat ≤ 1 ∧ badWords s (0 / 128 * 128) (if r.op
      = 0 then fullBe else r.be) = [] ∧ s.ports.inq = [] ∧ (∀ l ∈ s.path.lines, ∀ (p i : ℕ), l.kind ≠ LineKind.inbound p i) ∧ (powered s
      (44 + 0 / 2) = false ∨ inWaits s 0 33 = true))
    ∧ (∃ (s : State) (r : FabReq), Canon s ∧ operating s = true ∧ s.pins.crdy.getLsbD 0 = true ∧ (s.img.isNone = true ∨ (im
      s).cPresent.getLsbD 0 = true) ∧ locOf s r.addr.toNat = Loc.stage 0 ∧ (poolOf s 0).isSome = true ∧ r.size = 3 ∧ r.op.toNat ≤ 1 ∧
      badWords s (0 / 128 * 128) (if r.op = 0 then fullBe else r.be) = [] ∧ s.ports.inq = [] ∧ (∀ l ∈ s.path.lines, ∀ (p i : ℕ), l.kind ≠
      LineKind.inbound p i) ∧ (powered s (48 + 0 / 2) = false ∨ inWaits s 0 32 = true))
    ∧ (∃ (s : State) (r : FabReq), Canon s ∧ operating s = true ∧ true = true ∧ (s.img.isNone = true ∨ (im s).mPresent.getLsbD 0 = true) ∧
      locOf s r.addr.toNat = Loc.stage 0 ∧ (poolOf s 0).isSome = true ∧ r.size = 3 ∧ r.op.toNat ≤ 1 ∧ badWords s (0 / 128 * 128) (if r.op
      = 0 then fullBe else r.be) = [] ∧ s.ports.inq = [] ∧ (∀ l ∈ s.path.lines, ∀ (p i : ℕ), l.kind ≠ LineKind.inbound p i) ∧ powered s
      (44 + 0 / 2) = true ∧ inWaits s 0 33 = false ∧ r.ns = true ∧ stageSecure s 0 = true)
    ∧ (∃ (s : State) (r : FabReq), Canon s ∧ operating s = true ∧ s.pins.crdy.getLsbD 0 = true ∧ (s.img.isNone = true ∨ (im
      s).cPresent.getLsbD 0 = true) ∧ locOf s r.addr.toNat = Loc.stage 0 ∧ (poolOf s 0).isSome = true ∧ r.size = 3 ∧ r.op.toNat ≤ 1 ∧
      badWords s (0 / 128 * 128) (if r.op = 0 then fullBe else r.be) = [] ∧ s.ports.inq = [] ∧ (∀ l ∈ s.path.lines, ∀ (p i : ℕ), l.kind ≠
      LineKind.inbound p i) ∧ powered s (48 + 0 / 2) = true ∧ inWaits s 0 32 = false ∧ (r.ns = false ∨ stageSecure s 0 = false) ∧ r.op =
      0)
    ∧ (∃ (s : State) (r : FabReq), Canon s ∧ operating s = true ∧ true = true ∧ (s.img.isNone = true ∨ (im s).mPresent.getLsbD 0 = true) ∧
      locOf s r.addr.toNat = Loc.stage 0 ∧ (poolOf s 0).isSome = true ∧ r.size = 3 ∧ r.op.toNat ≤ 1 ∧ badWords s (0 / 128 * 128) (if r.op
      = 0 then fullBe else r.be) = [] ∧ s.ports.inq = [] ∧ (∀ l ∈ s.path.lines, ∀ (p i : ℕ), l.kind ≠ LineKind.inbound p i) ∧ powered s
      (44 + 0 / 2) = true ∧ inWaits s 0 33 = false ∧ (r.ns = false ∨ stageSecure s 0 = false) ∧ r.op = 1)
    ∧ (∃ (s : State) (r : FabReq), Canon s ∧ operating s = true ∧ s.pins.crdy.getLsbD 0 = true ∧ (s.img.isNone = true ∨ (im
      s).cPresent.getLsbD 0 = true) ∧ powered s (48 + 0 / 2) = true ∧ locOf s r.addr.toNat = Loc.stage 8 ∧ inWaits s 8 32 = false ∧
      s.ports.inq = [] ∧ (poolOf s 8).isSome = true ∧ (r.ns = false ∨ stageSecure s 8 = false) ∧ r.op = 3 ∧ r.size = 1 ∧ 8 % 8 = 0 ∧
      s.stage.bad.contains (8 / 8 * 8) = false)
    ∧ (∃ (s : State), operating s = true ∧ (s.img.isNone = true ∨ (im s).cPresent.getLsbD 0 = true) ∧ s.pins.crdy.getLsbD 0 = false ∧
      s.ports.inq = [])
    ∧ (∃ (s : State) (r : FabReq), operating s = true ∧ (s.img.isNone = true ∨ (im s).mPresent.getLsbD 0 = true) ∧ powered s (44 + 0 / 2)
      = true ∧ s.ports.inq = [] ∧ (∀ l ∈ s.path.lines, ∀ (p i : ℕ), l.kind ≠ LineKind.inbound p i) ∧ (r.size ≠ 3 ∨ 2 ≤ r.op.toNat)) :=
  ⟨⟨inDom 20 .gated, rq 0 3 false (2 ^ 30), by
      refine ⟨canonOf _ (by decide +kernel), ?_, ?_, ?_, ?_, ?_, ?_, ?_, ?_, ?_, noInbound (by decide +kernel), ?_⟩ <;> decide +kernel⟩,
   ⟨coreGated, rq 0 3 false (2 ^ 30), by
       refine ⟨canonOf _ (by decide +kernel), ?_, ?_, ?_, ?_, ?_, ?_, ?_, ?_, ?_, noInbound (by decide +kernel), ?_⟩ <;> decide +kernel⟩,
   ⟨run, rq 0 3 true (2 ^ 30), by
       refine ⟨canonOf _ (by decide +kernel), ?_, ?_, ?_, ?_, ?_, ?_, ?_, ?_, ?_, noInbound (by decide +kernel), ?_⟩ <;> decide +kernel⟩,
   ⟨coreUp, rq 0 3 false (2 ^ 30), by
       refine ⟨canonOf _ (by decide +kernel), ?_, ?_, ?_, ?_, ?_, ?_, ?_, ?_, ?_, noInbound (by decide +kernel), ?_⟩ <;> decide +kernel⟩,
   ⟨run, rq 1 3 false (2 ^ 30), by
       refine ⟨canonOf _ (by decide +kernel), ?_, ?_, ?_, ?_, ?_, ?_, ?_, ?_, ?_, noInbound (by decide +kernel), ?_⟩ <;> decide +kernel⟩,
   ⟨coreUp, rq 3 1 false (2 ^ 30 + 8), canonOf _ (by decide +kernel), by decide +kernel⟩,
   ⟨run, by decide +kernel⟩,
   ⟨run, rq 2 3 false 0, by
       refine ⟨?_, ?_, ?_, ?_, noInbound (by decide +kernel), ?_⟩ <;> decide +kernel⟩⟩

theorem witness_CoresAndTheMmioTarget :
    (∃ (s : State), Canon s ∧ true = true ∧ s.ports.inq = [])
    ∧ (∃ (s : State), Canon s ∧ false = false)
    ∧ (∃ (s : State) (p : BitVec 13), ∀ h ∈ (cp s 0).held, h.2 ≠ p.toNat)
    ∧ (∃ (s : State) (p : BitVec 13) (l : Line), Canon s ∧ List.find? (fun h => h.2 == p.toNat) (cp s 0).held = some (l.id, p.toNat) ∧
      lineOf s l.id = some l)
    ∧ (∃ (s : State) (r : FabReq), mmioReady s = true ∧ (2 ≤ r.op.toNat ∨ 2 ≤ r.size.toNat ∨ (r.addr.toNat % if r.size = 0 then 4 else 8)
      ≠ 0))
    ∧ (∃ (s : State) (r : FabReq), mmioReady s = true ∧ r.op = 0 ∧ r.addr.toNat % 8 = 0 ∧ r.size = 0)
    ∧ (∃ (s : State) (r : FabReq), mmioReady s = true ∧ r.op = 0 ∧ r.addr.toNat % 8 = 0 ∧ r.size = 1)
    ∧ (∃ (s : State) (off : BitVec 20), mmioReady s = true ∧ off.toNat % 4 ≠ 0)
    ∧ (∃ (s : State), Served s (21512 + 16 * 39) false (msiThere s 39 && !(msi s 39).ns))
    ∧ (∃ (s : State), Served s (20544 + 4 * 15) true false)
    ∧ (∃ (s : State), mmioReady s = true) :=
  ⟨⟨run, canonOf _ (by decide +kernel), by decide +kernel⟩,
   ⟨withLines coreUp [wline (.core 0 0x900280)], canonOf _ (by decide +kernel), by decide +kernel⟩,
   ⟨run, 0, by decide +kernel⟩,
   ⟨held0, 5, wline (.core 0 0x900280), canonOf _ (by decide +kernel), by decide +kernel⟩,
   ⟨run, rq 2 3 false 0, by decide +kernel⟩,
   ⟨run, rq 0 0 false 0, by decide +kernel⟩,
   ⟨run, rq 0 1 false 8, by decide +kernel⟩,
   ⟨run, 1, by decide +kernel⟩,
   ⟨run, (by constructor <;> decide +kernel)⟩,
   ⟨run, (by constructor <;> decide +kernel)⟩,
   ⟨run, by decide +kernel⟩⟩

theorem witness_LinkStatesMove :
    (∃ (s : State), Canon s)
    ∧ (∃ (s : State) (v : W32), Canon s ∧ (s.img.isNone = true ∨ linkPresent s 0 = true) ∧ Served s (118784 + 64 * 0) false (domSecure s
      (36 + 0)) ∧ bitOf v 0 = true ∧ bitOf v 1 = false ∧ bitOf v 2 = false)
    ∧ (∃ (s : State) (v : W32), Canon s ∧ (s.img.isNone = true ∨ linkPresent s 0 = true) ∧ Served s (118784 + 64 * 0) false (domSecure s
      (36 + 0)) ∧ bitOf v 0 = false ∧ bitOf v 1 = false ∧ bitOf v 2 = false ∧ (link s 0).st = LinkSt.off ∧ s.img.isSome = true ∧
      s.boot.phase = BlkPhase.running ∧ powered s (36 + 0) = true)
    ∧ (∃ (s : State) (v : W32), Canon s ∧ (s.img.isNone = true ∨ linkPresent s 0 = true) ∧ Served s (118784 + 64 * 0) false (domSecure s
      (36 + 0)) ∧ bitOf v 0 = false ∧ bitOf v 2 = false ∧ linkUp (link s 0) = true)
    ∧ (∃ (s : State) (v : W32), Canon s ∧ (s.img.isNone = true ∨ linkPresent s 0 = true) ∧ Served s (118784 + 64 * 0) false (domSecure s
      (36 + 0)) ∧ bitOf v 0 = false ∧ bitOf v 1 = false ∧ (link s 0).st ≠ LinkSt.off)
    ∧ (∃ (s : State), Canon s ∧ 7 < 8 ∧ 7 ≠ 0 ∧ ((link s 0).st = LinkSt.detect ∨ (link s 0).st = LinkSt.down))
    ∧ (∃ (s : State), Canon s ∧ (link s 0).st = LinkSt.detect ∧ s.pins.prsntN.getLsbD 0 = false)
    ∧ (∃ (s : State), Canon s ∧ ((link s 0).st = LinkSt.wake ∨ (link s 0).st = LinkSt.eq ∨ (link s 0).st = LinkSt.lock ∨ (link s 0).st =
      LinkSt.ident ∨ (link s 0).st = LinkSt.retrain))
    ∧ (∃ (s : State), Canon s ∧ (link s 0).st = LinkSt.down)
    ∧ (∃ (s : State), Canon s ∧ (link s 0).st = LinkSt.refused)
    ∧ (∃ (s : State), Canon s ∧ (link s 0).st = LinkSt.wake)
    ∧ (∃ (s : State), Canon s ∧ linkUp (link s 0) = true)
    ∧ (∃ (s : State) (n : W32), Canon s ∧ linkUp (link s 0) = true ∧ 1024 * (link s 0).thresh.toNat < BitVec.toNat n)
    ∧ (∃ (s : State) (n : W32), Canon s ∧ BitVec.toNat n ≤ 1024 * (link s 0).thresh.toNat) :=
  ⟨⟨lk (inLk .active), canonOf _ (by decide +kernel)⟩,
   ⟨lk (inLk .active), 1, canonOf _ (by decide +kernel), by decide +kernel, (by constructor <;> decide +kernel), by decide +kernel⟩,
   ⟨lk { }, 0, canonOf _ (by decide +kernel), by decide +kernel, (by constructor <;> decide +kernel), by decide +kernel⟩,
   ⟨lk (inLk .active), 2, canonOf _ (by decide +kernel), by decide +kernel, (by constructor <;> decide +kernel), by decide +kernel⟩,
   ⟨lk (inLk .active), 4, canonOf _ (by decide +kernel), by decide +kernel, (by constructor <;> decide +kernel), by decide +kernel⟩,
   ⟨lk (inLk .detect), canonOf _ (by decide +kernel), by decide +kernel⟩,
   ⟨clean0 (lk (inLk .detect)), canonOf _ (by decide +kernel), by decide +kernel⟩,
   ⟨lk (inLk .retrain), canonOf _ (by decide +kernel), by decide +kernel⟩,
   ⟨lk (inLk .down), canonOf _ (by decide +kernel), by decide +kernel⟩,
   ⟨lk (inLk .refused), canonOf _ (by decide +kernel), by decide +kernel⟩,
   ⟨lk (inLk .wake), canonOf _ (by decide +kernel), by decide +kernel⟩,
   ⟨lk (inLk .transit), canonOf _ (by decide +kernel), by decide +kernel⟩,
   ⟨lk (inLk .active), BitVec.ofNat 32 (1024 * 224 + 1), canonOf _ (by decide +kernel), by decide +kernel⟩,
   ⟨lk (inLk .active), BitVec.ofNat 32 (1024 * 224), canonOf _ (by decide +kernel), by decide +kernel⟩⟩

set_option maxRecDepth 100000 in
theorem witness_LinksTrain :
    (∃ (s : State) (f : W64), Canon s ∧ inEq (link s 0) = true ∧ ¬∀ j < 8, 4 ≤ (laneOf (trained s f) j).peerReady)
    ∧ (∃ (s : State) (f : W64), Canon s ∧ inEq (link s 0) = true ∧ (∀ j < 8, 4 ≤ (laneOf (trained s f) j).peerReady) ∧ (link s 0).st =
      LinkSt.eq)
    ∧ (∃ (s : State) (f : W64), Canon s ∧ inEq (link s 0) = true ∧ (∀ j < 8, 4 ≤ (laneOf (trained s f) j).peerReady) ∧ (link s 0).st =
      LinkSt.retrain)
    ∧ (∃ (s : State) (f : FlitData), Canon s ∧ Control f 4 ∧ inLock (link s 0) = true)
    ∧ (∃ (s : State), Canon s ∧ inLock (link s 0) = true ∧ (link s 0).syncRun = 8)
    ∧ (∃ (s : State), Canon s ∧ inLock (link s 0) = true ∧ (link s 0).syncRun ≠ 8)
    ∧ (∃ (s : State), Canon s ∧ inIdent (link s 0) = true)
    ∧ (∃ (s : State) (f : FlitData), Canon s ∧ Control f 1 ∧ inIdent (link s 0) = true ∧ (link s 0).decided = none ∧ ((link s 0).st =
      LinkSt.retrain → bitOf f 26 = false) ∧ (link s 0).identLast ≠ some (flitSlot f 0, flitSlot f 1))
    ∧ (∃ (s : State) (f : FlitData), Canon s ∧ Control f 1 ∧ inIdent (link s 0) = true ∧ (link s 0).decided = none ∧ ((link s 0).st =
      LinkSt.retrain → bitOf f 26 = false) ∧ (link s 0).identLast = some (flitSlot f 0, flitSlot f 1) ∧ (link s 0).peerConf = some 6)
    ∧ (∃ (s : State) (f : FlitData), Canon s ∧ Control f 1 ∧ inIdent (link s 0) = true ∧ (link s 0).decided = none ∧ ((link s 0).st =
      LinkSt.retrain → bitOf f 26 = false) ∧ (link s 0).identLast = some (flitSlot f 0, flitSlot f 1) ∧ (link s 0).peerConf = none ∧ (link
      s 0).st = LinkSt.ident)
    ∧ (∃ (s : State) (f : FlitData), Canon s ∧ Control f 1 ∧ inIdent (link s 0) = true ∧ (link s 0).decided = none ∧ ((link s 0).st =
      LinkSt.retrain → bitOf f 26 = false) ∧ (link s 0).identLast = some (flitSlot f 0, flitSlot f 1) ∧ (link s 0).peerConf = none ∧
      (identOutcome s 0 (flitSlot f 0) (flitSlot f 1)).2 = 2)
    ∧ (∃ (s : State) (f : FlitData), Canon s ∧ Control f 1 ∧ inIdent (link s 0) = true ∧ (link s 0).decided = none ∧ ((link s 0).st =
      LinkSt.retrain → bitOf f 26 = false) ∧ (link s 0).identLast = some (flitSlot f 0, flitSlot f 1) ∧ (link s 0).peerConf = none ∧
      (identOutcome s 0 (flitSlot f 0) (flitSlot f 1)).2 = 1)
    ∧ (∃ (s : State) (f : FlitData), Canon s ∧ Control f 1 ∧ inIdent (link s 0) = true ∧ (link s 0).decided.isSome = true)
    ∧ (∃ (s : State) (f : FlitData), Canon s ∧ Control f 1 ∧ (link s 0).st = LinkSt.refused ∧ (link s 0).identLast = some (idA 1 1, 0) ∧
      (idA 1 1, 0) = (flitSlot f 0, flitSlot f 1))
    ∧ (∃ (s : State) (f : FlitData), Canon s ∧ Control f 1 ∧ (link s 0).st = LinkSt.refused ∧ (link s 0).identLast = some (idA 2 1, 0) ∧
      (idA 2 1, 0) ≠ (flitSlot f 0, flitSlot f 1))
    ∧ (∃ (s : State) (f : FlitData), Canon s ∧ Control f 2 ∧ inIdent (link s 0) = true ∧ ((link s 0).st = LinkSt.retrain → bitOf f 26 =
      false) ∧ (link s 0).decided = none)
    ∧ (∃ (s : State) (f : FlitData), Canon s ∧ Control f 2 ∧ inIdent (link s 0) = true ∧ ((link s 0).st = LinkSt.retrain → bitOf f 26 =
      false) ∧ (link s 0).decided = some LinkSt.active)
    ∧ (∃ (s : State) (f : FlitData), Canon s ∧ Control f 2 ∧ inIdent (link s 0) = true ∧ ((link s 0).st = LinkSt.retrain → bitOf f 26 =
      false) ∧ (link s 0).decided = some LinkSt.active)
    ∧ (∃ (s : State) (f : FlitData), Canon s ∧ Control f 2 ∧ inIdent (link s 0) = true ∧ ((link s 0).st = LinkSt.retrain → bitOf f 26 =
      false) ∧ (link s 0).decided = some LinkSt.refused)
    ∧ (∃ (s : State) (f : FlitData), Canon s ∧ Control f 2 ∧ inIdent (link s 0) = true ∧ ((link s 0).st = LinkSt.retrain → bitOf f 26 =
      false) ∧ (link s 0).decided = some LinkSt.transit ∧ (link s 0).st = LinkSt.retrain ∧ ¬(fld (flitSlot f 0) 8 4 = LinkSt.transit.code
      ∧ LinkSt.transit = (link s 0).pre ∧ samePeer (link s 0) = true))
    ∧ (∃ (s : State) (f : FlitData), Canon s ∧ Control f 2 ∧ inIdent (link s 0) = true ∧ ((link s 0).st = LinkSt.retrain → bitOf f 26 =
      false) ∧ (link s 0).decided = some LinkSt.active)
    ∧ (∃ (f : FlitData), flitGood f = true ∧ fType f = 2 ∧ ctlGood f = false) :=
  ⟨⟨lk (inLk .eq), 0, canonOf _ (by decide +kernel), by decide +kernel⟩,
   ⟨lk { st := .eq, lane := readied }, BitVec.ofNat 64 (2 ^ 34 + 2 ^ 58), canonOf _ (by decide +kernel), by decide +kernel⟩,
   ⟨lk { st := .retrain, lane := readied }, BitVec.ofNat 64 (2 ^ 34 + 2 ^ 58), canonOf _ (by decide +kernel), by decide +kernel⟩,
   ⟨lk (inLk .lock), ctlF [4], canonOf _ (by decide +kernel), (by constructor <;> decide +kernel), by decide +kernel⟩,
   ⟨lk { st := .lock, syncRun := 8 }, canonOf _ (by decide +kernel), by decide +kernel⟩,
   ⟨lk { st := .lock, syncRun := 7 }, canonOf _ (by decide +kernel), by decide +kernel⟩,
   ⟨lk (inLk .ident), canonOf _ (by decide +kernel), by decide +kernel⟩,
   ⟨lk { st := .ident, identLast := none }, ctlF [idA 1 1, 0], canonOf _ (by decide +kernel), (by constructor <;> decide +kernel), by
     decide +kernel⟩,
   ⟨lk { st := .ident, identLast := some (idA 1 1, 0), peerConf := some 6 }, ctlF [idA 1 1, 0], canonOf _ (by decide +kernel), (by
     constructor <;> decide +kernel), by decide +kernel⟩,
   ⟨lk { st := .ident, identLast := some (idA 1 1, 0) }, ctlF [idA 1 1, 0], canonOf _ (by decide +kernel), (by
     constructor <;> decide +kernel), by decide +kernel⟩,
   ⟨lk { st := .ident, identLast := some (idA 2 1, 0) }, ctlF [idA 2 1, 0], canonOf _ (by decide +kernel), (by
     constructor <;> decide +kernel), by decide +kernel⟩,
   ⟨lk { st := .ident, identLast := some (idA 1 5, 0) }, ctlF [idA 1 5, 0], canonOf _ (by decide +kernel), (by
     constructor <;> decide +kernel), by decide +kernel⟩,
   ⟨lk { st := .ident, decided := some .active }, ctlF [idA 1 1, 0], canonOf _ (by decide +kernel), (by constructor <;> decide +kernel),
     by decide +kernel⟩,
   ⟨lk { st := .refused, identLast := some (idA 1 1, 0) }, ctlF [idA 1 1, 0], canonOf _ (by decide +kernel), (by
     constructor <;> decide +kernel), by decide +kernel⟩,
   ⟨lk { st := .refused, identLast := some (idA 2 1, 0) }, ctlF [idA 1 1, 0], canonOf _ (by decide +kernel), (by
     constructor <;> decide +kernel), by decide +kernel⟩,
   ⟨lk { st := .ident }, ctlF [cfm .active], canonOf _ (by decide +kernel), (by constructor <;> decide +kernel), by decide +kernel⟩,
   ⟨lk { st := .ident, decided := some .active }, ctlF [cfm .active], canonOf _ (by decide +kernel), (by constructor <;> decide +kernel),
     by decide +kernel⟩,
   ⟨lk { st := .ident, decided := some .active }, ctlF [cfm .transit], canonOf _ (by decide +kernel), (by constructor <;> decide +kernel),
     by decide +kernel⟩,
   ⟨lk { st := .ident, decided := some .refused }, ctlF [cfm .refused], canonOf _ (by decide +kernel), (by
     constructor <;> decide +kernel), by decide +kernel⟩,
   ⟨lk (back .transit), ctlF [cfm .transit], canonOf _ (by decide +kernel), (by constructor <;> decide +kernel), by decide +kernel⟩,
   ⟨lk (back .active), ctlF [cfm .active], canonOf _ (by decide +kernel), (by constructor <;> decide +kernel), by decide +kernel⟩,
   ⟨ctlF [9], by decide +kernel⟩⟩

set_option maxRecDepth 100000 in
theorem witness_LinksCarryFlits :
    (∃ (s : State) (f : FlitData) (h : Slot) (body : List Slot) (rest : List Slot), Canon s ∧ linkUp (link s 0) = true ∧ rx0.flagged =
      false ∧ rx0.uncorr = 0 ∧ flitGood f = true ∧ fType f = 1 ∧ Quiet s 0 f ∧ fSeq f = (link s 0).rxSeq.toNat ∧ (link s 0).rxPart = [] ∧
      flitSlots f = h :: body ++ rest ∧ (∀ x ∈ rest, x = 0) ∧ h ≠ 0 ∧ badHdr h = false ∧ badBody h body = false ∧ pktLen (pOpc h) = some
      (body.length + 1))
    ∧ (∃ (s : State) (f : FlitData), Canon s ∧ linkUp (link s 0) = true ∧ (rxBad.flagged = true ∨ rxBad.uncorr ≠ 0 ∨ flitGood f = false ∨
      fType f = 1 ∧ fSeq f ≠ (link s 0).rxSeq.toNat ∧ Quiet s 0 f) ∧ (link s 0).nack = false)
    ∧ (∃ (s : State) (f : FlitData), Canon s ∧ linkUp (link s 0) = true ∧ (rx0.flagged = true ∨ rx0.uncorr ≠ 0 ∨ flitGood f = false ∨
      fType f = 1 ∧ fSeq f ≠ (link s 0).rxSeq.toNat ∧ Quiet s 0 f) ∧ (link s 0).nack = true)
    ∧ (∃ (s : State), Canon s ∧ linkUp (link s 0) = true ∧ (link s 0).nack = true)
    ∧ (∃ (s : State), Canon s ∧ (inLock (link s 0) = true ∨ inIdent (link s 0) = true) ∧ (link s 0).nack = true)
    ∧ (∃ (s : State) (f : FlitData), Canon s ∧ linkUp (link s 0) = true ∧ flitGood f = true ∧ fType f = 0 ∧ bitOf f 26 = false ∧ (link s
      0).txq = [] ∧ credit (link s 0) (fld f 27 3) + fld f 30 11 ≤ 2048 ∧ 0 < (fAck f + 4096 - (link s 0).acked.toNat) % 4096 ∧ (fAck f +
      4096 - (link s 0).acked.toNat) % 4096 ≤ (link s 0).replay.length)
    ∧ (∃ (s : State) (f : FlitData), Canon s ∧ linkUp (link s 0) = true ∧ flitGood f = true ∧ fType f = 0 ∧ bitOf f 26 = false ∧ (link s
      0).txq = [] ∧ 2048 < credit (link s 0) (fld f 27 3) + fld f 30 11)
    ∧ (∃ (s : State) (f : FlitData), Canon s ∧ Control f 3 ∧ linkUp (link s 0) = true ∧ Quiet s 0 f ∧ twf (fun x => { }) (link s 0).lane =
      true) :=
  ⟨⟨lk (inLk .active), mkFlit 1 0 4095 false 0 0 [hdr 7 0 1 false 1], hdr 7 0 1 false 1, [], List.replicate 15 0, by
      refine ⟨canonOf _ (by decide +kernel), ?_, ?_, ?_, ?_, ?_, (by constructor <;> decide +kernel), ?_, ?_, ?_, (fun _ h =>
        List.eq_of_mem_replicate h), ?_⟩ <;> decide +kernel⟩,
   ⟨lk (inLk .active), 0, canonOf _ (by decide +kernel), by decide +kernel, .inl (by decide +kernel), by decide +kernel⟩,
   ⟨lk { st := .transit, nack := true }, mkFlit 1 5 4095 false 0 0 [], canonOf _ (by decide +kernel), by decide +kernel, .inr (.inr (.inr
     ⟨by decide +kernel, by decide +kernel, by constructor <;> decide +kernel⟩)), by decide +kernel⟩,
   ⟨lk { st := .active, nack := true }, canonOf _ (by decide +kernel), by decide +kernel⟩,
   ⟨lk { st := .lock, nack := true }, canonOf _ (by decide +kernel), by decide +kernel⟩,
   ⟨lk { st := .active, replay := [(0, [])] }, mkFlit 0 0 0 false 1 2047 [], canonOf _ (by decide +kernel), by decide +kernel⟩,
   ⟨lk { st := .active, cred := Vector.replicate 8 2 }, mkFlit 0 0 0 false 1 2047 [], canonOf _ (by decide +kernel), by decide +kernel⟩,
   ⟨lk (inLk .active), ctlF [3], canonOf _ (by decide +kernel), (by constructor <;> decide +kernel), by decide +kernel, (by
     constructor <;> decide +kernel), by decide +kernel⟩⟩

theorem witness_PacketsAreForwarded :
    (∃ (s : State) (h : Slot) (b : List Slot), Canon s ∧ 0 ≠ 1 ∧ (link s 1).rxq = [{ slots := h :: b, via := 0 }] ∧ pDchip h ≠ ownChip s ∧
      hop s (pDchip h) (pVc h / 2) = some (0, 0) ∧ 0 < 8 ∧ portOf s (0, 0) = some 0 ∧ pHops h < 8 ∧ 0 ≠ 1 ∧ linkUp (link s 0) = true ∧
      (link s 0).txq = [] ∧ (link s 0).replay.length < 512 ∧ 33 + 1 ∈ (link s 0).rank ∧ linkFenced s 0 (33 + 1) = false ∧ b.length + 1 ≤
      credit (link s 0) (2 * (pVc h / 2) + if dateline s (0, 0) = true then 1 else if (portDim s 1).1 = (0, 0).1 then pVc h % 2 else 0))
    ∧ (∃ (s : State) (h : Slot) (b : List Slot), Canon s ∧ 0 ≠ 1 ∧ (link s 1).rxq = [{ slots := h :: b, via := 0 }] ∧ pDchip h ≠ ownChip s
      ∧ hop s (pDchip h) (pVc h / 2) = some (0, 0) ∧ 0 < 8 ∧ portOf s (0, 0) = some 0 ∧ pHops h < 8 ∧ 0 ≠ 1 ∧ (linkUp (link s 0) = true ∨
      (link s 0).st = LinkSt.retrain) ∧ (link s 0).txq = [] ∧ ((link s 0).st = LinkSt.retrain ∨ credit (link s 0) (2 * (pVc h / 2) + if
      dateline s (0, 0) = true then 1 else if (portDim s 1).1 = (0, 0).1 then pVc h % 2 else 0) < b.length + 1 ∨ linkFenced s 0 (33 + 1) =
      true))
    ∧ (∃ (s : State) (h : Slot) (b : List Slot), Canon s ∧ 0 ≠ 1 ∧ (link s 1).rxq = [{ slots := h :: b, via := 0 }] ∧ pDchip h ≠ ownChip s
      ∧ hop s (pDchip h) (pVc h / 2) = some (0, 0) ∧ 0 < 8 ∧ portOf s (0, 0) = some 0 ∧ pHops h < 8 ∧ 0 ≠ 1 ∧ (linkUp (link s 0) = true ∨
      (link s 0).st = LinkSt.retrain) ∧ (link s 0).txq = [] ∧ ((link s 0).st = LinkSt.retrain ∨ credit (link s 0) (2 * (pVc h / 2) + if
      dateline s (0, 0) = true then 1 else if (portDim s 1).1 = (0, 0).1 then pVc h % 2 else 0) < b.length + 1 ∨ linkFenced s 0 (33 + 1) =
      true))
    ∧ (∃ (s : State) (h : Slot) (b : List Slot), Canon s ∧ 0 ≠ 1 ∧ (link s 1).rxq = [{ slots := h :: b, via := 0 }] ∧ pDchip h ≠ ownChip s
      ∧ hop s (pDchip h) (pVc h / 2) = some (0, 0) ∧ 0 < 8 ∧ portOf s (0, 0) = some 0 ∧ pHops h < 8 ∧ linkUp (link s 0) = false ∧ (link s
      0).st ≠ LinkSt.retrain ∧ (link s 0).st ≠ LinkSt.refused ∧ isReq (pOpc h) = false)
    ∧ (∃ (s : State) (h : Slot) (b : List Slot), Canon s ∧ 0 ≠ 1 ∧ (link s 1).rxq = [{ slots := h :: b, via := 0 }] ∧ pDchip h ≠ ownChip s
      ∧ hop s (pDchip h) (pVc h / 2) = some (0, 0) ∧ 0 < 8 ∧ portOf s (0, 0) = some 0 ∧ pHops h < 8 ∧ linkUp (link s 0) = false ∧ (link s
      0).st ≠ LinkSt.retrain ∧ (link s 0).st ≠ LinkSt.refused ∧ isReq (pOpc h) = true ∧ pSchip h ≠ ownChip s)
    ∧ (∃ (s : State) (h : Slot) (b : List Slot), Canon s ∧ 0 ≠ 1 ∧ (link s 1).rxq = [{ slots := h :: b, via := 0 }] ∧ pDchip h ≠ ownChip s
      ∧ hop s (pDchip h) (pVc h / 2) = some (0, 0) ∧ 0 < 8 ∧ portOf s (0, 0) = some 0 ∧ pHops h < 8 ∧ (link s 0).st = LinkSt.refused)
    ∧ (∃ (s : State) (h : Slot) (b : List Slot), Canon s ∧ 0 ≠ 1 ∧ (link s 1).rxq = [{ slots := h :: b, via := 0 }] ∧ pDchip h ≠ ownChip s
      ∧ hop s (pDchip h) (pVc h / 2) = some (0, 0) ∧ (8 ≤ pHops h ∨ portOf s (0, 0) = none))
    ∧ (∃ (s : State) (h : Slot) (b : List Slot), Canon s ∧ 0 ≠ 1 ∧ (link s 1).rxq = [{ slots := h :: b, via := 0 }] ∧ pDchip h ≠ ownChip s
      ∧ hop s (pDchip h) (pVc h / 2) = some (0, 0) ∧ 2 ≤ pOpc h ∧ pOpc h ≤ 5 ∧ pSchip h ≠ ownChip s) :=
  ⟨⟨pkt (hdr 7 1 2 false 1) [] 0 (up), hdr 7 1 2 false 1, [], canonOf _ (by decide +kernel), by decide +kernel⟩,
   ⟨pkt (hdr 7 1 2 false 1) [] 0 (inLk .active), hdr 7 1 2 false 1, [], canonOf _ (by decide +kernel), by decide +kernel⟩,
   ⟨pkt (hdr 7 1 2 false 1) [] 0 (inLk .retrain), hdr 7 1 2 false 1, [], canonOf _ (by decide +kernel), by decide +kernel⟩,
   ⟨pkt (hdr 7 1 2 false 1) [] 0 (inLk .down), hdr 7 1 2 false 1, [], canonOf _ (by decide +kernel), by decide +kernel⟩,
   ⟨pkt (hdr 1 1 2 false 1) [] 0 (inLk .down), hdr 1 1 2 false 1, [], canonOf _ (by decide +kernel), by decide +kernel⟩,
   ⟨pkt (hdr 7 1 2 false 1) [] 0 (inLk .refused), hdr 7 1 2 false 1, [], canonOf _ (by decide +kernel), by decide +kernel⟩,
   ⟨pkt ((hdr 7 1 2 false 1) ||| BitVec.ofNat 128 (2 ^ 99)) [] 0 (up), (hdr 7 1 2 false 1) ||| BitVec.ofNat 128 (2 ^ 99), [], canonOf _
     (by decide +kernel), by decide +kernel⟩,
   ⟨pkt (hdr 2 1 2 false 1) (List.replicate 8 5) 0 (up), hdr 2 1 2 false 1, List.replicate 8 5, canonOf _ (by decide +kernel), by
     decide +kernel⟩⟩

theorem witness_RemoteRequestsAreServed :
    (∃ (s : State) (h : Slot) (b : List Slot), Canon s ∧ 0 ≠ 1 ∧ operating s = true ∧ (link s 1).rxq = [{ slots := h :: b, via := 0 }] ∧
      pDchip h = ownChip s ∧ (Instr.rdreq 1 RxEcc.clean Ecc.clean, 1) ∈ [(Instr.rdreq 1 RxEcc.clean Ecc.clean, 1), (Instr.wrreq 1
      RxEcc.clean, 2), (Instr.wrpart 1 RxEcc.clean, 3), (Instr.add32 1 RxEcc.clean Ecc.clean, 4), (Instr.add64 1 RxEcc.clean Ecc.clean,
      5)] ∧ pOpc h = 1 ∧ (if pTchk h ≠ (im s).cfgTag.toNat % 65536 ∨ 2 ≤ 0 then 4 else if (im s).windows ≤ pWin h ∨ (win s (pWin h)).valid
      = false then 2 else if 4096 * (win s (pWin h)).size.toNat < pOff h + reqSize (pOpc h) then 2 else if pNs h = true ∧ (winSecure s
      (pWin h) = true ∨ stageSecure s (winOff s h) = true) then 3 else 0) ≠ 0 ∧ (if pTchk h ≠ (im s).cfgTag.toNat % 65536 ∨ 2 ≤ 0 then 4
      else if (im s).windows ≤ pWin h ∨ (win s (pWin h)).valid = false then 2 else if 4096 * (win s (pWin h)).size.toNat < pOff h +
      reqSize (pOpc h) then 2 else if pNs h = true ∧ (winSecure s (pWin h) = true ∨ stageSecure s (winOff s h) = true) then 3 else 0) ≠ 3)
    ∧ (∃ (s : State) (h : Slot) (b : List Slot), Canon s ∧ 0 ≠ 1 ∧ operating s = true ∧ (link s 1).rxq = [{ slots := h :: b, via := 0 }] ∧
      pDchip h = ownChip s ∧ (Instr.rdreq 1 RxEcc.clean Ecc.clean, 1) ∈ [(Instr.rdreq 1 RxEcc.clean Ecc.clean, 1), (Instr.wrreq 1
      RxEcc.clean, 2), (Instr.wrpart 1 RxEcc.clean, 3), (Instr.add32 1 RxEcc.clean Ecc.clean, 4), (Instr.add64 1 RxEcc.clean Ecc.clean,
      5)] ∧ pOpc h = 1 ∧ (if pTchk h ≠ (im s).cfgTag.toNat % 65536 ∨ 2 ≤ 0 then 4 else if (im s).windows ≤ pWin h ∨ (win s (pWin h)).valid
      = false then 2 else if 4096 * (win s (pWin h)).size.toNat < pOff h + reqSize (pOpc h) then 2 else if pNs h = true ∧ (winSecure s
      (pWin h) = true ∨ stageSecure s (winOff s h) = true) then 3 else 0) ≠ 0 ∧ (if pTchk h ≠ (im s).cfgTag.toNat % 65536 ∨ 2 ≤ 0 then 4
      else if (im s).windows ≤ pWin h ∨ (win s (pWin h)).valid = false then 2 else if 4096 * (win s (pWin h)).size.toNat < pOff h +
      reqSize (pOpc h) then 2 else if pNs h = true ∧ (winSecure s (pWin h) = true ∨ stageSecure s (winOff s h) = true) then 3 else 0) = 3)
    ∧ (∃ (s : State) (h : Slot) (b : List Slot), Canon s ∧ 0 ≠ 1 ∧ operating s = true ∧ (link s 1).rxq = [{ slots := h :: b, via := 0 }] ∧
      pDchip h = ownChip s ∧ (if pTchk h ≠ (im s).cfgTag.toNat % 65536 ∨ 2 ≤ 0 then 4 else if (im s).windows ≤ pWin h ∨ (win s (pWin
      h)).valid = false then 2 else if 4096 * (win s (pWin h)).size.toNat < pOff h + reqSize (pOpc h) then 2 else if pNs h = true ∧
      (winSecure s (pWin h) = true ∨ stageSecure s (winOff s h) = true) then 3 else 0) = 0 ∧ inWaits s (winOff s h) 34 = false ∧ (poolOf s
      (winOff s h)).isSome = true ∧ (Instr.wrreq 1 RxEcc.data, 2) ∈ [(Instr.wrreq 1 RxEcc.data, 2), (Instr.wrpart 1 RxEcc.data, 3),
      (Instr.add32 1 RxEcc.data Ecc.clean, 4), (Instr.add64 1 RxEcc.data Ecc.clean, 5)] ∧ pOpc h = 2)
    ∧ (∃ (s : State) (h : Slot) (b : List Slot), Canon s ∧ 0 ≠ 1 ∧ operating s = true ∧ (link s 1).rxq = [{ slots := h :: b, via := 0 }] ∧
      pDchip h = ownChip s ∧ (if pTchk h ≠ (im s).cfgTag.toNat % 65536 ∨ 2 ≤ 0 then 4 else if (im s).windows ≤ pWin h ∨ (win s (pWin
      h)).valid = false then 2 else if 4096 * (win s (pWin h)).size.toNat < pOff h + reqSize (pOpc h) then 2 else if pNs h = true ∧
      (winSecure s (pWin h) = true ∨ stageSecure s (winOff s h) = true) then 3 else 0) = 0 ∧ inWaits s (winOff s h) 34 = false ∧ (poolOf s
      (winOff s h)).isSome = true ∧ pOpc h = 1 ∧ badWords s (winOff s h) fullBe = [])
    ∧ (∃ (s : State) (h : Slot) (b : List Slot), Canon s ∧ 0 ≠ 1 ∧ operating s = true ∧ (link s 1).rxq = [{ slots := h :: b, via := 0 }] ∧
      pDchip h = ownChip s ∧ (if pTchk h ≠ (im s).cfgTag.toNat % 65536 ∨ 2 ≤ 0 then 4 else if (im s).windows ≤ pWin h ∨ (win s (pWin
      h)).valid = false then 2 else if 4096 * (win s (pWin h)).size.toNat < pOff h + reqSize (pOpc h) then 2 else if pNs h = true ∧
      (winSecure s (pWin h) = true ∨ stageSecure s (winOff s h) = true) then 3 else 0) = 0 ∧ inWaits s (winOff s h) 34 = false ∧ (poolOf s
      (winOff s h)).isSome = true ∧ (pOpc h = 2 ∧ Instr.wrreq 1 RxEcc.clean = Instr.wrreq 1 RxEcc.clean ∧ fullBe = fullBe ∧ slotsLine
      (List.replicate 8 5) = slotsLine b ∨ pOpc h = 3 ∧ Instr.wrreq 1 RxEcc.clean = Instr.wrpart 1 RxEcc.clean ∧ fullBe = b.headD 0 ∧
      slotsLine (List.replicate 8 5) = slotsLine b.tail))
    ∧ (∃ (s : State) (h : Slot) (b : List Slot), Canon s ∧ 0 ≠ 1 ∧ operating s = true ∧ (link s 1).rxq = [{ slots := h :: b, via := 0 }] ∧
      pDchip h = ownChip s ∧ (if pTchk h ≠ (im s).cfgTag.toNat % 65536 ∨ 2 ≤ 0 then 4 else if (im s).windows ≤ pWin h ∨ (win s (pWin
      h)).valid = false then 2 else if 4096 * (win s (pWin h)).size.toNat < pOff h + reqSize (pOpc h) then 2 else if pNs h = true ∧
      (winSecure s (pWin h) = true ∨ stageSecure s (winOff s h) = true) then 3 else 0) = 0 ∧ inWaits s (winOff s h) 34 = false ∧ (poolOf s
      (winOff s h)).isSome = true ∧ (pOpc h = 2 ∧ Instr.wrpart 1 RxEcc.clean = Instr.wrreq 1 RxEcc.clean ∧ 5 = fullBe ∧ slotsLine
      (List.replicate 8 5) = slotsLine b ∨ pOpc h = 3 ∧ Instr.wrpart 1 RxEcc.clean = Instr.wrpart 1 RxEcc.clean ∧ 5 = b.headD 0 ∧
      slotsLine (List.replicate 8 5) = slotsLine b.tail))
    ∧ (∃ (s : State) (h : Slot) (b : List Slot), Canon s ∧ 0 ≠ 1 ∧ operating s = true ∧ (link s 1).rxq = [{ slots := h :: b, via := 0 }] ∧
      pDchip h = ownChip s ∧ (if pTchk h ≠ (im s).cfgTag.toNat % 65536 ∨ 2 ≤ 0 then 4 else if (im s).windows ≤ pWin h ∨ (win s (pWin
      h)).valid = false then 2 else if 4096 * (win s (pWin h)).size.toNat < pOff h + reqSize (pOpc h) then 2 else if pNs h = true ∧
      (winSecure s (pWin h) = true ∨ stageSecure s (winOff s h) = true) then 3 else 0) = 0 ∧ inWaits s (winOff s h) 34 = false ∧ (poolOf s
      (winOff s h)).isSome = true ∧ (pOpc h = 4 ∧ Instr.add64 1 RxEcc.clean Ecc.clean = Instr.add32 1 RxEcc.clean Ecc.clean ∧ 8 = 4 ∨ pOpc
      h = 5 ∧ Instr.add64 1 RxEcc.clean Ecc.clean = Instr.add64 1 RxEcc.clean Ecc.clean ∧ 8 = 8) ∧ winOff s h % 8 = 0 ∧
      s.stage.bad.contains (winOff s h / 8 * 8) = false)
    ∧ (∃ (s : State) (h : Slot) (b : List Slot), Canon s ∧ 0 ≠ 1 ∧ operating s = true ∧ (link s 1).rxq = [{ slots := h :: b, via := 0 }] ∧
      pDchip h = ownChip s ∧ (if pTchk h ≠ (im s).cfgTag.toNat % 65536 ∨ 2 ≤ 0 then 4 else if (im s).windows ≤ pWin h ∨ (win s (pWin
      h)).valid = false then 2 else if 4096 * (win s (pWin h)).size.toNat < pOff h + reqSize (pOpc h) then 2 else if pNs h = true ∧
      (winSecure s (pWin h) = true ∨ stageSecure s (winOff s h) = true) then 3 else 0) = 0 ∧ inWaits s (winOff s h) 34 = true ∧ pOpc h =
      1) :=
  ⟨⟨here 1 ([]) false 2, hdr 1 0 1 false 2, [], canonOf _ (by decide +kernel), by decide +kernel⟩,
   ⟨here 1 ([]) true 1, hdr 1 0 1 true 1, [], canonOf _ (by decide +kernel), by decide +kernel⟩,
   ⟨here 2 (List.replicate 8 5) false 1, hdr 2 0 1 false 1, List.replicate 8 5, canonOf _ (by decide +kernel), by decide +kernel⟩,
   ⟨here 1 ([]) false 1, hdr 1 0 1 false 1, [], canonOf _ (by decide +kernel), by decide +kernel⟩,
   ⟨here 2 (List.replicate 8 5) false 1, hdr 2 0 1 false 1, List.replicate 8 5, canonOf _ (by decide +kernel), by decide +kernel⟩,
   ⟨here 3 (5 :: List.replicate 8 5) false 1, hdr 3 0 1 false 1, 5 :: List.replicate 8 5, canonOf _ (by decide +kernel), by
     decide +kernel⟩,
   ⟨here 5 ([5]) false 1, hdr 5 0 1 false 1, [5], canonOf _ (by decide +kernel), by decide +kernel⟩,
   ⟨setBg (here 1 [] false 1) 0 { fence := BitVec.ofNat 36 (2 ^ 34) }, hdr 1 0 1 false 1, [], canonOf _ (by decide +kernel), by
     decide +kernel⟩⟩

theorem witness_RemoteResponsesEndTheirLines :
    (∃ (s : State) (h : Slot) (b : List Slot) (x : Machine.Stream) (t : Tile) (g : Machine.Group) (l : Line), Canon s ∧ 0 ≠ 1 ∧ (link s
      1).rxq = [{ slots := h :: b, via := 0 }] ∧ pDchip h = ownChip s ∧ pOpc h = 6 ∧ lineOf s (remoteNo + pRtag h) = some l ∧ stream s
      l.ch = some x ∧ l.dseq = (chan s l.ch).seq ∧ x.tiles = [t] ∧ t.groups = [g] ∧ l.kind = LineKind.read t.no t.att g.no RdKind.data 0)
    ∧ (∃ (s : State) (h : Slot) (b : List Slot) (l : Line), Canon s ∧ 0 ≠ 1 ∧ (link s 1).rxq = [{ slots := h :: b, via := 0 }] ∧ pDchip h
      = ownChip s ∧ pOpc h = 7 ∧ lineOf s (remoteNo + pRtag h) = some l ∧ l.kind = LineKind.write 0 0 1 false ∧ l.loc = Loc.remote 1 0 0)
    ∧ (∃ (s : State) (h : Slot) (b : List Slot) (x : Machine.Stream) (l : Line), Canon s ∧ 0 ≠ 1 ∧ (link s 1).rxq =
      [{ slots := h :: b, via := 0 }] ∧ pDchip h = ownChip s ∧ lineOf s (remoteNo + pRtag h) = some l ∧ l.kind = LineKind.signal false
      false ∧ stream s l.ch = some x ∧ x.wait = Wait.signal (remoteNo + pRtag h) ∧ pOpc h = 7)
    ∧ (∃ (s : State) (h : Slot) (b : List Slot) (x : Machine.Stream) (l : Line), Canon s ∧ 0 ≠ 1 ∧ (link s 1).rxq =
      [{ slots := h :: b, via := 0 }] ∧ pDchip h = ownChip s ∧ lineOf s (remoteNo + pRtag h) = some l ∧ l.kind = LineKind.signal true
      false ∧ stream s l.ch = some x ∧ x.wait = Wait.signal (remoteNo + pRtag h) ∧ pOpc h = 8)
    ∧ (∃ (s : State) (h : Slot) (b : List Slot) (x : Machine.Stream) (l : Line), Canon s ∧ 0 ≠ 1 ∧ (link s 1).rxq =
      [{ slots := h :: b, via := 0 }] ∧ pDchip h = ownChip s ∧ pOpc h = 9 ∧ lineOf s (remoteNo + pRtag h) = some l ∧ l.kind =
      LineKind.signal false false ∧ l.loc = Loc.remote 1 0 0 ∧ stream s l.ch = some x ∧ x.wait = Wait.signal (remoteNo + pRtag h) ∧ l.dseq
      = (chan s l.ch).seq)
    ∧ (∃ (s : State) (h : Slot) (b : List Slot), Canon s ∧ 0 ≠ 1 ∧ (link s 1).rxq = [{ slots := h :: b, via := 0 }] ∧ pDchip h = ownChip s
      ∧ (Instr.wrack 1 RxEcc.clean, 7) ∈ [(Instr.rdrsp 1 RxEcc.clean, 6), (Instr.wrack 1 RxEcc.clean, 7), (Instr.addrsp 1 RxEcc.clean, 8),
      (Instr.errrsp 1 RxEcc.clean, 9)] ∧ pOpc h = 7 ∧ tagLine s h 7 = none ∧ ownReadTag s h 7 = none ∧ ∀ (e : OwnReq), ownOf s (remoteNo +
      pRtag h) = some e → isDead e = false)
    ∧ (∃ (s : State) (h : Slot) (b : List Slot), Canon s ∧ 0 ≠ 1 ∧ (link s 1).rxq = [{ slots := h :: b, via := 0 }] ∧ pDchip h = ownChip s
      ∧ (Instr.rdrsp 1 RxEcc.clean, 6) ∈ [(Instr.rdrsp 1 RxEcc.clean, 6), (Instr.wrack 1 RxEcc.clean, 7), (Instr.addrsp 1 RxEcc.clean, 8),
      (Instr.errrsp 1 RxEcc.clean, 9)] ∧ pOpc h = 6 ∧ tagLine s h 6 = none ∧ ownReadTag s h 6 = some
      { id := remoteNo + 7, port := 10, op := 0, addr := 0, kind := OwnKind.poll 0 0 })
    ∧ (∃ (s : State) (h : Slot) (b : List Slot) (l : Line), Canon s ∧ 0 ≠ 1 ∧ (link s 1).rxq = [{ slots := h :: b, via := 0 }] ∧ pDchip h
      = ownChip s ∧ pOpc h = 6 ∧ tagLine s h 6 = some l)
    ∧ (∃ (s : State) (h : Slot) (b : List Slot) (l : Line), Canon s ∧ 0 ≠ 1 ∧ (link s 1).rxq = [{ slots := h :: b, via := 0 }] ∧ pDchip h
      = ownChip s ∧ pOpc h = 8 ∧ tagLine s h 8 = some l)
    ∧ (∃ (s : State) (h : Slot) (b : List Slot), Canon s ∧ 0 ≠ 1 ∧ (link s 1).rxq = [{ slots := h :: b, via := 0 }] ∧ pDchip h = ownChip s
      ∧ (Instr.errrsp 1 RxEcc.header, 9) ∈ [(Instr.rdrsp 1 RxEcc.header, 6), (Instr.wrack 1 RxEcc.header, 7), (Instr.addrsp 1
      RxEcc.header, 8), (Instr.errrsp 1 RxEcc.header, 9)] ∧ pOpc h = 9) :=
  ⟨⟨rsp 6 (List.replicate 8 5) (gx 132 (gRd (.remote 1 0 0))) (rmL (.read 0 0 0 .data 0)), hdr 6 0 1 false 1, List.replicate 8 5, gx 132
    (gRd (.remote 1 0 0)), tilG (gRd (.remote 1 0 0)), gRd (.remote 1 0 0), rmL (.read 0 0 0 .data 0), canonOf _ (by decide +kernel), by
    decide +kernel⟩,
   ⟨rsp 7 ([]) (gx 132 gOut) (rmL (.write 0 0 1 false)), hdr 7 0 1 false 1, [], rmL (.write 0 0 1 false), canonOf _ (by decide +kernel),
     by decide +kernel⟩,
   ⟨rsp 7 ([]) (wx (ctl 5 0 0 7 0 0) (.signal (remoteNo + 7))) (rmL (.signal false false)), hdr 7 0 1 false 1, [], wx (ctl 5 0 0 7 0 0)
     (.signal (remoteNo + 7)), rmL (.signal false false), canonOf _ (by decide +kernel), by decide +kernel⟩,
   ⟨rsp 8 ([0]) (wx (ctl 5 0 0 7 0 0) (.signal (remoteNo + 7))) (rmL (.signal true false)), hdr 8 0 1 false 1, [0], wx (ctl 5 0 0 7 0 0)
     (.signal (remoteNo + 7)), rmL (.signal true false), canonOf _ (by decide +kernel), by decide +kernel⟩,
   ⟨rsp 9 ([]) (wx (ctl 5 0 0 7 0 0) (.signal (remoteNo + 7))) (rmL (.signal false false)), hdr 9 0 1 false 1, [], wx (ctl 5 0 0 7 0 0)
     (.signal (remoteNo + 7)), rmL (.signal false false), canonOf _ (by decide +kernel), by decide +kernel⟩,
   ⟨here 7 ([]) false 1, hdr 7 0 1 false 1, [], canonOf _ (by decide +kernel), by decide +kernel⟩,
   ⟨{ here 6 [] false 1 with ports := { own := [⟨remoteNo + 7, 10, 0, 0, .poll 0 0, none⟩] } }, hdr 6 0 1 false 1, [], canonOf _ (by
     decide +kernel), by decide +kernel⟩,
   ⟨rsp 6 (List.replicate 8 5) (gx 132 (gRd (.remote 1 0 0))) (rmL (.read 0 0 0 .data 0)), hdr 6 0 1 false 1, List.replicate 8 5, rmL
     (.read 0 0 0 .data 0), canonOf _ (by decide +kernel), by decide +kernel⟩,
   ⟨rsp 8 ([0]) (wx (ctl 5 0 0 7 0 0) (.signal (remoteNo + 7))) (rmL (.signal true false)), hdr 8 0 1 false 1, [0], rmL (.signal true
     false), canonOf _ (by decide +kernel), by decide +kernel⟩,
   ⟨here 9 ([]) false 1, hdr 9 0 1 false 1, [], canonOf _ (by decide +kernel), by decide +kernel⟩⟩

theorem witness_BarrierMessagesAct :
    (∃ (s : State) (h : Slot) (b1 : Slot), Canon s ∧ 0 ≠ 1 ∧ (link s 1).rxq = [{ slots := [h, b1], via := 0 }] ∧ pDchip h = ownChip s ∧
      pOpc h = 10 ∧ fld b1 64 3 = 0 ∧ ¬(0 < 2 ∧ fld b1 0 64 = (im s).cfgTag.toNat))
    ∧ (∃ (s : State) (h : Slot) (b1 : Slot), Canon s ∧ 2 ≠ 1 ∧ (link s 1).rxq = [{ slots := [h, b1], via := 2 }] ∧ pDchip h = ownChip s ∧
      pOpc h = 10 ∧ fld b1 64 3 = 0 ∧ ¬(2 < 2 ∧ fld b1 0 64 = (im s).cfgTag.toNat))
    ∧ (∃ (s : State) (h : Slot) (b1 : Slot), Canon s ∧ 0 ≠ 1 ∧ (link s 1).rxq = [{ slots := [h, b1], via := 0 }] ∧ pDchip h = ownChip s ∧
      pOpc h = 10 ∧ fld b1 64 3 = 0 ∧ 0 < 2 ∧ fld b1 0 64 = (im s).cfgTag.toNat ∧ pNs h = true ∧ barSecure s (fld b1 67 12) = true)
    ∧ (∃ (s : State) (h : Slot) (b1 : Slot), Canon s ∧ 0 ≠ 1 ∧ (link s 1).rxq = [{ slots := [h, b1], via := 0 }] ∧ pDchip h = ownChip s ∧
      pOpc h = 10 ∧ fld b1 64 3 = 0 ∧ 0 < 2 ∧ fld b1 0 64 = (im s).cfgTag.toNat ∧ (pNs h = false ∨ barSecure s (fld b1 67 12) = false) ∧
      ¬(inBox s (fld b1 67 12) (pSchip h) = true ∧ (pSchip h = ownChip s ∨ ∀ (c : ℕ), objOwner s (fld b1 67 12) ≠ some (c, true))))
    ∧ (∃ (s : State) (h : Slot) (b1 : Slot), Canon s ∧ 0 ≠ 1 ∧ (link s 1).rxq = [{ slots := [h, b1], via := 0 }] ∧ pDchip h = ownChip s ∧
      pOpc h = 10 ∧ fld b1 64 3 = 0 ∧ 0 < 2 ∧ fld b1 0 64 = (im s).cfgTag.toNat ∧ (pNs h = false ∨ barSecure s (fld b1 67 12) = false) ∧
      inBox s (fld b1 67 12) (pSchip h) = true ∧ (pSchip h = ownChip s ∨ ∀ (c : ℕ), objOwner s (fld b1 67 12) ≠ some (c, true)) ∧ (bar s
      (fld b1 67 12)).st = BarSt.abandoned)
    ∧ (∃ (s : State) (h : Slot) (b1 : Slot), Canon s ∧ 0 ≠ 1 ∧ (link s 1).rxq = [{ slots := [h, b1], via := 0 }] ∧ pDchip h = ownChip s ∧
      pOpc h = 10 ∧ fld b1 64 3 = 0 ∧ 0 < 2 ∧ fld b1 0 64 = (im s).cfgTag.toNat ∧ (pNs h = false ∨ barSecure s (fld b1 67 12) = false) ∧
      inBox s (fld b1 67 12) (pSchip h) = true ∧ (pSchip h = ownChip s ∨ ∀ (c : ℕ), objOwner s (fld b1 67 12) ≠ some (c, true)) ∧ (bar s
      (fld b1 67 12)).st = BarSt.poisoned)
    ∧ (∃ (s : State) (h : Slot) (b1 : Slot), Canon s ∧ 0 ≠ 1 ∧ (link s 1).rxq = [{ slots := [h, b1], via := 0 }] ∧ pDchip h = ownChip s ∧
      pOpc h = 10 ∧ fld b1 64 3 = 0 ∧ 0 < 2 ∧ fld b1 0 64 = (im s).cfgTag.toNat ∧ (pNs h = false ∨ barSecure s (fld b1 67 12) = false) ∧
      inBox s (fld b1 67 12) (pSchip h) = true ∧ (pSchip h = ownChip s ∨ ∀ (c : ℕ), objOwner s (fld b1 67 12) ≠ some (c, true)) ∧ (bar s
      (fld b1 67 12)).st = BarSt.saved)
    ∧ (∃ (s : State) (h : Slot) (b1 : Slot), Canon s ∧ 0 ≠ 1 ∧ (link s 1).rxq = [{ slots := [h, b1], via := 0 }] ∧ pDchip h = ownChip s ∧
      pOpc h = 10 ∧ fld b1 64 3 = 0 ∧ 0 < 2 ∧ fld b1 0 64 = (im s).cfgTag.toNat ∧ (pNs h = false ∨ barSecure s (fld b1 67 12) = false) ∧
      inBox s (fld b1 67 12) (pSchip h) = true ∧ (pSchip h = ownChip s ∨ ∀ (c : ℕ), objOwner s (fld b1 67 12) ≠ some (c, true)) ∧ ((bar s
      (fld b1 67 12)).st = BarSt.idle ∨ (bar s (fld b1 67 12)).st = BarSt.gather) ∧ (fld b1 79 2 ≠ (bar s (fld b1 67 12)).epoch.toNat ∨
      (bar s (fld b1 67 12)).st = BarSt.gather ∧ (bar s (fld b1 67 12)).need.toNat ≠ fld b1 81 14))
    ∧ (∃ (s : State) (h : Slot) (b1 : Slot), Canon s ∧ 0 ≠ 1 ∧ (link s 1).rxq = [{ slots := [h, b1], via := 0 }] ∧ pDchip h = ownChip s ∧
      pOpc h = 10 ∧ fld b1 64 3 = 0 ∧ 0 < 2 ∧ fld b1 0 64 = (im s).cfgTag.toNat ∧ (pNs h = false ∨ barSecure s (fld b1 67 12) = false) ∧
      inBox s (fld b1 67 12) (pSchip h) = true ∧ (pSchip h = ownChip s ∨ ∀ (c : ℕ), objOwner s (fld b1 67 12) ≠ some (c, true)) ∧ ((bar s
      (fld b1 67 12)).st = BarSt.idle ∨ (bar s (fld b1 67 12)).st = BarSt.gather) ∧ (fld b1 79 2 ≠ (bar s (fld b1 67 12)).epoch.toNat ∨
      (bar s (fld b1 67 12)).st = BarSt.gather ∧ (bar s (fld b1 67 12)).need.toNat ≠ fld b1 81 14))
    ∧ (∃ (s : State) (h : Slot) (b1 : Slot), Canon s ∧ 0 ≠ 1 ∧ (link s 1).rxq = [{ slots := [h, b1], via := 0 }] ∧ pDchip h = ownChip s ∧
      pOpc h = 10 ∧ fld b1 64 3 = 0 ∧ 0 < 2 ∧ fld b1 0 64 = (im s).cfgTag.toNat ∧ (pNs h = false ∨ barSecure s (fld b1 67 12) = false) ∧
      inBox s (fld b1 67 12) (pSchip h) = true ∧ (pSchip h = ownChip s ∨ ∀ (c : ℕ), objOwner s (fld b1 67 12) ≠ some (c, true)) ∧ ((bar s
      (fld b1 67 12)).st = BarSt.idle ∨ (bar s (fld b1 67 12)).st = BarSt.gather ∧ (bar s (fld b1 67 12)).need.toNat = fld b1 81 14) ∧ fld
      b1 79 2 = (bar s (fld b1 67 12)).epoch.toNat ∧ (bar s (fld b1 67 12)).count.toNat ≠ fld b1 81 14)
    ∧ (∃ (s : State) (h : Slot) (b1 : Slot), Canon s ∧ 0 ≠ 1 ∧ (link s 1).rxq = [{ slots := [h, b1], via := 0 }] ∧ pDchip h = ownChip s ∧
      pOpc h = 10 ∧ fld b1 64 3 = 0 ∧ 0 < 2 ∧ fld b1 0 64 = (im s).cfgTag.toNat ∧ (pNs h = false ∨ barSecure s (fld b1 67 12) = false) ∧
      inBox s (fld b1 67 12) (pSchip h) = true ∧ (pSchip h = ownChip s ∨ ∀ (c : ℕ), objOwner s (fld b1 67 12) ≠ some (c, true)) ∧ ((bar s
      (fld b1 67 12)).st = BarSt.idle ∨ (bar s (fld b1 67 12)).st = BarSt.gather ∧ (bar s (fld b1 67 12)).need.toNat = fld b1 81 14) ∧ fld
      b1 79 2 = (bar s (fld b1 67 12)).epoch.toNat ∧ (bar s (fld b1 67 12)).count.toNat = fld b1 81 14)
    ∧ (∃ (s : State) (h : Slot) (b1 : Slot) (y : Machine.Stream), Canon s ∧ 0 ≠ 1 ∧ (link s 1).rxq = [{ slots := [h, b1], via := 0 }] ∧
      pDchip h = ownChip s ∧ pOpc h = 10 ∧ fld b1 64 3 = 1 ∧ stream s (fld b1 99 9) = some y ∧ y.wait = Wait.ack (fld b1 67 12) ∧ ¬(fld b1
      99 9 = 511 ∧ s.hub.arrBusy = true ∧ fld b1 67 12 = s.hub.arrObj.toNat) ∧ fld b1 95 4 ≠ cSTATE ∧ fld b1 95 4 ≠ cTAG ∧ fld b1 95 4 ≠
      cWORLD)
    ∧ (∃ (s : State) (h : Slot) (b1 : Slot) (y : Machine.Stream), Canon s ∧ 0 ≠ 1 ∧ (link s 1).rxq = [{ slots := [h, b1], via := 0 }] ∧
      pDchip h = ownChip s ∧ pOpc h = 10 ∧ fld b1 64 3 = 1 ∧ stream s (fld b1 99 9) = some y ∧ y.wait = Wait.ack (fld b1 67 12) ∧ ¬(fld b1
      99 9 = 511 ∧ s.hub.arrBusy = true ∧ fld b1 67 12 = s.hub.arrObj.toNat) ∧ fld b1 95 4 = cTAG)
    ∧ (∃ (s : State) (h : Slot) (b1 : Slot) (y : Machine.Stream), Canon s ∧ 0 ≠ 1 ∧ (link s 1).rxq = [{ slots := [h, b1], via := 0 }] ∧
      pDchip h = ownChip s ∧ pOpc h = 10 ∧ fld b1 64 3 = 1 ∧ stream s (fld b1 99 9) = some y ∧ y.wait = Wait.ack (fld b1 67 12) ∧ ¬(fld b1
      99 9 = 511 ∧ s.hub.arrBusy = true ∧ fld b1 67 12 = s.hub.arrObj.toNat) ∧ fld b1 95 4 = cSTATE)
    ∧ (∃ (s : State) (h : Slot) (b1 : Slot) (y : Machine.Stream), Canon s ∧ 0 ≠ 1 ∧ (link s 1).rxq = [{ slots := [h, b1], via := 0 }] ∧
      pDchip h = ownChip s ∧ pOpc h = 10 ∧ fld b1 64 3 = 1 ∧ stream s (fld b1 99 9) = some y ∧ y.wait = Wait.ack (fld b1 67 12) ∧ ¬(fld b1
      99 9 = 511 ∧ s.hub.arrBusy = true ∧ fld b1 67 12 = s.hub.arrObj.toNat) ∧ fld b1 95 4 = cWORLD)
    ∧ (∃ (s : State) (h : Slot) (b1 : Slot), Canon s ∧ 0 ≠ 1 ∧ (link s 1).rxq = [{ slots := [h, b1], via := 0 }] ∧ pDchip h = ownChip s ∧
      pOpc h = 10 ∧ fld b1 64 3 = 1 ∧ fld b1 99 9 = 511 ∧ s.hub.arrBusy = true ∧ fld b1 67 12 = s.hub.arrObj.toNat)
    ∧ (∃ (s : State) (h : Slot) (b1 : Slot), Canon s ∧ 0 ≠ 1 ∧ (link s 1).rxq = [{ slots := [h, b1], via := 0 }] ∧ pDchip h = ownChip s ∧
      pOpc h = 10 ∧ fld b1 64 3 = 1 ∧ (∀ (y : Machine.Stream), stream s (fld b1 99 9) = some y → y.wait ≠ Wait.ack (fld b1 67 12)) ∧ ¬(fld
      b1 99 9 = 511 ∧ s.hub.arrBusy = true ∧ fld b1 67 12 = s.hub.arrObj.toNat))
    ∧ (∃ (s : State) (h : Slot) (b1 : Slot), Canon s ∧ 2 ≠ 1 ∧ (link s 1).rxq = [{ slots := [h, b1], via := 2 }] ∧ pDchip h = ownChip s ∧
      pOpc h = 10 ∧ (Instr.releaseApply 1 RxEcc.clean, 2) ∈ [(Instr.releaseApply 1 RxEcc.clean, 2), (Instr.abandon 1 RxEcc.clean, 3),
      (Instr.poison 1 RxEcc.clean, 4)] ∧ fld b1 64 3 = 2 ∧ 2 ≤ 2 ∧ fld b1 0 64 = (im s).cfgTag.toNat)
    ∧ (∃ (s : State) (h : Slot) (b1 : Slot), Canon s ∧ 0 ≠ 1 ∧ (link s 1).rxq = [{ slots := [h, b1], via := 0 }] ∧ pDchip h = ownChip s ∧
      pOpc h = 10 ∧ (Instr.abandon 1 RxEcc.clean, 3) ∈ [(Instr.releaseApply 1 RxEcc.clean, 2), (Instr.abandon 1 RxEcc.clean, 3),
      (Instr.poison 1 RxEcc.clean, 4)] ∧ fld b1 64 3 = 3 ∧ fld b1 0 64 ≠ (im s).cfgTag.toNat)
    ∧ (∃ (s : State) (h : Slot) (b1 : Slot), Canon s ∧ 0 ≠ 1 ∧ (link s 1).rxq = [{ slots := [h, b1], via := 0 }] ∧ pDchip h = ownChip s ∧
      pOpc h = 10 ∧ (Instr.poison 1 RxEcc.clean, 4) ∈ [(Instr.releaseApply 1 RxEcc.clean, 2), (Instr.abandon 1 RxEcc.clean, 3),
      (Instr.poison 1 RxEcc.clean, 4)] ∧ fld b1 64 3 = 4 ∧ 0 < 2 ∧ fld b1 0 64 = (im s).cfgTag.toNat ∧ ¬(4 = 2 ∨ fld b1 112 8 = ownChip s
      ∨ fromSpread s 1 { slots := [h, b1], via := 0 } = true))
    ∧ (∃ (s : State) (h : Slot) (b1 : Slot), Canon s ∧ 0 ≠ 1 ∧ (link s 1).rxq = [{ slots := [h, b1], via := 0 }] ∧ pDchip h = ownChip s ∧
      pOpc h = 10 ∧ (Instr.poison 1 RxEcc.clean, 4) ∈ [(Instr.releaseApply 1 RxEcc.clean, 2), (Instr.abandon 1 RxEcc.clean, 3),
      (Instr.poison 1 RxEcc.clean, 4)] ∧ fld b1 64 3 = 4 ∧ 0 < 2 ∧ fld b1 0 64 = (im s).cfgTag.toNat ∧ (4 = 2 ∨ fld b1 112 8 = ownChip s ∨
      fromSpread s 1 { slots := [h, b1], via := 0 } = true) ∧ (barHome s (fld b1 67 12) ≠ fld b1 112 8 ∨ pNs h = barSecure s (fld b1 67
      12)))
    ∧ (∃ (s : State) (h : Slot) (b1 : Slot), Canon s ∧ 0 ≠ 1 ∧ (link s 1).rxq = [{ slots := [h, b1], via := 0 }] ∧ pDchip h = ownChip s ∧
      pOpc h = 10 ∧ (Instr.poison 1 RxEcc.clean, 4) ∈ [(Instr.releaseApply 1 RxEcc.clean, 2), (Instr.abandon 1 RxEcc.clean, 3),
      (Instr.poison 1 RxEcc.clean, 4)] ∧ fld b1 64 3 = 4 ∧ 0 < 2 ∧ fld b1 0 64 = (im s).cfgTag.toNat ∧ (4 = 2 ∨ fld b1 112 8 = ownChip s ∨
      fromSpread s 1 { slots := [h, b1], via := 0 } = true) ∧ (barHome s (fld b1 67 12) ≠ fld b1 112 8 ∨ pNs h = barSecure s (fld b1 67
      12)))
    ∧ (∃ (s : State) (h : Slot) (b1 : Slot), Canon s ∧ 0 ≠ 1 ∧ (link s 1).rxq = [{ slots := [h, b1], via := 0 }] ∧ pDchip h = ownChip s ∧
      pOpc h = 10 ∧ (Instr.abandon 1 RxEcc.clean, 3) ∈ [(Instr.releaseApply 1 RxEcc.clean, 2), (Instr.abandon 1 RxEcc.clean, 3),
      (Instr.poison 1 RxEcc.clean, 4)] ∧ fld b1 64 3 = 3 ∧ 0 < 2 ∧ fld b1 0 64 = (im s).cfgTag.toNat ∧ (3 = 2 ∨ fld b1 112 8 = ownChip s ∨
      fromSpread s 1 { slots := [h, b1], via := 0 } = true) ∧ barHome s (fld b1 67 12) = fld b1 112 8 ∧ pNs h ≠ barSecure s (fld b1 67 12)
      ∧ 3 = 3)
    ∧ (∃ (s : State) (h : Slot) (b1 : Slot), Canon s ∧ 0 ≠ 1 ∧ (link s 1).rxq = [{ slots := [h, b1], via := 0 }] ∧ pDchip h = ownChip s ∧
      pOpc h = 10 ∧ (Instr.releaseApply 1 RxEcc.clean, 2) ∈ [(Instr.releaseApply 1 RxEcc.clean, 2), (Instr.abandon 1 RxEcc.clean, 3),
      (Instr.poison 1 RxEcc.clean, 4)] ∧ fld b1 64 3 = 2 ∧ 0 < 2 ∧ fld b1 0 64 = (im s).cfgTag.toNat ∧ (2 = 2 ∨ fld b1 112 8 = ownChip s ∨
      fromSpread s 1 { slots := [h, b1], via := 0 } = true) ∧ barHome s (fld b1 67 12) = fld b1 112 8 ∧ pNs h ≠ barSecure s (fld b1 67 12)
      ∧ (2 = 2 ∨ fld b1 112 8 ≠ ownChip s) ∧ (∀ k < 4, fld b1 108 2 < k → barLen s (fld b1 67 12) k = 1) ∧ fld b1 110 2 = 0)
    ∧ (∃ (s : State) (h : Slot) (b1 : Slot), Canon s ∧ 0 ≠ 1 ∧ (link s 1).rxq = [{ slots := [h, b1], via := 0 }] ∧ pDchip h = ownChip s ∧
      pOpc h = 10 ∧ (Instr.releaseApply 1 RxEcc.clean, 2) ∈ [(Instr.releaseApply 1 RxEcc.clean, 2), (Instr.abandon 1 RxEcc.clean, 3),
      (Instr.poison 1 RxEcc.clean, 4)] ∧ fld b1 64 3 = 2 ∧ 0 < 2 ∧ fld b1 0 64 = (im s).cfgTag.toNat ∧ (2 = 2 ∨ fld b1 112 8 = ownChip s ∨
      fromSpread s 1 { slots := [h, b1], via := 0 } = true) ∧ barHome s (fld b1 67 12) = fld b1 112 8 ∧ pNs h ≠ barSecure s (fld b1 67 12)
      ∧ (2 = 2 ∨ fld b1 112 8 ≠ ownChip s) ∧ (∀ k < 4, fld b1 108 2 < k → barLen s (fld b1 67 12) k = 1) ∧ 0 < 8 ∧ fld b1 110 2 ≠ 0 ∧
      portOf s (fld b1 108 2, 1 - (portDim s 1).2) = some 0 ∧ linkUp (link s 0) = true ∧ (link s 0).txq = [] ∧ (link s 0).replay.length <
      512 ∧ 41 ∈ (link s 0).rank ∧ linkFenced s 0 41 = false ∧ 2 ≤ credit (link s 0) 6 ∧ 2 ≤ credit (link s 0) 7 ∧ ownChip s < 256 ∧
      neighbour s 0 < 256)
    ∧ (∃ (s : State) (x : Machine.Stream), Canon s ∧ Decoded s 0 x 5 ∧ sSop x.desc = 2 ∧ Settled s 0 ∧ barObj s (chanCfg s 0).ctx (sBvid
      x.desc) = some 16 ∧ (chanSecure s 0 = true ∨ barSecure s 16 = false) ∧ barHome s 16 ≠ ownChip s)
    ∧ (∃ (s : State) (x : Machine.Stream), Canon s ∧ Decoded s 0 x 5 ∧ sSop x.desc = 2 ∧ Settled s 0 ∧ barObj s (chanCfg s 0).ctx (sBvid
      x.desc) = some 0 ∧ (chanSecure s 0 = true ∨ barSecure s 0 = false) ∧ barHome s 0 = ownChip s ∧ inBox s 0 (ownChip s) = true ∧ (bar s
      0).st = BarSt.gather ∧ (bar s 0).need.toNat ≠ sPcount x.desc)
    ∧ (∃ (s : State) (v : W32), Served s 61460 false (barSecure s (fld v 0 12)) ∧ s.hub.arrBusy = false ∧ (∀ (c : ℕ), objOwner s (fld v 0
      12) ≠ some (c, true)) ∧ barHome s (fld v 0 12) ≠ ownChip s) :=
  ⟨⟨(bar0 (bh 0 false) (bm 2 0 0 0 0 0 0 0 0 0) 0 { }), bh 0 false, bm 2 0 0 0 0 0 0 0 0 0, canonOf _ (by decide +kernel), by
    decide +kernel⟩,
   ⟨(bar0 (bh 0 false) (bm 1 0 0 0 0 0 0 0 0 0) 2 { }), bh 0 false, bm 1 0 0 0 0 0 0 0 0 0, canonOf _ (by decide +kernel), by
     decide +kernel⟩,
   ⟨(bar0 (bh 0 true) (bm 1 0 0 0 0 0 0 0 0 0) 0 { }), bh 0 true, bm 1 0 0 0 0 0 0 0 0 0, canonOf _ (by decide +kernel), by
     decide +kernel⟩,
   ⟨(bar0 (bh 1 false) (bm 1 0 0 0 0 0 0 0 0 0) 0 { }), bh 1 false, bm 1 0 0 0 0 0 0 0 0 0, by
       refine ⟨canonOf _ (by decide +kernel), ?_, ?_, ?_, ?_, ?_, ?_, ?_, ?_, (fun h => absurd h.1 (by
         decide +kernel))⟩ <;> decide +kernel⟩,
   ⟨(bar0 (bh 0 false) (bm 1 0 0 0 0 0 0 0 0 0) 0 { st := .abandoned }), bh 0 false, bm 1 0 0 0 0 0 0 0 0 0, by
       refine ⟨canonOf _ (by decide +kernel), ?_, ?_, ?_, ?_, ?_, ?_, ?_, ?_, ?_, .inl (by decide +kernel), ?_⟩ <;> decide +kernel⟩,
   ⟨(bar0 (bh 0 false) (bm 1 0 0 0 0 0 0 0 0 0) 0 { st := .poisoned }), bh 0 false, bm 1 0 0 0 0 0 0 0 0 0, by
       refine ⟨canonOf _ (by decide +kernel), ?_, ?_, ?_, ?_, ?_, ?_, ?_, ?_, ?_, .inl (by decide +kernel), ?_⟩ <;> decide +kernel⟩,
   ⟨(bar0 (bh 0 false) (bm 1 0 0 0 0 0 0 0 0 0) 0 { st := .saved }), bh 0 false, bm 1 0 0 0 0 0 0 0 0 0, by
       refine ⟨canonOf _ (by decide +kernel), ?_, ?_, ?_, ?_, ?_, ?_, ?_, ?_, ?_, .inl (by decide +kernel), ?_⟩ <;> decide +kernel⟩,
   ⟨(bar0 (bh 0 false) (bm 1 0 0 1 0 0 0 0 0 0) 0 { }), bh 0 false, bm 1 0 0 1 0 0 0 0 0 0, by
       refine ⟨canonOf _ (by decide +kernel), ?_, ?_, ?_, ?_, ?_, ?_, ?_, ?_, ?_, .inl (by decide +kernel), ?_⟩ <;> decide +kernel⟩,
   ⟨(bar0 (bh 0 false) (bm 1 0 0 0 2 0 0 0 0 0) 0 { st := .gather, need := 1 }), bh 0 false, bm 1 0 0 0 2 0 0 0 0 0, by
       refine ⟨canonOf _ (by decide +kernel), ?_, ?_, ?_, ?_, ?_, ?_, ?_, ?_, ?_, .inl (by decide +kernel), ?_⟩ <;> decide +kernel⟩,
   ⟨(bar0 (bh 0 false) (bm 1 0 0 0 1 0 0 0 0 0) 0 { }), bh 0 false, bm 1 0 0 0 1 0 0 0 0 0, by
       refine ⟨canonOf _ (by decide +kernel), ?_, ?_, ?_, ?_, ?_, ?_, ?_, ?_, ?_, .inl (by decide +kernel), ?_⟩ <;> decide +kernel⟩,
   ⟨runs (bar0 (bh 0 false) (bm 1 0 0 0 1 0 0 0 0 0) 0 { st := .gather, need := 1, count := 1 }) 0 (wx (ctl 6 0 0 0 0 0) (.barrier 0 0
     false)), bh 0 false, bm 1 0 0 0 1 0 0 0 0 0, by
       refine ⟨canonOf _ (by decide +kernel), ?_, ?_, ?_, ?_, ?_, ?_, ?_, ?_, ?_, .inl (by decide +kernel), ?_⟩ <;> decide +kernel⟩,
   ⟨runs (bar0 (bh 0 false) (bm 1 1 0 0 0 8 0 0 0 0) 0 { }) 0 (wx (ctl 5 2 0 0 16 0) (.ack 0)), bh 0 false, bm 1 1 0 0 0 8 0 0 0 0, wx
     (ctl 5 2 0 0 16 0) (.ack 0), canonOf _ (by decide +kernel), by decide +kernel⟩,
   ⟨runs (bar0 (bh 0 false) (bm 1 1 0 0 0 cTAG 0 0 0 0) 0 { }) 0 (wx (ctl 5 2 0 0 16 0) (.ack 0)), bh 0 false, bm 1 1 0 0 0 cTAG 0 0 0 0,
     wx (ctl 5 2 0 0 16 0) (.ack 0), canonOf _ (by decide +kernel), by decide +kernel⟩,
   ⟨runs (bar0 (bh 0 false) (bm 1 1 0 0 0 cSTATE 0 0 0 0) 0 { }) 0 (wx (ctl 5 2 0 0 16 0) (.ack 0)), bh 0 false, bm 1 1 0 0 0 cSTATE 0 0 0
     0, wx (ctl 5 2 0 0 16 0) (.ack 0), canonOf _ (by decide +kernel), by decide +kernel⟩,
   ⟨runs (bar0 (bh 0 false) (bm 1 1 0 0 0 cWORLD 0 0 0 0) 0 { }) 0 (wx (ctl 5 2 0 0 16 0) (.ack 0)), bh 0 false, bm 1 1 0 0 0 cWORLD 0 0 0
     0, wx (ctl 5 2 0 0 16 0) (.ack 0), canonOf _ (by decide +kernel), by decide +kernel⟩,
   ⟨arrB (bar0 (bh 0 false) (bm 1 1 0 0 0 0 511 0 0 0) 0 { }), bh 0 false, bm 1 1 0 0 0 0 511 0 0 0, canonOf _ (by decide +kernel), by
     decide +kernel⟩,
   ⟨bar0 (bh 0 false) (bm 1 1 0 0 0 0 0 0 0 0) 0 { }, bh 0 false, bm 1 1 0 0 0 0 0 0 0 0, canonOf _ (by decide +kernel), by
     decide +kernel⟩,
   ⟨(bar0 (bh 0 false) (bm 1 2 0 0 0 0 0 0 0 0) 2 { }), bh 0 false, bm 1 2 0 0 0 0 0 0 0 0, canonOf _ (by decide +kernel), by
     decide +kernel⟩,
   ⟨(bar0 (bh 0 false) (bm 2 3 0 0 0 0 0 0 0 0) 0 { }), bh 0 false, bm 2 3 0 0 0 0 0 0 0 0, canonOf _ (by decide +kernel), by
     decide +kernel⟩,
   ⟨(bar0 (bh 0 false) (bm 1 4 0 0 0 0 0 0 0 3) 0 { }), bh 0 false, bm 1 4 0 0 0 0 0 0 0 3, canonOf _ (by decide +kernel), by
     decide +kernel⟩,
   ⟨(bar0 (bh 3 false) (bm 1 4 0 0 0 0 0 0 0 3) 0 { }), bh 3 false, bm 1 4 0 0 0 0 0 0 0 3, canonOf _ (by decide +kernel), by
     decide +kernel⟩,
   ⟨(bar0 (bh 0 true) (bm 1 4 0 0 0 0 0 0 0 0) 0 { }), bh 0 true, bm 1 4 0 0 0 0 0 0 0 0, canonOf _ (by decide +kernel), by
     decide +kernel⟩,
   ⟨runs (bar0 (bh 0 false) (bm 1 3 0 0 0 0 0 0 0 0) 0 { }) 0 (wx (ctl 6 0 0 0 0 0) (.barrier 0 0 false)), bh 0 false, bm 1 3 0 0 0 0 0 0
     0 0, canonOf _ (by decide +kernel), by decide +kernel⟩,
   ⟨runs (bar0 (bh 0 false) (bm 1 2 0 1 0 0 0 0 0 1) 0 { home := some 1 }) 0 (wx (ctl 6 0 0 0 0 0) (.barrier 0 0 false)), bh 0 false, bm 1
     2 0 1 0 0 0 0 0 1, canonOf _ (by decide +kernel), by decide +kernel⟩,
   ⟨(bar0 (bh 0 false) (bm 1 2 0 1 0 0 0 0 3 1) 0 { home := some 1 }), bh 0 false, bm 1 2 0 1 0 0 0 0 3 1, canonOf _ (by decide +kernel),
     by decide +kernel⟩,
   ⟨setBar (runX (dx (ctl 5 2 0 0 16 0))) 16 { home := some 1 }, dx (ctl 5 2 0 0 16 0), canonOf _ (by decide +kernel), ⟨by
     constructor <;> decide +kernel, by decide +kernel, by decide +kernel⟩, by decide +kernel, (by constructor <;> decide +kernel), by
     decide +kernel⟩,
   ⟨setBar (runX (dx (ctl 5 2 0 0 1024 0))) 0 { st := .gather, need := 2 }, dx (ctl 5 2 0 0 1024 0), canonOf _ (by decide +kernel), ⟨by
     constructor <;> decide +kernel, by decide +kernel, by decide +kernel⟩, by decide +kernel, (by constructor <;> decide +kernel), by
     decide +kernel⟩,
   ⟨setBar run 16 { home := some 1 }, 16, (by constructor <;> decide +kernel), by decide +kernel, (fun _ => fromOwner _ _ (by
     decide +kernel) _), by decide +kernel⟩⟩

theorem witness_BarrierRegisters :
    (∃ (s : State) (v : W32), Canon s ∧ Served s 61460 false (barSecure s (fld v 0 12)) ∧ s.hub.arrBusy = true)
    ∧ (∃ (s : State) (v : W32), Canon s ∧ Served s 61460 false (barSecure s (fld v 0 12)) ∧ s.hub.arrBusy = false ∧ ∃ c, objOwner s (fld v
      0 12) = some (c, true))
    ∧ (∃ (s : State) (v : W32), Canon s ∧ Served s 61460 false (barSecure s (fld v 0 12)) ∧ s.hub.arrBusy = false ∧ (∀ (c : ℕ), objOwner s
      (fld v 0 12) ≠ some (c, true)) ∧ barHome s (fld v 0 12) ≠ ownChip s)
    ∧ (∃ (s : State) (v : W32), Canon s ∧ Served s 61460 false (barSecure s (fld v 0 12)) ∧ s.hub.arrBusy = false ∧ (∀ (c : ℕ), objOwner s
      (fld v 0 12) ≠ some (c, true)) ∧ barHome s (fld v 0 12) = ownChip s ∧ inBox s (fld v 0 12) (ownChip s) = true ∧ ((bar s (fld v 0
      12)).st = BarSt.idle ∨ (bar s (fld v 0 12)).st = BarSt.gather ∧ (bar s (fld v 0 12)).need.toNat = fld v 12 14))
    ∧ (∃ (s : State), s.hub.arrBusy = true)
    ∧ (∃ (s : State), Served s 61456 false (barSecure s s.hub.barSel.toNat) ∧ (bar s s.hub.barSel.toNat).st ≠ BarSt.saved ∧ barWaiters s
      s.hub.barSel.toNat = [])
    ∧ (∃ (s : State), Served s 61456 false (barSecure s s.hub.barSel.toNat) ∧ ((bar s s.hub.barSel.toNat).st = BarSt.saved ∨ barWaiters s
      s.hub.barSel.toNat ≠ []))
    ∧ (∃ (s : State) (v : W32), Served s 61444 false (barSecure s s.hub.barSel.toNat) ∧ ((bar s s.hub.barSel.toNat).st = BarSt.idle ∨ (bar
      s s.hub.barSel.toNat).st = BarSt.abandoned ∨ (bar s s.hub.barSel.toNat).st = BarSt.poisoned) ∧ barWaiters s s.hub.barSel.toNat = []
      ∧ ∀ k < 4, fld v (24 + 2 * k) 2 + 1 ≤ extent s k ∧ fld v (16 + 2 * k) 2 < extent s k)
    ∧ (∃ (s : State) (v : W32), Served s 61444 false (barSecure s s.hub.barSel.toNat) ∧ ¬((((bar s s.hub.barSel.toNat).st = BarSt.idle ∨
      (bar s s.hub.barSel.toNat).st = BarSt.abandoned ∨ (bar s s.hub.barSel.toNat).st = BarSt.poisoned) ∧ barWaiters s s.hub.barSel.toNat
      = []) ∧ ∀ k < 4, fld v (24 + 2 * k) 2 + 1 ≤ extent s k ∧ fld v (16 + 2 * k) 2 < extent s k))
    ∧ (∃ (s : State) (v : W32), Served s (61696 + 4 * 0) false (ctxSecure s 0) ∧ ((ctx s 0).st = CtxSt.out ∨ ∀ k ∈ ctxChans s 0, chState s
      k = ChSt.idle ∨ chState s k = ChSt.halted ∨ chState s k = ChSt.disabled) ∧ (bitOf v 24 = true → ∀ d < 64, d ≠ 0 → (ctx s d).own =
      true → fld v 0 12 + fld v 12 11 ≤ (ctx s d).base ∨ (ctx s d).base + (ctx s d).count ≤ fld v 0 12 ∨ fld v 12 11 = 0 ∨ (ctx s d).count
      = 0) ∧ fld v 12 11 ≤ 1024)
    ∧ (∃ (s : State) (v : W32), Served s (61696 + 4 * 0) false (ctxSecure s 0) ∧ ¬(((ctx s 0).st = CtxSt.out ∨ ∀ k ∈ ctxChans s 0, chState
      s k = ChSt.idle ∨ chState s k = ChSt.halted ∨ chState s k = ChSt.disabled) ∧ (bitOf v 24 = true → ∀ d < 64, d ≠ 0 → (ctx s d).own =
      true → fld v 0 12 + fld v 12 11 ≤ (ctx s d).base ∨ (ctx s d).base + (ctx s d).count ≤ fld v 0 12 ∨ fld v 12 11 = 0 ∨ (ctx s d).count
      = 0) ∧ fld v 12 11 ≤ 1024)) :=
  ⟨⟨hubIs { arrBusy := true }, 0, canonOf _ (by decide +kernel), (by constructor <;> decide +kernel), by decide +kernel⟩,
   ⟨run, 15, canonOf _ (by decide +kernel), (by constructor <;> decide +kernel), by decide +kernel, ⟨0, by decide +kernel⟩⟩,
   ⟨setBar run 16 { home := some 1 }, 16, canonOf _ (by decide +kernel), (by constructor <;> decide +kernel), by decide +kernel, (fun _ =>
     fromOwner _ _ (by decide +kernel) _), by decide +kernel⟩,
   ⟨run, 16, canonOf _ (by decide +kernel), (by constructor <;> decide +kernel), by decide +kernel, (fun _ => fromOwner _ _ (by
     decide +kernel) _), by decide +kernel⟩,
   ⟨hubIs { arrBusy := true }, by decide +kernel⟩,
   ⟨run, (by constructor <;> decide +kernel), by decide +kernel⟩,
   ⟨withBar run { st := .saved }, (by constructor <;> decide +kernel), by decide +kernel⟩,
   ⟨run, BitVec.ofNat 32 (3 * 2 ^ 24), (by constructor <;> decide +kernel), by decide +kernel⟩,
   ⟨run, BitVec.ofNat 32 (2 ^ 26), (by constructor <;> decide +kernel), by decide +kernel⟩,
   ⟨run, BitVec.ofNat 32 (2 ^ 22), (by constructor <;> decide +kernel), by decide +kernel⟩,
   ⟨run, BitVec.ofNat 32 (2 ^ 22 + 2 ^ 12), (by constructor <;> decide +kernel), by decide +kernel⟩⟩

theorem witness_MailboxesAndTheDump :
    (∃ (s : State), Canon s ∧ Served s (65536 + 128 * 0 + 4 * 15) false (mbSecure s 0) ∧ (mb s 0).go = false)
    ∧ (∃ (s : State), Canon s ∧ Served s (65536 + 128 * 0 + 4 * 0) false (mbSecure s 0) ∧ (mb s 0).go = true)
    ∧ (∃ (s : State) (v : W32), Canon s ∧ Served s (65536 + 128 * 0 + 64) false (mbSecure s 0) ∧ bitOf v 0 = false ∧ (fld v 8 5 = (mb s
      0).len ∨ ¬(8 ≤ fld v 8 5 ∧ fld v 8 5 ≤ 16)) ∧ mbWaiter s 0 = none)
    ∧ (∃ (s : State) (v : W32) (x : Machine.Stream) (w : List W32), Canon s ∧ Served s (65536 + 128 * 1 + 64) false (mbSecure s 1) ∧ bitOf
      v 0 = false ∧ fld v 8 5 = (mb s 1).len ∧ mbWaiter s 1 = some 0 ∧ stream s 0 = some x ∧ x.wait = Wait.mailbox w ∧ bitOf x.desc 43 =
      true ∧ (mbCfg s 1).kind = 2)
    ∧ (∃ (s : State) (v : W32), Canon s ∧ Served s (65536 + 128 * 0 + 64) false (mbSecure s 0) ∧ bitOf v 0 = false ∧ bitOf v 1 = false ∧
      mbWaiter s 0 = none ∧ (mb s 0).go = false ∧ 8 ≤ fld v 8 5 ∧ fld v 8 5 ≤ 16)
    ∧ (∃ (s : State) (v : W32), Canon s ∧ Served s (65536 + 128 * 0 + 64) false (mbSecure s 0) ∧ bitOf v 0 = false ∧ bitOf v 1 = false ∧
      mbWaiter s 0 = none ∧ (mb s 0).go = false ∧ ¬(8 ≤ fld v 8 5 ∧ fld v 8 5 ≤ 16))
    ∧ (∃ (s : State) (v : W32), Canon s ∧ Served s (65536 + 128 * 0 + 64) false (mbSecure s 0) ∧ bitOf v 0 = false ∧ bitOf v 1 = false ∧
      mbWaiter s 0 = none ∧ (mb s 0).go = true ∧ fld v 8 5 ≠ (mb s 0).len)
    ∧ (∃ (s : State) (v : W32), Canon s ∧ Served s (65536 + 128 * 0 + 64) false (mbSecure s 0) ∧ bitOf v 1 = false ∧ fld v 8 5 = (mb s
      0).len ∧ (mb s 0).go = true)
    ∧ (∃ (s : State) (v : W32), Canon s ∧ Served s (65536 + 128 * 1 + 64) false (mbSecure s 1) ∧ bitOf v 1 = false ∧ fld v 8 5 = (mb s
      1).len ∧ (mb s 1).go = false ∧ (mbCfg s 1).kind = 2)
    ∧ (∃ (s : State), Served s 61480 false true ∧ s.hub.dumpGo = true)
    ∧ (∃ (s : State), Served s 61480 false true ∧ s.hub.dumpGo = false)
    ∧ (∃ (s : State), s.hub.dumpGo = true ∧ mmioReady s = true) :=
  ⟨⟨run, canonOf _ (by decide +kernel), (by constructor <;> decide +kernel), by decide +kernel⟩,
   ⟨setMb run 0 { go := true }, canonOf _ (by decide +kernel), (by constructor <;> decide +kernel), by decide +kernel⟩,
   ⟨setMb run 0 { go := true }, BitVec.ofNat 32 (2 ^ 12 + 2), canonOf _ (by decide +kernel), (by constructor <;> decide +kernel), by
     decide +kernel⟩,
   ⟨mailed, BitVec.ofNat 32 (2 ^ 12 + 2), mailing, [], canonOf _ (by decide +kernel), (by constructor <;> decide +kernel), by
     decide +kernel⟩,
   ⟨run, BitVec.ofNat 32 (8 * 2 ^ 8), canonOf _ (by decide +kernel), (by constructor <;> decide +kernel), by decide +kernel⟩,
   ⟨run, BitVec.ofNat 32 (7 * 2 ^ 8), canonOf _ (by decide +kernel), (by constructor <;> decide +kernel), by decide +kernel⟩,
   ⟨setMb run 0 { go := true }, BitVec.ofNat 32 (8 * 2 ^ 8), canonOf _ (by decide +kernel), (by constructor <;> decide +kernel), by
     decide +kernel⟩,
   ⟨setMb run 0 { go := true }, BitVec.ofNat 32 (2 ^ 12 + 1), canonOf _ (by decide +kernel), (by constructor <;> decide +kernel), by
     decide +kernel⟩,
   ⟨run, BitVec.ofNat 32 (2 ^ 12 + 1), canonOf _ (by decide +kernel), (by constructor <;> decide +kernel), by decide +kernel⟩,
   ⟨hubIs { dumpGo := true }, (by constructor <;> decide +kernel), by decide +kernel⟩,
   ⟨run, (by constructor <;> decide +kernel), by decide +kernel⟩,
   ⟨hubIs { dumpGo := true }, by decide +kernel⟩⟩

theorem witness_SidebandHasItsOwnIndex :
    (∃ (s : State), sbServed s = true ∧ s.aon.sb.sel = true ∧ s.aon.sb.zt = true ∧ s.aon.sb.byte = 0 ∧ s.aon.sb.off.toNat = 16 + 4 * 7 ∧ 7
      = 7)
    ∧ (∃ (s : State), sbServed s = true ∧ s.aon.sb.sel = true ∧ s.aon.sb.zt = true ∧ s.aon.sb.byte = 0 ∧ s.aon.sb.off.toNat = 16 + 4 * 0)
    ∧ (∃ (s : State), sbServed s = true ∧ s.aon.sb.sel = true ∧ s.aon.sb.zt = true ∧ s.aon.sb.byte = 0 ∧ s.aon.sb.off = 12)
    ∧ (∃ (s : State), sbServed s = true ∧ s.aon.sb.sel = true ∧ s.aon.sb.zt = true ∧ s.aon.sb.off = 12)
    ∧ (∃ (s : State), Served s 12300 false true) :=
  ⟨⟨sbIs { sel := true, zt := true, off := 0x02C }, by decide +kernel⟩,
   ⟨sbIs { sel := true, zt := true, off := 0x010 }, by decide +kernel⟩,
   ⟨sbIs { sel := true, zt := true, off := 0x00C }, by decide +kernel⟩,
   ⟨sbIs { sel := true, zt := true, off := 0x00C }, by decide +kernel⟩,
   ⟨run, (by constructor <;> decide +kernel)⟩⟩

theorem witness_TestAccessPort :
    (∃ (s : State) (op : Byte), s.boot.phase ≠ BlkPhase.cold ∧ bypassOpcode op = true)
    ∧ (∃ (s : State), s.boot.phase ≠ BlkPhase.cold)
    ∧ (∃ (s : State) (d : BitVec 22) (op : Byte), s.boot.phase = BlkPhase.cold ∧ bypassOpcode op = true ∧ Instr.idcode ∈ [Instr.idcode,
      Instr.clamp, Instr.highz, Instr.extest d, Instr.samplePreload d, Instr.bypass op])
    ∧ (∃ (s : State), 7 < 8 ∧ s.boot.phase ≠ BlkPhase.cold) :=
  ⟨⟨run, 0xFF, by decide +kernel⟩,
   ⟨run, by decide +kernel⟩,
   ⟨inPhase .cold 0, 0, 0xFF, by decide +kernel⟩,
   ⟨run, by decide +kernel⟩⟩
/-- A WHIRL at EMIT with `n` in every register, one byte short of the bound of its writes. -/
def atEmit (n : W32) : Machine.Stream :=
  { atWx 0x10 65535 with
    whirl := some ⟨[whi 0x10 0, 0], Vector.replicate 8 n, 0, 0, 65535, 2 ^ 40 - 2, [], 0, false⟩ }
/-- A WHIRL at DREV with n = m = 1. -/
def atDrev : Machine.Stream :=
  { atWx 0x0D 0 with
    whirl := some ⟨[whi 0x0D (257 * 2 ^ 24), 0], Vector.replicate 8 0, 0, 0, 0, 0, [], 0, false⟩ }

theorem actsOf {s : State} {c : Nat} {x : Machine.Stream}
    (h : operating s = true ∧ chState s c = .running ∧ ctxRuns s c = true ∧ stream s c = some x ∧ x.slot = true) : Acts s c x := by
  constructor <;> tauto

theorem atWhirlOf {s : State} {c op : Nat} {x : Machine.Stream} {w : Whirl} {i : W64} (hw : x.whirl = some w)
    (h : (operating s = true ∧ chState s c = .running ∧ ctxRuns s c = true ∧ stream s c = some x ∧ x.slot = true) ∧ x.st = .started
      ∧ dType x.desc = 4 ∧ w.prog[w.pc]? = some i ∧ iOp i = op ∧ w.stopped = false ∧ runsAhead x w < 16 ∧ w.quiet < 65536) :
    AtWhirl s c op x w i := by
  constructor
  · exact actsOf h.1
  all_goals tauto

theorem witness_WhirligigRuns :
    (∀ op ∈ [1, 2, 3, 4, 5, 6, 7, 8, 9, 10, 11, 12, 13, 17, 18, 19, 20, 0, 16], ∃ (s : State) (x : Machine.Stream) (w : Whirl),
      AtWhirl s 0 op x w (whi op 0))
    ∧ (∃ (s : State) (x : Machine.Stream) (w : Whirl) (i : W64), AtWhirl s 0 13 x w i ∧ iImm i / 256 % 4 = 1)
    ∧ (∃ (s : State) (x : Machine.Stream) (w : Whirl), AtWhirl s 0 16 x w (whi 16 0) ∧ 0 < fmtBits (dDfmt x.desc) / 8
      ∧ w.written + (greg w (iRd (whi 16 0))).toNat * (fmtBits (dDfmt x.desc) / 8) ≤ 2 ^ 40 - 1)
    ∧ (∃ (s : State) (x : Machine.Stream) (w : Whirl), AtWhirl s 0 16 x w (whi 16 0) ∧ 0 < fmtBits (dDfmt x.desc) / 8
      ∧ w.written ≤ 2 ^ 40 - 1 ∧ 2 ^ 40 - 1 < w.written + (greg w (iRd (whi 16 0))).toNat * (fmtBits (dDfmt x.desc) / 8))
    ∧ (∃ (s : State) (x : Machine.Stream) (w : Whirl), Acts s 0 x ∧ x.st = .started ∧ dType x.desc = 4 ∧ x.whirl = some w
      ∧ w.stopped = false ∧ 65536 ≤ w.quiet) := by
  refine ⟨?_, ?_, ?_, ?_, ?_⟩
  · have key : ∀ op ∈ [1, 2, 3, 4, 5, 6, 7, 8, 9, 10, 11, 12, 13, 17, 18, 19, 20, 0, 16],
        (operating (runX (atWx op 65535)) = true ∧ chState (runX (atWx op 65535)) 0 = .running ∧ ctxRuns (runX (atWx op 65535)) 0 = true
          ∧ stream (runX (atWx op 65535)) 0 = some (atWx op 65535) ∧ (atWx op 65535).slot = true ∧ (atWx op 65535).st = .started
          ∧ dType (atWx op 65535).desc = 4) ∧ iOp (whi op 0) = op := by decide +kernel
    intro op h
    obtain ⟨⟨a, b, c, d, e, f, g⟩, k⟩ := key op h
    exact ⟨runX (atWx op 65535), atWx op 65535, _, ⟨a, b, c, d, e⟩, f, g, rfl, rfl, k, rfl, (by decide : (0 : Nat) < 16), by simp⟩
  · exact ⟨runX atDrev, atDrev, _, whi 0x0D (257 * 2 ^ 24), atWhirlOf rfl (by decide +kernel), by decide +kernel⟩
  · exact ⟨runX (atEmit 1), atEmit 1, _, atWhirlOf rfl (by decide +kernel), by decide +kernel⟩
  · exact ⟨runX (atEmit 2), atEmit 2, _, atWhirlOf rfl (by decide +kernel), by decide +kernel⟩
  · exact ⟨runX (atWx 1 65536), atWx 1 65536, _, actsOf (by decide +kernel), by decide +kernel, by decide +kernel, rfl, by decide +kernel, by decide +kernel⟩

/-! ### What is not well formed is refused -/

theorem test_reserved_source_refused : exec (.faultEvent [⟨0xFF, 0, 0, 0⟩]) run = .refused .illFormed := rfl
theorem test_reserved_source_ill_formed : (Instr.faultEvent [⟨0xFF, 0, 0, 0⟩]).wf = false := by decide
theorem test_bypass_of_idcode_refused : exec (.bypass 1) run = .refused .illFormed := rfl
theorem test_bypass_of_idcode_ill_formed : (Instr.bypass 1).wf = false := by decide
theorem test_bypass_goes_on : (Instr.bypass 0xFF).wf = true := by decide

/-! ### A few commands -/

/-- R367: IDCODE. -/
theorem test_idcode : (gone .idcode run).out = [.tdo 32 0x14D5A74F] := by decide +kernel
/-- R54: a NOP completes with OK. -/
theorem test_nop : (stream (gone (.nop 0) (dec (dsc 0 0))) 0).map (·.st) = some (.done 0 0) := by decide +kernel
/-- R339: EXIT in SAFE begins the exit, and in NORMAL changes no state. -/
theorem test_exit_needs_safe : (gone (.exit false 4) run).aon.fc.st = .normal := by decide +kernel
/-- R106: MOVI writes IMM. -/
theorem test_movi : ((stream (gone (.whMovi 0) (runX (atWx 1 0))) 0).bind (·.whirl)).map (·.pc) = some 1 := by decide +kernel
/-- R71: a doorbell of a DISABLED channel leaves STATE in LASTCODE. -/
theorem test_doorbell_disabled : (chan (gone (.doorbell 9 false 1) run) 9).lastCode = 2 := by decide +kernel
/-- Table 15-2: the reset state serves no register write before the block-reset end. -/
theorem test_reset_waits : exec (.ack false 1) State.reset = .next State.reset := rfl
/-- A word spells no command: the table gives no bits. -/
theorem test_no_table_word : decodeTableWord 32 0 = none := rfl
end Sys2Proof.Tests
end

section
/-! The sideband: what samples a register, what its bytes send, and what the MMIO accesses of the Zoetrope page leave alone. -/

namespace Sys2Proof.Proofs

open Sys2Proof Sys2Proof.Machine Sys2Proof.Laws

/-! ### The gate of an MMIO access -/

theorem mmioW_of_served {s : State} {off : Nat} {ns sec : Bool} (h : Served s off ns sec) (f : State → State) :
    mmioW s off ns sec f = emit (f s) (.mmio 0 0) := by
  obtain ⟨ready, page, world⟩ := h
  have hpage : (s.aon.fc.st == .safe && !safePage off) = false := by
    cases hst : s.aon.fc.st == FcSt.safe
    · rfl
    · simp [page (by simpa using hst)]
  have hworld : (ns && sec) = false := by
    cases ns
    · rfl
    · exact world rfl
  simp [mmioW, ready, hpage, hworld]

/-! ### What leaves the sideband's registers alone -/

@[simp] theorem takeSeq_aon_sb (s : State) (i : Nat) : (takeSeq s i).aon.sb = s.aon.sb := rfl

@[simp] theorem ztQueue_aon_sb (s : State) (e : ZtEnt) (b : Bool) : (ztQueue s e b).aon.sb = s.aon.sb := by
  simp only [ztQueue]
  split <;> rfl

@[simp] theorem raise_aon_sb (s : State) (source a b island : Nat) : (raise s source a b island).aon.sb = s.aon.sb := by
  unfold raise
  split <;> simp

@[simp] theorem notice_aon_sb (s : State) (path op source addr chip : Nat) :
    (notice s path op source addr chip).aon.sb = s.aon.sb := by
  simp [notice]

/-- A read with an effect of its own keeps the sideband's registers when its effect does. -/
theorem mmioR_aon_sb {s : State} {f : State → State × W32} (h : (f s).1.aon.sb = s.aon.sb) (off : Nat) (ns sec : Bool) :
    (mmioR s off ns sec f).aon.sb = s.aon.sb := by
  unfold mmioR
  split
  · rfl
  · split
    · simp
    · split
      · simp
      · simpa using h

/-! ### Reads of a Zoetrope entry -/

/-- BAD says whether the word was uncorrectable, and a free value may be taken; nothing else changes (R349). -/
theorem ztTake_state (s : State) (i k : Nat) (e : Ecc) : ∃ n,
    (ztTake s i k e).1 = { s with
      aon := { s.aon with zt := { s.aon.zt with bad := decide (e = .uncorrectable) } }, fresh := n } := by
  cases e
  · exact ⟨s.fresh, rfl⟩
  · exact ⟨s.fresh, rfl⟩
  · exact ⟨s.fresh + 1, rfl⟩

theorem ztTake_word (s : State) (i k : Nat) {e : Ecc} (h : e ≠ .uncorrectable) : (ztTake s i k e).2 = ztWord s i k := by
  cases e
  · rfl
  · rfl
  · exact absurd rfl h

theorem ztWordRead_aon_sb (k : Nat) (e : Ecc) (s : State) : (ztWordRead k e s).1.aon.sb = s.aon.sb := by
  obtain ⟨n, ht⟩ := ztTake_state s s.aon.zt.idx.toNat k e
  unfold ztWordRead
  split <;> simp [ht]

/-! ### A byte of the sideband (R365, R366) -/

/-- What one byte leaves and sends, once the register is sampled: the byte at the place of the counter. -/
def sbSend (s : State) : State :=
  let x := s.aon.sb
  emit (setSb s (if x.byte = 3 then { x with byte := 0, off := x.off + 4 } else { x with byte := x.byte + 1 }))
    (.sb (BitVec.ofNat 8 (x.word.toNat / 2 ^ (8 * x.byte))))

/-- The byte sent is cut to its 8 bits by its type. -/
theorem ofNat_fld_byte {w : Nat} (x : BitVec w) (lo : Nat) : BitVec.ofNat 8 (fld x lo 8) = BitVec.ofNat 8 (x.toNat / 2 ^ lo) := by
  apply BitVec.eq_of_toNat_eq
  simp [fld, Nat.shiftRight_eq_div_pow]

/-- The first byte samples the selected register. -/
theorem sbByte_first {s : State} (h : s.aon.sb.byte = 0) (e : Ecc) : sbByte s e = sbSend (sbSample s e) := by
  simp [sbByte, sbSend, h, ofNat_fld_byte]

/-- The later bytes come from the sampled word. -/
theorem sbByte_later {s : State} (h : s.aon.sb.byte ≠ 0) (e : Ecc) : sbByte s e = sbSend s := by
  simp [sbByte, sbSend, h, ofNat_fld_byte]

theorem sbSend_byte {s : State} (h : s.aon.sb.byte ≠ 3) : (sbSend s).aon.sb.byte = s.aon.sb.byte + 1 := by
  simp [sbSend, h]

/-- The four bytes of one register: it is sampled once, and the offset advances behind them. -/
theorem iter_sbByte_four {s t : State} {e : Ecc} (h : s.aon.sb.byte = 0) (hs : sbSample s e = t) (ht : t.aon.sb.byte = 0) :
    iter (fun s => sbByte s e) 4 s = { t with
      aon := { t.aon with sb := { t.aon.sb with byte := 0, off := t.aon.sb.off + 4 } }
      out := t.out ++ (List.range 4).map fun j => .sb (BitVec.ofNat 8 (t.aon.sb.word.toNat / 2 ^ (8 * j))) } := by
  have h1 : (sbSend t).aon.sb.byte = 1 := by rw [sbSend_byte (by omega), ht]
  have h2 : (sbSend (sbSend t)).aon.sb.byte = 2 := by rw [sbSend_byte (by omega), h1]
  have h3 : (sbSend (sbSend (sbSend t))).aon.sb.byte = 3 := by rw [sbSend_byte (by omega), h2]
  calc iter (fun s => sbByte s e) 4 s
      = sbSend (sbSend (sbSend (sbSend t))) := by
        simp only [iter]
        rw [sbByte_first h, hs, sbByte_later (s := sbSend t) (by omega), sbByte_later (s := sbSend (sbSend t)) (by omega),
          sbByte_later (s := sbSend (sbSend (sbSend t))) (by omega)]
    _ = _ := by simp [sbSend, ht, emit, setSb, List.range_succ]

/-- The state in which MZ_ZT_WORDk of the entry SIDX is sampled: the word, BAD, and SIDX behind WORD7. -/
def sampledWord (s : State) (k : Nat) (e : Ecc) (w : W32) (n : Nat) : State := { s with
  aon := { s.aon with
    zt := { s.aon.zt with bad := decide (e = .uncorrectable) }
    sb := { s.aon.sb with word := w, sidx := if k = 7 then s.aon.sb.sidx + 1 else s.aon.sb.sidx } }
  fresh := n }

theorem sbWord7_eq {x : Sb} {k : Nat} (hsel : x.sel = true) (hzt : x.zt = true) (hoff : x.off.toNat = 0x010 + 4 * k) :
    sbWord7 x = decide (k = 7) := by
  have : x.off = 0x02C#12 ↔ k = 7 := by bv_omega
  simp [sbWord7, hsel, hzt, beq_eq_decide, this]

theorem sbSample_word {s : State} {k : Nat} (e : Ecc) (hsel : s.aon.sb.sel = true) (hzt : s.aon.sb.zt = true) (hk : k < 8)
    (hoff : s.aon.sb.off.toNat = 0x010 + 4 * k) :
    ∃ w n, (e ≠ .uncorrectable → w = ztWord s s.aon.sb.sidx.toNat k) ∧ sbSample s e = sampledWord s k e w n := by
  have hword : sbWordK s.aon.sb = true := by simp [sbWordK, hzt, hoff]; omega
  have hseven := sbWord7_eq hsel hzt hoff
  have hplace : (s.aon.sb.off.toNat - 0x010) / 4 = k := by omega
  obtain ⟨n, ht⟩ := ztTake_state s s.aon.sb.sidx.toNat k e
  refine ⟨(ztTake s s.aon.sb.sidx.toNat k e).2, n, fun he => ztTake_word s _ k he, ?_⟩
  simp [sbSample, hword, hseven, hplace, ht, setSb, sampledWord]


theorem sbSample_idx {s : State} (e : Ecc) (hzt : s.aon.sb.zt = true) (hoff : s.aon.sb.off = 0x00C) :
    sbSample s e = setSb s { s.aon.sb with word := s.aon.sb.sidx.setWidth 32 } := by
  have hword : BitVec.ofNat 32 s.aon.sb.sidx.toNat = s.aon.sb.sidx.setWidth 32 := by bv_omega
  simp [sbSample, sbWordK, hzt, hoff, ztRead, hword]

/-! ### The sideband's commands -/

theorem exec_sidebandRead_first {s : State} (e : Ecc) (hserved : sbServed s = true) (hsel : s.aon.sb.sel = true)
    (hbyte : s.aon.sb.byte = 0) : exec (.sidebandRead e) s = .next (sbSend (sbSample s e)) := by
  simp [exec, execSidebandRead, hserved, hsel, sbByte_first hbyte]

theorem exec_sidebandWord7Read_selected {s : State} (e : Ecc) (hserved : sbServed s = true) (hword : sbWord7 s.aon.sb = true)
    (hbyte : s.aon.sb.byte = 0) : exec (.sidebandWord7Read e) s = .next (iter (fun s => sbByte s e) 4 s) := by
  simp [exec, execSidebandWord7Read, hserved, hword, hbyte]

/-- The first byte of MZ_ZT_IDX is that of SIDX. -/
theorem exec_sidebandRead_idx {s : State} (e : Ecc) (hserved : sbServed s = true) (hsel : s.aon.sb.sel = true)
    (hzt : s.aon.sb.zt = true) (hbyte : s.aon.sb.byte = 0) (hoff : s.aon.sb.off = 0x00C) :
    exec (.sidebandRead e) s = .next (emit (setSb s { s.aon.sb with word := s.aon.sb.sidx.setWidth 32, byte := 1 })
      (.sb (s.aon.sb.sidx.setWidth 8))) := by
  have hsent : BitVec.ofNat 8 (s.aon.sb.sidx.setWidth 32).toNat = s.aon.sb.sidx.setWidth 8 := by bv_omega
  rw [exec_sidebandRead_first e hserved hsel hbyte, sbSample_idx e hzt hoff]
  simp only [sbSend, setSb_self, hbyte, Nat.mul_zero, Nat.pow_zero, Nat.div_one, hsent]
  rfl

/-- SIDX has 13 bits, all of them in the first two of the four data bytes. -/
theorem ofNat_leNat_four (d : Vector Byte 4) :
    BitVec.ofNat 13 (leNat d.toList) = BitVec.ofNat 13 (d[0].toNat + 2 ^ 8 * d[1].toNat) := by
  have hlist : d.toList = [d[0], d[1], d[2], d[3]] := by
    refine List.ext_getElem (by simp) fun i hi _ => ?_
    have : i < 4 := by simpa using hi
    interval_cases i <;> simp
  apply BitVec.eq_of_toNat_eq
  simp only [hlist, leNat, BitVec.toNat_ofNat]
  omega

theorem exec_sidebandIdxWrite_selected {s : State} (d : Vector Byte 4) (hserved : sbServed s = true) (hsel : s.aon.sb.sel = true)
    (hzt : s.aon.sb.zt = true) (hoff : s.aon.sb.off = 0x00C) :
    exec (.sidebandIdxWrite d) s = .next (emit (setSb s { s.aon.sb with
      sidx := BitVec.ofNat 13 (d[0].toNat + 2 ^ 8 * d[1].toNat) }) (.sbAck true)) := by
  simp [exec, execSidebandIdxWrite, hserved, hsel, hzt, hoff, ofNat_leNat_four]

/-! ### The Zoetrope page from the MMIO side -/

theorem exec_ztWord7Read_aon_sb (s : State) (ns : Bool) (e : Ecc) :
    ∃ t, exec (.ztWord7Read ns e) s = .next t ∧ t.aon.sb = s.aon.sb :=
  ⟨_, rfl, mmioR_aon_sb (ztWordRead_aon_sb 7 e s) _ _ _⟩

theorem exec_registerWrite_ztIdx {s : State} {ns : Bool} (v : W32) (h : Served s 0x300C ns true) :
    exec (.registerWrite 0x300C ns v) s = .next (emit (setZt s { s.aon.zt with idx := v.setWidth 13 }) (.mmio 0 0)) := by
  have hidx : BitVec.ofNat 13 (fld v 0 13) = v.setWidth 13 := by
    apply BitVec.eq_of_toNat_eq
    simp [fld]
  have hpage : regW 0x300C ns v s = zoetropeW 0x00C ns v s := rfl
  simp [exec, execRegisterWrite, h.ready, hpage, zoetropeW, mmioW_of_served h, hidx]

/-- Settles O58: a sideband read is a sample of the entry SIDX and the bytes of the sampled word (R365, R366), and the MMIO accesses
change IDX alone. -/
theorem sidebandHasItsOwnIndex : Obligations.SidebandHasItsOwnIndex := by
  unfold Obligations.SidebandHasItsOwnIndex
  refine ⟨?_, ?_, ?_, exec_ztWord7Read_aon_sb, ?_⟩
  · intro s k e hserved hsel hzt hbyte hoff
    obtain ⟨w, n, hw, hsample⟩ := sbSample_word e hsel hzt k.isLt hoff
    have hseven : k = 7 ↔ k.val = 7 := by omega
    constructor
    · refine ⟨w, _, exec_sidebandRead_first e hserved hsel hbyte, hw, ?_⟩
      simp [hsample, sampledWord, sbSend, hbyte, emit, setSb, hseven]
    · intro hk
      have hword : sbWord7 s.aon.sb = true := by simp [sbWord7_eq hsel hzt hoff, hk]
      refine ⟨w, _, exec_sidebandWord7Read_selected e hserved hword hbyte, by simpa [hk] using hw, ?_⟩
      rw [iter_sbByte_four hbyte hsample hbyte]
      simp [sampledWord, hseven]
  · intro s e hserved hsel hzt hbyte hoff
    exact exec_sidebandRead_idx e hserved hsel hzt hbyte hoff
  · intro s d hserved hsel hzt hoff
    exact exec_sidebandIdxWrite_selected d hserved hsel hzt hoff
  · intro s ns v h
    exact ⟨_, exec_registerWrite_ztIdx v h, rfl, rfl⟩

end Sys2Proof.Proofs
end

section
/-! The test access port: what an instruction loads, what the boundary cells capture, which pins follow them, and what O59 comes to. -/

namespace Sys2Proof.Proofs

open Sys2Proof Sys2Proof.Machine Sys2Proof.Laws

/-! ### Loading a test instruction (R367) -/

/-- The state in which a test instruction is loaded. -/
def tapLoaded (s : State) (op : Byte) : State :=
  { s with aon := { s.aon with tap := { s.aon.tap with ir := op, reset := false } } }

/-- The state in which Test-Logic-Reset has loaded IDCODE. -/
def tapReset (s : State) : State :=
  { s with aon := { s.aon with tap := { s.aon.tap with ir := 0x01, reset := true } } }

theorem exec_testLogicReset (s : State) : exec .testLogicReset s = .next (tapReset s) := rfl

/-! ### What the port leaves alone in the block -/

@[simp] theorem tapLoaded_boot (s : State) (op : Byte) : (tapLoaded s op).boot = s.boot := rfl
@[simp] theorem tapLoaded_pins (s : State) (op : Byte) : (tapLoaded s op).pins = s.pins := rfl
@[simp] theorem tapLoaded_links (s : State) (op : Byte) : (tapLoaded s op).links = s.links := rfl
@[simp] theorem tapLoaded_aon_fc (s : State) (op : Byte) : (tapLoaded s op).aon.fc = s.aon.fc := rfl
@[simp] theorem tapReset_boot (s : State) : (tapReset s).boot = s.boot := rfl
@[simp] theorem tapReset_links (s : State) : (tapReset s).links = s.links := rfl
@[simp] theorem tapReset_aon_fc (s : State) : (tapReset s).aon.fc = s.aon.fc := rfl
@[simp] theorem tapShift_boot (s : State) (d : BitVec 22) : (tapShift s d).boot = s.boot := rfl
@[simp] theorem tapShift_links (s : State) (d : BitVec 22) : (tapShift s d).links = s.links := rfl
@[simp] theorem tapShift_aon_fc (s : State) (d : BitVec 22) : (tapShift s d).aon.fc = s.aon.fc := rfl
@[simp] theorem tapBypass_boot (s : State) : (tapBypass s).boot = s.boot := rfl
@[simp] theorem tapBypass_links (s : State) : (tapBypass s).links = s.links := rfl
@[simp] theorem tapBypass_aon_fc (s : State) : (tapBypass s).aon.fc = s.aon.fc := rfl
@[simp] theorem tapReset_aon_tap_reset (s : State) : (tapReset s).aon.tap.reset = true := rfl

/-! ### The port's commands -/

theorem tapLoad_of_not_cold {s : State} (h : s.boot.phase ≠ .cold) (op : Byte) (f : State → State) :
    tapLoad s op f = f (tapLoaded s op) := by
  simp [tapLoad, tapLoaded, h]

theorem tapLoad_of_cold {s : State} (h : s.boot.phase = .cold) (op : Byte) (f : State → State) : tapLoad s op f = s := by
  simp [tapLoad, h]

theorem exec_bypass {op : Byte} (h : bypassOpcode op = true) (s : State) :
    exec (.bypass op) s = .next (tapLoad s op tapBypass) := by
  simp [exec, execBypass, h]

theorem exec_extest {s : State} (h : s.boot.phase ≠ .cold) (d : BitVec 22) :
    exec (.extest d) s = .next (tapShift (tapLoaded s 0x00) d) := by
  simp [exec, execExtest, tapLoad_of_not_cold h]

theorem exec_samplePreload {s : State} (h : s.boot.phase ≠ .cold) (d : BitVec 22) :
    exec (.samplePreload d) s = .next (tapShift (tapLoaded s 0x02) d) := by
  simp [exec, execSamplePreload, tapLoad_of_not_cold h]

theorem exec_highz {s : State} (h : s.boot.phase ≠ .cold) : exec .highz s = .next (tapBypass (tapLoaded s 0x04)) := by
  simp [exec, execHighz, tapLoad_of_not_cold h]

/-- A cold reset holds the port: no instruction is loaded and nothing is shifted. -/
theorem exec_tap_of_cold {s : State} {d : BitVec 22} {op : Byte} {c : Instr} (h : s.boot.phase = .cold)
    (hop : bypassOpcode op = true) (hc : c ∈ [Instr.idcode, .clamp, .highz, .extest d, .samplePreload d, .bypass op]) :
    exec c s = .next s := by
  simp only [List.mem_cons, List.not_mem_nil, or_false] at hc
  rcases hc with rfl | rfl | rfl | rfl | rfl | rfl
  · exact congrArg _ (tapLoad_of_cold h _ _)
  · exact congrArg _ (tapLoad_of_cold h _ _)
  · exact congrArg _ (tapLoad_of_cold h _ _)
  · exact congrArg _ (tapLoad_of_cold h _ _)
  · exact congrArg _ (tapLoad_of_cold h _ _)
  · rw [exec_bypass hop, tapLoad_of_cold h]

/-! ### The boundary cells (R368) -/

/-- The observing cells of the sideband pins that the port pulls low. -/
theorem pulledCells_getLsbD (scl sda : Bool) {i : Nat} (hi : i < 22) :
    (BitVec.ofNat 22 (flag scl 18 + flag sda 20)).getLsbD i = (decide (i = 18) && scl || decide (i = 20) && sda) := by
  revert scl sda
  interval_cases i <;> decide

theorem observedCells_getLsbD_prsntN (x : Byte) (b : Bool) {p : Nat} (hp : p < 8) :
    (BitVec.ofNat 22 (x.toNat + flag b 17)).getLsbD p = x.getLsbD p := by
  have hp22 : p < 22 := by omega
  cases b
  · simp [flag, hp22, BitVec.getLsbD_eq_getElem, hp]
  · rw [BitVec.getLsbD_ofNat, Nat.add_comm]
    simp only [flag, if_true, hp22, decide_true, Bool.true_and, Nat.testBit_two_pow_add_gt (show p < 17 by omega)]
    rfl

theorem observedCells_getLsbD_wakeN (x : Byte) (b : Bool) : (BitVec.ofNat 22 (x.toNat + flag b 17)).getLsbD 17 = b := by
  have hx : x.toNat.testBit 17 = false := Nat.testBit_lt_two_pow (by omega)
  cases b
  · simp [flag]
  · rw [BitVec.getLsbD_ofNat, Nat.add_comm]
    simp only [flag, if_true, Nat.testBit_two_pow_add_eq, hx]
    rfl

/-- A captured cell: the pin it observes, or a free value, which a sideband pin held low by the port makes 0. -/
theorem capture_getLsbD (s : State) {i : Nat} (hi : i < 22) : (capture s).getLsbD i =
    if i < 8 ∨ i = 17 then (BitVec.ofNat 22 (s.pins.prsntN.toNat + flag s.pins.wakeN 17)).getLsbD i
    else (Config.unstated s.fresh).getLsbD i && !(decide (i = 18) && sclPinLow s || decide (i = 20) && sdaPinLow s) := by
  have hmask : (0x0200FF : BitVec 22).getLsbD i = decide (i < 8 ∨ i = 17) := by
    interval_cases i <;> rfl
  simp only [capture, BitVec.getLsbD_or, BitVec.getLsbD_and, BitVec.getLsbD_not, BitVec.getLsbD_setWidth, pulledCells_getLsbD _ _ hi]
  simp only [hmask, hi]
  by_cases h : i < 8 ∨ i = 17 <;> simp [h]

theorem capture_prsntN (s : State) {p : Nat} (hp : p < 8) : (capture s).getLsbD p = s.pins.prsntN.getLsbD p := by
  rw [capture_getLsbD s (by omega), if_pos (.inl hp), observedCells_getLsbD_prsntN _ _ hp]

theorem capture_wakeN (s : State) : (capture s).getLsbD 17 = s.pins.wakeN := by
  rw [capture_getLsbD s (by omega), if_pos (.inr rfl), observedCells_getLsbD_wakeN]

theorem capture_scl (s : State) : (capture s).getLsbD 18 = ((Config.unstated s.fresh).getLsbD 18 && !sclPinLow s) := by
  rw [capture_getLsbD s (by omega), if_neg (by omega)]
  simp only [decide_true, Bool.true_and, Nat.reduceEqDiff, decide_false, Bool.false_and, Bool.or_false]

theorem capture_sda (s : State) : (capture s).getLsbD 20 = ((Config.unstated s.fresh).getLsbD 20 && !sdaPinLow s) := by
  rw [capture_getLsbD s (by omega), if_neg (by omega)]
  simp only [decide_true, Bool.true_and, Nat.reduceEqDiff, decide_false, Bool.false_and, Bool.false_or]

/-- Where the free values of the cells 18 and 20 are 0, the port's own hold on the sideband pins makes no difference. -/
theorem capture_congr {s t : State} (hpins : s.pins = t.pins) (hfresh : s.fresh = t.fresh)
    (hscl : (Config.unstated s.fresh).getLsbD 18 = false) (hsda : (Config.unstated s.fresh).getLsbD 20 = false) :
    capture s = capture t := by
  refine BitVec.eq_of_getLsbD_eq fun i hi => ?_
  rw [capture_getLsbD s hi, capture_getLsbD t hi, ← hpins, ← hfresh]
  by_cases h18 : i = 18
  · subst h18; simp only [hscl, Bool.false_and]
  · by_cases h20 : i = 20
    · subst h20; simp only [hsda, Bool.false_and]
    · simp [h18, h20]

/-! ### The pins under the port -/

theorem pins_extest (s : State) (d : BitVec 22) (p : Nat) :
    let t := tapShift (tapLoaded s 0x00) d
    faultPinLow t = !(d.getLsbD 16) ∧ perstPinLow t p = !(d.getLsbD (8 + p)) ∧ sclPinLow t = !(d.getLsbD 19)
      ∧ sdaPinLow t = !(d.getLsbD 21) := by
  simp [faultPinLow, perstPinLow, sclPinLow, sdaPinLow, tapHolds, tapLow, bitOf, tapShift, tapLoaded]

theorem pins_highz (s : State) (p : Nat) :
    let t := tapBypass (tapLoaded s 0x04)
    faultPinLow t = false ∧ perstPinLow t p = false ∧ sclPinLow t = false ∧ sdaPinLow t = false := by
  simp [faultPinLow, perstPinLow, sclPinLow, sdaPinLow, tapHolds, tapLow, tapBypass, tapLoaded]

/-- In Test-Logic-Reset the pins show what the block itself does. -/
theorem pins_of_reset {s t : State} (hboot : t.boot = s.boot) (hfc : t.aon.fc = s.aon.fc) (hlinks : t.links = s.links)
    (hreset : t.aon.tap.reset = true) (p : Nat) :
    faultPinLow t = faultPinLow { s with aon := { s.aon with tap := {} } }
      ∧ perstPinLow t p = decide ((link s p).st = .detect) := by
  constructor
  · simp [faultPinLow, tapHolds, faultN, anySevere, src, hboot, hfc, hreset]
  · rw [Bool.eq_iff_iff, decide_eq_true_iff]
    simp [perstPinLow, tapHolds, link, hlinks, hreset]

/-! ### The cells that a shift sends out -/

theorem tapShift_out (s : State) (d : BitVec 22) : (tapShift s d).out = s.out ++ [.tdo 22 ((capture s).setWidth 32)] := rfl

theorem cells_eq_of_tapShift {s t : State} {d : BitVec 22} {c : BitVec 32}
    (h : (.next (tapShift s d) : Host.Outcome State Fault Refusal) = .next t) (ht : t.out = s.out ++ [.tdo 22 c]) :
    c = (capture s).setWidth 32 := by
  cases h
  simpa [tapShift_out, eq_comm] using ht

/-- A state in which the port, once EXTEST is loaded, holds both sideband pins low: its control cells 19 and 21 are 0. -/
def cellsLow (n : Nat) : State := { fresh := n, aon := { tap := { bsr := 0 } } }

theorem sidebandPins_cellsLow_extest (n : Nat) :
    sclPinLow (tapLoaded (cellsLow n) 0x00) = true ∧ sdaPinLow (tapLoaded (cellsLow n) 0x00) = true := by
  simp [sclPinLow, sdaPinLow, tapHolds, tapLow, bitOf, tapLoaded, cellsLow]

theorem sidebandPins_samplePreload (s : State) :
    sclPinLow (tapLoaded s 0x02) = false ∧ sdaPinLow (tapLoaded s 0x02) = false := by
  simp [sclPinLow, sdaPinLow, tapHolds, tapLoaded]

/-- If both shifts send the same cells out, the two free bits are 0. -/
theorem unstated_of_same_cells {n : Nat} (h : capture (tapLoaded (cellsLow n) 0x00) = capture (tapLoaded (cellsLow n) 0x02)) :
    (Config.unstated n).getLsbD 18 = false ∧ (Config.unstated n).getLsbD 20 = false := by
  obtain ⟨hscl, hsda⟩ := sidebandPins_cellsLow_extest n
  obtain ⟨hscl', hsda'⟩ := sidebandPins_samplePreload (cellsLow n)
  have h18 := congrArg (BitVec.getLsbD · 18) h
  have h20 := congrArg (BitVec.getLsbD · 20) h
  simp only [capture_scl, hscl, hscl', Bool.not_true, Bool.and_false, Bool.not_false, Bool.and_true] at h18
  simp only [capture_sda, hsda, hsda', Bool.not_true, Bool.and_false, Bool.not_false, Bool.and_true] at h20
  exact ⟨h18.symm, h20.symm⟩

/-- The one-bit and the identification instructions, with the port's opcode held. -/
theorem exec_tap_short {s : State} (h : s.boot.phase ≠ .cold) (op : Byte) :
    exec .idcode s = .next (emit (tapLoaded s 0x01) (.tdo 32 0x14D5A74F))
      ∧ exec .clamp s = .next (emit (tapLoaded s 0x03) (.tdo 1 0)) ∧ exec .highz s = .next (emit (tapLoaded s 0x04) (.tdo 1 0))
      ∧ (bypassOpcode op = true → exec (.bypass op) s = .next (emit (tapLoaded s op) (.tdo 1 0))) := by
  refine ⟨?_, ?_, exec_highz h, fun hop => ?_⟩
  · simp [exec, execIdcode, tapLoad_of_not_cold h]
  · simp [exec, execClamp, tapLoad_of_not_cold h, tapBypass]
  · simp [exec_bypass hop, tapLoad_of_not_cold h, tapBypass]

/-- The pins follow the cells under EXTEST, are released under HIGHZ and are the block's own after Test-Logic-Reset. -/
theorem pins_follow_port {s : State} (h : s.boot.phase ≠ .cold) (d : BitVec 22) (p : Nat) :
    ∃ t, exec (.extest d) s = .next t ∧ faultPinLow t = !(d.getLsbD 16) ∧ perstPinLow t p = !(d.getLsbD (8 + p))
      ∧ sclPinLow t = !(d.getLsbD 19) ∧ sdaPinLow t = !(d.getLsbD 21)
      ∧ ∃ u, exec .highz t = .next u ∧ faultPinLow u = false ∧ perstPinLow u p = false ∧ sclPinLow u = false ∧ sdaPinLow u = false
      ∧ ∃ w, exec .testLogicReset u = .next w ∧ faultPinLow w = faultPinLow { s with aon := { s.aon with tap := {} } }
        ∧ perstPinLow w p = decide ((link s p).st = .detect) := by
  obtain ⟨hfault, hperst, hscl, hsda⟩ := pins_extest s d p
  have hphase : (tapShift (tapLoaded s 0x00) d).boot.phase ≠ .cold := by simpa using h
  obtain ⟨hfault', hperst', hscl', hsda'⟩ := pins_highz (tapShift (tapLoaded s 0x00) d) p
  refine ⟨_, exec_extest h d, hfault, hperst, hscl, hsda, _, exec_highz hphase, hfault', hperst', hscl', hsda', ?_⟩
  exact ⟨_, exec_testLogicReset _, pins_of_reset (by simp) (by simp) (by simp) (by simp) p⟩

/-- Where the two free bits are 0, EXTEST and SAMPLE/PRELOAD send the same cells out. -/
theorem same_cells_of_unstated {s : State} (h : s.boot.phase ≠ .cold) (d : BitVec 22)
    (hscl : (Config.unstated s.fresh).getLsbD 18 = false) (hsda : (Config.unstated s.fresh).getLsbD 20 = false) :
    ∃ c : BitVec 32,
      exec (.extest d) s
        = .next { s with aon := { s.aon with tap := ⟨0, d, false⟩ }, fresh := s.fresh + 1, out := s.out ++ [.tdo 22 c] }
      ∧ exec (.samplePreload d) s
        = .next { s with aon := { s.aon with tap := ⟨2, d, false⟩ }, fresh := s.fresh + 1, out := s.out ++ [.tdo 22 c] }
      ∧ (∀ p < 8, c.getLsbD p = s.pins.prsntN.getLsbD p) ∧ c.getLsbD 17 = s.pins.wakeN := by
  have hsame : capture (tapLoaded s 0x00) = capture (tapLoaded s 0x02) := capture_congr rfl rfl hscl hsda
  refine ⟨(capture (tapLoaded s 0x00)).setWidth 32, exec_extest h d, ?_, ?_, ?_⟩
  · rw [exec_samplePreload h, hsame]
    rfl
  · intro p hp
    rw [BitVec.getLsbD_setWidth, capture_prsntN _ hp]
    simp only [show p < 32 by omega, decide_true, Bool.true_and, tapLoaded_pins]
  · rw [BitVec.getLsbD_setWidth, capture_wakeN]
    rfl

/-- What O59 comes to, as its other parts all hold: EXTEST and SAMPLE/PRELOAD of one state are said to shift out the same cells. Only
under EXTEST may the port itself hold a sideband pin low, and the observing cell of a released pin is a free value, so the statement
holds exactly where the free values of the cells 18 and 20 are 0. -/
theorem testAccessPort_iff : Obligations.TestAccessPort ↔
    ∀ n, (Config.unstated n).getLsbD 18 = false ∧ (Config.unstated n).getLsbD 20 = false := by
  unfold Obligations.TestAccessPort
  constructor
  · intro ⟨_, _, hshift, _⟩ n
    have hphase : (cellsLow n).boot.phase ≠ .cold := BlkPhase.noConfusion
    obtain ⟨c, hextest, hpreload, -, -⟩ := hshift (cellsLow n) 0 hphase
    rw [exec_extest hphase] at hextest
    rw [exec_samplePreload hphase] at hpreload
    have hc : c = (capture (tapLoaded (cellsLow n) 0x00)).setWidth 32 := cells_eq_of_tapShift hextest rfl
    have hc' : c = (capture (tapLoaded (cellsLow n) 0x02)).setWidth 32 := cells_eq_of_tapShift hpreload rfl
    have hsame := congrArg (BitVec.setWidth 22) (hc.symm.trans hc')
    exact unstated_of_same_cells (by simpa using hsame)
  · intro hfree
    refine ⟨fun _ => rfl, fun s op h => exec_tap_short h op, ?_, ?_, ?_, ?_⟩
    · exact fun s d h => same_cells_of_unstated h d (hfree _).1 (hfree _).2
    · intro s c
      cases c <;> exact ⟨_, rfl, rfl, rfl⟩
    · exact fun s d op c h hop hc => exec_tap_of_cold h hop hc
    · exact fun s d p _ h => pins_follow_port h d p

end Sys2Proof.Proofs
end

section
/-! What every command leaves of the queue and of the image, whatever stage memory holds. -/

namespace Sys2Proof.Proofs

open Sys2Proof Sys2Proof.Machine Sys2Proof.Laws

/-- The queue is `q`, and the image is `i` or gone. -/
def Fronted (q : List Instr) (i : Option Image) (k : List Instr × Option Image × List Host.Cell) : Prop :=
  k.1 = q ∧ (k.2.1 = i ∨ k.2.1 = none)
variable {q : List Instr} {i : Option Image}
theorem fronted_foldl {α : Type} (g : State → α → State) (h : ∀ s a, Fronted q i (kept s) → Fronted q i (kept (g s a))) (l : List α) (s : State)
    (hs : Fronted q i (kept s)) : Fronted q i (kept (l.foldl g s)) := by
  induction l generalizing s with
  | nil => exact hs
  | cons a l ih => exact ih _ (h _ _ hs)

theorem mmioW_fronted (s : State) (off : Nat) (ns sec : Bool) (f : State → State) (hf : ∀ s, Fronted q i (kept s) → Fronted q i (kept (f s)))
    (h : Fronted q i (kept s)) : Fronted q i (kept (mmioW s off ns sec f)) := by
  unfold mmioW
  (repeat' split)
  · exact h
  · simpa using h
  · simpa using h
  · simpa using hf _ h
theorem serve_fronted (s : State) (p opc : Nat) (ecc : RxEcc) (act : State → Slot → List Slot → Nat → State × Packet)
    (hf : ∀ s a b c, Fronted q i (kept s) → Fronted q i (kept (act s a b c).1)) (h : Fronted q i (kept s)) :
    Fronted q i (kept (serve s p opc ecc act)) := by
  unfold serve
  split
  · exact h
  · extract_lets a off c s1 r
    have h1 : Fronted q i (kept s1) := by simpa [s1] using h
    have h2 : Fronted q i (kept r.1) := hf _ _ _ _ h1
    (repeat' split) <;> first | exact h | simpa using h | simpa using h1 | simpa using h2
theorem response_fronted (s : State) (p opc : Nat) (ecc : RxEcc) (act : State → Packet → Line → State)
    (hf : ∀ s a b, Fronted q i (kept s) → Fronted q i (kept (act s a b))) (h : Fronted q i (kept s)) :
    Fronted q i (kept (response s p opc ecc act)) := by
  unfold response
  split
  · exact h
  · extract_lets a s1
    have h1 : Fronted q i (kept s1) := by simpa [s1] using h
    (repeat' split) <;> try first | exact hf _ _ _ h1 | (simpa using h1)
    rename_i s2 _ _ _ _ _
    have h2 : Fronted q i (kept s2) := by dsimp only [s2]; (repeat' split) <;> simpa using h1
    simpa using h2
@[simp] theorem stageWriteEcc_fronted : ∀ s a1 a2 a3 a4 a5, Fronted q i (kept s) → Fronted q i (kept (stageWriteEcc s a1 a2 a3 a4 a5)) := by
  intro s a b e n c h
  unfold stageWriteEcc
  split
  · simpa using h
  · extract_lets
    rw [eccFound_kept, grantStage_kept]
    exact ⟨h.1, h.2⟩
@[simp] theorem stageWrite_fronted : ∀ s a1 a2 a3 a4, Fronted q i (kept s) → Fronted q i (kept (stageWrite s a1 a2 a3 a4)) := by intros; simp [stageWrite, *]
@[simp] theorem stageAdd_fronted : ∀ s a1 a2 a3 a4, Fronted q i (kept s) → Fronted q i (kept ((stageAdd s a1 a2 a3 a4).1)) := by intros; simp only [stageAdd]; (repeat' split) <;> simp_all
@[simp] theorem frecStore_fronted : ∀ s a1 a2 a3 a4, Fronted q i (kept s) → Fronted q i (kept (frecStore s a1 a2 a3 a4)) := by intros; simp only [frecStore]; (repeat' split) <;> simp_all
@[simp] theorem execFaultRecordWrite_fronted : ∀ a0 s, Fronted q i (kept s) → Fronted q i (kept (after (execFaultRecordWrite a0 s) s)) := by intros; simp only [execFaultRecordWrite]; (repeat' split) <;> simp_all
@[simp] theorem recordStore_fronted : ∀ s a1 a2 a3, Fronted q i (kept s) → Fronted q i (kept ((recordStore s a1 a2 a3).1)) := by intros; simp only [recordStore]; (repeat' split) <;> simp_all
@[simp] theorem complete_fronted : ∀ s a1 a2 a3 a4, Fronted q i (kept s) → Fronted q i (kept (complete s a1 a2 a3 a4)) := by intros; simp only [complete]; (repeat' split) <;> simp_all
@[simp] theorem completeRun_fronted : ∀ s a1 a2 a3 a4, Fronted q i (kept s) → Fronted q i (kept (completeRun s a1 a2 a3 a4)) := by intros; simp [completeRun, *]
@[simp] theorem execDescriptorComplete_fronted : ∀ a0 s, Fronted q i (kept s) → Fronted q i (kept (after (execDescriptorComplete a0 s) s)) := by intros; simp only [execDescriptorComplete]; (repeat' split) <;> simp_all
@[simp] theorem execCompletionRecordAck_fronted : ∀ a0 s, Fronted q i (kept s) → Fronted q i (kept (after (execCompletionRecordAck a0 s) s)) := by intros; simp only [execCompletionRecordAck]; (repeat' split) <;> simp_all
@[simp] theorem execCqHeadWrite_fronted : ∀ a0 a1 a2 s, Fronted q i (kept s) → Fronted q i (kept (after (execCqHeadWrite a0 a1 a2 s) s)) := by
  intros
  simp only [execCqHeadWrite, after_next]
  refine mmioW_fronted _ _ _ _ _ ?_ ‹_›
  intro s h; (repeat' split) <;> first | (apply complete_fronted; simpa using h) | simpa using h
@[simp] theorem performStage_fronted : ∀ s a1, Fronted q i (kept s) → Fronted q i (kept (performStage s a1)) := by intros; simp only [performStage]; (repeat' split) <;> simp_all
@[simp] theorem lineAck_fronted : ∀ s a1, Fronted q i (kept s) → Fronted q i (kept (lineAck s a1)) := by intros; simp only [lineAck]; (repeat' split) <;> simp_all
@[simp] theorem signalPerform_fronted : ∀ s a1, Fronted q i (kept s) → Fronted q i (kept ((signalPerform s a1).1)) := by intros; simp only [signalPerform]; (repeat' split) <;> simp_all
@[simp] theorem execSignalResponse_fronted : ∀ a0 a1 s, Fronted q i (kept s) → Fronted q i (kept (after (execSignalResponse a0 a1 s) s)) := by intros; simp only [execSignalResponse]; (repeat' split) <;> simp_all
@[simp] theorem execWriteAcknowledge_fronted : ∀ a0 s, Fronted q i (kept s) → Fronted q i (kept (after (execWriteAcknowledge a0 s) s)) := by intros; simp only [execWriteAcknowledge]; (repeat' split) <;> simp_all
@[simp] theorem inStage_fronted : ∀ s a1 a2 a3 a4 a5 a6, Fronted q i (kept s) → Fronted q i (kept ((inStage s a1 a2 a3 a4 a5 a6).1)) := by intros; simp only [inStage]; (repeat' split) <;> simp_all
theorem serveIn_fronted : ∀ s a1 t, serveIn s a1 = some t → Fronted q i (kept s) → Fronted q i (kept t) := by
  intro s r t e h
  unfold serveIn at e
  extract_lets ans at e
  (repeat' split at e) <;> first
    | (simp only [ans, reduceCtorEq, Option.some.injEq] at e; subst e; first | (simpa using h) | (rw [emit_kept]; exact inStage_fronted _ _ _ _ _ _ _ h))
    | cases e
@[simp] theorem drainFrom_fronted : ∀ n s, Fronted q i (kept s) → Fronted q i (kept (drainFrom n s)) := by
  intro n
  induction n with
  | zero => intro s h; exact h
  | succ n ih =>
    intro s h
    unfold drainFrom
    split
    · rw [kept_foldl _ (fun s a => by simp)]
      exact h
    · extract_lets _ t
      refine ih _ ?_
      have ht : Fronted q i (kept t) := h
      cases e : serveIn t _ with
      | none => exact ht
      | some r => exact serveIn_fronted _ _ _ e ht
@[simp] theorem drainIn_fronted : ∀ s, Fronted q i (kept s) → Fronted q i (kept (drainIn s)) := by
  intro s h
  unfold drainIn
  split
  · exact h
  · exact drainFrom_fronted _ _ h
@[simp] theorem idleStep_fronted : ∀ s, Fronted q i (kept s) → Fronted q i (kept (idleStep s)) := by intros; simp [idleStep, *]
@[simp] theorem acceptIn_fronted : ∀ s a1, Fronted q i (kept s) → Fronted q i (kept (acceptIn s a1)) := by
  intro s r h
  exact drainIn_fronted _ h
@[simp] theorem execStageInboundRequest_fronted : ∀ a0 a1 a2 s, Fronted q i (kept s) → Fronted q i (kept (after (execStageInboundRequest a0 a1 a2 s) s)) := by intros; simp only [execStageInboundRequest]; (repeat' split) <;> simp_all
@[simp] theorem execCoreInboundRequest_fronted : ∀ a0 a1 a2 s, Fronted q i (kept s) → Fronted q i (kept (after (execCoreInboundRequest a0 a1 a2 s) s)) := by intros; simp only [execCoreInboundRequest]; (repeat' split) <;> simp_all
@[simp] theorem execSaltMigrationDone_fronted : ∀ a0 a1 s, Fronted q i (kept s) → Fronted q i (kept (after (execSaltMigrationDone a0 a1 s) s)) := by intros; simp only [execSaltMigrationDone]; (repeat' split) <;> simp_all
@[simp] theorem execCoreReadyChange_fronted : ∀ a0 a1 s, Fronted q i (kept s) → Fronted q i (kept (after (execCoreReadyChange a0 a1 s) s)) := by
  intro n l s h
  unfold execCoreReadyChange
  extract_lets s1 ls
  split
  · exact drainIn_fronted _ h
  · exact fronted_foldl _ (fun s l h => by simpa using h) _ _ h
@[simp] theorem serveAdd_fronted : ∀ a0 a1 s a3 a4 a5, Fronted q i (kept s) → Fronted q i (kept ((serveAdd a0 a1 s a3 a4 a5).1)) := by intros; simp only [serveAdd]; (repeat' split) <;> simp_all
@[simp] theorem execWrreq_fronted : ∀ a0 a1 s, Fronted q i (kept s) → Fronted q i (kept (after (execWrreq a0 a1 s) s)) := by
  intro p e s h
  unfold execWrreq
  rw [after_next]
  refine serve_fronted _ _ _ _ _ ?_ h
  intro s a b o h
  simp only []
  apply stageWrite_fronted
  exact h
@[simp] theorem execWrpart_fronted : ∀ a0 a1 s, Fronted q i (kept s) → Fronted q i (kept (after (execWrpart a0 a1 s) s)) := by
  intro p e s h
  unfold execWrpart
  rw [after_next]
  refine serve_fronted _ _ _ _ _ ?_ h
  intro s a b o h
  simp only []
  apply stageWrite_fronted
  exact h
@[simp] theorem execAdd32_fronted : ∀ a0 a1 a2 s, Fronted q i (kept s) → Fronted q i (kept (after (execAdd32 a0 a1 a2 s) s)) := by
  intro p e b s h
  exact serve_fronted _ _ _ _ _ (fun s x l o h => serveAdd_fronted _ _ _ _ _ _ h) h
@[simp] theorem execAdd64_fronted : ∀ a0 a1 a2 s, Fronted q i (kept s) → Fronted q i (kept (after (execAdd64 a0 a1 a2 s) s)) := by
  intro p e b s h
  exact serve_fronted _ _ _ _ _ (fun s x l o h => serveAdd_fronted _ _ _ _ _ _ h) h
@[simp] theorem remoteAck_fronted : ∀ s a1, Fronted q i (kept s) → Fronted q i (kept (remoteAck s a1)) := by intros; simp only [remoteAck]; (repeat' split) <;> simp_all
@[simp] theorem execWrack_fronted : ∀ a0 a1 s, Fronted q i (kept s) → Fronted q i (kept (after (execWrack a0 a1 s) s)) := by
  intro p e s h
  unfold execWrack
  rw [after_next]
  exact response_fronted _ _ _ _ _ (fun s a l h => remoteAck_fronted s l h) h
@[simp] theorem execAddrsp_fronted : ∀ a0 a1 s, Fronted q i (kept s) → Fronted q i (kept (after (execAddrsp a0 a1 s) s)) := by
  intro p e s h
  unfold execAddrsp
  rw [after_next]
  exact response_fronted _ _ _ _ _ (fun s a l h => remoteAck_fronted s l h) h
@[simp] theorem areaStore_fronted : ∀ s a1 a2 a3, Fronted q i (kept s) → Fronted q i (kept (areaStore s a1 a2 a3)) := by
  intro s a b e h
  unfold areaStore
  refine fronted_foldl _ ?_ _ _ h
  intro s a hs
  (repeat' split) <;> simp_all
@[simp] theorem endDesc_fronted : ∀ s a1 a2 a3, Fronted q i (kept s) → Fronted q i (kept (endDesc s a1 a2 a3)) := by intros; simp only [endDesc]; (repeat' split) <;> simp_all
@[simp] theorem ctxEnd_fronted : ∀ s a1 a2 a3, Fronted q i (kept s) → Fronted q i (kept (ctxEnd s a1 a2 a3)) := by
  intro s a b e h
  unfold ctxEnd
  rw [ctxRun_kept]
  exact fronted_foldl _ (fun s a hs => endDesc_fronted _ _ _ _ hs) _ _ h
@[simp] theorem killEnd_fronted : ∀ s a1, Fronted q i (kept s) → Fronted q i (kept (killEnd s a1)) := by intros; simp [killEnd, *]
@[simp] theorem switchOut_fronted : ∀ s a1, Fronted q i (kept s) → Fronted q i (kept (switchOut s a1)) := by intros; simp [switchOut, *]
@[simp] theorem execContextOut_fronted : ∀ a0 s, Fronted q i (kept s) → Fronted q i (kept (after (execContextOut a0 s) s)) := by intros; simp only [execContextOut]; (repeat' split) <;> simp_all
@[simp] theorem execContextRestored_fronted : ∀ a0 a1 s, Fronted q i (kept s) → Fronted q i (kept (after (execContextRestored a0 a1 s) s)) := by intros; simp only [execContextRestored]; (repeat' split) <;> simp_all
@[simp] theorem doAbort_fronted : ∀ s a1, Fronted q i (kept s) → Fronted q i (kept (doAbort s a1)) := by intros; simp [doAbort, *]
@[simp] theorem doKill_fronted : ∀ s a1, Fronted q i (kept s) → Fronted q i (kept (doKill s a1)) := by intros; simp only [doKill]; (repeat' split) <;> simp_all
@[simp] theorem ctxCtrl_fronted : ∀ a0 a1 s, Fronted q i (kept s) → Fronted q i (kept (ctxCtrl a0 a1 s)) := by
  intro x v s h
  unfold ctxCtrl
  extract_lets st b s1 s2
  split
  · exact doKill_fronted _ _ h
  · rw [kept_iter _ (fun s => by simp)]
    have h1 : Fronted q i (kept s1) := by simp only [s1]; split <;> simpa using h
    simp only [s2]
    (repeat' split)
    · exact doAbort_fronted _ _ h1
    · simpa using h1
    · exact h1
@[simp] theorem ctxCtrlW_fronted : ∀ a0 a1 a2 s, Fronted q i (kept s) → Fronted q i (kept (ctxCtrlW a0 a1 a2 s)) := by
  intro x ns v s h
  exact mmioW_fronted _ _ _ _ _ (fun s h => ctxCtrl_fronted _ _ _ h) h
@[simp] theorem execSuspend_fronted : ∀ a0 a1 a2 s, Fronted q i (kept s) → Fronted q i (kept (after (execSuspend a0 a1 a2 s) s)) := by intros; simp [execSuspend, *]
@[simp] theorem execResume_fronted : ∀ a0 a1 a2 s, Fronted q i (kept s) → Fronted q i (kept (after (execResume a0 a1 a2 s) s)) := by intros; simp [execResume, *]
@[simp] theorem execAbort_fronted : ∀ a0 a1 a2 s, Fronted q i (kept s) → Fronted q i (kept (after (execAbort a0 a1 a2 s) s)) := by intros; simp [execAbort, *]
@[simp] theorem execKill_fronted : ∀ a0 a1 a2 s, Fronted q i (kept s) → Fronted q i (kept (after (execKill a0 a1 a2 s) s)) := by intros; simp [execKill, *]
@[simp] theorem blockWipe_fronted : ∀ s, Fronted q i (kept s) → Fronted q i (kept (blockWipe s)) := by
  intro s h
  refine ⟨h.1, Or.inr rfl⟩
@[simp] theorem beginReset_fronted : ∀ s a1, Fronted q i (kept s) → Fronted q i (kept (beginReset s a1)) := by intros; simp only [beginReset]; (repeat' split) <;> simp_all
@[simp] theorem safeEnter_fronted : ∀ s, Fronted q i (kept s) → Fronted q i (kept (safeEnter s)) := by
  intro s h
  unfold safeEnter
  simp only [setFc_kept]
  refine fronted_foldl _ (fun s a hs => by simpa using hs) _ _ ?_
  have h2 : Fronted q i (kept ((tkeys ((tkeys (inboundError s).links).foldl (fun s p => linkTo s p .off) (inboundError s)).chans).foldl chanLoss
      ((tkeys (inboundError s).links).foldl (fun s p => linkTo s p .off) (inboundError s)))) := by simpa using h
  exact h2
@[simp] theorem severe_fronted : ∀ s a1, Fronted q i (kept s) → Fronted q i (kept (severe s a1)) := by intros; simp only [severe]; (repeat' split) <;> simp_all
@[simp] theorem collect_fronted : ∀ s a1, Fronted q i (kept s) → Fronted q i (kept (collect s a1)) := by intros; simp [collect, *]
@[simp] theorem execFaultEvent_fronted : ∀ a0 s, Fronted q i (kept s) → Fronted q i (kept (after (execFaultEvent a0 s) s)) := by
  intro l s h
  unfold execFaultEvent
  (repeat' split)
  · exact h
  · exact h
  · exact collect_fronted _ _ h
@[simp] theorem execCollectorParityError_fronted : ∀ a0 s, Fronted q i (kept s) → Fronted q i (kept (after (execCollectorParityError a0 s) s)) := by intros; simp only [execCollectorParityError]; (repeat' split) <;> simp_all
@[simp] theorem execEscalationExpire_fronted : ∀ s, Fronted q i (kept s) → Fronted q i (kept (after (execEscalationExpire s) s)) := by intros; simp only [execEscalationExpire]; (repeat' split) <;> simp_all
@[simp] theorem fcExit_fronted : ∀ s a1, Fronted q i (kept s) → Fronted q i (kept (fcExit s a1)) := by intros; simp [fcExit, *]
@[simp] theorem execAutomaticExit_fronted : ∀ s, Fronted q i (kept s) → Fronted q i (kept (after (execAutomaticExit s) s)) := by intros; simp only [execAutomaticExit]; (repeat' split) <;> simp_all
@[simp] theorem fcCtrl_fronted : ∀ a0 s, Fronted q i (kept s) → Fronted q i (kept (fcCtrl a0 s)) := by intros; simp only [fcCtrl]; (repeat' split) <;> simp_all
@[simp] theorem fcCtrlW_fronted : ∀ a0 a1 s, Fronted q i (kept s) → Fronted q i (kept (fcCtrlW a0 a1 s)) := by
  intro ns v s h
  exact mmioW_fronted _ _ _ _ _ (fun s h => fcCtrl_fronted _ _ h) h
@[simp] theorem execAck_fronted : ∀ a0 a1 s, Fronted q i (kept s) → Fronted q i (kept (after (execAck a0 a1 s) s)) := by intros; simp [execAck, *]
@[simp] theorem execExit_fronted : ∀ a0 a1 s, Fronted q i (kept s) → Fronted q i (kept (after (execExit a0 a1 s) s)) := by intros; simp [execExit, *]
@[simp] theorem execClrall_fronted : ∀ a0 a1 s, Fronted q i (kept s) → Fronted q i (kept (after (execClrall a0 a1 s) s)) := by intros; simp [execClrall, *]
@[simp] theorem execBlkrst_fronted : ∀ a0 a1 s, Fronted q i (kept s) → Fronted q i (kept (after (execBlkrst a0 a1 s) s)) := by
  intros
  simp only [execBlkrst, after_next]
  refine mmioW_fronted _ _ _ _ _ ?_ ‹_›
  intro s h; split
  · apply beginReset_fronted; simpa using h
  · exact h
@[simp] theorem park_fronted : ∀ s, Fronted q i (kept s) → Fronted q i (kept (park s)) := by intros; simp only [park]; (repeat' split) <;> simp_all
@[simp] theorem bootW_fronted : ∀ a0 a1 s, Fronted q i (kept s) → Fronted q i (kept (bootW a0 a1 s)) := by
  intro ns v s h
  unfold bootW
  extract_lets s1
  refine mmioW_fronted _ _ _ _ _ ?_ ?_
  · intro s h
    (repeat' split)
    · exact park_fronted _ h
    · simpa using h
    · exact h
  · simp only [s1]; split <;> simpa using h
@[simp] theorem execFwload_fronted : ∀ a0 a1 s, Fronted q i (kept s) → Fronted q i (kept (after (execFwload a0 a1 s) s)) := by intros; simp [execFwload, *]
@[simp] theorem execPark_fronted : ∀ a0 a1 s, Fronted q i (kept s) → Fronted q i (kept (after (execPark a0 a1 s) s)) := by intros; simp [execPark, *]
@[simp] theorem coldWipe_fronted : ∀ s, Fronted q i (kept s) → Fronted q i (kept (coldWipe s)) := by
  intro s h
  refine ⟨h.1, Or.inr rfl⟩
@[simp] theorem execColdReset_fronted : ∀ a0 s, Fronted q i (kept s) → Fronted q i (kept (after (execColdReset a0 s) s)) := by
  intro c s h
  unfold execColdReset
  cases c <;> exact ⟨h.1, Or.inr rfl⟩
@[simp] theorem resettingEnd_fronted : ∀ s, Fronted q i (kept s) → Fronted q i (kept (resettingEnd s)) := by intros; simp only [resettingEnd]; (repeat' split) <;> simp_all
@[simp] theorem execBlockResetDone_fronted : ∀ a0 a1 s, Fronted q i (kept s) → Fronted q i (kept (after (execBlockResetDone a0 a1 s) s)) := by
  intro k m s h
  unfold execBlockResetDone
  split
  · exact h
  · extract_lets b fc s1 z s2 boot s3 s4
    have h3 : Fronted q i (kept s3) := h
    have h4 : Fronted q i (kept s4) := resettingEnd_fronted _ h3
    split
    · exact h3
    · rw [after_next]
      split
      · exact h4
      · rw [bootRom_kept]
        exact h4
@[simp] theorem globalW_fronted : ∀ a0 a1 a2 s, Fronted q i (kept s) → Fronted q i (kept (globalW a0 a1 a2 s)) := by
  intro a ns v s h
  unfold globalW
  split
  · rw [mmioW_kept _ _ _ _ _ (by simp)]; exact h
  split
  · rw [mmioW_kept _ _ _ _ _ (by simp)]; exact h
  split
  · rw [trigW_kept _ _ _ _ _ _ _ (by simp)]; exact h
  split
  · exact bootW_fronted _ _ _ h
  split
  · exact mmioW_fronted _ _ _ _ _ (fun s h => h) h
  · simpa using h
@[simp] theorem collectorW_fronted : ∀ a0 a1 a2 s, Fronted q i (kept s) → Fronted q i (kept (collectorW a0 a1 a2 s)) := by intros; simp only [collectorW]; (repeat' split) <;> simp_all
@[simp] theorem channelW_fronted : ∀ a0 a1 a2 s, Fronted q i (kept s) → Fronted q i (kept (channelW a0 a1 a2 s)) := by intros; simp only [channelW]; (repeat' split) <;> simp_all
@[simp] theorem contextW_fronted : ∀ a0 a1 a2 s, Fronted q i (kept s) → Fronted q i (kept (contextW a0 a1 a2 s)) := by intros; simp only [contextW]; (repeat' split) <;> simp_all
@[simp] theorem regW_fronted : ∀ a0 a1 a2 s, Fronted q i (kept s) → Fronted q i (kept (regW a0 a1 a2 s)) := by intros; simp only [regW]; (repeat' split) <;> simp_all
@[simp] theorem execRegisterWrite_fronted : ∀ a0 a1 a2 s, Fronted q i (kept s) → Fronted q i (kept (after (execRegisterWrite a0 a1 a2 s) s)) := by intros; simp only [execRegisterWrite]; (repeat' split) <;> simp_all
@[simp] theorem mmioBeatW_fronted : ∀ a0 a1 s, Fronted q i (kept s) → Fronted q i (kept (mmioBeatW a0 a1 s)) := by
  intro r off s h
  unfold mmioBeatW
  extract_lets k a a' b
  have ha : Fronted q i (kept a) := regW_fronted _ _ _ _ h
  split
  · exact ha
  · have ha' : Fronted q i (kept a') := by rw [unanswered_kept]; exact ha
    have hb : Fronted q i (kept b) := by rw [unanswered_kept]; exact regW_fronted _ _ _ _ ha'
    rw [emit_kept]
    exact hb
@[simp] theorem execMmioBadRequest_fronted : ∀ a0 s, Fronted q i (kept s) → Fronted q i (kept (after (execMmioBadRequest a0 s) s)) := by intros; simp only [execMmioBadRequest]; (repeat' split) <;> simp_all

/-! ### Every command and every step -/

/-- A command's effect keeps every table canonical. -/
theorem exec_canon (c : Instr) (s : State) (h : Canon s) : Canon (after (exec c s) s) := by
  cases c <;> simp [exec, h]

/-- A command other than IMAGE_LOCK leaves the queue behind it, and the image or none. -/
theorem exec_fronted (c : Instr) (s : State) (hc : ∀ b, c ≠ .imageLock b) : Fronted s.pending s.img (kept (after (exec c s) s)) := by
  have h : Fronted s.pending s.img (kept s) := ⟨rfl, .inl rfl⟩
  cases c with
  | imageLock b => exact absurd rfl (hc b)
  | _ => simp [exec, h]

/-- Every command leaves the queue behind it. -/
theorem exec_pending (c : Instr) (s : State) : (after (exec c s) s).pending = s.pending := by
  by_cases h : ∃ b, c = .imageLock b
  · obtain ⟨b, rfl⟩ := h
    exact (execImageLock_keeps b s).1
  · exact (exec_fronted c s fun b e => h ⟨b, e⟩).1

theorem after_of_next {o : Host.Outcome State Fault Refusal} {s t : State} (h : o = .next t) : after o s = t := by rw [h, after_next]

/-- Settles O1: a step is the front command's meaning in the state without it. -/
theorem stepRunsTheFrontCommand : Obligations.StepRunsTheFrontCommand := fun _ _ _ => rfl

/-- Settles O7: no command puts anything into the queue or takes anything out. -/
theorem stepTakesOneCommand : Obligations.StepTakesOneCommand := by
  intro c q s t h
  rw [stepRunsTheFrontCommand] at h
  rw [← after_of_next (s := { s with pending := q }) h, exec_pending]

/-- Settles O8: every table of the reset state is empty. -/
theorem resetTablesAreCanonical : Obligations.ResetTablesAreCanonical := by
  constructor <;> rfl

/-- Settles O9: each command's meaning keeps the tables canonical, and so does an idle step. -/
theorem stepKeepsTablesCanonical : Obligations.StepKeepsTablesCanonical := by
  intro s t hs h
  unfold step at h
  split at h
  · next c rest _ =>
    have hrest : Canon { s with pending := rest } := { hs with }
    rw [← after_of_next (s := { s with pending := rest }) h]
    exact exec_canon c _ hrest
  · cases h
    exact idleStep_canon s hs

/-- Settles O10: only the lock of an image sets one; a reset alone clears it. -/
theorem onlyImageLockSetsTheImage : Obligations.OnlyImageLockSetsTheImage := by
  intro c s t hc h
  rw [← after_of_next (s := s) h]
  exact (exec_fronted c s hc).2

end Sys2Proof.Proofs
end

section
/-! What the always-on island's own operations leave unchanged, and what an event, a refusal and a world notice do to it. -/

namespace Sys2Proof.Proofs

open Sys2Proof Sys2Proof.Machine Sys2Proof.Laws

/-- From `s` to `t` nothing has changed but the always-on island and the counter of free values. -/
def OnlyAon (s t : State) : Prop := t = { s with aon := t.aon, fresh := t.fresh }

theorem OnlyAon.refl (s : State) : OnlyAon s s := rfl

theorem OnlyAon.trans {s t u : State} (h : OnlyAon s t) (k : OnlyAon t u) : OnlyAon s u := by
  unfold OnlyAon at *
  rw [k, h]

theorem onlyAon_setZt (s : State) (x : Zt) : OnlyAon s (setZt s x) := rfl
theorem onlyAon_setFc (s : State) (x : Fc) : OnlyAon s (setFc s x) := rfl
theorem onlyAon_bump (s : State) : OnlyAon s (bump s) := rfl
theorem onlyAon_takeSeq (s : State) (i : Nat) : OnlyAon s (takeSeq s i) := rfl

theorem onlyAon_ztQueue (s : State) (e : ZtEnt) (w : Bool) : OnlyAon s (ztQueue s e w) := by
  unfold ztQueue
  extract_lets
  split <;> rfl

theorem onlyAon_ztWrite (s : State) (e : ZtEnt) : OnlyAon s (ztWrite s e) := by
  unfold ztWrite
  extract_lets
  split <;> rfl

theorem onlyAon_raise (s : State) (source a b island : Nat) : OnlyAon s (raise s source a b island) := by
  unfold raise
  refine .trans (.trans ?_ (onlyAon_bump _)) (onlyAon_setFc _ _)
  split
  · exact .refl s
  · exact (onlyAon_takeSeq s island).trans (onlyAon_ztQueue _ _ _)

theorem onlyAon_notice (s : State) (path op source addr chip : Nat) : OnlyAon s (notice s path op source addr chip) :=
  OnlyAon.trans (t := { s with aon := _ }) rfl (onlyAon_raise _ _ _ _ _)

theorem onlyAon_zlog (s : State) (island code a b : Nat) : OnlyAon s (zlog s island code a b) :=
  (onlyAon_takeSeq s island).trans (onlyAon_ztQueue _ _ _)

theorem onlyAon_aonLog (s : State) (code a b : Nat) : OnlyAon s (aonLog s code a b) :=
  (onlyAon_takeSeq s 0x40).trans (onlyAon_ztWrite _ _)

theorem onlyAon_foldl {α : Type} {g : State → α → State} (h : ∀ s a, OnlyAon s (g s a)) (l : List α) (s : State) :
    OnlyAon s (l.foldl g s) := by
  induction l generalizing s with
  | nil => exact .refl s
  | cons a l ih => exact (h s a).trans (ih _)

theorem onlyAon_ztTakeN (s : State) (n : Nat) : OnlyAon s (ztTakeN s n) :=
  (onlyAon_setZt s _).trans (onlyAon_foldl onlyAon_ztWrite _ _)

/-! ### The fields that such an operation leaves -/

theorem OnlyAon.pending {s t : State} (h : OnlyAon s t) : t.pending = s.pending := by rw [h]
theorem OnlyAon.boot {s t : State} (h : OnlyAon s t) : t.boot = s.boot := by rw [h]
theorem OnlyAon.img {s t : State} (h : OnlyAon s t) : t.img = s.img := by rw [h]
theorem OnlyAon.pins {s t : State} (h : OnlyAon s t) : t.pins = s.pins := by rw [h]
theorem OnlyAon.chans {s t : State} (h : OnlyAon s t) : t.chans = s.chans := by rw [h]
theorem OnlyAon.ctxs {s t : State} (h : OnlyAon s t) : t.ctxs = s.ctxs := by rw [h]
theorem OnlyAon.path {s t : State} (h : OnlyAon s t) : t.path = s.path := by rw [h]
theorem OnlyAon.stage {s t : State} (h : OnlyAon s t) : t.stage = s.stage := by rw [h]
theorem OnlyAon.hub {s t : State} (h : OnlyAon s t) : t.hub = s.hub := by rw [h]
theorem OnlyAon.xl {s t : State} (h : OnlyAon s t) : t.xl = s.xl := by rw [h]
theorem OnlyAon.ports {s t : State} (h : OnlyAon s t) : t.ports = s.ports := by rw [h]
theorem OnlyAon.links {s t : State} (h : OnlyAon s t) : t.links = s.links := by rw [h]
theorem OnlyAon.clk {s t : State} (h : OnlyAon s t) : t.clk = s.clk := by rw [h]
theorem OnlyAon.out {s t : State} (h : OnlyAon s t) : t.out = s.out := by rw [h]
theorem OnlyAon.order {s t : State} (h : OnlyAon s t) : t.order = s.order := by rw [h]

@[simp] theorem raise_pending (s : State) (source a b island : Nat) : (raise s source a b island).pending = s.pending := (onlyAon_raise _ _ _ _ _).pending
@[simp] theorem raise_boot (s : State) (source a b island : Nat) : (raise s source a b island).boot = s.boot := (onlyAon_raise _ _ _ _ _).boot
@[simp] theorem raise_img (s : State) (source a b island : Nat) : (raise s source a b island).img = s.img := (onlyAon_raise _ _ _ _ _).img
@[simp] theorem raise_pins (s : State) (source a b island : Nat) : (raise s source a b island).pins = s.pins := (onlyAon_raise _ _ _ _ _).pins
@[simp] theorem raise_chans (s : State) (source a b island : Nat) : (raise s source a b island).chans = s.chans := (onlyAon_raise _ _ _ _ _).chans
@[simp] theorem raise_ctxs (s : State) (source a b island : Nat) : (raise s source a b island).ctxs = s.ctxs := (onlyAon_raise _ _ _ _ _).ctxs
@[simp] theorem raise_path (s : State) (source a b island : Nat) : (raise s source a b island).path = s.path := (onlyAon_raise _ _ _ _ _).path
@[simp] theorem raise_stage (s : State) (source a b island : Nat) : (raise s source a b island).stage = s.stage := (onlyAon_raise _ _ _ _ _).stage
@[simp] theorem raise_hub (s : State) (source a b island : Nat) : (raise s source a b island).hub = s.hub := (onlyAon_raise _ _ _ _ _).hub
@[simp] theorem raise_xl (s : State) (source a b island : Nat) : (raise s source a b island).xl = s.xl := (onlyAon_raise _ _ _ _ _).xl
@[simp] theorem raise_ports (s : State) (source a b island : Nat) : (raise s source a b island).ports = s.ports := (onlyAon_raise _ _ _ _ _).ports
@[simp] theorem raise_links (s : State) (source a b island : Nat) : (raise s source a b island).links = s.links := (onlyAon_raise _ _ _ _ _).links
@[simp] theorem raise_clk (s : State) (source a b island : Nat) : (raise s source a b island).clk = s.clk := (onlyAon_raise _ _ _ _ _).clk
@[simp] theorem raise_out (s : State) (source a b island : Nat) : (raise s source a b island).out = s.out := (onlyAon_raise _ _ _ _ _).out
@[simp] theorem raise_order (s : State) (source a b island : Nat) : (raise s source a b island).order = s.order := (onlyAon_raise _ _ _ _ _).order

@[simp] theorem notice_pending (s : State) (path op source addr chip : Nat) : (notice s path op source addr chip).pending = s.pending := (onlyAon_notice _ _ _ _ _ _).pending
@[simp] theorem notice_boot (s : State) (path op source addr chip : Nat) : (notice s path op source addr chip).boot = s.boot := (onlyAon_notice _ _ _ _ _ _).boot
@[simp] theorem notice_img (s : State) (path op source addr chip : Nat) : (notice s path op source addr chip).img = s.img := (onlyAon_notice _ _ _ _ _ _).img
@[simp] theorem notice_pins (s : State) (path op source addr chip : Nat) : (notice s path op source addr chip).pins = s.pins := (onlyAon_notice _ _ _ _ _ _).pins
@[simp] theorem notice_chans (s : State) (path op source addr chip : Nat) : (notice s path op source addr chip).chans = s.chans := (onlyAon_notice _ _ _ _ _ _).chans
@[simp] theorem notice_ctxs (s : State) (path op source addr chip : Nat) : (notice s path op source addr chip).ctxs = s.ctxs := (onlyAon_notice _ _ _ _ _ _).ctxs
@[simp] theorem notice_path (s : State) (path op source addr chip : Nat) : (notice s path op source addr chip).path = s.path := (onlyAon_notice _ _ _ _ _ _).path
@[simp] theorem notice_stage (s : State) (path op source addr chip : Nat) : (notice s path op source addr chip).stage = s.stage := (onlyAon_notice _ _ _ _ _ _).stage
@[simp] theorem notice_hub (s : State) (path op source addr chip : Nat) : (notice s path op source addr chip).hub = s.hub := (onlyAon_notice _ _ _ _ _ _).hub
@[simp] theorem notice_xl (s : State) (path op source addr chip : Nat) : (notice s path op source addr chip).xl = s.xl := (onlyAon_notice _ _ _ _ _ _).xl
@[simp] theorem notice_ports (s : State) (path op source addr chip : Nat) : (notice s path op source addr chip).ports = s.ports := (onlyAon_notice _ _ _ _ _ _).ports
@[simp] theorem notice_links (s : State) (path op source addr chip : Nat) : (notice s path op source addr chip).links = s.links := (onlyAon_notice _ _ _ _ _ _).links
@[simp] theorem notice_clk (s : State) (path op source addr chip : Nat) : (notice s path op source addr chip).clk = s.clk := (onlyAon_notice _ _ _ _ _ _).clk
@[simp] theorem notice_out (s : State) (path op source addr chip : Nat) : (notice s path op source addr chip).out = s.out := (onlyAon_notice _ _ _ _ _ _).out
@[simp] theorem notice_order (s : State) (path op source addr chip : Nat) : (notice s path op source addr chip).order = s.order := (onlyAon_notice _ _ _ _ _ _).order

@[simp] theorem zlog_pending (s : State) (island code a b : Nat) : (zlog s island code a b).pending = s.pending := (onlyAon_zlog _ _ _ _ _).pending
@[simp] theorem zlog_boot (s : State) (island code a b : Nat) : (zlog s island code a b).boot = s.boot := (onlyAon_zlog _ _ _ _ _).boot
@[simp] theorem zlog_img (s : State) (island code a b : Nat) : (zlog s island code a b).img = s.img := (onlyAon_zlog _ _ _ _ _).img
@[simp] theorem zlog_pins (s : State) (island code a b : Nat) : (zlog s island code a b).pins = s.pins := (onlyAon_zlog _ _ _ _ _).pins
@[simp] theorem zlog_chans (s : State) (island code a b : Nat) : (zlog s island code a b).chans = s.chans := (onlyAon_zlog _ _ _ _ _).chans
@[simp] theorem zlog_ctxs (s : State) (island code a b : Nat) : (zlog s island code a b).ctxs = s.ctxs := (onlyAon_zlog _ _ _ _ _).ctxs
@[simp] theorem zlog_path (s : State) (island code a b : Nat) : (zlog s island code a b).path = s.path := (onlyAon_zlog _ _ _ _ _).path
@[simp] theorem zlog_stage (s : State) (island code a b : Nat) : (zlog s island code a b).stage = s.stage := (onlyAon_zlog _ _ _ _ _).stage
@[simp] theorem zlog_hub (s : State) (island code a b : Nat) : (zlog s island code a b).hub = s.hub := (onlyAon_zlog _ _ _ _ _).hub
@[simp] theorem zlog_xl (s : State) (island code a b : Nat) : (zlog s island code a b).xl = s.xl := (onlyAon_zlog _ _ _ _ _).xl
@[simp] theorem zlog_ports (s : State) (island code a b : Nat) : (zlog s island code a b).ports = s.ports := (onlyAon_zlog _ _ _ _ _).ports
@[simp] theorem zlog_links (s : State) (island code a b : Nat) : (zlog s island code a b).links = s.links := (onlyAon_zlog _ _ _ _ _).links
@[simp] theorem zlog_clk (s : State) (island code a b : Nat) : (zlog s island code a b).clk = s.clk := (onlyAon_zlog _ _ _ _ _).clk
@[simp] theorem zlog_out (s : State) (island code a b : Nat) : (zlog s island code a b).out = s.out := (onlyAon_zlog _ _ _ _ _).out
@[simp] theorem zlog_order (s : State) (island code a b : Nat) : (zlog s island code a b).order = s.order := (onlyAon_zlog _ _ _ _ _).order

@[simp] theorem aonLog_pending (s : State) (code a b : Nat) : (aonLog s code a b).pending = s.pending := (onlyAon_aonLog _ _ _ _).pending
@[simp] theorem aonLog_boot (s : State) (code a b : Nat) : (aonLog s code a b).boot = s.boot := (onlyAon_aonLog _ _ _ _).boot
@[simp] theorem aonLog_img (s : State) (code a b : Nat) : (aonLog s code a b).img = s.img := (onlyAon_aonLog _ _ _ _).img
@[simp] theorem aonLog_pins (s : State) (code a b : Nat) : (aonLog s code a b).pins = s.pins := (onlyAon_aonLog _ _ _ _).pins
@[simp] theorem aonLog_chans (s : State) (code a b : Nat) : (aonLog s code a b).chans = s.chans := (onlyAon_aonLog _ _ _ _).chans
@[simp] theorem aonLog_ctxs (s : State) (code a b : Nat) : (aonLog s code a b).ctxs = s.ctxs := (onlyAon_aonLog _ _ _ _).ctxs
@[simp] theorem aonLog_path (s : State) (code a b : Nat) : (aonLog s code a b).path = s.path := (onlyAon_aonLog _ _ _ _).path
@[simp] theorem aonLog_stage (s : State) (code a b : Nat) : (aonLog s code a b).stage = s.stage := (onlyAon_aonLog _ _ _ _).stage
@[simp] theorem aonLog_hub (s : State) (code a b : Nat) : (aonLog s code a b).hub = s.hub := (onlyAon_aonLog _ _ _ _).hub
@[simp] theorem aonLog_xl (s : State) (code a b : Nat) : (aonLog s code a b).xl = s.xl := (onlyAon_aonLog _ _ _ _).xl
@[simp] theorem aonLog_ports (s : State) (code a b : Nat) : (aonLog s code a b).ports = s.ports := (onlyAon_aonLog _ _ _ _).ports
@[simp] theorem aonLog_links (s : State) (code a b : Nat) : (aonLog s code a b).links = s.links := (onlyAon_aonLog _ _ _ _).links
@[simp] theorem aonLog_clk (s : State) (code a b : Nat) : (aonLog s code a b).clk = s.clk := (onlyAon_aonLog _ _ _ _).clk
@[simp] theorem aonLog_out (s : State) (code a b : Nat) : (aonLog s code a b).out = s.out := (onlyAon_aonLog _ _ _ _).out
@[simp] theorem aonLog_order (s : State) (code a b : Nat) : (aonLog s code a b).order = s.order := (onlyAon_aonLog _ _ _ _).order

@[simp] theorem ztTakeN_pending (s : State) (n : Nat) : (ztTakeN s n).pending = s.pending := (onlyAon_ztTakeN _ _).pending
@[simp] theorem ztTakeN_boot (s : State) (n : Nat) : (ztTakeN s n).boot = s.boot := (onlyAon_ztTakeN _ _).boot
@[simp] theorem ztTakeN_img (s : State) (n : Nat) : (ztTakeN s n).img = s.img := (onlyAon_ztTakeN _ _).img
@[simp] theorem ztTakeN_pins (s : State) (n : Nat) : (ztTakeN s n).pins = s.pins := (onlyAon_ztTakeN _ _).pins
@[simp] theorem ztTakeN_chans (s : State) (n : Nat) : (ztTakeN s n).chans = s.chans := (onlyAon_ztTakeN _ _).chans
@[simp] theorem ztTakeN_ctxs (s : State) (n : Nat) : (ztTakeN s n).ctxs = s.ctxs := (onlyAon_ztTakeN _ _).ctxs
@[simp] theorem ztTakeN_path (s : State) (n : Nat) : (ztTakeN s n).path = s.path := (onlyAon_ztTakeN _ _).path
@[simp] theorem ztTakeN_stage (s : State) (n : Nat) : (ztTakeN s n).stage = s.stage := (onlyAon_ztTakeN _ _).stage
@[simp] theorem ztTakeN_hub (s : State) (n : Nat) : (ztTakeN s n).hub = s.hub := (onlyAon_ztTakeN _ _).hub
@[simp] theorem ztTakeN_xl (s : State) (n : Nat) : (ztTakeN s n).xl = s.xl := (onlyAon_ztTakeN _ _).xl
@[simp] theorem ztTakeN_ports (s : State) (n : Nat) : (ztTakeN s n).ports = s.ports := (onlyAon_ztTakeN _ _).ports
@[simp] theorem ztTakeN_links (s : State) (n : Nat) : (ztTakeN s n).links = s.links := (onlyAon_ztTakeN _ _).links
@[simp] theorem ztTakeN_clk (s : State) (n : Nat) : (ztTakeN s n).clk = s.clk := (onlyAon_ztTakeN _ _).clk
@[simp] theorem ztTakeN_out (s : State) (n : Nat) : (ztTakeN s n).out = s.out := (onlyAon_ztTakeN _ _).out
@[simp] theorem ztTakeN_order (s : State) (n : Nat) : (ztTakeN s n).order = s.order := (onlyAon_ztTakeN _ _).order

@[simp] theorem refuse_eq_raise (s : State) (a b island : Nat) : refuse s a b island = raise s 0x04 a b island := rfl

/-! ### An event on its way (R305) -/

/-- The event that `raise` puts into the crossing. -/
def raisedEv (s : State) (source a b island : Nat) : EvQ :=
  ⟨⟨Fin.ofNat 256 source, BitVec.ofNat 64 a, BitVec.ofNat 32 b, Fin.ofNat 65 island⟩, islSeq s island, cycleOf s island, s.aon.fc.blkcnt⟩

@[simp] theorem ztQueue_aon_fc (s : State) (e : ZtEnt) (w : Bool) : (ztQueue s e w).aon.fc = s.aon.fc := by
  unfold ztQueue
  extract_lets
  split <;> rfl

@[simp] theorem ztQueue_aon_wn (s : State) (e : ZtEnt) (w : Bool) : (ztQueue s e w).aon.wn = s.aon.wn := by
  unfold ztQueue
  extract_lets
  split <;> rfl

@[simp] theorem ztQueue_aon_tap (s : State) (e : ZtEnt) (w : Bool) : (ztQueue s e w).aon.tap = s.aon.tap := by
  unfold ztQueue
  extract_lets
  split <;> rfl

@[simp] theorem takeSeq_aon_fc (s : State) (i : Nat) : (takeSeq s i).aon.fc = s.aon.fc := rfl
@[simp] theorem takeSeq_aon_wn (s : State) (i : Nat) : (takeSeq s i).aon.wn = s.aon.wn := rfl
@[simp] theorem takeSeq_aon_tap (s : State) (i : Nat) : (takeSeq s i).aon.tap = s.aon.tap := rfl

@[simp] theorem raise_aon_fc (s : State) (source a b island : Nat) :
    (raise s source a b island).aon.fc = { s.aon.fc with evq := s.aon.fc.evq ++ [raisedEv s source a b island] } := by
  by_cases h : island = 0x40 <;> simp [raise, h, raisedEv]

@[simp] theorem raise_aon_wn (s : State) (source a b island : Nat) : (raise s source a b island).aon.wn = s.aon.wn := by
  by_cases h : island = 0x40 <;> simp [raise, h]

@[simp] theorem raise_aon_tap (s : State) (source a b island : Nat) : (raise s source a b island).aon.tap = s.aon.tap := by
  by_cases h : island = 0x40 <;> simp [raise, h]

@[simp] theorem zlog_aon_fc (s : State) (island code a b : Nat) : (zlog s island code a b).aon.fc = s.aon.fc := by simp [zlog]
@[simp] theorem zlog_aon_wn (s : State) (island code a b : Nat) : (zlog s island code a b).aon.wn = s.aon.wn := by simp [zlog]

/-- A raised event waits in the crossing, behind those that were there. -/
theorem crosses_raise (s : State) (source a b island : Nat) : Crosses s (raise s source a b island) source a b island :=
  ⟨raisedEv s source a b island, by simp, rfl⟩

/-- Of the state before it, `Crosses` says what the crossing held. -/
theorem crosses_congr {s s' t t' : State} {source a b island : Nat} (h : Crosses s t source a b island)
    (hs : s'.aon.fc.evq = s.aon.fc.evq) (ht : t'.aon.fc.evq = t.aon.fc.evq) : Crosses s' t' source a b island := by
  obtain ⟨q, hq, hev⟩ := h
  exact ⟨q, by rw [ht, hs, hq], hev⟩

/-- The same where the event follows changes elsewhere. -/
theorem crosses_raise_of {s u : State} (h : u.aon.fc.evq = s.aon.fc.evq) (source a b island : Nat) :
    Crosses s (raise u source a b island) source a b island :=
  crosses_congr (crosses_raise u source a b island) h.symm rfl

/-! ### A world notice (R322, R326) -/

/-- What the notice page holds after a notice. -/
def noticed (s : State) (path op source addr chip : Nat) : Wn :=
  if s.aon.wn.valid && !(s.aon.wn.at_ == s.aon.fc.acyc && decide (path < s.aon.wn.path)) then
    { s.aon.wn with count := satAdd 16 s.aon.wn.count 1 }
  else { valid := true, path := path, op := op, src := source, count := satAdd 16 s.aon.wn.count 1,
         addr := BitVec.ofNat 52 addr, chip := chip, at_ := s.aon.fc.acyc }

theorem notice_eq_raise (s : State) (path op source addr chip : Nat) : notice s path op source addr chip
    = raise { s with aon := { s.aon with wn := noticed s path op source addr chip } } 0x05 addr
      (2 ^ 31 + 2 ^ 28 * path + 2 ^ 25 * op + 2 ^ 16 * source + (noticed s path op source addr chip).count)
      (if path = 0 then mmioIsland else if path = 5 then 0x3A else 0x2C) := rfl

@[simp] theorem notice_aon_wn (s : State) (path op source addr chip : Nat) :
    (notice s path op source addr chip).aon.wn = noticed s path op source addr chip := by
  rw [notice_eq_raise, raise_aon_wn]

theorem noticed_count (s : State) (path op source addr chip : Nat) :
    (noticed s path op source addr chip).count = min (s.aon.wn.count + 1) 65535 := by
  unfold noticed
  split <;> rfl

theorem noticed_valid (s : State) (path op source addr chip : Nat) : (noticed s path op source addr chip).valid = true := by
  unfold noticed
  split
  · next h => exact (Bool.and_eq_true_iff.mp h).1
  · rfl

/-- The first notice since the page was cleared is kept. -/
theorem noticed_first {s : State} (h : s.aon.wn.valid = false) (path op source addr chip : Nat) :
    noticed s path op source addr chip =
      { valid := true, path := path, op := op, src := source, count := satAdd 16 s.aon.wn.count 1, addr := BitVec.ofNat 52 addr,
        chip := chip, at_ := s.aon.fc.acyc } := by
  simp [noticed, h]

end Sys2Proof.Proofs
end

section
/-! The gate of the register writes (R322, R335, R357). -/

namespace Sys2Proof.Proofs
open Sys2Proof Sys2Proof.Machine Sys2Proof.Laws

/-- A command that is the register write `w` passes the gate of R322 with it. -/
def PassesGate (s : State) (c : Instr) : Option (Nat × Bool × Bool) → Prop
  | none => True
  | some (off, ns, sec) => ∃ off' f, exec c s = .next (mmioW s off' ns sec f) ∧ off' = off

theorem fld_or_go (v : W32) : fld (v ||| 0x8000) 0 6 = fld v 0 6 := by
  apply Nat.eq_of_testBit_eq
  intro i
  have hgo : (0x8000 : W32).toNat = 2 ^ 15 := rfl
  simp only [fld, Nat.shiftRight_zero, Nat.testBit_mod_two_pow, BitVec.toNat_or, Nat.testBit_or, hgo, Nat.testBit_two_pow]
  grind

theorem bitOf_or_go (v : W32) : bitOf (v ||| 0x8000) 8 = bitOf v 8 := by
  simp [bitOf]

theorem reinitW_gate (s : State) (ns : Bool) (v : W32) :
    ∃ f, reinitW ns v s = mmioW s 0x2010 ns (!reNs s (bitOf v 8) (fld v 0 6)) f := by
  simp only [reinitW]
  exact ⟨_, rfl⟩

theorem regWrite_gate (s : State) (c : Instr) : PassesGate s c (regWrite s c) := by
  unfold regWrite
  split
  case h_57 ns v =>
    obtain ⟨f, hf⟩ := reinitW_gate s ns (v ||| 0x8000)
    rw [fld_or_go, bitOf_or_go] at hf
    exact ⟨_, f, congrArg Host.Outcome.next hf, rfl⟩
  case h_64 => trivial
  all_goals refine ⟨_, _, rfl, ?_⟩
  all_goals grind [xlOff, strOff, hqOff, kqOff, mdOff, bgOff, poolOff, syncOff, mbOff, lkOff, islOff, ctxOff]
  
theorem exec_regWrite {s : State} {c : Instr} {off : Nat} {ns sec : Bool} (h : regWrite s c = some (off, ns, sec)) :
    ∃ f, exec c s = .next (mmioW s off ns sec f) := by
  have hgate := regWrite_gate s c
  rw [h] at hgate
  obtain ⟨_, f, he, rfl⟩ := hgate
  exact ⟨f, he⟩

/-! ### The outcomes of the gate -/

theorem mmioW_waits {s : State} (h : mmioReady s = false) (off : Nat) (ns sec : Bool) (f : State → State) :
    mmioW s off ns sec f = s := by
  simp [mmioW, h]

theorem mmioW_unserved {s : State} {off : Nat} (h : mmioReady s = true) (hst : s.aon.fc.st = .safe) (hpage : safePage off = false)
    (ns sec : Bool) (f : State → State) : mmioW s off ns sec f = emit s (.mmio 0 0) := by
  simp [mmioW, h, hst, hpage]

theorem mmioW_refused {s : State} {off : Nat} (h : mmioReady s = true) (hpage : s.aon.fc.st = .safe → safePage off = true)
    (f : State → State) : mmioW s off true true f = emit (notice s 0 1 0 off 0) (.mmio 0 0) := by
  have hgate : (s.aon.fc.st == .safe && !safePage off) = false := by
    by_cases hst : s.aon.fc.st = .safe <;> simp [hst, hpage]
  simp [mmioW, h, hgate]

/-- Settles O4: every register write meets the gate, which a low MZ_BLKRDY keeps closed. -/
theorem writesWaitUntilReady : Obligations.WritesWaitUntilReady := by
  intro s c off ns sec h hready
  obtain ⟨f, hf⟩ := exec_regWrite h
  rw [hf, mmioW_waits hready]

/-- Settles O5: outside the pages of the collector and of Zoetrope the gate answers alone. -/
theorem safeServesOnlyTheCollectorPages : Obligations.SafeServesOnlyTheCollectorPages := by
  intro s c off ns sec h hready hst hoff
  obtain ⟨f, hf⟩ := exec_regWrite h
  have hpage : safePage off = false := by
    simp only [safePage, Bool.and_eq_false_iff, decide_eq_false_iff_not]
    omega
  rw [hf, mmioW_unserved hready hst hpage]

/-- Settles O6: the gate raises the notice and answers OKAY. -/
theorem nonSecureWriteOfSecureRegister : Obligations.NonSecureWriteOfSecureRegister := by
  intro s c off h hready hpage
  obtain ⟨f, hf⟩ := exec_regWrite h
  have hserved : s.aon.fc.st = .safe → safePage off = true := by simpa [safePage] using hpage
  refine ⟨notice s 0 1 0 off 0, by rw [hf, mmioW_refused hready hserved], onlyAon_notice .., ?_, ?_, ?_, ?_⟩
  · rw [notice_aon_wn, noticed_valid]
  · rw [notice_aon_wn, noticed_count]
  · intro hfirst
    simp [noticed_first hfirst]
  · rw [notice_aon_wn]
    exact crosses_raise ..

end Sys2Proof.Proofs
end

section
/-! Which commands run, what an idle step does, and what reset leaves. -/

namespace Sys2Proof.Proofs

open Sys2Proof Sys2Proof.Machine Sys2Proof.Laws

/-! ### Stage memory and the record that a gate held (R191) -/

/-- Channel 0 has a completion record with first word 1 that the gate of the only pool has held, for the first bytes of stage memory. -/
def heldRecord : State :=
  { img := some { pools := [⟨0, 1, 1, false, false⟩] }, chans := [(0, { recOut := some ⟨0, false, false, some (0, 1, 0)⟩ })] }

/-- A write of a line in a pool of stage memory stores its enabled bytes. -/
theorem stageWriteEcc_mem {s : State} {off : Nat} (h : (poolOf s off).isNone = false) (d : LineData) (be : LineEn) (input : Nat) (ecc : Ecc) :
    (stageWriteEcc s off d be input ecc).stage.mem = memWrite s.stage.mem off d be 128 := by
  unfold stageWriteEcc
  rw [if_neg (by simp [h])]
  extract_lets whole part known fresh stage t
  have hkept : kept (eccFound (grantStage t off input) off (known.length + fresh.length) (ecc == .corrected && !part.isEmpty)) = kept t := by
    simp
  exact congrArg (fun k => k.2.2) hkept

/-- The held record goes to its bank as its answer comes. -/
theorem heldRecord_stored : memByte (after (exec (.completionRecordAck 0) heldRecord) heldRecord).stage.mem 0 = 1 := by
  have hexec : exec (.completionRecordAck 0) heldRecord
      = .next (recordAck (stageWriteEcc (bump heldRecord) 0 1 0xFFFF 0 (freeEcc heldRecord)) 0 false) := rfl
  have hack : (recordAck (stageWriteEcc (bump heldRecord) 0 1 0xFFFF 0 (freeEcc heldRecord)) 0 false).stage.mem
      = (stageWriteEcc (bump heldRecord) 0 1 0xFFFF 0 (freeEcc heldRecord)).stage.mem :=
    congrArg (fun k => k.2.2) (recordAck_kept _ _ _)
  have hbyte : memByte (memWrite heldRecord.stage.mem 0 1 0xFFFF 128) 0 = 1 :=
    (memByte_memWrite_same 0 1 0xFFFF 128 0 rfl (by decide) (by decide)).trans (by decide +kernel)
  have hmem := hack.trans (stageWriteEcc_mem rfl 1 0xFFFF 0 (freeEcc heldRecord))
  exact (congrArg (fun o => memByte (after o heldRecord).stage.mem 0) hexec).trans ((congrArg (memByte · 0) hmem).trans hbyte)

/-- Refutes O11: COMPLETION_RECORD_ACK stores a record that a gate held, once the gate is open, in stage memory. -/
theorem not_stageMemoryKeptByOtherCommands : ¬ Obligations.StageMemoryKeptByOtherCommands := by
  intro h
  have hkept := h (.completionRecordAck 0) heldRecord (after (exec (.completionRecordAck 0) heldRecord) heldRecord) rfl rfl
  have hstored := heldRecord_stored
  rw [hkept] at hstored
  exact absurd hstored (by decide)

/-! ### Reset -/

/-- Settles O60: the values are those of the reset records. -/
theorem resetLeavesTheTablesValues : Obligations.ResetLeavesTheTablesValues := by
  unfold Obligations.ResetLeavesTheTablesValues
  have hasid : ∀ x < 64, (ctx State.reset x).asid.toNat = x ∧ (ctx State.reset x).base = 64 * x := by
    intro x hx
    have h256 : x < 256 := by omega
    simp [ctx, State.reset, tget, ctxDflt, Nat.mod_eq_of_lt h256]
  have hisl : ∀ i < 0x24, (isl State.reset i).fmin = 1200 ∧ (isl State.reset i).fmax = 1800 := by
    intro i hi
    simp [isl, State.reset, tget, islDflt, hi]
  have hlow : ∀ i < 8, (isl State.reset (0x38 + i)).fmin = 800 ∧ (isl State.reset (0x38 + i)).fmax = 1200 := by decide
  refine ⟨rfl, rfl, rfl, rfl, rfl, rfl, fun c _ => ⟨rfl, rfl⟩, hasid, fun r _ => ⟨rfl, rfl⟩, fun q _ => ⟨rfl, rfl⟩,
    fun o _ => ⟨rfl, rfl, rfl⟩, fun m _ => rfl, fun p _ => ⟨rfl, rfl, rfl⟩, hisl, hlow, rfl, rfl, rfl, rfl, rfl, rfl, rfl, rfl, rfl, rfl, rfl,
    rfl, rfl, rfl, rfl, rfl, rfl, rfl, rfl, rfl, rfl, rfl, rfl, ?_⟩
  decide +kernel

/-! ### An idle step (log 10) -/

theorem step_idle {s : State} (h : s.pending = []) : step s = .next (idleStep s) := by
  simp [step, h]

theorem idleCycle_cold {s : State} (h : s.boot.phase = .cold) : idleCycle s = s := by
  simp [idleCycle, h]

theorem idleCycle_running {s : State} (h : s.boot.phase ≠ .cold) :
    idleCycle s = ztTakeN (setFc s { s.aon.fc with acyc := s.aon.fc.acyc + 1 }) 4 := by
  simp [idleCycle, h, ztDrain]

theorem onlyAon_idleCycle (s : State) : OnlyAon s (idleCycle s) := by
  by_cases h : s.boot.phase = .cold
  · rw [idleCycle_cold h]
    exact .refl s
  · rw [idleCycle_running h]
    exact (onlyAon_setFc s _).trans (onlyAon_ztTakeN _ _)

end Sys2Proof.Proofs
end

section
/-! What the steps of an inbound access leave alone: the boot registers, the image, the pins, the channels, the contexts, the sync hub, and
the collector but for the events that wait in the crossing. One lemma per state function, in the order of their definitions. -/

namespace Sys2Proof.Proofs

open Sys2Proof Sys2Proof.Machine Sys2Proof.Laws

/-- The collector without the events that wait in the crossing of R305. -/
def fcStill (f : Fc) : Fc := { f with evq := [] }

/-- What no line, request or packet changes. -/
def calm (s : State) : Boot × Option Image × Pins × Tbl Chan × Tbl Ctx × Hub × Fc := (s.boot, s.img, s.pins, s.chans, s.ctxs, s.hub, fcStill s.aon.fc)

theorem boot_of_calm {s t : State} (h : calm t = calm s) : t.boot = s.boot := congrArg (fun k => k.1) h
theorem img_of_calm {s t : State} (h : calm t = calm s) : t.img = s.img := congrArg (fun k => k.2.1) h
theorem pins_of_calm {s t : State} (h : calm t = calm s) : t.pins = s.pins := congrArg (fun k => k.2.2.1) h
theorem chans_of_calm {s t : State} (h : calm t = calm s) : t.chans = s.chans := congrArg (fun k => k.2.2.2.1) h
theorem ctxs_of_calm {s t : State} (h : calm t = calm s) : t.ctxs = s.ctxs := congrArg (fun k => k.2.2.2.2.1) h
theorem hub_of_calm {s t : State} (h : calm t = calm s) : t.hub = s.hub := congrArg (fun k => k.2.2.2.2.2.1) h
theorem fcStill_of_calm {s t : State} (h : calm t = calm s) : fcStill t.aon.fc = fcStill s.aon.fc := congrArg (fun k => k.2.2.2.2.2.2) h
theorem fcSt_of_calm {s t : State} (h : calm t = calm s) : t.aon.fc.st = s.aon.fc.st :=
  (congrArg Fc.st (fcStill_of_calm h) : (fcStill t.aon.fc).st = (fcStill s.aon.fc).st)

@[simp] theorem calm_ite (c : Prop) [Decidable c] (a b : State) : calm (if c then a else b) = if c then calm a else calm b := by split <;> rfl
@[simp] theorem calm_mk (pending boot img pins chans ctxs path stage hub xl ports links clk aon out fresh order) :
    calm ⟨pending, boot, img, pins, chans, ctxs, path, stage, hub, xl, ports, links, clk, aon, out, fresh, order⟩
      = (boot, img, pins, chans, ctxs, hub, fcStill aon.fc) := rfl
@[simp] theorem calm_eta (s : State) : (s.boot, s.img, s.pins, s.chans, s.ctxs, s.hub, fcStill s.aon.fc) = calm s := rfl
@[simp] theorem calm_foldl {α : Type} (g : State → α → State) (h : ∀ s a, calm (g s a) = calm s) (l : List α) (s : State) :
    calm (l.foldl g s) = calm s := by
  induction l generalizing s with
  | nil => rfl
  | cons a l ih => rw [List.foldl_cons, ih, h]
@[simp] theorem raise_calm : ∀ s a1 a2 a3 a4, calm (raise s a1 a2 a3 a4) = calm s := by intros; simp [calm, fcStill]
@[simp] theorem notice_calm : ∀ s a1 a2 a3 a4 a5, calm (notice s a1 a2 a3 a4 a5) = calm s := by
  intros
  rw [notice_eq_raise, raise_calm]
  rfl
@[simp] theorem setLink_calm : ∀ s a1 a2, calm (setLink s a1 a2) = calm s := by intros; simp [setLink]
@[simp] theorem setIsl_calm : ∀ s a1 a2, calm (setIsl s a1 a2) = calm s := by intros; simp [setIsl]
@[simp] theorem setBg_calm : ∀ s a1 a2, calm (setBg s a1 a2) = calm s := by intros; simp [setBg]
@[simp] theorem setCp_calm : ∀ s a1 a2, calm (setCp s a1 a2) = calm s := by intros; simp [setCp]
@[simp] theorem setLines_calm : ∀ s a1, calm (setLines s a1) = calm s := by intros; simp [setLines]
@[simp] theorem emit_calm : ∀ s a1, calm (emit s a1) = calm s := by intros; simp [emit]
@[simp] theorem bump_calm : ∀ s, calm (bump s) = calm s := by intros; simp [bump]
@[simp] theorem echoDrop_calm : ∀ s a1, calm (echoDrop s a1) = calm s := by intros; simp [echoDrop]
@[simp] theorem raiseReq_calm : ∀ s a1, calm (raiseReq s a1) = calm s := by intros; simp [raiseReq]
@[simp] theorem startWake_calm : ∀ s a1, calm (startWake s a1) = calm s := by intros; simp [startWake]
@[simp] theorem startWakes_calm : ∀ a0 s, calm (startWakes a0 s) = calm s := by
  intro n
  induction n with
  | zero => intros; simp only [startWakes]
  | succ n ih => intros; simp only [startWakes]; (repeat' split) <;> simp_all
@[simp] theorem need_calm : ∀ s a1, calm (need s a1) = calm s := by intros; simp only [need]; (repeat' split) <;> simp_all
@[simp] theorem sendFlit_calm : ∀ s a1 a2 a3 a4 a5, calm (sendFlit s a1 a2 a3 a4 a5) = calm s := by intros; simp only [sendFlit]; (repeat' split) <;> simp_all
@[simp] theorem pump_calm : ∀ a0 s a2, calm (pump a0 s a2) = calm s := by
  intro n
  induction n with
  | zero => intros; simp only [pump]
  | succ n ih => intros; simp only [pump]; (repeat' split) <;> simp_all
@[simp] theorem countDrop_calm : ∀ s a1, calm (countDrop s a1) = calm s := by intros; simp [countDrop]
@[simp] theorem routeEvent_calm : ∀ s a1 a2, calm (routeEvent s a1 a2) = calm s := by intros; simp [routeEvent]
@[simp] theorem absentDrop_calm : ∀ s a1, calm (absentDrop s a1) = calm s := by intros; simp [absentDrop]
@[simp] theorem enqueue_calm : ∀ s a1 a2 a3 a4, calm (enqueue s a1 a2 a3 a4) = calm s := by intros; simp [enqueue]
@[simp] theorem sendOrDrop_calm : ∀ s a1, calm (sendOrDrop s a1) = calm s := by intros; simp only [sendOrDrop]; (repeat' split) <;> simp_all
@[simp] theorem deliverOwn_calm : ∀ s a1 a2, calm (deliverOwn s a1 a2) = calm s := by intros; simp [deliverOwn]
@[simp] theorem dropPkt_calm : ∀ s a1 a2, calm (dropPkt s a1 a2) = calm s := by intros; simp [dropPkt]
@[simp] theorem sendPkt_calm : ∀ s a1, calm (sendPkt s a1) = calm s := by intros; simp only [sendPkt]; (repeat' split) <;> simp_all
@[simp] theorem addLine_calm : ∀ s a1, calm ((addLine s a1).1) = calm s := by intros; simp [addLine]
@[simp] theorem grantBank_calm : ∀ s a1 a2, calm (grantBank s a1 a2) = calm s := by intros; simp [grantBank]
@[simp] theorem grantStage_calm : ∀ s a1 a2, calm (grantStage s a1 a2) = calm s := by intros; simp only [grantStage]; (repeat' split) <;> simp_all
@[simp] theorem grantMem_calm : ∀ s a1 a2, calm (grantMem s a1 a2) = calm s := by intros; simp [grantMem]
@[simp] theorem grantCore_calm : ∀ s a1 a2, calm (grantCore s a1 a2) = calm s := by intros; simp [grantCore]
@[simp] theorem bgEcc_calm : ∀ s a1 a2 a3, calm (bgEcc s a1 a2 a3) = calm s := by intros; simp [bgEcc]
@[simp] theorem holeEvent_calm : ∀ s a1 a2, calm (holeEvent s a1 a2) = calm s := by intros; simp [holeEvent]
@[simp] theorem eccEvents_calm : ∀ s a1 a2 a3, calm (eccEvents s a1 a2 a3) = calm s := by intros; simp only [eccEvents]; (repeat' split) <;> simp_all
@[simp] theorem eccEvent_calm : ∀ s a1 a2, calm (eccEvent s a1 a2) = calm s := by intros; simp only [eccEvent]; (repeat' split) <;> simp_all
@[simp] theorem eccFound_calm : ∀ s a1 a2 a3, calm (eccFound s a1 a2 a3) = calm s := by intros; simp [eccFound]
@[simp] theorem stageRead_calm : ∀ s a1 a2 a3 a4, calm ((stageRead s a1 a2 a3 a4).1) = calm s := by intros; simp only [stageRead]; (repeat' split) <;> simp_all
@[simp] theorem addCheck_calm : ∀ s a1 a2, calm ((addCheck s a1 a2).1) = calm s := by intros; simp only [addCheck]; (repeat' split) <;> simp_all
@[simp] theorem toCoreAs_calm : ∀ s a1 a2 a3 a4 a5 a6, calm (toCoreAs s a1 a2 a3 a4 a5 a6) = calm s := by intros; simp [toCoreAs]
@[simp] theorem toCore_calm : ∀ s a1 a2 a3, calm (toCore s a1 a2 a3) = calm s := by intros; simp [toCore]
@[simp] theorem coreWrite_calm : ∀ s a1 a2 a3, calm (coreWrite s a1 a2 a3) = calm s := by intros; simp only [coreWrite]; (repeat' split) <;> simp_all
@[simp] theorem loseLine_calm : ∀ s a1, calm (loseLine s a1) = calm s := by intros; simp [loseLine]
@[simp] theorem sendLine_calm : ∀ s a1 a2 a3 a4, calm (sendLine s a1 a2 a3 a4) = calm s := by intros; simp only [sendLine]; (repeat' split) <;> simp_all
@[simp] theorem locNeed_calm : ∀ s a1, calm (locNeed s a1) = calm s := by intros; simp only [locNeed]; (repeat' split) <;> simp_all
@[simp] theorem inRelay_calm : ∀ s a1 a2 a3 a4, calm (inRelay s a1 a2 a3 a4) = calm s := by intros; simp [inRelay]
@[simp] theorem inNeeds_calm : ∀ s a1, calm (inNeeds s a1) = calm s := by intros; simp only [inNeeds]; (repeat' split) <;> simp_all
@[simp] theorem stageWriteEcc_calm : ∀ s a1 a2 a3 a4 a5, calm (stageWriteEcc s a1 a2 a3 a4 a5) = calm s := by
  intros
  simp only [stageWriteEcc]
  (repeat' split) <;> simp
@[simp] theorem stageAdd_calm : ∀ s a1 a2 a3 a4, calm (stageAdd s a1 a2 a3 a4).1 = calm s := by
  intros
  simp only [stageAdd]
  split <;> simp
@[simp] theorem inStage_calm : ∀ s a1 a2 a3 a4 a5 a6, calm (inStage s a1 a2 a3 a4 a5 a6).1 = calm s := by
  intros
  simp only [inStage]
  (repeat' split) <;> simp

theorem serveIn_calm {s t : State} {q : InReq} (h : serveIn s q = some t) : calm t = calm s := by
  unfold serveIn at h
  extract_lets ans at h
  have hans : ∀ a, ans a = some t → calm a.1 = calm s → calm t = calm s := by
    intro a ha hs
    simp only [ans, Option.some.injEq] at ha
    rw [← ha, emit_calm, hs]
  (repeat' split at h) <;> first
    | contradiction
    | exact hans _ h rfl
    | exact hans _ h (inStage_calm ..)
    | exact hans _ h (notice_calm ..)
    | (cases h; exact inRelay_calm ..)

@[simp] theorem drainFrom_calm : ∀ n s, calm (drainFrom n s) = calm s := by
  intro n
  induction n with
  | zero => intro s; rfl
  | succ n ih =>
    intro s
    unfold drainFrom
    split
    · exact calm_foldl _ (fun s q => inNeeds_calm s q) _ _
    · next q hq =>
      extract_lets ports t
      rw [ih]
      cases hserve : serveIn t q with
      | none => rfl
      | some r => exact (serveIn_calm hserve : calm r = calm t)

@[simp] theorem drainIn_calm (s : State) : calm (drainIn s) = calm s := by
  unfold drainIn
  split
  · rfl
  · exact drainFrom_calm _ _

/-! ### An idle step -/

/-- What no write into the ring changes: the collector, the islands' queues and the counter of free values. -/
theorem ztWrite_foldl_keeps (l : List ZtEnt) (s : State) :
    (l.foldl ztWrite s).aon.fc = s.aon.fc ∧ (l.foldl ztWrite s).aon.zt.q = s.aon.zt.q ∧ (l.foldl ztWrite s).fresh = s.fresh := by
  induction l generalizing s with
  | nil => exact ⟨rfl, rfl, rfl⟩
  | cons e l ih =>
    have hone : (ztWrite s e).aon.fc = s.aon.fc ∧ (ztWrite s e).aon.zt.q = s.aon.zt.q ∧ (ztWrite s e).fresh = s.fresh := by
      unfold ztWrite
      extract_lets
      split <;> exact ⟨rfl, rfl, rfl⟩
    obtain ⟨hfc, hq, hfresh⟩ := ih (ztWrite s e)
    exact ⟨hfc.trans hone.1, hq.trans hone.2.1, hfresh.trans hone.2.2⟩

@[simp] theorem ztTakeN_aon_fc (s : State) (n : Nat) : (ztTakeN s n).aon.fc = s.aon.fc := (ztWrite_foldl_keeps _ _).1

/-- What AON takes into the ring leaves the islands. -/
theorem ztTakeN_q (s : State) (n : Nat) : (ztTakeN s n).aon.zt.q = (ztSplit n [] s.aon.zt.q).2 := (ztWrite_foldl_keeps _ _).2.1

theorem idleCycle_fc {s : State} (h : s.boot.phase ≠ .cold) : (idleCycle s).aon.fc = { s.aon.fc with acyc := s.aon.fc.acyc + 1 } := by
  rw [idleCycle_running h, ztTakeN_aon_fc, setFc_self]

theorem idleCycle_fresh (s : State) : (idleCycle s).fresh = s.fresh := by
  by_cases h : s.boot.phase = .cold
  · rw [idleCycle_cold h]
  · rw [idleCycle_running h]
    exact (ztWrite_foldl_keeps _ _).2.2

theorem operating_phase {s : State} (h : operating s = true) : s.boot.phase = .running := by
  simp only [operating, Bool.and_eq_true, beq_iff_eq] at h
  exact h.1

/-- With no inbound access waiting, or while the ports do not serve, none is served. -/
theorem drainIn_nothing {s : State} (h : s.ports.inq = [] ∨ operating s = false) : drainIn s = s := by
  cases hop : operating s with
  | false => simp [drainIn, hop]
  | true =>
    have hq : s.ports.inq = [] := h.resolve_right (by simp [hop])
    simp [drainIn, hop, hq, drainFrom, inReady, inNext]

theorem operating_idleCycle (s : State) : operating (idleCycle s) = operating s := by
  by_cases h : s.boot.phase = .cold
  · rw [idleCycle_cold h]
  · simp [operating, idleCycle_fc h, (onlyAon_idleCycle s).boot]

/-- Settles O2: an idle step is one A-cycle of AON, behind which the inbound accesses that may go are served. -/
theorem emptyQueueStepIsOneCycle : Obligations.EmptyQueueStepIsOneCycle := by
  intro s hs
  refine ⟨idleStep s, step_idle hs, fun hcold => ?_, fun hquiet => ?_, fun hop => ⟨rfl, ?_⟩⟩
  · have hop : operating s = false := by simp [operating, hcold]
    rw [idleStep, idleCycle_cold hcold, drainIn_nothing (.inr hop)]
  · have hsame : idleStep s = idleCycle s := by
      apply drainIn_nothing
      rw [operating_idleCycle, (onlyAon_idleCycle s).ports]
      exact hquiet
    rw [hsame]
    refine ⟨?_, fun hrun => ⟨idleCycle_fc hrun, ?_⟩⟩
    · have hframe := onlyAon_idleCycle s
      rw [OnlyAon, idleCycle_fresh] at hframe
      exact hframe
    · rw [idleCycle_running hrun, ztTakeN_q]
      rfl
  · have hcalm : fcStill (idleStep s).aon.fc = fcStill (idleCycle s).aon.fc := fcStill_of_calm (drainIn_calm (idleCycle s))
    have hrun : s.boot.phase ≠ .cold := by simp [operating_phase hop]
    have hacyc := congrArg Fc.acyc hcalm
    rw [idleCycle_fc hrun] at hacyc
    exact hacyc

/-! ### Every well-formed command runs -/

/-- The outcome is a next state. -/
def Runs (o : Host.Outcome State Fault Refusal) : Prop := ∃ t, o = .next t

theorem runs_next (t : State) : Runs (.next t) := ⟨t, rfl⟩

theorem runs_faultEvent {evs : List FaultEv} (h : evs.all FaultEv.wf = true) (s : State) : Runs (exec (.faultEvent evs) s) := by
  simp only [exec, execFaultEvent, h, Bool.not_true, Bool.false_eq_true, if_false]
  split <;> exact runs_next _

/-- Each command has a next state in every branch of its meaning, but for the two rows that check their operands. -/
theorem runs_of_wf {c : Instr} (h : c.wf = true) (s : State) : Runs (exec c s) := by
  cases c with
  | faultEvent evs => exact runs_faultEvent h s
  | bypass op => exact ⟨_, exec_bypass h s⟩
  | _ =>
    simp only [exec,
    execActivationPositionFree, execAdaptiveWindowEnd, execArrive, execArriveAckTimeout, execAutoloadReload,
    execAutomaticExit, execBarrAck, execBarrArrive, execBlockResetDone, execBoundRunReserve, execCold,
    execColdResetEnd, execCollectorParityError, execCompletionRecordAck, execCompletionRecordError, execContextOut,
    execContextRestored, execCoreInboundRequest, execCoreReadyChange, execDataFlitReceived, execDelayMarginNegative,
    execDepBarrier, execDepChannel, execDescriptorComplete, execDescriptorDecode, execDescriptorFetchDone, execDomainGated,
    execDomainIdleExpire, execDrain, execEscalationExpire, execEvict, execFabricErrorResponse, execFaultRecordAck, execFaultRecordWrite, execFaultWindowClose, execFenceAcquire, execFenceFull, execFenceRelease,
    execFilled, execFirmwareLoadDone, execFree, execFreqStep, execGather, execGrantWatchdogBite, execHeldWriteIssue,
    execHostArriveTimeout, execIdleFlitReceived, execImageLoadFail, execImageLock, execInvalidateDone, execIrqPendClear,
    execLateResponse, execLineTimeout, execLinkPresenceChange, execLinkSignalDetect, execLinkStateTimerExpire,
    execLockAlignmentHeld, execMailbox, execMarginReturn, execMmioBadRequest, execMordantCast, execMove, execNackRepeat,
    execNop, execOutputLineEmit, execPacketForward, execPgoodFall, execPgoodRise, execPlacementWindowEnd, execPop,
    execPrefetch, execProduce, execPush, execRailWaitEnd, execReadDataLand, execReadIssue, execRearm, execRearmStop,
    execRegisterWrite, execReinitDone, execReinitTimeout, execRelayForward, execRelease, execRingCfgWrite,
    execSaltMigrationDone, execScrubRow, execSidebandIdxWrite, execSidebandOffsetWrite, execSidebandRead,
    execSidebandWord7Read, execSignalAdd, execSignalDoorbell, execSignalResponse, execSignalWrite, execStageInboundRequest,
    execSyncDumpDone, execTempFall, execTensor, execThermalLimit, execTilePrewalk, execTrainingFrame, execVddtLowerExpire,
    execVddtSettleExpire, execWaitBarrier, execWaitTimeout, execWaitValue, execWaitValuePoll, execWakeComplete, execWakeN,
    execWalkReadResponse, execWalkReadTimeout, execWarm, execWhEmit, execWhHalt, execWhirl, execWhirlQuietStop,
    execWriteAcknowledge, execWriteIssue]
    (repeat' split) <;> exact runs_next _

theorem refused_of_not_wf {c : Instr} (h : c.wf = false) (s : State) : exec c s = .refused .illFormed := by
  cases c with
  | faultEvent evs =>
    have hwf : evs.all FaultEv.wf = false := h
    simp [exec, execFaultEvent, hwf]
  | bypass op =>
    have hwf : bypassOpcode op = false := h
    simp [exec, execBypass, hwf]
  | _ => exact nomatch h

/-- Settles O3: a command that runs is not refused. -/
theorem wellFormedCommandsRun : Obligations.WellFormedCommandsRun := by
  refine ⟨fun c s h => runs_of_wf h s, fun c s => ⟨fun hrefused => ?_, fun h => refused_of_not_wf h s⟩⟩
  by_contra hwf
  obtain ⟨t, ht⟩ := runs_of_wf (Bool.eq_true_of_not_eq_false hwf) s
  rw [ht] at hrefused
  cases hrefused

end Sys2Proof.Proofs
end

section
/-! The pending bits of the interrupt page: a fall of a line sends no message (R217), and a non-secure write leaves the bits of secure
resources (R374). -/

namespace Sys2Proof.Proofs

open Sys2Proof Sys2Proof.Machine Sys2Proof.Laws

/-! ### Bits -/

theorem fld_ne_zero_iff {w : Nat} (x : BitVec w) (lo n : Nat) : fld x lo n ≠ 0 ↔ ∃ i < n, x.getLsbD (lo + i) = true := by
  have hbit : ∀ i, (fld x lo n).testBit i = (decide (i < n) && x.getLsbD (lo + i)) := by
    intro i
    rw [fld, Nat.testBit_mod_two_pow, Nat.testBit_shiftRight, BitVec.testBit_toNat]
  constructor
  · intro h
    obtain ⟨i, hi⟩ := Nat.exists_testBit_of_ne_zero h
    rw [hbit, Bool.and_eq_true, decide_eq_true_eq] at hi
    exact ⟨i, hi⟩
  · rintro ⟨i, hi, hx⟩ h
    have := hbit i
    simp [h, hi, hx] at this

/-- The sum of the flags of the bits below `n` spells them. -/
theorem testBit_flags (f : Nat → Bool) (n : Nat) :
    (((List.range n).map fun i => flag (f i) i).foldl (· + ·) 0) < 2 ^ n
      ∧ ∀ i, (((List.range n).map fun i => flag (f i) i).foldl (· + ·) 0).testBit i = (decide (i < n) && f i) := by
  induction n with
  | zero => exact ⟨Nat.one_pos, fun i => by simp⟩
  | succ n ih =>
    obtain ⟨hlt, hbits⟩ := ih
    rw [List.range_succ, List.map_append, List.foldl_append, List.map_singleton, List.foldl_cons, List.foldl_nil]
    generalize ((List.range n).map fun i => flag (f i) i).foldl (· + ·) 0 = x at hlt hbits ⊢
    cases hf : f n with
    | false =>
      refine ⟨by simp [flag]; omega, fun i => ?_⟩
      rw [show x + flag false n = x from by simp [flag], hbits]
      grind
    | true =>
      have hsum : x + flag true n = 2 ^ n + x := by simp [flag]; omega
      rw [hsum]
      have hlt' : 2 ^ n + x < 2 ^ (n + 1) := by omega
      refine ⟨hlt', fun i => ?_⟩
      rcases Nat.lt_trichotomy i n with hi | rfl | hi
      · rw [Nat.testBit_two_pow_add_gt hi, hbits]
        grind
      · rw [Nat.testBit_two_pow_add_eq, hbits]
        simp [hf]
      · rw [Nat.testBit_lt_two_pow (hlt'.trans_le (Nat.pow_le_pow_right (by decide) hi))]
        grind

theorem secureBits_getLsbD (sec : Nat → Bool) (base : Nat) {i : Nat} (hi : i < 32) :
    (secureBits sec base).getLsbD i = sec (base + i) := by
  rw [secureBits, BitVec.getLsbD_ofNat, (testBit_flags _ 32).2]
  simp [hi]

theorem clearAt_getLsbD {w : Nat} (p : BitVec w) (base : Nat) (v : W32) (i : Nat) :
    (clearAt p base v).getLsbD i = (p.getLsbD i && !(decide (base ≤ i) && v.getLsbD (i - base))) := by
  by_cases hi : i < w
  · by_cases hb : i < base
    · simp [clearAt, hi, hb]
    · have hle : base ≤ i := by omega
      simp [clearAt, hi, hb, hle]
  · simp [clearAt, hi, BitVec.getLsbD_of_ge p i (by omega)]

/-! ### A fall of lines sends nothing -/

theorem setPorts_of_fall {s : State} {p : Ports} (h : ∀ l, irqLine p l = true → irqLine s.ports l = true) :
    setPorts s p = { s with ports := p } := by
  have hfold : ∀ (l : List Nat) (t : State),
      l.foldl (fun t l => if irqLine p l && !irqLine s.ports l && (msi t l).en && operating t then msiWrite t (msi t l) else t) t = t := by
    intro l
    induction l with
    | nil => intro t; rfl
    | cons a l ih =>
      intro t
      have ha : (irqLine p a && !irqLine s.ports a) = false := by
        cases hp : irqLine p a with
        | false => rfl
        | true => simp [h a hp]
      simp only [List.foldl_cons, ha, Bool.false_and, Bool.false_eq_true, if_false, ih]
  exact hfold _ _

theorem and_getLsbD_of_le {w : Nat} {p q en : BitVec w} (h : ∀ i, p.getLsbD i = true → q.getLsbD i = true) (i : Nat)
    (hi : (p &&& en).getLsbD i = true) : (q &&& en).getLsbD i = true := by
  rw [BitVec.getLsbD_and, Bool.and_eq_true] at hi ⊢
  exact ⟨h i hi.1, hi.2⟩

theorem ne_zero_iff_exists_getLsbD {w : Nat} (x : BitVec w) : x ≠ 0 ↔ ∃ i, x.getLsbD i = true := by
  constructor
  · intro h
    by_contra hnone
    exact h (BitVec.eq_of_getLsbD_eq fun i _ => by simpa using fun hx => hnone ⟨i, hx⟩)
  · rintro ⟨i, hi⟩ rfl
    simp at hi

/-- No line rises where no pending bit does. -/
theorem irqLine_mono {p q : Ports} (hch : ∀ i, p.chPend.getLsbD i = true → q.chPend.getLsbD i = true)
    (hctx : ∀ i, p.ctxPend.getLsbD i = true → q.ctxPend.getLsbD i = true)
    (hsrc : ∀ i, p.srcPend.getLsbD i = true → q.srcPend.getLsbD i = true)
    (hchEn : p.chEn = q.chEn) (hctxEn : p.ctxEn = q.ctxEn) (hsrcEn : p.srcEn = q.srcEn) (l : Nat) (h : irqLine p l = true) :
    irqLine q l = true := by
  unfold irqLine at *
  rw [hchEn, hctxEn, hsrcEn] at h
  split at h
  · next hl =>
    rw [if_pos hl]
    rw [decide_eq_true_eq, fld_ne_zero_iff] at h ⊢
    obtain ⟨i, hi, hx⟩ := h
    exact ⟨i, hi, and_getLsbD_of_le hch _ hx⟩
  rw [if_neg (by assumption)]
  split at h
  · next hl =>
    rw [if_pos hl]
    rw [decide_eq_true_eq, ne_zero_iff_exists_getLsbD] at h ⊢
    obtain ⟨i, hx⟩ := h
    exact ⟨i, and_getLsbD_of_le hctx _ hx⟩
  rw [if_neg (by assumption)]
  split at h
  · next hl =>
    rw [if_pos hl]
    exact and_getLsbD_of_le hsrc _ h
  · exact absurd h (by decide)

theorem clearAt_le {w : Nat} (p : BitVec w) (base : Nat) (v : W32) (i : Nat) (h : (clearAt p base v).getLsbD i = true) :
    p.getLsbD i = true := by
  rw [clearAt_getLsbD, Bool.and_eq_true] at h
  exact h.1

@[simp] theorem setPorts_clear_ch (s : State) (base : Nat) (v : W32) : setPorts s { s.ports with chPend := clearAt s.ports.chPend base v }
    = { s with ports := { s.ports with chPend := clearAt s.ports.chPend base v } } :=
  setPorts_of_fall (irqLine_mono (clearAt_le _ _ _) (fun _ h => h) (fun _ h => h) rfl rfl rfl)

@[simp] theorem setPorts_clear_ctx (s : State) (base : Nat) (v : W32) : setPorts s { s.ports with ctxPend := clearAt s.ports.ctxPend base v }
    = { s with ports := { s.ports with ctxPend := clearAt s.ports.ctxPend base v } } :=
  setPorts_of_fall (irqLine_mono (fun _ h => h) (clearAt_le _ _ _) (fun _ h => h) rfl rfl rfl)

@[simp] theorem setPorts_clear_src (s : State) (base : Nat) (v : W32) : setPorts s { s.ports with srcPend := clearAt s.ports.srcPend base v }
    = { s with ports := { s.ports with srcPend := clearAt s.ports.srcPend base v } } :=
  setPorts_of_fall (irqLine_mono (fun _ h => h) (fun _ h => h) (clearAt_le _ _ _) rfl rfl rfl)

/-! ### A write of ones (R216, R374) -/

/-- The bits of word `k` of a group that a write may clear, where `sec` gives the secure resources. -/
def writable (ns : Bool) (sec : Nat → Bool) (k : Nat) : W32 := if ns then ~~~secureBits sec (32 * k) else BitVec.allOnes 32

theorem and_writable_getLsbD (ns : Bool) (sec : Nat → Bool) (k : Nat) (v : W32) {i : Nat} (hi : i < 32) :
    (v &&& writable ns sec k).getLsbD i = (v.getLsbD i && !(ns && sec (32 * k + i))) := by
  cases ns with
  | false =>
    have hones : (BitVec.allOnes 32).getLsbD i = true := by simp only [BitVec.getLsbD_allOnes, hi, decide_true]
    simp only [writable, Bool.false_eq_true, if_false, BitVec.getLsbD_and, hones, Bool.false_and, Bool.not_false]
  | true =>
    simp only [writable, if_true, BitVec.getLsbD_and, BitVec.getLsbD_not, hi, decide_true, secureBits_getLsbD, Bool.true_and]

/-- Before a bitwise write acts, a notice may be raised. -/
theorem bitwiseW_eq (s : State) (off : Nat) (ns : Bool) (sec v : W32) (f : W32 → W32 → State → State) :
    ∃ u, OnlyAon s u ∧ bitwiseW s off ns sec v f = f (if ns then ~~~sec else BitVec.allOnes 32) v u := by
  unfold bitwiseW
  extract_lets mask u
  refine ⟨u, ?_, rfl⟩
  simp only [u]
  split
  · exact onlyAon_notice ..
  · exact .refl s

/-- Such a write clears the bits of its word that it may, and no other. -/
theorem clearAt_writable {w : Nat} (p : BitVec w) (k : Nat) (ns : Bool) (sec : Nat → Bool) (v : W32) (i : Nat) :
    (clearAt p (32 * k) (v &&& writable ns sec k)).getLsbD i
      = (p.getLsbD i && !(decide (i / 32 = k) && v.getLsbD (i % 32) && !(ns && sec i))) := by
  rw [clearAt_getLsbD]
  by_cases hk : i / 32 = k
  · have hi : i - 32 * k < 32 := by omega
    have hmod : i - 32 * k = i % 32 := by omega
    have hadd : 32 * k + i % 32 = i := by omega
    have hle : 32 * k ≤ i := by omega
    rw [and_writable_getLsbD ns sec k v hi, hmod, hadd]
    simp [hk, hle]
  · by_cases hle : 32 * k ≤ i
    · have hge : 32 ≤ i - 32 * k := by omega
      simp [hk, BitVec.getLsbD_of_ge _ _ hge]
    · simp [hk, hle]

theorem exec_irqPendClear_ch {s : State} {k : Fin 16} {ns : Bool} (v : W32) (h : Served s (0x5000 + 4 * k.val) ns false) :
    ∃ u, OnlyAon s u ∧ exec (.irqPendClear (.ch k) ns v) s = .next (emit { u with ports := { u.ports with
      chPend := clearAt u.ports.chPend (32 * k.val) (v &&& writable ns (chanSecure s) k.val) } } (.mmio 0 0)) := by
  obtain ⟨u, hu, hw⟩ := bitwiseW_eq s (0x5000 + 4 * k.val) ns (secureBits (chanSecure s) (32 * k.val)) v fun m v s =>
    setPorts s { s.ports with chPend := clearAt s.ports.chPend (32 * k.val) (v &&& m) }
  refine ⟨u, hu, ?_⟩
  simp only [exec, execIrqPendClear, mmioW_of_served h]
  exact congrArg (fun t => Host.Outcome.next (emit t _)) (hw.trans (setPorts_clear_ch _ _ _))

theorem exec_irqPendClear_ctx {s : State} {hi ns : Bool} (v : W32) (h : Served s (if hi then 0x5084 else 0x5080) ns false) :
    ∃ u, OnlyAon s u ∧ exec (.irqPendClear (if hi then .ctxHi else .ctxLo) ns v) s = .next (emit { u with ports := { u.ports with
      ctxPend := clearAt u.ports.ctxPend (32 * if hi then 1 else 0) (v &&& writable ns (ctxSecure s) (if hi then 1 else 0)) } } (.mmio 0 0)) := by
  obtain ⟨u, hu, hw⟩ := bitwiseW_eq s (if hi then 0x5084 else 0x5080) ns (secureBits (ctxSecure s) (32 * if hi then 1 else 0)) v
    fun m v s => setPorts s { s.ports with ctxPend := clearAt s.ports.ctxPend (32 * if hi then 1 else 0) (v &&& m) }
  refine ⟨u, hu, ?_⟩
  have hclear := hw.trans (setPorts_clear_ctx u _ _)
  cases hi <;>
  · simp only [exec, execIrqPendClear, Bool.false_eq_true, if_false, if_true] at h ⊢
    rw [mmioW_of_served h]
    exact congrArg (fun t => Host.Outcome.next (emit t _)) hclear

/-- Settles O30: a clearing write moves no line up, and its mask leaves the bits of secure resources to secure writes. -/
theorem pendingBitsAreClearedByWorld : Obligations.PendingBitsAreClearedByWorld := by
  refine ⟨fun s k ns v h => ?_, fun s hi ns v h => ?_, fun s ns v h => ?_⟩
  · obtain ⟨u, hu, hexec⟩ := exec_irqPendClear_ch v h
    refine ⟨_, hexec, by rw [hu], fun i _ => ?_⟩
    rw [← clearAt_writable, ← hu.ports]
  · obtain ⟨u, hu, hexec⟩ := exec_irqPendClear_ctx v h
    refine ⟨_, hexec, by rw [hu], fun i _ => ?_⟩
    rw [← clearAt_writable, ← hu.ports]
  · simp only [exec, execIrqPendClear, mmioW_of_served h, setPorts_clear_src]
    simp [clearAt]

end Sys2Proof.Proofs
end

section
/-! Loading and locking the image, and the boot of Puppeteer (R40 to R42, R338, R358). -/

namespace Sys2Proof.Proofs

open Sys2Proof Sys2Proof.Machine Sys2Proof.Laws

/-! ### What the block's own requests and its interrupt lines leave alone -/

@[simp] theorem setMp_calm : ∀ s a1 a2, calm (setMp s a1 a2) = calm s := by intros; simp [setMp]
theorem calm_of_onlyAon {s t : State} (h : OnlyAon s t) (hfc : t.aon.fc = s.aon.fc) : calm t = calm s := by
  simp only [calm, h.boot, h.img, h.pins, h.chans, h.ctxs, h.hub, hfc]
@[simp] theorem zlog_calm (s : State) (island code a b : Nat) : calm (zlog s island code a b) = calm s :=
  calm_of_onlyAon (onlyAon_zlog ..) (zlog_aon_fc ..)
@[simp] theorem ownReqAs_calm : ∀ s a1 a2 a3 a4 a5, calm ((ownReqAs s a1 a2 a3 a4 a5).1) = calm s := by intros; simp [ownReqAs]
@[simp] theorem ownReq_calm : ∀ s a1 a2 a3 a4, calm ((ownReq s a1 a2 a3 a4).1) = calm s := by intros; simp [ownReq]
@[simp] theorem ownDead_calm : ∀ s a1 a2, calm (ownDead s a1 a2) = calm s := by intros; simp [ownDead]
@[simp] theorem ownEcho_calm : ∀ s a1, calm (ownEcho s a1) = calm s := by intros; simp [ownEcho]
@[simp] theorem ownDone_calm : ∀ s a1, calm (ownDone s a1) = calm s := by intros; simp [ownDone]
@[simp] theorem msiWrite_calm : ∀ s a1, calm (msiWrite s a1) = calm s := by intros; simp [msiWrite]
@[simp] theorem setPorts_calm : ∀ s a1, calm (setPorts s a1) = calm s := by intros; simp [setPorts]
@[simp] theorem pendSrc_calm : ∀ s a1, calm (pendSrc s a1) = calm s := by intros; simp [pendSrc]
@[simp] theorem linkTo_calm : ∀ s a1 a2, calm (linkTo s a1 a2) = calm s := by intros; simp [linkTo]
@[simp] theorem tryDetect_calm : ∀ s a1, calm (tryDetect s a1) = calm s := by intros; simp [tryDetect]
@[simp] theorem trainNeed_calm : ∀ s a1, calm (trainNeed s a1) = calm s := by intros; simp [trainNeed]
@[simp] theorem memErr_calm : ∀ s a1 a2 a3 a4, calm (memErr s a1 a2 a3 a4) = calm s := by intros; simp [memErr]
@[simp] theorem fetchError_calm : ∀ s a1, calm (fetchError s a1) = calm s := by intros; simp [fetchError]
@[simp] theorem imageRead_calm (s : State) (a : Nat) : calm (imageRead s a) = calm s := by simp [imageRead]

theorem aon_foldl {α : Type} {g : State → α → State} (h : ∀ s a, (g s a).aon = s.aon) (l : List α) (s : State) : (l.foldl g s).aon = s.aon := by
  induction l generalizing s with
  | nil => rfl
  | cons a l ih => rw [List.foldl_cons, ih, h]

@[simp] theorem setPorts_aon (s : State) (p : Ports) : (setPorts s p).aon = s.aon := by
  unfold setPorts
  extract_lets old t
  refine (aon_foldl (fun s l => ?_) _ t).trans rfl
  split <;> rfl

@[simp] theorem pendSrc_aon (s : State) (i : Nat) : (pendSrc s i).aon = s.aon := by
  unfold pendSrc
  split
  · exact setPorts_aon _ _
  · rfl

@[simp] theorem ownEcho_aon (s : State) (e : OwnReq) : (ownEcho s e).aon = s.aon := by
  unfold ownEcho
  split <;> rfl

@[simp] theorem ownDone_aon (s : State) (k : OwnKind) : (ownDone s k).aon = s.aon := by
  unfold ownDone
  exact aon_foldl ownEcho_aon _ _

/-! ### The number of a request (R204) -/

theorem freeId_mod (used : List Nat) (m : Nat) (f n : Nat) : freeId used (65536 * m) f n % 65536 + 65536 * m = freeId used (65536 * m) f n := by
  induction f generalizing n with
  | zero => simp only [freeId]; omega
  | succ f ih =>
    simp only [freeId]
    split
    · exact ih _
    · omega

/-- A number of class 0 is its ID. -/
theorem takeId_zero_mod (s : State) : takeId s 0 % 65536 = takeId s 0 := by
  have h := freeId_mod (usedIds s) 0 ((usedIds s).length + 1) s.path.nextId
  exact h

/-- The fetch that `imageRead` sends (R40, R358, log 47). -/
theorem imageFetch_imageRead (s : State) (a : Nat) : ImageFetch s (imageRead s a) a := by
  refine ⟨rfl, takeId s 0, ?_, rfl⟩
  simp only [imageRead, ownReq, ownReqAs, emit, takeId_zero_mod]

/-! ### A write of LOAD (R40) -/

/-- The boot registers after LOAD is accepted. -/
def loadLatched (s : State) : State :=
  { s with boot := { s.boot with imgSt := .loading, imgErr := 0, imgErrWord := 0, imgLatch := s.boot.imgAddr } }

theorem imgLoad_accepted {s : State} (h : s.boot.imgSt = .none ∨ s.boot.imgSt = .failed) : imgLoad s = imgStart (loadLatched s) := by
  obtain h | h := h <;> simp [imgLoad, loadLatched, h]

theorem imgLoad_refused {s : State} (h : s.boot.imgSt = .loading ∨ s.boot.imgSt = .locked) :
    imgLoad s = raise s 0x04 0x048 0 mmioIsland := by
  obtain h | h := h <;> simp [imgLoad, h]

theorem imgStart_running {s : State} (hst : s.boot.st = .running) (hon : powered s 59 = true) :
    imgStart s = imageRead { s with boot := { s.boot with imgHeld := false } } s.boot.imgLatch.toNat := by
  simp [imgStart, hst, hon]

theorem imgStart_held {s : State} (h : s.boot.st ≠ .running ∨ powered s 59 = false) :
    imgStart s = { s with boot := { s.boot with imgHeld := true } } := by
  obtain h | h := h <;> simp [imgStart, h]

theorem imgStart_boot (s : State) : (imgStart s).boot = { s.boot with imgHeld := (imgStart s).boot.imgHeld } := by
  by_cases h : s.boot.st = .running ∧ powered s 59 = true
  · rw [imgStart_running h.1 h.2, boot_of_calm (imageRead_calm _ _)]
  · rw [imgStart_held (by by_cases hst : s.boot.st = .running <;> simp_all)]

theorem imgStart_img (s : State) : (imgStart s).img = s.img := by
  unfold imgStart
  split
  · rw [img_of_calm (imageRead_calm _ _)]
  · rfl

theorem exec_imageLoad {s : State} {ns : Bool} (v : W32) (h : Served s 0x048 ns true) :
    exec (.imageLoad ns v) s = .next (emit (imgLoad s) (.mmio 0 0)) := by
  simp only [exec, execImageLoad, mmioW_of_served h]

/-! ### The end of a load (R41, R42) -/

/-- The state in which every section has taken effect, before the domains that the image names wake and the ports train. -/
def lockedState (s : State) (i : Image) : State := { s with
  img := some i
  boot := { s.boot with imgSt := .locked, imgErr := 0, imgErrWord := 0, imgSvn := BitVec.ofNat 8 i.svn }
  hub := { s.hub with bars := [] } }

theorem lock_calm (s : State) (i : Image) : calm (lock s i) = calm (lockedState s i) := by
  unfold lock
  extract_lets s1 s2 s3
  refine (calm_foldl _ (fun s p => ?_) _ _).trans ((calm_foldl _ (fun s g => ?_) _ _).trans ?_)
  · rw [tryDetect_calm, trainNeed_calm]
  · split
    · exact need_calm _ _
    · rfl
  · exact (pendSrc_calm _ _).trans (zlog_calm _ _ _ _ _)

/-- The boot registers after a load has failed. -/
def loadFailed (b : Boot) (err off : Nat) : Boot :=
  { b with imgSt := .failed, imgErr := err, imgErrWord := BitVec.ofNat 16 (off / 4), imgHeld := false }

theorem imgFail_calm (s : State) (err off : Nat) : calm (imgFail s err off) = calm { s with boot := loadFailed s.boot err off } := by
  simp only [imgFail, pendSrc_calm, zlog_calm, raise_calm]
  rfl

theorem imgFail_crosses (s : State) (err off : Nat) : Crosses s (imgFail s err off) 0x03 err (off / 4) pupIsland := by
  refine crosses_congr (crosses_raise { s with boot := loadFailed s.boot err off } 0x03 err (off / 4) pupIsland) rfl ?_
  simp only [imgFail, pendSrc_aon, zlog_aon_fc]
  rfl

theorem exec_imageLock {s : State} (h : loadRuns s = true) (b : List Byte) : exec (.imageLock b) s =
    .next (match checkImage s.boot.keyhash s.boot.minsvn b with | .ok i => lock (ownDone s .image) i | .error _ => s) := by
  simp only [exec, execImageLock, h]
  cases checkImage s.boot.keyhash s.boot.minsvn b <;> rfl

theorem exec_imageLoadFail_some {s : State} (h : loadRuns s = true) (b : List Byte) : exec (.imageLoadFail (some b)) s =
    .next (match checkImage s.boot.keyhash s.boot.minsvn b with | .ok _ => s | .error e => imgFail (ownDone s .image) e.1 e.2) := by
  simp only [exec, execImageLoadFail, h]
  cases checkImage s.boot.keyhash s.boot.minsvn b <;> rfl

theorem exec_imageLoadFail_none {s : State} (h : loadRuns s = true) :
    exec (.imageLoadFail none) s = .next (imgFail (fetchError s s.boot.imgLatch.toNat) 1 0) := by
  simp only [exec, execImageLoadFail, h]
  rfl

/-- Settles O12. -/
theorem imageLoads : Obligations.ImageLoads := by
  refine ⟨fun s ns v hserved => ⟨fun hst => ?_, fun hst => ?_⟩, fun s b hruns => ⟨?_, ?_, ?_⟩⟩
  · refine ⟨imgStart (loadLatched s), by rw [exec_imageLoad v hserved, imgLoad_accepted hst], ?_, ?_, ?_, ?_, imgStart_img _, ?_, ?_⟩
    · rw [imgStart_boot]; rfl
    · rw [imgStart_boot]; rfl
    · rw [imgStart_boot]; rfl
    · rw [imgStart_boot]; rfl
    · rintro ⟨hrun, hon⟩
      rw [imgStart_running (s := loadLatched s) hrun hon]
      exact ⟨imageFetch_imageRead _ _, rfl⟩
    · intro hrun
      rw [imgStart_held (s := loadLatched s) (.inl hrun)]
      exact ⟨rfl, rfl⟩
  · refine ⟨raise s 0x04 0x048 0 mmioIsland, by rw [exec_imageLoad v hserved, imgLoad_refused hst], onlyAon_raise .., crosses_raise ..⟩
  · refine ⟨_, exec_imageLock hruns b, ?_⟩
    cases checkImage s.boot.keyhash s.boot.minsvn b with
    | error e => rfl
    | ok i =>
      have hlock := lock_calm (ownDone s .image) i
      have hdone := ownDone_calm s .image
      simp only [img_of_calm hlock, boot_of_calm hlock, hub_of_calm hlock, chans_of_calm hlock, lockedState, chans_of_calm hdone, true_and]
  · refine ⟨_, exec_imageLoadFail_some hruns b, ?_⟩
    cases checkImage s.boot.keyhash s.boot.minsvn b with
    | ok i => rfl
    | error e =>
      have hfail := imgFail_calm (ownDone s .image) e.1 e.2
      have hcross := imgFail_crosses (ownDone s .image) e.1 e.2
      refine ⟨?_, ?_, ?_, ?_, crosses_congr hcross (by rw [ownDone_aon]) rfl⟩
      · rw [boot_of_calm hfail]; rfl
      · rw [boot_of_calm hfail]; rfl
      · rw [boot_of_calm hfail]; rfl
      · have himg := img_of_calm (ownDone_calm s .image)
        exact (img_of_calm hfail).trans himg
  · have hfail := imgFail_calm (fetchError s s.boot.imgLatch.toNat) 1 0
    refine ⟨_, exec_imageLoadFail_none hruns, ?_, ?_, ?_, ?_, imgFail_crosses ..⟩
    · rw [boot_of_calm hfail]; rfl
    · rw [boot_of_calm hfail]; rfl
    · rw [boot_of_calm hfail]; rfl
    · have himg := img_of_calm (fetchError_calm s s.boot.imgLatch.toNat)
      exact (img_of_calm hfail).trans himg

end Sys2Proof.Proofs
end

section
/-! The boot ROM's loads and the automatic reload (R338, R358). -/

namespace Sys2Proof.Proofs

open Sys2Proof Sys2Proof.Machine Sys2Proof.Laws

/-! ### A load of firmware (R358) -/

/-- The state in which a firmware load has begun, before its fetch. -/
def fwLoading (s : State) : State := { s with boot := { s.boot with st := .loading, err := 0, fwLatch := s.boot.pupFw } }

theorem fwStart_powered {s : State} (h : powered s 59 = true) : fwStart s = imageRead (fwLoading s) s.boot.pupFw.toNat := by
  have hon : powered (fwLoading s) 59 = true := h
  unfold fwStart
  exact if_pos hon

/-- Outside SAFE a write of MZ_BOOT is the gate's alone. -/
theorem bootW_outside_safe {s : State} (h : s.aon.fc.st ≠ .safe) (ns : Bool) (v : W32) : bootW ns v s = mmioW s 0x060 ns true fun s =>
    if bitOf v 3 then park s else if bitOf v 2 && (s.boot.st == .wait || s.boot.st == .failed) then fwStart s else s := by
  simp [bootW, h]

theorem exec_fwload {s : State} {ns : Bool} {v : W32} (h : Served s 0x060 ns true) (hsafe : s.aon.fc.st ≠ .safe) (hpark : bitOf v 3 = false)
    (hst : s.boot.st = .wait ∨ s.boot.st = .failed) : exec (.fwload ns v) s = .next (emit (fwStart s) (.mmio 0 0)) := by
  have hpark' : bitOf (v ||| 4) 3 = false := by simpa [bitOf] using hpark
  have hload : bitOf (v ||| 4) 2 = true := by simp [bitOf]
  have hst' : (s.boot.st == .wait || s.boot.st == .failed) = true := by obtain h | h := hst <;> simp [h]
  simp only [exec, execFwload, bootW_outside_safe hsafe, mmioW_of_served h, hpark', hload, hst', Bool.false_eq_true, if_false, Bool.and_self,
    if_true]

/-! ### The end of a firmware load -/

theorem fwFail_eq {s : State} (h : s.boot.imgSt ≠ .loading) (e : Nat) :
    fwFail s e = raise { s with boot := { s.boot with st := .failed, err := e } } 0x10 e 0 pupIsland := by
  simp [fwFail, h]

theorem exec_firmwareLoadDone_some {s : State} (hop : operating s = true) (hst : s.boot.st = .loading) (b : List Byte) :
    exec (.firmwareLoadDone (some b)) s = .next (match checkFirmware s.boot.keyhash s.boot.minsvn b with
      | .error e => fwFail (ownDone s .image) e
      | .ok f =>
        let t := { ownDone s .image with boot := { s.boot with st := .running, err := 0, pupCode := f.1, pupEntry := f.2.1, fwSvn := f.2.2 } }
        if t.boot.imgSt == .loading && t.boot.imgHeld then imgStart t else t) := by
  simp only [exec, execFirmwareLoadDone, hop, hst, boot_of_calm (ownDone_calm s .image)]
  cases checkFirmware s.boot.keyhash s.boot.minsvn b <;> rfl

theorem exec_firmwareLoadDone_none {s : State} (hop : operating s = true) (hst : s.boot.st = .loading) :
    exec (.firmwareLoadDone none) s = .next (fwFail (fetchError s s.boot.fwLatch.toNat) 1) := by
  simp only [exec, execFirmwareLoadDone, hop, hst]
  rfl

/-! ### The automatic reload (R338) -/

/-- The firmware's write of MZ_IMG_ADDR_LO and _HI, where an image may be loaded. -/
theorem imgAddrSet_accepted {s : State} (h : s.boot.imgSt = .none ∨ s.boot.imgSt = .failed) (hi : Bool) (v : W32) :
    imgAddrSet hi v s = { s with boot := { s.boot with imgAddr := BitVec.ofNat 52 (if hi then s.boot.imgAddr.toNat % 2 ^ 32 + 2 ^ 32 * fld v 0 20
      else 2 ^ 32 * (s.boot.imgAddr.toNat / 2 ^ 32) + fld v 8 24 * 256) } } := by
  obtain h | h := h <;> simp [imgAddrSet, h]

theorem fld_ofNat {w lo n x : Nat} (h : x < 2 ^ w) : fld (BitVec.ofNat w x) lo n = x / 2 ^ lo % 2 ^ n := by
  rw [fld, BitVec.toNat_ofNat, Nat.mod_eq_of_lt h, Nat.shiftRight_eq_div_pow]

theorem fld_lt {w : Nat} (x : BitVec w) (lo n : Nat) : fld x lo n < 2 ^ n := Nat.mod_lt _ (Nat.two_pow_pos n)

theorem fld_eq {w : Nat} (x : BitVec w) (lo n : Nat) : fld x lo n = x.toNat / 2 ^ lo % 2 ^ n := by
  rw [fld, Nat.shiftRight_eq_div_pow]

/-- The state in which the firmware has copied MZ_FC_REIMG. -/
def reloadCopied (s : State) : State :=
  { s with boot := { s.boot with reloadDue := false, imgAddr := BitVec.ofNat 52 (256 * s.aon.fc.reimg.toNat) } }

/-- MZ_FC_REIMG reaches MZ_IMG_ADDR in its two halves. -/
theorem imgAddrSet_reimg {s : State} (h : s.boot.imgSt = .none ∨ s.boot.imgSt = .failed) :
    imgAddrSet true (BitVec.ofNat 32 (fld s.aon.fc.reimg 24 20))
        (imgAddrSet false (BitVec.ofNat 32 (fld s.aon.fc.reimg 0 24 * 256)) { s with boot := { s.boot with reloadDue := false } })
      = reloadCopied s := by
  have hreimg : s.aon.fc.reimg.toNat < 2 ^ 44 := s.aon.fc.reimg.isLt
  have haddr : s.boot.imgAddr.toNat < 2 ^ 52 := s.boot.imgAddr.isLt
  have hlow : fld (BitVec.ofNat 32 (fld s.aon.fc.reimg 0 24 * 256)) 8 24 = s.aon.fc.reimg.toNat % 2 ^ 24 := by
    have hlt := fld_lt s.aon.fc.reimg 0 24
    rw [fld_ofNat (by omega), fld_eq]
    omega
  have hhigh : fld (BitVec.ofNat 32 (fld s.aon.fc.reimg 24 20)) 0 20 = s.aon.fc.reimg.toNat / 2 ^ 24 := by
    have hlt := fld_lt s.aon.fc.reimg 24 20
    rw [fld_ofNat (by omega), fld_eq]
    omega
  rw [imgAddrSet_accepted (hi := false), imgAddrSet_accepted (hi := true), hlow, hhigh]
  · simp only [reloadCopied, Bool.false_eq_true, if_false, if_true, BitVec.toNat_ofNat]
    congr 3
    omega
  · exact h
  · exact h

theorem exec_autoloadReload {s : State} (hop : operating s = true) (hdue : s.boot.reloadDue = true) (hrun : s.boot.st = .running)
    (h : s.boot.imgSt = .none ∨ s.boot.imgSt = .failed) : exec .autoloadReload s = .next (imgLoad (reloadCopied s)) := by
  rw [← imgAddrSet_reimg h]
  simp only [exec, execAutoloadReload, hop, hdue, hrun]
  rfl

/-- Settles O13. -/
theorem firmwareBootsAndReloads : Obligations.FirmwareBootsAndReloads := by
  refine ⟨⟨fun s ns v hserved hsafe hpark hst hon => ?_, fun s b hop hst himg => ?_, fun s hop hst himg => ?_⟩,
    fun s hop hdue hrun hon himg => ?_⟩
  · rw [exec_fwload hserved hsafe hpark hst, fwStart_powered hon]
    exact ⟨_, rfl, imageFetch_imageRead _ _⟩
  · refine ⟨_, exec_firmwareLoadDone_some hop hst b, ?_⟩
    have hboot := boot_of_calm (ownDone_calm s .image)
    cases checkFirmware s.boot.keyhash s.boot.minsvn b with
    | ok f => simp [himg]
    | error e =>
      have hfail : fwFail (ownDone s .image) e = raise { ownDone s .image with boot := { s.boot with st := .failed, err := e } } 0x10 e 0 pupIsland := by
        rw [fwFail_eq (by rw [hboot]; exact himg), hboot]
      refine ⟨?_, ?_⟩
      · simp only [hfail]
        exact onlyAon_raise ..
      · simp only [hfail]
        exact crosses_raise_of (congrArg (·.fc.evq) (ownDone_aon s .image)) ..
  · have hboot := boot_of_calm (fetchError_calm s s.boot.fwLatch.toNat)
    have hfail : fwFail (fetchError s s.boot.fwLatch.toNat) 1
        = raise { fetchError s s.boot.fwLatch.toNat with boot := { s.boot with st := .failed, err := 1 } } 0x10 1 0 pupIsland := by
      rw [fwFail_eq (by rw [hboot]; exact himg), hboot]
    refine ⟨_, (exec_firmwareLoadDone_none hop hst).trans (congrArg _ hfail), onlyAon_raise .., ?_⟩
    exact crosses_raise_of rfl ..
  · have hload := imgLoad_accepted (s := reloadCopied s) himg
    have hstart := imgStart_running (s := loadLatched (reloadCopied s)) hrun hon
    have hlatch : (loadLatched (reloadCopied s)).boot.imgLatch.toNat = 256 * s.aon.fc.reimg.toNat := by
      have hreimg : s.aon.fc.reimg.toNat < 2 ^ 44 := s.aon.fc.reimg.isLt
      simp only [loadLatched, reloadCopied, BitVec.toNat_ofNat]
      omega
    rw [hlatch] at hstart
    refine ⟨_, (exec_autoloadReload hop hdue hrun himg).trans (congrArg _ (hload.trans hstart)), ?_, ?_, ?_, ?_⟩
    · exact imageFetch_imageRead _ _
    · rw [boot_of_calm (imageRead_calm _ _)]; rfl
    · rw [boot_of_calm (imageRead_calm _ _)]; exact hlatch
    · rw [boot_of_calm (imageRead_calm _ _)]; rfl

end Sys2Proof.Proofs
end

section
/-! The clock page: what a domain's wake and its needs leave alone, and the rails (R310, R315, R316, R353 to R356). -/

namespace Sys2Proof.Proofs

open Sys2Proof Sys2Proof.Machine Sys2Proof.Laws

/-! ### Only the clock page -/

/-- From `s` to `t` nothing has changed but the clock page. -/
def OnlyClk (s t : State) : Prop := t = { s with clk := t.clk }

theorem OnlyClk.refl (s : State) : OnlyClk s s := rfl

theorem OnlyClk.trans {s t u : State} (h : OnlyClk s t) (k : OnlyClk t u) : OnlyClk s u := by
  unfold OnlyClk at *
  rw [k, h]

theorem OnlyClk.boot {s t : State} (h : OnlyClk s t) : t.boot = s.boot := by rw [h]
theorem OnlyClk.img {s t : State} (h : OnlyClk s t) : t.img = s.img := by rw [h]
theorem OnlyClk.pins {s t : State} (h : OnlyClk s t) : t.pins = s.pins := by rw [h]
theorem OnlyClk.chans {s t : State} (h : OnlyClk s t) : t.chans = s.chans := by rw [h]
theorem OnlyClk.aon {s t : State} (h : OnlyClk s t) : t.aon = s.aon := by rw [h]

theorem onlyClk_foldl {α : Type} {g : State → α → State} (h : ∀ s a, OnlyClk s (g s a)) (l : List α) (s : State) :
    OnlyClk s (l.foldl g s) := by
  induction l generalizing s with
  | nil => exact .refl s
  | cons a l ih => exact (h s a).trans (ih _)

theorem onlyClk_setIsl (s : State) (d : Nat) (x : Island) : OnlyClk s (setIsl s d x) := rfl

theorem onlyClk_raiseReq (s : State) (code : Nat) : OnlyClk s (raiseReq s code) := by
  unfold raiseReq
  split <;> rfl

theorem onlyClk_startWake (s : State) (d : Nat) : OnlyClk s (startWake s d) :=
  (onlyClk_raiseReq s _).trans (onlyClk_setIsl _ _ _)

theorem onlyClk_startWakes (n : Nat) (s : State) : OnlyClk s (startWakes n s) := by
  induction n generalizing s with
  | zero => exact .refl s
  | succ n ih =>
    unfold startWakes
    split
    · exact .refl s
    · split
      · exact .trans (.trans (t := { s with clk := _ }) rfl (onlyClk_startWake _ _)) (ih _)
      · exact .refl s

theorem onlyClk_need (s : State) (d : Nat) : OnlyClk s (need s d) := by
  unfold need
  extract_lets x
  split
  · exact .refl s
  split
  · split
    · exact .refl s
    · exact .trans (t := { s with clk := _ }) rfl (onlyClk_startWakes _ _)
  · rfl
  · exact .refl s

theorem onlyClk_wakeDue (s : State) (d : Nat) : OnlyClk s (wakeDue s d) := by
  unfold wakeDue
  split
  · exact onlyClk_startWake s d
  · exact .refl s

/-! ### REQ and the domains that wake (R310, R315) -/

theorem raiseReq_req (s : State) (code : Nat) : (raiseReq s code).clk.req = max s.clk.req code := by
  unfold raiseReq
  split
  · next h => exact (max_eq_right h.le).symm
  · next h => exact (max_eq_left (not_lt.mp h)).symm

@[simp] theorem raiseReq_isl (s : State) (code : Nat) : (raiseReq s code).clk.isl = s.clk.isl := by
  unfold raiseReq
  split <;> rfl

@[simp] theorem raiseReq_temp (s : State) (code : Nat) : (raiseReq s code).clk.temp = s.clk.temp := by
  unfold raiseReq
  split <;> rfl

@[simp] theorem isl_raiseReq (s : State) (code d : Nat) : isl (raiseReq s code) d = isl s d := by
  simp [isl]

theorem isl_startWake_self {s : State} (h : Canon s) (d : Nat) :
    isl (startWake s d) d = { isl s d with ps := .waking, raise := (raiseReq s (vddtCode (wakeVi s d).toNat)).clk.settling } := by
  simp only [startWake, isl_setIsl_self (raiseReq_canon _ _ h), isl_raiseReq]

theorem isl_startWake_other {s : State} (h : Canon s) {d k : Nat} (hk : k ≠ d) : isl (startWake s d) k = isl s k := by
  simp only [startWake, isl_setIsl_other (raiseReq_canon _ _ h) _ _ hk, isl_raiseReq]

theorem startWake_req (s : State) (d : Nat) : (startWake s d).clk.req = max s.clk.req (vddtCode (wakeVi s d).toNat) :=
  raiseReq_req s _

theorem startWake_temp (s : State) (d : Nat) : (startWake s d).clk.temp = s.clk.temp := raiseReq_temp s _

/-- The VI of a wake depends on the FMIN and on the temperature alone. -/
theorem wakeVi_congr {s t : State} {d : Nat} (hfmin : (isl t d).fmin = (isl s d).fmin) (htemp : t.clk.temp = s.clk.temp) :
    wakeVi t d = wakeVi s d := by
  simp only [wakeVi, islVi, wakeFreq, hfmin, htemp]

/-- Domain `d` wakes, and REQ covers the VI it wakes at. -/
def WakesCovered (s : State) (d : Nat) : Prop := wakeCovered s d = true ∧ (isl s d).ps = .waking

/-- What the wake of one domain leaves of the others: canonical tables, power states and FMINs, the temperature, and a REQ that rises. -/
structure WakeKeeps (s t : State) : Prop where
  canon : Canon s → Canon t
  ps : Canon s → ∀ d, (isl s d).ps = .waking → (isl t d).ps = .waking
  fmin : Canon s → ∀ d, (isl t d).fmin = (isl s d).fmin
  temp : t.clk.temp = s.clk.temp
  req : s.clk.req ≤ t.clk.req

theorem WakeKeeps.refl (s : State) : WakeKeeps s s := ⟨id, fun _ _ h => h, fun _ _ => rfl, rfl, Nat.le_refl _⟩

theorem WakeKeeps.trans {s t u : State} (h : WakeKeeps s t) (k : WakeKeeps t u) : WakeKeeps s u where
  canon hs := k.canon (h.canon hs)
  ps hs d hd := k.ps (h.canon hs) d (h.ps hs d hd)
  fmin hs d := (k.fmin (h.canon hs) d).trans (h.fmin hs d)
  temp := k.temp.trans h.temp
  req := h.req.trans k.req

theorem wakeKeeps_startWake (s : State) (d : Nat) : WakeKeeps s (startWake s d) where
  canon hs := startWake_canon _ _ hs
  ps hs k hk := by
    by_cases h : k = d
    · rw [h, isl_startWake_self hs]
    · rw [isl_startWake_other hs h, hk]
  fmin hs k := by
    by_cases h : k = d
    · rw [h, isl_startWake_self hs]
    · rw [isl_startWake_other hs h]
  temp := startWake_temp s d
  req := by
    rw [startWake_req]
    exact Nat.le_max_left _ _

theorem wakeKeeps_wakeDue (s : State) (d : Nat) : WakeKeeps s (wakeDue s d) := by
  unfold wakeDue
  split
  · exact wakeKeeps_startWake s d
  · exact .refl s

theorem wakeKeeps_foldl {α : Type} {g : State → α → State} (h : ∀ s a, WakeKeeps s (g s a)) (l : List α) (s : State) :
    WakeKeeps s (l.foldl g s) := by
  induction l generalizing s with
  | nil => exact .refl s
  | cons a l ih => exact (h s a).trans (ih _)

theorem WakesCovered.mono {s t : State} {d : Nat} (hs : Canon s) (h : WakeKeeps s t) (hd : WakesCovered s d) : WakesCovered t d := by
  obtain ⟨hcov, hps⟩ := hd
  refine ⟨?_, h.ps hs d hps⟩
  simp only [wakeCovered, decide_eq_true_eq, wakeVi_congr (h.fmin hs d) h.temp] at hcov ⊢
  exact hcov.trans h.req

theorem wakesCovered_startWake {s : State} (hs : Canon s) (d : Nat) : WakesCovered (startWake s d) d := by
  constructor
  · have hvi := wakeVi_congr ((wakeKeeps_startWake s d).fmin hs d) (startWake_temp s d)
    simp only [wakeCovered, decide_eq_true_eq, hvi, startWake_req]
    exact Nat.le_max_right _ _
  · rw [isl_startWake_self hs]

theorem wakesCovered_wakeDue {s : State} (hs : Canon s) {d : Nat} (hps : (isl s d).ps = .waking) (hbank : bankUnnamed s d = false) :
    WakesCovered (wakeDue s d) d := by
  simp only [wakeDue, hps, hbank]
  exact wakesCovered_startWake hs d

/-- Behind the wakes that are due, REQ covers every domain that wakes. -/
theorem wakesCovered_foldl_wakeDue {l : List Nat} {s : State} (hs : Canon s) {d : Nat} (hd : d ∈ l) (hps : (isl s d).ps = .waking)
    (hbank : bankUnnamed s d = false) : WakesCovered (l.foldl wakeDue s) d := by
  induction l generalizing s with
  | nil => cases hd
  | cons a l ih =>
    have hkeep := wakeKeeps_wakeDue s a
    by_cases h : d = a
    · subst h
      exact (wakesCovered_wakeDue hs hps hbank).mono (hkeep.canon hs) (wakeKeeps_foldl wakeKeeps_wakeDue l _)
    · have hbank' : bankUnnamed (wakeDue s a) d = false := by
        rw [← hbank]
        simp only [bankUnnamed, im, (onlyClk_wakeDue s a).img]
      exact ih (hkeep.canon hs) ((List.mem_cons.mp hd).resolve_left h) (hkeep.ps hs d hps) hbank'

/-! ### PARK (R354, R356) -/

theorem mmioReady_phase {s : State} (h : mmioReady s = true) : s.boot.phase = .running := by
  simp only [mmioReady, Bool.and_eq_true, beq_iff_eq] at h
  exact h.1

/-- A block reset that begins wipes the block and may power PD44 up. -/
theorem beginReset_running {s : State} (h : s.boot.phase = .running) (by_ : Nat) :
    ∃ t, OnlyClk (blockWipe s) t ∧ beginReset s by_ = { t with boot := { t.boot with phase := .resetting, rstBy := by_ } } := by
  refine ⟨if s.aon.fc.st != .safe && (isl (blockWipe s) 44).ps == .gated then startWake (blockWipe s) 44 else blockWipe s, ?_, ?_⟩
  · split
    · exact onlyClk_startWake _ _
    · exact .refl _
  · simp only [beginReset, h, beq_self_eq_true, if_true]
    rfl

theorem exec_park_outside_safe {s : State} (v : W32) (hready : mmioReady s = true) (hst : s.aon.fc.st = .normal ∨ s.aon.fc.st = .alert) :
    ∃ t, OnlyClk (blockWipe s) t ∧ exec (.park false v) s = .next (emit { t with
      boot := { t.boot with phase := .resetting, rstBy := 4 }, pins := { t.pins with railArm := false },
      clk := { t.clk with req := 70, settling := false } } (.mmio 0 0)) := by
  have hsafe : s.aon.fc.st ≠ .safe := by obtain h | h := hst <;> simp [h]
  have hpark : bitOf (v ||| 8) 3 = true := by simp [bitOf]
  have hserved : Served s 0x060 false true := ⟨hready, fun h => absurd h hsafe, fun h => absurd h (by decide)⟩
  have hgo : (s.aon.fc.st == .normal || s.aon.fc.st == .alert) = true := by obtain h | h := hst <;> simp [h]
  obtain ⟨t, ht, hreset⟩ := beginReset_running (mmioReady_phase hready) 4
  refine ⟨t, ht, ?_⟩
  simp only [exec, execPark, bootW_outside_safe hsafe, mmioW_of_served hserved, hpark, if_true, park, hgo, hreset]

theorem exec_park_safe {s : State} (v : W32) (hready : mmioReady s = true) (hst : s.aon.fc.st = .safe) :
    exec (.park false v) s = .next (emit (raise s 0x04 0x060 0 mmioIsland) (.mmio 0 0)) := by
  have hpark : bitOf (v ||| 8) 3 = true := by simp [bitOf]
  have hready' : mmioReady (raise s 0x04 0x060 0 mmioIsland) = true := by
    rw [← hready]
    simp [mmioReady, isl]
  have hgate := mmioW_unserved (off := 0x060) hready' (by simpa using hst) (by decide) false true
  simp only [exec, execPark, bootW, hready, hst, hpark]
  exact congrArg _ (hgate _)

/-! ### The rails (R316, R353) -/

@[simp] theorem railLevel_setRail_self (s : State) (r : Rail) (b : Bool) : railLevel (setRail s r b) r = b := by cases r <;> rfl

theorem railLevel_setRail_other (s : State) {r q : Rail} (h : q ≠ r) (b : Bool) : railLevel (setRail s r b) q = railLevel s q := by
  cases r <;> cases q <;> first | rfl | exact absurd rfl h

theorem setRail_frame (s : State) (r : Rail) (b : Bool) : setRail s r b = { s with pins := (setRail s r b).pins } := by cases r <;> rfl

theorem setRail_railArm (s : State) (r : Rail) (b : Bool) : (setRail s r b).pins.railArm = s.pins.railArm := by cases r <;> rfl

theorem railLevel_congr {s t : State} (h : t.pins = s.pins) (r : Rail) : railLevel t r = railLevel s r := by
  cases r <;> simp [railLevel, h]

theorem exec_pgoodFall_armed {s : State} {r : Rail} (hlevel : railLevel s r = true) (hcold : s.boot.phase ≠ .cold)
    (harm : s.pins.railArm = true) (hsafe : s.aon.fc.st ≠ .safe) :
    exec (.pgoodFall r) s = .next (raise (setRail s r false) 0x01 (railBits (setRail s r false)) 0 0x40) := by
  have hframe := setRail_frame s r false
  have hphase : (setRail s r false).boot.phase ≠ .cold := by rw [hframe]; exact hcold
  have hfc : (setRail s r false).aon.fc.st ≠ .safe := by rw [hframe]; exact hsafe
  simp [exec, execPgoodFall, hlevel, hphase, hfc, setRail_railArm, harm]

theorem exec_pgoodRise {s : State} {r : Rail} (hlevel : railLevel s r = false) : exec (.pgoodRise r) s = .next
    (if s.boot.phase = .cold then setRail s r true else setFc (setRail s r true) { s.aon.fc with quiet := s.aon.fc.acyc }) := by
  have hframe := setRail_frame s r true
  have hphase : (setRail s r true).boot.phase = s.boot.phase := by rw [hframe]
  have hfc : (setRail s r true).aon.fc = s.aon.fc := by rw [hframe]
  by_cases hcold : s.boot.phase = .cold <;> simp [exec, execPgoodRise, hlevel, hphase, hfc, hcold]

/-- The state in which rail wait has ended, before the domains wake. -/
def railsGood (s : State) : State :=
  { s with pins := { s.pins with railArm := true }, boot := { s.boot with phase := .resetting, rstBy := 0 } }

theorem exec_railWaitEnd {s : State} (h : s.boot.phase = .railWait) (ht : s.pins.pgT = true) (hm : s.pins.pgM = true)
    (hl : s.pins.pgL = true) : exec .railWaitEnd s = .next ((List.range 64).foldl wakeDue (railsGood s)) := by
  simp [exec, execRailWaitEnd, h, ht, hm, hl, railsGood]

/-- Settles O14. -/
theorem railsAreWatchedAndParked : Obligations.RailsAreWatchedAndParked := by
  refine ⟨fun s v hready => ⟨fun hst => ?_, fun hst => ?_⟩, fun s r hlevel hcold harm hsafe => ?_, fun s r hlevel => ?_,
    fun s hphase ht hm hl => ?_⟩
  · obtain ⟨t, hclk, hexec⟩ := exec_park_outside_safe v hready hst
    refine ⟨_, hexec, ?_⟩
    rw [hclk]
    exact ⟨rfl, rfl, rfl, rfl, rfl, rfl, rfl, rfl, rfl, rfl, rfl, rfl, rfl, rfl, rfl, rfl⟩
  · exact ⟨_, exec_park_safe v hready hst, onlyAon_raise .., crosses_raise ..⟩
  · have hframe := setRail_frame s r false
    refine ⟨_, exec_pgoodFall_armed hlevel hcold harm hsafe, ?_, fun q hq => ?_, ?_, ?_⟩
    · rw [railLevel_congr (raise_pins ..), railLevel_setRail_self]
    · rw [railLevel_congr (raise_pins ..), railLevel_setRail_other s hq]
    · rw [onlyAon_raise (setRail s r false), hframe]
    · have hbits : railBits (raise (setRail s r false) 0x01 (railBits (setRail s r false)) 0 0x40) = railBits (setRail s r false) := by
        simp [railBits]
      rw [hbits]
      exact crosses_raise_of (by rw [hframe]) ..
  · have hframe := setRail_frame s r true
    refine ⟨_, exec_pgoodRise hlevel, ?_⟩
    by_cases hcold : s.boot.phase = .cold
    · simp only [hcold, if_true]
      exact ⟨railLevel_setRail_self .., fun q hq => railLevel_setRail_other s hq _, fun h => absurd rfl h, fun _ => hframe⟩
    · simp only [hcold, if_false]
      refine ⟨?_, fun q hq => ?_, fun _ => ?_, fun h => h.elim⟩
      · rw [railLevel_congr (setFc_pins ..), railLevel_setRail_self]
      · rw [railLevel_congr (setFc_pins ..), railLevel_setRail_other s hq]
      · rw [hframe]
        rfl
  · have hkeep := wakeKeeps_foldl wakeKeeps_wakeDue (List.range 64) (railsGood s)
    refine ⟨_, exec_railWaitEnd hphase ht hm hl, ?_, hkeep.req, fun hs d hd hps hbank => ?_⟩
    · exact onlyClk_foldl onlyClk_wakeDue (List.range 64) (railsGood s)
    · have hs' : Canon (railsGood s) := { hs with }
      exact wakesCovered_foldl_wakeDue hs' (List.mem_range.mpr hd) hps hbank

end Sys2Proof.Proofs
end

section
/-! Resets and the safe state: what they leave of the boot registers, the pins, the image and the collector (R335, R338, R355 to R358). -/

namespace Sys2Proof.Proofs

open Sys2Proof Sys2Proof.Machine Sys2Proof.Laws

/-! ### The entry into SAFE (R335) -/

/-- What the entry into SAFE leaves, but for the quiet count. -/
def still (s : State) : Boot × Option Image × Pins × Fc := (s.boot, s.img, s.pins, fcStill s.aon.fc)

theorem still_of_calm {s t : State} (h : calm t = calm s) : still t = still s := by
  simp only [still, boot_of_calm h, img_of_calm h, pins_of_calm h, fcStill_of_calm h]

theorem still_foldl {α : Type} {g : State → α → State} (h : ∀ s a, still (g s a) = still s) (l : List α) (s : State) :
    still (l.foldl g s) = still s := by
  induction l generalizing s with
  | nil => rfl
  | cons a l ih => rw [List.foldl_cons, ih, h]

@[simp] theorem aonLog_aon_fc (s : State) (code a b : Nat) : (aonLog s code a b).aon.fc = s.aon.fc :=
  (ztWrite_foldl_keeps [_] (takeSeq s 0x40)).1

@[simp] theorem aonLog_calm (s : State) (code a b : Nat) : calm (aonLog s code a b) = calm s :=
  calm_of_onlyAon (onlyAon_aonLog ..) (aonLog_aon_fc ..)

@[simp] theorem logPower_calm (s : State) (code d : Nat) : calm (logPower s code d) = calm s := by
  unfold logPower
  split
  · exact aonLog_calm ..
  · rfl

@[simp] theorem gateLoss_calm (s : State) (d : Nat) : calm (gateLoss s d) = calm s := by
  unfold gateLoss
  (repeat' split) <;> rfl

@[simp] theorem safeGate_calm (s : State) (d : Nat) : calm (safeGate s d) = calm s := by
  unfold safeGate
  extract_lets x
  split
  · rfl
  · rw [logPower_calm, gateLoss_calm]
    rfl

theorem inboundError_still (s : State) : still (inboundError s) = still s := by
  unfold inboundError
  extract_lets t
  have ht : still t = still s := by
    refine still_foldl ?_ _ _
    intros
    rfl
  refine (still_foldl (fun s l => ?_) _ _).trans ht
  split <;> rfl

theorem still_quiet {s u : State} (h : still u = still s) : still (setFc u { u.aon.fc with quiet := u.aon.fc.acyc }) =
    (s.boot, s.img, s.pins, { fcStill s.aon.fc with quiet := s.aon.fc.acyc }) := by
  simp only [still, Prod.mk.injEq] at h
  obtain ⟨hboot, himg, hpins, hfc⟩ := h
  have hacyc : u.aon.fc.acyc = s.aon.fc.acyc := (congrArg Fc.acyc hfc : (fcStill u.aon.fc).acyc = (fcStill s.aon.fc).acyc)
  simp only [still, setFc_boot, setFc_img, setFc_pins, setFc_self, hboot, himg, hpins, ← hfc, ← hacyc]
  rfl

/-- The entry into SAFE starts the quiet count. -/
theorem safeEnter_still (s : State) :
    still (safeEnter s) = (s.boot, s.img, s.pins, { fcStill s.aon.fc with quiet := s.aon.fc.acyc }) := by
  unfold safeEnter
  extract_lets s1 s2 s3 path stage xl ports clk s4 s5
  have h5 : still s5 = still s := calc
    still s5 = still s4 := still_of_calm (calm_foldl _ safeGate_calm _ _)
    _ = still s3 := rfl
    _ = still s2 := still_foldl (g := chanLoss) (fun _ _ => rfl) _ _
    _ = still s1 := still_of_calm (calm_foldl _ (fun s p => linkTo_calm s p .off) _ _)
    _ = still s := inboundError_still s
  exact still_quiet h5

theorem safeEnter_keeps (s : State) : (safeEnter s).boot = s.boot ∧ (safeEnter s).img = s.img ∧ (safeEnter s).pins = s.pins
    ∧ fcStill (safeEnter s).aon.fc = { fcStill s.aon.fc with quiet := s.aon.fc.acyc } := by
  simpa only [still, Prod.mk.injEq] using safeEnter_still s

section
variable {s t : State}

theorem blkcnt_of_still (h : still t = still s) : t.aon.fc.blkcnt = s.aon.fc.blkcnt :=
  congrArg (fun x : Boot × Option Image × Pins × Fc => x.2.2.2.blkcnt) h

theorem exited_of_still (h : still t = still s) : t.aon.fc.exited = s.aon.fc.exited :=
  congrArg (fun x : Boot × Option Image × Pins × Fc => x.2.2.2.exited) h

theorem boot_of_still (h : still t = still s) : t.boot = s.boot := congrArg (·.1) h

end

theorem safeEnter_boot (s : State) : (safeEnter s).boot = s.boot := (safeEnter_keeps s).1

/-! ### The end of a block reset (R333, R338, R356, R358) -/

@[simp] theorem setIsl_calm' (s : State) (d : Nat) (x : Island) : calm (setIsl s d x) = calm s := rfl

@[simp] theorem wakeEnds_calm (s : State) (d : Nat) : calm (wakeEnds s d) = calm s := by
  unfold wakeEnds
  extract_lets x
  (repeat' split) <;> rfl

@[simp] theorem domainsUp_calm (s : State) : calm (domainsUp s) = calm s := by
  unfold domainsUp
  extract_lets x t
  split
  · exact (calm_foldl _ safeGate_calm _ _).trans (wakeEnds_calm _ _)
  · exact calm_foldl _ wakeEnds_calm _ _

/-- What the end of a block reset leaves of the boot registers and of the collector: all but the reload that is due, and all but its state
and what comes with it. -/
structure ResetKeeps (s t : State) : Prop where
  boot : t.boot = { s.boot with reloadDue := t.boot.reloadDue }
  blkcnt : t.aon.fc.blkcnt = s.aon.fc.blkcnt

theorem ResetKeeps.refl (s : State) : ResetKeeps s s := ⟨rfl, rfl⟩

theorem ResetKeeps.trans {s t u : State} (h : ResetKeeps s t) (k : ResetKeeps t u) : ResetKeeps s u :=
  ⟨by rw [k.boot, h.boot], k.blkcnt.trans h.blkcnt⟩

theorem resetKeeps_of_still {s t : State} (h : still t = still s) : ResetKeeps s t :=
  ⟨by rw [boot_of_still h], blkcnt_of_still h⟩

theorem fcGo_aon_fc (s : State) (st : FcSt) (cause : Nat) : (fcGo s st cause).aon.fc =
    { s.aon.fc with st := st, cause := cause, acked := s.aon.fc.acked && st != .alert, stuck := s.aon.fc.stuck && st != .resetting } := by
  simp only [fcGo, aonLog_aon_fc, setFc_self]

theorem fcGo_boot (s : State) (st : FcSt) (cause : Nat) : (fcGo s st cause).boot = s.boot := by
  simp only [fcGo, aonLog_boot, setFc_boot]

theorem exited_safeEnter (s : State) : (safeEnter s).aon.fc.exited = s.aon.fc.exited := by
  have h := congrArg Fc.exited (safeEnter_keeps s).2.2.2
  simpa only [fcStill] using h

theorem blkcnt_safeEnter (s : State) : (safeEnter s).aon.fc.blkcnt = s.aon.fc.blkcnt := by
  have h := congrArg Fc.blkcnt (safeEnter_keeps s).2.2.2
  simpa only [fcStill] using h

theorem resetKeeps_safeEnter (s : State) : ResetKeeps s (safeEnter s) :=
  ⟨by rw [safeEnter_boot], blkcnt_safeEnter s⟩

theorem resettingEnd_outside {s : State} (h : s.aon.fc.st ≠ .resetting) : resettingEnd s =
    if s.boot.rstBy = 5 then pendSrc (setFc (domainsUp s) { (domainsUp s).aon.fc with exited := true }) 1 else domainsUp s := by
  simp [resettingEnd, h, boot_of_calm (domainsUp_calm s)]

/-- The state in which RESETTING has ended, before the pending bit, the reload and the safe state that it may lead to. -/
def resetLeft (s : State) : State :=
  domainsUp (fcGo (bump (setFc s { s.aon.fc with exited := true })) (resetNext s).1 (resetNext s).2)

theorem resettingEnd_resetting {s : State} (h : s.aon.fc.st = .resetting) : ∃ t,
    t = { pendSrc (resetLeft s) 1 with boot := { (pendSrc (resetLeft s) 1).boot with reloadDue := (pendSrc (resetLeft s) 1).aon.fc.autoload } }
      ∧ resettingEnd s = if (resetNext s).1 == .safe then safeEnter t else t := by
  refine ⟨_, rfl, ?_⟩
  simp only [resettingEnd, h, resetLeft]
  rfl

theorem resetKeeps_resetLeft (s : State) : ResetKeeps s (resetLeft s) ∧ (resetLeft s).aon.fc.exited = true := by
  have hgo : ResetKeeps s (fcGo (bump (setFc s { s.aon.fc with exited := true })) (resetNext s).1 (resetNext s).2) :=
    ⟨by rw [fcGo_boot]; rfl, by rw [fcGo_aon_fc]; rfl⟩
  have hup := still_of_calm (domainsUp_calm (fcGo (bump (setFc s { s.aon.fc with exited := true })) (resetNext s).1 (resetNext s).2))
  refine ⟨hgo.trans (resetKeeps_of_still hup), (exited_of_still hup).trans ?_⟩
  rw [fcGo_aon_fc]
  rfl

theorem resetKeeps_resettingEnd (s : State) : ResetKeeps s (resettingEnd s)
    ∧ (s.boot.rstBy = 5 ∨ s.aon.fc.st = .resetting → (resettingEnd s).aon.fc.exited = true) := by
  have hup := still_of_calm (domainsUp_calm s)
  by_cases h : s.aon.fc.st = .resetting
  · obtain ⟨hleft, hexited⟩ := resetKeeps_resetLeft s
    have hpend := still_of_calm (pendSrc_calm (resetLeft s) 1)
    obtain ⟨t, ht, hend⟩ := resettingEnd_resetting h
    have hkeep : ResetKeeps s t := by
      have hp := hleft.trans (resetKeeps_of_still hpend)
      rw [ht]
      exact ⟨by rw [hp.boot], hp.blkcnt⟩
    have hexited' : t.aon.fc.exited = true := by
      rw [ht, ← hexited]
      exact (exited_of_still hpend :)
    rw [hend]
    split
    · exact ⟨hkeep.trans (resetKeeps_safeEnter t), fun _ => (exited_safeEnter t).trans hexited'⟩
    · exact ⟨hkeep, fun _ => hexited'⟩
  · rw [resettingEnd_outside h]
    split
    · have hpend := still_of_calm (pendSrc_calm (setFc (domainsUp s) { (domainsUp s).aon.fc with exited := true }) 1)
      have hset : ResetKeeps (domainsUp s) (setFc (domainsUp s) { (domainsUp s).aon.fc with exited := true }) := ⟨rfl, rfl⟩
      exact ⟨((resetKeeps_of_still hup).trans hset).trans (resetKeeps_of_still hpend), fun _ => exited_of_still hpend⟩
    · next hby => exact ⟨resetKeeps_of_still hup, fun hor => absurd (hor.resolve_right h) hby⟩

theorem resettingEnd_st_normal {s : State} (h : s.aon.fc.st = .normal) : (resettingEnd s).aon.fc.st = .normal := by
  have hup := fcSt_of_calm (domainsUp_calm s)
  rw [resettingEnd_outside (by simp [h])]
  split
  · rw [fcSt_of_calm (pendSrc_calm _ _)]
    exact hup.trans h
  · exact hup.trans h

/-! ### The boot ROM (R358) -/

theorem fwStart_boot (s : State) : (fwStart s).boot = { s.boot with st := .loading, err := 0, fwLatch := s.boot.pupFw } := by
  unfold fwStart
  extract_lets b t
  split
  · exact boot_of_calm (imageRead_calm t _)
  · rfl

theorem bootRom_boot (s : State) : (bootRom s).boot =
    if s.boot.pupFw ≠ 0 then { s.boot with st := .loading, err := 0, fwLatch := s.boot.pupFw } else { s.boot with st := .wait } := by
  unfold bootRom
  split
  · rw [boot_of_calm (need_calm _ _), fwStart_boot]
  · rfl

theorem imageRead_aon (s : State) (a : Nat) : (imageRead s a).aon = s.aon := rfl

theorem bootRom_aon (s : State) : (bootRom s).aon = s.aon := by
  unfold bootRom
  split
  · rw [(onlyClk_need _ _).aon]
    unfold fwStart
    extract_lets b t
    split <;> rfl
  · rfl

/-! ### BLOCK_RESET_DONE -/

/-- The state in which a block reset has sampled the tie-offs. -/
def resetSampled (s : State) (k : BitVec 384) (m : Byte) : State := { s with
  boot := { s.boot with keyhash := k, minsvn := m, lastRst := if s.boot.rstBy = 5 then 1 else s.boot.rstBy,
                        phase := if s.boot.rstBy = 4 then .railWait else .running }
  aon := { s.aon with fc := { s.aon.fc with blkcnt := s.aon.fc.blkcnt + 1 }, zt := { s.aon.zt with seq := [] } } }

theorem exec_blockResetDone {s : State} (h : s.boot.phase = .resetting) (k : BitVec 384) (m : Byte) :
    exec (.blockResetDone k m) s = .next (if s.boot.rstBy = 4 then resetSampled s k m
      else if (resettingEnd (resetSampled s k m)).aon.fc.st == .safe then resettingEnd (resetSampled s k m)
      else bootRom (resettingEnd (resetSampled s k m))) := by
  by_cases h4 : s.boot.rstBy = 4
  · simp [exec, execBlockResetDone, h, h4, resetSampled, setFc, setZt]
  · simp [exec, execBlockResetDone, h, h4, resetSampled, setFc, setZt]

/-- The end of a block reset leaves the sampled registers as they are. -/
theorem blockResetDone_keeps (s : State) (t : State) (h : t = resettingEnd s ∨ t = bootRom (resettingEnd s)) :
    t.boot.keyhash = s.boot.keyhash ∧ t.boot.minsvn = s.boot.minsvn ∧ t.boot.lastRst = s.boot.lastRst ∧ t.boot.phase = s.boot.phase
      ∧ t.aon.fc.blkcnt = s.aon.fc.blkcnt ∧ (s.boot.rstBy = 5 → t.aon.fc.exited = true) := by
  obtain ⟨⟨hboot, hblk⟩, hexited⟩ := resetKeeps_resettingEnd s
  obtain rfl | rfl := h
  · rw [hboot]
    exact ⟨rfl, rfl, rfl, rfl, hblk, fun h5 => hexited (.inl h5)⟩
  · rw [bootRom_boot, bootRom_aon, hboot]
    refine ⟨?_, ?_, ?_, ?_, hblk, fun h5 => hexited (.inl h5)⟩ <;> split <;> rfl

/-! ### Cold reset (R355) -/

theorem mem_dedup_append (l : List ColdCause) (c : ColdCause) : c ∈ dedup (l ++ [c]) := by
  unfold dedup
  rw [List.foldl_append]
  simp only [List.foldl_cons, List.foldl_nil]
  split
  · next h => exact List.contains_iff_mem.mp h
  · simp

/-- Settles O15: the end of a block reset leaves what it has sampled (`blockResetDone_keeps`). -/
theorem resetsBeginAndEnd : Obligations.ResetsBeginAndEnd := by
  refine ⟨⟨fun s c => ?_, fun s st h => ?_⟩, fun s k m h => ?_⟩
  · refine ⟨_, rfl, rfl, mem_dedup_append _ c, ?_, ?_, ?_, ?_⟩
    · cases c <;> rfl
    · rintro rfl; rfl
    · rintro rfl; rfl
    · cases c <;> rfl
  · simp [exec, execColdResetEnd, h]
  · refine ⟨_, exec_blockResetDone h k m, ?_⟩
    by_cases h4 : s.boot.rstBy = 4
    · simp [h4, resetSampled]
    · have hst : (resetSampled s k m).boot.phase = .running := by simp [resetSampled, h4]
      obtain ⟨hkey, hsvn, hlast, hphase, hblk, hexit⟩ := blockResetDone_keeps (resetSampled s k m)
        (if (resettingEnd (resetSampled s k m)).aon.fc.st == .safe then resettingEnd (resetSampled s k m)
          else bootRom (resettingEnd (resetSampled s k m))) (by split <;> simp)
      rw [if_neg h4]
      refine ⟨hkey, hsvn, hlast, hblk, fun h => absurd h h4, fun _ => hphase.trans hst, hexit, fun ⟨_, hn⟩ => ?_⟩
      have hnormal := resettingEnd_st_normal (s := resetSampled s k m) hn
      have hboot := (resetKeeps_resettingEnd (resetSampled s k m)).1.boot
      rw [if_neg (by rw [hnormal]; decide)]
      refine ⟨by rw [bootRom_aon, hnormal], ?_⟩
      rw [bootRom_boot, hboot]
      split_ifs <;> simp_all [resetSampled]

end Sys2Proof.Proofs
end

section
/-! Domain power: gating, needs and wakes, and the wake pin (R314, R315, R362). -/

namespace Sys2Proof.Proofs

open Sys2Proof Sys2Proof.Machine Sys2Proof.Laws

/-! ### A need and the queue of wakes (R315) -/

/-- Domain `d` wakes, or its wake is in the queue. -/
def Wanted (s : State) (d : Nat) : Prop := d ∈ s.clk.wakeq ∨ (isl s d).ps = .waking

/-- What needs and queued wakes keep: a wake that is asked for stays so, and a gated domain changes only by being woken. -/
structure NeedKeeps (s t : State) : Prop where
  canon : Canon s → Canon t
  wanted : Canon s → ∀ d, Wanted s d → Wanted t d
  gated : Canon s → ∀ d, (isl s d).ps = .gated → (isl t d).ps = .gated ∨ Wanted t d

theorem NeedKeeps.refl (s : State) : NeedKeeps s s := ⟨id, fun _ _ h => h, fun _ _ h => .inl h⟩

theorem NeedKeeps.trans {s t u : State} (h : NeedKeeps s t) (k : NeedKeeps t u) : NeedKeeps s u where
  canon hs := k.canon (h.canon hs)
  wanted hs d hd := k.wanted (h.canon hs) d (h.wanted hs d hd)
  gated hs d hd := (h.gated hs d hd).elim (k.gated (h.canon hs) d) fun hw => .inr (k.wanted (h.canon hs) d hw)

@[simp] theorem startWake_wakeq (s : State) (d : Nat) : (startWake s d).clk.wakeq = s.clk.wakeq := by
  simp only [startWake, raiseReq]
  split <;> rfl

/-- The first domain of the queue begins to wake. -/
theorem needKeeps_startWake_head {s : State} {a : Nat} {q : List Nat} (h : s.clk.wakeq = a :: q) :
    NeedKeeps s (startWake { s with clk := { s.clk with wakeq := q } } a) := by
  have hcanon : Canon s → Canon { s with clk := { s.clk with wakeq := q } } := fun hs => { hs with }
  refine ⟨fun hs => startWake_canon _ _ (hcanon hs), fun hs d hd => ?_, fun hs d hd => ?_⟩
  · obtain hq | hps := hd
    · rw [h] at hq
      obtain rfl | hq := List.mem_cons.mp hq
      · right
        rw [isl_startWake_self (hcanon hs)]
      · left
        rw [startWake_wakeq]
        exact hq
    · exact .inr ((wakeKeeps_startWake _ a).ps (hcanon hs) d hps)
  · by_cases hda : d = a
    · right; right
      rw [hda, isl_startWake_self (hcanon hs)]
    · left
      rw [isl_startWake_other (hcanon hs) hda]
      exact hd

theorem needKeeps_startWakes (n : Nat) (s : State) : NeedKeeps s (startWakes n s) := by
  induction n generalizing s with
  | zero => exact .refl s
  | succ n ih =>
    unfold startWakes
    split
    · exact .refl s
    · next a q hq =>
      split
      · exact (needKeeps_startWake_head hq).trans (ih _)
      · exact .refl s

/-- The state in which a wake has joined the queue. -/
def wakeQueued (s : State) (d : Nat) : State := { s with clk := { s.clk with wakeq := s.clk.wakeq ++ [d] } }

theorem needKeeps_wakeQueued (s : State) (d : Nat) : NeedKeeps s (wakeQueued s d) :=
  ⟨fun hs => { hs with }, fun _ _ h => h.imp_left (List.mem_append_left _), fun _ _ h => .inl h⟩

theorem needKeeps_wantWake (s : State) (d : Nat) (x : Island) (h : x.ps = (isl s d).ps) : NeedKeeps s (setIsl s d x) := by
  have hps : Canon s → ∀ k, (isl (setIsl s d x) k).ps = (isl s k).ps := fun hs k => by
    by_cases hk : k = d
    · rw [hk, isl_setIsl_self hs, h]
    · rw [isl_setIsl_other hs _ _ hk]
  exact ⟨setIsl_canon _ _ _, fun hs k hk => hk.imp_right (hps hs k).trans, fun hs k hk => .inl ((hps hs k).trans hk)⟩

theorem needKeeps_need (s : State) (d : Nat) : NeedKeeps s (need s d) := by
  unfold need
  extract_lets x
  split
  · exact .refl s
  split
  · split
    · exact .refl s
    · exact (needKeeps_wakeQueued s d).trans (needKeeps_startWakes 64 _)
  · exact needKeeps_wantWake s d _ rfl
  · exact .refl s

theorem needKeeps_foldl (l : List Nat) (s : State) : NeedKeeps s (l.foldl need s) := by
  induction l generalizing s with
  | nil => exact .refl s
  | cons a l ih => exact (needKeeps_need s a).trans (ih _)

theorem need_bankUnnamed {s : State} {d : Nat} (h : bankUnnamed s d = true) : need s d = s := by simp [need, h]

theorem bankUnnamed_congr {s t : State} (h : t.img = s.img) (d : Nat) : bankUnnamed t d = bankUnnamed s d := by simp only [bankUnnamed, im, h]

theorem operating_congr {s t : State} (hboot : t.boot = s.boot) (hst : t.aon.fc.st = s.aon.fc.st) : operating t = operating s := by
  simp only [operating, hboot, hst]

theorem operating_iff {s : State} : operating s = true ↔ s.boot.phase = .running ∧ s.aon.fc.st ≠ .safe := by simp [operating]

/-- A need of a gated domain asks for its wake. -/
theorem wanted_need {s : State} {d : Nat} (hs : Canon s) (hd : d < 64) (hps : (isl s d).ps = .gated) (hop : operating s = true)
    (hbank : bankUnnamed s d = false) : Wanted (need s d) d := by
  obtain ⟨hphase, hst⟩ := operating_iff.mp hop
  have hno : ¬ (d = 0x40 ∨ s.aon.fc.st = .safe ∨ s.boot.phase ≠ .running ∨ bankUnnamed s d = true) := by
    have hd' : d ≠ 0x40 := Nat.ne_of_lt hd
    simp [hst, hphase, hbank, hd']
  simp only [need, if_neg hno, hps]
  split
  · next h => exact .inl (List.contains_iff_mem.mp h)
  · exact (needKeeps_startWakes 64 _).wanted ((needKeeps_wakeQueued s d).canon hs) d
      (.inl (List.mem_append_right _ (List.mem_singleton.mpr rfl)))

/-- Needs of several gated domains ask for the wakes of each. -/
theorem wanted_foldl_need {l : List Nat} {s : State} {d : Nat} (hs : Canon s) (hd : d < 64) (hps : (isl s d).ps = .gated)
    (hop : operating s = true) (hbank : bankUnnamed s d = false) (hmem : d ∈ l) : Wanted (l.foldl need s) d := by
  induction l generalizing s with
  | nil => cases hmem
  | cons a l ih =>
    have hkeep := needKeeps_need s a
    have hclk := onlyClk_need s a
    by_cases hda : d = a
    · subst hda
      exact (needKeeps_foldl l _).wanted (hkeep.canon hs) d (wanted_need hs hd hps hop hbank)
    obtain hg | hw := hkeep.gated hs d hps
    · exact ih (hkeep.canon hs) hg ((operating_congr hclk.boot (by rw [hclk.aon])).trans hop) ((bankUnnamed_congr hclk.img d).trans hbank)
        ((List.mem_cons.mp hmem).resolve_left hda)
    · exact (needKeeps_foldl l _).wanted (hkeep.canon hs) d hw

/-! ### Gating (R314, Table 14-6) -/

@[simp] theorem logPower_clk (s : State) (code d : Nat) : (logPower s code d).clk = s.clk := by
  unfold logPower
  split <;> simp

theorem onlyAon_logPower (s : State) (code d : Nat) : OnlyAon s (logPower s code d) := by
  unfold logPower
  split
  · exact onlyAon_aonLog ..
  · exact .refl s

theorem gateLoss_frame (s : State) (d : Nat) : gateLoss s d = { s with path := (gateLoss s d).path, xl := (gateLoss s d).xl } := by
  unfold gateLoss
  (repeat' split) <;> rfl

/-- The island as it stands once its switches are open. -/
def gatedIsl (s : State) (d : Nat) : Island :=
  { isl s d with ps := .gated, freq := 0, vi := 0, raise := false, wantWake := false, stop := clusterStopped s d }

/-- The state in which a domain has been gated, before the wake that a need asked for. -/
def gatedState (s : State) (d : Nat) : State := logPower (gateLoss (setIsl s d (gatedIsl s d)) d) 0x0700 d

theorem exec_domainGated {s : State} {d : Dom} (h : (isl s d.val).ps = .gating) : exec (.domainGated d) s =
    .next (if (isl s d.val).wantWake then need (gatedState s d.val) d.val else gatedState s d.val) := by
  simp [exec, execDomainGated, h, gatedState, gatedIsl]

theorem gatedState_frame (s : State) (d : Nat) : gatedState s d = { s with
    clk := (setIsl s d (gatedIsl s d)).clk, path := (gateLoss (setIsl s d (gatedIsl s d)) d).path,
    xl := (gateLoss (setIsl s d (gatedIsl s d)) d).xl, aon := (gatedState s d).aon, fresh := (gatedState s d).fresh } := by
  have h : OnlyAon (gateLoss (setIsl s d (gatedIsl s d)) d) (gatedState s d) := onlyAon_logPower ..
  exact Eq.trans h (congrArg (fun t : State => { t with aon := (gatedState s d).aon, fresh := (gatedState s d).fresh })
    (gateLoss_frame (setIsl s d (gatedIsl s d)) d))

theorem isl_gatedState (s : State) (d k : Nat) : isl (gatedState s d) k = isl (setIsl s d (gatedIsl s d)) k := by
  rw [gatedState_frame]
  rfl

theorem gatedState_path (s : State) (d : Nat) : (gatedState s d).path = (gateLoss (setIsl s d (gatedIsl s d)) d).path := by
  rw [gatedState_frame]

theorem gatedState_xl (s : State) (d : Nat) : (gatedState s d).xl = (gateLoss (setIsl s d (gatedIsl s d)) d).xl := by
  rw [gatedState_frame]

theorem gatedState_st (s : State) (d : Nat) : (gatedState s d).aon.fc.st = s.aon.fc.st := by
  refine (fcSt_of_calm (logPower_calm (gateLoss (setIsl s d (gatedIsl s d)) d) 0x0700 d)).trans ?_
  exact fcSt_of_calm (gateLoss_calm (setIsl s d (gatedIsl s d)) d)

theorem gatedState_canon {s : State} (hs : Canon s) (d : Nat) : Canon (gatedState s d) :=
  logPower_canon _ _ _ (gateLoss_canon _ _ (setIsl_canon _ _ _ hs))

theorem onlyClk_gated (s : State) (d : Nat) : OnlyClk (gatedState s d) (if (isl s d).wantWake then need (gatedState s d) d else gatedState s d) := by
  split
  · exact onlyClk_need _ _
  · exact .refl _

/-! ### The end of a wake -/

/-- A pending bit that rises sends messages: what it changes beside the ports is the requests of the block itself, the echo cache and the output. -/
theorem setPorts_frame (s : State) (p : Ports) :
    setPorts s p = { s with ports := (setPorts s p).ports, path := (setPorts s p).path, out := (setPorts s p).out } := by
  have hfold : ∀ (g : State → Nat → State) (l : List Nat) (u : State),
      (∀ v n, g v n = { v with ports := (g v n).ports, path := (g v n).path, out := (g v n).out }) →
      l.foldl g u = { u with ports := (l.foldl g u).ports, path := (l.foldl g u).path, out := (l.foldl g u).out } := by
    intro g l u hg
    induction l generalizing u with
    | nil => rfl
    | cons n l ih =>
      rw [List.foldl_cons, ih (g u n)]
      simp only
      rw [hg u n]
  unfold setPorts
  extract_lets old t
  refine (hfold _ _ t ?_).trans rfl
  intro v n
  split <;> rfl

theorem pendSrc_frame (s : State) (k : Nat) :
    pendSrc s k = { s with ports := (pendSrc s k).ports, path := (pendSrc s k).path, out := (pendSrc s k).out } := by
  unfold pendSrc
  split
  · exact setPorts_frame _ _
  · rfl

/-- What the end of a wake leaves beside the domain's own work: the clock page and the image. -/
def clkImg (s : State) : Clk × Option Image := (s.clk, s.img)

theorem clkImg_ext {s t : State} (hclk : t.clk = s.clk) (himg : t.img = s.img) : clkImg t = clkImg s := by simp only [clkImg, hclk, himg]

theorem clkImg_foldl {α : Type} {g : State → α → State} (h : ∀ s a, clkImg (g s a) = clkImg s) (l : List α) (s : State) :
    clkImg (l.foldl g s) = clkImg s := by
  induction l generalizing s with
  | nil => rfl
  | cons a l ih => exact (ih _).trans (h s a)

theorem clkImg_sendFetch (s : State) (c b : Nat) : clkImg (sendFetch s c b) = clkImg s := by
  unfold sendFetch
  extract_lets x t u
  exact (clkImg_foldl (g := fun s a => (ownReq s (memPortOf s a) 0 a (.fetch c)).1) (fun _ _ => rfl) _ t : clkImg u = clkImg t)

theorem clkImg_dueFetches (s : State) : clkImg (dueFetches s) = clkImg s := by
  refine clkImg_foldl (fun s c => ?_) _ _
  (repeat' split) <;> first | rfl | exact clkImg_sendFetch ..

/-- The state in which a walk's read has gone out. -/
def walkSent (s : State) (w : Walk) (m lane : Nat) : State :=
  let t := modWalk s w.id fun _ => { w with st := .reading }
  let r := ownReq (grantMem (setHalf t w.half { half t w.half with walkrd := (half t w.half).walkrd + 1 }) m lane) m 0 (entryAddr w) (.walk w.id)
  emit r.1 (.walk w.id m lane 1 (entryAddr w) (!ctxSecure t w.ctx) true 1 (r.2 % 65536))

theorem walkRead_powered {s : State} {w : Walk} (h : powered s (44 + memPortOf s (entryAddr w) / 2) = true) : ∃ lane,
    walkRead s w = if memFenced s (memPortOf s (entryAddr w)) lane then modWalk s w.id fun _ => { w with st := .reading }
      else walkSent s w (memPortOf s (entryAddr w)) lane := by
  refine ⟨(chanCfg s (w.reqs.headD ⟨0, 0, false, 0, false⟩).ch).mover, ?_⟩
  simp only [walkRead, h, walkSent]
  rfl

/-- The read of a walk whose port is powered. -/
theorem clkImg_chans_walkRead {s : State} {w : Walk} (h : powered s (44 + memPortOf s (entryAddr w) / 2) = true) :
    clkImg (walkRead s w) = clkImg s ∧ (walkRead s w).chans = s.chans := by
  obtain ⟨lane, hread⟩ := walkRead_powered h
  rw [hread]
  split
  · exact ⟨clkImg_ext rfl rfl, rfl⟩
  · simp only [walkSent, clkImg, emit_clk, emit_img, emit_chans, ownReq, ownReqAs, grantMem, setHalf, modWalk, setWalks, and_self]

theorem clkImg_chans_dueWalks (s : State) : clkImg (dueWalks s) = clkImg s ∧ (dueWalks s).chans = s.chans := by
  unfold dueWalks
  generalize s.xl.walks.filter _ = l
  induction l generalizing s with
  | nil => exact ⟨rfl, rfl⟩
  | cons w l ih =>
    rw [List.foldl_cons]
    split
    · next hp =>
      obtain ⟨hci, hch⟩ := clkImg_chans_walkRead hp
      exact ⟨(ih _).1.trans hci, (ih _).2.trans hch⟩
    · exact ih s

theorem clkImg_pendSrc (s : State) (k : Nat) : clkImg (pendSrc s k) = clkImg s := by
  rw [pendSrc_frame]
  rfl

theorem clkImg_wakeEffect (s : State) (d : Nat) : clkImg (wakeEffect s d) = clkImg s := by
  unfold wakeEffect
  split
  · extract_lets l
    split
    · refine (clkImg_pendSrc _ _).trans ?_
      simp [clkImg, setLink]
    · rfl
  · split
    · rfl
    · exact (clkImg_chans_dueWalks _).1.trans (clkImg_dueFetches s)

theorem dueFetches_none {s : State} (h : ∀ c, (chan s c).fetchDue = none) : dueFetches s = s := by
  unfold dueFetches
  induction tkeys s.chans with
  | nil => rfl
  | cons c l ih => rw [List.foldl_cons, h c, ih]

/-- A table's record is listed, or it is the reset record. -/
theorem tget_default_or_mem {α : Type} (d : Nat → α) (t : Tbl α) (i : Nat) : tget d t i = d i ∨ (i, tget d t i) ∈ t := by
  induction t with
  | nil => exact .inl rfl
  | cons e t ih =>
    unfold tget
    split
    · next h => exact .inr (h ▸ List.mem_cons_self)
    · split
      · exact .inl rfl
      · exact ih.imp_right (List.mem_cons_of_mem _)

theorem chan_fetchDue_none {s : State} (h : ∀ e ∈ s.chans, e.2.fetchDue = none) (c : Nat) : (chan s c).fetchDue = none := by
  obtain hd | hmem := tget_default_or_mem (fun _ => {}) s.chans c
  · rw [chan, hd]
  · exact h _ hmem

theorem wakeEffect_chans {s : State} (h : ∀ e ∈ s.chans, e.2.fetchDue = none) (d : Nat) : (wakeEffect s d).chans = s.chans := by
  have hnone := chan_fetchDue_none h
  unfold wakeEffect
  split
  · extract_lets l
    split
    · refine (chans_of_calm (pendSrc_calm _ _)).trans ?_
      simp
    · rfl
  · split
    · rfl
    · rw [dueFetches_none hnone]
      exact (clkImg_chans_dueWalks s).2

theorem startWakes_idle {s : State} (h : s.clk.wakeq = []) (n : Nat) : startWakes n s = s := by
  cases n with
  | zero => rfl
  | succ n => simp only [startWakes, h]

/-- The island as it stands once its wake has ended. -/
def wokenIsl (s : State) (d : Nat) : Island := { atFmin s d with wakes := satAdd 16 (isl s d).wakes 1 }

/-- The state in which a wake has ended and no other waits for it. -/
def wokenState (s : State) (d : Nat) : State := wakeEffect (logPower (setIsl s d (wokenIsl s d)) 0x0701 d) d

theorem clkImg_woken (s : State) (d : Nat) : clkImg (wokenState s d) = clkImg (setIsl s d (wokenIsl s d)) := by
  refine (clkImg_wakeEffect _ _).trans ?_
  simp only [clkImg, logPower_clk, (onlyAon_logPower _ _ _).img]

theorem exec_wakeComplete {s : State} {d : Dom} (hps : (isl s d.val).ps = .waking) (hraise : (isl s d.val).raise = false)
    (hphase : s.boot.phase = .running) (hcov : wakeCovered s d.val = true) (hq : s.clk.wakeq = []) :
    exec (.wakeComplete d) s = .next (wokenState s d.val) := by
  have hq' : (wokenState s d.val).clk.wakeq = [] := (congrArg (·.1.wakeq) (clkImg_woken s d.val)).trans hq
  have h : exec (.wakeComplete d) s = .next (startWakes 64 (wokenState s d.val)) := by
    simp [exec, execWakeComplete, hps, hraise, hphase, hcov, wokenState, wokenIsl]
  rw [h, startWakes_idle hq']

/-! ### MZ_WAKE_N (R362) -/

theorem zlog_queued {s : State} {island : Nat} (h : (s.aon.zt.q.filter fun e => e.ent.island == island).length < 16) (code a b : Nat) :
    ∃ e, (zlog s island code a b).aon.zt.q = s.aon.zt.q ++ [⟨e, false⟩] ∧ e.island = island ∧ e.code = BitVec.ofNat 16 code
      ∧ e.a0 = BitVec.ofNat 64 a ∧ e.a1 = BitVec.ofNat 64 b := by
  have h' : ¬ (s.aon.zt.q.filter fun e => e.ent.island == island).length ≥ 16 := Nat.not_le.mpr h
  refine ⟨⟨island, s.aon.fc.blkcnt, BitVec.ofNat 16 code, islSeq s island, cycleOf s island, BitVec.ofNat 64 a, BitVec.ofNat 64 b⟩,
    ?_, rfl, rfl, rfl, rfl⟩
  simp only [zlog, ztQueue, takeSeq, bump, setZt, h', if_false]

theorem zlog_dropped {s : State} {island : Nat} (h : ¬ (s.aon.zt.q.filter fun e => e.ent.island == island).length < 16) (code a b : Nat) :
    (zlog s island code a b).aon.zt.q = s.aon.zt.q := by
  have h' : (s.aon.zt.q.filter fun e => e.ent.island == island).length ≥ 16 := Nat.not_lt.mp h
  simp only [zlog, ztQueue, takeSeq, bump, setZt, h', if_true]

/-- The state in which the pin has fallen and its needs have reached their domains. -/
def wakeFallen (s : State) : State := [59, 60, 61, 62, 63].foldl need { s with pins := { s.pins with wakeN := false } }

theorem exec_wakeN {s : State} (hop : operating s = true) (hst : s.aon.fc.st ≠ .resetting) (hpin : s.pins.wakeN = true) :
    exec .wakeN s = .next (zlog (wakeFallen s) 0x3B 0x0F01 0 0) := by
  simp [exec, execWakeN, hop, hst, hpin, wakeFallen, pupIsland]

theorem onlyClk_wakeFallen (s : State) : OnlyClk { s with pins := { s.pins with wakeN := false } } (wakeFallen s) :=
  onlyClk_foldl onlyClk_need _ _

theorem domainGated_result {s : State} {d : Dom} (hs : Canon s) (hps : (isl s d.val).ps = .gating) :
    ∃ t, exec (.domainGated d) s = .next t ∧ t = { s with clk := t.clk, path := t.path, xl := t.xl, aon := t.aon, fresh := t.fresh }
      ∧ ((isl s d.val).wantWake = false → (isl t d.val).ps = .gated ∧ (isl t d.val).freq = 0 ∧ (isl t d.val).vi = 0
          ∧ ∀ k, k ≠ d.val → isl t k = isl s k)
      ∧ ((isl s d.val).wantWake = true → operating s = true → bankUnnamed s d.val = false →
          d.val ∈ t.clk.wakeq ∨ (isl t d.val).ps = .waking)
      ∧ (8 ≤ d.val → d.val < 12 → kq t (d.val - 8) = {})
      ∧ (12 ≤ d.val → d.val < 20 → md t (d.val - 12) = { md s (d.val - 12) with
          gen := if (md s (d.val - 12)).seed = 0 then 1 else (md s (d.val - 12)).seed })
      ∧ (d.val = 56 ∨ d.val = 57 → t.xl.tlb = s.xl.tlb.filter fun e => e.half != d.val - 56) := by
  have hclk := onlyClk_gated s d.val
  have hgated : ∀ k, isl (gatedState s d.val) k = isl (setIsl s d.val (gatedIsl s d.val)) k := isl_gatedState s d.val
  have hself := (hgated d.val).trans (isl_setIsl_self hs d.val _)
  refine ⟨_, exec_domainGated hps, ?_, fun hno => ?_, fun hwant hop hbank => ?_, fun h8 h12 => ?_, fun h12 h20 => ?_, fun h56 => ?_⟩
  · rw [hclk, gatedState_frame]
  · rw [hno, if_neg (by decide), hself]
    exact ⟨rfl, rfl, rfl, fun k hk => (hgated k).trans (isl_setIsl_other hs d.val _ hk)⟩
  · rw [if_pos hwant]
    refine wanted_need (gatedState_canon hs d.val) d.isLt (by rw [hself]; rfl) ?_ ?_
    · exact (operating_congr (by rw [gatedState_frame]) (gatedState_st s d.val)).trans hop
    · exact (bankUnnamed_congr (by rw [gatedState_frame]) d.val).trans hbank
  · have hpath := (congrArg State.path hclk).trans (gatedState_path s d.val)
    simp only [kq, hpath, gateLoss, h8, h12, and_self, if_true]
    exact kq_setKq_self (setIsl_canon _ _ _ hs) _ _
  · have hpath := (congrArg State.path hclk).trans (gatedState_path s d.val)
    have h8 : ¬ (8 ≤ d.val ∧ d.val < 12) := fun h => absurd h.2 (Nat.not_lt.mpr h12)
    simp only [md, hpath, gateLoss, h8, h12, h20, and_self, if_true, if_false]
    exact md_setMd_self (setIsl_canon _ _ _ hs) _ _
  · have hxl := (congrArg State.xl hclk).trans (gatedState_xl s d.val)
    have h8 : ¬ (8 ≤ d.val ∧ d.val < 12) := by omega
    have h12 : ¬ (12 ≤ d.val ∧ d.val < 20) := by omega
    rw [hxl, gateLoss, if_neg h8, if_neg h12, if_pos h56]
    rfl

theorem wakeComplete_result {s : State} {d : Dom} (hs : Canon s) (hps : (isl s d.val).ps = .waking) (hraise : (isl s d.val).raise = false)
    (hphase : s.boot.phase = .running) (hcov : wakeCovered s d.val = true) (hq : s.clk.wakeq = []) :
    ∃ t, exec (.wakeComplete d) s = .next t ∧ (isl t d.val).ps = .on ∧ (isl t d.val).wakes = min ((isl s d.val).wakes + 1) 65535
      ∧ (isl t d.val).freq = wakeFreq d.val (isl s d.val) ∧ (isl t d.val).vi = wakeVi s d.val
      ∧ (∀ k, k ≠ d.val → isl t k = isl s k) ∧ t.img = s.img
      ∧ ((∀ e ∈ s.chans, e.2.fetchDue = none) → t.chans = s.chans) := by
  have hci := clkImg_woken s d.val
  have hisl : ∀ k, isl (wokenState s d.val) k = isl (setIsl s d.val (wokenIsl s d.val)) k := fun k =>
    congrArg (fun x : Clk × Option Image => tget islDflt x.1.isl k) hci
  have hself := (hisl d.val).trans (isl_setIsl_self hs d.val _)
  refine ⟨_, exec_wakeComplete hps hraise hphase hcov hq, ?_, ?_, ?_, ?_, fun k hk => (hisl k).trans (isl_setIsl_other hs d.val _ hk),
    congrArg (·.2) hci, fun hnone => ?_⟩
  · rw [hself]; rfl
  · rw [hself]; rfl
  · rw [hself]; rfl
  · rw [hself]; rfl
  · have hchans : (logPower (setIsl s d.val (wokenIsl s d.val)) 0x0701 d.val).chans = s.chans := (onlyAon_logPower _ _ _).chans
    exact (wakeEffect_chans (by rw [hchans]; exact hnone) d.val).trans hchans

/-- The state after a fall of the pin in operation: the needs have reached their domains, and the firmware has recorded its event. -/
def wakeLogged (s : State) : State := zlog (wakeFallen s) 0x3B 0x0F01 0 0

theorem wakeLogged_q (s : State) : if (s.aon.zt.q.filter fun e => e.ent.island == 0x3B).length < 16
    then ∃ e, (wakeLogged s).aon.zt.q = s.aon.zt.q ++ [⟨e, false⟩] ∧ e.island = 0x3B ∧ e.code = 0x0F01 ∧ e.a0 = 0 ∧ e.a1 = 0
    else (wakeLogged s).aon.zt.q = s.aon.zt.q := by
  have hq : (wakeFallen s).aon.zt.q = s.aon.zt.q := by rw [onlyClk_wakeFallen s]
  split
  · next h =>
    obtain ⟨e, he, hisl, hcode, ha, hb⟩ := zlog_queued (s := wakeFallen s) (island := 0x3B) (by rw [hq]; exact h) 0x0F01 0 0
    exact ⟨e, by rw [wakeLogged, he, hq], hisl, hcode, ha, hb⟩
  · next h => rw [wakeLogged, zlog_dropped (by rw [hq]; exact h), hq]

theorem wakeLogged_pins (s : State) : (wakeLogged s).pins = { s.pins with wakeN := false } := by
  rw [wakeLogged, zlog_pins, onlyClk_wakeFallen s]

theorem wakeLogged_clk (s : State) : (wakeLogged s).clk = (wakeFallen s).clk := zlog_clk _ _ _ _ _

theorem wakeLogged_frame (s : State) :
    wakeLogged s = { s with pins := (wakeLogged s).pins, clk := (wakeLogged s).clk, aon := (wakeLogged s).aon, fresh := (wakeLogged s).fresh } := by
  have hframe : OnlyAon (wakeFallen s) (wakeLogged s) := onlyAon_zlog (wakeFallen s) 0x3B 0x0F01 0 0
  have hclk := onlyClk_wakeFallen s
  rw [wakeLogged_pins, wakeLogged_clk]
  exact Eq.trans hframe (congrArg (fun t : State => { t with aon := (wakeLogged s).aon, fresh := (wakeLogged s).fresh }) hclk)

theorem wanted_wakeFallen {s : State} (hs : Canon s) (hop : operating s = true) {d : Nat} (h59 : 59 ≤ d) (h63 : d ≤ 63)
    (hgated : (isl s d).ps = .gated) : Wanted (wakeFallen s) d := by
  have hmem : d ∈ [59, 60, 61, 62, 63] := by
    simp only [List.mem_cons, List.not_mem_nil, or_false]
    omega
  have hbank : bankUnnamed s d = false := by simp [bankUnnamed, show ¬ d < 36 by omega]
  exact wanted_foldl_need (s := { s with pins := { s.pins with wakeN := false } }) { hs with } (by omega) hgated hop hbank hmem

theorem wakeLogged_wakes {s : State} (hs : Canon s) (hop : operating s = true) {d : Nat} (h59 : 59 ≤ d) (h63 : d ≤ 63)
    (hgated : (isl s d).ps = .gated) : d ∈ (wakeLogged s).clk.wakeq ∨ (isl (wakeLogged s) d).ps = .waking := by
  have hw := wanted_wakeFallen hs hop h59 h63 hgated
  simp only [isl, wakeLogged_clk]
  simpa only [Wanted, isl] using hw

theorem wakeN_result {s : State} (hs : Canon s) (hop : operating s = true) (hst : s.aon.fc.st ≠ .resetting) (hpin : s.pins.wakeN = true) :
    ∃ t, exec .wakeN s = .next t ∧ t.pins = { s.pins with wakeN := false }
      ∧ (∀ d, 59 ≤ d → d ≤ 63 → (isl s d).ps = .gated → d ∈ t.clk.wakeq ∨ (isl t d).ps = .waking)
      ∧ (if (s.aon.zt.q.filter fun e => e.ent.island == 0x3B).length < 16
          then ∃ e, t.aon.zt.q = s.aon.zt.q ++ [⟨e, false⟩] ∧ e.island = 0x3B ∧ e.code = 0x0F01 ∧ e.a0 = 0 ∧ e.a1 = 0
          else t.aon.zt.q = s.aon.zt.q)
      ∧ t = { s with pins := t.pins, clk := t.clk, aon := t.aon, fresh := t.fresh } :=
  ⟨wakeLogged s, exec_wakeN hop hst hpin, wakeLogged_pins s, fun _ h59 h63 hgated => wakeLogged_wakes hs hop h59 h63 hgated, wakeLogged_q s,
    wakeLogged_frame s⟩

/-- Settles O16: a need asks for the wake of its domain (`wanted_need`), and what follows keeps it asked for (`NeedKeeps`). -/
theorem domainsGateAndWake : Obligations.DomainsGateAndWake := by
  refine ⟨⟨fun s d hop hps hpol hbusy => ?_, fun s d => domainGated_result, fun s d hbank => ?_, fun s d hs hps hop hbank => ?_,
    fun s d => wakeComplete_result⟩, fun s => wakeN_result, fun s hor => ?_⟩
  · obtain ⟨hphase, hst⟩ := operating_iff.mp hop
    simp [exec, execDomainIdleExpire, hphase, hst, hps, hpol, hbusy]
  · simp only [exec, execWakeRequest, need_bankUnnamed hbank]
  · exact ⟨_, rfl, wanted_need hs d.isLt hps hop hbank, onlyClk_need s d.val⟩
  · obtain hpin | hop := hor
    · simp [exec, execWakeN, hpin]
    · simp [exec, execWakeN, hop]

end Sys2Proof.Proofs
end

section
/-! The fault collector: the arrival and the counting of events, and the changes of state (R328 to R337). -/

namespace Sys2Proof.Proofs

open Sys2Proof Sys2Proof.Machine Sys2Proof.Laws

/-! ### The record and the collector -/

@[simp] theorem ztWrite_aon_fc (s : State) (e : ZtEnt) : (ztWrite s e).aon.fc = s.aon.fc := (ztWrite_foldl_keeps [e] s).1

@[simp] theorem ztWrite_frozen (s : State) (e : ZtEnt) : (ztWrite s e).aon.zt.frozen = s.aon.zt.frozen := by
  unfold ztWrite
  extract_lets
  split <;> rfl

theorem foldl_keeps {α β : Type} (v : State → β) {g : State → α → State} (h : ∀ s a, v (g s a) = v s) (l : List α) (s : State) :
    v (l.foldl g s) = v s := by
  induction l generalizing s with
  | nil => rfl
  | cons a l ih => exact (ih _).trans (h s a)

@[simp] theorem ztTakeN_frozen (s : State) (n : Nat) : (ztTakeN s n).aon.zt.frozen = s.aon.zt.frozen :=
  foldl_keeps (fun s => s.aon.zt.frozen) ztWrite_frozen _ _

@[simp] theorem aonLog_frozen (s : State) (code a b : Nat) : (aonLog s code a b).aon.zt.frozen = s.aon.zt.frozen := ztWrite_frozen _ _

@[simp] theorem ztQueue_frozen (s : State) (e : ZtEnt) (w : Bool) : (ztQueue s e w).aon.zt.frozen = s.aon.zt.frozen := by
  unfold ztQueue
  extract_lets
  split <;> rfl

@[simp] theorem zlog_frozen (s : State) (island code a b : Nat) : (zlog s island code a b).aon.zt.frozen = s.aon.zt.frozen := ztQueue_frozen _ _ _

@[simp] theorem logPower_frozen (s : State) (code d : Nat) : (logPower s code d).aon.zt.frozen = s.aon.zt.frozen := by
  unfold logPower
  split <;> simp

/-! ### The sources -/

/-- From `s` to `t` nothing has changed but the sources' records. -/
def OnlySrc (s t : State) : Prop := t = setFc s { s.aon.fc with src := t.aon.fc.src }

theorem OnlySrc.refl (s : State) : OnlySrc s s := rfl

theorem OnlySrc.trans {s t u : State} (h : OnlySrc s t) (k : OnlySrc t u) : OnlySrc s u := by
  unfold OnlySrc at *
  rw [k, h]
  rfl

theorem onlySrc_setSrc (s : State) (i : Nat) (x : Src) : OnlySrc s (setSrc s i x) := rfl

theorem onlySrc_foldl {F : State → Nat → State} (h : ∀ s i, OnlySrc s (F s i)) (l : List Nat) (s : State) : OnlySrc s (l.foldl F s) := by
  induction l generalizing s with
  | nil => exact .refl s
  | cons a l ih => exact (h s a).trans (ih _)

theorem src_setSrc_self {s : State} (h : Canon s) (i x) : src (setSrc s i x) i = x := tget_tset_self _ _ h.src

theorem src_setSrc_other {s : State} (h : Canon s) (i x) {k} (hk : k ≠ i) : src (setSrc s i x) k = src s k := tget_tset_other _ _ h.src hk

/-- A step of a source: it changes that source by `g`, which has its whole effect the first time. -/
structure SrcStep (F : State → Nat → State) (g : Nat → Src → Src) : Prop where
  canon : ∀ s i, Canon s → Canon (F s i)
  self : ∀ s i, Canon s → src (F s i) i = g i (src s i)
  other : ∀ s i j, Canon s → j ≠ i → src (F s i) j = src s j
  idem : ∀ i x, g i (g i x) = g i x

theorem SrcStep.foldl {F : State → Nat → State} {g : Nat → Src → Src} (h : SrcStep F g) (l : List Nat) {s : State} (hs : Canon s) (j : Nat) :
    src (l.foldl F s) j = if j ∈ l then g j (src s j) else src s j := by
  induction l generalizing s with
  | nil => rfl
  | cons i l ih =>
    rw [List.foldl_cons, ih (h.canon s i hs)]
    by_cases hj : j = i
    · subst hj
      simp [h.self s j hs, h.idem]
    · simp [h.other s i j hs hj, hj]

/-- A step that replaces each source's record. -/
theorem srcStep_setSrc {g : Nat → Src → Src} (h : ∀ i x, g i (g i x) = g i x) : SrcStep (fun s i => setSrc s i (g i (src s i))) g where
  canon _ _ hs := setSrc_canon _ _ _ hs
  self _ i hs := src_setSrc_self hs i _
  other _ i _ hs hj := src_setSrc_other hs i _ hj
  idem := h

/-- A source that is not listed has the reset record. -/
theorem src_of_not_mem {s : State} {j : Nat} (h : j ∉ tkeys s.aon.fc.src) : src s j = srcDflt j := by
  refine (tget_default_or_mem srcDflt s.aon.fc.src j).resolve_right fun hmem => h ?_
  exact List.mem_map.mpr ⟨_, hmem, rfl⟩

/-! ### The arrival of one event (R305, R346) -/

/-- What an arrival leaves: all but the record, the events on their way, the translation unit, the pending bits and what they send. -/
structure Arrives (s t : State) : Prop where
  frame : t = { s with aon := t.aon, xl := t.xl, fresh := t.fresh, ports := t.ports, path := t.path, out := t.out }
  fc : fcStill t.aon.fc = fcStill s.aon.fc

theorem Arrives.refl (s : State) : Arrives s s := ⟨rfl, rfl⟩

theorem Arrives.trans {s t u : State} (h : Arrives s t) (k : Arrives t u) : Arrives s u :=
  ⟨by rw [k.frame, h.frame], k.fc.trans h.fc⟩

theorem arrives_of_onlyAon {s t : State} (h : OnlyAon s t) (hfc : t.aon.fc = s.aon.fc) : Arrives s t :=
  ⟨by rw [h], by rw [hfc]⟩

theorem arrives_foldl {α : Type} {g : State → α → State} (h : ∀ s a, Arrives s (g s a)) (l : List α) (s : State) : Arrives s (l.foldl g s) := by
  induction l generalizing s with
  | nil => exact .refl s
  | cons a l ih => exact (h s a).trans (ih _)

theorem arrives_ztWrite (s : State) (e : ZtEnt) : Arrives s (ztWrite s e) := arrives_of_onlyAon (onlyAon_ztWrite s e) (ztWrite_aon_fc s e)

theorem arrives_ztTakeN (s : State) (n : Nat) : Arrives s (ztTakeN s n) := arrives_of_onlyAon (onlyAon_ztTakeN s n) (ztTakeN_aon_fc s n)

theorem arrives_ztFill (s : State) (q : EvQ) : Arrives s (ztFill s q) := by
  unfold ztFill
  extract_lets e
  split
  · exact .trans (t := takeSeq s 0x40) ⟨rfl, rfl⟩ (arrives_ztWrite _ _)
  · exact ⟨rfl, rfl⟩

theorem arrives_ztUrgent (s : State) (is : List Nat) : Arrives s (ztUrgent s is) := by
  unfold ztUrgent
  extract_lets p
  exact .trans (t := setZt s { s.aon.zt with q := s.aon.zt.q.filter fun w => !p w }) ⟨rfl, rfl⟩
    (arrives_foldl (fun s (w : ZtQ) => arrives_ztWrite s w.ent) _ _)

theorem arrives_pendSrc (s : State) (k : Nat) : Arrives s (pendSrc s k) := by
  refine ⟨?_, by rw [pendSrc_aon]⟩
  rw [pendSrc_frame]

theorem arrives_outsideEvent (s : State) (e : FaultEv) : Arrives s (outsideEvent s e) := by
  unfold outsideEvent
  split
  · unfold parityHit
    extract_lets region
    split <;> exact ⟨rfl, rfl⟩
  · exact .refl s

theorem arrives_arrive1 (s : State) (e : FaultEv) : Arrives s (arrive1 s e).1 := by
  unfold arrive1
  split
  · exact ⟨rfl, rfl⟩
  · extract_lets t i q
    refine (arrives_outsideEvent s e).trans (.trans ?_ ⟨rfl, rfl⟩)
    split
    · exact .refl _
    · exact arrives_of_onlyAon ((onlyAon_takeSeq _ _).trans (onlyAon_ztQueue _ _ _)) (ztQueue_aon_fc _ _ _)

section
variable {s t : State} (h : Arrives s t)
include h

theorem Arrives.boot : t.boot = s.boot := by rw [h.frame]
theorem Arrives.img : t.img = s.img := by rw [h.frame]
theorem Arrives.pins : t.pins = s.pins := by rw [h.frame]
theorem Arrives.links : t.links = s.links := by rw [h.frame]
theorem Arrives.stage : t.stage = s.stage := by rw [h.frame]
theorem Arrives.clk : t.clk = s.clk := by rw [h.frame]

theorem Arrives.src (i : Nat) : src t i = src s i := by
  have hsrc : t.aon.fc.src = s.aon.fc.src := (congrArg Fc.src h.fc :)
  simp only [Machine.src, hsrc]

theorem Arrives.acyc : t.aon.fc.acyc = s.aon.fc.acyc := (congrArg Fc.acyc h.fc :)
theorem Arrives.st : t.aon.fc.st = s.aon.fc.st := (congrArg Fc.st h.fc :)
theorem Arrives.acked : t.aon.fc.acked = s.aon.fc.acked := (congrArg Fc.acked h.fc :)

end

/-! ### The counting of one event (R329) -/

/-- The state with an event's A-cycle begun. -/
def cycleBegun (s : State) : State := setFc s { s.aon.fc with acyc := s.aon.fc.acyc + 1 }

/-- The state in which an event has arrived and been counted. -/
def counted (s : State) (e : FaultEv) : State :=
  let r := (arrive1 (cycleBegun s) e).1
  setSrc r e.src.val (srcCount (src r e.src.val) r.aon.fc.acyc 1)

/-- The sources that one event makes severe. -/
def newly (s : State) (e : FaultEv) : List Nat :=
  [e.src.val].filter fun i => !(src s i).sev && (src (counted s e) i).sev

/-- The state in which the event has been recorded, before what a severe source leads to. -/
def recorded (s : State) (e : FaultEv) : State :=
  let t := ztDrain (ztFill (counted s e) (arrive1 (cycleBegun s) e).2)
  let t := if newly s e = [] then t else ztUrgent (ztFlush t) (newly s e)
  if [e.src.val].any fun i => !(src t i).sev then pendSrc t 2 else t

theorem collect_one (s : State) (e : FaultEv) : ∃ q, collect s [e] =
    setFc (severe (recorded s e) (newly s e)) { (severe (recorded s e) (newly s e)).aon.fc with quiet := q } := by
  have hd : dedup [e.src.val] = [e.src.val] := rfl
  have hc : ∀ u : State, countAll u [e.src.val] = setSrc u e.src.val (srcCount (src u e.src.val) u.aon.fc.acyc 1) := by
    intro u
    simp [countAll, hd]
  have h : collect s [e] = if [e.src.val].any fun i => (src (severe (recorded s e) (newly s e)) i).act != .note
      then setFc (severe (recorded s e) (newly s e)) { (severe (recorded s e) (newly s e)).aon.fc with
        quiet := (severe (recorded s e) (newly s e)).aon.fc.acyc } else severe (recorded s e) (newly s e) := by
    simp only [collect, List.map_cons, List.map_nil, arriveAll, hc, hd]
    rfl
  rw [h]
  split
  · exact ⟨_, rfl⟩
  · exact ⟨(severe (recorded s e) (newly s e)).aon.fc.quiet, rfl⟩

theorem arrives_recorded (s : State) (e : FaultEv) : Arrives (counted s e) (recorded s e) := by
  unfold recorded
  extract_lets t u
  have ht : Arrives (counted s e) t := (arrives_ztFill _ _).trans (arrives_ztTakeN _ _)
  have hu : Arrives (counted s e) u := by
    refine ht.trans ?_
    simp only [u]
    split
    · exact .refl _
    · exact (arrives_ztTakeN _ _).trans (arrives_ztUrgent _ _)
  split
  · exact hu.trans (arrives_pendSrc _ _)
  · exact hu

theorem arrives_cycleBegun (s : State) (e : FaultEv) : Arrives (cycleBegun s) (arrive1 (cycleBegun s) e).1 := arrives_arrive1 _ _

theorem arrived_canon {s : State} (hs : Canon s) (e : FaultEv) : Canon (arrive1 (cycleBegun s) e).1 := arrive1_canon _ _ (setFc_canon _ _ hs (canon_src hs))

/-- The counted source, and the others. -/
theorem src_counted {s : State} (hs : Canon s) (e : FaultEv) :
    src (counted s e) e.src.val = srcCount (src s e.src.val) (s.aon.fc.acyc + 1) 1
      ∧ ∀ j, j ≠ e.src.val → src (counted s e) j = src s j := by
  have harr := arrives_cycleBegun s e
  have hsrc : ∀ j, src (arrive1 (cycleBegun s) e).1 j = src s j := harr.src
  refine ⟨?_, fun j hj => ?_⟩
  · rw [counted, src_setSrc_self (arrived_canon hs e), hsrc, harr.acyc]
    rfl
  · rw [counted, src_setSrc_other (arrived_canon hs e) _ _ hj, hsrc]

theorem acyc_counted (s : State) (e : FaultEv) : (counted s e).aon.fc.acyc = s.aon.fc.acyc + 1 := (arrives_cycleBegun s e).acyc

/-- What one event does to its source's record (R329). -/
theorem srcCount_one (x : Src) (t : Nat) :
    let base := if x.opn && decide (x.w0 + 2 ^ x.k ≤ t) then 0 else x.c
    let c := min (base + 1) 255
    (srcCount x t 1).c = c ∧ (srcCount x t 1).life = min (x.life + 1) (2 ^ 24 - 1) ∧ (srcCount x t 1).opn = true
      ∧ (srcCount x t 1).sev = (x.sev || (decide (x.n ≤ c) && x.act != .note)) := by
  cases hopn : x.opn with
  | false => simp [srcCount, hopn]
  | true =>
    by_cases ht : x.w0 + 2 ^ x.k ≤ t <;> simp [srcCount, hopn, ht]

/-! ### Changes of state (R331, R333) -/

/-- The sources' records and the count of A-cycles. -/
def srcsCyc (s : State) : Tbl Src × Nat := (s.aon.fc.src, s.aon.fc.acyc)

theorem srcsCyc_fcGo (s : State) (st : FcSt) (cause : Nat) : srcsCyc (fcGo s st cause) = srcsCyc s := by simp only [srcsCyc, fcGo_aon_fc]

theorem srcsCyc_safeEnter (s : State) : srcsCyc (safeEnter s) = srcsCyc s := by
  have hsrc := congrArg Fc.src (safeEnter_keeps s).2.2.2
  have hacyc := congrArg Fc.acyc (safeEnter_keeps s).2.2.2
  simp only [fcStill] at hsrc hacyc
  simp only [srcsCyc, hsrc, hacyc]

/-- The state of the freeze, the pending bit and the change of state behind newly severe sources, but for the loss of the safe state. -/
def severed (s : State) (n : Option (FcSt × Nat)) : State :=
  pendSrc (ztFreeze (match n with | some e => fcGo (bump s) e.1 e.2 | none => s)) 1

theorem severe_cons {s : State} {l : List Nat} (h : l ≠ []) : severe s l = match fcNext s l with
    | some (.safe, _) => safeEnter (severed s (fcNext s l))
    | _ => severed s (fcNext s l) := by
  unfold severe
  rw [if_neg h]
  rfl

theorem srcsCyc_severed (s : State) (n : Option (FcSt × Nat)) : srcsCyc (severed s n) = srcsCyc s := by
  have hp : ∀ t : State, srcsCyc (pendSrc (ztFreeze t) 1) = srcsCyc t := fun t => by simp only [srcsCyc, pendSrc_aon]; rfl
  refine (hp _).trans ?_
  cases n with
  | none => rfl
  | some e => exact srcsCyc_fcGo (bump s) e.1 e.2

theorem srcsCyc_severe (s : State) (l : List Nat) : srcsCyc (severe s l) = srcsCyc s := by
  by_cases h : l = []
  · rw [severe, if_pos h]
  · rw [severe_cons h]
    split
    · exact (srcsCyc_safeEnter _).trans (srcsCyc_severed s _)
    · exact srcsCyc_severed s _

theorem exec_faultEvent {s : State} {e : FaultEv} (hphase : s.boot.phase ≠ .cold) (hwf : e.wf = true) :
    exec (.faultEvent [e]) s = .next (collect s [e]) := by
  simp [exec, execFaultEvent, hwf, hphase]

theorem srcsCyc_collect (s : State) (e : FaultEv) : srcsCyc (collect s [e]) = srcsCyc (counted s e) := by
  obtain ⟨q, hcol⟩ := collect_one s e
  have hrec := arrives_recorded s e
  have hq : srcsCyc (recorded s e) = srcsCyc (counted s e) := by
    simp only [srcsCyc, hrec.acyc]
    rw [show (recorded s e).aon.fc.src = (counted s e).aon.fc.src from (congrArg Fc.src hrec.fc :)]
  calc srcsCyc (collect s [e]) = srcsCyc (severe (recorded s e) (newly s e)) := by rw [hcol]; rfl
    _ = srcsCyc (recorded s e) := srcsCyc_severe _ _
    _ = srcsCyc (counted s e) := hq

theorem src_collect (s : State) (e : FaultEv) (j : Nat) : src (collect s [e]) j = src (counted s e) j :=
  congrArg (fun x : Tbl Src × Nat => tget srcDflt x.1 j) (srcsCyc_collect s e)

/-- Settles O17: what follows the count of an event leaves the sources' records (`srcsCyc_collect`). -/
theorem faultEventsCountInWindows : Obligations.FaultEventsCountInWindows := by
  refine ⟨fun s e hs hphase hwf => ?_, fun s i hopn => ?_⟩
  · obtain ⟨hself, hother⟩ := src_counted hs e
    refine ⟨_, exec_faultEvent hphase hwf, ?_, fun j hj => ?_, ?_⟩
    · rw [src_collect, hself]
      exact srcCount_one (src s e.src.val) (s.aon.fc.acyc + 1)
    · rw [src_collect, hother j hj]
    · exact (congrArg (·.2) (srcsCyc_collect s e)).trans (acyc_counted s e)
  · have hexec : exec (.faultWindowClose i) s = .next (setFc (setSrc s i.val { src s i.val with opn := false, c := 0 })
        { (setSrc s i.val { src s i.val with opn := false, c := 0 }).aon.fc with
          acyc := max s.aon.fc.acyc ((src s i.val).w0 + 2 ^ (src s i.val).k) }) := by
      simp only [exec, execFaultWindowClose, hopn, if_true]
      rfl
    exact ⟨_, hexec, fun hs => src_setSrc_self hs _ _, fun hs j hj => src_setSrc_other hs _ _ hj, rfl⟩

end Sys2Proof.Proofs
end

section
/-! The fault collector: SAFE, ALERT, parity errors, escalation and exits (R331 to R338). -/

namespace Sys2Proof.Proofs

open Sys2Proof Sys2Proof.Machine Sys2Proof.Laws

/-! ### What the entry into SAFE loses (R335) -/

/-- The state of the entry into SAFE before its domains are gated. -/
def safeCut (s : State) : State :=
  let s := inboundError s
  let s := (tkeys s.links).foldl (fun s p => linkTo s p .off) s
  let s := (tkeys s.chans).foldl chanLoss s
  { s with
    links := [], hub := {}
    path := { s.path with slots := [], waitq := [], lines := [], echo := [], echoFlush := false }
    stage := { s.stage with mem := [], bad := [] }
    xl := { s.xl with walks := [], tlb := [], invBusy := false }
    ports := { s.ports with cp := [], own := [], inq := s.ports.inq.filter fun q => !q.taken }
    clk := { s.clk with wakeq := [], settling := false } }

/-- The quiet count starts. -/
def quietBegun (s : State) : State := setFc s { s.aon.fc with quiet := s.aon.fc.acyc }

theorem safeEnter_eq (s : State) : safeEnter s = quietBegun ((List.range 64).foldl safeGate (safeCut s)) := by
  unfold safeEnter
  generalize List.range 64 = l
  rfl

theorem safeCut_canon {s : State} (hs : Canon s) : Canon (safeCut s) := by
  simp +contextual (maxDischargeDepth := 12) [safeCut, hs]

@[simp] theorem setPorts_frozen (s : State) (p : Ports) : (setPorts s p).aon.zt.frozen = s.aon.zt.frozen := by rw [setPorts_aon]

@[simp] theorem linkTo_frozen (s : State) (p : Nat) (st : LinkSt) : (linkTo s p st).aon.zt.frozen = s.aon.zt.frozen := by
  unfold linkTo
  extract_lets l t
  split
  · rfl
  · rw [pendSrc_aon, zlog_frozen]
    rfl

theorem inboundError_aon (s : State) : (inboundError s).aon = s.aon := by
  unfold inboundError
  extract_lets t
  have ht : t.aon = s.aon := foldl_keeps State.aon (g := fun s (q : InReq) => emit s (.resp q.core q.port q.req.id 2 0)) (fun _ _ => rfl) _ _
  refine (foldl_keeps State.aon (fun s l => ?_) _ _).trans ht
  split <;> rfl

/-- What the gating of the safe state leaves. -/
def lossView (s : State) : Tbl Link × Hub × Stage × List Line × Bool := (s.links, s.hub, s.stage, s.path.lines, s.aon.zt.frozen)

theorem lossView_safeGate (s : State) (d : Nat) : lossView (safeGate s d) = lossView s := by
  unfold safeGate
  extract_lets x
  split
  · rfl
  · have hloss : ∀ t : State, lossView (gateLoss t d) = lossView t := fun t => by
      unfold gateLoss
      (repeat' split) <;> simp only [lossView, setKq, setMd]
    have hlog : ∀ t : State, lossView (logPower t 0x0700 d) = lossView t := fun t => by
      have h := onlyAon_logPower t 0x0700 d
      simp only [lossView, h.links, h.hub, h.stage, h.path, logPower_frozen]
    rw [hlog, hloss]
    simp only [lossView, setIsl]

theorem safeCut_frozen (s : State) : (safeCut s).aon.zt.frozen = s.aon.zt.frozen := by
  have h1 := foldl_keeps (fun s => s.aon.zt.frozen) (fun s p => linkTo_frozen s p .off) (tkeys (inboundError s).links) (inboundError s)
  have h2 := foldl_keeps (fun s => s.aon.zt.frozen) (g := chanLoss) (fun _ _ => rfl)
    (tkeys ((tkeys (inboundError s).links).foldl (fun s p => linkTo s p .off) (inboundError s)).chans)
    ((tkeys (inboundError s).links).foldl (fun s p => linkTo s p .off) (inboundError s))
  refine (h2.trans h1).trans ?_
  simp only [inboundError_aon]

/-- SAFE takes down the links, the hub, the lines and stage memory, and leaves the record frozen or not. -/
theorem safeEnter_loses (s : State) : (safeEnter s).links = [] ∧ (safeEnter s).hub = {} ∧ (safeEnter s).stage.mem = []
    ∧ (safeEnter s).path.lines = [] ∧ (safeEnter s).aon.zt.frozen = s.aon.zt.frozen := by
  have h := foldl_keeps lossView lossView_safeGate (List.range 64) (safeCut s)
  rw [safeEnter_eq]
  generalize (List.range 64).foldl safeGate (safeCut s) = t at h ⊢
  simp only [lossView, Prod.mk.injEq] at h
  obtain ⟨hlinks, hhub, hstage, hlines, hfrozen⟩ := h
  exact ⟨hlinks, hhub, congrArg Stage.mem hstage, hlines, hfrozen.trans (safeCut_frozen s)⟩

theorem isl_logGate (s : State) (d k : Nat) : isl (logPower (gateLoss s d) 0x0700 d) k = isl s k := by
  simp only [isl, logPower_clk]
  rw [gateLoss_frame]

theorem safeGate_gates {s : State} (hs : Canon s) (d : Nat) :
    (d ≠ 44 → (isl (safeGate s d) d).ps = .gated) ∧ ∀ k, (isl s k).ps = .gated → (isl (safeGate s d) k).ps = .gated := by
  unfold safeGate
  extract_lets x
  split
  · next h =>
    refine ⟨fun hd => ?_, fun _ hk => hk⟩
    simpa [hd, x] using h
  · refine ⟨fun _ => ?_, fun k hk => ?_⟩
    · rw [isl_logGate, isl_setIsl_self hs]
    · rw [isl_logGate]
      by_cases hkd : k = d
      · rw [hkd, isl_setIsl_self hs]
      · rw [isl_setIsl_other hs _ _ hkd, hk]

theorem foldl_safeGate_gates {l : List Nat} {s : State} (hs : Canon s) {d : Nat} (hd : d ≠ 44)
    (h : d ∈ l ∨ (isl s d).ps = .gated) : (isl (l.foldl safeGate s) d).ps = .gated := by
  induction l generalizing s with
  | nil => exact h.resolve_left (List.not_mem_nil)
  | cons a l ih =>
    have hcanon := safeGate_canon s a hs
    obtain ⟨hself, hkeep⟩ := safeGate_gates hs a
    obtain hmem | hps := h
    · obtain rfl | hmem := List.mem_cons.mp hmem
      · exact ih hcanon (.inr (hself hd))
      · exact ih hcanon (.inl hmem)
    · exact ih hcanon (.inr (hkeep d hps))

/-- In SAFE every domain but PD44 and AON is gated. -/
theorem safeEnter_gates {s : State} (hs : Canon s) {d : Nat} (hd : d < 64) (h44 : d ≠ 44) : (isl (safeEnter s) d).ps = .gated := by
  have h := foldl_safeGate_gates (safeCut_canon hs) h44 (.inl (List.mem_range.mpr hd))
  rw [safeEnter_eq]
  generalize (List.range 64).foldl safeGate (safeCut s) = t at h ⊢
  exact h

theorem fc_of_fcStill {x y : Fc} (h : fcStill x = y) : x = { y with evq := x.evq } := by rw [← h]; rfl

theorem safeEnter_fc (s : State) : (safeEnter s).aon.fc =
    { s.aon.fc with quiet := s.aon.fc.acyc, evq := (safeEnter s).aon.fc.evq } := fc_of_fcStill (safeEnter_keeps s).2.2.2

/-- What the entry into SAFE leaves and loses. -/
structure InSafe (s t : State) : Prop where
  links : t.links = []
  hub : t.hub = {}
  mem : t.stage.mem = []
  lines : t.path.lines = []
  frozen : t.aon.zt.frozen = s.aon.zt.frozen
  gated : Canon s → ∀ d, d < 64 → d ≠ 44 → (isl t d).ps = .gated
  fc : t.aon.fc = { s.aon.fc with quiet := s.aon.fc.acyc, evq := t.aon.fc.evq }
  boot : t.boot = s.boot
  img : t.img = s.img

theorem inSafe_safeEnter (s : State) : InSafe s (safeEnter s) := by
  obtain ⟨hlinks, hhub, hmem, hlines, hfrozen⟩ := safeEnter_loses s
  obtain ⟨hboot, himg, -, -⟩ := safeEnter_keeps s
  exact ⟨hlinks, hhub, hmem, hlines, hfrozen, fun hs d hd h44 => safeEnter_gates hs hd h44, safeEnter_fc s, hboot, himg⟩

/-! ### A source becomes severe (R331, R333) -/

/-- From `s` to `t` nothing has changed but the always-on island, the pending bits and what they send. -/
def AonPorts (s t : State) : Prop := t = { s with aon := t.aon, fresh := t.fresh, ports := t.ports, path := t.path, out := t.out }

theorem AonPorts.trans {s t u : State} (h : AonPorts s t) (k : AonPorts t u) : AonPorts s u := by
  unfold AonPorts at *
  rw [k, h]

theorem aonPorts_of_onlyAon {s t : State} (h : OnlyAon s t) : AonPorts s t := by
  unfold AonPorts
  rw [h]

theorem aonPorts_pendSrc (s : State) (k : Nat) : AonPorts s (pendSrc s k) := by
  unfold AonPorts
  rw [pendSrc_frame]

/-- What a change of state does: the collector's state and cause, a freeze and a pending bit. -/
structure Severed (s t : State) (st : FcSt) (cause : Nat) : Prop where
  fc : t.aon.fc = { s.aon.fc with
    st := st, cause := cause, acked := s.aon.fc.acked && st != .alert, stuck := s.aon.fc.stuck && st != .resetting }
  frozen : t.aon.zt.frozen = true
  frame : AonPorts s t
  canon : Canon s → Canon t

theorem severed_some (s : State) (st : FcSt) (cause : Nat) : Severed s (severed s (some (st, cause))) st cause := by
  have hgo : OnlyAon s (fcGo (bump s) st cause) := .trans (t := bump s) rfl (.trans (t := setFc (bump s) _) rfl (onlyAon_aonLog _ _ _ _))
  have haon : (severed s (some (st, cause))).aon = (ztFreeze (fcGo (bump s) st cause)).aon := pendSrc_aon _ _
  refine ⟨?_, ?_, ?_, fun hs => pendSrc_canon _ _ (ztFreeze_canon _ (fcGo_canon _ _ _ (bump_canon _ hs)))⟩
  · rw [haon]
    exact fcGo_aon_fc (bump s) st cause
  · rw [haon]
    rfl
  · exact (aonPorts_of_onlyAon (hgo.trans (u := ztFreeze (fcGo (bump s) st cause)) rfl)).trans (aonPorts_pendSrc _ _)

theorem fcNext_one {s : State} {i : Nat} (h : (src s i).act = .safe) (hst : s.aon.fc.st = .normal ∨ s.aon.fc.st = .alert) :
    fcNext s [i] = some (.safe, i) := by
  obtain hst | hst := hst <;> simp [fcNext, h, hst, Nat.mod_one]

theorem fcNext_one_alert {s : State} {i : Nat} (h : (src s i).act = .alert) (hst : s.aon.fc.st = .normal) :
    fcNext s [i] = some (.alert, i) := by
  simp [fcNext, h, hst, Nat.mod_one]

theorem srcCount_act (x : Src) (t m : Nat) : (srcCount x t m).act = x.act := by
  unfold srcCount
  extract_lets y z c
  simp only [z, y]
  (repeat' split) <;> rfl

/-- The event makes its source severe. -/
structure MakesSevere (s : State) (e : FaultEv) : Prop where
  sev : (src s e.src.val).sev = false
  closed : (src s e.src.val).opn = false
  count : (src s e.src.val).n ≤ min ((src s e.src.val).c + 1) 255
  act : (src s e.src.val).act ≠ .note

theorem MakesSevere.counted {s : State} {e : FaultEv} (hs : Canon s) (h : MakesSevere s e) :
    (src (counted s e) e.src.val).sev = true ∧ newly s e = [e.src.val] := by
  obtain ⟨hsev, hopn, hcount, hact⟩ := h
  have hcounted : (src (Proofs.counted s e) e.src.val).sev = true := by
    obtain ⟨-, -, -, hc⟩ := srcCount_one (src s e.src.val) (s.aon.fc.acyc + 1)
    rw [(src_counted hs e).1, hc, hsev, hopn]
    simp [hact, show (src s e.src.val).n ≤ (src s e.src.val).c + 1 by omega, show (src s e.src.val).n ≤ 255 by omega]
  exact ⟨hcounted, by simp [newly, hsev, hcounted]⟩

theorem anySevere_of {s : State} {i : Nat} (hi : i < 256) (h : (src s i).sev = true) : anySevere s = true :=
  List.any_eq_true.mpr ⟨i, List.mem_range.mpr hi, h⟩

theorem faultN_of {s : State} {i : Nat} (hphase : s.boot.phase ≠ .cold) (hi : i < 256) (h : (src s i).sev = true) : faultN s = false := by
  simp [faultN, hphase, anySevere_of hi h]

theorem faultN_collect {s : State} {e : FaultEv} (hs : Canon s) (h : MakesSevere s e) {t : State} (ht : t = collect s [e])
    (hboot : t.boot = s.boot) (hphase : s.boot.phase ≠ .cold) : faultN t = false := by
  refine faultN_of (by rw [hboot]; exact hphase) e.src.isLt ?_
  rw [ht, src_collect]
  exact (h.counted hs).1

theorem counted_frame (s : State) (e : FaultEv) : (counted s e).links = s.links ∧ (counted s e).stage = s.stage ∧ (counted s e).img = s.img
    ∧ (counted s e).boot = s.boot ∧ (counted s e).aon.fc.st = s.aon.fc.st := by
  have h := arrives_cycleBegun s e
  exact ⟨h.links, h.stage, h.img, h.boot, h.st⟩

theorem recorded_keeps {s : State} (hs : Canon s) (e : FaultEv) : (recorded s e).links = s.links ∧ (recorded s e).stage = s.stage
    ∧ (recorded s e).img = s.img ∧ (recorded s e).boot = s.boot ∧ (recorded s e).aon.fc.st = s.aon.fc.st
    ∧ (src (recorded s e) e.src.val).act = (src s e.src.val).act := by
  have h := arrives_recorded s e
  obtain ⟨hlinks, hstage, himg, hboot, hst⟩ := counted_frame s e
  refine ⟨h.links.trans hlinks, h.stage.trans hstage, h.img.trans himg, h.boot.trans hboot, h.st.trans hst, ?_⟩
  rw [h.src, (src_counted hs e).1, srcCount_act]

theorem recorded_canon {s : State} (hs : Canon s) (e : FaultEv) : Canon (recorded s e) := by
  have hc : Canon (counted s e) := setSrc_canon _ _ _ (arrived_canon hs e)
  unfold recorded
  simp only
  (repeat' split) <;> simp +contextual (maxDischargeDepth := 12) [hc]

/-- A source whose ACT is SAFE takes the block into SAFE. -/
theorem collect_safe {s : State} {e : FaultEv} (hs : Canon s) (h : MakesSevere s e) (hact : (src s e.src.val).act = .safe)
    (hst : s.aon.fc.st = .normal ∨ s.aon.fc.st = .alert) : ∃ u q, Severed (recorded s e) u .safe e.src.val
      ∧ collect s [e] = setFc (safeEnter u) { (safeEnter u).aon.fc with quiet := q } := by
  obtain ⟨-, -, -, -, hst', hact'⟩ := recorded_keeps hs e
  obtain ⟨q, hcol⟩ := collect_one s e
  have hnext := fcNext_one (hact'.trans hact) (by rw [hst']; exact hst)
  have hsev := severe_cons (s := recorded s e) (l := [e.src.val]) (by simp)
  rw [hnext] at hsev
  refine ⟨_, q, severed_some _ _ _, ?_⟩
  rw [hcol, (h.counted hs).2, hsev]

/-- A source whose ACT is ALERT takes the block from NORMAL into ALERT. -/
theorem collect_alert {s : State} {e : FaultEv} (hs : Canon s) (h : MakesSevere s e) (hact : (src s e.src.val).act = .alert)
    (hst : s.aon.fc.st = .normal) : ∃ u q, Severed (recorded s e) u .alert e.src.val
      ∧ collect s [e] = setFc u { u.aon.fc with quiet := q } := by
  obtain ⟨-, -, -, -, hst', hact'⟩ := recorded_keeps hs e
  obtain ⟨q, hcol⟩ := collect_one s e
  have hnext := fcNext_one_alert (hact'.trans hact) (by rw [hst']; exact hst)
  have hsev := severe_cons (s := recorded s e) (l := [e.src.val]) (by simp)
  rw [hnext] at hsev
  refine ⟨_, q, severed_some _ _ _, ?_⟩
  rw [hcol, (h.counted hs).2, hsev]

/-! ### A parity error, and the escalation (R333, R334) -/

/-- A source's configuration at its reset values. -/
def reconfigured (i : Nat) (x : Src) : Src := { x with n := (srcDflt i).n, k := (srcDflt i).k, act := (srcDflt i).act }

theorem src_fcReload {s : State} (hs : Canon s) (j : Nat) : src (fcReload s) j = reconfigured j (src s j) := by
  have hstep := srcStep_setSrc (g := reconfigured) (fun _ _ => rfl)
  have hfold := hstep.foldl (tkeys s.aon.fc.src) hs j
  refine Eq.trans (b := src ((tkeys s.aon.fc.src).foldl (fun s i => setSrc s i (reconfigured i (src s i))) s) j) rfl (hfold.trans ?_)
  split
  · rfl
  · next h =>
    rw [src_of_not_mem h]
    rfl

theorem fcReload_frame (s : State) : ∃ x, fcReload s = setFc s { s.aon.fc with
    src := x, autox := true, zthaw := false, esc := true, autoload := false, rlim := 4, esck := 26, quietk := 27, reimg := 0 } := by
  have h : OnlySrc s ((tkeys s.aon.fc.src).foldl (fun s i => setSrc s i (reconfigured i (src s i))) s) :=
    onlySrc_foldl (fun s i => onlySrc_setSrc s i _) _ _
  obtain ⟨t, ht⟩ : ∃ t, t = (tkeys s.aon.fc.src).foldl (fun s i => setSrc s i (reconfigured i (src s i))) s := ⟨_, rfl⟩
  have hreload : fcReload s = setFc t { t.aon.fc with
      autox := true, zthaw := false, esc := true, autoload := false, rlim := 4, esck := 26, quietk := 27, reimg := 0 } := by
    rw [ht]
    rfl
  rw [← ht] at h
  refine ⟨t.aon.fc.src, hreload.trans ?_⟩
  rw [h]
  rfl

/-- The registers of the collector at their reset values, with source 0x00 severe. -/
def parityReloaded (s : State) : State := fcReload (setSrc s 0 { src s 0 with sev := true })

theorem exec_parity {s : State} {off : BitVec 12} (hphase : s.boot.phase ≠ .cold) (hoff : fcConfig off.toNat = true) : ∃ a,
    exec (.collectorParityError off) s = .next (safeEnter a) ∧ a.aon.fc = { (parityReloaded s).aon.fc with
      st := .safe, cause := 0, acked := (parityReloaded s).aon.fc.acked && true, stuck := (parityReloaded s).aon.fc.stuck && true }
    ∧ a.aon.zt.frozen = (s.aon.zt.frozen || !(src s 0).sev) := by
  obtain ⟨x, hframe⟩ := fcReload_frame (setSrc s 0 { src s 0 with sev := true })
  have hfrozen : (parityReloaded s).aon.zt.frozen = s.aon.zt.frozen := by rw [parityReloaded, hframe]; rfl
  cases hsev : (src s 0).sev with
  | true =>
    refine ⟨fcGo (aonLog (parityReloaded s) 0x0100 off.toNat ((src (parityReloaded s) 0).c + 256)) .safe 0, ?_, ?_, ?_⟩
    · simp [exec, execCollectorParityError, hphase, hoff, hsev, parityReloaded]
    · rw [fcGo_aon_fc, aonLog_aon_fc]
      rfl
    · simp only [fcGo, aonLog_frozen, setFc]
      simp [hfrozen]
  | false =>
    refine ⟨pendSrc (ztFreeze (fcGo (aonLog (ztFlush (parityReloaded s)) 0x0100 off.toNat ((src (parityReloaded s) 0).c + 256)) .safe 0)) 1,
      ?_, ?_, ?_⟩
    · simp [exec, execCollectorParityError, hphase, hoff, hsev, parityReloaded]

    · rw [pendSrc_aon]
      refine (fcGo_aon_fc _ _ _).trans ?_
      rw [aonLog_aon_fc, ztFlush, ztTakeN_aon_fc]
      rfl
    · rw [pendSrc_aon]
      simp [ztFreeze, setZt]

theorem exec_escalationExpire {s : State} (hst : s.aon.fc.st = .alert) (hesc : s.aon.fc.esc = true) (hack : s.aon.fc.acked = false) :
    exec .escalationExpire s = .next (safeEnter (fcGo s .safe s.aon.fc.cause)) := by
  simp [exec, execEscalationExpire, hst, hesc, hack]

/-- Settles O18: what each change of state does is said by `Severed` and `InSafe`. -/
theorem collectorChangesState : Obligations.CollectorChangesState := by
  refine ⟨fun s e hs hphase hwf hsev hopn hcount => ⟨fun hact hst => ?_, fun hact hst => ?_⟩, fun s off hs hphase hoff => ?_,
    fun s hst hesc hack => ?_⟩
  · have hmakes : MakesSevere s e := ⟨hsev, hopn, hcount, by rw [hact]; decide⟩
    obtain ⟨u, q, hu, hcol⟩ := collect_safe hs hmakes hact hst
    obtain ⟨-, -, himg, hboot, -, -⟩ := recorded_keeps hs e
    have hv := inSafe_safeEnter u
    generalize safeEnter u = v at hcol hv
    refine ⟨_, exec_faultEvent hphase hwf, ?_⟩
    have hub : v.boot = s.boot := by rw [hv.boot, hu.frame, ← hboot]
    have hui : v.img = s.img := by rw [hv.img, hu.frame, ← himg]
    have hfault := faultN_collect hs hmakes (t := setFc v { v.aon.fc with quiet := q }) hcol.symm hub hphase
    rw [hcol]
    refine ⟨?_, ?_, hv.frozen.trans hu.frozen, fun d hd h44 => hv.gated (hu.canon (recorded_canon hs e)) d hd h44, hv.links, hv.lines,
      hv.hub, hv.mem, hui, hfault⟩
    · rw [setFc_self, hv.fc, hu.fc]
    · rw [setFc_self, hv.fc, hu.fc]
  · have hmakes : MakesSevere s e := ⟨hsev, hopn, hcount, by rw [hact]; decide⟩
    obtain ⟨u, q, hu, hcol⟩ := collect_alert hs hmakes hact hst
    obtain ⟨hlinks, hstage, himg, hboot, -, -⟩ := recorded_keeps hs e
    refine ⟨_, exec_faultEvent hphase hwf, ?_⟩
    have hub : u.boot = s.boot := by rw [hu.frame, ← hboot]
    have hfault := faultN_collect hs hmakes (t := setFc u { u.aon.fc with quiet := q }) hcol.symm hub hphase
    rw [hcol]
    refine ⟨?_, ?_, hu.frozen, ?_, ?_, ?_, ?_, hfault⟩
    · rw [setFc_self, hu.fc]
    · rw [setFc_self, hu.fc]
    · rw [setFc_self, hu.fc]
      simp
    · rw [setFc_links, hu.frame, ← hlinks]
    · rw [setFc_stage, hu.frame, ← hstage]
    · rw [setFc_img, hu.frame, ← himg]
  · obtain ⟨a, hexec, hfc, hfrozen⟩ := exec_parity hphase hoff
    have hv := inSafe_safeEnter a
    generalize safeEnter a = v at hexec hv
    obtain ⟨x, hframe⟩ := fcReload_frame (setSrc s 0 { src s 0 with sev := true })
    have hset : Canon (setSrc s 0 { src s 0 with sev := true }) := setSrc_canon _ _ _ hs
    have hsrc : ∀ j, src v j = reconfigured j (src (setSrc s 0 { src s 0 with sev := true }) j) := by
      intro j
      rw [← src_fcReload hset j]
      have hv' : v.aon.fc.src = (parityReloaded s).aon.fc.src := by rw [hv.fc, hfc]
      exact congrArg (fun t => tget srcDflt t j) hv'
    have hzero : src v 0 = reconfigured 0 { src s 0 with sev := true } := by rw [hsrc, src_setSrc_self hs]
    have hreload : (parityReloaded s).aon.fc = { s.aon.fc with
        src := x, autox := true, zthaw := false, esc := true, autoload := false, rlim := 4, esck := 26, quietk := 27, reimg := 0 } := by
      rw [parityReloaded, hframe]
      rfl
    rw [hreload] at hfc
    have hall := hv.fc
    rw [hfc] at hall
    refine ⟨v, hexec, ?_, ?_, by rw [hzero]; rfl, hv.frozen.trans hfrozen, ?_, ?_, ?_, ?_, ?_, ?_, ?_, ?_, fun j => ?_⟩
    all_goals first | rw [hall] | skip
    rw [hsrc]
    refine ⟨rfl, rfl, rfl, ?_⟩
    by_cases hj : j = 0
    · subst hj
      rw [src_setSrc_self hs]
      rfl
    · rw [src_setSrc_other hs _ _ hj]
      rfl
  · have hv := inSafe_safeEnter (fcGo s .safe s.aon.fc.cause)
    have hexec := exec_escalationExpire hst hesc hack
    generalize safeEnter (fcGo s .safe s.aon.fc.cause) = v at hexec hv
    refine ⟨v, hexec, ?_, ?_, hv.mem, hv.links⟩
    · rw [hv.fc, fcGo_aon_fc]
    · rw [hv.fc, fcGo_aon_fc]

end Sys2Proof.Proofs
end

section
/-! The fault collector: exits from SAFE, and a block reset (R336, R337, R341). -/

namespace Sys2Proof.Proofs

open Sys2Proof Sys2Proof.Machine Sys2Proof.Laws

/-! ### Exits (R336, R337) -/

theorem srcDflt_sev (i : Nat) : (srcDflt i).sev = false := by
  simp only [srcDflt, apply_ite Src.sev, ite_self]

theorem onlySrc_sevNone (s : State) : OnlySrc s (sevNone s) := onlySrc_foldl (fun s i => onlySrc_setSrc s i _) _ _

/-- Behind an exit no SEV flag stands. -/
theorem sev_sevNone {s : State} (hs : Canon s) (j : Nat) : (src (sevNone s) j).sev = false := by
  have hfold := (srcStep_setSrc (g := fun _ x => { x with sev := false }) (fun _ _ => rfl)).foldl (tkeys s.aon.fc.src) hs j
  have hnone : src (sevNone s) j = if j ∈ tkeys s.aon.fc.src then { src s j with sev := false } else src s j := hfold
  rw [hnone]
  split
  · rfl
  · next h => rw [src_of_not_mem h, srcDflt_sev]

theorem ztThaw_keeps (s : State) : OnlyAon s (ztThaw s) ∧ (ztThaw s).aon.fc = s.aon.fc := by
  unfold ztThaw
  extract_lets z
  split
  · exact ⟨.trans (t := setZt s _) rfl (onlyAon_aonLog _ _ _ _), aonLog_aon_fc _ _ _ _⟩
  · exact ⟨.refl s, rfl⟩

theorem onlyAon_resetLog (s : State) (a : Nat) : OnlyAon s (resetLog s a) ∧ (resetLog s a).aon.fc = s.aon.fc := by
  unfold resetLog
  split
  · exact ⟨onlyAon_aonLog _ _ _ _, aonLog_aon_fc _ _ _ _⟩
  · exact ⟨.refl s, rfl⟩

/-- A block reset that begins in RUNNING. -/
structure ResetBegun (s t : State) (by_ : Nat) : Prop where
  phase : t.boot.phase = .resetting
  rstBy : t.boot.rstBy = by_
  img : t.img = none
  chans : t.chans = []
  fc : t.aon.fc = s.aon.fc

theorem resetBegun_beginReset {s : State} (h : s.boot.phase = .running) (by_ : Nat) : ResetBegun s (beginReset s by_) by_ := by
  obtain ⟨t, ht, hreset⟩ := beginReset_running h by_
  rw [hreset]
  refine ⟨rfl, rfl, ht.img, ht.chans, ?_⟩
  simp only [ht.aon]
  rfl

/-- What an exit from SAFE does (R336). -/
structure Exited (s t : State) (by_ : Nat) : Prop where
  st : t.aon.fc.st = .resetting
  cause : t.aon.fc.cause = s.aon.fc.cause
  recov : t.aon.fc.recov = min (s.aon.fc.recov + 1) 65535
  exits : t.aon.fc.exits = s.aon.fc.exits
  sev : ∀ i, (src t i).sev = false
  phase : t.boot.phase = .resetting
  rstBy : t.boot.rstBy = by_
  img : t.img = none
  chans : t.chans = []

theorem exited_fcExit {s : State} (hs : Canon s) (hphase : s.boot.phase = .running) (auto : Bool) :
    Exited s (fcExit s auto) (if auto then 3 else 2) := by
  unfold fcExit
  extract_lets f x y z g
  have hx : Canon x := setFc_canon _ _ hs (canon_src hs)
  have hy : y = setFc x { x.aon.fc with src := y.aon.fc.src } := onlySrc_sevNone x
  have hz : OnlyAon y z ∧ z.aon.fc = y.aon.fc := by
    simp only [z]
    split
    · exact ztThaw_keeps y
    · exact ⟨.refl y, rfl⟩
  obtain ⟨hzon, hzfc⟩ := hz
  obtain ⟨hron, hrfc⟩ := onlyAon_resetLog g (if auto = true then 2 else 1)
  have hgfc : g.aon.fc = _ := fcGo_aon_fc z .resetting z.aon.fc.cause
  have hgphase : (resetLog g (if auto = true then 2 else 1)).boot.phase = .running := by
    rw [hron.boot, show g.boot = z.boot from fcGo_boot _ _ _, hzon.boot, hy]
    exact hphase
  have hreset := resetBegun_beginReset hgphase (if auto = true then 3 else 2)
  have hall := hreset.fc.trans (hrfc.trans hgfc)
  rw [hzfc] at hall
  have hsrc : (beginReset (resetLog g (if auto = true then 2 else 1)) (if auto = true then 3 else 2)).aon.fc.src = y.aon.fc.src := by rw [hall]
  have hyall : y.aon.fc = { s.aon.fc with recov := satAdd 16 s.aon.fc.recov 1, src := y.aon.fc.src } := congrArg (fun t : State => t.aon.fc) hy
  refine ⟨by rw [hall], by rw [hall, hyall], by rw [hall, hyall]; rfl, by rw [hall, hyall], fun i => ?_, hreset.phase, hreset.rstBy, hreset.img,
    hreset.chans⟩
  rw [src, hsrc]
  exact sev_sevNone hx i

theorem fcCtrl_exit {s : State} {v : W32} (hst : s.aon.fc.st = .safe) (hv : bitOf v 2 = false) (ht : s.pins.pgT = true)
    (hm : s.pins.pgM = true) (hl : s.pins.pgL = true) (ha : s.pins.pgA = true) : fcCtrl (v ||| 2) s = fcExit s false := by
  have h1 : bitOf (v ||| 2) 1 = true := by simp [bitOf]
  have h2 : bitOf (v ||| 2) 2 = false := by rw [← hv]; simp [bitOf]
  simp only [fcCtrl, hst, h1, h2]
  simp [ht, hm, hl, ha]

theorem exec_automaticExit {s : State} (hst : s.aon.fc.st = .safe) (hautox : s.aon.fc.autox = true) (hstuck : s.aon.fc.stuck = false)
    (hcalm : Machine.calm s = true) {now : Nat} {recent : List Nat} (hnow : now = max s.aon.fc.acyc (s.aon.fc.quiet + 2 ^ s.aon.fc.quietk))
    (hrecent : recent = s.aon.fc.exits.filter fun e => decide (now < e + 2 ^ 31)) : exec .automaticExit s = .next
      (if s.aon.fc.rlim < recent.length + 1
        then { s with aon := { s.aon with fc := { s.aon.fc with acyc := now, exits := recent, stuck := true } } }
        else fcExit (setFc s { s.aon.fc with acyc := now, exits := recent ++ [now] }) true) := by
  subst hnow hrecent
  simp only [exec, execAutomaticExit, hst, hautox, hstuck, hcalm]
  simp only [beq_self_eq_true, Bool.not_false, Bool.and_self, if_true, setFc_self]
  split <;> rfl

theorem exit_result {s : State} {ns : Bool} {v : W32} (hs : Canon s) (hserved : Served s 0x2008 ns true) (hst : s.aon.fc.st = .safe)
    (hv : bitOf v 2 = false) (ht : s.pins.pgT = true) (hm : s.pins.pgM = true) (hl : s.pins.pgL = true) (ha : s.pins.pgA = true) :
    exec (.exit ns v) s = .next (emit (fcExit s false) (.mmio 0 0)) ∧ Exited s (fcExit s false) 2 := by
  refine ⟨?_, exited_fcExit hs (mmioReady_phase hserved.ready) false⟩
  simp only [exec, execExit, fcCtrlW, mmioW_of_served hserved, fcCtrl_exit hst hv ht hm hl ha]

theorem exec_automaticExit_exits {s : State} (hst : s.aon.fc.st = .safe) (hautox : s.aon.fc.autox = true) (hstuck : s.aon.fc.stuck = false)
    (hcalm : Machine.calm s = true) {now : Nat} {recent : List Nat} (hnow : now = max s.aon.fc.acyc (s.aon.fc.quiet + 2 ^ s.aon.fc.quietk))
    (hrecent : recent = s.aon.fc.exits.filter fun e => decide (now < e + 2 ^ 31)) (hlim : recent.length + 1 ≤ s.aon.fc.rlim) :
    exec .automaticExit s = .next (fcExit (setFc s { s.aon.fc with acyc := now, exits := recent ++ [now] }) true) := by
  have hexec := exec_automaticExit hst hautox hstuck hcalm hnow hrecent
  rw [if_neg (Nat.not_lt.mpr hlim)] at hexec
  exact hexec

theorem exec_automaticExit_stuck {s : State} (hst : s.aon.fc.st = .safe) (hautox : s.aon.fc.autox = true) (hstuck : s.aon.fc.stuck = false)
    (hcalm : Machine.calm s = true) {now : Nat} {recent : List Nat} (hnow : now = max s.aon.fc.acyc (s.aon.fc.quiet + 2 ^ s.aon.fc.quietk))
    (hrecent : recent = s.aon.fc.exits.filter fun e => decide (now < e + 2 ^ 31)) (hlim : s.aon.fc.rlim < recent.length + 1) :
    exec .automaticExit s = .next { s with aon := { s.aon with fc := { s.aon.fc with acyc := now, exits := recent, stuck := true } } } := by
  have hexec := exec_automaticExit hst hautox hstuck hcalm hnow hrecent
  rw [if_pos hlim] at hexec
  exact hexec

/-- Settles O19, by what an exit does (`exited_fcExit`). -/
theorem exitsFromSafe : Obligations.ExitsFromSafe := by
  refine ⟨fun s ns v hs hserved hst hv ht hm hl ha => ?_, fun s hs hst hautox hstuck hcalm => ?_⟩
  · obtain ⟨hexec, est, ecause, erecov, -, esev, ephase, erst, eimg, echans⟩ := exit_result hs hserved hst hv ht hm hl ha
    exact ⟨_, hexec, est, erecov, esev, ephase, erst, eimg, echans, ecause⟩
  · intro now recent
    refine ⟨fun hlim hphase => ?_, exec_automaticExit_stuck hst hautox hstuck hcalm rfl rfl⟩
    have hexec := exec_automaticExit_exits (now := now) (recent := recent) hst hautox hstuck hcalm rfl rfl hlim
    have hexited := exited_fcExit (s := setFc s { s.aon.fc with acyc := now, exits := recent ++ [now] })
      (setFc_canon s _ hs (canon_src hs)) hphase true
    generalize fcExit (setFc s { s.aon.fc with acyc := now, exits := recent ++ [now] }) true = t at hexec hexited
    exact ⟨t, hexec, hexited.st, hexited.exits, hexited.sev, hexited.phase, hexited.rstBy, hexited.recov⟩

/-! ### BLKRST of a state whose island table is not canonical -/

/-- A running block whose table of islands lists PD44 twice, ON and then gated, with REQ at 0. -/
def listedTwice : State := { State.reset with
  boot := { State.reset.boot with phase := .running }
  clk := { State.reset.clk with req := 0, isl := [(44, { islDflt 44 with ps := .on }), (44, { islDflt 44 with ps := .gated })] } }

theorem served_listedTwice : Served listedTwice 0x200C false true :=
  ⟨by decide, fun _ => by decide, fun h => absurd h (by decide)⟩

/-- The block reset finds the second record, and powers PD44 up: REQ rises. -/
theorem blkrst_listedTwice : ∃ t, exec (.blkrst false 0xB10C) listedTwice = .next t ∧ 20 ≤ t.clk.req := by
  have hexec : exec (.blkrst false 0xB10C) listedTwice = .next (emit (beginReset (resetLog listedTwice 0) 1) (.mmio 0 0)) := by
    simp only [exec, execBlkrst, mmioW_of_served served_listedTwice]
    rfl
  obtain ⟨hon, hfc⟩ := onlyAon_resetLog listedTwice 0
  have hphase : (resetLog listedTwice 0).boot.phase = .running := by rw [hon.boot]; rfl
  have hst : ((resetLog listedTwice 0).aon.fc.st != .safe) = true := by rw [hfc]; decide
  have hgated : ((isl (blockWipe (resetLog listedTwice 0)) 44).ps == .gated) = true := by
    simp only [isl, blockWipe, hon.clk]
    decide
  have hreset : (beginReset (resetLog listedTwice 0) 1).clk = (startWake (blockWipe (resetLog listedTwice 0)) 44).clk := by
    have hst' : ((blockWipe (resetLog listedTwice 0)).aon.fc.st != .safe) = true := hst
    simp only [beginReset, hphase, hst', hgated, beq_self_eq_true, Bool.and_self, if_true]
  refine ⟨_, hexec, ?_⟩
  rw [emit_clk, hreset, startWake_req]
  exact le_max_of_le_right (le_min (by decide) (le_max_left _ _))

/-- Refutes O20: its clause on MZ_FC_BLKRST says, without `Canon`, that the clock page keeps REQ; where the table of islands lists PD44 twice,
the block reset takes it for gated and raises REQ. -/
theorem not_collectorRegisters : ¬ Obligations.CollectorRegisters := by
  intro h
  obtain ⟨-, -, hblkrst, -⟩ := h
  obtain ⟨hkey, -⟩ := hblkrst listedTwice false 0xB10C served_listedTwice
  obtain ⟨t, hexec, -, -, -, -, -, -, -, -, -, -, -, -, -, -, -, -, -, hclk⟩ := hkey (by decide) (by decide)
  obtain ⟨u, hexec', hreq⟩ := blkrst_listedTwice
  rw [hexec] at hexec'
  cases hexec'
  have hkept : t.clk.req = 0 := by rw [hclk]; rfl
  omega

end Sys2Proof.Proofs
end

section
/-! The registers of the record and of world notices, and the sideband (R326, R348, R349, R364 to R366). -/

namespace Sys2Proof.Proofs

open Sys2Proof Sys2Proof.Machine Sys2Proof.Laws

/-! ### The record's control register and word 7 (R348, R349) -/

/-- From `s` to `t` nothing has changed but the record. -/
def OnlyZt (s t : State) : Prop := t = { s with aon := { s.aon with zt := t.aon.zt } }

theorem OnlyZt.trans {s t u : State} (h : OnlyZt s t) (k : OnlyZt t u) : OnlyZt s u := by
  unfold OnlyZt at *
  rw [k, h]

theorem onlyZt_ztWrite (s : State) (e : ZtEnt) : OnlyZt s (ztWrite s e) := by
  unfold ztWrite
  extract_lets
  split <;> rfl

theorem onlyZt_ztTakeN (s : State) (n : Nat) : OnlyZt s (ztTakeN s n) := by
  have hfold : ∀ (l : List ZtEnt) (u : State), OnlyZt u (l.foldl ztWrite u) := by
    intro l
    induction l with
    | nil => exact fun u => rfl
    | cons e l ih => exact fun u => (onlyZt_ztWrite u e).trans (ih _)
  exact .trans (t := setZt s { s.aon.zt with q := (ztSplit n [] s.aon.zt.q).2 }) rfl (hfold _ _)

theorem onlyZt_aonLog (s : State) (code a b : Nat) : OnlyZt s (aonLog s code a b) := .trans (t := takeSeq s 0x40) rfl (onlyZt_ztWrite _ _)

@[simp] theorem ztWrite_logpwr (s : State) (e : ZtEnt) : (ztWrite s e).aon.zt.logpwr = s.aon.zt.logpwr := by
  unfold ztWrite
  extract_lets
  split <;> rfl

@[simp] theorem ztTakeN_logpwr (s : State) (n : Nat) : (ztTakeN s n).aon.zt.logpwr = s.aon.zt.logpwr :=
  foldl_keeps (fun s => s.aon.zt.logpwr) ztWrite_logpwr _ _

/-- The state of a write of MZ_ZT_CTRL once LOGPWR is written. -/
def logpwrSet (s : State) (v : W32) : State := setZt s { s.aon.zt with logpwr := bitOf v 2 }

theorem exec_freeze {s : State} {ns : Bool} {v : W32} (hserved : Served s 0x3000 ns true) (h1 : bitOf v 1 = false) :
    exec (.freeze ns v) s = .next (emit (ztFreeze (ztFlush (logpwrSet s v))) (.mmio 0 0)) := by
  have h0 : bitOf (v ||| 1) 0 = true := by simp [bitOf]
  have h1' : bitOf (v ||| 1) 1 = false := by rw [← h1]; simp [bitOf]
  have h2 : bitOf (v ||| 1) 2 = bitOf v 2 := by simp [bitOf]
  simp only [exec, execFreeze, ztCtrlW, mmioW_of_served hserved, h0, h1', h2]
  rfl

theorem exec_thaw {s : State} {ns : Bool} {v : W32} (hserved : Served s 0x3000 ns true) (h0 : bitOf v 0 = false) :
    exec (.thaw ns v) s = .next (emit (ztThaw (logpwrSet s v)) (.mmio 0 0)) := by
  have h0' : bitOf (v ||| 2) 0 = false := by rw [← h0]; simp [bitOf]
  have h1 : bitOf (v ||| 2) 1 = true := by simp [bitOf]
  have h2 : bitOf (v ||| 2) 2 = bitOf v 2 := by simp [bitOf]
  simp only [exec, execThaw, ztCtrlW, mmioW_of_served hserved, h0', h1, h2]
  rfl

theorem ztThaw_frozen {s : State} (h : s.aon.zt.frozen = true) :
    ztThaw s = aonLog (setZt s { s.aon.zt with frozen := false, lost := 0 }) 0x0800 s.aon.zt.lost.toNat 0 := by
  simp [ztThaw, h]

/-- An entry that AON writes while the record is not frozen. -/
theorem aonLog_unfrozen {s : State} (h : s.aon.zt.frozen = false) (code a b : Nat) : (aonLog s code a b).aon.zt.frozen = false
    ∧ (aonLog s code a b).aon.zt.lost = s.aon.zt.lost ∧ (aonLog s code a b).aon.zt.next = (s.aon.zt.next + 1) % 8192 := by
  have hf : (takeSeq s 0x40).aon.zt.frozen = false := h
  simp only [aonLog, ztWrite, hf]
  exact ⟨rfl, rfl, rfl⟩

theorem mmioR_of_served {s : State} {off : Nat} {ns sec : Bool} (h : Served s off ns sec) (f : State → State × W32) :
    mmioR s off ns sec f = emit (f s).1 (.mmio 0 (f s).2) := by
  obtain ⟨hready, hpage, hworld⟩ := h
  have hsafe : (s.aon.fc.st == .safe && !safePage off) = false := by
    by_cases hst : s.aon.fc.st = .safe
    · simp [hpage hst]
    · simp [hst]
  have hns : (ns && sec) = false := by
    cases ns with
    | false => rfl
    | true => exact hworld rfl
  simp [mmioR, hready, hsafe, hns]

/-! ### The sideband (R364, R365) -/

theorem exec_sidebandRead {s : State} (hserved : sbServed s = true) (hsel : s.aon.sb.sel = true) (e : Ecc) :
    exec (.sidebandRead e) s = .next (sbByte s e) := by
  simp [exec, execSidebandRead, hserved, hsel]

/-- A register that is no word of an entry is sampled. -/
theorem sbSample_plain {s : State} (e : Ecc) {w : W32} (hword : sbWordK s.aon.sb = false)
    (hw : (if s.aon.sb.zt then ztRead s s.aon.sb.sidx.toNat s.aon.sb.off.toNat else fcRead s s.aon.sb.off.toNat) = w) :
    sbSample s e = setSb s { s.aon.sb with word := w } := by
  simp [sbSample, hword, hw]

theorem sbSend_first {s : State} (w : W32) (h : s.aon.sb.byte = 0) : sbSend (setSb s { s.aon.sb with word := w }) =
    emit { s with aon := { s.aon with sb := { s.aon.sb with word := w, byte := 1 } } } (.sb (BitVec.ofNat 8 w.toNat)) := by
  simp [sbSend, setSb, h]

theorem exec_sidebandOffsetWrite (s : State) (hi lo : Byte) : exec (.sidebandOffsetWrite hi lo) s = .next
    (if sbServed s = false ∨ (256 * hi.toNat + lo.toNat) / 2 ^ 12 % 8 ≠ 0 ∨ (256 * hi.toNat + lo.toNat) % 4 ≠ 0 then emit s (.sbAck false)
     else emit { s with aon := { s.aon with sb := { s.aon.sb with
        sel := true, zt := decide (2 ^ 15 ≤ 256 * hi.toNat + lo.toNat), off := BitVec.ofNat 12 (256 * hi.toNat + lo.toNat), byte := 0 } } }
        (.sbAck true)) := by
  by_cases hserved : sbServed s = true
  · by_cases hoff : (256 * hi.toNat + lo.toNat) / 2 ^ 12 % 8 ≠ 0 ∨ (256 * hi.toNat + lo.toNat) % 4 ≠ 0
    · simp only [exec, execSidebandOffsetWrite, hserved, if_pos hoff, if_pos (Or.inr hoff)]
      rfl
    · have hno : ¬ (sbServed s = false ∨ (256 * hi.toNat + lo.toNat) / 2 ^ 12 % 8 ≠ 0 ∨ (256 * hi.toNat + lo.toNat) % 4 ≠ 0) :=
        fun h => hoff (h.resolve_left (by simp [hserved]))
      rw [if_neg hno]
      simp only [exec, execSidebandOffsetWrite, hserved, if_neg hoff]
      rfl
  · simp [exec, execSidebandOffsetWrite, hserved]

theorem exec_sidebandIdxWrite_nack {s : State} (d : Vector Byte 4)
    (h : sbServed s = false ∨ s.aon.sb.sel = false ∨ s.aon.sb.zt = false ∨ s.aon.sb.off ≠ 0x00C) :
    exec (.sidebandIdxWrite d) s = .next (emit s (.sbAck false)) := by
  have hno : (sbServed s && s.aon.sb.sel && s.aon.sb.zt && s.aon.sb.off == 0x00C) = false := by
    obtain h | h | h | h := h
    · simp [h]
    · simp [h]
    · simp [h]
    · simp only [beq_eq_false_iff_ne.mpr h, Bool.and_false]
  simp only [exec, execSidebandIdxWrite, hno]
  rfl

/-- Settles O21. -/
theorem recordRegisters : Obligations.RecordRegisters := by
  refine ⟨fun s ns v hserved h1 => ?_, fun s ns v hserved h0 hfrozen => ?_, fun s ns hserved => ?_, fun s ns v hserved => ?_,
    fun s hi lo => ⟨fun hs h8 h4 => ?_, fun h => ?_⟩, fun s e hs hsel => ⟨fun hbyte hzt => ?_, fun hbyte hzt ho => ?_, fun hbyte _ => ?_⟩,
    fun s d h => exec_sidebandIdxWrite_nack d h⟩
  · refine ⟨_, exec_freeze hserved h1, ?_, rfl, ?_⟩
    · exact (OnlyZt.trans (t := logpwrSet s v) rfl (onlyZt_ztTakeN _ _)).trans (u := ztFreeze (ztFlush (logpwrSet s v))) rfl
    · exact ztTakeN_logpwr (logpwrSet s v) _
  · have hthaw := ztThaw_frozen (s := logpwrSet s v) hfrozen
    obtain ⟨hf, hlost, hnext⟩ := aonLog_unfrozen (s := setZt (logpwrSet s v) { (logpwrSet s v).aon.zt with frozen := false, lost := 0 }) rfl
      0x0800 (logpwrSet s v).aon.zt.lost.toNat 0
    refine ⟨_, exec_thaw hserved h0, ?_, ?_, ?_, ?_⟩
    · rw [hthaw]
      exact OnlyZt.trans (t := setZt (logpwrSet s v) { (logpwrSet s v).aon.zt with frozen := false, lost := 0 }) rfl (onlyZt_aonLog _ _ _ _)
    · rw [hthaw, hf]
    · rw [hthaw, hlost]
      rfl
    · rw [hthaw, hnext]
      rfl
  · simp only [exec, execZtWord7Read, mmioR_of_served hserved]
    rfl
  · simp only [exec, execWnClr, mmioW_of_served hserved]
  · rw [exec_sidebandOffsetWrite, if_neg]
    rw [hs, h8, h4]
    decide
  · rw [exec_sidebandOffsetWrite, if_pos h]
  · rw [exec_sidebandRead hs hsel, sbByte_first hbyte, sbSample_plain e (by simp [sbWordK, hzt]) (if_neg (by simp [hzt]))]
    exact congrArg _ (sbSend_first (fcRead s s.aon.sb.off.toNat) hbyte)
  · have hword : sbWordK s.aon.sb = false := by
      simp only [sbWordK, hzt, Bool.true_and, Bool.and_eq_false_iff, decide_eq_false_iff_not]
      omega
    rw [exec_sidebandRead hs hsel, sbByte_first hbyte, sbSample_plain e hword (if_pos hzt)]
    exact congrArg _ (sbSend_first (ztRead s s.aon.sb.sidx.toNat s.aon.sb.off.toNat) hbyte)
  · rw [exec_sidebandRead hs hsel, sbByte_later (Nat.pos_iff_ne_zero.mp hbyte)]
    rfl

end Sys2Proof.Proofs
end

section
/-! The adaptive loop, the delay monitors and the thermal limit (R308 to R313). -/

namespace Sys2Proof.Proofs

open Sys2Proof Sys2Proof.Machine Sys2Proof.Laws

/-! ### What the loop leaves of an island -/

/-- An island but for its VI and the raise that it waits for. -/
def loopView (x : Island) : Island := { x with raise := false, vi := 0 }

/-- What the loop's steps leave: everything but the islands' VIs and raises, REQ and the wait for it. -/
structure LoopKeeps (s t : State) : Prop where
  frame : OnlyClk s t
  canon : Canon s → Canon t
  isl : Canon s → ∀ k, loopView (isl t k) = loopView (isl s k)

theorem LoopKeeps.refl (s : State) : LoopKeeps s s := ⟨.refl s, id, fun _ _ => rfl⟩

theorem LoopKeeps.trans {s t u : State} (h : LoopKeeps s t) (k : LoopKeeps t u) : LoopKeeps s u :=
  ⟨h.frame.trans k.frame, fun hs => k.canon (h.canon hs), fun hs d => (k.isl (h.canon hs) d).trans (h.isl hs d)⟩

theorem loopKeeps_foldl {α : Type} {g : State → α → State} (h : ∀ s a, LoopKeeps s (g s a)) (l : List α) (s : State) :
    LoopKeeps s (l.foldl g s) := by
  induction l generalizing s with
  | nil => exact .refl s
  | cons a l ih => exact (h s a).trans (ih _)

theorem loopKeeps_setIsl (s : State) (d : Nat) {x : Island} (h : loopView x = loopView (isl s d)) : LoopKeeps s (setIsl s d x) := by
  refine ⟨rfl, setIsl_canon _ _ _, fun hs k => ?_⟩
  by_cases hk : k = d
  · rw [hk, isl_setIsl_self hs, h]
  · rw [isl_setIsl_other hs _ _ hk]

theorem loopKeeps_raiseReq (s : State) (code : Nat) : LoopKeeps s (raiseReq s code) :=
  ⟨onlyClk_raiseReq s code, raiseReq_canon s code, fun _ k => by rw [isl_raiseReq]⟩

theorem loopKeeps_adapt (s : State) (i : Nat) : LoopKeeps s (adapt s i) := by
  unfold adapt
  extract_lets x f v t
  split
  · exact loopKeeps_setIsl s i rfl
  · split
    · exact loopKeeps_setIsl s i rfl
    · have ht : isl t i = x := isl_raiseReq s _ i
      split
      · exact (loopKeeps_raiseReq s _).trans (loopKeeps_setIsl t i (by rw [ht]; rfl))
      · exact (loopKeeps_raiseReq s _).trans (loopKeeps_setIsl t i (by rw [ht]; rfl))

theorem loopKeeps_adaptMates (s : State) (i : Nat) : LoopKeeps s (adaptMates s i) := by
  refine loopKeeps_foldl (fun s k => ?_) _ s
  split
  · exact loopKeeps_adapt s k
  · exact .refl s

/-! ### Adaptation windows (R308) -/

/-- The island behind the end of a window of utilisation `u`. -/
def windowIsl (s : State) (d u : Nat) : Island :=
  let x := isl s d
  let hi := if 90 ≤ u then min 4 (x.hi + 1) else 0
  let lo := if u ≤ 50 then x.lo + 1 else 0
  { x with hi := hi, lo := if lo = 16 then 0 else lo, target := windowTarget s x hi lo }

theorem exec_adaptiveWindowEnd {s : State} {d : Isl} (u : Fin 101) (hd : adaptive d.val = true) (hps : (isl s d.val).ps = .on) :
    exec (.adaptiveWindowEnd d u) s = .next (adaptMates (setIsl s d.val (windowIsl s d.val u.val)) d.val) := by
  have h40 : d.val ≠ 0x40 := fun h => by rw [h] at hd; exact absurd hd (by decide)
  simp [exec, execAdaptiveWindowEnd, hd, hps, h40, windowIsl]

theorem isl_adaptiveWindowEnd {s : State} (hs : Canon s) (d u : Nat) :
    loopView (isl (adaptMates (setIsl s d (windowIsl s d u)) d) d) = loopView (windowIsl s d u) := by
  rw [(loopKeeps_adaptMates _ d).isl (setIsl_canon _ _ _ hs), isl_setIsl_self hs]

/-! ### The wait for VDD_T (R310) -/

/-- An island behind the end of the wait. -/
def settledIsl (s : State) (i : Nat) (x : Island) : Island :=
  if x.raise then
    if x.ps = .waking then { x with raise := false }
    else { x with raise := false, vi := if loopFreq s i < x.freq then x.vi else coveredVi s i (loopFreq s i) }
  else x

theorem loopFreq_congr {s t : State} (himg : t.img = s.img) (h : ∀ k, loopView (isl t k) = loopView (isl s k)) (i : Nat) :
    loopFreq t i = loopFreq s i := by
  have htarget : ∀ k, (isl t k).target = (isl s k).target := fun k => (congrArg Island.target (h k) :)
  have hps : ∀ k, (isl t k).ps = (isl s k).ps := fun k => (congrArg Island.ps (h k) :)
  have hpow : powered t = powered s := funext fun k => by simp only [powered, hps]
  simp only [loopFreq, effTarget, htarget, hpow, im, himg]

theorem loopView_settledIsl (s : State) (i : Nat) (x : Island) : loopView (settledIsl s i x) = loopView x := by
  unfold settledIsl
  (repeat' split) <;> rfl

theorem settledIsl_raise (s : State) (i : Nat) (x : Island) : (settledIsl s i x).raise = false := by
  unfold settledIsl
  by_cases h : x.raise
  · rw [if_pos h]
    split <;> rfl
  · rw [if_neg h]
    exact Bool.eq_false_of_not_eq_true h

theorem settledIsl_settled {s : State} {i : Nat} {x : Island} (h : x.raise = false) : settledIsl s i x = x := by simp [settledIsl, h]

/-- From `s` to `t` nothing has changed but the islands' records, in which only VIs and raises have. -/
structure IslKeeps (s t : State) : Prop where
  frame : t = { s with clk := { s.clk with isl := t.clk.isl } }
  canon : Canon t
  isl : ∀ k, loopView (isl t k) = loopView (isl s k)

theorem settledIsl_congr {s t : State} (h : IslKeeps s t) (i : Nat) (x : Island) : settledIsl t i x = settledIsl s i x := by
  have hloop := loopFreq_congr (by rw [h.frame]) h.isl i
  have hclk : t.clk.temp = s.clk.temp ∧ t.clk.req = s.clk.req := by rw [h.frame]; exact ⟨rfl, rfl⟩
  simp only [settledIsl, coveredVi, islVi, hloop, hclk]

/-- The end of the wait on one island. -/
def settleStep (s : State) (i : Nat) : State :=
  let x := isl s i
  if !x.raise then s
  else if x.ps == .waking then setIsl s i { x with raise := false }
  else setIsl s i { x with raise := false, vi := if loopFreq s i < x.freq then x.vi else coveredVi s i (loopFreq s i) }

theorem settleStep_eq (s : State) (i : Nat) :
    settleStep s i = if (isl s i).raise then setIsl s i (settledIsl s i (isl s i)) else s := by
  unfold settleStep settledIsl
  by_cases hr : (isl s i).raise <;> by_cases hp : (isl s i).ps = .waking <;> simp [hr, hp]

/-- The end of the wait, over a list of islands, from a state that differs from `s` by such ends alone. -/
theorem settle_foldl {s : State} (l : List Nat) {t : State} (h : IslKeeps s t) : IslKeeps s (l.foldl settleStep t)
    ∧ ∀ d, isl (l.foldl settleStep t) d = if d ∈ l then settledIsl s d (isl t d) else isl t d := by
  induction l generalizing t with
  | nil => exact ⟨h, fun _ => rfl⟩
  | cons i l ih =>
    have hself : isl (settleStep t i) i = settledIsl s i (isl t i) := by
      rw [settleStep_eq]
      split
      · rw [isl_setIsl_self h.canon, settledIsl_congr h]
      · next hr => rw [settledIsl_settled (Bool.eq_false_of_not_eq_true hr)]
    have hother : ∀ k, k ≠ i → isl (settleStep t i) k = isl t k := fun k hk => by
      rw [settleStep_eq]
      split
      · rw [isl_setIsl_other h.canon _ _ hk]
      · rfl
    have hstep : IslKeeps s (settleStep t i) := by
      refine ⟨?_, ?_, fun k => ?_⟩
      · rw [settleStep_eq]
        split
        · rw [h.frame]
          rfl
        · exact h.frame
      · rw [settleStep_eq]
        split
        · exact setIsl_canon _ _ _ h.canon
        · exact h.canon
      · by_cases hk : k = i
        · rw [hk, hself, loopView_settledIsl, h.isl]
        · rw [hother k hk, h.isl]
    obtain ⟨hkeep, hisl⟩ := ih hstep
    refine ⟨hkeep, fun d => ?_⟩
    rw [List.foldl_cons, hisl d]
    by_cases hd : d = i
    · subst hd
      rw [hself, settledIsl_settled (settledIsl_raise ..), if_pos List.mem_cons_self, ite_self]
    · rw [hother d hd]
      simp [hd]

theorem exec_vddtSettleExpire {s : State} (h : s.clk.settling = true) : exec .vddtSettleExpire s =
    .next ((List.range 64).foldl settleStep { s with clk := { s.clk with settling := false } }) := by
  simp only [exec, execVddtSettleExpire, h]
  rfl

/-! ### Frequency steps (R310) -/

theorem exec_freqStep_up {s : State} {d : Isl} (hd : adaptive d.val = true) (hps : (isl s d.val).ps = .on)
    (hup : (isl s d.val).freq < effTarget s d.val) (hraise : (isl s d.val).raise = false) :
    exec (.freqStep d) s = .next (if (isl s d.val).vi.toNat < (islVi s d.val (effTarget s d.val)).toNat then adapt s d.val
        else setIsl s d.val { isl s d.val with freq := min (effTarget s d.val) ((isl s d.val).freq + 25) }) := by
  by_cases hvi : (isl s d.val).vi.toNat < (islVi s d.val (effTarget s d.val)).toNat
  · simp only [exec, execFreqStep, hd, hps, hup, hraise, if_pos hvi]
    rfl
  · simp only [exec, execFreqStep, hd, hps, hup, hraise, if_neg hvi]
    rfl

theorem exec_freqStep_down {s : State} {d : Isl} (hd : adaptive d.val = true) (hps : (isl s d.val).ps = .on)
    (hdown : effTarget s d.val < (isl s d.val).freq) : exec (.freqStep d) s = .next (setIsl s d.val { isl s d.val with
        freq := max (effTarget s d.val) ((isl s d.val).freq - 25)
        vi := if (isl s d.val).freq - 25 ≤ effTarget s d.val then coveredVi s d.val (effTarget s d.val) else (isl s d.val).vi }) := by
  have hno : ¬ (isl s d.val).freq < effTarget s d.val := Nat.lt_asymm hdown
  by_cases hlast : (isl s d.val).freq - 25 ≤ effTarget s d.val
  · have hf : max (effTarget s d.val) ((isl s d.val).freq - 25) = effTarget s d.val := max_eq_left hlast
    simp [exec, execFreqStep, hd, hps, hno, hdown, hlast]
  · have hf : max (effTarget s d.val) ((isl s d.val).freq - 25) ≠ effTarget s d.val := fun h => hlast (max_eq_left_iff.mp h)
    simp [exec, execFreqStep, hd, hps, hno, hdown, hlast]

/-- Settles O22: the loop's steps leave an island but for its VI and raise (`LoopKeeps`, `IslKeeps`). -/
theorem islandsAdapt : Obligations.IslandsAdapt := by
  refine ⟨fun s d u hs hd hps hfixed hthrottle => ?_, ⟨fun s d hd hps => ⟨exec_freqStep_up hd hps, exec_freqStep_down hd hps⟩,
    fun s hs hsettling => ?_, fun s hphase => ?_, fun s hphase => ?_⟩, fun s d hmon => ⟨fun n => ?_, ?_⟩⟩
  · have hview := isl_adaptiveWindowEnd hs d.val u.val
    have hframe := (loopKeeps_adaptMates (setIsl s d.val (windowIsl s d.val u.val)) d.val).frame
    refine ⟨_, exec_adaptiveWindowEnd u hd hps, (onlyClk_setIsl _ _ _).trans hframe, fun h90 h3 => ?_, fun h50 h15 => ?_, fun h50 h90 => ?_⟩
    · refine (congrArg Island.target hview :).trans ?_
      have hhi : min 4 ((isl s d.val).hi + 1) = 4 := by omega
      simp [loopView, windowIsl, windowTarget, h90, hhi, hthrottle]
    · refine (congrArg Island.target hview :).trans ?_
      simp [loopView, windowIsl, windowTarget, h50, h15, hfixed, hthrottle, show ¬ 90 ≤ u.val by omega]
    · have h90' : ¬ 90 ≤ u.val := Nat.not_le.mpr h90
      have h50' : ¬ u.val ≤ 50 := Nat.not_le.mpr h50
      refine ⟨(congrArg Island.target hview :).trans ?_, (congrArg Island.hi hview :).trans ?_, (congrArg Island.lo hview :).trans ?_⟩
      · simp [loopView, windowIsl, windowTarget, h50', h90', hfixed, hthrottle]
      · simp [loopView, windowIsl, h90']
      · simp [loopView, windowIsl, h50']
  · have hcanon : Canon { s with clk := { s.clk with settling := false } } := { hs with }
    obtain ⟨hkeep, hisl⟩ := settle_foldl (s := { s with clk := { s.clk with settling := false } }) (List.range 64) ⟨rfl, hcanon, fun _ => rfl⟩
    refine ⟨_, exec_vddtSettleExpire hsettling, ?_, ?_, ?_, fun d hd => ?_⟩
    · rw [hkeep.frame]
    · rw [hkeep.frame]
    · rw [hkeep.frame]
    · have hself : isl _ d = settledIsl s d (isl s d) := (hisl d).trans (if_pos (List.mem_range.mpr hd))
      rw [hself]
      refine ⟨settledIsl_raise s d _, (congrArg Island.freq (loopView_settledIsl s d (isl s d)) :), settledIsl_settled, fun hr => ?_⟩
      by_cases hp : (isl s d).ps = .waking
      · simp [settledIsl, hr, hp]
      · by_cases hf : loopFreq s d < (isl s d).freq <;> simp [settledIsl, hr, hp, hf]
  · simp [exec, execVddtLowerExpire, hphase]
  · simp [exec, execVddtLowerExpire, hphase]
  · simp [exec, execDelayMarginNegative, hmon, satAdd]
  · simp [exec, execMarginReturn, hmon]

end Sys2Proof.Proofs
end

section
/-! Temperature limits and the island registers (R313, R315, R317, Table 14-7). -/

namespace Sys2Proof.Proofs

open Sys2Proof Sys2Proof.Machine Sys2Proof.Laws

/-! ### The thermal limit (R313) -/

/-- One step of the thermal limit: a powered adaptive island lowers its target. -/
def coolStep (s : State) (i : Nat) : State :=
  let x := isl s i
  if adaptive i && x.ps == .on then setIsl s i { x with target := max x.fmin (x.target - 25) } else s

/-- A step of an island over a list without repeats: each listed island changes once. -/
theorem isl_foldl_nodup {F : State → Nat → State} {g : Nat → Island → Island} (hcanon : ∀ s i, Canon s → Canon (F s i))
    (hself : ∀ s i, Canon s → isl (F s i) i = g i (isl s i)) (hother : ∀ s i k, Canon s → k ≠ i → isl (F s i) k = isl s k)
    {l : List Nat} (hl : l.Nodup) {s : State} (hs : Canon s) (j : Nat) :
    isl (l.foldl F s) j = if j ∈ l then g j (isl s j) else isl s j := by
  induction l generalizing s with
  | nil => rfl
  | cons i l ih =>
    obtain ⟨hnot, hl⟩ := List.nodup_cons.mp hl
    rw [List.foldl_cons, ih hl (hcanon s i hs)]
    by_cases hj : j = i
    · subst hj
      rw [if_neg hnot, if_pos List.mem_cons_self, hself s j hs]
    · rw [hother s i j hs hj]
      simp [hj]

/-- An island behind one step of the thermal limit. -/
def cooled (i : Nat) (x : Island) : Island :=
  if adaptive i && x.ps == .on then { x with target := max x.fmin (x.target - 25) } else x

theorem isl_foldl_coolStep {s : State} (hs : Canon s) (j : Nat) :
    isl ((List.range 64).foldl coolStep s) j = if j ∈ List.range 64 then cooled j (isl s j) else isl s j := by
  refine isl_foldl_nodup (fun s i hs => ?_) (fun s i hs => ?_) (fun s i k hs hk => ?_) List.nodup_range hs j
  · unfold coolStep
    extract_lets x
    split
    · exact setIsl_canon _ _ _ hs
    · exact hs
  · unfold coolStep cooled
    extract_lets x
    split
    · exact isl_setIsl_self hs _ _
    · rfl
  · unfold coolStep
    extract_lets x
    split
    · exact isl_setIsl_other hs _ _ hk
    · rfl

theorem foldl_coolStep_frame (l : List Nat) (s : State) : l.foldl coolStep s = { s with clk := { s.clk with isl := (l.foldl coolStep s).clk.isl } } := by
  induction l generalizing s with
  | nil => rfl
  | cons i l ih =>
    have hstep : coolStep s i = { s with clk := { s.clk with isl := (coolStep s i).clk.isl } } := by
      unfold coolStep
      extract_lets x
      split <;> rfl
    rw [List.foldl_cons, ih (coolStep s i)]
    rw [hstep]

/-- The state in which a sensor's reading at TLIM or above has thrown the throttle. -/
def throttled (s : State) (x : Byte) : State := { s with clk := { s.clk with temp := max s.clk.temp x.toNat, throttle := true } }

theorem exec_thermalLimit {s : State} (i : Fin 16) {x : Byte} (hphase : s.boot.phase ≠ .cold) (hlim : s.clk.tlim ≤ x.toNat) :
    exec (.thermalLimit i x) s = .next (if 105 ≤ x.toNat then raise ((List.range 64).foldl coolStep (throttled s x)) 0x02 i.val x.toNat 0x40
      else (List.range 64).foldl coolStep (throttled s x)) := by
  have hphase' : (s.boot.phase == .cold) = false := beq_eq_false_iff_ne.mpr hphase
  have hlim' : ¬ x.toNat < s.clk.tlim := Nat.not_lt.mpr hlim
  simp only [exec, execThermalLimit, hphase', if_neg hlim']
  rfl

theorem exec_thermalLimit_below {s : State} (i : Fin 16) {x : Byte} (hphase : s.boot.phase ≠ .cold) (hlim : x.toNat < s.clk.tlim) :
    exec (.thermalLimit i x) s = .next { s with clk := { s.clk with temp := max s.clk.temp x.toNat } } := by
  simp [exec, execThermalLimit, hphase, hlim]

theorem exec_tempFall {s : State} {x : Byte} (hphase : s.boot.phase ≠ .cold) (hx : x.toNat < s.clk.temp) : ∃ q,
    exec (.tempFall x) s = .next { s with
      clk := { s.clk with temp := x.toNat, throttle := s.clk.throttle && decide (s.clk.tlim ≤ x.toNat) }
      aon := { s.aon with fc := { s.aon.fc with quiet := q } } } := by
  have hno : ¬ (s.clk.temp ≤ x.toNat ∨ s.boot.phase = .cold) := fun h => h.elim (Nat.not_le.mpr hx) hphase
  by_cases hq : s.clk.tlim ≤ s.clk.temp + 10 ∧ x.toNat + 10 < s.clk.tlim
  · refine ⟨s.aon.fc.acyc, ?_⟩
    simp only [exec, execTempFall, if_neg hno, if_pos hq]
    rfl
  · refine ⟨s.aon.fc.quiet, ?_⟩
    simp only [exec, execTempFall, if_neg hno, if_neg hq]

/-! ### MZ_ISL_LIM (R317) -/

theorem exec_islLimWrite {s : State} {d : Isl} {ns : Bool} (v : W32) (hserved : Served s (0x4004 + 0x10 * d.val) ns (islSecure s d.val))
    (hd : adaptive d.val = true) : exec (.islLimWrite d ns v) s = .next (emit
      (if fld v 16 11 < fld v 0 11 ∨ freqOk d.val (fld v 0 11) = false ∨ freqOk d.val (fld v 16 11) = false
        then raise s 0x04 (0x4004 + 0x10 * d.val) 0 mmioIsland
        else
          let u := setIsl s d.val { isl s d.val with
            fmin := fld v 0 11, fmax := fld v 16 11, fixed := bitOf v 31
            target := if s.clk.throttle then min (fld v 16 11) (isl s d.val).target
              else if bitOf v 31 then fld v 16 11 else min (fld v 16 11) (max (fld v 0 11) (isl s d.val).target) }
          if (isl s d.val).ps = .waking then startWake u d.val else adaptMates u d.val) (.mmio 0 0)) := by
  have hoff : islOff d.val 4 = 0x4004 + 0x10 * d.val := by unfold islOff; omega
  by_cases hbad : fld v 16 11 < fld v 0 11 ∨ freqOk d.val (fld v 0 11) = false ∨ freqOk d.val (fld v 16 11) = false
  · have hbad' : (decide (fld v 16 11 < fld v 0 11) || !freqOk d.val (fld v 0 11) || !freqOk d.val (fld v 16 11)) = true := by
      obtain h | h | h := hbad <;> simp [h]
    rw [if_pos hbad]
    simp only [exec, execIslLimWrite, hoff, mmioW_of_served hserved, hd, hbad', refuse_eq_raise]
    rfl
  · have hgood : (decide (fld v 16 11 < fld v 0 11) || !freqOk d.val (fld v 0 11) || !freqOk d.val (fld v 16 11)) = false := by
      simpa [not_or, and_assoc] using hbad
    rw [if_neg hbad]
    simp only [exec, execIslLimWrite, hoff, mmioW_of_served hserved, hd, hgood, beq_iff_eq]
    rfl

/-! ### MZ_ISL_PWR (R314, R315) -/

/-- An island behind a write of its policy register. -/
def policyIsl (s : State) (d : Nat) (v : W32) : Island :=
  { isl s d with policy := bitOf v 0, idlek := if 4 ≤ fld v 8 4 then fld v 8 4 else (isl s d).idlek }

theorem exec_islPolicyWrite {s : State} {d : Isl} {ns : Bool} (v : W32) (hserved : Served s (0x4008 + 0x10 * d.val) ns (islSecure s d.val)) :
    exec (.islPolicyWrite d ns v) s = .next (emit (if bitOf v 0 then need (setIsl s d.val (policyIsl s d.val v)) d.val
      else setIsl s d.val (policyIsl s d.val v)) (.mmio 0 0)) := by
  have hoff : islOff d.val 8 = 0x4008 + 0x10 * d.val := by unfold islOff; omega
  simp only [exec, execIslPolicyWrite, hoff, mmioW_of_served hserved]
  rfl

/-- A need changes nothing for a domain that is on or wakes, for AON, and for a bank group that no pool names. -/
theorem need_idle {s : State} {d : Nat} (h : (isl s d).ps = .on ∨ (isl s d).ps = .waking ∨ d = 0x40 ∨ bankUnnamed s d = true) :
    need s d = s := by
  by_cases hno : d = 0x40 ∨ s.aon.fc.st = .safe ∨ s.boot.phase ≠ .running ∨ bankUnnamed s d = true
  · simp only [need, if_pos hno]
  · have hps : (isl s d).ps = .on ∨ (isl s d).ps = .waking := by tauto
    simp only [need, if_neg hno]
    obtain hps | hps := hps <;> rw [hps]

theorem need_gating {s : State} {d : Nat} (hd : d ≠ 0x40) (hop : operating s = true) (hbank : bankUnnamed s d = false)
    (hps : (isl s d).ps = .gating) : need s d = setIsl s d { isl s d with wantWake := true } := by
  obtain ⟨hphase, hst⟩ := operating_iff.mp hop
  have hno : ¬ (d = 0x40 ∨ s.aon.fc.st = .safe ∨ s.boot.phase ≠ .running ∨ bankUnnamed s d = true) := by simp [hd, hphase, hst, hbank]
  simp only [need, if_neg hno, hps]

/-- An island but for its power state and what goes with a wake. -/
def wakeView (x : Island) : Island := { x with ps := .on, raise := false, wantWake := false }

/-- What needs and wakes leave of every island. -/
structure ViewKeeps (s t : State) : Prop where
  canon : Canon s → Canon t
  view : Canon s → ∀ k, wakeView (isl t k) = wakeView (isl s k)

theorem ViewKeeps.refl (s : State) : ViewKeeps s s := ⟨id, fun _ _ => rfl⟩

theorem ViewKeeps.trans {s t u : State} (h : ViewKeeps s t) (k : ViewKeeps t u) : ViewKeeps s u :=
  ⟨fun hs => k.canon (h.canon hs), fun hs d => (k.view (h.canon hs) d).trans (h.view hs d)⟩

theorem viewKeeps_setIsl (s : State) (d : Nat) {x : Island} (h : wakeView x = wakeView (isl s d)) : ViewKeeps s (setIsl s d x) := by
  refine ⟨setIsl_canon _ _ _, fun hs k => ?_⟩
  by_cases hk : k = d
  · rw [hk, isl_setIsl_self hs, h]
  · rw [isl_setIsl_other hs _ _ hk]

theorem viewKeeps_startWake (s : State) (d : Nat) : ViewKeeps s (startWake s d) := by
  refine ⟨startWake_canon s d, fun hs k => ?_⟩
  by_cases hk : k = d
  · rw [hk, isl_startWake_self hs]
    rfl
  · rw [isl_startWake_other hs hk]

theorem viewKeeps_startWakes (n : Nat) (s : State) : ViewKeeps s (startWakes n s) := by
  induction n generalizing s with
  | zero => exact .refl s
  | succ n ih =>
    unfold startWakes
    split
    · exact .refl s
    · next a q _ =>
      have hq : ViewKeeps s { s with clk := { s.clk with wakeq := q } } := ⟨fun hs => { hs with }, fun _ _ => rfl⟩
      split
      · exact hq.trans ((viewKeeps_startWake _ a).trans (ih _))
      · exact .refl s

theorem viewKeeps_need (s : State) (d : Nat) : ViewKeeps s (need s d) := by
  unfold need
  extract_lets x
  split
  · exact .refl s
  split
  · split
    · exact .refl s
    · exact .trans (t := wakeQueued s d) ⟨fun hs => { hs with }, fun _ _ => rfl⟩ (viewKeeps_startWakes 64 _)
  · exact viewKeeps_setIsl s d rfl
  · exact .refl s

/-- With no other wake in the queue, a need changes its own domain's record alone. -/
theorem isl_startWakes_one {s : State} {d k : Nat} (hs : Canon s) (hq : s.clk.wakeq = [d]) (hk : k ≠ d) (n : Nat) :
    isl (startWakes n s) k = isl s k := by
  cases n with
  | zero => rfl
  | succ n =>
    have hcanon : Canon { s with clk := { s.clk with wakeq := [] } } := { hs with }
    simp only [startWakes, hq]
    split
    · rw [startWakes_idle (by rw [startWake_wakeq]), isl_startWake_other hcanon hk]
      rfl
    · rfl

theorem isl_need_other {s : State} {d k : Nat} (hs : Canon s) (hq : s.clk.wakeq = []) (hk : k ≠ d) : isl (need s d) k = isl s k := by
  unfold need
  extract_lets x
  split
  · rfl
  split
  · split
    · rfl
    · exact isl_startWakes_one (s := wakeQueued s d) { hs with } (by simp [wakeQueued, hq]) hk 64
  · exact isl_setIsl_other hs _ _ hk
  · rfl

/-- Settles O23: each write is one equation, and what a need leaves of the islands is said by `ViewKeeps`. -/
theorem islandRegistersAndLimits : Obligations.IslandRegistersAndLimits := by
  refine ⟨⟨fun s i x hs hphase hlim => ?_, fun s i x hphase hlim => exec_thermalLimit_below i hphase hlim, fun s x hphase hx => ?_⟩,
    fun s d ns v hserved hd => ⟨fun hlo hhi hle => ?_, fun hbad => ?_⟩, fun s d ns v hserved => ⟨fun hs hor => ?_, fun hs hbit h40 hbank => ?_⟩⟩
  · have hframe := foldl_coolStep_frame (List.range 64) (throttled s x)
    have htarget : ∀ d, d < 64 → adaptive d = true → (isl s d).ps = .on →
        (isl ((List.range 64).foldl coolStep (throttled s x)) d).target = max (isl s d).fmin ((isl s d).target - 25) := by
      intro d hd had hps
      have hcanon : Canon (throttled s x) := { hs with }
      rw [isl_foldl_coolStep hcanon, if_pos (List.mem_range.mpr hd)]
      simp [cooled, had, show (isl (throttled s x) d) = isl s d from rfl, hps]
    generalize hu : (List.range 64).foldl coolStep (throttled s x) = u at hframe htarget
    have hexec := exec_thermalLimit i hphase hlim
    rw [hu] at hexec
    refine ⟨_, hexec, ?_⟩
    by_cases h105 : 105 ≤ x.toNat
    · rw [if_pos h105]
      have haon : u.aon = s.aon := by rw [hframe]; rfl
      have hclk : (raise u 0x02 i.val x.toNat 0x40).clk = u.clk := raise_clk ..
      refine ⟨?_, ?_, ?_, fun d hd had hps => ?_, fun _ => crosses_raise_of (by rw [haon]) .., fun h => absurd h105 (Nat.not_le.mpr h)⟩
      · have hon : OnlyAon u _ := onlyAon_raise u 0x02 i.val x.toNat 0x40
        rw [hclk]
        refine Eq.trans hon ?_
        rw [hframe]
        rfl
      · rw [hclk, hframe]; rfl
      · rw [hclk, hframe]; rfl
      · simp only [isl, hclk]
        exact htarget d hd had hps
    · rw [if_neg h105]
      refine ⟨?_, ?_, ?_, htarget, fun h => absurd h h105, fun _ => ?_⟩
      · rw [hframe]; rfl
      · rw [hframe]; rfl
      · rw [hframe]; rfl
      · rw [hframe]; rfl
  · obtain ⟨q, hexec⟩ := exec_tempFall hphase hx
    exact ⟨_, hexec, rfl, rfl⟩
  · intro u
    rw [exec_islLimWrite v hserved hd, if_neg]
    simp [hlo, hhi, hle]
  · exact ⟨raise s 0x04 (0x4004 + 0x10 * d.val) 0 mmioIsland, by rw [exec_islLimWrite v hserved hd, if_pos hbad], onlyAon_raise ..,
      crosses_raise ..⟩
  · rw [exec_islPolicyWrite v hserved]
    by_cases hbit : bitOf v 0 = true
    · have hself := isl_setIsl_self hs d.val (policyIsl s d.val v)
      rw [if_pos hbit, need_idle]
      · rfl
      · rw [hself]
        exact hor.resolve_left (by simp [hbit])
    · rw [if_neg hbit]
      rfl
  · have hself := isl_setIsl_self hs d.val (policyIsl s d.val v)
    have hcanon := setIsl_canon s d.val (policyIsl s d.val v) hs
    have hst : s.aon.fc.st ≠ .safe := fun h => by
      have hpage := hserved.page h
      simp [safePage] at hpage
      omega
    have hop : operating s = true := operating_iff.mpr ⟨mmioReady_phase hserved.ready, hst⟩
    have hview := (viewKeeps_need (setIsl s d.val (policyIsl s d.val v)) d.val).view hcanon d.val
    rw [hself] at hview
    refine ⟨_, by rw [exec_islPolicyWrite v hserved, if_pos hbit], onlyClk_need (setIsl s d.val (policyIsl s d.val v)) d.val,
      fun hps => ?_, fun hps => ⟨?_, ?_, ?_, fun hq k hk => ?_⟩⟩
    · rw [need_gating (s := setIsl s d.val (policyIsl s d.val v)) h40 hop hbank (by rw [hself]; exact hps), hself]
      refine ⟨isl_setIsl_self hcanon _ _, fun k hk => ?_⟩
      rw [isl_setIsl_other hcanon _ _ hk, isl_setIsl_other hs _ _ hk]
    · exact (congrArg Island.policy hview :).trans hbit
    · exact (congrArg Island.idlek hview :)
    · have hlt : d.val < 64 := by have := d.isLt; omega
      exact wanted_need hcanon hlt (by rw [hself]; exact hps) hop hbank
    · rw [isl_need_other hcanon hq hk, isl_setIsl_other hs _ _ hk]

end Sys2Proof.Proofs
end

section
/-! Channels: the end of a record and MZ_CH_CQ_HEAD (R71). -/

namespace Sys2Proof.Proofs

open Sys2Proof Sys2Proof.Machine Sys2Proof.Laws

/-- A table of channels that lists channel 0 twice: at rest with HEAD 1, and then in CQ_FULL with a stream that has ended. -/
def channelListedTwice : State := { Tests.run with
  chans := [(0, { cqHead := 1 }), (0, { st := .cqFull, cqHead := 5, stream := some (Tests.strm 0 (.done cOK 0)) })] }

theorem served_channelListedTwice : Served channelListedTwice (chOff 0 0x18) false (chanSecure channelListedTwice 0) :=
  ⟨by decide +kernel, by decide +kernel, by decide +kernel⟩

/-- Behind a write of 0 to the HEAD of the first record, the second one stands for the channel, and completes. -/
theorem cqHeadWrite_channelListedTwice : ∃ t, exec (.cqHeadWrite 0 false 0) channelListedTwice = .next t ∧ (chan t 0).st ≠ .cqFull := by
  refine ⟨_, rfl, ?_⟩
  decide +kernel

/-- Refutes O29: its clause on MZ_CH_CQ_HEAD does not suppose `Canon`; where the table lists a channel twice and the write makes the first
record the reset record, the second one, which waits in CQ_FULL, completes. -/
theorem not_recordsEndAndHeadMoves : ¬ Obligations.RecordsEndAndHeadMoves := by
  intro h
  obtain ⟨-, -, hhead⟩ := h
  have hexec := hhead channelListedTwice 0 false 0 served_channelListedTwice (by decide +kernel)
  obtain ⟨t, ht, hst⟩ := cqHeadWrite_channelListedTwice
  rw [hexec] at ht
  cases ht
  exact hst (by decide +kernel)

end Sys2Proof.Proofs
end

section
/-! The fetch of a batch and the doorbell (R49, R51, R71). -/

namespace Sys2Proof.Proofs

open Sys2Proof Sys2Proof.Machine Sys2Proof.Laws

/-! ### What a fetch changes -/

/-- A step that touches channels, domains and what is outstanding under an ID, and nothing else. -/
def OnlyFetch (s t : State) : Prop := t = { s with
  chans := t.chans, clk := t.clk, out := t.out, path := { s.path with nextId := t.path.nextId }, ports := { s.ports with own := t.ports.own } }

theorem OnlyFetch.refl (s : State) : OnlyFetch s s := rfl

theorem OnlyFetch.trans {s t u : State} (h₁ : OnlyFetch s t) (h₂ : OnlyFetch t u) : OnlyFetch s u := by
  unfold OnlyFetch at h₁ h₂ ⊢
  rw [h₁] at h₂
  exact h₂

theorem onlyFetch_setChan (s : State) (c : Nat) (x : Chan) : OnlyFetch s (setChan s c x) := rfl

theorem OnlyClk.onlyFetch {s t : State} (h : OnlyClk s t) : OnlyFetch s t := by
  unfold OnlyFetch
  rw [h]

/-- The requests of a fetch go in flight on their lines' ports. -/
theorem ownReq_foldl (c : Nat) (l : List Nat) (s : State) :
    ∃ new id, l.foldl (fun s a => (ownReq s (memPortOf s a) 0 a (.fetch c)).1) s
        = { s with path := { s.path with nextId := id }, ports := { s.ports with own := s.ports.own ++ new } }
      ∧ new.map (fun e => (e.port, e.op, e.addr, e.kind)) = l.map fun a => (memPortOf s a, 0, a, .fetch c) := by
  induction l generalizing s with
  | nil => exact ⟨[], s.path.nextId, by simp, rfl⟩
  | cons a l ih =>
    obtain ⟨new, id, heq, hmap⟩ := ih (ownReq s (memPortOf s a) 0 a (.fetch c)).1
    refine ⟨⟨takeId s (memPortOf s a), memPortOf s a, 0, a, .fetch c, none⟩ :: new, id, ?_, ?_⟩
    · rw [List.foldl_cons, heq]
      simp only [ownReq, ownReqAs, List.append_assoc, List.cons_append, List.nil_append]
    · rw [List.map_cons, List.map_cons, hmap]
      rfl

/-- A fetch that leaves: its requests, its output, and its channel's record. -/
theorem sendFetch_sent (s : State) (c b : Nat) : FetchSent s (sendFetch s c b) c b ∧ OnlyFetch s (sendFetch s c b)
    ∧ (sendFetch s c b).chans = (setChan s c { chan s c with fetching := some b, fetchDue := none }).chans := by
  obtain ⟨new, id, heq, hmap⟩ := ownReq_foldl c (fetchLines s b) (setChan s c { chan s c with fetching := some b, fetchDue := none })
  have hsend : sendFetch s c b = emit _ (.fetch c b (fetchIds _ c)) :=
    congrArg (fun t : State => emit t (.fetch c b (fetchIds t c))) heq
  rw [hsend]
  exact ⟨⟨rfl, new, rfl, hmap⟩, rfl, rfl⟩

/-- What the start of a fetch leaves. -/
structure FetchStarts (s t : State) (c b : Nat) : Prop where
  frame : OnlyFetch s t
  clk : t.clk = s.clk
  others : ∀ d, d ≠ c → chan t d = chan s d
  self : chan t c = { chan s c with
    fetching := if fetchReady s c b then some b else (chan s c).fetching
    fetchDue := if fetchReady s c b then none else some b }
  sent : fetchReady s c b = true → FetchSent s t c b
  held : fetchReady s c b = false → t.out = s.out

theorem sendFetch_clk (s : State) (c b : Nat) : (sendFetch s c b).clk = s.clk := congrArg Prod.fst (clkImg_sendFetch s c b)

theorem startFetch_starts {s : State} (hs : Canon s) (c b : Nat) : FetchStarts s (startFetch s c b) c b := by
  unfold startFetch
  split
  · next h =>
    obtain ⟨hsent, honly, hchans⟩ := sendFetch_sent s c b
    have hchan : ∀ d, chan (sendFetch s c b) d = chan (setChan s c { chan s c with fetching := some b, fetchDue := none }) d :=
      fun d => congrArg (fun l => tget (fun _ => ({} : Chan)) l d) hchans
    refine ⟨honly, sendFetch_clk s c b, fun d hd => ?_, ?_, fun _ => hsent, fun hn => absurd (hn.symm.trans h) (by decide)⟩
    · rw [hchan, chan_setChan_other hs _ _ hd]
    · rw [hchan, chan_setChan_self hs, if_pos h, if_pos h]
  · next h =>
    refine ⟨rfl, rfl, fun d hd => chan_setChan_other hs _ _ hd, ?_, fun h' => absurd h' h, fun _ => rfl⟩
    rw [chan_setChan_self hs, if_neg h, if_neg h]

theorem onlyClk_fetchNeed (s : State) (c : Nat) : OnlyClk s (fetchNeed s c) := by
  unfold fetchNeed
  split
  · exact (onlyClk_need _ _).trans (onlyClk_foldl (fun s a => onlyClk_need s _) _ _)
  · exact .refl s

theorem OnlyClk.fetchSent {s t u : State} {c b : Nat} (h : FetchSent s t c b) (hu : OnlyClk t u) : FetchSent s u c b := by
  rw [hu]
  exact ⟨h.out, h.own⟩

/-! ### The doorbell -/

/-- What the model refuses a doorbell for: DETAIL 9 or 5. -/
def doorbellRefused (s : State) (c d : Nat) : State := refuse (setChan s c { chan s c with lastCode := 2 }) (chOff c 8) d (feIsland c)

/-- A doorbell in IDLE: the state in which the fetch starts. -/
def doorbellRuns (s : State) (c : Nat) : State :=
  { setChan s c { chan s c with
      st := .running, la := if (fe s (c / 128)).fixed then 8 * (fe s (c / 128)).lamaxb else 8, stamp := s.order, gen := (chan s c).gen + 1
      fetchTries := 0, fetched := [] } with order := s.order + 1 }

/-- A doorbell outside IDLE sets PENDING. -/
def doorbellPends (s : State) (c : Nat) : State :=
  if (chan s c).pending then s else setChan { s with order := s.order + 1 } c { chan s c with pending := true, pstamp := s.order }

theorem ringDoorbell_disabled {s : State} {c : Nat} (h : chState s c = .disabled) : ringDoorbell s c = doorbellRefused s c 9 := by
  simp [ringDoorbell, h, doorbellRefused]

theorem ringDoorbell_blocked {s : State} {c : Nat} (h : (chan s c).blocked = true) : ringDoorbell s c = doorbellRefused s c 9 := by
  simp [ringDoorbell, h, doorbellRefused]

theorem chState_enabled {s : State} {c : Nat} (h : chState s c ≠ .disabled) : chState s c = (chan s c).st := by
  unfold chState at h ⊢
  split at h
  · next hv => rw [if_pos hv]
  · exact absurd rfl h

theorem ringDoorbell_idle {s : State} {c : Nat} (h : chState s c = .idle) (hb : (chan s c).blocked = false) : ringDoorbell s c
    = if (4096 * (chan s c).cqBase.toNat) % (16 * 2 ^ (chan s c).log2n) ≠ 0 then doorbellRefused s c 5
      else startFetch (doorbellRuns s c) c ((chan s c).head.toNat / 512 * 512) := by
  have hst : (chan s c).st = .idle := (chState_enabled (by rw [h]; decide)).symm.trans h
  rw [Nat.mul_comm 16]
  simp [ringDoorbell, h, hb, hst, doorbellRefused, doorbellRuns]

theorem ringDoorbell_busy {s : State} {c : Nat} (h : chState s c ≠ .disabled) (hi : chState s c ≠ .idle) (hb : (chan s c).blocked = false) :
    ringDoorbell s c = doorbellPends s c := by
  have hst := chState_enabled h
  rw [hst] at hi
  unfold ringDoorbell
  extract_lets x
  rw [if_neg (by simpa using h), if_neg (by rw [hb]; decide)]
  split
  · next hidle => exact absurd hidle hi
  · rfl

/-- What a doorbell may change. -/
def OnlyRing (s t : State) : Prop := t = { s with
  chans := t.chans, clk := t.clk, aon := t.aon, fresh := t.fresh, order := t.order, out := t.out
  path := { s.path with nextId := t.path.nextId }, ports := { s.ports with own := t.ports.own } }

theorem doorbellRefused_chans (s : State) (c d : Nat) :
    (doorbellRefused s c d).chans = (setChan s c { chan s c with lastCode := 2 }).chans := by
  rw [doorbellRefused, refuse_eq_raise, raise_chans]

theorem onlyRing_doorbellRefused (s : State) (c d : Nat) : OnlyRing s (doorbellRefused s c d) ∧ (doorbellRefused s c d).out = s.out := by
  have h := onlyAon_raise (setChan s c { chan s c with lastCode := 2 }) 0x04 (chOff c 8) d (feIsland c)
  rw [← refuse_eq_raise] at h
  unfold OnlyRing doorbellRefused
  rw [h]
  exact ⟨rfl, rfl⟩

theorem crosses_doorbellRefused (s : State) (c d : Nat) : Crosses s (doorbellRefused s c d) 0x04 (chOff c 8) d (feIsland c) := by
  rw [doorbellRefused, refuse_eq_raise]
  exact crosses_raise_of rfl _ _ _ _

theorem chan_doorbellRefused_self {s : State} (hs : Canon s) (c d : Nat) :
    chan (doorbellRefused s c d) c = { chan s c with lastCode := 2 } := by
  rw [chan, doorbellRefused_chans]
  exact chan_setChan_self hs c _

theorem chan_doorbellRefused_other {s : State} (hs : Canon s) {c k : Nat} (h : k ≠ c) (d : Nat) :
    chan (doorbellRefused s c d) k = chan s k := by
  rw [chan, doorbellRefused_chans]
  exact chan_setChan_other hs c _ h

theorem chan_doorbellRuns_self {s : State} (hs : Canon s) (c : Nat) : ∃ la, chan (doorbellRuns s c) c = { chan s c with
    st := .running, fetchTries := 0, fetched := [], gen := (chan s c).gen + 1, stamp := s.order, la := la } :=
  ⟨_, chan_setChan_self hs c _⟩

theorem doorbellRuns_canon {s : State} (hs : Canon s) (c : Nat) : Canon (doorbellRuns s c) :=
  have h := setChan_canon s c { chan s c with
      st := .running, la := if (fe s (c / 128)).fixed then 8 * (fe s (c / 128)).lamaxb else 8, stamp := s.order, gen := (chan s c).gen + 1
      fetchTries := 0, fetched := [] } hs
  { h with }

theorem fetchReady_doorbellRuns (s : State) (c b : Nat) : fetchReady (doorbellRuns s c) c b = fetchReady s c b := rfl

/-- A doorbell in IDLE starts a fetch. -/
theorem doorbellRuns_starts {s : State} (hs : Canon s) (c b : Nat) {t : State} (h : FetchStarts (doorbellRuns s c) t c b) :
    OnlyRing s t ∧ (∀ d, d ≠ c → chan t d = chan s d) ∧ (fetchReady s c b = true → FetchSent s t c b) ∧ (fetchReady s c b = false → t.out = s.out)
      ∧ ∃ la, chan t c = { chan s c with
          st := .running, fetching := if fetchReady s c b then some b else (chan s c).fetching
          fetchDue := if fetchReady s c b then none else some b
          fetchTries := 0, fetched := [], gen := (chan s c).gen + 1, stamp := s.order, la := la } := by
  obtain ⟨hframe, -, hothers, hself, hsent, hheld⟩ := h
  rw [fetchReady_doorbellRuns] at hself hsent hheld
  refine ⟨?_, fun d hd => (hothers d hd).trans (chan_setChan_other hs c _ hd), fun hr => ?_, hheld, ?_⟩
  · unfold OnlyRing
    rw [hframe]
    rfl
  · exact ⟨(hsent hr).out, (hsent hr).own⟩
  · obtain ⟨la, hla⟩ := chan_doorbellRuns_self hs c
    rw [hla] at hself
    exact ⟨la, hself⟩

/-- What a doorbell does (R49, R71). -/
structure Rung (s t : State) (c : Nat) : Prop where
  frame : OnlyRing s t
  others : ∀ d, d ≠ c → chan t d = chan s d
  starts : chState s c = .idle → (chan s c).blocked = false → (4096 * (chan s c).cqBase.toNat) % (16 * 2 ^ (chan s c).log2n) = 0 →
    let a := (chan s c).head.toNat / 512 * 512
    (fetchReady s c a = true → FetchSent s t c a) ∧ (fetchReady s c a = false → t.out = s.out) ∧ ∃ la, chan t c = { chan s c with
        st := .running, fetching := if fetchReady s c a then some a else (chan s c).fetching
        fetchDue := if fetchReady s c a then none else some a
        fetchTries := 0, fetched := [], gen := (chan s c).gen + 1, stamp := s.order, la := la }
  pends : chState s c ≠ .disabled → chState s c ≠ .idle → (chan s c).blocked = false → t.out = s.out ∧ chan t c = { chan s c with
    pending := true, pstamp := if (chan s c).pending then (chan s c).pstamp else s.order }
  disabled : chState s c = .disabled → t.out = s.out ∧ chan t c = { chan s c with lastCode := 2 }
    ∧ Crosses s t 0x04 (chOff c 8) 9 (feIsland c)
  misaligned : chState s c = .idle → (chan s c).blocked = false → (4096 * (chan s c).cqBase.toNat) % (16 * 2 ^ (chan s c).log2n) ≠ 0 →
    t.out = s.out ∧ chan t c = { chan s c with lastCode := 2 } ∧ Crosses s t 0x04 (chOff c 8) 5 (feIsland c)

theorem doorbellPends_result {s : State} (hs : Canon s) (c : Nat) : OnlyRing s (doorbellPends s c)
    ∧ (∀ d, d ≠ c → chan (doorbellPends s c) d = chan s d) ∧ (doorbellPends s c).out = s.out
    ∧ chan (doorbellPends s c) c = { chan s c with
        pending := true, pstamp := if (chan s c).pending then (chan s c).pstamp else s.order } := by
  have hs' : Canon { s with order := s.order + 1 } := { hs with }
  unfold doorbellPends
  split
  · next h =>
    refine ⟨rfl, fun _ _ => rfl, rfl, ?_⟩
    rw [← h]
  · exact ⟨rfl, fun d hd => chan_setChan_other hs' c _ hd, rfl, chan_setChan_self hs' c _⟩

theorem rung_ringDoorbell {s : State} (hs : Canon s) (c : Nat) : Rung s (ringDoorbell s c) c := by
  have refused : ∀ d, OnlyRing s (doorbellRefused s c d) ∧ (∀ k, k ≠ c → chan (doorbellRefused s c d) k = chan s k)
      ∧ (doorbellRefused s c d).out = s.out ∧ chan (doorbellRefused s c d) c = { chan s c with lastCode := 2 }
      ∧ Crosses s (doorbellRefused s c d) 0x04 (chOff c 8) d (feIsland c) := fun d =>
    ⟨(onlyRing_doorbellRefused s c d).1, fun k hk => chan_doorbellRefused_other hs hk d, (onlyRing_doorbellRefused s c d).2,
      chan_doorbellRefused_self hs c d, crosses_doorbellRefused s c d⟩
  by_cases hd : chState s c = .disabled
  · obtain ⟨hframe, hothers, hout, hself, hcross⟩ := refused 9
    rw [ringDoorbell_disabled hd]
    exact ⟨hframe, hothers, fun hi => absurd (hd.symm.trans hi) (by decide), fun hn => absurd hd hn, fun _ => ⟨hout, hself, hcross⟩,
      fun hi => absurd (hd.symm.trans hi) (by decide)⟩
  by_cases hb : (chan s c).blocked = true
  · obtain ⟨hframe, hothers, hout, hself, hcross⟩ := refused 9
    rw [ringDoorbell_blocked hb]
    exact ⟨hframe, hothers, fun _ hn => absurd (hb.symm.trans hn) (by decide), fun _ _ hn => absurd (hb.symm.trans hn) (by decide),
      fun h => absurd h hd, fun _ hn => absurd (hb.symm.trans hn) (by decide)⟩
  have hb' : (chan s c).blocked = false := by simpa using hb
  by_cases hi : chState s c = .idle
  · rw [ringDoorbell_idle hi hb']
    split
    · next hbad =>
      obtain ⟨hframe, hothers, hout, hself, hcross⟩ := refused 5
      exact ⟨hframe, hothers, fun _ _ hgood => absurd hgood hbad, fun _ hn => absurd hi hn, fun h => absurd h hd, fun _ _ _ => ⟨hout, hself, hcross⟩⟩
    · next hgood =>
      obtain ⟨hframe, hothers, hsent, hheld, hself⟩ := doorbellRuns_starts hs c _ (startFetch_starts (doorbellRuns_canon hs c) c _)
      exact ⟨hframe, hothers, fun _ _ _ => ⟨hsent, hheld, hself⟩, fun _ hn => absurd hi hn, fun h => absurd h hd,
        fun _ _ hbad => absurd (not_not.mp hgood) hbad⟩
  · rw [ringDoorbell_busy hd hi hb']
    obtain ⟨hframe, hothers, hout, hself⟩ := doorbellPends_result hs c
    exact ⟨hframe, hothers, fun h => absurd h hi, fun _ _ _ => ⟨hout, hself⟩, fun h => absurd h hd, fun h => absurd h hi⟩

/-- What wakes for a fetch that is held leaves what the doorbell did. -/
theorem Rung.onlyClk {s t u : State} {c : Nat} (h : Rung s t c) (hu : OnlyClk t u) : Rung s u c := by
  have hchan : ∀ d, chan u d = chan t d := fun d => congrArg (fun l => tget (fun _ => ({} : Chan)) l d) (by rw [hu])
  have hout : u.out = t.out := by rw [hu]
  have hcross : ∀ {a d i}, Crosses s t 0x04 a d i → Crosses s u 0x04 a d i := fun h => by
    unfold Crosses
    rw [show u.aon = t.aon by rw [hu]]
    exact h
  constructor
  · have hframe := h.frame
    unfold OnlyRing at hframe ⊢
    rw [hu]
    exact congrArg (fun x : State => { x with clk := u.clk }) hframe
  · exact fun d hd => (hchan d).trans (h.others d hd)
  · intro hi hb hg
    obtain ⟨hsent, hheld, hself⟩ := h.starts hi hb hg
    exact ⟨fun hr => hu.fetchSent (hsent hr), fun hr => hout.trans (hheld hr), by rw [hchan]; exact hself⟩
  · intro hd hi hb
    rw [hout, hchan]
    exact h.pends hd hi hb
  · intro hd
    obtain ⟨ho, hself, hc⟩ := h.disabled hd
    exact ⟨hout.trans ho, (hchan c).trans hself, hcross hc⟩
  · intro hi hb hbad
    obtain ⟨ho, hself, hc⟩ := h.misaligned hi hb hbad
    exact ⟨hout.trans ho, (hchan c).trans hself, hcross hc⟩

/-- Settles O24: the doorbell as `Rung` says it, behind the gate of MMIO. -/
theorem doorbellStartsFetchOrIsKept : Obligations.DoorbellStartsFetchOrIsKept := by
  intro s c ns v hserved hs x a bad
  have hrung := (rung_ringDoorbell hs c.val).onlyClk (onlyClk_fetchNeed _ c.val)
  have hexec : exec (.doorbell c ns v) s = .next (emit (fetchNeed (ringDoorbell s c.val) c.val) (.mmio 0 0)) := by
    simp only [exec, execDoorbell, mmioW_of_served hserved]
  refine ⟨_, hexec, hrung.others, hrung.frame, fun h hf _ => ?_, fun h => hrung.pends h.1 h.2.1 h.2.2, hrung.disabled,
    fun h => hrung.misaligned h.1 h.2.1 h.2.2⟩
  obtain ⟨hi, hb, hgood⟩ := h
  have hstarts := hrung.starts hi hb (not_not.mp hgood)
  rw [show (chan s c.val).fetching = none from hf] at hstarts
  exact hstarts

end Sys2Proof.Proofs
end

section
/-! The pump of descriptor fetch, and the registers of a channel at rest (R48, R51, R71, R73, R174). -/

namespace Sys2Proof.Proofs

open Sys2Proof Sys2Proof.Machine Sys2Proof.Laws

/-! ### What the pump of descriptor fetch leaves -/

/-- A channel's record but for its look-ahead and its fetch. -/
def restOf (k : Chan) : Chan := { k with la := 0, fetching := none, fetchDue := none, fetchTries := 0 }

/-- A step that moves fetches: every channel keeps the rest of its record. -/
structure Pumps (s t : State) : Prop where
  frame : OnlyFetch s t
  canon : Canon s → Canon t
  rest : Canon s → ∀ d, restOf (chan t d) = restOf (chan s d)

theorem Pumps.refl (s : State) : Pumps s s := ⟨.refl s, id, fun _ _ => rfl⟩

theorem Pumps.trans {s t u : State} (h : Pumps s t) (k : Pumps t u) : Pumps s u :=
  ⟨h.frame.trans k.frame, fun hs => k.canon (h.canon hs), fun hs d => (k.rest (h.canon hs) d).trans (h.rest hs d)⟩

theorem pumps_foldl {α : Type} {g : State → α → State} (h : ∀ s a, Pumps s (g s a)) (l : List α) (s : State) : Pumps s (l.foldl g s) := by
  induction l generalizing s with
  | nil => exact .refl s
  | cons a l ih => exact (h s a).trans (ih _)

theorem pumps_setChan (s : State) (c : Nat) {x : Chan} (h : restOf x = restOf (chan s c)) : Pumps s (setChan s c x) := by
  refine ⟨rfl, setChan_canon _ _ _, fun hs d => ?_⟩
  by_cases hd : d = c
  · rw [hd, chan_setChan_self hs, h]
  · rw [chan_setChan_other hs _ _ hd]

theorem OnlyClk.pumps {s t : State} (h : OnlyClk s t) (hcanon : Canon s → Canon t) : Pumps s t :=
  ⟨h.onlyFetch, hcanon, fun _ d => by rw [show chan t d = chan s d from congrArg (fun l => tget (fun _ => ({} : Chan)) l d) (by rw [h])]⟩

theorem pumps_startFetch (s : State) (c b : Nat) : Pumps s (startFetch s c b) := by
  have hframe : OnlyFetch s (startFetch s c b) := by
    unfold startFetch
    split
    · exact (sendFetch_sent s c b).2.1
    · rfl
  refine ⟨hframe, startFetch_canon s c b, fun hs d => ?_⟩
  obtain ⟨-, -, hothers, hself, -, -⟩ := startFetch_starts hs c b
  by_cases hd : d = c
  · rw [hd, hself]
    rfl
  · rw [hothers d hd]

theorem pumps_fetchNeed (s : State) (c : Nat) : Pumps s (fetchNeed s c) := (onlyClk_fetchNeed s c).pumps (fetchNeed_canon s c)

theorem pumps_lowerLa (s : State) (q : Nat) : Pumps s (lowerLa s q) := by
  unfold lowerLa
  split
  · exact .refl s
  · refine pumps_foldl (fun s c => ?_) _ _
    dsimp only
    split
    · exact pumps_setChan s c rfl
    · exact .refl s

theorem pumps_pumpFetch (s : State) (c : Nat) : Pumps s (pumpFetch s c) := by
  unfold pumpFetch
  extract_lets x
  split
  · exact .refl s
  · split
    · split
      · exact .refl s
      · split
        · exact pumps_lowerLa s _
        · exact .trans (pumps_setChan s c (x := { x with fetchTries := 0 }) rfl) (.trans (pumps_startFetch _ _ _) (pumps_fetchNeed _ _))
    · exact .refl s

theorem Pumps.stream {s t : State} (h : Pumps s t) (hs : Canon s) (d : Nat) : stream t d = stream s d := (congrArg Chan.stream (h.rest hs d) :)
theorem Pumps.fetched {s t : State} (h : Pumps s t) (hs : Canon s) (d : Nat) : (chan t d).fetched = (chan s d).fetched :=
  (congrArg Chan.fetched (h.rest hs d) :)
theorem Pumps.st {s t : State} (h : Pumps s t) (hs : Canon s) (d : Nat) : (chan t d).st = (chan s d).st := (congrArg Chan.st (h.rest hs d) :)
theorem Pumps.pending {s t : State} (h : Pumps s t) (hs : Canon s) (d : Nat) : (chan t d).pending = (chan s d).pending :=
  (congrArg Chan.pending (h.rest hs d) :)
theorem Pumps.head {s t : State} (h : Pumps s t) (hs : Canon s) (d : Nat) : (chan t d).head = (chan s d).head :=
  (congrArg Chan.head (h.rest hs d) :)

/-- The pump of a channel whose next descriptor is due, and has room. -/
theorem pumpFetch_due {s : State} {c a : Nat} (hst : (chan s c).st = .running) (hf : (chan s c).fetching = none)
    (hd : (chan s c).fetchDue = none) (htries : (chan s c).fetchTries < 10) (hnext : nextFetch (chan s c) = some a)
    (hla : (chan s c).fetched.length + batchRoom a ≤ (chan s c).la) (hroom : storeRoom s c (batchRoom a) = true) :
    pumpFetch s c = fetchNeed (startFetch (setChan s c { chan s c with fetchTries := 0 }) c (a / 512 * 512)) c := by
  unfold pumpFetch
  simp [hst, hf, hd, Nat.not_le.mpr htries, hnext, Nat.not_lt.mpr hla, hroom]

theorem batchRoom_le (a : Nat) : batchRoom a ≤ 8 := Nat.sub_le _ _

/-- Whether the store has room hangs on what the channels hold and fetch. -/
theorem storeRoom_congr {s t : State} (himg : t.img = s.img) {c : Nat} (hothers : ∀ d, d ≠ c → chan t d = chan s d)
    (hself : (chan t c).fetched = (chan s c).fetched) (n : Nat) : storeRoom t c n = storeRoom s c n := by
  have hmap : ((List.range 128).map fun k =>
      let d := c / 128 * 128 + k
      if d != c && chanValid t d then storeUse (chan t d) else 0) = (List.range 128).map fun k =>
      let d := c / 128 * 128 + k
      if d != c && chanValid s d then storeUse (chan s d) else 0 := by
    refine List.map_congr_left fun k _ => ?_
    have hvalid : chanValid t (c / 128 * 128 + k) = chanValid s (c / 128 * 128 + k) := by simp only [chanValid, chanCfg, im, himg]
    by_cases hd : c / 128 * 128 + k = c
    · simp [hd]
    · simp only [hvalid, hothers _ hd]
  unfold storeRoom
  rw [hmap, hself]

theorem locOf_congr {s t : State} (hboot : t.boot = s.boot) (a : Nat) : locOf t a = locOf s a := by
  unfold locOf gbase
  rw [hboot]

theorem memPortOf_congr {s t : State} (himg : t.img = s.img) (a : Nat) : memPortOf t a = memPortOf s a := by
  simp only [memPortOf, memPorts, im, himg]

theorem fetchLines_congr {s t : State} (hboot : t.boot = s.boot) (b : Nat) : fetchLines t b = fetchLines s b := by
  unfold fetchLines
  simp only [locOf_congr hboot]

theorem fetchReady_congr {s t : State} (hclk : t.clk = s.clk) (himg : t.img = s.img) (hboot : t.boot = s.boot) (c b : Nat) :
    fetchReady t c b = fetchReady s c b := by
  simp only [fetchReady, fetchLines_congr hboot, memPortOf_congr himg, isl, hclk]

theorem fetchLines_map_congr {s t : State} (himg : t.img = s.img) (hboot : t.boot = s.boot) (c b : Nat) :
    ((fetchLines t b).map fun l => (memPortOf t l, 0, l, OwnKind.fetch c)) = (fetchLines s b).map fun l => (memPortOf s l, 0, l, OwnKind.fetch c) := by
  simp only [fetchLines_congr hboot, memPortOf_congr himg]

/-! ### HALT (R48, R73) -/

/-- A channel whose fetches are given up and that runs from its list pointer. -/
def restarted (k : Chan) : Chan :=
  { k with fetched := [], fetching := none, fetchDue := none, fetchTries := 0, st := .running, pending := false, stamp := k.pstamp }

/-- A channel's start: what it has fetched is dropped, and the pump runs. -/
theorem startRun_restarted {s : State} (hs : Canon s) (c : Nat) : ∃ u, startRun s c = pumpFetch u c ∧ OnlyFetch s u ∧ Canon u
    ∧ chan u c = restarted (chan s c) ∧ (∀ d, d ≠ c → chan u d = chan s d) ∧ u.clk = s.clk ∧ u.out = s.out
    ∧ ((∀ e ∈ s.ports.own, e.kind ≠ .fetch c) → u.ports.own = s.ports.own) := by
  have hdrop := dropFetch_canon s c hs
  have hself : chan (dropFetch s c) c = { chan s c with fetched := [], fetching := none, fetchDue := none, fetchTries := 0 } :=
    chan_setChan_self hs c _
  have hother : ∀ d, d ≠ c → chan (dropFetch s c) d = chan s d := fun d hd => chan_setChan_other hs c _ hd
  refine ⟨_, rfl, rfl, setChan_canon _ _ _ hdrop, ?_, fun d hd => ?_, rfl, rfl, fun hown => ?_⟩
  · rw [chan_setChan_self hdrop, hself]
    rfl
  · rw [chan_setChan_other hdrop _ _ hd, hother d hd]
  · refine (List.map_congr_left fun e he => ?_).trans (List.map_id _)
    rw [if_neg (by simpa using hown e he)]
    rfl

theorem exec_haltClear {s : State} {c : Ch} {ns : Bool} (v : W32) (h : Served s (chOff c.val 0x0C) ns (chanSecure s c.val)) :
    exec (.haltClear c ns v) s = .next (emit (if chState s c.val = .halted then
      (if (chan s c.val).pending then startRun s c.val else setChan s c.val { chan s c.val with st := .idle }) else s) (.mmio 0 0)) := by
  simp only [exec, execHaltClear, mmioW_of_served h]
  by_cases hst : chState s c.val = .halted <;> simp [hst]

/-- A halted channel with PENDING runs again. -/
theorem startRun_pumps {s : State} (hs : Canon s) (c : Nat) : OnlyFetch s (startRun s c) ∧ (chan (startRun s c) c).st = .running
    ∧ (chan (startRun s c) c).pending = false ∧ (chan (startRun s c) c).head = (chan s c).head := by
  obtain ⟨u, hstart, hframe, hcanon, hself, -⟩ := startRun_restarted hs c
  have hp := pumps_pumpFetch u c
  rw [hstart, hp.st hcanon, hp.pending hcanon, hp.head hcanon, hself]
  exact ⟨hframe.trans hp.frame, rfl, rfl, rfl⟩

theorem startRun_sends {s : State} (hs : Canon s) {c : Nat} (hstream : (chan s c).stream = none) (hla : 8 ≤ (chan s c).la)
    (hroom : storeRoom (setChan s c { chan s c with fetched := [], fetching := none, fetchDue := none }) c (batchRoom (chan s c).head.toNat) = true)
    (hready : fetchReady s c ((chan s c).head.toNat / 512 * 512) = true) (hown : ∀ e ∈ s.ports.own, e.kind ≠ .fetch c) :
    FetchSent s (startRun s c) c ((chan s c).head.toNat / 512 * 512)
      ∧ (chan (startRun s c) c).fetching = some ((chan s c).head.toNat / 512 * 512) := by
  obtain ⟨u, hstart, hframe, hcanon, hself, hothers, huclk, hout, hkept⟩ := startRun_restarted hs c
  have himg : u.img = s.img := by rw [hframe]
  have hroom' : storeRoom u c (batchRoom (chan s c).head.toNat) = true := by
    refine (storeRoom_congr (s := setChan s c { chan s c with fetched := [], fetching := none, fetchDue := none }) himg (fun d hd => ?_) ?_ _).trans
      hroom
    · rw [hothers d hd, chan_setChan_other hs _ _ hd]
    · rw [hself, chan_setChan_self hs]
      rfl
  have hpump := pumpFetch_due (s := u) (c := c) (a := (chan s c).head.toNat) (by rw [hself]; rfl) (by rw [hself]; rfl) (by rw [hself]; rfl)
    (by rw [hself]; exact Nat.zero_lt_succ 9) (by rw [hself]; simp [nextFetch, restarted, hstream])
    (by rw [hself]; exact (Nat.zero_add _).le.trans ((batchRoom_le _).trans hla)) hroom'
  have hcanon' := setChan_canon u c { chan u c with fetchTries := 0 } hcanon
  have hboot : u.boot = s.boot := by rw [hframe]
  have hready' : fetchReady (setChan u c { chan u c with fetchTries := 0 }) c ((chan s c).head.toNat / 512 * 512) = true :=
    (fetchReady_congr huclk himg hboot _ _).trans hready
  have hstarts := startFetch_starts hcanon' c ((chan s c).head.toNat / 512 * 512)
  have hclk := onlyClk_fetchNeed (startFetch (setChan u c { chan u c with fetchTries := 0 }) c ((chan s c).head.toNat / 512 * 512)) c
  obtain ⟨eout, new, eown, emap⟩ := hclk.fetchSent (hstarts.sent hready')
  rw [hstart, hpump]
  refine ⟨⟨eout.trans ?_, new, eown.trans ?_, emap.trans ?_⟩, ?_⟩
  · exact congrArg (· ++ _) hout
  · exact congrArg (· ++ _) (hkept hown)
  · exact fetchLines_map_congr (s := s) (t := setChan u c { chan u c with fetchTries := 0 }) himg hboot _ _
  · have hchan : chan (fetchNeed (startFetch (setChan u c { chan u c with fetchTries := 0 }) c ((chan s c).head.toNat / 512 * 512)) c) c = _ :=
      (congrArg (fun l => tget (fun _ => ({} : Chan)) l c) (by rw [hclk])).trans hstarts.self
    rw [hchan, if_pos hready']

/-! ### The other registers of a channel -/

/-- A register of a channel's block, by its offset. -/
def chRegOff (c : Nat) (r : ChReg) : Nat := chOff c (match r with | .headLo => 0 | .headHi => 4 | .cqLo => 0x10 | .cqHi => 0x14)

/-- A channel's record behind a write of one of its registers. -/
def chanWritten (k : Chan) (v : W32) : ChReg → Chan
  | .headLo => { k with head := BitVec.ofNat 52 (2 ^ 32 * (k.head.toNat / 2 ^ 32) + 64 * fld v 6 26) }
  | .headHi => { k with head := BitVec.ofNat 52 (k.head.toNat % 2 ^ 32 + 2 ^ 32 * fld v 0 20) }
  | .cqLo => { k with cqBase := BitVec.ofNat 40 (2 ^ 20 * (k.cqBase.toNat / 2 ^ 20) + fld v 12 20), log2n := fld v 0 4 }
  | .cqHi => { k with cqBase := BitVec.ofNat 40 (k.cqBase.toNat % 2 ^ 20 + 2 ^ 20 * fld v 0 20) }

theorem channelRegWrite_rests {s : State} {c : Ch} {r : ChReg} {ns : Bool} {v : W32}
    (hserved : Served s (chRegOff c.val r) ns (chanSecure s c.val)) (hst : chState s c.val = .idle ∨ chState s c.val = .halted)
    (hn : r = .cqLo → 4 ≤ fld v 0 4 ∧ fld v 0 4 ≤ 12) :
    exec (.channelRegWrite c r ns v) s = .next (emit (setChan s c.val (chanWritten (chan s c.val) v r)) (.mmio 0 0)) := by
  have hst' : (chState s c.val != .idle && chState s c.val != .halted) ≠ true := by rcases hst with h | h <;> simp [h]
  refine (congrArg Host.Outcome.next (mmioW_of_served hserved _) : exec (.channelRegWrite c r ns v) s = _).trans ?_
  refine congrArg (fun t => Host.Outcome.next (emit t (.mmio 0 0))) ((if_neg hst').trans ?_)
  cases r with
  | headLo => rw [chanWritten, Nat.mul_comm 64]
  | headHi => rfl
  | cqLo =>
    obtain ⟨hlow, hhigh⟩ := hn rfl
    exact if_neg (by omega)
  | cqHi => rfl

theorem channelRegWrite_refused {s : State} {c : Ch} {r : ChReg} {ns : Bool} {v : W32}
    (hserved : Served s (chRegOff c.val r) ns (chanSecure s c.val)) (hi : chState s c.val ≠ .idle) (hh : chState s c.val ≠ .halted) :
    exec (.channelRegWrite c r ns v) s = .next (emit (refuse s (chRegOff c.val r) 0 (feIsland c.val)) (.mmio 0 0)) := by
  have hst : (chState s c.val != .idle && chState s c.val != .halted) = true := by simp [hi, hh]
  refine (congrArg Host.Outcome.next (mmioW_of_served hserved _) : exec (.channelRegWrite c r ns v) s = _).trans ?_
  exact congrArg (fun t => Host.Outcome.next (emit t (.mmio 0 0))) (if_pos hst)

/-- Settles O25: HALT by `startRun_pumps` and `startRun_sends`; the other registers are written as the model writes them. -/
theorem channelRegistersAreWrittenAtRest : Obligations.ChannelRegistersAreWrittenAtRest := by
  refine ⟨fun s c ns v hserved => ?_, fun s c r ns v => ?_⟩
  · intro x
    refine ⟨fun ⟨hst, hp⟩ => ?_, fun ⟨hst, hp, hstream, hs⟩ => ?_, fun hst => ?_⟩
    · rw [exec_haltClear v hserved, if_pos hst, if_neg (by rw [show (chan s c.val).pending = false from hp]; decide)]
    · obtain ⟨hframe, hrun, hpend, hhead⟩ := startRun_pumps hs c.val
      refine ⟨startRun s c.val, ?_, hframe, hrun, hpend, hhead, startRun_sends hs hstream⟩
      rw [exec_haltClear v hserved, if_pos hst, if_pos (show (chan s c.val).pending = true from hp)]
    · rw [exec_haltClear v hserved, if_neg hst]
  · intro off hserved x
    refine ⟨fun hst => ?_, fun ⟨hi, hh⟩ => ?_⟩
    · cases r with
      | headLo => exact channelRegWrite_rests hserved hst nofun
      | headHi => exact channelRegWrite_rests hserved hst nofun
      | cqLo => exact fun hlow hhigh => channelRegWrite_rests hserved hst fun _ => ⟨hlow, hhigh⟩
      | cqHi => exact channelRegWrite_rests hserved hst nofun
    refine ⟨_, channelRegWrite_refused hserved hi hh, ?_, ?_⟩
    · rw [refuse_eq_raise]
      exact onlyAon_raise ..
    · rw [refuse_eq_raise]
      exact crosses_raise_of rfl _ _ _ _

end Sys2Proof.Proofs
end

section
/-! The answer of a batch fetch (R51, R174). -/

namespace Sys2Proof.Proofs

open Sys2Proof Sys2Proof.Machine Sys2Proof.Laws Sys2Proof.Tests

/-- Channel 0 fetches; channel 1 runs a MOVE whose tile holds a leaf before its pre-walk, and a walk of that tile, of a context whose EN is
0, waits for a walker. -/
def walkQueued : State :=
  let s := runs (ftc 0) 1 { strm (ctl 1 132 0 0 0 0) .started with tiles := [til] }
  { s with xl := { s.xl with
      walks := [⟨0, 0, 0, 0, 0, 0, 0, 0, false, [⟨1, 0, false, 0, false⟩], .queued, false, none⟩], nextWalk := 1 } }

/-- A batch whose first descriptor is a TENSOR that passes every check. -/
def tensorBatch : BatchData := BitVec.ofNat 4096 (tns 0 0).toNat

/-- The look-ahead of the batch's TENSOR starts the walk, which faults, and the tile of channel 1 loses its leaf. -/
theorem fetchDone_walkQueued : ∃ t, exec (.descriptorFetchDone 0 (.okay tensorBatch)) walkQueued = .next t
    ∧ stream t 1 ≠ stream walkQueued 1 := by
  refine ⟨_, rfl, ?_⟩
  decide +kernel

/-- Refutes O26: a batch that arrives may touch another channel's stream. Its look-ahead starts the walks that wait for a walker, and one that
faults takes the translation set of its own channel's tile (R252). -/
theorem not_fetchTakesABatchOrRetries : ¬ Obligations.FetchTakesABatchOrRetries := by
  intro h
  obtain ⟨t, hexec, -, -, -, -, -, hothers, -⟩ := h walkQueued 0 (.okay tensorBatch) 0 0 (canonOf _ (by decide +kernel)) (by decide +kernel)
    (by decide +kernel) (by decide +kernel) (by decide +kernel)
  obtain ⟨u, hexec', hu⟩ := fetchDone_walkQueued
  rw [hexec] at hexec'
  cases hexec'
  exact hu (hothers 1 (by decide)).2

end Sys2Proof.Proofs
end

section
/-! What lookups and walks leave (R174, R244 to R257). -/

namespace Sys2Proof.Proofs

open Sys2Proof Sys2Proof.Machine Sys2Proof.Laws

/-! ### The frame of a walk -/

/-- A step that touches channels, domains, translation and what is outstanding under an ID, and nothing else. -/
def OnlyXl (s t : State) : Prop := t = { s with
  chans := t.chans, clk := t.clk, out := t.out, xl := t.xl, fresh := t.fresh, path := { s.path with nextId := t.path.nextId }
  ports := { s.ports with own := t.ports.own }, stage := { s.stage with rankMem := t.stage.rankMem } }

theorem OnlyXl.refl (s : State) : OnlyXl s s := rfl

theorem OnlyXl.trans {s t u : State} (h₁ : OnlyXl s t) (h₂ : OnlyXl t u) : OnlyXl s u := by
  unfold OnlyXl at h₁ h₂ ⊢
  rw [h₁] at h₂
  exact h₂

theorem OnlyFetch.onlyXl {s t : State} (h : OnlyFetch s t) : OnlyXl s t := by
  unfold OnlyXl
  rw [h]

/-- A stream that no walk touches: it holds no tile, and is no WARM. -/
def Unwalked (x : Stream) : Prop := x.tiles = [] ∧ ∀ n, x.wait ≠ .warm n

/-- What the steps of walks and lookups leave: a channel whose stream has no tile keeps its record. -/
structure XlKeeps (s t : State) : Prop where
  frame : OnlyXl s t
  canon : Canon s → Canon t
  chan : Canon s → ∀ d, (∀ x, stream s d = some x → Unwalked x) → chan t d = chan s d

theorem XlKeeps.refl (s : State) : XlKeeps s s := ⟨.refl s, id, fun _ _ _ => rfl⟩

theorem XlKeeps.trans {s t u : State} (h : XlKeeps s t) (k : XlKeeps t u) : XlKeeps s u := by
  refine ⟨h.frame.trans k.frame, fun hs => k.canon (h.canon hs), fun hs d hd => ?_⟩
  have ht := h.chan hs d hd
  exact (k.chan (h.canon hs) d fun x hx => hd x (by rwa [stream, ht] at hx)).trans ht

theorem xlKeeps_foldl {α : Type} {g : State → α → State} (h : ∀ s a, XlKeeps s (g s a)) (l : List α) (s : State) : XlKeeps s (l.foldl g s) := by
  induction l generalizing s with
  | nil => exact .refl s
  | cons a l ih => exact (h s a).trans (ih _)

/-- A step that leaves every channel's record. -/
theorem XlKeeps.of_chans {s t : State} (hframe : OnlyXl s t) (hcanon : Canon s → Canon t) (hchans : t.chans = s.chans) : XlKeeps s t :=
  ⟨hframe, hcanon, fun _ d _ => congrArg (fun l => tget (fun _ => ({} : Chan)) l d) hchans⟩

theorem OnlyClk.xlKeeps {s t : State} (h : OnlyClk s t) (hcanon : Canon s → Canon t) : XlKeeps s t :=
  .of_chans h.onlyFetch.onlyXl hcanon (by rw [h])

/-- A change of a stream that leaves one without tiles as it is. -/
theorem xlKeeps_modStream (s : State) (c : Nat) {f : Stream → Stream} (h : ∀ x, Unwalked x → f x = x) : XlKeeps s (modStream s c f) := by
  refine ⟨?_, modStream_canon s c f, fun hs d hd => ?_⟩
  · unfold modStream
    split <;> rfl
  · unfold modStream
    split
    · next x hx =>
      by_cases hdc : d = c
      · subst hdc
        rw [setStream, chan_setChan_self hs, h x (hd x hx), ← hx]
        rfl
      · rw [setStream, chan_setChan_other hs _ _ hdc]
    · rfl

theorem xlKeeps_setWalks (s : State) (ws : List Walk) : XlKeeps s (setWalks s ws) := .of_chans rfl (setWalks_canon s ws) rfl
theorem xlKeeps_modWalk (s : State) (id : Nat) (f : Walk → Walk) : XlKeeps s (modWalk s id f) := .of_chans rfl (modWalk_canon s id f) rfl
theorem xlKeeps_setHalf (s : State) (h : Nat) (x : Half) : XlKeeps s (setHalf s h x) := .of_chans rfl (setHalf_canon s h x) rfl
theorem xlKeeps_need (s : State) (d : Nat) : XlKeeps s (need s d) := (onlyClk_need s d).xlKeeps (need_canon s d)

theorem xlKeeps_dropSets (s : State) (rs : List Req) : XlKeeps s (dropSets s rs) :=
  xlKeeps_foldl (fun s (r : Req) => xlKeeps_modStream s r.ch fun x hx => by rw [hx.1, List.map_nil, ← hx.1]) _ _

theorem xlKeeps_warmNext (s : State) (rs : List Req) : XlKeeps s (warmNext s rs) := by
  refine xlKeeps_foldl (fun s (r : Req) => xlKeeps_modStream s r.ch fun x hx => ?_) _ _
  split
  · next n hn => exact absurd hn (hx.2 n)
  · rfl

theorem xlKeeps_grantMem (s : State) (m i : Nat) : XlKeeps s (grantMem s m i) := .of_chans rfl (grantMem_canon s m i) rfl
theorem xlKeeps_ownReq (s : State) (port op addr : Nat) (k : OwnKind) : XlKeeps s (ownReq s port op addr k).1 :=
  .of_chans rfl (ownReq_canon s port op addr k) rfl
theorem xlKeeps_emit (s : State) (o : Out) : XlKeeps s (emit s o) := .of_chans rfl (emit_canon s o) rfl

/-! ### Walks -/

theorem xlKeeps_mergeQueued (s : State) (w : Walk) : XlKeeps s (mergeQueued s w).1 :=
  (xlKeeps_setWalks s _).trans (xlKeeps_setHalf _ _ _)

theorem xlKeeps_walkRead (s : State) (w : Walk) : XlKeeps s (walkRead s w) := by
  unfold walkRead
  extract_lets a m lane u h r
  split
  · exact (xlKeeps_modWalk s _ _).trans (xlKeeps_need _ _)
  · split
    · exact xlKeeps_modWalk s _ _
    · exact .trans (xlKeeps_modWalk s _ _) (.trans (xlKeeps_setHalf _ _ _) (.trans (xlKeeps_grantMem _ _ _)
        (.trans (xlKeeps_ownReq _ _ _ _ _) (xlKeeps_emit _ _))))

/-- A walk that faults at its start: it ends without a requester, or holds its fault. -/
theorem xlKeeps_holds (s : State) (ws : List Walk) (id : Nat) (rs real : List Req) (f : Walk → Walk) : XlKeeps s
    (if real.isEmpty then warmNext (setWalks s ws) rs else warmNext (modWalk (dropSets s real) id f) rs) := by
  split
  · exact (xlKeeps_setWalks s _).trans (xlKeeps_warmNext _ _)
  · exact ((xlKeeps_dropSets s _).trans (xlKeeps_modWalk _ _ _)).trans (xlKeeps_warmNext _ _)

theorem xlKeeps_startWalk (s : State) (w : Walk) : XlKeeps s (startWalk s w) := by
  unfold startWalk
  refine (xlKeeps_mergeQueued s w).trans ?_
  generalize mergeQueued s w = p
  obtain ⟨u, v⟩ := p
  dsimp only
  split
  · exact xlKeeps_holds ..
  · split
    · exact xlKeeps_holds ..
    · exact xlKeeps_walkRead u _

theorem xlKeeps_startQueued (n : Nat) (s : State) (h : Nat) : XlKeeps s (startQueued n s h) := by
  induction n generalizing s with
  | zero => exact .refl s
  | succ n ih =>
    unfold startQueued
    split
    · exact .refl s
    · split
      · exact (xlKeeps_startWalk s _).trans (ih _)
      · exact .refl s

/-! ### The look-ahead (R174) -/

/-- A miss of a request that takes no leaf. -/
theorem xlKeeps_missOne (s : State) (h : Nat) (asid : BitVec 8) (x : Nat) (first : Bool) {r : Req} (hr : r.warm = true) :
    XlKeeps s (missOne s h asid x first r) := by
  unfold missOne
  extract_lets region hs u k w xl
  split
  · next w hw =>
    have hu : XlKeeps s u := by
      simp only [u]
      split
      · exact xlKeeps_setHalf s _ _
      · exact .refl s
    split
    · split
      · exact hu.trans (xlKeeps_warmNext _ _)
      · exact hu
    · exact hu.trans (xlKeeps_modWalk _ _ _)
  · split
    · exact xlKeeps_modWalk s _ _
    · refine .trans ?_ (xlKeeps_startQueued 64 _ h)
      exact .of_chans rfl (fun hs => { hs with }) rfl

theorem xlKeeps_missAll (s : State) (h : Nat) (asid : BitVec 8) (x : Nat) {rs : List Req} (hrs : ∀ r ∈ rs, r.warm = true) :
    XlKeeps s (missAll s h asid x rs) := by
  unfold missAll
  split
  · exact .refl s
  · next r rs =>
    refine (xlKeeps_missOne s h asid x true (hrs r (List.mem_cons_self ..))).trans ?_
    have htail : ∀ q ∈ rs, q.warm = true := fun q hq => hrs q (List.mem_cons_of_mem _ hq)
    generalize missOne s h asid x true r = u
    clear hrs
    induction rs generalizing u with
    | nil => exact .refl u
    | cons q qs ih =>
      exact (xlKeeps_missOne u h asid x false (htail q (List.mem_cons_self ..))).trans
        (ih (fun p hp => htail p (List.mem_cons_of_mem _ hp)) _)

theorem xlKeeps_lookup (s : State) (x : Nat) {rs : List Req} (hrs : ∀ r ∈ rs, r.warm = true) : XlKeeps s (lookup s x rs).1 := by
  unfold lookup
  split
  · exact .refl s
  · next r qs =>
    extract_lets h asid hs
    split
    · exact xlKeeps_need s _
    · split
      · split
        · exact xlKeeps_setHalf s _ _
        · exact (xlKeeps_setHalf s _ _).trans (xlKeeps_missAll _ _ _ _ hrs)
      · exact (xlKeeps_setHalf s _ _).trans (xlKeeps_missAll _ _ _ _ hrs)

theorem xlKeeps_lookAhead (s : State) (c : Nat) : XlKeeps s (lookAhead s c) := by
  unfold lookAhead
  split
  · exact .refl s
  · split
    · refine xlKeeps_foldl (fun s r => xlKeeps_lookup s _ ?_) _ _
      simp
    · exact .refl s

end Sys2Proof.Proofs
end

section
/-! Slots and the decode of a descriptor (R19, R54, R55, R75, R76). -/

namespace Sys2Proof.Proofs

open Sys2Proof Sys2Proof.Machine Sys2Proof.Laws

/-! ### Slots (R19) -/

/-- A channel's record but for whether its stream holds a slot. -/
def unslot (k : Chan) : Chan := { k with stream := k.stream.map fun x => { x with slot := false } }

/-- A step that gives slots to streams that wait. -/
structure Slots (s t : State) : Prop where
  frame : t = { s with chans := t.chans, path := { s.path with slots := t.path.slots, waitq := t.path.waitq } }
  canon : Canon s → Canon t
  chan : Canon s → ∀ d, unslot (chan t d) = unslot (chan s d)

theorem Slots.refl (s : State) : Slots s s := ⟨rfl, id, fun _ _ => rfl⟩

theorem Slots.trans {s t u : State} (h : Slots s t) (k : Slots t u) : Slots s u := by
  refine ⟨?_, fun hs => k.canon (h.canon hs), fun hs d => (k.chan (h.canon hs) d).trans (h.chan hs d)⟩
  have hk := k.frame
  rw [h.frame] at hk
  exact hk

theorem unslot_of_none {k : Chan} (h : k.stream = none) : unslot k = k := by
  have hmap : (k.stream.map fun x => { x with slot := false }) = k.stream := by rw [h]; rfl
  exact congrArg (fun x => { k with stream := x }) hmap

theorem unslot_none {k y : Chan} (h : unslot k = unslot y) (hy : y.stream = none) : k = y := by
  have hk : k.stream = none := by
    have := congrArg Chan.stream h
    simpa [unslot, hy] using this
  rw [← unslot_of_none hk, h, unslot_of_none hy]

theorem slots_modStream_slot (s : State) (c : Nat) (b : Bool) : Slots s (modStream s c fun x => { x with slot := b }) := by
  unfold modStream
  split
  · next x hx =>
    refine ⟨rfl, setStream_canon s c _, fun hs d => ?_⟩
    by_cases hd : d = c
    · have hx' : (chan s c).stream = some x := hx
      rw [hd, setStream, chan_setChan_self hs]
      simp [unslot, hx']
    · rw [setStream, chan_setChan_other hs _ _ hd]
  · exact .refl s

theorem slots_waitq (s : State) (q : List Nat) : Slots s { s with path := { s.path with waitq := q } } :=
  ⟨rfl, fun hs => { hs with }, fun _ _ => rfl⟩

theorem slots_setSlots (s : State) (m : Nat) (l : List Nat) : Slots s (setSlots s m l) := ⟨rfl, setSlots_canon s m l, fun _ _ => rfl⟩

theorem slots_fillSlots (n : Nat) (s : State) (m : Nat) : Slots s (fillSlots n s m) := by
  induction n generalizing s with
  | zero => exact .refl s
  | succ n ih =>
    unfold fillSlots
    extract_lets ws
    split
    · exact .refl s
    · rcases ws with _ | ⟨w, rest⟩
      · exact .refl s
      · exact .trans (slots_waitq s _) (.trans (slots_setSlots _ m _) (.trans (slots_modStream_slot _ _ true) (ih _)))

theorem fillSlots_idle (n : Nat) {s : State} {m : Nat} (h : ∀ e ∈ s.path.waitq, (chanCfg s e).mover ≠ m) : fillSlots n s m = s := by
  have hnone : (s.path.waitq.filter fun c => (chanCfg s c).mover == m) = [] := by
    rw [List.filter_eq_nil_iff]
    simpa using h
  cases n with
  | zero => rfl
  | succ n =>
    simp only [fillSlots, hnone]
    split <;> rfl

theorem slots_freeSlot (s : State) (c : Nat) : Slots s (freeSlot s c) :=
  .trans (slots_waitq s _) (.trans (slots_setSlots _ _ _) (slots_fillSlots 16 _ _))

/-- The only stream that waits for a mover with a free slot takes it. -/
theorem fillSlots_single (n : Nat) {s : State} (hs : Canon s) {c m : Nat} {q : List Nat} (hq : s.path.waitq = q ++ [c])
    (hother : ∀ e ∈ q, (chanCfg s e).mover ≠ m) (hm : (chanCfg s c).mover = m) (hfree : (slots s m).length < 16) {x : Stream}
    (hx : stream s c = some x) : stream (fillSlots (n + 1) s m) c = some { x with slot := true } := by
  have hc : c ∉ q := fun h => hother c h hm
  have hws : (s.path.waitq.filter fun c => (chanCfg s c).mover == m) = [c] := by
    rw [hq, List.filter_append, List.filter_eq_nil_iff.mpr (by simpa using hother)]
    simp [hm]
  have herase : s.path.waitq.erase c = q := by rw [hq, List.erase_append_right _ hc, List.erase_cons_head, List.append_nil]
  have hcanon : Canon (setSlots { s with path := { s.path with waitq := q } } m (slots s m ++ [c])) :=
    setSlots_canon _ _ _ { hs with }
  have hstep : fillSlots (n + 1) s m = fillSlots n (modStream (setSlots { s with path := { s.path with waitq := q } } m (slots s m ++ [c])) c
      fun x => { x with slot := true }) m := by
    simp only [fillSlots, hws, if_neg (Nat.not_le.mpr hfree), List.foldl_nil, herase]
    rfl
  have hmod : modStream (setSlots { s with path := { s.path with waitq := q } } m (slots s m ++ [c])) c (fun x => { x with slot := true })
      = setStream (setSlots { s with path := { s.path with waitq := q } } m (slots s m ++ [c])) c { x with slot := true } := by
    unfold modStream
    rw [show stream (setSlots { s with path := { s.path with waitq := q } } m (slots s m ++ [c])) c = some x from hx]
  rw [hstep, hmod, fillSlots_idle n hother, stream, setStream, chan_setChan_self hcanon]

/-! ### Decode -/

theorem pickDetail_mem {s : State} {l : List Nat} (h : l ≠ []) : pickDetail s l ∈ l := by
  have hlen : 0 < l.length := List.length_pos_iff.mpr h
  have hlt : Config.pick s.fresh % l.length < l.length := Nat.mod_lt _ hlen
  rw [pickDetail, List.getD_eq_getElem _ _ hlt]
  exact List.getElem_mem hlt

theorem onlyClk_needMover (s : State) (m : Nat) : OnlyClk s (needMover s m) := by
  unfold needMover
  split
  · exact onlyClk_foldl onlyClk_need _ _
  · exact .refl s

/-- The state in which a descriptor that passes its checks waits for a slot. -/
def decodedState (s : State) (c a : Nat) (d : DescData) (rest : List (Nat × DescData)) : State :=
  let s' := setChan s c { chan s c with fetched := rest, stream := some (mkStream a d .decoded false s.order) }
  { s' with path := { s'.path with waitq := s'.path.waitq ++ [c] }, order := s'.order + 1 }

/-- What the decode does with it. -/
def decodeAdmits (s : State) (c a : Nat) (d : DescData) (rest : List (Nat × DescData)) : State :=
  let m := (chanCfg s c).mover
  let u := decodedState s c a d rest
  let u := pumpFetch (fillSlots 16 (if isData d then needMover u m else u) m) c
  if isData d then lookAhead u c else u

section
variable {s : State} {c : Ch} (hop : operating s = true) (hst : chState s c.val = .running) (hctx : ctxRuns s c.val = true)
  (hnone : (chan s c.val).stream = none) (hrec : (chan s c.val).recOut = none)
include hop hst hctx hnone hrec

theorem exec_descriptorDecode_admits {a : Nat} {d : DescData} {rest : List (Nat × DescData)} (hf : (chan s c.val).fetched = (a, d) :: rest)
    (hfails : decodeFails s c.val d = []) : exec (.descriptorDecode c) s = .next (decodeAdmits s c.val a d rest) := by
  simp only [exec, execDescriptorDecode, hop, hst, hctx, hnone, hrec, hf, hfails, decodeAdmits, decodedState]
  rfl

theorem exec_descriptorDecode_refuses {a : Nat} {d : DescData} {rest : List (Nat × DescData)} (hf : (chan s c.val).fetched = (a, d) :: rest)
    (hfails : decodeFails s c.val d ≠ []) : exec (.descriptorDecode c) s = .next (refuse (bump (setChan s c.val { chan s c.val with
      fetched := rest, stream := some (mkStream a d (.done cSTATE (pickDetail s (decodeFails s c.val d))) false s.order) })) a
        (pickDetail s (decodeFails s c.val d)) (feIsland c.val)) := by
  have hempty : (decodeFails s c.val d).isEmpty = false := by simpa using hfails
  simp only [exec, execDescriptorDecode, hop, hst, hctx, hnone, hrec, hf, hempty]
  rfl

theorem exec_descriptorDecode_failed (hf : (chan s c.val).fetched = []) : exec (.descriptorDecode c) s
    = .next (if (chan s c.val).fetchTries < 10 then s else setChan s c.val { chan s c.val with
        stream := some (mkStream (chan s c.val).head.toNat 0 (if (chan s c.val).fetchTries = 10 then .done cECC 1
          else if (chan s c.val).fetchTries = 11 then .done cWORLD 4 else .done cTIMEOUT 1) false s.order) }) := by
  by_cases htries : (chan s c.val).fetchTries < 10
  · simp only [exec, execDescriptorDecode, hop, hst, hctx, hnone, hrec, hf, htries, if_true]
    rfl
  · simp only [exec, execDescriptorDecode, hop, hst, hctx, hnone, hrec, hf, htries, if_false]
    rfl

end

/-- What the steps behind the slots keep: stage memory and the hub, and a channel's stream and what it has fetched. -/
structure Admits (c : Nat) (s t : State) : Prop where
  canon : Canon t
  mem : t.stage.mem = s.stage.mem
  hub : t.hub = s.hub
  fetched : (chan t c).fetched = (chan s c).fetched
  stream : ∀ x, stream s c = some x → Unwalked x → stream t c = some x

theorem Admits.trans {c : Nat} {s t u : State} (h : Admits c s t) (k : Admits c t u) : Admits c s u :=
  ⟨k.canon, k.mem.trans h.mem, k.hub.trans h.hub, k.fetched.trans h.fetched, fun x hx hw => k.stream x (h.stream x hx hw) hw⟩

theorem Pumps.admits {s t : State} (h : Pumps s t) (hs : Canon s) (c : Nat) : Admits c s t :=
  ⟨h.canon hs, by rw [h.frame], by rw [h.frame], h.fetched hs c, fun _ hx _ => (h.stream hs c).trans hx⟩

theorem XlKeeps.admits {s t : State} (h : XlKeeps s t) (hs : Canon s) {c : Nat} {x : Machine.Stream} (hx : Machine.stream s c = some x)
    (hw : Unwalked x) : Admits c s t := by
  have hc := h.chan hs c fun y hy => by
    rw [hx] at hy
    cases hy
    exact hw
  refine ⟨h.canon hs, by rw [h.frame], by rw [h.frame], by rw [hc], fun y hy _ => ?_⟩
  rw [Machine.stream, hc]
  exact hy

/-- A channel's stream behind the filling of slots. -/
theorem Slots.stream {s t : State} (h : Slots s t) (hs : Canon s) {c : Nat} {x : Machine.Stream} (hx : Machine.stream s c = some x) :
    ∃ b, Machine.stream t c = some { x with slot := b } := by
  have hx' : (Machine.chan s c).stream = some x := hx
  have hst : (Machine.stream t c).map (fun x => { x with slot := false }) = some { x with slot := false } := by
    refine (congrArg Chan.stream (h.chan hs c) :).trans ?_
    simp only [unslot, hx']
    rfl
  obtain ⟨y, hy, hxy⟩ := Option.map_eq_some_iff.mp hst
  refine ⟨y.slot, hy.trans (congrArg some ?_)⟩
  exact (congrArg (fun z : Machine.Stream => { z with slot := y.slot }) hxy :)

theorem decodedState_canon {s : State} (hs : Canon s) (c a : Nat) (d : DescData) (rest : List (Nat × DescData)) :
    Canon (decodedState s c a d rest) := { setChan_canon s c _ hs with }

theorem chan_decodedState {s : State} (hs : Canon s) (c a : Nat) (d : DescData) (rest : List (Nat × DescData)) :
    chan (decodedState s c a d rest) c = { chan s c with fetched := rest, stream := some (mkStream a d .decoded false s.order) } :=
  chan_setChan_self hs c _

theorem unwalked_mkStream (a : Nat) (d : DescData) (st : StreamSt) (slot : Bool) (n : Nat) : Unwalked (mkStream a d st slot n) :=
  ⟨rfl, fun _ h => by cases h⟩

/-- The state before a decoded descriptor asks for a slot: its mover's domains have been woken. -/
def decodeWakes (s : State) (c a : Nat) (d : DescData) (rest : List (Nat × DescData)) : State :=
  if isData d then needMover (decodedState s c a d rest) (chanCfg s c).mover else decodedState s c a d rest

theorem onlyClk_decodeWakes (s : State) (c a : Nat) (d : DescData) (rest : List (Nat × DescData)) :
    OnlyClk (decodedState s c a d rest) (decodeWakes s c a d rest) := by
  unfold decodeWakes
  split
  · exact onlyClk_needMover _ _
  · exact .refl _

theorem decodeWakes_canon {s : State} (hs : Canon s) (c a : Nat) (d : DescData) (rest : List (Nat × DescData)) :
    Canon (decodeWakes s c a d rest) := by
  unfold decodeWakes
  split
  · exact needMover_canon _ _ (decodedState_canon hs c a d rest)
  · exact decodedState_canon hs c a d rest

/-- The state in which the slots of the mover have been filled. -/
def decodeSlots (s : State) (c a : Nat) (d : DescData) (rest : List (Nat × DescData)) : State :=
  fillSlots 16 (decodeWakes s c a d rest) (chanCfg s c).mover

theorem decodeAdmits_eq (s : State) (c a : Nat) (d : DescData) (rest : List (Nat × DescData)) : decodeAdmits s c a d rest
    = if isData d then lookAhead (pumpFetch (decodeSlots s c a d rest) c) c else pumpFetch (decodeSlots s c a d rest) c := by
  unfold decodeAdmits decodeSlots decodeWakes
  split <;> rfl

theorem chan_decodeWakes {s : State} (hs : Canon s) (c a : Nat) (d : DescData) (rest : List (Nat × DescData)) :
    chan (decodeWakes s c a d rest) c = { chan s c with fetched := rest, stream := some (mkStream a d .decoded false s.order) } :=
  (congrArg (fun l => tget (fun _ => ({} : Chan)) l c) (by rw [onlyClk_decodeWakes s c a d rest])).trans (chan_decodedState hs c a d rest)

theorem slots_decodeSlots (s : State) (c a : Nat) (d : DescData) (rest : List (Nat × DescData)) :
    Slots (decodeWakes s c a d rest) (decodeSlots s c a d rest) := slots_fillSlots 16 _ _

/-- The pump and the look-ahead of a decode. -/
theorem admits_decodeAdmits {s : State} (hs : Canon s) {c a : Nat} (d : DescData) (rest : List (Nat × DescData)) :
    Admits c (decodeSlots s c a d rest) (decodeAdmits s c a d rest) := by
  have hfill := slots_decodeSlots s c a d rest
  have hcanon := decodeWakes_canon hs c a d rest
  obtain ⟨b, hb⟩ := hfill.stream hcanon (congrArg Chan.stream (chan_decodeWakes hs c a d rest))
  have hw : Unwalked (mkStream a d .decoded b s.order) := unwalked_mkStream ..
  have hpump := (pumps_pumpFetch (decodeSlots s c a d rest) c).admits (hfill.canon hcanon) c
  have hlook := (xlKeeps_lookAhead (pumpFetch (decodeSlots s c a d rest) c) c).admits hpump.canon (hpump.stream _ hb hw) hw
  rw [decodeAdmits_eq]
  split
  · exact hpump.trans hlook
  · exact hpump

/-- The stream that decode forms has its slot where no other stream waits and one is free. -/
theorem stream_decodeSlots_free {s : State} (hs : Canon s) {c a : Nat} (d : DescData) (rest : List (Nat × DescData))
    (hwait : ∀ e ∈ s.path.waitq, (chanCfg s e).mover ≠ (chanCfg s c).mover) (hfree : (slots s (chanCfg s c).mover).length < 16) :
    stream (decodeSlots s c a d rest) c = some (mkStream a d .decoded true s.order) := by
  have hclk := onlyClk_decodeWakes s c a d rest
  have hcfg : ∀ e, chanCfg (decodeWakes s c a d rest) e = chanCfg s e := fun e => by
    rw [hclk]
    rfl
  exact fillSlots_single 15 (decodeWakes_canon hs c a d rest) (q := s.path.waitq) (by rw [hclk]; rfl)
    (fun e he => by rw [hcfg]; exact hwait e he) (by rw [hcfg]) (by rw [hclk]; exact hfree)
    (congrArg Chan.stream (chan_decodeWakes hs c a d rest))

/-- What a descriptor that passes its checks becomes. -/
theorem decodeAdmits_result {s : State} (hs : Canon s) {c a : Nat} (d : DescData) (rest : List (Nat × DescData)) :
    (decodeAdmits s c a d rest).stage.mem = s.stage.mem ∧ (decodeAdmits s c a d rest).hub = s.hub
      ∧ (chan (decodeAdmits s c a d rest) c).fetched = rest
      ∧ ∃ b, stream (decodeAdmits s c a d rest) c = some (mkStream a d .decoded b s.order)
        ∧ ((∀ e ∈ s.path.waitq, (chanCfg s e).mover ≠ (chanCfg s c).mover) → (slots s (chanCfg s c).mover).length < 16 → b = true) := by
  have hclk := onlyClk_decodeWakes s c a d rest
  have hcanon := decodeWakes_canon hs c a d rest
  have hfill := slots_decodeSlots s c a d rest
  have hadm := admits_decodeAdmits hs (c := c) (a := a) d rest
  obtain ⟨b, hb⟩ := hfill.stream hcanon (congrArg Chan.stream (chan_decodeWakes hs c a d rest))
  refine ⟨?_, ?_, ?_, b, hadm.stream _ hb (unwalked_mkStream ..), fun hwait hfree => ?_⟩
  · rw [hadm.mem, hfill.frame, hclk]
    rfl
  · rw [hadm.hub, hfill.frame, hclk]
    rfl
  · exact hadm.fetched.trans ((congrArg Chan.fetched (hfill.chan hcanon c) :).trans
      (congrArg Chan.fetched (chan_decodeWakes hs c a d rest)))
  · rw [stream_decodeSlots_free hs d rest hwait hfree] at hb
    exact (congrArg (fun o => (o.map Machine.Stream.slot).getD false) hb).symm

/-- Settles O27, by the three outcomes of the decode. -/
theorem decodeFormsAStreamOrRefuses : Obligations.DecodeFormsAStreamOrRefuses := by
  intro s c hs hop hst hctx hnone hrec x m
  cases hf : (chan s c.val).fetched with
  | cons e rest =>
    obtain ⟨a, d⟩ := e
    by_cases hfails : decodeFails s c.val d = []
    · obtain ⟨hmem, hhub, hfetched, hb⟩ := decodeAdmits_result hs (c := c.val) (a := a) d rest
      exact ⟨_, exec_descriptorDecode_admits hop hst hctx hnone hrec hf hfails, hmem, hhub, hfetched, fun _ => hb, fun h => absurd hfails h⟩
    · refine ⟨_, exec_descriptorDecode_refuses hop hst hctx hnone hrec hf hfails, ?_, ?_, ?_⟩
      · rw [refuse_eq_raise, raise_stage]
        rfl
      · rw [refuse_eq_raise, raise_hub]
        rfl
      · have hchan : chan (refuse (bump (setChan s c.val { chan s c.val with
            fetched := rest, stream := some (mkStream a d (.done cSTATE (pickDetail s (decodeFails s c.val d))) false s.order) })) a
            (pickDetail s (decodeFails s c.val d)) (feIsland c.val)) c.val = { chan s c.val with
            fetched := rest, stream := some (mkStream a d (.done cSTATE (pickDetail s (decodeFails s c.val d))) false s.order) } := by
          rw [refuse_eq_raise, chan, raise_chans]
          exact chan_setChan_self hs c.val _
        rw [hchan]
        refine ⟨rfl, fun h => absurd h hfails, fun _ => ⟨_, pickDetail_mem hfails, rfl, ?_⟩⟩
        rw [refuse_eq_raise]
        exact crosses_raise_of rfl _ _ _ _
  | nil =>
    refine ⟨_, exec_descriptorDecode_failed hop hst hctx hnone hrec hf, ?_⟩
    by_cases htries : x.fetchTries < 10
    · rw [if_pos htries]
      refine ⟨rfl, rfl, fun h => ?_, fun h => ?_, fun h => ?_, fun _ => rfl⟩ <;> omega
    · rw [if_neg htries, chan_setChan_self hs]
      refine ⟨rfl, rfl, fun h => ?_, fun h => ?_, fun h => ?_, fun h => absurd h htries⟩
      · rw [show (chan s c.val).fetchTries = 10 from h]
        rfl
      · rw [show (chan s c.val).fetchTries = 11 from h]
        rfl
      · rw [show (chan s c.val).fetchTries = 12 from h]
        rfl

end Sys2Proof.Proofs
end

section
/-! Tables written twice, and with what they hold. -/

namespace Sys2Proof.Proofs

open Sys2Proof Sys2Proof.Machine Sys2Proof.Laws

section
variable {α : Type} [DecidableEq α] {d : Nat → α}

/-- A canonical table written with what it holds stays as it is. -/
theorem tset_tget_from {lo : Nat} {t : Tbl α} (i : Nat) (h : twfFrom d lo t = true) : tset d t i (tget d t i) = t := by
  induction t generalizing lo with
  | nil => simp [tset, tget]
  | cons e t ih =>
    obtain ⟨j, w⟩ := e
    simp only [twfFrom, Bool.and_eq_true, decide_eq_true_eq, Bool.not_eq_true', decide_eq_false_iff_not] at h
    obtain ⟨⟨hlo, hw⟩, ht⟩ := h
    by_cases hlt : i < j
    · have hne : j ≠ i := by omega
      simp [tset, tget, hlt, hne]
    · by_cases heq : i = j
      · subst heq
        simp [tset, tget, hw]
      · simp [tset, tget, hlt, heq, Ne.symm heq, ih ht]

theorem tset_below {lo i : Nat} {t : Tbl α} (w : α) (h : twfFrom d lo t = true) (hi : i < lo) :
    tset d t i w = if w = d i then t else (i, w) :: t := by
  cases t with
  | nil => rfl
  | cons e t =>
    simp only [twfFrom, Bool.and_eq_true, decide_eq_true_eq] at h
    simp only [tset, if_pos (show i < e.1 by omega)]

/-- Of two writes of one index the second one counts. -/
theorem tset_tset_from {lo : Nat} {t : Tbl α} (i : Nat) (v w : α) (h : twfFrom d lo t = true) :
    tset d (tset d t i v) i w = tset d t i w := by
  induction t generalizing lo with
  | nil => by_cases hv : v = d i <;> simp [tset, hv]
  | cons e t ih =>
    obtain ⟨j, x⟩ := e
    simp only [twfFrom, Bool.and_eq_true, decide_eq_true_eq, Bool.not_eq_true', decide_eq_false_iff_not] at h
    obtain ⟨⟨hlo, hx⟩, ht⟩ := h
    by_cases hlt : i < j
    · by_cases hv : v = d i <;> simp [tset, hlt, hv]
    · by_cases heq : i = j
      · subst heq
        by_cases hv : v = d i
        · simp [tset, hv, tset_below w ht (Nat.lt_succ_self i)]
        · simp [tset, hv]
      · simp [tset, hlt, heq, ih ht]

theorem tset_tget {t : Tbl α} (i : Nat) (h : twf d t = true) : tset d t i (tget d t i) = t := tset_tget_from i h
theorem tset_tset {t : Tbl α} (i : Nat) (v w : α) (h : twf d t = true) : tset d (tset d t i v) i w = tset d t i w := tset_tset_from i v w h

end

theorem setChan_chan {s : State} (hs : Canon s) (c : Nat) : setChan s c (chan s c) = s :=
  congrArg (fun t => { s with chans := t }) (tset_tget c hs.chans)

theorem setChan_setChan {s : State} (hs : Canon s) (c : Nat) (x y : Chan) : setChan (setChan s c x) c y = setChan s c y :=
  congrArg (fun t => { s with chans := t }) (tset_tset c x y hs.chans)

theorem setStream_stream {s : State} (hs : Canon s) {c : Nat} {x : Stream} (hx : stream s c = some x) : setStream s c x = s := by
  have hchan : { chan s c with stream := some x } = chan s c := by
    rw [← hx]
    rfl
  rw [setStream, hchan, setChan_chan hs]

theorem setStream_setStream {s : State} (hs : Canon s) (c : Nat) (x y : Stream) : setStream (setStream s c x) c y = setStream s c y := by
  rw [setStream, setStream, chan_setChan_self hs, setChan_setChan hs]
  rfl

theorem stream_setStream_self {s : State} (hs : Canon s) (c : Nat) (x : Stream) : stream (setStream s c x) c = some x := by
  rw [stream, setStream, chan_setChan_self hs]

theorem chan_setStream_self {s : State} (hs : Canon s) (c : Nat) (x : Stream) :
    chan (setStream s c x) c = { chan s c with stream := some x } := chan_setChan_self hs c _

theorem chan_setStream_other {s : State} (hs : Canon s) {c k : Nat} (h : k ≠ c) (x : Stream) : chan (setStream s c x) k = chan s k :=
  chan_setChan_other hs c _ h

end Sys2Proof.Proofs
end

section
/-! Completion and its record (R52, R56, R71 to R73). -/

namespace Sys2Proof.Proofs

open Sys2Proof Sys2Proof.Machine Sys2Proof.Laws

/-! ### The state that a channel enters after a completion -/

/-- A step of a channel that moves on. -/
def OnlyMove (s t : State) : Prop := t = { s with
  chans := t.chans, clk := t.clk, out := t.out
  path := { s.path with slots := t.path.slots, waitq := t.path.waitq, fe := t.path.fe, nextId := t.path.nextId }
  ports := { s.ports with own := t.ports.own } }

theorem OnlyMove.refl (s : State) : OnlyMove s s := rfl

theorem OnlyMove.trans {s t u : State} (h₁ : OnlyMove s t) (h₂ : OnlyMove t u) : OnlyMove s u := by
  unfold OnlyMove at h₁ h₂ ⊢
  rw [h₁] at h₂
  exact h₂

theorem OnlyFetch.onlyMove {s t : State} (h : OnlyFetch s t) : OnlyMove s t := by
  unfold OnlyMove
  rw [h]

theorem Slots.onlyMove {s t : State} (h : Slots s t) : OnlyMove s t := by
  unfold OnlyMove
  rw [h.frame]

theorem onlyMove_setChan (s : State) (c : Nat) (x : Chan) : OnlyMove s (setChan s c x) := rfl
theorem onlyMove_setFe (s : State) (q : Nat) (x : Fe) : OnlyMove s (setFe s q x) := rfl
theorem onlyMove_dropFetch (s : State) (c : Nat) : OnlyMove s (dropFetch s c) := rfl
theorem onlyMove_freeSlot (s : State) (c : Nat) : OnlyMove s (freeSlot s c) := (slots_freeSlot s c).onlyMove
theorem onlyMove_pumpFetch (s : State) (c : Nat) : OnlyMove s (pumpFetch s c) := (pumps_pumpFetch s c).frame.onlyMove
theorem onlyMove_startRun (s : State) (c : Nat) : OnlyMove s (startRun s c) :=
  .trans (onlyMove_dropFetch s c) (.trans (onlyMove_setChan _ c _) (onlyMove_pumpFetch _ c))

/-- The list pointer behind a completion. -/
def nextHead (x : Stream) (ff : Bool) : BitVec 52 := BitVec.ofNat 52 (if ff then x.addr else nextAddr x.addr x.desc)

/-- A descriptor ends, and its slot goes to the next stream. -/
def endsAs (s : State) (c : Nat) (st : ChSt) (head : BitVec 52) : State :=
  freeSlot (setChan s c { chan s c with st := st, head := head, stream := none }) c

/-- A channel that has run dry counts the stall, and fetches further ahead (R175). -/
def runsDry (s : State) (c : Nat) : State :=
  if (chan s c).fetched.isEmpty then
    let q := fe s (c / 128)
    let s' := setFe s (c / 128) { q with dstall := q.dstall + 1 }
    if q.fixed then s' else setChan s' c { chan s c with la := min (8 * q.lamaxb) ((chan s c).la + 8) }
  else s

theorem moveOn_error {s : State} {c : Nat} {x : Stream} {code : Nat} (h : 2 ≤ code) (ff : Bool) :
    moveOn s c x code ff = endsAs (dropFetch s c) c .halted (nextHead x ff) := by
  unfold moveOn
  rw [if_pos h]
  rfl

theorem moveOn_good {s : State} {c : Nat} {x : Stream} {code : Nat} (h : code < 2) (hp : dPersist x.desc = false) (ff : Bool) :
    moveOn s c x code ff = (let u := endsAs s c .running (nextHead x ff)
      if dChain x.desc = 2 then
        if (chan u c).pending then startRun u c else setChan (dropFetch u c) c { chan (dropFetch u c) c with st := .idle }
      else pumpFetch (runsDry u c) c) := by
  unfold moveOn
  rw [if_neg (Nat.not_le.mpr h), if_neg (by rw [hp]; decide)]
  rfl

theorem onlyMove_endsAs (s : State) (c : Nat) (st : ChSt) (head : BitVec 52) : OnlyMove s (endsAs s c st head) :=
  .trans (onlyMove_setChan s c _) (onlyMove_freeSlot _ c)

theorem onlyMove_runsDry (s : State) (c : Nat) : OnlyMove s (runsDry s c) := by
  unfold runsDry
  split
  · extract_lets q u
    split <;> rfl
  · exact .refl s

theorem onlyMove_moveOn (s : State) (c : Nat) (x : Stream) (code : Nat) (hp : dPersist x.desc = false) (ff : Bool) :
    OnlyMove s (moveOn s c x code ff) := by
  by_cases h : 2 ≤ code
  · rw [moveOn_error h]
    exact .trans (onlyMove_dropFetch s c) (onlyMove_endsAs _ c _ _)
  · rw [moveOn_good (Nat.not_le.mp h) hp]
    refine .trans (onlyMove_endsAs s c .running (nextHead x ff)) ?_
    extract_lets u
    split
    · split
      · exact onlyMove_startRun u c
      · exact .trans (onlyMove_dropFetch u c) (onlyMove_setChan _ c _)
    · exact .trans (onlyMove_runsDry u c) (onlyMove_pumpFetch _ c)

/-- A channel whose stream has gone, behind the filling of its slot. -/
theorem chan_freeSlot_none {s : State} (hs : Canon s) (c : Nat) {k : Chan} (hk : k.stream = none) :
    chan (freeSlot (setChan s c k) c) c = k := by
  have hself := chan_setChan_self hs c k
  rw [unslot_none ((slots_freeSlot (setChan s c k) c).chan (setChan_canon s c k hs) c) (by rw [hself]; exact hk), hself]

theorem chan_endsAs {s : State} (hs : Canon s) (c : Nat) (st : ChSt) (head : BitVec 52) :
    chan (endsAs s c st head) c = { chan s c with st := st, head := head, stream := none } := chan_freeSlot_none hs c rfl

theorem endsAs_canon {s : State} (hs : Canon s) (c : Nat) (st : ChSt) (head : BitVec 52) : Canon (endsAs s c st head) :=
  freeSlot_canon _ _ (setChan_canon _ _ _ hs)

/-- The rest of a channel's record behind the loss of what it has fetched. -/
theorem chan_dropFetch {s : State} (hs : Canon s) (c : Nat) :
    chan (dropFetch s c) c = { chan s c with fetched := [], fetching := none, fetchDue := none, fetchTries := 0 } := chan_setChan_self hs c _

theorem chan_moveOn_error {s : State} (hs : Canon s) {c : Nat} {x : Stream} {code : Nat} (h : 2 ≤ code) (ff : Bool) :
    chan (moveOn s c x code ff) c = { chan s c with
      fetched := [], fetching := none, fetchDue := none, fetchTries := 0, st := .halted, head := nextHead x ff, stream := none } := by
  rw [moveOn_error h, chan_endsAs (dropFetch_canon s c hs), chan_dropFetch hs]

/-- A channel that moves on behind a completion without error: its state, list pointer and stream, and what it keeps. -/
structure MovesOn (k k' : Chan) (st : ChSt) (head : BitVec 52) : Prop where
  st : k'.st = st
  head : k'.head = head
  stream : k'.stream = none
  seq : k'.seq = k.seq
  lastCode : k'.lastCode = k.lastCode

theorem chan_runsDry {s : State} (hs : Canon s) (c : Nat) : restOf (chan (runsDry s c) c) = restOf (chan s c) := by
  have hfe : Canon (setFe s (c / 128) { fe s (c / 128) with dstall := (fe s (c / 128)).dstall + 1 }) := setFe_canon _ _ _ hs
  unfold runsDry
  split
  · extract_lets q u
    split
    · rfl
    · rw [chan_setChan_self hfe]
      rfl
  · rfl

theorem MovesOn.of_rest {y k : Chan} (h : restOf k = restOf y) (hy : y.stream = none) : MovesOn y k y.st y.head :=
  ⟨(congrArg Chan.st h :), (congrArg Chan.head h :), (congrArg Chan.stream h :).trans hy, (congrArg Chan.seq h :),
    (congrArg Chan.lastCode h :)⟩

theorem restOf_startRun {s : State} (hs : Canon s) (c : Nat) : restOf (chan (startRun s c) c) = restOf (restarted (chan s c)) := by
  obtain ⟨v, hstart, -, hvcanon, hself, -⟩ := startRun_restarted hs c
  rw [hstart, (pumps_pumpFetch v c).rest hvcanon, hself]

theorem runsDry_canon {s : State} (hs : Canon s) (c : Nat) : Canon (runsDry s c) := by
  unfold runsDry
  split
  · extract_lets q w
    split
    · exact setFe_canon _ _ _ hs
    · exact setChan_canon _ _ _ (setFe_canon _ _ _ hs)
  · exact hs

/-- A channel with PENDING starts anew behind END. -/
theorem movesOn_startRun {s : State} (hs : Canon s) {c : Nat} (hstream : (chan s c).stream = none) :
    MovesOn (chan s c) (chan (startRun s c) c) .running (chan s c).head ∧ (chan (startRun s c) c).pending = false := by
  have hrest := restOf_startRun hs c
  generalize chan (startRun s c) c = k at *
  generalize chan s c = y at *
  exact ⟨⟨(congrArg Chan.st hrest :), (congrArg Chan.head hrest :), (congrArg Chan.stream hrest :).trans hstream, (congrArg Chan.seq hrest :),
    (congrArg Chan.lastCode hrest :)⟩, (congrArg Chan.pending hrest :)⟩

/-- A channel without PENDING rests behind END. -/
theorem movesOn_rests {s : State} (hs : Canon s) {c : Nat} (hstream : (chan s c).stream = none) (hp : (chan s c).pending = false) :
    MovesOn (chan s c) (chan (setChan (dropFetch s c) c { chan (dropFetch s c) c with st := .idle }) c) .idle (chan s c).head
      ∧ (chan (setChan (dropFetch s c) c { chan (dropFetch s c) c with st := .idle }) c).pending = false := by
  rw [chan_setChan_self (dropFetch_canon _ _ hs), chan_dropFetch hs]
  exact ⟨⟨rfl, rfl, hstream, rfl, rfl⟩, hp⟩

/-- A channel that goes on to its next descriptor. -/
theorem movesOn_pumps {s : State} (hs : Canon s) {c : Nat} (hstream : (chan s c).stream = none) :
    MovesOn (chan s c) (chan (pumpFetch (runsDry s c) c) c) (chan s c).st (chan s c).head :=
  .of_rest (((pumps_pumpFetch _ c).rest (runsDry_canon hs c) c).trans (chan_runsDry hs c)) hstream

theorem chan_moveOn_good {s : State} (hs : Canon s) {c : Nat} {x : Stream} {code : Nat} (h : code < 2) (hp : dPersist x.desc = false)
    (ff : Bool) : MovesOn (chan s c) (chan (moveOn s c x code ff) c)
      (if dChain x.desc = 2 ∧ (chan s c).pending = false then .idle else .running) (nextHead x ff)
      ∧ (dChain x.desc = 2 → (chan (moveOn s c x code ff) c).pending = false) := by
  have hcanon := endsAs_canon hs c .running (nextHead x ff)
  have hends := chan_endsAs hs c .running (nextHead x ff)
  rw [moveOn_good h hp]
  generalize endsAs s c .running (nextHead x ff) = u at hcanon hends ⊢
  generalize chan s c = y at hends ⊢
  have hstream : (chan u c).stream = none := by rw [hends]
  have hpend : (chan u c).pending = y.pending := by rw [hends]
  have hback : ∀ {k st}, MovesOn (chan u c) k st (chan u c).head → MovesOn y k st (nextHead x ff) := fun hm => by
    rw [hends] at hm
    exact ⟨hm.st, hm.head, hm.stream, hm.seq, hm.lastCode⟩
  dsimp only
  by_cases hchain : dChain x.desc = 2
  · rw [if_pos hchain]
    cases hq : y.pending with
    | true =>
      rw [if_pos (hpend.trans hq), if_neg fun hn => absurd hn.2 (by decide)]
      exact ⟨hback (movesOn_startRun hcanon hstream).1, fun _ => (movesOn_startRun hcanon hstream).2⟩
    | false =>
      have hp' := hpend.trans hq
      rw [if_neg (by rw [hp']; decide), if_pos ⟨hchain, rfl⟩]
      exact ⟨hback (movesOn_rests hcanon hstream hp').1, fun _ => (movesOn_rests hcanon hstream hp').2⟩
  · rw [if_neg hchain, if_neg fun hn => hchain hn.1]
    have hrun : (chan u c).st = .running := by rw [hends]
    have hm := movesOn_pumps hcanon hstream
    rw [hrun] at hm
    exact ⟨hback hm, fun hn => absurd hn hchain⟩

end Sys2Proof.Proofs
end

section
/-! The completion record (R56, R71, R72, Table 03-17). -/

namespace Sys2Proof.Proofs

open Sys2Proof Sys2Proof.Machine Sys2Proof.Laws

/-! ### A completion without bound rings -/

/-- The channel's record as its descriptor completes: SEQ, LASTCODE, the count-back point, and the record that is out. -/
def completedChan (k : Chan) (x : Stream) (code : Nat) : Chan := { k with
  seq := k.seq + 1, lastCode := BitVec.ofNat 4 code
  gen := if dBf x.desc then k.gen + 1 else k.gen
  recOut := if dCrec x.desc || decide (2 ≤ code) then some ⟨code, dIrq x.desc || decide (2 ≤ code), decide (2 ≤ code), none⟩ else none }

/-- The state in which the channel moves on. -/
def completing (s : State) (c : Nat) (x : Stream) (code : Nat) : State :=
  setChan (dropReqs s c) c (completedChan (chan s c) x code)

/-- Where a channel's next record goes. -/
def recPlace (k : Chan) : Nat := 4096 * k.cqBase.toNat + 16 * k.tail.toNat

theorem complete_full {s : State} {c : Nat} {x : Stream} {code d : Nat} (hrec : dCrec x.desc = true ∨ 2 ≤ code)
    (hfull : cqIsFull (chan s c) = true) : complete s c x code d = setChan s c { chan s c with st := .cqFull } := by
  have hisRec : (dCrec x.desc || decide (2 ≤ code)) = true := by simpa using hrec
  unfold complete
  simp only [hisRec, hfull, Bool.and_self, if_true]

/-- The bytes that a record counts. -/
def recBytes (x : Stream) (code : Nat) : Nat :=
  if isData x.desc then x.bytes + (if code < 2 then (x.tiles.map (·.bytes)).foldl (· + ·) 0 else 0) else 0

theorem complete_out {s : State} {c : Nat} {x : Stream} {code d : Nat} (hP : x.slotP = none) (hC : x.slotC = none)
    (hnot : ¬ ((dCrec x.desc = true ∨ 2 ≤ code) ∧ cqIsFull (chan s c) = true)) : complete s c x code d
    = (let u := moveOn (completing s c x code) c x code (failedFetch (chan s c) x code d)
      if dCrec x.desc || decide (2 ≤ code) then
        let w := recWords2 s c x code d (recBytes x code)
        let r := recordStore (emit u (.record c (recPlace (chan s c)) w.1 w.2)) c (recPlace (chan s c)) w
        match r.2 with
        | some e => recordFail r.1 c e
        | none => r.1
      else if dIrq x.desc || decide (2 ≤ code) then pendCh u c else u) := by
  have hnot' : ((dCrec x.desc || decide (2 ≤ code)) && cqIsFull (chan s c)) ≠ true := by simpa using hnot
  have hdone : boundDone s c x (decide (code < 2)) = s := by
    unfold boundDone
    rw [hP, hC]
    rfl
  unfold complete
  rw [if_neg hnot', hdone]
  rfl

/-- A record of which the place lies in external memory goes out, and is outstanding. -/
theorem recordStore_ext {s : State} {c pa p : Nat} (w : W64 × W64) (h : locOf s pa = .ext p) :
    recordStore s c pa w = ((ownReq (echoDrop s p) (memPortOf s p) 1 p (.record c)).1, none) := by
  unfold recordStore
  rw [h]

/-! ### The words of the record -/

/-- The first word's fields from its sum. -/
theorem recWord_fields {code r q ty cx : Nat} (b : Bool) (hcode : code < 12) (hr : r ≤ 3) (hq : q < 2 ^ 46) (hty : ty < 2 ^ 4) (hcx : cx < 64) :
    fld (BitVec.ofNat 64 (code + 2 ^ 4 * r + q * 64 + 2 ^ 52 * ty + 2 ^ 56 * cx + flag b 63)) 0 4 = code
      ∧ bitOf (BitVec.ofNat 64 (code + 2 ^ 4 * r + q * 64 + 2 ^ 52 * ty + 2 ^ 56 * cx + flag b 63)) 63 = b := by
  have hflag : flag b 63 = 9223372036854775808 * b.toNat := by cases b <;> rfl
  have hb : b.toNat ≤ 1 := Bool.toNat_le b
  norm_num at hq hty ⊢
  rw [hflag]
  constructor
  · rw [fld_ofNat (by norm_num; omega)]
    norm_num
    omega
  · rw [bitOf, BitVec.getLsbD_ofNat, Nat.testBit_eq_decide_div_mod_eq]
    norm_num
    cases b <;> simp <;> omega

theorem recWords2_fields (s : State) (c : Nat) (x : Stream) {code : Nat} (d bytes : Nat) (hcode : code < 12) (haddr : x.addr < 2 ^ 52)
    (hctx : (chanCfg s c).ctx < 64) :
    fld (recWords2 s c x code d bytes).1 0 4 = code ∧ bitOf (recWords2 s c x code d bytes).1 63 = (chan s c).phase
      ∧ fld (recWords2 s c x code d bytes).2 40 16 = ((chan s c).seq + 1).toNat := by
  obtain ⟨hcode', hphase⟩ := recWord_fields (chan s c).phase hcode (Nat.min_le_left 3 x.retries)
    (show x.addr / 64 < 2 ^ 46 by omega) (show dType x.desc < 2 ^ 4 from fld_lt _ _ _) hctx
  refine ⟨hcode', hphase, ?_⟩
  have hseq := ((chan s c).seq + 1).isLt
  have hbytes := Nat.mod_lt bytes (Nat.two_pow_pos 40)
  have hd := Nat.mod_lt d (show 0 < 256 by decide)
  unfold recWords2
  dsimp only
  generalize ((chan s c).seq + 1).toNat = n at *
  norm_num at hseq hbytes ⊢
  rw [fld_ofNat (by norm_num; omega)]
  norm_num
  omega

/-! ### DESCRIPTOR_COMPLETE -/

theorem retireTiles_none {s : State} (hs : Canon s) {c : Nat} {x : Stream} (hx : stream s c = some x) (ht : x.tiles = []) :
    retireTiles s c = s := by
  have hsame : { x with tiles := ([] : List Tile), bytes := x.bytes + 0 } = x := by
    rw [← ht]
    rfl
  unfold retireTiles
  rw [hx]
  simp only [ht, List.filter_nil, List.map_nil, List.foldl_nil, hsame]
  exact setStream_stream hs hx

theorem endOf_done {s : State} {c : Nat} {x : Stream} {code d : Nat} (hd : x.st = .done code d)
    (hacks : waitsAcks x = true → writesAcked s c = true) : endOf s c x = some (code, d) := by
  have hno : (waitsAcks x && !writesAcked s c) = false := by
    cases hw : waitsAcks x with
    | false => rfl
    | true => rw [hacks hw]; rfl
  unfold endOf
  rw [hd]
  simp only [hno]
  rfl

theorem completeRun_unbound {s : State} (hs : Canon s) {c : Nat} {x : Stream} {code d : Nat} (hx : stream s c = some x)
    (hd : x.st = .done code d) (hP : x.slotP = none) (hC : x.slotC = none) : completeRun s c x code d = complete s c x code d := by
  have hworld : boundWorld s c x code d = (s, x, code, d) := by
    unfold boundWorld
    rw [hP, hC]
    rfl
  have hsame : { x with st := StreamSt.done code d } = x := by rw [← hd]
  unfold completeRun
  rw [hworld]
  dsimp only
  rw [hsame, setStream_stream hs hx]

theorem anyGate_ext {s : State} {a p : Nat} (h : locOf s a = .ext p) : anyGate s [locOf s a] = false := by
  rw [h]
  rfl

theorem exec_descriptorComplete {s : State} {c : Ch} {x : Stream} {code d p : Nat} (hs : Canon s) (hop : operating s = true)
    (hst : chState s c.val = .running) (hctx : ctxRuns s c.val = true) (hrec : (chan s c.val).recOut = none)
    (hx : stream s c.val = some x) (hd : x.st = .done code d) (ht : x.tiles = []) (hacks : waitsAcks x = true → writesAcked s c.val = true)
    (hP : x.slotP = none) (hC : x.slotC = none) (hloc : locOf s (recPlace (chan s c.val)) = .ext p) :
    exec (.descriptorComplete c) s = .next (complete s c.val x code d) := by
  have hrun : (ctx s (chanCfg s c.val).ctx).st = .run := by
    simp only [ctxRuns, Bool.and_eq_true, beq_iff_eq] at hctx
    exact hctx.1.1
  have hgate : recordGate s c.val = false := anyGate_ext hloc
  rw [← completeRun_unbound hs hx hd hP hC]
  simp only [exec, execDescriptorComplete, hop, hst, hrec, hrun, hgate, retireTiles_none hs hx ht, hx, endOf_done hd hacks, hd]
  rfl

theorem chan_completing {s : State} (hs : Canon s) (c : Nat) (x : Stream) (code : Nat) :
    chan (completing s c x code) c = completedChan (chan s c) x code := chan_setChan_self (dropReqs_canon s c hs) c _

theorem completing_canon {s : State} (hs : Canon s) (c : Nat) (x : Stream) (code : Nat) : Canon (completing s c x code) :=
  setChan_canon _ _ _ (dropReqs_canon s c hs)

/-- A failed fetch ends in an error. -/
theorem failedFetch_good {k : Chan} {x : Stream} {code d : Nat} (h : code < 2) : failedFetch k x code d = false := by
  have h10 : (code == cECC) = false := by simp [cECC]; omega
  have h7 : (code == cWORLD) = false := by simp [cWORLD]; omega
  have h8 : (code == cTIMEOUT) = false := by simp [cTIMEOUT]; omega
  unfold failedFetch
  split <;> simp [h10, h7, h8]

theorem nextHead_end {x : Stream} (h : dChain x.desc = 2) : nextHead x false = BitVec.ofNat 52 (x.addr + 64) := by
  have hnext : nextAddr x.addr x.desc = (x.addr + 64) % 2 ^ 52 := by simp [nextAddr, h]
  apply BitVec.eq_of_toNat_eq
  simp only [nextHead, hnext, BitVec.toNat_ofNat, Bool.false_eq_true, if_false, Nat.mod_mod]

/-- The state behind a completion that is not held by a full ring: as the channel moves on, and the record that it writes. -/
structure Completes (s t : State) (c : Nat) (x : Stream) (code d : Nat) : Prop where
  chan : Machine.chan t c = Machine.chan (moveOn (completing s c x code) c x code (failedFetch (Machine.chan s c) x code d)) c
  record : dCrec x.desc = true ∨ 2 ≤ code → Out.record c (recPlace (Machine.chan s c)) (recWords2 s c x code d (recBytes x code)).1
    (recWords2 s c x code d (recBytes x code)).2 ∈ t.out

theorem completes_complete {s : State} {c : Nat} {x : Stream} {code d p : Nat} (hP : x.slotP = none) (hC : x.slotC = none)
    (hpers : dPersist x.desc = false) (hloc : locOf s (recPlace (chan s c)) = .ext p)
    (hnot : ¬ ((dCrec x.desc = true ∨ 2 ≤ code) ∧ cqIsFull (chan s c) = true)) :
    Completes s (complete s c x code d) c x code d := by
  have hmove := onlyMove_moveOn (completing s c x code) c x code hpers (failedFetch (chan s c) x code d)
  have hboot : (moveOn (completing s c x code) c x code (failedFetch (chan s c) x code d)).boot = s.boot := by
    rw [hmove]
    rfl
  rw [complete_out hP hC hnot]
  by_cases hr : (dCrec x.desc || decide (2 ≤ code)) = true
  · rw [if_pos hr]
    constructor
    · generalize moveOn (completing s c x code) c x code (failedFetch (chan s c) x code d) = u at *
      dsimp only
      rw [recordStore_ext _ (show locOf (emit u _) (recPlace (chan s c)) = .ext p from (locOf_congr hboot _).trans hloc)]
      rfl
    · intro _
      generalize moveOn (completing s c x code) c x code (failedFetch (chan s c) x code d) = u at *
      dsimp only
      rw [recordStore_ext _ (show locOf (emit u _) (recPlace (chan s c)) = .ext p from (locOf_congr hboot _).trans hloc)]
      exact List.mem_append_right _ (List.mem_singleton_self _)
  · rw [if_neg hr]
    refine ⟨?_, fun h => absurd h (by simpa using hr)⟩
    generalize moveOn (completing s c x code) c x code (failedFetch (chan s c) x code d) = u
    split
    · exact congrArg (fun l => tget (fun _ => ({} : Chan)) l c) (by rw [pendCh, setPorts_frame])
    · rfl

/-- Settles O28, by `complete_full` and `completes_complete`. -/
theorem completionWritesItsRecord : Obligations.CompletionWritesItsRecord := by
  intro s c x code d hs hop hst hctx hrec hx hd ht hacks hpers hP hC hcode haddr hcfg k pa recs hloc
  obtain ⟨p, hloc⟩ := hloc
  refine ⟨_, exec_descriptorComplete hs hop hst hctx hrec hx hd ht hacks hP hC hloc, fun ⟨hr, hfull⟩ => ?_, fun hnot => ?_⟩
  · rw [complete_full hr hfull, chan_setChan_self hs]
    exact ⟨rfl, rfl, rfl⟩
  · obtain ⟨hchan, hrecord⟩ := completes_complete (d := d) hP hC hpers hloc hnot
    obtain ⟨hw0, hw0', hw1⟩ := recWords2_fields s c.val x d (recBytes x code) hcode haddr hcfg
    have hcanon := completing_canon hs c.val x code
    have hself := chan_completing hs c.val x code
    have hpend : (chan (completing s c.val x code) c.val).pending = k.pending := by rw [hself]; rfl
    have hseq : (chan (completing s c.val x code) c.val).seq = k.seq + 1 := by rw [hself]; rfl
    have hlast : (chan (completing s c.val x code) c.val).lastCode = BitVec.ofNat 4 code := by rw [hself]; rfl
    have hrecs : recs → ∃ w0 w1, Out.record c.val pa w0 w1 ∈ (complete s c.val x code d).out ∧ fld w0 0 4 = code ∧ bitOf w0 63 = k.phase
        ∧ fld w1 40 16 = (k.seq + 1).toNat := fun hr => ⟨_, _, hrecord hr, hw0, hw0', hw1⟩
    rw [hchan]
    by_cases herr : 2 ≤ code
    · rw [chan_moveOn_error hcanon herr]
      exact ⟨hseq, hlast, hrecs, fun _ => ⟨rfl, rfl, rfl⟩, fun h => absurd herr (Nat.not_le.mpr h), fun h => absurd herr (Nat.not_le.mpr h)⟩
    · have hgood := Nat.not_le.mp herr
      obtain ⟨⟨mst, mhead, mstream, mseq, mlast⟩, mpend⟩ := chan_moveOn_good hcanon hgood hpers (failedFetch (chan s c.val) x code d)
      rw [hpend] at mst
      refine ⟨mseq.trans hseq, mlast.trans hlast, hrecs, fun h => absurd h herr, fun _ hchain => ⟨?_, mpend hchain, ?_⟩, fun _ hchain => ⟨?_, mstream⟩⟩
      · rw [mhead, failedFetch_good hgood, nextHead_end hchain]
      · rw [mst]
        cases k.pending <;> simp [hchain]
      · rw [mst, if_neg fun h => hchain h.1]

end Sys2Proof.Proofs
end

section
/-! Mailboxes (R297, R216). -/

namespace Sys2Proof.Proofs

open Sys2Proof Sys2Proof.Machine Sys2Proof.Laws Sys2Proof.Tests

/-- In service, the interrupt of the wake events enabled, with its message. -/
def wakeMsi : State :=
  let s := setMsi run 33 { en := true }
  { s with ports := { s.ports with srcEn := 1 } }

/-- A write of GO that leaves LEN as it is. -/
def goWrite : W32 := BitVec.ofNat 32 (1 + 2 ^ 8 * (mb wakeMsi 1).len)

/-- GO of a Puppeteer mailbox raises the wake event, and the message of its interrupt leaves with it. -/
theorem go_wakeMsi : ∃ t, exec (.go 1 false goWrite) wakeMsi = .next t ∧ t.out.length = 2 := by
  refine ⟨_, rfl, ?_⟩
  decide +kernel

theorem served_wakeMsi : Served wakeMsi (0x10000 + 0x80 * (1 : Fin 32).val + 0x40) false (mbSecure wakeMsi (1 : Fin 32).val) :=
  ⟨by decide +kernel, by decide +kernel, by decide +kernel⟩

/-- Refutes O57: of a mailbox of the Puppeteer it says that GO changes nothing but the mailbox and the pending bit of the wake event; where the
interrupt of that bit is enabled, its message leaves through M0 (R217). -/
theorem not_mailboxesAndTheDump : ¬ Obligations.MailboxesAndTheDump := by
  intro h
  obtain ⟨hmb, -⟩ := h
  obtain ⟨-, hctrl⟩ := hmb wakeMsi 1 false goWrite (canonOf _ (by decide +kernel))
  obtain ⟨-, -, -, hgo⟩ := hctrl served_wakeMsi
  obtain ⟨-, hgo⟩ := hgo (by decide +kernel) (by decide +kernel)
  obtain ⟨t, hexec, -, hframe⟩ := hgo (by decide +kernel)
  obtain ⟨u, hexec', hout⟩ := go_wakeMsi
  rw [hexec] at hexec'
  cases hexec'
  have hnone : t.out = [] := by rw [hframe (by decide +kernel)]; rfl
  rw [emit_out, hnone] at hout
  exact absurd hout (by decide)

end Sys2Proof.Proofs
end

section
/-! Tiles: the next tile of a MOVE, and a pre-walk that passes (R22, R61, R86). -/

namespace Sys2Proof.Proofs

open Sys2Proof Sys2Proof.Machine Sys2Proof.Laws

/-! ### Records that are not the reset record, in any table -/

section
variable {α : Type} [DecidableEq α] {d : Nat → α}

/-- What is written reads back in any table, unless it is the reset record. -/
theorem tget_tset_new (t : Tbl α) (i : Nat) {v : α} (h : v ≠ d i) : tget d (tset d t i v) i = v := by
  induction t with
  | nil => simp [tset, tget, h]
  | cons e t ih =>
    obtain ⟨j, w⟩ := e
    by_cases hlt : i < j
    · simp [tset, tget, hlt, h]
    · by_cases heq : i = j
      · subst heq
        simp [tset, tget, h]
      · simp [tset, tget, hlt, heq, Ne.symm heq, ih]

theorem tset_tset_new (t : Tbl α) (i : Nat) {v : α} (h : v ≠ d i) (w : α) : tset d (tset d t i v) i w = tset d t i w := by
  induction t with
  | nil => simp [tset, h]
  | cons e t ih =>
    obtain ⟨j, x⟩ := e
    by_cases hlt : i < j
    · simp [tset, hlt, h]
    · by_cases heq : i = j
      · subst heq
        simp [tset, h]
      · simp [tset, hlt, heq, ih]

end

theorem chan_stream_ne_reset {k : Chan} (h : k.stream ≠ none) : k ≠ {} := fun hk => h (by rw [hk])

theorem chan_setChan_stream (s : State) (c : Nat) {k : Chan} (h : k.stream ≠ none) : chan (setChan s c k) c = k :=
  tget_tset_new s.chans c (chan_stream_ne_reset h)

theorem chan_setStream (s : State) (c : Nat) (x : Stream) : chan (setStream s c x) c = { chan s c with stream := some x } :=
  chan_setChan_stream s c (Option.some_ne_none x)

theorem stream_setStream (s : State) (c : Nat) (x : Stream) : stream (setStream s c x) c = some x := by
  rw [stream, chan_setStream]

theorem setStream_twice (s : State) (c : Nat) (x y : Stream) : setStream (setStream s c x) c y = setStream s c y := by
  have hset : ∀ z, setChan (setStream s c x) c z = setChan s c z := fun z =>
    congrArg (fun t => { s with chans := t }) (tset_tset_new s.chans c (chan_stream_ne_reset (Option.some_ne_none x)) z)
  rw [setStream, hset, chan_setStream]
  rfl

/-! ### Lists without repetition -/

theorem dedup_foldl_mem {α : Type} [DecidableEq α] (l acc : List α) :
    (∀ x ∈ acc, x ∈ l.foldl (fun acc x => if acc.contains x then acc else acc ++ [x]) acc)
      ∧ ∀ x ∈ l, x ∈ l.foldl (fun acc x => if acc.contains x then acc else acc ++ [x]) acc := by
  induction l generalizing acc with
  | nil => exact ⟨fun _ h => h, by simp⟩
  | cons a l ih =>
    obtain ⟨hacc, hl⟩ := ih (if acc.contains a then acc else acc ++ [a])
    refine ⟨fun x hx => hacc x ?_, fun x hx => ?_⟩
    · split
      · exact hx
      · exact List.mem_append_left _ hx
    · rcases List.mem_cons.mp hx with rfl | hx
      · refine hacc x ?_
        split
        · next h => simpa using h
        · simp
      · exact hl x hx

theorem dedup_foldl_of_mem {α : Type} [DecidableEq α] {l acc : List α} (h : ∀ x ∈ l, x ∈ acc) :
    l.foldl (fun acc x => if acc.contains x then acc else acc ++ [x]) acc = acc := by
  induction l with
  | nil => rfl
  | cons a l ih =>
    have ha : acc.contains a = true := by simpa using h a (List.mem_cons_self ..)
    rw [List.foldl_cons, if_pos ha]
    exact ih fun x hx => h x (List.mem_cons_of_mem _ hx)

theorem dedup_append_self {α : Type} [DecidableEq α] (l : List α) : dedup (l ++ l) = dedup l := by
  unfold dedup
  rw [List.foldl_append]
  exact dedup_foldl_of_mem (dedup_foldl_mem l []).2

/-! ### The stream that acts -/

/-- A channel whose stream acts. -/
theorem acting_of_acts {s : State} {c : Nat} {x : Stream} (h : Acts s c x) {p : Stream → Bool} (hp : p x = true) : acting s c p = some x := by
  obtain ⟨hon, hrun, hctx, hhere, hslot⟩ := h
  simp [acting, hon, hrun, hctx, hhere, hslot, hp]

theorem modStream_of_stream {s : State} {c : Nat} {x : Stream} (h : stream s c = some x) (f : Stream → Stream) :
    modStream s c f = setStream s c (f x) := by
  unfold modStream
  rw [h]

/-! ### Generation of a MOVE's tiles -/

/-- The tile that a MOVE generates. -/
def moveTileOf (s : State) (x : Stream) : Tile :=
  let all := moveLead s x x.mcur ++ moveTile s x x.mcur
  { no := x.tno, att := 0, run := 0, pairs := all, srcs := dedup (all.flatMap (pairSrcLines x))
    need := tileReqs x all, xset := [], xgen := 0, xasid := 0, walked := false, groups := []
    bytes := tileBytes x all, wrote := false, strad := [] }

theorem addTile_move {s : State} {x : Stream} (hty : dType x.desc = 1) (ht : x.tiles = []) :
    addTile x (moveLead s x x.mcur ++ moveTile s x x.mcur) = { x with tno := x.tno + 1, tiles := [moveTileOf s x] } := by
  have hty' : ¬ dType x.desc = 2 := by omega
  unfold addTile addTileAs moveTileOf
  rw [ht, List.flatMap_append, dedup_append_self, if_neg hty']
  rfl

theorem mCnt_pos (d : DescData) : 0 < (mCnt d).1 := Nat.succ_pos _

/-- A tile of a MOVE is a start of the pairs of its inner run. -/
theorem moveTile_get {s : State} {x : Stream} {i k : Nat} (h : k < (moveTile s x i).length) : (moveTile s x i)[k]? = some (movePair s x (i + k)) := by
  have hstart : ∀ (l : List Pair) (k : Nat), k < (tileStart x.desc l).length → (tileStart x.desc l)[k]? = l[k]? := by
    intro l k hk
    cases l with
    | nil => exact absurd hk (Nat.not_lt_zero k)
    | cons p ps =>
      have hpre : tileStart x.desc (p :: ps) <+: p :: ps :=
        (List.cons_prefix_cons).mpr ⟨rfl, List.takeWhile_prefix _⟩
      obtain ⟨r, hr⟩ := hpre
      rw [← hr, List.getElem?_append_left hk]
      rw [hr]
  have hlen : k < (mCnt x.desc).1 - i % (mCnt x.desc).1 := by
    have hle : (moveTile s x i).length ≤ (mCnt x.desc).1 - i % (mCnt x.desc).1 := by
      unfold moveTile
      extract_lets n0
      have hl : ∀ l : List Pair, (tileStart x.desc l).length ≤ l.length := fun l => by
        cases l with
        | nil => exact Nat.le_refl 0
        | cons p ps => exact Nat.succ_le_succ (List.takeWhile_prefix _).length_le
      refine (hl _).trans ?_
      rw [List.length_map, List.length_range]
    omega
  unfold moveTile at h ⊢
  rw [hstart _ k h]
  simp [hlen]

theorem moveTile_pos (s : State) (x : Stream) (i : Nat) : 0 < (moveTile s x i).length := by
  have hpos : 0 < (mCnt x.desc).1 - i % (mCnt x.desc).1 := by
    have := Nat.mod_lt i (mCnt_pos x.desc)
    omega
  unfold moveTile
  extract_lets n0
  obtain ⟨n, hn⟩ := Nat.exists_eq_succ_of_ne_zero (show n0 - i % n0 ≠ 0 from Nat.pos_iff_ne_zero.mp hpos)
  rw [hn, List.range_succ_eq_map]
  exact Nat.succ_pos _

section
variable {s : State} {c : Ch} {x : Stream} (hacts : Acts s c.val x) (hst : x.st = .started)
include hacts hst

/-- The step of a MOVE without a tile that stands at its pre-walk. -/
theorem exec_tilePrewalk_move (hty : dType x.desc = 1) (ht : x.tiles = []) (hlast : x.last = false) :
    exec (.tilePrewalk c) s = .next (genMove s c.val x) := by
  have hact : acting s c.val (fun x => x.st == .started && isData x.desc) = some x :=
    acting_of_acts hacts (by simp [hst, isData, hty])
  simp only [exec, execTilePrewalk, hact, ht, List.find?_nil, hlast, hty]
  rfl

/-- The step of a tile that stands at its pre-walk, all of its regions translated. -/
theorem exec_tilePrewalk_walked {t : Tile} (hdata : isData x.desc = true) (ht : x.tiles = [t]) (hw : t.walked = false)
    (hmet : ∀ q ∈ t.need, reqMet t.xset q = true ∧ walkPending s c.val q.region = false) :
    exec (.tilePrewalk c) s = .next (tileWalked s c.val t) := by
  have hact : acting s c.val (fun x => x.st == .started && isData x.desc) = some x :=
    acting_of_acts hacts (by simp [hst, hdata])
  have htile : tileOf s c.val t.no = some t := by simp [tileOf, hacts.here, ht]
  have hregion : ∀ r, walkRegion s c.val t.no r = s := fun r => by
    have hall : ((t.need.filter fun q => q.region == r).all (reqMet t.xset)) = true := by
      rw [List.all_eq_true]
      exact fun q hq => (hmet q (List.mem_filter.mp hq).1).1
    simp [walkRegion, htile, hall]
  have hfold : ∀ l : List Nat, l.foldl (fun s r => walkRegion s c.val t.no r) s = s := fun l => by
    induction l with
    | nil => rfl
    | cons r l ih => rw [List.foldl_cons, hregion, ih]
  have hmet' : (t.need.all (reqMet t.xset) && !(t.need.any fun q => walkPending s c.val q.region)) = true := by
    rw [Bool.and_eq_true, List.all_eq_true, Bool.not_eq_true', List.any_eq_false]
    exact ⟨fun q hq => (hmet q hq).1, fun q hq => by simp [(hmet q hq).2]⟩
  have hfind : x.tiles.find? (fun t => !t.walked) = some t := by simp [ht, hw]
  simp only [exec, execTilePrewalk, hact, hfind, hfold, htile, hmet', if_true]

end

theorem noMore_unbound {s : State} {c : Nat} {x : Stream} (hx : stream s c = some x) (hP : x.slotP = none) (hC : x.slotC = none) :
    noMore s c = setStream s c { x with last := true } := by
  unfold noMore
  rw [modStream_of_stream hx, markIssued, stream_setStream]
  dsimp only
  rw [hP, hC]
  exact ite_self _

/-- Settles O32: the next tile of a MOVE by `addTile_move`, the pre-walk by `exec_tilePrewalk_walked`. -/
theorem tilesAreGeneratedAndPrewalked : Obligations.TilesAreGeneratedAndPrewalked := by
  refine ⟨fun s c x hacts hst hty ht hlast => ?_, fun s c x t hacts hst hdata ht hw hmet => ?_⟩
  · intro n
    refine ⟨fun hmore => ?_, fun hdone hP hC => ?_⟩
    · intro ps all
      refine ⟨?_, moveTile_pos s x x.mcur, fun k hk => moveTile_get hk⟩
      have hgen : genMove s c.val x = setStream s c.val { addTile x (moveLead s x x.mcur ++ moveTile s x x.mcur) with
          mcur := x.mcur + (moveTile s x x.mcur).length } := if_neg (Nat.not_le.mpr hmore)
      rw [exec_tilePrewalk_move hacts hst hty ht hlast, hgen, addTile_move hty ht]
      rfl
    · have hgen : genMove s c.val x = noMore s c.val := if_pos hdone
      rw [exec_tilePrewalk_move hacts hst hty ht hlast, hgen, noMore_unbound hacts.here hP hC]
  · intro gs habs
    rw [exec_tilePrewalk_walked hacts hst hdata ht hw hmet]
    have hany : (mkGroups s x (chanCfg s c.val).mover x.gno t).any (fun g => (groupLocs g).any (absentCore s)) = false := by
      rw [List.any_eq_false]
      intro g hg
      rw [Bool.not_eq_true, List.any_eq_false]
      exact fun l hl => by simp [habs g hg l hl]
    simp [tileWalked, hacts.here, hany, ht, gs]

end Sys2Proof.Proofs
end

section
/-! The Whirligig machine (R106, R107, Table 04-5). -/

namespace Sys2Proof.Proofs

open Sys2Proof Sys2Proof.Machine Sys2Proof.Laws

/-! ### Digit reversal -/

theorem digitReverse_lt (r n v : Nat) (hr : 0 < r) : digitReverse r n v < r ^ n := by
  induction n generalizing v with
  | zero => simp [digitReverse]
  | succ n ih =>
    have hrest := ih (v / r)
    have hdigit := Nat.mod_lt v hr
    calc digitReverse r (n + 1) v = v % r * r ^ n + digitReverse r n (v / r) := rfl
      _ < v % r * r ^ n + r ^ n := Nat.add_lt_add_left hrest _
      _ = (v % r + 1) * r ^ n := by rw [Nat.succ_mul]
      _ ≤ r * r ^ n := Nat.mul_le_mul_right _ hdigit
      _ = r ^ (n + 1) := by rw [Nat.pow_succ, Nat.mul_comm]

/-- Bit `j` of a number whose `n` digits of `m` bits are reversed. -/
theorem testBit_digitReverse {m : Nat} (hm : 0 < m) (n v j : Nat) : (digitReverse (2 ^ m) n v).testBit j
    = (decide (j < n * m) && v.testBit ((n - 1 - j / m) * m + j % m)) := by
  induction n generalizing v with
  | zero => simp [digitReverse]
  | succ n ih =>
    have hrest : digitReverse (2 ^ m) n (v / 2 ^ m) < 2 ^ (n * m) := by
      have := digitReverse_lt (2 ^ m) n (v / 2 ^ m) (Nat.two_pow_pos m)
      rwa [← Nat.pow_mul, Nat.mul_comm m n] at this
    have hstep : digitReverse (2 ^ m) (n + 1) v = 2 ^ (n * m) * (v % 2 ^ m) + digitReverse (2 ^ m) n (v / 2 ^ m) := by
      rw [digitReverse, ← Nat.pow_mul, Nat.mul_comm m n, Nat.mul_comm]
    rw [hstep, Nat.testBit_two_pow_mul_add _ hrest]
    by_cases hj : j < n * m
    · have hdiv : j / m < n := Nat.div_lt_of_lt_mul (by rwa [Nat.mul_comm] at hj)
      have hplace : (n + 1 - 1 - j / m) * m + j % m = (n - 1 - j / m) * m + j % m + m := by
        have hsub : n + 1 - 1 - j / m = n - 1 - j / m + 1 := by omega
        rw [hsub, Nat.succ_mul]
        omega
      have hj' : j < (n + 1) * m := by rw [Nat.succ_mul]; omega
      rw [if_pos hj, ih, hplace, Nat.testBit_div_two_pow]
      simp [hj, hj']
    · rw [if_neg hj, Nat.testBit_mod_two_pow]
      by_cases hj' : j < (n + 1) * m
      · have hdiv : j / m = n := by
          refine Nat.div_eq_of_lt_le (Nat.not_lt.mp hj) hj'
        have hmod : j % m = j - n * m := by
          have := Nat.div_add_mod j m
          rw [hdiv, Nat.mul_comm] at this
          omega
        have hlt : j - n * m < m := by rw [← hmod]; exact Nat.mod_lt j hm
        simp [hj', hdiv, hmod, hlt]
      · have hge : ¬ j - n * m < m := by
          rw [Nat.succ_mul] at hj'
          omega
        simp [hj', hge]

theorem getLsbD_digReverse {n m : Nat} (hm : 0 < m) (a : W32) {j : Nat} (hj : j < 32) : (digReverse n m a).getLsbD j
    = (decide (j < n * m) && a.getLsbD ((n - 1 - j / m) * m + j % m)) := by
  rw [digReverse, BitVec.getLsbD_ofNat, testBit_digitReverse hm, Nat.testBit_mod_two_pow, BitVec.testBit_toNat]
  by_cases h : j < n * m
  · have hdiv : j / m < n := Nat.div_lt_of_lt_mul (by rwa [Nat.mul_comm] at h)
    have hplace : (n - 1 - j / m) * m + j % m < n * m := by
      have hmod := Nat.mod_lt j hm
      have hsucc : n - 1 - j / m + 1 ≤ n := by
        generalize j / m = q at hdiv
        omega
      have hmul := Nat.mul_le_mul_right m hsucc
      rw [Nat.succ_mul] at hmul
      omega
    simp [h, hj, hplace]
  · simp [h]

theorem getLsbD_bitReverse (n : Nat) (a : W32) {j : Nat} (hj : j < 32) : (bitReverse n a).getLsbD j
    = (decide (j < n) && a.getLsbD (n - 1 - j)) := by
  have h := getLsbD_digReverse (n := n) (m := 1) Nat.one_pos a hj
  simpa [digReverse, bitReverse, Nat.mod_one] using h

/-! ### The instruction at PC -/

section
variable {s : State} {c : Ch} {op : Nat} {x : Stream} {w : Whirl} {i : W64}

theorem whirlAt_of_atWhirl (h : AtWhirl s c.val op x w i) : whirlAt s c.val op = some (x, w, i) := by
  obtain ⟨hacts, hst, hty, hprog, hinstr, hop, hlive, hahead, hquiet⟩ := h
  have hwl : whirlLive s c.val = some x := by
    simp [whirlLive, acting_of_acts hacts (p := fun x => x.st == .started && dType x.desc == 4) (by simp [hst, hty])]
  simp [whirlAt, hwl, hprog, hinstr, hop, hlive, Nat.not_le.mpr hahead, Nat.not_le.mpr hquiet]

theorem whirlStop_live {d : DescData} {w : Whirl} (h : w.stopped = false) :
    whirlStop d w = { w with stopped := decide (w.prog.length ≤ w.pc ∨ wLimit d ≤ w.emits) } := by
  unfold whirlStop
  split
  · next hs => rw [decide_eq_true hs]
  · next hs => rw [decide_eq_false hs, ← h]

/-- An instruction other than EMIT and HALT. -/
theorem whirlOp_of_atWhirl (h : AtWhirl s c.val op x w i) {f : Whirl → W64 → Whirl × Bool} {g : Vector W32 8} {br : Bool}
    (hf : f w i = ({ w with g := g }, br)) :
    whirlOp s c.val op f = whirlNext s c.val x w g (if br then iImm i % 32 else w.pc + 1) := by
  have hstop := whirlStop_live (d := x.desc)
    (w := { w with g := g, pc := if br then iImm i % 32 else w.pc + 1, quiet := w.quiet + 1 }) h.live
  simp only [whirlOp, whirlAt_of_atWhirl h, hf, whirlNext, hstop]

/-- An instruction that writes G[RD]. -/
theorem whirlAlu_of_atWhirl (h : AtWhirl s c.val op x w i) (f : W32 → W32 → W32 → W32) : whirlAlu s c.val op f
    = whirlNext s c.val x w (w.g.setIfInBounds (iRd i) (f (greg w (iRa i)) (greg w (iRb i)) (BitVec.ofNat 32 (iImm i)))) (w.pc + 1) :=
  whirlOp_of_atWhirl (br := false) h rfl

theorem iImm_toNat (i : W64) : (BitVec.ofNat 32 (iImm i)).toNat = iImm i := by
  rw [BitVec.toNat_ofNat, Nat.mod_eq_of_lt (show iImm i < 2 ^ 32 from fld_lt i 32 32)]

/-! ### EMIT (R107) -/

theorem sext_toInt (v : W32) : sext v.toNat 32 = v.toInt := by
  rw [sext, BitVec.toInt_eq_toNat_cond, Nat.mod_eq_of_lt v.isLt]
  by_cases h : v.toNat < 2 ^ (32 - 1)
  · rw [if_pos h, if_pos (by omega)]
  · rw [if_neg h, if_neg (by omega)]
    norm_num

/-- Pairs of a run of `n` for which 2^40 − 1 bytes leave room. -/
def emitRoom (w : Whirl) (db : Nat) : Nat := (2 ^ 40 - 1 - w.written) / max 1 db

/-- The machine behind an EMIT. -/
def emitted (x : Stream) (w : Whirl) (i : W64) : Whirl :=
  let n := (greg w (iRd i)).toNat
  let db := fmtBits (dDfmt x.desc) / 8
  let k := min n (emitRoom w db)
  whirlStop x.desc { w with
    pc := w.pc + 1, emits := w.emits + 1, quiet := 0, written := w.written + k * db
    runs := if k = 0 then w.runs else w.runs ++ [((greg w (iRa i)).toInt, (greg w (iRb i)).toInt, k)]
    made := if k = 0 then w.made else w.made + 1, stopped := decide (emitRoom w db < n) }

theorem exec_whEmit (h : AtWhirl s c.val 0x10 x w i) :
    exec (.whEmit c) s = .next (setStream s c.val { x with whirl := some (emitted x w i) }) := by
  simp only [exec, execWhEmit, whirlAt_of_atWhirl h, sext_toInt]
  rfl

end

/-- What the stop leaves of a machine. -/
theorem whirlStop_keeps (d : DescData) (w : Whirl) : whirlStop d w = { w with stopped := (whirlStop d w).stopped } := by
  unfold whirlStop
  split <;> rfl

theorem whirlStop_stopped {d : DescData} {w : Whirl} (h : w.stopped = true) : (whirlStop d w).stopped = true := by
  unfold whirlStop
  split
  · rfl
  · exact h

/-- A run that fits whole. -/
theorem emitted_whole {x : Stream} {w : Whirl} {i : W64} (hdb : 0 < fmtBits (dDfmt x.desc) / 8)
    (hfit : w.written + (greg w (iRd i)).toNat * (fmtBits (dDfmt x.desc) / 8) ≤ 2 ^ 40 - 1) :
    let n := (greg w (iRd i)).toNat
    (emitted x w i).written = w.written + n * (fmtBits (dDfmt x.desc) / 8)
      ∧ (emitted x w i).runs = w.runs ++ (if n = 0 then [] else [((greg w (iRa i)).toInt, (greg w (iRb i)).toInt, n)])
      ∧ (emitted x w i).stopped = decide (w.prog.length ≤ w.pc + 1 ∨ wLimit x.desc ≤ w.emits + 1) := by
  intro n
  unfold emitted
  extract_lets db k
  have hroom : n ≤ emitRoom w db := by
    rw [emitRoom, Nat.max_eq_right hdb, Nat.le_div_iff_mul_le hdb]
    exact Nat.le_sub_of_add_le' hfit
  have hk : k = n := Nat.min_eq_left hroom
  have hlive : decide (emitRoom w db < n) = false := by simpa using hroom
  rw [hk, hlive, whirlStop_live rfl]
  refine ⟨rfl, ?_, rfl⟩
  by_cases hn : n = 0 <;> simp [hn]

/-- A run that would pass 2^40 − 1 bytes is cut there. -/
theorem emitted_cut {x : Stream} {w : Whirl} {i : W64} (hdb : 0 < fmtBits (dDfmt x.desc) / 8) (hw : w.written ≤ 2 ^ 40 - 1)
    (hpass : 2 ^ 40 - 1 < w.written + (greg w (iRd i)).toNat * (fmtBits (dDfmt x.desc) / 8)) :
    (emitted x w i).stopped = true ∧ (emitted x w i).written ≤ 2 ^ 40 - 1
      ∧ 2 ^ 40 - 1 < (emitted x w i).written + fmtBits (dDfmt x.desc) / 8 := by
  have hwritten : (emitted x w i).written = w.written
      + min (greg w (iRd i)).toNat (emitRoom w (fmtBits (dDfmt x.desc) / 8)) * (fmtBits (dDfmt x.desc) / 8) := by
    unfold emitted
    rw [whirlStop_keeps]
  have hroom : emitRoom w (fmtBits (dDfmt x.desc) / 8) < (greg w (iRd i)).toNat := by
    rw [emitRoom, Nat.max_eq_right hdb, Nat.div_lt_iff_lt_mul hdb]
    omega
  have hle : emitRoom w (fmtBits (dDfmt x.desc) / 8) * (fmtBits (dDfmt x.desc) / 8) ≤ 2 ^ 40 - 1 - w.written := by
    rw [emitRoom, Nat.max_eq_right hdb]
    exact Nat.div_mul_le_self _ _
  have hlt : 2 ^ 40 - 1 - w.written
      < emitRoom w (fmtBits (dDfmt x.desc) / 8) * (fmtBits (dDfmt x.desc) / 8) + fmtBits (dDfmt x.desc) / 8 := by
    rw [emitRoom, Nat.max_eq_right hdb]
    have := Nat.lt_div_mul_add (a := 2 ^ 40 - 1 - w.written) hdb
    omega
  rw [hwritten, Nat.min_eq_right hroom.le]
  refine ⟨whirlStop_stopped (decide_eq_true hroom), by omega, by omega⟩

/-- Settles O33: each instruction by `whirlAlu_of_atWhirl` or `whirlOp_of_atWhirl`, EMIT by `emitted_whole` and `emitted_cut`. -/
theorem whirligigRuns : Obligations.WhirligigRuns := by
  refine ⟨fun s c x w i => ?_, fun s c x w i => ?_⟩
  · intro a b k n done
    have hshift : k.toNat % 32 = n := congrArg (· % 32) (iImm_toNat i)
    have alu : ∀ {op} (h : AtWhirl s c.val op x w i) (f : W32 → W32 → W32 → W32),
        Host.Outcome.next (whirlAlu s c.val op f) = (.next (done (f a b k)) : Host.Outcome State Fault Refusal) :=
      fun h f => congrArg _ (whirlAlu_of_atWhirl h f)
    refine ⟨fun h => alu h _, fun h => alu h _, fun h => alu h _, fun h => alu h _, fun h => alu h _, fun h => alu h _, fun h => alu h _,
      fun h => alu h _, fun h => ?_, fun h => ?_, fun h => ?_, fun h => ⟨_, alu h _, fun j hj => ?_⟩, fun h => ⟨_, alu h _, fun m hm hpos j hj => ?_⟩⟩
    · rw [← hshift]
      exact alu h _
    · rw [← hshift]
      exact alu h _
    · rw [← hshift]
      exact alu h _
    · rw [hshift]
      exact getLsbD_bitReverse _ a hj
    · rw [hshift, iImm_toNat, hm]
      exact getLsbD_digReverse hpos a hj
  · intro a b tgt
    refine ⟨fun h => ?_, fun h => ?_, fun h => ?_, fun h => ?_, fun h => ?_, fun h => ?_, fun hacts hst hty hprog hlive hquiet => ?_⟩
    · refine congrArg Host.Outcome.next ((whirlOp_of_atWhirl (g := w.g.setIfInBounds (iRa i) (a - 1)) (br := a - 1 != 0) h rfl).trans ?_)
      simp only [bne_iff_ne]
      rfl
    · refine congrArg Host.Outcome.next ((whirlOp_of_atWhirl (g := w.g) (br := a.slt b) h rfl).trans ?_)
      simp only [BitVec.slt, decide_eq_true_eq]
      rfl
    · refine congrArg Host.Outcome.next ((whirlOp_of_atWhirl (g := w.g) (br := a != b) h rfl).trans ?_)
      simp only [bne_iff_ne]
      rfl
    · exact congrArg Host.Outcome.next (whirlOp_of_atWhirl (g := w.g) (br := true) h rfl)
    · simp only [exec, execWhHalt, whirlAt_of_atWhirl h]
    · have hkeep : emitted x w i = _ := whirlStop_keeps _ _
      refine ⟨_, exec_whEmit h, ?_, ?_, ?_, ?_, ?_, ?_⟩
      · rw [hkeep]
      · rw [hkeep]
      · rw [hkeep]
      · rw [hkeep]
      · rw [hkeep]
      · exact ⟨emitted_whole, emitted_cut⟩
    · have hwl : whirlLive s c.val = some x := by
        simp [whirlLive, acting_of_acts hacts (p := fun x => x.st == .started && dType x.desc == 4) (by simp [hst, hty])]
      simp only [exec, execWhirlQuietStop, hwl, hprog, hlive]
      rw [if_pos ⟨hquiet, rfl⟩]

end Sys2Proof.Proofs
end

section
/-! The registers of the translation and window pages (R243, R255, R258, R260, R261, R263). -/

namespace Sys2Proof.Proofs

open Sys2Proof Sys2Proof.Machine Sys2Proof.Laws

/-! ### A write that is served, and one that its register refuses -/

theorem exec_served {c : Instr} {s : State} {off : Nat} {ns sec : Bool} {f : State → State} (hexec : exec c s = .next (mmioW s off ns sec f))
    (hserved : Served s off ns sec) : exec c s = .next (emit (f s) (.mmio 0 0)) := by
  rw [hexec, mmioW_of_served hserved]

/-- A refused write: one event of the refused-command source, and nothing else. -/
theorem exec_refused {c : Instr} {s u : State} {off a b island : Nat} {ns sec : Bool} {f : State → State}
    (hexec : exec c s = .next (mmioW s off ns sec f)) (hserved : Served s off ns sec) (hf : f s = refuse u a b island) :
    ∃ t, exec c s = .next (emit t (.mmio 0 0)) ∧ t = { u with aon := t.aon, fresh := t.fresh } ∧ Crosses u t 0x04 a b island :=
  ⟨refuse u a b island, by rw [exec_served hexec hserved, hf], onlyAon_raise u 0x04 a b island, crosses_raise u 0x04 a b island⟩

/-! ### What the steps of walks leave of the translation page -/

/-- A step that changes walks and the counters of the halves, and nothing else of translation. -/
def OnlyWalks (s t : State) : Prop :=
  t.xl = { s.xl with walks := t.xl.walks, half := t.xl.half, nextWalk := t.xl.nextWalk }

theorem OnlyWalks.refl (s : State) : OnlyWalks s s := rfl

theorem OnlyWalks.trans {s t u : State} (h : OnlyWalks s t) (k : OnlyWalks t u) : OnlyWalks s u := by
  unfold OnlyWalks at h k ⊢
  rw [h] at k
  exact k

theorem OnlyWalks.of_xl {s t : State} (h : t.xl = s.xl) : OnlyWalks s t := by
  unfold OnlyWalks
  rw [h]

theorem onlyWalks_foldl {α : Type} {g : State → α → State} (h : ∀ s a, OnlyWalks s (g s a)) (l : List α) (s : State) :
    OnlyWalks s (l.foldl g s) := by
  induction l generalizing s with
  | nil => exact .refl s
  | cons a l ih => exact (h s a).trans (ih _)

theorem xl_modStream (s : State) (c : Nat) (f : Stream → Stream) : (modStream s c f).xl = s.xl := by
  unfold modStream
  split <;> rfl

theorem onlyWalks_modStream (s : State) (c : Nat) (f : Stream → Stream) : OnlyWalks s (modStream s c f) :=
  .of_xl (xl_modStream s c f)

theorem onlyWalks_dropSets (s : State) (rs : List Req) : OnlyWalks s (dropSets s rs) :=
  onlyWalks_foldl (fun _ _ => onlyWalks_modStream _ _ _) _ _

theorem onlyWalks_warmNext (s : State) (rs : List Req) : OnlyWalks s (warmNext s rs) :=
  onlyWalks_foldl (fun _ _ => onlyWalks_modStream _ _ _) _ _

theorem onlyWalks_need (s : State) (d : Nat) : OnlyWalks s (need s d) := .of_xl (by rw [onlyClk_need])

theorem onlyWalks_modWalk (s : State) (id : Nat) (f : Walk → Walk) : OnlyWalks s (modWalk s id f) := rfl

theorem onlyWalks_walkRead (s : State) (w : Walk) : OnlyWalks s (walkRead s w) := by
  unfold walkRead
  extract_lets a m lane u h r
  split
  · exact (onlyWalks_modWalk s _ _).trans (onlyWalks_need _ _)
  · split
    · exact onlyWalks_modWalk s _ _
    · have hhalf : ∀ (t : State) (i : Nat) (x : Half), OnlyWalks t (setHalf t i x) := fun _ _ _ => rfl
      have hgrant : ∀ (t : State) (i j : Nat), OnlyWalks t (grantMem t i j) := fun _ _ _ => rfl
      have hown : ∀ (t : State) (i j k : Nat) (o : OwnKind), OnlyWalks t (ownReq t i j k o).1 := fun _ _ _ _ _ => rfl
      have hemit : ∀ (t : State) (o : Out), OnlyWalks t (emit t o) := fun _ _ => rfl
      exact .trans (onlyWalks_modWalk s _ _) (.trans (hhalf ..) (.trans (hgrant ..) (.trans (hown ..) (hemit ..))))

theorem onlyWalks_startWalk (s : State) (w : Walk) : OnlyWalks s (startWalk s w) := by
  unfold startWalk
  have hmerge : OnlyWalks s (mergeQueued s w).1 := rfl
  refine hmerge.trans ?_
  generalize mergeQueued s w = p
  obtain ⟨u, v⟩ := p
  dsimp only
  have hfault : ∀ (rs real : List Req) (ws : List Walk) (id : Nat) (f : Walk → Walk), OnlyWalks u
      (if real.isEmpty then warmNext (setWalks u ws) rs else warmNext (modWalk (dropSets u real) id f) rs) := by
    intro rs real ws id f
    split
    · exact onlyWalks_warmNext (setWalks u ws) rs
    · exact ((onlyWalks_dropSets u real).trans (onlyWalks_modWalk _ id f)).trans (onlyWalks_warmNext _ rs)
  split
  · exact hfault ..
  · split
    · exact hfault ..
    · exact onlyWalks_walkRead u _

theorem onlyWalks_restartWalks (s : State) : OnlyWalks s (restartWalks s) :=
  onlyWalks_foldl (fun u w => by
    exact OnlyWalks.trans (t := setWalks _ _) rfl (onlyWalks_startWalk _ _)) _ s

/-! ### Invalidation (R258) -/

/-- Behind the start of an invalidation BUSY is 1, and the cache keeps the entries it does not name. -/
theorem invStart_xl (s : State) : (invStart s).xl.invBusy = true
    ∧ (invStart s).xl.tlb = s.xl.tlb.filter fun e => !(s.xl.invAll || s.xl.invAsid == e.asid) := by
  have h : OnlyWalks { s with xl := { s.xl with
      runAll := s.xl.invAll, runAsid := s.xl.invAsid, invBusy := true, gen := s.xl.gen + 1
      tlb := s.xl.tlb.filter fun e => !(s.xl.invAll || s.xl.invAsid == e.asid) } } (invStart s) :=
    (onlyWalks_foldl (fun _ _ => onlyWalks_modStream _ _ _) _ _).trans (onlyWalks_restartWalks _)
  exact ⟨(congrArg Xl.invBusy h :), (congrArg Xl.tlb h :)⟩

theorem invalidate_cases {s : State} {ns : Bool} (v : W32) (hserved : Served s 0xD018 ns (domSecure s 56)) :
    (bitOf v 0 = true → s.xl.invBusy = true → ∃ t, exec (.invalidate ns v) s = .next (emit t (.mmio 0 0))
      ∧ t = { s with aon := t.aon, fresh := t.fresh } ∧ Crosses s t 0x04 0xD018 0 0x2C)
    ∧ (bitOf v 0 = false → exec (.invalidate ns v) s = .next (emit { s with xl := { s.xl with
        invAll := bitOf v 16, invAsid := BitVec.ofNat 8 (fld v 8 8) } } (.mmio 0 0)))
    ∧ (bitOf v 0 = true → s.xl.invBusy = false → ∃ t, exec (.invalidate ns v) s = .next (emit t (.mmio 0 0)) ∧ t.xl.invBusy = true
        ∧ t.xl.tlb = s.xl.tlb.filter fun e => !(bitOf v 16 || BitVec.ofNat 8 (fld v 8 8) == e.asid)) := by
  refine ⟨fun hgo hbusy => exec_refused rfl hserved (by rw [hgo, hbusy]; rfl), fun hgo => ?_, fun hgo hbusy => ?_⟩
  · exact (exec_served rfl hserved).trans (by rw [hgo]; exact congrArg Host.Outcome.next rfl)
  · refine ⟨invStart { s with xl := { s.xl with invAll := bitOf v 16, invAsid := BitVec.ofNat 8 (fld v 8 8) } },
      (exec_served rfl hserved).trans (by rw [hgo, hbusy]; exact congrArg Host.Outcome.next rfl), ?_⟩
    exact invStart_xl _

/-! ### The end of an advice (R260) -/

theorem stream_modStream_self (s : State) {c : Nat} {x : Stream} (h : stream s c = some x) (f : Stream → Stream) :
    stream (modStream s c f) c = some (f x) := by
  rw [modStream_of_stream h, stream_setStream]

/-- The state that a served write of MZ_XL_ADONE leaves, whose record is in the list of advice. -/
def adviceDone (s : State) (q : BitVec 16) : State :=
  { s with xl := { s.xl with adone := q, adv := s.xl.adv.map fun b => if b.1 == q then (b.1, b.2.1, true) else b } }

/-- The descriptor that waits for the advice completes, unless its context is OUT. -/
def adviceEnd (s : State) (q : BitVec 16) (c : Nat) : State :=
  match stream s c with
  | some x => if x.wait == .advice (2 * q.toNat + 1) && chState s c != .out then finish s c cOK 0 else s
  | none => s

theorem exec_adone {s : State} {ns : Bool} {v : W32} {c : Nat} {d : Bool} (hserved : Served s 0xD01C ns (domSecure s 56))
    (h : s.xl.adv.find? (fun a => a.1 == BitVec.ofNat 16 (fld v 0 16)) = some (BitVec.ofNat 16 (fld v 0 16), c, d)) :
    exec (.adone ns v) s = .next (emit (adviceEnd (adviceDone s (BitVec.ofNat 16 (fld v 0 16))) (BitVec.ofNat 16 (fld v 0 16)) c) (.mmio 0 0)) := by
  refine (exec_served rfl hserved).trans ?_
  dsimp only
  rw [h]
  rfl

theorem adviceEnd_keeps (s : State) (q : BitVec 16) (c : Nat) : (adviceEnd s q c).xl = s.xl
    ∧ ∀ x, stream s c = some x → stream (adviceEnd s q c) c = some (if x.wait = .advice (2 * q.toNat + 1) ∧ chState s c ≠ .out
          then { x with st := .done cOK 0, wait := .none } else x) := by
  unfold adviceEnd
  rcases hx : stream s c with _ | x
  · exact ⟨rfl, fun x hx => absurd hx (Option.some_ne_none x).symm⟩
  · have hcond : (x.wait == .advice (2 * q.toNat + 1) && chState s c != .out) = true
        ↔ x.wait = .advice (2 * q.toNat + 1) ∧ chState s c ≠ .out := by simp
    dsimp only
    split
    · next h =>
      refine ⟨xl_modStream _ _ _, fun y hy => ?_⟩
      cases hy
      rw [if_pos (hcond.mp h), finish, stream_modStream_self s hx]
    · next h =>
      refine ⟨rfl, fun y hy => ?_⟩
      cases hy
      rw [if_neg (mt hcond.mpr h)]
      exact hx

theorem adone_ends {s : State} {ns : Bool} {v : W32} {c : Nat} {d : Bool} (hserved : Served s 0xD01C ns (domSecure s 56)) :
    let q := BitVec.ofNat 16 (fld v 0 16)
    s.xl.adv.find? (fun a => a.1 == q) = some (q, c, d) →
    ∃ t, exec (.adone ns v) s = .next (emit t (.mmio 0 0)) ∧ t.xl.adone = q ∧ t.xl.tlb = s.xl.tlb
      ∧ ∀ x, stream s c = some x → stream t c = some (if x.wait = .advice (2 * q.toNat + 1) ∧ chState s c ≠ .out
          then { x with st := .done cOK 0, wait := .none } else x) := by
  intro q h
  obtain ⟨hxl, hstream⟩ := adviceEnd_keeps (adviceDone s q) q c
  exact ⟨_, exec_adone hserved h, (congrArg Xl.adone hxl :), (congrArg Xl.tlb hxl :), hstream⟩

/-! ### Roots, the fault ring and windows (R243, R255, R261) -/

theorem rootAsid_cases {s : State} (c : Cx) (r : XlReg) {ns : Bool} (v : W32) :
    let off := 0xD400 + 0x10 * c.val + match r with | .rootLo => 0 | .rootHi => 4 | .asid => 8
    let k := ctx s c.val
    Served s off ns (ctxSecure s c.val) →
    (ctxQuiet s c.val = true → exec (.rootAsidWrite c r ns v) s = .next (emit (setCtx s c.val (match r with
      | .rootLo => { k with en := bitOf v 0, root := BitVec.ofNat 40 (2 ^ 20 * (k.root.toNat / 2 ^ 20) + fld v 12 20) }
      | .rootHi => { k with root := BitVec.ofNat 40 (k.root.toNat % 2 ^ 20 + 2 ^ 20 * fld v 0 20) }
      | .asid => { k with asid := BitVec.ofNat 8 (fld v 0 8) })) (.mmio 0 0)))
    ∧ (ctxQuiet s c.val = false → ∃ t, exec (.rootAsidWrite c r ns v) s = .next (emit t (.mmio 0 0))
        ∧ t = { s with aon := t.aon, fresh := t.fresh } ∧ Crosses s t 0x04 off 0 0x2C) := by
  intro off k hserved
  have hoff : xlOff (0x400 + 0x10 * c.val + match r with | .rootLo => 0 | .rootHi => 4 | .asid => 8) = off := by
    cases r <;> simp only [xlOff, off] <;> omega
  rw [← hoff] at hserved ⊢
  refine ⟨fun hquiet => (exec_served rfl hserved).trans ?_, fun hquiet => exec_refused rfl hserved (by rw [hquiet]; rfl)⟩
  rw [hquiet]
  cases r <;> rfl

theorem fqLo_cases {s : State} (hi : Bool) {ns : Bool} (v : W32) (hserved : Served s (if hi then 0xD004 else 0xD000) ns (domSecure s 56)) :
    (s.xl.fqEn = false → (hi = true ∨ (4 ≤ fld v 0 4 ∧ fld v 0 4 ≤ 10)) → exec (.fqLoWrite hi ns v) s = .next (emit { s with
      xl := if hi then { s.xl with fqBase := BitVec.ofNat 40 (s.xl.fqBase.toNat % 2 ^ 20 + 2 ^ 20 * fld v 0 20) }
        else { s.xl with fqBase := BitVec.ofNat 40 (2 ^ 20 * (s.xl.fqBase.toNat / 2 ^ 20) + fld v 12 20), fqLog2n := fld v 0 4 } } (.mmio 0 0)))
    ∧ (s.xl.fqEn = true → ∃ t, exec (.fqLoWrite hi ns v) s = .next (emit t (.mmio 0 0))
        ∧ t = { s with aon := t.aon, fresh := t.fresh } ∧ Crosses s t 0x04 (if hi then 0xD004 else 0xD000) 0 0x2C) := by
  have hoff : xlOff (if hi then 4 else 0) = if hi then 0xD004 else 0xD000 := by cases hi <;> rfl
  rw [← hoff] at hserved ⊢
  refine ⟨fun hen hok => (exec_served rfl hserved).trans ?_, fun hen => exec_refused rfl hserved (by rw [hen]; rfl)⟩
  cases hi with
  | true =>
    dsimp only
    rw [hen]
    rfl
  | false =>
    have hlog : ¬ (fld v 0 4 < 4 ∨ 10 < fld v 0 4) := by
      have := hok.resolve_left Bool.false_ne_true
      omega
    dsimp only
    rw [hen, if_neg hlog]
    rfl

theorem fqEnable_cases {s : State} {ns : Bool} (v : W32) (hserved : Served s 0xD010 ns (domSecure s 56)) :
    let misaligned := (4096 * s.xl.fqBase.toNat) % (64 * 2 ^ s.xl.fqLog2n) ≠ 0
    (¬ (bitOf v 0 = true ∧ s.xl.fqEn = false ∧ misaligned) →
      exec (.fqEnable ns v) s = .next (emit { s with xl := { s.xl with fqEn := bitOf v 0 } } (.mmio 0 0)))
    ∧ (bitOf v 0 = true ∧ s.xl.fqEn = false ∧ misaligned → ∃ t, exec (.fqEnable ns v) s = .next (emit t (.mmio 0 0))
        ∧ t = { s with aon := t.aon, fresh := t.fresh } ∧ Crosses s t 0x04 0xD010 0 0x2C) := by
  intro misaligned
  have hcond : (bitOf v 0 && !s.xl.fqEn && (4096 * s.xl.fqBase.toNat) % (2 ^ s.xl.fqLog2n * 64) != 0) = true
      ↔ bitOf v 0 = true ∧ s.xl.fqEn = false ∧ misaligned := by
    rw [Nat.mul_comm (2 ^ s.xl.fqLog2n)]
    simp [misaligned, and_assoc]
  exact ⟨fun h => (exec_served rfl hserved).trans (by rw [if_neg (mt hcond.mp h)]),
    fun h => exec_refused rfl hserved (by rw [if_pos (hcond.mpr h)]; rfl)⟩

theorem windowEntry_cases {s : State} (w : Fin 256) (size : Bool) {ns : Bool} (v : W32) :
    let off := 0xE000 + 8 * w.val + (if size then 4 else 0)
    Served s off ns (winSecure s w.val) → w.val < (im s).windows →
    let x := win s w.val
    let y := if size then { x with size := BitVec.ofNat 15 (fld v 0 15) }
      else { x with valid := bitOf v 31, base := BitVec.ofNat 14 (fld v 0 14) }
    let bad := y.valid = true ∧ (y.size = 0 ∨ 16384 < y.base.toNat + y.size.toNat)
    (¬ bad → exec (.windowEntryWrite w size ns v) s = .next (emit (setWin s w.val y) (.mmio 0 0)))
    ∧ (bad → ∃ t, exec (.windowEntryWrite w size ns v) s = .next (emit t (.mmio 0 0))
        ∧ t = { s with aon := t.aon, fresh := t.fresh } ∧ Crosses s t 0x04 off 0 0x2C) := by
  intro off hserved hw x y bad
  have hcond : (y.valid && (y.size == 0 || decide (16384 < y.base.toNat + y.size.toNat))) = true ↔ bad := by simp [bad]
  have hnot : ¬ (im s).windows ≤ w.val := Nat.not_le.mpr hw
  exact ⟨fun h => (exec_served rfl hserved).trans (by dsimp only; rw [if_neg hnot]; exact congrArg (fun u => Host.Outcome.next (emit u _)) (if_neg (mt hcond.mp h))),
    fun h => exec_refused rfl hserved (by dsimp only; rw [if_neg hnot]; exact if_pos (hcond.mpr h))⟩

/-- Settles O43: each register of the two pages is written as its rule lets it, and refused otherwise. -/
theorem translationRegisters : Obligations.TranslationRegisters := by
  unfold Obligations.TranslationRegisters
  refine ⟨?_, ?_, ?_, ?_, ?_, ?_, ?_, ?_, ?_⟩
  · intro s c r ns v
    exact rootAsid_cases c r v
  · intro s hi ns v hserved
    exact fqLo_cases hi v hserved
  · intro s ns v hserved
    exact fqEnable_cases v hserved
  · intro s ns v hserved
    exact (exec_served rfl hserved).trans rfl
  · intro s ns v hserved
    exact invalidate_cases v hserved
  · intro s hbusy hold
    exact if_pos (by rw [hbusy, hold]; rfl)
  · intro s ns v c d _ hserved
    exact adone_ends hserved
  · intro s w size ns v
    exact windowEntry_cases w size v
  · intro s h ns v hserved
    have hoff : xlOff (0x5C + 0x20 * h.val) = 0xD05C + 0x20 * h.val := by simp only [xlOff]; omega
    rw [← hoff] at hserved
    exact (exec_served rfl hserved).trans rfl

end Sys2Proof.Proofs
end

section
/-! Who waits in the sync hub, and the ring and queue registers (R157 to R173, R324). -/

namespace Sys2Proof.Proofs

open Sys2Proof Sys2Proof.Machine Sys2Proof.Laws

/-! ### The entries of a canonical table -/

theorem tget_of_mem_from {α : Type} [DecidableEq α] {d : Nat → α} {lo i : Nat} {v : α} {t : Tbl α} (h : twfFrom d lo t = true)
    (hmem : (i, v) ∈ t) : lo ≤ i ∧ tget d t i = v := by
  induction t generalizing lo with
  | nil => exact absurd hmem List.not_mem_nil
  | cons e t ih =>
    obtain ⟨j, w⟩ := e
    simp only [twfFrom, Bool.and_eq_true, decide_eq_true_eq] at h
    obtain ⟨⟨hj, _⟩, ht⟩ := h
    rcases List.mem_cons.mp hmem with heq | hmem
    · cases heq
      exact ⟨hj, if_pos rfl⟩
    · obtain ⟨hlo, hget⟩ := ih ht hmem
      refine ⟨by omega, ?_⟩
      rw [tget, if_neg (by omega), if_neg (by omega), hget]

/-- A listed record of a canonical table is what a read of its index gives. -/
theorem tget_of_mem {α : Type} [DecidableEq α] {d : Nat → α} {i : Nat} {v : α} {t : Tbl α} (h : twf d t = true) (hmem : (i, v) ∈ t) :
    tget d t i = v := (tget_of_mem_from h hmem).2

/-- A read that is not the reset record is of a listed one. -/
theorem mem_of_tget_ne {α : Type} {d : Nat → α} {i : Nat} {t : Tbl α} (h : tget d t i ≠ d i) : (i, tget d t i) ∈ t := by
  induction t with
  | nil => exact absurd rfl h
  | cons e t ih =>
    obtain ⟨j, w⟩ := e
    rw [tget] at h ⊢
    split
    · next hj => exact hj ▸ List.mem_cons_self
    · next hj =>
      rw [if_neg hj] at h
      split
      · next hlt => exact absurd (if_pos hlt) h
      · next hlt => exact List.mem_cons_of_mem _ (ih (by rwa [if_neg hlt] at h))

/-! ### Who waits -/

/-- Whether the context of a channel is in force for its waiters: neither OUT nor being resumed. -/
def inForce (s : State) (c : Nat) : Bool :=
  (ctx s (chanCfg s c).ctx).st != .out && (ctx s (chanCfg s c).ctx).st != .resuming

theorem mem_waitingChans {s : State} (hs : Canon s) {c : Nat} {p : Stream → Bool} :
    c ∈ waitingChans s p ↔ (∃ x, stream s c = some x ∧ p x = true) ∧ inForce s c = true := by
  unfold waitingChans
  rw [List.mem_map]
  constructor
  · rintro ⟨⟨k, v⟩, hmem, rfl⟩
    obtain ⟨hlist, hcond⟩ := List.mem_filter.mp hmem
    have hchan : chan s k = v := tget_of_mem hs.chans hlist
    simp only [Bool.and_eq_true, and_assoc] at hcond
    obtain ⟨hp, hout, hres⟩ := hcond
    refine ⟨?_, by rw [inForce, hout, hres]; rfl⟩
    rcases hv : v.stream with _ | x
    · rw [hv] at hp
      exact absurd hp Bool.false_ne_true
    · rw [hv] at hp
      exact ⟨x, by rw [stream, hchan, hv], hp⟩
  · rintro ⟨⟨x, hx, hp⟩, hforce⟩
    have hne : chan s c ≠ {} := fun h => by
      rw [stream, h] at hx
      exact absurd hx (Option.some_ne_none x).symm
    refine ⟨(c, chan s c), List.mem_filter.mpr ⟨mem_of_tget_ne hne, ?_⟩, rfl⟩
    have hst : (chan s c).stream = some x := hx
    rw [Bool.and_assoc]
    refine Bool.and_eq_true_iff.mpr ⟨?_, hforce⟩
    dsimp only
    rw [hst]
    exact hp

theorem waitingChans_eq_nil {s : State} (hs : Canon s) {p : Stream → Bool} (h : ∀ d x, stream s d = some x → p x = false) :
    waitingChans s p = [] := by
  refine List.eq_nil_iff_forall_not_mem.mpr fun c hc => ?_
  obtain ⟨⟨x, hx, hp⟩, _⟩ := (mem_waitingChans hs).mp hc
  rw [h c x hx] at hp
  exact absurd hp Bool.false_ne_true

/-- No stream waits for a handle or for room. -/
def NoHandleWaits (s : State) : Prop := ∀ d z, stream s d = some z → z.wait ≠ .pop none ∧ z.wait ≠ .push

theorem popWaiter_none {s : State} (hs : Canon s) (h : ∀ d z, stream s d = some z → z.wait ≠ .pop none) (q : Nat) : popWaiter s q = none := by
  rw [popWaiter, waitingChans_eq_nil hs fun d x hx => by simp [h d x hx], firstWaiter]

theorem pushWaiter_none {s : State} (hs : Canon s) (h : ∀ d z, stream s d = some z → z.wait ≠ .push) (q : Nat) : pushWaiter s q = none := by
  rw [pushWaiter, waitingChans_eq_nil hs fun d x hx => by simp [h d x hx], firstWaiter]

/-- A queue that nobody waits for stays as it is. -/
theorem hqSettle_idle {s : State} (hs : Canon s) (h : NoHandleWaits s) (n q : Nat) : hqSettle n s q = s := by
  cases n with
  | zero => rfl
  | succ n =>
    rw [hqSettle, popWaiter_none hs (fun d z hz => (h d z hz).1), pushWaiter_none hs fun d z hz => (h d z hz).2]
    rcases (hq s q).q with _ | ⟨a, l⟩ <;> exact ite_self s

/-! ### Ring registers -/

theorem bitOf_or (v w : W32) (i : Nat) : bitOf (v ||| w) i = (bitOf v i || bitOf w i) := BitVec.getLsbD_or

/-- A produce or a release of MZ_RING_CTRL passes: the ring is enabled and whole, and has room or a full slot on an unbound side. -/
def RegMoves (y : Ring) (prod : Bool) : Prop :=
  y.en = true ∧ y.fault = false ∧ (if prod then y.fill ≠ y.nm1 + 1 else y.fill ≠ 0) ∧ (if prod then y.pauto else y.cauto) = false

theorem ringFails_isEmpty_iff (y : Ring) (prod : Bool) : (ringFails y prod).isEmpty = true ↔ RegMoves y prod := by
  unfold ringFails RegMoves ringN
  cases prod <;> cases y.en <;> cases y.fault <;> simp

/-- The write that a produce or a release command stands for. -/
theorem ringCtrl_moves {s : State} (r : Nat) (prod : Bool) {v : W32} (hreset : bitOf v 2 = false)
    (hother : (if prod then bitOf v 1 else bitOf v 0) = false) : ringCtrl r (v ||| if prod then 1 else 2) s = ringRegOp r prod s := by
  have h0 : bitOf 1#32 0 = true ∧ bitOf 1#32 1 = false ∧ bitOf 1#32 2 = false := by decide
  have h1 : bitOf 2#32 0 = false ∧ bitOf 2#32 1 = true ∧ bitOf 2#32 2 = false := by decide
  cases prod with
  | true =>
    have hv : bitOf v 1 = false := hother
    simp [ringCtrl, bitOf_or, h0, hreset, hv]
  | false =>
    have hv : bitOf v 0 = false := hother
    simp [ringCtrl, bitOf_or, h1, hreset, hv]

/-- On an unbound side the reservation goes with the produce, or with the release. -/
theorem ringProduce_unbound {y : Ring} (h : y.pauto = false) : ringProduce y
    = { y with tail := (y.tail + 1) % (y.nm1 + 1), pres := (y.tail + 1) % (y.nm1 + 1), fill := y.fill + 1, pcnt := y.pcnt + 1 } := by
  simp [ringProduce, ringN, h]

theorem ringRelease_unbound {y : Ring} (h : y.cauto = false) : ringRelease y
    = { y with head := (y.head + 1) % (y.nm1 + 1), cres := (y.head + 1) % (y.nm1 + 1), fill := y.fill - 1, ccnt := y.ccnt + 1 } := by
  simp [ringRelease, ringN, h]

theorem ringReg_cases {s : State} (r : Fin 1024) (prod : Bool) {ns : Bool} {v : W32} (hserved : Served s (ringOff r.val 0x1C) ns (ringSecure s r.val))
    (hreset : bitOf v 2 = false) (hother : (if prod then bitOf v 1 else bitOf v 0) = false) :
    let y := ring s r.val
    let cmd := if prod then Instr.ringRegProduce r ns v else .ringRegRelease r ns v
    (RegMoves y prod → exec cmd s = .next (emit (setRing s r.val (if prod
        then { y with tail := (y.tail + 1) % (y.nm1 + 1), pres := (y.tail + 1) % (y.nm1 + 1), fill := y.fill + 1, pcnt := y.pcnt + 1 }
        else { y with head := (y.head + 1) % (y.nm1 + 1), cres := (y.head + 1) % (y.nm1 + 1), fill := y.fill - 1, ccnt := y.ccnt + 1 }))
        (.mmio 0 0)))
    ∧ (¬ RegMoves y prod → ∃ t, exec cmd s = .next (emit t (.mmio 0 0)) ∧ t = { s with aon := t.aon, fresh := t.fresh }
        ∧ Crosses s t 0x04 (ringOff r.val 0x1C) 0 0x3A) := by
  intro y cmd
  have hexec : exec cmd s = .next (mmioW s (ringOff r.val 0x1C) ns (ringSecure s r.val) (ringCtrl r.val (v ||| if prod then 1 else 2))) := by
    cases prod <;> rfl
  have hop := ringCtrl_moves (s := s) r.val prod hreset hother
  refine ⟨fun hok => ?_, fun hno => exec_refused hexec hserved ?_⟩
  · have hauto := hok.2.2.2
    rw [exec_served hexec hserved, hop, ringRegOp, if_pos ((ringFails_isEmpty_iff y prod).mpr hok)]
    cases prod with
    | true => exact congrArg (fun z => Host.Outcome.next (emit (setRing s r.val z) _)) (ringProduce_unbound hauto)
    | false => exact congrArg (fun z => Host.Outcome.next (emit (setRing s r.val z) _)) (ringRelease_unbound hauto)
  · rw [hop, ringRegOp, if_neg (mt (ringFails_isEmpty_iff y prod).mp hno)]

theorem ringReset_cases {s : State} (r : Fin 1024) {ns : Bool} {v : W32} (hserved : Served s (ringOff r.val 0x1C) ns (ringSecure s r.val))
    (h0 : bitOf v 0 = false) (h1 : bitOf v 1 = false) :
    let y := ring s r.val
    (y.resP = [] → y.resC = [] → exec (.ringReset r ns v) s = .next (emit (setRing s r.val { y with
      head := 0, tail := 0, pres := 0, cres := 0, fill := 0, pcnt := 0, ccnt := 0, epoch := 0, fault := false
      ordP := 0, ordC := 0, issP := 0, issC := 0 }) (.mmio 0 0)))
    ∧ (y.resP ≠ [] ∨ y.resC ≠ [] → ∃ t, exec (.ringReset r ns v) s = .next (emit t (.mmio 0 0))
        ∧ t = { s with aon := t.aon, fresh := t.fresh } ∧ Crosses s t 0x04 (ringOff r.val 0x1C) 0 0x3A) := by
  intro y
  have h4 : bitOf 4#32 0 = false ∧ bitOf 4#32 1 = false ∧ bitOf 4#32 2 = true := by decide
  have hop : ringCtrl r.val (v ||| 4) s = ringResetOp r.val s := by
    simp [ringCtrl, bitOf_or, h0, h1, h4]
  refine ⟨fun hp hc => ?_, fun hres => exec_refused rfl hserved ?_⟩
  · have hcond : ((ring s r.val).resP.isEmpty && (ring s r.val).resC.isEmpty) = true := by simp [y] at hp hc; simp [hp, hc]
    rw [exec_served rfl hserved, hop, ringResetOp]
    exact congrArg (fun t => Host.Outcome.next (emit t _)) (if_pos hcond)
  · have hcond : ¬ ((ring s r.val).resP.isEmpty && (ring s r.val).resC.isEmpty) = true := by
      simp only [y] at hres
      simpa [Decidable.imp_iff_not_or] using hres
    rw [hop]
    exact if_neg hcond

theorem ringProt_open {s : State} {r : Nat} (off : Nat) (y : Ring) (h : (ring s r).en = false) : ringProt r off y s = setRing s r y := by
  unfold ringProt
  dsimp only
  rw [h]
  rfl

theorem nsNotice_ring (s : State) (off : Nat) (ns : Bool) (v : W32) (r : Nat) : ring (nsNotice s off ns v) r = ring s r := by
  unfold nsNotice
  split
  · rw [ring, notice_hub]
    rfl
  · rfl

theorem nsNotice_hq (s : State) (off : Nat) (ns : Bool) (v : W32) (q : Nat) : hq (nsNotice s off ns v) q = hq s q := by
  unfold nsNotice
  split
  · rw [hq, notice_hub]
    rfl
  · rfl

/-- What a write of MZ_RING_CFG leaves of a ring that is not enabled, before EN. -/
def configured (y : Ring) (ns : Bool) (v : W32) : Ring := { y with
  nm1 := fld v 16 8, cwm1 := fld v 6 2, pwm1 := fld v 4 2, cauto := bitOf v 3, pauto := bitOf v 2
  pres := if bitOf v 2 then y.pres else y.tail, cres := if bitOf v 3 then y.cres else y.head
  ns := if ns then y.ns else bitOf v 1, en := false }

theorem ringCfg_open {s : State} {r : Nat} {ns : Bool} {v : W32} (hen : (ring s r).en = false) (hn : 2 ≤ fld v 16 8) :
    ringCfg r ns v s = if bitOf v 0 && !bindOk (nsNotice s (ringOff r 0) ns v) r (configured (ring s r) ns v)
      then refuse (setRing (nsNotice s (ringOff r 0) ns v) r (configured (ring s r) ns v)) (ringOff r 0) 0 0x3A
      else setRing (nsNotice s (ringOff r 0) ns v) r { configured (ring s r) ns v with en := bitOf v 0 } := by
  have hsmall : ¬ fld v 16 8 ≤ 1 := by omega
  unfold ringCfg
  dsimp only
  rw [nsNotice_ring, if_neg hsmall, hen]
  simp only [Bool.false_and, Bool.false_eq_true, if_false, Bool.not_false, Bool.and_true, configured]
  rfl

theorem ringCfg_cases {s : State} (r : Fin 1024) {ns : Bool} {v : W32} (hserved : Served s (ringOff r.val 0) ns (ringSecure s r.val))
    (hen : (ring s r.val).en = false) (hn : 2 ≤ fld v 16 8) :
    let s' := nsNotice s (ringOff r.val 0) ns v
    let z := configured (ring s r.val) ns v
    (bitOf v 0 = false ∨ bindOk s' r.val z = true →
      exec (.ringCfgWrite r .cfg ns v) s = .next (emit (setRing s' r.val { z with en := bitOf v 0 }) (.mmio 0 0)))
    ∧ (bitOf v 0 = true → bindOk s' r.val z = false → ∃ t, exec (.ringCfgWrite r .cfg ns v) s = .next (emit t (.mmio 0 0))
        ∧ t = { setRing s' r.val z with aon := t.aon, fresh := t.fresh } ∧ Crosses s' t 0x04 (ringOff r.val 0) 0 0x3A) := by
  intro s' z
  have hopen := ringCfg_open (s := s) (r := r.val) (ns := ns) hen hn
  refine ⟨fun hok => ?_, fun hbit hbind => ?_⟩
  · have hcond : ¬ (bitOf v 0 && !bindOk s' r.val z) = true := by
      rcases hok with hbit | hbind
      · simp [hbit]
      · simp [hbind]
    exact (exec_served rfl hserved).trans (by rw [hopen]; exact congrArg (fun t => Host.Outcome.next (emit t _)) (if_neg hcond))
  · have hcond : (bitOf v 0 && !bindOk s' r.val z) = true := by simp [hbit, hbind]
    obtain ⟨t, hexec, ht, hcross⟩ := exec_refused (c := .ringCfgWrite r .cfg ns v) rfl hserved (hopen.trans (if_pos hcond))
    exact ⟨t, hexec, ht, hcross⟩

theorem ringProt_cases {s : State} (r : Fin 1024) {ns : Bool} (v : W32) (hen : (ring s r.val).en = false) :
    (Served s (ringOff r.val 4) ns (ringSecure s r.val) → exec (.ringCfgWrite r .bind ns v) s
        = .next (emit (setRing s r.val { ring s r.val with cchan := fld v 16 9, pchan := fld v 0 9 }) (.mmio 0 0)))
    ∧ (Served s (ringOff r.val 8) ns (ringSecure s r.val) → exec (.ringCfgWrite r .slot ns v) s
        = .next (emit (setRing s r.val { ring s r.val with slotsz := fld v 0 24 }) (.mmio 0 0)))
    ∧ (Served s (ringOff r.val 0x18) ns (ringSecure s r.val) → exec (.ringCfgWrite r .align ns v) s
        = .next (emit (setRing s r.val { ring s r.val with aen := bitOf v 12, bobj := BitVec.ofNat 12 (fld v 0 12) }) (.mmio 0 0))) :=
  ⟨fun h => (exec_served rfl h).trans (by rw [ringProt_open _ _ hen]), fun h => (exec_served rfl h).trans (by rw [ringProt_open _ _ hen]),
    fun h => (exec_served rfl h).trans (by rw [ringProt_open _ _ hen])⟩

/-! ### Queue registers -/

theorem pendSrc_hub (s : State) (k : Nat) : (pendSrc s k).hub = s.hub := by rw [pendSrc_frame]

theorem setHq_setHq (s : State) (q : Nat) {x : Hq} (hs : Canon s) (y : Hq) : setHq (setHq s q x) q y = setHq s q y :=
  congrArg (fun t => { s with hub := { s.hub with hqs := t } }) (tset_tset q x y hs.hqs)

theorem hqPush_cases {s : State} (hs : Canon s) (hwait : NoHandleWaits s) (q : Fin 256) {ns : Bool} {v : W32}
    (hserved : Served s (0x11004 + 0x10 * q.val) ns (hqSecure s q.val)) (hen : (hq s q.val).en = true) (hv : v ≠ BitVec.allOnes 32) :
    let x := hq s q.val
    (x.q.length < 64 → exec (.hqRegPush q ns v) s = .next (emit (setHq s q.val { x with last := v, q := x.q ++ [v] }) (.mmio 0 0)))
    ∧ (64 ≤ x.q.length → ∃ t, exec (.hqRegPush q ns v) s = .next (emit t (.mmio 0 0))
        ∧ hq t q.val = { x with last := v, ovf := true } ∧ Crosses s t 0x04 (0x11004 + 0x10 * q.val) 0 0x3A) := by
  intro x
  have hoff : hqOff q.val 4 = 0x11004 + 0x10 * q.val := by simp only [hqOff]; omega
  rw [← hoff] at hserved ⊢
  have hbad : ¬ (v = BitVec.allOnes 32 ∨ (!(hq s q.val).en) = true) := not_or.mpr ⟨hv, by rw [hen]; decide⟩
  refine ⟨fun hroom => (exec_served rfl hserved).trans ?_, fun hfull => ?_⟩
  · have hlen : ¬ 64 ≤ (hq s q.val).q.length := Nat.not_le.mpr hroom
    dsimp only
    rw [if_neg hbad, if_neg hlen, hqPush, hq_setHq_self hs, setHq_setHq s _ hs,
      hqSettle_idle (setHq_canon _ _ _ hs) hwait]
  · refine ⟨refuse (pendSrc (setHq (setHq s q.val { x with last := v }) q.val { x with last := v, ovf := true }) 5) (hqOff q.val 4) 0 0x3A,
      (exec_served rfl hserved).trans (by dsimp only; rw [if_neg hbad, if_pos hfull]), ?_, ?_⟩
    · rw [refuse_eq_raise, hq, raise_hub, pendSrc_hub]
      exact hq_setHq_self (setHq_canon _ _ _ hs) _ _
    · rw [refuse_eq_raise]
      exact crosses_raise_of (by rw [pendSrc_aon]; rfl) _ _ _ _

theorem hqPop_cases {s : State} (hs : Canon s) (hwait : NoHandleWaits s) (q : Fin 256) {ns : Bool}
    (hserved : Served s (0x11008 + 0x10 * q.val) ns (hqSecure s q.val)) (hen : (hq s q.val).en = true) :
    let x := hq s q.val
    (∀ h rest, x.q = h :: rest → exec (.hqRegPop q ns) s = .next (emit (setHq s q.val { x with q := rest }) (.mmio 0 h)))
    ∧ (x.q = [] → ∃ t, exec (.hqRegPop q ns) s = .next (emit t (.mmio 0 (BitVec.allOnes 32)))
        ∧ hq t q.val = { x with under := true } ∧ Crosses s t 0x04 (0x11008 + 0x10 * q.val) 0 0x3A) := by
  intro x
  have hoff : hqOff q.val 8 = 0x11008 + 0x10 * q.val := by simp only [hqOff]; omega
  rw [← hoff] at hserved ⊢
  have hexec : exec (.hqRegPop q ns) s = .next (emit (hqPop q.val s).1 (.mmio 0 (hqPop q.val s).2)) :=
    congrArg Host.Outcome.next (mmioR_of_served hserved _)
  refine ⟨fun h rest hq' => ?_, fun hempty => ?_⟩
  · have hpop : hqPop q.val s = (hqSettle 1024 (setHq s q.val { x with q := rest }) q.val, h) := by
      unfold hqPop
      dsimp only
      rw [hen, show (hq s q.val).q = h :: rest from hq']
      rfl
    rw [hexec, hpop, hqSettle_idle (setHq_canon _ _ _ hs) hwait]
  · have hpop : hqPop q.val s
        = (refuse (pendSrc (setHq s q.val { x with under := true }) 5) (hqOff q.val 8) 0 0x3A, BitVec.allOnes 32) := by
      unfold hqPop
      dsimp only
      rw [hen, show (hq s q.val).q = [] from hempty]
      rfl
    refine ⟨_, hexec.trans (by rw [hpop]), ?_, ?_⟩
    · rw [refuse_eq_raise, hq, raise_hub, pendSrc_hub]
      exact hq_setHq_self hs _ _
    · rw [refuse_eq_raise]
      exact crosses_raise_of (by rw [pendSrc_aon]; rfl) _ _ _ _

theorem hqReset_next {s : State} (hs : Canon s) (hwait : NoHandleWaits s) (q : Fin 256) {ns : Bool} {v : W32}
    (hserved : Served s (0x11000 + 0x10 * q.val) ns (hqSecure s q.val)) :
    exec (.hqReset q ns v) s = .next (emit (setHq (nsNotice s (0x11000 + 0x10 * q.val) ns v) q.val { hq s q.val with
      en := bitOf v 0, ns := if ns then (hq s q.val).ns else bitOf v 1, q := [] }) (.mmio 0 0)) := by
  have hoff : hqOff q.val 0 = 0x11000 + 0x10 * q.val := by simp only [hqOff]; omega
  rw [← hoff] at hserved ⊢
  have h4 : bitOf 4#32 0 = false ∧ bitOf 4#32 1 = false ∧ bitOf 4#32 2 = true := by decide
  have hnotice : nsNotice s (hqOff q.val 0) ns (v ||| 4) = nsNotice s (hqOff q.val 0) ns v := by
    simp [nsNotice, bitOf_or, h4]
  have hcanon : Canon (nsNotice s (hqOff q.val 0) ns v) := nsNotice_canon _ _ _ _ hs
  have hidle : NoHandleWaits (nsNotice s (hqOff q.val 0) ns v) := by
    intro d z hz
    refine hwait d z (Eq.trans ?_ hz)
    rw [stream, stream, chan, chan, nsNotice]
    split
    · rw [notice_chans]
    · rfl
  refine (exec_served rfl hserved).trans ?_
  unfold hqCfg
  dsimp only
  rw [hnotice, nsNotice_hq, hqSettle_idle (setHq_canon _ _ _ hcanon) hidle]
  simp [bitOf_or, h4]

/-- Settles O44: each register moves, configures or empties as its rule lets it, and is refused otherwise. -/
theorem ringAndQueueRegisters : Obligations.RingAndQueueRegisters := by
  unfold Obligations.RingAndQueueRegisters
  refine ⟨?_, ?_, ?_, ?_⟩
  · intro s r prod ns v hserved hreset hother
    exact ringReg_cases r prod hserved hreset hother
  · intro s r ns v hserved h0 h1
    exact ringReset_cases r hserved h0 h1
  · intro s r reg ns v off hserved hen
    obtain ⟨hbind, hslot, halign⟩ := ringProt_cases (s := s) r (ns := ns) v hen
    cases reg with
    | cfg => exact ringCfg_cases r hserved hen
    | bind => exact hbind hserved
    | slot => exact hslot hserved
    | align => exact halign hserved
  · intro s q ns v hs hwait
    exact ⟨hqPush_cases hs hwait q, hqPop_cases hs hwait q, hqReset_next hs hwait q⟩

end Sys2Proof.Proofs
end

section
/-! The registers of the data path, its counters and pools (R112, R121, R156, R180 to R183, R189, R198, R207). -/

namespace Sys2Proof.Proofs

open Sys2Proof Sys2Proof.Machine Sys2Proof.Laws

/-- A read that is served: its value, and the state that it leaves. -/
theorem exec_readServed {c : Instr} {s : State} {off : Nat} {ns sec : Bool} {f : State → State × W32}
    (hexec : exec c s = .next (mmioR s off ns sec f)) (hserved : Served s off ns sec) : exec c s = .next (emit (f s).1 (.mmio 0 (f s).2)) := by
  rw [hexec, mmioR_of_served hserved]

/-! ### The echo cache and the relay chains -/

/-- A copy on its way that a flush leaves uninstalled. -/
def uninstalled (l : Line) : Line := if l.echo == 1 then { l with echo := 0 } else l

theorem uninstalled_echo (l : Line) : (uninstalled l).echo ≠ 1 := by
  unfold uninstalled
  split
  · exact Nat.zero_ne_one
  · next h => simpa using h

theorem uninstalled_id (l : Line) : (uninstalled l).id = l.id := by
  unfold uninstalled
  split <;> rfl

theorem echoFlush_cases {s : State} {ns : Bool} (v : W32) (hserved : Served s 0x7050 ns (echoSecure s)) :
    ∃ t, exec (.echoFlush ns v) s = .next (emit t (.mmio 0 0)) ∧ t.path.echo = [] ∧ t.path.echoFlush = true
      ∧ t.path.echoDis = bitOf v 1 ∧ (∀ l ∈ t.path.lines, l.echo ≠ 1)
      ∧ t = { s with path := { s.path with
          echo := [], echoFlush := true, echoDis := bitOf v 1, lines := t.path.lines } }
      ∧ t.path.lines.map (·.id) = s.path.lines.map (·.id) := by
  refine ⟨{ s with path := { s.path with echoDis := bitOf v 1, echo := [], echoFlush := true, lines := s.path.lines.map uninstalled } },
    (exec_served rfl hserved).trans rfl, rfl, rfl, rfl, fun l hl => ?_, rfl, ?_⟩
  · obtain ⟨k, _, rfl⟩ := List.mem_map.mp hl
    exact uninstalled_echo k
  · rw [List.map_map]
    exact List.map_congr_left fun l _ => uninstalled_id l

theorem relayEnable_cases {s : State} (n : Fin 16) {ns : Bool} (v : W32) (hserved : Served s (0x7080 + 4 * n.val) ns (relaySecure s n.val)) :
    let x := relay s n.val
    let ok := bitOf v 16 = true → relayOk s ((List.range 16).filter fun k => bitOf v k) = true
    (x.en = true → exec (.relayEnable n ns v) s = .next (emit (setRelay s n.val { x with en := bitOf v 16 }) (.mmio 0 0)))
    ∧ (x.en = false → ok → exec (.relayEnable n ns v) s
        = .next (emit (setRelay s n.val ⟨bitOf v 16, BitVec.ofNat 16 (fld v 0 16), if bitOf v 16
            then ((List.range 16).filter fun k => bitOf v k).any fun k => domSecure s (48 + k / 2) else x.sec⟩) (.mmio 0 0)))
    ∧ (x.en = false → ¬ ok → ∃ t, exec (.relayEnable n ns v) s = .next (emit t (.mmio 0 0))
        ∧ t = { s with aon := t.aon, fresh := t.fresh } ∧ Crosses s t 0x04 (0x7080 + 4 * n.val) 0 0x2C) := by
  intro x ok
  have hoff : strOff (0x80 + 4 * n.val) = 0x7080 + 4 * n.val := by simp only [strOff]; omega
  rw [← hoff] at hserved ⊢
  have hcond : (bitOf v 16 && !relayOk s ((List.range 16).filter fun k => bitOf v k)) = true ↔ ¬ ok := by simp [ok]
  have hopen : x.en = false → relayWrite n.val v s = if bitOf v 16 && !relayOk s ((List.range 16).filter fun k => bitOf v k)
      then refuse s (strOff (0x80 + 4 * n.val)) 0 mmioIsland
      else setRelay s n.val ⟨bitOf v 16, BitVec.ofNat 16 (fld v 0 16), if bitOf v 16
        then ((List.range 16).filter fun k => bitOf v k).any fun k => domSecure s (48 + k / 2) else x.sec⟩ := fun hen =>
    if_neg (by rw [show (relay s n.val).en = false from hen]; exact Bool.false_ne_true)
  refine ⟨fun hen => ?_, fun hen hok => ?_, fun hen hno => ?_⟩
  · refine (exec_served rfl hserved).trans (congrArg (fun t => Host.Outcome.next (emit t _)) ?_)
    exact if_pos hen
  · refine (exec_served rfl hserved).trans (congrArg (fun t => Host.Outcome.next (emit t _)) ?_)
    exact ((hopen hen).trans (if_neg (mt hcond.mp (not_not_intro hok))))
  · exact exec_refused rfl hserved ((hopen hen).trans (if_pos (hcond.mpr hno)))

/-! ### High-water marks (log 27) -/

theorem tagHwmRead_next {s : State} (p : Pool) {ns : Bool} :
    Served s (match p with | .rd => 0x7040 | .wr => 0x7044 | .rm => 0x7048) ns (domSecure s 60) →
    let u := tagsUsed s p
    let h := match p with | .rd => s.path.hwmRd | .wr => s.path.hwmWr | .rm => s.path.hwmRm
    exec (.tagHwmRead p ns) s = .next (emit { s with path := match p with
        | .rd => { s.path with hwmRd := u } | .wr => { s.path with hwmWr := u } | .rm => { s.path with hwmRm := u } }
      (.mmio 0 (BitVec.ofNat 32 (2 ^ 16 * min h 0xFFFF + min u 0xFFFF)))) := by
  intro hserved u h
  cases p <;> exact (exec_readServed rfl hserved).trans rfl

theorem kqLandRead_next {s : State} (q : Fin 4) {ns : Bool} (hserved : Served s (0x1A000 + 0x40 * q.val) ns (domSecure s (8 + q.val))) :
    let u := landUsed s q.val fun _ => true
    exec (.kqLandRead q ns) s = .next (emit (setKq s q.val { kq s q.val with hwm := u })
      (.mmio 0 (BitVec.ofNat 32 (2 ^ 16 * min (kq s q.val).hwm 0x3FFF + min u 0x3FFF)))) := by
  have hoff : kqOff q.val 0 = 0x1A000 + 0x40 * q.val := by simp only [kqOff]; omega
  rw [← hoff] at hserved
  exact (exec_readServed rfl hserved).trans rfl

/-! ### Counters -/

theorem mdCtrl_cases {s : State} (u : Fin 8) {ns : Bool} {v : W32} (hserved : Served s (0x1B020 + 0x40 * u.val) ns (domSecure s (12 + u.val))) :
    (bitOf v 1 = false → exec (.mdClrcnt u ns v) s = .next (emit (setMd s u.val { md s u.val with
      sat := 0, nan := 0, blk := 0, nanblk := 0, acclines := 0, corr := 0, uncorr := 0 }) (.mmio 0 0)))
    ∧ (bitOf v 0 = false → exec (.reseed u ns v) s = .next (emit (setMd s u.val { md s u.val with reseed := true }) (.mmio 0 0))) := by
  have hoff : mdOff u.val 0x20 = 0x1B020 + 0x40 * u.val := by simp only [mdOff]; omega
  rw [← hoff] at hserved
  have h1 : bitOf 1#32 0 = true ∧ bitOf 1#32 1 = false := by decide
  have h2 : bitOf 2#32 0 = false ∧ bitOf 2#32 1 = true := by decide
  refine ⟨fun hv => (exec_served rfl hserved).trans ?_, fun hv => (exec_served rfl hserved).trans ?_⟩
  · simp [mdCtrl, bitOf_or, h1, hv]
  · simp [mdCtrl, bitOf_or, h2, hv]

theorem bgClrcnt_next {s : State} (g : Fin 16) {ns : Bool} (v : W32) (hserved : Served s (0x1C01C + 0x40 * g.val) ns (domSecure s (20 + g.val))) :
    exec (.bgClrcnt g ns v) s = .next (emit (setBg s g.val { bg s g.val with
      conflict := 0, corr := 0, uncorr := 0, bites := 0 }) (.mmio 0 0)) := by
  have hoff : bgOff g.val 0x1C = 0x1C01C + 0x40 * g.val := by simp only [bgOff]; omega
  rw [← hoff] at hserved
  have h1 : bitOf (v ||| 1) 0 = true := by rw [bitOf_or]; exact Bool.or_true _
  exact (exec_served rfl hserved).trans (congrArg (fun t => Host.Outcome.next (emit t _)) (if_pos h1))

theorem mpClr_next {s : State} (m : Port) {ns : Bool} (v : W32)
    (hserved : Served s (0x610C + 0x10 * m.val) ns (memThere s m.val && domSecure s (44 + m.val / 2))) :
    exec (.mpClr m ns v) s = .next (emit (if memThere s m.val then setMp s m.val { mp s m.val with late := 0, errcnt := 0 } else s)
      (.mmio 0 0)) := by
  have hoff : 0x6100 + 0x10 * m.val + 0xC = 0x610C + 0x10 * m.val := by omega
  rw [← hoff] at hserved
  refine (exec_served rfl hserved).trans (congrArg (fun t => Host.Outcome.next (emit t _)) ?_)
  cases memThere s m.val <;> rfl

theorem poolDisarm_next {s : State} (p : Fin 32) {ns : Bool} (v : W32) (hserved : Served s (0x1C404 + 0x10 * p.val) ns (poolSecure s p.val))
    (hp : p.val < (im s).pools.length) :
    exec (.poolDisarm p ns v) s = .next (emit (setPoolSt s p.val { poolSt s p.val with
      dis := bitOf v 31, thresh := BitVec.ofNat 16 (fld v 0 16), armed := (poolSt s p.val).armed && !bitOf v 31 }) (.mmio 0 0)) := by
  have hoff : poolOff p.val 4 = 0x1C404 + 0x10 * p.val := by simp only [poolOff]; omega
  rw [← hoff] at hserved
  exact (exec_served rfl hserved).trans (congrArg (fun t => Host.Outcome.next (emit t _)) (if_neg (Nat.not_le.mpr hp)))

/-- Settles O45: each register of the data path with its own effect. -/
theorem dataPathRegisters : Obligations.DataPathRegisters := by
  unfold Obligations.DataPathRegisters
  refine ⟨?_, fun s => rfl, ?_, ?_, ?_, ?_, ?_, ?_, ?_, ?_⟩
  · intro s ns v hserved
    exact echoFlush_cases v hserved
  · intro s n ns v hserved
    exact relayEnable_cases n v hserved
  · intro s p ns hserved
    exact tagHwmRead_next p hserved
  · intro s q ns hserved
    exact kqLandRead_next q hserved
  · intro s q ns v hserved
    have hoff : kqOff q.val 0x1C = 0x1A01C + 0x40 * q.val := by simp only [kqOff]; omega
    rw [← hoff] at hserved
    exact (exec_served rfl hserved).trans rfl
  · intro s u ns v hserved
    exact mdCtrl_cases u hserved
  · intro s g ns v hserved
    exact bgClrcnt_next g v hserved
  · intro s m ns v hserved
    exact mpClr_next m v hserved
  · intro s p ns v hserved hp
    exact poolDisarm_next p v hserved hp

end Sys2Proof.Proofs
end

section
/-! What sending packets leaves (R220 to R234), and the barrier registers (R284 to R286, R300). -/

namespace Sys2Proof.Proofs

open Sys2Proof Sys2Proof.Machine Sys2Proof.Laws

/-! ### The frame of sent packets -/

/-- A step that touches link ports, what leaves the block, and the record, and nothing else. -/
def OnlySent (s t : State) : Prop := t = { s with links := t.links, out := t.out, aon := t.aon, fresh := t.fresh }

theorem OnlySent.refl (s : State) : OnlySent s s := rfl

theorem OnlySent.trans {s t u : State} (h : OnlySent s t) (k : OnlySent t u) : OnlySent s u := by
  unfold OnlySent at h k ⊢
  rw [h] at k
  exact k

theorem OnlyAon.onlySent {s t : State} (h : OnlyAon s t) : OnlySent s t := by
  unfold OnlySent
  rw [h]

theorem onlySent_foldl {α : Type} {g : State → α → State} (h : ∀ s a, OnlySent s (g s a)) (l : List α) (s : State) :
    OnlySent s (l.foldl g s) := by
  induction l generalizing s with
  | nil => exact .refl s
  | cons a l ih => exact (h s a).trans (ih _)

theorem onlySent_raise (s : State) (source a b island : Nat) : OnlySent s (raise s source a b island) := (onlyAon_raise s source a b island).onlySent
theorem onlySent_setLink (s : State) (p : Nat) (l : Link) : OnlySent s (setLink s p l) := rfl
theorem onlySent_bump (s : State) : OnlySent s (bump s) := rfl

theorem onlySent_sendFlit (s : State) (p ftype fseq : Nat) (nack : Bool) (slots : List Slot) : OnlySent s (sendFlit s p ftype fseq nack slots) := by
  unfold sendFlit
  extract_lets l
  split <;> rfl

theorem onlySent_pump (n : Nat) (s : State) (p : Nat) : OnlySent s (pump n s p) := by
  induction n generalizing s with
  | zero => exact .refl s
  | succ n ih =>
    unfold pump
    extract_lets l
    split
    · exact .refl s
    · split
      · exact .refl s
      · extract_lets vc l1 l2
        exact (onlySent_setLink s p l2).trans ((onlySent_sendFlit _ _ _ _ _ _).trans (ih _))

theorem onlySent_countDrop (s : State) (p : Nat) : OnlySent s (countDrop s p) := onlySent_setLink s p _

theorem onlySent_routeEvent (s : State) (p : Nat) (k : Packet) : OnlySent s (routeEvent s p k) :=
  (onlySent_setLink s p _).trans (onlySent_raise _ _ _ _ _)

theorem onlySent_absentDrop (s : State) (k : Packet) : OnlySent s (absentDrop s k) :=
  (onlySent_bump s).trans ((onlySent_routeEvent _ _ _).trans (onlySent_countDrop _ _))

theorem onlySent_enqueue (s : State) (q : Nat) (k : Packet) (h : Nat × Nat) (prior : Option Nat) : OnlySent s (enqueue s q k h prior) := by
  unfold enqueue
  extract_lets l hd dl k'
  split
  · exact (onlySent_setLink s q _).trans (onlySent_pump _ _ _)
  · exact onlySent_countDrop s q

theorem onlySent_deliverOwn (s : State) (p : Nat) (k : Packet) : OnlySent s (deliverOwn s p k) := onlySent_setLink s p _

/-- The event of R234 where a port is in REFUSED. -/
theorem onlySent_refused (s : State) (b : Bool) (q : Nat) (k : Packet) : OnlySent s (if b then routeEvent s q k else s) := by
  split
  · exact onlySent_routeEvent s q k
  · exact .refl s

theorem onlySent_sendOrDrop (s : State) (k : Packet) : OnlySent s (sendOrDrop s k) := by
  unfold sendOrDrop
  split
  · exact .refl s
  · split
    · exact (onlySent_refused s _ _ k).trans (onlySent_enqueue _ _ _ _ _)
    · exact onlySent_absentDrop s k

theorem onlySent_dropPkt (s : State) (p : Nat) (k : Packet) : OnlySent s (dropPkt s p k) := by
  unfold dropPkt
  extract_lets t h e
  refine (onlySent_countDrop s p : OnlySent s t).trans ?_
  split
  · split
    · exact onlySent_deliverOwn t p e
    · exact onlySent_sendOrDrop t e
  · exact .refl t

theorem onlySent_downActions (s : State) (p : Nat) : OnlySent s (downActions s p) := by
  unfold downActions
  extract_lets l held t
  exact (onlySent_setLink s p _ : OnlySent s t).trans (onlySent_foldl (fun u k => onlySent_dropPkt u p k) held t)

theorem onlySent_sendPkt (s : State) (k : Packet) : OnlySent s (sendPkt s k) := by
  unfold sendPkt
  split
  · exact onlySent_deliverOwn s 0 k
  · split
    · extract_lets t
      refine (onlySent_absentDrop s k : OnlySent s t).trans ?_
      split
      · exact onlySent_deliverOwn t 0 _
      · exact .refl t
    · extract_lets l
      split
      · exact onlySent_enqueue s _ _ _ _
      · exact (onlySent_refused s _ _ k).trans (onlySent_dropPkt _ _ _)

theorem onlySent_sendHop (s : State) (k d : Nat) (f : Nat → Packet) : OnlySent s (sendHop s k d f) := by
  unfold sendHop
  split
  · exact onlySent_absentDrop s _
  · extract_lets l pk
    split
    · exact onlySent_enqueue s _ _ _ _
    · exact (onlySent_refused s _ _ pk).trans (onlySent_dropPkt _ _ _)

theorem onlySent_spread (s : State) (o lo kind : Nat) (epoch : BitVec 2) (home : Nat) (ns : Bool) : OnlySent s (spread s o lo kind epoch home ns) := by
  unfold spread
  refine onlySent_foldl (fun u k => ?_) _ s
  extract_lets e a n up down go
  have hgo : ∀ v d r, OnlySent v (go v d r) := by
    intro v d r
    simp only [go]
    split
    · exact .refl v
    · exact onlySent_sendHop v _ _ _
  exact (hgo u 0 up).trans (hgo _ 1 down)

/-! ### What a release leaves of the hub -/

/-- The barrier objects and the host's arrival. -/
def hubBars (s : State) : Tbl Bar × Bool := (s.hub.bars, s.hub.arrBusy)

theorem hubBars_ext {s t : State} (h : t.hub = s.hub) : hubBars t = hubBars s := by simp only [hubBars, h]

theorem hubBars_foldl {α : Type} {g : State → α → State} (h : ∀ s a, hubBars (g s a) = hubBars s) (l : List α) (s : State) :
    hubBars (l.foldl g s) = hubBars s := by
  induction l generalizing s with
  | nil => rfl
  | cons a l ih => exact (ih _).trans (h s a)

theorem hub_modStream (s : State) (c : Nat) (f : Stream → Stream) : (modStream s c f).hub = s.hub := by
  unfold modStream
  split <;> rfl

theorem hubBars_ringRealign (s : State) (r : Nat) (e : BitVec 2) : hubBars (ringRealign s r e) = hubBars s := by
  unfold ringRealign
  extract_lets x
  split
  · rfl
  · refine (hubBars_ext (raise_hub _ _ _ _ _)).trans ?_
    exact hubBars_ext (s := setRing s r { ring s r with fault := true }) (pendSrc_hub _ _)

theorem hubBars_poolTrigger (s : State) (p : Nat) : hubBars (poolTrigger s p) = hubBars s := by
  unfold poolTrigger
  split
  · rfl
  · extract_lets x u
    split
    · exact (hubBars_foldl (g := fun s g => setBg s g { bg s g with migr := dedup ((bg s g).migr ++ [p]) }) (fun _ _ => rfl) _ u).trans rfl
    · rfl

theorem hubBars_poolBarrier (s : State) (o : Nat) : hubBars (poolBarrier s o) = hubBars s := by
  refine hubBars_foldl (fun u p => ?_) _ s
  split
  · exact hubBars_poolTrigger u p
  · rfl

/-- A release moves the EPOCH of its object, and no other object. -/
theorem hubBars_applyRelease (s : State) (o : Nat) (e : BitVec 2) : hubBars (applyRelease s o e) = hubBars (setBar s o { bar s o with epoch := e }) := by
  unfold applyRelease
  extract_lets x t u v
  have hrings : hubBars u = hubBars t := hubBars_foldl (fun w (r : Nat) => by
    split
    · exact hubBars_ringRealign w r e
    · rfl) _ t
  have hpools : hubBars v = hubBars u := hubBars_poolBarrier u o
  have hwaiters : ∀ w (c : Nat), hubBars (if waitTag w c != e then finish w c cOK 0 else w) = hubBars w := by
    intro w c
    split
    · exact hubBars_ext (hub_modStream w c _)
    · rfl
  rw [hubBars_foldl hwaiters, hpools, hrings]

/-! ### Arrivals at the home (R281, R285, R286) -/

/-- What an arrival that is counted leaves of its object. -/
def arrived (x : Bar) (pm1 : Nat) : Bar :=
  if x.count.toNat = pm1 then { x with st := .idle, count := 0, need := BitVec.ofNat 14 pm1, epoch := x.epoch + 1 }
  else { x with st := .gather, count := BitVec.ofNat 14 (x.count.toNat + 1), need := BitVec.ofNat 14 pm1 }

/-- An arrival that is counted: its code is OK, and its object has moved. -/
def Counted (s : State) (o pm1 : Nat) (r : State × Nat × Nat) : Prop :=
  r.2.1 = cOK ∧ r.1.hub.arrBusy = s.hub.arrBusy ∧ bar r.1 o = arrived (bar s o) pm1

theorem homeArrive_counts {s : State} (hs : Canon s) {o pm1 : Nat} {ns : Bool} {chan : Nat} (hworld : ns = true → barSecure s o = false)
    (hbox : inBox s o (ownChip s) = true)
    (hst : (bar s o).st = .idle ∨ ((bar s o).st = .gather ∧ (bar s o).need.toNat = pm1)) :
    Counted s o pm1 (homeArrive s o pm1 (bar s o).epoch ns (ownChip s) chan) := by
  have h1 : (ns && barSecure s o) = false := by
    cases ns
    · rfl
    · exact hworld rfl
  have h2 : (!inBox s o (ownChip s) || (ownChip s != ownChip s && (objOwner s o).any (·.2))) = false := by simp [hbox]
  have h3 : ((bar s o).st == .abandoned) = false ∧ ((bar s o).st == .poisoned) = false ∧ ((bar s o).st == .saved) = false := by
    rcases hst with h | ⟨h, _⟩ <;> rw [h] <;> decide
  have h4 : ((bar s o).epoch != (bar s o).epoch || ((bar s o).st == .gather && (bar s o).need.toNat != pm1)) = false := by
    rcases hst with h | ⟨h, hneed⟩
    · simp [h]
    · simp [h, hneed]
  have harrive : homeArrive s o pm1 (bar s o).epoch ns (ownChip s) chan = if (bar s o).count.toNat + 1 = pm1 + 1
      then (spread (applyRelease (setBar s o { bar s o with st := .idle, count := 0, need := BitVec.ofNat 14 pm1 }) o ((bar s o).epoch + 1)) o 0 2
          ((bar s o).epoch + 1)
          (barHome (applyRelease (setBar s o { bar s o with st := .idle, count := 0, need := BitVec.ofNat 14 pm1 }) o ((bar s o).epoch + 1)) o)
          (!barSecure (applyRelease (setBar s o { bar s o with st := .idle, count := 0, need := BitVec.ofNat 14 pm1 }) o ((bar s o).epoch + 1)) o),
        cOK, 0)
      else (setBar s o { bar s o with st := .gather, count := BitVec.ofNat 14 ((bar s o).count.toNat + 1), need := BitVec.ofNat 14 pm1 }, cOK, 0) := by
    unfold homeArrive
    dsimp only
    rw [h1, h2, h3.1, h3.2.1, h3.2.2, h4]
    rfl
  rw [harrive]
  by_cases hlast : (bar s o).count.toNat = pm1
  · rw [if_pos (by rw [hlast])]
    generalize hrel : applyRelease (setBar s o { bar s o with st := .idle, count := 0, need := BitVec.ofNat 14 pm1 }) o ((bar s o).epoch + 1) = t
    have hbars := hubBars_applyRelease (setBar s o { bar s o with st := .idle, count := 0, need := BitVec.ofNat 14 pm1 }) o ((bar s o).epoch + 1)
    rw [hrel] at hbars
    have hhub : (spread t o 0 2 ((bar s o).epoch + 1) (barHome t o) (!barSecure t o)).hub = t.hub := by rw [onlySent_spread]
    refine ⟨rfl, ?_, ?_⟩
    · exact (congrArg Hub.arrBusy hhub).trans (congrArg Prod.snd hbars)
    · have htbl : (spread t o 0 2 ((bar s o).epoch + 1) (barHome t o) (!barSecure t o)).hub.bars = _ :=
        (congrArg Hub.bars hhub).trans (congrArg Prod.fst hbars)
      rw [bar, htbl, arrived, if_pos hlast]
      refine (bar_setBar_self (setBar_canon _ _ _ hs) o _).trans ?_
      rw [bar_setBar_self hs]
  · rw [if_neg (fun h => hlast (Nat.succ.inj h))]
    refine ⟨rfl, rfl, ?_⟩
    rw [bar_setBar_self hs, arrived, if_neg hlast]

end Sys2Proof.Proofs
end

section
/-! The barrier registers (R284 to R286, R300). -/

namespace Sys2Proof.Proofs

open Sys2Proof Sys2Proof.Machine Sys2Proof.Laws

/-! ### Host arrivals (R300) -/

/-- MZ_BAR_ARRIVE's fields behind a write that is taken. -/
def arriveHub (s : State) (v : W32) : Hub := { s.hub with arrPm1 := BitVec.ofNat 14 (fld v 12 14), arrObj := BitVec.ofNat 12 (fld v 0 12) }

/-- Whether an object is a context's privileged one. -/
def privileged (s : State) (o : Nat) : Bool := match objOwner s o with | some (_, true) => true | _ => false

theorem privileged_iff (s : State) (o : Nat) : privileged s o = true ↔ ∃ c, objOwner s o = some (c, true) := by
  unfold privileged
  split
  · next c h => exact ⟨fun _ => ⟨c, h⟩, fun _ => rfl⟩
  · next h => exact ⟨fun hf => absurd hf Bool.false_ne_true, fun ⟨c, hc⟩ => absurd hc (h c)⟩

/-- What an answered arrival leaves: its result, and for a refusal the event of R76. -/
def arrivalTaken (r : State × Nat × Nat) : State :=
  if r.2.1 = cSTATE then refuse { r.1 with hub := { r.1.hub with arrRes := r.2.1 } } (syncOff 0x14) r.2.2 0x3A
  else { r.1 with hub := { r.1.hub with arrRes := r.2.1 } }

/-- The body of a host arrival's write. -/
def hostArriveW (ns : Bool) (v : W32) (s : State) : State :=
  if s.hub.arrBusy then refuse s (syncOff 0x14) 0 0x3A
  else if privileged s (fld v 0 12) then refuse { s with hub := { arriveHub s v with arrRes := cSTATE } } (syncOff 0x14) 14 0x3A
  else if barHome s (fld v 0 12) = ownChip s then
    arrivalTaken (homeArrive { s with hub := arriveHub s v } (fld v 0 12) (fld v 12 14) (bar s (fld v 0 12)).epoch ns (ownChip s) 0x1FF)
  else sendPkt { s with hub := { arriveHub s v with arrBusy := true } }
    (barrPkt s (barHome s (fld v 0 12)) 0 (fld v 0 12) (bar s (fld v 0 12)).epoch.toNat (fld v 12 14) 0 0x1FF 0 0 (barHome s (fld v 0 12)) ns)

theorem exec_hostArrive {s : State} {ns : Bool} {v : W32} (hserved : Served s 0xF014 ns (barSecure s (fld v 0 12))) :
    exec (.hostArrive ns v) s = .next (emit (hostArriveW ns v s) (.mmio 0 0)) :=
  (exec_served rfl hserved).trans rfl

theorem hostArrive_cases {s : State} {ns : Bool} {v : W32} (hs : Canon s) :
    let o := fld v 0 12
    let pm1 := fld v 12 14
    let x := bar s o
    let hub := { s.hub with arrPm1 := BitVec.ofNat 14 pm1, arrObj := BitVec.ofNat 12 o }
    Served s 0xF014 ns (barSecure s o) →
    (s.hub.arrBusy = true → ∃ t, exec (.hostArrive ns v) s = .next (emit t (.mmio 0 0)) ∧ t = { s with aon := t.aon, fresh := t.fresh }
      ∧ Crosses s t 0x04 0xF014 0 0x3A)
    ∧ (s.hub.arrBusy = false → (∃ c, objOwner s o = some (c, true)) → ∃ t, exec (.hostArrive ns v) s = .next (emit t (.mmio 0 0))
        ∧ t = { s with hub := { hub with arrRes := cSTATE }, aon := t.aon, fresh := t.fresh } ∧ Crosses s t 0x04 0xF014 14 0x3A)
    ∧ (s.hub.arrBusy = false → (∀ c, objOwner s o ≠ some (c, true)) →
      (barHome s o ≠ ownChip s → exec (.hostArrive ns v) s = .next (emit (sendPkt { s with hub := { hub with arrBusy := true } }
          (barrPkt s (barHome s o) 0 o x.epoch.toNat pm1 0 0x1FF 0 0 (barHome s o) ns)) (.mmio 0 0)))
      ∧ (barHome s o = ownChip s → inBox s o (ownChip s) = true → x.st = .idle ∨ (x.st = .gather ∧ x.need.toNat = pm1) →
        ∃ t, exec (.hostArrive ns v) s = .next (emit t (.mmio 0 0)) ∧ t.hub.arrRes = cOK ∧ t.hub.arrBusy = false
          ∧ bar t o = (if x.count.toNat = pm1 then { x with st := .idle, count := 0, need := BitVec.ofNat 14 pm1, epoch := x.epoch + 1 }
              else { x with st := .gather, count := BitVec.ofNat 14 (x.count.toNat + 1), need := BitVec.ofNat 14 pm1 }))) := by
  intro o pm1 x hub hserved
  have hexec := exec_hostArrive hserved
  refine ⟨fun hbusy => ?_, fun hbusy hpriv => ?_, fun hbusy hpriv => ?_⟩
  · exact ⟨_, hexec.trans (by rw [hostArriveW, if_pos hbusy]; rfl), onlyAon_raise s _ _ _ _, crosses_raise s _ _ _ _⟩
  · have hidle : ¬ s.hub.arrBusy = true := ne_true_of_eq_false hbusy
    exact ⟨_, hexec.trans (by rw [hostArriveW, if_neg hidle, if_pos ((privileged_iff s o).mpr hpriv)]; rfl),
      onlyAon_raise { s with hub := { hub with arrRes := cSTATE } } _ _ _ _, crosses_raise_of rfl _ _ _ _⟩
  · have hidle : ¬ s.hub.arrBusy = true := ne_true_of_eq_false hbusy
    have hnot : ¬ privileged s o = true := fun h => (((privileged_iff s o).mp h).elim hpriv)
    have hopen : hostArriveW ns v s = if barHome s (fld v 0 12) = ownChip s then _ else _ := (if_neg hidle).trans (if_neg hnot)
    refine ⟨fun hhome => hexec.trans (by rw [hopen, if_neg hhome]; rfl), fun hhome hbox hst => ?_⟩
    have hcounts : Counted { s with hub := arriveHub s v } o pm1
        (homeArrive { s with hub := arriveHub s v } o pm1 (bar s o).epoch ns (ownChip s) 0x1FF) :=
      homeArrive_counts (s := { s with hub := arriveHub s v }) { hs with } hserved.world hbox hst
    have hnext : exec (.hostArrive ns v) s = .next (emit (arrivalTaken (homeArrive { s with hub := arriveHub s v } o pm1 (bar s o).epoch ns (ownChip s) 0x1FF))
        (.mmio 0 0)) := hexec.trans (by rw [hopen, if_pos hhome])
    revert hcounts hnext
    generalize homeArrive { s with hub := arriveHub s v } o pm1 (bar s o).epoch ns (ownChip s) 0x1FF = r
    intro hcounts hnext
    obtain ⟨hcode, harr, hbar⟩ := hcounts
    refine ⟨_, hnext, ?_⟩
    have hok : ¬ r.2.1 = cSTATE := by rw [hcode]; decide
    rw [arrivalTaken, if_neg hok]
    exact ⟨hcode, harr.trans hbusy, hbar⟩

/-! ### Configuration (R284, R286) -/

theorem boxOk_iff (s : State) (v : W32) : boxOk s (fld v 16 8) (fld v 24 8) = true
    ↔ ∀ k < 4, fld v (24 + 2 * k) 2 + 1 ≤ extent s k ∧ fld v (16 + 2 * k) 2 < extent s k := by
  have hfld : ∀ lo, ∀ k < 4, fld v lo 8 / 4 ^ k % 4 = fld v (lo + 2 * k) 2 := by
    intro lo k hk
    simp only [fld, Nat.shiftRight_eq_div_pow]
    rw [Nat.pow_add, ← Nat.div_div_eq_div_mul]
    generalize v.toNat / 2 ^ lo = n
    interval_cases k <;> omega
  simp only [boxOk, List.all_eq_true, List.mem_range, Bool.and_eq_true, decide_eq_true_eq]
  exact forall₂_congr fun k hk => by rw [hfld 24 k hk, hfld 16 k hk]

theorem init_cases {s : State} {ns : Bool} (v : W32) (hserved : Served s 0xF010 ns (barSecure s s.hub.barSel.toNat)) :
    let o := s.hub.barSel.toNat
    let x := bar s o
    (x.st ≠ .saved → barWaiters s o = [] → exec (.init ns v) s
        = .next (emit (setBar s o { x with st := .idle, epoch := 0, count := 0, need := 0 }) (.mmio 0 0)))
      ∧ (x.st = .saved ∨ barWaiters s o ≠ [] → ∃ t, exec (.init ns v) s = .next (emit t (.mmio 0 0))
          ∧ t = { s with aon := t.aon, fresh := t.fresh } ∧ Crosses s t 0x04 0xF010 0 0x3A) := by
  intro o x
  have hcond : (x.st == .saved || !(barWaiters s o).isEmpty) = true ↔ x.st = .saved ∨ barWaiters s o ≠ [] := by simp
  refine ⟨fun hst hw => ?_, fun h => exec_refused rfl hserved (if_pos (hcond.mpr h))⟩
  refine (exec_served rfl hserved).trans (congrArg (fun t => Host.Outcome.next (emit t _)) ?_)
  exact if_neg (mt hcond.mp (not_or.mpr ⟨hst, not_not_intro hw⟩))

theorem barCfg_cases {s : State} {ns : Bool} (v : W32) (hserved : Served s 0xF004 ns (barSecure s s.hub.barSel.toNat)) :
    let o := s.hub.barSel.toNat
    let x := bar s o
    let fits := ∀ k < 4, fld v (24 + 2 * k) 2 + 1 ≤ extent s k ∧ fld v (16 + 2 * k) 2 < extent s k
    let still := (x.st = .idle ∨ x.st = .abandoned ∨ x.st = .poisoned) ∧ barWaiters s o = []
    (still → fits → exec (.barCfgWrite ns v) s = .next (emit (setBar s o { x with
          home := some (fld v 0 8), lo := BitVec.ofNat 8 (fld v 16 8), lenm1 := BitVec.ofNat 8 (fld v 24 8) }) (.mmio 0 0)))
      ∧ (¬ (still ∧ fits) → ∃ t, exec (.barCfgWrite ns v) s = .next (emit t (.mmio 0 0))
          ∧ t = { s with aon := t.aon, fresh := t.fresh } ∧ Crosses s t 0x04 0xF004 0 0x3A) := by
  intro o x fits still
  have hcond : ((x.st == .idle || x.st == .abandoned || x.st == .poisoned) && (barWaiters s o).isEmpty
      && boxOk s (fld v 16 8) (fld v 24 8)) = true ↔ still ∧ fits := by
    rw [Bool.and_eq_true, boxOk_iff]
    exact and_congr (by simp [still, or_assoc]) Iff.rfl
  refine ⟨fun hstill hfits => ?_, fun h => exec_refused rfl hserved (if_neg (mt hcond.mp h))⟩
  refine (exec_served rfl hserved).trans (congrArg (fun t => Host.Outcome.next (emit t _)) ?_)
  exact if_pos (hcond.mpr ⟨hstill, hfits⟩)

/-! ### The map of objects (R284) -/

theorem ctxQuiet_iff (s : State) (c : Nat) : ctxQuiet s c = true
    ↔ (ctx s c).st = .out ∨ ∀ k ∈ ctxChans s c, chState s k = .idle ∨ chState s k = .halted ∨ chState s k = .disabled := by
  have hst : ∀ x : ChSt, (match x with | .idle => true | .halted => true | .disabled => true | _ => false) = true
      ↔ x = .idle ∨ x = .halted ∨ x = .disabled := by
    intro x
    cases x <;> simp
  simp only [ctxQuiet, Bool.or_eq_true, beq_iff_eq, List.all_eq_true]
  exact or_congr Iff.rfl (forall₂_congr fun k _ => hst (chState s k))

theorem overlap_eq_false_iff (b1 c1 b2 c2 : Nat) : overlap b1 c1 b2 c2 = false ↔ b1 + c1 ≤ b2 ∨ b2 + c2 ≤ b1 ∨ c1 = 0 ∨ c2 = 0 := by
  rw [← Bool.not_eq_true]
  simp only [overlap, Bool.and_eq_true, decide_eq_true_eq]
  omega

theorem barMap_cases {s : State} (c : Cx) {ns : Bool} (v : W32) (hserved : Served s (0xF100 + 4 * c.val) ns (ctxSecure s c.val)) :
    let count := fld v 12 11
    let base := fld v 0 12
    let may := ((ctx s c.val).st = .out ∨ ∀ k ∈ ctxChans s c.val, chState s k = .idle ∨ chState s k = .halted ∨ chState s k = .disabled)
      ∧ (bitOf v 24 = true → ∀ d < 64, d ≠ c.val → (ctx s d).own = true →
          base + count ≤ (ctx s d).base ∨ (ctx s d).base + (ctx s d).count ≤ base ∨ count = 0 ∨ (ctx s d).count = 0)
      ∧ count ≤ 1024
    (may → exec (.barMapWrite c ns v) s
      = .next (emit (setCtx s c.val { ctx s c.val with own := bitOf v 24, count := count, base := base }) (.mmio 0 0)))
    ∧ (¬ may → ∃ t, exec (.barMapWrite c ns v) s = .next (emit t (.mmio 0 0)) ∧ t = { s with aon := t.aon, fresh := t.fresh }
        ∧ Crosses s t 0x04 (0xF100 + 4 * c.val) 0 0x3A) := by
  intro count base may
  have hoff : syncOff (0x100 + 4 * c.val) = 0xF100 + 4 * c.val := by simp only [syncOff]; omega
  rw [← hoff] at hserved ⊢
  have hclash : (bitOf v 24 && (List.range 64).any fun d =>
      d != c.val && (ctx s d).own && overlap base count (ctx s d).base (ctx s d).count) = false
      ↔ (bitOf v 24 = true → ∀ d < 64, d ≠ c.val → (ctx s d).own = true →
          base + count ≤ (ctx s d).base ∨ (ctx s d).base + (ctx s d).count ≤ base ∨ count = 0 ∨ (ctx s d).count = 0) := by
    simp only [← overlap_eq_false_iff]
    rw [← Bool.not_eq_true]
    simp only [Bool.and_eq_true, List.any_eq_true, List.mem_range, bne_iff_ne]
    constructor
    · intro h hv d hd hne hown
      by_contra hover
      exact h ⟨hv, d, hd, ⟨hne, hown⟩, by simpa using hover⟩
    · rintro h ⟨hv, d, hd, ⟨hne, hown⟩, hover⟩
      rw [h hv d hd hne hown] at hover
      exact Bool.false_ne_true hover
  have hcond : (!ctxQuiet s c.val || (bitOf v 24 && (List.range 64).any fun d =>
      d != c.val && (ctx s d).own && overlap base count (ctx s d).base (ctx s d).count) || decide (1024 < count)) = true ↔ ¬ may := by
    simp only [may, ← ctxQuiet_iff, ← hclash, Bool.or_eq_true, Bool.not_eq_true', not_and_or, Nat.not_le, or_assoc, Bool.not_eq_true, Bool.not_eq_false,
      decide_eq_true_eq]
  refine ⟨fun hmay => ?_, fun h => exec_refused rfl hserved ?_⟩
  · refine (exec_served rfl hserved).trans (congrArg (fun t => Host.Outcome.next (emit t _)) ?_)
    exact if_neg (mt hcond.mp (not_not_intro hmay))
  · exact if_pos (hcond.mpr h)

/-- Settles O56: arrivals of the host, INIT, the configuration and the map, each taken or refused as its rule says. -/
theorem barrierRegisters : Obligations.BarrierRegisters := by
  unfold Obligations.BarrierRegisters
  refine ⟨?_, ?_, ?_, ?_⟩
  · intro s ns v hs
    exact hostArrive_cases hs
  · intro s hbusy
    exact if_pos hbusy
  · intro s ns v
    exact ⟨init_cases v, barCfg_cases v⟩
  · intro s c ns v hserved
    exact barMap_cases c v hserved

end Sys2Proof.Proofs
end

section
/-! Core readiness, activation positions and the MMIO target's own accesses (R209, R211, R213, R374). -/

namespace Sys2Proof.Proofs

open Sys2Proof Sys2Proof.Machine Sys2Proof.Laws

/-! ### Lines that end -/

/-- The numbers of the lines in flight. -/
def lineIds (s : State) : List Nat := s.path.lines.map (·.id)

/-- A step after which no new line is in flight, and the core ports and the pins are as they were. -/
structure LinesEnd (s t : State) : Prop where
  ids : lineIds t ⊆ lineIds s
  cps : t.ports.cp = s.ports.cp
  pins : t.pins = s.pins

theorem LinesEnd.refl (s : State) : LinesEnd s s := ⟨List.Subset.refl _, rfl, rfl⟩
theorem LinesEnd.trans {s t u : State} (h : LinesEnd s t) (k : LinesEnd t u) : LinesEnd s u := ⟨fun _ hi => h.ids (k.ids hi), k.cps.trans h.cps, k.pins.trans h.pins⟩

theorem LinesEnd.of_kept {s t : State} (hpath : t.path = s.path) (hports : t.ports = s.ports) (hpins : t.pins = s.pins) : LinesEnd s t :=
  ⟨by rw [lineIds, hpath]; exact List.Subset.refl _, by rw [hports], hpins⟩

theorem OnlyAon.linesEnd {s t : State} (h : OnlyAon s t) : LinesEnd s t := .of_kept h.path h.ports h.pins

theorem linesEnd_modStream (s : State) (c : Nat) (f : Stream → Stream) : LinesEnd s (modStream s c f) := by
  unfold modStream
  split <;> exact .of_kept rfl rfl rfl

theorem lineIds_echoDrop (s : State) (pa : Nat) : lineIds (echoDrop s pa) = lineIds s := by
  simp only [lineIds, echoDrop, List.map_map]
  refine List.map_congr_left fun l _ => ?_
  simp only [Function.comp]
  split <;> rfl

/-- The freed tag's number is in flight no longer. -/
theorem lineIds_dropLine (s : State) (id : Nat) : lineIds (dropLine s id) = (lineIds s).filter (· != id) := by
  have hset : lineIds (setLines s (s.path.lines.filter fun l => l.id != id)) = (lineIds s).filter (· != id) := by
    simp only [lineIds, setLines, List.filter_map]
    rfl
  unfold dropLine
  extract_lets t
  rw [← hset]
  split
  · split
    · split
      · exact lineIds_echoDrop t _
      · rfl
    · rfl
  · rfl

theorem cp_dropLine (s : State) (id : Nat) : (dropLine s id).ports.cp = s.ports.cp := by
  unfold dropLine
  extract_lets t
  (repeat' split) <;> rfl

theorem pins_dropLine (s : State) (id : Nat) : (dropLine s id).pins = s.pins := by
  unfold dropLine
  extract_lets t
  (repeat' split) <;> rfl

theorem linesEnd_dropLine (s : State) (id : Nat) : LinesEnd s (dropLine s id) :=
  ⟨by rw [lineIds_dropLine]; exact fun _ hi => List.mem_of_mem_filter hi, cp_dropLine s id, pins_dropLine s id⟩

theorem linesEnd_addLate (s : State) (l : Line) (out : Nat × Nat) : LinesEnd s (addLate s l out) := by
  unfold addLate
  split <;> exact .of_kept rfl rfl rfl

theorem linesEnd_endNow (s : State) (c code detail : Nat) : LinesEnd s (endNow s c code detail) :=
  (linesEnd_modStream s c _).trans (linesEnd_modStream _ c _)

theorem linesEnd_retryTile (s : State) (c no code : Nat) : LinesEnd s (retryTile s c no code) := by
  unfold retryTile
  split
  · exact .refl s
  · extract_lets m again u
    have hset : LinesEnd s u := .of_kept rfl rfl rfl
    exact hset.trans (onlyAon_raise u _ _ _ _).linesEnd

theorem linesEnd_tileFail (s : State) (c no att : Nat) (e : LErr) (out : Nat × Nat) : LinesEnd s (tileFail s c no att e out) := by
  have hspoil : LinesEnd s (spoilTile s c no) := linesEnd_modStream s c _
  have hends : LinesEnd s (endNow (spoilTile s c no) c out.1 out.2) := hspoil.trans (linesEnd_endNow _ c _ _)
  unfold tileFail
  extract_lets ends attempt
  have hattempt : ∀ x, LinesEnd s (attempt x) := by
    intro x
    simp only [attempt]
    split
    · exact hends
    · split
      · exact .refl s
      · split
        · exact linesEnd_retryTile s c no _
        · exact hends
  split
  · exact .refl s
  · split
    · exact hspoil
    · exact .refl s
    · exact hattempt _
    · split
      · exact hspoil
      · exact hattempt _

/-- A line that fails leaves no line of its number. -/
theorem linesEnd_lineFail (s : State) (l : Line) (e : LErr) : LinesEnd (dropLine s l.id) (lineFail s l e) := by
  unfold lineFail
  extract_lets out
  split
  · unfold inboundEnd
    extract_lets
    split
    · exact .of_kept rfl rfl rfl
    · exact .refl _
  · next t u _ _ =>
    have hu : LinesEnd (dropLine s l.id) u := by
      simp only [u]
      split
      · exact (onlyAon_raise t _ _ _ _).linesEnd
      · exact .refl t
    refine hu.trans ?_
    split
    · exact linesEnd_addLate u l out
    · split
      · exact linesEnd_addLate u l out
      · split
        · split
          · exact linesEnd_modStream u _ _
          · exact linesEnd_addLate u l out
        · split
          · exact linesEnd_modStream u _ _
          · exact .refl u
        · exact linesEnd_tileFail u _ _ _ _ _
        · extract_lets ended
          refine LinesEnd.trans ?_ (linesEnd_tileFail _ _ _ _ _ _)
          split
          · exact linesEnd_addLate u l out
          · exact .refl u
        · exact .refl u

theorem linesEnd_errEvent (s : State) (loc : Loc) (op resp : Nat) : LinesEnd s (errEvent s loc op resp) := by
  have hmem : ∀ m pa, LinesEnd s (memErr s m pa op resp) := by
    intro m pa
    have hset : ∀ x, LinesEnd s (setMp s m x) := fun _ => ⟨fun _ hi => hi, rfl, rfl⟩
    exact (hset _).trans (onlyAon_raise _ _ _ _ _).linesEnd
  unfold errEvent
  extract_lets atMem
  split
  · exact (onlyAon_raise s _ _ _ _).linesEnd
  · exact .refl s
  · split
    · split
      · exact (onlyAon_raise s _ _ _ _).linesEnd
      · exact hmem _ _
    · exact hmem _ _
  · exact hmem _ _

/-! ### A port that falls (R211) -/

/-- No line of a number is in flight, and core port `n` holds none. -/
def Gone (n id : Nat) (s : State) : Prop := id ∉ lineIds s ∧ ∀ h ∈ (cp s n).held, h.1 ≠ id

theorem Gone.linesEnd {n id : Nat} {s t : State} (h : Gone n id s) (k : LinesEnd s t) : Gone n id t := by
  refine ⟨fun hi => h.1 (k.ids hi), ?_⟩
  rw [cp, k.cps]
  exact h.2

/-- One step of `unhold`: port `k` loses what it holds of a line. -/
def unholdAt (id : Nat) (s : State) (k : Nat) : State :=
  if (cp s k).held.any fun h => h.1 == id then setCp s k { cp s k with held := (cp s k).held.filter fun h => h.1 != id } else s

theorem unhold_eq (s : State) (id : Nat) : unhold s id = (List.range 16).foldl (unholdAt id) s := rfl

theorem unholdAt_canon {s : State} (hs : Canon s) (id k : Nat) : Canon (unholdAt id s k) := by
  unfold unholdAt
  split
  · exact setCp_canon _ _ _ hs
  · exact hs

theorem unholdAt_held {s : State} (hs : Canon s) (id k n : Nat) :
    (cp (unholdAt id s k) n).held = if n = k then (cp s n).held.filter (fun h => h.1 != id) else (cp s n).held := by
  unfold unholdAt
  by_cases hn : n = k
  · subst hn
    rw [if_pos rfl]
    split
    · rw [cp_setCp_self hs]
    · next hany =>
      refine (List.filter_eq_self.mpr fun h hh => ?_).symm
      by_contra hid
      exact hany (List.any_eq_true.mpr ⟨h, hh, by simpa using hid⟩)
  · rw [if_neg hn]
    split
    · rw [cp_setCp_other hs _ _ hn]
    · rfl

theorem unholdAt_path (id : Nat) (s : State) (k : Nat) : (unholdAt id s k).path = s.path := by
  unfold unholdAt
  split <;> rfl

theorem pins_foldl {α : Type} {g : State → α → State} (h : ∀ s a, (g s a).pins = s.pins) (l : List α) (s : State) : (l.foldl g s).pins = s.pins := by
  induction l generalizing s with
  | nil => rfl
  | cons a l ih => exact (ih _).trans (h s a)

theorem pins_unhold (s : State) (id : Nat) : (unhold s id).pins = s.pins :=
  pins_foldl (g := unholdAt id) (fun s k => by unfold unholdAt; split <;> rfl) _ s

/-- Behind a run of such steps no port of the list holds the line, and another line's hold is as it was or gone. -/
theorem foldl_unholdAt {l : List Nat} {s : State} (hs : Canon s) (id n : Nat) :
    (∀ h ∈ (cp (l.foldl (unholdAt id) s) n).held, h ∈ (cp s n).held ∧ (n ∈ l → h.1 ≠ id)) ∧ (l.foldl (unholdAt id) s).path = s.path := by
  induction l generalizing s with
  | nil => exact ⟨fun h hh => ⟨hh, fun hn => absurd hn List.not_mem_nil⟩, rfl⟩
  | cons k l ih =>
    obtain ⟨hheld, hpath⟩ := ih (unholdAt_canon hs id k)
    refine ⟨fun h hh => ?_, hpath.trans (unholdAt_path id s k)⟩
    obtain ⟨hmem, hne⟩ := hheld h hh
    rw [unholdAt_held hs] at hmem
    split at hmem
    · obtain ⟨hin, hid⟩ := List.mem_filter.mp hmem
      exact ⟨hin, fun _ => by simpa using hid⟩
    · next hnk => exact ⟨hmem, fun hn => hne ((List.mem_cons.mp hn).resolve_left hnk)⟩

/-- One line that the port answers ERROR. -/
def answerError (n : Nat) (s : State) (l : Line) : State :=
  lineFail (errEvent (unhold s l.id) (.core n (coreOffset l.loc)) (lineOp l.kind) 2) l .error

theorem answerError_canon {s : State} (hs : Canon s) (n : Nat) (l : Line) : Canon (answerError n s l) :=
  lineFail_canon _ _ _ (errEvent_canon _ _ _ _ (unhold_canon _ _ hs))

theorem gone_unhold {n id : Nat} {s : State} (hs : Canon s) (k : Nat) (h : Gone n id s) : Gone n id (unhold s k) := by
  obtain ⟨hheld, hpath⟩ := foldl_unholdAt (l := List.range 16) hs k n
  refine ⟨by rw [unhold_eq, lineIds, hpath]; exact h.1, fun g hg => h.2 g (hheld g hg).1⟩

theorem gone_answerError {n id : Nat} {s : State} (hs : Canon s) (l : Line) (h : Gone n id s) : Gone n id (answerError n s l) :=
  (((gone_unhold hs l.id h).linesEnd (linesEnd_errEvent _ _ _ _)).linesEnd (linesEnd_dropLine _ l.id)).linesEnd (linesEnd_lineFail _ l .error)

theorem answerError_gone {n : Nat} (hn : n < 16) {s : State} (hs : Canon s) (l : Line) : Gone n l.id (answerError n s l) := by
  obtain ⟨hheld, _⟩ := foldl_unholdAt (l := List.range 16) hs l.id n
  have hfree : ∀ h ∈ (cp (unhold s l.id) n).held, h.1 ≠ l.id := fun g hg => (hheld g hg).2 (List.mem_range.mpr hn)
  refine Gone.linesEnd ⟨?_, ?_⟩ (linesEnd_lineFail _ l .error)
  · rw [lineIds_dropLine]
    simp
  · rw [cp, cp_dropLine, (linesEnd_errEvent _ _ _ _).cps]
    exact hfree

theorem foldl_answerError {n : Nat} (hn : n < 16) {ls : List Line} {s : State} (hs : Canon s) {id : Nat}
    (h : Gone n id s ∨ ∃ l ∈ ls, l.id = id) : Gone n id (ls.foldl (answerError n) s) := by
  induction ls generalizing s with
  | nil => exact h.resolve_right fun ⟨l, hl, _⟩ => List.not_mem_nil hl
  | cons k ls ih =>
    refine ih (answerError_canon hs n k) ?_
    rcases h with hgone | ⟨l, hl, hid⟩
    · exact .inl (gone_answerError hs k hgone)
    · rcases List.mem_cons.mp hl with rfl | hl
      · exact .inl (hid ▸ answerError_gone hn hs l)
      · exact .inr ⟨l, hl, hid⟩

theorem pins_answerError (n : Nat) (s : State) (l : Line) : (answerError n s l).pins = s.pins :=
  (((linesEnd_lineFail _ l .error).pins.trans (pins_dropLine _ _)).trans (linesEnd_errEvent _ _ _ _).pins).trans (pins_unhold s l.id)

theorem lineOf_eq_none_iff (s : State) (id : Nat) : lineOf s id = none ↔ id ∉ lineIds s := by
  simp [lineOf, lineIds]

/-- The state behind a change of MZ_CRDYn's level. -/
def crdySet (s : State) (n : Nat) (level : Bool) : State := { s with pins := { s.pins with crdy := putBit s.pins.crdy n level } }

theorem coreReadyFalls {s : State} (hs : Canon s) (n : CPort) : ∃ t, exec (.coreReadyChange n false) s = .next t
    ∧ t.pins = { s.pins with crdy := putBit s.pins.crdy n.val false }
    ∧ ∀ l ∈ s.path.lines, atCore s n.val l = true → lineOf t l.id = none ∧ ∀ h ∈ (cp t n.val).held, h.1 ≠ l.id := by
  refine ⟨(s.path.lines.filter (atCore s n.val)).foldl (answerError n.val) (crdySet s n.val false), rfl,
    pins_foldl (pins_answerError n.val) _ _, fun l hl hat => ?_⟩
  have hcanon : Canon (crdySet s n.val false) := { hs with }
  obtain ⟨hid, hheld⟩ := foldl_answerError n.isLt hcanon (.inr ⟨l, List.mem_filter.mpr ⟨hl, hat⟩, rfl⟩)
  exact ⟨(lineOf_eq_none_iff _ _).mpr hid, hheld⟩

/-! ### A port that rises, and freed positions (R211, R213) -/

theorem coreReadyRises (s : State) (n : CPort) : ∃ t, exec (.coreReadyChange n true) s = .next t
    ∧ t.pins = { s.pins with crdy := putBit s.pins.crdy n.val true } ∧ (s.ports.inq = [] → t = { s with pins := t.pins }) := by
  refine ⟨_, rfl, pins_of_calm (drainIn_calm _), fun hinq => ?_⟩
  rw [drainIn_nothing (.inl (by simp [hinq]))]
  simp only [hinq, List.map_nil]
  rw [← hinq]

theorem activationFree_idle {s : State} (n : CPort) (p : BitVec 13) (h : ∀ h ∈ (cp s n.val).held, h.2 ≠ p.toNat) :
    exec (.activationPositionFree n p) s = .next (setCp s n.val { cp s n.val with busy := (cp s n.val).busy.erase p.toNat }) := by
  have hnone : (cp s n.val).held.find? (fun h => h.2 == p.toNat) = none := by simpa using h
  simp only [exec, execActivationPositionFree, hnone]

theorem activationFree_held {s : State} (hs : Canon s) (n : CPort) (p : BitVec 13) {l : Line}
    (hheld : (cp s n.val).held.find? (fun h => h.2 == p.toNat) = some (l.id, p.toNat)) (hl : lineOf s l.id = some l) :
    let k := cp s n.val
    let off := coreOffset l.loc
    ∃ t, exec (.activationPositionFree n p) s
          = .next (emit t (.core n.val off (coreDest s n.val off) 1 l.ns false 0 (l.id % 65536) l.data l.be))
        ∧ t = { setCp s n.val { k with held := k.held.erase (l.id, p.toNat) } with
            stage := { s.stage with rankCore := t.stage.rankCore } } := by
  intro k off
  have hdest : coreDest (setCp s n.val { k with held := k.held.erase (l.id, p.toNat) }) n.val off = coreDest s n.val off := by
    simp only [coreDest, actPos, cp_setCp_self hs, k]
  refine ⟨grantCore (setCp s n.val { k with held := k.held.erase (l.id, p.toNat) }) n.val
    (coreInput (setCp s n.val { k with held := k.held.erase (l.id, p.toNat) }) n.val l), ?_, rfl⟩
  rw [← hdest]
  simp only [exec, execActivationPositionFree, hheld, hl]
  rfl

/-! ### Accesses of the MMIO target (R209, log 36) -/

theorem mmioBad_refused {s : State} {r : FabReq} (hready : mmioReady s = true)
    (hbad : 2 ≤ r.op.toNat ∨ 2 ≤ r.size.toNat ∨ r.addr.toNat % (if r.size = 0 then 4 else 8) ≠ 0) :
    ∃ t, exec (.mmioBadRequest r) s = .next (emit t (.mmio 2 0)) ∧ t = { s with aon := t.aon, fresh := t.fresh }
      ∧ Crosses s t 0x04 (r.addr.toNat % 2 ^ 20) 0 0x2C := by
  have hmod : r.addr.toNat % 2 ^ 20 % (if r.size = 0 then 4 else 8) = r.addr.toNat % (if r.size = 0 then 4 else 8) := by
    split <;> omega
  have hcond : (decide (2 ≤ r.op.toNat) || decide (2 ≤ r.size.toNat)
      || decide (r.addr.toNat % 2 ^ 20 % (if r.size = 0 then 4 else 8) ≠ 0)) = true := by
    rw [hmod]
    simpa [or_assoc] using hbad
  refine ⟨refuse s (r.addr.toNat % 2 ^ 20) 0 mmioIsland, ?_, onlyAon_raise s _ _ _ _, crosses_raise s _ _ _ _⟩
  simp only [exec, execMmioBadRequest]
  rw [hready, if_pos hcond]
  rfl

theorem mmioBad_read {s : State} {r : FabReq} (hready : mmioReady s = true) (hop : r.op = 0) (haddr : r.addr.toNat % 8 = 0) (hsize : r.size.toNat < 2) :
    exec (.mmioBadRequest r) s = .next (mmioBeatR r (r.addr.toNat % 2 ^ 20) s) := by
  have hcond : ¬ (decide (2 ≤ r.op.toNat) || decide (2 ≤ r.size.toNat)
      || decide (r.addr.toNat % 2 ^ 20 % (if r.size = 0 then 4 else 8) ≠ 0)) = true := by
    have hoff : r.addr.toNat % 2 ^ 20 % (if r.size = 0 then 4 else 8) = 0 := by split <;> omega
    rw [hoff]
    simp [hop, hsize]
  simp only [exec, execMmioBadRequest]
  rw [hready, if_neg hcond, if_pos hop]
  rfl

theorem registerWrite_misaligned {s : State} {off : BitVec 20} (ns : Bool) (v : W32) (hready : mmioReady s = true) (hoff : off.toNat % 4 ≠ 0) :
    ∃ t, exec (.registerWrite off ns v) s = .next (emit t (.mmio 2 0)) ∧ t = { s with aon := t.aon, fresh := t.fresh }
      ∧ Crosses s t 0x04 off.toNat 0 0x2C := by
  refine ⟨refuse s off.toNat 0 mmioIsland, ?_, onlyAon_raise s _ _ _ _, crosses_raise s _ _ _ _⟩
  simp only [exec, execRegisterWrite]
  rw [hready, if_pos hoff]
  rfl

theorem exec_registerWrite {s : State} {off : Nat} (ns : Bool) (v : W32) (hready : mmioReady s = true) (hlt : off < 2 ^ 20) (hoff : off % 4 = 0) :
    exec (.registerWrite (BitVec.ofNat 20 off) ns v) s = .next (regW off ns v s) := by
  have hval : (BitVec.ofNat 20 off).toNat = off := by rw [BitVec.toNat_ofNat, Nat.mod_eq_of_lt hlt]
  have hnot : ¬ (BitVec.ofNat 20 off).toNat % 4 ≠ 0 := by rw [hval]; exact not_not_intro hoff
  simp only [exec, execRegisterWrite]
  rw [hready, if_neg hnot, hval]
  rfl

/-! ### Plain registers of the interrupt and collector pages (R374) -/

theorem regW_interrupt {r : Nat} (hr : r < 0x1000) (ns : Bool) (v : W32) (s : State) : regW (0x5000 + r) ns v s = interruptW r ns v s := by
  have hpage : (0x5000 + r) / 0x1000 = 5 := by omega
  have hoff : (0x5000 + r) % 0x1000 = r := by omega
  rw [regW, hpage, hoff]
  rfl

theorem regW_collector {r : Nat} (hr : r < 0x1000) (ns : Bool) (v : W32) (s : State) : regW (0x2000 + r) ns v s = collectorW r ns v s := by
  have hpage : (0x2000 + r) / 0x1000 = 2 := by omega
  have hoff : (0x2000 + r) % 0x1000 = r := by omega
  rw [regW, hpage, hoff]
  rfl

theorem msiData_next {s : State} (l : Fin 40) {ns : Bool} (v : W32)
    (hserved : Served s (0x5408 + 0x10 * l.val) ns (msiThere s l.val && !(msi s l.val).ns)) :
    exec (.registerWrite (BitVec.ofNat 20 (0x5408 + 0x10 * l.val)) ns v) s
      = .next (emit (setMsi s l.val { msi s l.val with data := v }) (.mmio 0 0)) := by
  have hl := l.isLt
  have hthere : msiThere s l.val = true := by
    rw [msiThere, decide_eq_true hl, Bool.or_true]
  have hoff : 0x5408 + 0x10 * l.val = 0x5000 + (0x408 + 0x10 * l.val) := by omega
  have hline : (0x408 + 0x10 * l.val - 0x400) / 16 = l.val := by omega
  have hfield : (0x408 + 0x10 * l.val) % 16 = 8 := by omega
  rw [exec_registerWrite ns v hserved.ready (by omega) (by omega), hoff, regW_interrupt (by omega)]
  rw [hoff] at hserved
  unfold interruptW
  dsimp only
  rw [if_neg (by omega), if_neg (by omega), if_neg (by omega), if_neg (by omega), if_neg (by omega), if_neg (by omega), if_neg (by omega),
    if_pos (by omega), if_neg (by omega), if_neg (by omega), if_pos (by omega), hline, mmioW_of_served hserved, hthere]
  rfl

/-- The bits that a masked write of one word of a wide register leaves. -/
theorem groupPut_getLsbD {w : Nat} (old : BitVec w) (k : Nat) (m v : W32) {i : Nat} (hi : i < w) :
    (groupPut old (32 * k) m v).getLsbD i = if i / 32 = k ∧ m.getLsbD (i % 32) = true then v.getLsbD (i % 32) else old.getLsbD i := by
  have hshift : ∀ u : W32, ((u.setWidth w) <<< (32 * k)).getLsbD i = (decide (i / 32 = k) && u.getLsbD (i % 32)) := by
    intro u
    rw [BitVec.getLsbD_shiftLeft, BitVec.getLsbD_setWidth]
    by_cases hk : i / 32 = k
    · have hle : ¬ i < 32 * k := by omega
      have hsub : i - 32 * k = i % 32 := by omega
      have hlt : i % 32 < w := by omega
      simp [hi, hle, hsub, hk, hlt]
    · by_cases hle : i < 32 * k
      · simp [hle, hk]
      · have hge : 32 ≤ i - 32 * k := by omega
        simp [hk, BitVec.getLsbD_of_ge u _ hge]
  rw [groupPut, BitVec.getLsbD_or, BitVec.getLsbD_and, BitVec.getLsbD_not, hshift, hshift, BitVec.getLsbD_and]
  by_cases hk : i / 32 = k <;> cases m.getLsbD (i % 32) <;> simp [hi, hk]

theorem writable_getLsbD (ns : Bool) (sec : Nat → Bool) (k : Nat) {i : Nat} (hi : i < 32) :
    (writable ns sec k).getLsbD i = !(ns && sec (32 * k + i)) := by
  have h := and_writable_getLsbD ns sec k (BitVec.allOnes 32) hi
  rwa [BitVec.allOnes_and, BitVec.getLsbD_allOnes, decide_eq_true hi, Bool.true_and] at h

/-- The messages that a change of the interrupt registers sends leave those registers. -/
theorem setPorts_pending (s : State) (p : Ports) : (setPorts s p).ports.chPend = p.chPend ∧ (setPorts s p).ports.chEn = p.chEn := by
  have hfold : ∀ (l : List Nat) (t : State),
      let g := fun (t : State) l => if irqLine p l && !irqLine s.ports l && (msi t l).en && operating t then msiWrite t (msi t l) else t
      (l.foldl g t).ports.chPend = t.ports.chPend ∧ (l.foldl g t).ports.chEn = t.ports.chEn := by
    intro l t g
    induction l generalizing t with
    | nil => exact ⟨rfl, rfl⟩
    | cons a l ih =>
      have hstep : (g t a).ports.chPend = t.ports.chPend ∧ (g t a).ports.chEn = t.ports.chEn := by
        simp only [g]
        split <;> exact ⟨rfl, rfl⟩
      exact ⟨(ih _).1.trans hstep.1, (ih _).2.trans hstep.2⟩
  exact hfold _ { s with ports := p }

theorem chEn_write {s : State} (k : Fin 16) {ns : Bool} (v : W32) (hserved : Served s (0x5040 + 4 * k.val) ns false) :
    ∃ t, exec (.registerWrite (BitVec.ofNat 20 (0x5040 + 4 * k.val)) ns v) s = .next (emit t (.mmio 0 0))
      ∧ t.ports.chPend = s.ports.chPend ∧ ∀ i < 512, t.ports.chEn.getLsbD i
          = if i / 32 = k.val ∧ (ns = true → chanSecure s i = false) then v.getLsbD (i % 32) else s.ports.chEn.getLsbD i := by
  have hk := k.isLt
  have hoff : 0x5040 + 4 * k.val = 0x5000 + (0x40 + 4 * k.val) := by omega
  have hword : (0x40 + 4 * k.val - 0x40) / 4 = k.val := by omega
  rw [exec_registerWrite ns v hserved.ready (by omega) (by omega), hoff, regW_interrupt (by omega)]
  rw [hoff] at hserved
  obtain ⟨u, hu, hw⟩ := bitwiseW_eq s (0x5000 + (0x40 + 4 * k.val)) ns (secureBits (chanSecure s) (32 * k.val)) v fun m v s =>
    setPorts s { s.ports with chEn := groupPut s.ports.chEn (32 * k.val) m v }
  refine ⟨setPorts u { u.ports with chEn := groupPut u.ports.chEn (32 * k.val) (writable ns (chanSecure s) k.val) v },
    congrArg Host.Outcome.next ?_, ?_⟩
  · unfold interruptW
    dsimp only
    rw [if_neg (by omega), if_pos (by omega), hword, mmioW_of_served hserved]
    exact congrArg (fun t => emit t _) hw
  · obtain ⟨hpend, hen⟩ := setPorts_pending u { u.ports with chEn := groupPut u.ports.chEn (32 * k.val) (writable ns (chanSecure s) k.val) v }
    refine ⟨by rw [hpend, hu.ports], fun i hi => ?_⟩
    rw [hen, groupPut_getLsbD _ _ _ _ hi, hu.ports]
    have hmod : i % 32 < 32 := Nat.mod_lt _ (by decide)
    refine if_congr (and_congr_right fun hk => ?_) rfl rfl
    have hadd : 32 * k.val + i % 32 = i := by omega
    rw [writable_getLsbD _ _ _ hmod, hadd]
    cases ns <;> simp

theorem fsCfg_write {s : State} (i : Fin 256) (ns : Bool) (v : W32) (hready : mmioReady s = true) :
    exec (.registerWrite (BitVec.ofNat 20 (0x2800 + 8 * i.val)) ns v) s = exec (.fsCfgWrite i ns v) s := by
  have hi := i.isLt
  have hoff : 0x2800 + 8 * i.val = 0x2000 + (0x800 + 8 * i.val) := by omega
  have hidx : Fin.ofNat 256 ((0x800 + 8 * i.val - 0x800) / 8) = i := by
    have hdiv : (0x800 + 8 * i.val - 0x800) / 8 = i.val := by omega
    rw [hdiv]
    exact Fin.ext (Nat.mod_eq_of_lt hi)
  rw [exec_registerWrite ns v hready (by omega) (by omega), hoff, regW_collector (by omega)]
  unfold collectorW
  dsimp only
  rw [if_neg (by omega), if_neg (by omega), if_neg (by omega), if_neg (by omega), if_neg (by omega), if_neg (by omega), if_neg (by omega),
    if_pos (by omega), hidx]
  rfl

/-- Settles O48: the cores' readiness, the freed positions, and the accesses that the MMIO target takes. -/
theorem coresAndTheMmioTarget : Obligations.CoresAndTheMmioTarget := by
  unfold Obligations.CoresAndTheMmioTarget
  refine ⟨?_, ?_, ?_, ?_, ?_, ?_, ?_, ?_⟩
  · intro s n level hs
    cases level with
    | true =>
      obtain ⟨t, hexec, hpins, hframe⟩ := coreReadyRises s n
      exact ⟨t, hexec, hpins, fun _ => hframe, fun h => absurd h.symm Bool.false_ne_true⟩
    | false =>
      obtain ⟨t, hexec, hpins, hgone⟩ := coreReadyFalls hs n
      exact ⟨t, hexec, hpins, fun h => absurd h Bool.false_ne_true, fun _ => hgone⟩
  · intro s n p
    exact ⟨activationFree_idle n p, fun l hs hheld hl => activationFree_held hs n p hheld hl⟩
  · intro s r hready hbad
    exact mmioBad_refused hready hbad
  · intro s r hready hop haddr off
    refine ⟨fun hsize => ?_, fun hsize => ?_⟩
    · rw [mmioBad_read hready hop haddr (by rw [hsize]; decide), mmioBeatR, if_pos hsize]
    · rw [mmioBad_read hready hop haddr (by rw [hsize]; decide), mmioBeatR, if_neg (by rw [hsize]; decide)]
  · intro s off ns v hready hoff
    exact registerWrite_misaligned ns v hready hoff
  · intro s l ns v hserved
    exact msiData_next l v hserved
  · intro s k ns v hserved
    exact chEn_write k v hserved
  · intro s i ns v hready
    exact fsCfg_write i ns v hready

end Sys2Proof.Proofs
end

section
/-! Stage memory's own steps: placement windows, migration, scrubbing and the grant watchdog (R189 to R197). -/

namespace Sys2Proof.Proofs

open Sys2Proof Sys2Proof.Machine Sys2Proof.Laws

/-! ### What leaves the pools and their gates -/

/-- A step that leaves the pools' states, and which pools migrate in each group. -/
structure KeepsGates (s t : State) : Prop where
  canon : Canon s → Canon t
  pool : t.stage.pool = s.stage.pool
  migr : Canon s → ∀ k, (bg t k).migr = (bg s k).migr

theorem KeepsGates.refl (s : State) : KeepsGates s s := ⟨id, rfl, fun _ _ => rfl⟩

theorem KeepsGates.trans {s t u : State} (h : KeepsGates s t) (k : KeepsGates t u) : KeepsGates s u :=
  ⟨fun hs => k.canon (h.canon hs), k.pool.trans h.pool, fun hs i => (k.migr (h.canon hs) i).trans (h.migr hs i)⟩

theorem KeepsGates.of_bg {s t : State} (hcanon : Canon s → Canon t) (hpool : t.stage.pool = s.stage.pool) (hbg : t.stage.bg = s.stage.bg) :
    KeepsGates s t := ⟨hcanon, hpool, fun _ _ => by rw [bg, hbg, bg]⟩

theorem KeepsGates.of_stage {s t : State} (hcanon : Canon s → Canon t) (hstage : t.stage = s.stage) : KeepsGates s t :=
  .of_bg hcanon (by rw [hstage]) (by rw [hstage])

theorem keepsGates_foldl {α : Type} {g : State → α → State} (h : ∀ s a, KeepsGates s (g s a)) (l : List α) (s : State) :
    KeepsGates s (l.foldl g s) := by
  induction l generalizing s with
  | nil => exact .refl s
  | cons a l ih => exact (h s a).trans (ih _)

theorem keepsGates_raise (s : State) (source a b island : Nat) : KeepsGates s (raise s source a b island) :=
  .of_stage (raise_canon _ _ _ _ _) (raise_stage _ _ _ _ _)

theorem keepsGates_emit (s : State) (o : Out) : KeepsGates s (emit s o) := .of_stage (emit_canon _ _) rfl

theorem keepsGates_need (s : State) (d : Nat) : KeepsGates s (need s d) := .of_stage (need_canon _ _) (by rw [onlyClk_need])

theorem keepsGates_bgEcc (s : State) (g corr uncorr : Nat) : KeepsGates s (bgEcc s g corr uncorr) := by
  refine ⟨bgEcc_canon _ _ _ _, rfl, fun hs k => ?_⟩
  unfold bgEcc
  extract_lets b
  by_cases hk : k = g
  · subst hk
    rw [bg_setBg_self hs]
  · rw [bg_setBg_other hs _ _ hk]

theorem keepsGates_eccEvents (s : State) (off : Nat) (bad : Bool) (n : Nat) : KeepsGates s (eccEvents s off bad n) := by
  unfold eccEvents
  split
  · exact (keepsGates_bgEcc s _ _ _).trans (keepsGates_raise _ _ _ _ _)
  · exact .refl s

theorem keepsGates_eccFound (s : State) (off n : Nat) (corr : Bool) : KeepsGates s (eccFound s off n corr) := by
  unfold eccFound
  extract_lets t
  have ht : KeepsGates s t := by
    simp only [t]
    split
    · exact keepsGates_eccEvents s off false 1
    · exact .refl s
  split
  · exact ht
  · exact ht.trans (keepsGates_eccEvents t off true n)

theorem keepsGates_grantBank (s : State) (bank i : Nat) : KeepsGates s (grantBank s bank i) := .of_bg (grantBank_canon _ _ _) rfl rfl

theorem keepsGates_grantStage (s : State) (off i : Nat) : KeepsGates s (grantStage s off i) := by
  unfold grantStage
  split
  · exact keepsGates_grantBank s _ i
  · exact .refl s

theorem keepsGates_stageRead (s : State) (off : Nat) (be : LineEn) (input : Nat) (ecc : Ecc) : KeepsGates s (stageRead s off be input ecc).1 := by
  unfold stageRead
  split
  · exact keepsGates_raise s _ _ _ _
  · exact (keepsGates_grantStage s off input).trans (keepsGates_eccFound _ _ _ _)

theorem keepsGates_stageWriteEcc (s : State) (off : Nat) (d : LineData) (be : LineEn) (input : Nat) (ecc : Ecc) :
    KeepsGates s (stageWriteEcc s off d be input ecc) := by
  unfold stageWriteEcc
  split
  · exact keepsGates_raise s _ _ _ _
  · extract_lets whole part known fresh st t
    have ht : KeepsGates s t := .of_bg (fun hs => { hs with mem := memWrite_wf _ _ _ _ hs.mem }) rfl rfl
    exact ht.trans ((keepsGates_grantStage t off input).trans (keepsGates_eccFound _ _ _ _))

theorem keepsGates_addCheck (s : State) (off : Nat) (ecc : Ecc) : KeepsGates s (addCheck s off ecc).1 := by
  unfold addCheck
  split
  · exact .refl s
  · extract_lets bad
    dsimp only
    split
    · exact keepsGates_eccEvents s off true 1
    · split
      · exact keepsGates_eccEvents s off false 1
      · exact .refl s

theorem keepsGates_stageAdd (s : State) (off size v input : Nat) : KeepsGates s (stageAdd s off size v input).1 := by
  unfold stageAdd
  split
  · exact keepsGates_raise s _ _ _ _
  · exact keepsGates_stageWriteEcc s _ _ _ _ _

theorem keepsGates_inStage (s : State) (r : FabReq) (off input path agent : Nat) (bank : Ecc) :
    KeepsGates s (inStage s r off input path agent bank).1 := by
  unfold inStage
  extract_lets line
  split
  · exact .of_stage (notice_canon _ _ _ _ _ _) (notice_stage _ _ _ _ _ _)
  · split
    · exact keepsGates_stageRead s _ _ _ _
    · exact keepsGates_stageWriteEcc s _ _ _ _ _
    · have hcheck := keepsGates_addCheck s off bank
      revert hcheck
      generalize addCheck s off bank = a
      obtain ⟨u, bad⟩ := a
      intro hcheck
      dsimp only
      split
      · exact hcheck
      · exact hcheck.trans (keepsGates_stageAdd u off _ _ input)

theorem stage_sendPkt (s : State) (k : Packet) : (sendPkt s k).stage = s.stage := by rw [onlySent_sendPkt]

/-- The parts of stage memory's state that a grant of a port's arbiter leaves. -/
theorem keepsGates_toCore (s : State) (n : Nat) (l : Line) (op : Nat) : KeepsGates s (toCore s n l op) := .of_bg (toCore_canon _ _ _ _) rfl rfl

theorem keepsGates_coreWrite (s : State) (n off : Nat) (l : Line) : KeepsGates s (coreWrite s n off l) := by
  unfold coreWrite
  extract_lets c
  split
  · split
    · exact .of_stage (setCp_canon _ _ _) rfl
    · exact .trans (.of_stage (setCp_canon s _ _) rfl) (keepsGates_toCore _ _ _ _)
  · exact keepsGates_toCore s n l 1

theorem keepsGates_setLines (s : State) (ls : List Line) : KeepsGates s (setLines s ls) := .of_stage (setLines_canon _ _) rfl

theorem keepsGates_sendLine (s : State) (l : Line) (write : Bool) (prio lane : Nat) : KeepsGates s (sendLine s l write prio lane) := by
  unfold sendLine
  split
  · exact keepsGates_setLines s _
  · split
    · extract_lets m
      split
      · exact .trans (.of_stage (echoDrop_canon s _) rfl) (.trans (.of_bg (grantMem_canon _ _ _) rfl rfl) (keepsGates_emit _ _))
      · split
        · exact .refl s
        · exact .trans (.of_bg (grantMem_canon s _ _) rfl rfl) (keepsGates_emit _ _)
    · split <;> exact .of_stage (sendPkt_canon _ _) (stage_sendPkt _ _)
    · split
      · exact keepsGates_coreWrite s _ _ l
      · exact keepsGates_toCore s _ l 0
    · split
      · split
        · exact keepsGates_toCore s _ l 0
        · split
          · exact keepsGates_setLines s _
          · exact keepsGates_coreWrite s _ _ l
      · exact .refl s
    · exact .refl s
    · exact .refl s

theorem keepsGates_addLine (s : State) (l : Line) : KeepsGates s (addLine s l).1 := .of_stage (addLine_canon _ _) rfl

theorem keepsGates_inRelay (s : State) (m : Nat) (r : FabReq) (n off : Nat) : KeepsGates s (inRelay s m r n off) := by
  unfold inRelay
  extract_lets k l a
  split
  · exact (keepsGates_raise s _ _ _ _).trans (keepsGates_emit _ _)
  · exact (keepsGates_addLine s l).trans (keepsGates_sendLine a.1 a.2 true 3 33)

theorem keepsGates_serveIn {s t : State} {q : InReq} (h : serveIn s q = some t) : KeepsGates s t := by
  unfold serveIn at h
  extract_lets ans at h
  have hans : ∀ {a : State × Nat × LineData}, KeepsGates s a.1 → ans a = some t → KeepsGates s t := by
    intro a ha he
    cases he
    exact ha.trans (keepsGates_emit _ _)
  generalize (if q.core = true then 48 else 44) = d, (if q.core = true then 2 else 1) = path at h
  split at h
  · cases h
  · split at h
    · exact hans (.refl s) h
    · split at h
      · split at h
        · cases h
        · exact hans (keepsGates_inStage s _ _ _ _ _ _) h
      · split at h
        · exact hans (.refl s) h
        · split at h
          · exact hans (.of_stage (notice_canon _ _ _ _ _ _) (notice_stage _ _ _ _ _ _)) h
          · split at h
            · cases h
            · cases h
              exact keepsGates_inRelay s _ _ _ _
      · exact hans (.refl s) h

theorem keepsGates_locNeed (s : State) (loc : Loc) : KeepsGates s (locNeed s loc) := keepsGates_foldl keepsGates_need _ s

theorem keepsGates_inNeeds (s : State) (q : InReq) : KeepsGates s (inNeeds s q) := by
  unfold inNeeds
  extract_lets t
  have ht : KeepsGates s t := keepsGates_need s _
  refine ht.trans ?_
  split
  · exact keepsGates_locNeed t _
  · split
    · exact .refl t
    · exact keepsGates_locNeed t _
  · exact .refl t

theorem keepsGates_drainFrom (n : Nat) (s : State) : KeepsGates s (drainFrom n s) := by
  induction n generalizing s with
  | zero => exact .refl s
  | succ n ih =>
    unfold drainFrom
    split
    · exact keepsGates_foldl keepsGates_inNeeds _ s
    · next q _ =>
      extract_lets pt t
      have ht : KeepsGates s t := .of_stage (fun hs => { hs with }) rfl
      refine (ht.trans ?_).trans (ih _)
      rcases he : serveIn t q with _ | u
      · exact .refl t
      · exact keepsGates_serveIn he

theorem keepsGates_drainIn (s : State) : KeepsGates s (drainIn s) := by
  unfold drainIn
  split
  · exact .refl s
  · exact keepsGates_drainFrom _ s

/-! ### The placement loop (R189) -/

/-- The spread of a window's conflicts over the banks. -/
def spreadOf (cs : List Nat) : Nat := cs.foldl max 0 - cs.foldl min (cs.headD 0)

/-- The windows in a row at THRESH, behind one of this spread. -/
def hitsAfter (x : PoolSt) (g spread : Nat) : Nat := if x.thresh.toNat ≤ spread then min 2 (tget (fun _ => 0) x.hits g + 1) else 0

/-- A pool whose windows in a row have been counted. -/
def hit (x : PoolSt) (g spread : Nat) : PoolSt := { x with hits := tset (fun _ => 0) x.hits g (hitsAfter x g spread) }

/-- A pool behind a window of its group. -/
def windowed (x : PoolSt) (g spread : Nat) (salt : BitVec 12) : PoolSt := { x with
  hits := tset (fun _ => 0) x.hits g (hitsAfter x g spread), armed := x.armed || (hitsAfter x g spread == 2 && !x.dis), next := salt }

/-- The state in which the window's conflicts have been windowCounted. -/
def windowCounted (s : State) (g : Nat) (cs : List Nat) : State :=
  setBg s g { bg s g with conflict := (bg s g).conflict + BitVec.ofNat 32 (cs.foldl (· + ·) 0) }

theorem exec_placementWindowEnd {s : State} {g : Fin 16} {p : Fin 32} (cnt : Vector Nat 8) {c : PoolCfg} (hc : poolIn s g.val p.val = some c) :
    exec (.placementWindowEnd g p cnt) s = .next (if c.echo then windowCounted s g.val cnt.toList
      else if 2 ≤ hitsAfter (poolSt s p.val) g.val (spreadOf cnt.toList) ∧ !(poolSt s p.val).armed ∧ !(poolSt s p.val).dis
      then bump (setPoolSt (windowCounted s g.val cnt.toList) p.val
        { hit (poolSt s p.val) g.val (spreadOf cnt.toList) with armed := true, next := Config.salt s.fresh })
      else setPoolSt (windowCounted s g.val cnt.toList) p.val (hit (poolSt s p.val) g.val (spreadOf cnt.toList))) := by
  simp only [exec, execPlacementWindowEnd, hc]
  split
  · rfl
  · exact (apply_ite Host.Outcome.next _ _ _).symm

theorem hitsAfter_le (x : PoolSt) (g spread : Nat) : hitsAfter x g spread ≤ 2 := by
  unfold hitsAfter
  split <;> omega

theorem foldl_add_eq_sum (cs : List Nat) : cs.foldl (· + ·) 0 = cs.sum := by
  rw [List.sum_eq_foldl]

theorem bg_windowCounted {s : State} (hs : Canon s) (g : Nat) (cs : List Nat) : (bg (windowCounted s g cs) g).conflict
    = (bg s g).conflict + BitVec.ofNat 32 cs.sum := by
  rw [windowCounted, bg_setBg_self hs, foldl_add_eq_sum]

theorem placementWindow_cases {s : State} {g : Fin 16} {p : Fin 32} (cnt : Vector Nat 8) {c : PoolCfg} (hs : Canon s)
    (hc : poolIn s g.val p.val = some c) :
    let cs := cnt.toList
    let x := poolSt s p.val
    ∃ t salt, exec (.placementWindowEnd g p cnt) s = .next t ∧ t.stage.mem = s.stage.mem ∧ t.chans = s.chans
      ∧ (bg t g.val).conflict = (bg s g.val).conflict + BitVec.ofNat 32 cs.sum
      ∧ (c.echo = true → poolSt t p.val = x)
      ∧ (c.echo = false → poolSt t p.val = windowed x g.val (spreadOf cs) salt)
      ∧ (x.armed = true ∨ x.dis = true ∨ hitsAfter x g.val (spreadOf cs) < 2 → salt = x.next) := by
  intro cs x
  have hcanon : Canon (windowCounted s g.val cs) := setBg_canon _ _ _ hs
  rw [exec_placementWindowEnd cnt hc]
  rcases hecho : c.echo with _ | _
  · by_cases harm : 2 ≤ hitsAfter x g.val (spreadOf cs) ∧ !x.armed ∧ !x.dis
    · refine ⟨bump (setPoolSt (windowCounted s g.val cs) p.val { hit x g.val (spreadOf cs) with armed := true, next := Config.salt s.fresh }),
        Config.salt s.fresh, by rw [if_neg Bool.false_ne_true, if_pos harm], rfl, rfl, bg_windowCounted hs g.val cs, nofun, fun _ => ?_, ?_⟩
      · obtain ⟨hn, ha, hd⟩ := harm
        have htwo : hitsAfter x g.val (spreadOf cs) = 2 := le_antisymm (hitsAfter_le _ _ _) hn
        have hd' : x.dis = false := by simpa using hd
        refine (poolSt_setPoolSt_self hcanon p.val _).trans ?_
        have harmed : (x.armed || (hitsAfter x g.val (spreadOf cs) == 2 && !x.dis)) = true := by rw [htwo, hd']; simp
        unfold windowed
        rw [harmed]
        rfl
      · rintro (ha | hd | hn)
        · simp [ha] at harm
        · simp [hd] at harm
        · exact absurd harm.1 (Nat.not_le.mpr hn)
    · refine ⟨setPoolSt (windowCounted s g.val cs) p.val (hit x g.val (spreadOf cs)), x.next, by rw [if_neg Bool.false_ne_true, if_neg harm], rfl, rfl, bg_windowCounted hs g.val cs, nofun, fun _ => ?_, fun _ => rfl⟩
      refine (poolSt_setPoolSt_self hcanon p.val _).trans ?_
      have harmed : (x.armed || (hitsAfter x g.val (spreadOf cs) == 2 && !x.dis)) = x.armed := by
        cases ha : x.armed
        · cases hd : x.dis
          · have hlt : hitsAfter x g.val (spreadOf cs) ≠ 2 := fun h => harm ⟨h.ge, by simp [ha], by simp [hd]⟩
            simp [hlt]
          · simp
        · rfl
      unfold windowed
      rw [harmed]
      rfl
  · exact ⟨windowCounted s g.val cs, x.next, by rw [if_pos rfl], rfl, rfl, bg_windowCounted hs g.val cs, fun _ => rfl, nofun, fun _ => rfl⟩

/-! ### Migration and scrubbing (R191, R194) -/

/-- Events of words and grants of banks: what they touch. -/
def OnlyBanks (s t : State) : Prop := t = { s with
  stage := { s.stage with bg := t.stage.bg, bad := t.stage.bad, rankBank := t.stage.rankBank, hintBank := t.stage.hintBank }
  aon := t.aon, fresh := t.fresh }

theorem OnlyBanks.refl (s : State) : OnlyBanks s s := rfl

theorem OnlyBanks.trans {s t u : State} (h : OnlyBanks s t) (k : OnlyBanks t u) : OnlyBanks s u := by
  unfold OnlyBanks at h k ⊢
  rw [h] at k
  exact k

theorem OnlyAon.onlyBanks {s t : State} (h : OnlyAon s t) : OnlyBanks s t := by
  unfold OnlyBanks
  rw [h]

theorem onlyBanks_foldl {α : Type} {g : State → α → State} (h : ∀ s a, OnlyBanks s (g s a)) (l : List α) (s : State) : OnlyBanks s (l.foldl g s) := by
  induction l generalizing s with
  | nil => exact .refl s
  | cons a l ih => exact (h s a).trans (ih _)

theorem onlyBanks_eccEvents (s : State) (off : Nat) (bad : Bool) (n : Nat) : OnlyBanks s (eccEvents s off bad n) := by
  unfold eccEvents
  split
  · exact .trans (t := bgEcc _ _ _ _) rfl (onlyAon_raise _ _ _ _ _).onlyBanks
  · exact .refl s

theorem onlyBanks_grantRow (s : State) (g : Nat) : OnlyBanks s (grantRow s g) :=
  onlyBanks_foldl (g := fun s b => grantBank s (8 * g + b) 35) (fun _ _ => rfl) _ s

theorem keepsGates_grantRow (s : State) (g : Nat) : KeepsGates s (grantRow s g) := keepsGates_foldl (fun u _ => keepsGates_grantBank u _ _) _ s

/-- An added uncorrectable word. -/
theorem onlyBanks_addBad (s : State) (w : Nat) : OnlyBanks s { s with stage := { s.stage with bad := s.stage.bad ++ [w] } } := rfl

theorem keepsGates_addBad (s : State) (w : Nat) : KeepsGates s { s with stage := { s.stage with bad := s.stage.bad ++ [w] } } :=
  .of_bg (fun hs => { hs with }) rfl rfl

/-- What a migration finds touches the banks alone, and no gate. -/
theorem migrEcc_keeps (s : State) (g p : Nat) (bank : Ecc) : OnlyBanks s (migrEcc s g p bank) ∧ KeepsGates s (migrEcc s g p bank) := by
  unfold migrEcc
  extract_lets w t st u
  have ht : OnlyBanks s t ∧ KeepsGates s t := ⟨rfl, .of_bg (fun hs => { hs with }) rfl rfl⟩
  have hu : OnlyBanks t u ∧ KeepsGates t u := by
    have hsame : OnlyBanks t t ∧ KeepsGates t t := ⟨.refl t, .refl t⟩
    simp only [u]
    clear_value w
    rcases bank with _ | _ | _ <;> rcases w with _ | w
    · exact hsame
    · exact hsame
    · exact hsame
    · exact ⟨onlyBanks_eccEvents t _ _ _, keepsGates_eccEvents t _ _ _⟩
    · exact hsame
    · dsimp only
      split
      · exact hsame
      · exact ⟨onlyBanks_addBad t _, keepsGates_addBad t _⟩
  exact ⟨ht.1.trans (hu.1.trans (onlyBanks_foldl (fun v o => onlyBanks_eccEvents v o true 1) _ u)),
    ht.2.trans (hu.2.trans (keepsGates_foldl (fun v o => keepsGates_eccEvents v o true 1) _ u))⟩

/-- The state in which a group has moved its rows of a pool and opened its gate. -/
def gateOpened (s : State) (g p : Nat) (bank : Ecc) : State :=
  migrEcc (grantRow (setBg s g { bg s g with migr := (bg s g).migr.erase p }) g) g p bank

theorem gateOpened_keeps (s : State) (g p : Nat) (bank : Ecc) : OnlyBanks s (gateOpened s g p bank)
    ∧ KeepsGates (setBg s g { bg s g with migr := (bg s g).migr.erase p }) (gateOpened s g p bank) := by
  have hmigr := migrEcc_keeps (grantRow (setBg s g { bg s g with migr := (bg s g).migr.erase p }) g) g p bank
  refine ⟨.trans (t := setBg s g { bg s g with migr := (bg s g).migr.erase p }) rfl ((onlyBanks_grantRow _ _).trans hmigr.1), ?_⟩
  exact (keepsGates_grantRow _ _).trans hmigr.2

theorem migr_gateOpened {s : State} (hs : Canon s) (g p : Nat) (bank : Ecc) (k : Nat) :
    (bg (gateOpened s g p bank) k).migr = if k = g then (bg s g).migr.erase p else (bg s k).migr := by
  rw [(gateOpened_keeps s g p bank).2.migr (setBg_canon _ _ _ hs)]
  split
  · next h => rw [h, bg_setBg_self hs]
  · next h => rw [bg_setBg_other hs _ _ h]

theorem exec_saltMigrationDone {s : State} {g : Fin 16} {p : Fin 32} (e : Ecc) (hmigr : (bg s g.val).migr.contains p.val = true)
    (hfence : (bg s g.val).fence.getLsbD 35 = false) : exec (.saltMigrationDone g ⟨p, e⟩) s = .next (drainIn
      (if (List.range 16).any fun k => (bg (gateOpened s g.val p.val e) k).migr.contains p.val then gateOpened s g.val p.val e
      else setPoolSt (gateOpened s g.val p.val e) p.val { poolSt (gateOpened s g.val p.val e) p.val with
        changes := (poolSt (gateOpened s g.val p.val e) p.val).changes + 1 })) := by
  have hcond : ¬ (!(bg s g.val).migr.contains p.val || (bg s g.val).fence.getLsbD 35) = true := by rw [hmigr, hfence]; decide
  simp only [exec, execSaltMigrationDone]
  rw [if_neg hcond]
  exact ((apply_ite (fun t => Host.Outcome.next (drainIn t)) _ _ _).symm)

theorem saltMigration_cases {s : State} {g : Fin 16} {p : Fin 32} (e : Ecc) (hs : Canon s) (hmigr : (bg s g.val).migr.contains p.val = true)
    (hfence : (bg s g.val).fence.getLsbD 35 = false) :
    ∃ t, exec (.saltMigrationDone g ⟨p, e⟩) s = .next t ∧ (bg t g.val).migr = (bg s g.val).migr.erase p.val
      ∧ (((bg s g.val).migr.erase p.val).contains p.val = false →
          (∀ k < 16, k ≠ g.val → (bg s k).migr.contains p.val = false) →
          (poolSt t p.val).changes = (poolSt s p.val).changes + 1)
      ∧ (s.ports.inq = [] → ∀ k < 16, k ≠ g.val → (bg s k).migr.contains p.val = true → OnlyBanks s t) := by
  have hopen := migr_gateOpened hs g.val p.val e
  obtain ⟨hframe, hkeeps⟩ := gateOpened_keeps s g.val p.val e
  have hcanon : Canon (gateOpened s g.val p.val e) := hkeeps.canon (setBg_canon _ _ _ hs)
  have hpool : poolSt (gateOpened s g.val p.val e) p.val = poolSt s p.val := by rw [poolSt, hkeeps.pool]; rfl
  refine ⟨_, exec_saltMigrationDone e hmigr hfence, ?_, fun hgone hothers => ?_, fun hinq k hk hne hcont => ?_⟩
  · split
    · rw [(keepsGates_drainIn _).migr hcanon, hopen, if_pos rfl]
    · rw [(keepsGates_drainIn _).migr (setPoolSt_canon _ _ _ hcanon)]
      exact (hopen g.val).trans (if_pos rfl)
  · have hnone : ¬ ((List.range 16).any fun k => (bg (gateOpened s g.val p.val e) k).migr.contains p.val) = true := by
      rw [Bool.not_eq_true, List.any_eq_false]
      intro k hk
      rw [hopen]
      split
      · rw [hgone]; exact Bool.false_ne_true
      · next hne => rw [hothers k (List.mem_range.mp hk) hne]; exact Bool.false_ne_true
    rw [if_neg hnone, poolSt, (keepsGates_drainIn _).pool]
    refine (congrArg PoolSt.changes (poolSt_setPoolSt_self hcanon p.val _)).trans ?_
    rw [hpool]
  · have hsome : ((List.range 16).any fun k => (bg (gateOpened s g.val p.val e) k).migr.contains p.val) = true :=
      List.any_eq_true.mpr ⟨k, List.mem_range.mpr hk, by rw [hopen, if_neg hne]; exact hcont⟩
    have hq : (gateOpened s g.val p.val e).ports.inq = [] := by rw [hframe]; exact hinq
    rw [if_pos hsome, drainIn_nothing (.inl hq)]
    exact hframe

/-- The state in which a group's row has been read for the scrubber. -/
def rowRead (s : State) (g r : Nat) : State :=
  { grantRow (setBg s g { bg s g with pos := BitVec.ofNat 12 (r + 1) }) g with
    fresh := (grantRow (setBg s g { bg s g with pos := BitVec.ofNat 12 (r + 1) }) g).fresh + 2 }

/-- The word of a row that the scrubber's codes look at, of free choice. -/
def scrubWord (s : State) (g r : Nat) (ls : List Nat) : Nat :=
  let u := grantRow (setBg s g { bg s g with pos := BitVec.ofNat 12 (r + 1) }) g
  ls.getD (Config.pick u.fresh % 8) 0 + 8 * (Config.pick (u.fresh + 1) % 16)

/-- What the scrubber's codes find in the word that they look at. -/
def scrubbed (s : State) (g w : Nat) (ecc : Ecc) : State :=
  match ecc with
  | .clean => s
  | .corrected => scrubEvent s g w false
  | .uncorrectable =>
    if s.stage.bad.contains w then s
    else if (placeOf s w).isNone then scrubEvent s g w true
    else { s with stage := { s.stage with bad := s.stage.bad ++ [w] } }

theorem pos_bgEcc {s : State} (hs : Canon s) (g corr uncorr k : Nat) : (bg (bgEcc s g corr uncorr) k).pos = (bg s k).pos := by
  unfold bgEcc
  extract_lets b
  by_cases hk : k = g
  · subst hk
    rw [bg_setBg_self hs]
  · rw [bg_setBg_other hs _ _ hk]

/-- A step of the scrubber: banks alone, and no group's place. -/
structure KeepsPos (s t : State) : Prop where
  frame : OnlyBanks s t
  canon : Canon s → Canon t
  pos : Canon s → ∀ k, (bg t k).pos = (bg s k).pos

theorem KeepsPos.refl (s : State) : KeepsPos s s := ⟨.refl s, id, fun _ _ => rfl⟩

theorem KeepsPos.trans {s t u : State} (h : KeepsPos s t) (k : KeepsPos t u) : KeepsPos s u :=
  ⟨h.frame.trans k.frame, fun hs => k.canon (h.canon hs), fun hs i => (k.pos (h.canon hs) i).trans (h.pos hs i)⟩

theorem keepsPos_foldl {α : Type} {g : State → α → State} (h : ∀ s a, KeepsPos s (g s a)) (l : List α) (s : State) : KeepsPos s (l.foldl g s) := by
  induction l generalizing s with
  | nil => exact .refl s
  | cons a l ih => exact (h s a).trans (ih _)

theorem keepsPos_raise (s : State) (source a b island : Nat) : KeepsPos s (raise s source a b island) :=
  ⟨(onlyAon_raise _ _ _ _ _).onlyBanks, raise_canon _ _ _ _ _, fun _ k => by rw [bg, raise_stage, bg]⟩

theorem keepsPos_bgEcc (s : State) (g corr uncorr : Nat) : KeepsPos s (bgEcc s g corr uncorr) :=
  ⟨rfl, bgEcc_canon _ _ _ _, fun hs k => pos_bgEcc hs g corr uncorr k⟩

theorem keepsPos_eccEvents (s : State) (off : Nat) (bad : Bool) (n : Nat) : KeepsPos s (eccEvents s off bad n) := by
  unfold eccEvents
  split
  · exact (keepsPos_bgEcc s _ _ _).trans (keepsPos_raise _ _ _ _ _)
  · exact .refl s

theorem keepsPos_scrubEvent (s : State) (g w : Nat) (bad : Bool) : KeepsPos s (scrubEvent s g w bad) := by
  unfold scrubEvent
  split
  · exact keepsPos_eccEvents s w bad 1
  · exact (keepsPos_bgEcc s _ _ _).trans (keepsPos_raise _ _ _ _ _)

theorem keepsPos_scrubbed (s : State) (g w : Nat) (ecc : Ecc) : KeepsPos s (scrubbed s g w ecc) := by
  unfold scrubbed
  split
  · exact .refl s
  · exact keepsPos_scrubEvent s g w false
  · split
    · exact .refl s
    · split
      · exact keepsPos_scrubEvent s g w true
      · exact ⟨rfl, fun hs => { hs with }, fun _ _ => rfl⟩

theorem keepsPos_grantRow (s : State) (g : Nat) : KeepsPos s (grantRow s g) :=
  keepsPos_foldl (g := fun s b => grantBank s (8 * g + b) 35) (fun _ _ => ⟨rfl, grantBank_canon _ _ _, fun _ _ => rfl⟩) _ s

theorem scrubRow_next {s : State} {g : Fin 16} (e : Ecc) {r : Nat} {ls : List Nat} (hs : Canon s) (hdis : (bg s g.val).scrubDis = false)
    (hfence : (bg s g.val).fence.getLsbD 35 = false) (hpow : powered s (0x14 + g.val) = true)
    (hrow : nextRow s g.val 4096 (bg s g.val).pos.toNat = some (r, ls)) :
    ∃ t, exec (.scrubRow g e) s = .next t ∧ (bg t g.val).pos = BitVec.ofNat 12 (r + 1) ∧ OnlyBanks s t := by
  let u := setBg s g.val { bg s g.val with pos := BitVec.ofNat 12 (r + 1) }
  have hcond : ¬ ((bg s g.val).scrubDis || (bg s g.val).fence.getLsbD 35 || !powered s (0x14 + g.val)) = true := by
    rw [hdis, hfence, hpow]; decide
  let w := scrubWord s g.val r ls
  have hexec : exec (.scrubRow g e) s = .next ((ls.flatMap fun o => badWords (scrubbed (rowRead s g.val r) g.val w e) o fullBe).foldl
      (fun s o => eccEvent s o true) (scrubbed (rowRead s g.val r) g.val w e)) := by
    simp only [exec, execScrubRow]
    rw [if_neg hcond, hrow]
    rfl
  have hkeeps : KeepsPos u ((ls.flatMap fun o => badWords (scrubbed (rowRead s g.val r) g.val w e) o fullBe).foldl
      (fun s o => eccEvent s o true) (scrubbed (rowRead s g.val r) g.val w e)) := by
    have hfresh : KeepsPos (grantRow u g.val) (rowRead s g.val r) := ⟨rfl, fun hc => { hc with }, fun _ _ => rfl⟩
    exact (keepsPos_grantRow u g.val).trans (hfresh.trans ((keepsPos_scrubbed _ g.val w e).trans
      (keepsPos_foldl (fun v o => keepsPos_eccEvents v o true 1) _ _)))
  refine ⟨_, hexec, ?_, .trans (t := u) rfl hkeeps.frame⟩
  rw [hkeeps.pos (setBg_canon _ _ _ hs), bg_setBg_self hs]

/-! ### The grant watchdog (R197) -/

/-- What a discarded transfer touches. -/
theorem discardLine_keeps (s : State) (line : Option Nat) : (discardLine s line).stage = s.stage ∧ (discardLine s line).aon = s.aon := by
  have hfold : ∀ (l : List Nat) (g : State → Nat → State) (t : State), (∀ u k, (g u k).stage = u.stage ∧ (g u k).aon = u.aon) →
      (l.foldl g t).stage = t.stage ∧ (l.foldl g t).aon = t.aon := by
    intro l g t hg
    induction l generalizing t with
    | nil => exact ⟨rfl, rfl⟩
    | cons k l ih => exact ⟨(ih _).1.trans (hg t k).1, (ih _).2.trans (hg t k).2⟩
  unfold discardLine
  split
  · exact ⟨rfl, rfl⟩
  · next id =>
    split
    · exact ⟨rfl, rfl⟩
    · next l _ =>
      extract_lets t
      split
      · exact hfold _ _ t fun _ _ => ⟨rfl, rfl⟩
      · refine hfold _ (unholdAt id) t fun u k => ?_
        unfold unholdAt
        split <;> exact ⟨rfl, rfl⟩

theorem exec_grantWatchdogBite {s : State} (a : Arb) (i : BitVec 6) (line : Option Nat) (h : s.boot.phase = .running) :
    exec (.grantWatchdogBite a i line) s = .next (match a with
      | .bank b => raise (setBg (discardLine s line) (b.val / 8) { bg (discardLine s line) (b.val / 8) with
          bites := satAdd 8 (bg (discardLine s line) (b.val / 8)).bites 1, input := i
          fence := putBit (bg (discardLine s line) (b.val / 8)).fence i.toNat true }) (0x58 + b.val / 8) b.val i.toNat (0x14 + b.val / 8)
      | .mem m => raise { discardLine s line with stage := { (discardLine s line).stage with
          fenceMem := tset (fun _ => 0) (discardLine s line).stage.fenceMem m.val
            (putBit (tget (fun _ => 0) (discardLine s line).stage.fenceMem m.val) i.toNat true) } } (0x68 + m.val) 0 i.toNat (0x2C + m.val / 2)
      | .core n => raise { discardLine s line with stage := { (discardLine s line).stage with
          fenceCore := tset (fun _ => 0) (discardLine s line).stage.fenceCore n.val
            (putBit (tget (fun _ => 0) (discardLine s line).stage.fenceCore n.val) i.toNat true) } } (0x70 + n.val) 0 i.toNat (0x30 + n.val / 2)
      | .link p => raise { discardLine s line with stage := { (discardLine s line).stage with
          fenceLink := tset (fun _ => 0) (discardLine s line).stage.fenceLink p.val
            (putBit (tget (fun _ => 0) (discardLine s line).stage.fenceLink p.val) i.toNat true) } } (0x80 + p.val) 0 i.toNat (0x24 + p.val)) := by
  have hrun : ¬ (s.boot.phase != .running) = true := by simp [h]
  simp only [exec, execGrantWatchdogBite]
  rw [if_neg hrun]
  cases a <;> rfl

theorem bite_cases {s : State} (i : BitVec 6) (line : Option Nat) (hs : Canon s) (h : s.boot.phase = .running) :
    (∀ b : Fin 128, ∃ t, exec (.grantWatchdogBite (.bank b) i line) s = .next t
      ∧ bg t (b.val / 8) = { bg s (b.val / 8) with
          bites := min ((bg s (b.val / 8)).bites + 1) 255, input := i, fence := putBit (bg s (b.val / 8)).fence i.toNat true }
      ∧ Crosses s t (0x58 + b.val / 8) b.val i.toNat (0x14 + b.val / 8))
    ∧ (∀ m : Port, ∃ t, exec (.grantWatchdogBite (.mem m) i line) s = .next t ∧ Crosses s t (0x68 + m.val) 0 i.toNat (0x2C + m.val / 2)
      ∧ tget (fun _ => 0) t.stage.fenceMem m.val = putBit (tget (fun _ => 0) s.stage.fenceMem m.val) i.toNat true)
    ∧ (∀ n : CPort, ∃ t, exec (.grantWatchdogBite (.core n) i line) s = .next t ∧ Crosses s t (0x70 + n.val) 0 i.toNat (0x30 + n.val / 2)
      ∧ tget (fun _ => 0) t.stage.fenceCore n.val = putBit (tget (fun _ => 0) s.stage.fenceCore n.val) i.toNat true)
    ∧ ∀ p : Port, ∃ t, exec (.grantWatchdogBite (.link p) i line) s = .next t ∧ Crosses s t (0x80 + p.val) 0 i.toNat (0x24 + p.val)
      ∧ tget (fun _ => 0) t.stage.fenceLink p.val = putBit (tget (fun _ => 0) s.stage.fenceLink p.val) i.toNat true := by
  obtain ⟨hstage, haon⟩ := discardLine_keeps s line
  have hbg : ∀ g, bg (discardLine s line) g = bg s g := fun g => by rw [bg, hstage, bg]
  have hcross : ∀ {u : State} (source a b island : Nat), u.aon = (discardLine s line).aon → Crosses s (raise u source a b island) source a b island :=
    fun source a b island hu => crosses_raise_of (by rw [hu, haon]) source a b island
  refine ⟨fun b => ⟨_, exec_grantWatchdogBite (.bank b) i line h, ?_, hcross _ _ _ _ rfl⟩,
    fun m => ⟨_, exec_grantWatchdogBite (.mem m) i line h, hcross _ _ _ _ rfl, ?_⟩,
    fun n => ⟨_, exec_grantWatchdogBite (.core n) i line h, hcross _ _ _ _ rfl, ?_⟩,
    fun p => ⟨_, exec_grantWatchdogBite (.link p) i line h, hcross _ _ _ _ rfl, ?_⟩⟩
  · dsimp only
    rw [bg, raise_stage, hbg]
    exact tget_tset_self _ _ (by rw [hstage]; exact hs.bg)
  · dsimp only
    rw [raise_stage, hstage]
    exact tget_tset_self _ _ hs.fenceMem
  · dsimp only
    rw [raise_stage, hstage]
    exact tget_tset_self _ _ hs.fenceCore
  · dsimp only
    rw [raise_stage, hstage]
    exact tget_tset_self _ _ hs.fenceLink

/-- Settles O46: windows, migrations, scrubbed rows and bites, each with what it leaves. -/
theorem stageKeepsItself : Obligations.StageKeepsItself := by
  unfold Obligations.StageKeepsItself
  refine ⟨?_, ?_, ?_, ?_, ?_, ?_⟩
  · intro s g p cnt c hs hc
    exact placementWindow_cases cnt hs hc
  · intro s g p hfence e
    have hm : (!(bg s g.val).migr.contains p.val || (bg s g.val).fence.getLsbD 35) = true := by rw [hfence, Bool.or_true]
    have hr : ((bg s g.val).scrubDis || (bg s g.val).fence.getLsbD 35 || !powered s (0x14 + g.val)) = true := by
      rw [hfence, Bool.or_true, Bool.true_or]
    exact ⟨if_pos hm, if_pos hr⟩
  · intro s g p e hs hmigr hfence
    exact saltMigration_cases e hs hmigr hfence
  · intro s g e r ls hs hdis hfence hpow hrow
    obtain ⟨t, hexec, hpos, hframe⟩ := scrubRow_next e hs hdis hfence hpow hrow
    exact ⟨t, hexec, hpos, by rw [hframe], by rw [hframe]⟩
  · intro s a i line h
    exact if_pos (bne_iff_ne.mpr h)
  · intro s i line hs h
    exact bite_cases i line hs h

end Sys2Proof.Proofs
end

section
/-! Control descriptors: how their streams end and wait, and DRAIN, DEP and FENCE (R67, R271, R283, R380). -/

namespace Sys2Proof.Proofs

open Sys2Proof Sys2Proof.Machine Sys2Proof.Laws

/-! ### Streams that may act, end and wait -/

theorem fresh_of_decoded {s : State} {c : Nat} {x : Stream} {t : Nat} (h : Decoded s c x t) : fresh s c t = some x := by
  obtain ⟨hacts, hst, hty⟩ := h
  exact acting_of_acts hacts (by simp [hst, hty])

theorem waiting_of_acts {s : State} {c : Nat} {x : Stream} (h : Acts s c x) (hst : x.st = .started) {p : Wait → Bool} (hp : p x.wait = true) :
    waiting s c p = some x := acting_of_acts h (by simp [hst, hp])

/-- A stream that has not started waits for nothing as a started one does. -/
theorem waiting_of_decoded {s : State} {c : Nat} {x : Stream} {t : Nat} (h : Decoded s c x t) (p : Wait → Bool) : waiting s c p = none := by
  obtain ⟨⟨hon, hrun, hctx, hhere, hslot⟩, hst, _⟩ := h
  simp [waiting, acting, hon, hrun, hctx, hhere, hst]

theorem finish_of_stream {s : State} {c : Nat} {x : Stream} (h : stream s c = some x) (code d : Nat) : finish s c code d = ended s c x code d :=
  modStream_of_stream h _

theorem beginWait_of_stream {s : State} {c : Nat} {x : Stream} (h : stream s c = some x) (w : Wait) : beginWait s c w = waits s c x w :=
  modStream_of_stream (s := { s with order := s.order + 1 }) h _

theorem stream_ended (s : State) (c : Nat) (x : Stream) (code d : Nat) :
    stream (ended s c x code d) c = some { x with st := .done code d, wait := .none } := stream_setStream _ _ _

theorem stream_waits (s : State) (c : Nat) (x : Stream) (w : Wait) :
    stream (waits s c x w) c = some { x with st := .started, wait := w, stamp := s.order } := stream_setStream _ _ _

theorem chan_ended_other {s : State} (hs : Canon s) (c : Nat) (x : Stream) (code d : Nat) {k : Nat} (hk : k ≠ c) :
    chan (ended s c x code d) k = chan s k := chan_setStream_other hs hk _

theorem chan_ended (s : State) (c : Nat) (x : Stream) (code d : Nat) :
    chan (ended s c x code d) c = { chan s c with stream := some { x with st := .done code d, wait := .none } } := chan_setStream _ _ _

theorem ended_canon {s : State} (hs : Canon s) (c : Nat) (x : Stream) (code d : Nat) : Canon (ended s c x code d) := setStream_canon _ _ _ hs

/-! ### Late errors and count-back points (R58, R380) -/

theorem reportLate_ends {s : State} (hs : Canon s) {c : Nat} {x : Stream} (h : stream s c = some x) (e : LateErr) :
    Canon (reportLate s c e) ∧ chan (reportLate s c e) c = { chan s c with
      late := (chan s c).late.erase e, stream := some { x with st := .done e.code e.detail, wait := .none } } := by
  have hchan := chan_setChan_self hs c { chan s c with late := (chan s c).late.erase e }
  have hstream : stream (setChan s c { chan s c with late := (chan s c).late.erase e }) c = some x := by
    rw [stream, hchan]
    exact h
  have hreport : reportLate s c e = ended (setChan s c { chan s c with late := (chan s c).late.erase e }) c x e.code e.detail :=
    finish_of_stream hstream _ _
  rw [hreport]
  exact ⟨ended_canon (setChan_canon _ _ _ hs) _ _ _ _, by rw [chan_ended, hchan]⟩

theorem chan_countBack {s : State} (hs : Canon s) (c : Nat) : chan (countBack s c) c = { chan s c with gen := (chan s c).gen + 1 } :=
  chan_setChan_self hs c _

theorem chan_countBack_other {s : State} (hs : Canon s) {c k : Nat} (hk : k ≠ c) : chan (countBack s c) k = chan s k :=
  chan_setChan_other hs c _ hk

/-! ### A wait for writes (R67, R271) -/

theorem orderOp_late {s : State} {c : Nat} {p : Nat → Nat → Bool} {e : LateErr} (h : lateErr s c p = some e) (w : Wait) (act : State → State) :
    orderOp s c p w act = act (reportLate s c e) := by
  unfold orderOp
  rw [h]

theorem orderOp_done {s : State} {c : Nat} {x : Stream} (hx : stream s c = some x) {p : Nat → Nat → Bool} (hlate : lateErr s c p = none)
    (hout : writesOut s c p = false) (w : Wait) (act : State → State) : orderOp s c p w act = act (ended s c x cOK 0) := by
  unfold orderOp
  rw [hlate, hout, finish_of_stream hx]
  rfl

theorem orderOp_waits {s : State} {c : Nat} {x : Stream} (hx : stream s c = some x) {p : Nat → Nat → Bool} (hlate : lateErr s c p = none)
    (hout : writesOut s c p = true) {w : Wait} (hw : x.wait ≠ w) (act : State → State) : orderOp s c p w act = waits s c x w := by
  have hne : ¬ (x.wait == w) = true := by simpa using hw
  unfold orderOp
  rw [hlate, hout, hx]
  exact (if_neg hne).trans (beginWait_of_stream hx w)

/-! ### DRAIN and DEP (R67, R283) -/

theorem depOp_of_decoded {s : State} {c : Nat} {x : Stream} (h : Decoded s c x 7) : depOp s c (tw x.desc 0 4) = some x := by
  unfold depOp
  rw [fresh_of_decoded h]
  exact if_pos rfl

theorem exec_drain {s : State} {c : Ch} {x : Stream} (h : Decoded s c.val x 7) (hk : tw x.desc 0 4 = 0) :
    exec (.drain c) s = .next (orderOp s c.val (fun _ _ => true) .drain id) := by
  have hdep := depOp_of_decoded h
  rw [hk] at hdep
  exact if_pos (by rw [hdep]; rfl)

theorem drain_cases {s : State} {c : Ch} {x : Stream} (h : Decoded s c.val x 7) (hk : tw x.desc 0 4 = 0) :
    let late := lateErr s c.val (fun _ _ => true)
    let out := writesOut s c.val (fun _ _ => true)
    (late = none → out = false → exec (.drain c) s = .next (ended s c.val x cOK 0))
    ∧ (late = none → out = true → x.wait ≠ .drain → exec (.drain c) s = .next (waits s c.val x .drain))
    ∧ (∀ e, Canon s → late = some e → ∃ t, exec (.drain c) s = .next t ∧ (chan t c.val).late = (chan s c.val).late.erase e
        ∧ stream t c.val = some { x with st := .done e.code e.detail, wait := .none }) := by
  intro late out
  have hx := h.acts.here
  rw [exec_drain h hk]
  refine ⟨fun hlate hout => by rw [orderOp_done hx hlate hout, id], fun hlate hout hw => by rw [orderOp_waits hx hlate hout hw],
    fun e hs hlate => ⟨reportLate s c.val e, by rw [orderOp_late hlate, id], ?_⟩⟩
  obtain ⟨_, hchan⟩ := reportLate_ends hs hx e
  exact ⟨by rw [hchan], by rw [stream, hchan]⟩

theorem sext_toNat (v : BitVec 16) : sext v.toNat 16 = v.toInt := by
  rw [sext, Nat.mod_eq_of_lt v.isLt, BitVec.toInt]
  have hlt := v.isLt
  split <;> split <;> omega

theorem depChannel_next {s : State} {c : Ch} {x : Stream} (h : Decoded s c.val x 7) (hk : tw x.desc 0 4 = 1) :
    let d := dW x.desc 2 0 9
    chState s d ≠ .disabled → chanSecure s d = chanSecure s c.val →
    exec (.depChannel c) s = .next (if 0 ≤ ((chan s d).seq - BitVec.ofNat 16 (dW x.desc 2 16 16)).toInt
      then ended s c.val x cOK 0 else waits s c.val x .chan) := by
  intro d hst hsec
  have hdep := depOp_of_decoded h
  rw [hk] at hdep
  have hok : ¬ (chState s d == .disabled || chanSecure s d != chanSecure s c.val) = true := by simp [hst, hsec]
  have hreached : seqReached s d (dW x.desc 2 16 16) = decide (0 ≤ ((chan s d).seq - BitVec.ofNat 16 (dW x.desc 2 16 16)).toInt) := by
    rw [seqReached, sext_toNat]
  simp only [exec, execDepChannel, hdep]
  rw [if_neg hok, hreached, finish_of_stream h.acts.here, beginWait_of_stream h.acts.here]
  by_cases hge : 0 ≤ ((chan s d).seq - BitVec.ofNat 16 (dW x.desc 2 16 16)).toInt
  · rw [if_pos hge, if_pos (decide_eq_true hge)]
  · rw [if_neg hge, if_neg (by simpa using hge)]

/-- The object of a virtual ID that the channel's context and world may use (R284, R285). -/
theorem barUse_ok {s : State} {c v o : Nat} (ho : barObj s (chanCfg s c).ctx v = some o) (hworld : chanSecure s c = true ∨ barSecure s o = false) :
    barUse s c v = .ok o := by
  have hrange : ¬ ((ctx s (chanCfg s c).ctx).count ≤ v ∨ 4095 < (ctx s (chanCfg s c).ctx).base + v)
      ∧ o = (ctx s (chanCfg s c).ctx).base + v := by
    unfold barObj at ho
    extract_lets k b at ho
    split at ho
    · cases ho
    · next hr =>
      refine ⟨hr, ?_⟩
      split at ho
      · split at ho
        · exact (Option.some.inj ho).symm
        · cases ho
      · exact (Option.some.inj ho).symm
  obtain ⟨hr, rfl⟩ := hrange
  have hsec : ¬ (!chanSecure s c && barSecure s ((ctx s (chanCfg s c).ctx).base + v)) = true := by
    rcases hworld with h | h <;> simp [h]
  unfold barUse
  extract_lets i k b
  rw [if_neg hr, if_neg hsec, ho]

theorem depBarrier_next {s : State} {c : Ch} {x : Stream} {o : Nat} (h : Decoded s c.val x 7) (hk : tw x.desc 0 4 = 2)
    (ho : barObj s (chanCfg s c.val).ctx (dpBvid x.desc) = some o) (hworld : chanSecure s c.val = true ∨ barSecure s o = false)
    (hab : (bar s o).st ≠ .abandoned) (hpo : (bar s o).st ≠ .poisoned) :
    exec (.depBarrier c) s = .next (waits s c.val x (.barrier o (bar s o).epoch true)) := by
  have hdep := depOp_of_decoded h
  rw [hk] at hdep
  simp only [exec, execDepBarrier, hdep, barUse_ok ho hworld]
  congr 1
  unfold barWait
  rw [bne_self_eq_false, if_neg Bool.false_ne_true, ← beginWait_of_stream h.acts.here]
  split
  · next hst => exact absurd hst hab
  · next hst => exact absurd hst hpo
  · rfl

/-! ### FENCE (R271) -/

theorem fenceOp_of_decoded {s : State} {c : Nat} {x : Stream} (h : Decoded s c x 8) : fenceOp s c (tw x.desc 2 2) = some x := by
  unfold fenceOp
  rw [fresh_of_decoded h]
  exact if_pos rfl

/-- The command of a fence of kind `k`. -/
def fenceCmd (c : Ch) (k : Nat) : Instr := if k = 0 then .fenceRelease c else if k = 1 then .fenceAcquire c else .fenceFull c

theorem exec_fence {s : State} {c : Ch} {x : Stream} (h : Decoded s c.val x 8) {k : Fin 3} (hk : tw x.desc 2 2 = k.val) :
    exec (fenceCmd c k.val) s = .next (if k.val = 1 then countBack (ended s c.val x cOK 0) c.val else fenceWait s c.val x) := by
  have hop := fenceOp_of_decoded h
  rw [hk] at hop
  rw [← finish_of_stream h.acts.here]
  match k with
  | 0 => simp only [fenceCmd, exec, execFenceRelease, Fin.val_zero] at hop ⊢; simp [hop]
  | 1 => simp only [fenceCmd, exec, execFenceAcquire, Fin.val_one] at hop ⊢; simp [hop]
  | 2 => simp only [fenceCmd, exec, execFenceFull, Fin.val_two] at hop ⊢; simp [hop]

/-- What a fence that completes leaves. -/
theorem fenced_frame {s : State} (hs : Canon s) (c : Nat) (x : Stream) : let t := countBack (ended s c x cOK 0) c
    t = { s with chans := t.chans } ∧ (∀ d, d ≠ c → chan t d = chan s d)
      ∧ chan t c = { chan s c with gen := (chan s c).gen + 1, stream := some { x with st := .done cOK 0, wait := .none } } := by
  intro t
  have hcanon := ended_canon hs c x cOK 0
  exact ⟨rfl, fun d hd => (chan_countBack_other hcanon hd).trans (chan_ended_other hs c x cOK 0 hd), by rw [chan_countBack hcanon, chan_ended]⟩

theorem fence_cases {s : State} {c : Ch} {x : Stream} {k : Fin 3} (hs : Canon s) (h : Decoded s c.val x 8) (hk : tw x.desc 2 2 = k.val) :
    let scope := tw x.desc 0 2
    (lateErr s c.val (fun _ cls => decide (cls ≤ scope)) = none →
      (k.val = 1 ∨ writesOut s c.val (fun _ cls => decide (cls ≤ scope)) = false →
        ∃ t, exec (fenceCmd c k.val) s = .next t ∧ t = { s with chans := t.chans } ∧ (∀ d, d ≠ c.val → chan t d = chan s d)
          ∧ chan t c.val = { chan s c.val with
              gen := (chan s c.val).gen + 1, stream := some { x with st := .done cOK 0, wait := .none } })
      ∧ (k.val ≠ 1 → writesOut s c.val (fun _ cls => decide (cls ≤ scope)) = true → x.wait ≠ .fence scope →
          exec (fenceCmd c k.val) s = .next (waits s c.val x (.fence scope))))
    ∧ (∀ e, k.val ≠ 1 → lateErr s c.val (fun _ cls => decide (cls ≤ scope)) = some e →
        ∃ t, exec (fenceCmd c k.val) s = .next t ∧ (chan t c.val).late = (chan s c.val).late.erase e ∧ (chan t c.val).gen = (chan s c.val).gen + 1
          ∧ stream t c.val = some { x with st := .done e.code e.detail, wait := .none }) := by
  intro scope
  have hx := h.acts.here
  have hexec := exec_fence h hk
  refine ⟨fun hlate => ⟨fun hdone => ?_, fun hkind hout hw => ?_⟩, fun e hkind hlate => ?_⟩
  · have hnext : exec (fenceCmd c k.val) s = .next (countBack (ended s c.val x cOK 0) c.val) := by
      rw [hexec]
      split
      · rfl
      · next hne => rw [fenceWait, orderOp_done hx hlate (hdone.resolve_left hne)]
    exact ⟨_, hnext, fenced_frame hs c.val x⟩
  · rw [hexec, if_neg hkind, fenceWait, orderOp_waits hx hlate hout hw]
  · obtain ⟨hcanon, hchan⟩ := reportLate_ends hs hx e
    refine ⟨_, by rw [hexec, if_neg hkind, fenceWait, orderOp_late hlate], ?_⟩
    have hback := chan_countBack hcanon c.val
    exact ⟨by rw [hback, hchan], by rw [hback, hchan], by rw [stream, hback, hchan]⟩

/-- Settles O37: each ordering descriptor completes, waits, or reports the late error that it meets. -/
theorem orderingDescriptors : Obligations.OrderingDescriptors := by
  unfold Obligations.OrderingDescriptors
  refine ⟨?_, ?_, ?_, ?_⟩
  · intro s c x h hk
    exact drain_cases h hk
  · intro s c x h hk
    exact depChannel_next h hk
  · intro s c x o h hk ho hworld hab hpo
    exact depBarrier_next h hk ho hworld hab hpo
  · intro s c x k hs h hk
    exact fence_cases hs h hk

end Sys2Proof.Proofs
end

section
/-! Reads that precede tiles, mailbox sources and polls: the requests that go out and what an answered read leaves (R62, R69, R75). -/

namespace Sys2Proof.Proofs

open Sys2Proof Sys2Proof.Machine Sys2Proof.Laws

/-! ### Steps that only send reads -/

/-- Only the channels, the requests of the block, their numbers, the ports' turns and the output move. -/
def OnlyReads (s t : State) : Prop := t = { s with
  chans := t.chans, path := { s.path with nextId := t.path.nextId }, stage := { s.stage with rankMem := t.stage.rankMem }
  ports := { s.ports with own := t.ports.own }, out := t.out }

theorem OnlyReads.refl (s : State) : OnlyReads s s := rfl

theorem OnlyReads.trans {s t u : State} (h : OnlyReads s t) (k : OnlyReads t u) : OnlyReads s u := by
  unfold OnlyReads at h k ⊢
  rw [h] at k
  exact k

theorem OnlyReads.img {s t : State} (h : OnlyReads s t) : t.img = s.img := by rw [h]
theorem OnlyReads.aon {s t : State} (h : OnlyReads s t) : t.aon = s.aon := by rw [h]
theorem OnlyReads.boot {s t : State} (h : OnlyReads s t) : t.boot = s.boot := by rw [h]
theorem OnlyReads.hub {s t : State} (h : OnlyReads s t) : t.hub = s.hub := by rw [h]
theorem OnlyReads.fresh {s t : State} (h : OnlyReads s t) : t.fresh = s.fresh := by rw [h]

theorem onlyReads_setChan (s : State) (c : Nat) (x : Chan) : OnlyReads s (setChan s c x) := rfl

theorem onlyReads_modStream (s : State) (c : Nat) (f : Stream → Stream) : OnlyReads s (modStream s c f) := by
  unfold modStream
  split
  · exact onlyReads_setChan _ _ _
  · rfl

/-- One place's request of a read of external memory. -/
def sendOne (s : State) (c size : Nat) (vol : Bool) (scope pa k : Nat) : State :=
  let m := memPortOf s pa
  let r := ownReq (grantMem s m (chanCfg s c).mover) m 0 pa (.poll c k)
  emit r.1 (.fab m 0 size pa (!chanSecure s c) vol scope (r.2 % 65536) 0 0)

theorem onlyReads_sendOne (s : State) (c size : Nat) (vol : Bool) (scope pa k : Nat) :
    OnlyReads s (sendOne s c size vol scope pa k) ∧ (sendOne s c size vol scope pa k).chans = s.chans := ⟨rfl, rfl⟩

/-- Whether a place of a read is in external memory. -/
def IsExt (l : Loc) : Prop := ∃ pa, l = .ext pa

theorem IsExt.line {l : Loc} (h : IsExt l) (b : Bool) : IsExt (if b then locLine l else l) := by
  obtain ⟨pa, rfl⟩ := h
  cases b
  · exact ⟨pa, rfl⟩
  · exact ⟨pa / 128 * 128, rfl⟩

theorem sendReads_onlyReads {s : State} (c prio size : Nat) (vol : Bool) (scope : Nat) {locs : List Loc} (hext : ∀ l ∈ locs, IsExt l) :
    OnlyReads s (sendReads s c prio size vol scope locs) ∧ (sendReads s c prio size vol scope locs).chans = s.chans := by
  unfold sendReads
  extract_lets lane ns
  refine List.foldlRecOn (motive := fun t => OnlyReads s t ∧ t.chans = s.chans) _ _ ⟨.refl s, rfl⟩ fun t ht q hq => ?_
  obtain ⟨hframe, hchans⟩ := ht
  have hloc := (hext q.1 (List.fst_mem_of_mem_zipIdx hq)).line (size = 3 || isRemote q.1)
  extract_lets loc l
  clear_value l
  change IsExt loc at hloc
  clear_value loc
  obtain ⟨pa, rfl⟩ := hloc
  split
  · exact ⟨hframe, hchans⟩
  · exact ⟨hframe.trans rfl, hchans⟩

theorem chan_of_chans {s t : State} (h : t.chans = s.chans) (c : Nat) : chan t c = chan s c := by rw [chan, h]; rfl

theorem stream_of_chans {s t : State} (h : t.chans = s.chans) (c : Nat) : stream t c = stream s c := by rw [stream, chan_of_chans h, stream]

/-! ### The leaves that a read has found (R62, R245) -/

theorem preLeaf_found {s : State} {c va : Nat} {x : Stream} {e : XEnt} (hx : stream s c = some x) (hva : va < 2 ^ 49)
    (he : x.pre.find? (fun e => e.region == va / 2 ^ 25) = some e) (opnd : Nat) : preLeaf s c opnd va false = (s, some e.leaf) := by
  have hp : (fun e : XEnt => e.region == va % 2 ^ 49 / 2 ^ 25 && (e.leaf.w || !false)) = fun e => e.region == va / 2 ^ 25 := by
    funext e
    rw [Nat.mod_eq_of_lt hva, Bool.not_false, Bool.or_true, Bool.and_true]
  unfold preLeaf
  simp only [hx, hp, he]

theorem preLeaves_found {s : State} {c va n : Nat} {x : Stream} {e : XEnt} (hx : stream s c = some x) (hva : va < 2 ^ 49)
    (hone : (va + (n - 1)) / 2 ^ 25 = va / 2 ^ 25) (he : x.pre.find? (fun e => e.region == va / 2 ^ 25) = some e) (opnd : Nat) :
    preLeaves s c opnd va n = (s, some [e]) := by
  have hregion : e.region = va / 2 ^ 25 := by simpa using List.find?_some he
  have hmod : (va / 2 ^ 25 + 0) % 2 ^ 24 = e.region := by rw [hregion]; omega
  unfold preLeaves
  simp only [hone, Nat.sub_self, Nat.zero_add, List.range_one, List.foldl_cons, List.foldl_nil, if_pos, preLeaf_found hx hva he,
    Option.map_some, List.nil_append, hmod]

/-! ### An answered read of external memory (R62, R69, R75) -/

theorem chan_modStream_self {s : State} {c : Nat} {x : Stream} (hx : stream s c = some x) (f : Stream → Stream) :
    chan (modStream s c f) c = { chan s c with stream := some (f x) } := by
  rw [modStream_of_stream hx, chan_setStream]

theorem chan_modStream_other {s : State} (hs : Canon s) {c d : Nat} (h : d ≠ c) (f : Stream → Stream) : chan (modStream s c f) d = chan s d := by
  unfold modStream
  split
  · exact chan_setStream_other hs h _
  · rfl

theorem onlyReads_recDone (s : State) (c : Nat) (late : List Nat) : OnlyReads s (recDone s c late) :=
  (onlyReads_modStream s c _).trans rfl

theorem readsOnly_of_frame {s t : State} {c : Nat} (h : OnlyReads s t) (others : ∀ d, d ≠ c → chan t d = chan s d)
    (here : chan t c = { chan s c with stream := stream t c }) : ReadsOnly s t c := ⟨h, others, here⟩

theorem readsOnly_recDone {s t : State} {c : Nat} {x : Stream} (h : OnlyReads s t) (hchans : t.chans = s.chans)
    (hcanon : Canon t) (hx : stream s c = some x) (late : List Nat) :
    ReadsOnly s (recDone t c late) c ∧ stream (recDone t c late) c = some { x with pre := [] } ∧ Canon (recDone t c late) := by
  have hxt : stream t c = some x := (stream_of_chans hchans c).trans hx
  have hself : chan (recDone t c late) c = { chan t c with stream := some { x with pre := [] } } :=
    chan_modStream_self hxt fun x => { x with pre := [] }
  have hstream : stream (recDone t c late) c = some { x with pre := [] } := by rw [stream, hself]
  refine ⟨readsOnly_of_frame (h.trans (onlyReads_recDone t c late)) (fun d hd => ?_) ?_, hstream, recDone_canon _ _ _ hcanon⟩
  · exact (chan_modStream_other hcanon hd fun x => { x with pre := [] }).trans (chan_of_chans hchans d)
  · rw [hstream, hself, chan_of_chans hchans]

theorem recProbe_ext (s : State) (c : Nat) {locs : List Loc} (hext : ∀ l ∈ locs, IsExt l) : recProbe s c locs = (s, false) := by
  unfold recProbe
  refine List.foldlRecOn (motive := fun p => p = (s, false)) _ _ rfl fun p hp l hl => ?_
  obtain ⟨pa, rfl⟩ := hext l hl
  exact hp

theorem remoteFails_ext (s : State) (c prio wd : Nat) {locs : List Loc} (hext : ∀ l ∈ locs, IsExt l) : remoteFails s c prio wd locs = none := by
  unfold remoteFails
  rw [List.findSome?_eq_none_iff]
  intro q hq
  obtain ⟨pa, hpa⟩ := hext q.1 (List.fst_mem_of_mem_zipIdx hq)
  rw [hpa]
  rfl

theorem own_ext (s : State) {locs : List Loc} (hext : ∀ l ∈ locs, IsExt l) : (locs.filter fun l => autoErr s l false false) = [] := by
  rw [List.filter_eq_nil_iff]
  intro l hl
  obtain ⟨pa, rfl⟩ := hext l hl
  exact Bool.false_ne_true

/-- A read of external memory that nothing fails ends with the bytes that `readByte` gives. -/
theorem recEnd_ext (s : State) (c va n prio wd : Nat) (es : List XEnt) {locs : List Loc} (hext : ∀ l ∈ locs, IsExt l) (bs : List Byte) :
    recEnd s c va n prio wd es locs ⟨bs, []⟩ = (recDone s c [], some (.ok ((List.range n).map fun k =>
      readByte (recDone s c []) (((List.range locs.length).map (pollPkt s c)).getD ((va % 128 + k) / 128) none) locs[(va % 128 + k) / 128]? es
        (va + k) (bs.getD k 0)))) := by
  unfold recEnd
  extract_lets fs far pks s1 s2 own p fail
  have hs2 : s2 = recDone s c [] := rfl
  have hown : own = [] := own_ext s2 hext
  have hp : p = (s2, false) := by
    change recProbe (own.foldl _ s2) c locs = _
    rw [hown]
    exact recProbe_ext s2 c hext
  have hfail : fail = none := by
    change (if !own.isEmpty || p.2 then some (cECC, 0, true) else _) = none
    rw [hown, hp]
    change (match far with | some e => some e | none => _) = none
    rw [show far = none from remoteFails_ext s c prio wd hext]
    rfl
  rw [hfail, hp, hs2]

/-- The place of a byte of a read is that of its line. -/
theorem readByte_ext {s : State} {pk : Option (Nat × LineData)} {loc : Option Loc} (hloc : ∀ l, loc = some l → IsExt l) {e : XEnt} {va : Nat}
    (hva : va < 2 ^ 49) (hext : IsExt (leafLoc s e.leaf va)) (b : Byte) : readByte s pk loc [e] va b = b := by
  have hrec : recByte s [e] va b = b := by
    obtain ⟨pa, hpa⟩ := hext
    unfold recByte
    rw [Nat.mod_eq_of_lt hva]
    split
    · next e' he =>
      have : e' = e := List.mem_singleton.mp (List.mem_of_find?_eq_some he)
      rw [this, hpa]
    · rfl
  unfold readByte
  split
  · next hl =>
    obtain ⟨pa, hpa⟩ := hloc _ rfl
    cases hpa
  · exact hrec

theorem leafLoc_of_boot {s t : State} (h : t.boot = s.boot) (l : Leaf) (va : Nat) : leafLoc t l va = leafLoc s l va := by
  unfold leafLoc locOf gbase
  rw [h]

theorem recRead_readable {s : State} {c va n : Nat} {x : Stream} (hs : Canon s) (hx : stream s c = some x) (h : Readable s c x va n)
    {bs : List Byte} (hlen : n ≤ bs.length) (opnd path wd : Nat) :
    ∃ t, recRead s c opnd va n (some ⟨bs, []⟩) path wd = (t, some (.ok (bs.take n))) ∧ ReadsOnly s t c ∧ Canon t
      ∧ stream t c = some { x with pre := [] } := by
  obtain ⟨hsec, hlow, hpos, hone, e, he, hlocs, hbytes⟩ := h
  have hext : ∀ l ∈ recLocs s [e] va n, IsExt l := fun l hl => (hlocs l hl).1
  have hva : va < 2 ^ 49 := by omega
  have habs : ¬ (recLocs s [e] va n).any (absentCore s) = true := by
    simp only [List.any_eq_true, not_exists, not_and]
    intro l hl
    obtain ⟨pa, rfl⟩ := hext l hl
    exact Bool.false_ne_true
  have hworld : (recLocs s [e] va n).find? (worldBad s c) = none := by
    rw [List.find?_eq_none]
    intro l _
    simp [worldBad, hsec]
  have hready : ((recLocs s [e] va n).find? fun l => !locReady s l) = none := by
    rw [List.find?_eq_none]
    intro l hl
    simp [(hlocs l hl).2.1]
  have hgate : ¬ anyGate s (recLocs s [e] va n) = true := by
    simp only [anyGate, List.any_eq_true, not_exists, not_and]
    intro l hl
    obtain ⟨pa, rfl⟩ := hext l hl
    exact Bool.false_ne_true
  have hnotRemote : ∀ l ∈ recLocs s [e] va n, isRemote l = false := by
    intro l hl
    obtain ⟨pa, rfl⟩ := hext l hl
    rfl
  have hsent : remoteSent s c (recLocs s [e] va n) = true := by
    simp only [remoteSent, List.all_eq_true]
    intro q hq
    rw [hnotRemote _ (List.fst_mem_of_mem_zipIdx hq)]
    rfl
  have hremote : (recLocs s [e] va n).any isRemote = false := List.any_eq_false.mpr fun l hl => by simp [hnotRemote l hl]
  have hwaits : readWaits s c (recLocs s [e] va n) [] = false := by
    simp only [readWaits, latePlaces, List.filter_nil, List.map_nil, List.isEmpty_nil, Bool.true_and, List.any_eq_false]
    intro q hq
    have hmem := List.fst_mem_of_mem_zipIdx hq
    rw [(hlocs _ hmem).2.2, hnotRemote _ hmem]
    exact Bool.false_ne_true
  obtain ⟨hframe, hchans⟩ := sendReads_onlyReads (s := s) c (dPrio x.desc) 3 false 0 hext
  have hcanon := sendReads_canon s c (dPrio x.desc) 3 false 0 (recLocs s [e] va n) hs
  obtain ⟨hreads, hstream, hcanon'⟩ := readsOnly_recDone hframe hchans hcanon hx []
  have hdata : ∀ k < n, ∀ pk, readByte (recDone (sendReads s c (dPrio x.desc) 3 false 0 (recLocs s [e] va n)) c []) pk
      (recLocs s [e] va n)[(va % 128 + k) / 128]? [e] (va + k) (bs.getD k 0) = bs.getD k 0 := by
    intro k hk pk
    refine readByte_ext (fun l hl => hext l (List.mem_of_getElem? hl)) (by omega) ?_ _
    rw [leafLoc_of_boot (hframe.trans (onlyReads_recDone _ c [])).boot]
    exact hbytes k hk
  refine ⟨_, ?_, hreads, hcanon', hstream⟩
  unfold recRead
  rw [preLeaves_found hx hva hone he]
  simp only [hx]
  rw [if_neg habs]
  simp only [hworld, hready]
  rw [if_neg hgate, hsent, if_neg (by decide)]
  simp only [Option.getD_some, Option.isNone_some, Bool.and_false, Bool.false_or]
  rw [show lineFails (recLocs s [e] va n) [] = [] from rfl, hwaits, if_neg (by decide), hremote, if_neg (by decide), recEnd_ext _ _ _ _ _ _ _ hext]
  congr 3
  refine List.ext_getElem (by simp [hlen]) fun k hk hk' => ?_
  have hkn : k < n := by simpa using hk
  rw [List.getElem_map, List.getElem_range, hdata k hkn, List.getElem_take, List.getD_eq_getElem _ _ (by omega)]

end Sys2Proof.Proofs
end

section
/-! REARM, MAILBOX and ADVISE (R59, R68, R69, R259, R260, R297). -/

namespace Sys2Proof.Proofs

open Sys2Proof Sys2Proof.Machine Sys2Proof.Laws

/-! ### Refusals of a stream (R76) -/

theorem refuseStream_of_stream {s : State} {c : Nat} {x : Stream} (h : stream s c = some x) (d : Nat) :
    refuseStream s c d = refuse (ended s c x cSTATE d) x.addr d (feIsland c) := by
  unfold refuseStream
  rw [h, finish_of_stream h]

/-- A refused stream is done, and one event crosses. -/
theorem refuseStream_result {s : State} {c : Nat} {x : Stream} (h : stream s c = some x) (d : Nat) :
    refuseStream s c d = { ended s c x cSTATE d with aon := (refuseStream s c d).aon, fresh := (refuseStream s c d).fresh }
      ∧ Crosses s (refuseStream s c d) 0x04 x.addr d (feIsland c)
      ∧ stream (refuseStream s c d) c = some { x with st := .done cSTATE d, wait := .none } ∧ (refuseStream s c d).hub = s.hub := by
  rw [refuseStream_of_stream h]
  have hframe := onlyAon_raise (ended s c x cSTATE d) 0x04 x.addr d (feIsland c)
  refine ⟨hframe, crosses_raise_of rfl _ _ _ _, ?_, hframe.hub⟩
  exact (stream_of_chans (s := ended s c x cSTATE d) hframe.chans c).trans (stream_ended _ _ _ _ _)

/-! ### Steps that keep every stream -/

/-- A step that keeps every channel's record. -/
structure KeepsChans (s t : State) : Prop where
  canon : Canon s → Canon t
  chans : t.chans = s.chans

theorem KeepsChans.refl (s : State) : KeepsChans s s := ⟨id, rfl⟩

theorem KeepsChans.trans {s t u : State} (h : KeepsChans s t) (k : KeepsChans t u) : KeepsChans s u :=
  ⟨fun hs => k.canon (h.canon hs), k.chans.trans h.chans⟩

theorem keepsChans_foldl {α : Type} {g : State → α → State} (h : ∀ s a, KeepsChans s (g s a)) (l : List α) (s : State) :
    KeepsChans s (l.foldl g s) := by
  induction l generalizing s with
  | nil => exact .refl s
  | cons a l ih => exact (h s a).trans (ih _)

theorem keepsChans_poolTrigger (s : State) (p : Nat) : KeepsChans s (poolTrigger s p) := by
  refine ⟨poolTrigger_canon s p, ?_⟩
  unfold poolTrigger
  split
  · rfl
  · extract_lets x t
    split
    · exact (keepsChans_foldl (g := fun s g => setBg s g { bg s g with migr := dedup ((bg s g).migr ++ [p]) })
        (fun s g => ⟨setBg_canon s g _, rfl⟩) _ t).chans
    · rfl

theorem keepsChans_poolRearm (s : State) (c : Nat) : KeepsChans s (poolRearm s c) := by
  unfold poolRearm
  refine keepsChans_foldl (fun s p => ?_) _ _
  split
  · exact keepsChans_poolTrigger s p
  · exact .refl s

theorem OnlyClk.keepsChans {s t : State} (h : OnlyClk s t) (hcanon : Canon s → Canon t) : KeepsChans s t := ⟨hcanon, h.chans⟩

theorem keepsChans_needMover (s : State) (m : Nat) : KeepsChans s (needMover s m) := (onlyClk_needMover s m).keepsChans (needMover_canon s m)

theorem KeepsChans.chan {s t : State} (h : KeepsChans s t) (c : Nat) : chan t c = chan s c := chan_of_chans h.chans c

theorem KeepsChans.stream {s t : State} (h : KeepsChans s t) (c : Nat) : stream t c = stream s c := stream_of_chans h.chans c

/-! ### REARM (R59, R68) -/

theorem rearmOp_of_decoded {s : State} {c : Nat} {x : Stream} (h : Decoded s c x 9) : rearmOp s c (rStop x.desc) = some x := by
  unfold rearmOp
  rw [fresh_of_decoded h]
  exact if_pos (beq_self_eq_true _)

theorem rearmTarget_none {s : State} {c d : Nat} (h : chState s d ≠ .parked ∨ (chanCfg s d).ctx ≠ (chanCfg s c).ctx) : rearmTarget s c d = none := by
  refine if_neg ?_
  simp only [Bool.and_eq_true, beq_iff_eq]
  exact fun hh => h.elim (· hh.1) (· hh.2)

theorem rearmTarget_some {s : State} {c d : Nat} {y : Stream} (h : chState s d = .parked) (hctx : (chanCfg s d).ctx = (chanCfg s c).ctx)
    (hy : stream s d = some y) : rearmTarget s c d = some y := by
  unfold rearmTarget
  rw [if_pos (by simp [h, hctx]), hy]

/-- The target's stream with the bases that a REARM's WHICH selects. -/
def rebased (d : DescData) (y : Stream) : Stream := { y with
  src := if rWhich d % 2 = 1 then dVa d 2 else y.src
  dst := if rWhich d / 2 % 2 = 1 then dVa d 3 else y.dst
  index := if rWhich d / 4 % 2 = 1 then dVa d 4 else y.index
  scale := if rWhich d / 8 % 2 = 1 then dVa d 5 else y.scale }

/-- The target of a REARM starts its next run. -/
def rearmRuns (s : State) (d : Nat) (x y : Stream) : State :=
  setChan s d { chan s d with st := .running, stream := some (rebased x.desc y) }

/-- The state behind a REARM that is accepted. -/
def rearmed (s : State) (c d : Nat) (x y : Stream) : State :=
  poolRearm (needMover (finish (rearmRuns s d x y) c cOK 0) (chanCfg (rearmRuns s d x y) d).mover) d

/-- The state behind a REARM with STOP that is accepted. -/
def rearmStopped (s : State) (c d : Nat) (y : Stream) : State :=
  poolRearm (moveOn (finish (setChan s d { chan s d with st := .running }) c cOK 0) d { y with desc := y.desc &&& ~~~(1#512 <<< 12) } cOK false) d

theorem exec_rearm {s : State} {c : Ch} {x : Stream} (h : Decoded s c.val x 9) (hstop : rStop x.desc = false) : exec (.rearm c) s =
    .next (match rearmTarget s c.val (rTchan x.desc) with
      | none => refuseStream s c.val 7
      | some y => if rearmFails x.desc y ≠ [] then refuseStream s c.val 5
        else if (chan s (rTchan x.desc)).recOut.isSome then s else rearmed s c.val (rTchan x.desc) x y) := by
  have hop := rearmOp_of_decoded h
  rw [hstop] at hop
  simp only [exec, execRearm, hop]
  cases rearmTarget s c.val (rTchan x.desc) with
  | none => rfl
  | some y =>
    have hempty : (!(rearmFails x.desc y).isEmpty) = true ↔ rearmFails x.desc y ≠ [] := by simp
    simp only [hempty, apply_ite Host.Outcome.next]
    rfl

theorem exec_rearmStop {s : State} {c : Ch} {x : Stream} (h : Decoded s c.val x 9) (hstop : rStop x.desc = true) : exec (.rearmStop c) s =
    .next (match rearmTarget s c.val (rTchan x.desc) with
      | none => refuseStream s c.val 7
      | some y => if (chan s (rTchan x.desc)).recOut.isSome then s else rearmStopped s c.val (rTchan x.desc) y) := by
  have hop := rearmOp_of_decoded h
  rw [hstop] at hop
  simp only [exec, execRearmStop, hop]
  cases rearmTarget s c.val (rTchan x.desc) with
  | none => rfl
  | some y => exact (apply_ite Host.Outcome.next _ _ _).symm

/-- The target of a REARM that is accepted is another channel than the one that runs it. -/
theorem rearm_other {s : State} {c d : Nat} {x : Stream} (h : Acts s c x) (hd : chState s d = .parked) : c ≠ d := by
  rintro rfl
  exact absurd (h.run.symm.trans hd) (by decide)

theorem rearmed_result {s : State} (hs : Canon s) {c d : Nat} {x y : Stream} (hx : stream s c = some x) (hcd : c ≠ d) :
    stream (rearmed s c d x y) c = some { x with st := .done cOK 0, wait := .none }
      ∧ chan (rearmed s c d x y) d = { chan s d with st := .running, stream := some (rebased x.desc y) } := by
  have hcanon : Canon (rearmRuns s d x y) := setChan_canon _ _ _ hs
  have hself : chan (rearmRuns s d x y) d = { chan s d with st := .running, stream := some (rebased x.desc y) } := chan_setChan_self hs d _
  have hother : stream (rearmRuns s d x y) c = some x := by
    rw [stream, rearmRuns, chan_setChan_other hs d _ hcd]
    exact hx
  have hkeeps : KeepsChans (ended (rearmRuns s d x y) c x cOK 0) (rearmed s c d x y) := by
    unfold rearmed
    rw [finish_of_stream hother]
    exact (keepsChans_needMover _ _).trans (keepsChans_poolRearm _ d)
  rw [hkeeps.stream, hkeeps.chan, stream_ended, chan_ended_other hcanon _ _ _ _ hcd.symm]
  exact ⟨rfl, hself⟩

/-- A field that does not hold bit 12. -/
theorem fld_clearBit12 (d : DescData) {lo n : Nat} (h : 12 < lo ∨ lo + n ≤ 12) : fld (d &&& ~~~(1#512 <<< 12)) lo n = fld d lo n := by
  have hfld : ∀ y : DescData, fld y lo n = (y.extractLsb' lo n).toNat := fun y => by rw [fld, BitVec.extractLsb'_toNat]
  rw [hfld, hfld]
  congr 1
  refine BitVec.eq_of_getLsbD_eq fun i hi => ?_
  have hne : lo + i ≠ 12 := by omega
  have hbit : (1#512 <<< 12).getLsbD (lo + i) = false := by
    rw [show (1#512 <<< 12) = BitVec.twoPow 512 12 from rfl, BitVec.getLsbD_twoPow]
    simp [hne.symm]
  simp only [BitVec.getLsbD_extractLsb', BitVec.getLsbD_and, BitVec.getLsbD_not, hbit]
  by_cases hlt : lo + i < 512
  · simp [hlt]
  · simp [hlt, BitVec.getLsbD_of_ge d (lo + i) (by omega)]

theorem dPersist_clearBit12 (d : DescData) : dPersist (d &&& ~~~(1#512 <<< 12)) = false := by
  rw [dPersist, bitOf, BitVec.getLsbD_and, BitVec.getLsbD_not, show (1#512 <<< 12) = BitVec.twoPow 512 12 from rfl, BitVec.getLsbD_twoPow]
  simp

theorem dChain_clearBit12 (d : DescData) : dChain (d &&& ~~~(1#512 <<< 12)) = dChain d := fld_clearBit12 d (.inr (by decide))

theorem nextAddr_clearBit12 (a : Nat) (d : DescData) : nextAddr a (d &&& ~~~(1#512 <<< 12)) = nextAddr a d := by
  unfold nextAddr
  have hnext : dNext (d &&& ~~~(1#512 <<< 12)) = dNext d := congrArg (· * 64) (fld_clearBit12 d (.inl (by decide)))
  rw [dChain_clearBit12, hnext]

/-- A stream that holds its slot is left as it is where free slots are filled. -/
theorem stream_fillSlots_slot (n : Nat) {s : State} (hs : Canon s) (m : Nat) {c : Nat} {x : Stream} (hx : stream s c = some x)
    (hslot : x.slot = true) : stream (fillSlots n s m) c = some x := by
  induction n generalizing s with
  | zero => exact hx
  | succ n ih =>
    unfold fillSlots
    extract_lets ws
    clear_value ws
    split
    · exact hx
    · cases ws with
      | nil => exact hx
      | cons w rest =>
        dsimp -zeta only
        extract_lets b u
        clear_value b
        have hcanon : Canon (setSlots u m (slots u m ++ [b])) := setSlots_canon _ _ _ { hs with }
        have hu : stream (setSlots u m (slots u m ++ [b])) c = some x := hx
        refine ih (modStream_canon _ _ _ hcanon) ?_
        by_cases hb : b = c
        · subst hb
          rw [stream_modStream_self _ hu, ← hslot]
        · rw [stream, chan_modStream_other hcanon (Ne.symm hb)]
          exact hu

/-- The stream of another channel that holds its slot behind a completion. -/
theorem stream_moveOn_other {s : State} (hs : Canon s) {c d : Nat} (h : d ≠ c) {x y : Stream} (hp : dPersist x.desc = false)
    (hy : stream s d = some y) (hslot : y.slot = true) : stream (moveOn s c x cOK false) d = some y := by
  have hset : ∀ {u : State}, Canon u → ∀ k, stream (setChan u c k) d = stream u d := fun hu k => by rw [stream, chan_setChan_other hu _ _ h, stream]
  have hends : stream (endsAs s c .running (nextHead x false)) d = some y := by
    refine stream_fillSlots_slot _ ?_ _ ?_ hslot
    · have hcanon := setChan_canon s c { chan s c with st := .running, head := nextHead x false, stream := none } hs
      exact setSlots_canon _ _ _ { hcanon with }
    · exact (hset hs _).trans hy
  rw [← hends, moveOn_good (by decide) hp]
  have hu := endsAs_canon hs c .running (nextHead x false)
  generalize endsAs s c .running (nextHead x false) = u at hu ⊢
  have hdrop : Canon (dropFetch u c) := dropFetch_canon _ _ hu
  dsimp only
  split
  · split
    · obtain ⟨v, hstart, -, hv, -, hothers, -⟩ := startRun_restarted hu c
      rw [hstart, (pumps_pumpFetch v c).stream hv, stream, hothers d h, stream]
    · exact (hset hdrop _).trans (hset hu _)
  · rw [(pumps_pumpFetch _ c).stream (runsDry_canon hu c)]
    unfold runsDry
    split
    · extract_lets q v
      have hv : Canon v := setFe_canon _ _ _ hu
      split
      · rfl
      · exact hset hv _
    · rfl

theorem rearmStopped_result {s : State} (hs : Canon s) {c d : Nat} {x : Stream} (hx : Acts s c x) (hcd : c ≠ d) (y : Stream) :
    let t := rearmStopped s c d y
    stream t c = some { x with st := .done cOK 0, wait := .none } ∧ stream t d = none
      ∧ (chan t d).seq = (chan s d).seq ∧ (chan t d).head = BitVec.ofNat 52 (nextAddr y.addr y.desc)
      ∧ (dChain y.desc = 2 → (chan s d).pending = false → (chan t d).st = .idle) := by
  have hcanon : Canon (setChan s d { chan s d with st := .running }) := setChan_canon _ _ _ hs
  have hself := chan_setChan_self hs d { chan s d with st := .running }
  have hother : stream (setChan s d { chan s d with st := .running }) c = some x := by
    rw [stream, chan_setChan_other hs d _ hcd]
    exact hx.here
  have hended := ended_canon hcanon c x cOK 0
  have hchan : chan (ended (setChan s d { chan s d with st := .running }) c x cOK 0) d = { chan s d with st := .running } := by
    rw [chan_ended_other hcanon _ _ _ _ hcd.symm, hself]
  obtain ⟨hmoves, -⟩ := chan_moveOn_good hended (c := d) (x := { y with desc := y.desc &&& ~~~(1#512 <<< 12) }) (code := cOK) (by decide)
    (dPersist_clearBit12 y.desc) false
  have hkept := stream_moveOn_other hended hcd (x := { y with desc := y.desc &&& ~~~(1#512 <<< 12) }) (dPersist_clearBit12 y.desc)
    (stream_ended (setChan s d { chan s d with st := .running }) c x cOK 0) hx.slot
  have hkeeps := keepsChans_poolRearm (moveOn (ended (setChan s d { chan s d with st := .running }) c x cOK 0) d
    { y with desc := y.desc &&& ~~~(1#512 <<< 12) } cOK false) d
  unfold rearmStopped
  rw [finish_of_stream hother]
  intro t
  rw [hkeeps.stream, hkeeps.stream, hkeeps.chan]
  refine ⟨hkept, hmoves.stream, ?_, ?_, fun hchain hpend => ?_⟩
  · rw [hmoves.seq, hchan]
  · rw [hmoves.head, nextHead, if_neg Bool.false_ne_true, nextAddr_clearBit12]
  · rw [hmoves.st, hchan]
    exact if_pos ⟨(dChain_clearBit12 _).trans hchain, hpend⟩

/-- The command of a REARM, with or without STOP. -/
def rearmCmd (c : Ch) (stop : Bool) : Instr := if stop then .rearmStop c else .rearm c

theorem rearm_cases {s : State} {c : Ch} {x : Stream} {stop : Bool} (hs : Canon s) (h : Decoded s c.val x 9) (hstop : rStop x.desc = stop) :
    let d := rTchan x.desc
    let w := rWhich x.desc
    ∃ t, exec (rearmCmd c stop) s = .next t
      ∧ (chState s d ≠ .parked ∨ (chanCfg s d).ctx ≠ (chanCfg s c.val).ctx →
          t = { ended s c.val x cSTATE 7 with aon := t.aon, fresh := t.fresh } ∧ Crosses s t 0x04 x.addr 7 (feIsland c.val))
      ∧ (∀ y, chState s d = .parked → (chanCfg s d).ctx = (chanCfg s c.val).ctx → stream s d = some y →
          ((chan s d).recOut ≠ none → stop = true ∨ rearmFails x.desc y = [] → t = s)
          ∧ (stop = false → rearmFails x.desc y = [] → (chan s d).recOut = none → stream t c.val = some { x with st := .done cOK 0, wait := .none }
            ∧ (chan t d).st = .running ∧ (chan t d).seq = (chan s d).seq ∧ stream t d = some { y with
                src := if w % 2 = 1 then dVa x.desc 2 else y.src
                dst := if w / 2 % 2 = 1 then dVa x.desc 3 else y.dst
                index := if w / 4 % 2 = 1 then dVa x.desc 4 else y.index
                scale := if w / 8 % 2 = 1 then dVa x.desc 5 else y.scale })
          ∧ (stop = true → (chan s d).recOut = none → stream t c.val = some { x with st := .done cOK 0, wait := .none } ∧ stream t d = none
            ∧ (chan t d).seq = (chan s d).seq ∧ (chan t d).head = BitVec.ofNat 52 (nextAddr y.addr y.desc)
            ∧ (dChain y.desc = 2 → (chan s d).pending = false → (chan t d).st = .idle))) := by
  intro d w
  have hx := h.acts.here
  have hrefused := refuseStream_result hx 7
  have hisSome : (chan s d).recOut ≠ none → (chan s d).recOut.isSome = true := Option.isSome_iff_ne_none.mpr
  have hisNone : (chan s d).recOut = none → ¬ (chan s d).recOut.isSome = true := fun hn => by rw [hn]; exact Bool.false_ne_true
  cases stop with
  | false =>
    refine ⟨_, exec_rearm h hstop, fun hno => ?_, fun y hpark hctx hy => ?_⟩
    · rw [rearmTarget_none hno]
      exact ⟨hrefused.1, hrefused.2.1⟩
    · rw [rearmTarget_some hpark hctx hy]
      refine ⟨fun hout hok => ?_, fun _ hok hout => ?_, fun hf => absurd hf (by decide)⟩
      · have hfails := hok.resolve_left (by decide)
        dsimp only
        rw [if_neg (not_not.mpr hfails), if_pos (hisSome hout)]
      · obtain ⟨hc, hd⟩ := rearmed_result (y := y) hs hx (rearm_other h.acts hpark)
        dsimp only
        rw [if_neg (not_not.mpr hok), if_neg (hisNone hout)]
        exact ⟨hc, by rw [hd], by rw [hd], by rw [stream, hd]; rfl⟩
  | true =>
    refine ⟨_, exec_rearmStop h hstop, fun hno => ?_, fun y hpark hctx hy => ?_⟩
    · rw [rearmTarget_none hno]
      exact ⟨hrefused.1, hrefused.2.1⟩
    · rw [rearmTarget_some hpark hctx hy]
      refine ⟨fun hout _ => ?_, fun hf => absurd hf (by decide), fun _ hout => ?_⟩
      · exact if_pos (hisSome hout)
      · dsimp only
        rw [if_neg (hisNone hout)]
        exact rearmStopped_result hs h.acts (rearm_other h.acts hpark) y

/-! ### MAILBOX (R69, R297) -/

theorem stream_ringDoorbell {s : State} (hs : Canon s) (c d : Nat) : stream (ringDoorbell s c) d = stream s d := by
  by_cases hd : d = c
  · subst hd
    have hrefused : ∀ k, stream (doorbellRefused s d k) d = stream s d := fun k => by
      rw [stream, chan_doorbellRefused_self hs, stream]
    by_cases hdis : chState s d = .disabled
    · rw [ringDoorbell_disabled hdis, hrefused]
    by_cases hb : (chan s d).blocked = true
    · rw [ringDoorbell_blocked hb, hrefused]
    by_cases hi : chState s d = .idle
    · rw [ringDoorbell_idle hi (by simpa using hb)]
      split
      · rw [hrefused]
      · obtain ⟨-, -, -, -, la, hla⟩ := doorbellRuns_starts hs d _ (startFetch_starts (doorbellRuns_canon hs d) d _)
        rw [stream, hla, stream]
    · rw [ringDoorbell_busy hdis hi (by simpa using hb)]
      rw [stream, (doorbellPends_result hs d).2.2.2, stream]
  · exact congrArg Chan.stream ((rung_ringDoorbell hs c).others d hd)

theorem Rung.hub {s t : State} {c : Nat} (h : Rung s t c) : t.hub = s.hub := by rw [h.frame]

theorem OnlyClk.hub {s t : State} (h : OnlyClk s t) : t.hub = s.hub := by rw [h]

theorem pendSrc_chans (s : State) (k : Nat) : (pendSrc s k).chans = s.chans := by rw [pendSrc_frame]
theorem pendSrc_hub' (s : State) (k : Nat) : (pendSrc s k).hub = s.hub := by rw [pendSrc_frame]

/-- What a mailbox's GO raises leaves every stream and the hub. -/
theorem mbGo_result {s : State} (hs : Canon s) (m : Nat) :
    (∀ d, stream (mbGo s m) d = stream s d) ∧ mb (mbGo s m) m = { mb s m with go := true } := by
  have hcanon : Canon (setMb s m { mb s m with go := true }) := setMb_canon _ _ _ hs
  have hself : mb (setMb s m { mb s m with go := true }) m = { mb s m with go := true } := mb_setMb_self hs m _
  have hkept : (∀ d, stream (mbGo s m) d = stream (setMb s m { mb s m with go := true }) d)
      ∧ (mbGo s m).hub = (setMb s m { mb s m with go := true }).hub := by
    unfold mbGo
    extract_lets src u k
    have hu : Canon u := hcanon
    split
    · have hneed := onlyClk_need (ringDoorbell u k.target) (0x3C + k.target / 128)
      exact ⟨fun d => (stream_of_chans hneed.chans d).trans (stream_ringDoorbell hu _ d), hneed.hub.trans (rung_ringDoorbell hu _).hub⟩
    · split
      · exact ⟨fun d => stream_of_chans (pendSrc_chans u 0) d, pendSrc_hub' u 0⟩
      · split
        · have hneed := onlyClk_need u 0x3B
          exact ⟨fun d => stream_of_chans hneed.chans d, hneed.hub⟩
        · exact ⟨fun _ => rfl, rfl⟩
  obtain ⟨hstreams, hhub⟩ := hkept
  refine ⟨fun d => (hstreams d).trans rfl, ?_⟩
  rw [mb, hhub]
  exact hself

/-- The words that a fold over the first `m` places replaces. -/
theorem getElem_foldl_setIfInBounds {α : Type} {n : Nat} (f : Nat → α) (len : Nat) (v : Vector α n) (m : Nat) {k : Nat} (hk : k < n) :
    ((List.range m).foldl (fun w k => if k < len then w.setIfInBounds k (f k) else w) v)[k] = if k < m ∧ k < len then f k else v[k] := by
  induction m with
  | zero => simp
  | succ m ih =>
    rw [List.range_succ, List.foldl_append, List.foldl_cons, List.foldl_nil]
    by_cases hkm : k = m
    · subst hkm
      by_cases hl : k < len
      · simp [hl]
      · simp [hl, ih]
    · have hiff : (k < m + 1 ∧ k < len) ↔ (k < m ∧ k < len) := by omega
      simp only [hiff, ← ih]
      split
      · exact Vector.getElem_setIfInBounds_ne hk (Ne.symm hkm)
      · rfl

/-- A mailbox behind the words and LEN of a MAILBOX. -/
def mbFilled (b : Mb) (x : Stream) (ws : List W32) : Mb := { b with
  words := (List.range 16).foldl (fun w k => if k < tw x.desc 5 5 then w.setIfInBounds k ((mbWords x ws).getD k 0) else w) b.words
  len := tw x.desc 5 5 }

/-- A mailbox is filled, and the descriptor is done. -/
theorem mbFill_result {s : State} (hs : Canon s) {c : Nat} {x y : Stream} (hy : stream s c = some y) (ws : List W32) :
    stream (mbFill s c x ws) c = some { y with st := .done cOK 0, wait := .none }
      ∧ mb (mbFill s c x ws) (tw x.desc 0 5) = { mbFilled (mb s (tw x.desc 0 5)) x ws with go := bitOf x.desc 43 || (mb s (tw x.desc 0 5)).go } := by
  have hfill : mbFill s c x ws = if bitOf x.desc 43 then mbGo (finish (setMb s (tw x.desc 0 5) (mbFilled (mb s (tw x.desc 0 5)) x ws)) c cOK 0)
      (tw x.desc 0 5) else finish (setMb s (tw x.desc 0 5) (mbFilled (mb s (tw x.desc 0 5)) x ws)) c cOK 0 := rfl
  generalize tw x.desc 0 5 = m at *
  have hcanon : Canon (setMb s m (mbFilled (mb s m) x ws)) := setMb_canon _ _ _ hs
  have hmb : mb (ended (setMb s m (mbFilled (mb s m) x ws)) c y cOK 0) m = mbFilled (mb s m) x ws := mb_setMb_self hs m _
  have hsame : stream (setMb s m (mbFilled (mb s m) x ws)) c = some y := hy
  have hended := ended_canon hcanon c y cOK 0
  rw [hfill, finish_of_stream hsame]
  cases bitOf x.desc 43 with
  | false => exact ⟨stream_ended _ _ _ _ _, hmb⟩
  | true =>
    obtain ⟨hstreams, hgo⟩ := mbGo_result hended m
    rw [if_pos rfl, hstreams, hgo, hmb]
    exact ⟨stream_ended _ _ _ _ _, rfl⟩

theorem getElem_mbFilled (b : Mb) (x : Stream) (ws : List W32) {k : Nat} (hk : k < 16) :
    (mbFilled b x ws).words[k] = if k < tw x.desc 5 5 then (mbWords x ws).getD k 0 else b.words[k] := by
  refine (getElem_foldl_setIfInBounds (fun k => (mbWords x ws).getD k 0) (tw x.desc 5 5) b.words 16 hk).trans ?_
  simp only [hk, true_and]

theorem getD_mbWords_inline {x : Stream} (h : bitOf x.desc 42 = true) (ws : List W32) {k : Nat} (hk : k < 12) :
    (mbWords x ws).getD k 0 = BitVec.ofNat 32 (fld x.desc (128 + 32 * k) 32) := by
  rw [mbWords, if_pos h, List.getD_eq_getElem _ _ (by simpa using hk), List.getElem_map, List.getElem_range]

theorem getD_mbWords_read {x : Stream} (h : bitOf x.desc 42 = false) (f : Nat → W32) (n : Nat) {k : Nat} (hk : k < n) :
    (mbWords x ((List.range n).map f)).getD k 0 = f k := by
  rw [mbWords, if_neg (by rw [h]; decide), List.getD_eq_getElem _ _ (by simpa using hk), List.getElem_map, List.getElem_range]

/-- What a MAILBOX does once its words are there. -/
structure Posted (s t : State) (c : Nat) (x y : Stream) (word : Nat → W32) (island : Nat) : Prop where
  fills : (mb s (tw x.desc 0 5)).go = false → stream t c = some { y with st := .done cOK 0, wait := .none }
    ∧ (mb t (tw x.desc 0 5)).go = bitOf x.desc 43 ∧ (mb t (tw x.desc 0 5)).len = tw x.desc 5 5
    ∧ ∀ k, (h : k < 16) → (mb t (tw x.desc 0 5)).words[k] = if k < tw x.desc 5 5 then word k else (mb s (tw x.desc 0 5)).words[k]
  waits : (mb s (tw x.desc 0 5)).go = true → bitOf x.desc 44 = true → ∃ ws,
    stream t c = some { y with st := .started, wait := .mailbox ws, stamp := s.order } ∧ t.hub = s.hub
  refused : (mb s (tw x.desc 0 5)).go = true → bitOf x.desc 44 = false → stream t c = some { y with st := .done cSTATE 8, wait := .none }
    ∧ t.hub = s.hub ∧ Crosses s t 0x04 y.addr 8 island

theorem posted_mbPost {s : State} (hs : Canon s) {c : Nat} {x y : Stream} (hy : stream s c = some y) {ws : List W32} {word : Nat → W32}
    (hwords : ∀ k, k < 16 → k < tw x.desc 5 5 → (mbWords x ws).getD k 0 = word k) :
    Posted s (mbPost s c x ws) c x y word (feIsland c) := by
  unfold mbPost
  extract_lets m
  refine ⟨fun hgo => ?_, fun hgo hwait => ?_, fun hgo hwait => ?_⟩
  · obtain ⟨hstream, hmb⟩ := mbFill_result hs (x := x) hy ws
    rw [if_pos (show (!(mb s m).go) = true by rw [show (mb s m).go = false from hgo]; rfl)]
    refine ⟨hstream, ?_, by rw [hmb]; rfl, fun k hk => ?_⟩
    · rw [hmb, hgo, Bool.or_false]
    · have hk' : (mb (mbFill s c x ws) (tw x.desc 0 5)).words[k] = (mbFilled (mb s (tw x.desc 0 5)) x ws).words[k] := by rw [hmb]
      rw [hk', getElem_mbFilled _ _ _ hk]
      split
      · next hl => exact hwords k hk hl
      · rfl
  · rw [if_neg (show ¬ (!(mb s m).go) = true by rw [show (mb s m).go = true from hgo]; decide), if_pos hwait, beginWait_of_stream hy]
    exact ⟨ws, stream_waits _ _ _ _, rfl⟩
  · obtain ⟨-, hcross, hstream, hhub⟩ := refuseStream_result hy 8
    rw [if_neg (show ¬ (!(mb s m).go) = true by rw [show (mb s m).go = true from hgo]; decide), if_neg (by rw [hwait]; decide)]
    exact ⟨hstream, hhub, hcross⟩

theorem Posted.of_reads {s u t : State} {c : Nat} {x y : Stream} {word : Nat → W32} {i : Nat} (h : Posted u t c x y word i) (hr : OnlyReads s u) :
    Posted s t c x y word i := by
  have hmb : ∀ m, mb u m = mb s m := fun m => by rw [mb, hr.hub]; rfl
  have hord : u.order = s.order := by rw [hr]
  have hcross : ∀ {a b j}, Crosses u t 0x04 a b j → Crosses s t 0x04 a b j := fun hc => by
    unfold Crosses at hc ⊢
    rw [← hr.aon]
    exact hc
  refine ⟨fun hgo => ?_, fun hgo hw => ?_, fun hgo hw => ?_⟩
  · rw [← hmb] at hgo ⊢
    exact h.fills hgo
  · rw [← hmb] at hgo
    rw [← hord, ← hr.hub]
    exact h.waits hgo hw
  · rw [← hmb] at hgo
    obtain ⟨hstream, hhub, hc⟩ := h.refused hgo hw
    exact ⟨hstream, hhub.trans hr.hub, hcross hc⟩

theorem handOff_settled {s : State} {c : Nat} (h : Settled s c) (act : State → State) : handOff s c act = act s := by
  unfold handOff
  rw [h.noLate]
  exact if_neg (by rw [h.acked]; decide)

/-- What a MAILBOX does where its hand-off may act. -/
def mbAct (s : State) (c : Nat) (x : Stream) (words : RecAns) : State :=
  if hubWorldBad s c (mbSecure s (tw x.desc 0 5)) then worldRefuse s c (tw x.desc 0 5)
  else if bitOf x.desc 42 then mbPost s c x []
  else match recRead s c 0 (mbSrc x.desc) (4 * tw x.desc 5 5) (some words) 4 0 with
    | (s, none) => s
    | (s, some (.error e)) => recFail s c e
    | (s, some (.ok bs)) => mbPost s c x ((List.range (tw x.desc 5 5)).map fun k => BitVec.ofNat 32 (leAt bs (4 * k) 4))

theorem exec_mailbox {s : State} {c : Ch} {x : Stream} (h : Decoded s c.val x 10) (hset : bitOf x.desc 43 = true → Settled s c.val)
    (words : RecAns) : exec (.mailbox c words) s = .next (mbAct s c.val x words) := by
  simp only [exec, execMailbox, fresh_of_decoded h]
  split
  · next h43 => exact congrArg _ (handOff_settled (hset h43) _)
  · rfl

theorem leAt_take (bs : List Byte) {n k : Nat} (h : bs.length = n) : leAt (bs.take n) (4 * k) 4 = leAt bs (4 * k) 4 := by
  rw [List.take_of_length_le (le_of_eq h)]

theorem mailbox_cases {s : State} {c : Ch} {x : Stream} {bs : List Byte} (hs : Canon s) (h : Decoded s c.val x 10) :
    let m := tw x.desc 0 5
    let len := tw x.desc 5 5
    let inl := bitOf x.desc 42
    let y := if inl then x else { x with pre := [] }
    (chanSecure s c.val = true ∨ mbSecure s m = false) → (bitOf x.desc 43 = true → Settled s c.val) →
    (inl = false → Readable s c.val x (mbSrc x.desc) (4 * len) ∧ bs.length = 4 * len) → (inl = true → len ≤ 12) → len ≤ 16 →
    ∃ t, exec (.mailbox c ⟨bs, []⟩) s = .next t
      ∧ ((mb s m).go = false → stream t c.val = some { y with st := .done cOK 0, wait := .none }
          ∧ (mb t m).go = bitOf x.desc 43 ∧ (mb t m).len = len
          ∧ ∀ k, (h : k < 16) → (mb t m).words[k] = if k < len then
              BitVec.ofNat 32 (if inl then fld x.desc (128 + 32 * k) 32 else leAt bs (4 * k) 4) else (mb s m).words[k])
      ∧ ((mb s m).go = true → bitOf x.desc 44 = true → ∃ ws,
          stream t c.val = some { y with st := .started, wait := .mailbox ws, stamp := s.order } ∧ t.hub = s.hub)
      ∧ ((mb s m).go = true → bitOf x.desc 44 = false → stream t c.val = some { y with st := .done cSTATE 8, wait := .none } ∧ t.hub = s.hub
          ∧ Crosses s t 0x04 x.addr 8 (feIsland c.val)) := by
  intro m len inl y hworld hset hread hinl hlen
  have hx := h.acts.here
  have hok : ¬ hubWorldBad s c.val (mbSecure s m) = true := by rcases hworld with hw | hw <;> simp [hubWorldBad, hw]
  have hexec := exec_mailbox h hset ⟨bs, []⟩
  unfold mbAct at hexec
  rw [if_neg hok] at hexec
  cases hi : bitOf x.desc 42 with
  | true =>
    rw [if_pos hi] at hexec
    have hp := posted_mbPost hs (x := x) (ws := []) (word := fun k => BitVec.ofNat 32 (fld x.desc (128 + 32 * k) 32)) hx
      fun k _ hk => getD_mbWords_inline hi [] (lt_of_lt_of_le hk (hinl hi))
    simp only [inl, y, hi, if_true]
    exact ⟨_, hexec, hp.fills, hp.waits, hp.refused⟩
  | false =>
    rw [if_neg (by rw [hi]; decide)] at hexec
    obtain ⟨hreadable, hbytes⟩ := hread hi
    obtain ⟨u, hrec, hreads, hucanon, hustream⟩ := recRead_readable hs hx hreadable (bs := bs) (le_of_eq hbytes.symm) 0 4 0
    rw [hrec, ← hbytes, List.take_length] at hexec
    have hp := posted_mbPost hucanon (x := x) (word := fun k => BitVec.ofNat 32 (leAt bs (4 * k) 4)) hustream
      fun k _ hk => getD_mbWords_read hi (fun k => BitVec.ofNat 32 (leAt bs (4 * k) 4)) len hk
    have hp := hp.of_reads hreads.frame
    simp only [inl, y, hi, Bool.false_eq_true, if_false]
    exact ⟨_, hexec, hp.fills, hp.waits, hp.refused⟩

/-! ### ADVISE (R259, R260) -/

theorem advOp_of_decoded {s : State} {c : Nat} {x : Stream} (h : Decoded s c x 11) {op : Nat} (hop : tw x.desc 0 4 = op) :
    advOp s c op = some x := by
  unfold advOp
  rw [fresh_of_decoded h]
  exact if_pos hop

theorem exec_advise {s : State} {c : Ch} {x : Stream} {ev : Bool} (h : Decoded s c.val x 11) (hop : tw x.desc 0 4 = if ev then 1 else 0) :
    exec (if ev then .evict c else .prefetch c) s = .next (advise s c.val (if ev then 1 else 0) x) := by
  have hadv := advOp_of_decoded h hop
  cases ev with
  | false => simp only [Bool.false_eq_true, if_false, exec, execPrefetch] at hadv ⊢; rw [hadv]
  | true => simp only [if_true, exec, execEvict] at hadv ⊢; rw [hadv]

theorem advise_waits {s : State} {c : Nat} {x : Stream} (hx : stream s c = some x) (op : Nat) :
    let k := (chanCfg s c).ctx
    let r : Req := ⟨c, 7, false, dVa x.desc 2, false⟩
    advise s c op x = waits { s with xl := { s.xl with
      nextWalk := s.xl.nextWalk + 1
      walks := s.xl.walks ++ [⟨s.xl.nextWalk, 0, (ctx s k).asid, k, dVa x.desc 2, 0, 0, 0, true, [r], .holding, true,
        some ⟨8 + op, 0, aLen x.desc, 0, 0, [r], putBit 0 k true⟩⟩] } } c x (.advice (2 * s.xl.nextWalk)) := by
  intro k r
  exact beginWait_of_stream (s := { s with xl := { s.xl with
      nextWalk := s.xl.nextWalk + 1
      walks := s.xl.walks ++ [⟨s.xl.nextWalk, 0, (ctx s k).asid, k, dVa x.desc 2, 0, 0, 0, true, [r], .holding, true,
        some ⟨8 + op, 0, aLen x.desc, 0, 0, [r], putBit 0 k true⟩⟩] } }) hx _

/-- A half counts a hit. -/
def countHit (s : State) (h : Nat) : State := setHalf s h { half s h with hit := (half s h).hit + 1 }

theorem lookup_hit {s : State} {x c opnd va : Nat} {l : Leaf} (hon : powered s (56 + halfOf va) = true)
    (hhit : tlbFind s (halfOf va) (ctx s x).asid (va / 2 ^ 25) = some l) (warm : Bool) :
    lookup s x [⟨c, opnd, false, va, warm⟩] = (countHit s (halfOf va), some l) := by
  unfold lookup
  simp only [hon, hhit, Bool.not_true, Bool.false_eq_true, if_false, List.any_cons, List.any_nil, Bool.or_false, Bool.not_false, Bool.or_true,
    if_true]
  rfl

theorem acts_setStream {s : State} {c : Nat} {x : Stream} (h : Acts s c x) {y : Stream} (hy : y.slot = true) : Acts (setStream s c y) c y := by
  have hst : chState (setStream s c y) c = chState s c := by
    unfold chState
    rw [chan_setStream]
    rfl
  exact ⟨h.on, hst.trans h.run, h.ctx, stream_setStream _ _ _, hy⟩

theorem acts_waits {s : State} {c : Nat} {x : Stream} (h : Acts s c x) (w : Wait) :
    Acts (waits s c x w) c { x with st := .started, wait := w, stamp := s.order } :=
  have hord : Acts { s with order := s.order + 1 } c x := ⟨h.on, h.run, h.ctx, h.here, h.slot⟩
  acts_setStream hord h.slot

theorem warm_first {s : State} {c : Ch} {x : Stream} {l : Leaf} (h : Decoded s c.val x 11) (hop : tw x.desc 0 4 = 2) :
    let va := dVa x.desc 2
    walkPending s c.val (va / 2 ^ 25) = false → powered s (56 + halfOf va) = true →
    tlbFind s (halfOf va) (ctx s (chanCfg s c.val).ctx).asid (va / 2 ^ 25) = some l →
    ∃ t, exec (.warm c) s = .next t ∧ stream t c.val = some { x with st := .started, wait := .warm 1, stamp := s.order }
      ∧ t = { s with chans := t.chans, order := s.order + 1, xl := { s.xl with half := t.xl.half } } := by
  intro va hpend hon hhit
  have hva : va < 2 ^ 49 := Nat.mod_lt _ (by decide)
  have hpos : ¬ advRegions x ≤ 0 := by unfold advRegions; omega
  have hacts := acts_waits h.acts (.warm 0)
  have hlook := lookup_hit (s := waits s c.val x (.warm 0)) (x := (chanCfg s c.val).ctx) (c := c.val) (opnd := 7) hon hhit true
  have hstream : stream (countHit (waits s c.val x (.warm 0)) (halfOf va)) c.val = _ := stream_waits s c.val x (.warm 0)
  refine ⟨modStream (countHit (waits s c.val x (.warm 0)) (halfOf va)) c.val fun x => { x with wait := .warm 1 }, ?_, ?_, ?_⟩
  rotate_left
  · exact stream_modStream_self _ hstream _
  · rw [modStream_of_stream hstream]
    rfl
  · simp only [exec, execWarm, advOp_of_decoded h hop, beginWait_of_stream h.acts.here]
    rw [waiting_of_acts hacts rfl]
    swap
    · rfl
    refine (if_neg hpos).trans ?_
    rw [if_pos (rfl : 0 = 0), Nat.mod_eq_of_lt hva]
    rw [if_neg (by rw [show walkPending (waits s c.val x (.warm 0)) c.val (va / 2 ^ 25) = false from hpend]; decide)]
    rw [show chanCfg (waits s c.val x (.warm 0)) c.val = chanCfg s c.val from rfl, hlook]

theorem warm_last {s : State} {c : Ch} {x : Stream} {n : Nat} (h : Acts s c.val x) (hst : x.st = .started) (hw : x.wait = .warm n)
    (hn : advRegions x ≤ n) : exec (.warm c) s = .next (ended s c.val x cOK 0) := by
  have hadv : advOp s c.val 2 = none := by
    have hfresh : fresh s c.val 11 = none := by
      obtain ⟨hon, hrun, hctx, hhere, hslot⟩ := h
      simp [Machine.fresh, acting, hon, hrun, hctx, hhere, hst]
    unfold advOp
    rw [hfresh]
  simp only [exec, execWarm, hadv]
  rw [waiting_of_acts h hst]
  swap
  · rw [hw]
  simp only [hw, if_pos hn, finish_of_stream h.here]

theorem cold_next {s : State} {c : Ch} {x : Stream} (h : Decoded s c.val x 11) (hop : tw x.desc 0 4 = 3) :
    exec (.cold c) s = .next (ended { s with xl := { s.xl with tlb := s.xl.tlb.filter fun t =>
      !(t.asid == (ctx s (chanCfg s c.val).ctx).asid && entryMeets t (dVa x.desc 2 / 2 ^ 25) (advRegions x)) } } c.val x cOK 0) := by
  simp only [exec, execCold, advOp_of_decoded h hop]
  rw [finish_of_stream (x := x)]
  exact h.acts.here

/-- Settles O38: REARM, MAILBOX and each ADVISE, in each of the cases said. -/
theorem rearmMailboxAdvise : Obligations.RearmMailboxAdvise := by
  unfold Obligations.RearmMailboxAdvise
  refine ⟨?_, ?_, ?_, ?_, ?_, ?_⟩
  · intro s c x stop hs h hstop
    exact rearm_cases hs h hstop
  · intro s c x bs hs h
    exact mailbox_cases hs h
  · intro s c x ev h hop
    rw [exec_advise h hop, advise_waits h.acts.here]
    cases ev <;> rfl
  · intro s c x l _ h hop
    exact warm_first h hop
  · intro s c x n h hst hw hn
    exact warm_last h hst hw hn
  · intro s c x h hop
    exact cold_next h hop

end Sys2Proof.Proofs
end

section
/-! Data descriptors start, and bound runs reserve their slots (R54, R61 to R64, R102, R106, R164, R170). -/

namespace Sys2Proof.Proofs

open Sys2Proof Sys2Proof.Machine Sys2Proof.Laws

/-! ### Starts (R54, R61, R63) -/

theorem startable'_of_decoded {s : State} {c : Nat} {x : Stream} {t : Nat} (h : Decoded s c x t) (hsides : sidesLeft s c x = []) :
    startable' s c t = some x := by
  unfold startable'
  rw [fresh_of_decoded h]
  exact if_pos (by rw [hsides]; rfl)

theorem exec_nop {s : State} {c : Ch} {x : Stream} (h : Decoded s c.val x 0) : exec (.nop c) s = .next (ended s c.val x cOK 0) := by
  simp only [exec, execNop, fresh_of_decoded h, finish_of_stream h.acts.here]

theorem exec_move {s : State} {c : Ch} {x : Stream} (h : Decoded s c.val x 1) (hsides : sidesLeft s c.val x = []) :
    exec (.move c) s = .next (setStream s c.val { x with st := .started }) := by
  simp only [exec, execMove, startable'_of_decoded h hsides]

theorem exec_gather {s : State} {c : Ch} {x : Stream} (h : Decoded s c.val x 3) (hsides : sidesLeft s c.val x = []) (a b : RecAns) :
    exec (.gather c a b) s = .next (setStream s c.val { x with st := .started, sRaw := some a, dRaw := some b }) := by
  simp only [exec, execGather, startable'_of_decoded h hsides]

/-! ### A TENSOR's shape record (R62, R102) -/

theorem exec_tensor_known {s : State} {c : Ch} {x : Stream} {k : Shape} (h : Decoded s c.val x 2) (hsides : sidesLeft s c.val x = [])
    (hk : x.shape = some k) (a i : RecAns) :
    exec (.tensor c a i) s = .next (setStream s c.val { x with st := .started, idxRaw := some i }) := by
  simp only [exec, execTensor, startable'_of_decoded h hsides, hk]

/-- A shorter read of the same place is answered too. -/
theorem readable_shorter {s : State} {c va n m : Nat} {x : Stream} (h : Readable s c x va n) (hm : m ≤ n) (hpos : 0 < m) :
    Readable s c x va m := by
  obtain ⟨hsec, hlow, hn, hone, e, he, hlocs, hbytes⟩ := h
  refine ⟨hsec, by omega, hpos, by omega, e, he, fun l hl => hlocs l ?_, fun k hk => hbytes k (by omega)⟩
  rw [recLocs, List.mem_map] at hl ⊢
  obtain ⟨k, hk, rfl⟩ := hl
  exact ⟨k, List.mem_range.mpr (lt_of_lt_of_le (List.mem_range.mp hk) (by omega)), rfl⟩

theorem shapeRead_readable {s : State} {c va : Nat} {x : Stream} {b : List Byte} (hs : Canon s) (hx : stream s c = some x)
    (hlen : b.length = shapeLen ((b.getD 0 0).toNat % 8 + 1)) (h : Readable s c x va b.length) :
    ∃ t, shapeRead s c va ⟨b, []⟩ = (t, some (.ok b)) ∧ ReadsOnly s t c ∧ Canon t ∧ stream t c = some { x with pre := [] } := by
  have h64 : 64 ≤ b.length := by rw [hlen]; unfold shapeLen; omega
  obtain ⟨u, hhead, -⟩ := recRead_readable hs hx (readable_shorter h h64 (by decide)) (bs := b) h64 4 6 4
  have hfirst : (b.take 64).getD 0 0 = b.getD 0 0 := by
    rw [List.getD_eq_getElem _ _ (by simp; omega), List.getD_eq_getElem _ _ (by omega), List.getElem_take]
  obtain ⟨t, hread, hrest⟩ := recRead_readable hs hx h (bs := b) le_rfl 4 6 4
  rw [List.take_length] at hread
  refine ⟨t, ?_, hrest⟩
  unfold shapeRead
  rw [hhead]
  simp only [hfirst, ← hlen, hread]

/-- The checks of a shape record read the configuration alone. -/
theorem shapeFails_of_img {s t : State} (h : t.img = s.img) (c : Nat) (d : DescData) (b : List Byte) : shapeFails t c d b = shapeFails s c d b := by
  have him : im t = im s := by rw [im, h, im]
  have hcfg : chanCfg t c = chanCfg s c := by rw [chanCfg, him, chanCfg]
  have hshare : ∀ m, quadShare t m = quadShare s m := fun m => by unfold quadShare moverWidth moverCfg; rw [him]
  unfold shapeFails
  rw [hcfg, hshare]

/-- A refusal of one of several checks, behind a read. -/
theorem refused_of_reads {s u : State} {c : Nat} {x y : Stream} (hu : stream u c = some y) (haddr : y.addr = x.addr) (hr : OnlyReads s u)
    {fails : List Nat} (hf : fails ≠ []) : ∃ r ∈ fails,
      Crosses s (refuseStream (bump u) c (pickDetail u fails)) 0x04 x.addr r (feIsland c)
        ∧ stream (refuseStream (bump u) c (pickDetail u fails)) c = some { y with st := .done cSTATE r, wait := .none } := by
  obtain ⟨-, hcross, hstream, -⟩ := refuseStream_result (s := bump u) (c := c) (x := y) hu (pickDetail u fails)
  refine ⟨_, pickDetail_mem hf, ?_, hstream⟩
  unfold Crosses at hcross ⊢
  rw [← haddr, ← hr.aon]
  exact hcross

/-- A step on the reading channel's stream, behind the read. -/
theorem readsOnly_modStream {s u : State} {c : Nat} {y : Stream} (h : ReadsOnly s u c) (hu : Canon u) (hy : stream u c = some y)
    (f : Stream → Stream) : ReadsOnly s (modStream u c f) c := by
  have hframe : OnlyReads s u := h.frame
  refine readsOnly_of_frame (hframe.trans (onlyReads_modStream u c f)) (fun d hd => ?_) ?_
  · rw [chan_modStream_other hu hd, h.others d hd]
  · rw [stream_modStream_self u hy, chan_modStream_self hy, h.here]

theorem tensor_cases {s : State} {c : Ch} {x : Stream} {b : List Byte} {i : RecAns} (hs : Canon s) (h : Decoded s c.val x 2)
    (hsides : sidesLeft s c.val x = []) (hx : x.shape = none) (hlen : b.length = shapeLen ((b.getD 0 0).toNat % 8 + 1))
    (hread : Readable s c.val x (tShape x.desc) b.length) :
    let fails := shapeFails s c.val x.desc b
    let pages := if tIndex x.desc = 0 then pagesAtDecode x.desc (parseShape b) else none
    ∃ t, exec (.tensor c ⟨b, []⟩ i) s = .next t
      ∧ (fails = [] → ReadsOnly s t c.val)
      ∧ (fails = [] ∧ pages = none →
          stream t c.val = some { x with pre := [], st := .started, shape := some (parseShape b), idxRaw := some i })
      ∧ (∀ o, fails = [] → pages = some o → stream t c.val = some { x with pre := [], st := .done cPAGES o, wait := .none })
      ∧ (fails ≠ [] → ∃ r ∈ fails, Crosses s t 0x04 x.addr r (feIsland c.val)
          ∧ stream t c.val = some { x with pre := [], st := .done cSTATE r, wait := .none }) := by
  intro fails pages
  obtain ⟨u, hshape, hreads, hu, hustream⟩ := shapeRead_readable hs h.acts.here hlen hread
  have hframe : OnlyReads s u := hreads.frame
  have hfails : shapeFails u c.val x.desc b = fails := shapeFails_of_img hframe.img c.val x.desc b
  have hexec : exec (.tensor c ⟨b, []⟩ i) s = .next (if fails ≠ [] then refuseStream (bump u) c.val (pickDetail u fails)
      else match pages with
        | some o => finish u c.val cPAGES o
        | none => modStream u c.val fun x => { x with shape := some (parseShape b), st := .started, idxRaw := some i }) := by
    simp only [exec, execTensor, startable'_of_decoded h hsides, hx, hshape, hfails]
    cases hf : fails with
    | cons r l => rfl
    | nil =>
      simp only [List.isEmpty_nil, Bool.not_true, Bool.false_eq_true, if_false, ne_eq, not_true_eq_false]
      change (match pages with | some o => _ | none => _) = _
      cases pages <;> rfl
  refine ⟨_, hexec, fun hf => ?_, fun hf => ?_, fun o hf hp => ?_, fun hf => ?_⟩
  · rw [if_neg (not_not.mpr hf)]
    clear_value pages
    split
    · exact readsOnly_modStream hreads hu hustream _
    · exact readsOnly_modStream hreads hu hustream _
  · rw [if_neg (not_not.mpr hf.1), hf.2]
    exact stream_modStream_self u hustream _
  · rw [if_neg (not_not.mpr hf), hp]
    exact stream_modStream_self u hustream _
  · rw [if_pos hf]
    exact refused_of_reads (x := x) hustream rfl hframe hf

/-! ### A WHIRL's program (R64, R106) -/

theorem whirl_cases {s : State} {c : Ch} {x : Stream} {b : List Byte} (hs : Canon s) (h : Decoded s c.val x 4)
    (hsides : sidesLeft s c.val x = []) (hx : x.whirl = none) (hlen : b.length = 8 * (wNinst x.desc + 1))
    (hread : Readable s c.val x (wProg x.desc) b.length) :
    let p := progWords b (wNinst x.desc + 1)
    ∃ t, exec (.whirl c ⟨b, []⟩) s = .next t
      ∧ (programFails p = [] → ReadsOnly s t c.val
          ∧ stream t c.val = some { x with pre := [], st := .started, whirl := some (whirlInit x.desc p) })
      ∧ (programFails p ≠ [] → ∃ r ∈ programFails p, Crosses s t 0x04 x.addr r (feIsland c.val)
          ∧ stream t c.val = some { x with pre := [], st := .done cSTATE r, wait := .none }) := by
  intro p
  obtain ⟨u, hrec, hreads, hu, hustream⟩ := recRead_readable hs h.acts.here hread (bs := b) le_rfl 6 6 4
  rw [List.take_length] at hrec
  have hexec : exec (.whirl c ⟨b, []⟩) s = .next (if programFails p ≠ [] then refuseStream (bump u) c.val (pickDetail u (programFails p))
      else modStream u c.val fun y => { y with st := .started, whirl := some (whirlInit y.desc p) }) := by
    have hempty : (!(programFails p).isEmpty) = true ↔ programFails p ≠ [] := by simp
    simp only [exec, execWhirl, startable'_of_decoded h hsides, hx, ← hlen, hrec]
    rw [apply_ite Host.Outcome.next]
    exact if_congr hempty rfl rfl
  refine ⟨_, hexec, fun hf => ?_, fun hf => ?_⟩
  · rw [if_neg (not_not.mpr hf)]
    exact ⟨readsOnly_modStream hreads hu hustream _, stream_modStream_self u hustream _⟩
  · rw [if_pos hf]
    exact refused_of_reads (x := x) hustream rfl hreads.frame hf

/-! ### Slots of bound runs (R164, R170) -/

/-- A ring whose next slot of one side a run reserves. -/
def reserved (y : Ring) (prod : Bool) : Ring :=
  if prod then { y with pres := (y.pres + 1) % (y.nm1 + 1), ordP := y.ordP + 1, resP := y.resP ++ [(y.ordP, false)] }
  else { y with cres := (y.cres + 1) % (y.nm1 + 1), ordC := y.ordC + 1, resC := y.resC ++ [(y.ordC, false)] }

/-- A run that holds the slot it reserves. -/
def holdsSlot (x : Stream) (r : Nat) (y : Ring) (prod : Bool) : Stream :=
  if prod then { x with slotP := some (r, y.ordP, y.pres) } else { x with slotC := some (r, y.ordC, y.cres) }

theorem reserveSide_of_bound {s : State} {c r : Nat} {prod : Bool} {x : Stream} (hb : boundRing s c prod = some r) (hx : stream s c = some x) :
    reserveSide s c prod = setStream (setRing s r (reserved (ring s r) prod)) c (holdsSlot x r (ring s r) prod) := by
  unfold reserveSide
  rw [hb]
  cases prod with
  | true => exact modStream_of_stream (s := setRing s r (reserved (ring s r) true)) hx _
  | false => exact modStream_of_stream (s := setRing s r (reserved (ring s r) false)) hx _

theorem exec_boundRunReserve {s : State} {c : Ch} {x : Stream} {prod : Bool} {r : Nat} (h : Acts s c.val x) (hst : x.st = .decoded)
    (hsides : sidesLeft s c.val x = [prod]) (hb : boundRing s c.val prod = some r) (hcan : canReserve s c.val prod = true)
    (hout : (chan s c.val).recOut = none) (hworld : chanSecure s c.val = true ∨ ringSecure s r = false) :
    exec (.boundRunReserve c) s
      = .next (setStream (setRing s r (reserved (ring s r) prod)) c.val (holdsSlot x r (ring s r) prod)) := by
  obtain ⟨hon, hrun, hctx, hhere, hslot⟩ := h
  have hok : sideWorldBad s c.val prod = false := by
    unfold sideWorldBad
    rw [hb]
    rcases hworld with hw | hw <;> simp [hw]
  rw [← reserveSide_of_bound hb hhere]
  simp [exec, execBoundRunReserve, hon, hrun, hctx, hhere, hout, hst, hslot, hsides, hok, hcan]

/-- Settles O31: each data descriptor's start, and the slot that a bound run reserves. -/
theorem dataDescriptorsStartAndReserve : Obligations.DataDescriptorsStartAndReserve := by
  unfold Obligations.DataDescriptorsStartAndReserve
  refine ⟨⟨?_, ?_, ?_, ?_, ?_, ?_⟩, ?_⟩
  · intro s c x h
    exact exec_nop h
  · intro s c x h hsides
    exact exec_move h hsides
  · intro s c x b i hs h hsides hx hlen hread
    exact tensor_cases hs h hsides hx hlen hread
  · intro s c x k a i h hsides hk
    exact exec_tensor_known h hsides hk a i
  · intro s c x a b h hsides
    exact exec_gather h hsides a b
  · intro s c x b hs h hsides hx hlen hread
    exact whirl_cases hs h hsides hx hlen hread
  · intro s c x prod r hs h hst hsides hb hcan hout hworld y
    refine ⟨_, exec_boundRunReserve h hst hsides hb hcan hout hworld, rfl, fun q hq => ring_setRing_other hs r _ hq, fun d hd => ?_, ?_, ?_⟩
    · exact chan_setStream_other (setRing_canon _ _ _ hs) hd _
    · rintro rfl
      exact ⟨ring_setRing_self hs r _, stream_setStream _ _ _⟩
    · rintro rfl
      exact ⟨ring_setRing_self hs r _, stream_setStream _ _ _⟩

end Sys2Proof.Proofs
end

section
/-! SIGNAL arrivals, PUSH, PRODUCE, RELEASE and DOORBELL at the sync hub (R65, R158, R161, R171, R281, R283, R287). -/

namespace Sys2Proof.Proofs

open Sys2Proof Sys2Proof.Machine Sys2Proof.Laws

/-! ### A stream through a release -/

theorem keepsChans_ringRealign (s : State) (r : Nat) (e : BitVec 2) : KeepsChans s (ringRealign s r e) := by
  refine ⟨ringRealign_canon s r e, ?_⟩
  unfold ringRealign
  extract_lets x
  split
  · rfl
  · exact (raise_chans _ _ _ _ _).trans (pendSrc_chans _ _)

theorem keepsChans_poolBarrier (s : State) (o : Nat) : KeepsChans s (poolBarrier s o) := by
  unfold poolBarrier
  refine keepsChans_foldl (fun u p => ?_) _ s
  split
  · exact keepsChans_poolTrigger u p
  · exact .refl u

theorem stream_applyRelease {s : State} (hs : Canon s) {c : Nat} {x : Stream} (hx : stream s c = some x) (o : Nat) (e : BitVec 2) :
    ∃ st w, stream (applyRelease s o e) c = some { x with st := st, wait := w } := by
  unfold applyRelease
  extract_lets y t u v
  have hu : KeepsChans t u := keepsChans_foldl (fun w (r : Nat) => by
    split
    · exact keepsChans_ringRealign w r e
    · exact .refl w) _ t
  have hv : KeepsChans t v := hu.trans (keepsChans_poolBarrier u o)
  have ht : Canon t := setBar_canon _ _ _ hs
  have hstart : Canon v ∧ ∃ st w, stream v c = some { x with st := st, wait := w } :=
    ⟨hv.canon ht, x.st, x.wait, (hv.stream c).trans hx⟩
  refine (List.foldlRecOn (motive := fun w => Canon w ∧ ∃ st a, stream w c = some { x with st := st, wait := a }) _ _ hstart fun w hw d _ => ?_).2
  obtain ⟨hcanon, st, a, hstream⟩ := hw
  split
  · refine ⟨finish_canon _ _ _ _ hcanon, ?_⟩
    by_cases hd : d = c
    · subst hd
      exact ⟨_, _, by rw [finish_of_stream hstream, stream_ended]⟩
    · refine ⟨st, a, ?_⟩
      rw [stream, finish, chan_modStream_other hcanon (Ne.symm hd)]
      exact hstream
  · exact ⟨hcanon, st, a, hstream⟩

/-- An arrival at the home leaves every stream but for its state and what it waits for, and one that is counted has no DETAIL. -/
theorem stream_homeArrive {s : State} (hs : Canon s) {c : Nat} {x : Stream} (hx : stream s c = some x) (o pm1 : Nat) (tag : BitVec 2) (ns : Bool)
    (chip ch : Nat) : (∃ st w, stream (homeArrive s o pm1 tag ns chip ch).1 c = some { x with st := st, wait := w })
      ∧ ((homeArrive s o pm1 tag ns chip ch).2.1 = cOK → (homeArrive s o pm1 tag ns chip ch).2.2 = 0) := by
  have hsame : ∃ st w, stream s c = some { x with st := st, wait := w } := ⟨x.st, x.wait, hx⟩
  unfold homeArrive
  extract_lets y n e z t
  split
  · exact ⟨hsame, fun h : cWORLD = cOK => absurd h (by decide)⟩
  split
  · exact ⟨hsame, fun h : cSTATE = cOK => absurd h (by decide)⟩
  split
  · exact ⟨hsame, fun h : cABANDONED = cOK => absurd h (by decide)⟩
  split
  · exact ⟨hsame, fun h : cPOISONED = cOK => absurd h (by decide)⟩
  split
  · exact ⟨hsame, fun h : cSTATE = cOK => absurd h (by decide)⟩
  split
  · exact ⟨⟨x.st, x.wait, (stream_of_chans (raise_chans _ _ _ _ _) c).trans hx⟩, fun h : cSTATE = cOK => absurd h (by decide)⟩
  split
  · refine ⟨?_, fun _ => rfl⟩
    obtain ⟨st, w, hrel⟩ := stream_applyRelease (s := setBar s o { y with st := .idle, count := 0, need := BitVec.ofNat 14 pm1 })
      (setBar_canon _ _ _ hs) (x := x) hx o e
    refine ⟨st, w, (stream_of_chans ?_ c).trans hrel⟩
    rw [onlySent_spread]
  · exact ⟨hsame, fun _ => rfl⟩

/-! ### ARRIVE (R281, R283, R287) -/

theorem sig_of_decoded {s : State} {c : Nat} {x : Stream} (h : Decoded s c x 5) {op : Nat} (hop : sSop x.desc = op) : sig s c op = some x := by
  unfold sig
  rw [fresh_of_decoded h]
  exact if_pos hop

/-- The tag of the channel's last arrival at an object is kept. -/
def arriveTag (s : State) (c v o : Nat) : State := setChan s c { chan s c with arrRec := some (BitVec.ofNat 10 v, (bar s o).epoch) }

theorem exec_arrive {s : State} {c : Ch} {x : Stream} {o : Nat} (h : Decoded s c.val x 5) (hop : sSop x.desc = 2) (hset : Settled s c.val)
    (ho : barObj s (chanCfg s c.val).ctx (sBvid x.desc) = some o) (hworld : chanSecure s c.val = true ∨ barSecure s o = false) :
    exec (.arrive c) s = .next (let u := arriveTag s c.val (sBvid x.desc) o
      if barHome s o = ownChip s then arriveHome u c.val x o
      else let v := modStream u c.val fun x => { x with st := .started, wait := .ack o }
        sendPkt v (barrPkt v (barHome v o) 0 o (bar s o).epoch.toNat (sPcount x.desc) 0 c.val 0 0 (barHome v o) (!chanSecure v c.val))) := by
  simp only [exec, execArrive, sig_of_decoded h hop, handOff_settled hset, barUse_ok ho hworld]
  rfl

theorem arrive_cases {s : State} {c : Ch} {x : Stream} {o : Nat} (hs : Canon s) (h : Decoded s c.val x 5) (hop : sSop x.desc = 2)
    (hset : Settled s c.val) (ho : barObj s (chanCfg s c.val).ctx (sBvid x.desc) = some o)
    (hworld : chanSecure s c.val = true ∨ barSecure s o = false) :
    let b := bar s o
    let pm1 := sPcount x.desc
    ∃ t, exec (.arrive c) s = .next t
      ∧ (barHome s o ≠ ownChip s → stream t c.val = some { x with st := .started, wait := .ack o } ∧ t.hub = s.hub)
      ∧ (barHome s o = ownChip s → inBox s o (ownChip s) = true → b.st = .idle ∨ (b.st = .gather ∧ b.need.toNat = pm1) →
          stream t c.val = some { x with st := .done cOK 0, wait := .none }
          ∧ (b.count.toNat + 1 ≠ pm1 + 1 → bar t o = { b with
                st := .gather, count := BitVec.ofNat 14 (b.count.toNat + 1), need := BitVec.ofNat 14 pm1 })
          ∧ (b.count.toNat + 1 = pm1 + 1 → bar t o = { b with
                st := .idle, count := 0, need := BitVec.ofNat 14 pm1, epoch := b.epoch + 1 })) := by
  intro b pm1
  have hcanon : Canon (arriveTag s c.val (sBvid x.desc) o) := setChan_canon _ _ _ hs
  have hstream : stream (arriveTag s c.val (sBvid x.desc) o) c.val = some x := by
    rw [stream, arriveTag, chan_setChan_self hs]
    exact h.acts.here
  refine ⟨_, exec_arrive h hop hset ho hworld, fun hhome => ?_, fun hhome hbox hst => ?_⟩
  · rw [if_neg hhome]
    extract_lets v
    have hsent := onlySent_sendPkt v (barrPkt v (barHome v o) 0 o (bar s o).epoch.toNat (sPcount x.desc) 0 c.val 0 0 (barHome v o)
      (!chanSecure v c.val))
    have hv : stream v c.val = some { x with st := .started, wait := .ack o } := stream_modStream_self _ hstream _
    have hchans := (congrArg State.chans hsent :)
    have hhub := (congrArg State.hub hsent :)
    exact ⟨(stream_of_chans hchans c.val).trans hv, hhub.trans (hub_modStream _ _ _)⟩
  · have hsec : (!chanSecure s c.val) = true → barSecure s o = false := fun hns => hworld.resolve_left (by simpa using hns)
    have hcounted := homeArrive_counts (s := arriveTag s c.val (sBvid x.desc) o) hcanon (o := o) (pm1 := pm1)
      (ns := !chanSecure s c.val) (chan := c.val) hsec hbox hst
    obtain ⟨hkept, hdetail⟩ := stream_homeArrive hcanon hstream o pm1 (bar s o).epoch (!chanSecure s c.val) (ownChip s) c.val
    have harrive : arriveHome (arriveTag s c.val (sBvid x.desc) o) c.val x o
        = finish (homeArrive (arriveTag s c.val (sBvid x.desc) o) o pm1 (bar s o).epoch (!chanSecure s c.val) (ownChip s) c.val).1 c.val cOK 0 := by
      have hbody : arriveHome (arriveTag s c.val (sBvid x.desc) o) c.val x o
          = (let r := homeArrive (arriveTag s c.val (sBvid x.desc) o) o pm1 (bar s o).epoch (!chanSecure s c.val) (ownChip s) c.val
            if r.2.1 = cSTATE then refuseStream r.1 c.val r.2.2 else finish r.1 c.val r.2.1 r.2.2) := rfl
      have hcode : (homeArrive (arriveTag s c.val (sBvid x.desc) o) o pm1 (bar s o).epoch (!chanSecure s c.val) (ownChip s) c.val).2.1 = cOK :=
        hcounted.1
      rw [hbody]
      dsimp only
      rw [hcode, hdetail hcode, if_neg (by decide)]
    obtain ⟨-, -, hbar⟩ := hcounted
    obtain ⟨st, w, hr⟩ := hkept
    rw [if_pos hhome, harrive]
    refine ⟨by rw [finish_of_stream hr, stream_ended], fun hne => ?_, fun heq => ?_⟩
    · have hbar' : bar (finish _ c.val cOK 0) o = _ := (congrArg (fun u : Hub => tget (fun _ => ({} : Bar)) u.bars o) (hub_modStream _ _ _)).trans hbar
      exact hbar'.trans (if_neg fun hc => hne (by rw [← hc]; rfl))
    · have hbar' : bar (finish _ c.val cOK 0) o = _ := (congrArg (fun u : Hub => tget (fun _ => ({} : Bar)) u.bars o) (hub_modStream _ _ _)).trans hbar
      exact hbar'.trans (if_pos (Nat.succ.inj heq))

/-- An arrival without an answer ends with TIMEOUT, 2. -/
theorem arriveAckTimeout_cases {s : State} {c : Ch} {x : Stream} {o : Nat} (hx : stream s c.val = some x) (hw : x.wait = .ack o) :
    ∃ t, exec (.arriveAckTimeout c) s = .next t ∧ t = { ended s c.val x cTIMEOUT 2 with aon := t.aon, fresh := t.fresh }
      ∧ (Canon s → Crosses s t 0x0D x.addr c.val (feIsland c.val)) := by
  have hexec : exec (.arriveAckTimeout c) s = .next (raise (ended s c.val x cTIMEOUT 2) 0x0D x.addr c.val (feIsland c.val)) := by
    simp only [exec, execArriveAckTimeout, hx, hw, finish_of_stream hx, timeoutEvent, stream_ended]
  exact ⟨_, hexec, onlyAon_raise _ _ _ _ _, fun _ => crosses_raise_of rfl _ _ _ _⟩

/-! ### PUSH (R161, R171, R172) -/

theorem push_cases {s : State} {c : Ch} {x : Stream} (hd : Decoded s c.val x 5) (hop : sSop x.desc = 3) (hset : Settled s c.val) :
    let y := hq s (sHq x.desc)
    let h := BitVec.ofNat 32 (dW x.desc 5 0 32)
    y.en = true → h ≠ BitVec.allOnes 32 → (chanSecure s c.val = true ∨ y.ns = true) →
    (64 ≤ y.q.length → exec (.push c) s = .next (waits s c.val x .push))
    ∧ (y.q.length < 64 → Canon s → NoHandleWaits s →
        exec (.push c) s = .next (setHq (ended s c.val x cOK 0) (sHq x.desc) { y with q := y.q ++ [h] })) := by
  intro y h hen hh hworld
  have hok : ¬ (!chanSecure s c.val && !y.ns) = true := by rcases hworld with hw | hw <;> simp [hw]
  have hfails : chk (!y.en) 11 ++ chk (h == BitVec.allOnes 32) 5 = [] := by
    simp only [chk, hen, beq_false_of_ne hh]
    rfl
  have hexec : exec (.push c) s = .next (if 64 ≤ y.q.length then waits s c.val x .push else hqPush (ended s c.val x cOK 0) (sHq x.desc) h) := by
    simp only [exec, execPush, sig_of_decoded hd hop, handOff_settled hset, finish_of_stream hd.acts.here, beginWait_of_stream hd.acts.here]
    refine congrArg Host.Outcome.next ((if_neg hok).trans ?_)
    change (if !(chk (!y.en) 11 ++ chk (h == BitVec.allOnes 32) 5).isEmpty then _ else _) = _
    rw [hfails]
    rfl
  rw [hexec]
  refine ⟨fun hfull => by rw [if_pos hfull], fun hroom hs hwait => ?_⟩
  rw [if_neg (Nat.not_le.mpr hroom)]
  have hcanon : Canon (ended s c.val x cOK 0) := ended_canon hs _ _ _ _
  have hidle : NoHandleWaits (ended s c.val x cOK 0) := by
    intro d z hz
    by_cases hdc : d = c.val
    · subst hdc
      rw [stream_ended] at hz
      rw [← Option.some.inj hz]
      exact ⟨fun h => Wait.noConfusion h, fun h => Wait.noConfusion h⟩
    · refine hwait d z ?_
      rw [stream, chan_ended_other hs _ _ _ _ hdc] at hz
      exact hz
  refine congrArg Host.Outcome.next ?_
  exact hqSettle_idle (setHq_canon _ _ _ hcanon) hidle _ _

/-! ### PRODUCE and RELEASE (R158, R170) -/

/-- The command of a produce or a release. -/
def ringCmd (c : Ch) (prod : Bool) : Instr := if prod then .produce c else .release c

theorem exec_ringCmd {s : State} {c : Ch} {x : Stream} {prod : Bool} (h : Decoded s c.val x 5) (hop : sSop x.desc = if prod then 4 else 5)
    (hset : prod = true → Settled s c.val) : exec (ringCmd c prod) s = .next (ringSignal s c.val (sRing x.desc) prod) := by
  have hsig := sig_of_decoded h hop
  cases prod with
  | true =>
    simp only [if_true] at hsig
    simp only [ringCmd, if_true, exec, execProduce, hsig, handOff_settled (hset rfl)]
  | false =>
    simp only [Bool.false_eq_true, if_false] at hsig
    simp only [ringCmd, Bool.false_eq_true, if_false, exec, execRelease, hsig]

theorem ringSignal_open {s : State} {c r : Nat} {prod : Bool} (hworld : chanSecure s c = true ∨ (ring s r).ns = true) :
    ringSignal s c r prod = if (ringFails (ring s r) prod).isEmpty then finish (setRing s r (if prod then ringProduce (ring s r)
      else ringRelease (ring s r))) c cOK 0 else refuseStream (bump s) c (pickDetail s (ringFails (ring s r) prod)) := by
  have hok : ¬ (!chanSecure s c && !(ring s r).ns) = true := by rcases hworld with hw | hw <;> simp [hw]
  unfold ringSignal
  extract_lets y fails
  rw [if_neg hok]
  cases hf : ringFails (ring s r) prod with
  | nil => simp only [fails, y, hf]; rfl
  | cons a l => simp only [fails, y, hf]; rfl

theorem pickDetail_single (s : State) (d : Nat) : pickDetail s [d] = d := by
  simp [pickDetail, Nat.mod_one]

theorem ringFails_refused {y : Ring} {prod : Bool} (hauto : (if prod then y.pauto else y.cauto) = false)
    (h : y.en = false ∨ y.fault = true ∨ (if prod then y.fill = y.nm1 + 1 else y.fill = 0)) : ringFails y prod = [11] := by
  have hcond : (!y.en || y.fault || (if prod then y.fill == ringN y else y.fill == 0)) = true := by
    rcases h with h | h | h
    · simp [h]
    · simp [h]
    · cases prod <;> simp_all [ringN]
  unfold ringFails
  rw [if_pos hcond, if_neg (by rw [hauto]; decide), List.append_nil]

theorem ringCmd_cases {s : State} {c : Ch} {x : Stream} {prod : Bool} (h : Decoded s c.val x 5) (hop : sSop x.desc = if prod then 4 else 5)
    (hset : prod = true → Settled s c.val) :
    let y := ring s (sRing x.desc)
    (chanSecure s c.val = true ∨ y.ns = true) → (if prod then y.pauto else y.cauto) = false →
    (y.en = true → y.fault = false → (prod = true → y.fill ≠ y.nm1 + 1) → (prod = false → y.fill ≠ 0) →
      exec (ringCmd c prod) s = .next (ended (setRing s (sRing x.desc) (if prod
        then { y with tail := (y.tail + 1) % (y.nm1 + 1), pres := (y.tail + 1) % (y.nm1 + 1), fill := y.fill + 1, pcnt := y.pcnt + 1 }
        else { y with head := (y.head + 1) % (y.nm1 + 1), cres := (y.head + 1) % (y.nm1 + 1), fill := y.fill - 1, ccnt := y.ccnt + 1 }))
        c.val x cOK 0))
    ∧ (y.en = false ∨ y.fault = true ∨ (if prod then y.fill = y.nm1 + 1 else y.fill = 0) →
      ∃ t, exec (ringCmd c prod) s = .next t ∧ t = { ended s c.val x cSTATE 11 with aon := t.aon, fresh := t.fresh }
        ∧ Crosses s t 0x04 x.addr 11 (feIsland c.val)) := by
  intro y hworld hauto
  rw [exec_ringCmd h hop hset, ringSignal_open hworld]
  refine ⟨fun hen hfault hfull hempty => ?_, fun hbad => ?_⟩
  · have hmoves : (ringFails y prod).isEmpty = true := by
      rw [ringFails_isEmpty_iff]
      cases prod with
      | true => exact ⟨hen, hfault, hfull rfl, hauto⟩
      | false => exact ⟨hen, hfault, hempty rfl, hauto⟩
    rw [if_pos hmoves]
    refine congrArg Host.Outcome.next ((finish_of_stream (s := setRing s (sRing x.desc) _) (x := x) h.acts.here cOK 0).trans ?_)
    cases prod with
    | true => exact congrArg (fun z => ended (setRing s (sRing x.desc) z) c.val x cOK 0) (ringProduce_unbound hauto)
    | false => exact congrArg (fun z => ended (setRing s (sRing x.desc) z) c.val x cOK 0) (ringRelease_unbound hauto)
  · have hfails := ringFails_refused hauto hbad
    have hne : ¬ (ringFails y prod).isEmpty = true := by rw [hfails]; decide
    rw [if_neg hne, hfails, pickDetail_single]
    obtain ⟨hframe, hcross, -, -⟩ := refuseStream_result (s := bump s) (x := x) h.acts.here 11
    exact ⟨_, rfl, hframe, hcross⟩

/-! ### DOORBELL (R49, R65) -/

theorem signalDoorbell_cases {s : State} {c : Ch} {x : Stream} (hs : Canon s) (h : Decoded s c.val x 5) (hop : sSop x.desc = 6)
    (hset : Settled s c.val) :
    let d := sChan x.desc
    ∃ t, exec (.signalDoorbell c) s = .next t
      ∧ (chState s d = .disabled → stream t c.val = some { x with st := .done cSTATE 9, wait := .none } ∧ (chan t d).lastCode = 2
          ∧ Crosses s t 0x04 x.addr 9 (feIsland c.val))
      ∧ (chState s d ≠ .disabled → (chan s d).blocked = false → chanSecure s d = chanSecure s c.val →
          stream t c.val = some { x with st := .done cOK 0, wait := .none }
          ∧ (chState s d ≠ .idle → (chan t d).pending = true ∧ (chan t d).st = (chan s d).st ∧ t.out = s.out)
          ∧ (chState s d = .idle → (4096 * (chan s d).cqBase.toNat) % (16 * 2 ^ (chan s d).log2n) = 0 →
              let a := (chan s d).head.toNat / 512 * 512
              (chan t d).st = .running ∧ (fetchReady s d a = true → FetchSent s t d a)
              ∧ (fetchReady s d a = false → t.out = s.out ∧ (chan t d).fetchDue = some a))) := by
  intro d
  have hexec : exec (.signalDoorbell c) s = .next (
      if chState s d == .disabled || (chan s d).blocked then refuseStream (setChan s d { chan s d with lastCode := 2 }) c.val 9
      else if chanSecure s d != chanSecure s c.val then refuseStream s c.val 9
      else fetchNeed (ringDoorbell (ended s c.val x cOK 0) d) d) := by
    simp only [exec, execSignalDoorbell, sig_of_decoded h hop, handOff_settled hset, finish_of_stream h.acts.here]
    rfl
  refine ⟨_, hexec, fun hdis => ?_, fun hdis hblocked hsec => ?_⟩
  · have hne : c.val ≠ d := fun hc => by
      rw [← hc, h.acts.run] at hdis
      exact absurd hdis (by decide)
    have hstream : stream (setChan s d { chan s d with lastCode := 2 }) c.val = some x := by
      rw [stream, chan_setChan_other hs _ _ hne]
      exact h.acts.here
    have hcanon : Canon (setChan s d { chan s d with lastCode := 2 }) := setChan_canon _ _ _ hs
    obtain ⟨hframe, hcross, hdone, -⟩ := refuseStream_result hstream 9
    rw [if_pos (by rw [hdis]; rfl)]
    refine ⟨hdone, ?_, hcross⟩
    have hchans := (congrArg State.chans hframe :)
    rw [chan_of_chans hchans]
    refine (congrArg Chan.lastCode (chan_ended_other hcanon c.val x _ _ hne.symm)).trans ?_
    rw [chan_setChan_self hs]
  · have hcanon : Canon (ended s c.val x cOK 0) := ended_canon hs _ _ _ _
    have hfields : chState (ended s c.val x cOK 0) d = chState s d ∧ (chan (ended s c.val x cOK 0) d).blocked = (chan s d).blocked
        ∧ (chan (ended s c.val x cOK 0) d).st = (chan s d).st := by
      unfold chState
      by_cases hdc : d = c.val
      · rw [hdc, chan_ended]
        exact ⟨rfl, rfl, rfl⟩
      · rw [chan_ended_other hs _ _ _ _ hdc]
        exact ⟨rfl, rfl, rfl⟩
    obtain ⟨hst, hbl, hraw⟩ := hfields
    have hclk := onlyClk_fetchNeed (ringDoorbell (ended s c.val x cOK 0) d) d
    have hrung := (rung_ringDoorbell hcanon d).onlyClk hclk
    have hno : ¬ (chState s d == .disabled || (chan s d).blocked) = true := by simp [hdis, hblocked]
    rw [if_neg hno, if_neg (by simp [hsec])]
    refine ⟨?_, fun hidle => ?_, fun hidle halign => ?_⟩
    · rw [stream_of_chans hclk.chans, stream_ringDoorbell hcanon, stream_ended]
    · obtain ⟨hout, hself⟩ := hrung.pends (by rw [hst]; exact hdis) (by rw [hst]; exact hidle) (hbl.trans hblocked)
      rw [hself]
      exact ⟨rfl, hraw, hout⟩
    · have hdc : d ≠ c.val := fun hc => by
        rw [hc, h.acts.run] at hidle
        exact absurd hidle (by decide)
      have hchan := chan_ended_other hs c.val x cOK 0 hdc
      have hstarts := hrung.starts (hst.trans hidle) (hbl.trans hblocked) (by rw [hchan]; exact halign)
      rw [hchan] at hstarts
      obtain ⟨hsent, hheld, la, hself⟩ := hstarts
      rw [hself]
      refine ⟨rfl, fun hready => ⟨(hsent hready).out, (hsent hready).own⟩, fun hready => ⟨hheld hready, ?_⟩⟩
      exact if_neg (by rw [show fetchReady (ended s c.val x cOK 0) d _ = _ from hready]; decide)

/-- Settles O35: each hand-off to the sync hub. -/
theorem signalsHandOff : Obligations.SignalsHandOff := by
  unfold Obligations.SignalsHandOff
  refine ⟨?_, ?_, ?_, ?_, ?_⟩
  · intro s c x o hs h hop hset ho hworld
    exact arrive_cases hs h hop hset ho hworld
  · intro s c x o hx hw
    exact arriveAckTimeout_cases hx hw
  · intro s c x h hop hset
    exact push_cases h hop hset
  · intro s c x prod h hop hset
    exact ringCmd_cases h hop hset
  · intro s c x hs h hop hset
    exact signalDoorbell_cases hs h hop hset

end Sys2Proof.Proofs
end

section
/-! Bytes of stage memory: what writes and additions leave there (R65, R192, R276). -/

namespace Sys2Proof.Proofs

open Sys2Proof Sys2Proof.Machine Sys2Proof.Laws

/-! ### A stage access leaves the rest -/

/-- A step of stage memory, the record and the free values. -/
def OnlyStage (s t : State) : Prop := t = { s with stage := t.stage, aon := t.aon, fresh := t.fresh }

theorem OnlyStage.refl (s : State) : OnlyStage s s := rfl

theorem OnlyStage.trans {s t u : State} (h : OnlyStage s t) (k : OnlyStage t u) : OnlyStage s u := by
  unfold OnlyStage at h k ⊢
  rw [h] at k
  exact k

theorem OnlyStage.chans {s t : State} (h : OnlyStage s t) : t.chans = s.chans := by rw [h]
theorem OnlyStage.path {s t : State} (h : OnlyStage s t) : t.path = s.path := by rw [h]
theorem OnlyStage.img {s t : State} (h : OnlyStage s t) : t.img = s.img := by rw [h]
theorem OnlyStage.boot {s t : State} (h : OnlyStage s t) : t.boot = s.boot := by rw [h]
theorem OnlyStage.xl {s t : State} (h : OnlyStage s t) : t.xl = s.xl := by rw [h]
theorem OnlyStage.ports {s t : State} (h : OnlyStage s t) : t.ports = s.ports := by rw [h]
theorem OnlyStage.out {s t : State} (h : OnlyStage s t) : t.out = s.out := by rw [h]
theorem OnlyStage.clk {s t : State} (h : OnlyStage s t) : t.clk = s.clk := by rw [h]

theorem OnlyAon.onlyStage {s t : State} (h : OnlyAon s t) : OnlyStage s t := by
  unfold OnlyStage
  rw [h]

theorem onlyStage_grantStage (s : State) (off i : Nat) : OnlyStage s (grantStage s off i) := by
  unfold grantStage
  split
  · rfl
  · exact .refl s

theorem onlyStage_eccEvents (s : State) (off : Nat) (bad : Bool) (n : Nat) : OnlyStage s (eccEvents s off bad n) := by
  unfold eccEvents
  split
  · exact .trans (t := bgEcc s _ _ _) rfl (onlyAon_raise _ _ _ _ _).onlyStage
  · exact .refl s

theorem onlyStage_eccFound (s : State) (off n : Nat) (corr : Bool) : OnlyStage s (eccFound s off n corr) := by
  unfold eccFound
  extract_lets t
  have ht : OnlyStage s t := by
    unfold t
    split
    · exact onlyStage_eccEvents s off false 1
    · exact .refl s
  split
  · exact ht
  · exact ht.trans (onlyStage_eccEvents t off true n)

theorem onlyStage_stageRead (s : State) (off : Nat) (be : LineEn) (input : Nat) (ecc : Ecc) : OnlyStage s (stageRead s off be input ecc).1 := by
  unfold stageRead
  split
  · exact (onlyAon_raise _ _ _ _ _).onlyStage
  · exact (onlyStage_grantStage s off input).trans (onlyStage_eccFound _ off _ _)

theorem onlyStage_stageWriteEcc (s : State) (off : Nat) (d : LineData) (be : LineEn) (input : Nat) (ecc : Ecc) :
    OnlyStage s (stageWriteEcc s off d be input ecc) := by
  unfold stageWriteEcc
  split
  · exact (onlyAon_raise _ _ _ _ _).onlyStage
  · extract_lets whole part known fresh stage t
    exact .trans (t := t) rfl ((onlyStage_grantStage t off input).trans (onlyStage_eccFound _ off _ _))

theorem onlyStage_addCheck (s : State) (off : Nat) (ecc : Ecc) : OnlyStage s (addCheck s off ecc).1 := by
  unfold addCheck
  split
  · exact .refl s
  · extract_lets bad
    split
    · exact onlyStage_eccEvents s off true 1
    · dsimp only
      split
      · exact onlyStage_eccEvents s off false 1
      · exact .refl s

theorem onlyStage_stageAdd (s : State) (off size v input : Nat) : OnlyStage s (stageAdd s off size v input).1 := by
  unfold stageAdd
  split
  · exact (onlyAon_raise _ _ _ _ _).onlyStage
  · exact onlyStage_stageWriteEcc s _ _ _ _ _

/-! ### Enables and bytes of a value within a line -/

theorem getLsbD_runMask {size k i : Nat} (hi : i < 128) :
    (BitVec.ofNat 128 ((2 ^ size - 1) * 2 ^ k)).getLsbD i = decide (k ≤ i ∧ i < k + size) := by
  rw [BitVec.getLsbD_ofNat, Nat.testBit_mul_two_pow, Nat.testBit_two_pow_sub_one]
  have hiff : (i - k < size ∧ k ≤ i) ↔ (k ≤ i ∧ i < k + size) := by omega
  simp only [hi, decide_true, Bool.true_and, ← hiff, Bool.decide_and, Bool.and_comm]

theorem lineByte_shifted (v : Nat) {k i : Nat} (h : k + i < 128) :
    lineByte (BitVec.ofNat 1024 (v * 2 ^ (8 * k))) (k + i) = BitVec.ofNat 8 (v / 2 ^ (8 * i)) := by
  refine BitVec.eq_of_getLsbD_eq fun j hj => ?_
  have hlt : 8 * (k + i) + j < 1024 := by omega
  have hge : 8 * k ≤ 8 * (k + i) + j := by omega
  have hsub : 8 * (k + i) + j - 8 * k = 8 * i + j := by omega
  rw [lineByte, BitVec.getLsbD_extractLsb', BitVec.getLsbD_ofNat, BitVec.getLsbD_ofNat, Nat.testBit_mul_two_pow, Nat.testBit_div_two_pow, hsub,
    Nat.add_comm (8 * i) j]
  simp only [hj, hlt, hge, decide_true, Bool.true_and]

theorem memNat_of_bytes {m : List Host.Cell} {n : Nat} {a v : Nat} (h : ∀ i < n, memByte m (a + i) = BitVec.ofNat 8 (v / 2 ^ (8 * i))) :
    memNat m a n = v % 2 ^ (8 * n) := by
  induction n generalizing a v with
  | zero => simp [memNat, Nat.mod_one]
  | succ n ih =>
    have h0 := h 0 (by omega)
    have htail : memNat m (a + 1) n = v / 256 % 2 ^ (8 * n) := ih fun i hi => by
      have := h (i + 1) (by omega)
      rw [show a + (i + 1) = a + 1 + i by omega] at this
      rw [this, Nat.div_div_eq_div_mul, show 8 * (i + 1) = 8 + 8 * i by omega, Nat.pow_add]
    rw [Nat.add_zero, Nat.mul_zero, Nat.pow_zero, Nat.div_one] at h0
    rw [memNat, h0, htail, BitVec.toNat_ofNat, show 8 * (n + 1) = 8 + 8 * n by omega, Nat.pow_add, Nat.mod_mul]

/-- A line's write of a value at one place leaves its bytes there, and no other. -/
theorem memWrite_run {m : List Host.Cell} (hm : Memory.wf m = true) (off v : Nat) {size : Nat} (hfit : off % 128 + size ≤ 128) :
    let m' := memWrite m (off / 128 * 128) (BitVec.ofNat 1024 (v * 2 ^ (8 * (off % 128)))) (BitVec.ofNat 128 ((2 ^ size - 1) * 2 ^ (off % 128))) 128
    memNat m' off size = v % 2 ^ (8 * size) ∧ ∀ b, b < off ∨ off + size ≤ b → memByte m' b = memByte m b := by
  intro m'
  have hoff : off / 128 * 128 + off % 128 = off := by omega
  refine ⟨memNat_of_bytes fun i hi => ?_, fun b hb => ?_⟩
  · have hen : (BitVec.ofNat 128 ((2 ^ size - 1) * 2 ^ (off % 128))).getLsbD (off % 128 + i) = true := by
      rw [getLsbD_runMask (by omega)]
      exact decide_eq_true ⟨by omega, by omega⟩
    have hbyte := memByte_memWrite_same (off / 128 * 128) (BitVec.ofNat 1024 (v * 2 ^ (8 * (off % 128))))
      (BitVec.ofNat 128 ((2 ^ size - 1) * 2 ^ (off % 128))) 128 (off % 128 + i) hm (by omega) hen
    rw [show off + i = off / 128 * 128 + (off % 128 + i) by omega]
    exact hbyte.trans (lineByte_shifted v (by omega))
  · refine memByte_memWrite_other _ _ _ _ _ hm fun j hj hen => ?_
    rw [getLsbD_runMask hj] at hen
    have hrun := of_decide_eq_true hen
    omega

/-- A line lies in one pool. -/
theorem poolOf_line (s : State) (off : Nat) : poolOf s (off / 128 * 128) = poolOf s off := by
  unfold poolOf
  refine congrArg (fun p => List.find? p _) ?_
  funext e
  have h1 : (524288 * e.2.base ≤ off / 128 * 128) ↔ 524288 * e.2.base ≤ off := by omega
  have h2 : (off / 128 * 128 < 524288 * (e.2.base + e.2.size)) ↔ off < 524288 * (e.2.base + e.2.size) := by omega
  simp only [h1, h2]

/-- An addition in a pool of stage memory adds modulo its size, and changes no other byte. -/
theorem stageAdd_result {s : State} (hm : Memory.wf s.stage.mem = true) {off size : Nat} (hpool : (poolOf s off).isSome = true)
    (hfit : off % 128 + size ≤ 128) (v input : Nat) :
    memNat (stageAdd s off size v input).1.stage.mem off size = (memNat s.stage.mem off size + v) % 2 ^ (8 * size)
      ∧ ∀ b, b < off ∨ off + size ≤ b → memByte (stageAdd s off size v input).1.stage.mem b = memByte s.stage.mem b := by
  have hnone : (poolOf s off).isNone = false := by rw [← Option.not_isSome, hpool]; rfl
  have hlnone : (poolOf s (off / 128 * 128)).isNone = false := by rw [poolOf_line, hnone]
  unfold stageAdd
  rw [if_neg (by rw [hnone]; decide)]
  dsimp only
  rw [stageWriteEcc_mem hlnone]
  obtain ⟨hval, hrest⟩ := memWrite_run hm off ((memNat s.stage.mem off size + v) % 2 ^ (8 * size)) hfit
  exact ⟨hval.trans (Nat.mod_mod _ _), hrest⟩

end Sys2Proof.Proofs
end

section
/-! SIGNAL WRITE and ADD, and how a control descriptor's access is issued (R58, R65, R276). -/

namespace Sys2Proof.Proofs

open Sys2Proof Sys2Proof.Machine Sys2Proof.Laws

/-! ### The leaf and the place of an access -/

theorem preLeaf_write {s : State} {c va : Nat} {x : Stream} {e : XEnt} (hx : stream s c = some x) (hva : va < 2 ^ 49)
    (he : x.pre.find? (fun y => y.region == va / 2 ^ 25 && y.leaf.w) = some e) (opnd : Nat) : preLeaf s c opnd va true = (s, some e.leaf) := by
  have hp : (fun e : XEnt => e.region == va % 2 ^ 49 / 2 ^ 25 && (e.leaf.w || !true)) = fun y => y.region == va / 2 ^ 25 && y.leaf.w := by
    funext y
    rw [Nat.mod_eq_of_lt hva, Bool.not_true, Bool.or_false]
  unfold preLeaf
  simp only [hx, hp, he]

/-- An access in one region has its one leaf. -/
theorem ctlLeaves_one {s : State} {c va n : Nat} {x : Stream} {e : XEnt} (hx : stream s c = some x) (hva : va < 2 ^ 49)
    (hone : (va + (n - 1)) % 2 ^ 49 / 2 ^ 25 = va / 2 ^ 25) (he : x.pre.find? (fun y => y.region == va / 2 ^ 25 && y.leaf.w) = some e) :
    ctlLeaves s c va n = (s, some [⟨va / 2 ^ 25, e.leaf⟩]) := by
  unfold ctlLeaves
  rw [preLeaf_write hx hva he]
  exact if_pos hone.symm

/-- An access within one line has one part. -/
theorem piecesOf_one {s : State} {va n : Nat} {l : Leaf} (hva : va < 2 ^ 49) (hfit : va % 128 + n ≤ 128) (v : Nat) :
    piecesOf s [⟨va / 2 ^ 25, l⟩] va n v = [⟨leafLoc s l va, va, n, v⟩] := by
  have hmin : min n (128 - va % 128) = n := by omega
  have hloc : setLoc s [⟨va / 2 ^ 25, l⟩] (va % 2 ^ 49) = leafLoc s l va := by
    unfold setLoc
    rw [Nat.mod_eq_of_lt hva, List.find?_cons_of_pos (by simp)]
  unfold piecesOf
  rw [hmin, hloc]
  simp

theorem memPortOf_line (s : State) (pa : Nat) : memPortOf s (pa / 128 * 128) = memPortOf s pa := by
  have h1 : pa / 128 * 128 / 2 ^ 7 = pa / 2 ^ 7 := by omega
  have h2 : pa / 128 * 128 / 2 ^ 13 = pa / 2 ^ 13 := by omega
  unfold memPortOf
  rw [h1, h2]

/-! ### The line of an access (R58, R65, R276) -/

/-- Whether a line adds. -/
def isAdd : LineKind → Bool
  | .signal a _ => a
  | _ => false

/-- The line of an access to external memory, as its tag is taken. -/
def accessLine (s : State) (c : Nat) (k : LineKind) (pa va size v : Nat) : Line :=
  { ctlLine s c k (.ext (if isAdd k then pa else pa / 128 * 128)) (atByte va size v) with
    id := takeId s (memPortOf s (if isAdd k then pa else pa / 128 * 128)) }

/-- The line of an access joins those in flight. -/
def accessTaken (s : State) (c : Nat) (k : LineKind) (pa va size v : Nat) : State :=
  (addLine s (ctlLine s c k (.ext (if isAdd k then pa else pa / 128 * 128)) (atByte va size v))).1

theorem addLine_access (s : State) (c : Nat) (k : LineKind) (pa va size v : Nat) :
    addLine s (ctlLine s c k (.ext (if isAdd k then pa else pa / 128 * 128)) (atByte va size v))
      = (accessTaken s c k pa va size v, accessLine s c k pa va size v) := rfl

/-- What is sent for an access to external memory. -/
def accessOut (s : State) (c : Nat) (k : LineKind) (pa va size v scope : Nat) : Out :=
  if isAdd k then .fab (memPortOf s pa) (if size = 8 then 3 else 2) (if size = 8 then 1 else 0) pa (!chanSecure s c) false scope
    (fabId (accessLine s c k pa va size v)) (atByte va size v).1 (atByte va size v).2
  else .fab (memPortOf s pa) 1 3 (pa / 128 * 128) (!chanSecure s c) false 0 (fabId (accessLine s c k pa va size v)) (atByte va size v).1
    (atByte va size v).2

/-- The state behind an access of channel `c` to external memory. -/
def accessSent (s : State) (c : Nat) (k : LineKind) (pa va size v scope : Nat) : State :=
  emit (grantMem (echoDrop (accessTaken s c k pa va size v) pa) (memPortOf s pa) (chanCfg s c).mover) (accessOut s c k pa va size v scope)

theorem echoDrop_line (s : State) (pa : Nat) : echoDrop s (pa / 128 * 128) = echoDrop s pa := by
  have h : pa / 128 * 128 / 128 * 128 = pa / 128 * 128 := by omega
  unfold echoDrop
  rw [h]

section
variable {s : State} {c : Nat} {k : LineKind} {pa va size v : Nat}

theorem lineFenced_access (hopen : (tget (fun _ => 0) s.stage.fenceMem (memPortOf s pa)).getLsbD (chanCfg s c).mover = false) :
    lineFenced (accessTaken s c k pa va size v) (accessLine s c k pa va size v) = false := by
  have hport : memPortOf s (if isAdd k then pa else pa / 128 * 128) = memPortOf s pa := by
    split
    · rfl
    · exact memPortOf_line s pa
  rw [← hport] at hopen
  exact hopen

theorem sendAdd_access (hadd : isAdd k = true)
    (hopen : (tget (fun _ => 0) s.stage.fenceMem (memPortOf s pa)).getLsbD (chanCfg s c).mover = false) (prio scope : Nat) :
    sendAdd (accessTaken s c k pa va size v) (accessLine s c k pa va size v) prio scope size v = accessSent s c k pa va size v scope := by
  have hloc : (accessLine s c k pa va size v).loc = .ext pa := by simp [accessLine, ctlLine, hadd]
  unfold sendAdd
  rw [lineFenced_access hopen, if_neg Bool.false_ne_true, hloc, accessSent, accessOut, if_pos hadd]
  by_cases hsize : size = 8
  · subst hsize
    rfl
  · simp only [hsize]
    rfl

theorem sendLine_access (hadd : isAdd k = false)
    (hopen : (tget (fun _ => 0) s.stage.fenceMem (memPortOf s pa)).getLsbD (chanCfg s c).mover = false) (prio lane scope : Nat) :
    sendLine (accessTaken s c k pa va size v) (accessLine s c k pa va size v) true prio lane = accessSent s c k pa va size v scope := by
  have hloc : (accessLine s c k pa va size v).loc = .ext (pa / 128 * 128) := by simp [accessLine, ctlLine, hadd]
  unfold sendLine
  rw [lineFenced_access hopen, if_neg Bool.false_ne_true, hloc, accessSent, accessOut, hadd, if_neg Bool.false_ne_true, ← echoDrop_line, ← memPortOf_line s pa]
  rfl

theorem putPieces_ext {x : Stream} {scope : Nat} (htag : canTag s (.ext pa) true (dPrio x.desc) = true)
    (hopen : (tget (fun _ => 0) s.stage.fenceMem (memPortOf s pa)).getLsbD (chanCfg s c).mover = false) :
    putPieces s c x k scope [⟨.ext pa, va, size, v⟩] = some (accessSent s c k pa va size v scope, (accessLine s c k pa va size v).id) := by
  have hput : putPieces s c x k scope [⟨.ext pa, va, size, v⟩] = if canTag s (.ext pa) true (dPrio x.desc)
      then some (if isAdd k then sendAdd (accessTaken s c k pa va size v) (accessLine s c k pa va size v)
            (heldPrio (accessTaken s c k pa va size v) c x) scope size v
          else sendLine (accessTaken s c k pa va size v) (accessLine s c k pa va size v) true (heldPrio (accessTaken s c k pa va size v) c x)
            (chanCfg (accessTaken s c k pa va size v) c).mover, (accessLine s c k pa va size v).id)
      else none := by
    cases k with
    | signal a _ => cases a <;> rfl
    | _ => rfl
  rw [hput, if_pos htag]
  cases hadd : isAdd k with
  | true => rw [if_pos rfl, sendAdd_access hadd hopen]
  | false => rw [if_neg Bool.false_ne_true, sendLine_access hadd hopen]

theorem accessSent_chans (scope : Nat) : (accessSent s c k pa va size v scope).chans = s.chans := by
  cases k with
  | signal a _ => cases a <;> rfl
  | _ => rfl

theorem accessSent_out (scope : Nat) : (accessSent s c k pa va size v scope).out = s.out ++ [accessOut s c k pa va size v scope] := rfl

/-- The line of an access is in flight. -/
theorem accessLine_mem (scope : Nat) : accessLine s c k pa va size v ∈ (accessSent s c k pa va size v scope).path.lines := by
  have hmem : accessLine s c k pa va size v ∈ (accessTaken s c k pa va size v).path.lines :=
    List.mem_append_right _ (List.mem_singleton_self _)
  have hself : (if (accessLine s c k pa va size v).echo == 1 && (accessLine s c k pa va size v).loc == .ext (pa / 128 * 128)
      then { accessLine s c k pa va size v with echo := 0 } else accessLine s c k pa va size v) = accessLine s c k pa va size v := if_neg Bool.false_ne_true
  exact List.mem_map.mpr ⟨_, hmem, hself⟩

end

/-- An access to one place of external memory goes out where its port takes it. -/
theorem issueCtl_ext {s : State} {c : Nat} {x : Stream} {k : LineKind} {pa va size v : Nat} (hx : stream s c = some x)
    (hon : powered s (44 + memPortOf s pa / 2) = true) (htag : canTag s (.ext pa) true (dPrio x.desc) = true)
    (hopen : (tget (fun _ => 0) s.stage.fenceMem (memPortOf s pa)).getLsbD (chanCfg s c).mover = false) (scope : Nat) (w : Nat → Wait) :
    issueCtl s c x k [⟨.ext pa, va, size, v⟩] scope w
      = setStream (accessSent s c k pa va size v scope) c { x with
          st := .started, wait := w (accessLine s c k pa va size v).id, pre := [] } := by
  have hready : locReady s (.ext pa) = true := by simp [locReady, locDomains, hon]
  have hstream : stream (accessSent s c k pa va size v scope) c = some x := (stream_of_chans (accessSent_chans scope) c).trans hx
  unfold issueCtl
  extract_lets add wide
  have habs : ¬ ([(⟨.ext pa, va, size, v⟩ : Piece)].any fun p => absentCore s p.loc) = true := Bool.false_ne_true
  rw [if_neg habs]
  have hworld : worldBad s c (.ext pa) = false := Bool.and_false _
  simp only [List.find?_cons, hworld, hready, List.find?_nil, putPieces_ext htag hopen, show autoErr s (.ext pa) true add = false from rfl,
    Bool.not_true]
  exact modStream_of_stream hstream _

/-! ### SIGNAL WRITE and ADD (R58, R65) -/

/-- The command of a SIGNAL WRITE or ADD. -/
def signalCmd (c : Ch) (add : Bool) : Instr := if add then .signalAdd c else .signalWrite c

theorem exec_signal {s : State} {c : Ch} {x : Stream} {add : Bool} (h : Decoded s c.val x 5) (hop : sSop x.desc = if add then 1 else 0) :
    exec (signalCmd c add) s = .next (signalOp s c.val x add) := by
  have hsig := sig_of_decoded h hop
  cases add with
  | true =>
    simp only [if_true] at hsig
    simp only [signalCmd, if_true, exec, execSignalAdd, hsig]
  | false =>
    simp only [Bool.false_eq_true, if_false] at hsig
    simp only [signalCmd, Bool.false_eq_true, if_false, exec, execSignalWrite, hsig]

theorem handOff_waits {s : State} {c : Nat} (hlate : lateErr s c (sinceBack s c) = none) (hout : writesOut s c (sinceBack s c) = true)
    (act : State → State) : handOff s c act = s := by
  unfold handOff
  rw [hlate]
  exact if_pos hout

theorem sSize_cases (d : DescData) : sSize d = 4 ∨ sSize d = 8 := by
  unfold sSize
  split <;> simp

/-- What goes out for a SIGNAL WRITE or ADD, and its line. -/
theorem signalSent_result (s : State) (c pa va size v scope : Nat) (add wide : Bool) :
    (accessSent s c (.signal add wide) pa va size v scope).out = s.out ++ [.fab (memPortOf s pa)
        (if add then (if size = 8 then 3 else 2) else 1) (if add then (if size = 8 then 1 else 0) else 3)
        (if add then pa else pa / 128 * 128) (!chanSecure s c) false (if add then scope else 0)
        (fabId (accessLine s c (.signal add wide) pa va size v)) (atByte va size v).1 (atByte va size v).2]
      ∧ accessLine s c (.signal add wide) pa va size v ∈ (accessSent s c (.signal add wide) pa va size v scope).path.lines
      ∧ (accessLine s c (.signal add wide) pa va size v).id = (accessLine s c (.signal add wide) pa va size v).id
      ∧ (accessLine s c (.signal add wide) pa va size v).ch = c ∧ (accessLine s c (.signal add wide) pa va size v).kind = .signal add wide
      ∧ (accessLine s c (.signal add wide) pa va size v).data = (atByte va size v).1
      ∧ (accessLine s c (.signal add wide) pa va size v).be = (atByte va size v).2 := by
  refine ⟨(accessSent_out scope).trans ?_, accessLine_mem scope, rfl, rfl, rfl, rfl, rfl⟩
  unfold accessOut
  cases add <;> rfl

theorem signal_issues {s : State} {c : Ch} {x : Stream} {add : Bool} {e : XEnt} {pa : Nat} (h : Decoded s c.val x 5)
    (hop : sSop x.desc = if add then 1 else 0) :
    let va := dVa x.desc 2
    let size := sSize x.desc
    let m := memPortOf s pa
    let data := BitVec.ofNat 1024 (dW x.desc 3 0 64 % 2 ^ (8 * size) * 2 ^ (8 * (va % 128)))
    let be := BitVec.ofNat 128 ((2 ^ size - 1) * 2 ^ (va % 128))
    x.pre.find? (fun y => y.region == va / 2 ^ 25 && y.leaf.w) = some e → va % size = 0 → leafLoc s e.leaf va = .ext pa →
      powered s (44 + m / 2) = true → canTag s (.ext pa) true (dPrio x.desc) = true →
      (tget (fun _ => 0) s.stage.fenceMem m).getLsbD (chanCfg s c.val).mover = false →
      (dFinal x.desc = false ∨ Settled s c.val) →
      ∃ t id tag, exec (signalCmd c add) s = .next t ∧ stream t c.val = some { x with st := .started, wait := .signal id, pre := [] }
        ∧ t.out = s.out ++ [.fab m (if add then (if size = 8 then 3 else 2) else 1) (if add then (if size = 8 then 1 else 0) else 3)
            (if add then pa else pa / 128 * 128) (!chanSecure s c.val) false (if add then sScope x.desc else 0) tag data be]
        ∧ ∃ l ∈ t.path.lines, l.id = id ∧ l.ch = c.val ∧ l.kind = .signal add (size == 8) ∧ l.data = data ∧ l.be = be := by
  intro va size m data be he halign hloc hon htag hopen hfinal
  have hx := h.acts.here
  have hva : va < 2 ^ 49 := Nat.mod_lt _ (by decide)
  have hfit : va % 128 + size ≤ 128 ∧ (va + (size - 1)) % 2 ^ 49 / 2 ^ 25 = va / 2 ^ 25 := by
    rcases sSize_cases x.desc with hsize | hsize
    all_goals
      have hsize' : size = _ := hsize
      rw [hsize'] at halign ⊢
      omega
  obtain ⟨hline, hone⟩ := hfit
  have hissue := issueCtl_ext (k := .signal add (size == 8)) (va := va) (size := size) (v := dW x.desc 3 0 64) hx hon htag hopen (sScope x.desc)
    fun id => .signal id
  have hexec : exec (signalCmd c add) s = .next (setStream (accessSent s c.val (.signal add (size == 8)) pa va size (dW x.desc 3 0 64) (sScope x.desc))
      c.val { x with
        st := .started, wait := .signal (accessLine s c.val (.signal add (size == 8)) pa va size (dW x.desc 3 0 64)).id, pre := [] }) := by
    rw [exec_signal h hop, ← hissue]
    have hact : ∀ act : State → State, (if dFinal x.desc then handOff s c.val act else act s) = act s := fun act => by
      split
      · next hf => exact handOff_settled (hfinal.resolve_left (by rw [hf]; decide)) act
      · rfl
    unfold signalOp
    extract_lets issue
    rw [hact]
    simp only [issue]
    rw [ctlLeaves_one hx hva hone he]
    dsimp only
    rw [piecesOf_one hva hline, hloc]
  obtain ⟨hout, hline⟩ := signalSent_result s c.val pa va size (dW x.desc 3 0 64) (sScope x.desc) add (size == 8)
  generalize accessSent s c.val (.signal add (size == 8)) pa va size (dW x.desc 3 0 64) (sScope x.desc) = u at hexec hout hline
  generalize accessLine s c.val (.signal add (size == 8)) pa va size (dW x.desc 3 0 64) = l at hexec hout hline
  exact ⟨_, l.id, fabId l, hexec, stream_setStream _ _ _, hout, l, hline⟩

theorem signal_held {s : State} {c : Ch} {x : Stream} {add : Bool} (h : Decoded s c.val x 5) (hop : sSop x.desc = if add then 1 else 0)
    (hfinal : dFinal x.desc = true) (hlate : lateErr s c.val (sinceBack s c.val) = none) (hout : writesOut s c.val (sinceBack s c.val) = true) :
    exec (signalCmd c add) s = .next s := by
  rw [exec_signal h hop, signalOp]
  exact congrArg _ ((if_pos hfinal).trans (handOff_waits hlate hout _))

/-! ### The response of a SIGNAL (R65) -/

/-- The lines in flight alone decide what becomes of them as one leaves. -/
theorem path_dropLine {s t : State} (h : t.path = s.path) (id : Nat) : (dropLine t id).path = (dropLine s id).path := by
  have hline : lineOf t id = lineOf s id := by rw [lineOf, h]; rfl
  unfold dropLine
  rw [hline]
  extract_lets t' s'
  have hlines : t'.path = s'.path := by
    simp only [t', s', setLines, h]
  cases lineOf s id with
  | none => exact hlines
  | some l =>
    dsimp only
    split
    · split
      · simp only [echoDrop, hlines]
      · exact hlines
    · exact hlines

theorem dropLine_chans (s : State) (id : Nat) : (dropLine s id).chans = s.chans := by
  unfold dropLine
  extract_lets t
  split
  · split
    · split <;> rfl
    · rfl
  · rfl

theorem dropLine_stage (s : State) (id : Nat) : (dropLine s id).stage = s.stage := by
  unfold dropLine
  extract_lets t
  split
  · split
    · split <;> rfl
    · rfl
  · rfl

theorem lineOf_dropLine_self (s : State) (id : Nat) : lineOf (dropLine s id) id = none := by
  rw [lineOf_eq_none_iff, lineIds_dropLine]
  simp

/-- What the end of a SIGNAL leaves: its line has gone, and it is done. -/
structure SignalEnds (s t : State) (c : Nat) (x : Stream) (l : Line) (code d : Nat) : Prop where
  path : t.path = (dropLine s l.id).path
  line : lineOf t l.id = none
  done : stream t c = some { x with wait := .none, st := .done code d }

theorem signalEnds_finish {s u : State} {c : Nat} {x : Stream} {l : Line} (hpath : u.path = (dropLine s l.id).path) (hx : stream u c = some x)
    (code d : Nat) : SignalEnds s (finish u c code d) c x l code d := by
  rw [finish_of_stream hx]
  refine ⟨hpath, ?_, stream_ended _ _ _ _ _⟩
  have hnone := lineOf_dropLine_self s l.id
  unfold lineOf at hnone ⊢
  rw [← hpath] at hnone
  exact hnone

theorem lineFail_signal {s : State} {l : Line} {x : Stream} {add wide : Bool} (hx : stream s l.ch = some x) (hseq : l.dseq = (chan s l.ch).seq)
    (hk : l.kind = .signal add wide) (hw : x.wait = .signal l.id) (e : LErr) :
    lineFail s l e = finish (if e == .timeout then timeoutEvent (dropLine s l.id) l.ch else dropLine s l.id) l.ch (errOut (.signal add wide) e).1
      (errOut (.signal add wide) e).2 := by
  unfold lineFail
  rw [hk]
  dsimp only
  have hchans : (if e == .timeout then timeoutEvent (dropLine s l.id) l.ch else dropLine s l.id).chans = s.chans := by
    split
    · exact (raise_chans _ _ _ _ _).trans (dropLine_chans _ _)
    · exact dropLine_chans _ _
  generalize (if e == .timeout then timeoutEvent (dropLine s l.id) l.ch else dropLine s l.id) = u at hchans ⊢
  rw [(stream_of_chans hchans l.ch).trans hx, chan_of_chans hchans]
  dsimp only
  rw [if_neg (by simp [hseq]), if_pos (by rw [hw]; exact beq_self_eq_true _)]

theorem signalEnds_lineFail {s u : State} {l : Line} {x : Stream} {add wide : Bool} (hpath : u.path = s.path) (hchans : u.chans = s.chans)
    (hx : stream s l.ch = some x) (hseq : l.dseq = (chan s l.ch).seq) (hk : l.kind = .signal add wide) (hw : x.wait = .signal l.id) (e : LErr) :
    SignalEnds s (lineFail u l e) l.ch x l (errOut (.signal add wide) e).1 (errOut (.signal add wide) e).2 := by
  have hxu : stream u l.ch = some x := (stream_of_chans hchans l.ch).trans hx
  rw [lineFail_signal hxu (by rw [chan_of_chans hchans]; exact hseq) hk hw]
  have hdrop : stream (dropLine u l.id) l.ch = some x := (stream_of_chans (dropLine_chans u l.id) l.ch).trans hxu
  split
  · refine signalEnds_finish ((raise_path _ _ _ _ _).trans (path_dropLine hpath _)) ?_ _ _
    exact (stream_of_chans (raise_chans _ _ _ _ _) l.ch).trans hdrop
  · exact signalEnds_finish (path_dropLine hpath _) hdrop _ _

theorem errEvent_ext (s : State) (pa op resp : Nat) :
    (errEvent s (.ext pa) op resp).path = s.path ∧ (errEvent s (.ext pa) op resp).chans = s.chans :=
  ⟨raise_path _ _ _ _ _, raise_chans _ _ _ _ _⟩

theorem lineGhost_frame (s : State) (l : Line) : (lineGhost s l).path = s.path ∧ (lineGhost s l).chans = s.chans := by
  unfold lineGhost
  extract_lets port
  clear_value port
  cases port with
  | none => exact ⟨rfl, rfl⟩
  | some p =>
    dsimp only
    split <;> exact ⟨rfl, rfl⟩

theorem unhold_frame (s : State) (id : Nat) : (unhold s id).path = s.path ∧ (unhold s id).chans = s.chans := by
  unfold unhold
  refine List.foldlRecOn (motive := fun t : State => t.path = s.path ∧ t.chans = s.chans) _ _ ⟨rfl, rfl⟩ fun t ht n _ => ?_
  dsimp only
  split
  · exact ht
  · exact ht

/-- The response of a SIGNAL to external memory. -/
theorem signalResponse_ext {s : State} {c : Ch} {x : Stream} {l : Line} {a : SigAns} {add wide : Bool} {pa : Nat}
    (hx : stream s c.val = some x) (hw : x.wait = .signal l.id) (hl : lineOf s l.id = some l) (hch : l.ch = c.val)
    (hseq : l.dseq = (chan s c.val).seq) (hk : l.kind = .signal add wide) (hloc : l.loc = .ext pa) (hheld : heldAtCore s l = false)
    (hleft : l.left = []) (hecho : l.echo = 0) :
    ∃ t, exec (.signalResponse c a) s = .next t ∧ t.path = (dropLine s l.id).path ∧ lineOf t l.id = none
      ∧ stream t c.val = some { x with wait := .none, st := match a with
          | .okay => .done cOK 0 | .timeout => .done cTIMEOUT 2 | .world => .done cWORLD 1 | _ => .done cECC 0 } := by
  have hno : noAnswer s l = false := by simp [noAnswer, hleft, hloc, hecho]
  have hopen : (isRemote l.loc || heldAtCore s l || !l.left.isEmpty || noAnswer s l || anyGate s [l.loc]) = false := by
    rw [hheld, hno, hleft, hloc]
    rfl
  have hperform : signalPerform s l = (s, false) := by
    unfold signalPerform
    rw [hk, hloc]
    cases add <;> simp [performStage, hloc]
  have fails : ∀ {u : State} {e : LErr}, u.path = s.path → u.chans = s.chans →
      SignalEnds s (lineFail u l e) c.val x l (errOut (.signal add wide) e).1 (errOut (.signal add wide) e).2 := fun hpath hchans => by
    rw [← hch] at hx hseq ⊢
    exact signalEnds_lineFail hpath hchans hx hseq hk hw _
  have hev : ∀ op resp, (errEvent s l.loc op resp).path = s.path ∧ (errEvent s l.loc op resp).chans = s.chans := fun op resp => by
    rw [hloc]
    exact errEvent_ext s pa op resp
  have wrap : ∀ {t : State} {code d : Nat} {st : StreamSt}, SignalEnds s t c.val x l code d → StreamSt.done code d = st →
      t.path = (dropLine s l.id).path ∧ lineOf t l.id = none ∧ stream t c.val = some { x with wait := .none, st := st } := fun h hst => by
    rw [← hst]
    exact ⟨h.path, h.line, h.done⟩
  have hghost : (unhold (lineGhost s l) l.id).path = s.path ∧ (unhold (lineGhost s l) l.id).chans = s.chans :=
    ⟨(unhold_frame _ _).1.trans (lineGhost_frame s l).1, (unhold_frame _ _).2.trans (lineGhost_frame s l).2⟩
  cases a with
  | okay =>
    refine ⟨finish (dropLine s l.id) c.val cOK 0, ?_, wrap (signalEnds_finish rfl ((stream_of_chans (dropLine_chans s l.id) c.val).trans hx) _ _) rfl⟩
    simp only [exec, execSignalResponse, hx, hw, hl, hopen, hperform]
    rw [hloc]
    rfl
  | poison =>
    refine ⟨lineFail (errEvent s l.loc (lineOp (.signal add wide)) 1) l .poison, ?_, wrap (fails (hev _ _).1 (hev _ _).2) rfl⟩
    simp only [exec, execSignalResponse, hx, hw, hl, hopen, hk]
    rw [hloc]
    cases add <;> rfl
  | error =>
    refine ⟨lineFail (errEvent s l.loc (lineOp (.signal add wide)) 2) l .error, ?_, wrap (fails (hev _ _).1 (hev _ _).2) rfl⟩
    simp only [exec, execSignalResponse, hx, hw, hl, hopen, hk]
    rw [hloc]
    cases add <;> rfl
  | world =>
    refine ⟨lineFail (errEvent s l.loc (lineOp (.signal add wide)) 3) l .world, ?_, wrap (fails (hev _ _).1 (hev _ _).2) rfl⟩
    simp only [exec, execSignalResponse, hx, hw, hl, hopen, hk]
    rw [hloc]
    cases add <;> rfl
  | timeout =>
    refine ⟨lineFail (unhold (lineGhost s l) l.id) l .timeout, ?_, wrap (fails hghost.1 hghost.2) rfl⟩
    simp only [exec, execSignalResponse, hx, hw, hl]
    rfl

/-- The response of a SIGNAL that adds in stage memory. -/
theorem signalResponse_stage {s : State} {c : Ch} {x : Stream} {l : Line} {wide : Bool} {o : Nat} (hs : Canon s)
    (hx : stream s c.val = some x) (hw : x.wait = .signal l.id) (hl : lineOf s l.id = some l) (hk : l.kind = .signal true wide)
    (hloc : l.loc = .stage o) (hheld : heldAtCore s l = false) (hleft : l.left = []) (hfence : lineFenced s l = false)
    (hgate : gateClosed s o = false) :
    let size := if wide then 8 else 4
    o % size = 0 → (poolOf s o).isSome = true → s.stage.bad.contains (o / 8 * 8) = false →
    ∃ t, exec (.signalResponse c .okay) s = .next t ∧ stream t c.val = some { x with st := .done cOK 0, wait := .none }
      ∧ memNat t.stage.mem o size = (memNat s.stage.mem o size + lineValue l o size) % 2 ^ (8 * size)
      ∧ ∀ b, b < o ∨ o + size ≤ b → memByte t.stage.mem b = memByte s.stage.mem b := by
  intro size halign hpool hbad
  have hopen : (isRemote l.loc || heldAtCore s l || !l.left.isEmpty || noAnswer s l || anyGate s [l.loc]) = false := by
    have hno : noAnswer s l = false := by simp [noAnswer, hleft, hloc, hfence]
    rw [hheld, hno, hleft, hloc]
    simp [isRemote, anyGate, hgate]
  have hsize : o % 128 + size ≤ 128 := by
    have : size = 8 ∨ size = 4 := by
      unfold size
      split <;> simp
    rcases this with h8 | h4
    · rw [h8] at halign ⊢
      omega
    · rw [h4] at halign ⊢
      omega
  have hgood : (addCheck (bump s) o (freeEcc s)).2 = false := by
    have hfree : (freeEcc s == .uncorrectable) = false := by
      unfold freeEcc
      split <;> rfl
    unfold addCheck
    split
    · rfl
    · simp only [hfree, Bool.or_false]
      exact hbad
  have hcheck : OnlyStage s (addCheck (bump s) o (freeEcc s)).1 := .trans (t := bump s) rfl (onlyStage_addCheck _ _ _)
  have hmem : (addCheck (bump s) o (freeEcc s)).1.stage.mem = s.stage.mem :=
    congrArg (fun k => k.2.2) (addCheck_kept (bump s) o (freeEcc s))
  have hperform : signalPerform s l
      = ((stageAdd (addCheck (bump s) o (freeEcc s)).1 o size (lineValue l o size) l.lane).1, false) := by
    unfold signalPerform
    rw [hk, hloc]
    dsimp only
    rw [hgood]
    rfl
  generalize (addCheck (bump s) o (freeEcc s)).1 = u at hcheck hmem hperform
  have hwf : Memory.wf u.stage.mem = true := by rw [hmem]; exact hs.mem
  have hpoolu : (poolOf u o).isSome = true := by
    rw [← hpool]
    unfold poolOf im
    rw [hcheck.img]
  obtain ⟨hval, hrest⟩ := stageAdd_result hwf hpoolu hsize (lineValue l o size) l.lane
  have hadd : OnlyStage s (stageAdd u o size (lineValue l o size) l.lane).1 := hcheck.trans (onlyStage_stageAdd _ _ _ _ _)
  generalize (stageAdd u o size (lineValue l o size) l.lane).1 = v at hperform hval hrest hadd
  have hxv : stream (dropLine v l.id) c.val = some x :=
    (stream_of_chans ((dropLine_chans v l.id).trans hadd.chans) c.val).trans hx
  refine ⟨finish (dropLine v l.id) c.val cOK 0, ?_, ?_, ?_, fun b hb => ?_⟩
  · simp only [exec, execSignalResponse, hx, hw, hl, hopen, hperform]
    rw [hloc]
    rfl
  · rw [finish_of_stream hxv, stream_ended]
  · rw [finish_of_stream hxv]
    refine (congrArg (fun k => memNat k.mem o size) (dropLine_stage v l.id)).trans ?_
    rw [hval, hmem]
  · rw [finish_of_stream hxv]
    refine (congrArg (fun k => memByte k.mem b) (dropLine_stage v l.id)).trans ?_
    rw [hrest b hb, hmem]

/-- Settles O34: how a SIGNAL WRITE or ADD goes out, waits, and ends. -/
theorem signalsWriteAndAdd : Obligations.SignalsWriteAndAdd := by
  unfold Obligations.SignalsWriteAndAdd
  refine ⟨?_, ?_, ?_⟩
  · intro s c x add e pa _ h hop
    exact ⟨signal_issues h hop, signal_held h hop⟩
  · intro s c x l a add wide pa _ hx hw hl hch hseq hk hloc hheld hleft hecho
    exact signalResponse_ext hx hw hl hch hseq hk hloc hheld hleft hecho
  · intro s c x l wide o hs hx hw hl hk hloc hheld hleft hfence hgate
    exact signalResponse_stage hs hx hw hl hk hloc hheld hleft hfence hgate

end Sys2Proof.Proofs
end

section
/-! Polls of a WAIT VALUE: their comparison, their bytes and the reads they send (R66, R268, R274). -/

namespace Sys2Proof.Proofs

open Sys2Proof Sys2Proof.Machine Sys2Proof.Laws

/-! ### Numbers from bytes -/

theorem leNat_append (l m : List Byte) : leNat (l ++ m) = leNat l + 2 ^ (8 * l.length) * leNat m := by
  induction l with
  | nil => simp [leNat]
  | cons b l ih =>
    rw [List.cons_append, leNat, leNat, ih, List.length_cons, show 8 * (l.length + 1) = 8 + 8 * l.length by omega, Nat.pow_add]
    ring

theorem leNat_bytesOf (v i n : Nat) : leNat ((List.range n).map fun k => BitVec.ofNat 8 (v / 2 ^ (8 * (i + k)))) = v / 2 ^ (8 * i) % 2 ^ (8 * n) := by
  induction n with
  | zero => simp [leNat, Nat.mod_one]
  | succ n ih =>
    rw [List.range_succ, List.map_append, leNat_append, ih, List.length_map, List.length_range, List.map_singleton, leNat, leNat, BitVec.toNat_ofNat,
      show 8 * (n + 1) = 8 * n + 8 by omega, Nat.pow_add (2 : Nat) (8 * n) 8, Nat.mod_mul, Nat.mul_zero, Nat.add_zero, Nat.div_div_eq_div_mul,
      ← Nat.pow_add, show 8 * (i + n) = 8 * i + 8 * n by omega]

theorem memNat_succ_last (m : List Host.Cell) (a n : Nat) : memNat m a (n + 1) = memNat m a n + 2 ^ (8 * n) * (memByte m (a + n)).toNat := by
  induction n generalizing a with
  | zero => simp [memNat]
  | succ n ih =>
    rw [memNat, ih, memNat, show a + 1 + n = a + (n + 1) by omega, show 8 * (n + 1) = 8 + 8 * n by omega, Nat.pow_add]
    ring

theorem leNat_memBytes (m : List Host.Cell) (a n : Nat) : leNat ((List.range n).map fun k => memByte m (a + k)) = memNat m a n := by
  induction n with
  | zero => rfl
  | succ n ih =>
    rw [List.range_succ, List.map_append, leNat_append, ih, List.length_map, List.length_range, List.map_singleton, leNat, leNat, memNat_succ_last]
    ring

/-! ### The comparison (Table 03-12) -/

theorem sext_ofNat (n v : Nat) : sext v n = (BitVec.ofNat n v).toInt := by
  rw [sext, BitVec.toInt, BitVec.toNat_ofNat]
  rcases n with _ | n
  · simp [Nat.mod_one]
  · have h2 : 2 ^ (n + 1) = 2 * 2 ^ n := by rw [Nat.pow_succ]; ring
    have hz : (2 : Int) ^ (n + 1) = ((2 * 2 ^ n : Nat) : Int) := by push_cast; ring
    rw [Nat.add_sub_cancel, hz, h2]
    generalize 2 ^ n = p
    generalize v % (2 * p) = q
    split <;> split <;> omega

theorem waitCmp_eq_valueIs (x : Stream) (h : wCmp x.desc ≤ 5) (w : Nat) : waitCmp x.desc w = valueIs x w := by
  have hbeq : ∀ n a b : Nat, (a % 2 ^ n == b % 2 ^ n) = (BitVec.ofNat n a == BitVec.ofNat n b) := fun n a b => by
    rw [Bool.eq_iff_iff, beq_iff_eq, beq_iff_eq, ← BitVec.toNat_inj, BitVec.toNat_ofNat, BitVec.toNat_ofNat]
  have hsext : ∀ n a : Nat, sext (a % 2 ^ n) n = (BitVec.ofNat n a).toInt := fun n a => by
    rw [sext_ofNat]
    congr 1
    exact BitVec.eq_of_toNat_eq (by simp)
  unfold waitCmp valueIs
  extract_lets n a b a' b'
  have hcases : wCmp x.desc = 0 ∨ wCmp x.desc = 1 ∨ wCmp x.desc = 2 ∨ wCmp x.desc = 3 ∨ wCmp x.desc = 4 ∨ wCmp x.desc = 5 := by omega
  rcases hcases with hc | hc | hc | hc | hc | hc
  all_goals rw [hc]
  · exact hbeq n _ _
  · exact congrArg not (hbeq n _ _)
  · simp only [a, b, a', b', BitVec.toNat_ofNat]
  · simp only [a, b, a', b', BitVec.toNat_ofNat]
  · simp [a, b, a', b', hsext]
  · simp [a, b, a', b', hsext]

/-- Only the bits of the WAIT's SIZE are compared. -/
theorem valueIs_mod (x : Stream) (w : Nat) : valueIs x (w % 2 ^ (8 * wSize x.desc)) = valueIs x w := by
  have hmask : BitVec.ofNat (8 * wSize x.desc) (w % 2 ^ (8 * wSize x.desc) &&& dW x.desc 4 0 64)
      = BitVec.ofNat (8 * wSize x.desc) (w &&& dW x.desc 4 0 64) := by
    refine BitVec.eq_of_toNat_eq ?_
    rw [BitVec.toNat_ofNat, BitVec.toNat_ofNat, Nat.and_mod_two_pow, Nat.mod_mod, ← Nat.and_mod_two_pow]
  unfold valueIs
  dsimp only
  rw [hmask]

/-! ### The parts of a poll (R268) -/

theorem wSize_cases (d : DescData) : wSize d = 4 ∨ wSize d = 8 := by
  unfold wSize
  split <;> simp

/-- A place of a value whose region is the leaf's. -/
theorem setLoc_region {s : State} {e : XEnt} {va : Nat} (hva : va < 2 ^ 49) (he : e.region = va / 2 ^ 25) :
    setLoc s [e] (va % 2 ^ 49) = leafLoc s e.leaf va := by
  unfold setLoc
  rw [Nat.mod_eq_of_lt hva, List.find?_cons_of_pos (by simp [he])]

section
variable {s : State} {x : Stream} {e : XEnt}

/-- A poll within one line has one part. -/
theorem pollPieces_one (he : e.region = dVa x.desc 2 / 2 ^ 25) (hfit : wSize x.desc ≤ 128 - dVa x.desc 2 % 128) :
    pollPieces s x [e] = [⟨leafLoc s e.leaf (dVa x.desc 2), dVa x.desc 2, wSize x.desc, 0⟩] := by
  have hva : dVa x.desc 2 < 2 ^ 49 := Nat.mod_lt _ (by decide)
  unfold pollPieces piecesOf
  rw [Nat.min_eq_left hfit, setLoc_region hva he]
  simp

/-- A poll over a line's end has two parts. -/
theorem pollPieces_two (he : e.region = dVa x.desc 2 / 2 ^ 25) (hover : 128 - dVa x.desc 2 % 128 < wSize x.desc)
    (hone : (dVa x.desc 2 + (wSize x.desc - 1)) / 2 ^ 25 = dVa x.desc 2 / 2 ^ 25) :
    pollPieces s x [e] = [⟨leafLoc s e.leaf (dVa x.desc 2), dVa x.desc 2, 128 - dVa x.desc 2 % 128, 0⟩,
      ⟨leafLoc s e.leaf (dVa x.desc 2 + (128 - dVa x.desc 2 % 128)), dVa x.desc 2 + (128 - dVa x.desc 2 % 128),
        wSize x.desc - (128 - dVa x.desc 2 % 128), 0⟩] := by
  have hva : dVa x.desc 2 < 2 ^ 49 := Nat.mod_lt _ (by decide)
  have hnext : dVa x.desc 2 + (128 - dVa x.desc 2 % 128) < 2 ^ 49 ∧ e.region = (dVa x.desc 2 + (128 - dVa x.desc 2 % 128)) / 2 ^ 25 := by
    rw [he]
    omega
  unfold pollPieces piecesOf
  rw [Nat.min_eq_right (le_of_lt hover), setLoc_region hva he]
  dsimp only
  rw [if_pos hover, setLoc_region hnext.1 hnext.2]
  simp

/-- Every part of a poll lies at a byte of its value. -/
theorem mem_pollPieces (he : e.region = dVa x.desc 2 / 2 ^ 25)
    (hone : (dVa x.desc 2 + (wSize x.desc - 1)) / 2 ^ 25 = dVa x.desc 2 / 2 ^ 25) {p : Piece} (hp : p ∈ pollPieces s x [e]) :
    ∃ k < wSize x.desc, p.loc = leafLoc s e.leaf (dVa x.desc 2 + k) := by
  have hpos : 0 < wSize x.desc := by rcases wSize_cases x.desc with h | h <;> omega
  by_cases hfit : wSize x.desc ≤ 128 - dVa x.desc 2 % 128
  · rw [pollPieces_one he hfit, List.mem_singleton] at hp
    exact ⟨0, hpos, by rw [hp, Nat.add_zero]⟩
  · rw [pollPieces_two he (by omega) hone] at hp
    rcases List.mem_cons.mp hp with rfl | hp
    · exact ⟨0, hpos, by rw [Nat.add_zero]⟩
    · exact ⟨128 - dVa x.desc 2 % 128, by omega, by rw [List.mem_singleton.mp hp]⟩

end

/-! ### The reads that a poll sends (R66, R274) -/

/-- The address of a place's request: the whole line's where its SIZE is 3. -/
def reqAddr (size pa : Nat) : Nat := if size = 3 then pa / 128 * 128 else pa

theorem memPortOf_reqAddr (s : State) (size pa : Nat) : memPortOf s (reqAddr size pa) = memPortOf s pa := by
  unfold reqAddr
  split
  · exact memPortOf_line s pa
  · rfl

/-- What a read of external memory's place sends. -/
def readOut (s : State) (c size : Nat) (vol : Bool) (scope pa id : Nat) : Out :=
  .fab (memPortOf s (reqAddr size pa)) 0 size (reqAddr size pa) (!chanSecure s c) vol scope id 0 0

theorem chanOwn_of_img {s t : State} (h : t.img = s.img) (c : Nat) : chanCfg t c = chanCfg s c ∧ chanSecure t c = chanSecure s c := by
  unfold chanSecure chanCfg im
  rw [h]
  exact ⟨rfl, rfl⟩

theorem memPortOf_of_img {s t : State} (h : t.img = s.img) (pa : Nat) : memPortOf t pa = memPortOf s pa := by
  unfold memPortOf memPorts im
  rw [h]

/-- The last place's request of a read goes out behind those of the places before it. -/
theorem sendReads_concat {s : State} (c prio size : Nat) (vol : Bool) (scope : Nat) {locs : List Loc} (hext : ∀ l ∈ locs, IsExt l) {pa : Nat}
    (hopen : memFenced s (memPortOf s pa) (chanCfg s c).mover = false) :
    sendReads s c prio size vol scope (locs ++ [.ext pa])
      = sendOne (sendReads s c prio size vol scope locs) c size vol scope (reqAddr size pa) locs.length := by
  have hframe := (sendReads_onlyReads (s := s) c prio size vol scope hext).1
  have hloc : (if size = 3 || isRemote (.ext pa) then locLine (.ext pa) else .ext pa) = Loc.ext (reqAddr size pa) := by
    simp only [reqAddr, isRemote, Bool.or_false, decide_eq_true_eq]
    split <;> rfl
  rw [sendReads, List.zipIdx_append, List.foldl_append, ← sendReads]
  generalize sendReads s c prio size vol scope locs = u at hframe ⊢
  have hown := chanOwn_of_img hframe.img c
  have hfence : lineFenced u (pollLine u c (.ext (reqAddr size pa))) = false := by
    change memFenced u (memPortOf u (reqAddr size pa)) (chanCfg u c).mover = false
    rw [hown.1, memPortOf_of_img hframe.img, memPortOf_reqAddr]
    unfold memFenced at hopen ⊢
    rw [hframe]
    exact hopen
  simp only [List.zipIdx_singleton, List.foldl_cons, List.foldl_nil, Nat.zero_add, hloc, hfence]
  unfold sendOne
  rw [hown.1, hown.2]
  rfl

/-- The requests of a read of external memory go out, one for each place. -/
theorem sendReads_out {s : State} (c prio size : Nat) (vol : Bool) (scope : Nat) {locs : List Loc}
    (hext : ∀ l ∈ locs, ∃ pa, l = .ext pa ∧ memFenced s (memPortOf s pa) (chanCfg s c).mover = false) :
    ∃ ids : List Nat, ids.length = locs.length
      ∧ (sendReads s c prio size vol scope locs).out = s.out ++ (locs.zip ids).map fun e => readOut s c size vol scope (locPa s e.1) e.2 := by
  induction locs using List.reverseRecOn with
  | nil => exact ⟨[], rfl, by simp [sendReads]⟩
  | append_singleton locs l ih =>
    obtain ⟨pa, rfl, hopen⟩ := hext l (by simp)
    have hlocs : ∀ l ∈ locs, IsExt l := fun l hl => (hext l (by simp [hl])).imp fun _ h => h.1
    obtain ⟨ids, hlen, hout⟩ := ih fun l hl => hext l (by simp [hl])
    have himg := (sendReads_onlyReads (s := s) c prio size vol scope hlocs).1.img
    rw [sendReads_concat c prio size vol scope hlocs hopen]
    generalize sendReads s c prio size vol scope locs = u at hout himg
    refine ⟨ids ++ [(ownReq (grantMem u (memPortOf u (reqAddr size pa)) (chanCfg u c).mover) (memPortOf u (reqAddr size pa)) 0 (reqAddr size pa)
      (.poll c locs.length)).2 % 65536], by simp [hlen], ?_⟩
    rw [List.zip_append hlen.symm, List.map_append, ← List.append_assoc, ← hout]
    simp only [List.zip_cons_cons, List.zip_nil_left, List.map_cons, List.map_nil, readOut, locPa]
    rw [← (chanOwn_of_img himg c).2, ← memPortOf_of_img himg]
    rfl

end Sys2Proof.Proofs
end

section
/-! WAIT: a VALUE's polls, a POP, and the conditions of barriers and rings (R66, R162, R171 to R173, R268, R274, R283). -/

namespace Sys2Proof.Proofs

open Sys2Proof Sys2Proof.Machine Sys2Proof.Laws

/-! ### A poll of external memory goes out (R66, R274) -/

theorem waitOp_of_decoded {s : State} {c : Nat} {x : Stream} (h : Decoded s c x 6) : waitOp s c (wWop x.desc) = some x := by
  unfold waitOp
  rw [fresh_of_decoded h]
  exact if_pos rfl

/-- A place that the channel may read: external memory, or stage memory of a world that it reaches. -/
def MayPoll (s : State) (c : Nat) (l : Loc) : Prop := IsExt l ∨ ∃ o, l = .stage o ∧ (chanSecure s c = true ∨ stageSecure s o = false)

theorem pollRefused_none {s : State} {c : Nat} {ps : List Piece} (h : ∀ p ∈ ps, MayPoll s c p.loc) : pollRefused s c ps = none := by
  have habs : ¬ (ps.any fun p => absentCore s p.loc) = true := by
    simp only [List.any_eq_true, not_exists, not_and]
    intro p hp
    rcases h p hp with ⟨pa, hl⟩ | ⟨o, hl, _⟩
    all_goals
      rw [hl]
      exact Bool.false_ne_true
  have hworld : (ps.find? fun p => worldBad s c p.loc) = none := by
    rw [List.find?_eq_none]
    intro p hp
    rcases h p hp with ⟨pa, hl⟩ | ⟨o, hl, hsec⟩
    · simp [hl, worldBad, locSecure]
    · rcases hsec with hsec | hsec <;> simp [hl, worldBad, locSecure, hsec]
  have hauto : (ps.find? fun p => autoErr s p.loc false false) = none := by
    rw [List.find?_eq_none]
    intro p hp
    rcases h p hp with ⟨pa, hl⟩ | ⟨o, hl, _⟩
    all_goals
      rw [hl]
      exact Bool.false_ne_true
  unfold pollRefused
  rw [if_neg habs, hworld, hauto]

/-- The value of a WAIT lies in external memory, at ports that take the channel's requests. -/
def PollsExt (s : State) (c : Nat) (x : Stream) (e : XEnt) : Prop :=
  ∀ k < wSize x.desc, ∃ pa, leafLoc s e.leaf (dVa x.desc 2 + k) = .ext pa ∧ PollReady s c pa

theorem dVa_lt (d : DescData) (k : Nat) : dVa d k < 2 ^ 49 := Nat.mod_lt _ (by decide)

section
variable {s : State} {c : Nat} {x : Stream} {e : XEnt}

theorem pollPieces_ext (he : e.region = dVa x.desc 2 / 2 ^ 25) (hone : (dVa x.desc 2 + (wSize x.desc - 1)) / 2 ^ 25 = dVa x.desc 2 / 2 ^ 25)
    (h : PollsExt s c x e) {p : Piece} (hp : p ∈ pollPieces s x [e]) : ∃ pa, p.loc = .ext pa ∧ PollReady s c pa := by
  obtain ⟨k, hk, hloc⟩ := mem_pollPieces he hone hp
  obtain ⟨pa, hpa, hready⟩ := h k hk
  exact ⟨pa, hloc.trans hpa, hready⟩

theorem pollsExt_of_kept {t : State} (himg : t.img = s.img) (hboot : t.boot = s.boot) (hclk : t.clk = s.clk)
    (hfence : t.stage.fenceMem = s.stage.fenceMem) (h : PollsExt s c x e) : PollsExt t c x e := by
  intro k hk
  obtain ⟨pa, hpa, hon, hopen⟩ := h k hk
  refine ⟨pa, (leafLoc_of_boot hboot _ _).trans hpa, ?_, ?_⟩
  · rw [memPortOf_of_img himg, powered, isl, hclk]
    exact hon
  · rw [memPortOf_of_img himg, hfence, (chanOwn_of_img himg c).1]
    exact hopen

/-- A poll of external memory leaves its read requests, and waits for their answers. -/
theorem sendPoll_ext {u : State} {y : Stream} (hpre : preLeaves s c 0 (dVa x.desc 2) (wSize x.desc) = (u, some [e])) (hu : Canon u)
    (hy : stream u c = some y) (hregion : e.region = dVa x.desc 2 / 2 ^ 25)
    (hone : (dVa x.desc 2 + (wSize x.desc - 1)) / 2 ^ 25 = dVa x.desc 2 / 2 ^ 25) (h : PollsExt u c x e) :
    ReadsOnly u (sendPoll s c x) c ∧ stream (sendPoll s c x) c = some { y with wait := .value true } ∧ PollsSent u (sendPoll s c x) c x [e] := by
  have hps := fun p hp => pollPieces_ext (p := p) hregion hone h hp
  have hready : (pollPieces u x [e]).find? (fun p => !locReady u p.loc) = none := by
    rw [List.find?_eq_none]
    intro p hp
    obtain ⟨pa, hl, hpa⟩ := hps p hp
    simp [hl, locReady, locDomains, hpa.on]
  have hsend : sendPoll s c x = modStream (sendReads u c (dPrio x.desc) (pollSize x) true (wScope x.desc) ((pollPieces u x [e]).map (·.loc))) c
      fun x => { x with wait := .value true } := by
    unfold sendPoll
    rw [hpre]
    dsimp only
    rw [pollRefused_none fun p hp => .inl ((hps p hp).imp fun _ h => h.1)]
    dsimp only
    rw [hready]
  have hlocs : ∀ l ∈ (pollPieces u x [e]).map (·.loc), ∃ pa, l = .ext pa ∧ PollReady u c pa := fun l hl => by
    obtain ⟨p, hp, rfl⟩ := List.mem_map.mp hl
    exact hps p hp
  obtain ⟨hframe, hchans⟩ := sendReads_onlyReads (s := u) c (dPrio x.desc) (pollSize x) true (wScope x.desc)
    fun l hl => (hlocs l hl).imp fun _ h => h.1
  obtain ⟨ids, hlen, hout⟩ := sendReads_out (s := u) c (dPrio x.desc) (pollSize x) true (wScope x.desc)
    fun l hl => (hlocs l hl).imp fun _ h => ⟨h.1, h.2.open_⟩
  have hcanon := sendReads_canon u c (dPrio x.desc) (pollSize x) true (wScope x.desc) ((pollPieces u x [e]).map (·.loc)) hu
  rw [hsend]
  generalize sendReads u c (dPrio x.desc) (pollSize x) true (wScope x.desc) ((pollPieces u x [e]).map (·.loc)) = v at hframe hchans hout hcanon
  have hyv : stream v c = some y := (stream_of_chans hchans c).trans hy
  have hmod : (modStream v c fun x => { x with wait := .value true }).out = v.out := by
    rw [modStream_of_stream hyv]
    rfl
  have hself := chan_modStream_self hyv fun x => { x with wait := .value true }
  refine ⟨readsOnly_of_frame (hframe.trans (onlyReads_modStream v c _)) (fun d hd => ?_) ?_, stream_modStream_self _ hyv _, ids, ?_, ?_⟩
  · exact (chan_modStream_other hcanon hd _).trans (chan_of_chans hchans d)
  · rw [stream_modStream_self _ hyv, hself, chan_of_chans hchans]
  · rw [hlen, List.length_map]
  · rw [hmod, hout]
    congr 1
    rw [List.zip_map_left, List.map_map]
    rfl

theorem readsOnly_trans {s t u : State} {c : Nat} (h : ReadsOnly s t c) (k : ReadsOnly t u c) : ReadsOnly s u c := by
  refine readsOnly_of_frame (OnlyReads.trans h.frame k.frame) (fun d hd => (k.others d hd).trans (h.others d hd)) ?_
  rw [k.here, h.here]

theorem readsOnly_waits {s : State} (hs : Canon s) (c : Nat) (x : Stream) (w : Wait) :
    ReadsOnly { s with order := s.order + 1 } (waits s c x w) c := by
  refine ⟨rfl, fun d hd => chan_setStream_other { hs with } hd _, ?_⟩
  rw [stream_waits]
  exact chan_setStream _ _ _

/-- A WAIT VALUE starts with its first poll. -/
theorem waitValue_starts {c : Ch} (hs : Canon s) (h : Decoded s c.val x 6) (hop : wWop x.desc = 1)
    (he : x.pre.find? (fun y => y.region == dVa x.desc 2 / 2 ^ 25) = some e)
    (hone : (dVa x.desc 2 + (wSize x.desc - 1)) / 2 ^ 25 = dVa x.desc 2 / 2 ^ 25) (hext : PollsExt s c.val x e) :
    ∃ t, exec (.waitValue c) s = .next t ∧ ReadsOnly { s with order := s.order + 1 } t c.val
      ∧ stream t c.val = some { x with st := .started, wait := .value true, stamp := s.order } ∧ PollsSent s t c.val x [e] := by
  have hwait := waitOp_of_decoded h
  rw [hop] at hwait
  have hregion : e.region = dVa x.desc 2 / 2 ^ 25 := by simpa using List.find?_some he
  have hy := stream_waits s c.val x (.value false)
  obtain ⟨hreads, hstream, hsent⟩ := sendPoll_ext (u := waits s c.val x (.value false)) (preLeaves_found hy (dVa_lt _ _) hone he 0)
    (setStream_canon _ _ _ { hs with }) hy hregion hone
    (pollsExt_of_kept (s := s) rfl rfl rfl rfl hext)
  refine ⟨_, ?_, readsOnly_trans (readsOnly_waits hs c.val x _) hreads, hstream, hsent⟩
  simp only [exec, execWaitValue, hwait]
  rw [beginWait_of_stream h.acts.here]

/-! ### What a poll's answer leads to (R66, R251) -/

/-- The next translation of the value's region is cached, and no walk of it is under way. -/
structure Cached (s : State) (c : Nat) (x : Stream) (e : XEnt) : Prop where
  walk : walkPending s c (dVa x.desc 2 / 2 ^ 25) = false
  on : powered s (56 + halfOf (dVa x.desc 2)) = true
  hit : tlbFind s (halfOf (dVa x.desc 2)) (ctx s (chanCfg s c).ctx).asid (dVa x.desc 2 / 2 ^ 25) = some e.leaf

theorem cached_of_kept {t : State} (himg : t.img = s.img) (hclk : t.clk = s.clk) (hxl : t.xl = s.xl) (hctxs : t.ctxs = s.ctxs)
    (h : Cached s c x e) : Cached t c x e := by
  obtain ⟨hwalk, hon, hhit⟩ := h
  refine ⟨?_, ?_, ?_⟩
  · rw [walkPending, hxl]
    exact hwalk
  · rw [powered, isl, hclk]
    exact hon
  · rw [(chanOwn_of_img himg c).1, ctx, hctxs, tlbFind, hxl]
    exact hhit

/-- The state behind a poll's translation that hits. -/
def pollHit (s : State) (c : Nat) (x : Stream) (e : XEnt) : State :=
  modStream (countHit s (halfOf (dVa x.desc 2))) c fun y => preAdd y (dVa x.desc 2 / 2 ^ 25) e.leaf

theorem preLeaves_hit {y : Stream} (hy : stream s c = some y) (hpre : y.pre = []) (hregion : e.region = dVa x.desc 2 / 2 ^ 25)
    (hone : (dVa x.desc 2 + (wSize x.desc - 1)) / 2 ^ 25 = dVa x.desc 2 / 2 ^ 25) (h : Cached s c x e) :
    preLeaves s c 0 (dVa x.desc 2) (wSize x.desc) = (pollHit s c x e, some [e]) := by
  have hva := dVa_lt x.desc 2
  have hleaf : preLeaf s c 0 (dVa x.desc 2) false = (pollHit s c x e, some e.leaf) := by
    unfold preLeaf
    simp only [hy, hpre, List.find?_nil]
    rw [Nat.mod_eq_of_lt hva, if_neg (by rw [h.walk]; exact Bool.false_ne_true), lookup_hit h.on h.hit]
    rfl
  have hmod : (dVa x.desc 2 / 2 ^ 25 + 0) % 2 ^ 24 = e.region := by rw [hregion]; omega
  unfold preLeaves
  simp only [hone, Nat.sub_self, Nat.zero_add, List.range_one, List.foldl_cons, List.foldl_nil, if_pos, hleaf, Option.map_some, List.nil_append, hmod]

theorem stream_pollHit {y : Stream} (hy : stream s c = some y) (hpre : y.pre = []) (hregion : e.region = dVa x.desc 2 / 2 ^ 25) :
    stream (pollHit s c x e) c = some { y with pre := [e] } := by
  have hmod := stream_modStream_self (countHit s (halfOf (dVa x.desc 2))) (c := c) hy fun y => preAdd y (dVa x.desc 2 / 2 ^ 25) e.leaf
  refine hmod.trans ?_
  rw [preAdd, hpre, ← hregion]
  rfl

/-- The state that a poll of value `w` leads to. -/
def pollEnd (s : State) (c : Nat) (x : Stream) (w : Nat) : State :=
  if waitCmp x.desc w then finish s c cOK 0 else sendPoll (modStream s c fun x => { x with wait := .value false }) c x

theorem pollEnd_holds {y : Stream} (hcmp : wCmp x.desc ≤ 5) {w : Nat} (hw : valueIs x w = true) (hy : stream s c = some y) :
    pollEnd s c x w = ended s c y cOK 0 := by
  unfold pollEnd
  rw [waitCmp_eq_valueIs x hcmp, if_pos hw, finish_of_stream hy]

theorem pollEnd_again (hcmp : wCmp x.desc ≤ 5) {w : Nat} (hw : valueIs x w = false) :
    pollEnd s c x w = sendPoll (modStream s c fun x => { x with wait := .value false }) c x := by
  unfold pollEnd
  rw [waitCmp_eq_valueIs x hcmp, if_neg (by rw [hw]; exact Bool.false_ne_true)]

/-! ### The steps of a poll's answer -/

/-- A WAIT VALUE that has a poll out. -/
structure Polls (s : State) (c : Nat) (x : Stream) (e : XEnt) : Prop where
  acts : Acts s c x
  st : x.st = .started
  wait : x.wait = .value true ∨ ∃ l, x.wait = .valueHigh l
  leaf : x.pre.find? (fun y => y.region == dVa x.desc 2 / 2 ^ 25) = some e
  one : (dVa x.desc 2 + (wSize x.desc - 1)) / 2 ^ 25 = dVa x.desc 2 / 2 ^ 25

theorem Polls.region (h : Polls s c x e) : e.region = dVa x.desc 2 / 2 ^ 25 := by simpa using List.find?_some h.leaf

theorem exec_poll {c : Ch} (h : Polls s c.val x e) (a : PollAns) (hmay : ∀ p ∈ pollPieces s x [e], MayPoll s c.val p.loc)
    (hgate : anyGate s ((pollPieces s x [e]).map (·.loc)) = false) {u : State} {r : Option Nat}
    (hans : pollAns s c.val x [e] a = (u, r.map .ok)) :
    exec (.waitValuePoll c a) s = .next (r.elim u (pollEnd u c.val x)) := by
  have hnew : ¬ (x.wait == .value false) = true := by
    rcases h.wait with hw | ⟨l, hw⟩ <;> rw [hw] <;> simp
  simp only [exec, execWaitValuePoll]
  rw [waiting_of_acts h.acts h.st]
  swap
  · rcases h.wait with hw | ⟨l, hw⟩ <;> rw [hw]
  refine (if_neg hnew).trans ?_
  rw [preLeaves_found h.acts.here (dVa_lt _ _) h.one h.leaf]
  dsimp only
  rw [pollRefused_none hmay]
  refine (if_neg (by rw [hgate]; exact Bool.false_ne_true)).trans ?_
  rw [hans]
  cases r with
  | none => rfl
  | some w =>
    simp only [Option.map_some, Option.elim_some, pollEnd]
    split <;> rfl

/-! ### Answers from external memory -/

theorem recDone_frame (s : State) (c : Nat) (late : List Nat) :
    recDone s c late = { s with chans := (recDone s c late).chans, ports := (recDone s c late).ports } := by
  unfold recDone clearPre modStream
  split <;> rfl

theorem pollStage_ext {ps : List Piece} (h : ∀ p ∈ ps, IsExt p.loc) : pollStage s c ps = (s, false) := by
  unfold pollStage
  refine List.foldlRecOn (motive := fun q => q = (s, false)) _ _ rfl fun q hq p hp => ?_
  obtain ⟨pa, hpa⟩ := h p hp
  rw [hpa]
  exact hq

theorem leNat_partBytes {l : Loc} {va n w : Nat} {pk : Option (Nat × LineData)} {i v : Nat} (hp : IsExt l)
    (h : ∀ k < n, dVa x.desc 2 + i + k < 2 ^ 49 ∧ IsExt (leafLoc s e.leaf (dVa x.desc 2 + i + k))) :
    leNat (partBytes s x [e] pk ⟨l, va, n, w⟩ i v) = v / 2 ^ (8 * i) % 2 ^ (8 * n) := by
  rw [← leNat_bytesOf v i n]
  congr 1
  refine List.map_congr_left fun k hk => ?_
  obtain ⟨hlt, hext⟩ := h k (List.mem_range.mp hk)
  exact readByte_ext (fun l hl => by cases hl; exact hp) hlt hext _

/-- The value that external memory answers is that of the WAIT's bytes. -/
theorem pollValue_ext (hregion : e.region = dVa x.desc 2 / 2 ^ 25) (hone : (dVa x.desc 2 + (wSize x.desc - 1)) / 2 ^ 25 = dVa x.desc 2 / 2 ^ 25)
    (hw : x.wait = .value true) (h : ∀ k < wSize x.desc, IsExt (leafLoc s e.leaf (dVa x.desc 2 + k))) (pks : List (Option (Nat × LineData))) (v : Nat) :
    pollValue s x [e] pks (pollPieces s x [e]) v = v % 2 ^ (8 * wSize x.desc) := by
  have hva := dVa_lt x.desc 2
  have hpos : 0 < wSize x.desc := by rcases wSize_cases x.desc with h | h <;> omega
  have hlt : ∀ k < wSize x.desc, dVa x.desc 2 + k < 2 ^ 49 := fun k hk => by omega
  have hfirst : IsExt (leafLoc s e.leaf (dVa x.desc 2)) := h 0 hpos
  have hrun : ∀ i m, i + m ≤ wSize x.desc → ∀ k < m, dVa x.desc 2 + i + k < 2 ^ 49 ∧ IsExt (leafLoc s e.leaf (dVa x.desc 2 + i + k)) := by
    intro i m him k hk
    rw [Nat.add_assoc]
    exact ⟨hlt (i + k) (by omega), h (i + k) (by omega)⟩
  unfold pollValue
  rw [hw]
  by_cases hfit : wSize x.desc ≤ 128 - dVa x.desc 2 % 128
  · rw [pollPieces_one hregion hfit]
    simp only [List.take_succ_cons, List.take_nil, List.map_cons, List.map_nil, List.flatten_cons, List.flatten_nil, List.append_nil,
      List.drop_succ_cons, List.drop_nil]
    rw [leNat_partBytes (n := wSize x.desc) hfirst (hrun 0 _ (by omega))]
    simp
  · obtain ⟨a, ha⟩ : ∃ a, a = 128 - dVa x.desc 2 % 128 := ⟨_, rfl⟩
    rw [pollPieces_two hregion (by omega) hone, ← ha]
    simp only [List.take_succ_cons, List.take_zero, List.map_cons, List.map_nil, List.flatten_cons, List.flatten_nil, List.append_nil,
      List.drop_succ_cons, List.drop_zero, List.headD_cons]
    rw [leNat_append, leNat_partBytes (n := a) hfirst (hrun 0 a (by omega)),
      leNat_partBytes (n := wSize x.desc - a) (h a (by omega)) (hrun a _ (by omega))]
    simp only [partBytes, List.length_map, List.length_range]
    rw [show 8 * wSize x.desc = 8 * a + 8 * (wSize x.desc - a) by omega, Nat.pow_add, Nat.mod_mul]
    simp

/-- A poll of external memory is answered. -/
theorem pollAns_ext (h : Polls s c x e) (hw : x.wait = .value true) (hext : PollsExt s c x e) (v : W64) :
    pollAns s c x [e] (.okay v) = (recDone s c [], some (.ok (v.toNat % 2 ^ (8 * wSize x.desc)))) := by
  have hps := fun p hp => pollPieces_ext (p := p) h.region h.one hext hp
  have hlocs : ∀ l ∈ (pollPieces s x [e]).map (·.loc), ∃ pa, l = .ext pa ∧ PollReady s c pa := fun l hl => by
    obtain ⟨p, hp, rfl⟩ := List.mem_map.mp hl
    exact hps p hp
  have hsent : remoteSent s c ((pollPieces s x [e]).map (·.loc)) = true := by
    simp only [remoteSent, List.all_eq_true]
    intro q hq
    obtain ⟨pa, hpa, _⟩ := hlocs _ (List.fst_mem_of_mem_zipIdx hq)
    rw [hpa]
    rfl
  have hwaits : readWaits s c ((pollPieces s x [e]).map (·.loc)) [] = false := by
    simp only [readWaits, latePlaces, List.filter_nil, List.map_nil, List.isEmpty_nil, Bool.true_and, List.any_eq_false]
    intro q hq
    obtain ⟨pa, hpa, hready⟩ := hlocs _ (List.fst_mem_of_mem_zipIdx hq)
    have hfence : lineFenced s (pollLine s c (.ext pa)) = false := hready.open_
    rw [hpa, hfence]
    exact Bool.false_ne_true
  have htwo : twoStage (pollPieces s x [e]) = false := by
    unfold twoStage
    obtain ⟨p, hp⟩ : ∃ p, p ∈ pollPieces s x [e] := ⟨_, List.mem_cons_self⟩
    rw [Bool.and_eq_false_iff]
    refine .inr (List.all_eq_false.mpr ⟨p, hp, ?_⟩)
    obtain ⟨pa, hpa, _⟩ := hps p hp
    rw [hpa]
    exact Bool.false_ne_true
  have hpieces : pollPieces (recDone s c []) x [e] = pollPieces s x [e] := by
    rw [recDone_frame]
    rfl
  have hval := pollValue_ext (s := recDone s c []) h.region h.one hw (fun k hk => by
      obtain ⟨pa, hpa, _⟩ := hext k hk
      exact ⟨pa, (leafLoc_of_boot (by rw [recDone_frame]) _ _).trans hpa⟩)
    ((List.range ((pollPieces s x [e]).map (·.loc)).length).map (pollPkt s c)) v.toNat
  rw [hpieces] at hval
  have hfar := remoteFails_ext s c (dPrio x.desc) 0 fun l hl => (hlocs l hl).imp fun _ h => h.1
  unfold pollAns
  rw [hw]
  simp only [htwo, hsent, pollFails, show ∀ locs, lineFails locs [] = [] from fun _ => rfl, hwaits, Bool.false_and, Bool.not_true,
    Bool.false_eq_true, if_false, hfar, latePlaces, List.filter_nil, List.map_nil, List.isEmpty_nil, if_true, failEvents, List.foldl_nil,
    pollStage_ext (s := recDone s c []) fun p hp => (hps p hp).imp fun _ h => h.1, List.head?_nil, Option.map_none, pollWord, hval]

end

end Sys2Proof.Proofs
end

section
/-! WAIT VALUE: its answers from external and from stage memory, and the next poll (R66, R251, R268). -/

namespace Sys2Proof.Proofs

open Sys2Proof Sys2Proof.Machine Sys2Proof.Laws

section
variable {s : State} {x : Stream} {e : XEnt}

/-! ### External memory -/

theorem stream_recDone {c : Nat} (hx : stream s c = some x) (late : List Nat) : stream (recDone s c late) c = some { x with pre := [] } :=
  stream_modStream_self _ hx fun x => { x with pre := [] }

theorem mayPoll_ext {c : Nat} (h : Polls s c x e) (hext : PollsExt s c x e) : ∀ p ∈ pollPieces s x [e], MayPoll s c p.loc :=
  fun _ hp => .inl ((pollPieces_ext h.region h.one hext hp).imp fun _ h => h.1)

theorem anyGate_allExt {locs : List Loc} (h : ∀ l ∈ locs, IsExt l) : anyGate s locs = false := by
  simp only [anyGate, List.any_eq_false]
  intro l hl
  obtain ⟨pa, rfl⟩ := h l hl
  exact Bool.false_ne_true

theorem pollHit_kept {c : Nat} (hs : Canon s) {y : Stream} (hy : stream s c = some y) (e : XEnt) :
    Canon (pollHit s c x e) ∧ (pollHit s c x e).img = s.img ∧ (pollHit s c x e).boot = s.boot ∧ (pollHit s c x e).clk = s.clk
      ∧ (pollHit s c x e).stage = s.stage ∧ (pollHit s c x e).out = s.out := by
  have hcount : stream (countHit s (halfOf (dVa x.desc 2))) c = some y := hy
  have hcanon : Canon (countHit s (halfOf (dVa x.desc 2))) := setHalf_canon _ _ _ hs
  unfold pollHit
  rw [modStream_of_stream hcount]
  exact ⟨setStream_canon _ _ _ hcanon, rfl, rfl, rfl, rfl, rfl⟩

theorem pollPieces_of_boot {t : State} (h : t.boot = s.boot) (es : List XEnt) : pollPieces t x es = pollPieces s x es := by
  unfold pollPieces piecesOf setLoc leafLoc locOf gbase
  rw [h]

theorem pollsSent_of_kept {u t : State} {c : Nat} {es : List XEnt} (himg : u.img = s.img) (hboot : u.boot = s.boot) (hout : u.out = s.out)
    (h : PollsSent u t c x es) : PollsSent s t c x es := by
  have hpieces := pollPieces_of_boot (x := x) hboot es
  obtain ⟨ids, hlen, hids⟩ := h
  rw [hpieces] at hlen hids
  refine ⟨ids, hlen, ?_⟩
  rw [hids, hout]
  congr 2
  funext q
  dsimp only
  have hpa : locPa u q.1.loc = locPa s q.1.loc := by
    cases q.1.loc <;> simp [locPa, gbase, hboot]
  rw [memPortOf_of_img himg, (chanOwn_of_img himg c).2, hpa]

/-- The answer of external memory to a poll. -/
theorem poll_ext {c : Ch} (hs : Canon s) (h : Polls s c.val x e) (hcmp : wCmp x.desc ≤ 5) (hw : x.wait = .value true)
    (hext : PollsExt s c.val x e) (v : W64) :
    ∃ t, exec (.waitValuePoll c (.okay v)) s = .next t
      ∧ (valueIs x v.toNat = true → ReadsOnly s t c.val ∧ stream t c.val = some { x with pre := [], st := .done cOK 0, wait := .none })
      ∧ (valueIs x v.toNat = false → Cached s c.val x e →
          stream t c.val = some { x with pre := [⟨dVa x.desc 2 / 2 ^ 25, e.leaf⟩] } ∧ PollsSent s t c.val x [e]) := by
  have hlocs : ∀ l ∈ (pollPieces s x [e]).map (·.loc), IsExt l := fun l hl => by
    obtain ⟨p, hp, rfl⟩ := List.mem_map.mp hl
    exact (pollPieces_ext h.region h.one hext hp).imp fun _ h => h.1
  have hexec := exec_poll h (.okay v) (mayPoll_ext h hext) (anyGate_allExt hlocs) (r := some _) (pollAns_ext h hw hext v)
  have hx := stream_recDone h.acts.here []
  have hcanon := recDone_canon s c.val [] hs
  have hreads := (readsOnly_recDone (.refl s) rfl hs h.acts.here []).1
  have hframe := recDone_frame s c.val []
  refine ⟨_, hexec, fun hval => ?_, fun hval hagain => ?_⟩
  · rw [Option.elim_some, pollEnd_holds hcmp (by rw [valueIs_mod, hval]) hx]
    refine ⟨readsOnly_trans hreads ⟨rfl, fun d hd => chan_ended_other hcanon _ _ _ _ hd, ?_⟩, stream_ended _ _ _ _ _⟩
    rw [stream_ended, chan_ended]
  · rw [Option.elim_some, pollEnd_again hcmp (by rw [valueIs_mod, hval])]
    have hfields : (recDone s c.val []).img = s.img ∧ (recDone s c.val []).boot = s.boot ∧ (recDone s c.val []).clk = s.clk
        ∧ (recDone s c.val []).stage = s.stage ∧ (recDone s c.val []).xl = s.xl ∧ (recDone s c.val []).ctxs = s.ctxs
        ∧ (recDone s c.val []).out = s.out := by
      rw [hframe]
      exact ⟨rfl, rfl, rfl, rfl, rfl, rfl, rfl⟩
    generalize recDone s c.val [] = u at hx hcanon hfields
    obtain ⟨himg, hboot, hclk, hstage, hxl, hctxs, hout⟩ := hfields
    rw [modStream_of_stream hx]
    have hy := stream_setStream u c.val { x with pre := [], wait := .value false }
    have hfields : Cached (setStream u c.val { x with pre := [], wait := .value false }) c.val x e :=
      cached_of_kept (s := s) himg hclk hxl hctxs hagain
    have hhit := preLeaves_hit hy rfl h.region h.one hfields
    obtain ⟨hcanon', himg', hboot', hclk', hstage', hout'⟩ := pollHit_kept (x := x) (setStream_canon u c.val _ hcanon) hy e
    have hstream' := stream_pollHit hy rfl h.region
    generalize pollHit (setStream u c.val { x with pre := [], wait := .value false }) c.val x e = v at hhit hcanon' himg' hboot' hclk' hstage' hout' hstream'
    have hpolls : PollsExt v c.val x e := pollsExt_of_kept (himg'.trans himg) (hboot'.trans hboot) (hclk'.trans hclk)
      (congrArg (·.fenceMem) (hstage'.trans hstage)) hext
    obtain ⟨_, hstream, hsent⟩ := sendPoll_ext hhit hcanon' hstream' h.region h.one hpolls
    refine ⟨?_, pollsSent_of_kept (himg'.trans himg) (hboot'.trans hboot) (hout'.trans hout) hsent⟩
    rw [hstream, ← hw, ← h.region]

/-! ### Stage memory (R192, R268) -/

/-- Bytes of stage memory that the channel's poll reads: in a pool of its world, with an open gate and arbiter, and without an error that a
code has found. -/
structure StageByte (s : State) (c o : Nat) : Prop where
  pool : (poolOf s o).isSome = true
  world : chanSecure s c = true ∨ stageSecure s o = false
  gate : gateClosed s o = false
  fence : inFenced s o (chanCfg s c).mover = false
  good : s.stage.bad.contains (o / 8 * 8) = false

/-- The words of a run of good bytes are good. -/
theorem badWords_run {o m : Nat} (h : ∀ k < m, s.stage.bad.contains ((o + k) / 8 * 8) = false) :
    badWords s (o / 128 * 128) (BitVec.ofNat 128 ((2 ^ m - 1) * 2 ^ (o % 128))) = [] := by
  unfold badWords
  rw [List.filter_eq_nil_iff]
  intro b hb
  obtain ⟨w, hw, rfl⟩ := List.mem_map.mp hb
  obtain ⟨hlt, hon⟩ := List.mem_filter.mp hw
  have hlt : w < 16 := List.mem_range.mp hlt
  obtain ⟨j, hj⟩ := Nat.exists_testBit_of_ne_zero (bne_iff_ne.mp hon)
  have hbit : j < 8 ∧ (BitVec.ofNat 128 ((2 ^ m - 1) * 2 ^ (o % 128))).getLsbD (8 * w + j) = true := by
    rw [fld, Nat.testBit_mod_two_pow, Nat.testBit_shiftRight, Bool.and_eq_true, decide_eq_true_eq] at hj
    exact hj
  obtain ⟨hj8, hbit⟩ := hbit
  rw [getLsbD_runMask (by omega), decide_eq_true_eq] at hbit
  have hword := h (8 * w + j - o % 128) (by omega)
  rw [show (o + (8 * w + j - o % 128)) / 8 * 8 = o / 128 * 128 + 8 * w by omega] at hword
  rw [hword]
  exact Bool.false_ne_true

/-- The code check of a part of a poll in good stage memory. -/
theorem pollStage_part {c o va m w : Nat} (hs : Canon s) (hpos : 0 < m) (h : ∀ k < m, StageByte s c (o + k)) :
    (pollStage s c [⟨.stage o, va, m, w⟩]).2 = false ∧ OnlyStage s (pollStage s c [⟨.stage o, va, m, w⟩]).1
      ∧ (pollStage s c [⟨.stage o, va, m, w⟩]).1.stage.mem = s.stage.mem ∧ Canon (pollStage s c [⟨.stage o, va, m, w⟩]).1 := by
  have hfence : ¬ inFenced s o (chanCfg s c).mover = true := by simp [show inFenced s o (chanCfg s c).mover = false from (h 0 hpos).fence]
  have hpool : ¬ (poolOf s o).isNone = true := by
    rw [Option.isNone_iff_eq_none]
    intro hnone
    have := (h 0 hpos).pool
    rw [Nat.add_zero, hnone] at this
    cases this
  have hprobe : pollStage s c [⟨.stage o, va, m, w⟩] = ((stageProbe s (o / 128 * 128) (BitVec.ofNat 128 ((2 ^ m - 1) * 2 ^ (o % 128)))
      (chanCfg s c).mover).1, false) := by
    simp only [pollStage, List.foldl_cons, List.foldl_nil]
    rw [if_neg hfence, if_neg hpool, stageProbe, badWords_run fun k hk => (h k hk).good]
    rfl
  rw [hprobe]
  refine ⟨rfl, ?_, ?_, stageProbe_canon _ _ _ _ hs⟩
  · unfold stageProbe
    exact (onlyStage_grantStage s _ _).trans (.trans (t := bump (grantStage s (o / 128 * 128) (chanCfg s c).mover)) rfl (onlyStage_eccFound _ _ _ _))
  · exact congrArg (fun k => k.2.2) (stageProbe_kept s (o / 128 * 128) (BitVec.ofNat 128 ((2 ^ m - 1) * 2 ^ (o % 128))) (chanCfg s c).mover)

/-- The value of a WAIT lies in stage memory from `o` on. -/
def PollsStage (s : State) (c : Nat) (x : Stream) (e : XEnt) (o : Nat) : Prop :=
  ∀ k < wSize x.desc, leafLoc s e.leaf (dVa x.desc 2 + k) = .stage (o + k) ∧ StageByte s c (o + k)

/-- The bytes of a part of a poll in stage memory. -/
theorem partBytes_stage {u : State} {o i m va w : Nat} {pk : Option (Nat × LineData)} (hmem : u.stage.mem = s.stage.mem) (himg : u.img = s.img)
    (hboot : u.boot = s.boot) (hregion : ∀ k < m, dVa x.desc 2 + i + k < 2 ^ 49 ∧ e.region = (dVa x.desc 2 + i + k) / 2 ^ 25)
    (h : ∀ k < m, leafLoc s e.leaf (dVa x.desc 2 + i + k) = .stage (o + k) ∧ (poolOf s (o + k)).isSome = true) (v : Nat) :
    partBytes u x [e] pk ⟨.stage o, va, m, w⟩ i v = (List.range m).map fun k => memByte s.stage.mem (o + k) := by
  refine List.map_congr_left fun k hk => ?_
  obtain ⟨hlt, hreg⟩ := hregion k (List.mem_range.mp hk)
  obtain ⟨hloc, hpool⟩ := h k (List.mem_range.mp hk)
  have hpool' : (poolOf u (o + k)).isSome = true := by
    rw [← hpool]
    unfold poolOf im
    rw [himg]
  unfold readByte recByte
  dsimp only
  rw [Nat.mod_eq_of_lt hlt, List.find?_cons_of_pos (by simp [hreg])]
  dsimp only
  rw [(leafLoc_of_boot hboot _ _).trans hloc]
  dsimp only
  rw [if_pos hpool', hmem]

theorem OnlyStage.ctxs {s t : State} (h : OnlyStage s t) : t.ctxs = s.ctxs := by rw [h]

/-- What a step of a poll of stage memory leaves beside the value. -/
structure PollKeeps (s u : State) : Prop where
  canon : Canon u
  img : u.img = s.img
  boot : u.boot = s.boot
  clk : u.clk = s.clk
  xl : u.xl = s.xl
  ctxs : u.ctxs = s.ctxs
  mem : u.stage.mem = s.stage.mem

theorem pollKeeps_part {c o va m w : Nat} (hs : Canon s) (hpos : 0 < m) (h : ∀ k < m, StageByte s c (o + k)) :
    ∃ u, pollStage s c [⟨.stage o, va, m, w⟩] = (u, false) ∧ PollKeeps s u ∧ u.chans = s.chans := by
  obtain ⟨hgood, hstage, hmem, hcanon⟩ := pollStage_part (va := va) (w := w) hs hpos h
  refine ⟨_, Prod.ext rfl hgood, ⟨hcanon, hstage.img, hstage.boot, hstage.clk, hstage.xl, hstage.ctxs, hmem⟩, hstage.chans⟩

theorem pollKeeps_recDone (hs : Canon s) (c : Nat) : PollKeeps s (recDone s c []) := by
  have hcanon := recDone_canon s c [] hs
  have hframe := recDone_frame s c []
  generalize recDone s c [] = u at hcanon hframe
  rw [hframe] at hcanon ⊢
  exact ⟨hcanon, rfl, rfl, rfl, rfl, rfl, rfl⟩

theorem PollKeeps.trans {s t u : State} (h : PollKeeps s t) (k : PollKeeps t u) : PollKeeps s u :=
  ⟨k.canon, k.img.trans h.img, k.boot.trans h.boot, k.clk.trans h.clk, k.xl.trans h.xl, k.ctxs.trans h.ctxs, k.mem.trans h.mem⟩

theorem sendReads_stage {c prio size scope : Nat} {vol : Bool} {locs : List Loc} (h : ∀ l ∈ locs, ∃ o, l = .stage o) :
    sendReads s c prio size vol scope locs = s := by
  unfold sendReads
  refine List.foldlRecOn (motive := fun t => t = s) _ _ rfl fun t ht q hq => ?_
  obtain ⟨o, hl⟩ := h q.1 (List.fst_mem_of_mem_zipIdx hq)
  have hloc : ∃ o', (if size = 3 || isRemote q.1 then locLine q.1 else q.1) = .stage o' := by
    rw [hl]
    split
    · exact ⟨_, rfl⟩
    · exact ⟨_, rfl⟩
  extract_lets loc l
  obtain ⟨o', hloc⟩ := hloc
  change loc = _ at hloc
  clear_value l loc
  subst hloc
  split
  · exact ht
  · exact ht

theorem sendPoll_stage {u : State} {c : Nat} {y : Stream} (hpre : preLeaves s c 0 (dVa x.desc 2) (wSize x.desc) = (u, some [e]))
    (hy : stream u c = some y) (hw : y.wait = .value false)
    (hps : ∀ p ∈ pollPieces u x [e], ∃ o, p.loc = .stage o ∧ (chanSecure u c = true ∨ stageSecure u o = false)) :
    ∃ z, stream (sendPoll s c x) c = some z ∧ z.st = y.st ∧ ∃ b, z.wait = .value b := by
  unfold sendPoll
  rw [hpre]
  dsimp only
  rw [pollRefused_none fun p hp => .inr (hps p hp)]
  dsimp only
  split
  · next p _ =>
    have hchans : (locNeed u p.loc).chans = u.chans := by
      have := onlyClk_foldl onlyClk_need (locDomains u p.loc) u
      unfold locNeed
      rw [this]
    exact ⟨y, (stream_of_chans hchans c).trans hy, rfl, false, hw⟩
  · rw [sendReads_stage fun l hl => by
      obtain ⟨p, hp, rfl⟩ := List.mem_map.mp hl
      exact (hps p hp).imp fun _ h => h.1]
    exact ⟨_, stream_modStream_self _ hy _, rfl, true, rfl⟩

theorem pollPieces_stage {c o : Nat} (hregion : e.region = dVa x.desc 2 / 2 ^ 25)
    (hone : (dVa x.desc 2 + (wSize x.desc - 1)) / 2 ^ 25 = dVa x.desc 2 / 2 ^ 25)
    (h : PollsStage s c x e o) {p : Piece} (hp : p ∈ pollPieces s x [e]) : ∃ k < wSize x.desc, p.loc = .stage (o + k) ∧ StageByte s c (o + k) := by
  obtain ⟨k, hk, hloc⟩ := mem_pollPieces hregion hone hp
  exact ⟨k, hk, hloc.trans (h k hk).1, (h k hk).2⟩

theorem stageSecure_of_img {t : State} (h : t.img = s.img) (o : Nat) : stageSecure t o = stageSecure s o := by
  unfold stageSecure poolOf im
  rw [h]

/-- What the whole value of a poll of stage memory leads to. -/
theorem pollEnd_stage {u : State} {c o : Nat} (h : Polls s c x e) (hcmp : wCmp x.desc ≤ 5) (hstage : PollsStage s c x e o) (hk : PollKeeps s u)
    (hx : stream u c = some { x with pre := [] }) (w : Nat) :
    (valueIs x w = true → stream (pollEnd u c x w) c = some { x with pre := [], st := .done cOK 0, wait := .none })
    ∧ (valueIs x w = false → Cached s c x e → ∃ y, stream (pollEnd u c x w) c = some y ∧ y.st = .started ∧ ∃ b, y.wait = .value b) := by
  refine ⟨fun hval => by rw [pollEnd_holds hcmp hval hx, stream_ended], fun hval hagain => ?_⟩
  rw [pollEnd_again hcmp hval, modStream_of_stream hx]
  have hy := stream_setStream u c { x with pre := [], wait := .value false }
  have hcached : Cached (setStream u c { x with pre := [], wait := .value false }) c x e :=
    cached_of_kept (s := s) hk.img hk.clk hk.xl hk.ctxs hagain
  have hhit := preLeaves_hit hy rfl h.region h.one hcached
  obtain ⟨_, himg, hboot, _, _, _⟩ := pollHit_kept (x := x) (setStream_canon u c { x with pre := [], wait := .value false } hk.canon) hy e
  have hstream := stream_pollHit hy rfl h.region
  generalize pollHit (setStream u c { x with pre := [], wait := .value false }) c x e = v at hhit himg hboot hstream
  obtain ⟨z, hz, hst, hwait⟩ := sendPoll_stage hhit hstream rfl fun p hp => by
    rw [pollPieces_of_boot (hboot.trans hk.boot)] at hp
    obtain ⟨k, hk', hloc, hbyte⟩ := pollPieces_stage h.region h.one hstage hp
    refine ⟨_, hloc, ?_⟩
    rw [(chanOwn_of_img (himg.trans hk.img) c).2, stageSecure_of_img (himg.trans hk.img)]
    exact hbyte.world
  exact ⟨z, hz, hst.trans h.st, hwait⟩

section
variable {c o : Nat}

theorem locs_stage (h : Polls s c x e) (hstage : PollsStage s c x e o) {l : Loc} (hl : l ∈ (pollPieces s x [e]).map (·.loc)) :
    ∃ k < wSize x.desc, l = .stage (o + k) ∧ StageByte s c (o + k) := by
  obtain ⟨p, hp, rfl⟩ := List.mem_map.mp hl
  exact pollPieces_stage h.region h.one hstage hp

/-- A poll of stage memory has nothing to send and nothing to wait for. -/
theorem pollReads_stage (h : Polls s c x e) (hstage : PollsStage s c x e o) :
    remoteSent s c ((pollPieces s x [e]).map (·.loc)) = true ∧ readWaits s c ((pollPieces s x [e]).map (·.loc)) [] = false
      ∧ remoteFails s c (dPrio x.desc) 0 ((pollPieces s x [e]).map (·.loc)) = none := by
  refine ⟨?_, ?_, ?_⟩
  · simp only [remoteSent, List.all_eq_true]
    intro q hq
    obtain ⟨k, _, hl, _⟩ := locs_stage h hstage (List.fst_mem_of_mem_zipIdx hq)
    rw [hl]
    rfl
  · simp only [readWaits, latePlaces, List.filter_nil, List.map_nil, List.isEmpty_nil, Bool.true_and, List.any_eq_false]
    intro q hq
    obtain ⟨k, _, hl, hbyte⟩ := locs_stage h hstage (List.fst_mem_of_mem_zipIdx hq)
    have hfence : lineFenced s (pollLine s c (.stage (o + k))) = false := hbyte.fence
    rw [hl, hfence]
    exact Bool.false_ne_true
  · unfold remoteFails
    rw [List.findSome?_eq_none_iff]
    intro q hq
    obtain ⟨k, _, hl, _⟩ := locs_stage h hstage (List.fst_mem_of_mem_zipIdx hq)
    rw [hl]
    rfl

/-- A poll of stage memory whose last part is read is answered. -/
theorem pollAns_last {u : State} {part : List Piece} (h : Polls s c x e) (hstage : PollsStage s c x e o)
    (hlast : (x.wait = .value true ∧ twoStage (pollPieces s x [e]) = false ∧ part = pollPieces s x [e])
      ∨ ∃ low, x.wait = .valueHigh low ∧ part = (pollPieces s x [e]).drop 1)
    (hpart : pollStage (recDone s c []) c part = (u, false)) (v : W64) :
    pollAns s c x [e] (.okay v) = (u, some (.ok (pollValue u x [e] ((List.range ((pollPieces s x [e]).map (·.loc)).length).map (pollPkt s c))
      (pollPieces s x [e]) v.toNat))) := by
  obtain ⟨hsent, hwaits, hfar⟩ := pollReads_stage h hstage
  have hnone : ∀ locs, lineFails locs [] = [] := fun _ => rfl
  unfold pollAns
  rcases hlast with ⟨hw, htwo, rfl⟩ | ⟨low, hw, rfl⟩
  · rw [hw]
    simp only [hsent, pollFails, hnone, hwaits, Bool.not_true, Bool.false_eq_true, if_false, htwo, Bool.false_and, hfar, latePlaces,
      List.filter_nil, List.map_nil, List.isEmpty_nil, if_true, failEvents, List.foldl_nil, hpart, List.head?_nil, Option.map_none, pollWord]
  · rw [hw]
    simp only [hsent, pollFails, hnone, hwaits, Bool.not_true, Bool.false_eq_true, if_false, hfar, latePlaces,
      List.filter_nil, List.map_nil, List.isEmpty_nil, if_true, failEvents, List.foldl_nil, hpart, List.head?_nil, Option.map_none, pollWord]

/-- The first part of a poll over a line's end of stage memory is kept for the second. -/
theorem pollAns_first {u : State} (h : Polls s c x e) (hstage : PollsStage s c x e o) (hw : x.wait = .value true)
    (htwo : twoStage (pollPieces s x [e]) = true) (hpart : pollStage s c ((pollPieces s x [e]).take 1) = (u, false)) (v : W64) :
    pollAns s c x [e] (.okay v) = (modStream u c fun y => { y with
      wait := .valueHigh (((pollPieces s x [e]).take 1).map fun p => partBytes u x [e] none p 0 0).flatten }, none) := by
  obtain ⟨hsent, hwaits, hfar⟩ := pollReads_stage h hstage
  unfold pollAns
  rw [hw]
  simp only [hsent, pollFails, show ∀ locs, lineFails locs [] = [] from fun _ => rfl, hwaits, Bool.not_true, Bool.false_eq_true, if_false,
    List.isEmpty_nil, Bool.and_true, htwo, if_true, hpart]

end

/-! ### The three steps of a poll of stage memory (R268) -/

section
variable {c : Ch} {o : Nat}

theorem anyGate_stage (h : Polls s c.val x e) (hstage : PollsStage s c.val x e o) : anyGate s ((pollPieces s x [e]).map (·.loc)) = false := by
  simp only [anyGate, List.any_eq_false]
  intro l hl
  obtain ⟨k, _, rfl, hbyte⟩ := locs_stage h hstage hl
  exact ne_true_of_eq_false hbyte.gate

theorem mayPoll_stage (h : Polls s c.val x e) (hstage : PollsStage s c.val x e o) : ∀ p ∈ pollPieces s x [e], MayPoll s c.val p.loc := fun p hp => by
  obtain ⟨k, _, hl, hbyte⟩ := pollPieces_stage h.region h.one hstage hp
  exact .inr ⟨_, hl, hbyte.world⟩

theorem valueBytes (h : Polls s c.val x e) (hstage : PollsStage s c.val x e o) {i m : Nat} (him : i + m ≤ wSize x.desc) :
    (∀ k < m, dVa x.desc 2 + i + k < 2 ^ 49 ∧ e.region = (dVa x.desc 2 + i + k) / 2 ^ 25)
      ∧ ∀ k < m, leafLoc s e.leaf (dVa x.desc 2 + i + k) = .stage (o + i + k) ∧ StageByte s c.val (o + i + k) := by
  have hva := dVa_lt x.desc 2
  have hone := h.one
  have hregion := h.region
  refine ⟨fun k hk => ⟨by omega, by omega⟩, fun k hk => ?_⟩
  rw [Nat.add_assoc, Nat.add_assoc]
  exact hstage (i + k) (by omega)

theorem stageByte_recDone {k : Nat} (h : StageByte s c.val k) : StageByte (recDone s c.val []) c.val k := by
  rw [recDone_frame]
  exact { h with }

theorem leNat_part {u : State} (h : Polls s c.val x e) (hstage : PollsStage s c.val x e o) (hk : PollKeeps s u) {i m : Nat}
    (him : i + m ≤ wSize x.desc) (pk : Option (Nat × LineData)) (va w v : Nat) :
    partBytes u x [e] pk ⟨.stage (o + i), va, m, w⟩ i v = (List.range m).map fun k => memByte s.stage.mem (o + i + k) := by
  obtain ⟨hregion, hbytes⟩ := valueBytes h hstage him
  exact partBytes_stage hk.mem hk.img hk.boot hregion (fun k hm => ⟨(hbytes k hm).1, (hbytes k hm).2.pool⟩) v

/-- A poll within one line of stage memory. -/
theorem poll_stageWhole (hs : Canon s) (h : Polls s c.val x e) (hcmp : wCmp x.desc ≤ 5) (hstage : PollsStage s c.val x e o)
    (hw : x.wait = .value true) (hfit : wSize x.desc ≤ 128 - dVa x.desc 2 % 128) (v : W64) :
    ∃ t, exec (.waitValuePoll c (.okay v)) s = .next t
      ∧ (valueIs x (memNat s.stage.mem o (wSize x.desc)) = true → stream t c.val = some { x with pre := [], st := .done cOK 0, wait := .none })
      ∧ (valueIs x (memNat s.stage.mem o (wSize x.desc)) = false → Cached s c.val x e →
          ∃ y, stream t c.val = some y ∧ y.st = .started ∧ ∃ b, y.wait = .value b) := by
  have hpos : 0 < wSize x.desc := by rcases wSize_cases x.desc with h | h <;> omega
  have hloc : leafLoc s e.leaf (dVa x.desc 2) = .stage (o + 0) := (hstage 0 hpos).1
  have hpieces := pollPieces_one (s := s) h.region hfit
  rw [hloc] at hpieces
  obtain ⟨u, hpart, hkeeps, hchans⟩ := pollKeeps_part (va := dVa x.desc 2) (w := 0) (recDone_canon s c.val [] hs) hpos
    fun k hk => stageByte_recDone (by rw [Nat.add_zero]; exact (hstage k hk).2 : StageByte s c.val (o + 0 + k))
  have hkeeps := (pollKeeps_recDone hs c.val).trans hkeeps
  have hans := pollAns_last h hstage (.inl ⟨hw, by rw [hpieces]; rfl, hpieces.symm⟩) hpart v
  have hx : stream u c.val = some { x with pre := [] } := (stream_of_chans hchans c.val).trans (stream_recDone h.acts.here [])
  refine ⟨_, exec_poll h (.okay v) (mayPoll_stage h hstage) (anyGate_stage h hstage) (r := some _) hans, ?_⟩
  have hval : pollValue u x [e] ((List.range ((pollPieces s x [e]).map (·.loc)).length).map (pollPkt s c.val)) (pollPieces s x [e]) v.toNat
      = memNat s.stage.mem o (wSize x.desc) := by
    generalize (List.range ((pollPieces s x [e]).map (·.loc)).length).map (pollPkt s c.val) = pks
    rw [pollValue, hw, hpieces]
    simp only [List.take_succ_cons, List.take_nil, List.map_cons, List.map_nil, List.flatten_cons, List.flatten_nil, List.append_nil,
      List.drop_succ_cons, List.drop_nil]
    rw [leNat_part h hstage hkeeps (by omega), leNat_memBytes, Nat.add_zero]
  rw [Option.elim_some, hval]
  exact pollEnd_stage h hcmp hstage hkeeps hx _

/-- A poll over a line's end of stage memory: its first part. -/
theorem poll_stageFirst (hs : Canon s) (h : Polls s c.val x e) (hstage : PollsStage s c.val x e o) (hw : x.wait = .value true) {a : Nat}
    (ha : a = 128 - dVa x.desc 2 % 128) (hover : a < wSize x.desc) (v : W64) :
    ∃ t low, exec (.waitValuePoll c (.okay v)) s = .next t ∧ stream t c.val = some { x with wait := .valueHigh low } ∧ low.length = a
      ∧ leNat low = memNat s.stage.mem o a := by
  have hpos : 0 < a := by omega
  have hloc : leafLoc s e.leaf (dVa x.desc 2) = .stage (o + 0) := (hstage 0 (by omega)).1
  have hpieces := pollPieces_two (s := s) h.region (by omega) h.one
  rw [← ha, hloc, (hstage a hover).1] at hpieces
  obtain ⟨u, hpart, hkeeps, hchans⟩ := pollKeeps_part (va := dVa x.desc 2) (w := 0) hs hpos
    fun k hk => (by rw [Nat.add_zero]; exact (hstage k (by omega)).2 : StageByte s c.val (o + 0 + k))
  have hans := pollAns_first (u := u) h hstage hw (by rw [hpieces]; rfl) (by rw [hpieces]; exact hpart) v
  have hx : stream u c.val = some x := (stream_of_chans hchans c.val).trans h.acts.here
  refine ⟨_, _, exec_poll h (.okay v) (mayPoll_stage h hstage) (anyGate_stage h hstage) (r := none) hans, stream_modStream_self _ hx _, ?_⟩
  rw [hpieces]
  simp only [List.take_succ_cons, List.take_zero, List.map_cons, List.map_nil, List.flatten_cons, List.flatten_nil, List.append_nil]
  rw [leNat_part h hstage hkeeps (by omega), leNat_memBytes, Nat.add_zero]
  exact ⟨by rw [List.length_map, List.length_range], rfl⟩

/-- A poll over a line's end of stage memory: its second part. -/
theorem poll_stageSecond (hs : Canon s) (h : Polls s c.val x e) (hcmp : wCmp x.desc ≤ 5) (hstage : PollsStage s c.val x e o) {low : List Byte}
    (hw : x.wait = .valueHigh low) {a : Nat} (ha : a = 128 - dVa x.desc 2 % 128) (hlen : low.length = a) (hover : a < wSize x.desc) (v : W64) :
    let w := leNat low + 2 ^ (8 * a) * memNat s.stage.mem (o + a) (wSize x.desc - a)
    ∃ t, exec (.waitValuePoll c (.okay v)) s = .next t
      ∧ (valueIs x w = true → stream t c.val = some { x with pre := [], st := .done cOK 0, wait := .none })
      ∧ (valueIs x w = false → Cached s c.val x e → ∃ y, stream t c.val = some y ∧ y.st = .started ∧ ∃ b, y.wait = .value b) := by
  intro w
  have hloc : leafLoc s e.leaf (dVa x.desc 2) = .stage (o + 0) := (hstage 0 (by omega)).1
  have hpieces := pollPieces_two (s := s) h.region (by omega) h.one
  rw [← ha, hloc, (hstage a hover).1] at hpieces
  obtain ⟨u, hpart, hkeeps, hchans⟩ := pollKeeps_part (va := dVa x.desc 2 + a) (w := 0) (recDone_canon s c.val [] hs)
    (show 0 < wSize x.desc - a by omega)
    fun k hk => stageByte_recDone (by rw [Nat.add_assoc]; exact (hstage (a + k) (by omega)).2 : StageByte s c.val (o + a + k))
  have hkeeps := (pollKeeps_recDone hs c.val).trans hkeeps
  have hans := pollAns_last h hstage (.inr ⟨low, hw, rfl⟩) (by rw [hpieces]; exact hpart) v
  have hx : stream u c.val = some { x with pre := [] } := (stream_of_chans hchans c.val).trans (stream_recDone h.acts.here [])
  refine ⟨_, exec_poll h (.okay v) (mayPoll_stage h hstage) (anyGate_stage h hstage) (r := some _) hans, ?_⟩
  have hval : pollValue u x [e] ((List.range ((pollPieces s x [e]).map (·.loc)).length).map (pollPkt s c.val)) (pollPieces s x [e]) v.toNat = w := by
    generalize (List.range ((pollPieces s x [e]).map (·.loc)).length).map (pollPkt s c.val) = pks
    rw [pollValue, hw, hpieces]
    simp only [List.map_cons, List.map_nil, List.flatten_cons, List.flatten_nil, List.append_nil, List.drop_succ_cons, List.drop_zero,
      List.headD_cons]
    rw [leNat_part h hstage hkeeps (by omega), leNat_append, leNat_memBytes, hlen]
  rw [Option.elim_some, hval]
  exact pollEnd_stage h hcmp hstage hkeeps hx _

end

end

end Sys2Proof.Proofs
end

section
/-! WAIT: BARRIER, POP, FILLED and FREE, and the end of a WAIT's time (R66, R162, R171 to R173, R283, R325). -/

namespace Sys2Proof.Proofs

open Sys2Proof Sys2Proof.Machine Sys2Proof.Laws

/-! ### BARRIER, FILLED and FREE -/

theorem waitBarrier_next {s : State} {c : Ch} {x : Stream} {o : Nat} (h : Decoded s c.val x 6) (hop : wWop x.desc = 0)
    (ho : barObj s (chanCfg s c.val).ctx (wBvid x.desc) = some o) (hworld : chanSecure s c.val = true ∨ barSecure s o = false)
    (hab : (bar s o).st ≠ .abandoned) (hpo : (bar s o).st ≠ .poisoned) :
    let tag := match (chan s c.val).arrRec with
      | some (v, t) => if v.toNat = wBvid x.desc then t else (bar s o).epoch
      | none => (bar s o).epoch
    exec (.waitBarrier c) s
      = .next (if tag = (bar s o).epoch then waits s c.val x (.barrier o tag false) else ended s c.val x cOK 0) := by
  intro tag
  have hwait := waitOp_of_decoded h
  rw [hop] at hwait
  have hexec : exec (.waitBarrier c) s = .next (barWait s c.val o tag false) := by
    simp only [exec, execWaitBarrier, hwait, barUse_ok ho hworld]
    rfl
  rw [hexec]
  clear_value tag
  unfold barWait
  by_cases htag : tag = (bar s o).epoch
  · rw [if_pos htag, htag, bne_self_eq_false, if_neg Bool.false_ne_true, ← beginWait_of_stream h.acts.here]
    split
    · next hst => exact absurd hst hab
    · next hst => exact absurd hst hpo
    · rfl
  · rw [if_neg htag, if_pos (bne_iff_ne.mpr htag), finish_of_stream h.acts.here]

/-- The command of a WAIT FILLED or FREE. -/
def fillCmd (c : Ch) (free : Bool) : Instr := if free then .free c else .filled c

theorem exec_fill {s : State} {c : Ch} {x : Stream} {free : Bool} (h : Decoded s c.val x 6) (hop : wWop x.desc = if free then 4 else 3) :
    exec (fillCmd c free) s = .next (ringWait s c.val x free) := by
  have hwait := waitOp_of_decoded h
  cases free with
  | true =>
    simp only [if_true] at hop
    rw [hop] at hwait
    simp only [fillCmd, if_true, exec, execFree, hwait]
  | false =>
    simp only [Bool.false_eq_true, if_false] at hop
    rw [hop] at hwait
    simp only [fillCmd, Bool.false_eq_true, if_false, exec, execFilled, hwait]

theorem ringHolds_eq (y : Ring) (free : Bool) : ringHolds y free = decide (if free then y.fill ≤ y.nm1 else 1 ≤ y.fill) := by
  cases free with
  | true => simp [ringHolds, ringN]
  | false => simp [ringHolds]

theorem fill_next {s : State} {c : Ch} {x : Stream} {free : Bool} (h : Decoded s c.val x 6) (hop : wWop x.desc = if free then 4 else 3) :
    let y := ring s (wRing x.desc)
    let holds := if free then y.fill ≤ y.nm1 else 1 ≤ y.fill
    y.en = true → y.fault = false → (chanSecure s c.val = true ∨ y.ns = true) →
    exec (fillCmd c free) s = .next (if holds then ended s c.val x cOK 0
      else waits s c.val x (if free then .free (wRing x.desc) else .filled (wRing x.desc))) := by
  intro y holds hen hfault hworld
  have hsec : ¬ (!chanSecure s c.val && !y.ns) = true := by
    rcases hworld with h | h <;> simp [h]
  have hopen : ¬ (!y.en || y.fault) = true := by simp [hen, hfault]
  rw [exec_fill h hop]
  unfold ringWait
  extract_lets r y'
  rw [if_neg hsec, if_neg hopen, finish_of_stream h.acts.here, beginWait_of_stream h.acts.here, ringHolds_eq]
  by_cases hholds : holds
  · rw [if_pos hholds, if_pos (decide_eq_true hholds)]
  · rw [if_neg hholds, if_neg (by simpa using hholds)]

/-! ### The end of a WAIT's time (R66, R162, R173, R325) -/

theorem worldRefuse_stream {s : State} {c : Nat} {x : Stream} (hx : stream s c = some x) (a : Nat) :
    ∃ d, stream (worldRefuse s c a) c = some { x with st := .done cWORLD d, wait := .none } := by
  have hn : stream (notice s 5 2 c a 0) c = some x := (stream_of_chans (notice_chans _ _ _ _ _ _) c).trans hx
  refine ⟨anyDetail s, ?_⟩
  unfold worldRefuse
  rw [finish_of_stream hn, stream_ended]

theorem timeout_cases {s : State} {c : Ch} {x : Stream} (h : Acts s c.val x) (hst : x.st = .started) (hty : dType x.desc = 6) :
    (wTimeout x.desc = 0 → exec (.waitTimeout c) s = .next s)
    ∧ (wTimeout x.desc ≠ 0 → (∃ b, x.wait = .value b) ∨ (∃ l, x.wait = .valueHigh l) ∨ x.wait = .pop none →
        exec (.waitTimeout c) s = .next (ended s c.val x cTIMEOUT 0))
    ∧ (∀ r, wTimeout x.desc ≠ 0 → x.wait = .filled r ∨ x.wait = .free r →
        ((chanSecure s c.val = true ∨ ringSecure s r = false) → exec (.waitTimeout c) s = .next (ended s c.val x
          (if (if x.wait = .filled r then 1 ≤ (ring s r).fill else (ring s r).fill ≤ (ring s r).nm1) then cOK else cTIMEOUT) 0))
        ∧ (chanSecure s c.val = false → ringSecure s r = true → ∃ t d, exec (.waitTimeout c) s = .next t
            ∧ stream t c.val = some { x with st := .done cWORLD d, wait := .none })) := by
  have hexec : exec (.waitTimeout c) s = if dType x.desc != 6 || wTimeout x.desc == 0 then .next s
      else match waitRing x with
        | some r => if hubWorldBad s c.val (ringSecure s r) then .next (worldRefuse s c.val r)
          else .next (finish s c.val (if unmet s x then cTIMEOUT else cOK) 0)
        | none => .next (if unmet s x then finish s c.val cTIMEOUT 0 else s) := by
    simp only [exec, execWaitTimeout]
    rw [waiting_of_acts h hst] <;> rfl
  have hends := fun code => finish_of_stream h.here code 0
  rw [hexec, hty]
  refine ⟨fun hz => if_pos (by simp [hz]), fun hnz hw => ?_, fun r hnz hw => ?_⟩
  · refine (if_neg (by simp [hnz])).trans ?_
    have hun : waitRing x = none ∧ unmet s x = true := by
      rcases hw with ⟨b, hw⟩ | ⟨l, hw⟩ | hw <;> simp [waitRing, unmet, hw]
    rw [hun.1, hun.2, ← hends]
    rfl
  · have hring : waitRing x = some r := by rcases hw with hw | hw <;> simp [waitRing, hw]
    have hun : unmet s x = !decide (if x.wait = .filled r then 1 ≤ (ring s r).fill else (ring s r).fill ≤ (ring s r).nm1) := by
      rcases hw with hw | hw <;> simp [unmet, hw, ringHolds_eq]
    have hgo : ¬ (6 != 6 || wTimeout x.desc == 0) = true := by simp [hnz]
    refine ⟨fun hworld => ?_, fun hns hsec => ?_⟩
    · have hok : ¬ hubWorldBad s c.val (ringSecure s r) = true := by
        rcases hworld with h | h <;> simp [hubWorldBad, h]
      refine (if_neg hgo).trans ?_
      rw [hring]
      refine (if_neg hok).trans ?_
      rw [hends, hun]
      congr 2
      by_cases hp : if x.wait = .filled r then 1 ≤ (ring s r).fill else (ring s r).fill ≤ (ring s r).nm1
      · rw [if_pos hp, decide_eq_true hp]
        rfl
      · rw [if_neg hp, decide_eq_false hp]
        rfl
    · obtain ⟨d, hd⟩ := worldRefuse_stream h.here r
      refine ⟨_, d, (if_neg hgo).trans ?_, hd⟩
      rw [hring]
      exact if_pos (by simp [hubWorldBad, hns, hsec])

/-! ### POP (R66, R171, R173) -/

theorem firstWaiter_all {s : State} {c : Nat} {l : List Nat} (hmem : c ∈ l) (hall : ∀ d ∈ l, d = c) : firstWaiter s l = some c := by
  induction l with
  | nil => cases hmem
  | cons d l ih =>
    have hd := hall d List.mem_cons_self
    subst hd
    unfold firstWaiter
    by_cases hc : d ∈ l
    · rw [ih hc fun e he => hall e (List.mem_cons_of_mem _ he)]
      simp
    · have hnil : l = [] := by
        cases l with
        | nil => rfl
        | cons e l => exact absurd (hall e (by simp) ▸ List.mem_cons_self) hc
      rw [hnil]
      rfl

/-- A POP that begins to wait where no other handle wait stands is the one that its queue serves. -/
theorem popWaiter_begun {s : State} {c : Nat} {x : Stream} (hs : Canon s) (h : Decoded s c x 6) (hwait : NoHandleWaits s) :
    popWaiter (waits s c x (.pop none)) (wHq x.desc) = some c := by
  have hcanon : Canon (waits s c x (.pop none)) := setStream_canon _ _ _ { hs with }
  have hother : ∀ d, d ≠ c → stream (waits s c x (.pop none)) d = stream s d := fun d hd =>
    congrArg (·.stream) (chan_setStream_other (s := { s with order := s.order + 1 }) { hs with } hd _)
  refine firstWaiter_all ((mem_waitingChans hcanon).mpr ⟨⟨_, stream_waits _ _ _ _, ?_⟩, ?_⟩) fun d hd => ?_
  · simp [h.type, wHq]
  · have hruns := h.acts.ctx
    unfold ctxRuns at hruns
    change ((ctx s (chanCfg s c).ctx).st != .out && (ctx s (chanCfg s c).ctx).st != .resuming) = true
    cases hst : (ctx s (chanCfg s c).ctx).st <;> simp_all
  · obtain ⟨⟨z, hz, hp⟩, _⟩ := (mem_waitingChans hcanon).mp hd
    by_contra hne
    rw [hother d hne] at hz
    exact (hwait d z hz).1 (by simp at hp; exact hp.1.1)

/-- The state in which a POP that begins to wait has taken handle `h`, which leaves `rest` in its queue. -/
def popTaken (s : State) (c : Nat) (x : Stream) (h : W32) (rest : List W32) : State :=
  setStream (setHq (waits s c x (.pop none)) (wHq x.desc) { hq s (wHq x.desc) with q := rest }) c
    { x with st := .started, wait := .pop (some h), stamp := s.order }

section
variable {s : State} {c : Nat} {x : Stream}

theorem stream_popTaken (s : State) (c : Nat) (x : Stream) (h : W32) (rest : List W32) :
    stream (popTaken s c x h rest) c = some { x with st := .started, wait := .pop (some h), stamp := s.order } := stream_setStream _ _ _

theorem acts_popTaken (h : Acts s c x) (v : W32) (rest : List W32) :
    Acts (popTaken s c x v rest) c { x with st := .started, wait := .pop (some v), stamp := s.order } := by
  have hset : Acts (setHq (waits s c x (.pop none)) (wHq x.desc) { hq s (wHq x.desc) with q := rest }) c
      { x with st := .started, wait := .pop none, stamp := s.order } := { acts_waits h (.pop none) with }
  exact acts_setStream hset h.slot

theorem hq_popTaken (hs : Canon s) (c : Nat) (x : Stream) (h : W32) (rest : List W32) :
    hq (popTaken s c x h rest) (wHq x.desc) = { hq s (wHq x.desc) with q := rest } := by
  have hwaits : Canon (waits s c x (.pop none)) := setStream_canon _ _ _ { hs with }
  exact hq_setHq_self hwaits (wHq x.desc) { hq s (wHq x.desc) with q := rest }

theorem noHandleWaits_popTaken (hs : Canon s) (hwait : NoHandleWaits s) (h : W32) (rest : List W32) :
    Canon (popTaken s c x h rest) ∧ NoHandleWaits (popTaken s c x h rest) := by
  have hwaits : Canon (waits s c x (.pop none)) := setStream_canon _ _ _ { hs with }
  have hset := setHq_canon (waits s c x (.pop none)) (wHq x.desc) { hq s (wHq x.desc) with q := rest } hwaits
  refine ⟨setStream_canon _ _ _ hset, fun d z hz => ?_⟩
  by_cases hd : d = c
  · subst hd
    rw [popTaken, stream_setStream] at hz
    rw [← Option.some.inj hz]
    exact ⟨by simp, by simp⟩
  · refine hwait d z ?_
    rw [← hz, stream, stream, popTaken, chan_setStream_other hset hd]
    exact (congrArg (·.stream) (chan_setStream_other (s := { s with order := s.order + 1 }) { hs with } hd _)).symm

/-- The queue serves the POP that begins to wait. -/
theorem hqSettle_begun (hs : Canon s) (hdec : Decoded s c x 6) (hwait : NoHandleWaits s)
    (hworld : chanSecure s c = true ∨ (hq s (wHq x.desc)).ns = true) :
    (∀ h rest, (hq s (wHq x.desc)).q = h :: rest → hqSettle 1024 (waits s c x (.pop none)) (wHq x.desc) = popTaken s c x h rest)
    ∧ ((hq s (wHq x.desc)).q = [] → hqSettle 1024 (waits s c x (.pop none)) (wHq x.desc) = waits s c x (.pop none)) := by
  have hpop := popWaiter_begun hs hdec hwait
  have hq' : hq (waits s c x (.pop none)) (wHq x.desc) = hq s (wHq x.desc) := rfl
  have hx : ∀ y, stream (setHq (waits s c x (.pop none)) (wHq x.desc) y) c = some { x with st := .started, wait := .pop none, stamp := s.order } :=
    fun _ => stream_waits s c x (.pop none)
  have hsecure : hubWorldBad (waits s c x (.pop none)) c (hqSecure (waits s c x (.pop none)) (wHq x.desc)) = false := by
    change (!chanSecure s c && (s.img.isNone || !(hq s (wHq x.desc)).ns)) = false
    rcases hworld with hw | hw
    · rw [hw]
      rfl
    · cases himg : s.img <;> simp [chanSecure, himg, hw]
  refine ⟨fun h rest hqueue => ?_, fun hqueue => ?_⟩
  · rw [hqSettle, hq', hpop, hqueue]
    dsimp only
    rw [hsecure, if_neg Bool.false_ne_true, modStream_of_stream (hx _)]
    obtain ⟨hcanon, hidle⟩ := noHandleWaits_popTaken (c := c) (x := x) hs hwait h rest
    exact hqSettle_idle hcanon hidle _ _
  · have hpush : pushWaiter (waits s c x (.pop none)) (wHq x.desc) = none := by
      refine pushWaiter_none (s := waits s c x (.pop none)) (setStream_canon _ _ _ { hs with }) (fun d z hz => ?_) _
      by_cases hd : d = c
      · subst hd
        rw [stream_waits] at hz
        rw [← Option.some.inj hz]
        simp
      · refine (hwait d z ?_).2
        rw [← hz]
        exact (congrArg (·.stream) (chan_setStream_other (s := { s with order := s.order + 1 }) { hs with } hd _)).symm
    rw [hqSettle, hq', hqueue, hpush]
    exact ite_self _

end

section
variable {s : State} {c : Ch} {x : Stream} {e : XEnt} {pa : Nat}

/-- A stream that waits for something else does not wait as `p` says. -/
theorem waiting_otherwise {s : State} {c : Nat} {x : Stream} (hx : stream s c = some x) {p : Wait → Bool} (hp : p x.wait = false) :
    waiting s c p = none := by
  unfold waiting acting
  rw [hx]
  simp [hp]

/-- A POP that may use its queue begins to wait there. -/
theorem popStart_begins (h : Decoded s c.val x 6)
    (he : x.pre.find? (fun y => y.region == dVa x.desc 2 / 2 ^ 25 && y.leaf.w) = some e) (hfit : dVa x.desc 2 % 128 + 4 ≤ 128)
    (hloc : leafLoc s e.leaf (dVa x.desc 2) = .ext pa) (hen : (hq s (wHq x.desc)).en = true)
    (hworld : chanSecure s c.val = true ∨ (hq s (wHq x.desc)).ns = true) :
    popStart s c.val x = hqSettle 1024 (waits s c.val x (.pop none)) (wHq x.desc) := by
  have hva := dVa_lt x.desc 2
  have hsec : ¬ (!chanSecure s c.val && !(hq s (wHq x.desc)).ns) = true := by rcases hworld with hw | hw <;> simp [hw]
  unfold popStart
  dsimp only
  rw [if_neg hsec, if_neg (by simp [hen]), ctlLeaves_one h.acts.here hva (by omega) he]
  dsimp only
  rw [piecesOf_one hva hfit, hloc, ← beginWait_of_stream h.acts.here]
  simp [absentCore, worldBad, locSecure]

theorem pop_cases (hs : Canon s) (h : Decoded s c.val x 6) (hop : wWop x.desc = 2)
    (he : x.pre.find? (fun y => y.region == dVa x.desc 2 / 2 ^ 25 && y.leaf.w) = some e) (hfit : dVa x.desc 2 % 128 + 4 ≤ 128)
    (hloc : leafLoc s e.leaf (dVa x.desc 2) = .ext pa) (hwait : NoHandleWaits s) :
    let y := hq s (wHq x.desc)
    let va := dVa x.desc 2
    let m := memPortOf s pa
    y.en = true → (chanSecure s c.val = true ∨ y.ns = true) →
    (y.q = [] → exec (.pop c) s = .next (waits s c.val x (.pop none)))
    ∧ (∀ h rest, y.q = h :: rest → powered s (44 + m / 2) = true → canTag s (.ext pa) true (dPrio x.desc) = true →
        (tget (fun _ => 0) s.stage.fenceMem m).getLsbD (chanCfg s c.val).mover = false →
        ∃ t id tag, exec (.pop c) s = .next t ∧ (hq t (wHq x.desc)).q = rest
          ∧ stream t c.val = some { x with st := .started, wait := .popWrite id, stamp := s.order, pre := [] }
          ∧ t.out = s.out ++ [.fab m 1 3 (pa / 128 * 128) (!chanSecure s c.val) false 0 tag
              (BitVec.ofNat 1024 (h.toNat * 2 ^ (8 * (va % 128)))) (BitVec.ofNat 128 (15 * 2 ^ (va % 128)))]) := by
  intro y va m hen hworld
  have hwaitOp := waitOp_of_decoded h
  rw [hop] at hwaitOp
  obtain ⟨hfull, hempty⟩ := hqSettle_begun hs h hwait hworld
  have hstart := popStart_begins h he hfit hloc hen hworld
  refine ⟨fun hq => ?_, fun v rest hqueue hon htag hopen => ?_⟩
  · have hacts := acts_waits h.acts (.pop none)
    simp only [exec, execPop, hwaitOp, hstart, hempty hq]
    rw [waiting_otherwise hacts.here]
    rfl
  · have hx := stream_popTaken s c.val x v rest
    have hacts := acts_popTaken h.acts v rest
    have hissue := issueCtl_ext (k := .popWrite) (pa := pa) (va := va) (size := 4) (v := v.toNat) hx hon htag hopen 0 fun id => .popWrite id
    have hva := dVa_lt x.desc 2
    have hpopIssue : popIssue (popTaken s c.val x v rest) c.val { x with st := .started, wait := .pop (some v), stamp := s.order } v
        = issueCtl (popTaken s c.val x v rest) c.val { x with st := .started, wait := .pop (some v), stamp := s.order } .popWrite
          [⟨.ext pa, va, 4, v.toNat⟩] 0 fun id => .popWrite id := by
      unfold popIssue
      rw [ctlLeaves_one hx hva (by omega) he]
      dsimp only
      rw [piecesOf_one hva hfit, show leafLoc (popTaken s c.val x v rest) e.leaf (dVa x.desc 2) = .ext pa from hloc]
    have hexec : exec (.pop c) s = .next (popIssue (popTaken s c.val x v rest) c.val
        { x with st := .started, wait := .pop (some v), stamp := s.order } v) := by
      simp only [exec, execPop, hwaitOp, hstart, hfull v rest hqueue]
      rw [waiting_of_acts hacts rfl]
      rfl
    rw [hpopIssue, hissue] at hexec
    have hout := accessSent_out (s := popTaken s c.val x v rest) (c := c.val) (k := .popWrite) (pa := pa) (va := va) (size := 4) (v := v.toNat) 0
    have hhub : (accessSent (popTaken s c.val x v rest) c.val .popWrite pa va 4 v.toNat 0).hub = (popTaken s c.val x v rest).hub := rfl
    have hsent : accessOut (popTaken s c.val x v rest) c.val .popWrite pa va 4 v.toNat 0 = .fab m 1 3 (pa / 128 * 128) (!chanSecure s c.val) false 0
        (fabId (accessLine (popTaken s c.val x v rest) c.val .popWrite pa va 4 v.toNat))
        (BitVec.ofNat 1024 (v.toNat * 2 ^ (8 * (va % 128)))) (BitVec.ofNat 128 (15 * 2 ^ (va % 128))) := by
      have hmod : v.toNat % 2 ^ (8 * 4) = v.toNat := Nat.mod_eq_of_lt v.isLt
      unfold accessOut
      rw [show isAdd .popWrite = false from rfl, if_neg Bool.false_ne_true, atByte, hmod]
      rfl
    rw [hsent] at hout
    generalize accessSent (popTaken s c.val x v rest) c.val .popWrite pa va 4 v.toNat 0 = u at hexec hout hhub
    generalize accessLine (popTaken s c.val x v rest) c.val .popWrite pa va 4 v.toNat = l at hexec hout
    refine ⟨_, l.id, fabId l, hexec, ?_, stream_setStream _ _ _, hout⟩
    refine (congrArg (fun k => (tget (fun _ => ({} : Hq)) k.hqs (wHq x.desc)).q) hhub).trans ?_
    exact congrArg (·.q) (hq_popTaken hs c.val x v rest)

end

/-- Settles O36: each WAIT completes on its condition, its timeout or a refusal. -/
theorem waitsCompleteOnTheirCondition : Obligations.WaitsCompleteOnTheirCondition := by
  unfold Obligations.WaitsCompleteOnTheirCondition
  refine ⟨?_, ?_, ?_, ?_, ?_, ?_⟩
  · intro s c x o h hop ho hworld hab hpo
    exact waitBarrier_next h hop ho hworld hab hpo
  · intro s c x e hs h hop va he hone hext
    exact waitValue_starts hs h hop he hone hext
  · intro s c x e v hs hacts hst hcmp he hone va n a again ends
    have hcached : again → Cached s c.val x e := fun ⟨hwalk, hon, hhit⟩ => ⟨hwalk, hon, hhit⟩
    have polls : (x.wait = .value true ∨ ∃ l, x.wait = .valueHigh l) → Polls s c.val x e := fun hw => ⟨hacts, hst, hw, he, hone⟩
    refine ⟨fun hw hext => ?_, fun o hbytes _ => ?_⟩
    · obtain ⟨t, hexec, hdone, hmore⟩ := poll_ext hs (polls (.inl hw)) hcmp hw hext v
      exact ⟨t, hexec, hdone, fun hval hagain => hmore hval (hcached hagain)⟩
    · have hstage : PollsStage s c.val x e o := fun k hk => by
        obtain ⟨hloc, hpool, hworld, hgate, hfence, hgood⟩ := hbytes k hk
        exact ⟨hloc, hpool, hworld, hgate, hfence, hgood⟩
      refine ⟨fun hw hfit => ?_, fun hw hover => ?_, fun low hw hlen hover => ?_⟩
      · obtain ⟨t, hexec, hdone, hmore⟩ := poll_stageWhole hs (polls (.inl hw)) hcmp hstage hw hfit v
        exact ⟨t, hexec, hdone, fun hval hagain => hmore hval (hcached hagain)⟩
      · exact poll_stageFirst hs (polls (.inl hw)) hstage hw rfl hover v
      · obtain ⟨t, hexec, hdone, hmore⟩ := poll_stageSecond hs (polls (.inr ⟨low, hw⟩)) hcmp hstage hw rfl hlen hover v
        exact ⟨t, hexec, hdone, fun hval hagain => hmore hval (hcached hagain)⟩
  · intro s c x e pa hs h hop he hfit hloc hwait
    exact pop_cases hs h hop he hfit hloc hwait
  · intro s c x free h hop
    exact fill_next h hop
  · intro s c x h hst hty
    exact timeout_cases h hst hty

end Sys2Proof.Proofs
end

section
/-! Barrier messages (R169, R217, R288). -/

namespace Sys2Proof.Proofs

open Sys2Proof Sys2Proof.Machine Sys2Proof.Laws Sys2Proof.Tests

/-- The body of a release of object 0 by chip 1, that has no hop left. -/
def lastRelease : Slot := bm 1 2 0 1 0 0 0 0 0 1

/-- A release has come for an object to which ring 0, which is not empty, is aligned, and the interrupt of the hub's faults is enabled, with
its message. -/
def ringMsi : State :=
  let s := setRing (bar0 (bh 0 false) lastRelease 0 { home := some 1 }) 0 { en := true, aen := true, bobj := 0, fill := 1 }
  let t := setMsi s 38 { en := true }
  { t with ports := { t.ports with srcEn := 32 } }

/-- The release faults the ring, and the message of its interrupt leaves with it. -/
theorem release_ringMsi : ∃ t, exec (.releaseApply 1 .clean) ringMsi = .next t ∧ t.out.length = (takePkt ringMsi 1 0).out.length + 1 := by
  refine ⟨_, rfl, ?_⟩
  decide +kernel

/-- Refutes O55: of a release that has no hop left it says that nothing goes out; where it meets a ring that is not empty (R169), the message of
the fault's interrupt leaves through M0 (R217). -/
theorem not_barrierMessagesAct : ¬ Obligations.BarrierMessagesAct := by
  intro h
  obtain ⟨hmsg, -⟩ := h
  obtain ⟨-, -, hspread⟩ := hmsg ringMsi 1 (bh 0 false) lastRelease 0 (canonOf _ (by decide +kernel)) (by decide +kernel) (by decide +kernel)
    (by decide +kernel) (by decide +kernel)
  obtain ⟨-, -, -, -, hact⟩ := hspread (.releaseApply 1 .clean) 2 List.mem_cons_self (by decide +kernel)
  obtain ⟨t, hexec, -, -, -, hout⟩ := hact (by decide +kernel) (.inl rfl) (by decide +kernel) (by decide +kernel)
  obtain ⟨hnone, -⟩ := hout (.inl rfl) (by decide +kernel)
  obtain ⟨u, hexec', hlen⟩ := release_ringMsi
  rw [hexec] at hexec'
  cases hexec'
  rw [hnone (by decide +kernel)] at hlen
  exact Nat.succ_ne_self _ hlen.symm

end Sys2Proof.Proofs
end

section
/-! Inbound accesses of memory and core ports to stage memory (R27, R191, R193, R208, R211, R276, R322). -/

namespace Sys2Proof.Proofs

open Sys2Proof Sys2Proof.Machine Sys2Proof.Laws

/-! ### An access that no other is before -/

/-- The state with the inbound accesses `w` waiting. -/
def withInq (s : State) (w : List InReq) : State := { s with ports := { s.ports with inq := w } }

theorem withInq_none {s : State} (h : s.ports.inq = []) : withInq s [] = s := by
  unfold withInq
  rw [← h]

section
variable {s : State} {q : InReq}

theorem inReady_one (hbehind : idBehind (withInq s [q]) [] q = false) :
    inReady (withInq s [q]) [q] [] = if (serveIn (withInq s [q]) q).isNone then [] else [q] := by
  unfold inReady
  rw [hbehind, Bool.false_or]
  split <;> rfl

theorem acceptIn_alone (hop : operating s = true) (hinq : s.ports.inq = []) : acceptIn s q = drainFrom 2 (withInq s [q]) := by
  have hdrain : drainIn (withInq s [q]) = drainFrom 2 (withInq s [q]) := by
    unfold drainIn
    rw [show operating (withInq s [q]) = true from hop]
    rfl
  rw [← hdrain, show acceptIn s q = drainIn (withInq s (s.ports.inq ++ [q])) from rfl, hinq, List.nil_append]

/-- An access that may not be served waits, with its needs. -/
theorem acceptIn_waits (hop : operating s = true) (hinq : s.ports.inq = []) (hserve : ∀ w, serveIn (withInq s w) q = none) :
    acceptIn s q = inNeeds (withInq s [q]) q := by
  have hready : inReady (withInq s [q]) [q] [] = [] := by
    unfold inReady
    rw [hserve]
    simp [inReady]
  have hdrain : drainFrom 2 (withInq s [q]) = inNeeds (withInq s [q]) q := by
    unfold drainFrom
    rw [show (withInq s [q]).ports.inq = [q] from rfl, hready]
    rfl
  rw [acceptIn_alone hop hinq, hdrain]

/-- An access that may be served is served at once. -/
theorem acceptIn_served (hop : operating s = true) (hinq : s.ports.inq = []) (hbehind : idBehind (withInq s [q]) [] q = false)
    (hsome : (serveIn (withInq s [q]) q).isSome = true) {t : State} (hserve : serveIn s q = some t) (ht : t.ports.inq = []) :
    acceptIn s q = t := by
  have hready : inReady (withInq s [q]) [q] [] = [q] := by
    rw [inReady_one hbehind]
    exact if_neg (by rw [← Option.not_isSome, hsome]; decide)
  have hnext : inNext (withInq s [q]) [q] = some q := by
    unfold inNext
    cases h : inBank (withInq s [q]) q <;> simp [h]
  have hafter : drainFrom 1 t = t := by
    unfold drainFrom
    rw [ht]
    rfl
  have hdrain : drainFrom 2 (withInq s [q]) = t := by
    unfold drainFrom
    rw [show (withInq s [q]).ports.inq = [q] from rfl, hready, hnext]
    dsimp only
    rw [show ({ withInq s [q] with ports := { (withInq s [q]).ports with inq := [q].erase q } } : State) = s by
      rw [List.erase_cons_head]
      exact withInq_none hinq, hserve]
    exact hafter
  rw [acceptIn_alone hop hinq, hdrain]

theorem onlyClk_inNeeds (s : State) (q : InReq) : OnlyClk s (inNeeds s q) := by
  have hneed := onlyClk_need s ((if q.core then 48 else 44) + q.port / 2)
  unfold inNeeds
  generalize need s ((if q.core then 48 else 44) + q.port / 2) = u at hneed
  dsimp only
  split
  · exact hneed.trans (onlyClk_foldl onlyClk_need _ _)
  · split
    · exact hneed
    · exact hneed.trans (onlyClk_foldl onlyClk_need _ _)
  · exact hneed

/-- What the wait of an access leaves. -/
theorem waits_result (hop : operating s = true) (hinq : s.ports.inq = []) (hserve : ∀ w, serveIn (withInq s w) q = none) :
    (acceptIn s q).ports.inq = [q] ∧ acceptIn s q = { s with clk := (acceptIn s q).clk, ports := { s.ports with inq := (acceptIn s q).ports.inq } } := by
  have hneeds := onlyClk_inNeeds (withInq s [q]) q
  rw [acceptIn_waits hop hinq hserve]
  generalize inNeeds (withInq s [q]) q = t at hneeds
  unfold OnlyClk at hneeds
  rw [hneeds]
  exact ⟨rfl, rfl⟩

/-! ### Serving an access of a stage line -/

/-- A stage access may be served: its port is powered and has taken it, it has an OP and SIZE of its port, and nothing at the bank holds it. -/
structure InServed (s : State) (q : InReq) (off : Nat) : Prop where
  on : powered s ((if q.core then 48 else 44) + q.port / 2) = true
  taken : q.taken = true
  accepts : inAccepts q = true
  loc : locOf s q.req.addr.toNat = .stage off
  free : inWaits s off (inInput q) = false

theorem serveIn_stage {off : Nat} (h : InServed s q off) :
    serveIn s q = some (emit (inStage s q.req off (inInput q) (if q.core then 2 else 1) q.port q.bank).1 (.resp q.core q.port q.req.id
      (inStage s q.req off (inInput q) (if q.core then 2 else 1) q.port q.bank).2.1
      (inStage s q.req off (inInput q) (if q.core then 2 else 1) q.port q.bank).2.2)) := by
  obtain ⟨hon, htaken, hacc, hloc, hfree⟩ := h
  unfold serveIn
  dsimp only
  rw [if_neg (by simp [hon, htaken]), if_neg (by simp [hacc]), hloc]
  dsimp only
  rw [hfree]
  rfl

theorem idBehind_core (w : List InReq) (hcore : q.core = true) : idBehind (withInq s w) [] q = false := by
  unfold idBehind
  rw [hcore]
  rfl

theorem idBehind_noRelay (w : List InReq) (hlines : ∀ l ∈ s.path.lines, ∀ p i, l.kind ≠ .inbound p i) : idBehind (withInq s w) [] q = false := by
  have hany : (s.path.lines.any fun l => l.kind == .inbound q.port q.req.id.toNat) = false := by
    rw [List.any_eq_false]
    intro l hl
    simpa using hlines l hl _ _
  unfold idBehind
  rw [show (withInq s w).path.lines = s.path.lines from rfl, hany]
  simp

/-- A stage access that may be served has its answer. -/
theorem acceptIn_stage {off : Nat} (hop : operating s = true) (hinq : s.ports.inq = []) (hbehind : idBehind (withInq s [q]) [] q = false)
    (h : InServed s q off) {u : State} {r : Nat} {d : LineData}
    (hstage : inStage s q.req off (inInput q) (if q.core then 2 else 1) q.port q.bank = (u, r, d)) (hu : u.ports = s.ports) :
    acceptIn s q = emit u (.resp q.core q.port q.req.id r d) := by
  have hserve := serveIn_stage h
  rw [hstage] at hserve
  have hserve' := serveIn_stage (s := withInq s [q]) (q := q) (off := off) { h with }
  refine acceptIn_served hop hinq hbehind (by rw [hserve']; rfl) hserve ?_
  exact (congrArg (·.inq) hu).trans hinq

end

/-! ### What the access of a stage line leaves (R27, R193, R276, R322) -/

section
variable {s : State} {r : FabReq} {off : Nat} (input path agent : Nat)

theorem inStage_world (hns : r.ns = true) (hsec : stageSecure s off = true) (bank : Ecc) :
    inStage s r off input path agent bank = (notice s path (noticeOp r) agent r.addr.toNat 0, 3, 0) :=
  if_pos (by rw [hns, hsec]; rfl)

/-- Only the bytes of stage memory, its bad words and its banks' turns move. -/
def OnlyBytes (s t : State) : Prop := t = { s with stage := { s.stage with
  mem := t.stage.mem, bad := t.stage.bad, rankBank := t.stage.rankBank, hintBank := t.stage.hintBank } }

theorem OnlyBytes.trans {s t u : State} (h : OnlyBytes s t) (k : OnlyBytes t u) : OnlyBytes s u := by
  unfold OnlyBytes at h k ⊢
  rw [h] at k
  exact k

theorem grantStage_frame (s : State) (off i : Nat) :
    grantStage s off i = { s with stage := { s.stage with
      rankBank := (grantStage s off i).stage.rankBank, hintBank := (grantStage s off i).stage.hintBank } } := by
  unfold grantStage
  split <;> rfl

theorem onlyBytes_grantStage (s : State) (off i : Nat) : OnlyBytes s (grantStage s off i) := by
  have h := grantStage_frame s off i
  unfold OnlyBytes
  rw [h]

theorem inStage_read (hworld : r.ns = false ∨ stageSecure s off = false) (hop : r.op = 0) (hsize : r.size = 3)
    (hpool : (poolOf s off).isSome = true) (hgood : badWords s (off / 128 * 128) fullBe = []) :
    inStage s r off input path agent .clean
      = (grantStage s (off / 128 * 128) input, 0, memLine s.stage.mem (off / 128 * 128)) := by
  have hok : ¬ (r.ns && stageSecure s off) = true := by rcases hworld with h | h <;> simp [h]
  have hpool' : ¬ (poolOf s (off / 128 * 128)).isNone = true := by
    rw [poolOf_line, ← Option.not_isSome, hpool]
    decide
  unfold inStage
  dsimp only
  rw [if_neg hok, hop]
  simp only [hsize, if_true, stageRead]
  rw [if_neg hpool', hgood]
  rfl

/-- A write whose merged words are good leaves no event. -/
theorem onlyBytes_stageWriteEcc {o : Nat} (hpool : (poolOf s o).isNone = false) (d : LineData) {be : LineEn} (hgood : badWords s o be = []) :
    OnlyBytes s (stageWriteEcc s o d be input .clean) := by
  have hknown : ((mergedWords be).map fun w => o + 8 * w).filter s.stage.bad.contains = [] := by
    rw [badWords, List.filter_eq_nil_iff] at hgood
    rw [List.filter_eq_nil_iff]
    intro b hb
    obtain ⟨w, hw, rfl⟩ := List.mem_map.mp hb
    exact hgood _ (List.mem_map.mpr ⟨w, List.mem_of_mem_filter hw, rfl⟩)
  unfold stageWriteEcc
  rw [if_neg (by rw [hpool]; decide)]
  dsimp only
  rw [hknown]
  refine OnlyBytes.trans ?_ (onlyBytes_grantStage _ _ _)
  rfl

/-- The bytes of a line behind a write of its enabled ones. -/
theorem memWrite_bytes {m m' : List Host.Cell} (hm : Memory.wf m = true) {a : Nat} {d : LineData} {be : LineEn} (h : m' = memWrite m a d be 128) :
    (∀ j < 128, memByte m' (a + j) = if be.getLsbD j then lineByte d j else memByte m (a + j))
      ∧ ∀ b, b < a ∨ a + 128 ≤ b → memByte m' b = memByte m b := by
  refine ⟨fun j hj => ?_, fun b hb => ?_⟩
  · rw [h]
    by_cases hen : be.getLsbD j = true
    · rw [if_pos hen]
      exact memByte_memWrite_same _ _ _ _ _ hm hj hen
    · rw [if_neg hen]
      refine memByte_memWrite_other _ _ _ _ _ hm fun k hk hen' heq => hen ?_
      rwa [show k = j by omega] at hen'
  · rw [h]
    exact memByte_memWrite_other _ _ _ _ _ hm fun k hk _ => by omega

/-- An inbound write of good words stores its enabled bytes. -/
theorem stageWriteEcc_clean (hs : Canon s) (hpool : (poolOf s off).isSome = true) (d : LineData) {be : LineEn} (hgood : badWords s (off / 128 * 128) be = []) :
    let t := stageWriteEcc s (off / 128 * 128) d be input .clean
    t = { s with stage := { s.stage with
        mem := t.stage.mem, bad := t.stage.bad, rankBank := t.stage.rankBank, hintBank := t.stage.hintBank } }
      ∧ (∀ j < 128, memByte t.stage.mem (off / 128 * 128 + j)
          = if be.getLsbD j then lineByte d j else memByte s.stage.mem (off / 128 * 128 + j))
      ∧ ∀ b, b < off / 128 * 128 ∨ off / 128 * 128 + 128 ≤ b → memByte t.stage.mem b = memByte s.stage.mem b := by
  have hpool' : (poolOf s (off / 128 * 128)).isNone = false := by
    rw [poolOf_line, ← Option.not_isSome, hpool]
    rfl
  exact ⟨onlyBytes_stageWriteEcc input hpool' d hgood, memWrite_bytes hs.mem (stageWriteEcc_mem hpool' d be input .clean)⟩

theorem inStage_write (hworld : r.ns = false ∨ stageSecure s off = false) (hop : r.op = 1) :
    inStage s r off input path agent .clean = (stageWriteEcc s (off / 128 * 128) r.data r.be input .clean, 0, 0) := by
  have hok : ¬ (r.ns && stageSecure s off) = true := by rcases hworld with h | h <;> simp [h]
  unfold inStage
  dsimp only
  rw [if_neg hok, hop]
  rfl

theorem inStage_add {wide : Bool} (hworld : r.ns = false ∨ stageSecure s off = false) (hop : r.op = if wide then 3 else 2)
    (hbad : s.stage.bad.contains (off / 8 * 8) = false) (hpool : (poolOf s off).isSome = true) :
    let k := if wide then 8 else 4
    inStage s r off input path agent .clean = ((stageAdd s off k (r.data.toNat / 2 ^ (8 * (off % 128)) % 2 ^ (8 * k)) input).1, 0,
      BitVec.ofNat 1024 (memNat s.stage.mem off k * 2 ^ (8 * (off % 128)))) := by
  intro k
  have hok : ¬ (r.ns && stageSecure s off) = true := by rcases hworld with h | h <;> simp [h]
  have hpool' : ¬ (poolOf s off).isNone = true := by
    rw [← Option.not_isSome, hpool]
    decide
  have hcheck : addCheck s off .clean = (s, false) := by
    unfold addCheck
    rw [if_neg hpool', hbad]
    rfl
  have hold : ∀ v, (stageAdd s off k v input).2 = memNat s.stage.mem off k := fun v => by
    unfold stageAdd
    rw [if_neg hpool']
  have hnum : r.op.toNat = if wide then 3 else 2 := by
    rw [hop]
    cases wide <;> rfl
  unfold inStage
  dsimp only
  rw [if_neg hok, hnum]
  cases wide
  all_goals
    simp only [Bool.false_eq_true, if_false, if_true, hcheck]
    rw [← hold (r.data.toNat / 2 ^ (8 * (off % 128)) % 2 ^ (8 * k))]
    rfl

end

/-! ### The commands -/

/-- The inbound access of a core port or of a memory port. -/
def inReq (core : Bool) (m : Port) (n : CPort) (r : FabReq) : InReq := ⟨core, if core then n.val else m.val, r, .clean, true⟩

/-- The command of an inbound access. -/
def inCmd (core : Bool) (m : Port) (n : CPort) (r : FabReq) : Instr :=
  if core then .coreInboundRequest n r .clean else .stageInboundRequest m r .clean

section
variable {s : State} {core : Bool} {m : Port} {n : CPort} {r : FabReq} {off : Nat}

theorem exec_in (hop : operating s = true) (hrdy : (if core then s.pins.crdy.getLsbD n.val else true) = true)
    (hthere : s.img.isNone = true ∨ (if core then (im s).cPresent.getLsbD n.val else (im s).mPresent.getLsbD m.val) = true) :
    exec (inCmd core m n r) s = .next (acceptIn s (inReq core m n r)) := by
  have himg : ∀ b : Bool, s.img.isNone = true ∨ b = true → (s.img.isSome && !b) = false := fun b hb => by
    rcases hb with hb | hb
    · rw [Option.isNone_iff_eq_none] at hb
      rw [hb]
      rfl
    · rw [hb]
      simp
  cases core with
  | true =>
    simp only [if_true] at hthere hrdy
    simp only [inCmd, inReq, if_true, exec, execCoreInboundRequest, hop, himg _ hthere, hrdy]
    rfl
  | false =>
    simp only [Bool.false_eq_true, if_false] at hthere
    simp only [inCmd, inReq, Bool.false_eq_true, if_false, exec, execStageInboundRequest, hop, himg _ hthere]
    rfl

/-- Whether the access's port is powered. -/
theorem inReq_port (s : State) (core : Bool) (m : Port) (n : CPort) (r : FabReq) :
    powered s ((if (inReq core m n r).core then 48 else 44) + (inReq core m n r).port / 2)
      = powered s (if core then 48 + n.val / 2 else 44 + m.val / 2) := by
  cases core <;> rfl

theorem in_waits (hop : operating s = true) (hrdy : (if core then s.pins.crdy.getLsbD n.val else true) = true)
    (hthere : s.img.isNone = true ∨ (if core then (im s).cPresent.getLsbD n.val else (im s).mPresent.getLsbD m.val) = true)
    (hloc : locOf s r.addr.toNat = .stage off) (hacc : inAccepts (inReq core m n r) = true) (hinq : s.ports.inq = [])
    (hwait : powered s (if core then 48 + n.val / 2 else 44 + m.val / 2) = false ∨ inWaits s off (if core then 32 else 33) = true) :
    ∃ t, exec (inCmd core m n r) s = .next t ∧ t.ports.inq = [inReq core m n r]
      ∧ t = { s with clk := t.clk, ports := { s.ports with inq := t.ports.inq } } := by
  have hserve : ∀ w, serveIn (withInq s w) (inReq core m n r) = none := fun w => by
    have hport : powered (withInq s w) ((if (inReq core m n r).core then 48 else 44) + (inReq core m n r).port / 2)
        = powered s (if core then 48 + n.val / 2 else 44 + m.val / 2) := inReq_port s core m n r
    unfold serveIn
    rw [hport]
    generalize powered s (if core then 48 + n.val / 2 else 44 + m.val / 2) = on at hwait
    cases on with
    | false => rfl
    | true =>
      have hbank : inWaits (withInq s w) off (inInput (inReq core m n r)) = true := hwait.resolve_left (by decide)
      rw [hacc, show locOf (withInq s w) (inReq core m n r).req.addr.toNat = .stage off from hloc]
      exact if_pos hbank
  rw [exec_in hop hrdy hthere]
  exact ⟨_, rfl, waits_result hop hinq hserve⟩

theorem in_served (hop : operating s = true) (hrdy : (if core then s.pins.crdy.getLsbD n.val else true) = true)
    (hthere : s.img.isNone = true ∨ (if core then (im s).cPresent.getLsbD n.val else (im s).mPresent.getLsbD m.val) = true)
    (hloc : locOf s r.addr.toNat = .stage off) (hacc : inAccepts (inReq core m n r) = true) (hinq : s.ports.inq = [])
    (hlines : core = true ∨ ∀ l ∈ s.path.lines, ∀ p i, l.kind ≠ .inbound p i)
    (hon : powered s (if core then 48 + n.val / 2 else 44 + m.val / 2) = true) (hfree : inWaits s off (if core then 32 else 33) = false)
    {u : State} {resp : Nat} {d : LineData}
    (hstage : inStage s r off (if core then 32 else 33) (if core then 2 else 1) (if core then n.val else m.val) .clean = (u, resp, d))
    (hu : u.ports = s.ports) :
    exec (inCmd core m n r) s = .next (emit u (.resp core (if core then n.val else m.val) r.id resp d)) := by
  have hserved : InServed s (inReq core m n r) off := ⟨by rw [inReq_port]; exact hon, rfl, hacc, hloc, hfree⟩
  have hbehind : idBehind (withInq s [inReq core m n r]) [] (inReq core m n r) = false := by
    rcases hlines with hcore | hlines
    · exact idBehind_core _ hcore
    · exact idBehind_noRelay _ hlines
  rw [exec_in hop hrdy hthere, acceptIn_stage hop hinq hbehind hserved hstage hu]
  rfl

end

theorem inAccepts_line {core : Bool} {m : Port} {n : CPort} {r : FabReq} (hsize : r.size = 3) (hop : r.op.toNat ≤ 1) :
    inAccepts (inReq core m n r) = true := by
  have hcases : r.op.toNat = 0 ∨ r.op.toNat = 1 := by omega
  unfold inAccepts inReq
  dsimp only
  rcases hcases with h | h
  all_goals
    rw [h, hsize]
    cases core <;> rfl

/-- An inbound line access (R27, R193, R208, R322). -/
theorem inbound_line {s : State} {core : Bool} {m : Port} {n : CPort} {r : FabReq} {off : Nat} (hs : Canon s) (hop : operating s = true)
    (hrdy : (if core then s.pins.crdy.getLsbD n.val else true) = true)
    (hthere : s.img.isNone = true ∨ (if core then (im s).cPresent.getLsbD n.val else (im s).mPresent.getLsbD m.val) = true)
    (hloc : locOf s r.addr.toNat = .stage off) (hpool : (poolOf s off).isSome = true) (hsize : r.size = 3) (hrop : r.op.toNat ≤ 1)
    (hgood : badWords s (off / 128 * 128) (if r.op = 0 then fullBe else r.be) = []) (hinq : s.ports.inq = [])
    (hlines : ∀ l ∈ s.path.lines, ∀ p i, l.kind ≠ .inbound p i) :
    let on := powered s (if core then 48 + n.val / 2 else 44 + m.val / 2)
    let waits := inWaits s off (if core then 32 else 33)
    let port := if core then n.val else m.val
    let line := off / 128 * 128
    (on = false ∨ waits = true → ∃ t, exec (inCmd core m n r) s = .next t ∧ t.ports.inq = [⟨core, port, r, .clean, true⟩]
      ∧ t = { s with clk := t.clk, ports := { s.ports with inq := t.ports.inq } })
    ∧ (on = true → waits = false → r.ns = true → stageSecure s off = true →
      ∃ t, exec (inCmd core m n r) s = .next (emit t (.resp core port r.id 3 0)) ∧ t.stage = s.stage
        ∧ t.aon.wn.count = min (s.aon.wn.count + 1) 0xFFFF)
    ∧ (on = true → waits = false → r.ns = false ∨ stageSecure s off = false →
      (r.op = 0 → ∃ t, exec (inCmd core m n r) s = .next (emit t (.resp core port r.id 0 (memLine s.stage.mem line)))
          ∧ t = { s with stage := { s.stage with rankBank := t.stage.rankBank, hintBank := t.stage.hintBank } })
      ∧ (r.op = 1 → ∃ t, exec (inCmd core m n r) s = .next (emit t (.resp core port r.id 0 0))
          ∧ t = { s with stage := { s.stage with
              mem := t.stage.mem, bad := t.stage.bad, rankBank := t.stage.rankBank, hintBank := t.stage.hintBank } }
          ∧ (∀ j < 128, memByte t.stage.mem (line + j) = if r.be.getLsbD j then lineByte r.data j else memByte s.stage.mem (line + j))
          ∧ ∀ b, b < line ∨ line + 128 ≤ b → memByte t.stage.mem b = memByte s.stage.mem b)) := by
  intro on waits port line
  have hacc : inAccepts (inReq core m n r) = true := inAccepts_line hsize hrop
  refine ⟨fun hw => in_waits hop hrdy hthere hloc hacc hinq hw, fun hon hfree hns hsec => ?_, fun hon hfree hworld => ⟨fun h0 => ?_, fun h1 => ?_⟩⟩
  · have hexec := in_served hop hrdy hthere hloc hacc hinq (.inr hlines) hon hfree (inStage_world _ _ _ hns hsec _) (notice_ports _ _ _ _ _ _)
    exact ⟨_, hexec, notice_stage _ _ _ _ _ _, by rw [notice_aon_wn, noticed_count]⟩
  · rw [if_pos h0] at hgood
    have hread := inStage_read (if core then 32 else 33) (if core then 2 else 1) port hworld h0 hsize hpool hgood
    have hframe := grantStage_frame s (off / 128 * 128) (if core then 32 else 33)
    refine ⟨_, in_served hop hrdy hthere hloc hacc hinq (.inr hlines) hon hfree hread ?_, hframe⟩
    exact (onlyStage_grantStage s _ _).ports
  · rw [if_neg (by rw [h1]; decide)] at hgood
    obtain ⟨hframe, hin, hout⟩ := stageWriteEcc_clean (if core then 32 else 33) hs hpool r.data hgood
    refine ⟨_, in_served hop hrdy hthere hloc hacc hinq (.inr hlines) hon hfree (inStage_write _ _ port hworld h1) ?_, hframe, hin, hout⟩
    exact (onlyStage_stageWriteEcc s _ _ _ _ _).ports

/-- A core's addition (R276). -/
theorem inbound_add {s : State} {n : CPort} {r : FabReq} {off : Nat} {wide : Bool} (hs : Canon s) (hop : operating s = true)
    (hrdy : s.pins.crdy.getLsbD n.val = true) (hthere : s.img.isNone = true ∨ (im s).cPresent.getLsbD n.val = true)
    (hon : powered s (48 + n.val / 2) = true) (hloc : locOf s r.addr.toNat = .stage off) (hfree : inWaits s off 32 = false)
    (hinq : s.ports.inq = []) (hpool : (poolOf s off).isSome = true) (hworld : r.ns = false ∨ stageSecure s off = false)
    (hrop : r.op = if wide then 3 else 2) (hsize : r.size = if wide then 1 else 0) :
    let k := if wide then 8 else 4
    off % k = 0 → s.stage.bad.contains (off / 8 * 8) = false →
    let old := memNat s.stage.mem off k
    ∃ t, exec (.coreInboundRequest n r .clean) s
        = .next (emit t (.resp true n.val r.id 0 (BitVec.ofNat 1024 (old * 2 ^ (8 * (off % 128))))))
      ∧ memNat t.stage.mem off k = (old + r.data.toNat / 2 ^ (8 * (off % 128)) % 2 ^ (8 * k)) % 2 ^ (8 * k)
      ∧ ∀ b, b < off ∨ off + k ≤ b → memByte t.stage.mem b = memByte s.stage.mem b := by
  intro k halign hbad old
  have hfit : off % 128 + k ≤ 128 := by
    cases wide
    · simp only [k, Bool.false_eq_true, if_false] at halign ⊢
      omega
    · simp only [k, if_true] at halign ⊢
      omega
  have hacc : inAccepts (inReq true 0 n r) = true := by
    unfold inAccepts inReq
    dsimp only
    rw [hrop, hsize]
    cases wide <;> rfl
  obtain ⟨hval, hrest⟩ := stageAdd_result hs.mem hpool hfit (r.data.toNat / 2 ^ (8 * (off % 128)) % 2 ^ (8 * k)) 32
  have hexec := in_served (core := true) (m := 0) hop hrdy hthere hloc hacc hinq (.inl rfl) hon hfree
    (inStage_add 32 2 n.val hworld hrop hbad hpool) (onlyStage_stageAdd _ _ _ _ _).ports
  exact ⟨_, hexec, hval, hrest⟩

theorem inbound_unready {s : State} {n : CPort} {r : FabReq} {e : Ecc} (hop : operating s = true)
    (hthere : s.img.isNone = true ∨ (im s).cPresent.getLsbD n.val = true) (hrdy : s.pins.crdy.getLsbD n.val = false) (hinq : s.ports.inq = []) :
    ∃ t, exec (.coreInboundRequest n r e) s = .next t
      ∧ t = { s with clk := t.clk, ports := { s.ports with inq := [⟨true, n.val, r, e, false⟩] } } := by
  have hserve : ∀ w, serveIn (withInq s w) ⟨true, n.val, r, e, false⟩ = none := fun w => by
    unfold serveIn
    exact if_pos (by simp)
  have himg : (s.img.isSome && !(im s).cPresent.getLsbD n.val) = false := by
    rcases hthere with hb | hb
    · rw [Option.isNone_iff_eq_none] at hb
      rw [hb]
      rfl
    · rw [hb]
      simp
  obtain ⟨hone, hframe⟩ := waits_result hop hinq hserve
  rw [hone] at hframe
  refine ⟨_, ?_, hframe⟩
  simp only [exec, execCoreInboundRequest, hop, himg, hrdy]
  rfl

theorem inbound_refused {s : State} {m : Port} {r : FabReq} {e : Ecc} (hop : operating s = true)
    (hthere : s.img.isNone = true ∨ (im s).mPresent.getLsbD m.val = true) (hon : powered s (44 + m.val / 2) = true) (hinq : s.ports.inq = [])
    (hlines : ∀ l ∈ s.path.lines, ∀ p i, l.kind ≠ .inbound p i) (hbad : r.size ≠ 3 ∨ 2 ≤ r.op.toNat) :
    exec (.stageInboundRequest m r e) s = .next (emit s (.resp false m.val r.id 2 0)) := by
  have hacc : inAccepts ⟨false, m.val, r, e, true⟩ = false := by
    unfold inAccepts
    dsimp only
    rw [if_neg Bool.false_ne_true]
    rcases hbad with h | h
    · rw [beq_false_of_ne h]
      rfl
    · rw [decide_eq_false (by omega), Bool.and_false]
  have hserve : ∀ w, serveIn (withInq s w) ⟨false, m.val, r, e, true⟩ = some (emit (withInq s w) (.resp false m.val r.id 2 0)) := fun w => by
    unfold serveIn
    dsimp only
    rw [if_neg (by simp [show powered (withInq s w) (44 + m.val / 2) = true from hon]), hacc]
    rfl
  have himg : (s.img.isSome && !(im s).mPresent.getLsbD m.val) = false := by
    rcases hthere with hb | hb
    · rw [Option.isNone_iff_eq_none] at hb
      rw [hb]
      rfl
    · rw [hb]
      simp
  have hself := hserve []
  rw [withInq_none hinq] at hself
  have hdone := acceptIn_served hop hinq (idBehind_noRelay _ hlines) (by rw [hserve]; rfl) hself hinq
  rw [← hdone]
  simp only [exec, execStageInboundRequest, hop, himg]
  rfl

/-- Settles O47: an inbound access waits, is refused, or reads, writes and adds at its own place. -/
theorem inboundRequestsAreServed : Obligations.InboundRequestsAreServed := by
  unfold Obligations.InboundRequestsAreServed
  refine ⟨?_, ?_, ?_, ?_⟩
  · intro s core m n r off hs hop hrdy hthere hloc hpool hsize hrop hgood hinq hlines
    exact inbound_line hs hop hrdy hthere hloc hpool hsize hrop hgood hinq hlines
  · intro s n r off wide hs hop hrdy hthere hon hloc hfree hinq hpool hworld hrop hsize
    exact inbound_add hs hop hrdy hthere hon hloc hfree hinq hpool hworld hrop hsize
  · intro s n r e hop hthere hrdy hinq
    exact inbound_unready hop hthere hrdy hinq
  · intro s m r e hop hthere hon hinq hlines hbad
    exact inbound_refused hop hthere hon hinq hlines hbad

end Sys2Proof.Proofs
end

section
/-! Packets that arrive at a port: how one is taken, and the remote requests that are served here (R27, R223, R236, R239). -/

namespace Sys2Proof.Proofs

open Sys2Proof Sys2Proof.Machine Sys2Proof.Laws

/-! ### A packet leaves the receive buffer (R223) -/

/-- Only the link ports and the output move. -/
def OnlyLinks (s t : State) : Prop := t = { s with links := t.links, out := t.out }

theorem OnlyLinks.refl (s : State) : OnlyLinks s s := rfl

theorem OnlyLinks.trans {s t u : State} (h : OnlyLinks s t) (k : OnlyLinks t u) : OnlyLinks s u := by
  unfold OnlyLinks at h k ⊢
  rw [h] at k
  exact k

theorem OnlyLinks.img {s t : State} (h : OnlyLinks s t) : t.img = s.img := by rw [h]
theorem OnlyLinks.stage {s t : State} (h : OnlyLinks s t) : t.stage = s.stage := by rw [h]
theorem OnlyLinks.aon {s t : State} (h : OnlyLinks s t) : t.aon = s.aon := by rw [h]
theorem OnlyLinks.chans {s t : State} (h : OnlyLinks s t) : t.chans = s.chans := by rw [h]
theorem OnlyLinks.path {s t : State} (h : OnlyLinks s t) : t.path = s.path := by rw [h]
theorem OnlyLinks.ports {s t : State} (h : OnlyLinks s t) : t.ports = s.ports := by rw [h]
theorem OnlyLinks.fresh {s t : State} (h : OnlyLinks s t) : t.fresh = s.fresh := by rw [h]
theorem OnlyLinks.hub {s t : State} (h : OnlyLinks s t) : t.hub = s.hub := by rw [h]

theorem onlyLinks_setLink (s : State) (p : Nat) (l : Link) : OnlyLinks s (setLink s p l) := rfl

theorem onlyLinks_sendFlit (s : State) (p ftype fseq : Nat) (nack : Bool) (slots : List Slot) : OnlyLinks s (sendFlit s p ftype fseq nack slots) := by
  unfold sendFlit
  dsimp only
  split <;> rfl

theorem onlyLinks_returnCredit (s : State) (p vc n : Nat) : OnlyLinks s (returnCredit s p vc n) := by
  unfold returnCredit
  dsimp only
  split
  · exact (onlyLinks_setLink s p _).trans (onlyLinks_sendFlit _ _ _ _ _ _)
  · exact onlyLinks_setLink s p _

theorem onlyLinks_takePkt (s : State) (p i : Nat) : OnlyLinks s (takePkt s p i) := by
  unfold takePkt
  dsimp only
  split
  · exact .refl s
  · split
    · exact (onlyLinks_setLink s p _).trans (onlyLinks_returnCredit _ _ _ _)
    · exact onlyLinks_setLink s p _

/-- The port's record behind a flit: only what it owes of credit has changed. -/
def Credited (l l' : Link) : Prop := l' = { l with owed := l'.owed, crTurn := l'.crTurn }

theorem Credited.trans {l m n : Link} (h : Credited l m) (k : Credited m n) : Credited l n := by
  unfold Credited at h k ⊢
  rw [h] at k
  exact k

theorem link_sendFlit {s : State} (hs : Canon s) (p ftype fseq : Nat) (nack : Bool) (slots : List Slot) :
    Credited (link s p) (link (sendFlit s p ftype fseq nack slots) p) ∧ (∀ q, q ≠ p → link (sendFlit s p ftype fseq nack slots) q = link s q)
      ∧ Canon (sendFlit s p ftype fseq nack slots) := by
  have hcanon := sendFlit_canon s p ftype fseq nack slots hs
  unfold sendFlit at hcanon ⊢
  dsimp only at hcanon ⊢
  split
  · next v _ =>
    refine ⟨?_, fun q hq => link_setLink_other hs p _ hq, ?_⟩
    · have hself := link_setLink_self hs p { link s p with
        owed := (link s p).owed.setIfInBounds v (owedOf (link s p) v - min 2047 (owedOf (link s p) v)), crTurn := (v + 1) % 8 }
      unfold Credited
      rw [show link (emit (setLink s p _) _) p = _ from hself]
    · exact emit_canon _ _ (setLink_canon _ _ _ hs)
  · exact ⟨rfl, fun _ _ => rfl, emit_canon _ _ hs⟩

theorem link_returnCredit {s : State} (hs : Canon s) (p vc n : Nat) :
    Credited (link s p) (link (returnCredit s p vc n) p) ∧ ∀ q, q ≠ p → link (returnCredit s p vc n) q = link s q := by
  have hset := setLink_canon s p { link s p with owed := (link s p).owed.setIfInBounds vc (owedOf (link s p) vc + n) } hs
  have hself : Credited (link s p) (link (setLink s p { link s p with
      owed := (link s p).owed.setIfInBounds vc (owedOf (link s p) vc + n) }) p) := by
    rw [link_setLink_self hs]
    rfl
  have hother : ∀ q, q ≠ p → link (setLink s p { link s p with owed := (link s p).owed.setIfInBounds vc (owedOf (link s p) vc + n) }) q = link s q :=
    fun q hq => link_setLink_other hs p _ hq
  unfold returnCredit
  dsimp only
  split
  · obtain ⟨hsent, hrest, _⟩ := link_sendFlit hset p 0 0 false []
    exact ⟨hself.trans hsent, fun q hq => (hrest q hq).trans (hother q hq)⟩
  · exact ⟨hself, hother⟩

/-- The port's receive buffer is empty. -/
def emptied (s : State) (p : Nat) : State := setLink s p { link s p with rxq := [] }

theorem takePkt_emptied {s : State} {p : Nat} {k : Packet} (hq : (link s p).rxq = [k]) :
    takePkt s p 0 = if k.via % 2 = 0 then returnCredit (emptied s p) p (pVc (pktHdr k)) k.slots.length else emptied s p := by
  have hget : (link s p).rxq[0]? = some k := by rw [hq]; rfl
  have hdrop : dropAt 0 (link s p).rxq = [] := by rw [hq]; rfl
  unfold takePkt emptied
  dsimp only
  rw [hget, hdrop]

/-- The port's one packet leaves the buffer. -/
theorem takePkt_one {s : State} (hs : Canon s) {p : Nat} {k : Packet} (hq : (link s p).rxq = [k]) :
    Credited { link s p with rxq := [] } (link (takePkt s p 0) p) ∧ (∀ q, q ≠ p → link (takePkt s p 0) q = link s q) ∧ Canon (takePkt s p 0) := by
  have hcanon := takePkt_canon s p 0 hs
  have hself : link (emptied s p) p = { link s p with rxq := [] } := link_setLink_self hs p _
  have hother : ∀ q, q ≠ p → link (emptied s p) q = link s q := fun q h => link_setLink_other hs p _ h
  have hempty : Canon (emptied s p) := setLink_canon s p _ hs
  have hcredit := link_returnCredit hempty p (pVc (pktHdr k)) k.slots.length
  rw [hself] at hcredit
  rw [takePkt_emptied hq] at hcanon ⊢
  split at hcanon
  · next heven =>
    rw [if_pos heven]
    exact ⟨hcredit.1, fun q h => (hcredit.2 q h).trans (hother q h), hcanon⟩
  · next hodd =>
    rw [if_neg hodd]
    exact ⟨by rw [hself]; rfl, hother, hcanon⟩

/-! ### The oldest packet that terminates here -/

theorem oldest_one {s : State} {p : Nat} {k : Packet} (hq : (link s p).rxq = [k]) {f : Packet → Bool} (hf : f k = true) : oldest s p f = some (0, k) := by
  unfold oldest
  dsimp only
  rw [hq]
  simp [hf]

section
variable {s : State} {p : Nat} {h : Slot} {b : List Slot} {v : Nat}

theorem inPkt_one (hq : (link s p).rxq = [⟨h :: b, v⟩]) (hchip : pDchip h = ownChip s) : inPkt s p (pOpc h) = some (0, ⟨h :: b, v⟩) := by
  refine oldest_one hq ?_
  change (pDchip h == ownChip s && pOpc h == pOpc h) = true
  simp [hchip]

theorem errFor_of_img {t : State} (himg : t.img = s.img) (r : Nat) : errFor t h r = errFor s h r := by
  unfold errFor ownChip im
  rw [himg]

theorem rspPkt_of_img {t : State} (himg : t.img = s.img) (opc : Nat) (body : List Slot) : rspPkt t h opc body = rspPkt s h opc body := by
  unfold rspPkt ownChip im
  rw [himg]

/-- The RESP of the first check that the request fails (R236). -/
def checked (s : State) (h : Slot) (v : Nat) : Nat :=
  if pTchk h ≠ (im s).cfgTag.toNat % 65536 ∨ 2 ≤ v then 4
  else if (im s).windows ≤ pWin h ∨ (win s (pWin h)).valid = false then 2
  else if 4096 * (win s (pWin h)).size.toNat < pOff h + reqSize (pOpc h) then 2
  else if pNs h = true ∧ (winSecure s (pWin h) = true ∨ stageSecure s (winOff s h) = true) then 3 else 0

theorem reqCheck_eq (s : State) (h : Slot) (b : List Slot) (v : Nat) : reqCheck s ⟨h :: b, v⟩ = checked s h v := by
  unfold reqCheck checked
  simp only [pktHdr, List.headD_cons, overTransit, decide_eq_true_eq, Bool.not_eq_true', Bool.and_eq_true, Bool.or_eq_true]

/-- A request that fails a check is answered with its RESP. -/
theorem serve_refused {ecc : RxEcc} (hecc : ecc = .clean) (hop : operating s = true) (hq : (link s p).rxq = [⟨h :: b, v⟩]) (hchip : pDchip h = ownChip s)
    (hc : checked s h v ≠ 0) (act : State → Slot → List Slot → Nat → State × Packet) :
    serve s p (pOpc h) ecc act = sendPkt (if checked s h v = 3 then notice (takePkt s p 0) 3 (reqOp (pOpc h)) p (pOff h) (pSchip h)
      else takePkt s p 0) (errFor s h (checked s h v)) := by
  have himg := (onlyLinks_takePkt s p 0).img
  subst hecc
  unfold serve
  rw [inPkt_one hq hchip]
  dsimp only
  rw [reqCheck_eq, if_neg (by simp [hop]), if_neg (by simp [hc])]
  rw [show rxCorr (takePkt s p 0) p .clean = takePkt s p 0 from rfl, if_neg (by decide), if_pos hc]
  congr 1
  exact errFor_of_img himg _

/-- A request that passes every check is served. -/
theorem serve_passed {ecc : RxEcc} (hecc : ecc = .clean ∨ (ecc = .data ∧ pOpc h ≠ 1)) (hop : operating s = true)
    (hq : (link s p).rxq = [⟨h :: b, v⟩]) (hchip : pDchip h = ownChip s) (hc : checked s h v = 0) (hfree : inWaits s (winOff s h) 34 = false)
    (act : State → Slot → List Slot → Nat → State × Packet) :
    serve s p (pOpc h) ecc act = if ecc = .data then sendPkt (takePkt s p 0) (errFor s h 1)
      else sendPkt (act (takePkt s p 0) h b (winOff s h)).1 (act (takePkt s p 0) h b (winOff s h)).2 := by
  have himg := (onlyLinks_takePkt s p 0).img
  unfold serve
  rw [inPkt_one hq hchip]
  dsimp only
  rw [reqCheck_eq, hc, if_neg (by simp [hop]), show winOff s (pktHdr ⟨h :: b, v⟩) = winOff s h from rfl, hfree]
  rcases hecc with rfl | ⟨rfl, hread⟩
  · rfl
  · rw [show rxCorr (takePkt s p 0) p .data = takePkt s p 0 from rfl]
    simp only [beq_self_eq_true, Bool.true_and, bne_iff_ne, ne_eq, hread, not_false_eq_true, if_true]
    rw [show errFor (takePkt s p 0) (pktHdr ⟨h :: b, v⟩) 1 = errFor s h 1 from errFor_of_img himg 1]
    rfl

end

end Sys2Proof.Proofs
end

section
/-! Remote requests at this chip's stage windows (R27, R236, R239, R276). -/

namespace Sys2Proof.Proofs

open Sys2Proof Sys2Proof.Machine Sys2Proof.Laws

/-! ### What a write of free codes leaves (R192) -/

/-- Only the bytes of stage memory, its bad words, its banks' turns and counts, and the record of their events move. -/
def OnlyEcc (s t : State) : Prop := t = { s with
  stage := { s.stage with
    mem := t.stage.mem, bad := t.stage.bad, rankBank := t.stage.rankBank, hintBank := t.stage.hintBank, bg := t.stage.bg }
  aon := t.aon, fresh := t.fresh }

theorem OnlyEcc.trans {s t u : State} (h : OnlyEcc s t) (k : OnlyEcc t u) : OnlyEcc s u := by
  unfold OnlyEcc at h k ⊢
  rw [h] at k
  exact k

theorem OnlyBytes.onlyEcc {s t : State} (h : OnlyBytes s t) : OnlyEcc s t := by
  unfold OnlyBytes at h
  unfold OnlyEcc
  rw [h]

theorem OnlyAon.onlyEcc {s t : State} (h : OnlyAon s t) : OnlyEcc s t := by
  unfold OnlyEcc
  rw [h]

theorem onlyEcc_eccEvents (s : State) (off : Nat) (bad : Bool) (n : Nat) : OnlyEcc s (eccEvents s off bad n) := by
  unfold eccEvents
  split
  · exact .trans (t := bgEcc s _ _ _) rfl (onlyAon_raise _ _ _ _ _).onlyEcc
  · rfl

theorem onlyEcc_eccFound (s : State) (off n : Nat) (corr : Bool) : OnlyEcc s (eccFound s off n corr) := by
  unfold eccFound
  extract_lets t
  have ht : OnlyEcc s t := by
    unfold t
    split
    · exact onlyEcc_eccEvents s off false 1
    · rfl
  split
  · exact ht
  · exact ht.trans (onlyEcc_eccEvents t off true n)

theorem onlyEcc_stageWrite {s : State} {off : Nat} (hpool : (poolOf s off).isNone = false) (d : LineData) (be : LineEn) (input : Nat) :
    OnlyEcc s (stageWrite s off d be input) := by
  unfold stageWrite stageWriteEcc
  rw [if_neg (by rw [show poolOf (bump s) off = poolOf s off from rfl, hpool]; decide)]
  extract_lets whole part known fresh stage t
  exact .trans (t := t) rfl ((onlyBytes_grantStage t off input).onlyEcc.trans (onlyEcc_eccFound _ _ _ _))

/-- A write of a whole line merges no word. -/
theorem mergedWords_full : mergedWords fullBe = [] := by decide +kernel

theorem stageWrite_full {s : State} {off : Nat} (hpool : (poolOf s off).isNone = false) (d : LineData) (input : Nat) :
    (stageWrite s off d fullBe input).aon = s.aon ∧ (stageWrite s off d fullBe input).stage.bg = s.stage.bg := by
  unfold stageWrite stageWriteEcc
  rw [if_neg (by rw [show poolOf (bump s) off = poolOf s off from rfl, hpool]; decide)]
  dsimp only
  rw [mergedWords_full]
  simp only [List.map_nil, List.filter_nil, List.isEmpty_nil, Bool.and_true, List.take_nil, ite_self, List.length_nil, Bool.not_true, Bool.and_false,
    eccFound, Bool.false_eq_true, if_false, if_true, Nat.add_zero]
  have hgrant := onlyBytes_grantStage
  constructor
  · rw [hgrant]
    rfl
  · rw [hgrant]
    rfl

/-! ### What a request does at its bank -/

section
variable {s u : State} {h : Slot} {b : List Slot} {off : Nat}

theorem poolOf_of_img {t : State} (himg : t.img = s.img) (o : Nat) : poolOf t o = poolOf s o := by
  unfold poolOf im
  rw [himg]

theorem serveRead_good (hu : OnlyLinks s u) (hpool : (poolOf s off).isSome = true) (hgood : badWords s off fullBe = []) :
    serveRead .clean u h b off = (grantStage u off 34, rspPkt s h 6 (dataSlots (memLine s.stage.mem off))) := by
  have hpool' : ¬ (poolOf u off).isNone = true := by
    rw [poolOf_of_img hu.img, ← Option.not_isSome, hpool]
    decide
  have hbad : badWords u off fullBe = [] := by
    unfold badWords
    rw [hu.stage]
    exact hgood
  have hread : stageRead u off fullBe 34 .clean = (grantStage u off 34, memLine s.stage.mem off, false) := by
    unfold stageRead
    rw [if_neg hpool', hbad, hu.stage]
    rfl
  unfold serveRead
  rw [hread]
  dsimp only
  rw [if_neg Bool.false_ne_true, rspPkt_of_img hu.img]

/-- A remote addition of a good word. -/
theorem serveAdd_good (hu : OnlyLinks s u) (hs : Canon s) {size : Nat} (hsize : size = 4 ∨ size = 8) (halign : off % size = 0)
    (hpool : (poolOf s off).isSome = true) (hbad : s.stage.bad.contains (off / 8 * 8) = false) :
    ∃ t, serveAdd size .clean u h b off = (t, rspPkt s h 8 [BitVec.ofNat 128 (memNat s.stage.mem off size)])
      ∧ t = { u with stage := { s.stage with
          mem := t.stage.mem, bad := t.stage.bad, rankBank := t.stage.rankBank, hintBank := t.stage.hintBank } }
      ∧ memNat t.stage.mem off size = (memNat s.stage.mem off size + (b.headD 0).toNat % 2 ^ (8 * size)) % 2 ^ (8 * size)
      ∧ ∀ a, a < off ∨ off + size ≤ a → memByte t.stage.mem a = memByte s.stage.mem a := by
  have hpool' : ¬ (poolOf u off).isNone = true := by
    rw [poolOf_of_img hu.img, ← Option.not_isSome, hpool]
    decide
  have hcheck : addCheck u off .clean = (u, false) := by
    unfold addCheck
    rw [if_neg hpool', hu.stage, hbad]
    rfl
  have hfit : off % 128 + size ≤ 128 := by rcases hsize with rfl | rfl <;> omega
  have hgood : badWords u (off / 128 * 128) (BitVec.ofNat 128 ((2 ^ size - 1) * 2 ^ (off % 128))) = [] := by
    refine badWords_run fun k hk => ?_
    rw [hu.stage, show (off + k) / 8 * 8 = off / 8 * 8 by rcases hsize with rfl | rfl <;> omega]
    exact hbad
  have hline : (poolOf u (off / 128 * 128)).isNone = false := by
    rw [poolOf_line, poolOf_of_img hu.img, ← Option.not_isSome, hpool]
    rfl
  have hpoolu : (poolOf u off).isSome = true := by rw [poolOf_of_img hu.img, hpool]
  have hwf : Memory.wf u.stage.mem = true := by rw [hu.stage]; exact hs.mem
  obtain ⟨hval, hrest⟩ := stageAdd_result hwf hpoolu hfit ((b.headD 0).toNat % 2 ^ (8 * size)) 34
  have hbytes : OnlyBytes u (stageAdd u off size ((b.headD 0).toNat % 2 ^ (8 * size)) 34).1 := by
    unfold stageAdd
    rw [if_neg hpool']
    exact onlyBytes_stageWriteEcc 34 hline _ hgood
  have hold : (stageAdd u off size ((b.headD 0).toNat % 2 ^ (8 * size)) 34).2 = memNat s.stage.mem off size := by
    unfold stageAdd
    rw [if_neg hpool', hu.stage]
  rw [hu.stage] at hval hrest
  unfold OnlyBytes at hbytes
  rw [hu.stage] at hbytes
  refine ⟨_, ?_, hbytes, hval, hrest⟩
  unfold serveAdd
  rw [hcheck]
  dsimp only
  rw [if_neg Bool.false_ne_true, hold, rspPkt_of_img hu.img]

end

/-! ### The commands (R236) -/

section
variable {s : State} {p : Port} {h : Slot} {b : List Slot} {v : Nat}

/-- A command of a remote request, with its opcode and what it does at its bank. -/
structure Serves (cmd : Instr) (p : Port) (opc : Nat) (ecc : RxEcc) (act : State → Slot → List Slot → Nat → State × Packet) : Prop where
  exec_eq : ∀ s, exec cmd s = .next (serve s p.val opc ecc act)

/-- The bank's part of a remote write. -/
def serveWrite (s : State) (h : Slot) (d : LineData) (be : LineEn) (off : Nat) : State × Packet := (stageWrite s off d be 34, rspPkt s h 7 [])

theorem serves_rdreq (p : Port) (ecc : RxEcc) (bank : Ecc) : Serves (.rdreq p ecc bank) p 1 ecc (serveRead bank) := ⟨fun _ => rfl⟩
theorem serves_wrreq (p : Port) (ecc : RxEcc) : Serves (.wrreq p ecc) p 2 ecc fun s h b off => serveWrite s h (slotsLine b) fullBe off := ⟨fun _ => rfl⟩
theorem serves_wrpart (p : Port) (ecc : RxEcc) :
    Serves (.wrpart p ecc) p 3 ecc fun s h b off => serveWrite s h (slotsLine b.tail) (b.headD 0) off := ⟨fun _ => rfl⟩
theorem serves_add32 (p : Port) (ecc : RxEcc) (bank : Ecc) : Serves (.add32 p ecc bank) p 4 ecc (serveAdd 4 bank) := ⟨fun _ => rfl⟩
theorem serves_add64 (p : Port) (ecc : RxEcc) (bank : Ecc) : Serves (.add64 p ecc bank) p 5 ecc (serveAdd 8 bank) := ⟨fun _ => rfl⟩

theorem exec_refusedReq {cmd : Instr} {opc : Nat} {act : State → Slot → List Slot → Nat → State × Packet} (hcmd : Serves cmd p opc .clean act)
    (hop : operating s = true) (hq : (link s p.val).rxq = [⟨h :: b, v⟩]) (hchip : pDchip h = ownChip s) (hopc : pOpc h = opc)
    (hc : checked s h v ≠ 0) :
    (checked s h v ≠ 3 → exec cmd s = .next (sendPkt (takePkt s p.val 0) (errFor s h (checked s h v))))
    ∧ (checked s h v = 3 → ∃ t, exec cmd s = .next (sendPkt t (errFor s h 3)) ∧ t = { takePkt s p.val 0 with aon := t.aon, fresh := t.fresh }
        ∧ t.aon.wn.count = min (s.aon.wn.count + 1) 0xFFFF) := by
  subst hopc
  rw [hcmd.exec_eq, serve_refused rfl hop hq hchip hc]
  refine ⟨fun h3 => by rw [if_neg h3], fun h3 => ?_⟩
  rw [if_pos h3, h3]
  refine ⟨_, rfl, onlyAon_notice _ _ _ _ _ _, ?_⟩
  rw [notice_aon_wn, noticed_count, (onlyLinks_takePkt s p.val 0).aon]

theorem exec_poisonReq {cmd : Instr} {opc : Nat} {act : State → Slot → List Slot → Nat → State × Packet} (hcmd : Serves cmd p opc .data act)
    (hread : opc ≠ 1) (hop : operating s = true) (hq : (link s p.val).rxq = [⟨h :: b, v⟩]) (hchip : pDchip h = ownChip s) (hopc : pOpc h = opc)
    (hc : checked s h v = 0) (hfree : inWaits s (winOff s h) 34 = false) :
    exec cmd s = .next (sendPkt (takePkt s p.val 0) (errFor s h 1)) := by
  subst hopc
  rw [hcmd.exec_eq, serve_passed (.inr ⟨rfl, hread⟩) hop hq hchip hc hfree, if_pos rfl]

theorem exec_servedReq {cmd : Instr} {opc : Nat} {act : State → Slot → List Slot → Nat → State × Packet} (hcmd : Serves cmd p opc .clean act)
    (hop : operating s = true) (hq : (link s p.val).rxq = [⟨h :: b, v⟩]) (hchip : pDchip h = ownChip s) (hopc : pOpc h = opc)
    (hc : checked s h v = 0) (hfree : inWaits s (winOff s h) 34 = false) {t : State} {k : Packet}
    (hact : act (takePkt s p.val 0) h b (winOff s h) = (t, k)) : exec cmd s = .next (sendPkt t k) := by
  subst hopc
  rw [hcmd.exec_eq, serve_passed (.inl rfl) hop hq hchip hc hfree, if_neg (by decide), hact]

/-- A remote write stores its enabled bytes. -/
theorem serveWrite_result (hs : Canon s) {u : State} (hu : OnlyLinks s u) {off : Nat} (hpool : (poolOf s off).isSome = true) (d : LineData)
    (be : LineEn) :
    ∃ t, serveWrite u h d be off = (t, rspPkt s h 7 [])
      ∧ t = { u with
          stage := { s.stage with
            mem := t.stage.mem, bad := t.stage.bad, rankBank := t.stage.rankBank, hintBank := t.stage.hintBank, bg := t.stage.bg }
          aon := t.aon, fresh := t.fresh }
      ∧ (be = fullBe → t.aon = s.aon ∧ t.stage.bg = s.stage.bg)
      ∧ (∀ j < 128, memByte t.stage.mem (off + j) = if be.getLsbD j then lineByte d j else memByte s.stage.mem (off + j))
      ∧ ∀ a, a < off ∨ off + 128 ≤ a → memByte t.stage.mem a = memByte s.stage.mem a := by
  have hpool' : (poolOf u off).isNone = false := by
    rw [poolOf_of_img hu.img, ← Option.not_isSome, hpool]
    rfl
  have hframe := onlyEcc_stageWrite hpool' d be 34
  have hfull := fun hbe : be = fullBe => hbe ▸ stageWrite_full hpool' d 34
  have hmem : (stageWrite u off d be 34).stage.mem = memWrite s.stage.mem off d be 128 := by
    rw [← hu.stage]
    exact stageWriteEcc_mem (s := bump u) hpool' d be 34 _
  unfold OnlyEcc at hframe
  rw [hu.stage] at hframe
  rw [hu.stage, hu.aon] at hfull
  refine ⟨_, congrArg (Prod.mk _) (rspPkt_of_img hu.img _ _), hframe, hfull, memWrite_bytes hs.mem hmem⟩

/-- A remote read waits for its bank. -/
theorem rdreq_waits (hop : operating s = true) (hq : (link s p.val).rxq = [⟨h :: b, v⟩]) (hchip : pDchip h = ownChip s) (hopc : pOpc h = 1)
    (hc : checked s h v = 0) (hwait : inWaits s (winOff s h) 34 = true) :
    exec (.rdreq p .clean .clean) s = .next (locNeed s (.stage (winOff s h))) := by
  have hpkt := inPkt_one hq hchip
  rw [hopc] at hpkt
  rw [(serves_rdreq p .clean .clean).exec_eq]
  unfold serve
  rw [hpkt]
  dsimp only
  rw [reqCheck_eq, hc, if_neg (by simp [hop]), show winOff s (pktHdr ⟨h :: b, v⟩) = winOff s h from rfl, hwait]
  rfl

end

/-- Settles O53: a remote request waits, is answered with the first check that it fails, or is served at its window's place. -/
theorem remoteRequestsAreServed : Obligations.RemoteRequestsAreServed := by
  unfold Obligations.RemoteRequestsAreServed
  intro s p h b v hs _ hop hq hchip u w off c
  have hu : OnlyLinks s u := onlyLinks_takePkt s p.val 0
  refine ⟨fun cmd opc hcmd hopc hc => ?_, fun hc hfree hpool => ⟨fun cmd opc hcmd hopc => ?_, fun hopc hgood => ?_, fun be d cmd hcmd => ?_,
    fun size cmd hcmd halign hbad => ?_⟩, fun hc hwait hopc => rdreq_waits hop hq hchip hopc hc hwait⟩
  · simp only [List.mem_cons, Prod.mk.injEq, List.not_mem_nil, or_false] at hcmd
    rcases hcmd with ⟨rfl, rfl⟩ | ⟨rfl, rfl⟩ | ⟨rfl, rfl⟩ | ⟨rfl, rfl⟩ | ⟨rfl, rfl⟩
    · exact exec_refusedReq (serves_rdreq _ _ _) hop hq hchip hopc hc
    · exact exec_refusedReq (serves_wrreq _ _) hop hq hchip hopc hc
    · exact exec_refusedReq (serves_wrpart _ _) hop hq hchip hopc hc
    · exact exec_refusedReq (serves_add32 _ _ _) hop hq hchip hopc hc
    · exact exec_refusedReq (serves_add64 _ _ _) hop hq hchip hopc hc
  · simp only [List.mem_cons, Prod.mk.injEq, List.not_mem_nil, or_false] at hcmd
    rcases hcmd with ⟨rfl, rfl⟩ | ⟨rfl, rfl⟩ | ⟨rfl, rfl⟩ | ⟨rfl, rfl⟩
    · exact exec_poisonReq (serves_wrreq _ _) (by decide) hop hq hchip hopc hc hfree
    · exact exec_poisonReq (serves_wrpart _ _) (by decide) hop hq hchip hopc hc hfree
    · exact exec_poisonReq (serves_add32 _ _ _) (by decide) hop hq hchip hopc hc hfree
    · exact exec_poisonReq (serves_add64 _ _ _) (by decide) hop hq hchip hopc hc hfree
  · exact exec_servedReq (serves_rdreq _ _ _) hop hq hchip hopc hc hfree (serveRead_good hu hpool hgood)
  · obtain ⟨t, hact, hresult⟩ := serveWrite_result (h := h) hs hu hpool d be
    refine ⟨t, ?_, hresult⟩
    rcases hcmd with ⟨hopc, rfl, rfl, rfl⟩ | ⟨hopc, rfl, rfl, rfl⟩
    · exact exec_servedReq (serves_wrreq _ _) hop hq hchip hopc hc hfree hact
    · exact exec_servedReq (serves_wrpart _ _) hop hq hchip hopc hc hfree hact
  · rcases hcmd with ⟨hopc, rfl, rfl⟩ | ⟨hopc, rfl, rfl⟩
    · obtain ⟨t, hact, hresult⟩ := serveAdd_good (h := h) (b := b) hu hs (.inl rfl) halign hpool hbad
      exact ⟨t, exec_servedReq (serves_add32 _ _ _) hop hq hchip hopc hc hfree hact, hresult⟩
    · obtain ⟨t, hact, hresult⟩ := serveAdd_good (h := h) (b := b) hu hs (.inr rfl) halign hpool hbad
      exact ⟨t, exec_servedReq (serves_add64 _ _ _) hop hq hchip hopc hc hfree hact, hresult⟩

end Sys2Proof.Proofs
end

section
/-! Responses of other chips end the lines of their tags (R65, R75, R237, R239). -/

namespace Sys2Proof.Proofs

open Sys2Proof Sys2Proof.Machine Sys2Proof.Laws

/-! ### The line of a tag -/

theorem lineOf_of_path {s t : State} (h : t.path = s.path) (id : Nat) : lineOf t id = lineOf s id := by
  unfold lineOf
  rw [h]

theorem lineOf_id {s : State} {id : Nat} {l : Line} (h : lineOf s id = some l) : l.id = id := by
  simpa using List.find?_some h

theorem tagLine_of_path {s t : State} (h : t.path = s.path) (hd : Slot) (opc : Nat) : tagLine t hd opc = tagLine s hd opc := by
  unfold tagLine
  rw [lineOf_of_path h]

theorem ownReadTag_of_ports {s t : State} (h : t.ports = s.ports) (hd : Slot) (opc : Nat) : ownReadTag t hd opc = ownReadTag s hd opc := by
  unfold ownReadTag ownOf
  rw [h]

section
variable {s : State} {p : Port} {h : Slot} {b : List Slot} {v : Nat}

/-- A command of a response, with its opcode and what it does with the line that it answers. -/
structure Answers (cmd : Instr) (p : Port) (opc : Nat) (ecc : RxEcc) (act : State → Packet → Line → State) : Prop where
  exec_eq : ∀ s, exec cmd s = .next (response s p.val opc ecc act)

theorem answers_rdrsp (p : Port) (ecc : RxEcc) : Answers (.rdrsp p ecc) p 6 ecc fun s k l => landLine s l (slotsLine k.slots.tail) := ⟨fun _ => rfl⟩
theorem answers_wrack (p : Port) (ecc : RxEcc) : Answers (.wrack p ecc) p 7 ecc fun s _ l => remoteAck s l := ⟨fun _ => rfl⟩
theorem answers_addrsp (p : Port) (ecc : RxEcc) : Answers (.addrsp p ecc) p 8 ecc fun s _ l => remoteAck s l := ⟨fun _ => rfl⟩
theorem answers_errrsp (p : Port) (ecc : RxEcc) : Answers (.errrsp p ecc) p 9 ecc fun s k l => lineFail s l (rspErr s (pktHdr k) l) := ⟨fun _ => rfl⟩

section
variable {cmd : Instr} {opc : Nat} {ecc : RxEcc} {act : State → Packet → Line → State}

/-- A response whose tag has a line. -/
theorem exec_answer (hcmd : Answers cmd p opc ecc act) (hecc : ecc = .clean ∨ ecc = .data) (hq : (link s p.val).rxq = [⟨h :: b, v⟩])
    (hchip : pDchip h = ownChip s) (hopc : pOpc h = opc) {l : Line} (hl : tagLine s h opc = some l) :
    exec cmd s = .next (if ecc = .data ∧ (opc = 6 ∨ opc = 8) then lineFail (takePkt s p.val 0) l .poison
      else act (takePkt s p.val 0) ⟨h :: b, v⟩ l) := by
  subst hopc
  have htag : tagLine (takePkt s p.val 0) (pktHdr ⟨h :: b, v⟩) (pOpc h) = some l := (tagLine_of_path (onlyLinks_takePkt s p.val 0).path _ _).trans hl
  rw [hcmd.exec_eq]
  unfold response
  rw [inPkt_one hq hchip]
  rcases hecc with rfl | rfl
  · dsimp only
    rw [show rxCorr (takePkt s p.val 0) p.val .clean = takePkt s p.val 0 from rfl, htag]
    simp
  · dsimp only
    rw [show rxCorr (takePkt s p.val 0) p.val .data = takePkt s p.val 0 from rfl, htag]
    simp

/-- A response whose tag has no line: of a read that precedes tiles, or of nothing that waits. -/
theorem exec_untagged (hcmd : Answers cmd p opc .clean act) (hq : (link s p.val).rxq = [⟨h :: b, v⟩]) (hchip : pDchip h = ownChip s)
    (hopc : pOpc h = opc) (hl : tagLine s h opc = none) :
    let u := takePkt s p.val 0
    (∀ e, ownReadTag s h opc = some e → exec cmd s = .next { u with ports := { u.ports with own := u.ports.own.map fun y =>
      if y.id == e.id then { y with ans := some (if opc = 6 then (0, slotsLine b)
        else (if pResp h = 0 then 2 else pResp h, BitVec.ofNat 1024 (pSchip h))) } else y } })
    ∧ (ownReadTag s h opc = none → (∀ e, ownOf s (remoteNo + pRtag h) = some e → isDead e = false) →
      ∃ t, exec cmd s = .next t ∧ t = { u with aon := t.aon, fresh := t.fresh } ∧ Crosses s t (0xA8 + p.val) (fld h 0 64) (pSchip h) (0x24 + p.val)) := by
  intro u
  subst hopc
  have hu : OnlyLinks s u := onlyLinks_takePkt s p.val 0
  have htag : tagLine u (pktHdr ⟨h :: b, v⟩) (pOpc h) = none := (tagLine_of_path hu.path _ _).trans hl
  have hown := ownReadTag_of_ports hu.ports (pktHdr ⟨h :: b, v⟩) (pOpc h)
  have hexec : exec cmd s = .next (match ownReadTag u (pktHdr ⟨h :: b, v⟩) (pOpc h) with
      | some e => ownAnswered u e.id (ownAns ⟨h :: b, v⟩ (pOpc h) .clean)
      | none => raise (match ownOf u (remoteNo + pRtag h) with | some e => if isDead e then ownLate u e else u | none => u)
          (0xA8 + p.val) (fld h 0 64) (pSchip h) (0x24 + p.val)) := by
    rw [hcmd.exec_eq]
    unfold response
    rw [inPkt_one hq hchip]
    dsimp only
    rw [show rxCorr (takePkt s p.val 0) p.val .clean = u from rfl, htag] <;> rfl
  rw [hexec, hown]
  refine ⟨fun e he => ?_, fun hnone hdead => ?_⟩
  · rw [show ownReadTag s (pktHdr ⟨h :: b, v⟩) (pOpc h) = some e from he]
    rfl
  · rw [show ownReadTag s (pktHdr ⟨h :: b, v⟩) (pOpc h) = none from hnone]
    have hlate : (match ownOf u (remoteNo + pRtag h) with | some e => if isDead e then ownLate u e else u | none => u) = u := by
      unfold ownOf at hdead ⊢
      rw [hu.ports]
      split
      · next e he => rw [hdead e he, if_neg Bool.false_ne_true]
      · rfl
    rw [hlate]
    refine ⟨_, rfl, onlyAon_raise _ _ _ _ _, ?_⟩
    exact crosses_raise_of (congrArg (·.fc.evq) hu.aon) _ _ _ _

/-- A response whose header is lost. -/
theorem exec_lostHdr (hcmd : Answers cmd p opc .header act) (hq : (link s p.val).rxq = [⟨h :: b, v⟩]) (hchip : pDchip h = ownChip s)
    (hopc : pOpc h = opc) :
    ∃ t, exec cmd s = .next t ∧ Crosses s t (0xA8 + p.val) (fld h 0 64) (pSchip h) (0x24 + p.val) ∧ t.path.lines = s.path.lines := by
  subst hopc
  have hu := onlyLinks_takePkt s p.val 0
  refine ⟨discardHdr (takePkt s p.val 0) p.val ⟨h :: b, v⟩, ?_, crosses_raise_of (congrArg (·.fc.evq) hu.aon) _ _ _ _, ?_⟩
  · rw [hcmd.exec_eq]
    unfold response
    rw [inPkt_one hq hchip]
    rfl
  · exact congrArg (·.lines) ((raise_path (countDrop (takePkt s p.val 0) p.val) _ _ _ _).trans hu.path)

end

end

/-! ### The lines that an answer finds -/

section
variable {s : State} {h : Slot} {l : Line} (hl : lineOf s (remoteNo + pRtag h) = some l)
include hl

theorem tagLine_read {no att g o : Nat} {k : RdKind} (hk : l.kind = .read no att g k o) : tagLine s h 6 = some l := by
  unfold tagLine
  rw [hl]
  dsimp only
  rw [hk]
  rfl

theorem tagLine_write {no att o : Nat} {acc : Bool} (hk : l.kind = .write no att o acc) : tagLine s h 7 = some l := by
  unfold tagLine
  rw [hl]
  dsimp only
  rw [hk]
  rfl

theorem tagLine_ack {wide : Bool} (hk : l.kind = .signal false wide) : tagLine s h 7 = some l := by
  unfold tagLine
  rw [hl]
  dsimp only
  rw [hk]
  rfl

theorem tagLine_sum {wide : Bool} (hk : l.kind = .signal true wide) : tagLine s h 8 = some l := by
  unfold tagLine
  rw [hl]
  dsimp only
  rw [hk]
  rfl

theorem tagLine_err : tagLine s h 9 = some l := by
  unfold tagLine
  rw [hl]
  rfl

end

/-! ### What the answers do -/

/-- A read line leaves the lines in flight, and nothing else does. -/
theorem dropLine_of_read {s : State} {id : Nat} {l : Line} (hl : lineOf s id = some l) (hk : isWrite l.kind = false) :
    dropLine s id = setLines s (s.path.lines.filter fun z => z.id != id) := by
  unfold dropLine
  rw [hl]
  dsimp only
  rw [hk, if_neg Bool.false_ne_true]

/-- So does a line that leads to another chip. -/
theorem lines_dropLine_remote {s : State} {id chip win off : Nat} {l : Line} (hl : lineOf s id = some l) (hloc : l.loc = .remote chip win off) :
    (dropLine s id).path.lines = s.path.lines.filter fun z => z.id != id := by
  unfold dropLine
  rw [hl]
  dsimp only
  rw [hloc]
  split <;> rfl

/-- What a stream of one tile with one group is once a line of that group has landed. -/
def withLanded (x : Stream) (t : Tile) (g : Group) (loc : Loc) (k : RdKind) (d : LineData) : Stream :=
  { x with tiles := [{ t with groups := [{ g with landed := g.landed ++ [(loc, k, d)] }] }] }

/-- A line of the one group of the one tile of a stream lands. -/
theorem landLine_read {s : State} {x : Stream} {t : Tile} {g : Group} {l : Line} {k : RdKind} {o : Nat} (hl : lineOf s l.id = some l)
    (hx : stream s l.ch = some x) (hseq : l.dseq = (chan s l.ch).seq) (ht : x.tiles = [t]) (hg : t.groups = [g])
    (hk : l.kind = .read t.no t.att g.no k o) (d : LineData) :
    landLine s l d = setStream (setLines s (s.path.lines.filter fun z => z.id != l.id)) l.ch (withLanded x t g l.loc k d) := by
  have hx' : stream (setLines s (s.path.lines.filter fun z => z.id != l.id)) l.ch = some x := hx
  unfold landLine
  rw [hk]
  dsimp only
  rw [dropLine_of_read hl (by rw [hk]; rfl)]
  refine (if_neg (show ¬ (l.dseq != (chan s l.ch).seq) = true by simpa using hseq)).trans ?_
  unfold modTile
  rw [modStream_of_stream hx']
  simp [ht, hg, withLanded]

/-- A write to another chip is acknowledged. -/
theorem remoteAck_write {s : State} {l : Line} {no att o chip win off : Nat} {acc : Bool} (hk : l.kind = .write no att o acc)
    (hloc : l.loc = .remote chip win off) : remoteAck s l = dropLine s l.id := by
  unfold remoteAck
  rw [hk]
  dsimp only
  unfold lineAck
  rw [hk]
  dsimp only
  rw [show performStage s l = s by rw [performStage, hloc]]
  split <;> rfl

/-- A SIGNAL is acknowledged. -/
theorem remoteAck_signal {s : State} {l : Line} {x : Stream} {add wide : Bool} (hk : l.kind = .signal add wide) (hx : stream s l.ch = some x)
    (hw : x.wait = .signal l.id) : remoteAck s l = ended (dropLine s l.id) l.ch x cOK 0 := by
  have hdrop : stream (dropLine s l.id) l.ch = some x := (stream_of_chans (dropLine_chans s l.id) l.ch).trans hx
  unfold remoteAck
  rw [hk]
  dsimp only
  rw [hdrop]
  dsimp only
  rw [if_pos (by rw [hw]; exact beq_self_eq_true _), finish_of_stream hdrop]

/-- The completion of a SIGNAL that an error response ends. -/
theorem done_rspErr {s : State} {l : Line} {x : Stream} {chip win off : Nat} (hloc : l.loc = .remote chip win off)
    (hx : stream s l.ch = some x) (h : Slot) (add wide : Bool) :
    StreamSt.done (errOut (.signal add wide) (rspErr s h l)).1 (errOut (.signal add wide) (rspErr s h l)).2 = match pResp h with
      | 3 => .done cWORLD 1
      | 4 => .done cTAG (pSchip h)
      | 5 => .done cLINK (linkOf s chip (dPrio x.desc))
      | _ => .done cECC 0 := by
  unfold rspErr
  rw [hloc, hx]
  match pResp h with
  | 0 => rfl
  | 1 => rfl
  | 2 => rfl
  | 3 => rfl
  | 4 => rfl
  | 5 => rfl
  | _ + 6 => rfl

theorem hop_of_img {s t : State} (h : t.img = s.img) : hop t = hop s := by
  unfold hop extent ownChip im
  rw [h]

theorem portOf_of_img {s t : State} (h : t.img = s.img) : portOf t = portOf s := by
  unfold portOf linkPresent portDim im
  rw [h]

theorem linkOf_of_img {s t : State} (h : t.img = s.img) (chip prio : Nat) : linkOf t chip prio = linkOf s chip prio := by
  unfold linkOf
  rw [hop_of_img h, portOf_of_img h]

/-! ### The obligation -/

/-- Settles O54: a response finds its line by its tag. Each of the four commands takes the packet and asks for the line of the tag; what
it does with the line is the matter of `landLine`, `remoteAck` and `lineFail`. -/
theorem remoteResponsesEndTheirLines : Obligations.RemoteResponsesEndTheirLines := by
  intro s p h b v hs hv hq hchip u id
  have hu : OnlyLinks s u := onlyLinks_takePkt s p.val 0
  have hchans : u.chans = s.chans := hu.chans
  have hline : ∀ {l}, lineOf s id = some l → lineOf u l.id = some l := fun hl => by
    rw [lineOf_id hl, lineOf_of_path hu.path]
    exact hl
  have hstream : ∀ {c x}, stream s c = some x → stream u c = some x := fun hx => (stream_of_chans hchans _).trans hx
  have hseq : ∀ c, (chan u c).seq = (chan s c).seq := fun c => by rw [chan_of_chans hchans]
  have hclean : ∀ {cmd opc act l}, Answers cmd p opc .clean act → pOpc h = opc → tagLine s h opc = some l →
      exec cmd s = .next (act u ⟨h :: b, v⟩ l) := fun hcmd hopc hl => by
    rw [exec_answer hcmd (.inl rfl) hq hchip hopc hl, if_neg (fun hc => absurd hc.1 (by decide))]
  refine ⟨?_, ?_, ?_, ?_, ?_, fun l => ⟨?_, ?_⟩, ?_⟩
  · intro x t g l k o hopc hl hx hsq ht hg hk
    have hland := landLine_read (hline hl) (hstream hx) (hsq.trans (hseq l.ch).symm) ht hg hk (slotsLine b)
    rw [lineOf_id hl, hu.path] at hland
    refine ⟨_, (hclean (answers_rdrsp p .clean) hopc (tagLine_read hl hk)).trans (congrArg _ hland), ?_, stream_setStream _ _ _⟩
    rw [← hu.path]
    rfl
  · intro l no att o chip win off acc hopc hl hk hloc
    rw [hclean (answers_wrack p .clean) hopc (tagLine_write hl hk), remoteAck_write hk hloc, lineOf_id hl]
  · intro x l add wide hl hk hx hw hopc
    have hack : remoteAck u l = setStream (dropLine u id) l.ch { x with st := .done cOK 0, wait := .none } := by
      rw [remoteAck_signal hk (hstream hx) (by rw [lineOf_id hl]; exact hw), lineOf_id hl]
      rfl
    rw [← hack]
    cases add
    · exact hclean (answers_wrack p .clean) hopc (tagLine_ack hl hk)
    · exact hclean (answers_addrsp p .clean) hopc (tagLine_sum hl hk)
  · intro x l add wide chip win off hopc hl hk hloc hx hw hsq
    have hend := signalEnds_lineFail (s := u) rfl rfl (hstream hx) (hsq.trans (hseq l.ch).symm) hk (by rw [lineOf_id hl]; exact hw)
      (rspErr u h l)
    refine ⟨_, hclean (answers_errrsp p .clean) hopc (tagLine_err hl), ?_, ?_⟩
    · refine (congrArg (·.lines) hend.path).trans ?_
      rw [lineOf_id hl, lines_dropLine_remote ((lineOf_of_path hu.path id).trans hl) hloc, hu.path]
    · refine hend.done.trans ?_
      rw [done_rspErr hloc (hstream hx), linkOf_of_img hu.img] <;> rfl
  · intro cmd opc hmem hopc hl
    obtain ⟨rfl, rfl⟩ | ⟨rfl, rfl⟩ | ⟨rfl, rfl⟩ | ⟨rfl, rfl⟩ : _ ∨ _ ∨ _ ∨ _ := by simpa using hmem
    · exact exec_untagged (answers_rdrsp p .clean) hq hchip hopc hl
    · exact exec_untagged (answers_wrack p .clean) hq hchip hopc hl
    · exact exec_untagged (answers_addrsp p .clean) hq hchip hopc hl
    · exact exec_untagged (answers_errrsp p .clean) hq hchip hopc hl
  · intro hopc hl
    rw [exec_answer (answers_rdrsp p .data) (.inr rfl) hq hchip hopc hl, if_pos (by decide)]
  · intro hopc hl
    rw [exec_answer (answers_addrsp p .data) (.inr rfl) hq hchip hopc hl, if_pos (by decide)]
  · intro cmd opc hmem hopc
    obtain ⟨rfl, rfl⟩ | ⟨rfl, rfl⟩ | ⟨rfl, rfl⟩ | ⟨rfl, rfl⟩ : _ ∨ _ ∨ _ ∨ _ := by simpa using hmem
    · exact exec_lostHdr (answers_rdrsp p .header) hq hchip hopc
    · exact exec_lostHdr (answers_wrack p .header) hq hchip hopc
    · exact exec_lostHdr (answers_addrsp p .header) hq hchip hopc
    · exact exec_lostHdr (answers_errrsp p .header) hq hchip hopc

end Sys2Proof.Proofs
end

section
/-! Packets for other chips go on (R222 to R226, R232 to R234, R239). -/

namespace Sys2Proof.Proofs

open Sys2Proof Sys2Proof.Machine Sys2Proof.Laws

/-! ### The header of a packet that goes on (R222) -/

section
variable {h : Slot} {vc hops : Nat} (hvc : vc < 8) (hhops : hops < 16)
include hvc hhops

theorem toNat_setVcHops : (setVcHops h vc hops).toNat = h.toNat - 2 ^ 4 * pVc h - 2 ^ 96 * pHops h + 2 ^ 4 * vc + 2 ^ 96 * hops := by
  have hlt := h.isLt
  simp only [setVcHops, pVc, pHops, fld, Nat.shiftRight_eq_div_pow, BitVec.toNat_ofNat] at *
  omega

theorem pVc_setVcHops : pVc (setVcHops h vc hops) = vc := by
  have hlt := h.isLt
  have hset := toNat_setVcHops (h := h) hvc hhops
  simp only [pVc, pHops, fld, Nat.shiftRight_eq_div_pow] at *
  omega

theorem pHops_setVcHops : pHops (setVcHops h vc hops) = hops := by
  have hlt := h.isLt
  have hset := toNat_setVcHops (h := h) hvc hhops
  simp only [pVc, pHops, fld, Nat.shiftRight_eq_div_pow] at *
  omega

theorem pOpc_setVcHops : pOpc (setVcHops h vc hops) = pOpc h := by
  have hlt := h.isLt
  have hset := toNat_setVcHops (h := h) hvc hhops
  simp only [pOpc, pVc, pHops, fld, Nat.shiftRight_eq_div_pow] at *
  omega

theorem middle_setVcHops : fld (setVcHops h vc hops) 7 89 = fld h 7 89 := by
  have hlt := h.isLt
  have hset := toNat_setVcHops (h := h) hvc hhops
  simp only [pVc, pHops, fld, Nat.shiftRight_eq_div_pow] at *
  omega

theorem top_setVcHops : fld (setVcHops h vc hops) 100 28 = fld h 100 28 := by
  have hlt := h.isLt
  have hset := toNat_setVcHops (h := h) hvc hhops
  have htop : ∀ n : Nat, n / 2 ^ 100 = n / 2 ^ 96 / 16 := fun n => by rw [Nat.div_div_eq_div_mul]; rfl
  simp only [pVc, pHops, fld, Nat.shiftRight_eq_div_pow, htop] at *
  have hhigh : (setVcHops h vc hops).toNat / 2 ^ 96 = 16 * (h.toNat / 2 ^ 96 / 16) + hops := by omega
  rw [hhigh]
  omega

end

theorem pVc_lt (h : Slot) : pVc h < 8 := Nat.mod_lt _ (by decide)

/-! ### One packet at the outbound arbiter (R195, R196, R223, R224) -/

theorem mem_vcOrder {vc : Nat} (h : vc < 8) (l : Link) : vc ∈ vcOrder l := by
  have hpair : ∀ tc, vc / 2 = tc → vc ∈ if l.dlTurn.getLsbD tc then [2 * tc + 1, 2 * tc] else [2 * tc, 2 * tc + 1] := by
    intro tc htc
    split <;> simp only [List.mem_cons, List.not_mem_nil, or_false] <;> omega
  obtain hc | hc | hc | hc : vc / 2 = 0 ∨ vc / 2 = 1 ∨ vc / 2 = 2 ∨ vc / 2 = 3 := by omega
  all_goals simp only [vcOrder, List.mem_append, hpair _ hc, true_or, or_true]

/-- The only input that requests has no turn hint where it is granted (R196). -/
theorem turnHints_alone (rank : List Nat) (fenced : Nat → Bool) (i : Nat) : turnHints rank [i] fenced i = [] := by
  simp [turnHints, dedup]

theorem inputs_alone (k : Packet) : ([k].filter fun r => pVc (pktHdr r) == pVc (pktHdr k)).map (fun r => r.via) = [k.via] := by simp

/-- The port's record with one packet at its arbiter. -/
def queuedOne (l : Link) (k : Packet) : Link := { l with txq := [k] }

/-- The port's record behind the start of the one packet at its arbiter. -/
def started (l : Link) (k : Packet) : Link :=
  let vc := pVc (pktHdr k)
  { l with
    txq := [], cred := l.cred.setIfInBounds vc (credit l vc - k.slots.length), replay := l.replay ++ [(l.txSeq, k.slots)]
    txSeq := l.txSeq + 1, starts := l.starts + 1, dlTurn := putBit l.dlTurn (vc / 2) (vc % 2 = 0)
    rank := l.rank.erase k.via ++ [k.via], hints := [] }

theorem started_eq {l : Link} {k : Packet} {vc : Nat} (hempty : l.txq = []) (hvc : pVc (pktHdr k) = vc) :
    started l k = { l with
      cred := l.cred.setIfInBounds vc (credit l vc - k.slots.length), replay := l.replay ++ [(l.txSeq, k.slots)]
      txSeq := l.txSeq + 1, starts := l.starts + 1, dlTurn := putBit l.dlTurn (vc / 2) (vc % 2 = 0)
      rank := l.rank.erase k.via ++ [k.via], hints := [] } := by
  subst hvc
  unfold started
  rw [hempty]

section
variable {s : State} (hs : Canon s) {q : Nat} {k : Packet}
include hs

theorem setLink_twice (x y : Link) : setLink (setLink s q x) q y = setLink s q y :=
  congrArg (fun t => { s with links := t }) (tset_tset q x y hs.links)

theorem link_queuedOne : link (setLink s q (queuedOne (link s q) k)) q = queuedOne (link s q) k := link_setLink_self hs q _

theorem startable_queuedOne (vc : Nat) :
    startable (setLink s q (queuedOne (link s q) k)) q vc k
      = (pVc (pktHdr k) == vc && decide (k.slots.length ≤ credit (link s q) vc) && !linkFenced s q k.via) := by
  unfold startable
  dsimp only
  rw [link_queuedOne hs]
  rfl

theorem nextStart_queuedOne {k' : Packet} (h : nextStart (setLink s q (queuedOne (link s q) k)) q = some k') :
    k' = k ∧ ∃ vc, startable (setLink s q (queuedOne (link s q) k)) q vc k = true := by
  unfold nextStart at h
  dsimp only at h
  rw [link_queuedOne hs] at h
  obtain ⟨vc, _, hrank⟩ := List.exists_of_findSome?_eq_some h
  obtain ⟨i, _, hfind⟩ := List.exists_of_findSome?_eq_some hrank
  have hmem := List.mem_of_find?_eq_some hfind
  have hok := List.find?_some hfind
  rw [show k' = k by simpa [queuedOne] using hmem] at hok ⊢
  simp only [Bool.and_eq_true] at hok
  exact ⟨rfl, vc, hok.2⟩

/-- The packet starts where its channel has credit for it and its input is not fenced. -/
theorem nextStart_of_credit (hcred : k.slots.length ≤ credit (link s q) (pVc (pktHdr k))) (hopen : linkFenced s q k.via = false)
    (hrank : k.via ∈ (link s q).rank) : nextStart (setLink s q (queuedOne (link s q) k)) q = some k := by
  have hsome : (nextStart (setLink s q (queuedOne (link s q) k)) q).isSome = true := by
    unfold nextStart
    dsimp only
    rw [link_queuedOne hs, List.findSome?_isSome_iff]
    refine ⟨pVc (pktHdr k), mem_vcOrder (pVc_lt _) _, ?_⟩
    rw [List.findSome?_isSome_iff]
    refine ⟨k.via, hrank, ?_⟩
    rw [List.find?_isSome]
    exact ⟨k, List.mem_singleton_self k, by simp [startable_queuedOne hs, hcred, hopen]⟩
  obtain ⟨k', hk'⟩ := Option.isSome_iff_exists.mp hsome
  rw [hk', (nextStart_queuedOne hs hk').1]

theorem pump_starts (hup : linkUp (link s q) = true) (hroom : (link s q).replay.length < 512)
    (hcred : k.slots.length ≤ credit (link s q) (pVc (pktHdr k))) (hopen : linkFenced s q k.via = false) (hrank : k.via ∈ (link s q).rank) :
    pump 1 (setLink s q (queuedOne (link s q) k)) q
      = sendFlit (setLink s q (started (link s q) k)) q 1 (link s q).txSeq.toNat false k.slots := by
  have hgo : ¬ ((!linkUp (queuedOne (link s q) k)) || decide (512 ≤ (queuedOne (link s q) k).replay.length)) = true := by
    have hup' : linkUp (queuedOne (link s q) k) = true := hup
    have hroom' : ¬ 512 ≤ (queuedOne (link s q) k).replay.length := Nat.not_le.mpr hroom
    simp [hup', hroom']
  unfold pump
  dsimp only
  rw [link_queuedOne hs, nextStart_of_credit hs hcred hopen hrank]
  refine (if_neg (by simpa using hgo)).trans ?_
  dsimp only [pump]
  rw [setLink_twice hs]
  simp only [queuedOne, setCredit, List.erase_cons_head, inputs_alone, turnHints_alone]
  rfl

theorem pump_stays (h : linkUp (link s q) = false ∨ credit (link s q) (pVc (pktHdr k)) < k.slots.length ∨ linkFenced s q k.via = true) :
    pump 1 (setLink s q (queuedOne (link s q) k)) q = setLink s q (queuedOne (link s q) k) := by
  unfold pump
  dsimp only
  rw [link_queuedOne hs]
  split
  · rfl
  · next hgo =>
    have hup : linkUp (queuedOne (link s q) k) = true := by
      by_contra hdown
      exact hgo (by simpa using Or.inl (Bool.eq_false_iff.mpr hdown))
    have hnone : nextStart (setLink s q (queuedOne (link s q) k)) q = none := by
      by_contra hsome
      obtain ⟨k', hk'⟩ := Option.ne_none_iff_exists'.mp hsome
      obtain ⟨_, vc, hstart⟩ := nextStart_queuedOne hs hk'
      simp only [startable_queuedOne hs, Bool.and_eq_true, beq_iff_eq, decide_eq_true_eq, Bool.not_eq_true'] at hstart
      obtain ⟨⟨rfl, hcred⟩, hopen⟩ := hstart
      rcases h with h | h | h
      · exact Bool.false_ne_true (h.symm.trans hup)
      · omega
      · rw [hopen] at h; cases h
    rw [hnone]

end

/-! ### Routing (R222, R232 to R234) -/

/-- The header with which a packet takes the hop `hp` from the port it came by. -/
def routed (s : State) (p : Nat) (hp : Nat × Nat) (h : Slot) : Slot :=
  setVcHops (setVcHops h (pVc h) (pHops h + 1)) (2 * (pVc h / 2) + if dateline s hp then 1 else if (portDim s p).1 = hp.1 then pVc h % 2 else 0)
    (pHops h + 1)

section
variable {s : State} {p : Port} {h : Slot} {b : List Slot} {v : Nat} {hp : Nat × Nat}

theorem dateVc_lt (h : Slot) (d e : Prop) [Decidable d] [Decidable e] : 2 * (pVc h / 2) + (if d then 1 else if e then pVc h % 2 else 0) < 8 := by
  have hlt := pVc_lt h
  split
  · omega
  · split <;> omega

theorem routed_fields (hlow : pHops h < 8) : pHops (routed s p.val hp h) = pHops h + 1
    ∧ pVc (routed s p.val hp h) = 2 * (pVc h / 2) + (if dateline s hp then 1 else if (portDim s p.val).1 = hp.1 then pVc h % 2 else 0)
    ∧ pOpc (routed s p.val hp h) = pOpc h ∧ fld (routed s p.val hp h) 7 89 = fld h 7 89
    ∧ fld (routed s p.val hp h) 100 28 = fld h 100 28 := by
  have hhops : pHops h + 1 < 16 := by omega
  have hvc := dateVc_lt h (dateline s hp = true) ((portDim s p.val).1 = hp.1)
  unfold routed
  refine ⟨pHops_setVcHops hvc hhops, pVc_setVcHops hvc hhops, ?_, ?_, ?_⟩
  · rw [pOpc_setVcHops hvc hhops, pOpc_setVcHops (pVc_lt h) hhops]
  · rw [middle_setVcHops hvc hhops, middle_setVcHops (pVc_lt h) hhops]
  · rw [top_setVcHops hvc hhops, top_setVcHops (pVc_lt h) hhops]

theorem ownChip_of_img {t : State} (himg : t.img = s.img) : ownChip t = ownChip s := by
  unfold ownChip im
  rw [himg]

theorem dateline_of_img {t : State} (himg : t.img = s.img) : dateline t = dateline s := by
  unfold dateline extent ownChip im
  rw [himg]

theorem portDim_of_img {t : State} (himg : t.img = s.img) : portDim t = portDim s := by
  unfold portDim im
  rw [himg]

/-- Only the link ports, the record of events and the choices move. -/
def OnlyTurned (s t : State) : Prop := t = { s with links := t.links, aon := t.aon, fresh := t.fresh }

theorem OnlyTurned.refl (s : State) : OnlyTurned s s := rfl

theorem OnlyTurned.trans {s t u : State} (h : OnlyTurned s t) (k : OnlyTurned t u) : OnlyTurned s u := by
  unfold OnlyTurned at h k ⊢
  rw [h] at k
  exact k

theorem OnlyAon.onlyTurned {s t : State} (h : OnlyAon s t) : OnlyTurned s t := by
  unfold OnlyTurned
  rw [h]

theorem OnlyTurned.img {s t : State} (h : OnlyTurned s t) : t.img = s.img := by rw [h]

theorem onlyTurned_setLink (s : State) (p : Nat) (l : Link) : OnlyTurned s (setLink s p l) := rfl

theorem onlyTurned_routeEvent (s : State) (p : Nat) (k : Packet) : OnlyTurned s (routeEvent s p k) :=
  (onlyTurned_setLink s p _).trans (onlyAon_raise _ _ _ _ _).onlyTurned

theorem link_routeEvent {s : State} (hs : Canon s) (q : Nat) (k : Packet) :
    link (routeEvent s q k) q = { link s q with route := satAdd 16 (link s q).route 1 } := by
  unfold routeEvent
  dsimp only
  rw [link, raise_links]
  exact link_setLink_self hs q _

section
variable (hq : (link s p.val).rxq = [⟨h :: b, v⟩]) (hchip : pDchip h ≠ ownChip s)
include hq hchip

theorem oldest_transit : oldest s p.val (fun k => !terminates s k) = some (0, ⟨h :: b, v⟩) :=
  oldest_one hq (show (!(pDchip h == ownChip s)) = true by simpa using hchip)

theorem exec_forward : exec (.packetForward p .clean) s = .next (forwardPkt p.val ⟨h :: b, v⟩ (takePkt s p.val 0)) := by
  rw [show exec (.packetForward p .clean) s = execPacketForward p .clean s from rfl, execPacketForward, oldest_transit hq hchip]
  rfl

theorem exec_forwardData :
    exec (.packetForward p .data) s = .next (transitPoison (takePkt s p.val 0) p.val ⟨h :: b, v⟩ (forwardPkt p.val)) := by
  rw [show exec (.packetForward p .data) s = execPacketForward p .data s from rfl, execPacketForward, oldest_transit hq hchip]
  rfl

theorem exec_forwardHeader : exec (.packetForward p .header) s = .next (discardHdr (takePkt s p.val 0) p.val ⟨h :: b, v⟩) := by
  rw [show exec (.packetForward p .header) s = execPacketForward p .header s from rfl, execPacketForward, oldest_transit hq hchip]
  rfl

/-! ### A packet that takes its hop -/

variable (hhop : hop s (pDchip h) (pVc h / 2) = some hp)
include hhop

/-- The ninth hop, or an absent port. -/
theorem exec_astray (h9 : 8 ≤ pHops h ∨ portOf s hp = none) :
    exec (.packetForward p .clean) s
      = .next (dropPkt (routeEvent (takePkt s p.val 0) p.val ⟨h :: b, v⟩) p.val ⟨h :: b, v⟩) := by
  have himg := (onlyLinks_takePkt s p.val 0).img
  rw [exec_forward hq hchip]
  unfold forwardPkt
  dsimp only [pktHdr, List.headD]
  rw [hop_of_img himg, hhop]
  dsimp only
  split
  · rfl
  · next hlow =>
    rw [portOf_of_img himg, h9.resolve_left (by omega)]

section
variable {q : Nat} (hport : portOf s hp = some q) (hlow : pHops h < 8)
include hport hlow

theorem exec_routed : exec (.packetForward p .clean) s = .next (
    let u := takePkt s p.val 0
    if linkUp (link u q) || (link u q).st == .retrain then
      enqueue u q ⟨setVcHops h (pVc h) (pHops h + 1) :: b, 33 + p.val⟩ hp (some (portDim s p.val).1)
    else dropPkt (if (link u q).st == .refused then routeEvent u q ⟨h :: b, v⟩ else u) q ⟨h :: b, v⟩) := by
  have himg := (onlyLinks_takePkt s p.val 0).img
  rw [exec_forward hq hchip]
  unfold forwardPkt
  dsimp only [pktHdr, List.headD]
  rw [hop_of_img himg, hhop, portOf_of_img himg, portDim_of_img himg]
  dsimp only
  rw [if_neg (by omega), hport]
  rfl

/-- The packet waits at the arbiter of its port, with the header of its hop. -/
theorem exec_queued (hempty : (link (takePkt s p.val 0) q).txq = [])
    (hup : linkUp (link (takePkt s p.val 0) q) = true ∨ (link (takePkt s p.val 0) q).st = .retrain) :
    exec (.packetForward p .clean) s = .next (pump 1 (setLink (takePkt s p.val 0) q
      (queuedOne (link (takePkt s p.val 0) q) ⟨routed s p.val hp h :: b, 33 + p.val⟩)) q) := by
  have himg := (onlyLinks_takePkt s p.val 0).img
  have hgo : (linkUp (link (takePkt s p.val 0) q) || (link (takePkt s p.val 0) q).st == .retrain) = true := by simpa using hup
  have hhops : pHops h + 1 < 16 := by omega
  rw [exec_routed hq hchip hhop hport hlow]
  refine congrArg _ ((if_pos hgo).trans ?_)
  unfold enqueue
  dsimp only [pktHdr, List.headD]
  refine (if_pos hgo).trans ?_
  rw [hempty, dateline_of_img himg, pVc_setVcHops (pVc_lt h) hhops, pHops_setVcHops (pVc_lt h) hhops]
  simp only [Option.some.injEq]
  rfl

/-- A port that is neither up nor retraining does not take the packet. -/
theorem exec_turnedAway (hdown : linkUp (link (takePkt s p.val 0) q) = false) (hst : (link (takePkt s p.val 0) q).st ≠ .retrain) :
    exec (.packetForward p .clean) s = .next (dropPkt (if (link (takePkt s p.val 0) q).st == .refused
      then routeEvent (takePkt s p.val 0) q ⟨h :: b, v⟩ else takePkt s p.val 0) q ⟨h :: b, v⟩) := by
  rw [exec_routed hq hchip hhop hport hlow]
  exact congrArg _ (if_neg (by simp [hdown, hst]))

end

end

/-! ### A packet that is turned away (R226, R234) -/


/-- What a port that is not up does with the packet. -/
theorem drops_dropPkt {w : State} {q : Nat} (hw : Canon w) (hframe : OnlyTurned (takePkt s p.val 0) w)
    (hcount : (link w q).pktdrop = (link (takePkt s p.val 0) q).pktdrop)
    (hexec : exec (.packetForward p .clean) s = .next (dropPkt w q ⟨h :: b, v⟩)) : Drops s (countDrop w q) h p q := by
  have himg : (countDrop w q).img = s.img := hframe.img.trans (onlyLinks_takePkt s p.val 0).img
  have herr : errFor (countDrop w q) h 5 = errFor s h 5 := errFor_of_img himg 5
  have hown : ownChip (countDrop w q) = ownChip s := ownChip_of_img himg
  unfold dropPkt at hexec
  dsimp only [pktHdr, List.headD] at hexec
  rw [herr, hown] at hexec
  refine ⟨hframe.trans (onlyTurned_setLink w q _), fun hreq => ?_, fun hreq hsrc => ?_, fun hreq hsrc => ?_, ?_⟩
  · rw [hexec, if_neg (by simp [hreq])]
  · rw [hexec, if_pos hreq, if_neg (by simpa using hsrc)]
  · rw [hexec, if_pos hreq, if_pos (by simpa using hsrc)]
  · unfold countDrop
    dsimp only
    rw [link_setLink_self hw, hcount]
    rfl

end

/-! ### The obligation -/

/-- Settles O52: the oldest packet for another chip takes the hop of dimension-order routing (`routed`), waits at its arbiter and starts
with credit (`pump_starts`, `pump_stays`), or is turned away under the DOWN rules (`drops_dropPkt`). -/
theorem packetsAreForwarded : Obligations.PacketsAreForwarded := by
  intro s p h b v hp hs hv hq hchip hhop u dl vc
  have hu : OnlyLinks s u := onlyLinks_takePkt s p.val 0
  obtain ⟨hself, hother, hcanon⟩ := takePkt_one hs hq
  have hst : ∀ q, (link u q).st = (link s q).st := fun q => by
    by_cases hqp : q = p.val
    · rw [hqp, show link u p.val = _ from hself]
    · rw [show link u q = _ from hother q hqp]
  have hfence : ∀ q i, linkFenced u q i = linkFenced s q i := fun q i => by rw [linkFenced, hu.stage]; rfl
  have hup : ∀ q, linkUp (link u q) = linkUp (link s q) := fun q => by rw [linkUp, hst]; rfl
  have hcross : ∀ q, Crosses s (countDrop (routeEvent u q ⟨h :: b, v⟩) q) (0xB0 + q) (pDchip h) (pHops h) (0x24 + q) := fun q =>
    crosses_raise_of (congrArg (·.fc.evq) hu.aon) _ _ _ _
  have hdrops : ∀ q, exec (.packetForward p .clean) s = .next (dropPkt (routeEvent u q ⟨h :: b, v⟩) q ⟨h :: b, v⟩) →
      Drops s (countDrop (routeEvent u q ⟨h :: b, v⟩) q) h p q := fun q =>
    drops_dropPkt (routeEvent_canon u q _ hcanon) (onlyTurned_routeEvent u q _) (by rw [link_routeEvent hcanon])
  refine ⟨by rw [show link u p.val = _ from hself], fun q hq8 hport hlow => ⟨?_, ?_, ?_, ?_⟩, ?_, ?_, ?_⟩
  · intro hqp hlup hempty hroom hrank hopen hcred
    have hlink : link u q = link s q := hother q hqp
    obtain ⟨hhops, hvc, hrest⟩ := routed_fields (s := s) (p := p) (h := h) (hp := hp) hlow
    refine ⟨routed s p.val hp h, ?_, hhops, hvc, hrest⟩
    have hexec := exec_queued hq hchip hhop hport hlow (hlink ▸ hempty) (.inl ((hup q).trans hlup))
    have hvc' : pVc (pktHdr ⟨routed s p.val hp h :: b, 33 + p.val⟩) = vc := hvc
    have hstart := pump_starts (s := u) hcanon (q := q) (k := ⟨routed s p.val hp h :: b, 33 + p.val⟩) ((hup q).trans hlup)
      (hlink.symm ▸ hroom) ?_ (by rw [hfence]; exact hopen) (by rw [hlink]; exact hrank)
    swap
    · rw [hlink, hvc']
      exact hcred
    rw [hlink, started_eq hempty hvc'] at hstart
    rw [hexec, hlink, hstart]
    rfl
  · intro hqp hlup hempty hstay
    have hlink : link u q = link s q := hother q hqp
    obtain ⟨hhops, hvc, _⟩ := routed_fields (s := s) (p := p) (h := h) (hp := hp) hlow
    have hstays := pump_stays hcanon (q := q) (k := ⟨routed s p.val hp h :: b, 33 + p.val⟩) ?_
    · refine ⟨_, routed s p.val hp h, (exec_queued hq hchip hhop hport hlow (hlink.symm ▸ hempty)
        (hlup.imp ((hup q).trans ·) ((hst q).trans ·))).trans (congrArg _ hstays), rfl, ?_, hhops, hvc⟩
      rw [link_queuedOne hcanon]
      rfl
    · rcases hstay with hre | hcred | hclosed
      · exact .inl (by rw [hup, linkUp, hre]; rfl)
      · refine .inr (.inl ?_)
        rw [hlink, show pVc (pktHdr ⟨routed s p.val hp h :: b, 33 + p.val⟩) = vc from hvc]
        exact hcred
      · exact .inr (.inr ((hfence q _).trans hclosed))
  · intro hdown hre href
    have haway := exec_turnedAway hq hchip hhop hport hlow ((hup q).trans hdown) (by rw [hst]; exact hre)
    rw [if_neg (show ¬ ((link u q).st == .refused) = true by simpa [hst] using href)] at haway
    have hd := drops_dropPkt hcanon (OnlyTurned.refl u) rfl haway
    exact ⟨hd.plain, hd.answered⟩
  · intro href
    refine ⟨_, hcross q, hdrops q ?_⟩
    have haway := exec_turnedAway hq hchip hhop hport hlow (by rw [hup, linkUp, href]; rfl) (by rw [hst, href]; decide)
    rw [if_pos (show ((link u q).st == .refused) = true by simpa [hst] using href)] at haway
    exact haway
  · intro h9
    refine ⟨_, hcross p.val, hdrops p.val (exec_astray hq hchip hhop h9), ?_⟩
    unfold countDrop
    dsimp only
    rw [link_setLink_self (routeEvent_canon u p.val _ hcanon), link_routeEvent hcanon, show link u p.val = _ from hself]
    rfl
  · intro hlo hhi hsrc
    rw [exec_forwardData hq hchip]
    unfold transitPoison
    dsimp only [pktHdr, List.headD]
    rw [if_pos (by simp [hlo, hhi]), errFor_of_img hu.img, ownChip_of_img hu.img, if_neg (by simpa using hsrc)]
  · refine ⟨_, exec_forwardHeader hq hchip, crosses_raise_of (congrArg (·.fc.evq) hu.aon) _ _ _ _, ?_, ?_⟩
    · exact raise_out _ _ _ _ _
    · unfold discardHdr countDrop
      dsimp only
      rw [link, raise_links]
      refine (congrArg (·.pktdrop) (link_setLink_self hcanon p.val _)).trans ?_
      rw [show link (takePkt s p.val 0) p.val = _ from hself]
      rfl

end Sys2Proof.Proofs
end

section
/-! Training of the chip links (R216, R217, R227, R228). -/

namespace Sys2Proof.Proofs

open Sys2Proof Sys2Proof.Machine Sys2Proof.Laws Sys2Proof.Tests

/-- Port 0 in LOCK has found its flit alignment, and the interrupt of a change of a link's state is enabled, with its message. -/
def alignedMsi : State :=
  let t := setMsi (lk { st := .lock, syncRun := 8 }) 37 { en := true }
  { t with ports := { t.ports with srcEn := 16 } }

/-- As the port enters IDENT, the message of its interrupt leaves beside the two IDENTs. -/
theorem lockAlignmentHeld_alignedMsi : ∃ t, exec (.lockAlignmentHeld 0) alignedMsi = .next t ∧ t.out.length = alignedMsi.out.length + 3 := by
  refine ⟨_, rfl, ?_⟩
  decide +kernel

/-- Refutes O50: of a port that enters IDENT it says that two flits go out and nothing else; the change of state sets a pending bit (R227),
and where its interrupt is enabled, with its message, that leaves through M0 (R216, R217). -/
theorem not_linksTrain : ¬ Obligations.LinksTrain := by
  intro h
  obtain ⟨-, -, halign, -⟩ := h
  obtain ⟨t, g, g', hexec, hout, -⟩ := halign alignedMsi 0 (canonOf _ (by decide +kernel)) (by decide +kernel) (by decide +kernel)
  obtain ⟨u, hexec', hlen⟩ := lockAlignmentHeld_alignedMsi
  rw [hexec] at hexec'
  cases hexec'
  rw [hout, List.length_append] at hlen
  exact absurd (Nat.add_left_cancel hlen) (show ¬ 2 = 3 by decide)

end Sys2Proof.Proofs
end

section
/-! Flits: their fields, how one is sent, and what its header does (R220, R223, R225). -/

namespace Sys2Proof.Proofs

open Sys2Proof Sys2Proof.Machine Sys2Proof.Laws

/-! ### The fields of a flit that a port forms -/

/-- The header of a flit, as a number. -/
def flitHead (ftype fseq fack : Nat) (nack : Bool) (crvc crcnt : Nat) : Nat :=
  ftype + 4 * fseq + 2 ^ 14 * fack + (if nack then 2 ^ 26 else 0) + 2 ^ 27 * crvc + 2 ^ 30 * crcnt

theorem slotsNat_mod (slots : List Slot) : slotsNat (slots.take 16) % 2 ^ 128 = (slots.headD 0).toNat := by
  cases slots with
  | nil => rfl
  | cons x xs =>
    rw [List.take_succ_cons, slotsNat, Nat.add_mul_mod_self_left]
    exact Nat.mod_eq_of_lt x.isLt

theorem mkFlit_mod (ftype fseq fack : Nat) (nack : Bool) (crvc crcnt : Nat) (slots : List Slot) :
    (mkFlit ftype fseq fack nack crvc crcnt slots).toNat % 2 ^ 72
      = (flitHead ftype fseq fack nack crvc crcnt + 2 ^ 64 * slotsNat (slots.take 16)) % 2 ^ 72 := by
  unfold mkFlit
  dsimp only
  rw [BitVec.toNat_ofNat, Nat.mod_mod_of_dvd _ (Nat.pow_dvd_pow 2 (by decide : 72 ≤ 2176)),
    show 2112 = 72 + 2040 from rfl, Nat.pow_add, Nat.mul_assoc, Nat.add_mul_mod_self_left]
  rfl

theorem ctlKind_eq (f : FlitData) : ctlKind f = f.toNat / 2 ^ 64 % 256 := by
  simp only [ctlKind, flitSlot, fld, BitVec.extractLsb'_toNat, Nat.shiftRight_eq_div_pow]
  rw [Nat.pow_zero, Nat.div_one]
  exact Nat.mod_mod_of_dvd _ (by decide)

section
variable {ftype fseq fack : Nat} {nack : Bool} {crvc crcnt : Nat} {slots : List Slot}
variable (htype : ftype < 4) (hseq : fseq < 4096) (hack : fack < 4096)
include htype

theorem fType_mkFlit : fType (mkFlit ftype fseq fack nack crvc crcnt slots) = ftype := by
  have hmod := mkFlit_mod ftype fseq fack nack crvc crcnt slots
  simp only [fType, fld, Nat.shiftRight_zero, flitHead] at *
  split at hmod <;> omega

include hseq hack

theorem nack_mkFlit : bitOf (mkFlit ftype fseq fack nack crvc crcnt slots) 26 = nack := by
  have hmod := mkFlit_mod ftype fseq fack nack crvc crcnt slots
  rw [bitOf, BitVec.getLsbD, Nat.testBit_eq_decide_div_mod_eq]
  simp only [flitHead] at hmod
  cases nack
  · simp only [Bool.false_eq_true, if_false] at hmod
    exact decide_eq_false (by omega)
  · simp only [if_true] at hmod
    exact decide_eq_true (by omega)

theorem ctlKind_mkFlit (hvc : crvc < 8) (hcnt : crcnt < 2048) :
    ctlKind (mkFlit ftype fseq fack nack crvc crcnt slots) = (slots.headD 0).toNat % 256 := by
  have hmod := mkFlit_mod ftype fseq fack nack crvc crcnt slots
  have hhead : flitHead ftype fseq fack nack crvc crcnt < 2 ^ 64 := by
    unfold flitHead
    split <;> omega
  have hslot := slotsNat_mod slots
  rw [ctlKind_eq]
  generalize slotsNat (slots.take 16) = n at hmod hslot
  generalize (slots.headD 0).toNat = m at hslot ⊢
  generalize flitHead ftype fseq fack nack crvc crcnt = head at hmod hhead
  omega

end

/-! ### A flit is sent (R220, R223) -/

theorem creditTurn_lt {l : Link} {v : Nat} (h : creditTurn l = some v) : v < 8 := by
  have hmem := List.mem_of_find?_eq_some h
  obtain ⟨k, _, rfl⟩ := List.mem_map.mp hmem
  exact Nat.mod_lt _ (by decide)

/-- A flit `g` of these fields, with the slots `slots`, has left port `p`: of the port only what it owes of credit has changed. -/
structure Sends (s t : State) (p ftype : Nat) (nack : Bool) (slots : List Slot) (g : FlitData) : Prop where
  frame : t = { s with links := t.links, out := s.out ++ [.flit p g] }
  type : fType g = ftype
  nack : bitOf g 26 = nack
  kind : ctlKind g = (slots.headD 0).toNat % 256
  link : Credited (link s p) (link t p)
  others : ∀ q, q ≠ p → Machine.link t q = Machine.link s q
  canon : Canon t

theorem sends_sendFlit {s : State} (hs : Canon s) (p : Nat) {ftype fseq : Nat} (htype : ftype < 4) (hseq : fseq < 4096) (nack : Bool)
    (slots : List Slot) : ∃ g, Sends s (sendFlit s p ftype fseq nack slots) p ftype nack slots g := by
  obtain ⟨hlink, hothers, hcanon⟩ := link_sendFlit hs p ftype fseq nack slots
  have hack : linkAck (link s p) < 4096 := Nat.mod_lt _ (by decide)
  have hfields : ∀ v n, v < 8 → n < 2048 → (∃ u : State, u = { s with links := u.links }
      ∧ sendFlit s p ftype fseq nack slots = emit u (.flit p (mkFlit ftype fseq (linkAck (link s p)) nack v n slots))) →
      ∃ g, Sends s (sendFlit s p ftype fseq nack slots) p ftype nack slots g := by
    rintro v n hv hn ⟨u, hu, hsend⟩
    refine ⟨_, ?_, fType_mkFlit htype, nack_mkFlit htype hseq hack, ctlKind_mkFlit htype hseq hack hv hn, hlink, hothers, hcanon⟩
    rw [hsend, hu]
    rfl
  unfold sendFlit at hfields ⊢
  dsimp only at hfields ⊢
  split
  · next v hturn =>
    rw [hturn] at hfields
    exact hfields v _ (creditTurn_lt hturn) (by omega) ⟨_, rfl, rfl⟩
  · next hturn =>
    rw [hturn] at hfields
    exact hfields 0 0 (by decide) (by decide) ⟨s, rfl, rfl⟩

/-! ### The counts of the code (R219, R241) -/

/-- The port's record behind a flit whose code found these codewords. -/
def fecLink (l : Link) (rx : FlitRx) : Link :=
  { l with
    uncorr := BitVec.ofNat 16 (satAdd 16 l.uncorr.toNat rx.uncorr.val), corrcw := BitVec.ofNat 16 (satAdd 16 l.corrcw.toNat rx.corr.val)
    corrWin := l.corrWin + rx.corr.val }

theorem fecCount_up {s : State} {p : Nat} (hup : linkUp (link s p) = true) (rx : FlitRx) : fecCount s p rx = setLink s p (fecLink (link s p) rx) := by
  have hdec : decoding (link s p) = true := by
    unfold linkUp at hup
    unfold decoding
    split <;> simp_all
  unfold fecCount
  dsimp only
  rw [if_pos hdec]
  rfl

/-! ### What a header does (R220, R225) -/

theorem pump_empty {s : State} {p : Nat} (h : (link s p).txq = []) (n : Nat) : pump n s p = s := by
  cases n with
  | zero => rfl
  | succ n =>
    have hnone : nextStart s p = none := by
      unfold nextStart
      dsimp only
      rw [h]
      simp
    unfold pump
    dsimp only
    rw [hnone]
    split <;> rfl

theorem setCredit_same (l : Link) (vc : Nat) : setCredit l vc (credit l vc) = l := by
  unfold setCredit credit
  have hsame : l.cred.setIfInBounds vc (l.cred.toList.getD vc 0) = l.cred := by
    apply Vector.ext
    intro i hi
    rw [Vector.getElem_setIfInBounds]
    split
    · next h =>
      subst h
      simp [List.getD, hi]
    · rfl
  rw [hsame]

/-- A header that brings nothing leaves the port as it is. -/
theorem applyHdr_quiet {s : State} (hs : Canon s) {p : Nat} {f : FlitData} (h : Quiet s p f) (rep : Ecc) : applyHdr s p f rep = setLink s p (link s p) := by
  have hack : ackOf (link s p) f = link s p := by
    unfold ackOf
    rw [h.ack]
    exact if_neg (by have := (link s p).acked.isLt; omega)
  have hcredit : creditOf (link s p) f = credit (link s p) (fld f 27 3) := by rw [creditOf, h.count, Nat.add_zero]
  unfold applyHdr
  dsimp only
  rw [hack, hcredit, if_neg (Nat.not_lt.mpr h.credit), setCredit_same, h.nack, if_neg Bool.false_ne_true]
  exact pump_empty (by rw [link_setLink_self hs]; exact h.empty) 512

/-! ### A change of state (R226, R227) -/

/-- The port's record behind a change of its state. -/
def movedTo (l : Link) (st : LinkSt) : Link := { l with st := st, reason := if st == .refused then l.reason else 0 }

section
variable {s : State} {p : Nat} {st : LinkSt}

theorem linkTo_same (h : (link s p).st = st) : linkTo s p st = s := by
  unfold linkTo
  exact if_pos (by simpa using h)

theorem linkTo_of_ne (h : (link s p).st ≠ st) : linkTo s p st = pendSrc (zlog (setLink s p (movedTo (link s p) st)) (0x24 + p)
    (0x0300 + p) (st.code + 16 * (link s p).st.code + 256 * (link s p).pchip) (link (setLink s p (movedTo (link s p) st)) p).reason) 4 := by
  unfold linkTo
  exact if_neg (by simpa using h)

theorem linkTo_links (h : (link s p).st ≠ st) : (linkTo s p st).links = (setLink s p (movedTo (link s p) st)).links := by
  rw [linkTo_of_ne h, pendSrc_frame]
  exact zlog_links _ _ _ _ _

theorem link_linkTo_self (hs : Canon s) (h : (link s p).st ≠ st) : link (linkTo s p st) p = movedTo (link s p) st := by
  rw [link, linkTo_links h]
  exact link_setLink_self hs p _

theorem link_linkTo_st (hs : Canon s) : (link (linkTo s p st) p).st = st := by
  by_cases h : (link s p).st = st
  · rw [linkTo_same h, h]
  · rw [link_linkTo_self hs h]
    rfl

theorem link_linkTo_other (hs : Canon s) {q : Nat} (hq : q ≠ p) : link (linkTo s p st) q = link s q := by
  by_cases h : (link s p).st = st
  · rw [linkTo_same h]
  · rw [link, linkTo_links h]
    exact link_setLink_other hs p _ hq

theorem linkTo_fc : (linkTo s p st).aon.fc = s.aon.fc := by
  by_cases h : (link s p).st = st
  · rw [linkTo_same h]
  · rw [linkTo_of_ne h, pendSrc_frame]
    exact zlog_aon_fc _ _ _ _ _

theorem linkTo_pins : (linkTo s p st).pins = s.pins := by
  by_cases h : (link s p).st = st
  · rw [linkTo_same h]
  · rw [linkTo_of_ne h, pendSrc_frame]
    exact zlog_pins _ _ _ _ _

/-! ### RETRAIN is entered (R226) -/

theorem emit_links (s : State) (o : Out) : (emit s o).links = s.links := rfl

theorem sendFrames_links (s : State) (p : Nat) : (sendFrames s p).links = s.links := by
  unfold sendFrames
  exact foldl_keeps (fun t : State => t.links) (fun t k => emit_links t _) (List.range 8) s

/-- Only the lanes of a port's record move. -/
def OnlyLane (l m : Link) : Prop := m = { l with lane := m.lane }

theorem OnlyLane.trans {l m n : Link} (h : OnlyLane l m) (k : OnlyLane m n) : OnlyLane l n := by
  unfold OnlyLane at h k ⊢
  rw [h] at k
  exact k

theorem onlyLane_foldl {g : Link → Nat → Link} (h : ∀ l k, OnlyLane l (g l k)) (ks : List Nat) (l : Link) : OnlyLane l (ks.foldl g l) := by
  induction ks generalizing l with
  | nil => exact rfl
  | cons k ks ih => exact (h l k).trans (ih _)

theorem onlyLane_tset (l : Link) (t : Tbl Lane) : OnlyLane l { l with lane := t } := rfl

theorem onlyLane_clearReady (l : Link) : OnlyLane l (clearReady l) := by
  unfold clearReady
  exact onlyLane_foldl (fun m _ => onlyLane_tset m _) (List.range 8) l

/-- The port's record as RETRAIN is entered, but for its state. -/
def retraining (l : Link) : Link :=
  { clearReady l with
    pre := l.st, retrains := satAdd 8 l.retrains 1, sub := 0, decided := none, peerConf := none, identLast := none, nackRun := 0, syncRun := 0
    lanes := 0 }

theorem retraining_kept (l : Link) : (retraining l).st = l.st ∧ (retraining l).syms = l.syms ∧ (retraining l).corrcw = l.corrcw := by
  have hkept : clearReady l = _ := onlyLane_clearReady l
  unfold retraining
  rw [hkept]
  exact ⟨rfl, rfl, rfl⟩

theorem link_enterRetrain (hs : Canon s) (hup : linkUp (link s p) = true) :
    link (enterRetrain s p) p = movedTo (retraining (link s p)) .retrain := by
  have hne : (link s p).st ≠ .retrain := by
    intro h
    rw [linkUp, h] at hup
    exact absurd hup (by decide)
  have hset : link (setLink s p (retraining (link s p))) p = retraining (link s p) := link_setLink_self hs p _
  unfold enterRetrain
  dsimp only
  rw [if_pos hup, link, sendFrames_links]
  refine (link_linkTo_self (s := setLink s p (retraining (link s p))) (setLink_canon s p _ hs) ?_).trans (by rw [hset])
  rw [hset, (retraining_kept _).1]
  exact hne

theorem retrains_enterRetrain (hs : Canon s) (hup : linkUp (link s p) = true) : Retrains s (enterRetrain s p) p := by
  refine ⟨?_, ?_, ?_⟩ <;> rw [link_enterRetrain hs hup] <;> rfl

/-- What makes a port retrain may first have changed other fields of its record. -/
theorem retrains_of_link {t u : State} (h : Retrains t u p) (hst : (link t p).st = (link s p).st) (hcount : (link t p).retrains = (link s p).retrains) :
    Retrains s u p := ⟨h.st, h.pre.trans hst, by rw [h.count, hcount]⟩

end

end Sys2Proof.Proofs
end

section
/-! Flits in service: taken, discarded, acknowledged and credited (R220, R221, R223, R225, R229). -/

namespace Sys2Proof.Proofs

open Sys2Proof Sys2Proof.Machine Sys2Proof.Laws

/-! ### The packets of a flit (R221) -/

/-- Unused slots bring nothing. -/
theorem takeSlots_unused (s : State) (p : Nat) {n : Nat} {rest : List Slot} (hn : rest.length < n) (h : ∀ x ∈ rest, x = 0) :
    takeSlots n s p rest = setLink s p { link s p with rxPart := [] } := by
  induction rest generalizing n with
  | nil =>
    obtain ⟨n, rfl⟩ : ∃ m, n = m + 1 := ⟨n - 1, by simp at hn; omega⟩
    rfl
  | cons x rest ih =>
    obtain ⟨n, rfl⟩ : ∃ m, n = m + 1 := ⟨n - 1, by simp at hn; omega⟩
    rw [takeSlots, if_pos (h x List.mem_cons_self)]
    exact ih (by simpa using hn) fun y hy => h y (List.mem_cons_of_mem _ hy)

/-- The port's record behind a flit that brought one packet. -/
def received (l : Link) (k : List Slot) : Link := { l with rxq := l.rxq ++ [⟨k, if l.st = .transit then 2 else 0⟩], rxPart := [] }

theorem badBody_prefix {h : Slot} {body rest : List Slot} (hlen : pktLen (pOpc h) = some (body.length + 1)) :
    badBody h (body ++ rest) = badBody h body := by
  cases body with
  | nil =>
    have hne : pOpc h ≠ 10 := by
      intro h10
      rw [h10] at hlen
      exact absurd hlen (by decide)
    rw [badBody, badBody, beq_false_of_ne hne, Bool.false_and, Bool.false_and]
  | cons x body => rfl

theorem takeSlots_packet {s : State} (hs : Canon s) {p n : Nat} {h : Slot} {body rest : List Slot} (hn : (h :: body ++ rest).length < n)
    (hrest : ∀ x ∈ rest, x = 0) (hne : h ≠ 0) (hhdr : badHdr h = false) (hbody : badBody h body = false)
    (hlen : pktLen (pOpc h) = some (body.length + 1)) :
    takeSlots n s p (h :: body ++ rest) = setLink s p (received (link s p) (h :: body)) := by
  obtain ⟨n, rfl⟩ : ∃ m, n = m + 1 := ⟨n - 1, by simp at hn; omega⟩
  have hlast : rest.length < n := by simp at hn; omega
  rw [List.cons_append, takeSlots, if_neg hne, hlen]
  dsimp only [Option.getD]
  rw [if_neg (by simp), hhdr, badBody_prefix hlen, hbody, if_neg (by decide)]
  rw [List.take_succ_cons, List.take_left, List.drop_succ_cons, List.drop_left, takeSlots_unused _ _ hlast hrest, link_setLink_self hs,
    setLink_twice hs]
  simp only [beq_iff_eq]
  rfl

/-! ### The port in service -/

section
variable {s : State} (hs : Canon s) {p : Nat}
include hs

theorem setLink_link_fec (hup : linkUp (link s p) = true) {f : FlitData} (hq : Quiet s p f) (rx : FlitRx) (rep : Ecc) :
    applyHdr (fecCount s p rx) p f rep = fecCount s p rx := by
  rw [fecCount_up hup]
  have hself := link_setLink_self hs p (fecLink (link s p) rx)
  have hquiet : Quiet (setLink s p (fecLink (link s p) rx)) p f := by
    obtain ⟨hack, hnack, hcount, hcredit, hempty⟩ := hq
    refine ⟨?_, hnack, hcount, ?_, ?_⟩ <;> rw [hself] <;> assumption
  rw [applyHdr_quiet (setLink_canon s p _ hs) hquiet, hself, setLink_twice hs]

/-- The first discard of a flit sends NACK, and a further one nothing. -/
theorem discardFlit_result : (((link s p).nack = true → discardFlit s p = s)
    ∧ ((link s p).nack = false → ∃ g, Sends (setLink s p { link s p with nack := true, nacktx := satAdd 16 (link s p).nacktx 1 })
        (discardFlit s p) p 0 true [] g)) := by
  unfold discardFlit
  refine ⟨fun hn => if_pos hn, fun hn => ?_⟩
  dsimp only
  rw [hn, if_neg Bool.false_ne_true]
  exact sends_sendFlit (setLink_canon s p _ hs) p (by decide) (by decide) true []

/-! ### A DATA flit (R221, R225) -/

section
variable {q : Port} {f : FlitData} {rx : FlitRx} (hup : linkUp (link s q.val) = true)
include hup

theorem link_fec : link (fecCount s q.val rx) q.val = fecLink (link s q.val) rx := by
  rw [fecCount_up hup]
  exact link_setLink_self hs q.val _

theorem exec_dataFlit_taken {h : Slot} {body rest : List Slot} (hflag : rx.flagged = false) (hunc : rx.uncorr = 0) (hgood : flitGood f = true)
    (htype : fType f = 1) (hq : Quiet s q.val f) (hseq : fSeq f = (link s q.val).rxSeq.toNat) (hpart : (link s q.val).rxPart = [])
    (hslots : flitSlots f = h :: body ++ rest) (hrest : ∀ x ∈ rest, x = 0) (hne : h ≠ 0) (hhdr : badHdr h = false)
    (hbody : badBody h body = false) (hlen : pktLen (pOpc h) = some (body.length + 1)) :
    exec (.dataFlitReceived q f rx.toFlitFec rx.rep) s = .next (sendFlit (setLink s q.val (received { fecLink (link s q.val) rx with
      rxSeq := (link s q.val).rxSeq + 1, nack := false } (h :: body))) q.val 0 0 false []) := by
  have hfec := link_fec hs (rx := rx) hup
  have hup' : linkUp (fecLink (link s q.val) rx) = true := hup
  rw [show exec (.dataFlitReceived q f rx.toFlitFec rx.rep) s = execDataFlitReceived q f rx.toFlitFec rx.rep s from rfl, execDataFlitReceived]
  dsimp only
  rw [hfec, hup', hflag, hunc, hgood, htype, setLink_link_fec hs hup hq rx rx.rep, hfec, hup']
  rw [if_neg (by decide), if_neg (by decide), if_neg (by decide), if_neg (by decide)]
  rw [if_neg (show ¬ fSeq f ≠ (fecLink (link s q.val) rx).rxSeq.toNat from not_not.mpr hseq),
    show (fecLink (link s q.val) rx).rxPart ++ flitSlots f = h :: body ++ rest by rw [← hslots]; exact congrArg (· ++ flitSlots f) hpart,
    fecCount_up hup, setLink_twice hs, takeSlots_packet (setLink_canon s _ _ hs) (Nat.lt_succ_self _) hrest hne hhdr hbody hlen,
    link_setLink_self hs, setLink_twice hs]
  rfl

/-- What is not taken is discarded, at the port with the codewords counted. -/
theorem exec_dataFlit_discarded (hbad : rx.flagged = true ∨ rx.uncorr ≠ 0 ∨ flitGood f = false
      ∨ (fType f = 1 ∧ fSeq f ≠ (link s q.val).rxSeq.toNat ∧ Quiet s q.val f)) :
    exec (.dataFlitReceived q f rx.toFlitFec rx.rep) s = .next (discardFlit (fecCount s q.val rx) q.val) := by
  have hfec := link_fec hs (rx := rx) hup
  have hup' : linkUp (fecLink (link s q.val) rx) = true := hup
  rw [show exec (.dataFlitReceived q f rx.toFlitFec rx.rep) s = execDataFlitReceived q f rx.toFlitFec rx.rep s from rfl, execDataFlitReceived]
  dsimp only
  rw [hfec, hup', if_neg (by decide)]
  by_cases hcode : (rx.flagged || rx.uncorr != 0 || !flitGood f) = true
  · exact if_pos hcode
  · rw [if_neg hcode]
    simp only [Bool.or_eq_true, bne_iff_ne, Bool.not_eq_true', not_or] at hcode
    obtain ⟨⟨hflag, hunc⟩, hgood⟩ := hcode
    obtain ⟨htype, hseq, hq⟩ := ((hbad.resolve_left hflag).resolve_left hunc).resolve_left hgood
    rw [htype, setLink_link_fec hs hup hq rx rx.rep, hfec, hup', if_neg (by decide), if_neg (by decide)]
    exact if_pos hseq

/-! ### An IDLE flit (R220) -/

/-- The port's record behind the header of a good IDLE flit without NACK, whose credit is in range. -/
def credited (l : Link) (f : FlitData) : Link := setCredit (ackOf l f) (fld f 27 3) (creditOf (ackOf l f) f)

theorem exec_idleFlit (hgood : flitGood f = true) (htype : fType f = 0) (hnack : bitOf f 26 = false) (hempty : (link s q.val).txq = []) :
    let l := fecLink (link s q.val) rx
    exec (.idleFlitReceived q f rx) s = .next (if 2048 < creditOf (ackOf l f) f then enterRetrain (setLink s q.val (ackOf l f)) q.val
      else setLink s q.val (credited l f)) := by
  intro l
  have hfec : link (fecCount s q.val rx) q.val = l := link_fec hs (rx := rx) hup
  have hup' : linkUp l = true := hup
  have htx : (credited l f).txq = [] := by
    have hack : (ackOf l f).txq = l.txq := by
      unfold ackOf
      extract_lets n
      split <;> rfl
    exact hack.trans hempty
  rw [show exec (.idleFlitReceived q f rx) s = execIdleFlitReceived q f rx s from rfl, execIdleFlitReceived]
  rw [hfec, hup', hgood, htype, if_pos (by decide)]
  refine congrArg _ ?_
  unfold applyHdr
  dsimp only
  rw [hfec, hnack, if_neg Bool.false_ne_true, fecCount_up hup, setLink_twice hs, setLink_twice hs]
  refine congrArg _ (pump_empty ?_ 512)
  rw [link_setLink_self hs]
  exact htx

end

/-! ### NACK is repeated (R225) -/

/-- The port's record with one NACK more. -/
def renacked (l : Link) : Link := { l with nacktx := satAdd 16 l.nacktx 1 }

theorem credited_of_setLink {l : Link} {t : State} (h : Credited (link (setLink s p l) p) (link t p)) : Credited l (link t p) := by
  rwa [link_setLink_self hs] at h

theorem sends_sendSync (nack : Bool) : ∃ (g : FlitData) (n : Nat) (slots : List Slot),
    Sends (setLink s p { link s p with syncTx := n }) (sendSync s p nack) p 2 nack slots g ∧ ctlKind g = 4 := by
  obtain ⟨g, hg⟩ := sends_sendFlit (setLink_canon s p { link s p with syncTx := ((link s p).syncTx + 1) % 65536 } hs) p
    (by decide : 2 < 4) (by decide : 0 < 4096) nack [BitVec.ofNat 128 (4 + 2 ^ 8 * (link s p).syncTx)]
  refine ⟨g, _, _, hg, hg.kind.trans ?_⟩
  simp only [List.headD_cons, BitVec.toNat_ofNat]
  omega

theorem sends_sendIdentStep (nack : Bool) : ∃ (g : FlitData) (slots : List Slot), Sends s (sendIdentStep s p nack) p 2 nack slots g := by
  unfold sendIdentStep
  split
  · obtain ⟨g, hg⟩ := sends_sendFlit hs p (by decide : 2 < 4) (by decide : 0 < 4096) nack _
    exact ⟨g, _, hg⟩
  · obtain ⟨g, hg⟩ := sends_sendFlit hs p (by decide : 2 < 4) (by decide : 0 < 4096) nack _
    exact ⟨g, _, hg⟩

/-- NACK leaves once more, in the flit that the port's state sends. -/
theorem exec_nackRepeat {q : Port} (hnack : (link s q.val).nack = true)
    (hst : linkUp (link s q.val) = true ∨ inLock (link s q.val) = true ∨ inIdent (link s q.val) = true) :
    ∃ t g, exec (.nackRepeat q) s = .next t ∧ t = { s with links := t.links, out := s.out ++ [.flit q.val g] }
      ∧ fType g = (if linkUp (link s q.val) then 0 else 2) ∧ bitOf g 26 = true ∧ (link t q.val).nacktx = min ((link s q.val).nacktx + 1) 65535 := by
  have hself : link (setLink s q.val (renacked (link s q.val))) q.val = renacked (link s q.val) := link_setLink_self hs q.val _
  have hcanon := setLink_canon s q.val (renacked (link s q.val)) hs
  have hexec : exec (.nackRepeat q) s = if linkUp (link s q.val) then .next (sendFlit (setLink s q.val (renacked (link s q.val))) q.val 0 0 true [])
      else if inLock (link s q.val) then .next (sendSync (setLink s q.val (renacked (link s q.val))) q.val true)
      else if inIdent (link s q.val) then .next (sendIdentStep (setLink s q.val (renacked (link s q.val))) q.val true) else .next s := by
    rw [show exec (.nackRepeat q) s = execNackRepeat q s from rfl, execNackRepeat]
    exact if_neg (by simp [hnack])
  rw [hexec]
  by_cases hup : linkUp (link s q.val) = true
  · rw [if_pos hup, if_pos hup]
    obtain ⟨g, hg⟩ := sends_sendFlit hcanon q.val (by decide : 0 < 4) (by decide : 0 < 4096) true []
    have hlink := hg.link
    rw [hself] at hlink
    exact ⟨_, g, rfl, hg.frame, hg.type, hg.nack, congrArg (·.nacktx) hlink⟩
  · rw [if_neg hup, if_neg hup]
    by_cases hlock : inLock (link s q.val) = true
    · rw [if_pos hlock]
      obtain ⟨g, n, slots, hg, -⟩ := sends_sendSync (p := q.val) hcanon true
      have hlink := credited_of_setLink hcanon hg.link
      rw [hself] at hlink
      exact ⟨_, g, rfl, hg.frame, hg.type, hg.nack, congrArg (·.nacktx) hlink⟩
    · rw [if_neg hlock, if_pos ((hst.resolve_left hup).resolve_left hlock)]
      obtain ⟨g, slots, hg⟩ := sends_sendIdentStep (p := q.val) hcanon true
      have hlink := hg.link
      rw [hself] at hlink
      exact ⟨_, g, rfl, hg.frame, hg.type, hg.nack, congrArg (·.nacktx) hlink⟩

end

/-! ### Equalisation in service (R229) -/

/-- The request of lane `k` in an EQREQ flit. -/
def eqField (f : FlitData) (k : Nat) : Nat := fld (flitSlot f (1 + k / 4)) (32 * (k % 4)) 32

/-- The port's record behind the request of lane `k`. -/
def eqLane (f : FlitData) (l : Link) (k : Nat) : Link :=
  { l with lane := tset (fun _ => {}) l.lane k (laneReq (laneOf l k) (eqField f k) true l.fixeq) }

theorem laneOf_foldl_eqLane (f : FlitData) {ks : List Nat} (hks : ks.Nodup) {l : Link} (hl : twf (fun _ => {}) l.lane = true) (j : Nat) :
    laneOf (ks.foldl (eqLane f) l) j = if j ∈ ks then laneReq (laneOf l j) (eqField f j) true l.fixeq else laneOf l j := by
  induction ks generalizing l with
  | nil => rfl
  | cons k ks ih =>
    obtain ⟨hk, hks⟩ := List.nodup_cons.mp hks
    rw [List.foldl_cons, ih hks (twf_tset k _ hl)]
    by_cases hjk : j = k
    · subst hjk
      rw [if_neg hk, if_pos List.mem_cons_self]
      exact tget_tset_self j _ hl
    · have hother : laneOf (eqLane f l k) j = laneOf l j := tget_tset_other k _ hl hjk
      rw [hother]
      simp only [List.mem_cons, hjk, false_or]
      rfl

/-- The slots of the EQREQ flit with which the lanes answer. -/
def eqAnswer (l : Link) : List Slot :=
  let back := fun k => (3 + 2 ^ 4 * (laneOf l k).status + 2 ^ 24 * (laneOf l k).ackn.toNat) * 2 ^ (32 * (k % 4))
  [3, BitVec.ofNat 128 (back 0 + back 1 + back 2 + back 3), BitVec.ofNat 128 (back 4 + back 5 + back 6 + back 7)]

theorem exec_eqreq {s : State} (hs : Canon s) {q : Port} {f : FlitData} {rx : FlitRx} (hctl : Control f 3) (hup : linkUp (link s q.val) = true)
    (hq : Quiet s q.val f) :
    let l := (List.range 8).foldl (eqLane f) (fecLink (link s q.val) rx)
    exec (.eqreq q f rx) s = .next (sendFlit (setLink s q.val l) q.val 2 0 false (eqAnswer l)) := by
  have hfec := link_fec hs (rx := rx) hup
  have hup' : linkUp (fecLink (link s q.val) rx) = true := hup
  have hre : ¬ ((fecLink (link s q.val) rx).st == .retrain) = true := fun h => by
    rw [linkUp, show (fecLink (link s q.val) rx).st = .retrain by simpa using h] at hup'
    exact absurd hup' (by decide)
  rw [show exec (.eqreq q f rx) s = execEqreq q f rx s from rfl, execEqreq, controlIn]
  dsimp only
  rw [hctl.crc, hctl.type, hctl.form, hctl.kind, if_neg (by decide), if_neg (by decide), if_pos rfl, hfec, if_neg hre, hup', if_pos rfl,
    setLink_link_fec hs hup hq rx rx.rep, hfec, hup', if_neg (by decide), fecCount_up hup, setLink_twice hs]
  rfl

/-! ### The obligation -/

/-- Settles O51: each flit's command is one record of the port and at most one flit that leaves (`Sends`), or the port retrains. -/
theorem linksCarryFlits : Obligations.LinksCarryFlits := by
  refine ⟨?_, ?_, ?_, ?_, ?_, ?_⟩
  · intro s p f rx h body rest hs hup hflag hunc hgood htype hq hseq hpart hslots hrest hne hhdr hbody hlen
    obtain ⟨g, hg⟩ := sends_sendFlit (setLink_canon s p.val (received { fecLink (link s p.val) rx with
      rxSeq := (link s p.val).rxSeq + 1, nack := false } (h :: body)) hs) p.val (by decide : 0 < 4) (by decide : 0 < 4096) false []
    have hlink := credited_of_setLink hs hg.link
    refine ⟨_, g, exec_dataFlit_taken hs hup hflag hunc hgood htype hq hseq hpart hslots hrest hne hhdr hbody hlen, hg.frame, congrArg (·.rxSeq) hlink,
      congrArg (·.nack) hlink, congrArg (·.rxPart) hlink, congrArg (·.rxq) hlink⟩
  · intro s p f rx hs hup l hbad
    have hfec := link_fec hs (rx := rx) hup
    have hcanon : Canon (fecCount s p.val rx) := fecCount_canon s p.val rx hs
    obtain ⟨hagain, hfirst⟩ := discardFlit_result (p := p.val) hcanon
    rw [hfec] at hagain hfirst
    refine ⟨_, exec_dataFlit_discarded hs hup hbad, ?_⟩
    cases hn : l.nack
    · obtain ⟨g, hg⟩ := hfirst hn
      have hlink := credited_of_setLink hcanon hg.link
      have hframe := hg.frame
      rw [fecCount_up hup] at hframe
      refine ⟨congrArg (·.uncorr) hlink, congrArg (·.rxq) hlink, congrArg (·.rxSeq) hlink, congrArg (·.nack) hlink,
        fun _ => ⟨g, ?_, hg.type, hg.nack, congrArg (·.nacktx) hlink⟩, fun h => by cases h⟩
      rw [fecCount_up hup]
      exact hframe
    · rw [hagain hn, hfec]
      refine ⟨rfl, rfl, rfl, hn, fun h => (by cases h), fun _ => ⟨?_, rfl⟩⟩
      rw [fecCount_up hup]
      rfl
  · intro s p hs hup hnack
    have h := exec_nackRepeat hs hnack (.inl hup)
    rwa [if_pos hup] at h
  · intro s p hs hst hnack
    have hdown : linkUp (link s p.val) = false := by
      unfold inLock inIdent at hst
      unfold linkUp
      cases hl : (link s p.val).st <;> simp_all
    have h := exec_nackRepeat hs hnack (.inr hst)
    rwa [hdown, if_neg Bool.false_ne_true] at h
  · intro s p f rx hs hup hgood htype hnack hempty l n c
    have hexec : exec (.idleFlitReceived p f rx) s = .next (if 2048 < creditOf (ackOf (fecLink l rx) f) f
      then enterRetrain (setLink s p.val (ackOf (fecLink l rx) f)) p.val else setLink s p.val (credited (fecLink l rx) f)) :=
      exec_idleFlit hs hup hgood htype hnack hempty
    have hack : credit (ackOf (fecLink l rx) f) = credit l := by
      unfold ackOf
      extract_lets m
      split <;> rfl
    have hcredit : creditOf (ackOf (fecLink l rx) f) f = c := by rw [creditOf, hack]
    have hself := fun m => link_setLink_self hs p.val m
    rw [hcredit] at hexec
    refine ⟨_, hexec, fun hc => ?_, fun hc => ?_⟩
    · rw [if_neg (Nat.not_lt.mpr hc), hself, credited, hcredit]
      refine ⟨rfl, ?_, fun hpos hle => ?_⟩
      · unfold ackOf setCredit
        extract_lets m
        split <;> rfl
      · unfold ackOf
        extract_lets m
        rw [if_pos ⟨hpos, hle⟩]
        exact ⟨rfl, rfl⟩
    · rw [if_pos hc]
      have hkept : (ackOf (fecLink l rx) f).st = l.st ∧ (ackOf (fecLink l rx) f).retrains = l.retrains := by
        unfold ackOf
        extract_lets m
        split <;> exact ⟨rfl, rfl⟩
      have hup' : linkUp (ackOf (fecLink l rx) f) = true := by
        rw [linkUp, hkept.1]
        exact hup
      refine retrains_of_link (retrains_enterRetrain (setLink_canon s p.val _ hs) (by rw [hself]; exact hup')) ?_ ?_
      · rw [hself]; exact hkept.1
      · rw [hself]; exact hkept.2
  · intro s p f rx hs hctl hup hq hlane l
    have hexec := exec_eqreq hs (rx := rx) hctl hup hq
    have hlanes := laneOf_foldl_eqLane f (List.nodup_range (n := 8)) (l := fecLink (link s p.val) rx) hlane
    generalize (List.range 8).foldl (eqLane f) (fecLink (link s p.val) rx) = m at hexec hlanes
    obtain ⟨g, hg⟩ := sends_sendFlit (setLink_canon s p.val m hs) p.val (by decide : 2 < 4) (by decide : 0 < 4096) false (eqAnswer m)
    have hlink : (link _ p.val).lane = m.lane := congrArg (·.lane) (credited_of_setLink hs hg.link)
    refine ⟨_, g, hexec, hg.frame, fun k hk => ?_⟩
    rw [laneOf, hlink]
    exact (hlanes k).trans (if_pos (List.mem_range.mpr hk))

end Sys2Proof.Proofs
end

section
/-! States of the ports: their pins, registers and counts (R226, R227, R229, R241, Table 10-5). -/

namespace Sys2Proof.Proofs

open Sys2Proof Sys2Proof.Machine Sys2Proof.Laws

/-! ### What the DOWN actions of a port leave (R226, R234) -/

/-- What of a port's record the handling of packets leaves as it is. -/
def linkFixed (l : Link) : LinkSt × Bool × Bool × Nat := (l.st, l.disable, l.fixeq, l.downs)

/-- Only packets and their events have moved: no port has changed its state, and the events are of the link-route sources. -/
structure OnlyPackets (s t : State) : Prop where
  canon : Canon t
  pins : t.pins = s.pins
  fixed : ∀ p, linkFixed (link t p) = linkFixed (link s p)
  events : ∃ es : List EvQ, t.aon.fc.evq = s.aon.fc.evq ++ es ∧ ∀ e ∈ es, 0xB0 ≤ e.ev.src.val ∧ e.ev.src.val < 0xB8

theorem OnlyPackets.refl {s : State} (hs : Canon s) : OnlyPackets s s := ⟨hs, rfl, fun _ => rfl, [], by simp, by simp⟩

theorem OnlyPackets.trans {s t u : State} (h : OnlyPackets s t) (k : OnlyPackets t u) : OnlyPackets s u := by
  obtain ⟨es, hes, hsrc⟩ := h.events
  obtain ⟨es', hes', hsrc'⟩ := k.events
  refine ⟨k.canon, k.pins.trans h.pins, fun p => (k.fixed p).trans (h.fixed p), es ++ es', by rw [hes', hes, List.append_assoc], fun e he => ?_⟩
  exact (List.mem_append.mp he).elim (hsrc e) (hsrc' e)

section
variable {s : State} (hs : Canon s)
include hs

theorem onlyPackets_setLink {p : Nat} {l : Link} (h : linkFixed l = linkFixed (link s p)) : OnlyPackets s (setLink s p l) := by
  refine ⟨setLink_canon s p l hs, rfl, fun q => ?_, [], by simp, by simp⟩
  by_cases hq : q = p
  · rw [hq, link_setLink_self hs, h]
  · rw [link_setLink_other hs p l hq]

theorem onlyPackets_raise {p : Nat} (hp : p < 8) (a b island : Nat) : OnlyPackets s (raise s (0xB0 + p) a b island) := by
  obtain ⟨q, hq, hev⟩ := crosses_raise s (0xB0 + p) a b island
  refine ⟨raise_canon s _ _ _ _ hs, raise_pins _ _ _ _ _, fun p => by rw [link, raise_links]; rfl, [q], hq, fun e he => ?_⟩
  rw [List.mem_singleton.mp he, hev]
  rw [show (Fin.ofNat 256 (0xB0 + p)).val = 0xB0 + p from Nat.mod_eq_of_lt (by omega)]
  omega

theorem onlyPackets_sendFlit (p ftype fseq : Nat) (nack : Bool) (slots : List Slot) : OnlyPackets s (sendFlit s p ftype fseq nack slots) := by
  obtain ⟨hself, hother, hcanon⟩ := link_sendFlit hs p ftype fseq nack slots
  have hframe := onlyLinks_sendFlit s p ftype fseq nack slots
  refine ⟨hcanon, by rw [hframe], fun q => ?_, [], by rw [hframe.aon, List.append_nil], by simp⟩
  by_cases hq : q = p
  · rw [hq, show link _ p = _ from hself]
    rfl
  · rw [hother q hq]

end

theorem onlyPackets_pump (n : Nat) {s : State} (hs : Canon s) (p : Nat) : OnlyPackets s (pump n s p) := by
  induction n generalizing s with
  | zero => exact .refl hs
  | succ n ih =>
    unfold pump
    extract_lets l
    split
    · exact .refl hs
    · split
      · exact .refl hs
      · extract_lets vc l1 l2
        have hset : OnlyPackets s (setLink s p l2) := onlyPackets_setLink hs rfl
        have hsent := onlyPackets_sendFlit hset.canon p 1 l.txSeq.toNat false (by assumption : Packet).slots
        exact hset.trans (hsent.trans (ih hsent.canon))

theorem portOf_lt {s : State} {h : Nat × Nat} {q : Nat} (hq : portOf s h = some q) : q < 8 := List.mem_range.mp (List.mem_of_find?_eq_some hq)

section
variable {s : State} (hs : Canon s)
include hs

theorem onlyPackets_countDrop (p : Nat) : OnlyPackets s (countDrop s p) := onlyPackets_setLink hs rfl

theorem onlyPackets_deliverOwn (p : Nat) (k : Packet) : OnlyPackets s (deliverOwn s p k) := onlyPackets_setLink hs rfl

theorem onlyPackets_routeEvent {p : Nat} (hp : p < 8) (k : Packet) : OnlyPackets s (routeEvent s p k) := by
  unfold routeEvent
  extract_lets l h
  have hset : OnlyPackets s (setLink s p { l with route := satAdd 16 l.route 1 }) := onlyPackets_setLink hs rfl
  exact hset.trans (onlyPackets_raise hset.canon hp _ _ _)

theorem onlyPackets_absentDrop (k : Packet) : OnlyPackets s (absentDrop s k) := by
  have hbump : OnlyPackets s (bump s) := ⟨bump_canon s hs, rfl, fun _ => rfl, [], by simp [bump], by simp⟩
  have hroute := onlyPackets_routeEvent hbump.canon (p := Config.pick s.fresh % 8) (by omega) k
  exact hbump.trans (hroute.trans (onlyPackets_countDrop hroute.canon _))

theorem onlyPackets_enqueue (q : Nat) (k : Packet) (h : Nat × Nat) (prior : Option Nat) : OnlyPackets s (enqueue s q k h prior) := by
  unfold enqueue
  extract_lets l hd dl k'
  split
  · have hset : OnlyPackets s (setLink s q { l with txq := l.txq ++ [k'] }) := onlyPackets_setLink hs rfl
    exact hset.trans (onlyPackets_pump 1 hset.canon q)
  · exact onlyPackets_countDrop hs q

theorem onlyPackets_sendOrDrop (k : Packet) : OnlyPackets s (sendOrDrop s k) := by
  unfold sendOrDrop
  split
  · exact .refl hs
  · split
    · next q hq =>
      have hroute : OnlyPackets s (if (link s q).st == .refused then routeEvent s q k else s) := by
        split
        · exact onlyPackets_routeEvent hs (portOf_lt hq) k
        · exact .refl hs
      exact hroute.trans (onlyPackets_enqueue hroute.canon q k _ _)
    · exact onlyPackets_absentDrop hs k

theorem onlyPackets_dropPkt (p : Nat) (k : Packet) : OnlyPackets s (dropPkt s p k) := by
  have hcount := onlyPackets_countDrop hs p
  unfold dropPkt
  extract_lets t h e
  refine hcount.trans ?_
  split
  · split
    · exact onlyPackets_deliverOwn hcount.canon p e
    · exact onlyPackets_sendOrDrop hcount.canon e
  · exact .refl hcount.canon

end

theorem onlyPackets_foldl {α : Type} {g : State → α → State} (h : ∀ {s}, Canon s → ∀ a, OnlyPackets s (g s a)) (l : List α) {s : State} (hs : Canon s) :
    OnlyPackets s (l.foldl g s) := by
  induction l generalizing s with
  | nil => exact .refl hs
  | cons a l ih => exact (h hs a).trans (ih (h hs a).canon)

theorem onlyPackets_downActions {s : State} (hs : Canon s) (p : Nat) : OnlyPackets s (downActions s p) := by
  unfold downActions
  extract_lets l held t
  have hset : OnlyPackets s t := onlyPackets_setLink hs rfl
  exact hset.trans (onlyPackets_foldl (fun hs k => onlyPackets_dropPkt hs p k) held hset.canon)

/-! ### DOWN, OFF and DETECT are entered (R226, R227) -/

section
variable {s : State} (hs : Canon s) {p : Nat}
include hs

theorem onlyPackets_left (st : LinkSt) : OnlyPackets (linkTo s p st) (downActions (linkTo s p st) p) :=
  onlyPackets_downActions (linkTo_canon s p st hs) p

theorem goesDown_enterDown (hne : (link s p).st ≠ .down) : GoesDown s (enterDown s p) p := by
  have hleft := onlyPackets_left hs (p := p) .down
  have hmoved := link_linkTo_self hs hne
  have hfixed := hleft.fixed p
  obtain ⟨es, hes, hsrc⟩ := hleft.events
  rw [hmoved] at hfixed
  rw [linkTo_fc] at hes
  unfold enterDown
  dsimp only
  generalize downActions (linkTo s p .down) p = u at hleft hfixed hes
  have hself := link_setLink_self hleft.canon p { link u p with
    downs := satAdd 8 (link u p).downs 1, decided := none, peerConf := none, identLast := none, lanes := 0 }
  have hlink : ∀ a b i, link (raise (setLink u p { link u p with
      downs := satAdd 8 (link u p).downs 1, decided := none, peerConf := none, identLast := none, lanes := 0 }) (0xC0 + p) a b i) p
      = { link u p with downs := satAdd 8 (link u p).downs 1, decided := none, peerConf := none, identLast := none, lanes := 0 } := fun a b i => by
    rw [link, raise_links]
    exact hself
  refine ⟨?_, ?_, es, ?_⟩
  · rw [hlink]
    exact congrArg (·.1) hfixed
  · rw [hlink, ← show (link u p).downs = (link s p).downs from congrArg (·.2.2.2) hfixed]
    rfl
  · obtain ⟨q, hq, hev⟩ := crosses_raise_of (s := u) (u := setLink u p { link u p with
      downs := satAdd 8 (link u p).downs 1, decided := none, peerConf := none, identLast := none, lanes := 0 }) rfl (0xC0 + p) (link s p).st.code
      (link (setLink u p { link u p with
        downs := satAdd 8 (link u p).downs 1, decided := none, peerConf := none, identLast := none, lanes := 0 }) p).pktdrop (0x24 + p)
    refine ⟨q, by rw [hq, hes], ?_, hsrc⟩
    rw [hlink, hev, hself]

theorem leaveTo_result (st : LinkSt) : (leaveTo s p st).pins = s.pins
    ∧ (link (leaveTo s p st) p).st = st ∧ (link (leaveTo s p st) p).disable = (link s p).disable ∧ (link (leaveTo s p st) p).fixeq = (link s p).fixeq := by
  have hleft := onlyPackets_left hs (p := p) st
  have hfixed := hleft.fixed p
  have hmoved : linkFixed (link (linkTo s p st) p) = (st, (link s p).disable, (link s p).fixeq, (link s p).downs) := by
    by_cases h : (link s p).st = st
    · rw [linkTo_same h, ← h]; rfl
    · rw [link_linkTo_self hs h]; rfl
  rw [hmoved] at hfixed
  unfold leaveTo
  dsimp only
  rw [link_setLink_self hleft.canon]
  exact ⟨hleft.pins.trans linkTo_pins, congrArg (·.1) hfixed, congrArg (·.2.1) hfixed, congrArg (·.2.2.1) hfixed⟩

end

/-! ### A write of MZ_LK_CTRL (R226, R227, R241) -/

section
variable {s : State} {p : Port} {ns : Bool} (hthere : s.img.isNone = true ∨ linkPresent s p.val = true)
variable (hserved : Served s (0x1D000 + 0x40 * p.val) ns (domSecure s (36 + p.val)))
include hthere hserved

/-- The write reaches the port. -/
theorem lkCtrlW_served (v : W32) : lkCtrlW p.val ns v s = emit (lkCtrl v s p.val) (.mmio 0 0) := by
  have hsec : ((s.img.isNone || linkPresent s p.val) && domSecure s (36 + p.val)) = domSecure s (36 + p.val) := by
    rw [show (s.img.isNone || linkPresent s p.val) = true by simpa using hthere, Bool.true_and]
  unfold lkCtrlW
  rw [hsec]
  exact mmioW_of_served hserved _

end

/-- The port's record as the write of MZ_LK_CTRL sets it, before RETRAIN and DISABLE act. -/
def lkSet (l : Link) (v : W32) : Link := { (if bitOf v 2 then linkClear { l with fixeq := bitOf v 3 } else { l with fixeq := bitOf v 3 }) with
  disable := bitOf v 0 }

theorem lkCtrl_eq {s : State} {p : Nat} (hthere : s.img.isNone = true ∨ linkPresent s p = true) (v : W32) :
    lkCtrl v s p = (let t := setLink s p (lkSet (link s p) v)
      let u := if bitOf v 1 then enterRetrain t p else t
      if bitOf v 0 then leaveTo u p .off else tryDetect u p) := by
  have hgo : ¬ (s.img.isSome && !linkPresent s p) = true := by
    rcases hthere with h | h
    · simp [Option.isNone_iff_eq_none.mp h]
    · simp [h]
  unfold lkCtrl
  exact if_neg hgo

/-- A port that is not in OFF stays as it is, and one in OFF enters DETECT where it may train. -/
theorem tryDetect_other {s : State} {p : Nat} (h : (link s p).st ≠ .off) : tryDetect s p = s := by
  unfold tryDetect
  exact if_neg (by simp [h])

theorem tryDetect_off {s : State} {p : Nat} (h : (link s p).st = .off) (hmay : mayTrain s p = true) : tryDetect s p = linkTo s p .detect := by
  unfold tryDetect
  exact if_pos (by simp [h, hmay])

theorem lkSet_kept (l : Link) (v : W32) (h : bitOf v 2 = false) : lkSet l v = { l with fixeq := bitOf v 3, disable := bitOf v 0 } := by
  unfold lkSet
  rw [h]
  rfl

theorem lkSet_st (l : Link) (v : W32) : (lkSet l v).st = l.st ∧ (lkSet l v).disable = bitOf v 0 := by
  unfold lkSet
  split <;> exact ⟨rfl, rfl⟩

/-! ### The count of a state (Table 10-5) -/

theorem sends_sendIdent {s : State} (hs : Canon s) (p : Nat) : ∃ (g : FlitData) (slots : List Slot), Sends s (sendIdent s p) p 2 false slots g ∧ ctlKind g = 1 := by
  unfold sendIdent
  extract_lets i
  obtain ⟨g, hg⟩ := sends_sendFlit hs p (by decide : 2 < 4) (by decide : 0 < 4096) false [BitVec.ofNat 128 (1 + 2 ^ 8 * i.chip
    + 2 ^ 16 * i.lcode.toList.getD p 0 + 2 ^ 20 * i.linkrev + 2 ^ 64 * i.cfgTag.toNat), BitVec.ofNat 128 i.bridgeTag.toNat]
  refine ⟨g, _, hg, hg.kind.trans ?_⟩
  simp only [List.headD_cons, BitVec.toNat_ofNat]
  omega

/-- What the expiry of the count of a port's state does. -/
theorem timer_result {s : State} (hs : Canon s) (p : Port) :
    let l := link s p.val
    ∃ t, exec (.linkStateTimerExpire p) s = .next t ∧ (∀ q < 8, q ≠ p.val → l.st = .detect ∨ l.st = .down → link t q = link s q)
      ∧ (l.st = .detect → s.pins.prsntN.getLsbD p.val = false → (link t p.val).st = .wake)
      ∧ (l.st = .wake ∨ l.st = .eq ∨ l.st = .lock ∨ l.st = .ident ∨ l.st = .retrain → GoesDown s t p.val)
      ∧ (l.st = .down → (link t p.val).st = .detect)
      ∧ (l.st = .refused → ∃ f, t = { s with links := t.links, out := s.out ++ [.flit p.val f] } ∧ fType f = 2 ∧ ctlKind f = 1
          ∧ link t p.val = { l with owed := (link t p.val).owed, crTurn := (link t p.val).crTurn }) := by
  rw [show exec (.linkStateTimerExpire p) s = execLinkStateTimerExpire p s from rfl, execLinkStateTimerExpire]
  dsimp only
  have hdown : (link s p.val).st ≠ .down → GoesDown s (enterDown s p.val) p.val := goesDown_enterDown hs
  cases hst : (link s p.val).st
  case detect =>
    refine ⟨_, rfl, fun q _ hq _ => ?_, fun _ hpin => ?_, by simp, by simp, by simp⟩
    · split
      · rfl
      · exact link_linkTo_other hs hq
    · rw [hpin, if_neg Bool.false_ne_true]
      exact link_linkTo_st hs
  case wake | eq | lock | ident | retrain => exact ⟨_, rfl, by simp, by simp, fun _ => hdown (by simp [hst]), by simp, by simp⟩
  case down => exact ⟨_, rfl, fun q _ hq _ => link_linkTo_other hs hq, by simp, by simp, fun _ => link_linkTo_st hs, by simp⟩
  case refused =>
    obtain ⟨f, slots, hf, hkind⟩ := sends_sendIdent hs p.val
    refine ⟨_, rfl, by simp, by simp, by simp, by simp, fun _ => ⟨f, hf.frame, hf.type, hkind, ?_⟩⟩
    rw [← hst]
    exact hf.link
  case off | active | transit => exact ⟨_, rfl, by simp, by simp, by simp, by simp, by simp⟩

/-- The port's record behind a window of corrected symbols. -/
def symWindow (l : Link) (n : W32) (cws : BitVec 23) : Link :=
  { l with syms := n, corrcw := BitVec.ofNat 16 (satAdd 16 l.corrcw.toNat (cws.toNat - l.corrWin)), corrWin := 0 }

theorem exec_symWindow (s : State) (p : Port) (n : W32) (cws : BitVec 23) : exec (.serWindowEnd p ⟨n, cws⟩) s
    = .next (if 1024 * (link s p.val).thresh.toNat < n.toNat then enterRetrain (setLink s p.val (symWindow (link s p.val) n cws)) p.val
      else setLink s p.val (symWindow (link s p.val) n cws)) := rfl

/-- MZ_PRSNT_N of the port is high. -/
def pinHigh (s : State) (p : Nat) : State := { s with pins := { s.pins with prsntN := putBit s.pins.prsntN p true } }

theorem exec_pinHigh (s : State) (p : Port) : exec (.linkPresenceChange p true) s
    = .next (if (link s p.val).st = .off then pinHigh s p.val else leaveTo (pinHigh s p.val) p.val .detect) := by
  rw [show exec (.linkPresenceChange p true) s = if (true && (link s p.val).st != .off) = true
    then .next (leaveTo (pinHigh s p.val) p.val .detect) else .next (pinHigh s p.val) from rfl]
  by_cases h : (link s p.val).st = .off
  · rw [if_pos h, if_neg (by simp [h])]
  · rw [if_neg h, if_pos (by simp [h])]

/-! ### The obligation -/

/-- Settles O49: pins, registers, counts and windows move a port by `linkTo`, `leaveTo` (OFF and DETECT), `enterDown` and `enterRetrain`,
whose effects on the port's record are the lemmas of these names. -/
theorem linkStatesMove : Obligations.LinkStatesMove := by
  refine ⟨?_, fun s p => rfl, ?_, ?_, ?_, ?_, ?_⟩
  · intro s p hs
    have hs' : Canon (pinHigh s p.val) := { hs with }
    refine ⟨_, exec_pinHigh s p, ?_⟩
    by_cases hoff : (link s p.val).st = .off
    · rw [if_pos hoff, if_pos hoff]
      exact ⟨rfl, hoff⟩
    · rw [if_neg hoff, if_neg hoff]
      obtain ⟨hpins, hst, -⟩ := leaveTo_result hs' (p := p.val) .detect
      exact ⟨hpins, hst⟩
  · intro s p ns v hs hthere hserved l
    have hset : ∀ w, Canon (setLink s p.val (lkSet l w)) := fun w => setLink_canon s p.val _ hs
    have hself : ∀ w, link (setLink s p.val (lkSet l w)) p.val = lkSet l w := fun w => link_setLink_self hs p.val _
    have hwrite : ∀ w, lkCtrlW p.val ns w s = emit (lkCtrl w s p.val) (.mmio 0 0) := lkCtrlW_served hthere hserved
    refine ⟨fun h0 h1 h2 => ?_, fun h0 h1 h2 hoff himg hrun hon => ?_, fun h0 h2 hup => ?_, fun h0 h1 hon => ?_⟩
    · obtain ⟨-, hst, hdis, hfix⟩ := leaveTo_result (hset v) (p := p.val) .off
      refine ⟨leaveTo (setLink s p.val (lkSet l v)) p.val .off, ?_, hst, ?_, ?_⟩
      · refine congrArg _ ((hwrite v).trans (congrArg (emit · _) ?_))
        rw [lkCtrl_eq hthere, h0, h1]
        rfl
      · rw [hdis, hself, (lkSet_st l v).2, h0]
      · rw [hfix, hself, lkSet_kept l v h2]
    · have hoff' : (link (setLink s p.val (lkSet l v)) p.val).st = .off := by rw [hself, (lkSet_st l v).1]; exact hoff
      have hpresent : linkPresent s p.val = true := hthere.resolve_left (by simp [Option.isNone_iff_eq_none, Option.isSome_iff_ne_none.mp himg])
      have hmay : mayTrain (setLink s p.val (lkSet l v)) p.val = true := by
        unfold mayTrain
        rw [hself, (lkSet_st l v).2, h0]
        have hrest : (s.img.isSome && linkPresent s p.val && !false && s.boot.phase == .running && powered s (0x24 + p.val)) = true := by
          simp [himg, hpresent, hrun, hon]
        exact hrest
      refine ⟨linkTo (setLink s p.val (lkSet l v)) p.val .detect, ?_, link_linkTo_st (hset v), ?_⟩
      · refine congrArg _ ((hwrite v).trans (congrArg (emit · _) ?_))
        rw [lkCtrl_eq hthere, h0, h1]
        exact tryDetect_off hoff' hmay
      · rw [link_linkTo_self (hset v) (by rw [hoff']; decide), hself]
        exact (lkSet_st l v).2.trans h0
    · have h0' : bitOf (v ||| 2) 0 = false := by rw [bitOf_or, h0]; rfl
      have h1' : bitOf (v ||| 2) 1 = true := by rw [bitOf_or]; exact Bool.or_true _
      have h2' : bitOf (v ||| 2) 2 = false := by rw [bitOf_or, h2]; rfl
      have hkept := lkSet_kept l (v ||| 2) h2'
      have hre := retrains_enterRetrain (p := p.val) (hset (v ||| 2)) (by rw [hself, linkUp, (lkSet_st l _).1]; exact hup)
      refine ⟨enterRetrain (setLink s p.val (lkSet l (v ||| 2))) p.val, ?_, retrains_of_link hre ?_ ?_⟩
      · refine congrArg _ ((hwrite (v ||| 2)).trans (congrArg (emit · _) ?_))
        rw [lkCtrl_eq hthere, h0', h1']
        exact tryDetect_other (by rw [if_pos rfl, hre.st]; decide)
      · rw [hself, hkept]
      · rw [hself, hkept]
    · have h0' : bitOf (v ||| 4) 0 = false := by rw [bitOf_or, h0]; rfl
      have h1' : bitOf (v ||| 4) 1 = false := by rw [bitOf_or, h1]; rfl
      have h2' : bitOf (v ||| 4) 2 = true := by rw [bitOf_or]; exact Bool.or_true _
      have h3' : bitOf (v ||| 4) 3 = bitOf v 3 := by rw [bitOf_or]; exact Bool.or_false _
      refine congrArg _ ((hwrite (v ||| 4)).trans (congrArg (emit · _) ?_))
      rw [lkCtrl_eq hthere, h0', h1']
      refine (tryDetect_other (p := p.val) (by rw [if_neg Bool.false_ne_true, hself, (lkSet_st l _).1]; exact hon)).trans ?_
      rw [if_neg Bool.false_ne_true]
      unfold lkSet
      rw [h2', h3', h0']
      rfl
  · intro s p hs l
    exact timer_result hs p
  · intro s p hs hwake
    have hset : Canon (setLink s p.val { link s p.val with lane := [] }) := setLink_canon s p.val _ hs
    have hself : link (setLink s p.val { link s p.val with lane := [] }) p.val = { link s p.val with lane := [] } := link_setLink_self hs p.val _
    have hmoved : link (sendFrames (linkTo (setLink s p.val { link s p.val with lane := [] }) p.val .eq) p.val) p.val
        = movedTo { link s p.val with lane := [] } .eq := by
      rw [link, sendFrames_links]
      exact (link_linkTo_self hset (by rw [hself, hwake]; decide)).trans (by rw [hself])
    exact ⟨_, if_pos (by simp [hwake]), by rw [hmoved]; rfl, by rw [hmoved]; rfl⟩
  · intro s p hs hup
    exact ⟨_, rfl, retrains_enterRetrain hs hup⟩
  · intro s p n cws hs l
    have hself : link (setLink s p.val (symWindow l n cws)) p.val = symWindow l n cws := link_setLink_self hs p.val _
    have hcanon := setLink_canon s p.val (symWindow l n cws) hs
    refine ⟨_, exec_symWindow s p n cws, ?_⟩
    by_cases hover : 1024 * l.thresh.toNat < n.toNat
    · rw [if_pos hover]
      by_cases hup : linkUp l = true
      · have hup' : linkUp (link (setLink s p.val (symWindow l n cws)) p.val) = true := by rw [hself]; exact hup
        have hlink := link_enterRetrain hcanon hup'
        obtain ⟨-, hsyms, hcorr⟩ := retraining_kept (symWindow l n cws)
        have hre := retrains_enterRetrain hcanon hup'
        rw [hself] at hlink
        refine ⟨by rw [hlink]; exact hsyms, by rw [hlink]; exact hcorr, fun _ _ => retrains_of_link hre (by rw [hself]; rfl) (by rw [hself]; rfl),
          fun h => absurd hover (Nat.not_lt.mpr h)⟩
      · rw [show enterRetrain (setLink s p.val (symWindow l n cws)) p.val = setLink s p.val (symWindow l n cws) by
          unfold enterRetrain; exact if_neg (by rw [hself]; exact hup), hself]
        exact ⟨rfl, rfl, fun h => absurd h hup, fun h => absurd hover (Nat.not_lt.mpr h)⟩
    · rw [if_neg hover, hself]
      exact ⟨rfl, rfl, fun _ h => absurd h hover, fun _ => rfl⟩

end Sys2Proof.Proofs
end

section
/-! Walks and the fault ring (R244 to R247, R254, R255, R257, R260). -/

namespace Sys2Proof.Proofs

open Sys2Proof Sys2Proof.Machine Sys2Proof.Laws

/-! ### The end of a request of the block itself -/

/-- The answer of the block's own requests of one kind changes the port list and the data path only. -/
theorem ownDone_frame (s : State) (k : OwnKind) : ownDone s k = { s with ports := (ownDone s k).ports, path := (ownDone s k).path } := by
  have hkept : ∀ (l : List OwnReq) (t : State), l.foldl ownEcho t = { t with path := (l.foldl ownEcho t).path } := by
    intro l
    induction l with
    | nil => exact fun t => rfl
    | cons e l ih =>
      intro t
      have hone : ownEcho t e = { t with path := (ownEcho t e).path } := by
        unfold ownEcho
        split <;> rfl
      rw [List.foldl_cons, ih, hone]
  unfold ownDone
  dsimp only
  rw [hkept]

theorem ownDone_xl (s : State) (k : OwnKind) : (ownDone s k).xl = s.xl := by rw [ownDone_frame]
theorem ownDone_img (s : State) (k : OwnKind) : (ownDone s k).img = s.img := by rw [ownDone_frame]
theorem ownDone_chans (s : State) (k : OwnKind) : (ownDone s k).chans = s.chans := by rw [ownDone_frame]

/-! ### A walk that ends -/

/-- The fault that a walk of one requester holds. -/
def heldFault (s : State) (v : Walk) (r : Req) (kind : Nat) (e : W64) : Walk :=
  { v with st := .holding, reqs := [], held := some ⟨kind, v.level, entryAddr v, e, 0, [r], putBit 0 (chanCfg s r.ch).ctx true⟩ }

/-- The tiles before their pre-walk of a channel have lost what their walks found (R252); no other stream has changed. -/
def SetsLost (s t : State) (c : Nat) : Prop :=
  ∀ d, stream t d = if d = c then (stream s d).map fun x => { x with
    tiles := x.tiles.map fun u => if u.walked then u else { u with xset := [] } } else stream s d

theorem setsLost_dropSets {s : State} (hs : Canon s) (r : Req) : SetsLost s (dropSets s [r]) r.ch := by
  intro d
  have hone : dropSets s [r] = modStream s r.ch fun x => { x with tiles := x.tiles.map fun u => if u.walked then u else { u with xset := [] } } := rfl
  rw [hone]
  by_cases hd : d = r.ch
  · rw [if_pos hd, hd]
    cases hx : stream s r.ch with
    | none =>
      rw [show modStream s r.ch _ = s by rw [modStream, hx], hx]
      rfl
    | some x => exact stream_modStream_self s hx _
  · rw [if_neg hd]
    exact congrArg Chan.stream (chan_modStream_other hs hd _)

/-- The one walk of a state that stands at its table entry for one requester, which is not a WARM. -/
structure OneWalk (s : State) (v : Walk) (r : Req) : Prop where
  canon : Canon s
  walks : s.xl.walks = [v]
  reading : v.st = .reading
  walker : v.advice = false
  reqs : v.reqs = [r]
  taken : r.warm = false

theorem OneWalk.of_frame {s t : State} {v : Walk} {r : Req} (h : OneWalk s v r) (hcanon : Canon t) (hxl : t.xl = s.xl) : OneWalk t v r :=
  ⟨hcanon, by rw [hxl, h.walks], h.reading, h.walker, h.reqs, h.taken⟩

theorem startQueued_idle {s : State} (h : ∀ w ∈ s.xl.walks, w.st ≠ .queued) (n k : Nat) : startQueued n s k = s := by
  cases n with
  | zero => rfl
  | succ n =>
    have hnone : (s.xl.walks.find? fun w => w.half == k && !w.advice && w.st == .queued) = none :=
      List.find?_eq_none.2 fun w hw => by simp [h w hw]
    rw [startQueued, hnone]
    split <;> rfl

theorem warmNext_of_taken (s : State) {r : Req} (h : r.warm = false) : warmNext s [r] = s := by simp [warmNext, h]

/-- The fault of a walk's one requester is held, and its tiles lose what their walks found. -/
theorem holds_fault {s : State} {v : Walk} {r : Req} (h : OneWalk s v r) (kind : Nat) (hkind : (kind == 1) = false) (e : W64) (n : Nat)
    (good : List Req) (hgood : good = []) :
    let t := startQueued 64 (warmNext (good.foldl (fun s r => deposit s r (walkKey v) (entryLeaf v.level e) v.asid)
      (modWalk (dropSets s [r]) v.id fun _ => holdFault v kind e [r] (reqMask s [r]))) v.reqs) n
    t.xl.walks = [heldFault s v r kind e] ∧ SetsLost s t r.ch := by
  intro t
  have hwalks : (modWalk (dropSets s [r]) v.id fun _ => holdFault v kind e [r] (reqMask s [r])).xl.walks = [heldFault s v r kind e] := by
    have hxl : (dropSets s [r]).xl = s.xl := xl_modStream _ _ _
    have hheld : holdFault v kind e [r] (reqMask s [r]) = heldFault s v r kind e := by
      simp only [holdFault, hkind, heldFault]
      rfl
    simp [modWalk, setWalks, hxl, h.walks, hheld]
  have ht : t = modWalk (dropSets s [r]) v.id fun _ => holdFault v kind e [r] (reqMask s [r]) := by
    subst hgood
    refine (startQueued_idle (fun w hw => ?_) 64 n).trans ?_
    · rw [h.reqs, warmNext_of_taken _ h.taken] at hw
      rw [List.foldl_nil, hwalks, List.mem_singleton] at hw
      rw [hw]
      exact fun hq => WalkSt.noConfusion hq
    · rw [h.reqs, warmNext_of_taken _ h.taken, List.foldl_nil]
  rw [ht]
  exact ⟨hwalks, setsLost_dropSets h.canon r⟩

theorem walkFault_result {s : State} {v : Walk} {r : Req} (h : OneWalk s v r) {kind : Nat} (hkind : (kind == 1) = false) (e : W64) :
    (walkFault s v kind e).xl.walks = [heldFault s v r kind e] ∧ SetsLost s (walkFault s v kind e) r.ch := by
  have hreal : v.reqs.filter (fun r => !r.warm) = [r] := by simp [h.reqs, h.taken]
  have hfault := holds_fault h kind hkind e v.half [] rfl
  rw [walkFault, hreal]
  exact hfault

/-- A leaf without the write permission that its requester needs is a fault of kind 3. -/
theorem walkLeaf_denied {s : State} {v : Walk} {r : Req} (h : OneWalk s v r) {e : W64} (hwrite : r.write = true)
    (hw : (entryLeaf v.level e).w = false) :
    (walkLeaf s v e).xl.walks = [heldFault s v r 3 e] ∧ SetsLost s (walkLeaf s v e) r.ch := by
  have hbad : v.reqs.filter (fun r => r.write && !(entryLeaf v.level e).w && !r.warm) = [r] := by simp [h.reqs, h.taken, hwrite, hw]
  have hgood : v.reqs.filter (fun r => !(r.write && !(entryLeaf v.level e).w) && !r.warm) = [] := by simp [h.reqs, hwrite, hw]
  have hfault := holds_fault h 3 rfl e v.half [] rfl
  rw [walkLeaf, hbad, hgood]
  exact hfault

theorem xl_deposit (s : State) (r : Req) (region : Nat) (l : Leaf) (asid : BitVec 8) : (deposit s r region l asid).xl = s.xl := by
  unfold deposit
  split
  · rfl
  · exact xl_modStream _ _ _

/-- A stream without tiles takes a leaf for its reads that precede them. -/
theorem deposit_untiled {s : State} {r : Req} {x : Stream} (hx : stream s r.ch = some x) (hnone : x.tiles = [])
    (htaken : r.warm = false) (hquiet : faultPending s r.ch = false) (region : Nat) (l : Leaf) (asid : BitVec 8) :
    stream (deposit s r region l asid) r.ch = some (preAdd x region l) := by
  rw [deposit, if_neg (by simp [isAhead, htaken, hquiet]), stream_modStream_self s hx]
  exact congrArg some (if_neg (by simp [hnone]))

/-- A leaf that its requester may use is cached, and given to it. -/
theorem walkLeaf_found {s : State} {v : Walk} {r : Req} (h : OneWalk s v r) {e : W64}
    (hok : r.write = false ∨ (entryLeaf v.level e).w = true) :
    (walkLeaf s v e).xl.walks = []
      ∧ TlbEnt.mk v.half v.asid (pageBase v.level (v.va / 2 ^ 25)) (entryLeaf v.level e) ∈ (walkLeaf s v e).xl.tlb
      ∧ ∀ x, stream s r.ch = some x → x.tiles = [] → stream (walkLeaf s v e) r.ch = some { x with
          pre := x.pre.filter (fun y => y.region != v.va / 2 ^ 25) ++ [⟨v.va / 2 ^ 25, entryLeaf v.level e⟩] } := by
  have hperm : (r.write && !(entryLeaf v.level e).w) = false := by
    cases hok with
    | inl hr => rw [hr]; rfl
    | inr hw => rw [hw, Bool.not_true, Bool.and_false]
  have hbad : v.reqs.filter (fun r => r.write && !(entryLeaf v.level e).w && !r.warm) = [] := by
    rw [h.reqs]
    simp only [List.filter_cons, List.filter_nil, hperm, Bool.false_and]
    rfl
  have hgood : v.reqs.filter (fun r => !(r.write && !(entryLeaf v.level e).w) && !r.warm) = [r] := by
    rw [h.reqs]
    simp only [List.filter_cons, List.filter_nil, hperm, h.taken]
    rfl
  have hgone : s.xl.walks.filter (fun w => w.id != v.id) = [] := by simp [h.walks]
  let u := tlbFill (setWalks s []) v.half v.asid (walkKey v) (entryLeaf v.level e)
  have hu : u.xl.walks = [] := rfl
  have hend : walkLeaf s v e = deposit u r (walkKey v) (entryLeaf v.level e) v.asid := by
    rw [walkLeaf, hbad, hgood, hgone]
    refine (startQueued_idle (fun w hw => ?_) 64 v.half).trans ?_
    · rw [h.reqs, warmNext_of_taken _ h.taken] at hw
      have hw : w ∈ (deposit u r (walkKey v) (entryLeaf v.level e) v.asid).xl.walks := hw
      rw [xl_deposit, hu] at hw
      exact absurd hw List.not_mem_nil
    · rw [h.reqs, warmNext_of_taken _ h.taken]
      rfl
  rw [hend, xl_deposit]
  refine ⟨hu, List.mem_append_right _ (List.mem_singleton_self _), fun x hx hnone => ?_⟩
  exact deposit_untiled (s := u) hx hnone h.taken (by rw [faultPending, hu]; rfl) _ _ _

/-- The read of a walk's entry is granted at its memory port, as a request of the block itself. -/
def walkGranted (s : State) (w : Walk) (m lane : Nat) : State × Nat :=
  ownReq (grantMem (setHalf s w.half { half s w.half with walkrd := (half s w.half).walkrd + 1 }) m lane) m 0 (entryAddr w) (.walk w.id)

theorem walkGranted_frame (s : State) (w : Walk) (m lane : Nat) : (walkGranted s w m lane).1.xl.walks = s.xl.walks
    ∧ (walkGranted s w m lane).1.chans = s.chans ∧ (walkGranted s w m lane).1.out = s.out := ⟨rfl, rfl, rfl⟩

/-- The read of the next level's entry goes out where its port is powered and its input is not fenced (R246, R247). -/
theorem walkRead_sent {s : State} {v : Walk} {r : Req} (h : OneWalk s v r) {table : Nat} {w : Walk}
    (hw : w = { v with level := v.level + 1, table := table })
    (hpow : powered s (44 + memPortOf s (entryAddr w) / 2) = true)
    (hfence : memFenced s (memPortOf s (entryAddr w)) (chanCfg s r.ch).mover = false) :
    ∃ id, (walkRead s w).xl.walks = [w] ∧ (walkRead s w).chans = s.chans
      ∧ (walkRead s w).out = s.out ++ [.walk v.id (memPortOf s (entryAddr w)) (chanCfg s r.ch).mover 1 (entryAddr w)
          (!ctxSecure s v.ctx) true 1 id] := by
  let m := memPortOf s (entryAddr w)
  let lane := (chanCfg s r.ch).mover
  let u := modWalk s w.id fun _ => w
  have hreqs : w.reqs.headD ⟨0, 0, false, 0, false⟩ = r := by rw [hw, h.reqs]; rfl
  have hsame : { w with st := .reading } = w := by rw [hw, ← h.reading]
  have hid : w.id = v.id := by rw [hw]
  have hctx : w.ctx = v.ctx := by rw [hw]
  have hwalks : u.xl.walks = [w] := by simp [u, modWalk, setWalks, h.walks, hid]
  have hrun : walkRead s w = emit (walkGranted u w m lane).1 (.walk w.id m lane 1 (entryAddr w) (!ctxSecure u w.ctx) true 1
      ((walkGranted u w m lane).2 % 65536)) := by
    unfold walkRead
    rw [hreqs, hsame]
    refine (if_neg (by rw [hpow]; decide)).trans (if_neg fun hf => ?_)
    exact Bool.false_ne_true (hfence.symm.trans hf)
  refine ⟨(walkGranted u w m lane).2 % 65536, ?_⟩
  obtain ⟨hxl, hchans, hout⟩ := walkGranted_frame u w m lane
  rw [hrun, hid, hctx]
  exact ⟨hxl.trans hwalks, hchans, congrArg (· ++ [_]) hout⟩

/-! ### An answer to a walk's read -/

theorem oneWalk_ownDone {s : State} {v : Walk} {r : Req} (h : OneWalk s v r) (k : OwnKind) : OneWalk (ownDone s k) v r :=
  h.of_frame (ownDone_canon _ _ h.canon) (ownDone_xl s k)

theorem OneWalk.found {s : State} {v : Walk} {r : Req} (h : OneWalk s v r) :
    (s.xl.walks.find? fun w => w.id == v.id && w.st == .reading) = some v := by
  simp [h.walks, h.reading]

/-- An answer with an entry is looked at as what the entry says. -/
theorem exec_walk_okay {s : State} {v : Walk} {r : Req} (h : OneWalk s v r) (e : W64) :
    exec (.walkReadResponse v.id (.okay e)) s =
      if !bitOf e 0 then .next (walkFault (ownDone s (.walk v.id)) v 2 e)
      else if badEntry s v.level e then .next (walkFault (ownDone s (.walk v.id)) v 4 e)
      else if bitOf e 1 then .next (walkLeaf (ownDone s (.walk v.id)) v e)
      else if inMiozer s (fld e 8 44 * 256) then .next (walkFault (ownDone s (.walk v.id)) v 5 0)
      else .next (walkRead (ownDone s (.walk v.id)) { v with level := v.level + 1, table := fld e 8 44 * 256 }) := by
  have hbad : badEntry (ownDone s (.walk v.id)) v.level e = badEntry s v.level e := by rw [ownDone_frame]; rfl
  have hmio : inMiozer (ownDone s (.walk v.id)) (fld e 8 44 * 256) = inMiozer s (fld e 8 44 * 256) := by rw [ownDone_frame]; rfl
  show execWalkReadResponse v.id (.okay e) s = _
  unfold execWalkReadResponse
  rw [h.found]
  dsimp only
  rw [hbad, hmio]

/-- The fault that a walk holds after another state's frame is the one of the state before it. -/
theorem walkFault_after {s u : State} {v : Walk} {r : Req} (h : OneWalk s v r) (hcanon : Canon u) (hxl : u.xl = s.xl) (himg : u.img = s.img)
    (hchans : u.chans = s.chans) {kind : Nat} (hkind : (kind == 1) = false) (e : W64) :
    (walkFault u v kind e).xl.walks = [heldFault s v r kind e] ∧ SetsLost s (walkFault u v kind e) r.ch := by
  obtain ⟨hwalks, hlost⟩ := walkFault_result (h.of_frame hcanon hxl) hkind e
  have hheld : heldFault u v r kind e = heldFault s v r kind e := by
    have hcfg : chanCfg u r.ch = chanCfg s r.ch := by rw [chanCfg, chanCfg, im, im, himg]
    rw [heldFault, heldFault, hcfg]
  refine ⟨hheld ▸ hwalks, fun d => ?_⟩
  rw [hlost d, stream_of_chans hchans]

/-- The fault of kind 5 for an answer that has no entry, and for none. -/
theorem exec_walk_failed {s : State} {v : Walk} {r : Req} (h : OneWalk s v r) :
    (∀ a : WalkAns, (∀ w, a ≠ .okay w) → ∃ t, exec (.walkReadResponse v.id a) s = .next t ∧ t.xl.walks = [heldFault s v r 5 0]
      ∧ SetsLost s t r.ch)
    ∧ ∃ t, exec (.walkReadTimeout v.id) s = .next t ∧ t.xl.walks = [heldFault s v r 5 0] ∧ SetsLost s t r.ch := by
  have hwait := h.found
  have herror : ∀ resp, (walkFault (errEvent (ownDone s (.walk v.id)) (.ext (entryAddr v)) 0 resp) v 5 0).xl.walks = [heldFault s v r 5 0]
      ∧ SetsLost s (walkFault (errEvent (ownDone s (.walk v.id)) (.ext (entryAddr v)) 0 resp) v 5 0) r.ch := by
    intro resp
    have hdone := oneWalk_ownDone h (.walk v.id)
    refine walkFault_after h (errEvent_canon _ _ _ _ hdone.canon) ?_ ?_ ?_ rfl 0
    · exact (raise_xl _ _ _ _ _).trans (ownDone_xl _ _)
    · exact (raise_img _ _ _ _ _).trans (ownDone_img _ _)
    · exact (raise_chans _ _ _ _ _).trans (ownDone_chans _ _)
  have hrun : ∀ (a : WalkAns) (resp : Nat), execWalkReadResponse v.id a s
        = .next (walkFault (errEvent (ownDone s (.walk v.id)) (.ext (entryAddr v)) 0 resp) v 5 0) →
      ∃ t, exec (.walkReadResponse v.id a) s = .next t ∧ t.xl.walks = [heldFault s v r 5 0] ∧ SetsLost s t r.ch :=
    fun a resp heq => ⟨_, heq, herror resp⟩
  refine ⟨fun a ha => ?_, ?_⟩
  · cases a with
    | okay e => exact absurd rfl (ha e)
    | poison => exact hrun _ 1 (by rw [execWalkReadResponse, hwait])
    | error => exact hrun _ 2 (by rw [execWalkReadResponse, hwait])
    | world => exact hrun _ 3 (by rw [execWalkReadResponse, hwait])
  · refine ⟨walkFault (ownDead s (.walk v.id) true) v 5 0, ?_, walkFault_after h (ownDead_canon _ _ _ h.canon) rfl rfl rfl rfl 0⟩
    show execWalkReadTimeout v.id s = _
    rw [execWalkReadTimeout, hwait]

/-- What an entry leads to: a leaf, the next level or a fault (R244 to R247). -/
theorem exec_walk_entry {s : State} {v : Walk} {r : Req} (h : OneWalk s v r) (e : W64) :
    (bitOf e 0 = false → ∃ t, exec (.walkReadResponse v.id (.okay e)) s = .next t ∧ t.xl.walks = [heldFault s v r 2 e] ∧ SetsLost s t r.ch)
    ∧ (bitOf e 0 = true → badEntry s v.level e = true →
      ∃ t, exec (.walkReadResponse v.id (.okay e)) s = .next t ∧ t.xl.walks = [heldFault s v r 4 e] ∧ SetsLost s t r.ch)
    ∧ (bitOf e 0 = true → badEntry s v.level e = false → bitOf e 1 = true → r.write = true → (entryLeaf v.level e).w = false →
      ∃ t, exec (.walkReadResponse v.id (.okay e)) s = .next t ∧ t.xl.walks = [heldFault s v r 3 e] ∧ SetsLost s t r.ch)
    ∧ (bitOf e 0 = true → badEntry s v.level e = false → bitOf e 1 = true → (r.write = false ∨ (entryLeaf v.level e).w = true) →
      ∃ t, exec (.walkReadResponse v.id (.okay e)) s = .next t ∧ t.xl.walks = []
        ∧ TlbEnt.mk v.half v.asid (pageBase v.level (v.va / 2 ^ 25)) (entryLeaf v.level e) ∈ t.xl.tlb
        ∧ ∀ x, stream s r.ch = some x → x.tiles = [] → stream t r.ch = some { x with
            pre := x.pre.filter (fun y => y.region != v.va / 2 ^ 25) ++ [⟨v.va / 2 ^ 25, entryLeaf v.level e⟩] })
    ∧ (bitOf e 0 = true → badEntry s v.level e = false → bitOf e 1 = false → inMiozer s (fld e 8 44 * 256) = false →
      let w := { v with level := v.level + 1, table := fld e 8 44 * 256 }
      powered s (44 + memPortOf s (entryAddr w) / 2) = true → memFenced s (memPortOf s (entryAddr w)) (chanCfg s r.ch).mover = false →
      ∃ t id, exec (.walkReadResponse v.id (.okay e)) s = .next t ∧ t.xl.walks = [w] ∧ t.chans = s.chans
        ∧ t.out = s.out ++ [.walk v.id (memPortOf s (entryAddr w)) (chanCfg s r.ch).mover 1 (entryAddr w) (!ctxSecure s v.ctx) true 1 id]) := by
  have hdone := oneWalk_ownDone h (.walk v.id)
  have himg := ownDone_img s (.walk v.id)
  have hfault : ∀ (kind : Nat), (kind == 1) = false → (walkFault (ownDone s (.walk v.id)) v kind e).xl.walks = [heldFault s v r kind e]
      ∧ SetsLost s (walkFault (ownDone s (.walk v.id)) v kind e) r.ch :=
    fun kind hkind => walkFault_after h hdone.canon (ownDone_xl _ _) himg (ownDone_chans _ _) hkind e
  have hrun := exec_walk_okay h e
  refine ⟨fun hv => ?_, fun hv hb => ?_, fun hv hb hl hwrite hw => ?_, fun hv hb hl hok => ?_, fun hv hb hl hm => ?_⟩
  · rw [hrun, hv]
    exact ⟨_, rfl, hfault 2 rfl⟩
  · rw [hrun, hv, hb]
    exact ⟨_, rfl, hfault 4 rfl⟩
  · rw [hrun, hv, hb, hl]
    refine ⟨_, rfl, ?_⟩
    obtain ⟨hwalks, hlost⟩ := walkLeaf_denied hdone hwrite hw
    have hcfg : chanCfg (ownDone s (.walk v.id)) r.ch = chanCfg s r.ch := by rw [chanCfg, chanCfg, im, im, himg]
    rw [heldFault, hcfg] at hwalks
    exact ⟨hwalks, fun d => (hlost d).trans (by rw [stream_of_chans (ownDone_chans _ _)])⟩
  · rw [hrun, hv, hb, hl]
    obtain ⟨hwalks, htlb, hpre⟩ := walkLeaf_found hdone hok
    exact ⟨_, rfl, hwalks, htlb, fun x hx => hpre x ((stream_of_chans (ownDone_chans _ _) _).trans hx)⟩
  · intro w hpow hfence
    rw [hrun, hv, hb, hl, hm]
    have hframe := ownDone_frame s (.walk v.id)
    have hport : memPortOf (ownDone s (.walk v.id)) (entryAddr w) = memPortOf s (entryAddr w) := by rw [hframe]; rfl
    have hcfg : chanCfg (ownDone s (.walk v.id)) r.ch = chanCfg s r.ch := by rw [hframe]; rfl
    have hworld : ctxSecure (ownDone s (.walk v.id)) v.ctx = ctxSecure s v.ctx := by rw [hframe]; rfl
    have hout : (ownDone s (.walk v.id)).out = s.out := by rw [hframe]
    obtain ⟨id, hwalks, hchans, hsent⟩ := walkRead_sent hdone (w := w) rfl
      (by rw [hport, hframe]; exact hpow) (by rw [hport, hcfg, hframe]; exact hfence)
    rw [hport, hcfg, hworld, hout] at hsent
    exact ⟨_, id, rfl, hwalks, hchans.trans (ownDone_chans _ _), hsent⟩

end Sys2Proof.Proofs
end

section
/-! Fault records: they are written, and their acknowledgement switches contexts out (R254, R255). -/

namespace Sys2Proof.Proofs

open Sys2Proof Sys2Proof.Machine Sys2Proof.Laws

/-! ### Steps through all contexts -/

theorem ctx_foldl {step : State → Nat → State} {g : Nat → Ctx → Ctx} (hcanon : ∀ s c, Canon s → Canon (step s c))
    (hstep : ∀ s c d, Canon s → ctx (step s c) d = if d = c then g c (ctx s c) else ctx s d) {l : List Nat} (hl : l.Nodup) {s : State}
    (hs : Canon s) (d : Nat) : ctx (l.foldl step s) d = if d ∈ l then g d (ctx s d) else ctx s d := by
  induction l generalizing s with
  | nil => exact (if_neg List.not_mem_nil).symm
  | cons c l ih =>
    obtain ⟨hnot, hl⟩ := List.nodup_cons.1 hl
    rw [List.foldl_cons, ih hl (hcanon s c hs), hstep s c d hs]
    by_cases hd : d = c
    · rw [if_neg (hd ▸ hnot), if_pos hd, if_pos (List.mem_cons.2 (Or.inl hd)), hd]
    · simp only [List.mem_cons, hd, false_or, if_false]

/-- A step through all contexts has treated each of them. -/
theorem ctx_foldl_range {step : State → Nat → State} {g : Nat → Ctx → Ctx} (hcanon : ∀ s c, Canon s → Canon (step s c))
    (hstep : ∀ s c d, Canon s → ctx (step s c) d = if d = c then g c (ctx s c) else ctx s d) {s : State} (hs : Canon s) {n c : Nat}
    (hc : c < n) : ctx ((List.range n).foldl step s) c = g c (ctx s c) :=
  (ctx_foldl hcanon hstep List.nodup_range hs c).trans (if_pos (List.mem_range.2 hc))

/-! ### The record goes to its ring (R255) -/

/-- The record's way to its ring leaves the walks, contexts and outputs. -/
def OnlyStored (s t : State) : Prop := t = { s with stage := t.stage, aon := t.aon, fresh := t.fresh, path := t.path, ports := t.ports }

theorem OnlyStored.trans {s t u : State} (h : OnlyStored s t) (k : OnlyStored t u) : OnlyStored s u := by
  unfold OnlyStored at h k ⊢
  rw [h] at k
  exact k

theorem onlyStored_of_onlyStage {s t : State} (h : OnlyStage s t) : OnlyStored s t := by
  unfold OnlyStored
  rw [h]

theorem onlyStored_frecStore (s : State) (pa : Nat) (ns : Bool) (seq : BitVec 16) (d : BitVec 512) : OnlyStored s (frecStore s pa ns seq d) := by
  have herror : OnlyStored s (errEvent s (.hole pa) 1 2) :=
    .trans (t := setMp s (memPortOf s pa) _) rfl (onlyStored_of_onlyStage (onlyAon_raise _ _ _ _ _).onlyStage)
  unfold frecStore
  split
  · split
    · exact onlyStored_of_onlyStage (onlyAon_notice _ _ _ _ _ _).onlyStage
    · exact onlyStored_of_onlyStage (.trans (t := bump s) rfl (onlyStage_stageWriteEcc _ _ _ _ _ _))
  · rfl
  · exact herror

/-- A record in stage memory lies there byte for byte. -/
theorem frecStore_bytes {s : State} (hs : Canon s) {pa o : Nat} {ns : Bool} (seq : BitVec 16) (d : BitVec 512) (hloc : locOf s pa = .stage o)
    (halign : o % 64 = 0) (hworld : ns = false ∨ stageSecure s o = false) (hpool : (poolOf s (o / 128 * 128)).isSome = true) {j : Nat}
    (hj : j < 64) : memByte (frecStore s pa ns seq d).stage.mem (o + j) = BitVec.extractLsb' (8 * j) 8 d := by
  have hpass : (ns && stageSecure s o) = false := by
    cases hworld with
    | inl h => rw [h, Bool.false_and]
    | inr h => rw [h, Bool.and_false]
  have hnone : (poolOf (bump s) (o / 128 * 128)).isNone = false := by
    rw [← Option.not_isSome]
    exact congrArg (!·) hpool
  have hstore : frecStore s pa ns seq d = stageWrite s (o / 128 * 128) (BitVec.ofNat 1024 (d.toNat * 2 ^ (8 * (o % 128))))
      (BitVec.ofNat 128 ((2 ^ 64 - 1) * 2 ^ (o % 128))) 0 := by
    rw [frecStore, hloc]
    exact if_neg (by rw [hpass]; decide)
  have hen : (BitVec.ofNat 128 ((2 ^ 64 - 1) * 2 ^ (o % 128))).getLsbD (o % 128 + j) = true := by
    rw [getLsbD_runMask (by omega)]
    exact decide_eq_true ⟨by omega, by omega⟩
  have hwf : Memory.wf (bump s).stage.mem = true := hs.mem
  have hbyte := memByte_memWrite_same (o / 128 * 128) (BitVec.ofNat 1024 (d.toNat * 2 ^ (8 * (o % 128))))
    (BitVec.ofNat 128 ((2 ^ 64 - 1) * 2 ^ (o % 128))) 128 (o % 128 + j) hwf (by omega) hen
  rw [hstore, stageWrite, stageWriteEcc_mem hnone, show o + j = o / 128 * 128 + (o % 128 + j) by omega]
  refine hbyte.trans ((lineByte_shifted d.toNat (by omega)).trans ?_)
  rw [BitVec.extractLsb', Nat.shiftRight_eq_div_pow]

/-! ### FAULT_RECORD_WRITE -/

/-- Where the next record goes. -/
def frecAddr (s : State) : Nat := 4096 * s.xl.fqBase.toNat + 64 * s.xl.fqTail.toNat

/-- The state in which the record of a held fault has gone to its ring. -/
def frecSent (s : State) (v : Walk) (f : FRec) : State :=
  frecStore (emit s (.frec (frecAddr s) (!domSecure s 56) (frecData s v f))) (frecAddr s) (!domSecure s 56) s.xl.fseq (frecData s v f)

/-- Its walk waits for the acknowledgement, and the ring's TAIL and SEQ have advanced from `tail` and `seq`. -/
def frecHeld (u : State) (v : Walk) (f : FRec) (tail : Nat) (seq : BitVec 16) : State :=
  let k := (tail + 1) % 2 ^ u.xl.fqLog2n
  let w := modWalk { u with xl := { u.xl with
    fqTail := BitVec.ofNat 10 k, fqPhase := if k = 0 then !u.xl.fqPhase else u.xl.fqPhase, fseq := seq + 1 } }
    v.id fun w => { w with st := .writing, held := some { f with seq := seq } }
  setHalf w v.half { half w v.half with faults := (half w v.half).faults + 1 }

/-- The contexts that a record names keep its SEQ. -/
def seqKept (mask : BitVec 64) (seq : BitVec 16) (s : State) (c : Nat) : State :=
  if mask.getLsbD c then setCtx s c { ctx s c with lastSeq := seq } else s

theorem ctx_seqKept (mask : BitVec 64) (seq : BitVec 16) (s : State) (c d : Nat) (hs : Canon s) :
    ctx (seqKept mask seq s c) d =
      if d = c then (if mask.getLsbD c then { ctx s c with lastSeq := seq } else ctx s c) else ctx s d := by
  unfold seqKept
  by_cases hc : mask.getLsbD c = true
  · rw [if_pos hc, if_pos hc]
    by_cases hd : d = c
    · rw [if_pos hd, hd, ctx_setCtx_self hs]
    · rw [if_neg hd, ctx_setCtx_other hs _ _ hd]
  · rw [if_neg hc, if_neg hc]
    by_cases hd : d = c
    · rw [if_pos hd, hd]
    · rw [if_neg hd]

theorem seqKept_canon (mask : BitVec 64) (seq : BitVec 16) (s : State) (c : Nat) (hs : Canon s) : Canon (seqKept mask seq s c) := by
  unfold seqKept
  split
  · exact setCtx_canon _ _ _ hs
  · exact hs

theorem seqKept_frame (mask : BitVec 64) (seq : BitVec 16) (s : State) (l : List Nat) :
    l.foldl (seqKept mask seq) s = { s with ctxs := (l.foldl (seqKept mask seq) s).ctxs } := by
  induction l generalizing s with
  | nil => rfl
  | cons c l ih =>
    have hone : seqKept mask seq s c = { s with ctxs := (seqKept mask seq s c).ctxs } := by
      unfold seqKept
      split <;> rfl
    rw [List.foldl_cons, ih, hone]

section
variable {s : State} {v : Walk} {f : FRec} (hs : Canon s) (hwalks : s.xl.walks = [v]) (hst : v.st = .holding) (hheld : v.held = some f)
include hwalks hst hheld

theorem exec_frec_waits (hwait : s.xl.fqEn = false ∨ fqFull s = true) : exec (.faultRecordWrite v.id) s = .next s := by
  have hfind : (s.xl.walks.find? fun w => w.id == v.id && w.st == .holding) = some v := by simp [hwalks, hst]
  show execFaultRecordWrite v.id s = _
  rw [execFaultRecordWrite, hfind]
  dsimp only
  rw [hheld]
  refine if_pos ?_
  cases hwait with
  | inl h => simp [h]
  | inr h => simp [h]

theorem exec_frec_written (hen : s.xl.fqEn = true) (hroom : fqFull s = false) (hop : operating s = true) (hadv : v.advice = false)
    (hgate : anyGate s [locOf s (frecAddr s)] = false) :
    exec (.faultRecordWrite v.id) s
      = .next (startQueued 64 ((List.range 64).foldl (seqKept f.mask s.xl.fseq) (frecHeld (frecSent s v f) v f s.xl.fqTail.toNat s.xl.fseq)) v.half) := by
  have hfind : (s.xl.walks.find? fun w => w.id == v.id && w.st == .holding) = some v := by simp [hwalks, hst]
  show execFaultRecordWrite v.id s = _
  rw [execFaultRecordWrite, hfind]
  dsimp only
  rw [hheld]
  refine (if_neg ?_).trans ((if_neg (by rw [hadv]; decide)).trans ?_)
  · rw [hen, hroom, hop, show 4096 * s.xl.fqBase.toNat + 64 * s.xl.fqTail.toNat = frecAddr s from rfl, hgate]
    decide
  · rfl

include hs

/-- A record that is written: its output, its bytes, its walk, the ring's TAIL and the contexts that it names. -/
theorem frec_written (hen : s.xl.fqEn = true) (hroom : fqFull s = false) (hop : operating s = true) (hadv : v.advice = false)
    (hgate : anyGate s [locOf s (frecAddr s)] = false) :
    let k := (s.xl.fqTail.toNat + 1) % 2 ^ s.xl.fqLog2n
    ∃ t d, exec (.faultRecordWrite v.id) s = .next t ∧ t.out = s.out ++ [.frec (frecAddr s) (!domSecure s 56) d]
      ∧ (∀ o, locOf s (frecAddr s) = .stage o → o % 64 = 0 → (domSecure s 56 = true ∨ stageSecure s o = false) →
          (poolOf s (o / 128 * 128)).isSome = true → ∀ j < 64, memByte t.stage.mem (o + j) = BitVec.extractLsb' (8 * j) 8 d)
      ∧ t.xl.walks = [{ v with st := .writing, held := some { f with seq := s.xl.fseq } }] ∧ t.xl.fqTail = BitVec.ofNat 10 k
      ∧ t.xl.fqPhase = (if k = 0 then !s.xl.fqPhase else s.xl.fqPhase) ∧ t.xl.fseq = s.xl.fseq + 1
      ∧ ∀ c < 64, ctx t c = if f.mask.getLsbD c then { ctx s c with lastSeq := s.xl.fseq } else ctx s c := by
  intro k
  let d := frecData s v f
  let sent := emit s (.frec (frecAddr s) (!domSecure s 56) d)
  have hsent : Canon sent := { hs with }
  have hstored : OnlyStored sent (frecSent s v f) := onlyStored_frecStore _ _ _ _ _
  have hxl : (frecSent s v f).xl = s.xl := (congrArg State.xl hstored :)
  have hcanon : Canon (frecSent s v f) := frecStore_canon _ _ _ _ _ hsent
  let u := frecHeld (frecSent s v f) v f s.xl.fqTail.toNat s.xl.fseq
  have hu : Canon u := setHalf_canon _ _ _ (modWalk_canon _ _ _ { hcanon with })
  have hframe := seqKept_frame f.mask s.xl.fseq u (List.range 64)
  have huwalks : u.xl.walks = [{ v with st := .writing, held := some { f with seq := s.xl.fseq } }] := by
    have hmap : (frecSent s v f).xl.walks.map (fun w => if w.id == v.id
        then { w with st := WalkSt.writing, held := some { f with seq := s.xl.fseq } } else w)
        = [{ v with st := .writing, held := some { f with seq := s.xl.fseq } }] := by simp [hxl, hwalks]
    exact hmap
  have hidle : startQueued 64 ((List.range 64).foldl (seqKept f.mask s.xl.fseq) u) v.half = (List.range 64).foldl (seqKept f.mask s.xl.fseq) u := by
    refine startQueued_idle (fun w hw => ?_) 64 v.half
    rw [hframe, huwalks, List.mem_singleton] at hw
    rw [hw]
    exact fun hq => WalkSt.noConfusion hq
  refine ⟨(List.range 64).foldl (seqKept f.mask s.xl.fseq) u, d,
    (exec_frec_written hwalks hst hheld hen hroom hop hadv hgate).trans (congrArg Host.Outcome.next hidle), ?_⟩
  have hout : u.out = sent.out := (congrArg State.out hstored :)
  have hctxs : ∀ c, ctx u c = ctx s c := fun c => congrArg (fun m => tget ctxDflt m c) (congrArg State.ctxs hstored :)
  have hxlt := congrArg State.xl hframe
  have hk : (s.xl.fqTail.toNat + 1) % 2 ^ (frecSent s v f).xl.fqLog2n = k := by rw [hxl]
  refine ⟨(congrArg State.out hframe).trans hout, fun o hloc halign hworld hpool j hj => ?_, (congrArg Xl.walks hxlt).trans huwalks,
    (congrArg Xl.fqTail hxlt).trans (congrArg (BitVec.ofNat 10) hk), (congrArg Xl.fqPhase hxlt).trans ?_, congrArg Xl.fseq hxlt, fun c hc => ?_⟩
  · have hns : (!domSecure s 56) = false ∨ stageSecure sent o = false := hworld.imp_left fun h => by rw [h]; rfl
    refine (congrArg (fun m => memByte m (o + j)) (congrArg (fun w => w.stage.mem) hframe)).trans
      (frecStore_bytes hsent s.xl.fseq d hloc halign hns hpool hj)
  · show (if (s.xl.fqTail.toNat + 1) % 2 ^ (frecSent s v f).xl.fqLog2n = 0 then !(frecSent s v f).xl.fqPhase else (frecSent s v f).xl.fqPhase) = _
    rw [hxl]
  · refine (ctx_foldl_range (g := fun c x => if f.mask.getLsbD c then { x with lastSeq := s.xl.fseq } else x)
      (fun s c hs => seqKept_canon _ _ s c hs) (fun s c d hs => ctx_seqKept _ _ s c d hs) hu hc).trans ?_
    rw [hctxs]

end

/-! ### FAULT_RECORD_ACK: contexts are switched out -/

/-- A stream without the translations that it holds before its pre-walk (R252, R253). -/
def bareStream (x : Stream) : Stream :=
  { x with pre := [], tiles := x.tiles.map fun u => if u.walked then u else { u with xset := [] } }

/-- A channel but for the translations of its stream. -/
def bareChan (k : Chan) : Chan := { k with stream := k.stream.map bareStream }

theorem bareStream_idem (x : Stream) : bareStream (bareStream x) = bareStream x := by
  have hmap : (x.tiles.map fun u => if u.walked then u else { u with xset := [] }).map (fun u => if u.walked then u else { u with xset := [] })
      = x.tiles.map fun u => if u.walked then u else { u with xset := [] } := by
    rw [List.map_map]
    refine List.map_congr_left fun u _ => ?_
    by_cases hw : u.walked = true
    · simp [hw]
    · simp [hw]
  simp only [bareStream, hmap]

/-- Channels of contexts have forgotten translations; nothing else of the channels has changed. -/
structure OnlyForgets (s t : State) : Prop where
  canon : Canon s → Canon t
  frame : t = { s with chans := t.chans, xl := t.xl }
  bare : Canon s → ∀ d, bareChan (chan t d) = bareChan (chan s d)

theorem OnlyForgets.refl (s : State) : OnlyForgets s s := ⟨id, rfl, fun _ _ => rfl⟩

theorem OnlyForgets.trans {s t u : State} (h : OnlyForgets s t) (k : OnlyForgets t u) : OnlyForgets s u := by
  refine ⟨fun hs => k.canon (h.canon hs), ?_, fun hs d => (k.bare (h.canon hs) d).trans (h.bare hs d)⟩
  have hframe := k.frame
  rw [h.frame] at hframe
  exact hframe

theorem bareChan_of_stream {k : Chan} {x : Stream} (h : k.stream = some x) : bareChan { k with stream := some (bareStream x) } = bareChan k := by
  simp only [bareChan, h, Option.map_some, bareStream_idem]

theorem onlyForgets_modStream (s : State) (c : Nat) : OnlyForgets s (modStream s c bareStream) := by
  cases hx : stream s c with
  | none =>
    rw [show modStream s c bareStream = s by rw [modStream, hx]]
    exact .refl s
  | some x =>
    refine ⟨fun hs => modStream_canon _ _ _ hs, by rw [modStream_of_stream hx]; rfl, fun hs d => ?_⟩
    by_cases hd : d = c
    · rw [hd, modStream_of_stream hx, setStream, chan_setChan_self hs]
      exact bareChan_of_stream hx
    · rw [chan_modStream_other hs hd]

theorem onlyForgets_forgetWalks (s : State) (x : Nat) : OnlyForgets s (forgetWalks s x) := by
  have hfold : ∀ (l : List Nat) (t : State), OnlyForgets t (l.foldl (fun s c => modStream s c bareStream) t) := by
    intro l
    induction l with
    | nil => exact .refl
    | cons c l ih => exact fun t => (onlyForgets_modStream t c).trans (ih _)
  have hwalks : OnlyForgets s (setWalks s (s.xl.walks.map fun w => if w.advice then w else
      { w with reqs := w.reqs.filter fun r => r.warm || (chanCfg s r.ch).ctx != x })) := ⟨fun hs => { hs with }, rfl, fun _ _ => rfl⟩
  exact hwalks.trans (hfold (ctxChans s x) _)

theorem xl_forgetWalks {s : State} (h : s.xl.walks = []) (x : Nat) : (forgetWalks s x).xl = s.xl := by
  have hfold : ∀ (l : List Nat) (t : State), (l.foldl (fun s c => modStream s c bareStream) t).xl = t.xl :=
    foldl_keeps State.xl fun _ _ => xl_modStream _ _ _
  refine (hfold (ctxChans s x) _).trans ?_
  rw [h, List.map_nil, ← h]

/-- The contexts of a mask start to switch out with CAUSE 2. -/
def switchOf (mask : BitVec 64) (s : State) (c : Nat) : State := if mask.getLsbD c then ctxSwitch s c 2 else s

/-- A switch-out of contexts changes their state, and what their channels hold of translations. -/
structure OnlySwitches (s t : State) : Prop where
  canon : Canon t
  frame : t = { s with ctxs := t.ctxs, chans := t.chans }
  bare : ∀ d, bareChan (chan t d) = bareChan (chan s d)

theorem OnlySwitches.trans {s t u : State} (h : OnlySwitches s t) (k : OnlySwitches t u) : OnlySwitches s u := by
  refine ⟨k.canon, ?_, fun d => (k.bare d).trans (h.bare d)⟩
  have hframe := k.frame
  rw [h.frame] at hframe
  exact hframe

theorem ctxSwitch_of_run {s : State} {x : Nat} (h : ((ctx s x).st == .run) = true) (cause : Nat) :
    ctxSwitch s x cause = setCtx (forgetWalks s x) x { ctx s x with st := .switching, cause := cause } := if_pos h

theorem ctxSwitch_of_not_run {s : State} {x : Nat} (h : ¬ ((ctx s x).st == .run) = true) (cause : Nat) : ctxSwitch s x cause = s := if_neg h

theorem onlySwitches_ctxSwitch {s : State} (hs : Canon s) (hnone : s.xl.walks = []) (x cause : Nat) : OnlySwitches s (ctxSwitch s x cause) := by
  by_cases hrun : ((ctx s x).st == .run) = true
  · have h := onlyForgets_forgetWalks s x
    have hframe : ∀ (c : Tbl Chan) (u : State) (k : Ctx), u = { s with chans := c } →
        setCtx u x k = { s with ctxs := (setCtx u x k).ctxs, chans := (setCtx u x k).chans } := by
      intro c u k hu
      rw [hu]
      rfl
    rw [ctxSwitch_of_run hrun]
    exact ⟨setCtx_canon _ _ _ (h.canon hs), hframe _ _ _ (h.frame.trans (by rw [xl_forgetWalks hnone])), h.bare hs⟩
  · rw [ctxSwitch_of_not_run hrun]
    exact ⟨hs, rfl, fun _ => rfl⟩

theorem ctx_ctxSwitch {s : State} (hs : Canon s) (x cause d : Nat) : ctx (ctxSwitch s x cause) d =
    if d = x then (if (ctx s x).st == .run then { ctx s x with st := .switching, cause := cause } else ctx s x) else ctx s d := by
  have h := onlyForgets_forgetWalks s x
  have hctx : ∀ c, ctx (forgetWalks s x) c = ctx s c := fun c => by rw [h.frame]; rfl
  by_cases hrun : ((ctx s x).st == .run) = true
  · rw [ctxSwitch_of_run hrun, if_pos hrun]
    by_cases hd : d = x
    · rw [if_pos hd, hd, ctx_setCtx_self (h.canon hs)]
    · rw [if_neg hd, ctx_setCtx_other (h.canon hs) _ _ hd, hctx]
  · rw [ctxSwitch_of_not_run hrun, if_neg hrun]
    by_cases hd : d = x
    · rw [if_pos hd, hd]
    · rw [if_neg hd]

theorem ctx_switchOf (mask : BitVec 64) (s : State) (c d : Nat) (hs : Canon s) : ctx (switchOf mask s c) d =
    if d = c then (if mask.getLsbD c && (ctx s c).st == .run then { ctx s c with st := .switching, cause := 2 } else ctx s c) else ctx s d := by
  unfold switchOf
  by_cases hc : mask.getLsbD c = true
  · rw [if_pos hc, ctx_ctxSwitch hs, hc, Bool.true_and]
  · rw [if_neg hc, Bool.eq_false_of_not_eq_true hc, Bool.false_and, if_neg Bool.false_ne_true]
    by_cases hd : d = c
    · rw [if_pos hd, hd]
    · rw [if_neg hd]

theorem switchOf_canon (mask : BitVec 64) (s : State) (c : Nat) (hs : Canon s) : Canon (switchOf mask s c) := by
  unfold switchOf
  split
  · exact ctxSwitch_canon _ _ _ hs
  · exact hs

theorem onlySwitches_foldl (mask : BitVec 64) (l : List Nat) {s : State} (hs : Canon s) (hnone : s.xl.walks = []) :
    OnlySwitches s (l.foldl (switchOf mask) s) := by
  induction l generalizing s with
  | nil => exact ⟨hs, rfl, fun _ => rfl⟩
  | cons c l ih =>
    have hone : OnlySwitches s (switchOf mask s c) := by
      unfold switchOf
      split
      · exact onlySwitches_ctxSwitch hs hnone c 2
      · exact ⟨hs, rfl, fun _ => rfl⟩
    have hrest := ih hone.canon (by rw [hone.frame]; exact hnone)
    exact hone.trans hrest

/-- The acknowledgement of a record ends its walk and switches the contexts of CTXMASK out (R254). -/
theorem frec_acknowledged {s : State} {v : Walk} {f : FRec} (hs : Canon s) (hwalks : s.xl.walks = [v]) (hst : v.st = .writing)
    (hheld : v.held = some f) :
    ∃ t, exec (.faultRecordAck f.seq) s = .next t
      ∧ t = { ownDone s (.frec f.seq) with ctxs := t.ctxs, chans := t.chans, xl := { s.xl with walks := [] } }
      ∧ (∀ d, bareChan (chan t d) = bareChan (chan s d))
      ∧ ∀ c < 64, ctx t c = if f.mask.getLsbD c && (ctx s c).st == .run then { ctx s c with st := .switching, cause := 2 } else ctx s c := by
  have hxl := ownDone_xl s (.frec f.seq)
  let u := setWalks (ownDone s (.frec f.seq)) []
  have hu : Canon u := setWalks_canon _ _ (ownDone_canon _ _ hs)
  have hgone : (ownDone s (.frec f.seq)).xl.walks.filter (fun w => w.id != v.id) = [] := by simp [hxl, hwalks]
  have hsw := onlySwitches_foldl f.mask (List.range 64) hu rfl
  refine ⟨(List.range 64).foldl (switchOf f.mask) u, ?_, ?_, fun d => (hsw.bare d).trans ?_, fun c hc => ?_⟩
  · show execFaultRecordAck f.seq s = _
    unfold execFaultRecordAck
    simp only [hxl, hwalks, List.find?_cons, hst, hheld, beq_self_eq_true, Bool.and_self]
    rw [← hwalks, ← hxl, hgone]
    rfl
  · refine hsw.frame.trans ?_
    rw [← hxl]
    rfl
  · exact congrArg bareChan (chan_of_chans (ownDone_chans s (.frec f.seq)) d)
  · have hctx : ctx u c = ctx s c := congrArg (fun m => tget ctxDflt m c) (by rw [ownDone_frame] : (ownDone s (.frec f.seq)).ctxs = s.ctxs)
    refine (ctx_foldl_range (g := fun c x => if f.mask.getLsbD c && x.st == .run then { x with st := .switching, cause := 2 } else x)
      (fun s c hs => switchOf_canon _ s c hs) (fun s c d hs => ctx_switchOf _ s c d hs) hu hc).trans ?_
    rw [hctx]

/-- Settles O42: by what the walk's answer says (`exec_walk_entry`), by the way of the record to its ring (`frec_written`) and by the
contexts that its acknowledgement switches out (`frec_acknowledged`). -/
theorem walksAndFaultRecords : Obligations.WalksAndFaultRecords := by
  unfold Obligations.WalksAndFaultRecords
  refine ⟨fun s v r e hs hwalks hst hadv hreqs hwarm => ?_, fun s v f hs hwalks hst hheld => ⟨fun hwait => ?_, fun hen hroom hop hadv hgate => ?_⟩,
    fun s v f hs hwalks hst hheld => frec_acknowledged hs hwalks hst hheld⟩
  · have h : OneWalk s v r := ⟨hs, hwalks, hst, hadv, hreqs, hwarm⟩
    obtain ⟨hinvalid, hbad, hdenied, hleaf, hnext⟩ := exec_walk_entry h e
    exact ⟨hinvalid, hbad, hdenied, hleaf, hnext, exec_walk_failed h⟩
  · exact exec_frec_waits hwalks hst hheld (hwait.imp_right beq_iff_eq.2)
  · exact frec_written hs hwalks hst hheld hen (beq_eq_false_iff_ne.2 hroom) hop hadv hgate

end Sys2Proof.Proofs
end

section
/-! Lines land, are acknowledged or fail (R23 to R25, R75, R192, R206, R207, R380). -/

namespace Sys2Proof.Proofs

open Sys2Proof Sys2Proof.Machine Sys2Proof.Laws

/-! ### A tile that fails (R75) -/

/-- A line of a tile of a data descriptor. -/
def TileLine (k : LineKind) (no att : Nat) : Prop := (∃ g r o, k = .read no att g r o) ∨ (∃ o a, k = .write no att o a)

/-- A tile whose error is transient is reissued while the descriptor has retries left, unless it has begun to accumulate; otherwise the
descriptor ends. -/
theorem tileFail_started {s : State} {c : Nat} {x : Stream} {t : Tile} (hx : stream s c = some x) (ht : x.tiles = [t]) (hst : x.st = .started)
    (e : LErr) (out : Nat × Nat) : tileFail s c t.no t.att e out =
      if e.transient = true ∧ retriesLeft x = true ∧ (!(dAcc x.desc && t.wrote)) = true then retryTile s c t.no out.1
      else endNow (spoilTile s c t.no) c out.1 out.2 := by
  have hfound : (x.tiles.find? fun u => u.no == t.no && u.att == t.att) = some t := by simp [ht]
  unfold tileFail
  rw [hx]
  dsimp only
  rw [hst]
  dsimp only
  rw [hfound]
  by_cases htrans : e.transient = true
  · rw [htrans, if_neg (by decide)]
    simp only [true_and]
  · rw [Bool.eq_false_of_not_eq_true htrans]
    simp

section
variable {s : State} {c : Nat} {x : Stream} {t : Tile} (hx : stream s c = some x) (ht : x.tiles = [t])
include hx ht

/-- The stream whose tile is reissued. -/
theorem stream_retryTile (code : Nat) : ∃ y, stream (retryTile s c t.no code) c = some y ∧ y.retries = x.retries + 1 ∧ y.trans = code
    ∧ y.st = x.st ∧ y.tiles.map (·.att) = [t.att + 1] := by
  unfold retryTile
  rw [hx]
  dsimp only
  refine ⟨_, (stream_of_chans (raise_chans _ _ _ _ _) c).trans (stream_setStream _ _ _), rfl, rfl, rfl, ?_⟩
  simp [ht]

end

theorem path_modStream (s : State) (c : Nat) (f : Stream → Stream) : (modStream s c f).path = s.path := by
  unfold modStream
  split <;> rfl

theorem path_retryTile (s : State) (c no code : Nat) : (retryTile s c no code).path = s.path := by
  unfold retryTile
  split
  · rfl
  · exact raise_path _ _ _ _ _

theorem path_endNow (s : State) (c code d : Nat) : (endNow s c code d).path = s.path := by
  rw [endNow, path_modStream, finish, path_modStream]

theorem stream_endNow {s : State} {c : Nat} {x : Stream} (hx : stream s c = some x) (code d : Nat) :
    stream (endNow s c code d) c = some { x with st := .done code d, wait := .none, tiles := x.tiles.filter tileDrained } := by
  rw [endNow, finish_of_stream hx, stream_modStream_self _ (stream_ended _ _ _ _ _)]

/-- A descriptor that a tile of its ends is done. -/
theorem stream_spoiled_end {s : State} {c : Nat} {x : Stream} (hx : stream s c = some x) (no code d : Nat) :
    ∃ y, stream (endNow (spoilTile s c no) c code d) c = some y ∧ y.st = .done code d :=
  ⟨_, stream_endNow (stream_modStream_self s hx _) code d, rfl⟩

/-! ### A line that fails (R204, R207) -/

/-- The state in which a failed line's tag is free. -/
def lineFreed (s : State) (l : Line) (e : LErr) : State := if e == .timeout then timeoutEvent (dropLine s l.id) l.ch else dropLine s l.id

theorem lineFreed_chans (s : State) (l : Line) (e : LErr) : (lineFreed s l e).chans = s.chans := by
  unfold lineFreed
  split
  · exact (raise_chans _ _ _ _ _).trans (dropLine_chans _ _)
  · exact dropLine_chans _ _

theorem lineFreed_path (s : State) (l : Line) (e : LErr) : (lineFreed s l e).path = (dropLine s l.id).path := by
  unfold lineFreed
  split
  · exact raise_path _ _ _ _ _
  · rfl

section
variable {s : State} {l : Line} {x : Stream} (hx : stream s l.ch = some x) (hseq : l.dseq = (chan s l.ch).seq)
include hx hseq

/-- A line of a tile of the present descriptor that fails makes its tile fail. -/
theorem lineFail_tile (hst : x.st = .started) {no att : Nat} (hk : TileLine l.kind no att) (e : LErr) :
    lineFail s l e = tileFail (lineFreed s l e) l.ch no att e (errOut l.kind e) := by
  have hchans := lineFreed_chans s l e
  have hx' : stream (lineFreed s l e) l.ch = some x := (stream_of_chans hchans _).trans hx
  have hseq' : ¬ (l.dseq != (chan (lineFreed s l e) l.ch).seq) = true := by simp [chan_of_chans hchans, hseq]
  obtain ⟨g, r, o, hk⟩ | ⟨o, a, hk⟩ := hk
  · unfold lineFail
    rw [hk]
    dsimp only
    rw [show (if e == .timeout then timeoutEvent (dropLine s l.id) l.ch else dropLine s l.id) = lineFreed s l e from rfl, hx']
    exact if_neg hseq'
  · unfold lineFail
    rw [hk]
    dsimp only
    rw [show (if e == .timeout then timeoutEvent (dropLine s l.id) l.ch else dropLine s l.id) = lineFreed s l e from rfl, hx']
    refine (if_neg hseq').trans ?_
    rw [hst]
    rfl

end

/-- What the failure of a line of the one tile of a stream leaves: its tag is free, and the stream is done or has one retry more. -/
structure TileFails (s u : State) (l : Line) (x : Stream) (t : Tile) (e : LErr) (y : Stream) : Prop where
  here : stream u l.ch = some y
  path : u.path = (dropLine s l.id).path
  ended : e.transient = false ∨ 3 ≤ x.spent + x.retries → y.st = .done (errOut l.kind e).1 (errOut l.kind e).2
  retried : e.transient = true → x.spent + x.retries < 3 → dAcc x.desc = false →
    y.st = .started ∧ y.retries = x.retries + 1 ∧ y.trans = (errOut l.kind e).1 ∧ y.tiles.map (·.att) = [t.att + 1]

theorem lineFail_result {s u : State} {l : Line} {x : Stream} {t : Tile} (hpath : u.path = s.path) (hchans : u.chans = s.chans)
    (hx : stream s l.ch = some x) (hseq : l.dseq = (chan s l.ch).seq) (hst : x.st = .started) (ht : x.tiles = [t])
    (hk : TileLine l.kind t.no t.att) (e : LErr) : ∃ y, TileFails s (lineFail u l e) l x t e y := by
  have hxu : stream u l.ch = some x := (stream_of_chans hchans _).trans hx
  have hx' : stream (lineFreed u l e) l.ch = some x := (stream_of_chans (lineFreed_chans u l e) _).trans hxu
  have hpath' : (lineFreed u l e).path = (dropLine s l.id).path := (lineFreed_path u l e).trans (path_dropLine hpath _)
  rw [lineFail_tile hxu (by rw [chan_of_chans hchans]; exact hseq) hst hk, tileFail_started hx' ht hst]
  by_cases hretry : e.transient = true ∧ retriesLeft x = true ∧ (!(dAcc x.desc && t.wrote)) = true
  · obtain ⟨htrans, hleft, _⟩ := id hretry
    have hlt : x.spent + x.retries < 3 := of_decide_eq_true hleft
    obtain ⟨y, hy, hretries, hcode, hyst, htiles⟩ := stream_retryTile hx' ht (errOut l.kind e).1
    rw [if_pos hretry]
    refine ⟨y, hy, (path_retryTile _ _ _ _).trans hpath', fun h => ?_, fun _ _ _ => ⟨hyst.trans hst, hretries, hcode, htiles⟩⟩
    cases h with
    | inl h => rw [htrans] at h; exact absurd h (by decide)
    | inr h => omega
  · obtain ⟨y, hy, hdone⟩ := stream_spoiled_end hx' t.no (errOut l.kind e).1 (errOut l.kind e).2
    rw [if_neg hretry]
    refine ⟨y, hy, ?_, fun _ => hdone, fun htrans hlt hacc => absurd ⟨htrans, decide_eq_true hlt, by rw [hacc]; rfl⟩ hretry⟩
    rw [path_endNow, spoilTile, path_modStream, hpath']

/-- An error response or a timeout of a line of a tile in external memory (R207). -/
theorem ext_line_fails {s : State} {x : Stream} {t : Tile} {l : Line} {pa : Nat} (hl : lineOf s l.id = some l) (hloc : l.loc = .ext pa)
    (hecho : l.echo = 0) (hleft : l.left = []) (hheld : heldAtCore s l = false) (hx : stream s l.ch = some x)
    (hseq : l.dseq = (chan s l.ch).seq) (hst : x.st = .started) (ht : x.tiles = [t]) (hk : TileLine l.kind t.no t.att) :
    (∀ r : ErrResp, ∃ u y, exec (.fabricErrorResponse l.id r) s = .next u ∧ TileFails s u l x t (respErr r).1 y)
    ∧ ∃ u y, exec (.lineTimeout l.id) s = .next u ∧ TileFails s u l x t .timeout y := by
  refine ⟨fun r => ?_, ?_⟩
  · have hanswer : noAnswer s l = false := by simp [noAnswer, hleft, hloc, hecho]
    obtain ⟨hpath, hchans⟩ := errEvent_ext s pa (lineOp l.kind) (respErr r).2
    obtain ⟨y, hy⟩ := lineFail_result hpath hchans hx hseq hst ht hk (respErr r).1
    refine ⟨_, y, ?_, hy⟩
    show execFabricErrorResponse l.id r s = _
    unfold execFabricErrorResponse
    rw [hl]
    dsimp only
    rw [hloc]
    dsimp only
    rw [hheld, hanswer, hecho]
    rfl
  · obtain ⟨hgp, hgc⟩ := lineGhost_frame s l
    obtain ⟨hup, huc⟩ := unhold_frame (lineGhost s l) l.id
    obtain ⟨y, hy⟩ := lineFail_result (hup.trans hgp) (huc.trans hgc) hx hseq hst ht hk .timeout
    refine ⟨_, y, ?_, hy⟩
    show execLineTimeout l.id s = _
    unfold execLineTimeout
    rw [hl]

/-! ### A late error of a write (R380) -/

/-- The record of a write that has timed out. -/
def timedOut (l : Line) : LateErr := ⟨l.gen, locClass l.loc, cTIMEOUT, 2⟩

theorem chan_addLate {s : State} (hs : Canon s) {l : Line} (hk : isWrite l.kind = true) (out : Nat × Nat) :
    chan (addLate s l out) l.ch = { chan s l.ch with late := (chan s l.ch).late ++ [⟨l.gen, locClass l.loc, out.1, out.2⟩] } := by
  rw [addLate, hk]
  exact chan_setChan_self hs _ _

theorem exec_lineTimeout {s : State} {l : Line} (hl : lineOf s l.id = some l) :
    exec (.lineTimeout l.id) s = .next (lineFail (unhold (lineGhost s l) l.id) l .timeout) := by
  show execLineTimeout l.id s = _
  unfold execLineTimeout
  rw [hl]

/-- A timed-out write of a descriptor that has completed is kept for the next. -/
theorem lateWrite_kept {s : State} {l : Line} (hs : Canon s) (hl : lineOf s l.id = some l) (hwrite : isWrite l.kind = true)
    (hrelay : ∀ p i, l.kind ≠ .inbound p i) (hseq : l.dseq ≠ (chan s l.ch).seq) :
    ∃ u, exec (.lineTimeout l.id) s = .next u ∧ (chan u l.ch).late = (chan s l.ch).late ++ [timedOut l] ∧ stream u l.ch = stream s l.ch := by
  let w := unhold (lineGhost s l) l.id
  have hchans : (lineFreed w l .timeout).chans = s.chans :=
    (lineFreed_chans w l .timeout).trans ((unhold_frame _ _).2.trans (lineGhost_frame s l).2)
  have hcanon : Canon (lineFreed w l .timeout) :=
    timeoutEvent_canon _ _ (dropLine_canon _ _ (unhold_canon _ _ (lineGhost_canon _ _ hs)))
  have hout : errOut l.kind .timeout = (cTIMEOUT, 2) := by rw [errOut, hwrite]; rfl
  have hfail : lineFail w l .timeout = addLate (lineFreed w l .timeout) l (cTIMEOUT, 2) := by
    have hne : (l.dseq != (chan (lineFreed w l .timeout) l.ch).seq) = true := by simp [chan_of_chans hchans, hseq]
    rw [← hout]
    unfold lineFail
    split
    · next p i hk => exact absurd hk (hrelay p i)
    · dsimp only
      rw [show (if LErr.timeout == .timeout then timeoutEvent (dropLine w l.id) l.ch else dropLine w l.id) = lineFreed w l .timeout from rfl]
      split
      · rfl
      · exact if_pos hne
  refine ⟨lineFail w l .timeout, exec_lineTimeout hl, ?_, ?_⟩
  · rw [hfail, chan_addLate hcanon hwrite, chan_of_chans hchans]
    rfl
  · rw [hfail, stream, chan_addLate hcanon hwrite, chan_of_chans hchans]
    rfl

/-- A timed-out write of a descriptor that has taken its last action is kept for the next, and the descriptor stays done. -/
theorem lateWrite_of_done {s : State} {l : Line} {x : Stream} {no att o code d : Nat} {acc : Bool} (hs : Canon s)
    (hl : lineOf s l.id = some l) (hk : l.kind = .write no att o acc) (hseq : l.dseq = (chan s l.ch).seq) (hx : stream s l.ch = some x)
    (hst : x.st = .done code d) (hwaits : waitsAcks x = false) :
    ∃ u y, exec (.lineTimeout l.id) s = .next u ∧ stream u l.ch = some y ∧ y.st = x.st
      ∧ (chan u l.ch).late = (chan s l.ch).late ++ [timedOut l] := by
  let w := lineFreed (unhold (lineGhost s l) l.id) l .timeout
  have hchans : w.chans = s.chans := (lineFreed_chans _ l .timeout).trans ((unhold_frame _ _).2.trans (lineGhost_frame s l).2)
  have hcanon : Canon w := timeoutEvent_canon _ _ (dropLine_canon _ _ (unhold_canon _ _ (lineGhost_canon _ _ hs)))
  have hxw : stream w l.ch = some x := (stream_of_chans hchans _).trans hx
  have hchan : chan (addLate w l (cTIMEOUT, 2)) l.ch = { chan s l.ch with late := (chan s l.ch).late ++ [timedOut l] } := by
    rw [chan_addLate hcanon (by rw [hk]; rfl), chan_of_chans hchans]
    rfl
  have hxl : stream (addLate w l (cTIMEOUT, 2)) l.ch = some x := (congrArg Chan.stream hchan).trans hx
  have hfail : lineFail (unhold (lineGhost s l) l.id) l .timeout = spoilTile (addLate w l (cTIMEOUT, 2)) l.ch no := by
    have hseq' : ¬ (l.dseq != (chan w l.ch).seq) = true := by simp [chan_of_chans hchans, hseq]
    unfold lineFail
    rw [hk]
    dsimp only
    rw [show (if LErr.timeout == .timeout then timeoutEvent (dropLine (unhold (lineGhost s l) l.id) l.id) l.ch
      else dropLine (unhold (lineGhost s l) l.id) l.id) = w from rfl, hxw]
    refine (if_neg hseq').trans ?_
    rw [hst]
    dsimp only
    rw [hwaits]
    refine (congrArg (fun v => tileFail v l.ch no att .timeout (errOut (.write no att o acc) .timeout)) (if_pos rfl)).trans ?_
    unfold tileFail
    rw [show addLate w l (errOut (.write no att o acc) .timeout) = addLate w l (cTIMEOUT, 2) from rfl, hxl]
    dsimp only
    rw [hst]
  refine ⟨_, _, (exec_lineTimeout hl).trans (congrArg Host.Outcome.next hfail), stream_modStream_self _ hxl _, rfl, ?_⟩
  rw [spoilTile, chan_modStream_self hxl, hchan]

/-! ### Data land and writes are acknowledged (R23, R192, R266) -/

/-- The data of a line of external memory joins its group. -/
theorem exec_land_ext {s : State} {x : Stream} {t : Tile} {g : Group} {l : Line} {k : RdKind} {o pa : Nat} (hl : lineOf s l.id = some l)
    (hx : stream s l.ch = some x) (hseq : l.dseq = (chan s l.ch).seq) (ht : x.tiles = [t]) (hg : t.groups = [g])
    (hk : l.kind = .read t.no t.att g.no k o) (hleft : l.left = []) (hecho : l.echo = 0) (hloc : l.loc = .ext pa) (d : LineData) :
    exec (.readDataLand l.id d .clean) s
      = .next (setStream (setLines s (s.path.lines.filter fun z => z.id != l.id)) l.ch (withLanded x t g l.loc k d)) := by
  have hanswer : noAnswer s l = false := by simp [noAnswer, hleft, hloc, hecho]
  have hpass : ¬ (isWrite l.kind || noAnswer s l || anyGate s [l.loc]) = true := by simp [hk, hanswer, hloc, isWrite, anyGate]
  have hland := landLine_read hl hx hseq ht hg hk d
  show execReadDataLand l.id d .clean s = _
  unfold execReadDataLand
  rw [hl]
  refine (if_neg hpass).trans ?_
  rw [hloc]
  dsimp only
  rw [hecho, ← hloc]
  exact congrArg Host.Outcome.next hland

theorem stage_answers {s : State} {l : Line} {a : Nat} (hleft : l.left = []) (hloc : l.loc = .stage a) (hfence : lineFenced s l = false)
    (hgate : gateClosed s a = false) : (noAnswer s l || anyGate s [l.loc]) = false := by
  simp [noAnswer, hleft, hloc, hfence, anyGate, hgate]

section
variable {s : State} {l : Line} {a : Nat} (hl : lineOf s l.id = some l) (hleft : l.left = []) (hloc : l.loc = .stage a)
  (hfence : lineFenced s l = false) (hgate : gateClosed s a = false) (hpool : (poolOf s a).isSome = true)
include hl hleft hloc hfence hgate hpool

/-- A line of stage memory is read at its bank. -/
theorem exec_land_stage (hk : isWrite l.kind = false) (hgood : badWords s a fullBe = []) (d : LineData) :
    exec (.readDataLand l.id d .clean) s = .next (landLine (grantStage s a l.lane) l (memLine s.stage.mem a))
    ∧ exec (.readDataLand l.id d .uncorrectable) s = .next (lineFail (eccFound (grantStage s a l.lane) a 1 false) l .ecc) := by
  have hpass : ¬ (isWrite l.kind || noAnswer s l || anyGate s [l.loc]) = true := by
    rw [Bool.or_assoc, stage_answers hleft hloc hfence hgate, hk]
    decide
  have hnone : ¬ (poolOf s a).isNone = true := by rw [← Option.not_isSome, hpool]; decide
  have hread : ∀ e, stageRead s a fullBe l.lane e = (eccFound (grantStage s a l.lane) a (max (badWords s a fullBe).length
      (if e == .uncorrectable then 1 else 0)) (e == .corrected), memLine s.stage.mem a,
      max (badWords s a fullBe).length (if e == .uncorrectable then 1 else 0) != 0) := fun e => if_neg hnone
  have hrun : ∀ e, exec (.readDataLand l.id d e) s = .next (if (stageRead s a fullBe l.lane e).2.2
      then lineFail (stageRead s a fullBe l.lane e).1 l .ecc
      else landLine (stageRead s a fullBe l.lane e).1 l (stageRead s a fullBe l.lane e).2.1) := by
    intro e
    show execReadDataLand l.id d e s = _
    unfold execReadDataLand
    rw [hl]
    refine (if_neg hpass).trans ?_
    rw [hloc]
  rw [hrun, hrun, hread, hread, hgood]
  exact ⟨rfl, rfl⟩

end

/-- A write at a bank moves the bytes, the bad words, the banks' counters and turns, the record and the free values only. -/
def OnlyBankWrite (s t : State) : Prop := t = { s with
  stage := { s.stage with mem := t.stage.mem, bad := t.stage.bad, bg := t.stage.bg, rankBank := t.stage.rankBank, hintBank := t.stage.hintBank }
  aon := t.aon, fresh := t.fresh }

theorem onlyBankWrite_of_banks {s t : State} {m : List Host.Cell} {bad : List Nat}
    (h : OnlyBanks { s with stage := { s.stage with mem := m, bad := bad } } t) : OnlyBankWrite s t := by
  unfold OnlyBankWrite
  unfold OnlyBanks at h
  rw [h]

theorem onlyBanks_grantStage (s : State) (off i : Nat) : OnlyBanks s (grantStage s off i) := by
  have h := grantStage_frame s off i
  unfold OnlyBanks
  rw [h]

theorem onlyBanks_eccFound (s : State) (off n : Nat) (corr : Bool) : OnlyBanks s (eccFound s off n corr) := by
  have hcorr : OnlyBanks s (if corr then eccEvent s off false else s) := by
    split
    · exact onlyBanks_eccEvents s off false 1
    · exact .refl s
  unfold eccFound
  dsimp only
  split
  · exact hcorr
  · exact hcorr.trans (onlyBanks_eccEvents _ off true n)

theorem onlyBankWrite_stageWriteEcc {s : State} {off : Nat} (hpool : (poolOf s off).isNone = false) (d : LineData) (be : LineEn) (input : Nat)
    (ecc : Ecc) : OnlyBankWrite s (stageWriteEcc s off d be input ecc) := by
  unfold stageWriteEcc
  rw [if_neg (by rw [hpool]; decide)]
  exact onlyBankWrite_of_banks ((onlyBanks_grantStage _ _ _).trans (onlyBanks_eccFound _ _ _ _))

theorem performStage_ext {s : State} {l : Line} {pa : Nat} (hloc : l.loc = .ext pa) : performStage s l = s := by rw [performStage, hloc]

/-- A write of a tile is acknowledged: it is performed where it is stage memory's, and its tag is free. -/
theorem exec_writeAck {s : State} {l : Line} {no att o : Nat} {acc : Bool} (hl : lineOf s l.id = some l) (hk : l.kind = .write no att o acc)
    (hleft : l.left = []) (hheld : heldAtCore s l = false) (hremote : isRemote l.loc = false)
    (hpass : (noAnswer s l || anyGate s [l.loc]) = false) :
    exec (.writeAcknowledge l.id) s = .next (dropLine (performStage s l) l.id) := by
  show execWriteAcknowledge l.id s = _
  have hack : lineAck s l = dropLine (performStage s l) l.id := by
    unfold lineAck
    rw [hk]
    dsimp only
    split <;> rfl
  unfold execWriteAcknowledge
  rw [hl]
  dsimp only
  rw [hk]
  dsimp only
  rw [hremote, hleft, hheld, if_neg (by rw [Bool.or_assoc, hpass]; decide), hack]

/-- A write's end drops the echo cache's copy of its line (R180). -/
theorem echo_dropLine {s : State} {l : Line} {pa : Nat} (hl : lineOf s l.id = some l) (hwrite : isWrite l.kind = true) (hloc : l.loc = .ext pa) :
    (dropLine s l.id).path.echo.all (fun k => k.1 != pa / 128 * 128) = true := by
  unfold dropLine
  rw [hl]
  dsimp only
  rw [hwrite, hloc]
  simp [echoDrop]

/-- A write's line of stage memory is stored as it is acknowledged, and nothing else changes but its banks, the record and the free values. -/
theorem exec_writeAck_stage {s : State} (hs : Canon s) {l : Line} {a no att o : Nat} {acc : Bool} (hl : lineOf s l.id = some l)
    (hk : l.kind = .write no att o acc) (hleft : l.left = []) (hheld : heldAtCore s l = false) (hloc : l.loc = .stage a)
    (hfence : lineFenced s l = false) (hgate : gateClosed s a = false) (hpool : (poolOf s a).isSome = true) :
    ∃ u, exec (.writeAcknowledge l.id) s = .next u
      ∧ u = { dropLine s l.id with
          stage := { s.stage with
            mem := u.stage.mem, bad := u.stage.bad, bg := u.stage.bg, rankBank := u.stage.rankBank, hintBank := u.stage.hintBank }
          aon := u.aon, fresh := u.fresh }
      ∧ (∀ j < 128, memByte u.stage.mem (a + j) = if l.be.getLsbD j then lineByte l.data j else memByte s.stage.mem (a + j))
      ∧ ∀ b, b < a ∨ a + 128 ≤ b → memByte u.stage.mem b = memByte s.stage.mem b := by
  have hnone : (poolOf (bump s) a).isNone = false := by
    rw [← Option.not_isSome]
    exact congrArg (!·) hpool
  have hstored : performStage s l = stageWriteEcc (bump s) a l.data l.be l.lane (freeEcc s) := by rw [performStage, hloc]; rfl
  have hframe := onlyBankWrite_stageWriteEcc hnone l.data l.be l.lane (freeEcc s)
  have hbytes := memWrite_bytes (m := (bump s).stage.mem) hs.mem (stageWriteEcc_mem hnone l.data l.be l.lane (freeEcc s))
  have hline : ∀ t : State, t.path = s.path → dropLine t l.id = setLines t (t.path.lines.filter fun y => y.id != l.id) := by
    intro t ht
    unfold dropLine
    rw [lineOf_of_path ht, hl]
    dsimp only
    rw [hloc]
    split <;> rfl
  refine ⟨dropLine (performStage s l) l.id, exec_writeAck hl hk hleft hheld (by rw [hloc]; rfl) (stage_answers hleft hloc hfence hgate), ?_, ?_⟩
  · rw [hline s rfl, hstored, hline _ (by rw [hframe]; rfl), hframe]
    rfl
  · rw [dropLine_stage, hstored]
    exact hbytes

/-! ### The response of a request that has timed out (R206, R353) -/

theorem exec_lateResponse {s : State} {m : Port} {id : BitVec 16} {e : OwnReq} (he : ownOf s (65536 * m.val + id.toNat) = some e) :
    let gone := { s with ports := { s.ports with own := s.ports.own.filter fun y => y.id != e.id } }
    (s.boot.phase = .running → e.kind = .dead true → e.port = m.val →
      exec (.lateResponse ⟨m, id⟩) s = .next (setMp gone m.val { mp s m.val with late := min ((mp s m.val).late + 1) 255 }))
    ∧ (s.boot.phase = .running → e.kind = .dead false → exec (.lateResponse ⟨m, id⟩) s = .next gone)
    ∧ (s.boot.phase ≠ .running ∨ (∀ b, e.kind ≠ .dead b) → exec (.lateResponse ⟨m, id⟩) s = .next s) := by
  intro gone
  have hrun : s.boot.phase = .running → exec (.lateResponse ⟨m, id⟩) s = .next (if isDead e then ownLate s e else s) := by
    intro hphase
    show execLateResponse ⟨m, id⟩ s = _
    unfold execLateResponse
    rw [hphase, he]
    rfl
  refine ⟨fun hphase hkind hport => ?_, fun hphase hkind => ?_, fun h => ?_⟩
  · have hlt : (e.kind == .dead true && decide (e.port < 8)) = true := by
      rw [hkind, hport]
      exact decide_eq_true m.isLt
    rw [hrun hphase, show isDead e = true by rw [isDead, hkind]]
    refine congrArg Host.Outcome.next ((if_pos rfl).trans ((if_pos hlt).trans ?_))
    rw [hport]
    rfl
  · rw [hrun hphase, show isDead e = true by rw [isDead, hkind]]
    exact congrArg Host.Outcome.next ((if_pos rfl).trans (if_neg (by simp [hkind])))
  · by_cases hphase : s.boot.phase = .running
    · have hdead : isDead e = false := by
        have hne := h.resolve_left (fun hn => hn hphase)
        unfold isDead
        split
        · next b hb => exact absurd hb (hne b)
        · rfl
      rw [hrun hphase, hdead]
      rfl
    · show execLateResponse ⟨m, id⟩ s = _
      exact if_pos (by simpa using hphase)

end Sys2Proof.Proofs
end

section
/-! Lines leave their quadrants and are cast (R25, R109, R127, R139). -/

namespace Sys2Proof.Proofs

open Sys2Proof Sys2Proof.Machine Sys2Proof.Laws

/-! ### Free values are taken -/

/-- Only free values have been taken. -/
def OnlyFresh (s t : State) : Prop := t = { s with fresh := t.fresh }

theorem OnlyFresh.refl (s : State) : OnlyFresh s s := rfl

theorem OnlyFresh.trans {s t u : State} (h : OnlyFresh s t) (k : OnlyFresh t u) : OnlyFresh s u := by
  unfold OnlyFresh at h k ⊢
  rw [h] at k
  exact k

theorem onlyFresh_foldl {α γ : Type} (v : γ → State) {step : γ → α → γ} (h : ∀ acc a, OnlyFresh (v acc) (v (step acc a))) (l : List α) (acc : γ) :
    OnlyFresh (v acc) (v (l.foldl step acc)) := by
  induction l generalizing acc with
  | nil => exact .refl _
  | cons a l ih => exact (h acc a).trans (ih _)

theorem onlyFresh_pickVals (s : State) (t : Tile) (o : OutLine) (val : Elem → Nat) (es : List Elem) : OnlyFresh s (pickVals s t o val es).1 := by
  refine onlyFresh_foldl Prod.fst (fun acc a => ?_) (lineDsts o) (s, [])
  dsimp only
  split
  · exact .refl _
  · split
    · exact rfl
    · exact .refl _

theorem onlyFresh_accSum (d : DescData) (n : Nat) (s : State) (v : Nat) (es : List Elem) (t : Tally) : OnlyFresh s (accSum d n s v es t).1 := by
  induction n generalizing s v es t with
  | zero => exact .refl s
  | succ n ih =>
    unfold accSum
    split
    · exact .refl s
    · exact .trans (t := bump s) rfl (ih _ _ _ _)

theorem onlyFresh_accVals (s : State) (x : Stream) (t : Tile) (g : Group) (o : OutLine) (es : List Elem) : OnlyFresh s (accVals s x t g o es).1 := by
  refine onlyFresh_foldl (fun acc : State × List (Nat × Nat) × Tally => acc.1) (fun acc a => ?_) (lineDsts o) (s, [], ⟨0, 0⟩)
  dsimp only
  split
  · exact .refl _
  · exact onlyFresh_accSum _ _ _ _ _ _

theorem onlyFresh_scaleLine (s : State) (x : Stream) (t : Tile) (g : Group) (em : Emitted) :
    OnlyFresh s (scaleLine s x t g em).1 ∧ (scaleLine s x t g em).2.1.line = em.line := by
  refine ⟨onlyFresh_foldl (fun acc : State × Nat × Nat => acc.1) (fun acc a => ?_) _ (s, 0, 0), rfl⟩
  dsimp only
  split
  · exact rfl
  · exact .refl _

theorem onlyFresh_assemble (s : State) (x : Stream) (o : OutLine) (es : List (Nat × Nat)) :
    OnlyFresh s (assemble s x o es).1 ∧ (assemble s x o es).2.line = o := by
  unfold assemble
  extract_lets w r u flush last be be'
  have hu : OnlyFresh s u := by
    refine onlyFresh_foldl (fun acc : State × Asm => acc.1) (fun acc a => ?_) es (s, ⟨0, 0⟩)
    dsimp only
    split
    · exact .refl _
    · exact rfl
  clear_value u r flush
  split
  · exact ⟨hu.trans rfl, rfl⟩
  · split
    · exact ⟨hu, rfl⟩
    · exact ⟨hu.trans rfl, rfl⟩

/-! ### The one group of the one tile of a stream -/

/-- A stream with its one tile and its one group. -/
def oneGroup (x : Stream) (t : Tile) (g : Group) : Stream := { x with tiles := [{ t with groups := [g] }] }

/-- A line that is ready, unless it writes no byte. -/
def readyLines (r : Ready) : List Ready := if r.be != 0 then [r] else []

theorem readyLines_line {r y : Ready} (h : y ∈ readyLines r) : y = r := by
  unfold readyLines at h
  split at h
  · exact List.mem_singleton.1 h
  · exact absurd h List.not_mem_nil

theorem length_readyLines (r : Ready) : (readyLines r).length ≤ 1 := by
  unfold readyLines
  split
  · exact Nat.le_refl 1
  · exact Nat.zero_le 1

section
variable {s : State} {c : Nat} {x : Stream} {t : Tile} {g : Group} (hx : stream s c = some (oneGroup x t g))
include hx

theorem modGroup_one (f : Group → Group) : modGroup s c t.no g.no f = setStream s c (oneGroup x t (f g)) := by
  rw [modGroup, modTile, modStream_of_stream hx]
  simp [oneGroup]

/-- A line that is assembled waits for its write. -/
theorem addReady_one {h : Group} (hno : g.no = h.no) (z : Stream) (vals : List (Nat × Nat)) (r : Ready) :
    ∃ strad, addReady s c t h z vals r = setStream s c (oneGroup x { t with strad := strad } { g with ready := g.ready ++ readyLines r }) := by
  refine ⟨t.strad ++ vals.filter fun v => straddles z v.1 && !(t.strad.any fun w => w.1 == v.1), ?_⟩
  rw [addReady, modTile, modStream_of_stream hx]
  by_cases hbe : (r.be != 0) = true
  · simp only [oneGroup, readyLines, hbe, hno.symm, List.map_cons, List.map_nil, beq_self_eq_true, Bool.and_self, if_true]
  · simp only [oneGroup, readyLines, hbe, hno.symm, List.map_cons, List.map_nil, beq_self_eq_true, Bool.and_false, if_true, Bool.false_eq_true, if_false,
      List.append_nil]

end

theorem stream_of_flowing {s : State} {c : Nat} {x : Stream} (h : flowing s c = some x) : stream s c = some x := by
  unfold flowing at h
  obtain ⟨_, h⟩ := Option.ite_none_right_eq_some.1 h
  cases hy : stream s c with
  | none =>
    rw [hy] at h
    exact absurd h (by simp)
  | some y =>
    rw [hy] at h
    exact (Option.ite_none_right_eq_some.1 h).2

theorem oneGroup_self {x : Stream} {t : Tile} {g : Group} (ht : x.tiles = [t]) (hg : t.groups = [g]) : oneGroup x t g = x := by
  rw [oneGroup, ← hg, ← ht]

/-- What of a state a line's emission and its cast leave. -/
def SameOutside (s u : State) : Prop := u.out = s.out ∧ u.stage = s.stage

theorem sameOutside_setStream {s u : State} (h : SameOutside s u) (c : Nat) (x : Stream) : SameOutside s (setStream u c x) := h

theorem sameOutside_fresh {s u v : State} (h : SameOutside s u) (k : OnlyFresh u v) : SameOutside s v := by
  unfold OnlyFresh at k
  rw [k]
  exact h

theorem stream_of_fresh {u v : State} (k : OnlyFresh u v) (c : Nat) : stream v c = stream u c := by
  unfold OnlyFresh at k
  rw [k]
  rfl

/-- A line that bypasses Mordant waits for its write. -/
theorem bypassLine_one {s : State} {c : Nat} {x : Stream} {t : Tile} {g h : Group} (hx : stream s c = some (oneGroup x t h)) (hno : h.no = g.no)
    (o : OutLine) : ∃ v r strad, OnlyFresh s v ∧ r.line = o
      ∧ bypassLine s c x t g o = setStream v c (oneGroup x { t with strad := strad } { h with ready := h.ready ++ readyLines r }) := by
  let p := pickVals s t o (·.raw) (o.pairs.map (elemOf s x t g))
  obtain ⟨hfresh, hline⟩ := onlyFresh_assemble p.1 x o p.2
  have hv : OnlyFresh s (assemble p.1 x o p.2).1 := (onlyFresh_pickVals _ _ _ _ _).trans hfresh
  obtain ⟨strad, hready⟩ := addReady_one ((stream_of_fresh hv c).trans hx) hno x p.2 (assemble p.1 x o p.2).2
  exact ⟨_, _, strad, hv, hline, hready⟩

/-! ### OUTPUT_LINE_EMIT -/

/-- The quadrant's counters behind the passes of an output line. -/
def passed (s : State) (x : Stream) (t : Tile) (g : Group) (o : OutLine) : State :=
  let n := if o.scale then 0 else passesOf s x t o
  setKq s g.quad { kq s g.quad with
    pass := (kq s g.quad).pass + BitVec.ofNat 64 n, extra := (kq s g.quad).extra + BitVec.ofNat 32 (n - 1) }

/-- The state in which an output line has left its group. -/
def lineGone (s : State) (c : Nat) (x : Stream) (t : Tile) (g : Group) (o : OutLine) : State :=
  setStream (passed s x t g o) c (oneGroup x t { g with outs := [] })

/-- A line as it leaves its quadrant. -/
def emittedOf (s : State) (x : Stream) (t : Tile) (g : Group) (o : OutLine) : Emitted :=
  ⟨o, o.pairs.map (elemOf s x t g), (blockPairs x t o.pairs).map (elemOf s x t g)⟩

section
variable {s : State} {c : Ch} {x : Stream} {t : Tile} {g : Group} {o : OutLine} (hflow : flowing s c.val = some x) (ht : x.tiles = [t])
  (hg : t.groups = [g])
include hflow ht hg

theorem exec_emit (ho : g.outs = [o]) (hland : allLanded s x t g (o.pairs ++ blockPairs x t o.pairs) = true)
    (hpow : powered s (8 + g.quad) = true) :
    exec (.outputLineEmit c 0 .clean) s = .next (if casts x.desc
      then modGroup (lineGone s c.val x t g o) c.val t.no g.no fun h => { h with emitted := h.emitted ++ [emittedOf s x t g o] }
      else bypassLine (lineGone s c.val x t g o) c.val x t g o) := by
  have hline : (outLines x)[0]? = some (t, g, o) := by simp [outLines, allGroups, ht, hg, ho]
  have hx : stream (passed s x t g o) c.val = some (oneGroup x t g) := by
    rw [oneGroup_self ht hg]
    exact stream_of_flowing hflow
  have hgone : modGroup (passed s x t g o) c.val t.no g.no (fun h => { h with outs := h.outs.erase o })
      = lineGone s c.val x t g o := by
    rw [modGroup_one hx]
    simp [lineGone, ho]
  show execOutputLineEmit c 0 .clean s = _
  unfold execOutputLineEmit
  rw [hflow]
  dsimp only
  rw [hline]
  dsimp only
  rw [hland, hpow, if_neg (by decide)]
  refine (if_neg (by decide)).trans ?_
  rw [show setKq s g.quad _ = passed s x t g o from rfl, hgone]
  split <;> rfl

/-- A line that leaves its quadrant waits for Mordant or for its write. -/
theorem emitted_line (ho : g.outs = [o]) (hland : allLanded s x t g (o.pairs ++ blockPairs x t o.pairs) = true)
    (hpow : powered s (8 + g.quad) = true) :
    ∃ u y, exec (.outputLineEmit c 0 .clean) s = .next u ∧ stream u c.val = some y ∧ u.out = s.out ∧ u.stage = s.stage
      ∧ (casts x.desc = true → y = { x with tiles := [{ t with groups := [{ g with
            outs := []
            emitted := g.emitted ++ [⟨o, o.pairs.map (elemOf s x t g), (blockPairs x t o.pairs).map (elemOf s x t g)⟩] }] }] })
      ∧ (casts x.desc = false → ∃ rs strad, y = { x with tiles := [{ t with
            strad := strad, groups := [{ g with outs := [], ready := g.ready ++ rs }] }] }
          ∧ rs.length ≤ 1 ∧ ∀ r ∈ rs, r.line = o) := by
  have hrun := exec_emit hflow ht hg ho hland hpow
  have hu : SameOutside s (lineGone s c.val x t g o) := ⟨rfl, rfl⟩
  have hxu : stream (lineGone s c.val x t g o) c.val = some (oneGroup x t { g with outs := [] }) := stream_setStream _ _ _
  by_cases hcast : casts x.desc = true
  · rw [if_pos hcast, modGroup_one (g := { g with outs := [] }) hxu] at hrun
    obtain ⟨hout, hstage⟩ := sameOutside_setStream hu c.val (oneGroup x t { g with outs := [], emitted := g.emitted ++ [emittedOf s x t g o] })
    exact ⟨_, _, hrun, stream_setStream _ _ _, hout, hstage, fun _ => rfl, fun h => absurd (hcast.symm.trans h) (by decide)⟩
  · obtain ⟨v, r, strad, hv, hline, hbypass⟩ := bypassLine_one (g := g) hxu rfl o
    rw [if_neg hcast, hbypass] at hrun
    obtain ⟨hout, hstage⟩ := sameOutside_setStream (sameOutside_fresh hu hv) c.val
      (oneGroup x { t with strad := strad } { g with outs := [], ready := g.ready ++ readyLines r })
    exact ⟨_, _, hrun, stream_setStream _ _ _, hout, hstage, fun h => absurd h hcast,
      fun _ => ⟨readyLines r, strad, rfl, length_readyLines r, fun y hy => (congrArg Ready.line (readyLines_line hy)).trans hline⟩⟩

end

/-! ### MORDANT_CAST -/

theorem mem_of_mem_dedup {α : Type} [DecidableEq α] {l : List α} {a : α} (h : a ∈ dedup l) : a ∈ l := by
  have hall : ∀ (l acc : List α), a ∈ l.foldl (fun acc x => if acc.contains x then acc else acc ++ [x]) acc → a ∈ acc ∨ a ∈ l := by
    intro l
    induction l with
    | nil => exact fun _ h => Or.inl h
    | cons b l ih =>
      intro acc hmem
      refine (ih _ hmem).elim (fun hacc => ?_) (fun hl => Or.inr (List.mem_cons_of_mem _ hl))
      dsimp only at hacc
      split at hacc
      · exact Or.inl hacc
      · refine (List.mem_append.1 hacc).imp_right fun hb => ?_
        rw [List.mem_singleton.1 hb]
        exact List.mem_cons_self ..
  exact (hall l [] h).resolve_left List.not_mem_nil

/-! ### Lanes and units of a mover in a quadrant (R114) -/

theorem quadUnit_of_lane {s : State} {m q lane : Nat} (h : lane ∈ quadLanes s m q) : lane / 4 ∈ quadUnits s m q :=
  (dedup_foldl_mem ((quadLanes s m q).map (· / 4)) []).2 _ (List.mem_map_of_mem h)

theorem lane_of_quadUnit {s : State} {m q u : Nat} (h : u ∈ quadUnits s m q) : ∃ lane ∈ quadLanes s m q, lane / 4 = u :=
  List.mem_map.1 (mem_of_mem_dedup h)

theorem unitOf_mem {s : State} {c quad : Nat} (hlanes : quadLanes s (chanCfg s c).mover quad ≠ []) (gno : Nat) (loc : Loc) :
    unitOf s c quad gno loc ∈ quadUnits s (chanCfg s c).mover quad := by
  obtain ⟨lane, hlane⟩ := List.exists_mem_of_ne_nil _ hlanes
  have hlt := Nat.mod_lt (Config.mdUnit c gno (locKey loc)) (List.length_pos_of_mem (quadUnit_of_lane hlane))
  rw [unitOf, List.getD_eq_getElem _ _ hlt]
  exact List.getElem_mem hlt

/-- The unit that a line passes is one of its mover's lane clusters. -/
theorem unitOf_powered {s : State} {c quad : Nat} (hlanes : quadLanes s (chanCfg s c).mover quad ≠ [])
    (hpow : ∀ n < max 1 (moverWidth s (chanCfg s c).mover), powered s (12 + ((chanCfg s c).mover + n) / 4) = true) (gno : Nat) (loc : Loc) :
    powered s (12 + unitOf s c quad gno loc) = true := by
  obtain ⟨k, hk, hunit⟩ := lane_of_quadUnit (unitOf_mem hlanes gno loc)
  obtain ⟨n, hn, hkn⟩ := List.mem_map.1 (List.mem_of_mem_filter hk)
  rw [← hunit, ← hkn]
  exact hpow n (Nat.lt_of_lt_of_le (List.mem_range.1 hn) (Nat.le_max_right _ _))

/-- The values of a cast line's destination elements: accumulated, or those of its elements. -/
def castVals (s : State) (x : Stream) (t : Tile) (g : Group) (o : OutLine) (es : List Elem) : State × List (Nat × Nat) × Tally :=
  if dAcc x.desc then accVals s x t g o es else ((pickVals s t o (·.raw) es).1, (pickVals s t o (·.raw) es).2, ⟨0, 0⟩)

theorem onlyFresh_castVals (s : State) (x : Stream) (t : Tile) (g : Group) (o : OutLine) (es : List Elem) :
    OnlyFresh s (castVals s x t g o es).1 := by
  unfold castVals
  split
  · exact onlyFresh_accVals s x t g o es
  · exact onlyFresh_pickVals s t o (·.raw) es

/-- The state in which an emitted line has left its group for its cast. -/
def castGone (s : State) (c : Nat) (x : Stream) (t : Tile) (g : Group) : State := setStream s c (oneGroup x t { g with emitted := [] })

section
variable {s : State} {c : Ch} {x : Stream} {t : Tile} {g : Group} {e : Emitted} (hflow : flowing s c.val = some x) (ht : x.tiles = [t])
  (hg : t.groups = [g]) (he : g.emitted = [e]) (hready : castReady s x t g e.line = true)
  (hpow : powered s (12 + unitOf s c.val g.quad g.no e.line.loc) = true)
include hflow ht hg he hready hpow

theorem exec_cast : ∃ v w vals r z, exec (.mordantCast c 0 .clean) s
      = .next (addReady (setMd v (unitOf s c.val g.quad g.no e.line.loc) w) c.val t g z vals r)
    ∧ OnlyFresh (castGone s c.val x t g) v ∧ r.line = e.line := by
  have hline : ((allGroups x).flatMap fun e => e.2.emitted.map fun m => (e.1, e.2, m))[0]? = some (t, g, e) := by
    simp [allGroups, ht, hg, he]
  have hx : stream s c.val = some (oneGroup x t g) := by
    rw [oneGroup_self ht hg]
    exact stream_of_flowing hflow
  have hgone : modGroup s c.val t.no g.no (fun h => { h with emitted := h.emitted.erase e }) = castGone s c.val x t g := by
    rw [modGroup_one hx]
    simp [castGone, he]
  show ∃ v w vals r z, execMordantCast c 0 .clean s = _ ∧ _
  unfold execMordantCast
  rw [hflow]
  dsimp only
  rw [hline]
  dsimp only
  rw [hready, hpow, if_neg (by decide)]
  rw [show (if (Ecc.clean == Ecc.corrected) = true then raise s _ _ 0 _ else s) = s from rfl, hgone]
  by_cases hscale : e.line.scale = true
  · rw [if_pos hscale]
    obtain ⟨hfresh, hl⟩ := onlyFresh_scaleLine (castGone s c.val x t g) x t g e
    exact ⟨_, _, _, _, _, rfl, hfresh, hl⟩
  · rw [if_neg hscale]
    refine ⟨_, _, _, _, _, rfl, ?_, (onlyFresh_assemble _ _ _ _).2⟩
    exact (onlyFresh_castVals _ _ _ _ _ _).trans (onlyFresh_assemble _ _ _ _).1

/-- A line that is cast waits for its write. -/
theorem cast_line : ∃ u rs strad, exec (.mordantCast c 0 .clean) s = .next u ∧ u.out = s.out ∧ u.stage = s.stage ∧ rs.length ≤ 1
    ∧ (∀ r ∈ rs, r.line = e.line) ∧ stream u c.val = some { x with tiles := [{ t with
        strad := strad, groups := [{ g with emitted := [], ready := g.ready ++ rs }] }] } := by
  obtain ⟨v, w, vals, r, z, hrun, hv, hline⟩ := exec_cast hflow ht hg he hready hpow
  let n := unitOf s c.val g.quad g.no e.line.loc
  have hgone : SameOutside s (castGone s c.val x t g) := ⟨rfl, rfl⟩
  have hx : stream (setMd v n w) c.val = some (oneGroup x t { g with emitted := [] }) :=
    (stream_of_fresh hv c.val).trans (stream_setStream _ _ _)
  obtain ⟨strad, hadd⟩ := addReady_one hx (h := g) rfl z vals r
  have hmd : SameOutside s (setMd v n w) := id (sameOutside_fresh hgone hv : SameOutside s v)
  obtain ⟨hout, hstage⟩ := sameOutside_setStream hmd c.val
    (oneGroup x { t with strad := strad } { g with emitted := [], ready := g.ready ++ readyLines r })
  exact ⟨_, readyLines r, strad, hrun.trans (congrArg Host.Outcome.next hadd), hout, hstage, length_readyLines r,
    fun y hy => (congrArg Ready.line (readyLines_line hy)).trans hline, stream_setStream _ _ _⟩

end

theorem transient_respErr {r : ErrResp} (h : r ≠ .world) : (respErr r).1.transient = true := by
  cases r with
  | poison => rfl
  | error => rfl
  | world => exact absurd rfl h

theorem errOut_respErr (k : LineKind) {r : ErrResp} (h : r ≠ .world) :
    StreamSt.done (errOut k (respErr r).1).1 (errOut k (respErr r).1).2 = .done cECC 0 := by
  cases r with
  | poison => rfl
  | error => rfl
  | world => exact absurd rfl h

/-- Settles O40, clause by clause: lines that land (`exec_land_ext`, `exec_land_stage`), leave (`emitted_line`), are cast (`cast_line`), are
acknowledged (`exec_writeAck`, `exec_writeAck_stage`), fail (`ext_line_fails`) or come too late (`lateWrite_kept`, `exec_lateResponse`). -/
theorem linesLandAndEnd : Obligations.LinesLandAndEnd := by
  unfold Obligations.LinesLandAndEnd
  refine ⟨fun s x t g l k o d hs hl hx hseq ht hg hk hleft hecho => ⟨fun pa hloc => ?_, fun a hloc hfence hgate hpool hgood => ⟨?_, fun hst hlt hacc => ?_⟩⟩,
    fun s c x t g o hs hflow ht hg ho hland hpow => emitted_line hflow ht hg ho hland hpow,
    fun s c x t g e hs hflow ht hg he hready hlanes hpow => cast_line hflow ht hg he hready (unitOf_powered hlanes hpow _ _),
    fun s l no att o acc hs hl hk hleft hecho hheld => ⟨fun pa hloc => ⟨?_, lineOf_dropLine_self s l.id, ?_⟩, fun a hloc hfence hgate hpool hgood => ?_⟩,
    fun s x t l pa no hs hl hloc hecho hleft hheld hx hseq hst ht hno hk => ?_,
    fun s l hs hl hwrite hrelay hseq => lateWrite_kept hs hl hwrite hrelay hseq,
    fun s l x no att o acc code d hs hl hk hseq hx hst hwaits => lateWrite_of_done hs hl hk hseq hx hst hwaits,
    fun s m id e he => exec_lateResponse he⟩
  · exact ⟨_, exec_land_ext hl hx hseq ht hg hk hleft hecho hloc d, rfl, stream_setStream _ _ _⟩
  · have hbanks := onlyBanks_grantStage s a l.lane
    have hpath : (grantStage s a l.lane).path = s.path := by rw [hbanks]
    have hchans : (grantStage s a l.lane).chans = s.chans := by rw [hbanks]
    refine ⟨_, (exec_land_stage hl hleft hloc hfence hgate hpool (by rw [hk]; rfl) hgood d).1, ?_⟩
    rw [landLine_read ((lineOf_of_path hpath _).trans hl) ((stream_of_chans hchans _).trans hx) (by rw [chan_of_chans hchans]; exact hseq) ht hg hk,
      stream_setStream]
    rfl
  · have hbanks := (onlyBanks_grantStage s a l.lane).trans (onlyBanks_eccFound _ a 1 false)
    obtain ⟨y, hy⟩ := lineFail_result (u := eccFound (grantStage s a l.lane) a 1 false) (by rw [hbanks]) (by rw [hbanks]) hx hseq hst ht
      (Or.inl ⟨_, _, _, hk⟩) .ecc
    obtain ⟨hdone, hretries, hcode, hatt⟩ := hy.retried rfl hlt hacc
    exact ⟨_, y, (exec_land_stage hl hleft hloc hfence hgate hpool (by rw [hk]; rfl) hgood d).2, hy.here, hretries, hcode, hdone, hatt⟩
  · have hpass : (noAnswer s l || anyGate s [l.loc]) = false := by simp [noAnswer, hleft, hloc, hecho, anyGate]
    rw [exec_writeAck hl hk hleft hheld (by rw [hloc]; rfl) hpass, performStage_ext hloc]
  · exact echo_dropLine hl (by rw [hk]; rfl) hloc
  · exact exec_writeAck_stage hs hl hk hleft hheld hloc hfence hgate hpool
  · subst hno
    obtain ⟨herr, u, y, htime, hfail⟩ := ext_line_fails hl hloc hecho hleft hheld hx hseq hst ht hk
    refine ⟨fun r => ?_, u, y, htime, hfail.here, hfail.ended (Or.inl rfl), hfail.path⟩
    obtain ⟨u, y, hrun, hfail⟩ := herr r
    refine ⟨u, y, hrun, hfail.here, hfail.path, fun hr => ?_, fun hr hlt hacc => ?_, fun hr hge => ?_⟩
    · subst hr
      exact hfail.ended (Or.inl rfl)
    · have htrans := transient_respErr hr
      obtain ⟨hdone, hretries, _⟩ := hfail.retried htrans hlt hacc
      exact ⟨hdone, hretries⟩
    · exact (hfail.ended (Or.inr hge)).trans (errOut_respErr l.kind hr)

end Sys2Proof.Proofs
end

section
/-! A T-cycle of a mover's side with one line to issue (R19 to R21, R184, R195). -/

namespace Sys2Proof.Proofs

open Sys2Proof Sys2Proof.Machine Sys2Proof.Laws

/-! ### What the bookkeeping of a T-cycle leaves -/

/-- Windows, slots and the quadrants' counters have moved, and free values have been taken. -/
def OnlyTicks (s t : State) : Prop := t = { s with
  path := { s.path with slots := t.path.slots, winRd := t.path.winRd, winWr := t.path.winWr, kq := t.path.kq }
  fresh := t.fresh }

theorem OnlyTicks.refl (s : State) : OnlyTicks s s := rfl

theorem OnlyTicks.trans {s t u : State} (h : OnlyTicks s t) (k : OnlyTicks t u) : OnlyTicks s u := by
  unfold OnlyTicks at h k ⊢
  rw [h] at k
  exact k

theorem onlyTicks_foldl {α : Type} {step : State → α → State} (h : ∀ s a, OnlyTicks s (step s a)) (l : List α) (s : State) :
    OnlyTicks s (l.foldl step s) := by
  induction l generalizing s with
  | nil => exact .refl s
  | cons a l ih => exact (h s a).trans (ih _)

theorem onlyTicks_setWin8 (s : State) (k : Nat) (write : Bool) (w : Win8) : OnlyTicks s (setWin8 s k write w) := by
  unfold setWin8
  split <;> rfl

theorem onlyTicks_tickWin8 (s : State) (m : Nat) (write : Bool) : OnlyTicks s (tickWin8 s m write) := by
  refine onlyTicks_foldl (fun s k => ?_) _ s
  dsimp only
  split
  · exact .refl s
  · exact onlyTicks_setWin8 _ _ _ _

theorem onlyTicks_countResWait (s : State) (m : Nat) : OnlyTicks s (countResWait s m) := by
  refine onlyTicks_foldl (fun s q => ?_) _ s
  dsimp only
  split
  · exact .refl s
  · split
    · exact rfl
    · exact .refl s

theorem onlyTicks_usePlace (s : State) (k : Nat) (write : Bool) (c : Cand) : OnlyTicks s (usePlace s k write c) := onlyTicks_setWin8 _ _ _ _

theorem onlyTicks_rotate (s : State) (m c : Nat) : OnlyTicks s (rotate s m c) := by
  unfold rotate
  split
  · exact rfl
  · exact .refl s

section
variable {s t : State} (h : OnlyTicks s t)
include h

theorem OnlyTicks.chans : t.chans = s.chans := by rw [h]
theorem OnlyTicks.lines : t.path.lines = s.path.lines := by rw [h]
theorem OnlyTicks.out : t.out = s.out := by rw [h]
theorem OnlyTicks.stage : t.stage = s.stage := by rw [h]
theorem OnlyTicks.img : t.img = s.img := by rw [h]
theorem OnlyTicks.flowing (c : Nat) : flowing t c = flowing s c := by rw [h]; rfl
theorem OnlyTicks.canTag (loc : Loc) (write : Bool) (prio : Nat) : canTag t loc write prio = canTag s loc write prio := by rw [h]; rfl
theorem OnlyTicks.locReady (loc : Loc) : locReady t loc = locReady s loc := by rw [h]; cases loc <;> rfl
theorem OnlyTicks.chanCfg (c : Nat) : chanCfg t c = chanCfg s c := by rw [h]; rfl
theorem OnlyTicks.moverWidth (m : Nat) : moverWidth t m = moverWidth s m := by rw [h]; rfl
theorem OnlyTicks.canLand (m : Nat) (g : Group) : canLand t m g = canLand s m g := by rw [h]; rfl
theorem OnlyTicks.readTurn (x : Stream) : readTurn t x = readTurn s x := by rw [h]; rfl
theorem OnlyTicks.unitOf (c q g : Nat) (loc : Loc) : unitOf t c q g loc = unitOf s c q g loc := by rw [h]; rfl
theorem OnlyTicks.quadUnits (m q : Nat) : quadUnits t m q = quadUnits s m q := by rw [h]; rfl
theorem OnlyTicks.stradBlocked (c : Nat) (x : Stream) (u : Tile) (o : OutLine) : stradBlocked t c x u o = stradBlocked s c x u o := by rw [h]; rfl
theorem OnlyTicks.chanSecure (c : Nat) : chanSecure t c = chanSecure s c := by rw [h]; rfl
theorem OnlyTicks.autoErr (loc : Loc) (write add : Bool) : autoErr t loc write add = autoErr s loc write add := by rw [h]; cases loc <;> rfl
theorem OnlyTicks.worldBad (c : Nat) (loc : Loc) : worldBad t c loc = worldBad s c loc := by rw [h]; cases loc <;> rfl

end

/-! ### The candidate that is served (R20, R184) -/

theorem served_mem {cs : List Cand} {k : Cand} (h : served cs = some k) : k ∈ cs := by
  have hfold : ∀ (l : List Cand) (b : Cand), l.foldl (fun b a => if a.prio < b.prio then a else b) b ∈ b :: l := by
    intro l
    induction l with
    | nil => exact fun b => List.mem_singleton_self b
    | cons a l ih =>
      intro b
      rw [List.foldl_cons]
      rcases List.mem_cons.1 (ih (if a.prio < b.prio then a else b)) with hb | hl
      · rw [hb]
        split
        · exact List.mem_cons_of_mem _ (List.mem_cons_self ..)
        · exact List.mem_cons_self ..
      · exact List.mem_cons_of_mem _ (List.mem_cons_of_mem _ hl)
  cases cs with
  | nil => exact absurd h (by simp [served])
  | cons a l =>
    rw [served, Option.some.injEq] at h
    exact h ▸ hfold l a

theorem exists_served {cs : List Cand} (h : cs ≠ []) : ∃ k, served cs = some k := by
  cases cs with
  | nil => exact absurd rfl h
  | cons a l => exact ⟨_, rfl⟩

/-- The class that goes first has a candidate, and none but candidates. -/
theorem classFirst_mem {s : State} {k : Nat} {write : Bool} {cs : List Cand} :
    (∀ c ∈ classFirst s k write cs, c ∈ cs) ∧ (cs ≠ [] → classFirst s k write cs ≠ []) := by
  unfold classFirst
  extract_lets own rem w ownG remG remU ownDue remDue
  have hown : ∀ c ∈ own, c ∈ cs := fun c hc => List.mem_of_mem_filter hc
  have hrem : ∀ c ∈ rem, c ∈ cs := fun c hc => List.mem_of_mem_filter hc
  have hownDue : ownDue = true → own ≠ [] := fun h hnil => by simp [ownDue, hnil] at h
  have hremDue : remDue = true → rem ≠ [] := fun h hnil => by simp [remDue, hnil] at h
  clear_value own rem ownDue remDue
  split
  · next hboth =>
    obtain ⟨ho, hr⟩ := Bool.and_eq_true_iff.1 hboth
    split
    · exact ⟨hown, fun _ => hownDue ho⟩
    · exact ⟨hrem, fun _ => hremDue hr⟩
  · split
    · next ho => exact ⟨hown, fun _ => hownDue ho⟩
    · split
      · next hr => exact ⟨hrem, fun _ => hremDue hr⟩
      · exact ⟨fun _ h => h, id⟩

/-! ### One place is filled -/

section
variable {m : Nat} {write : Bool} {cands : State → List Cand} {act : State → Cand → Nat → State × Option Sent}

theorem fillPlaces_idle {s : State} (h : cands s = []) (n : Nat) (used : List Nat) (out : List Sent) :
    fillPlaces m write cands act n used (s, out) = (s, out) := by
  cases n with
  | zero => rfl
  | succ n =>
    have hfree : ((List.range (moverWidth s m)).map (m + ·)).filter (fun l =>
        !used.contains l && placeLeft s (l / 4) write && (cands s).any (laneFits l)) = [] := by
      rw [h]
      simp
    rw [fillPlaces]
    dsimp only
    rw [hfree]
    rfl

/-- The state in which a lane of a mover takes up a candidate. -/
def takenUp (s : State) (m : Nat) (write : Bool) (k : Cand) (lane : Nat) : State := rotate (usePlace (bump s) (lane / 4) write k) m k.ch

theorem onlyTicks_takenUp (s : State) (m : Nat) (write : Bool) (k : Cand) (lane : Nat) : OnlyTicks s (takenUp s m write k lane) :=
  .trans (t := bump s) rfl ((onlyTicks_usePlace _ _ _ _).trans (onlyTicks_rotate _ _ _))

/-- A side issues one line where its one free candidate leaves none behind. -/
theorem fillPlaces_one {s : State} {n lane₀ : Nat} (hn : 0 < n) (hlane : lane₀ ∈ (List.range (moverWidth s m)).map (m + ·))
    (hplace : placeLeft s (lane₀ / 4) write = true) (hfits : (cands s).any (laneFits lane₀) = true)
    (hact : ∀ k ∈ cands s, ∀ lane, laneFits lane k = true → cands (act (takenUp s m write k lane) k lane).1 = []) :
    ∃ k ∈ cands s, ∃ lane ∈ (List.range (moverWidth s m)).map (m + ·), laneFits lane k = true
      ∧ fillPlaces m write cands act n [] (s, []) = ((act (takenUp s m write k lane) k lane).1, (act (takenUp s m write k lane) k lane).2.toList) := by
  obtain ⟨n, rfl⟩ := Nat.exists_eq_succ_of_ne_zero (Nat.pos_iff_ne_zero.1 hn)
  let free := ((List.range (moverWidth s m)).map (m + ·)).filter fun l =>
    !([] : List Nat).contains l && placeLeft s (l / 4) write && (cands s).any (laneFits l)
  have hmem : lane₀ ∈ free := List.mem_filter.2 ⟨hlane, by rw [hplace, hfits]; rfl⟩
  have hpick := Nat.mod_lt (Config.pick s.fresh) (List.length_pos_of_mem hmem)
  obtain ⟨lane, hget⟩ : ∃ lane, free[Config.pick s.fresh % free.length]? = some lane := ⟨_, List.getElem?_eq_getElem hpick⟩
  obtain ⟨hrange, hfree⟩ := List.mem_filter.1 (List.mem_of_getElem? hget)
  obtain ⟨_, hany⟩ := Bool.and_eq_true_iff.1 hfree
  obtain ⟨k₀, hk₀, hfit₀⟩ := List.any_eq_true.1 hany
  have hne : (cands s).filter (laneFits lane) ≠ [] := List.ne_nil_of_mem (List.mem_filter.2 ⟨hk₀, hfit₀⟩)
  obtain ⟨k, hserved⟩ := exists_served (classFirst_mem (s := s) (k := lane / 4) (write := write) |>.2 hne)
  obtain ⟨hk, hfit⟩ := List.mem_filter.1 (classFirst_mem.1 k (served_mem hserved))
  refine ⟨k, hk, lane, hrange, hfit, ?_⟩
  rw [fillPlaces]
  dsimp only
  rw [show (((List.range (moverWidth s m)).map (m + ·)).filter fun l =>
    !([] : List Nat).contains l && placeLeft s (l / 4) write && (cands s).any (laneFits l)) = free from rfl, hget]
  dsimp only
  rw [hserved]
  dsimp only
  rw [List.nil_append]
  exact fillPlaces_idle (hact k hk lane hfit) _ _ _

end

/-! ### One line goes to its target (R195) -/

theorem grantFirst_one (s : State) (l : Sent) : grantFirst s [l] l = l := by
  unfold grantFirst
  split
  · rfl
  · next a ha =>
    rw [List.foldl_cons, List.foldl_nil, ha]
    dsimp only
    exact ite_self _

theorem sendAll_one (s : State) (l : Sent) : sendAll 1 [l] s = sendLine (lineHints s [l] l.1) l.1 l.2.1 l.2.2 l.1.lane := by
  rw [sendAll, grantFirst_one]
  rfl

end Sys2Proof.Proofs
end

section
/-! A line is issued and goes to its target (R23, R24, R112, R180, R195). -/

namespace Sys2Proof.Proofs

open Sys2Proof Sys2Proof.Machine Sys2Proof.Laws

/-! ### A line that goes to its target -/

/-- The turn hints of an arbiter have moved. -/
def OnlyHints (s t : State) : Prop := t = { s with stage := { s.stage with hintMem := t.stage.hintMem, hintCore := t.stage.hintCore } }

theorem onlyHints_lineHints (s : State) (ls : List Sent) (l : Line) : OnlyHints s (lineHints s ls l) := by
  unfold lineHints
  split
  · rfl
  · split <;> rfl

section
variable {s : State} {l : Line} {pa : Nat} (hloc : l.loc = .ext pa) (hecho : l.echo = 0)
  (hfence : tget (fun _ => 0) s.stage.fenceMem (memPortOf s pa) = 0)
include hloc hecho hfence

theorem lineFenced_ext {ls : List Sent} : lineFenced (lineHints s ls l) l = false := by
  have hhints := onlyHints_lineHints s ls l
  have hmem : memFenced s (memPortOf s pa) (memInput l) = false := by rw [memFenced, hfence]; exact BitVec.getLsbD_zero
  have hfenced : lineFenced s l = memFenced s (memPortOf s pa) (memInput l) := by
    unfold lineFenced
    rw [hloc]
    exact if_neg (by rw [hecho]; decide)
  rw [← hmem, ← hfenced, hhints]
  unfold lineFenced
  rw [hloc]
  rfl

/-- A write goes out at its memory port, and drops the echo cache's copy of its line. -/
theorem write_sent (prio : Nat) :
    (sendAll 1 [(l, true, prio)] s).out = s.out ++ [.fab (memPortOf s pa) 1 3 pa l.ns false 0 (fabId l) l.data l.be]
      ∧ (sendAll 1 [(l, true, prio)] s).chans = s.chans ∧ (l ∈ s.path.lines → l ∈ (sendAll 1 [(l, true, prio)] s).path.lines) := by
  let u := lineHints s [(l, true, prio)] l
  have hhints : OnlyHints s u := onlyHints_lineHints _ _ _
  have hport : memPortOf u pa = memPortOf s pa := by rw [hhints]; rfl
  have hout : u.out = s.out := by rw [hhints]
  have hchans : u.chans = s.chans := by rw [hhints]
  have hlines : u.path.lines = s.path.lines := by rw [hhints]
  have hsend : sendAll 1 [(l, true, prio)] s = emit (grantMem (echoDrop u pa) (memPortOf u pa) l.lane)
      (.fab (memPortOf u pa) 1 3 pa l.ns false 0 (fabId l) l.data l.be) := by
    rw [sendAll_one]
    unfold sendLine
    rw [if_neg (by rw [lineFenced_ext hloc hecho hfence]; decide), hloc]
    rfl
  rw [hsend, hport]
  refine ⟨congrArg (· ++ [_]) hout, hchans, fun hl => ?_⟩
  have hmem : l ∈ u.path.lines.map fun x => if x.echo == 1 && x.loc == .ext (pa / 128 * 128) then { x with echo := 0 } else x :=
    List.mem_map.2 ⟨l, by rw [hlines]; exact hl, if_neg (by simp [hecho])⟩
  exact hmem

/-- A read goes out at its memory port. -/
theorem read_sent (prio : Nat) :
    (sendAll 1 [(l, false, prio)] s).out = s.out ++ [.fab (memPortOf s pa) 0 3 pa l.ns false 0 (fabId l) 0 0]
      ∧ (sendAll 1 [(l, false, prio)] s).path.lines = s.path.lines := by
  let u := lineHints s [(l, false, prio)] l
  have hhints : OnlyHints s u := onlyHints_lineHints _ _ _
  have hport : memPortOf u pa = memPortOf s pa := by rw [hhints]; rfl
  have hout : u.out = s.out := by rw [hhints]
  have hlines : u.path.lines = s.path.lines := by rw [hhints]
  have hsend : sendAll 1 [(l, false, prio)] s = emit (grantMem u (memPortOf u pa) (memInput l))
      (.fab (memPortOf u pa) 0 3 pa l.ns false 0 (fabId l) 0 0) := by
    rw [sendAll_one]
    unfold sendLine
    rw [if_neg (by rw [lineFenced_ext hloc hecho hfence]; decide), hloc]
    dsimp only
    rw [if_neg (by decide), if_neg (by rw [hecho]; decide)]
  rw [hsend, hport]
  exact ⟨congrArg (· ++ [_]) hout, hlines⟩

end

/-- A line of stage memory needs nothing sent. -/
theorem stage_sent {s : State} {l : Line} {a : Nat} (hloc : l.loc = .stage a)
    (hfence : (bg s ((placeOf s a).getD (0, 0, 0)).1).fence = 0) (prio : Nat) :
    (sendAll 1 [(l, false, prio)] s).out = s.out ∧ (sendAll 1 [(l, false, prio)] s).path.lines = s.path.lines := by
  let u := lineHints s [(l, false, prio)] l
  have hhints : OnlyHints s u := onlyHints_lineHints _ _ _
  have hopen : inFenced s a l.lane = false := by
    unfold inFenced
    split
    · next g b r hp =>
      rw [hp] at hfence
      rw [show (bg s g).fence = 0 from hfence]
      exact BitVec.getLsbD_zero
    · rfl
  have hfenced : lineFenced u l = false := by
    rw [← hopen, hhints]
    unfold lineFenced
    rw [hloc]
    rfl
  have hsend : sendAll 1 [(l, false, prio)] s = u := by
    rw [sendAll_one]
    unfold sendLine
    rw [if_neg (by rw [hfenced]; decide), hloc]
  rw [hsend, hhints]
  exact ⟨rfl, rfl⟩

/-! ### A line takes its tag -/

/-- The line of a place behind which a tag is taken. -/
theorem addLine_frame (s : State) (l : Line) : (addLine s l).1.chans = s.chans ∧ (addLine s l).1.out = s.out ∧ (addLine s l).1.stage = s.stage
    ∧ (addLine s l).1.img = s.img ∧ (addLine s l).1.path.slots = s.path.slots ∧ (addLine s l).1.path.lines = s.path.lines ++ [(addLine s l).2]
    ∧ ∃ id, (addLine s l).2 = { l with id := id } := by
  unfold addLine
  cases l.pool <;> exact ⟨rfl, rfl, rfl, rfl, rfl, rfl, _, rfl⟩

/-- A number changes nothing else of a line. -/
theorem worldBad_ext (s : State) (c pa : Nat) : worldBad s c (.ext pa) = false := by simp [worldBad, locSecure]

/-! ### Write issue -/

/-- The stream whose one ready line has been issued. -/
def written (x : Stream) (t : Tile) (g : Group) : Stream := oneGroup x { t with wrote := true } { g with ready := [] }

/-- The line of a write to external memory, without its number. -/
def writeLine (s : State) (c : Nat) (x : Stream) (t : Tile) (r : Ready) (lane : Nat) : Line :=
  { id := 0, pool := .wr, ch := c, dseq := (chan s c).seq, kind := .write t.no t.att r.line.opnd (dAcc x.desc), loc := r.line.loc
    ns := !chanSecure s c, data := r.data, be := r.be, gen := (chan s c).gen, xgen := t.xgen, asid := t.xasid, echo := 0, lane := lane
    left := [] }

/-- What the issue of a write leaves: its line in flight, and its stream without it. -/
structure WriteIssued (s u : State) (c : Nat) (x : Stream) (t : Tile) (g : Group) (r : Ready) (lane : Nat) (l : Line) : Prop where
  out : u.out = s.out
  stage : u.stage = s.stage
  img : u.img = s.img
  slots : u.path.slots = s.path.slots
  here : stream u c = some (written x t g)
  flies : l ∈ u.path.lines
  line : ∃ id, l = { writeLine s c x t r lane with id := id }

theorem issueWrite_ext {s : State} {c : Nat} {x : Stream} {t : Tile} {g : Group} {r : Ready} {pa : Nat}
    (hx : stream s c = some (oneGroup x t g)) (hr : g.ready = [r]) (hloc : r.line.loc = .ext pa) (lane : Nat) :
    ∃ u l, issueWrite s c t g r lane = (u, some (l, true, dPrio x.desc)) ∧ WriteIssued s u c x t g r lane l := by
  let v := setStream (setStream s c (oneGroup x t { g with ready := [] })) c (written x t g)
  have hissued : modTile (modGroup s c t.no g.no fun g => { g with ready := g.ready.erase r }) c t.no (fun t => { t with wrote := true }) = v := by
    have hfirst : modGroup s c t.no g.no (fun g => { g with ready := g.ready.erase r }) = setStream s c (oneGroup x t { g with ready := [] }) := by
      rw [modGroup_one hx]
      simp [hr]
    rw [hfirst, modTile, modStream_of_stream (stream_setStream _ _ _)]
    simp [v, written, oneGroup]
  obtain ⟨w, hw, hchans, hout, hstage, himg, hslots⟩ : ∃ w, (if dAcc x.desc then setMd v (lane / 4) { md v (lane / 4) with
      acclines := (md v (lane / 4)).acclines + 1 } else v) = w ∧ w.chans = v.chans ∧ w.out = s.out ∧ w.stage = s.stage ∧ w.img = s.img
      ∧ w.path.slots = s.path.slots := by
    refine ⟨_, rfl, ?_⟩
    split <;> exact ⟨rfl, rfl, rfl, rfl, rfl⟩
  have hchan : chan w c = { chan s c with stream := some (written x t g) } := by
    rw [chan_of_chans hchans, chan_setStream, chan_setStream]
  have hsec : chanSecure w c = chanSecure s c := (chanOwn_of_img himg c).2
  obtain ⟨achans, aout, astage, aimg, aslots, alines, aline⟩ := addLine_frame w (writeLine s c x t r lane)
  refine ⟨(addLine w (writeLine s c x t r lane)).1, (addLine w (writeLine s c x t r lane)).2, ?_, aout.trans hout, astage.trans hstage,
    aimg.trans himg, aslots.trans hslots, ?_, ?_, aline⟩
  · have hline : writeLine s c x t r lane = writeLine w c x t r lane := by
      rw [writeLine, writeLine, hchan, hsec]
    unfold issueWrite
    rw [hx]
    dsimp only
    rw [hloc, worldBad_ext, if_neg (by decide)]
    refine (if_neg (show ¬ autoErr s (.ext pa) true false = true from fun h => Bool.false_ne_true h)).trans ?_
    rw [hissued, show dAcc (oneGroup x t g).desc = dAcc x.desc from rfl, hw, hline, writeLine, hloc]
    rfl
  · rw [stream, chan_of_chans achans, hchan]
  · rw [alines]
    exact List.mem_append_right _ (List.mem_singleton_self _)

end Sys2Proof.Proofs
end

section
/-! WRITE_ISSUE and HELD_WRITE_ISSUE (R19 to R24, R58, R184). -/

namespace Sys2Proof.Proofs

open Sys2Proof Sys2Proof.Machine Sys2Proof.Laws

/-! ### Lanes and units of a mover -/

theorem quadLane_mem {s : State} {m q lane : Nat} (h : lane ∈ quadLanes s m q) :
    lane ∈ (List.range (moverWidth s m)).map (m + ·) ∧ lane / 8 = q := by
  obtain ⟨hrange, hq⟩ := List.mem_filter.1 h
  exact ⟨hrange, beq_iff_eq.1 hq⟩

/-- A lane of a mover that may move a candidate's line is one of the candidate's quadrant. -/
theorem quadLane_of_fits {s : State} {m lane : Nat} {k : Cand} (hlane : lane ∈ (List.range (moverWidth s m)).map (m + ·))
    (h : laneFits lane k = true) : lane ∈ quadLanes s m k.quad := by
  obtain ⟨hq, _⟩ := Bool.and_eq_true_iff.1 h
  exact List.mem_filter.2 ⟨hlane, by rw [beq_iff_eq] at hq ⊢; exact hq.symm⟩

/-- Some lane of a mover may move a line that was cast or that bypasses Mordant. -/
theorem exists_writeLane {s : State} {c : Nat} {g : Group} (hlanes : quadLanes s (chanCfg s c).mover g.quad ≠ []) (x : Stream) (loc : Loc)
    {k : Cand} (hquad : k.quad = g.quad) (hunit : k.unit = writeUnit s c x g loc) :
    ∃ lane ∈ quadLanes s (chanCfg s c).mover g.quad, laneFits lane k = true := by
  unfold writeUnit at hunit
  split at hunit
  · obtain ⟨lane, hlane, hu⟩ := lane_of_quadUnit (unitOf_mem hlanes g.no loc)
    exact ⟨lane, hlane, by rw [laneFits, hquad, hunit, (quadLane_mem hlane).2, Option.all_some, hu, beq_self_eq_true, beq_self_eq_true]; rfl⟩
  · obtain ⟨lane, hlane⟩ := List.exists_mem_of_ne_nil _ hlanes
    exact ⟨lane, hlane, by rw [laneFits, hquad, hunit, (quadLane_mem hlane).2, beq_self_eq_true]; rfl⟩

/-! ### Needs that are met -/

theorem need_of_powered {s : State} {d : Nat} (h : powered s d = true) : need s d = s := by
  have hon : (isl s d).ps = .on := beq_iff_eq.1 h
  unfold need
  dsimp only
  split
  · rfl
  · rw [hon]

theorem locNeed_of_ready {s : State} {loc : Loc} (h : locReady s loc = true) : locNeed s loc = s := by
  have hfold : ∀ l : List Nat, l.all (powered s) = true → l.foldl need s = s := by
    intro l
    induction l with
    | nil => exact fun _ => rfl
    | cons d l ih =>
      intro hall
      rw [List.all_cons, Bool.and_eq_true_iff] at hall
      rw [List.foldl_cons, need_of_powered hall.1]
      exact ih hall.2
  exact hfold _ h

/-! ### The one write candidate -/

/-- A mover's side with the one write of its one stream that may go. -/
structure OneWrite (s : State) (c : Nat) (x : Stream) (t : Tile) (g : Group) (r : Ready) (pa : Nat) : Prop where
  flows : flowing s c = some x
  tiles : x.tiles = [t]
  groups : t.groups = [g]
  ready : g.ready = [r]
  loc : r.line.loc = .ext pa
  tag : canTag s (.ext pa) true (dPrio x.desc) = true
  power : powered s (44 + memPortOf s pa / 2) = true
  free : heldLine s x t r.line = false
  apart : stradBlocked s c x t r.line = false

/-- The candidate of a ready line. -/
def writeCand (s : State) (c : Nat) (x : Stream) (t : Tile) (g : Group) (r : Ready) : Cand :=
  ⟨c, dPrio x.desc, r.line.loc, g.quad, writeUnit s c x g r.line.loc, t.no, g.no⟩

section
variable {s : State} {c : Nat} {x : Stream} {t : Tile} {g : Group} {r : Ready} {pa : Nat} (h : OneWrite s c x t g r pa)
include h

theorem OneWrite.locReady : locReady s r.line.loc = true := by
  rw [h.loc]
  simp [Machine.locReady, locDomains, h.power]

theorem OneWrite.lines : Machine.readyLines s c x = [(t, g, r)] := by
  simp [Machine.readyLines, allGroups, h.tiles, h.groups, h.ready, h.free, h.apart]

theorem OneWrite.cands : writeCands s c = [writeCand s c x t g r] := by
  have htag : (canTag s r.line.loc true (dPrio x.desc) && Machine.locReady s r.line.loc) = true := by
    rw [h.locReady, h.loc, h.tag]
    rfl
  unfold writeCands
  rw [h.flows]
  dsimp only
  rw [h.lines]
  simp only [List.filterMap_cons, List.filterMap_nil, htag, if_true]
  rfl

theorem OneWrite.of_ticks {u : State} (k : OnlyTicks s u) : OneWrite u c x t g r pa := by
  have hframe := k
  unfold OnlyTicks at hframe
  refine ⟨(k.flowing c).trans h.flows, h.tiles, h.groups, h.ready, h.loc, (k.canTag _ _ _).trans h.tag, ?_, ?_, (k.stradBlocked _ _ _ _).trans h.apart⟩
  · rw [memPortOf_of_img k.img, hframe]
    exact h.power
  · rw [hframe]
    exact h.free

theorem OneWrite.issued (lane : Nat) : ∃ u l, issueNextWrite s (writeCand s c x t g r) lane = (u, some (l, true, dPrio x.desc))
    ∧ WriteIssued s u c x t g r lane l := by
  have hx : stream s c = some (oneGroup x t g) := by
    rw [oneGroup_self h.tiles h.groups]
    exact stream_of_flowing h.flows
  obtain ⟨u, l, hissue, hkeep⟩ := issueWrite_ext hx h.ready h.loc lane
  refine ⟨u, l, ?_, hkeep⟩
  have hfind : readyAt s c x (writeCand s c x t g r) = some (t, g, r) := by
    rw [readyAt, h.lines]
    simp [writeCand]
  unfold issueNextWrite
  rw [show (writeCand s c x t g r).ch = c from rfl, h.flows]
  dsimp only
  rw [hfind]
  exact hissue

end

/-- A stream without ready lines has no write candidate. -/
theorem writeCands_written {s : State} {c : Nat} {x : Stream} {t : Tile} {g : Group} (hx : stream s c = some (written x t g)) :
    writeCands s c = [] := by
  unfold writeCands
  split
  · rfl
  · next y hy =>
    have hyx : y = written x t g := Option.some.inj ((stream_of_flowing hy).symm.trans hx)
    have hnone : Machine.readyLines s c y = [] := by
      rw [hyx]
      simp [Machine.readyLines, allGroups, written, oneGroup]
    rw [hnone]
    rfl

/-! ### The mover's slots -/

theorem slots_tickWin8 (s : State) (m : Nat) (write : Bool) : (tickWin8 s m write).path.slots = s.path.slots := by
  refine foldl_keeps (fun s => s.path.slots) (fun s k => ?_) _ s
  dsimp only
  split
  · rfl
  · unfold setWin8
    split <;> rfl

/-- A stream that is alone on its mover stays so as it is served. -/
theorem slots_takenUp {s : State} (hs : Canon s) {m c : Nat} (h : slots s m = [c]) (write : Bool) {k : Cand} (hk : k.ch = c) (lane : Nat) :
    slots (takenUp s m write k lane) m = [c] := by
  have hplace : slots (usePlace (bump s) (lane / 4) write k) m = [c] := by
    unfold usePlace setWin8
    split <;> exact h
  have hcanon : Canon (usePlace (bump s) (lane / 4) write k) := usePlace_canon _ _ _ _ (bump_canon _ hs)
  rw [takenUp, hk, rotate, hplace, if_pos (by simp)]
  refine (tget_tset_self _ _ hcanon.slots).trans ?_
  simp

/-! ### WRITE_ISSUE -/

theorem writeCand_of_ticks {s u : State} (k : OnlyTicks s u) (c : Nat) (x : Stream) (t : Tile) (g : Group) (r : Ready) :
    writeCand u c x t g r = writeCand s c x t g r := by
  unfold writeCand writeUnit
  rw [k.unitOf]

/-- The candidates of a mover's write side. -/
def writeSide (m : Nat) (s : State) : List Cand := (slots s m).flatMap (writeCands s)

theorem writeSide_one {s : State} {m c : Nat} {x : Stream} {t : Tile} {g : Group} {r : Ready} {pa : Nat} (hslot : slots s m = [c])
    (h : OneWrite s c x t g r pa) : writeSide m s = [writeCand s c x t g r] := by
  rw [writeSide, hslot, List.flatMap_cons, List.flatMap_nil, List.append_nil, h.cands]

/-- The line of the one write that may go leaves its stream and its mover's side. -/
theorem writeSide_issued {s : State} {m c : Nat} {x : Stream} {t : Tile} {g : Group} {r : Ready} {pa : Nat} (hs : Canon s) (hslot : slots s m = [c])
    (h : OneWrite s c x t g r pa) (lane : Nat) :
    ∃ u l, issueNextWrite (takenUp s m true (writeCand s c x t g r) lane) (writeCand s c x t g r) lane = (u, some (l, true, dPrio x.desc))
      ∧ WriteIssued (takenUp s m true (writeCand s c x t g r) lane) u c x t g r lane l ∧ writeSide m u = [] := by
  have htick := onlyTicks_takenUp s m true (writeCand s c x t g r) lane
  obtain ⟨u, l, hissue, hkeep⟩ := (h.of_ticks htick).issued lane
  rw [writeCand_of_ticks htick] at hissue
  refine ⟨u, l, hissue, hkeep, ?_⟩
  have hslots : slots u m = [c] := (congrArg (fun m' => tget (fun _ => []) m' m) hkeep.slots).trans (slots_takenUp hs hslot true rfl lane)
  rw [writeSide, hslots, List.flatMap_cons, List.flatMap_nil, List.append_nil, writeCands_written hkeep.here]

/-- An issued write goes out as a line with its data and its enables. -/
theorem writeIssued_sent {s v u : State} {c : Nat} {x : Stream} {t : Tile} {g : Group} {r : Ready} {pa lane : Nat} {l : Line}
    (hv : OnlyTicks s v) (h : WriteIssued v u c x t g r lane l) (hloc : r.line.loc = .ext pa)
    (hfence : tget (fun _ => 0) s.stage.fenceMem (memPortOf s pa) = 0) (prio : Nat) :
    ∃ tag, (sendAll 1 [(l, true, prio)] u).out = s.out ++ [.fab (memPortOf s pa) 1 3 pa (!chanSecure s c) false 0 tag r.data r.be]
      ∧ stream (sendAll 1 [(l, true, prio)] u) c = some (written x t g)
      ∧ ∃ k ∈ (sendAll 1 [(l, true, prio)] u).path.lines, k.ch = c ∧ k.loc = .ext pa ∧ k.kind = .write t.no t.att r.line.opnd (dAcc x.desc)
          ∧ k.data = r.data ∧ k.be = r.be := by
  have hport : memPortOf u pa = memPortOf s pa := (memPortOf_of_img h.img pa).trans (memPortOf_of_img hv.img pa)
  obtain ⟨id, hl⟩ := h.line
  have hlloc : l.loc = .ext pa := by rw [hl]; exact hloc
  have hns : l.ns = !chanSecure s c := by
    rw [hl, ← hv.chanSecure]
    rfl
  obtain ⟨hout, hchans, hlines⟩ := write_sent hlloc (by rw [hl]; rfl) (by rw [hport, h.stage, hv.stage]; exact hfence) prio
  refine ⟨fabId l, ?_, (stream_of_chans hchans c).trans h.here, l, hlines h.flies, ?_⟩
  · rw [hout, h.out, hv.out, hport, hns, hl]
    rfl
  · rw [hl]
    exact ⟨rfl, hloc, rfl, rfl, rfl⟩

theorem moverCfg_of_ready {s : State} {m : Nat} (h : moverReady s m = true) : (moverCfg s m).isNone = false := by
  unfold moverReady at h
  cases hm : moverCfg s m with
  | none => rw [hm] at h; exact absurd h Bool.false_ne_true
  | some e => rfl

theorem issueNeeds_oneWrite {s : State} {m c : Nat} {x : Stream} {t : Tile} {g : Group} {r : Ready} {pa : Nat} (hslot : slots s m = [c])
    (h : OneWrite s c x t g r pa) : issueNeeds s m true = s := by
  unfold issueNeeds
  rw [hslot, List.foldl_cons, List.foldl_nil, h.flows]
  dsimp only
  rw [if_pos rfl, h.lines, List.foldl_cons, List.foldl_nil, locNeed_of_ready h.locReady]

/-- A T-cycle of a write side, without a parity error. -/
theorem exec_writeSide {s : State} {m : Mv} (hop : operating s = true) (hmover : moverReady s m.val = true) (hneeds : issueNeeds s m.val true = s) :
    exec (.writeIssue ⟨m, none⟩) s = .next
      (let r := fillPlaces m.val true (writeSide m.val) issueNextWrite (moverWidth (tickWin8 s m.val true) m.val) [] (tickWin8 s m.val true, [])
       sendAll r.2.length r.2 r.1) := by
  have hnone : ∀ l : List Cand, (l.find? fun k => (none : Option Ch).any fun c => c.val == k.ch) = none :=
    fun l => List.find?_eq_none.2 fun k _ => by simp
  show execWriteIssue ⟨m, none⟩ s = _
  unfold execWriteIssue
  dsimp only
  rw [hop, moverCfg_of_ready hmover, hmover, hneeds, if_neg (by decide), if_neg (by decide)]
  rw [show (fun s => (slots s m.val).flatMap (writeCands s)) = writeSide m.val from rfl, hnone]
  rfl

/-- A write side with one write that may go issues it. -/
theorem exec_writeIssue {s : State} {m : Mv} {c : Nat} {x : Stream} {t : Tile} {g : Group} {r : Ready} {pa : Nat} (hs : Canon s)
    (hop : operating s = true) (hmover : moverReady s m.val = true) (hslot : slots s m.val = [c]) (hown : (chanCfg s c).mover = m.val)
    (h : OneWrite s c x t g r pa) (hlanes : quadLanes s m.val g.quad ≠ [])
    (hplace : ∀ lane ∈ quadLanes s m.val g.quad, placeLeft (tickWin8 s m.val true) (lane / 4) true = true) :
    ∃ v u lane l, exec (.writeIssue ⟨m, none⟩) s = .next (sendAll 1 [(l, true, dPrio x.desc)] u) ∧ OnlyTicks s v
      ∧ WriteIssued v u c x t g r lane l := by
  let w := tickWin8 s m.val true
  have hw : OnlyTicks s w := onlyTicks_tickWin8 _ _ _
  have hwcanon : Canon w := tickWin8_canon _ _ _ hs
  have hwslot : slots w m.val = [c] := (congrArg (fun m' => tget (fun _ => []) m' m.val) (slots_tickWin8 s m.val true)).trans hslot
  have hone := h.of_ticks hw
  have hside : writeSide m.val w = [writeCand w c x t g r] := writeSide_one hwslot hone
  obtain ⟨lane₀, hlane₀, hfit₀⟩ := exists_writeLane (hown ▸ hlanes) x r.line.loc (k := writeCand s c x t g r) rfl rfl
  rw [hown] at hlane₀
  have hrange := (quadLane_mem hlane₀).1
  have hwidth : 0 < moverWidth w m.val := by
    rw [hw.moverWidth]
    obtain ⟨n, hn, _⟩ := List.mem_map.1 hrange
    exact Nat.lt_of_le_of_lt (Nat.zero_le n) (List.mem_range.1 hn)
  obtain ⟨k, hk, lane, _, _, hfill⟩ := fillPlaces_one (cands := writeSide m.val) (act := issueNextWrite) (s := w) (write := true) (n := moverWidth w m.val)
    hwidth (by rw [hw.moverWidth]; exact hrange) (hplace lane₀ hlane₀)
    (by rw [hside, writeCand_of_ticks hw, List.any_cons, hfit₀]; rfl)
    (fun k hk lane _ => by
      rw [hside, List.mem_singleton] at hk
      obtain ⟨u, l, hissue, _, hnone⟩ := writeSide_issued hwcanon hwslot hone lane
      rw [hk, hissue]
      exact hnone)
  rw [hside, List.mem_singleton] at hk
  obtain ⟨u, l, hissue, hkeep, _⟩ := writeSide_issued hwcanon hwslot hone lane
  rw [hk, hissue] at hfill
  refine ⟨_, u, lane, l, ?_, hw.trans (onlyTicks_takenUp w m.val true (writeCand w c x t g r) lane), hkeep⟩
  rw [exec_writeSide hop hmover (issueNeeds_oneWrite hslot h), hfill]
  rfl

/-! ### HELD_WRITE_ISSUE (R58) -/

/-- The held line that alone is left of its descriptor. -/
structure HeldAlone (s : State) (c : Nat) (x : Stream) (t : Tile) (g : Group) (r : Ready) (pa : Nat) : Prop where
  flows : flowing s c = some x
  tiles : x.tiles = [t]
  walked : t.walked = true
  groups : t.groups = [g]
  read : g.toRead = []
  left : g.outs = []
  cast : g.emitted = []
  ready : g.ready = [r]
  held : heldLine s x t r.line = true
  last : genMore s x = some false
  loc : r.line.loc = .ext pa
  tag : canTag s (.ext pa) true (dPrio x.desc) = true
  power : powered s (44 + memPortOf s pa / 2) = true

/-- The only line that waits is of the class that goes first. -/
theorem classFirst_one (s : State) (k : Nat) (write : Bool) (c : Cand) : (classFirst s k write [c]).contains c = true := by
  obtain ⟨hall, hne⟩ := classFirst_mem (s := s) (k := k) (write := write) (cs := [c])
  obtain ⟨d, hd⟩ := List.exists_mem_of_ne_nil _ (hne (List.cons_ne_nil _ _))
  rw [List.contains_iff_mem]
  exact List.mem_singleton.1 (hall d hd) ▸ hd

section
variable {s : State} {c : Ch} {x : Stream} {t : Tile} {g : Group} {r : Ready} {pa : Nat} (h : HeldAlone s c.val x t g r pa)
include h

theorem heldReady_eq : heldReady s c.val x = if descLines s c.val then none else some (t, g, r) := by
  have hrest : ((allGroups x).flatMap fun e => e.2.ready.map fun r => (e.1, e.2, r)) = [(t, g, r)] := by
    simp [allGroups, h.tiles, h.groups, h.ready]
  have hothers : ((allGroups x).any fun e => !e.2.toRead.isEmpty || !e.2.outs.isEmpty || !e.2.emitted.isEmpty) = false := by
    simp [allGroups, h.tiles, h.groups, h.read, h.left, h.cast]
  unfold heldReady
  rw [hrest, hothers]
  dsimp only
  rw [h.last, h.held, h.tiles, List.all_cons, h.walked]
  cases descLines s c.val <;> rfl

/-- The held line waits for every other line of its descriptor. -/
theorem exec_held_waits (hlines : descLines s c.val = true) : exec (.heldWriteIssue c) s = .next s := by
  show execHeldWriteIssue c s = _
  unfold execHeldWriteIssue
  rw [h.flows]
  dsimp only
  rw [heldReady_eq h, hlines]
  rfl

/-- The held line goes once it is the only line of its descriptor. -/
theorem exec_held_goes (hlines : descLines s c.val = false) (hlanes : quadLanes s (chanCfg s c.val).mover g.quad ≠ [])
    (hside : writeSide (chanCfg s c.val).mover s = [])
    (hplace : ∀ lane ∈ quadLanes s (chanCfg s c.val).mover g.quad, placeLeft s (lane / 4) true = true) :
    ∃ v u lane l, exec (.heldWriteIssue c) s = .next (sendAll 1 [(l, true, dPrio x.desc)] u) ∧ OnlyTicks s v
      ∧ WriteIssued v u c.val x t g r lane l := by
  let m := (chanCfg s c.val).mover
  let k := writeCand s c.val x t g r
  let ls := (quadLanes s m g.quad).filter (laneFits · k)
  obtain ⟨lane₀, hlane₀, hfit₀⟩ := exists_writeLane hlanes x r.line.loc (k := k) rfl rfl
  have hlt := Nat.mod_lt (Config.pick s.fresh) (List.length_pos_of_mem (show lane₀ ∈ ls from List.mem_filter.2 ⟨hlane₀, hfit₀⟩))
  let lane := ls.getD (Config.pick s.fresh % ls.length) 0
  have hlane : lane ∈ quadLanes s m g.quad := by
    have hmem : lane ∈ ls := by
      rw [show lane = ls[Config.pick s.fresh % ls.length] from List.getD_eq_getElem _ _ hlt]
      exact List.getElem_mem hlt
    exact List.mem_of_mem_filter hmem
  have hheld : heldPlace s m lane k = true := by
    unfold heldPlace
    rw [show (slots s m).flatMap (writeCands s) = [] from hside, List.filter_nil, hplace lane hlane]
    exact classFirst_one _ _ _ _
  have hready : locReady s r.line.loc = true := by
    rw [h.loc]
    simp [Machine.locReady, locDomains, h.power]
  have htag : canTag s r.line.loc true (dPrio x.desc) = true := by rw [h.loc, h.tag]
  have hv := onlyTicks_takenUp s m true k lane
  have hx : stream (takenUp s m true k lane) c.val = some (oneGroup x t g) := by
    rw [oneGroup_self h.tiles h.groups]
    exact stream_of_flowing ((hv.flowing c.val).trans h.flows)
  obtain ⟨u, l, hissue, hkeep⟩ := issueWrite_ext hx h.ready h.loc lane
  refine ⟨takenUp s m true k lane, u, lane, l, ?_, hv, hkeep⟩
  show execHeldWriteIssue c s = _
  unfold execHeldWriteIssue
  rw [h.flows]
  dsimp only
  rw [heldReady_eq h, hlines, if_neg Bool.false_ne_true]
  dsimp only
  rw [hready, htag]
  refine (if_neg (by decide)).trans ((if_neg (show ¬ (!true || !heldPlace s m lane k) = true by rw [hheld]; decide)).trans ?_)
  exact congrArg (fun a : State × Option Sent => Host.Outcome.next (sendAll 1 a.2.toList a.1)) hissue

end

end Sys2Proof.Proofs
end

section
/-! READ_ISSUE and RELAY_FORWARD (R19 to R24, R112, R178, R182, R184). -/

namespace Sys2Proof.Proofs

open Sys2Proof Sys2Proof.Machine Sys2Proof.Laws

/-! ### A group has its reservation -/

/-- Streams, slots, windows and the quadrants' counters have moved, and free values have been taken. -/
def OnlyGroups (s t : State) : Prop := t = { s with
  chans := t.chans
  path := { s.path with slots := t.path.slots, winRd := t.path.winRd, winWr := t.path.winWr, kq := t.path.kq }
  fresh := t.fresh }

theorem OnlyGroups.trans {s t u : State} (h : OnlyGroups s t) (k : OnlyGroups t u) : OnlyGroups s u := by
  unfold OnlyGroups at h k ⊢
  rw [h] at k
  exact k

theorem OnlyTicks.onlyGroups {s t : State} (h : OnlyTicks s t) : OnlyGroups s t := by
  unfold OnlyGroups
  rw [h]

/-- A group is reserved where it needs a reservation and finds one. -/
theorem reserved_one {s : State} {m c : Nat} {x : Stream} {t : Tile} {g : Group} (hx : stream s c = some x) (ht : x.tiles = [t])
    (hg : t.groups = [g]) (hland : g.reserved = true ∨ canLand s m g = true) :
    ∃ u b, Machine.reserved s m c x (t, g) = some u ∧ OnlyGroups s u ∧ u.path.slots = s.path.slots
      ∧ chan u c = { chan s c with stream := some (oneGroup x t { g with reserved := b }) } := by
  unfold Machine.reserved
  by_cases hneeds : needsLand g = true
  · have hcan : canLand s m g = true := by
      refine hland.resolve_left fun hres => ?_
      rw [needsLand, hres] at hneeds
      exact absurd hneeds (by simp)
    have hgroups : allGroups x = [(t, g)] := by simp [allGroups, ht, hg]
    have hres : modGroup s c t.no g.no (fun g => { g with reserved := true }) = setStream s c (oneGroup x t { g with reserved := true }) := by
      rw [← oneGroup_self ht hg] at hx
      exact modGroup_one hx _
    rw [if_pos hneeds, hgroups]
    refine ⟨reserveLand s c t g, true, ?_, ?_, ?_, ?_⟩
    · rw [reserveTo]
      dsimp only
      rw [if_neg (Nat.lt_irrefl _), hneeds, hcan]
      rfl
    all_goals rw [reserveLand, if_pos hneeds, hres]
    · exact rfl
    · exact rfl
    · exact chan_setStream _ _ _
  · rw [if_neg hneeds]
    refine ⟨s, g.reserved, rfl, rfl, rfl, ?_⟩
    rw [show ({ g with reserved := g.reserved } : Group) = g from rfl, oneGroup_self ht hg, ← hx]
    rfl

/-! ### The one read candidate -/

/-- A mover's side with the one read of its one stream that may go. -/
structure OneRead (s : State) (m c : Nat) (x : Stream) (t : Tile) (g : Group) (loc : Loc) (o : Nat) : Prop where
  flows : flowing s c = some x
  turn : readTurn s x = true
  tiles : x.tiles = [t]
  groups : t.groups = [g]
  read : g.toRead = [(loc, .data, o)]
  land : g.reserved = true ∨ canLand s m g = true
  tag : canTag s loc false (dPrio x.desc) = true
  power : locReady s loc = true
  quad : g.quad ∈ moverQuads s m
  echo : echoPage s x t .data loc = false

/-- The candidate of a read on the lanes of a unit. -/
def readCand (c : Nat) (x : Stream) (t : Tile) (g : Group) (loc : Loc) (unit : Nat) : Cand :=
  ⟨c, dPrio x.desc, loc, g.quad, some unit, t.no, g.no⟩

section
variable {s : State} {m c : Nat} {x : Stream} {t : Tile} {g : Group} {loc : Loc} {o : Nat} (h : OneRead s m c x t g loc o)
include h

theorem OneRead.here : stream s c = some x := stream_of_flowing h.flows

theorem OneRead.readGroups (q : Nat) : Machine.readGroups x q = if g.quad = q then [(t, g)] else [] := by
  by_cases hq : g.quad = q
  · rw [if_pos hq]
    simp [Machine.readGroups, allGroups, h.tiles, h.groups, h.read, hq]
  · rw [if_neg hq]
    simp [Machine.readGroups, allGroups, h.tiles, h.groups, h.read, hq]

theorem OneRead.found (u : Nat) : g.toRead.find? (lineMay s m c u x (t, g)) = some (loc, .data, o) := by
  have hmay : lineMay s m c u x (t, g) (loc, .data, o) = true := by
    rw [lineMay, h.tag, h.power]
    rfl
  rw [h.read, List.find?_cons, hmay]

/-- The candidates are those of the units of the group's quadrant. -/
theorem OneRead.cands {k : Cand} : k ∈ readCands s m c ↔ ∃ u ∈ quadUnits s m g.quad, k = readCand c x t g loc u := by
  obtain ⟨v, b, hres, _⟩ := reserved_one (m := m) h.here h.tiles h.groups h.land
  have hone : ∀ q u, ((Machine.readGroups x q).findSome? fun e => match e.2.toRead.find? (lineMay s m c u x e) with
      | none => none
      | some r => if (Machine.reserved s m c x e).isNone then none else some (⟨c, dPrio x.desc, r.1, q, some u, e.1.no, e.2.no⟩ : Cand))
      = if g.quad = q then some (readCand c x t g loc u) else none := by
    intro q u
    rw [h.readGroups q]
    by_cases hq : g.quad = q
    · rw [if_pos hq, if_pos hq, List.findSome?_cons]
      dsimp only
      rw [h.found u]
      dsimp only
      rw [hres, ← hq]
      rfl
    · rw [if_neg hq, if_neg hq]
      rfl
  unfold readCands
  rw [h.flows]
  dsimp only
  rw [h.turn, if_neg (by decide), List.mem_flatMap]
  constructor
  · rintro ⟨q, _, hk⟩
    obtain ⟨u, hu, hk⟩ := List.mem_filterMap.1 hk
    have hk := (hone q u).symm.trans hk
    by_cases hq : g.quad = q
    · rw [if_pos hq] at hk
      exact ⟨u, hq ▸ hu, (Option.some.inj hk).symm⟩
    · rw [if_neg hq] at hk
      exact absurd hk.symm (Option.some_ne_none k)
  · rintro ⟨u, hu, rfl⟩
    exact ⟨g.quad, h.quad, List.mem_filterMap.2 ⟨u, hu, (hone g.quad u).trans (if_pos rfl)⟩⟩

theorem OneRead.of_ticks {u : State} (k : OnlyTicks s u) : OneRead u m c x t g loc o := by
  have hframe := k
  unfold OnlyTicks at hframe
  refine ⟨(k.flowing c).trans h.flows, (k.readTurn x).trans h.turn, h.tiles, h.groups, h.read, ?_, (k.canTag _ _ _).trans h.tag,
    (k.locReady loc).trans h.power, ?_, ?_⟩
  · rw [k.canLand]
    exact h.land
  · rw [moverQuads, k.moverWidth]
    exact h.quad
  · rw [← h.echo, hframe]
    rfl

end

/-- A stream whose one group has no line to read has no read candidate. -/
theorem readCands_none {s : State} {m c : Nat} {x : Stream} {t : Tile} {g : Group} (hx : stream s c = some (oneGroup x t g))
    (hnone : g.toRead = []) : readCands s m c = [] := by
  have hgroups : ∀ q, Machine.readGroups (oneGroup x t g) q = [] := fun q => by simp [Machine.readGroups, allGroups, oneGroup, hnone]
  unfold readCands
  split
  · rfl
  · next y hy =>
    have hyx : y = oneGroup x t g := Option.some.inj ((stream_of_flowing hy).symm.trans hx)
    rw [hyx]
    split
    · rfl
    · rw [List.flatMap_eq_nil_iff]
      intro q _
      rw [List.filterMap_eq_nil_iff]
      intro u _
      rw [hgroups q]
      rfl

/-! ### A read is issued -/

/-- The line of a read, without its number. -/
def readFlight (s : State) (c : Nat) (t : Tile) (g : Group) (loc : Loc) (o lane : Nat) : Line :=
  { id := 0, pool := poolFor loc false, ch := c, dseq := (chan s c).seq, kind := .read t.no t.att g.no .data o, loc := loc
    ns := !chanSecure s c, data := 0, be := 0, gen := (chan s c).gen, xgen := t.xgen, asid := t.xasid, echo := 0, lane := lane, left := [] }

/-- What the issue of a read leaves: its line in flight, and its group without it. -/
structure ReadIssued (s u : State) (c : Nat) (x : Stream) (t : Tile) (g : Group) (loc : Loc) (o lane : Nat) (l : Line) : Prop where
  out : u.out = s.out
  stage : u.stage = s.stage
  img : u.img = s.img
  slots : u.path.slots = s.path.slots
  lines : u.path.lines = s.path.lines ++ [l]
  here : ∃ b, stream u c = some (oneGroup x t { g with reserved := b, toRead := [] })
  line : ∃ id, l = { readFlight s c t g loc o lane with id := id }

/-- Only the sync hub has moved. -/
def OnlyHub (s t : State) : Prop := t = { s with hub := t.hub }

theorem OnlyHub.trans {s t u : State} (h : OnlyHub s t) (k : OnlyHub t u) : OnlyHub s u := by
  unfold OnlyHub at h k ⊢
  rw [h] at k
  exact k

/-- The issue of a last read is counted in its rings, and changes nothing else. -/
theorem onlyHub_markIssued (s : State) (c : Nat) : OnlyHub s (markIssued s c) := by
  have hring : ∀ (u : State) (r : Nat) (y : Ring) (p : Prop) [Decidable p], OnlyHub u (if p then setRing u r y else u) := by
    intro u r y p _
    split <;> rfl
  unfold markIssued
  split
  · rfl
  · split
    · extract_lets v
      have hv : OnlyHub s v := by
        unfold v
        split
        · exact hring _ _ _ _
        · rfl
      split
      · exact hv.trans (hring v _ _ _)
      · exact hv
    · rfl

theorem echoLook_of_page {s : State} {x : Stream} {t : Tile} {loc : Loc} (h : echoPage s x t .data loc = false) (ns : Bool) :
    echoLook s ns x t .data loc = none := by
  cases loc with
  | ext pa => rw [echoLook, h]; rfl
  | hole _ | stage _ | relay _ _ | core _ _ | remote _ _ _ => rfl

/-- The one read that may go is issued on a lane of its unit. -/
theorem OneRead.issued {s : State} {m c : Nat} {x : Stream} {t : Tile} {g : Group} {loc : Loc} {o : Nat} (h : OneRead s m c x t g loc o)
    (hown : (chanCfg s c).mover = m) (hworld : worldBad s c loc = false) (hfails : autoErr s loc false false = false) (unit lane : Nat) :
    ∃ u l, issueRead s (readCand c x t g loc unit) lane = (u, some (l, false, dPrio x.desc)) ∧ ReadIssued s u c x t g loc o lane l := by
  subst hown
  have hcand : candGroup x (readCand c x t g loc unit) = some (t, g) := by
    simp [candGroup, allGroups, h.tiles, h.groups, readCand]
  obtain ⟨v, b, hres, hv, hslots, hchan⟩ := reserved_one (m := (chanCfg s c).mover) h.here h.tiles h.groups h.land
  have hxv : stream v c = some (oneGroup x t { g with reserved := b }) := congrArg Chan.stream hchan
  let w := setStream v c (oneGroup x t { g with reserved := b, toRead := [] })
  have hw : modGroup v c t.no g.no (fun g => { g with toRead := g.toRead.erase (loc, .data, o) }) = w := by
    refine (modGroup_one (g := { g with reserved := b }) hxv _).trans ?_
    simp [w, h.read]
  have hwg : OnlyGroups s w := hv.trans rfl
  have hwchan : chan w c = { chan s c with stream := some (oneGroup x t { g with reserved := b, toRead := [] }) } := by
    rw [chan_setStream, hchan]
  have hline : readLine w c x t g (loc, .data, o) lane = readFlight s c t g loc o lane := by
    have hsec : chanSecure w c = chanSecure s c := by
      unfold OnlyGroups at hwg
      rw [hwg]
      rfl
    have hecho : echoPage w x t .data loc = false := by
      unfold OnlyGroups at hwg
      rw [← h.echo, hwg]
      rfl
    rw [readLine, readFlight]
    dsimp only
    rw [echoLook_of_page hecho, hwchan, hsec]
  obtain ⟨achans, aout, astage, aimg, aslots, alines, aline⟩ := addLine_frame w (readFlight s c t g loc o lane)
  have hmark := onlyHub_markIssued (addLine w (readFlight s c t g loc o lane)).1 c
  refine ⟨markIssued (addLine w (readFlight s c t g loc o lane)).1 c, (addLine w (readFlight s c t g loc o lane)).2, ?_, ?_⟩
  · unfold issueRead
    dsimp only
    rw [show (readCand c x t g loc unit).ch = c from rfl, h.flows]
    dsimp only
    rw [hcand]
    dsimp only
    rw [h.found]
    dsimp only
    rw [hworld, hfails, hres, if_neg Bool.false_ne_true, if_neg Bool.false_ne_true, Option.getD_some, hw, hline]
    rfl
  · unfold OnlyHub at hmark
    unfold OnlyGroups at hwg
    rw [hmark]
    refine ⟨?_, ?_, ?_, ?_, ?_, ⟨b, ?_⟩, aline⟩
    · exact aout.trans (by rw [hwg])
    · exact astage.trans (by rw [hwg])
    · exact aimg.trans (by rw [hwg])
    · exact aslots.trans hslots
    · exact alines.trans (by rw [hwg])
    · exact (congrArg Chan.stream (chan_of_chans achans c)).trans (congrArg Chan.stream hwchan)

/-! ### READ_ISSUE -/

/-- No stream of one priority displaces another (R21). -/
theorem undisplaced_same {cs : List Cand} {p : Nat} (h : ∀ k ∈ cs, k.prio = p) : undisplaced cs = cs := by
  refine List.filter_eq_self.2 fun k hk => ?_
  have hnone : (cs.any fun j => isRemote j.loc == isRemote k.loc && decide (j.prio < k.prio)) = false := by
    rw [List.any_eq_false]
    intro j hj
    rw [h j hj, h k hk]
    simp
  rw [hnone]
  rfl

/-- The candidates of a mover's read side. -/
def readSide (m : Nat) (s : State) : List Cand := undisplaced ((slots s m).flatMap (readCands s m))

theorem readSide_one {s : State} {m c : Nat} {x : Stream} {t : Tile} {g : Group} {loc : Loc} {o : Nat} (hslot : slots s m = [c])
    (h : OneRead s m c x t g loc o) {k : Cand} : k ∈ readSide m s ↔ ∃ u ∈ quadUnits s m g.quad, k = readCand c x t g loc u := by
  have hprio : ∀ k ∈ readCands s m c, k.prio = dPrio x.desc := by
    intro k hk
    obtain ⟨u, _, rfl⟩ := h.cands.1 hk
    rfl
  rw [readSide, hslot, List.flatMap_cons, List.flatMap_nil, List.append_nil, undisplaced_same hprio]
  exact h.cands

/-- The line of the one read that may go leaves its group and its mover's side. -/
theorem readSide_issued {s : State} {m c : Nat} {x : Stream} {t : Tile} {g : Group} {loc : Loc} {o : Nat} (hs : Canon s) (hslot : slots s m = [c])
    (h : OneRead s m c x t g loc o) (hown : (chanCfg s c).mover = m) (hworld : worldBad s c loc = false) (hfails : autoErr s loc false false = false)
    (unit lane : Nat) :
    ∃ u l, issueRead (takenUp s m false (readCand c x t g loc unit) lane) (readCand c x t g loc unit) lane = (u, some (l, false, dPrio x.desc))
      ∧ ReadIssued (takenUp s m false (readCand c x t g loc unit) lane) u c x t g loc o lane l ∧ readSide m u = [] := by
  have htick := onlyTicks_takenUp s m false (readCand c x t g loc unit) lane
  have hfails' := (htick.autoErr loc false false).trans hfails
  obtain ⟨u, l, hissue, hkeep⟩ := (h.of_ticks htick).issued ((congrArg ChanCfg.mover (htick.chanCfg c)).trans hown)
    ((htick.worldBad c loc).trans hworld) hfails' unit lane
  refine ⟨u, l, hissue, hkeep, ?_⟩
  obtain ⟨b, hhere⟩ := hkeep.here
  have hslots : slots u m = [c] := (congrArg (fun m' => tget (fun _ => []) m' m) hkeep.slots).trans (slots_takenUp hs hslot false rfl lane)
  rw [readSide, hslots, List.flatMap_cons, List.flatMap_nil, List.append_nil, readCands_none hhere rfl]
  rfl

theorem issueNeeds_oneRead {s : State} {m c : Nat} {x : Stream} {t : Tile} {g : Group} {loc : Loc} {o : Nat} (hslot : slots s m = [c])
    (h : OneRead s m c x t g loc o) : issueNeeds s m false = s := by
  have hquad : ∀ q : Nat, (match (Machine.readGroups x q).findSome? (nextLine s m c x) with | some r => locNeed s r.1 | none => s) = s := by
    intro q
    rw [h.readGroups q]
    by_cases hq : g.quad = q
    · have hnext : nextLine s m c x (t, g) = some (loc, .data, o) := by rw [nextLine, h.read]; rfl
      rw [if_pos hq, List.findSome?_cons, hnext]
      exact locNeed_of_ready h.power
    · rw [if_neg hq]
      rfl
  have hfold : ∀ l : List Nat, l.foldl (fun s q => match (Machine.readGroups x q).findSome? (nextLine s m c x) with
      | some r => locNeed s r.1
      | none => s) s = s := by
    intro l
    induction l with
    | nil => rfl
    | cons q l ih => rw [List.foldl_cons, hquad q]; exact ih
  unfold issueNeeds
  rw [hslot, List.foldl_cons, List.foldl_nil, h.flows]
  exact hfold _

/-- A T-cycle of a read side, without a parity error. -/
theorem exec_readSide {s : State} {m : Mv} (hop : operating s = true) (hmover : moverReady s m.val = true) (hneeds : issueNeeds s m.val false = s) :
    let u := countResWait (tickWin8 s m.val false) m.val
    exec (.readIssue ⟨m, none⟩) s = .next
      (let r := fillPlaces m.val false (readSide m.val) issueRead (moverWidth u m.val) [] (u, [])
       sendAll r.2.length r.2 r.1) := by
  have hnone : ∀ l : List Cand, (l.find? fun k => (none : Option Ch).any fun c => c.val == k.ch) = none :=
    fun l => List.find?_eq_none.2 fun k _ => by simp
  intro u
  show execReadIssue ⟨m, none⟩ s = _
  unfold execReadIssue
  dsimp only
  rw [hop, moverCfg_of_ready hmover, hmover, hneeds, if_neg (by decide), if_neg (by decide)]
  rw [show (fun s => undisplaced ((slots s m.val).flatMap (readCands s m.val))) = readSide m.val from rfl, hnone]
  rfl

/-- What of the data path the count of waits for landing space leaves (R112). -/
theorem countResWait_windows (s : State) (m : Nat) : (countResWait s m).path.slots = s.path.slots ∧ (countResWait s m).path.winRd = s.path.winRd := by
  have hfold := foldl_keeps (fun s : State => (s.path.slots, s.path.winRd)) (g := fun s q =>
    if (im s).movers.any fun e => (moverQuads s e.low).contains q && decide (e.low < m) then s
    else
      let stuck := s.chans.any fun e => match flowing s e.1 with
        | some x => readTurn s x && (match nextLand x with
            | some (_, g) => g.quad == q && !canLand s (chanCfg s e.1).mover g
            | none => false)
        | none => false
      if stuck then let k := kq s q; setKq s q { k with reswait := k.reswait + 1 } else s) (fun s q => by
        dsimp only
        split
        · rfl
        · split <;> rfl) (moverQuads s m) s
  exact Prod.mk.inj hfold

/-- A read side with one read that may go issues it. -/
theorem exec_readIssue {s : State} {m : Mv} {c : Nat} {x : Stream} {t : Tile} {g : Group} {loc : Loc} {o : Nat} (hs : Canon s)
    (hop : operating s = true) (hmover : moverReady s m.val = true) (hslot : slots s m.val = [c]) (hown : (chanCfg s c).mover = m.val)
    (h : OneRead s m.val c x t g loc o) (hworld : worldBad s c loc = false) (hfails : autoErr s loc false false = false)
    (hlanes : quadLanes s m.val g.quad ≠ [])
    (hplace : ∀ lane ∈ quadLanes s m.val g.quad, placeLeft (tickWin8 s m.val false) (lane / 4) false = true) :
    ∃ v u lane l, exec (.readIssue ⟨m, none⟩) s = .next (sendAll 1 [(l, false, dPrio x.desc)] u) ∧ OnlyTicks s v
      ∧ ReadIssued v u c x t g loc o lane l ∧ lane ∈ quadLanes s m.val g.quad := by
  let w := countResWait (tickWin8 s m.val false) m.val
  have hw : OnlyTicks s w := (onlyTicks_tickWin8 _ _ _).trans (onlyTicks_countResWait _ _)
  obtain ⟨hwslots, hwwin⟩ := countResWait_windows (tickWin8 s m.val false) m.val
  have hwcanon : Canon w := countResWait_canon _ _ (tickWin8_canon _ _ _ hs)
  have hwslot : slots w m.val = [c] :=
    (congrArg (fun m' => tget (fun _ => []) m' m.val) (hwslots.trans (slots_tickWin8 s m.val false))).trans hslot
  have hone := h.of_ticks hw
  have hworld' := (hw.worldBad c loc).trans hworld
  have hfails' := (hw.autoErr loc false false).trans hfails
  have hown' := (congrArg ChanCfg.mover (hw.chanCfg c)).trans hown
  obtain ⟨lane₀, hlane₀⟩ := List.exists_mem_of_ne_nil _ hlanes
  have hrange := (quadLane_mem hlane₀).1
  have hwidth : 0 < moverWidth w m.val := by
    rw [hw.moverWidth]
    obtain ⟨n, hn, _⟩ := List.mem_map.1 hrange
    exact Nat.lt_of_le_of_lt (Nat.zero_le n) (List.mem_range.1 hn)
  have hplace₀ : placeLeft w (lane₀ / 4) false = true := by
    have hleft := hplace lane₀ hlane₀
    unfold placeLeft win8 at hleft ⊢
    rw [if_neg Bool.false_ne_true] at hleft ⊢
    rw [show w.path.winRd = (tickWin8 s m.val false).path.winRd from hwwin]
    exact hleft
  have hfits : (readSide m.val w).any (laneFits lane₀) = true := by
    refine List.any_eq_true.2 ⟨readCand c x t g loc (lane₀ / 4), (readSide_one hwslot hone).2 ⟨lane₀ / 4, ?_, rfl⟩, ?_⟩
    · rw [hw.quadUnits]
      exact quadUnit_of_lane hlane₀
    · rw [laneFits, show (readCand c x t g loc (lane₀ / 4)).quad = g.quad from rfl, (quadLane_mem hlane₀).2, beq_self_eq_true]
      exact beq_self_eq_true (lane₀ / 4)
  obtain ⟨k, hk, lane, hlane, hfit, hfill⟩ := fillPlaces_one (cands := readSide m.val) (act := issueRead) (s := w) (write := false)
    (n := moverWidth w m.val) hwidth (by rw [hw.moverWidth]; exact hrange) hplace₀ hfits
    (fun k hk lane _ => by
      obtain ⟨unit, _, rfl⟩ := (readSide_one hwslot hone).1 hk
      obtain ⟨u, l, hissue, _, hnone⟩ := readSide_issued hwcanon hwslot hone hown' hworld' hfails' unit lane
      rw [hissue]
      exact hnone)
  obtain ⟨unit, _, rfl⟩ := (readSide_one hwslot hone).1 hk
  obtain ⟨u, l, hissue, hkeep, _⟩ := readSide_issued hwcanon hwslot hone hown' hworld' hfails' unit lane
  rw [hissue] at hfill
  refine ⟨_, u, lane, l, ?_, hw.trans (onlyTicks_takenUp w m.val false (readCand c x t g loc unit) lane), hkeep, ?_⟩
  · rw [exec_readSide hop hmover (issueNeeds_oneRead hslot h), hfill]
    rfl
  · rw [hw.moverWidth] at hlane
    exact quadLane_of_fits hlane hfit

/-! ### RELAY_FORWARD (R182) -/

/-- A member of a chain takes a line on its way to the next one. -/
theorem exec_relayForward {s : State} {l : Line} {n off k : Nat} {rest : List Nat} (hl : lineOf s l.id = some l) (hloc : l.loc = .relay n off)
    (hleft : l.left = k :: rest) (hlost : l.left.contains lostMark = false) (hecho : l.echo = 0) (hheld : heldAtCore s l = false)
    (hwait : chainWaits s n k l.id = false) (hfence : coreFenced s k (coreInput s k l) = false) (herr : coreErr s k off true = false)
    (hact : actPos s k off = none) :
    ∃ t, exec (.relayForward l.id) s = .next (emit t (.core k off (coreDest s k off) 1 l.ns false 0 (l.id % 65536) l.data l.be))
      ∧ t = { setLines s (s.path.lines.map fun y => if y.id == l.id then { l with left := rest } else y) with
          stage := { s.stage with rankCore := t.stage.rankCore } } := by
  let u := setLines s (s.path.lines.map fun y => if y.id == l.id then { l with left := rest } else y)
  have hanswer : noAnswer s l = false := by
    rw [noAnswer, hlost, hloc, hecho]
    rfl
  have hpass : ¬ (heldAtCore s l || noAnswer s l || chainWaits s n k l.id) = true := by rw [hheld, hanswer, hwait]; decide
  have hsent : coreWrite u k off { l with left := rest }
      = emit (grantCore u k (coreInput u k { l with left := rest }))
        (.core k off (coreDest s k off) 1 l.ns false 0 (l.id % 65536) l.data l.be) := by
    unfold coreWrite
    dsimp only
    rw [show actPos u k off = none from hact]
    show toCoreAs u k _ 1 false 0 { l with left := rest } = _
    unfold toCoreAs
    dsimp only
    rw [hloc]
    rfl
  refine ⟨grantCore u k (coreInput u k { l with left := rest }), ?_, rfl⟩
  show execRelayForward l.id s = _
  unfold execRelayForward
  rw [hl]
  dsimp only
  rw [hleft, hloc]
  dsimp only
  rw [if_neg hpass, if_neg (by rw [hfence]; decide), ← hloc]
  exact (if_neg (show ¬ coreErr u k off true = true from fun h => Bool.false_ne_true (herr.symm.trans h))).trans (congrArg Host.Outcome.next hsent)

/-- The place of a stage offset follows from the image and the pools' salts. -/
theorem placeOf_of_stage {s t : State} (himg : t.img = s.img) (hstage : t.stage = s.stage) (a : Nat) : placeOf t a = placeOf s a := by
  unfold placeOf poolOf poolSt im
  rw [himg, hstage]

/-- Settles O39: the one line that may go is issued (`exec_readIssue`, `exec_writeIssue`, `exec_held_goes`) and sent (`read_sent`, `stage_sent`,
`writeIssued_sent`), and a chain's member passes its line on (`exec_relayForward`). -/
theorem linesAreIssued : Obligations.LinesAreIssued := by
  unfold Obligations.LinesAreIssued
  refine ⟨fun s m c x t g loc o hs hop hmover hslot hown hflow hturn ht hg hread hland htag hready hquad hlanes hecho hplace => ?_,
    fun s m c x t g r pa hs hop hmover hslot hown hflow hfinal ht hg hr hloc htag hstrad hlanes hpow hfence hplace => ?_,
    fun s c x t g r pa hs hflow ht hwalked hg hread hleft hcast hr hheld hlast hloc htag hpow hfence => ?_,
    fun s l n off k rest hl hloc hleft hlost hecho hheld hwait hfence herr hact =>
      exec_relayForward hl hloc hleft hlost hecho hheld hwait hfence herr hact⟩
  · have h : OneRead s m.val c x t g loc o := ⟨hflow, hturn, ht, hg, hread, hland, htag, hready, hquad, hecho⟩
    refine ⟨fun pa hpa hfence => ?_, fun a ha hsec hfence => ?_⟩
    · obtain ⟨v, u, lane, l, hrun, hv, hkeep, hlane⟩ := exec_readIssue hs hop hmover hslot hown h (by rw [hpa]; exact worldBad_ext s c pa)
        (by rw [hpa]; rfl) hlanes hplace
      obtain ⟨id, hl⟩ := hkeep.line
      have hport : memPortOf u pa = memPortOf s pa := (memPortOf_of_img hkeep.img pa).trans (memPortOf_of_img hv.img pa)
      have hns : l.ns = !chanSecure s c := by
        rw [hl, ← hv.chanSecure]
        rfl
      obtain ⟨hout, hlines⟩ := read_sent (s := u) (l := l) (pa := pa) (by rw [hl]; exact hpa) (by rw [hl]; rfl)
        (by rw [hport, hkeep.stage, hv.stage]; exact hfence) (dPrio x.desc)
      refine ⟨_, l, fabId l, hrun, ?_, by rw [hl]; rfl, by rw [hl]; rfl, by rw [hl]; rfl, by rw [hl]; exact hlane, ?_⟩
      · rw [hlines, hkeep.lines, hv.lines]
      · rw [hout, hkeep.out, hv.out, hport, hns]
    · have hworld : worldBad s c loc = false := by rw [worldBad, hsec]; rfl
      obtain ⟨v, u, lane, l, hrun, hv, hkeep, hlane⟩ := exec_readIssue hs hop hmover hslot hown h hworld (by rw [ha]; rfl) hlanes hplace
      obtain ⟨id, hl⟩ := hkeep.line
      have hstage : u.stage = s.stage := hkeep.stage.trans hv.stage
      have hfenceu : (bg u ((placeOf u a).getD (0, 0, 0)).1).fence = 0 := by
        rw [placeOf_of_stage (hkeep.img.trans hv.img) hstage, bg, hstage]
        exact hfence
      obtain ⟨hout, hlines⟩ := stage_sent (s := u) (l := l) (a := a) (by rw [hl]; exact ha) hfenceu (dPrio x.desc)
      refine ⟨_, l, hrun, ?_, by rw [hl]; rfl, by rw [hl]; rfl, by rw [hl]; rfl, ?_⟩
      · rw [hlines, hkeep.lines, hv.lines]
      · rw [hout, hkeep.out, hv.out]
  · have hfree : heldLine s x t r.line = false := by rw [heldLine, hfinal]; rfl
    have h : OneWrite s c x t g r pa := ⟨hflow, ht, hg, hr, hloc, htag, hpow, hfree, hstrad⟩
    obtain ⟨v, u, lane, l, hrun, hv, hkeep⟩ := exec_writeIssue hs hop hmover hslot hown h hlanes hplace
    obtain ⟨tag, hout, hhere, hline⟩ := writeIssued_sent hv hkeep hloc hfence (dPrio x.desc)
    exact ⟨_, tag, hrun, hout, hhere, hline⟩
  · intro m hlanes hside hplace
    have h : HeldAlone s c.val x t g r pa := ⟨hflow, ht, hwalked, hg, hread, hleft, hcast, hr, hheld, hlast, hloc, htag, hpow⟩
    refine ⟨exec_held_waits h, fun hlines => ?_⟩
    obtain ⟨v, u, lane, l, hrun, hv, hkeep⟩ := exec_held_goes h hlines hlanes hside hplace
    obtain ⟨tag, hout, hhere, _⟩ := writeIssued_sent hv hkeep hloc hfence (dPrio x.desc)
    exact ⟨_, tag, hrun, hout, hhere⟩

end Sys2Proof.Proofs
end

section
/-! What an operation on one channel leaves of the others, of the contexts and of the objects (R77 to R79). -/

namespace Sys2Proof.Proofs

open Sys2Proof Sys2Proof.Machine Sys2Proof.Laws

/-! ### Operations that leave the channels -/

/-- The contexts, the objects, the image, the straps and the pending bits of the contexts. -/
def kept (s : State) : Tbl Ctx × Tbl Bar × Option Image × Boot × BitVec 64 := (s.ctxs, s.hub.bars, s.img, s.boot, s.ports.ctxPend)

/-- A step that leaves channels, contexts and objects, and drops no event. -/
structure Spares (s t : State) : Prop where
  canon : Canon s → Canon t
  kept : kept t = kept s
  chans : t.chans = s.chans
  evq : ∀ q ∈ s.aon.fc.evq, q ∈ t.aon.fc.evq

theorem Spares.refl (s : State) : Spares s s := ⟨id, rfl, rfl, fun _ => id⟩

theorem Spares.trans {s t u : State} (h : Spares s t) (k : Spares t u) : Spares s u :=
  ⟨fun hs => k.canon (h.canon hs), k.kept.trans h.kept, k.chans.trans h.chans, fun q hq => k.evq q (h.evq q hq)⟩

theorem spares_foldl {α : Type} {g : State → α → State} (h : ∀ s a, Spares s (g s a)) (l : List α) (s : State) : Spares s (l.foldl g s) := by
  induction l generalizing s with
  | nil => exact .refl s
  | cons a l ih => exact (h s a).trans (ih _)

/-- A step that touches neither AON nor what is kept. -/
theorem Spares.of_aon {s t : State} (hcanon : Canon s → Canon t) (hkept : Proofs.kept t = Proofs.kept s) (hchans : t.chans = s.chans)
    (haon : t.aon = s.aon) : Spares s t := ⟨hcanon, hkept, hchans, fun _ => by rw [haon]; exact id⟩

theorem OnlyStage.spares {s t : State} (h : OnlyStage s t) (hcanon : Canon s → Canon t) (hevq : ∀ q ∈ s.aon.fc.evq, q ∈ t.aon.fc.evq) :
    Spares s t := ⟨hcanon, by rw [h]; rfl, h.chans, hevq⟩

theorem spares_raise (s : State) (source a b island : Nat) : Spares s (raise s source a b island) := by
  refine (onlyAon_raise s source a b island).onlyStage.spares (raise_canon _ _ _ _ _) fun q hq => ?_
  obtain ⟨e, he, -⟩ := crosses_raise s source a b island
  rw [he]
  exact List.mem_append_left _ hq

theorem spares_refuse (s : State) (a b island : Nat) : Spares s (refuse s a b island) := spares_raise s 0x04 a b island

theorem spares_bump (s : State) : Spares s (bump s) := .of_aon (bump_canon s) rfl rfl rfl
theorem spares_emit (s : State) (o : Out) : Spares s (emit s o) := .of_aon (emit_canon s o) rfl rfl rfl

theorem spares_notice (s : State) (path op source addr chip : Nat) : Spares s (notice s path op source addr chip) :=
  have hpage : ∀ w : Wn, Spares s { s with aon := { s.aon with wn := w } } := fun _ => ⟨fun hs => { hs with }, rfl, rfl, fun _ => id⟩
  (hpage _).trans (spares_raise _ _ _ _ _)

theorem spares_ownReq (s : State) (port op addr : Nat) (k : OwnKind) : Spares s (ownReq s port op addr k).1 :=
  .of_aon (ownReq_canon s port op addr k) rfl rfl rfl

theorem spares_echoDrop (s : State) (pa : Nat) : Spares s (echoDrop s pa) := .of_aon (echoDrop_canon s pa) rfl rfl rfl

theorem spares_ownEcho (s : State) (e : OwnReq) : Spares s (ownEcho s e) := by
  unfold ownEcho
  split
  · exact spares_echoDrop s e.addr
  · exact .refl s

theorem spares_ownDone (s : State) (k : OwnKind) : Spares s (ownDone s k) := by
  refine .trans (spares_foldl spares_ownEcho (s.ports.own.filter fun e => e.kind == k) s) ?_
  exact .of_aon (fun hs => { hs with }) rfl rfl rfl

theorem spares_pollsGone (s : State) (c : Nat) : Spares s (pollsGone s c) := .of_aon (pollsGone_canon s c) rfl rfl rfl
theorem spares_dropReqs (s : State) (c : Nat) : Spares s (dropReqs s c) := .of_aon (dropReqs_canon s c) rfl rfl rfl
theorem spares_setRing (s : State) (r : Nat) (x : Ring) : Spares s (setRing s r x) := .of_aon (setRing_canon s r x) rfl rfl rfl
theorem spares_setHq (s : State) (q : Nat) (x : Hq) : Spares s (setHq s q x) := .of_aon (setHq_canon s q x) rfl rfl rfl
theorem spares_setMb (s : State) (m : Nat) (x : Mb) : Spares s (setMb s m x) := .of_aon (setMb_canon s m x) rfl rfl rfl

theorem OnlyClk.spares {s t : State} (h : OnlyClk s t) (hcanon : Canon s → Canon t) : Spares s t :=
  .of_aon hcanon (by rw [h]; rfl) h.chans (by rw [h])

/-! ### Pending bits -/

theorem ctxPend_setPorts (s : State) (p : Ports) : (setPorts s p).ports.ctxPend = p.ctxPend := by
  have hfold : ∀ (g : State → Nat → State), (∀ v n, (g v n).ports.ctxPend = v.ports.ctxPend) → ∀ (l : List Nat) (u : State),
      (l.foldl g u).ports.ctxPend = u.ports.ctxPend := fun g hg => foldl_keeps (fun u => u.ports.ctxPend) hg
  unfold setPorts
  extract_lets old t
  refine (hfold _ ?_ _ t).trans rfl
  intro v n
  split <;> rfl

theorem spares_setPorts {s : State} {p : Ports} (hcanon : Canon s → Canon (setPorts s p)) (hp : p.ctxPend = s.ports.ctxPend) :
    Spares s (setPorts s p) := by
  refine .of_aon hcanon ?_ (by rw [setPorts_frame]) (setPorts_aon s p)
  have hpend := (ctxPend_setPorts s p).trans hp
  have hframe : (setPorts s p).ctxs = s.ctxs ∧ (setPorts s p).hub = s.hub ∧ (setPorts s p).img = s.img ∧ (setPorts s p).boot = s.boot := by
    rw [setPorts_frame]
    exact ⟨rfl, rfl, rfl, rfl⟩
  obtain ⟨hctxs, hhub, himg, hboot⟩ := hframe
  simp only [kept, hctxs, hhub, himg, hboot, hpend]

theorem spares_pendCh (s : State) (c : Nat) : Spares s (pendCh s c) := spares_setPorts (pendCh_canon s c) rfl

theorem spares_pendSrc (s : State) (k : Nat) : Spares s (pendSrc s k) := by
  have hcanon := pendSrc_canon s k
  unfold pendSrc at hcanon ⊢
  split
  · next h =>
    rw [if_pos h] at hcanon
    exact spares_setPorts hcanon rfl
  · exact .refl s

/-! ### Stage memory -/

theorem spares_grantStage (s : State) (off i : Nat) : Spares s (grantStage s off i) := by
  refine (onlyStage_grantStage s off i).spares (grantStage_canon s off i) fun q hq => ?_
  unfold grantStage
  split <;> exact hq

theorem spares_eccEvents (s : State) (off : Nat) (bad : Bool) (n : Nat) : Spares s (eccEvents s off bad n) := by
  unfold eccEvents
  split
  · exact .trans (t := bgEcc s _ _ _) (.of_aon (bgEcc_canon _ _ _ _) rfl rfl rfl) (spares_raise _ _ _ _ _)
  · exact .refl s

theorem spares_eccFound (s : State) (off n : Nat) (corr : Bool) : Spares s (eccFound s off n corr) := by
  unfold eccFound
  extract_lets t
  have ht : Spares s t := by
    unfold t
    split
    · exact spares_eccEvents s off false 1
    · exact .refl s
  split
  · exact ht
  · exact ht.trans (spares_eccEvents t off true n)

theorem spares_stageWriteEcc (s : State) (off : Nat) (d : LineData) (be : LineEn) (input : Nat) (ecc : Ecc) :
    Spares s (stageWriteEcc s off d be input ecc) := by
  refine (onlyStage_stageWriteEcc s off d be input ecc).spares (stageWriteEcc_canon _ _ _ _ _ _) fun q hq => ?_
  unfold stageWriteEcc
  split
  · exact (spares_raise _ _ _ _ _).evq q hq
  · extract_lets whole part known fresh stage t
    exact ((spares_grantStage t off input).trans (spares_eccFound _ off _ _)).evq q hq

theorem spares_stageWrite (s : State) (off : Nat) (d : LineData) (be : LineEn) (input : Nat) : Spares s (stageWrite s off d be input) :=
  (spares_bump s).trans (spares_stageWriteEcc _ _ _ _ _ _)

theorem spares_stageProbe (s : State) (off : Nat) (be : LineEn) (input : Nat) : Spares s (stageProbe s off be input).1 :=
  (spares_grantStage s off input).trans ((spares_bump _).trans (spares_eccFound _ _ _ _))

theorem spares_memErr (s : State) (m pa op resp : Nat) : Spares s (memErr s m pa op resp) :=
  .trans (t := setMp s m _) (.of_aon (setMp_canon s m _) rfl rfl rfl) (spares_raise _ _ _ _ _)

theorem spares_errEvent (s : State) (loc : Loc) (op resp : Nat) : Spares s (errEvent s loc op resp) := by
  unfold errEvent
  split
  · exact spares_raise _ _ _ _ _
  · exact .refl s
  · split
    · split
      · exact spares_raise _ _ _ _ _
      · exact spares_memErr _ _ _ _ _
    · exact spares_memErr _ _ _ _ _
  · exact spares_memErr _ _ _ _ _

/-! ### Bound runs (R166) -/

theorem spares_ringFault (s : State) (r : Nat) : Spares s (ringFault s r) := (spares_setRing s r _).trans (spares_pendSrc _ 5)

theorem spares_boundSide (s : State) (c addr : Nat) (slot : Option (Nat × Nat × Nat)) (prod ok : Bool) :
    Spares s (boundSide s c addr slot prod ok) := by
  unfold boundSide
  split
  · exact .refl s
  · next r j k =>
    extract_lets y
    split
    · exact .refl s
    split
    · exact (spares_ringFault s r).trans (spares_raise _ _ _ _ _)
    split
    · exact spares_refuse _ _ _ _
    split <;> exact spares_setRing _ _ _

theorem spares_boundDone (s : State) (c : Nat) (x : Stream) (ok : Bool) : Spares s (boundDone s c x ok) :=
  (spares_boundSide s c x.addr x.slotP true ok).trans (spares_boundSide _ c x.addr x.slotC false ok)

/-! ### Operations on one channel -/

/-- A channel's record but for its look-ahead, its fetch and what its stream is. -/
def husk (k : Chan) : Chan := { k with la := 0, fetching := none, fetchDue := none, fetchTries := 0, stream := none }

/-- A step that leaves contexts and objects, and of the channels that `D` names everything but look-ahead, fetches and what their streams
are; it drops no event, and no channel forgets the state that it held before it was OUT. -/
structure Beside (D : Nat → Prop) (s t : State) : Prop where
  canon : Canon t
  kept : kept t = kept s
  evq : ∀ q ∈ s.aon.fc.evq, q ∈ t.aon.fc.evq
  pre : ∀ d, (chan t d).pre = (chan s d).pre
  husk : ∀ d, D d → husk (chan t d) = husk (chan s d)
  busy : ∀ d, D d → (stream t d).isSome = (stream s d).isSome

/-- Every channel. -/
abbrev AllChans (_ : Nat) : Prop := True

/-- Every channel but one. -/
abbrev But (c d : Nat) : Prop := d ≠ c

theorem Beside.refl {s : State} (hs : Canon s) (D : Nat → Prop) : Beside D s s := ⟨hs, rfl, fun _ => id, fun _ => rfl, fun _ _ => rfl, fun _ _ => rfl⟩

theorem Beside.trans {D : Nat → Prop} {s t u : State} (h : Beside D s t) (k : Beside D t u) : Beside D s u :=
  ⟨k.canon, k.kept.trans h.kept, fun q hq => k.evq q (h.evq q hq), fun d => (k.pre d).trans (h.pre d),
    fun d hd => (k.husk d hd).trans (h.husk d hd), fun d hd => (k.busy d hd).trans (h.busy d hd)⟩

theorem Beside.mono {D E : Nat → Prop} {s t : State} (h : Beside D s t) (hsub : ∀ d, E d → D d) : Beside E s t :=
  ⟨h.canon, h.kept, h.evq, h.pre, fun d hd => h.husk d (hsub d hd), fun d hd => h.busy d (hsub d hd)⟩

theorem Beside.all {D : Nat → Prop} {s t : State} (h : Beside AllChans s t) : Beside D s t := h.mono fun _ _ => trivial

theorem beside_foldl {α : Type} {D : Nat → Prop} {g : State → α → State} (h : ∀ s a, Canon s → Beside D s (g s a)) (l : List α) {s : State}
    (hs : Canon s) : Beside D s (l.foldl g s) := by
  induction l generalizing s with
  | nil => exact .refl hs D
  | cons a l ih => exact (h s a hs).trans (ih (h s a hs).canon)

theorem Spares.beside {s t : State} (h : Spares s t) (hs : Canon s) (D : Nat → Prop) : Beside D s t :=
  ⟨h.canon hs, h.kept, h.evq, fun d => by rw [chan_of_chans h.chans], fun d _ => by rw [chan_of_chans h.chans],
    fun d _ => by rw [stream_of_chans h.chans]⟩

theorem beside_setChan {s : State} (hs : Canon s) (c : Nat) {x : Chan} (h : x.pre = (chan s c).pre) : Beside (But c) s (setChan s c x) := by
  refine ⟨setChan_canon s c x hs, rfl, fun _ => id, fun d => ?_, fun d hd => ?_, fun d hd => ?_⟩
  · by_cases hd : d = c
    · rw [hd, chan_setChan_self hs, h]
    · rw [chan_setChan_other hs c x hd]
  · rw [chan_setChan_other hs c x hd]
  · rw [stream, chan_setChan_other hs c x hd, stream]

theorem beside_setStream {s : State} (hs : Canon s) {c : Nat} {x : Stream} (hx : stream s c = some x) (y : Stream) :
    Beside AllChans s (setStream s c y) := by
  have h : Beside (But c) s (setStream s c y) := beside_setChan hs c rfl
  refine ⟨h.canon, h.kept, h.evq, h.pre, fun d _ => ?_, fun d _ => ?_⟩
  · by_cases hd : d = c
    · rw [hd, setStream, chan_setChan_self hs]
      rfl
    · exact h.husk d hd
  · by_cases hd : d = c
    · rw [hd, hx, stream, setStream, chan_setChan_self hs]
      rfl
    · exact h.busy d hd

theorem beside_modStream {s : State} (hs : Canon s) (c : Nat) (f : Stream → Stream) : Beside AllChans s (modStream s c f) := by
  unfold modStream
  split
  · next x hx => exact beside_setStream hs hx (f x)
  · exact .refl hs _

theorem OnlyMove.kept {s t : State} (h : OnlyMove s t) : Proofs.kept t = Proofs.kept s := by rw [h]; rfl
theorem OnlyMove.aon {s t : State} (h : OnlyMove s t) : t.aon = s.aon := by rw [h]

theorem Pumps.beside {s t : State} (h : Pumps s t) (hs : Canon s) : Beside AllChans s t :=
  ⟨h.canon hs, h.frame.onlyMove.kept, fun _ => by rw [h.frame.onlyMove.aon]; exact id, fun d => (congrArg Chan.pre (h.rest hs d) :),
    fun d _ => (congrArg husk (h.rest hs d) :), fun d _ => by rw [h.stream hs]⟩

theorem Slots.beside {s t : State} (h : Slots s t) (hs : Canon s) : Beside AllChans s t := by
  refine ⟨h.canon hs, h.onlyMove.kept, fun _ => by rw [h.onlyMove.aon]; exact id, fun d => (congrArg Chan.pre (h.chan hs d) :),
    fun d _ => (congrArg husk (h.chan hs d) :), fun d _ => ?_⟩
  have hmap : ((Machine.stream t d).map fun x => { x with slot := false }) = (Machine.stream s d).map fun x => { x with slot := false } :=
    (congrArg Chan.stream (h.chan hs d) :)
  rw [← Option.isSome_map (f := fun x : Stream => { x with slot := false }), hmap, Option.isSome_map]

theorem OnlyForgets.beside {s t : State} (h : OnlyForgets s t) (hs : Canon s) : Beside AllChans s t := by
  refine ⟨h.canon hs, by rw [h.frame]; rfl, fun _ => by rw [h.frame]; exact id, fun d => (congrArg Chan.pre (h.bare hs d) :),
    fun d _ => (congrArg husk (h.bare hs d) :), fun d _ => ?_⟩
  have hmap : (stream t d).map bareStream = (stream s d).map bareStream := (congrArg Chan.stream (h.bare hs d) :)
  rw [← Option.isSome_map (f := bareStream), hmap, Option.isSome_map]

theorem beside_dropFetch {s : State} (hs : Canon s) (c : Nat) : Beside (But c) s (dropFetch s c) :=
  have h : Beside (But c) s (setChan s c { chan s c with fetched := [], fetching := none, fetchDue := none, fetchTries := 0 }) :=
    beside_setChan hs c rfl
  h.trans ((Spares.of_aon (ownDead_canon _ _ _) rfl rfl rfl).beside h.canon _)

/-! ### Doorbells -/

theorem beside_doorbellRefused {s : State} (hs : Canon s) (c d : Nat) : Beside (But c) s (doorbellRefused s c d) :=
  have h : Beside (But c) s (setChan s c { chan s c with lastCode := 2 }) := beside_setChan hs c rfl
  h.trans ((spares_refuse _ _ _ _).beside h.canon _)

theorem beside_doorbellRuns {s : State} (hs : Canon s) (c : Nat) : Beside (But c) s (doorbellRuns s c) := by
  refine ⟨doorbellRuns_canon hs c, rfl, fun _ => id, fun d => ?_, fun d hd => ?_, fun d hd => ?_⟩
  · by_cases hd : d = c
    · obtain ⟨la, hla⟩ := chan_doorbellRuns_self hs c
      rw [hd, hla]
    · exact congrArg Chan.pre (chan_setChan_other hs c _ hd)
  · exact congrArg Proofs.husk (chan_setChan_other hs c _ hd)
  · exact congrArg (fun k : Chan => k.stream.isSome) (chan_setChan_other hs c _ hd)

theorem beside_doorbellPends {s : State} (hs : Canon s) (c : Nat) : Beside (But c) s (doorbellPends s c) := by
  have hs' : Canon { s with order := s.order + 1 } := { hs with }
  unfold doorbellPends
  split
  · exact .refl hs _
  · have horder : Spares s { s with order := s.order + 1 } := .of_aon (fun _ => hs') rfl rfl rfl
    exact (horder.beside hs _).trans (beside_setChan hs' c rfl)

theorem beside_ringDoorbell {s : State} (hs : Canon s) (c : Nat) : Beside (But c) s (ringDoorbell s c) := by
  by_cases hd : chState s c = .disabled
  · rw [ringDoorbell_disabled hd]
    exact beside_doorbellRefused hs c 9
  by_cases hb : (chan s c).blocked = true
  · rw [ringDoorbell_blocked hb]
    exact beside_doorbellRefused hs c 9
  have hb' : (chan s c).blocked = false := by simpa using hb
  by_cases hi : chState s c = .idle
  · rw [ringDoorbell_idle hi hb']
    split
    · exact beside_doorbellRefused hs c 5
    · exact (beside_doorbellRuns hs c).trans ((pumps_startFetch _ _ _).beside (doorbellRuns_canon hs c)).all
  · rw [ringDoorbell_busy hd hi hb']
    exact beside_doorbellPends hs c

end Sys2Proof.Proofs
end

section
/-! The end of a descriptor with an error (R71 to R73, R79). -/

namespace Sys2Proof.Proofs

open Sys2Proof Sys2Proof.Machine Sys2Proof.Laws

/-! ### A completion with an error (R71 to R73) -/

theorem beside_endsAs {s : State} (hs : Canon s) (c : Nat) (st : ChSt) (head : BitVec 52) : Beside (But c) s (endsAs s c st head) :=
  have h : Beside (But c) s (setChan s c { chan s c with st := st, head := head, stream := none }) := beside_setChan hs c rfl
  h.trans ((slots_freeSlot _ c).beside h.canon).all

theorem beside_moveOn_error {s : State} (hs : Canon s) (c : Nat) (x : Stream) {code : Nat} (h : 2 ≤ code) (ff : Bool) :
    Beside (But c) s (moveOn s c x code ff) := by
  rw [moveOn_error h]
  exact (beside_dropFetch hs c).trans (beside_endsAs (dropFetch_canon s c hs) c _ _)

theorem beside_recordStore {s : State} (hs : Canon s) (c pa : Nat) (w : W64 × W64) : Beside (But c) s (recordStore s c pa w).1 := by
  unfold recordStore
  split
  · split
    · exact (spares_notice _ _ _ _ _ _).beside hs _
    · split
      · exact beside_setChan hs c rfl
      · exact (spares_stageWrite _ _ _ _ _).beside hs _
  · exact .refl hs _
  · exact ((spares_echoDrop s _).trans (spares_ownReq _ _ _ _ _)).beside hs _
  · exact .refl hs _

/-- A channel that halts behind a record that failed. -/
def recordLost (s : State) (c : Nat) (x : Chan) : State := freeSlot (setChan (ownDone s (.record c)) c x) c

theorem beside_recordLost {s : State} (hs : Canon s) (c : Nat) {x : Chan} (h : x.pre = (chan s c).pre) : Beside (But c) s (recordLost s c x) := by
  have hdone := (spares_ownDone s (.record c)).beside hs (But c)
  have hset : Beside (But c) (ownDone s (.record c)) (setChan (ownDone s (.record c)) c x) := beside_setChan hdone.canon c (h.trans (hdone.pre c).symm)
  exact hdone.trans (hset.trans ((slots_freeSlot _ c).beside hset.canon).all)

theorem beside_recordFail {s : State} (hs : Canon s) (c : Nat) (r : ErrResp) : Beside (But c) s (recordFail s c r) := by
  have hdrop := beside_dropFetch hs c
  unfold recordFail
  extract_lets u k pa code resp v
  have hv : Beside (But c) u v := beside_recordLost hdrop.canon c rfl
  exact hdrop.trans (hv.trans (((spares_dropReqs v c).trans ((spares_pendCh _ c).trans (spares_errEvent _ _ _ _))).beside hv.canon _))

/-- The channel as its descriptor completes with an error. -/
def erred (s : State) (c : Nat) (x : Stream) (code : Nat) : State :=
  let u := dropReqs (boundDone s c x false) c
  setChan u c { chan u c with
    seq := (chan s c).seq + 1, lastCode := BitVec.ofNat 4 code, gen := if dBf x.desc then (chan s c).gen + 1 else (chan s c).gen
    recOut := some ⟨code, true, true, none⟩ }

/-- The channel as it has halted, with its record out. -/
def halted (s : State) (c : Nat) (x : Stream) (code d : Nat) (w : W64 × W64) : State :=
  emit (moveOn (erred s c x code) c x code (failedFetch (chan s c) x code d)) (.record c (recPlace (chan s c)) w.1 w.2)

theorem complete_error {s : State} {c : Nat} {x : Stream} {code d : Nat} (h : 2 ≤ code) (hfull : cqIsFull (chan s c) = false) :
    ∃ w, complete s c x code d = (match (recordStore (halted s c x code d w) c (recPlace (chan s c)) w).2 with
      | some e => recordFail (recordStore (halted s c x code d w) c (recPlace (chan s c)) w).1 c e
      | none => (recordStore (halted s c x code d w) c (recPlace (chan s c)) w).1) := by
  have hok : decide (code < 2) = false := decide_eq_false (Nat.not_lt.mpr h)
  have hhard : decide (2 ≤ code) = true := decide_eq_true h
  refine ⟨recWords2 s c x code d (recBytes x code), ?_⟩
  unfold complete
  simp only [hok, hhard, hfull, Bool.or_true, Bool.and_false, Bool.false_eq_true, if_false, if_true]
  rfl

theorem beside_erred {s : State} (hs : Canon s) (c : Nat) (x : Stream) (code : Nat) : Beside (But c) s (erred s c x code) := by
  have h := ((spares_boundDone s c x false).trans (spares_dropReqs _ c)).beside hs (But c)
  exact h.trans (beside_setChan h.canon c rfl)

theorem beside_halted {s : State} (hs : Canon s) (c : Nat) (x : Stream) {code : Nat} (h : 2 ≤ code) (d : Nat) (w : W64 × W64) :
    Beside (But c) s (halted s c x code d w) := by
  have herr := beside_erred hs c x code
  have hmove := beside_moveOn_error herr.canon c x h (failedFetch (chan s c) x code d)
  exact herr.trans (hmove.trans ((spares_emit _ _).beside hmove.canon _))

theorem beside_complete {s : State} (hs : Canon s) (c : Nat) (x : Stream) {code : Nat} (h : 2 ≤ code) (d : Nat) :
    Beside (But c) s (complete s c x code d) := by
  cases hfull : cqIsFull (chan s c) with
  | true =>
    rw [complete_full (.inr h) hfull]
    exact beside_setChan hs c rfl
  | false =>
    obtain ⟨w, hw⟩ := complete_error (x := x) (d := d) h hfull
    have hstore := (beside_halted hs c x h d w).trans (beside_recordStore (beside_halted hs c x h d w).canon c (recPlace (chan s c)) w)
    rw [hw]
    split
    · exact hstore.trans (beside_recordFail hstore.canon c _)
    · exact hstore

/-- What the completion leaves of its own channel, where the record goes to external memory. -/
structure Halts (s t : State) (c code : Nat) : Prop where
  st : (chan t c).st = .halted
  code : (chan t c).lastCode = BitVec.ofNat 4 code
  seq : (chan t c).seq = (chan s c).seq + 1
  idle : stream t c = none

theorem halts_halted {s : State} (hs : Canon s) (c : Nat) (x : Stream) {code : Nat} (h : 2 ≤ code) (d : Nat) (w : W64 × W64) :
    Halts s (halted s c x code d w) c code := by
  have herr := beside_erred hs c x code
  have hself : chan (erred s c x code) c = { chan (dropReqs (boundDone s c x false) c) c with
      seq := (chan s c).seq + 1, lastCode := BitVec.ofNat 4 code, gen := if dBf x.desc then (chan s c).gen + 1 else (chan s c).gen
      recOut := some ⟨code, true, true, none⟩ } :=
    chan_setChan_self (dropReqs_canon _ _ (boundDone_canon _ _ _ _ hs)) c _
  have hmove : chan (halted s c x code d w) c = _ := chan_moveOn_error herr.canon (x := x) h (failedFetch (chan s c) x code d)
  rw [hself] at hmove
  exact ⟨by rw [hmove], by rw [hmove], by rw [hmove], by rw [stream, hmove]⟩

theorem halts_complete {s : State} (hs : Canon s) (c : Nat) (x : Stream) {code : Nat} (h : 2 ≤ code) (d : Nat)
    (hfull : cqIsFull (chan s c) = false) {p : Nat} (hloc : locOf s (recPlace (chan s c)) = .ext p) : Halts s (complete s c x code d) c code := by
  obtain ⟨w, hw⟩ := complete_error (x := x) (d := d) h hfull
  have hkept : kept (halted s c x code d w) = kept s := (beside_halted hs c x h d w).kept
  have hboot : (halted s c x code d w).boot = s.boot := congrArg (fun k => k.2.2.2.1) hkept
  have hstore := recordStore_ext (c := c) w ((locOf_congr hboot (recPlace (chan s c))).trans hloc)
  have hchan : chan (complete s c x code d) c = chan (halted s c x code d w) c := by
    rw [hw, hstore]
    rfl
  obtain ⟨hst, hcode, hseq, hidle⟩ := halts_halted hs c x h d w
  exact ⟨by rw [hchan, hst], by rw [hchan, hcode], by rw [hchan, hseq], by rw [stream, hchan]; exact hidle⟩

/-! ### Streams put aside (R77, R253) -/

theorem beside_retireTiles {s : State} (hs : Canon s) (c : Nat) : Beside AllChans s (retireTiles s c) := by
  unfold retireTiles
  split
  · exact .refl hs _
  · next x hx => exact beside_setStream hs hx _

theorem beside_setAside {s : State} (hs : Canon s) (c : Nat) : Beside AllChans s (setAside s c) := by
  have h := (beside_retireTiles hs c).trans ((spares_pollsGone _ c).beside (retireTiles_canon s c hs) _)
  exact h.trans (beside_modStream h.canon c _)

/-! ### Every descriptor of a context ends (R79) -/

/-- The stream of a descriptor that has ended. -/
def endedStream (x : Stream) (code d : Nat) : Stream := { x with st := .done code d, wait := .none, tiles := [] }

/-- Whether a channel waits in CQ_FULL, or did as it was switched out. -/
def heldFull (k : Chan) : Bool := k.st == .cqFull || (k.st == .out && k.pre == .cqFull)

theorem endDesc_idle {s : State} {c : Nat} (h : stream (setAside s c) c = none) (code d : Nat) : endDesc s code d c = setAside s c := by
  unfold endDesc
  simp only [h]

theorem endDesc_held {s : State} {c : Nat} {x : Stream} (h : stream (setAside s c) c = some x) (hk : heldFull (chan (setAside s c) c) = true)
    (code d : Nat) : endDesc s code d c = setAside s c := by
  unfold heldFull at hk
  unfold endDesc
  simp only [h, hk, if_true]

theorem endDesc_ends {s : State} {c : Nat} {x : Stream} (h : stream (setAside s c) c = some x) (hk : heldFull (chan (setAside s c) c) = false)
    (code d : Nat) : endDesc s code d c
      = complete (setStream (setAside s c) c (endedStream x code d)) c (endedStream x code d) code d := by
  unfold heldFull at hk
  unfold endDesc
  simp only [h, hk, Bool.false_eq_true, if_false]
  rfl

theorem beside_endDesc {s : State} (hs : Canon s) {code : Nat} (h : 2 ≤ code) (d c : Nat) : Beside (But c) s (endDesc s code d c) := by
  have haside : Beside (But c) s (setAside s c) := (beside_setAside hs c).all
  cases hx : stream (setAside s c) c with
  | none =>
    rw [endDesc_idle hx]
    exact haside
  | some x =>
    cases hk : heldFull (chan (setAside s c) c) with
    | true =>
      rw [endDesc_held hx hk]
      exact haside
    | false =>
      have hset := beside_setStream haside.canon hx (endedStream x code d)
      rw [endDesc_ends hx hk]
      exact haside.trans (hset.all.trans (beside_complete hset.canon c _ h d))

/-- A channel without a stream is left as it is by the end of its context's descriptors. -/
theorem beside_endDesc_idle {s : State} (hs : Canon s) {c : Nat} (hidle : stream s c = none) (code d : Nat) :
    Beside AllChans s (endDesc s code d c) := by
  have haside := beside_setAside hs c
  have hnone : stream (setAside s c) c = none := by
    have hbusy := haside.busy c trivial
    rw [hidle] at hbusy
    simpa using hbusy
  rw [endDesc_idle hnone]
  exact haside

theorem cqIsFull_husk {k y : Chan} (h : husk k = husk y) : cqIsFull k = cqIsFull y := by
  have htail : k.tail = y.tail := (congrArg Chan.tail h :)
  have hlog : k.log2n = y.log2n := (congrArg Chan.log2n h :)
  have hhead : k.cqHead = y.cqHead := (congrArg Chan.cqHead h :)
  simp only [cqIsFull, htail, hlog, hhead]

theorem heldFull_husk {k y : Chan} (h : husk k = husk y) : heldFull k = heldFull y := by
  have hst : k.st = y.st := (congrArg Chan.st h :)
  have hpre : k.pre = y.pre := (congrArg Chan.pre h :)
  simp only [heldFull, hst, hpre]

theorem recPlace_husk {k y : Chan} (h : husk k = husk y) : recPlace k = recPlace y := by
  have hbase : k.cqBase = y.cqBase := (congrArg Chan.cqBase h :)
  have htail : k.tail = y.tail := (congrArg Chan.tail h :)
  simp only [recPlace, hbase, htail]

theorem seq_husk {k y : Chan} (h : husk k = husk y) : k.seq = y.seq := (congrArg Chan.seq h :)
theorem st_husk {k y : Chan} (h : husk k = husk y) : k.st = y.st := (congrArg Chan.st h :)
theorem lastCode_husk {k y : Chan} (h : husk k = husk y) : k.lastCode = y.lastCode := (congrArg Chan.lastCode h :)

theorem kept_boot {s t : State} (h : kept t = kept s) : t.boot = s.boot := congrArg (fun k => k.2.2.2.1) h
theorem kept_img {s t : State} (h : kept t = kept s) : t.img = s.img := congrArg (fun k => k.2.2.1) h
theorem kept_ctxs {s t : State} (h : kept t = kept s) : t.ctxs = s.ctxs := congrArg (fun k => k.1) h
theorem kept_bars {s t : State} (h : kept t = kept s) : t.hub.bars = s.hub.bars := congrArg (fun k => k.2.1) h
theorem kept_pend {s t : State} (h : kept t = kept s) : t.ports.ctxPend = s.ports.ctxPend := congrArg (fun k => k.2.2.2.2) h

/-- What a channel's record is asked for here does not depend on what its stream and its fetches are. -/
structure Ends (s : State) (c : Nat) : Prop where
  busy : (stream s c).isSome = true
  held : heldFull (chan s c) = false
  room : cqIsFull (chan s c) = false
  ext : ∃ p, locOf s (recPlace (chan s c)) = .ext p

theorem Ends.beside {s t : State} {c : Nat} {D : Nat → Prop} (h : Ends s c) (hb : Beside D s t) (hc : D c) : Ends t c := by
  have hhusk := hb.husk c hc
  refine ⟨(hb.busy c hc).trans h.busy, (heldFull_husk hhusk).trans h.held, (cqIsFull_husk hhusk).trans h.room, ?_⟩
  rw [recPlace_husk hhusk, locOf_congr (kept_boot hb.kept)]
  exact h.ext

theorem Halts.of_husk {s s' t : State} {c code : Nat} (h : Halts s t c code) (hs : husk (chan s c) = husk (chan s' c)) : Halts s' t c code :=
  ⟨h.st, h.code, h.seq.trans (by rw [seq_husk hs]), h.idle⟩

theorem Halts.beside {s t u : State} {c code : Nat} {D : Nat → Prop} (h : Halts s t c code) (hb : Beside D t u) (hc : D c) : Halts s u c code := by
  have hhusk := hb.husk c hc
  have hbusy := hb.busy c hc
  rw [h.idle] at hbusy
  exact ⟨(st_husk hhusk).trans h.st, (lastCode_husk hhusk).trans h.code, (seq_husk hhusk).trans h.seq, by simpa using hbusy⟩

theorem halts_endDesc {s : State} (hs : Canon s) {c code : Nat} (h : 2 ≤ code) (d : Nat) (hends : Ends s c) : Halts s (endDesc s code d c) c code := by
  have haside := beside_setAside hs c
  obtain ⟨x, hx⟩ := Option.isSome_iff_exists.mp (hends.beside haside trivial).busy
  have hset := beside_setStream haside.canon hx (endedStream x code d)
  have hall := haside.trans hset
  obtain ⟨-, -, hroom, p, hp⟩ := hends.beside hall trivial
  rw [endDesc_ends hx (hends.beside haside trivial).held]
  exact (halts_complete hset.canon c _ h d hroom hp).of_husk (hall.husk c trivial)

/-- A descriptor that has ended stays so while those of other channels end, and where its own channel comes again. -/
theorem halts_foldl_endDesc {s₀ : State} {c code : Nat} (h : 2 ≤ code) (d : Nat) (l : List Nat) {s : State} (hs : Canon s)
    (hh : Halts s₀ s c code) : Halts s₀ (l.foldl (fun s c => endDesc s code d c) s) c code := by
  induction l generalizing s with
  | nil => exact hh
  | cons b l ih =>
    rw [List.foldl_cons]
    refine ih (endDesc_canon s code d b hs) ?_
    by_cases hb : c = b
    · subst hb
      exact hh.beside (beside_endDesc_idle hs hh.idle code d) trivial
    · exact hh.beside (beside_endDesc hs h d b) hb

theorem ends_foldl_endDesc {c code : Nat} (h : 2 ≤ code) (d : Nat) {l : List Nat} (hc : c ∈ l) {s : State} (hs : Canon s) (he : Ends s c) :
    Halts s (l.foldl (fun s c => endDesc s code d c) s) c code := by
  induction l generalizing s with
  | nil => exact absurd hc List.not_mem_nil
  | cons b l ih =>
    rw [List.foldl_cons]
    by_cases hb : c = b
    · subst hb
      exact halts_foldl_endDesc h d l (endDesc_canon s code d c hs) (halts_endDesc hs h d he)
    · have hbeside := beside_endDesc hs h d b
      have hmem : c ∈ l := (List.mem_cons.mp hc).resolve_left hb
      exact (ih hmem hbeside.canon (he.beside hbeside hb)).of_husk (hbeside.husk c hb)

end Sys2Proof.Proofs
end

section
/-! Contexts run again (R48, R49, R79). -/

namespace Sys2Proof.Proofs

open Sys2Proof Sys2Proof.Machine Sys2Proof.Laws

/-! ### A context runs again (R48, R49, R79) -/

/-- A step that leaves nothing of the channels but the state that each held before it was OUT. -/
abbrev NoChan (_ : Nat) : Prop := False

theorem Beside.none {D : Nat → Prop} {s t : State} (h : Beside D s t) : Beside NoChan s t := h.mono fun _ hd => hd.elim

/-- A channel in OUT as it goes on. -/
def backIdle (s : State) (c : Nat) : State := ringDoorbell (setChan s c { chan s c with st := .idle, pending := false }) c

theorem chanBack_here {s : State} {c : Nat} (h : (chan s c).st ≠ .out) : chanBack s c = s := by
  have hne : ((chan s c).st != .out) = true := by simpa using h
  unfold chanBack
  rw [if_pos hne]

theorem chanBack_pending {s : State} {c : Nat} (h : (chan s c).st = .out) (hp : ((chan s c).pre == .idle && (chan s c).pending) = true) :
    chanBack s c = setChan (backIdle s c) c { chan (backIdle s c) c with stamp := (chan s c).pstamp } := by
  have hne : ((chan s c).st != .out) = false := by rw [h]; rfl
  unfold chanBack
  simp only [hne, hp, Bool.false_eq_true, if_false, if_true]
  rfl

theorem chanBack_rests {s : State} {c : Nat} (h : (chan s c).st = .out) (hp : ((chan s c).pre == .idle && (chan s c).pending) = false) :
    chanBack s c = pumpFetch (setChan s c { chan s c with st := (chan s c).pre }) c := by
  have hne : ((chan s c).st != .out) = false := by rw [h]; rfl
  unfold chanBack
  simp only [hne, hp, Bool.false_eq_true, if_false]

theorem beside_backIdle {s : State} (hs : Canon s) (c : Nat) : Beside (But c) s (backIdle s c) := by
  have h : Beside (But c) s (setChan s c { chan s c with st := .idle, pending := false }) := beside_setChan hs c rfl
  exact h.trans (beside_ringDoorbell h.canon c)

theorem beside_chanBack {s : State} (hs : Canon s) (c : Nat) : Beside (But c) s (chanBack s c) := by
  by_cases hout : (chan s c).st = .out
  · cases hp : ((chan s c).pre == .idle && (chan s c).pending) with
    | true =>
      have h := beside_backIdle hs c
      rw [chanBack_pending hout hp]
      exact h.trans (beside_setChan h.canon c rfl)
    | false =>
      have h : Beside (But c) s (setChan s c { chan s c with st := (chan s c).pre }) := beside_setChan hs c rfl
      rw [chanBack_rests hout hp]
      exact h.trans ((pumps_pumpFetch _ c).beside h.canon).all
  · rw [chanBack_here hout]
    exact .refl hs _

theorem st_ringDoorbell_idle {s : State} (hs : Canon s) {c : Nat} (h : (chan s c).st = .idle) : (chan (ringDoorbell s c) c).st ≠ .out := by
  have hrefused : ∀ d, (chan (doorbellRefused s c d) c).st ≠ .out := fun d => by
    rw [chan_doorbellRefused_self hs]
    simp [h]
  by_cases hd : chState s c = .disabled
  · rw [ringDoorbell_disabled hd]
    exact hrefused 9
  by_cases hb : (chan s c).blocked = true
  · rw [ringDoorbell_blocked hb]
    exact hrefused 9
  have hi : chState s c = .idle := (chState_enabled hd).trans h
  rw [ringDoorbell_idle hi (by simpa using hb)]
  split
  · exact hrefused 5
  · obtain ⟨la, hla⟩ := chan_doorbellRuns_self hs c
    rw [(pumps_startFetch _ c _).st (doorbellRuns_canon hs c), hla]
    exact fun h => ChSt.noConfusion h

/-- A channel that goes on is in the state that it held before. -/
theorem st_chanBack {s : State} (hs : Canon s) (c : Nat) : (chan (chanBack s c) c).st ≠ .out ∨ (chan s c).pre = .out := by
  by_cases hout : (chan s c).st = .out
  · cases hp : ((chan s c).pre == .idle && (chan s c).pending) with
    | true =>
      left
      have hcanon := setChan_canon s c { chan s c with st := .idle, pending := false } hs
      have hidle : (chan (setChan s c { chan s c with st := .idle, pending := false }) c).st = .idle := by rw [chan_setChan_self hs]
      rw [chanBack_pending hout hp, chan_setChan_self (beside_backIdle hs c).canon]
      exact st_ringDoorbell_idle hcanon hidle
    | false =>
      have hcanon := setChan_canon s c { chan s c with st := (chan s c).pre } hs
      rw [chanBack_rests hout hp, (pumps_pumpFetch _ c).st hcanon, chan_setChan_self hs]
      exact ne_or_eq _ _
  · rw [chanBack_here hout]
    exact .inl hout

theorem husk_foldl_chanBack_other {c : Nat} {l : List Nat} (hc : c ∉ l) {s : State} (hs : Canon s) :
    husk (chan (l.foldl chanBack s) c) = husk (chan s c) := by
  induction l generalizing s with
  | nil => rfl
  | cons b l ih =>
    rw [List.mem_cons, not_or] at hc
    have hb := beside_chanBack hs b
    exact (ih hc.2 hb.canon).trans (hb.husk c hc.1)

/-- A channel that goes on stays so while others go on. -/
theorem st_foldl_chanBack {c : Nat} {l : List Nat} (hc : c ∈ l) {s : State} (hs : Canon s) :
    (chan (l.foldl chanBack s) c).st ≠ .out ∨ (chan s c).pre = .out := by
  induction l generalizing s with
  | nil => exact absurd hc List.not_mem_nil
  | cons b l ih =>
    have hbeside := beside_chanBack hs b
    rw [List.foldl_cons]
    by_cases hmem : c ∈ l
    · rw [← hbeside.pre c]
      exact ih hmem hbeside.canon
    · have hcb : c = b := (List.mem_cons.mp hc).resolve_right hmem
      subst hcb
      rw [st_husk (husk_foldl_chanBack_other hmem hbeside.canon)]
      exact st_chanBack hs c

theorem halts_foldl_chanBack {s₀ : State} {c code : Nat} (l : List Nat) {s : State} (hs : Canon s) (hh : Halts s₀ s c code) :
    Halts s₀ (l.foldl chanBack s) c code := by
  induction l generalizing s with
  | nil => exact hh
  | cons b l ih =>
    rw [List.foldl_cons]
    refine ih (chanBack_canon s b hs) ?_
    by_cases hb : c = b
    · subst hb
      rw [chanBack_here (by rw [hh.st]; exact fun h => ChSt.noConfusion h)]
      exact hh
    · exact hh.beside (beside_chanBack hs b) hb

/-- A context in RUN with CAUSE 0. -/
def runs (s : State) (x : Nat) : State := setCtx s x { ctx s x with st := .run, cause := 0, killing := false }

theorem ctxRun_eq (s : State) (x : Nat) : ctxRun s x = (ctxChans s x).foldl chanBack (runs s x) := rfl

theorem beside_foldl_chanBack (l : List Nat) {s : State} (hs : Canon s) : Beside NoChan s (l.foldl chanBack s) :=
  beside_foldl (fun _ c hs => (beside_chanBack hs c).none) l hs

theorem beside_foldl_endDesc {code : Nat} (h : 2 ≤ code) (d : Nat) (l : List Nat) {s : State} (hs : Canon s) :
    Beside NoChan s (l.foldl (fun s c => endDesc s code d c) s) :=
  beside_foldl (fun _ c hs => (beside_endDesc hs h d c).none) l hs

theorem ctxChans_congr {s t : State} (h : t.img = s.img) (x : Nat) : ctxChans t x = ctxChans s x := by simp only [ctxChans, im, h]

/-- What the end of a context's descriptors leaves. -/
structure CtxEnds (s t : State) (x code : Nat) : Prop where
  canon : Canon t
  ctx : ctx t x = { ctx s x with st := .run, cause := 0, killing := false }
  bars : t.hub.bars = s.hub.bars
  img : t.img = s.img
  evq : ∀ q ∈ s.aon.fc.evq, q ∈ t.aon.fc.evq
  back : ∀ c ∈ ctxChans s x, (chan t c).st ≠ .out ∨ (chan s c).pre = .out
  halts : ∀ c ∈ ctxChans s x, Ends s c → Halts s t c code

theorem ctxEnds_ctxEnd {s : State} (hs : Canon s) (x : Nat) {code : Nat} (h : 2 ≤ code) (d : Nat) : CtxEnds s (ctxEnd s x code d) x code := by
  have hend := beside_foldl_endDesc h d (ctxChans s x) hs
  have hhalts : ∀ c ∈ ctxChans s x, Ends s c → Halts s ((ctxChans s x).foldl (fun s c => endDesc s code d c) s) c code :=
    fun c hc he => ends_foldl_endDesc h d hc hs he
  unfold ctxEnd
  generalize (ctxChans s x).foldl (fun s c => endDesc s code d c) s = u at hend hhalts
  have hrun : Canon (runs u x) := setCtx_canon _ _ _ hend.canon
  have hback := beside_foldl_chanBack (ctxChans u x) hrun
  have hchans := ctxChans_congr (kept_img hend.kept) x
  have hctx : ctx u x = ctx s x := by rw [ctx, kept_ctxs hend.kept]; rfl
  rw [ctxRun_eq]
  refine ⟨hback.canon, ?_, ?_, ?_, fun q hq => hback.evq q (hend.evq q hq), fun c hc => ?_, fun c hc he => ?_⟩
  · have hself : ctx (runs u x) x = { ctx u x with st := .run, cause := 0, killing := false } := ctx_setCtx_self hend.canon x _
    have hfold : ctx ((ctxChans u x).foldl chanBack (runs u x)) x = ctx (runs u x) x := by rw [ctx, kept_ctxs hback.kept]; rfl
    rw [hfold, hself, hctx]
  · have hbars : u.hub.bars = s.hub.bars := kept_bars hend.kept
    exact (kept_bars hback.kept).trans hbars
  · have himg : u.img = s.img := kept_img hend.kept
    exact (kept_img hback.kept).trans himg
  · rw [← hend.pre c]
    exact st_foldl_chanBack (by rw [hchans]; exact hc) hrun
  · have hruns : Halts s (runs u x) c code := by
      obtain ⟨hst, hcode, hseq, hidle⟩ := hhalts c hc he
      exact ⟨hst, hcode, hseq, hidle⟩
    exact halts_foldl_chanBack (ctxChans u x) hrun hruns

end Sys2Proof.Proofs
end

section
/-! MZ_CTX_CTRL: SUSPEND, RESUME, ABORT and KILL (R77, R79, R295, Table 03-20). -/

namespace Sys2Proof.Proofs

open Sys2Proof Sys2Proof.Machine Sys2Proof.Laws

/-! ### The bits of a write -/

theorem ctxCtrl_suspend {s : State} {x : Nat} {v : W32} (h1 : bitOf v 1 = false) (h2 : bitOf v 2 = false) (h3 : bitOf v 3 = false) :
    ctxCtrl x (v ||| 1) s = if (ctx s x).st = .run then ctxSwitch s x 1 else refuse s (ctxOff x 0) 0 mmioIsland := by
  have hbits : bitOf 1#32 0 = true ∧ bitOf 1#32 1 = false ∧ bitOf 1#32 2 = false ∧ bitOf 1#32 3 = false := by decide
  by_cases hst : (ctx s x).st = .run
  · simp [ctxCtrl, bitOf_or, hbits, h1, h2, h3, hst, iter]
  · have hsame : ctxSwitch s x 1 = s := ctxSwitch_of_not_run (by simpa using hst) 1
    simp [ctxCtrl, bitOf_or, hbits, h1, h2, h3, hst, hsame, iter]

theorem ctxCtrl_resume {s : State} {x : Nat} {v : W32} (h0 : bitOf v 0 = false) (h2 : bitOf v 2 = false) (h3 : bitOf v 3 = false) :
    ctxCtrl x (v ||| 2) s = if (ctx s x).st = .out then doResume s x else refuse s (ctxOff x 0) 0 mmioIsland := by
  have hbits : bitOf 2#32 0 = false ∧ bitOf 2#32 1 = true ∧ bitOf 2#32 2 = false ∧ bitOf 2#32 3 = false := by decide
  by_cases hst : (ctx s x).st = .out <;> simp [ctxCtrl, bitOf_or, hbits, h0, h2, h3, hst, iter]

theorem ctxCtrl_abort {s : State} {x : Nat} {v : W32} (h0 : bitOf v 0 = false) (h1 : bitOf v 1 = false) (h3 : bitOf v 3 = false)
    (hst : (ctx s x).st = .out) : ctxCtrl x (v ||| 4) s = doAbort s x := by
  have hbits : bitOf 4#32 0 = false ∧ bitOf 4#32 1 = false ∧ bitOf 4#32 2 = true ∧ bitOf 4#32 3 = false := by decide
  simp [ctxCtrl, bitOf_or, hbits, h0, h1, h3, hst, iter]

theorem ctxCtrl_kill (s : State) (x : Nat) (v : W32) : ctxCtrl x (v ||| 8) s = doKill s x := by
  have hbit : bitOf 8#32 3 = true := by decide
  simp [ctxCtrl, bitOf_or, hbit]

/-- A write of MZ_CTX_CTRL that the state does not allow. -/
theorem ctxRefused (s : State) (x : Nat) : ∃ t, refuse s (ctxOff x 0) 0 mmioIsland = t ∧ t = { s with aon := t.aon, fresh := t.fresh }
    ∧ Crosses s t 0x04 (0xC000 + 0x40 * x) 0 0x2C :=
  ⟨_, rfl, onlyAon_raise s 0x04 _ _ _, crosses_raise s 0x04 _ _ _⟩

/-! ### The save area is read -/

/-- The requests of a context's save area go out, after the command that asks for it. -/
def OnlyAsks (s t : State) : Prop := t = { s with
  path := { s.path with nextId := t.path.nextId }, ports := { s.ports with own := t.ports.own } }

theorem OnlyAsks.trans {s t u : State} (h : OnlyAsks s t) (k : OnlyAsks t u) : OnlyAsks s u := by
  unfold OnlyAsks at h k ⊢
  rw [h] at k
  exact k

theorem onlyAsks_foldl {g : State → Nat → State} (h : ∀ s i, OnlyAsks s (g s i)) (l : List Nat) (s : State) : OnlyAsks s (l.foldl g s) := by
  induction l generalizing s with
  | nil => rfl
  | cons i l ih => exact (h s i).trans (ih _)

theorem onlyAsks_areaFetch (s : State) (x : Nat) : OnlyAsks (emit s (.load x (4096 * (ctx s x).save.toNat))) (areaFetch s x) := by
  unfold areaFetch
  refine onlyAsks_foldl (fun u i => ?_) _ _
  split <;> rfl

/-! ### Objects are poisoned (R287, R295) -/

/-- The contexts, the objects and the image. -/
def objs (s : State) : Tbl Ctx × Tbl Bar × Option Image := (s.ctxs, s.hub.bars, s.img)

theorem OnlySent.objs {s t : State} (h : OnlySent s t) : Proofs.objs t = Proofs.objs s := by rw [h]; rfl

theorem objs_foldl {g : State → Nat → State} (h : ∀ s c, objs (g s c) = objs s) (l : List Nat) (s : State) : objs (l.foldl g s) = objs s :=
  foldl_keeps objs h l s

theorem objs_modStream (s : State) (c : Nat) (f : Stream → Stream) : objs (modStream s c f) = objs s := by
  unfold modStream
  split <;> rfl

theorem ctx_of_objs {s t : State} (h : objs t = objs s) (x : Nat) : ctx t x = ctx s x :=
  congrArg (fun l => tget ctxDflt l x) (congrArg (fun k => k.1) h : t.ctxs = s.ctxs)

theorem bar_of_bars {s t : State} (h : t.hub.bars = s.hub.bars) (o : Nat) : bar t o = bar s o := by simp only [bar, h]

theorem bars_of_objs {s t : State} (h : objs t = objs s) : t.hub.bars = s.hub.bars := congrArg (fun k => k.2.1) h
theorem img_of_objs {s t : State} (h : objs t = objs s) : t.img = s.img := congrArg (fun k => k.2.2) h

theorem ownChip_congr {s t : State} (h : t.img = s.img) : ownChip t = ownChip s := by simp only [ownChip, im, h]

/-- An object enters a state, and keeps the rest of its record. -/
def markObj (st : BarSt) (s : State) (o : Nat) : State := setBar s o { bar s o with st := st }

theorem objs_markObj {s t : State} (h : objs t = objs s) (st : BarSt) (o : Nat) : objs (markObj st t o) = objs (markObj st s o) := by
  have hbar := bar_of_bars (bars_of_objs h) o
  simp only [objs, Prod.mk.injEq] at h
  obtain ⟨hctxs, hbars, himg⟩ := h
  simp only [markObj, hbar, objs, setBar, hctxs, hbars, himg]

theorem objs_applyClear_poison (s : State) (o : Nat) : objs (applyClear s o true) = objs (markObj .poisoned s o) :=
  objs_foldl (g := fun s c => finish s c cPOISONED 0) (fun _ _ => objs_modStream _ _ _) _ _

theorem objs_clearObj_poison (s : State) (o : Nat) :
    objs (clearObj s o true) = if barHome s o = ownChip s then objs (markObj .poisoned s o) else objs s := by
  unfold clearObj
  dsimp only
  split
  · exact (objs_applyClear_poison _ o).trans (objs_markObj (onlySent_spread _ _ _ _ _ _ _).objs .poisoned o)
  · exact (onlySent_sendPkt s _).objs

/-- What the poisoning of an object leaves of any object. -/
theorem bar_clearObj_poison {s : State} (hs : Canon s) (b o : Nat) : bar (clearObj s b true) o =
    if o = b ∧ barHome s b = ownChip s then { bar s o with st := .poisoned } else bar s o := by
  have h := objs_clearObj_poison s b
  by_cases hhome : barHome s b = ownChip s
  · rw [if_pos hhome] at h
    rw [bar_of_bars (bars_of_objs h)]
    by_cases ho : o = b
    · rw [if_pos ⟨ho, hhome⟩, ho]
      exact bar_setBar_self hs b _
    · rw [if_neg fun hn => ho hn.1]
      exact bar_setBar_other hs b _ ho
  · rw [if_neg hhome] at h
    rw [bar_of_bars (bars_of_objs h), if_neg fun hn => hhome hn.2]

theorem ctx_clearObj_poison (s : State) (b x : Nat) : ctx (clearObj s b true) x = ctx s x ∧ (clearObj s b true).img = s.img := by
  have h := objs_clearObj_poison s b
  split at h
  · exact ⟨(ctx_of_objs h x).trans rfl, (img_of_objs h).trans rfl⟩
  · exact ⟨ctx_of_objs h x, img_of_objs h⟩

/-- Every object of a list that has its home here is poisoned. -/
theorem poisoned_foldl (x : Nat) (l : List Nat) {s : State} (hs : Canon s) :
    ctx (l.foldl (fun s o => clearObj s o true) s) x = ctx s x
      ∧ ∀ o, barHome s o = ownChip s → o ∈ l ∨ (bar s o).st = .poisoned → (bar (l.foldl (fun s o => clearObj s o true) s) o).st = .poisoned := by
  induction l generalizing s with
  | nil => exact ⟨rfl, fun o _ h => h.resolve_left List.not_mem_nil⟩
  | cons b l ih =>
    obtain ⟨hctx, hpoison⟩ := ih (clearObj_canon s b true hs)
    obtain ⟨hctx', himg⟩ := ctx_clearObj_poison s b x
    refine ⟨hctx.trans hctx', fun o hhome ho => hpoison o ?_ ?_⟩
    · have hsame : (bar (clearObj s b true) o).home = (bar s o).home := by
        rw [bar_clearObj_poison hs]
        split <;> rfl
      rw [barHome, hsame, ownChip_congr himg]
      exact hhome
    · rw [bar_clearObj_poison hs, List.mem_cons] at *
      by_cases hob : o = b
      · rw [if_pos ⟨hob, hob ▸ hhome⟩]
        exact .inr rfl
      · rw [if_neg fun hn => hob hn.1]
        exact ho.imp_left fun hm => hm.resolve_left hob

theorem ownObjs_congr {s t : State} {x : Nat} (h : ctx t x = ctx s x) (lo n : Nat) : ownObjs t x lo n = ownObjs s x lo n := by
  simp only [ownObjs, h]

/-! ### KILL and ABORT -/

/-- What a kill leaves of its context and of the objects that it owns. -/
structure Killed (s t : State) (x : Nat) : Prop where
  st : (ctx t x).st = .run
  killing : (ctx t x).killing = false
  poisoned : ∀ o ∈ ownObjs s x 0 1024, barHome s o = ownChip s → (bar t o).st = .poisoned

theorem killed_killEnd {s : State} (hs : Canon s) (x : Nat) : Killed s (killEnd s x) x := by
  have hset := setCtx_canon s x { ctx s x with restoring := false } hs
  have hends := ctxEnds_ctxEnd hset x (show 2 ≤ cABANDONED by decide) 1
  have hkill : killEnd s x = (ownObjs s x 0 1024).foldl (fun s o => clearObj s o true)
      (ctxEnd (setCtx s x { ctx s x with restoring := false }) x cABANDONED 1) := rfl
  rw [hkill]
  generalize ctxEnd (setCtx s x { ctx s x with restoring := false }) x cABANDONED 1 = u at hends
  obtain ⟨hctx, hpoison⟩ := poisoned_foldl x (ownObjs s x 0 1024) hends.canon
  have hbars : u.hub.bars = s.hub.bars := hends.bars
  have himg : u.img = s.img := hends.img
  have hhome : ∀ o, barHome u o = barHome s o := fun o => by simp only [barHome, bar_of_bars hbars, ownChip_congr himg]
  refine ⟨by rw [hctx, hends.ctx], by rw [hctx, hends.ctx], fun o ho h => hpoison o ?_ (.inl ho)⟩
  rw [hhome, ownChip_congr himg]
  exact h

theorem onlyAon_ctxLog (s : State) (code x : Nat) : OnlyAon s (ctxLog s code x) := onlyAon_zlog _ _ _ _ _

theorem ctxLog_canon (s : State) (code x : Nat) (hs : Canon s) : Canon (ctxLog s code x) := zlog_canon _ _ _ _ _ hs

theorem ctx_ctxLog (s : State) (code x y : Nat) : ctx (ctxLog s code x) y = ctx s y := by rw [onlyAon_ctxLog s code x]; rfl

theorem ctxStill_ctxLog (s : State) (code x y : Nat) : ctxStill (ctxLog s code x) y = ctxStill s y := by rw [onlyAon_ctxLog s code x]; rfl

theorem killed_doKill {s : State} (hs : Canon s) {x : Nat} (h : (ctx s x).st = .out ∨ ctxStill s x = true) : Killed s (doKill s x) x := by
  have hcond : ((ctx (ctxLog s 0x0402 x) x).st == .out || (ctx (ctxLog s 0x0402 x) x).st == .resuming || ctxStill (ctxLog s 0x0402 x) x) = true := by
    rw [ctx_ctxLog, ctxStill_ctxLog]
    cases h with
    | inl h => simp [h]
    | inr h => simp [h]
  have hkill : doKill s x = killEnd (ctxLog s 0x0402 x) x := if_pos hcond
  obtain ⟨hst, hkilling, hpoison⟩ := killed_killEnd (ctxLog_canon s 0x0402 x hs) x
  rw [hkill]
  refine ⟨hst, hkilling, fun o ho hhome => hpoison o ?_ ?_⟩
  · rw [ownObjs_congr (ctx_ctxLog s 0x0402 x x)]
    exact ho
  · rw [onlyAon_ctxLog s 0x0402 x]
    exact hhome

theorem doKill_waits {s : State} (hs : Canon s) {x : Nat} (hst : (ctx s x).st = .run) (hstill : ctxStill s x = false) :
    ctx (doKill s x) x = { ctx s x with killing := true, st := .switching } ∧ (doKill s x).chans = s.chans ∧ (doKill s x).out = s.out := by
  have hcond : ((ctx (ctxLog s 0x0402 x) x).st == .out || (ctx (ctxLog s 0x0402 x) x).st == .resuming || ctxStill (ctxLog s 0x0402 x) x) ≠ true := by
    rw [ctx_ctxLog, ctxStill_ctxLog, hst, hstill]
    decide
  have hkill : doKill s x = setCtx (ctxLog s 0x0402 x) x { ctx (ctxLog s 0x0402 x) x with killing := true, st := .switching } := if_neg hcond
  rw [hkill, ctx_setCtx_self (ctxLog_canon s 0x0402 x hs), ctx_ctxLog]
  refine ⟨rfl, ?_, ?_⟩
  · show (ctxLog s 0x0402 x).chans = s.chans
    rw [onlyAon_ctxLog s 0x0402 x]
  · show (ctxLog s 0x0402 x).out = s.out
    rw [onlyAon_ctxLog s 0x0402 x]

/-- The context that is resumed. -/
def resuming (s : State) (x : Nat) : State := setCtx (ctxLog s 0x0401 x) x { ctx (ctxLog s 0x0401 x) x with st := .resuming }

theorem doResume_result {s : State} (hs : Canon s) (x : Nat) : ctx (doResume s x) x = { ctx s x with st := .resuming }
    ∧ doResume s x = { s with
        ctxs := (doResume s x).ctxs, aon := (doResume s x).aon, fresh := (doResume s x).fresh
        out := s.out ++ [.load x (4096 * (ctx s x).save.toNat)]
        path := { s.path with nextId := (doResume s x).path.nextId }, ports := { s.ports with own := (doResume s x).ports.own } } := by
  have hlog := onlyAon_ctxLog s 0x0401 x
  have hctx : ctx (resuming s x) x = { ctx s x with st := .resuming } := by
    rw [resuming, ctx_setCtx_self (ctxLog_canon s 0x0401 x hs), ctx_ctxLog]
  have hframe : resuming s x = { s with ctxs := (resuming s x).ctxs, aon := (resuming s x).aon, fresh := (resuming s x).fresh } := by
    unfold resuming
    rw [hlog]
    rfl
  have hfetch : OnlyAsks _ (doResume s x) := onlyAsks_areaFetch (resuming s x) x
  rw [hctx] at hfetch
  generalize doResume s x = t at hfetch
  generalize resuming s x = u at hctx hframe hfetch
  unfold OnlyAsks at hfetch
  constructor
  · rw [hfetch]
    exact hctx
  · rw [hfetch, hframe]
    rfl

/-- The context that is aborted, before its save area is read for its objects. -/
def aborting (s : State) (x : Nat) : State :=
  let u := ctxEnd (ctxLog s 0x0403 x) x (if (ctx s x).cause = 2 then cFAULT else cABANDONED)
    (if (ctx s x).cause = 2 then (ctx s x).lastSeq.toNat % 256 else 0)
  setCtx u x { ctx u x with restoring := true }

theorem doAbort_result {s : State} (hs : Canon s) (x : Nat) : (ctx (doAbort s x) x).st = .run ∧ (ctx (doAbort s x) x).cause = 0
    ∧ (ctx (doAbort s x) x).restoring = true ∧ (∃ o, (doAbort s x).out = o ++ [.load x (4096 * (ctx s x).save.toNat)])
    ∧ ∀ d ∈ ctxChans s x, (chan (doAbort s x) d).st ≠ .out ∨ (chan s d).pre = .out := by
  have hcode : 2 ≤ (if (ctx s x).cause = 2 then cFAULT else cABANDONED) := by split <;> decide
  have hlog := onlyAon_ctxLog s 0x0403 x
  have hends := ctxEnds_ctxEnd (ctxLog_canon s 0x0403 x hs) x hcode (if (ctx s x).cause = 2 then (ctx s x).lastSeq.toNat % 256 else 0)
  have hfetch : OnlyAsks _ (doAbort s x) := onlyAsks_areaFetch (aborting s x) x
  have hctx : ctx (aborting s x) x = { ctx s x with st := .run, cause := 0, killing := false, restoring := true } := by
    unfold aborting
    rw [ctx_setCtx_self hends.canon, hends.ctx, ctx_ctxLog]
  have hback : ∀ d ∈ ctxChans s x, (chan (aborting s x) d).st ≠ .out ∨ (chan s d).pre = .out := by
    intro d hd
    have hpre : (chan (ctxLog s 0x0403 x) d).pre = (chan s d).pre := by rw [hlog]; rfl
    rw [← hpre]
    exact hends.back d (by rw [hlog]; exact hd)
  rw [hctx] at hfetch
  generalize doAbort s x = t at hfetch
  generalize aborting s x = u at hctx hback hfetch
  unfold OnlyAsks at hfetch
  have ht : ctx t x = ctx u x := by rw [hfetch]; rfl
  have htd : ∀ d, chan t d = chan u d := fun d => by rw [hfetch]; rfl
  refine ⟨by rw [ht, hctx], by rw [ht, hctx], by rw [ht, hctx], ⟨u.out, by rw [hfetch]; rfl⟩, fun d hd => ?_⟩
  rw [htd]
  exact hback d hd

/-! ### The commands -/

theorem ctxCtrlW_of_served {s : State} {x : Nat} {ns : Bool} (h : Served s (0xC000 + 0x40 * x) ns (ctxSecure s x)) (v : W32) :
    ctxCtrlW x ns v s = emit (ctxCtrl x v s) (.mmio 0 0) := mmioW_of_served (off := ctxOff x 0) h (ctxCtrl x v)

theorem suspend_result {s : State} {c : Cx} {ns : Bool} {v : W32} (h : Served s (0xC000 + 0x40 * c.val) ns (ctxSecure s c.val))
    (h1 : bitOf v 1 = false) (h2 : bitOf v 2 = false) (h3 : bitOf v 3 = false) : exec (.suspend c ns v) s = .next (emit
      (if (ctx s c.val).st = .run then ctxSwitch s c.val 1 else refuse s (ctxOff c.val 0) 0 mmioIsland) (.mmio 0 0)) := by
  show Host.Outcome.next (ctxCtrlW c.val ns (v ||| 1) s) = _
  rw [ctxCtrlW_of_served h, ctxCtrl_suspend h1 h2 h3]

theorem resume_result {s : State} {c : Cx} {ns : Bool} {v : W32} (h : Served s (0xC000 + 0x40 * c.val) ns (ctxSecure s c.val))
    (h0 : bitOf v 0 = false) (h2 : bitOf v 2 = false) (h3 : bitOf v 3 = false) : exec (.resume c ns v) s = .next (emit
      (if (ctx s c.val).st = .out then doResume s c.val else refuse s (ctxOff c.val 0) 0 mmioIsland) (.mmio 0 0)) := by
  show Host.Outcome.next (ctxCtrlW c.val ns (v ||| 2) s) = _
  rw [ctxCtrlW_of_served h, ctxCtrl_resume h0 h2 h3]

theorem abort_result {s : State} {c : Cx} {ns : Bool} {v : W32} (h : Served s (0xC000 + 0x40 * c.val) ns (ctxSecure s c.val))
    (h0 : bitOf v 0 = false) (h1 : bitOf v 1 = false) (h3 : bitOf v 3 = false) (hst : (ctx s c.val).st = .out) :
    exec (.abort c ns v) s = .next (emit (doAbort s c.val) (.mmio 0 0)) := by
  show Host.Outcome.next (ctxCtrlW c.val ns (v ||| 4) s) = _
  rw [ctxCtrlW_of_served h, ctxCtrl_abort h0 h1 h3 hst]

theorem kill_result {s : State} {c : Cx} {ns : Bool} (v : W32) (h : Served s (0xC000 + 0x40 * c.val) ns (ctxSecure s c.val)) :
    exec (.kill c ns v) s = .next (emit (doKill s c.val) (.mmio 0 0)) := by
  show Host.Outcome.next (ctxCtrlW c.val ns (v ||| 8) s) = _
  rw [ctxCtrlW_of_served h, ctxCtrl_kill]

end Sys2Proof.Proofs
end

section
/-! CONTEXT_OUT: a context's state is saved, and it enters OUT (R77, R254, R293, R294). -/

namespace Sys2Proof.Proofs

open Sys2Proof Sys2Proof.Machine Sys2Proof.Laws

/-! ### Objects are cleared while a context is switched out (R293) -/

/-- A step that leaves context `x`, the image, the pending bits of the contexts, and of each channel everything but look-ahead, fetches and
what its stream is. -/
structure Clears (x : Nat) (s t : State) : Prop where
  canon : Canon t
  ctx : ctx t x = ctx s x
  img : t.img = s.img
  pend : t.ports.ctxPend = s.ports.ctxPend
  husk : ∀ d, husk (chan t d) = husk (chan s d)

theorem Clears.refl {s : State} (hs : Canon s) (x : Nat) : Clears x s s := ⟨hs, rfl, rfl, rfl, fun _ => rfl⟩

theorem Clears.trans {x : Nat} {s t u : State} (h : Clears x s t) (k : Clears x t u) : Clears x s u :=
  ⟨k.canon, k.ctx.trans h.ctx, k.img.trans h.img, k.pend.trans h.pend, fun d => (k.husk d).trans (h.husk d)⟩

theorem ctx_of_kept {s t : State} (h : kept t = kept s) (x : Nat) : ctx t x = ctx s x := by simp only [ctx, kept_ctxs h]

theorem Beside.clears {s t : State} (h : Beside AllChans s t) (x : Nat) : Clears x s t :=
  ⟨h.canon, ctx_of_kept h.kept x, kept_img h.kept, kept_pend h.kept, fun d => h.husk d trivial⟩

theorem OnlySent.clears {s t : State} (h : OnlySent s t) (hcanon : Canon t) (x : Nat) : Clears x s t :=
  ⟨hcanon, by rw [h]; rfl, by rw [h], by rw [h], fun d => by rw [h]; rfl⟩

theorem clears_setBar {s : State} (hs : Canon s) (x o : Nat) (b : Bar) : Clears x s (setBar s o b) := ⟨setBar_canon s o b hs, rfl, rfl, rfl, fun _ => rfl⟩

/-- Another context that starts to switch out leaves one that does not run. -/
theorem clears_ctxSwitch {s : State} (hs : Canon s) {x : Nat} (hx : (ctx s x).st ≠ .run) (y cause : Nat) : Clears x s (ctxSwitch s y cause) := by
  by_cases hrun : ((ctx s y).st == .run) = true
  · have hne : x ≠ y := fun h => hx (by rw [h]; simpa using hrun)
    obtain ⟨hcanon, hctx, himg, hpend, hhusk⟩ := ((onlyForgets_forgetWalks s y).beside hs).clears x
    rw [ctxSwitch_of_run hrun]
    exact ⟨setCtx_canon _ _ _ hcanon, (ctx_setCtx_other hcanon y _ hne).trans hctx, himg, hpend, hhusk⟩
  · rw [ctxSwitch_of_not_run hrun]
    exact .refl hs x

theorem clears_foldl {x : Nat} {g : State → Nat → State} (h : ∀ s a, Canon s → (ctx s x).st ≠ .run → Clears x s (g s a)) (l : List Nat) {s : State}
    (hs : Canon s) (hx : (ctx s x).st ≠ .run) : Clears x s (l.foldl g s) := by
  induction l generalizing s with
  | nil => exact .refl hs x
  | cons a l ih =>
    have hstep := h s a hs hx
    exact hstep.trans (ih hstep.canon (by rw [hstep.ctx]; exact hx))

theorem clears_applyClear {s : State} (hs : Canon s) {x : Nat} (hx : (ctx s x).st ≠ .run) (o : Nat) : Clears x s (applyClear s o false) := by
  unfold applyClear
  extract_lets ws b u
  have hu : Clears x s u := clears_setBar hs x o _
  refine hu.trans (clears_foldl (fun v c hv hvx => ?_) ws hu.canon (by rw [hu.ctx]; exact hx))
  have hfin : Clears x v (finish v c cABANDONED 0) := (beside_modStream hv c _).clears x
  exact hfin.trans (clears_ctxSwitch hfin.canon (by rw [hfin.ctx]; exact hvx) _ 3)

theorem clears_clearObj {s : State} (hs : Canon s) {x : Nat} (hx : (ctx s x).st ≠ .run) (o : Nat) : Clears x s (clearObj s o false) := by
  unfold clearObj
  dsimp only
  split
  · have hspread := (onlySent_spread s o 0 3 0 (barHome s o) (!barSecure s o)).clears (spread_canon _ _ _ _ _ _ _ hs) x
    exact hspread.trans (clears_applyClear hspread.canon (by rw [hspread.ctx]; exact hx) o)
  · exact (onlySent_sendPkt s _).clears (sendPkt_canon _ _ hs) x

/-! ### The parts of a switch-out -/

/-- The streams of a context are put aside, and the objects that it shares are cleared. -/
def cleared (s : State) (x : Nat) : State :=
  (ownObjs ((ctxChans s x).foldl setAside s) x 16 1024).foldl (fun s o => clearObj s o false) ((ctxChans s x).foldl setAside s)

/-- Where the save area of a context lies. -/
def areaOf (s : State) (x : Nat) : Nat := 4096 * (ctx s x).save.toNat

/-- The save area goes out. -/
def areaSent (s : State) (x : Nat) : State := areaStore (emit (bump s) (.save x (areaOf s x) (saveArea s x))) x (areaOf s x) (saveArea s x)

/-- The context is OUT with its channels. -/
def ctxOut (s : State) (x : Nat) : State :=
  let u := (ctxChans s x).foldl chanOut s
  setCtx u x { ctx u x with st := .out }

theorem switchOut_eq (s : State) (x : Nat) : switchOut s x =
    pendCtx (ctxLog (ctxOut ((privObjs (areaSent (cleared s x) x) x).foldl (markObj .saved) (areaSent (cleared s x) x)) x) 0x0400 x) x := rfl

theorem clears_cleared {s : State} (hs : Canon s) {x : Nat} (hx : (ctx s x).st ≠ .run) : Clears x s (cleared s x) := by
  have haside : Clears x s ((ctxChans s x).foldl setAside s) := (beside_foldl (fun _ c hs => beside_setAside hs c) (ctxChans s x) hs).clears x
  exact haside.trans (clears_foldl (fun _ o hs hx => clears_clearObj hs hx o) _ haside.canon (by rw [haside.ctx]; exact hx))

/-! ### The save area is written (R77, R78) -/

theorem spares_areaStore (s : State) (x pa : Nat) (bs : List Byte) : Spares s (areaStore s x pa bs) := by
  unfold areaStore
  extract_lets ns
  refine spares_foldl (fun u i => ?_) _ s
  split
  · split
    · exact spares_stageWrite _ _ _ _ _
    · exact spares_notice _ _ _ _ _ _
  · exact (spares_echoDrop u _).trans (spares_ownReq _ _ _ _ _)
  · exact .refl u

theorem out_areaStore (s : State) (x pa : Nat) (bs : List Byte) : (areaStore s x pa bs).out = s.out := by
  unfold areaStore
  extract_lets ns
  refine foldl_keeps State.out (fun u i => ?_) _ s
  split
  · split
    · exact (onlyStage_stageWriteEcc _ _ _ _ _ _).out
    · exact (onlyAon_notice _ _ _ _ _ _).onlyStage.out
  · rfl
  · rfl

theorem areaSent_result {s : State} (hs : Canon s) (x : Nat) : Clears x s (areaSent s x)
    ∧ Out.save x (areaOf s x) (saveArea s x) ∈ (areaSent s x).out := by
  have hspares := ((spares_bump s).trans (spares_emit _ (.save x (areaOf s x) (saveArea s x)))).trans (spares_areaStore _ x (areaOf s x) (saveArea s x))
  refine ⟨(hspares.beside hs AllChans).clears x, ?_⟩
  rw [areaSent, out_areaStore]
  exact List.mem_append_right _ (List.mem_singleton_self _)

/-! ### Objects and channels as the context enters OUT -/

theorem foldl_markObj (st : BarSt) (x : Nat) (l : List Nat) {s : State} (hs : Canon s) : Clears x s (l.foldl (markObj st) s)
    ∧ l.foldl (markObj st) s = { s with hub := (l.foldl (markObj st) s).hub }
    ∧ ∀ o, o ∈ l ∨ (bar s o).st = st → (bar (l.foldl (markObj st) s) o).st = st := by
  induction l generalizing s with
  | nil => exact ⟨.refl hs x, rfl, fun o h => h.resolve_left List.not_mem_nil⟩
  | cons b l ih =>
    have hstep : Clears x s (markObj st s b) := clears_setBar hs x b _
    obtain ⟨hclears, hframe, hmarked⟩ := ih hstep.canon
    refine ⟨hstep.trans hclears, hframe, fun o ho => hmarked o ?_⟩
    by_cases hob : o = b
    · rw [hob, markObj, bar_setBar_self hs]
      exact .inr rfl
    · rw [markObj, bar_setBar_other hs _ _ hob]
      exact ho.imp_left fun hm => (List.mem_cons.mp hm).resolve_left hob

/-- A channel that is OUT and keeps the state it held. -/
def OutOf (s : State) (c : Nat) (st : ChSt) : Prop := (chan s c).st = .out ∧ (chan s c).pre = st

theorem chan_chanOut {s : State} (hs : Canon s) (c d : Nat) : chan (chanOut s c) d =
    if d = c ∧ (chan s c).st ≠ .out then { chan s c with st := .out, pre := (chan s c).st } else chan s d := by
  unfold chanOut
  dsimp only
  by_cases hst : (chan s c).st = .out
  · simp [hst]
  · rw [if_neg (by simpa using hst)]
    by_cases hd : d = c
    · rw [if_pos ⟨hd, hst⟩, hd, chan_setChan_self hs]
    · rw [if_neg fun h => hd h.1, chan_setChan_other hs _ _ hd]

theorem outOf_foldl {d : Nat} {st : ChSt} (l : List Nat) {s : State} (hs : Canon s) (h : OutOf s d st ∨ d ∈ l ∧ (chan s d).st = st ∧ st ≠ .out) :
    OutOf (l.foldl chanOut s) d st := by
  induction l generalizing s with
  | nil => exact h.resolve_right fun h => List.not_mem_nil h.1
  | cons b l ih =>
    have hstep := chan_chanOut hs b d
    refine ih (chanOut_canon s b hs) ?_
    rcases h with ⟨hst, hpre⟩ | ⟨hmem, hst, hne⟩
    · left
      rw [if_neg fun hn => hn.2 (hn.1 ▸ hst)] at hstep
      exact ⟨by rw [hstep, hst], by rw [hstep, hpre]⟩
    · by_cases hb : d = b
      · left
        subst hb
        rw [if_pos ⟨rfl, hst ▸ hne⟩] at hstep
        exact ⟨by rw [hstep], by rw [hstep, hst]⟩
      · right
        rw [if_neg fun hn => hb hn.1] at hstep
        exact ⟨(List.mem_cons.mp hmem).resolve_left hb, by rw [hstep, hst], hne⟩

theorem chanOut_frame (s : State) (c : Nat) : chanOut s c = { s with chans := (chanOut s c).chans } := by
  unfold chanOut
  dsimp only
  split <;> rfl

theorem foldl_chanOut_frame (l : List Nat) (s : State) : l.foldl chanOut s = { s with chans := (l.foldl chanOut s).chans } := by
  induction l generalizing s with
  | nil => rfl
  | cons c l ih =>
    rw [List.foldl_cons, ih]
    rw [chanOut_frame s c]

theorem ctxOut_frame (s : State) (x : Nat) : ctxOut s x = { s with chans := (ctxOut s x).chans, ctxs := (ctxOut s x).ctxs } := by
  unfold ctxOut
  rw [foldl_chanOut_frame]
  rfl

theorem ctxOut_result {s : State} (hs : Canon s) (x : Nat) : ctx (ctxOut s x) x = { ctx s x with st := .out }
    ∧ ∀ d ∈ ctxChans s x, (chan s d).st ≠ .out → OutOf (ctxOut s x) d (chan s d).st := by
  have hcanon : Canon ((ctxChans s x).foldl chanOut s) := canon_foldl chanOut chanOut_canon _ s hs
  have hctx : ctx ((ctxChans s x).foldl chanOut s) x = ctx s x := by rw [foldl_chanOut_frame]; rfl
  refine ⟨?_, fun d hd hne => outOf_foldl (ctxChans s x) hs (.inr ⟨hd, rfl, hne⟩)⟩
  rw [ctxOut, ctx_setCtx_self hcanon, hctx]

/-! ### Pending bits and the record -/

theorem out_setPorts (s : State) (p : Ports) : ∀ m ∈ s.out, m ∈ (setPorts s p).out := by
  have hfold : ∀ (g : State → Nat → State), (∀ v n, ∀ m ∈ v.out, m ∈ (g v n).out) → ∀ (l : List Nat) (u : State), ∀ m ∈ u.out, m ∈ (l.foldl g u).out := by
    intro g hg l
    induction l with
    | nil => exact fun _ _ => id
    | cons n l ih => exact fun u m hm => ih (g u n) m (hg u n m hm)
  unfold setPorts
  extract_lets old t
  refine hfold _ (fun v n m hm => ?_) _ t
  split
  · exact List.mem_append_left _ hm
  · exact hm

theorem chan_pendCtx (s : State) (x d : Nat) : chan (pendCtx s x) d = chan s d := chan_of_chans (by rw [pendCtx, setPorts_frame]) d

/-- CONTEXT_OUT for a context that is to be saved. -/
theorem contextOut_result {s : State} {c : Cx} (hs : Canon s) (hop : operating s = true) (hst : (ctx s c.val).st = .switching)
    (hstill : ctxStill s c.val = true) (hkill : (ctx s c.val).killing = false) (hrest : (ctx s c.val).restoring = false)
    (hgate : areaWaits s c.val = false) :
    ∃ t, exec (.contextOut c) s = .next t ∧ (ctx t c.val).st = .out ∧ (ctx t c.val).cause = (ctx s c.val).cause
      ∧ (∃ bs, Out.save c.val (4096 * (ctx s c.val).save.toNat) bs ∈ t.out) ∧ t.ports.ctxPend = putBit s.ports.ctxPend c.val true
      ∧ (∀ d ∈ ctxChans s c.val, (chan s d).st ≠ .out → (chan t d).st = .out ∧ (chan t d).pre = (chan s d).st)
      ∧ ∀ o ∈ privObjs s c.val, (bar t o).st = .saved := by
  have hexec : exec (.contextOut c) s = .next (switchOut s c.val) := by
    simp [exec, execContextOut, hop, hst, hstill, hkill, hrest, hgate]
  have hclear := clears_cleared hs (show (ctx s c.val).st ≠ .run by rw [hst]; exact fun h => CtxSt.noConfusion h)
  obtain ⟨hsent, hsave⟩ := areaSent_result hclear.canon c.val
  rw [areaOf, hclear.ctx] at hsave
  have hbefore := hclear.trans hsent
  rw [hexec, switchOut_eq]
  generalize areaSent (cleared s c.val) c.val = u at hsent hsave hbefore
  obtain ⟨hsaved, hmarks, hobjs⟩ := foldl_markObj .saved c.val (privObjs u c.val) hbefore.canon
  have hall := hbefore.trans hsaved
  have hout : ((privObjs u c.val).foldl (markObj .saved) u).out = u.out := by rw [hmarks]
  generalize (privObjs u c.val).foldl (markObj .saved) u = v at hsaved hout hobjs hall
  obtain ⟨hctx, hchans⟩ := ctxOut_result hall.canon c.val
  have hframe := ctxOut_frame v c.val
  have hlog := onlyAon_ctxLog (ctxOut v c.val) 0x0400 c.val
  generalize ctxOut v c.val = w at hctx hchans hframe hlog
  have hz : (ctxLog w 0x0400 c.val).out = v.out ∧ (ctxLog w 0x0400 c.val).ports = v.ports ∧ (ctxLog w 0x0400 c.val).hub = v.hub
      ∧ (ctxLog w 0x0400 c.val).chans = w.chans ∧ (ctxLog w 0x0400 c.val).ctxs = w.ctxs := by
    rw [hlog, hframe]
    exact ⟨rfl, rfl, rfl, rfl, rfl⟩
  generalize ctxLog w 0x0400 c.val = z at hz
  obtain ⟨hzout, hzports, hzhub, hzchans, hzctxs⟩ := hz
  have hpend : pendCtx z c.val = { z with ports := (pendCtx z c.val).ports, path := (pendCtx z c.val).path, out := (pendCtx z c.val).out } :=
    setPorts_frame _ _
  have hfinal : ctx (pendCtx z c.val) c.val = { ctx s c.val with st := .out } := by
    rw [hpend, ← hall.ctx, ← hctx]
    simp only [ctx, hzctxs]
  refine ⟨_, rfl, by rw [hfinal], by rw [hfinal], ⟨_, out_setPorts z _ _ (by rw [hzout, hout]; exact hsave)⟩, ?_, fun d hd hne => ?_, fun o ho => ?_⟩
  · rw [pendCtx, ctxPend_setPorts, hzports, hall.pend]
  · have hd' : d ∈ ctxChans v c.val := by rw [ctxChans_congr hall.img]; exact hd
    have hsame : (chan v d).st = (chan s d).st := st_husk (hall.husk d)
    have hd := hchans d hd' (by rw [hsame]; exact hne)
    rw [hsame] at hd
    rw [chan_pendCtx, chan_of_chans hzchans]
    exact hd
  · have hbar : bar (pendCtx z c.val) o = bar v o := by
      rw [hpend]
      simp only [bar, hzhub]
    rw [hbar]
    refine hobjs o (.inl ?_)
    have hpriv : privObjs u c.val = privObjs s c.val := ownObjs_congr hbefore.ctx 0 16
    rw [hpriv]
    exact ho

end Sys2Proof.Proofs
end

section
/-! CONTEXT_RESTORED (R78, R79, R283, R294), and what MZ_CTX_CTRL and the switch of contexts do in all. -/

namespace Sys2Proof.Proofs

open Sys2Proof Sys2Proof.Machine Sys2Proof.Laws

/-! ### The save area as it is checked -/

theorem spares_holeEvent (s : State) (off input : Nat) : Spares s (holeEvent s off input) := spares_raise _ _ _ _ _

theorem spares_foldl_fst {α β : Type} {g : State × β → α → State × β} (h : ∀ r a, Spares r.1 (g r a).1) (l : List α) (r : State × β) :
    Spares r.1 (l.foldl g r).1 := by
  induction l generalizing r with
  | nil => exact .refl r.1
  | cons a l ih => exact (h r a).trans (ih _)

theorem spares_areaProbe (s : State) (x : Nat) : Spares s (areaProbe s x).1 := by
  unfold areaProbe
  extract_lets pa ns
  refine spares_foldl_fst (fun r i => ?_) _ (s, true)
  split
  · split
    · exact spares_notice _ _ _ _ _ _
    · split
      · exact spares_holeEvent _ _ _
      · exact spares_stageProbe _ _ _ _
  · exact .refl r.1

theorem spares_areaChecked (s : State) (x : Nat) (area : List Byte) : Spares s (areaChecked s x area).1 := by
  have hown : Spares s { s with ports := { s.ports with own := s.ports.own.filter fun e => !(e.kind == .save x && e.op == 0) } } :=
    .of_aon (fun hs => { hs with }) rfl rfl rfl
  refine hown.trans ?_
  unfold areaChecked areaLoad
  dsimp only
  split
  · exact .refl _
  · exact spares_areaProbe _ x
  · exact .refl _

/-! ### The privileged objects come back (R294) -/

/-- An object's record as the save area gives it. -/
def recordBar (st : BarSt) (bs : List Byte) (v : Nat) : Bar :=
  let w : W64 := BitVec.ofNat 64 (leAt bs (256 + 16 * v) 8)
  { st := st, epoch := BitVec.ofNat 2 (fld w 3 2), count := BitVec.ofNat 14 (fld w 5 14), need := BitVec.ofNat 14 (fld w 19 14)
    home := some (fld w 40 8), lo := BitVec.ofNat 8 (fld w 48 8), lenm1 := BitVec.ofNat 8 (fld w 56 8) }

theorem restoreObj_frame (s : State) (o : Nat) (bs : List Byte) (v : Nat) :
    restoreObj s o bs v = { s with hub := (restoreObj s o bs v).hub, fresh := (restoreObj s o bs v).fresh } := rfl

theorem bar_restoreObj_self {s : State} (hs : Canon s) (o : Nat) (bs : List Byte) (v : Nat) : ∃ st, bar (restoreObj s o bs v) o = recordBar st bs v :=
  ⟨_, bar_setBar_self hs o _⟩

theorem bar_restoreObj_other {s : State} (hs : Canon s) {o d : Nat} (h : d ≠ o) (bs : List Byte) (v : Nat) :
    bar (restoreObj s o bs v) d = bar s d := bar_setBar_other hs o _ h

/-- Objects are restored in turn, each from its place in the area. -/
def restoreEach (bs : List Byte) (s : State) (e : Nat × Nat) : State := restoreObj s e.2 bs e.1

theorem restoreEach_frame (bs : List Byte) (l : List (Nat × Nat)) (s : State) : l.foldl (restoreEach bs) s =
    { s with hub := (l.foldl (restoreEach bs) s).hub, fresh := (l.foldl (restoreEach bs) s).fresh } := by
  induction l generalizing s with
  | nil => rfl
  | cons e l ih => rw [List.foldl_cons, ih, restoreEach, restoreObj_frame]

theorem restoreEach_canon (bs : List Byte) (s : State) (e : Nat × Nat) (hs : Canon s) : Canon (restoreEach bs s e) := restoreObj_canon _ _ _ _ hs

theorem bar_restoreEach_other (bs : List Byte) {o : Nat} {l : List (Nat × Nat)} (ho : o ∉ l.map Prod.snd) {s : State} (hs : Canon s) :
    bar (l.foldl (restoreEach bs) s) o = bar s o := by
  induction l generalizing s with
  | nil => rfl
  | cons e l ih =>
    rw [List.map_cons, List.mem_cons, not_or] at ho
    exact (ih ho.2 (restoreEach_canon bs s e hs)).trans (bar_restoreObj_other hs ho.1 bs e.1)

theorem bar_restoreEach (bs : List Byte) {l : List (Nat × Nat)} (hl : (l.map Prod.snd).Nodup) {v o : Nat} (hv : (v, o) ∈ l) {s : State}
    (hs : Canon s) : ∃ st, bar (l.foldl (restoreEach bs) s) o = recordBar st bs v := by
  induction l generalizing s with
  | nil => exact absurd hv List.not_mem_nil
  | cons e l ih =>
    rw [List.map_cons, List.nodup_cons] at hl
    have hcanon := restoreEach_canon bs s e hs
    cases List.mem_cons.mp hv with
    | inl he =>
      subst he
      rw [List.foldl_cons, bar_restoreEach_other bs hl.1 hcanon]
      exact bar_restoreObj_self hs o bs v
    | inr hm => exact ih hl.2 hm hcanon

theorem nodup_privObjs (s : State) (x : Nat) : (privObjs s x).Nodup := by
  unfold privObjs ownObjs
  dsimp only
  split
  · exact (List.nodup_range.filter _).map fun a b h => Nat.add_left_cancel h
  · exact List.nodup_nil

theorem restoreObjs_some (s : State) (x : Nat) (bs : List Byte) :
    restoreObjs s x (some bs) = ((List.range (privObjs s x).length).zip (privObjs s x)).foldl (restoreEach bs) s := rfl

theorem restoreObjs_none (s : State) (x : Nat) : restoreObjs s x none = (privObjs s x).foldl (markObj .poisoned) s := rfl

theorem bar_restoreObjs {s : State} (hs : Canon s) (x : Nat) (bs : List Byte) {v o : Nat} (hv : (privObjs s x)[v]? = some o) :
    ∃ st, bar (restoreObjs s x (some bs)) o = recordBar st bs v := by
  have hlen : (privObjs s x).length ≤ (List.range (privObjs s x).length).length := by rw [List.length_range]
  rw [restoreObjs_some]
  refine bar_restoreEach bs (by rw [List.map_snd_zip hlen]; exact nodup_privObjs s x) ?_ hs
  have hlt : v < (privObjs s x).length := (List.getElem?_eq_some_iff.mp hv).1
  exact List.mem_of_getElem? (List.getElem?_zip_eq_some.mpr ⟨by rw [List.getElem?_range hlt], hv⟩)

/-! ### Waiters of a context that runs again (R66, R173, R283) -/

/-- No stream waits on a barrier. -/
def NoBarrier (s : State) : Prop := ∀ d x o tag dep, stream s d = some x → x.wait ≠ .barrier o tag dep

theorem NoBarrier.congr {s t : State} (h : NoBarrier s) (hstream : ∀ d, stream t d = stream s d) : NoBarrier t := by
  intro d x o tag dep hx
  exact h d x o tag dep ((hstream d).symm.trans hx)

theorem stream_setChan_keep {s : State} (hs : Canon s) (c : Nat) {k : Chan} (h : k.stream = stream s c) (d : Nat) :
    stream (setChan s c k) d = stream s d := by
  by_cases hd : d = c
  · rw [hd, stream, chan_setChan_self hs, h]
  · rw [stream, chan_setChan_other hs _ _ hd, stream]

theorem stream_chanBack {s : State} (hs : Canon s) (c d : Nat) : stream (chanBack s c) d = stream s d := by
  by_cases hout : (chan s c).st = .out
  · cases hp : ((chan s c).pre == .idle && (chan s c).pending) with
    | true =>
      have hset := setChan_canon s c { chan s c with st := .idle, pending := false } hs
      have hback : ∀ d, stream (backIdle s c) d = stream s d := fun d =>
        (stream_ringDoorbell hset c d).trans (stream_setChan_keep hs c (k := { chan s c with st := .idle, pending := false }) rfl d)
      rw [chanBack_pending hout hp]
      exact (stream_setChan_keep (beside_backIdle hs c).canon c (k := { chan (backIdle s c) c with stamp := (chan s c).pstamp }) rfl d).trans (hback d)
    | false =>
      have hset := setChan_canon s c { chan s c with st := (chan s c).pre } hs
      rw [chanBack_rests hout hp, (pumps_pumpFetch _ c).stream hset]
      exact stream_setChan_keep hs c (k := { chan s c with st := (chan s c).pre }) rfl d
  · rw [chanBack_here hout]

theorem stream_foldl_chanBack (l : List Nat) {s : State} (hs : Canon s) (d : Nat) : stream (l.foldl chanBack s) d = stream s d := by
  induction l generalizing s with
  | nil => rfl
  | cons c l ih => exact (ih (chanBack_canon s c hs)).trans (stream_chanBack hs c d)

theorem noBarrier_finish {s : State} (hs : Canon s) (h : NoBarrier s) (c code detail : Nat) : NoBarrier (finish s c code detail) := by
  intro d x o tag dep hx
  by_cases hd : d = c
  · subst hd
    cases hy : stream s d with
    | none =>
      rw [finish, modStream, hy] at hx
      rw [hy] at hx
      exact absurd hx (Option.some_ne_none x).symm
    | some y =>
      rw [finish, stream, chan_modStream_self hy] at hx
      rw [← Option.some.inj hx]
      exact fun h => Wait.noConfusion h
  · rw [finish, stream, chan_modStream_other hs hd] at hx
    exact h d x o tag dep hx

/-- Of a resumed context whose streams wait on no barrier, a waiter is left, or has found its condition met. -/
theorem waitAgain_cases {s : State} (h : NoBarrier s) (c : Nat) : waitAgain s c = s ∨ waitAgain s c = finish s c cOK 0 := by
  unfold waitAgain
  split
  · exact .inl rfl
  · next x hx =>
    split
    · next o tag dep hw => exact absurd hw (h c x o tag dep hx)
    · split
      · exact .inr rfl
      · exact .inl rfl
    · exact .inl rfl

theorem beside_foldl_waitAgain (l : List Nat) {s : State} (hs : Canon s) (h : NoBarrier s) : Beside NoChan s (l.foldl waitAgain s) := by
  induction l generalizing s with
  | nil => exact .refl hs _
  | cons c l ih =>
    rw [List.foldl_cons]
    cases waitAgain_cases h c with
    | inl hsame =>
      rw [hsame]
      exact ih hs h
    | inr hfin =>
      have hstep : Beside NoChan s (finish s c cOK 0) := (beside_modStream hs c _).none
      rw [hfin]
      exact hstep.trans (ih hstep.canon (noBarrier_finish hs h c cOK 0))

theorem beside_finish {s : State} (hs : Canon s) (c code detail : Nat) : Beside NoChan s (finish s c code detail) := (beside_modStream hs c _).none

theorem beside_worldRefuse {s : State} (hs : Canon s) (c addr : Nat) : Beside NoChan s (worldRefuse s c addr) :=
  have h := (spares_notice s 5 2 c addr 0).beside hs NoChan
  h.trans (beside_finish h.canon c cWORLD (anyDetail s))

theorem beside_hqSettle (n : Nat) {s : State} (hs : Canon s) (q : Nat) : Beside NoChan s (hqSettle n s q) := by
  induction n generalizing s with
  | zero => exact .refl hs _
  | succ n ih =>
    have hset : ∀ k : Hq, Beside NoChan s (setHq s q k) := fun k => (spares_setHq s q k).beside hs _
    have hgive : ∀ (k : Hq) (c : Nat) (f : Stream → Stream), Beside NoChan s (modStream (setHq s q k) c f) := fun k c f =>
      (hset k).trans (beside_modStream (hset k).canon c f).none
    unfold hqSettle
    extract_lets x
    split
    · next c _ _ =>
      split
      · exact (beside_worldRefuse hs c q).trans (ih (beside_worldRefuse hs c q).canon)
      · exact (hgive _ c _).trans (ih (hgive _ c _).canon)
    · split
      · split
        · next c _ =>
          split
          · exact (beside_worldRefuse hs c q).trans (ih (beside_worldRefuse hs c q).canon)
          · extract_lets hd
            have hfin := (hset { x with q := x.q ++ [hd] }).trans (beside_finish (hset _).canon c cOK 0)
            exact hfin.trans (ih hfin.canon)
        · exact .refl hs _
      · exact .refl hs _

theorem beside_need {s : State} (hs : Canon s) (D : Nat → Prop) (d : Nat) : Beside D s (need s d) :=
  ((onlyClk_need s d).spares (need_canon s d)).beside hs D

theorem beside_mbGo {s : State} (hs : Canon s) (m : Nat) : Beside NoChan s (mbGo s m) := by
  unfold mbGo
  extract_lets b u k
  have hu : Beside NoChan s u := (spares_setMb s m _).beside hs _
  refine hu.trans ?_
  split
  · have hring : Beside NoChan u (ringDoorbell u k.target) := (beside_ringDoorbell hu.canon k.target).none
    exact hring.trans (beside_need hring.canon _ _)
  · split
    · exact (spares_pendSrc u 0).beside hu.canon _
    · split
      · exact beside_need hu.canon _ _
      · exact .refl hu.canon _

theorem beside_mbFill {s : State} (hs : Canon s) (c : Nat) (x : Stream) (words : List W32) : Beside NoChan s (mbFill s c x words) := by
  unfold mbFill
  extract_lets m len b ws u
  have hset := (spares_setMb s m { b with words := ws, len := len }).beside hs NoChan
  have hu : Beside NoChan s u := hset.trans (beside_finish hset.canon c cOK 0)
  split
  · exact hu.trans (beside_mbGo hu.canon m)
  · exact hu

theorem beside_mbServe (n : Nat) {s : State} (hs : Canon s) (m : Nat) : Beside NoChan s (mbServe n s m) := by
  induction n generalizing s with
  | zero => exact .refl hs _
  | succ n ih =>
    unfold mbServe
    split
    · exact .refl hs _
    · split
      · exact .refl hs _
      · split
        · exact (beside_mbFill hs _ _ _).trans (ih (beside_mbFill hs _ _ _).canon)
        · exact .refl hs _

theorem beside_serveAgain {s : State} (hs : Canon s) : Beside NoChan s (serveAgain s) := by
  have hqs := beside_foldl (fun s q hs => beside_hqSettle 1024 hs q) (tkeys s.hub.hqs) hs
  exact hqs.trans (beside_foldl (fun s m hs => beside_mbServe 512 hs m) (List.range 32) hqs.canon)

/-! ### CONTEXT_RESTORED -/

/-- A context whose area is good runs again. -/
def restored (s : State) (x : Nat) (bs : List Byte) : State := ctxRun (restoreObjs s x (some bs)) x

/-- The objects of a context whose area is bad, behind the event of the save-area source. -/
def areaBad (s : State) (x : Nat) : State := restoreObjs (raise s 0x0F x 0 (0x3C + Config.pick s.fresh % 4)) x none

theorem exec_restored_idle {s : State} {c : Cx} {area : List Byte} (h : operating s = false ∨ areaWaits s c.val = true) :
    exec (.contextRestored c area) s = .next s := by
  cases h with
  | inl h => simp [exec, execContextRestored, h]
  | inr h => simp [exec, execContextRestored, h]

section
variable {s : State} {c : Cx} {area : List Byte} (hop : operating s = true) (hst : (ctx s c.val).st = .resuming)
  (hrest : (ctx s c.val).restoring = false) (hgate : areaWaits s c.val = false)
include hop hst hrest hgate

theorem exec_restored_good {bs : List Byte} (hbs : (areaChecked s c.val area).2 = some bs) : exec (.contextRestored c area) s =
    .next (serveAgain ((ctxChans (restored (areaChecked s c.val area).1 c.val bs) c.val).foldl waitAgain
      (restored (areaChecked s c.val area).1 c.val bs))) := by
  simp [exec, execContextRestored, hop, hst, hrest, hgate, hbs, restored]

theorem exec_restored_bad (hbs : (areaChecked s c.val area).2 = none) : exec (.contextRestored c area) s =
    .next (ctxEnd (areaBad (areaChecked s c.val area).1 c.val) c.val cECC 2) := by
  simp [exec, execContextRestored, hop, hst, hrest, hgate, hbs, areaBad]

end

/-- A good area: the context runs, and its objects are those of the area. -/
theorem restored_result {s : State} (hs : Canon s) (x : Nat) (bs : List Byte) (hno : NoBarrier s) :
    Canon (restored s x bs) ∧ ctx (restored s x bs) x = { ctx s x with st := .run, cause := 0, killing := false } ∧ NoBarrier (restored s x bs)
      ∧ ∀ v o, (privObjs s x)[v]? = some o → ∃ st, bar (restored s x bs) o = recordBar st bs v := by
  have hobjs := restoreObjs_canon s x (some bs) hs
  have hframe := restoreEach_frame bs ((List.range (privObjs s x).length).zip (privObjs s x)) s
  have hbar := fun v o h => bar_restoreObjs hs x bs (v := v) (o := o) h
  rw [← restoreObjs_some] at hframe
  unfold restored
  generalize restoreObjs s x (some bs) = u at hobjs hframe hbar
  have hrun : Canon (runs u x) := setCtx_canon _ _ _ hobjs
  have hback := beside_foldl_chanBack (ctxChans u x) hrun
  have hstream := fun d => stream_foldl_chanBack (ctxChans u x) hrun d
  have hctx : ctx u x = ctx s x := by rw [hframe]; rfl
  have hself : ctx (runs u x) x = { ctx u x with st := .run, cause := 0, killing := false } := ctx_setCtx_self hobjs x _
  have hstreams : ∀ d, stream (runs u x) d = stream s d := fun d => by rw [runs, hframe]; rfl
  rw [ctxRun_eq]
  refine ⟨hback.canon, ?_, hno.congr fun d => (hstream d).trans (hstreams d), fun v o hv => ?_⟩
  · rw [ctx_of_kept hback.kept, hself, hctx]
  · rw [bar_of_bars (kept_bars hback.kept)]
    exact hbar v o hv

/-- A bad area: the event of the save-area source, and the privileged objects poisoned. -/
theorem areaBad_result {s : State} (hs : Canon s) (x : Nat) : Canon (areaBad s x) ∧ ctx (areaBad s x) x = ctx s x
    ∧ (areaBad s x).chans = s.chans ∧ (areaBad s x).boot = s.boot ∧ (areaBad s x).img = s.img
    ∧ (∃ q ∈ (areaBad s x).aon.fc.evq, q.ev.src = 0x0F) ∧ ∀ o ∈ privObjs s x, (bar (areaBad s x) o).st = .poisoned := by
  have hraise := spares_raise s 0x0F x 0 (0x3C + Config.pick s.fresh % 4)
  obtain ⟨q, hq, hev⟩ := crosses_raise s 0x0F x 0 (0x3C + Config.pick s.fresh % 4)
  unfold areaBad
  generalize raise s 0x0F x 0 (0x3C + Config.pick s.fresh % 4) = u at hraise hq
  have hctx : ctx u x = ctx s x := ctx_of_kept hraise.kept x
  obtain ⟨hclears, hframe, hpoison⟩ := foldl_markObj .poisoned x (privObjs u x) (hraise.canon hs)
  have hpriv : privObjs u x = privObjs s x := ownObjs_congr hctx 0 16
  have hboot : ((privObjs u x).foldl (markObj .poisoned) u).boot = s.boot := by
    rw [hframe]
    exact kept_boot (s := s) (t := u) hraise.kept
  have himg := hclears.img.trans (kept_img hraise.kept)
  rw [restoreObjs_none]
  refine ⟨hclears.canon, hclears.ctx.trans hctx, by rw [hframe]; exact hraise.chans, hboot, himg, ⟨q, ?_, by rw [hev]; rfl⟩, fun o ho => hpoison o (.inl (by rw [hpriv]; exact ho))⟩
  rw [hframe]
  show q ∈ u.aon.fc.evq
  rw [hq]
  exact List.mem_append_right _ (List.mem_singleton_self q)

theorem Ends.congr {s t : State} {c : Nat} (h : Ends s c) (hchans : t.chans = s.chans) (hboot : t.boot = s.boot) : Ends t c := by
  have hchan := chan_of_chans hchans c
  refine ⟨by rw [stream_of_chans hchans]; exact h.busy, by rw [hchan]; exact h.held, by rw [hchan]; exact h.room, ?_⟩
  rw [hchan, locOf_congr hboot]
  exact h.ext

theorem contextRestored_result {s : State} {c : Cx} {area : List Byte} (hs : Canon s) (hop : operating s = true)
    (hst : (ctx s c.val).st = .resuming) (hrest : (ctx s c.val).restoring = false) (hgate : areaWaits s c.val = false) (hno : NoBarrier s) :
    ∃ t, exec (.contextRestored c area) s = .next t ∧ (ctx t c.val).st = .run ∧ (ctx t c.val).cause = 0
      ∧ (∀ bs v o, (areaChecked s c.val area).2 = some bs → (privObjs s c.val)[v]? = some o → ∃ st, bar t o = recordBar st bs v)
      ∧ ((areaChecked s c.val area).2 = none → (∃ q ∈ t.aon.fc.evq, q.ev.src = 0x0F) ∧ (∀ o ∈ privObjs s c.val, (bar t o).st = .poisoned)
          ∧ ∀ d ∈ ctxChans s c.val, Ends s d → Halts s t d cECC) := by
  have hspares := spares_areaChecked s c.val area
  have hctx : ctx (areaChecked s c.val area).1 c.val = ctx s c.val := ctx_of_kept hspares.kept c.val
  have hpriv : privObjs (areaChecked s c.val area).1 c.val = privObjs s c.val := ownObjs_congr hctx 0 16
  cases hbs : (areaChecked s c.val area).2 with
  | some bs =>
    rw [exec_restored_good hop hst hrest hgate hbs]
    generalize (areaChecked s c.val area).1 = u at hspares hctx hpriv
    obtain ⟨hcanon, hrun, hwaits, hbar⟩ := restored_result (hspares.canon hs) c.val bs (hno.congr fun d => stream_of_chans hspares.chans d)
    generalize restored u c.val bs = v at hcanon hrun hwaits hbar
    have hwait := beside_foldl_waitAgain (ctxChans v c.val) hcanon hwaits
    have hall := hwait.trans (beside_serveAgain hwait.canon)
    refine ⟨_, rfl, by rw [ctx_of_kept hall.kept, hrun], by rw [ctx_of_kept hall.kept, hrun], fun bs' v' o hbs' hv => ?_, fun h => absurd h (Option.some_ne_none bs)⟩
    rw [bar_of_bars (kept_bars hall.kept), ← Option.some.inj hbs']
    exact hbar v' o (by rw [hpriv]; exact hv)
  | none =>
    rw [exec_restored_bad hop hst hrest hgate hbs]
    generalize (areaChecked s c.val area).1 = u at hspares hctx hpriv
    obtain ⟨hcanon, -, hchans, hboot, himg, ⟨q, hq, hsrc⟩, hpoison⟩ := areaBad_result (hspares.canon hs) c.val
    generalize areaBad u c.val = v at hcanon hchans hboot himg hq hpoison
    have hends := ctxEnds_ctxEnd hcanon c.val (show 2 ≤ cECC by decide) 2
    have hsame : v.chans = s.chans := hchans.trans hspares.chans
    refine ⟨_, rfl, by rw [hends.ctx], by rw [hends.ctx], fun bs v o h => absurd h.symm (Option.some_ne_none bs),
      fun _ => ⟨⟨q, hends.evq q hq, hsrc⟩, fun o ho => ?_, fun d hd he => ?_⟩⟩
    · rw [bar_of_bars hends.bars]
      exact hpoison o (by rw [hpriv]; exact ho)
    · have hd' : d ∈ ctxChans v c.val := by rw [ctxChans_congr (himg.trans (kept_img hspares.kept))]; exact hd
      exact (hends.halts d hd' (he.congr hsame (hboot.trans (kept_boot hspares.kept)))).of_husk (by rw [chan_of_chans hsame])

/-! ### The obligation -/

/-- Settles O41, by `beside_ringDoorbell`, `ctxEnds_ctxEnd`, `contextOut_result` and `contextRestored_result`. -/
theorem contextsSwitch : Obligations.ContextsSwitch := by
  unfold Obligations.ContextsSwitch
  refine ⟨fun s c ns v hs h => ⟨fun h1 h2 h3 => ⟨fun hst => ?_, fun hst => ?_⟩, fun h0 h2 h3 => ⟨fun hst => ?_, fun hst => ?_⟩,
    fun h0 h1 h3 hst => ?_, fun hst => ?_, fun hst hstill => ?_⟩,
    fun s c hs hop hst hstill hkill hrest hgate => contextOut_result hs hop hst hstill hkill hrest hgate,
    fun s c area h => exec_restored_idle h, fun s c area hs hop hst hrest hgate hno => ?_⟩
  · rw [suspend_result h h1 h2 h3, if_pos hst, ctxSwitch_of_run (by simpa using hst)]
  · obtain ⟨t, ht, hframe, hcross⟩ := ctxRefused s c.val
    exact ⟨t, by rw [suspend_result h h1 h2 h3, if_neg hst, ht], hframe, hcross⟩
  · obtain ⟨hctx, hframe⟩ := doResume_result hs c.val
    exact ⟨doResume s c.val, by rw [resume_result h h0 h2 h3, if_pos hst], hctx, hframe⟩
  · obtain ⟨t, ht, hframe, hcross⟩ := ctxRefused s c.val
    exact ⟨t, by rw [resume_result h h0 h2 h3, if_neg hst, ht], hframe, hcross⟩
  · obtain ⟨hrun, hcause, hrestoring, ⟨o, ho⟩, hback⟩ := doAbort_result hs c.val
    exact ⟨doAbort s c.val, o, abort_result h h0 h1 h3 hst, hrun, hcause, hrestoring, ho, hback⟩
  · obtain ⟨hrun, hkilling, hpoison⟩ := killed_doKill hs hst
    exact ⟨doKill s c.val, kill_result v h, hrun, hkilling, hpoison⟩
  · obtain ⟨hctx, hchans, hout⟩ := doKill_waits hs hst hstill
    exact ⟨doKill s c.val, kill_result v h, hctx, hchans, hout⟩
  · obtain ⟨t, hexec, hrun, hcause, hgood, hbad⟩ := contextRestored_result (area := area) hs hop hst hrest hgate hno
    refine ⟨t, hexec, hrun, hcause, fun bs v o hbs hv => ?_, fun hbs => ?_⟩
    · obtain ⟨st, hbar⟩ := hgood bs v o hbs hv
      rw [barHome, hbar]
      exact ⟨rfl, rfl, rfl, rfl, rfl, rfl⟩
    · obtain ⟨hev, hpoison, hhalts⟩ := hbad hbs
      refine ⟨hev, hpoison, fun d hd hbusy hst hpre hroom hext => ?_⟩
      have hends : Ends s d := ⟨Option.isSome_iff_ne_none.mpr hbusy, by simp [heldFull, hst, hpre], hroom, hext⟩
      obtain ⟨hstate, hcode, hseq, -⟩ := hhalts d hd hends
      exact ⟨hstate, hcode, hseq⟩

end Sys2Proof.Proofs
end
